-- ==== Sys2Proof/Word.lean ====
section
/-!
DEFINITION. The word types of the ZX4096 and their plainest arithmetic, and the record of a fabric message.
-/

namespace Sys2Proof

/-- A word is 64 bits (00 R5). -/
abbrev Word := BitVec 64

/-- A byte is 8 bits (00 R5). -/
abbrev Byte := BitVec 8

/-- A parcel is 16 bits (00 R5). -/
abbrev Parcel := BitVec 16

/-- The number of a scalar register, s0 to s31 (07 R97). -/
abbrev SReg := BitVec 5

/-- The number of a vector register, v0 to v31 (07 R105). -/
abbrev VReg := BitVec 5

/-- The number of a descriptor register, d0 to d7 (07 R109). -/
abbrev DReg := BitVec 3

/-- A line, or the contents of a vector register: 64 bytes (00 R5, 07 R105). -/
abbrev Line := BitVec 512

/-- A message of the Brodust fabric: one header flit and at most one data flit (30 R395, R396). -/
structure Msg where
  /-- Type code of R396. -/
  ty : BitVec 8
  /-- Source and destination endpoint. -/
  src : BitVec 8
  dst : BitVec 8
  /-- The lane (R201). -/
  lane : BitVec 4
  /-- World id, and session number (for a world-0 reward message, the destination context). -/
  world : BitVec 8
  session : Nat
  /-- The GCM nonce of R385. -/
  nonce : BitVec 96
  /-- Address, or key of a reward message. -/
  addr : Word
  /-- Reward header (R328), atomic operation, barrier group or error code. -/
  hdr : Word
  /-- Which request of the source a reply answers. -/
  tag : Nat
  /-- The data flit, and its byte mask for a write. -/
  data : Line
  mask : Word
  /-- The tag of a message that is sealed under a session key (R385, R387). -/
  mac : BitVec 128
deriving DecidableEq, Repr

end Sys2Proof
end

