-- ==== Sys2Proof/Config.lean ====
section
/-!
DEFINITION. What an installation or a part fixes, and the free values: constants without a body, of which nothing can be
proved but what holds for every value (log entries 7 to 10).
-/

namespace Sys2Proof

/-- Which result within one unit in the last place VTANH, VSIG and VEXP write (R257): 0 the neighbour toward zero, 1 the one away from
it, any other number the further value that the bound allows just above a power of two. The argument is the function's number and
the input's bits. -/
opaque Config.ulpChoice : Nat → Nat

/-- Decoded capacity in bytes of the device behind a CXL port (R405). -/
opaque Config.cxlCapacity : Nat → Nat

/-- Whether an endpoint of the pod is a package (R397). -/
opaque Config.isPackage : BitVec 8 → Bool

/-- What the n-th boot finds (R407): whether the firmware's signature verifies, its digest and its configuration; whether the fuses can be read, each HBM
stack trains, the links and ports can be brought up, the tables can be built; the links that train, the endpoint id, the CXL ports. DESIGN CHOICE: log
entry 7. -/
opaque Config.firmwareGood : Nat → Bool
opaque Config.firmwareDigest : Nat → Line
opaque Config.firmwareConfig : Nat → Line
opaque Config.fusesGood : Nat → Bool
opaque Config.hbmGood : Nat → Bool
opaque Config.portsGood : Nat → Bool
opaque Config.tablesGood : Nat → Bool
opaque Config.linksTrained : Nat → BitVec 24
opaque Config.endpoint : Nat → BitVec 8
opaque Config.cxlPresent : Nat → BitVec 4

/-- The configuration's settings of each host function: enabled, debug blocks, pod table, owning endpoint (R399). -/
opaque Config.fnEnabled : BitVec 6 → Bool
opaque Config.fnDbg : BitVec 6 → Bool
opaque Config.fnPod : BitVec 6 → Bool
opaque Config.fnHost : BitVec 6 → BitVec 8

/-- Stepping (R409). -/
opaque Config.stepping : BitVec 8

/-- SHAKE256 of a byte string, so many bytes of it, as a number, first byte least significant. DESIGN CHOICE: log entry 8. -/
opaque Config.shake256 : List Byte → Nat → Nat

/-- KMAC256 (SP 800-185): key, message, output bytes, customisation. -/
opaque Config.kmac256 : List Byte → List Byte → Nat → String → Nat

/-- AES-256-GCM: seal and open with a key, a nonce and a message; open gives none where the tag fails. -/
opaque Config.gcmSeal : BitVec 256 → BitVec 96 → List Byte → List Byte
opaque Config.gcmOpen : BitVec 256 → BitVec 96 → List Byte → Option (List Byte)

/-- AES-256-XTS of one 64-byte data unit: data key, tweak key, tweak (R385). -/
opaque Config.xtsEncrypt : BitVec 256 → BitVec 256 → BitVec 128 → Line → Line
opaque Config.xtsDecrypt : BitVec 256 → BitVec 256 → BitVec 128 → Line → Line

/-- ML-DSA-65 (FIPS 204): whether a token's signature over a message verifies against a key of a digest, and the signature over a message by the key that
KeyGen makes from a seed. -/
opaque Config.tokenVerifies : BitVec 256 → List Byte → Nat → Bool
opaque Config.sign : BitVec 256 → List Byte → List Byte

/-- ML-KEM-768 (FIPS 203): ciphertext and shared secret for an encapsulation key and a draw. -/
opaque Config.encaps : List Byte → Nat → List Byte × BitVec 256

/-- The device id, the device secret and the digest of the vendor's debug-token key that provisioning fuses (R389). -/
opaque Config.fusedId : Word
opaque Config.fusedSecret : BitVec 256
opaque Config.fusedTokenKey : BitVec 256

/-- Offsets of the local-store words that path M reads ahead when the grid is granted and when it ends an operation, by a count (R204); and whether a
fetched word is the value before a write that the core has not been told of, by a count and its place: 0 for the present value, k for the k-th of
the older ones (R213). DESIGN CHOICE: log entry 11. -/
opaque Config.readAhead : Nat → List Nat
opaque Config.oldWord : Nat → Nat → Nat

/-- The entropy source (R383, R392, R394): a fresh value for each draw. -/
opaque Config.entropy : Nat → BitVec 256

end Sys2Proof
end

