-- ==== Sys2Proof/Machine/Flags.lean ====
section
/-!
DEFINITION. Numbers: the formats of R62 to R68, exact values, rounding and its flags (R73 to R78), arithmetic (R87 to R91).
Flags stand in c.fflags order: SX, NV, DZ, OF, UF, NX from bit 5 down.
-/

namespace Sys2Proof.Machine

abbrev Flags := BitVec 6

def flNX : Flags := 1
def flUF : Flags := 2
def flOF : Flags := 4
def flDZ : Flags := 8
def flNV : Flags := 16
def flSX : Flags := 32

/-- Rounding modes (R73), SR with its random halfword. -/
inductive RM where
  | rne
  | rtz
  | rup
  | rdn
  | sr (rnd : Nat)
deriving DecidableEq, Repr

/-- The mode of a code 0 to 3 (R92). -/
def RM.of (c : Nat) : RM :=
  match c with
  | 0 => .rne
  | 1 => .rtz
  | 2 => .rup
  | _ => .rdn

/-- The mode of a rounding field, DYN taken from c.frm. -/
def RM.field (rm : BitVec 3) (frm : BitVec 2) : RM := if rm == 7 then RM.of frm.toNat else RM.of rm.toNat

/-- A floating format: mantissa bits, exponent bits, bias, and whether it has infinities and NaNs (2), one NaN (1), or
neither (0) (R64, R66). -/
structure FFmt where
  m : Nat
  e : Nat
  bias : Nat
  special : Nat
deriving DecidableEq, Repr

/-- The floating formats by code (R62, R64, R66). -/
def FFmt.of (f : BitVec 4) : FFmt :=
  match f.toNat with
  | 0 => ⟨3, 4, 7, 1⟩
  | 1 => ⟨2, 5, 15, 2⟩
  | 2 => ⟨2, 3, 3, 0⟩
  | 3 => ⟨3, 2, 1, 0⟩
  | 4 => ⟨1, 2, 1, 0⟩
  | 5 => ⟨7, 8, 127, 2⟩
  | 6 => ⟨10, 5, 15, 2⟩
  | _ => ⟨23, 8, 127, 2⟩

def fp32 : FFmt := ⟨23, 8, 127, 2⟩

/-- Whether a code names a floating format. -/
def fmtIsFloat (f : BitVec 4) : Bool := decide (f.toNat ≤ 7)

/-- Whether a code names a signed integer format. -/
def fmtSigned (f : BitVec 4) : Bool := f == 8 || f == 10 || f == 12 || f == 13

/-- Encoding of the largest finite magnitude (R64). -/
def FFmt.maxBits (F : FFmt) : Nat :=
  match F.special with
  | 2 => (2 ^ F.e - 1) * 2 ^ F.m - 1
  | 1 => 2 ^ (F.e + F.m) - 2
  | _ => 2 ^ (F.e + F.m) - 1

/-- Sign bit. -/
def FFmt.signBit (F : FFmt) (neg : Bool) : Nat := if neg then 2 ^ (F.e + F.m) else 0

/-- The canonical NaN (R66); formats with none never ask. -/
def FFmt.nan (F : FFmt) : Nat :=
  match F.special with
  | 2 => (2 ^ F.e - 1) * 2 ^ F.m + 2 ^ (F.m - 1)
  | _ => 2 ^ (F.e + F.m) - 1

/-- Infinity. -/
def FFmt.inf (F : FFmt) (neg : Bool) : Nat := F.signBit neg + (2 ^ F.e - 1) * 2 ^ F.m

/-- The exponent of the least quantum: 1 − bias − m. -/
def FFmt.qmin (F : FFmt) : Int := 1 - (F.bias : Int) - F.m

/-- A value: NaN, infinity, or (−1)^neg × mant × 2^exp. -/
inductive FV where
  | nan (signalling : Bool)
  | inf (neg : Bool)
  | fin (neg : Bool) (mant : Nat) (exp : Int)
deriving DecidableEq, Repr

/-- The value of an encoding (R64 to R66). -/
def FFmt.decode (F : FFmt) (b : Nat) : FV :=
  let neg := b / 2 ^ (F.e + F.m) % 2 == 1
  let E := b / 2 ^ F.m % 2 ^ F.e
  let M := b % 2 ^ F.m
  if F.special == 2 && E == 2 ^ F.e - 1 then
    if M = 0 then .inf neg else .nan (M < 2 ^ (F.m - 1))
  else if F.special == 1 && E == 2 ^ F.e - 1 && M == 2 ^ F.m - 1 then .nan false
  else if E = 0 then .fin neg M F.qmin
  else .fin neg (2 ^ F.m + M) (F.qmin + (E - 1 : Nat))

/-- An encoding and the flags raised. -/
structure FR where
  bits : Nat
  fl : Flags
deriving DecidableEq, Repr

/-- mant × 2^exp as a whole number of 2^q, rounded, and whether that is inexact (R73, R74). -/
def roundAt (mode : RM) (neg : Bool) (mant : Nat) (exp q : Int) : Nat × Bool :=
  if q ≤ exp then (mant * 2 ^ (exp - q).toNat, false)
  else
    let sh := (q - exp).toNat
    let w := mant / 2 ^ sh
    let r := mant % 2 ^ sh
    let up := match mode with
      | .rne => decide (2 ^ sh < 2 * r) || (decide (2 * r = 2 ^ sh) && w % 2 == 1)
      | .rtz => false
      | .rup => !neg && r != 0
      | .rdn => neg && r != 0
      | .sr rnd => decide (rnd < 2 ^ 16 * r / 2 ^ sh)
    (if up then w + 1 else w, r != 0)

/-- What an overflow gives (R76). DEDUCED: log entry 41. -/
def FFmt.overflow (F : FFmt) (mode : RM) (sat neg : Bool) : FR :=
  let big := F.signBit neg + F.maxBits
  let toInf := match mode with
    | .rne => true
    | .rtz => false
    | .rup => !neg
    | .rdn => neg
    | .sr _ => false
  let stochastic := match mode with
    | .sr _ => true
    | _ => false
  if sat || (F.special == 0 && !stochastic) then ⟨big, flSX ||| flOF ||| flNX⟩
  else if toInf then ⟨if F.special == 2 then F.inf neg else F.nan, flOF ||| flNX⟩
  else ⟨big, flOF ||| flNX⟩

/-- Rounding an exact non-zero magnitude to a format (R73 to R78). -/
def FFmt.round (F : FFmt) (mode : RM) (sat neg : Bool) (mant : Nat) (exp : Int) : FR :=
  if mant = 0 then ⟨F.signBit neg, 0⟩
  else
    let qu := exp + Nat.log2 mant - F.m
    let u := roundAt mode neg mant exp qu
    let enc (q : Int) (n : Nat) : Int := (q - F.qmin) * 2 ^ F.m + n
    let beyond := match mode with
      | .sr _ => decide ((F.maxBits : Int) < enc qu (roundAt .rtz neg mant exp qu).1) ||
          (enc qu (roundAt .rtz neg mant exp qu).1 == (F.maxBits : Int) && (roundAt .rtz neg mant exp qu).2)
      | _ => decide ((F.maxBits : Int) < enc qu u.1)
    if beyond then F.overflow mode sat neg
    else
      let q := max qu F.qmin
      let n := roundAt mode neg mant exp q
      let tiny := decide (enc qu u.1 < 2 ^ F.m)
      let fl := (if n.2 then flNX else 0) ||| (if n.2 && tiny then flUF else 0)
      ⟨F.signBit neg + (enc q n.1).toNat, fl⟩

/-- The canonical NaN with flags. -/
def FFmt.qnan (F : FFmt) (fl : Flags) : FR := ⟨F.nan, fl⟩

/-- NV for a signalling NaN. -/
def FV.snan : FV → Flags
  | .nan true => flNV
  | _ => 0

/-- Whether a value is NaN. -/
def FV.isNan : FV → Bool
  | .nan _ => true
  | _ => false

/-- The sign of an exact zero sum (R87): minus when both terms are minus zero, or under RDN. -/
def zeroSign (mode : RM) (n1 n2 : Bool) : Bool :=
  if n1 == n2 then n1
  else match mode with
    | .rdn => true
    | _ => false

/-- Exact sum of two finite values over one exponent: sign, magnitude, exponent. -/
def exactAdd (mode : RM) (n1 : Bool) (m1 : Nat) (e1 : Int) (n2 : Bool) (m2 : Nat) (e2 : Int) : Bool × Nat × Int :=
  let e := min e1 e2
  let a : Int := (if n1 then -1 else 1) * (m1 * 2 ^ (e1 - e).toNat : Nat)
  let b : Int := (if n2 then -1 else 1) * (m2 * 2 ^ (e2 - e).toNat : Nat)
  let s := a + b
  if s = 0 then (zeroSign mode n1 n2, 0, e) else (decide (s < 0), s.natAbs, e)

/-- Addition (R87). -/
def FFmt.addV (F : FFmt) (mode : RM) (x y : FV) : FR :=
  match x, y with
  | .nan _, _ | _, .nan _ => F.qnan (x.snan ||| y.snan)
  | .inf n, .inf k => if n == k then ⟨F.inf n, 0⟩ else F.qnan flNV
  | .inf n, _ => ⟨F.inf n, 0⟩
  | _, .inf k => ⟨F.inf k, 0⟩
  | .fin n1 m1 e1, .fin n2 m2 e2 =>
    let s := exactAdd mode n1 m1 e1 n2 m2 e2
    F.round mode false s.1 s.2.1 s.2.2

/-- The value with its sign changed. -/
def FV.neg : FV → FV
  | .nan s => .nan s
  | .inf n => .inf (!n)
  | .fin n m e => .fin (!n) m e

/-- Multiplication. -/
def FFmt.mulV (F : FFmt) (mode : RM) (x y : FV) : FR :=
  match x, y with
  | .nan _, _ | _, .nan _ => F.qnan (x.snan ||| y.snan)
  | .inf n, .inf k => ⟨F.inf (n != k), 0⟩
  | .inf n, .fin k m _ | .fin k m _, .inf n => if m = 0 then F.qnan flNV else ⟨F.inf (n != k), 0⟩
  | .fin n1 m1 e1, .fin n2 m2 e2 => F.round mode false (n1 != n2) (m1 * m2) (e1 + e2)

/-- x × y + z with one rounding (R87, R248): infinity times zero raises NV whatever the addend. -/
def FFmt.fmaV (F : FFmt) (mode : RM) (x y z : FV) : FR :=
  let zeroTimesInf := match x, y with
    | .inf _, .fin _ 0 _ | .fin _ 0 _, .inf _ => true
    | _, _ => false
  if x.isNan || y.isNan || z.isNan then
    F.qnan (x.snan ||| y.snan ||| z.snan ||| (if zeroTimesInf then flNV else 0))
  else if zeroTimesInf then F.qnan flNV
  else
    let p : FV := match x, y with
      | .fin n1 m1 e1, .fin n2 m2 e2 => .fin (n1 != n2) (m1 * m2) (e1 + e2)
      | .inf n, .inf k | .inf n, .fin k _ _ | .fin k _ _, .inf n => .inf (n != k)
      | _, _ => .nan false
    F.addV mode p z

/-- A quotient of magnitudes with enough bits for any rounding, its last bit standing for what is left over. -/
def quotBits (a b : Nat) : Nat × Int :=
  let sh := 160 + Nat.log2 b
  let q := a * 2 ^ sh / b
  (2 * q + (if a * 2 ^ sh % b = 0 then 0 else 1), -(sh : Int) - 1)

/-- Division. -/
def FFmt.divV (F : FFmt) (mode : RM) (x y : FV) : FR :=
  match x, y with
  | .nan _, _ | _, .nan _ => F.qnan (x.snan ||| y.snan)
  | .inf _, .inf _ => F.qnan flNV
  | .inf n, .fin k _ _ => ⟨F.inf (n != k), 0⟩
  | .fin n _ _, .inf k => ⟨F.signBit (n != k), 0⟩
  | .fin n1 m1 e1, .fin n2 m2 e2 =>
    if m2 = 0 then if m1 = 0 then F.qnan flNV else ⟨F.inf (n1 != n2), flDZ⟩
    else
      let q := quotBits m1 m2
      F.round mode false (n1 != n2) q.1 (q.2 + e1 - e2)

/-- Integer square root, one bit at a time from bit fuel − 1 down. -/
def isqrtFrom (n : Nat) : (fuel r : Nat) → Nat
  | 0, r => r
  | k + 1, r =>
    let t := r + 2 ^ k
    isqrtFrom n k (if t * t ≤ n then t else r)

def isqrt (n : Nat) : Nat := isqrtFrom n (Nat.log2 n / 2 + 1) 0

/-- A square root with a last bit that stands for what is left over; the exponent is made even first. -/
def sqrtBits (m : Nat) (e : Int) : Nat × Int :=
  let m1 := if e % 2 = 0 then m else 2 * m
  let e1 := if e % 2 = 0 then e else e - 1
  let n := m1 * 2 ^ 160
  let r := isqrt n
  (2 * r + (if r * r = n then 0 else 1), e1 / 2 - 80 - 1)

/-- Square root (R87). -/
def FFmt.sqrtV (F : FFmt) (mode : RM) (x : FV) : FR :=
  match x with
  | .nan s => F.qnan (if s then flNV else 0)
  | .inf n => if n then F.qnan flNV else ⟨F.inf false, 0⟩
  | .fin n m e =>
    if m = 0 then ⟨F.signBit n, 0⟩
    else if n then F.qnan flNV
    else
      let r := sqrtBits m e
      F.round mode false false r.1 r.2

/-- Comparison of two values that are not NaN: the sign of x − y as an integer; infinities are beyond every number. -/
def FV.cmp (x y : FV) : Int :=
  let big (n : Bool) : Int := if n then -1 else 1
  match x, y with
  | .inf n, .inf k => if n == k then 0 else big n
  | .inf n, _ => big n
  | _, .inf k => - big k
  | .fin n1 m1 e1, .fin n2 m2 e2 =>
    let e := min e1 e2
    let a : Int := (if n1 then -1 else 1) * (m1 * 2 ^ (e1 - e).toNat : Nat)
    let b : Int := (if n2 then -1 else 1) * (m2 * 2 ^ (e2 - e).toNat : Nat)
    a - b
  | _, _ => 0

/-- Whether a value carries a minus sign. -/
def FV.isNeg : FV → Bool
  | .nan _ => false
  | .inf n => n
  | .fin n _ _ => n

/-- MIN (mx false) and MAX of two encodings (R88): a lone NaN gives the other operand, minus zero is below plus zero. -/
def FFmt.minmax (F : FFmt) (mx : Bool) (a b : Nat) : FR :=
  let x := F.decode a
  let y := F.decode b
  let fl := x.snan ||| y.snan
  if x.isNan && y.isNan then ⟨F.nan, fl⟩
  else if x.isNan then ⟨b, fl⟩
  else if y.isNan then ⟨a, fl⟩
  else
    let c := x.cmp y
    let xless := decide (c < 0) || (c == 0 && x.isNeg && !y.isNeg)
    ⟨if xless != mx then a else b, fl⟩

/-! ### Functions of R89, to 320 fractional bits (DEDUCED: log entry 10) -/

/-- ln 2 × 2^320, as the sum of 2^320 / (k 2^k). -/
def ln2Fix : Nat := (List.range 340).foldl (fun s k => s + 2 ^ 320 / ((k + 1) * 2 ^ (k + 1))) 0

/-- e^y × 2^320 for y × 2^320 in [0, 1), by its series. -/
def expFix (y : Nat) : Nat :=
  ((List.range 80).foldl (fun (p : Nat × Nat) k =>
    let t := p.2 * y / 2 ^ 320 / (k + 1)
    (p.1 + t, t)) (2 ^ 320, 2 ^ 320)).1

/-- ln x × 2^320 for a mantissa x × 2^p in [1, 2), by the series of artanh. -/
def lnFix (mant p : Nat) : Nat :=
  let z := (mant - 2 ^ p) * 2 ^ 320 / (mant + 2 ^ p)
  let z2 := z * z / 2 ^ 320
  2 * ((List.range 110).foldl (fun (q : Nat × Nat) k =>
    (q.1 + q.2 / (2 * k + 1), q.2 * z2 / 2 ^ 320)) (0, z)).1

/-- EXP2 on FP32 (R89). -/
def exp2V (mode : RM) (x : FV) : FR :=
  match x with
  | .nan s => fp32.qnan (if s then flNV else 0)
  | .inf n => if n then ⟨0, 0⟩ else ⟨fp32.inf false, 0⟩
  | .fin neg m e =>
    if m = 0 then ⟨0x3F800000, 0⟩
    else if 9 < e + Nat.log2 m then
      -- beyond 2^10 in magnitude: overflow, or below every subnormal
      if neg then fp32.round mode false false 1 (-400) else fp32.round mode false false 3 400
    else
      let v : Int := (if neg then -1 else 1) * (m : Int)
      let n : Int := if 0 ≤ e then v * 2 ^ e.toNat else v / 2 ^ (-e).toNat
      let r : Nat := if 0 ≤ e then 0 else (v % 2 ^ (-e).toNat).toNat
      if r = 0 then fp32.round mode false false 1 n
      else
        let f := r * 2 ^ 320 / 2 ^ (-e).toNat
        let t := expFix (f * ln2Fix / 2 ^ 320)
        fp32.round mode false false (2 * t + 1) (n - 321)

/-- LOG2 on FP32 (R89). -/
def log2V (mode : RM) (x : FV) : FR :=
  match x with
  | .nan s => fp32.qnan (if s then flNV else 0)
  | .inf n => if n then fp32.qnan flNV else ⟨fp32.inf false, 0⟩
  | .fin neg m e =>
    if m = 0 then ⟨fp32.inf true, flDZ⟩
    else if neg then fp32.qnan flNV
    else
      let p := Nat.log2 m
      let k : Int := e + p
      if m = 2 ^ p then
        if k = 0 then ⟨0, 0⟩ else fp32.round mode false (decide (k < 0)) k.natAbs 0
      else
        let l : Int := k * 2 ^ 320 + (lnFix m p * 2 ^ 320 / ln2Fix : Nat)
        fp32.round mode false (decide (l < 0)) (2 * l.natAbs + 1) (-321)

/-- RCP on FP32 (R89). -/
def rcpV (mode : RM) (x : FV) : FR :=
  match x with
  | .nan s => fp32.qnan (if s then flNV else 0)
  | .inf n => ⟨fp32.signBit n, 0⟩
  | .fin neg m e =>
    if m = 0 then ⟨fp32.inf neg, flDZ⟩
    else
      let q := quotBits 1 m
      fp32.round mode false neg q.1 (q.2 - e)

/-- RSQRT on FP32 (R89): the root of a quotient that keeps 2 × 160 bits. -/
def rsqrtV (mode : RM) (x : FV) : FR :=
  match x with
  | .nan s => fp32.qnan (if s then flNV else 0)
  | .inf n => if n then fp32.qnan flNV else ⟨0, 0⟩
  | .fin neg m e =>
    if m = 0 then ⟨fp32.inf neg, flDZ⟩
    else if neg then fp32.qnan flNV
    else
      let m1 := if e % 2 = 0 then m else 2 * m
      let e1 := if e % 2 = 0 then e else e - 1
      let n := 2 ^ 400 / m1
      let r := isqrt n
      fp32.round mode false false (2 * r + (if r * r * m1 = 2 ^ 400 then 0 else 1)) (-(e1 / 2) - 200 - 1)

/-! ### Conversions (R75 to R78) -/

/-- Width of an integer format's elements. -/
def intBits (f : BitVec 4) : Nat :=
  match f.toNat with
  | 8 | 9 => 8
  | 10 | 11 => 4
  | 12 => 16
  | _ => 2

/-- The integer of an element of w bits. -/
def intOf (w : Nat) (signed : Bool) (b : Nat) : Int :=
  let x := b % 2 ^ w
  if signed && decide (2 ^ (w - 1) ≤ x) then (x : Int) - 2 ^ w else x

/-- The w low bits of an integer. -/
def ofInt (w : Nat) (v : Int) : Nat := (v % 2 ^ w).toNat

def intMin (w : Nat) (signed : Bool) : Int := if signed then -(2 ^ (w - 1)) else 0

def intMax (w : Nat) (signed : Bool) : Int := if signed then 2 ^ (w - 1) - 1 else 2 ^ w - 1

/-- A floating value to an integer of w bits (R77, R78). -/
def toIntV (w : Nat) (signed sat : Bool) (mode : RM) (x : FV) : FR :=
  let lim (neg : Bool) : Nat := ofInt w (if neg then intMin w signed else intMax w signed)
  let out : Flags := if sat then flSX else flNV
  match x with
  | .nan _ => ⟨0, flNV⟩
  | .inf n => ⟨lim n, out⟩
  | .fin neg m e =>
    let r := roundAt mode neg m e 0
    let v : Int := if neg then -(r.1 : Int) else r.1
    if v < intMin w signed then ⟨lim true, out⟩
    else if intMax w signed < v then ⟨lim false, out⟩
    else ⟨ofInt w v, if r.2 then flNX else 0⟩

/-- An integer to an integer of w bits (R78). -/
def intToInt (w : Nat) (signed sat : Bool) (v : Int) : FR :=
  if sat && decide (v < intMin w signed) then ⟨ofInt w (intMin w signed), flSX⟩
  else if sat && decide (intMax w signed < v) then ⟨ofInt w (intMax w signed), flSX⟩
  else ⟨ofInt w v, 0⟩

/-- An integer to a floating format. -/
def FFmt.ofIntV (F : FFmt) (mode : RM) (sat : Bool) (v : Int) : FR := F.round mode sat (decide (v < 0)) v.natAbs 0

/-- A floating value to a floating format (R75 to R77). -/
def FFmt.convV (F : FFmt) (mode : RM) (sat : Bool) (x : FV) : FR :=
  match x with
  | .nan s => if F.special == 0 then ⟨0, flNV⟩ else F.qnan (if s then flNV else 0)
  | .inf n =>
    let big := F.signBit n + F.maxBits
    if sat then ⟨big, flSX⟩
    else match F.special with
      | 2 => ⟨F.inf n, 0⟩
      | 1 => ⟨F.nan, flNV⟩
      | _ => ⟨big, flNV⟩
  | .fin n m e => F.round mode sat n m e

/-- Any element to any format of codes 0x0 to 0xD. -/
def convert (fs fd : BitVec 4) (mode : RM) (sat : Bool) (b : Nat) : FR :=
  if fmtIsFloat fs then
    let x := (FFmt.of fs).decode (b % 2 ^ ((FFmt.of fs).e + (FFmt.of fs).m + 1))
    if fmtIsFloat fd then (FFmt.of fd).convV mode sat x else toIntV (intBits fd) (fmtSigned fd) sat mode x
  else
    let v := intOf (intBits fs) (fmtSigned fs) b
    if fmtIsFloat fd then (FFmt.of fd).ofIntV mode sat v else intToInt (intBits fd) (fmtSigned fd) sat v

/-! ### Integers -/

/-- Clamped to w bits, with SX where that changes the value (R90). -/
def clampInt (w : Nat) (signed : Bool) (v : Int) : FR := intToInt w signed true v

/-- Signed and unsigned quotient and remainder of 64-bit values (R91). -/
def divS (a b : Word) : Word := if b = 0 then -1 else a.sdiv b

def divU (a b : Word) : Word := if b = 0 then -1 else a / b

def remS (a b : Word) : Word := if b = 0 then a else a.srem b

def remU (a b : Word) : Word := if b = 0 then a else a % b

/-! ### Philox 2x64-10 (R304) -/

/-- Rounds of the generator with key k and counter x1:x0. -/
def philoxFrom : (rounds : Nat) → (k x0 x1 : Word) → Word × Word
  | 0, _, x0, x1 => (x0, x1)
  | n + 1, k, x0, x1 =>
    let p := x0.toNat * 0xD2B74407B1CE6E93
    philoxFrom n (k + 0x9E3779B97F4A7C15) (BitVec.ofNat 64 (p / 2 ^ 64) ^^^ k ^^^ x1) (BitVec.ofNat 64 p)

def philox (k x0 x1 : Word) : Word × Word := philoxFrom 10 k x0 x1

/-! ### Residues (R69 to R71) -/

/-- Residue fields of an integer: RES30 (r15 false) or RES15. -/
def resOf (r15 : Bool) (v : Int) : Nat :=
  if r15 then (v % 31).toNat + 32 * (v % 32).toNat + 1024 * (v % 33).toNat
  else (v % 1023).toNat + 1024 * (v % 1024).toNat + 1048576 * (v % 1025).toNat

/-- Fields of a residue word, reduced: low, middle, high (R70). -/
def resFields (r15 : Bool) (b : Nat) : Nat × Nat × Nat :=
  if r15 then (b % 32 % 31, b / 32 % 32, b / 1024 % 64 % 33)
  else (b % 1024 % 1023, b / 1024 % 1024, b / 1048576 % 2048 % 1025)

/-- Field-by-field multiply and add (R72, R85). -/
def resMac (r15 : Bool) (acc a b : Nat) : Nat :=
  let c := resFields r15 acc
  let x := resFields r15 a
  let y := resFields r15 b
  if r15 then
    (c.1 + x.1 * y.1) % 31 + 32 * ((c.2.1 + x.2.1 * y.2.1) % 32) + 1024 * ((c.2.2 + x.2.2 * y.2.2) % 33)
  else
    (c.1 + x.1 * y.1) % 1023 + 1024 * ((c.2.1 + x.2.1 * y.2.1) % 1024) + 1048576 * ((c.2.2 + x.2.2 * y.2.2) % 1025)

/-- The integer of a residue word in the signed range (R71), by the Chinese remainder theorem: with moduli n−1, n, n+1 about
an n that is a power of two, each field is lifted by the inverse of the product of the others. -/
def resInt (r15 : Bool) (b : Nat) : Int :=
  let f := resFields r15 b
  let m1 := if r15 then 31 else 1023
  let m2 := if r15 then 32 else 1024
  let m3 := if r15 then 33 else 1025
  let M := m1 * m2 * m3
  let inv (a m : Nat) : Nat := ((List.range m).find? (fun t => a % m * t % m == 1)).getD 0
  let x := (f.1 * (m2 * m3) * inv (m2 * m3) m1 + f.2.1 * (m1 * m3) * inv (m1 * m3) m2 + f.2.2 * (m1 * m2) * inv (m1 * m2) m3) % M
  if M / 2 ≤ x then (x : Int) - M else x

end Sys2Proof.Machine
end

