-- ==== Sys2Proof/Machine/Map.lean ====
section
/-!
DEFINITION. Sparse maps from numbers: lists of pairs with strictly rising keys, so that equal maps are equal data.
-/

namespace Sys2Proof.Machine

/-- A sparse map with keys strictly rising. -/
abbrev SMap (α : Type) := List (Nat × α)

/-- The value listed under a key. -/
def SMap.find {α : Type} : SMap α → Nat → Option α
  | [], _ => none
  | (j, v) :: m, k => if j = k then some v else SMap.find m k

/-- The value under a key, or what an unlisted key reads as. -/
def SMap.getD {α : Type} (m : SMap α) (k : Nat) (d : α) : α := (SMap.find m k).getD d

/-- Lists a value under a key, in its place. -/
def SMap.put {α : Type} : SMap α → Nat → α → SMap α
  | [], k, v => [(k, v)]
  | (j, w) :: m, k, v =>
    if k < j then (k, v) :: (j, w) :: m else if k = j then (k, v) :: m else (j, w) :: SMap.put m k v

/-- Removes a key. -/
def SMap.erase {α : Type} : SMap α → Nat → SMap α
  | [], _ => []
  | (j, w) :: m, k => if j = k then SMap.erase m k else (j, w) :: SMap.erase m k

/-- Writes a value under a key; the value that an unlisted key reads as is not listed. -/
def SMap.setD {α : Type} [DecidableEq α] (m : SMap α) (k : Nat) (d v : α) : SMap α :=
  if v = d then SMap.erase m k else SMap.put m k v

/-- The keys rise strictly. -/
def SMap.sorted {α : Type} : SMap α → Bool
  | [] => true
  | (j, _) :: m => m.all (fun p => decide (j < p.1)) && SMap.sorted m

/-- The canonical form: keys strictly rising, no entry equal to what an unlisted key reads as. -/
def SMap.wf {α : Type} [DecidableEq α] (d : α) (m : SMap α) : Bool :=
  SMap.sorted m && m.all (fun p => decide (p.2 ≠ d))

/-- Sets of numbers as sorted lists without repeats: adds one. -/
def NSet.add : List Nat → Nat → List Nat
  | [], k => [k]
  | j :: m, k => if k < j then k :: j :: m else if k = j then j :: m else j :: NSet.add m k

/-- Removes a number from a set. -/
def NSet.del (m : List Nat) (k : Nat) : List Nat := m.filter (· != k)

end Sys2Proof.Machine
end

