-- ==== Sys2Proof/Machine/Memory.lean ====
section
/-!
DEFINITION. Bytes of memory by home, in one canonical form, and the homes of local-store words and physical lines.
-/

namespace Sys2Proof.Machine

/-- What a byte that nothing has written reads as: zero (R154, R381, R407 step 3; DESIGN CHOICE: log entry 3 for the other tiers). -/
def unlistedByte : Byte := 0

/-- The canonical form of memory: addresses strictly rising, no entry equal to what an unlisted address reads as. -/
def Memory.wf (m : List Host.Cell) : Bool := SMap.wf unlistedByte m

/-- One byte. -/
def Memory.byte (m : List Host.Cell) (a : Nat) : Byte := SMap.getD m a unlistedByte

/-- Writes one byte. -/
def Memory.setByte (m : List Host.Cell) (a : Nat) (b : Byte) : List Host.Cell := SMap.setD m a unlistedByte b

/-- n bytes from a as a number, the byte at the lowest address least significant (R112). -/
def Memory.readN (m : List Host.Cell) (a : Nat) : Nat → Nat
  | 0 => 0
  | n + 1 => (Memory.byte m a).toNat + 256 * Memory.readN m (a + 1) n

/-- Writes the n low bytes of v from a, those that be enables. -/
def Memory.writeN (m : List Host.Cell) (a v be : Nat) : Nat → List Host.Cell
  | 0 => m
  | n + 1 =>
    let m1 := Memory.writeN m (a + 1) (v / 256) (be / 2) n
    if be % 2 = 1 then Memory.setByte m1 a (BitVec.ofNat 8 v) else m1

def Memory.word (m : List Host.Cell) (a : Nat) : Word := BitVec.ofNat 64 (Memory.readN m a 8)

def Memory.line (m : List Host.Cell) (a : Nat) : Line := BitVec.ofNat 512 (Memory.readN m a 64)

def Memory.setWord (m : List Host.Cell) (a : Nat) (v : Word) : List Host.Cell := Memory.writeN m a v.toNat 0xFF 8

/-- Zeroes n bytes. -/
def Memory.zero (m : List Host.Cell) (a n : Nat) : List Host.Cell := m.filter (fun p => p.1 < a || a + n ≤ p.1)

/-- The home of offset off of core n's local store: its aperture address (R151). -/
def lsHome (n off : Nat) : Nat := 0x100000000 + n * 0x40000 + off

/-- The home of physical address pa of a memory kind (R346), above every local-store home. -/
def physHome (kind pa : Nat) : Nat := (kind + 1) * 0x1000000000000000 + pa

def homeIsLs (h : Nat) : Bool := decide (h < 0x1000000000000000)

def homeCore (h : Nat) : Nat := (h - 0x100000000) / 0x40000

def homeOff (h : Nat) : Nat := (h - 0x100000000) % 0x40000

def homeKind (h : Nat) : Nat := h / 0x1000000000000000 - 1

def homePa (h : Nat) : Nat := h % 0x1000000000000000

/-- The word that contains a local-store home. -/
def wordOf (h : Nat) : Nat := h / 8 * 8

/-- The line that contains a home. -/
def lineOfHome (h : Nat) : Nat := h / 64 * 64

/-! ### Numbers and bytes -/

/-- A number of n bytes as a list of bytes. -/
def natBytes (n v : Nat) : List Byte := (List.range n).map (fun k => BitVec.ofNat 8 (v / 256 ^ k))

/-- A list of bytes as a number, the first least significant. -/
def bytesNat (bs : List Byte) : Nat := bs.foldr (fun b n => n * 256 + b.toNat) 0

/-- Words as one number, word 0 lowest. -/
def wordsNat (ws : List Word) : Nat := ws.foldr (fun w n => n * 2 ^ 64 + w.toNat) 0

/-- Word k of a number of several words. -/
def natWord (v k : Nat) : Word := BitVec.ofNat 64 (v / 2 ^ (64 * k))

end Sys2Proof.Machine
end

