-- ==== Sys2Proof/Syntax.lean ====
section
/-!
DEFINITION. The instructions and events of the ZX4096, one constructor for each row of spec/opcode_table.json.
Operand fields keep the widths of the encodings (07 R116, R117); a register field is a register number.
The constructors after sleep are the steps that are no instruction of a thread (95): acts of the banks, engines,
dispatcher, join units, fabric, debug port, secure service core and platform.
-/

namespace Sys2Proof

inductive Instr where
  | add (d : SReg) (b : SReg) (c : SReg) (sat : BitVec 2)
  | sub (d : SReg) (b : SReg) (c : SReg) (sat : BitVec 2)
  | andR (d : SReg) (b : SReg) (c : SReg)
  | orR (d : SReg) (b : SReg) (c : SReg)
  | xorR (d : SReg) (b : SReg) (c : SReg)
  | sll (d : SReg) (b : SReg) (c : SReg)
  | srl (d : SReg) (b : SReg) (c : SReg)
  | sra (d : SReg) (b : SReg) (c : SReg)
  | addI (d : SReg) (b : SReg) (imm : BitVec 11)
  | rsubI (d : SReg) (b : SReg) (imm : BitVec 11)
  | andI (d : SReg) (b : SReg) (imm : BitVec 11)
  | orI (d : SReg) (b : SReg) (imm : BitVec 11)
  | xorI (d : SReg) (b : SReg) (imm : BitVec 11)
  | sllI (d : SReg) (b : SReg) (imm : BitVec 11)
  | srlI (d : SReg) (b : SReg) (imm : BitVec 11)
  | sraI (d : SReg) (b : SReg) (imm : BitVec 11)
  | addW (d : SReg) (b : SReg) (imm : BitVec 16)
  | rsubW (d : SReg) (b : SReg) (imm : BitVec 16)
  | andW (d : SReg) (b : SReg) (imm : BitVec 16)
  | orW (d : SReg) (b : SReg) (imm : BitVec 16)
  | xorW (d : SReg) (b : SReg) (imm : BitVec 16)
  | sllW (d : SReg) (b : SReg) (imm : BitVec 16)
  | srlW (d : SReg) (b : SReg) (imm : BitVec 16)
  | sraW (d : SReg) (b : SReg) (imm : BitVec 16)
  | seq (d : SReg) (b : SReg) (c : SReg)
  | sne (d : SReg) (b : SReg) (c : SReg)
  | slt (d : SReg) (b : SReg) (c : SReg)
  | sltu (d : SReg) (b : SReg) (c : SReg)
  | sle (d : SReg) (b : SReg) (c : SReg)
  | sleu (d : SReg) (b : SReg) (c : SReg)
  | minS (d : SReg) (b : SReg) (c : SReg)
  | minU (d : SReg) (b : SReg) (c : SReg)
  | maxS (d : SReg) (b : SReg) (c : SReg)
  | maxU (d : SReg) (b : SReg) (c : SReg)
  | seqW (d : SReg) (b : SReg) (imm : BitVec 16)
  | sneW (d : SReg) (b : SReg) (imm : BitVec 16)
  | sltW (d : SReg) (b : SReg) (imm : BitVec 16)
  | sltuW (d : SReg) (b : SReg) (imm : BitVec 16)
  | sleW (d : SReg) (b : SReg) (imm : BitVec 16)
  | sleuW (d : SReg) (b : SReg) (imm : BitVec 16)
  | minW (d : SReg) (b : SReg) (imm : BitVec 16)
  | minuW (d : SReg) (b : SReg) (imm : BitVec 16)
  | maxW (d : SReg) (b : SReg) (imm : BitVec 16)
  | maxuW (d : SReg) (b : SReg) (imm : BitVec 16)
  | mul (d : SReg) (b : SReg) (c : SReg)
  | mulh (d : SReg) (b : SReg) (c : SReg)
  | mulhu (d : SReg) (b : SReg) (c : SReg)
  | mulhsu (d : SReg) (b : SReg) (c : SReg)
  | div (d : SReg) (b : SReg) (c : SReg)
  | divu (d : SReg) (b : SReg) (c : SReg)
  | rem (d : SReg) (b : SReg) (c : SReg)
  | remu (d : SReg) (b : SReg) (c : SReg)
  | clz (d : SReg) (b : SReg)
  | ctz (d : SReg) (b : SReg)
  | popc (d : SReg) (b : SReg)
  | brev (d : SReg) (b : SReg)
  | bswap (d : SReg) (b : SReg)
  | rol (d : SReg) (b : SReg) (c : SReg)
  | ror (d : SReg) (b : SReg) (c : SReg)
  | ext (d : SReg) (b : SReg) (pos : BitVec 6) (lenM1 : BitVec 6)
  | extu (d : SReg) (b : SReg) (pos : BitVec 6) (lenM1 : BitVec 6)
  | ins (d : SReg) (b : SReg) (pos : BitVec 6) (lenM1 : BitVec 6)
  | li (d : SReg) (imm : BitVec 11)
  | liZ (d : SReg) (imm : BitVec 11)
  | liW (d : SReg) (imm : BitVec 16)
  | liZW (d : SReg) (imm : BitVec 16)
  | lih (d : SReg) (imm : BitVec 16)
  | liX0 (d : SReg) (imm : BitVec 48)
  | liZX0 (d : SReg) (imm : BitVec 48)
  | lea (d : SReg) (b : SReg) (imm : BitVec 11)
  | leaW (d : SReg) (b : SReg) (imm : BitVec 16)
  | leaX1 (n : BitVec 2) (d : SReg) (b : SReg) (c : SReg) (imm : BitVec 33)
  | mov (d : SReg) (b : SReg)
  | sel (d : SReg) (b : SReg) (c : SReg) (k : SReg)
  | beqz (b : SReg) (off : BitVec 27)
  | bnez (b : SReg) (off : BitVec 27)
  | bltz (b : SReg) (off : BitVec 27)
  | bgez (b : SReg) (off : BitVec 27)
  | bgtz (b : SReg) (off : BitVec 27)
  | blez (b : SReg) (off : BitVec 27)
  | beq (b : SReg) (c : SReg) (off : BitVec 27)
  | bne (b : SReg) (c : SReg) (off : BitVec 27)
  | blt (b : SReg) (c : SReg) (off : BitVec 27)
  | bge (b : SReg) (c : SReg) (off : BitVec 27)
  | bltu (b : SReg) (c : SReg) (off : BitVec 27)
  | bgeu (b : SReg) (c : SReg) (off : BitVec 27)
  | br (off : BitVec 27)
  | call (off : BitVec 27)
  | dbnz (b : SReg) (off : BitVec 27)
  | jt (l : BitVec 5) (b : SReg) (c : SReg) (nM1 : BitVec 6)
  | callt (l : BitVec 5) (b : SReg) (c : SReg) (nM1 : BitVec 6)
  | jtW (b : SReg) (c : SReg) (n : SReg) (l : BitVec 11)
  | calltW (b : SReg) (c : SReg) (n : SReg) (l : BitVec 11)
  | lpad (l : BitVec 11)
  | nop
  | exit
  | rets (f : SReg)
  | ret
  | trap (b : SReg) (code : BitVec 11)
  | eret
  | mfc (d : SReg) (n : BitVec 11)
  | mtc (s : SReg) (n : BitVec 11)
  | ld (d : SReg) (b : SReg) (imm : BitVec 11)
  | lw (d : SReg) (b : SReg) (imm : BitVec 11)
  | lwu (d : SReg) (b : SReg) (imm : BitVec 11)
  | lh (d : SReg) (b : SReg) (imm : BitVec 11)
  | lhu (d : SReg) (b : SReg) (imm : BitVec 11)
  | lb (d : SReg) (b : SReg) (imm : BitVec 11)
  | lbu (d : SReg) (b : SReg) (imm : BitVec 11)
  | ldW (d : SReg) (b : SReg) (rx : BitVec 1) (imm : BitVec 16)
  | lwW (d : SReg) (b : SReg) (rx : BitVec 1) (imm : BitVec 16)
  | lwuW (d : SReg) (b : SReg) (rx : BitVec 1) (imm : BitVec 16)
  | lhW (d : SReg) (b : SReg) (rx : BitVec 1) (imm : BitVec 16)
  | lhuW (d : SReg) (b : SReg) (rx : BitVec 1) (imm : BitVec 16)
  | lbW (d : SReg) (b : SReg) (rx : BitVec 1) (imm : BitVec 16)
  | lbuW (d : SReg) (b : SReg) (rx : BitVec 1) (imm : BitVec 16)
  | ldX1 (d : SReg) (b : SReg) (c : SReg) (rx : BitVec 1) (imm : BitVec 32)
  | lwX1 (d : SReg) (b : SReg) (c : SReg) (rx : BitVec 1) (imm : BitVec 32)
  | lwuX1 (d : SReg) (b : SReg) (c : SReg) (rx : BitVec 1) (imm : BitVec 32)
  | lhX1 (d : SReg) (b : SReg) (c : SReg) (rx : BitVec 1) (imm : BitVec 32)
  | lhuX1 (d : SReg) (b : SReg) (c : SReg) (rx : BitVec 1) (imm : BitVec 32)
  | lbX1 (d : SReg) (b : SReg) (c : SReg) (rx : BitVec 1) (imm : BitVec 32)
  | lbuX1 (d : SReg) (b : SReg) (c : SReg) (rx : BitVec 1) (imm : BitVec 32)
  | st (a : SReg) (b : SReg) (imm : BitVec 11)
  | sw (a : SReg) (b : SReg) (imm : BitVec 11)
  | sh (a : SReg) (b : SReg) (imm : BitVec 11)
  | sb (a : SReg) (b : SReg) (imm : BitVec 11)
  | stW (a : SReg) (b : SReg) (rx : BitVec 1) (imm : BitVec 16)
  | swW (a : SReg) (b : SReg) (rx : BitVec 1) (imm : BitVec 16)
  | shW (a : SReg) (b : SReg) (rx : BitVec 1) (imm : BitVec 16)
  | sbW (a : SReg) (b : SReg) (rx : BitVec 1) (imm : BitVec 16)
  | stX1 (a : SReg) (b : SReg) (c : SReg) (rx : BitVec 1) (imm : BitVec 32)
  | swX1 (a : SReg) (b : SReg) (c : SReg) (rx : BitVec 1) (imm : BitVec 32)
  | shX1 (a : SReg) (b : SReg) (c : SReg) (rx : BitVec 1) (imm : BitVec 32)
  | sbX1 (a : SReg) (b : SReg) (c : SReg) (rx : BitVec 1) (imm : BitVec 32)
  | vld (vd : VReg) (b : SReg) (mk : BitVec 4) (ew : BitVec 2)
  | vst (vd : VReg) (b : SReg) (mk : BitVec 4) (ew : BitVec 2)
  | vlds (vd : VReg) (b : SReg) (c : SReg) (mk : BitVec 4) (ew : BitVec 2)
  | vsts (vd : VReg) (b : SReg) (c : SReg) (mk : BitVec 4) (ew : BitVec 2)
  | vldW (vd : VReg) (b : SReg) (mk : BitVec 4) (rx : BitVec 1) (ew : BitVec 2) (imm : BitVec 14)
  | vstW (vd : VReg) (b : SReg) (mk : BitVec 4) (rx : BitVec 1) (ew : BitVec 2) (imm : BitVec 14)
  | vldsW (vd : VReg) (b : SReg) (c : SReg) (mk : BitVec 4) (rx : BitVec 1) (ew : BitVec 2) (imm : BitVec 14)
  | vstsW (vd : VReg) (b : SReg) (c : SReg) (mk : BitVec 4) (rx : BitVec 1) (ew : BitVec 2) (imm : BitVec 14)
  | vldX1 (vd : VReg) (b : SReg) (mk : BitVec 4) (rx : BitVec 1) (ew : BitVec 2) (imm : BitVec 30)
  | vstX1 (vd : VReg) (b : SReg) (mk : BitVec 4) (rx : BitVec 1) (ew : BitVec 2) (imm : BitVec 30)
  | vldsX1 (vd : VReg) (b : SReg) (c : SReg) (mk : BitVec 4) (rx : BitVec 1) (ew : BitVec 2) (imm : BitVec 30)
  | vstsX1 (vd : VReg) (b : SReg) (c : SReg) (mk : BitVec 4) (rx : BitVec 1) (ew : BitVec 2) (imm : BitVec 30)
  | vgath (vd : VReg) (b : SReg) (c : VReg) (mk : BitVec 4) (x64 : BitVec 1)
  | vscat (vd : VReg) (b : SReg) (c : VReg) (mk : BitVec 4) (x64 : BitVec 1)
  | vgathW (vd : VReg) (b : SReg) (c : VReg) (mk : BitVec 4) (rx : BitVec 1) (x64 : BitVec 1) (sc : BitVec 2)
  | vscatW (vd : VReg) (b : SReg) (c : VReg) (mk : BitVec 4) (rx : BitVec 1) (x64 : BitVec 1) (sc : BitVec 2)
  | aadd (d : SReg) (b : SReg) (c : SReg) (w32 : BitVec 1) (rx : BitVec 1)
  | aand (d : SReg) (b : SReg) (c : SReg) (w32 : BitVec 1) (rx : BitVec 1)
  | aor (d : SReg) (b : SReg) (c : SReg) (w32 : BitVec 1) (rx : BitVec 1)
  | axor (d : SReg) (b : SReg) (c : SReg) (w32 : BitVec 1) (rx : BitVec 1)
  | aswp (d : SReg) (b : SReg) (c : SReg) (w32 : BitVec 1) (rx : BitVec 1)
  | acas (d : SReg) (b : SReg) (c : SReg) (w32 : BitVec 1) (rx : BitVec 1)
  | amin (d : SReg) (b : SReg) (c : SReg) (w32 : BitVec 1) (rx : BitVec 1)
  | amax (d : SReg) (b : SReg) (c : SReg) (w32 : BitVec 1) (rx : BitVec 1)
  | aminu (d : SReg) (b : SReg) (c : SReg) (w32 : BitVec 1) (rx : BitVec 1)
  | amaxu (d : SReg) (b : SReg) (c : SReg) (w32 : BitVec 1) (rx : BitVec 1)
  | afadd (d : SReg) (b : SReg) (c : SReg) (w32 : BitVec 1) (rx : BitVec 1)
  | aaddW (d : SReg) (b : SReg) (c : SReg) (w32 : BitVec 1) (rx : BitVec 1) (imm : BitVec 16)
  | aandW (d : SReg) (b : SReg) (c : SReg) (w32 : BitVec 1) (rx : BitVec 1) (imm : BitVec 16)
  | aorW (d : SReg) (b : SReg) (c : SReg) (w32 : BitVec 1) (rx : BitVec 1) (imm : BitVec 16)
  | axorW (d : SReg) (b : SReg) (c : SReg) (w32 : BitVec 1) (rx : BitVec 1) (imm : BitVec 16)
  | aswpW (d : SReg) (b : SReg) (c : SReg) (w32 : BitVec 1) (rx : BitVec 1) (imm : BitVec 16)
  | acasW (d : SReg) (b : SReg) (c : SReg) (w32 : BitVec 1) (rx : BitVec 1) (imm : BitVec 16)
  | aminW (d : SReg) (b : SReg) (c : SReg) (w32 : BitVec 1) (rx : BitVec 1) (imm : BitVec 16)
  | amaxW (d : SReg) (b : SReg) (c : SReg) (w32 : BitVec 1) (rx : BitVec 1) (imm : BitVec 16)
  | aminuW (d : SReg) (b : SReg) (c : SReg) (w32 : BitVec 1) (rx : BitVec 1) (imm : BitVec 16)
  | amaxuW (d : SReg) (b : SReg) (c : SReg) (w32 : BitVec 1) (rx : BitVec 1) (imm : BitVec 16)
  | afaddW (d : SReg) (b : SReg) (c : SReg) (w32 : BitVec 1) (rx : BitVec 1) (imm : BitVec 16)
  | tatsw (t : BitVec 2)
  | tget (d : SReg) (b : SReg)
  | tset (b : SReg) (c : SReg)
  | tsetImm (b : SReg) (t : BitVec 3)
  | tcas (d : SReg) (b : SReg) (c : SReg)
  | tatld (t : BitVec 2) (b : SReg)
  | rmset (t : BitVec 2) (k : BitVec 6)
  | fence (sc : BitVec 3)
  | bar (sc : BitVec 3)
  | bara (sc : BitVec 3)
  | barw (sc : BitVec 3)
  | xfence (p : BitVec 3) (q : BitVec 3)
  | sbinit (b : SReg) (c : SReg)
  | sbarv (d : SReg) (b : SReg) (sc : BitVec 3)
  | sbwait (d : SReg) (b : SReg) (c : SReg)
  | sbtest (d : SReg) (b : SReg) (c : SReg)
  | waitTag (b : SReg) (t : BitVec 3)
  | dqlen (d : SReg)
  | joinWord (b : SReg)
  | steal (d : SReg) (b : SReg) (t : BitVec 3)
  | pcon (b : SReg) (fl : BitVec 4)
  | flushi (b : SReg) (c : SReg) (sc : BitVec 3)
  | spawn (b : SReg) (off : BitVec 27)
  | vadd (d : VReg) (b : VReg) (c : VReg) (mk : BitVec 4) (t : BitVec 2)
  | vsub (d : VReg) (b : VReg) (c : VReg) (mk : BitVec 4) (t : BitVec 2)
  | vmul (d : VReg) (b : VReg) (c : VReg) (mk : BitVec 4) (t : BitVec 2)
  | vmulh (d : VReg) (b : VReg) (c : VReg) (mk : BitVec 4) (t : BitVec 2)
  | vmin (d : VReg) (b : VReg) (c : VReg) (mk : BitVec 4) (t : BitVec 2)
  | vmax (d : VReg) (b : VReg) (c : VReg) (mk : BitVec 4) (t : BitVec 2)
  | vminu (d : VReg) (b : VReg) (c : VReg) (mk : BitVec 4) (t : BitVec 2)
  | vmaxu (d : VReg) (b : VReg) (c : VReg) (mk : BitVec 4) (t : BitVec 2)
  | vaddW (d : VReg) (b : VReg) (c : VReg) (z : BitVec 1) (mk : BitVec 4) (t : BitVec 2) (sat : BitVec 2)
  | vsubW (d : VReg) (b : VReg) (c : VReg) (z : BitVec 1) (mk : BitVec 4) (t : BitVec 2) (sat : BitVec 2)
  | vmulW (d : VReg) (b : VReg) (c : VReg) (z : BitVec 1) (mk : BitVec 4) (t : BitVec 2) (sat : BitVec 2)
  | vmulhW (d : VReg) (b : VReg) (c : VReg) (z : BitVec 1) (mk : BitVec 4) (t : BitVec 2)
  | vminW (d : VReg) (b : VReg) (c : VReg) (z : BitVec 1) (mk : BitVec 4) (t : BitVec 2)
  | vmaxW (d : VReg) (b : VReg) (c : VReg) (z : BitVec 1) (mk : BitVec 4) (t : BitVec 2)
  | vminuW (d : VReg) (b : VReg) (c : VReg) (z : BitVec 1) (mk : BitVec 4) (t : BitVec 2)
  | vmaxuW (d : VReg) (b : VReg) (c : VReg) (z : BitVec 1) (mk : BitVec 4) (t : BitVec 2)
  | vand (d : VReg) (b : VReg) (c : VReg) (z : BitVec 1) (mk : BitVec 4) (t : BitVec 2)
  | vor (d : VReg) (b : VReg) (c : VReg) (z : BitVec 1) (mk : BitVec 4) (t : BitVec 2)
  | vxor (d : VReg) (b : VReg) (c : VReg) (z : BitVec 1) (mk : BitVec 4) (t : BitVec 2)
  | vsll (d : VReg) (b : VReg) (c : VReg) (z : BitVec 1) (mk : BitVec 4) (t : BitVec 2)
  | vsrl (d : VReg) (b : VReg) (c : VReg) (z : BitVec 1) (mk : BitVec 4) (t : BitVec 2)
  | vsra (d : VReg) (b : VReg) (c : VReg) (z : BitVec 1) (mk : BitVec 4) (t : BitVec 2)
  | vmulhu (d : VReg) (b : VReg) (c : VReg) (z : BitVec 1) (mk : BitVec 4) (t : BitVec 2)
  | vabs (d : VReg) (b : VReg) (mk : BitVec 4) (t : BitVec 2) (sat : BitVec 2)
  | vfadd (d : VReg) (b : VReg) (c : VReg) (mk : BitVec 4) (t : BitVec 2)
  | vfsub (d : VReg) (b : VReg) (c : VReg) (mk : BitVec 4) (t : BitVec 2)
  | vfmul (d : VReg) (b : VReg) (c : VReg) (mk : BitVec 4) (t : BitVec 2)
  | vfdiv (d : VReg) (b : VReg) (c : VReg) (mk : BitVec 4) (t : BitVec 2)
  | vfmin (d : VReg) (b : VReg) (c : VReg) (mk : BitVec 4) (t : BitVec 2)
  | vfmax (d : VReg) (b : VReg) (c : VReg) (mk : BitVec 4) (t : BitVec 2)
  | vfsqrt (d : VReg) (b : VReg) (mk : BitVec 4) (t : BitVec 2)
  | vfaddW (d : VReg) (b : VReg) (c : VReg) (z : BitVec 1) (mk : BitVec 4) (t : BitVec 2) (rm : BitVec 3)
  | vfsubW (d : VReg) (b : VReg) (c : VReg) (z : BitVec 1) (mk : BitVec 4) (t : BitVec 2) (rm : BitVec 3)
  | vfmulW (d : VReg) (b : VReg) (c : VReg) (z : BitVec 1) (mk : BitVec 4) (t : BitVec 2) (rm : BitVec 3)
  | vfdivW (d : VReg) (b : VReg) (c : VReg) (z : BitVec 1) (mk : BitVec 4) (t : BitVec 2) (rm : BitVec 3)
  | vfminW (d : VReg) (b : VReg) (c : VReg) (z : BitVec 1) (mk : BitVec 4) (t : BitVec 2) (rm : BitVec 3)
  | vfmaxW (d : VReg) (b : VReg) (c : VReg) (z : BitVec 1) (mk : BitVec 4) (t : BitVec 2) (rm : BitVec 3)
  | vfsqrtW (d : VReg) (b : VReg) (mk : BitVec 4) (t : BitVec 2) (rm : BitVec 3)
  | vfneg (d : VReg) (b : VReg) (mk : BitVec 4) (t : BitVec 2) (rm : BitVec 3)
  | vfabs (d : VReg) (b : VReg) (mk : BitVec 4) (t : BitVec 2) (rm : BitVec 3)
  | vfma (d : VReg) (b : VReg) (c : VReg) (mk : BitVec 4) (t : BitVec 2)
  | vfms (d : VReg) (b : VReg) (c : VReg) (mk : BitVec 4) (t : BitVec 2)
  | vfnma (d : VReg) (b : VReg) (c : VReg) (mk : BitVec 4) (t : BitVec 2)
  | vfnms (d : VReg) (b : VReg) (c : VReg) (mk : BitVec 4) (t : BitVec 2)
  | vmac (d : VReg) (b : VReg) (c : VReg) (mk : BitVec 4) (t : BitVec 2)
  | vdot (d : VReg) (b : VReg) (c : VReg) (mk : BitVec 4) (t : BitVec 2)
  | vdotu (d : VReg) (b : VReg) (c : VReg) (mk : BitVec 4) (t : BitVec 2)
  | vfmaW (d : VReg) (b : VReg) (c : VReg) (e : VReg) (z : BitVec 1) (mk : BitVec 4) (t : BitVec 2) (rm : BitVec 3)
  | vfmsW (d : VReg) (b : VReg) (c : VReg) (e : VReg) (z : BitVec 1) (mk : BitVec 4) (t : BitVec 2) (rm : BitVec 3)
  | vfnmaW (d : VReg) (b : VReg) (c : VReg) (e : VReg) (z : BitVec 1) (mk : BitVec 4) (t : BitVec 2) (rm : BitVec 3)
  | vfnmsW (d : VReg) (b : VReg) (c : VReg) (e : VReg) (z : BitVec 1) (mk : BitVec 4) (t : BitVec 2) (rm : BitVec 3)
  | vmacW (d : VReg) (b : VReg) (c : VReg) (e : VReg) (z : BitVec 1) (mk : BitVec 4) (t : BitVec 2) (sat : BitVec 2)
  | vdotW (d : VReg) (b : VReg) (c : VReg) (e : VReg) (z : BitVec 1) (mk : BitVec 4) (t : BitVec 2) (sat : BitVec 2)
  | vdotuW (d : VReg) (b : VReg) (c : VReg) (e : VReg) (z : BitVec 1) (mk : BitVec 4) (t : BitVec 2) (sat : BitVec 2)
  | vseq (d : VReg) (b : VReg) (c : VReg) (mk : BitVec 4) (t : BitVec 2)
  | vsne (d : VReg) (b : VReg) (c : VReg) (mk : BitVec 4) (t : BitVec 2)
  | vslt (d : VReg) (b : VReg) (c : VReg) (mk : BitVec 4) (t : BitVec 2)
  | vsle (d : VReg) (b : VReg) (c : VReg) (mk : BitVec 4) (t : BitVec 2)
  | vsltu (d : VReg) (b : VReg) (c : VReg) (mk : BitVec 4) (t : BitVec 2)
  | vsleu (d : VReg) (b : VReg) (c : VReg) (mk : BitVec 4) (t : BitVec 2)
  | vseqW (d : VReg) (b : VReg) (c : VReg) (z : BitVec 1) (mk : BitVec 4) (t : BitVec 2)
  | vsneW (d : VReg) (b : VReg) (c : VReg) (z : BitVec 1) (mk : BitVec 4) (t : BitVec 2)
  | vsltW (d : VReg) (b : VReg) (c : VReg) (z : BitVec 1) (mk : BitVec 4) (t : BitVec 2)
  | vsleW (d : VReg) (b : VReg) (c : VReg) (z : BitVec 1) (mk : BitVec 4) (t : BitVec 2)
  | vsltuW (d : VReg) (b : VReg) (c : VReg) (z : BitVec 1) (mk : BitVec 4) (t : BitVec 2)
  | vsleuW (d : VReg) (b : VReg) (c : VReg) (z : BitVec 1) (mk : BitVec 4) (t : BitVec 2)
  | vfeq (d : VReg) (b : VReg) (c : VReg) (z : BitVec 1) (mk : BitVec 4) (t : BitVec 2)
  | vfne (d : VReg) (b : VReg) (c : VReg) (z : BitVec 1) (mk : BitVec 4) (t : BitVec 2)
  | vflt (d : VReg) (b : VReg) (c : VReg) (z : BitVec 1) (mk : BitVec 4) (t : BitVec 2)
  | vfle (d : VReg) (b : VReg) (c : VReg) (z : BitVec 1) (mk : BitVec 4) (t : BitVec 2)
  | vfun (d : VReg) (b : VReg) (c : VReg) (z : BitVec 1) (mk : BitVec 4) (t : BitVec 2)
  | vmov (d : VReg) (b : VReg) (mk : BitVec 4) (t : BitVec 2)
  | vbcast (d : VReg) (c : SReg) (mk : BitVec 4) (t : BitVec 2)
  | vsldn (d : VReg) (b : VReg) (c : SReg) (mk : BitVec 4) (t : BitVec 2)
  | vslup (d : VReg) (b : VReg) (c : SReg) (mk : BitVec 4) (t : BitVec 2)
  | vperm (d : VReg) (b : VReg) (c : VReg) (mk : BitVec 4) (t : BitVec 2)
  | vins (d : VReg) (b : SReg) (c : SReg) (mk : BitVec 4) (t : BitVec 2)
  | vext (d : SReg) (b : VReg) (c : SReg) (t : BitVec 2)
  | vmovW (d : VReg) (b : VReg) (mk : BitVec 4) (t : BitVec 2)
  | vbcastW (d : VReg) (c : SReg) (mk : BitVec 4) (t : BitVec 2)
  | vsldnW (d : VReg) (b : VReg) (c : SReg) (mk : BitVec 4) (t : BitVec 2)
  | vslupW (d : VReg) (b : VReg) (c : SReg) (mk : BitVec 4) (t : BitVec 2)
  | vpermW (d : VReg) (b : VReg) (c : VReg) (mk : BitVec 4) (t : BitVec 2)
  | vinsW (d : VReg) (b : SReg) (c : SReg) (mk : BitVec 4) (t : BitVec 2)
  | vextW (d : SReg) (b : VReg) (c : SReg) (t : BitVec 2)
  | vrsum (d : SReg) (b : VReg) (mk : BitVec 4) (t : BitVec 2)
  | vrmin (d : SReg) (b : VReg) (mk : BitVec 4) (t : BitVec 2)
  | vrmax (d : SReg) (b : VReg) (mk : BitVec 4) (t : BitVec 2)
  | vrminu (d : SReg) (b : VReg) (mk : BitVec 4) (t : BitVec 2)
  | vrmaxu (d : SReg) (b : VReg) (mk : BitVec 4) (t : BitVec 2)
  | vrpopc (d : SReg) (b : VReg) (mk : BitVec 4) (t : BitVec 2)
  | vrsumW (d : SReg) (b : VReg) (mk : BitVec 4) (t : BitVec 2)
  | vrminW (d : SReg) (b : VReg) (mk : BitVec 4) (t : BitVec 2)
  | vrmaxW (d : SReg) (b : VReg) (mk : BitVec 4) (t : BitVec 2)
  | vrminuW (d : SReg) (b : VReg) (mk : BitVec 4) (t : BitVec 2)
  | vrmaxuW (d : SReg) (b : VReg) (mk : BitVec 4) (t : BitVec 2)
  | vrpopcW (d : SReg) (b : VReg) (mk : BitVec 4) (t : BitVec 2)
  | vrfsum (d : SReg) (b : VReg) (mk : BitVec 4) (t : BitVec 2) (rm : BitVec 3)
  | vrfmin (d : SReg) (b : VReg) (mk : BitVec 4) (t : BitVec 2) (rm : BitVec 3)
  | vrfmax (d : SReg) (b : VReg) (mk : BitVec 4) (t : BitVec 2) (rm : BitVec 3)
  | vrfsumo (d : SReg) (b : VReg) (c : SReg) (mk : BitVec 4) (t : BitVec 2) (rm : BitVec 3)
  | vftoi (d : VReg) (b : VReg) (mk : BitVec 4) (sat : BitVec 1)
  | vftoiu (d : VReg) (b : VReg) (mk : BitVec 4) (sat : BitVec 1)
  | vitof (d : VReg) (b : VReg) (mk : BitVec 4)
  | vutof (d : VReg) (b : VReg) (mk : BitVec 4)
  | vcvt (d : VReg) (b : VReg) (p : BitVec 4) (r : VReg) (mk : BitVec 4) (fs : BitVec 4) (fd : BitVec 4) (rm : BitVec 3) (sat : BitVec 1)
  | vexp2 (d : VReg) (b : VReg) (mk : BitVec 4) (t : BitVec 2)
  | vlog2 (d : VReg) (b : VReg) (mk : BitVec 4) (t : BitVec 2)
  | vrcp (d : VReg) (b : VReg) (mk : BitVec 4) (t : BitVec 2)
  | vrsqrt (d : VReg) (b : VReg) (mk : BitVec 4) (t : BitVec 2)
  | vtanh (d : VReg) (b : VReg) (mk : BitVec 4) (t : BitVec 2)
  | vsig (d : VReg) (b : VReg) (mk : BitVec 4) (t : BitVec 2)
  | vexp (d : VReg) (b : VReg) (mk : BitVec 4) (t : BitVec 2)
  | vexp2W (d : VReg) (b : VReg) (mk : BitVec 4) (t : BitVec 2) (rm : BitVec 3)
  | vlog2W (d : VReg) (b : VReg) (mk : BitVec 4) (t : BitVec 2) (rm : BitVec 3)
  | vrcpW (d : VReg) (b : VReg) (mk : BitVec 4) (t : BitVec 2) (rm : BitVec 3)
  | vrsqrtW (d : VReg) (b : VReg) (mk : BitVec 4) (t : BitVec 2) (rm : BitVec 3)
  | vtanhW (d : VReg) (b : VReg) (mk : BitVec 4) (t : BitVec 2) (rm : BitVec 3)
  | vsigW (d : VReg) (b : VReg) (mk : BitVec 4) (t : BitVec 2) (rm : BitVec 3)
  | vexpW (d : VReg) (b : VReg) (mk : BitVec 4) (t : BitVec 2) (rm : BitVec 3)
  | modeM
  | modeV
  | mzero
  | mrnsoutRes30 (n : BitVec 5)
  | mrnsoutRes15 (n : BitVec 5)
  | mma (k : SReg) (b : SReg) (c : SReg) (za : BitVec 1)
  | mmas (k : SReg) (b : SReg) (c : SReg) (za : BitVec 1)
  | mmaW (k : SReg) (b : SReg) (c : SReg) (za : BitVec 1) (fa : BitVec 4) (fb : BitVec 4)
  | mmasW (k : SReg) (b : SReg) (c : SReg) (za : BitVec 1) (fa : BitVec 4) (fb : BitVec 4)
  | sclfeed (b : SReg) (c : SReg)
  | mplane (a : SReg) (b : SReg) (c : SReg) (sh : BitVec 1)
  | munpl (a : SReg) (b : SReg) (c : SReg) (sh : BitVec 1)
  | mrnsin (a : SReg) (b : SReg) (dst : BitVec 1) (fs : BitVec 4)
  | mplaneW (a : SReg) (b : SReg) (c : SReg) (n : SReg) (fmt : BitVec 4)
  | munplW (a : SReg) (b : SReg) (c : SReg) (n : SReg) (fmt : BitVec 4)
  | mrnsinW (a : SReg) (b : SReg) (n : SReg) (dst : BitVec 1) (fs : BitVec 4)
  | dld (d : DReg) (b : SReg)
  | dsv (d : DReg) (b : SReg)
  | dput (d : DReg) (c : SReg) (w : BitVec 2)
  | dget (d : SReg) (b : DReg) (w : BitVec 2)
  | dins (d : DReg) (c : SReg) (w : BitVec 2) (pos : BitVec 6) (lenM1 : BitVec 6)
  | dinit (d : DReg) (b : SReg) (c : SReg) (tr : BitVec 1) (ro : BitVec 16) (co : BitVec 16)
  | tmul (d : DReg) (b : DReg) (c : DReg) (acc : BitVec 1) (kM1 : BitVec 11)
  | tadd (d : DReg) (b : DReg) (c : DReg)
  | tsub (d : DReg) (b : DReg) (c : DReg)
  | tmax (d : DReg) (b : DReg) (c : DReg)
  | tcvt (d : DReg) (b : DReg) (sat : BitVec 1) (rm : BitVec 3)
  | tred (d : DReg) (b : DReg) (op : BitVec 1)
  | taddW (d : DReg) (b : DReg) (c : DReg) (rm : BitVec 3)
  | tsubW (d : DReg) (b : DReg) (c : DReg) (rm : BitVec 3)
  | tmaxW (d : DReg) (b : DReg) (c : DReg) (rm : BitVec 3)
  | tmap (d : DReg) (b : DReg) (c : SReg) (e : SReg) (fn : BitVec 2) (rm : BitVec 3)
  | force
  | forceM (b : DReg)
  | forceW (b : DReg) (rb : BitVec 8) (nbM1 : BitVec 8)
  | tdrop
  | tdropM (n : BitVec 3)
  | tqry (d : SReg) (n : BitVec 3)
  | tst (d : DReg) (b : DReg)
  | cp (t : SReg) (b : SReg) (c : SReg) (rs : BitVec 1)
  | cps (t : SReg) (b : SReg) (c : SReg) (g : SReg) (rs : BitVec 1) (dec : BitVec 16)
  | draw (d : SReg)
  | drawV (d : VReg)
  | rngkey (k : SReg) (b : SReg) (c : SReg)
  | rngadv (b : SReg) (c : SReg)
  | stamp (k : BitVec 2)
  | stampClose
  | stampOpen (b : SReg)
  | trmark (b : SReg) (code : BitVec 6)
  | epreg (d : SReg) (b : SReg)
  | rpost (k : SReg) (hd : SReg) (r : VReg)
  | rlver (d : SReg) (b : SReg) (c : SReg) (g : BitVec 4)
  | rjqry (d : SReg) (b : SReg) (g : BitVec 4)
  | tcinv (sc : BitVec 3)
  | tcinvM (b : SReg) (c : SReg) (sc : BitVec 3)
  | sleep (b : SReg)
  | gridOperationComplete (core : Nat)
  | blockEvaluation (core : Nat)
  | copyCommandStart (core : Nat)
  | copyCommandEnd (core : Nat)
  | sleepExpiry (core : Nat) (slot : BitVec 3)
  | bankOperation (core : Nat) (slot : BitVec 3) (acc : Nat)
  | waiterReevaluation (w : Nat)
  | rdrReissue (core : Nat) (slot : BitVec 3)
  | remoteWaitRetry (core : Nat) (slot : BitVec 3)
  | tagWaitWatchdog (core : Nat) (agent : BitVec 2) (slot : BitVec 3)
  | accessCompletion (core : Nat) (slot : BitVec 3) (acc : Nat) (point : BitVec 3)
  | backgroundSpill (core : Nat) (slot : BitVec 3)
  | barrierRoundRelease (sc : BitVec 3) (key : Nat)
  | gateCommit (core : Nat)
  | ungateStart (core : Nat)
  | ungateComplete (core : Nat)
  | lateTrapEntry (core : Nat) (slot : BitVec 3)
  | preemptNotice (core : Nat) (slot : BitVec 3)
  | pbudgetExpiry (core : Nat) (slot : BitVec 3)
  | preemptSave (g : Nat)
  | gangResume (g : Nat)
  | translationWalk (w : Nat)
  | fackStore (fn : BitVec 6) (idx : BitVec 32)
  | queueWriteStore (q : BitVec 13) (v : BitVec 32)
  | prioStore (q : BitVec 13) (v : BitVec 3)
  | preemptRequest (q : BitVec 13)
  | dependenceReread
  | packetSelection
  | gangPlacement
  | placementWaitExpiry (l : Nat)
  | launchCompletion (l : Nat)
  | rewardMessageHandling (u : BitVec 1)
  | partRecorded (u : BitVec 1) (ent : Nat)
  | zeroFillDone (u : BitVec 1) (ent : Nat)
  | deadline (u : BitVec 1)
  | fullerScanDone (u : BitVec 1) (ent : Nat)
  | episodeRelease (u : BitVec 1) (ent : Nat)
  | lreadReread (u : BitVec 1) (grp : Nat)
  | readMsg (m : Msg)
  | readReply (m : Msg)
  | writeMsg (m : Msg)
  | acknowledge (m : Msg)
  | atomicMsg (m : Msg)
  | atomicReply (m : Msg)
  | putWithSignal (m : Msg)
  | rewardMsg (m : Msg)
  | barrierMsg (m : Msg)
  | stopMessage (m : Msg)
  | errorMsg (m : Msg)
  | sessionMsg (m : Msg)
  | linkFailure (k : Nat)
  | stopTakesEffect (core : Nat)
  | stopCmd (core : Nat)
  | resumeCmd (core : Nat)
  | resumeTakesEffect (core : Nat)
  | stepCmd (core : Nat) (slot : BitVec 3)
  | wpctlWrite (core : Nat) (n : BitVec 2) (v : BitVec 64)
  | slotWindowWrite (core : Nat) (slot : BitVec 3) (off : BitVec 12) (v : BitVec 64)
  | registerWrite (a : Nat) (v : BitVec 64)
  | dumpGang
  | rctlStore (fn : BitVec 6) (v : BitVec 64)
  | invalidateTranslations (fn : BitVec 6)
  | invalidateRange (fn : BitVec 6)
  | functionLevelReset (fn : BitVec 6)
  | replay (fn : BitVec 6)
  | assign (fn : BitVec 6)
  | release (fn : BitVec 6)
  | create (fn : BitVec 6)
  | destroy (fn : BitVec 6)
  | queueOp (fn : BitVec 6)
  | region (fn : BitVec 6)
  | report (fn : BitVec 6)
  | extend (fn : BitVec 6)
  | sessionOperation (fn : BitVec 6)
  | rootOp (fn : BitVec 6)
  | writeOperation (fn : BitVec 6)
  | sleepOperation (fn : BitVec 6)
  | deepSleepEntry
  | managementWake
  | coldReset
  | powerLoss
  | thermalWarning (die : BitVec 3)
  | thermalWarningClear (die : BitVec 3)
  | criticalTrip
  | debugUnlock (dev : BitVec 64) (life : BitVec 3) (nonce : BitVec 256) (perm : BitVec 8) (sig : Nat)
  | provisioning
  | productionFuse
  | retireFuse
  | notAnInstruction (cls : BitVec 5) (code : BitVec 16) (tval : BitVec 64)
  | flushiAcknowledgement (core : Nat) (slot : BitVec 3)
  | tcinvAcknowledgement (core : Nat) (slot : BitVec 3)
  | unitInstructionHandling (u : BitVec 1)
  | fabricDrop (m : Msg)
  | cxlLinkDown (p : BitVec 2)
deriving DecidableEq, Repr

end Sys2Proof
end

