-- ==== Sys2Proof/WellFormed.lean ====
section
/-!
DEFINITION. Which instructions are well formed: every field within the limits of its entry (07 R120, checks 5 and 6).
-/

namespace Sys2Proof

/-- The control registers of R110, by number. -/
def CReg.known (n : BitVec 11) : Bool :=
  let k := n.toNat
  k ≤ 0x007 || (0x010 ≤ k && k ≤ 0x017) || (0x020 ≤ k && k ≤ 0x022) || (0x028 ≤ k && k ≤ 0x02A) ||
  (0x030 ≤ k && k ≤ 0x032) || (0x040 ≤ k && k ≤ 0x045) || (0x050 ≤ k && k ≤ 0x052)

/-- Scope codes that FENCE and SBARV accept (R215). -/
def scopeFence (sc : BitVec 3) : Bool := sc == 1 || sc == 2 || sc == 3 || sc == 4 || sc == 6

/-- Scope codes that BAR, BARA and BARW accept (R215). -/
def scopeBar (sc : BitVec 3) : Bool := sc != 6 && sc != 7

/-- Scope codes that FLUSHI accepts (R215). -/
def scopeFlush (sc : BitVec 3) : Bool := sc == 1 || sc == 2 || sc == 3 || sc == 4

/-- Scope codes that TCINV accepts (R357). -/
def scopeTc (sc : BitVec 3) : Bool := sc == 2 || sc == 3 || sc == 4

/-- A mask field without ME has MF and MS zero (R182). -/
def mkOk (mk : BitVec 4) : Bool := mk.getLsbD 3 || mk.extractLsb' 0 3 == 0#3

/-- Rounding codes outside a stochastic conversion: 0 to 3 and DYN (R73, R240). -/
def rmPlain (rm : BitVec 3) : Bool := rm == 0 || rm == 1 || rm == 2 || rm == 3 || rm == 7

/-- Element widths that VDOT and VDOTU accept (R249). -/
def tDot (t : BitVec 2) : Bool := t == 1 || t == 2

/-- Formats that MRNSIN reads: 0x8 to 0xD (R272). -/
def fmtInt (f : BitVec 4) : Bool := 8 ≤ f.toNat && f.toNat ≤ 13

/-- Container width of a format (R62, R63). -/
def fmtContainer (f : BitVec 4) : Nat :=
  match f.toNat with
  | 0 | 1 | 2 | 3 | 8 | 9 => 8
  | 4 | 10 | 11 => 4
  | 5 | 6 | 12 | 15 => 16
  | 13 => 2
  | _ => 32

/-- Destinations that a stochastic conversion may have (R73): E4M3, E5M2, E3M2, E2M3, E2M1, BF16 and FP16. -/
def fmtSr (f : BitVec 4) : Bool := f.toNat ≤ 6

/-- Values of a VCVT's fields that R73, R254 and R255 refuse: a residue format, a part beyond the ratio of the widths,
a reserved rounding code, SR to another destination. -/
def vcvtIllegal (p fs fd : BitVec 4) (rm : BitVec 3) : Bool :=
  14 ≤ fs.toNat || 14 ≤ fd.toNat || rm == 5 || rm == 6 || (rm == 4 && !fmtSr fd) ||
  decide (max (fmtContainer fs) (fmtContainer fd) / min (fmtContainer fs) (fmtContainer fd) ≤ p.toNat)

/-- The limits that the entries put on the operands of an instruction, beyond the widths of their fields:
the values that checks 5 and 6 of R120 refuse. -/
def Instr.wf : Instr → Bool
  | .add _ _ _ sat => !(sat == 3#2)
  | .sub _ _ _ sat => !(sat == 3#2)
  | .andR _ _ _ => true
  | .orR _ _ _ => true
  | .xorR _ _ _ => true
  | .sll _ _ _ => true
  | .srl _ _ _ => true
  | .sra _ _ _ => true
  | .addI _ _ _ => true
  | .rsubI _ _ _ => true
  | .andI _ _ _ => true
  | .orI _ _ _ => true
  | .xorI _ _ _ => true
  | .sllI _ _ imm => !(decide (64 ≤ imm.toNat))
  | .srlI _ _ imm => !(decide (64 ≤ imm.toNat))
  | .sraI _ _ imm => !(decide (64 ≤ imm.toNat))
  | .addW _ _ _ => true
  | .rsubW _ _ _ => true
  | .andW _ _ _ => true
  | .orW _ _ _ => true
  | .xorW _ _ _ => true
  | .sllW _ _ imm => !(decide (64 ≤ imm.toNat))
  | .srlW _ _ imm => !(decide (64 ≤ imm.toNat))
  | .sraW _ _ imm => !(decide (64 ≤ imm.toNat))
  | .seq _ _ _ => true
  | .sne _ _ _ => true
  | .slt _ _ _ => true
  | .sltu _ _ _ => true
  | .sle _ _ _ => true
  | .sleu _ _ _ => true
  | .minS _ _ _ => true
  | .minU _ _ _ => true
  | .maxS _ _ _ => true
  | .maxU _ _ _ => true
  | .seqW _ _ _ => true
  | .sneW _ _ _ => true
  | .sltW _ _ _ => true
  | .sltuW _ _ _ => true
  | .sleW _ _ _ => true
  | .sleuW _ _ _ => true
  | .minW _ _ _ => true
  | .minuW _ _ _ => true
  | .maxW _ _ _ => true
  | .maxuW _ _ _ => true
  | .mul _ _ _ => true
  | .mulh _ _ _ => true
  | .mulhu _ _ _ => true
  | .mulhsu _ _ _ => true
  | .div _ _ _ => true
  | .divu _ _ _ => true
  | .rem _ _ _ => true
  | .remu _ _ _ => true
  | .clz _ _ => true
  | .ctz _ _ => true
  | .popc _ _ => true
  | .brev _ _ => true
  | .bswap _ _ => true
  | .rol _ _ _ => true
  | .ror _ _ _ => true
  | .ext _ _ pos lenM1 => !(decide (64 < pos.toNat + lenM1.toNat + 1))
  | .extu _ _ pos lenM1 => !(decide (64 < pos.toNat + lenM1.toNat + 1))
  | .ins _ _ pos lenM1 => !(decide (64 < pos.toNat + lenM1.toNat + 1))
  | .li _ _ => true
  | .liZ _ _ => true
  | .liW _ _ => true
  | .liZW _ _ => true
  | .lih _ _ => true
  | .liX0 _ _ => true
  | .liZX0 _ _ => true
  | .lea _ _ _ => true
  | .leaW _ _ _ => true
  | .leaX1 _ _ _ _ _ => true
  | .mov _ _ => true
  | .sel _ _ _ _ => true
  | .beqz _ _ => true
  | .bnez _ _ => true
  | .bltz _ _ => true
  | .bgez _ _ => true
  | .bgtz _ _ => true
  | .blez _ _ => true
  | .beq _ _ _ => true
  | .bne _ _ _ => true
  | .blt _ _ _ => true
  | .bge _ _ _ => true
  | .bltu _ _ _ => true
  | .bgeu _ _ _ => true
  | .br _ => true
  | .call _ => true
  | .dbnz _ _ => true
  | .jt _ _ _ _ => true
  | .callt _ _ _ _ => true
  | .jtW _ _ _ _ => true
  | .calltW _ _ _ _ => true
  | .lpad _ => true
  | .nop => true
  | .exit => true
  | .rets _ => true
  | .ret => true
  | .trap _ _ => true
  | .eret => true
  | .mfc _ n => !(!CReg.known n)
  | .mtc _ n => !(!CReg.known n)
  | .ld _ _ _ => true
  | .lw _ _ _ => true
  | .lwu _ _ _ => true
  | .lh _ _ _ => true
  | .lhu _ _ _ => true
  | .lb _ _ _ => true
  | .lbu _ _ _ => true
  | .ldW _ _ _ _ => true
  | .lwW _ _ _ _ => true
  | .lwuW _ _ _ _ => true
  | .lhW _ _ _ _ => true
  | .lhuW _ _ _ _ => true
  | .lbW _ _ _ _ => true
  | .lbuW _ _ _ _ => true
  | .ldX1 _ _ _ _ _ => true
  | .lwX1 _ _ _ _ _ => true
  | .lwuX1 _ _ _ _ _ => true
  | .lhX1 _ _ _ _ _ => true
  | .lhuX1 _ _ _ _ _ => true
  | .lbX1 _ _ _ _ _ => true
  | .lbuX1 _ _ _ _ _ => true
  | .st _ _ _ => true
  | .sw _ _ _ => true
  | .sh _ _ _ => true
  | .sb _ _ _ => true
  | .stW _ _ _ _ => true
  | .swW _ _ _ _ => true
  | .shW _ _ _ _ => true
  | .sbW _ _ _ _ => true
  | .stX1 _ _ _ _ _ => true
  | .swX1 _ _ _ _ _ => true
  | .shX1 _ _ _ _ _ => true
  | .sbX1 _ _ _ _ _ => true
  | .vld _ _ mk _ => mkOk mk
  | .vst _ _ mk _ => mkOk mk
  | .vlds _ _ _ mk _ => mkOk mk
  | .vsts _ _ _ mk _ => mkOk mk
  | .vldW _ _ mk _ _ _ => mkOk mk
  | .vstW _ _ mk _ _ _ => mkOk mk
  | .vldsW _ _ _ mk _ _ _ => mkOk mk
  | .vstsW _ _ _ mk _ _ _ => mkOk mk
  | .vldX1 _ _ mk _ _ _ => mkOk mk
  | .vstX1 _ _ mk _ _ _ => mkOk mk
  | .vldsX1 _ _ _ mk _ _ _ => mkOk mk
  | .vstsX1 _ _ _ mk _ _ _ => mkOk mk
  | .vgath _ _ _ mk _ => mkOk mk
  | .vscat _ _ _ mk _ => mkOk mk
  | .vgathW _ _ _ mk _ _ _ => mkOk mk
  | .vscatW _ _ _ mk _ _ _ => mkOk mk
  | .aadd _ _ _ _ _ => true
  | .aand _ _ _ _ _ => true
  | .aor _ _ _ _ _ => true
  | .axor _ _ _ _ _ => true
  | .aswp _ _ _ _ _ => true
  | .acas _ _ _ _ _ => true
  | .amin _ _ _ _ _ => true
  | .amax _ _ _ _ _ => true
  | .aminu _ _ _ _ _ => true
  | .amaxu _ _ _ _ _ => true
  | .afadd _ _ _ w32 _ => !(w32 == 0#1)
  | .aaddW _ _ _ _ _ _ => true
  | .aandW _ _ _ _ _ _ => true
  | .aorW _ _ _ _ _ _ => true
  | .axorW _ _ _ _ _ _ => true
  | .aswpW _ _ _ _ _ _ => true
  | .acasW _ _ _ _ _ _ => true
  | .aminW _ _ _ _ _ _ => true
  | .amaxW _ _ _ _ _ _ => true
  | .aminuW _ _ _ _ _ _ => true
  | .amaxuW _ _ _ _ _ _ => true
  | .afaddW _ _ _ w32 _ _ => !(w32 == 0#1)
  | .tatsw _ => true
  | .tget _ _ => true
  | .tset _ _ => true
  | .tsetImm _ _ => true
  | .tcas _ _ _ => true
  | .tatld _ _ => true
  | .rmset _ _ => true
  | .fence sc => !(!scopeFence sc)
  | .bar sc => !(!scopeBar sc)
  | .bara sc => !(!scopeBar sc)
  | .barw sc => !(!scopeBar sc)
  | .xfence p q => !(decide (6 ≤ p.toNat) || decide (6 ≤ q.toNat))
  | .sbinit _ _ => true
  | .sbarv _ _ sc => !(!scopeFence sc)
  | .sbwait _ _ _ => true
  | .sbtest _ _ _ => true
  | .waitTag _ _ => true
  | .dqlen _ => true
  | .joinWord _ => true
  | .steal _ _ _ => true
  | .pcon _ _ => true
  | .flushi _ _ sc => !(!scopeFlush sc)
  | .spawn _ _ => true
  | .vadd _ _ _ mk _ => mkOk mk
  | .vsub _ _ _ mk _ => mkOk mk
  | .vmul _ _ _ mk _ => mkOk mk
  | .vmulh _ _ _ mk _ => mkOk mk
  | .vmin _ _ _ mk _ => mkOk mk
  | .vmax _ _ _ mk _ => mkOk mk
  | .vminu _ _ _ mk _ => mkOk mk
  | .vmaxu _ _ _ mk _ => mkOk mk
  | .vaddW _ _ _ _ mk _ sat => !(sat == 3#2) && mkOk mk
  | .vsubW _ _ _ _ mk _ sat => !(sat == 3#2) && mkOk mk
  | .vmulW _ _ _ _ mk _ sat => !(sat == 3#2) && mkOk mk
  | .vmulhW _ _ _ _ mk _ => mkOk mk
  | .vminW _ _ _ _ mk _ => mkOk mk
  | .vmaxW _ _ _ _ mk _ => mkOk mk
  | .vminuW _ _ _ _ mk _ => mkOk mk
  | .vmaxuW _ _ _ _ mk _ => mkOk mk
  | .vand _ _ _ _ mk _ => mkOk mk
  | .vor _ _ _ _ mk _ => mkOk mk
  | .vxor _ _ _ _ mk _ => mkOk mk
  | .vsll _ _ _ _ mk _ => mkOk mk
  | .vsrl _ _ _ _ mk _ => mkOk mk
  | .vsra _ _ _ _ mk _ => mkOk mk
  | .vmulhu _ _ _ _ mk _ => mkOk mk
  | .vabs _ _ mk _ sat => !(decide (2 ≤ sat.toNat)) && mkOk mk
  | .vfadd _ _ _ mk t => !(t == 3#2) && mkOk mk
  | .vfsub _ _ _ mk t => !(t == 3#2) && mkOk mk
  | .vfmul _ _ _ mk t => !(t == 3#2) && mkOk mk
  | .vfdiv _ _ _ mk t => !(t == 3#2) && mkOk mk
  | .vfmin _ _ _ mk t => !(t == 3#2) && mkOk mk
  | .vfmax _ _ _ mk t => !(t == 3#2) && mkOk mk
  | .vfsqrt _ _ mk t => !(t == 3#2) && mkOk mk
  | .vfaddW _ _ _ _ mk t rm => !(t == 3#2 || !rmPlain rm) && mkOk mk
  | .vfsubW _ _ _ _ mk t rm => !(t == 3#2 || !rmPlain rm) && mkOk mk
  | .vfmulW _ _ _ _ mk t rm => !(t == 3#2 || !rmPlain rm) && mkOk mk
  | .vfdivW _ _ _ _ mk t rm => !(t == 3#2 || !rmPlain rm) && mkOk mk
  | .vfminW _ _ _ _ mk t rm => !(t == 3#2 || !rmPlain rm) && mkOk mk
  | .vfmaxW _ _ _ _ mk t rm => !(t == 3#2 || !rmPlain rm) && mkOk mk
  | .vfsqrtW _ _ mk t rm => !(t == 3#2 || !rmPlain rm) && mkOk mk
  | .vfneg _ _ mk t rm => !(t == 3#2 || !rmPlain rm) && mkOk mk
  | .vfabs _ _ mk t rm => !(t == 3#2 || !rmPlain rm) && mkOk mk
  | .vfma _ _ _ mk t => !(t == 3#2) && mkOk mk
  | .vfms _ _ _ mk t => !(t == 3#2) && mkOk mk
  | .vfnma _ _ _ mk t => !(t == 3#2) && mkOk mk
  | .vfnms _ _ _ mk t => !(t == 3#2) && mkOk mk
  | .vmac _ _ _ mk _ => mkOk mk
  | .vdot _ _ _ mk t => !(!tDot t) && mkOk mk
  | .vdotu _ _ _ mk t => !(!tDot t) && mkOk mk
  | .vfmaW _ _ _ e z mk t rm => !(t == 3#2 || !rmPlain rm) && mkOk mk && !(z == 0#1 && e != 0#5)
  | .vfmsW _ _ _ e z mk t rm => !(t == 3#2 || !rmPlain rm) && mkOk mk && !(z == 0#1 && e != 0#5)
  | .vfnmaW _ _ _ e z mk t rm => !(t == 3#2 || !rmPlain rm) && mkOk mk && !(z == 0#1 && e != 0#5)
  | .vfnmsW _ _ _ e z mk t rm => !(t == 3#2 || !rmPlain rm) && mkOk mk && !(z == 0#1 && e != 0#5)
  | .vmacW _ _ _ e z mk _ sat => !(sat == 3#2) && mkOk mk && !(z == 0#1 && e != 0#5)
  | .vdotW _ _ _ e z mk t sat => !(sat == 3#2 || !tDot t) && mkOk mk && !(z == 0#1 && e != 0#5)
  | .vdotuW _ _ _ e z mk t sat => !(sat == 3#2 || !tDot t) && mkOk mk && !(z == 0#1 && e != 0#5)
  | .vseq _ _ _ mk _ => mkOk mk
  | .vsne _ _ _ mk _ => mkOk mk
  | .vslt _ _ _ mk _ => mkOk mk
  | .vsle _ _ _ mk _ => mkOk mk
  | .vsltu _ _ _ mk _ => mkOk mk
  | .vsleu _ _ _ mk _ => mkOk mk
  | .vseqW _ _ _ _ mk _ => mkOk mk
  | .vsneW _ _ _ _ mk _ => mkOk mk
  | .vsltW _ _ _ _ mk _ => mkOk mk
  | .vsleW _ _ _ _ mk _ => mkOk mk
  | .vsltuW _ _ _ _ mk _ => mkOk mk
  | .vsleuW _ _ _ _ mk _ => mkOk mk
  | .vfeq _ _ _ _ mk t => !(t == 3#2) && mkOk mk
  | .vfne _ _ _ _ mk t => !(t == 3#2) && mkOk mk
  | .vflt _ _ _ _ mk t => !(t == 3#2) && mkOk mk
  | .vfle _ _ _ _ mk t => !(t == 3#2) && mkOk mk
  | .vfun _ _ _ _ mk t => !(t == 3#2) && mkOk mk
  | .vmov _ _ mk _ => mkOk mk
  | .vbcast _ _ mk _ => mkOk mk
  | .vsldn _ _ _ mk _ => mkOk mk
  | .vslup _ _ _ mk _ => mkOk mk
  | .vperm _ _ _ mk _ => mkOk mk
  | .vins _ _ _ mk _ => mkOk mk
  | .vext _ _ _ _ => true
  | .vmovW _ _ mk _ => mkOk mk
  | .vbcastW _ _ mk _ => mkOk mk
  | .vsldnW _ _ _ mk _ => mkOk mk
  | .vslupW _ _ _ mk _ => mkOk mk
  | .vpermW _ _ _ mk _ => mkOk mk
  | .vinsW _ _ _ mk _ => mkOk mk
  | .vextW _ _ _ _ => true
  | .vrsum _ _ mk _ => mkOk mk && !(mk.getLsbD 2)
  | .vrmin _ _ mk _ => mkOk mk && !(mk.getLsbD 2)
  | .vrmax _ _ mk _ => mkOk mk && !(mk.getLsbD 2)
  | .vrminu _ _ mk _ => mkOk mk && !(mk.getLsbD 2)
  | .vrmaxu _ _ mk _ => mkOk mk && !(mk.getLsbD 2)
  | .vrpopc _ _ mk _ => mkOk mk && !(mk.getLsbD 2)
  | .vrsumW _ _ mk _ => mkOk mk && !(mk.getLsbD 2)
  | .vrminW _ _ mk _ => mkOk mk && !(mk.getLsbD 2)
  | .vrmaxW _ _ mk _ => mkOk mk && !(mk.getLsbD 2)
  | .vrminuW _ _ mk _ => mkOk mk && !(mk.getLsbD 2)
  | .vrmaxuW _ _ mk _ => mkOk mk && !(mk.getLsbD 2)
  | .vrpopcW _ _ mk _ => mkOk mk && !(mk.getLsbD 2)
  | .vrfsum _ _ mk t rm => !(t == 3#2 || !rmPlain rm) && mkOk mk && !(mk.getLsbD 2)
  | .vrfmin _ _ mk t rm => !(t == 3#2 || !rmPlain rm) && mkOk mk && !(mk.getLsbD 2)
  | .vrfmax _ _ mk t rm => !(t == 3#2 || !rmPlain rm) && mkOk mk && !(mk.getLsbD 2)
  | .vrfsumo _ _ _ mk t rm => !(t == 3#2 || !rmPlain rm) && mkOk mk && !(mk.getLsbD 2)
  | .vftoi _ _ mk _ => mkOk mk
  | .vftoiu _ _ mk _ => mkOk mk
  | .vitof _ _ mk => mkOk mk
  | .vutof _ _ mk => mkOk mk
  | .vcvt _ _ p r mk fs fd rm _ => !(vcvtIllegal p fs fd rm) && mkOk mk && !(rm != 4#3 && r != 0#5)
  | .vexp2 _ _ mk t => !(t != 0#2) && mkOk mk
  | .vlog2 _ _ mk t => !(t != 0#2) && mkOk mk
  | .vrcp _ _ mk t => !(t != 0#2) && mkOk mk
  | .vrsqrt _ _ mk t => !(t != 0#2) && mkOk mk
  | .vtanh _ _ mk t => !(t != 0#2) && mkOk mk
  | .vsig _ _ mk t => !(t != 0#2) && mkOk mk
  | .vexp _ _ mk t => !(t != 0#2) && mkOk mk
  | .vexp2W _ _ mk t rm => !(t != 0#2 || !rmPlain rm) && mkOk mk
  | .vlog2W _ _ mk t rm => !(t != 0#2 || !rmPlain rm) && mkOk mk
  | .vrcpW _ _ mk t rm => !(t != 0#2 || !rmPlain rm) && mkOk mk
  | .vrsqrtW _ _ mk t rm => !(t != 0#2 || !rmPlain rm) && mkOk mk
  | .vtanhW _ _ mk t rm => !(t != 0#2 || rm != 7#3) && mkOk mk
  | .vsigW _ _ mk t rm => !(t != 0#2 || rm != 7#3) && mkOk mk
  | .vexpW _ _ mk t rm => !(t != 0#2 || rm != 7#3) && mkOk mk
  | .modeM => true
  | .modeV => true
  | .mzero => true
  | .mrnsoutRes30 _ => true
  | .mrnsoutRes15 _ => true
  | .mma _ _ _ _ => true
  | .mmas _ _ _ _ => true
  | .mmaW _ _ _ _ _ _ => true
  | .mmasW _ _ _ _ _ _ => true
  | .sclfeed _ _ => true
  | .mplane _ _ _ _ => true
  | .munpl _ _ _ _ => true
  | .mrnsin _ _ _ fs => !(!fmtInt fs)
  | .mplaneW _ _ _ _ _ => true
  | .munplW _ _ _ _ _ => true
  | .mrnsinW _ _ _ _ fs => !(!fmtInt fs)
  | .dld _ _ => true
  | .dsv _ _ => true
  | .dput _ _ _ => true
  | .dget _ _ _ => true
  | .dins _ _ _ pos lenM1 => !(decide (64 < pos.toNat + lenM1.toNat + 1))
  | .dinit _ _ _ _ _ _ => true
  | .tmul _ _ _ _ kM1 => !(kM1 == 2047#11)
  | .tadd _ _ _ => true
  | .tsub _ _ _ => true
  | .tmax _ _ _ => true
  | .tcvt _ _ _ rm => !(!rmPlain rm)
  | .tred _ _ _ => true
  | .taddW _ _ _ rm => !(!rmPlain rm)
  | .tsubW _ _ _ rm => !(!rmPlain rm)
  | .tmaxW _ _ _ rm => !(!rmPlain rm) && !(rm != 0#3)
  | .tmap _ _ _ _ fn rm => !(fn == 3#2 || !rmPlain rm)
  | .force => true
  | .forceM _ => true
  | .forceW _ _ _ => true
  | .tdrop => true
  | .tdropM _ => true
  | .tqry _ _ => true
  | .tst _ _ => true
  | .cp _ _ _ _ => true
  | .cps _ _ _ _ _ dec => !(dec == 0#16)
  | .draw _ => true
  | .drawV _ => true
  | .rngkey _ _ _ => true
  | .rngadv _ _ => true
  | .stamp _ => true
  | .stampClose => true
  | .stampOpen _ => true
  | .trmark _ _ => true
  | .epreg _ _ => true
  | .rpost _ _ _ => true
  | .rlver _ _ _ _ => true
  | .rjqry _ _ _ => true
  | .tcinv sc => !(!scopeTc sc)
  | .tcinvM _ _ sc => !(!scopeTc sc)
  | .sleep _ => true
  | .gridOperationComplete _ => true
  | .blockEvaluation _ => true
  | .copyCommandStart _ => true
  | .copyCommandEnd _ => true
  | .sleepExpiry _ _ => true
  | .bankOperation _ _ _ => true
  | .waiterReevaluation _ => true
  | .rdrReissue _ _ => true
  | .remoteWaitRetry _ _ => true
  | .tagWaitWatchdog _ _ _ => true
  | .accessCompletion _ _ _ _ => true
  | .backgroundSpill _ _ => true
  | .barrierRoundRelease _ _ => true
  | .gateCommit _ => true
  | .ungateStart _ => true
  | .ungateComplete _ => true
  | .lateTrapEntry _ _ => true
  | .preemptNotice _ _ => true
  | .pbudgetExpiry _ _ => true
  | .preemptSave _ => true
  | .gangResume _ => true
  | .translationWalk _ => true
  | .fackStore _ _ => true
  | .queueWriteStore _ _ => true
  | .prioStore _ _ => true
  | .preemptRequest _ => true
  | .dependenceReread => true
  | .packetSelection => true
  | .gangPlacement => true
  | .placementWaitExpiry _ => true
  | .launchCompletion _ => true
  | .rewardMessageHandling _ => true
  | .partRecorded _ _ => true
  | .zeroFillDone _ _ => true
  | .deadline _ => true
  | .fullerScanDone _ _ => true
  | .episodeRelease _ _ => true
  | .lreadReread _ _ => true
  | .readMsg _ => true
  | .readReply _ => true
  | .writeMsg _ => true
  | .acknowledge _ => true
  | .atomicMsg _ => true
  | .atomicReply _ => true
  | .putWithSignal _ => true
  | .rewardMsg _ => true
  | .barrierMsg _ => true
  | .stopMessage _ => true
  | .errorMsg _ => true
  | .sessionMsg _ => true
  | .linkFailure _ => true
  | .stopTakesEffect _ => true
  | .stopCmd _ => true
  | .resumeCmd _ => true
  | .resumeTakesEffect _ => true
  | .stepCmd _ _ => true
  | .wpctlWrite _ _ _ => true
  | .slotWindowWrite _ _ _ _ => true
  | .registerWrite _ _ => true
  | .dumpGang => true
  | .rctlStore _ _ => true
  | .invalidateTranslations _ => true
  | .invalidateRange _ => true
  | .functionLevelReset _ => true
  | .replay _ => true
  | .assign _ => true
  | .release _ => true
  | .create _ => true
  | .destroy _ => true
  | .queueOp _ => true
  | .region _ => true
  | .report _ => true
  | .extend _ => true
  | .sessionOperation _ => true
  | .rootOp _ => true
  | .writeOperation _ => true
  | .sleepOperation _ => true
  | .deepSleepEntry => true
  | .managementWake => true
  | .coldReset => true
  | .powerLoss => true
  | .thermalWarning _ => true
  | .thermalWarningClear _ => true
  | .criticalTrip => true
  | .debugUnlock _ _ _ _ _ => true
  | .provisioning => true
  | .productionFuse => true
  | .retireFuse => true
  | .notAnInstruction _ _ _ => true
  | .flushiAcknowledgement _ _ => true
  | .tcinvAcknowledgement _ _ => true
  | .unitInstructionHandling _ => true
  | .fabricDrop _ => true
  | .cxlLinkDown _ => true

end Sys2Proof
end

