-- ==== Sys2Proof/Decode.lean ====
section
/-!
DEFINITION. Decoding, total on any line: which slots of a line hold an instruction (07 R112, R113), the instruction of a
head and its tail or the first check of R120 that they fail, and the encoder, written from the same tables.
-/

namespace Sys2Proof

/-- Why a slot gives no instruction. -/
inductive Reject where
  /-- The head's tail would cover its own head or an earlier one (R113; R120 check 1). -/
  | overlappingHead
  /-- R120 check 2. -/
  | reservedMajor
  /-- R120 check 3. -/
  | undefinedTail
  /-- R120 check 4. -/
  | reservedMinor
  /-- R120 check 5. -/
  | reservedValue
  /-- R120 check 6. -/
  | reservedField
  /-- The slot holds no instruction (R114). -/
  | emptySlot
deriving DecidableEq, Repr

/-- The tail of an instruction as one value: T1 its most significant parcel (R117). -/
inductive Tail where
  | none
  | one (v : BitVec 16)
  | two (v : BitVec 32)
  | three (v : BitVec 48)
deriving DecidableEq, Repr

/-- Check 5, then check 6, of R120. -/
def checked (illegal clear : Bool) (i : Instr) : Except Reject Instr :=
  if illegal then .error .reservedValue else if clear then .ok i else .error .reservedField

def dec_add (h : BitVec 16) (v : BitVec 16) : Except Reject Instr :=
  let d : SReg := h.extractLsb' 3 5
  let b : SReg := v.extractLsb' 11 5
  let c : SReg := v.extractLsb' 6 5
  let sat : BitVec 2 := v.extractLsb' 0 2
  checked (sat == 3#2) ((v.extractLsb' 2 4) == 0#4) (.add d b c sat)

def dec_sub (h : BitVec 16) (v : BitVec 16) : Except Reject Instr :=
  let d : SReg := h.extractLsb' 3 5
  let b : SReg := v.extractLsb' 11 5
  let c : SReg := v.extractLsb' 6 5
  let sat : BitVec 2 := v.extractLsb' 0 2
  checked (sat == 3#2) ((v.extractLsb' 2 4) == 0#4) (.sub d b c sat)

def dec_andR (h : BitVec 16) (v : BitVec 16) : Except Reject Instr :=
  let d : SReg := h.extractLsb' 3 5
  let b : SReg := v.extractLsb' 11 5
  let c : SReg := v.extractLsb' 6 5
  checked false ((v.extractLsb' 0 6) == 0#6) (.andR d b c)

def dec_orR (h : BitVec 16) (v : BitVec 16) : Except Reject Instr :=
  let d : SReg := h.extractLsb' 3 5
  let b : SReg := v.extractLsb' 11 5
  let c : SReg := v.extractLsb' 6 5
  checked false ((v.extractLsb' 0 6) == 0#6) (.orR d b c)

def dec_xorR (h : BitVec 16) (v : BitVec 16) : Except Reject Instr :=
  let d : SReg := h.extractLsb' 3 5
  let b : SReg := v.extractLsb' 11 5
  let c : SReg := v.extractLsb' 6 5
  checked false ((v.extractLsb' 0 6) == 0#6) (.xorR d b c)

def dec_sll (h : BitVec 16) (v : BitVec 16) : Except Reject Instr :=
  let d : SReg := h.extractLsb' 3 5
  let b : SReg := v.extractLsb' 11 5
  let c : SReg := v.extractLsb' 6 5
  checked false ((v.extractLsb' 0 6) == 0#6) (.sll d b c)

def dec_srl (h : BitVec 16) (v : BitVec 16) : Except Reject Instr :=
  let d : SReg := h.extractLsb' 3 5
  let b : SReg := v.extractLsb' 11 5
  let c : SReg := v.extractLsb' 6 5
  checked false ((v.extractLsb' 0 6) == 0#6) (.srl d b c)

def dec_sra (h : BitVec 16) (v : BitVec 16) : Except Reject Instr :=
  let d : SReg := h.extractLsb' 3 5
  let b : SReg := v.extractLsb' 11 5
  let c : SReg := v.extractLsb' 6 5
  checked false ((v.extractLsb' 0 6) == 0#6) (.sra d b c)

def dec_addI (h : BitVec 16) (v : BitVec 16) : Except Reject Instr :=
  let d : SReg := h.extractLsb' 3 5
  let b : SReg := v.extractLsb' 11 5
  let imm : BitVec 11 := v.extractLsb' 0 11
  checked false (true) (.addI d b imm)

def dec_rsubI (h : BitVec 16) (v : BitVec 16) : Except Reject Instr :=
  let d : SReg := h.extractLsb' 3 5
  let b : SReg := v.extractLsb' 11 5
  let imm : BitVec 11 := v.extractLsb' 0 11
  checked false (true) (.rsubI d b imm)

def dec_andI (h : BitVec 16) (v : BitVec 16) : Except Reject Instr :=
  let d : SReg := h.extractLsb' 3 5
  let b : SReg := v.extractLsb' 11 5
  let imm : BitVec 11 := v.extractLsb' 0 11
  checked false (true) (.andI d b imm)

def dec_orI (h : BitVec 16) (v : BitVec 16) : Except Reject Instr :=
  let d : SReg := h.extractLsb' 3 5
  let b : SReg := v.extractLsb' 11 5
  let imm : BitVec 11 := v.extractLsb' 0 11
  checked false (true) (.orI d b imm)

def dec_xorI (h : BitVec 16) (v : BitVec 16) : Except Reject Instr :=
  let d : SReg := h.extractLsb' 3 5
  let b : SReg := v.extractLsb' 11 5
  let imm : BitVec 11 := v.extractLsb' 0 11
  checked false (true) (.xorI d b imm)

def dec_sllI (h : BitVec 16) (v : BitVec 16) : Except Reject Instr :=
  let d : SReg := h.extractLsb' 3 5
  let b : SReg := v.extractLsb' 11 5
  let imm : BitVec 11 := v.extractLsb' 0 11
  checked (decide (64 ≤ imm.toNat)) (true) (.sllI d b imm)

def dec_srlI (h : BitVec 16) (v : BitVec 16) : Except Reject Instr :=
  let d : SReg := h.extractLsb' 3 5
  let b : SReg := v.extractLsb' 11 5
  let imm : BitVec 11 := v.extractLsb' 0 11
  checked (decide (64 ≤ imm.toNat)) (true) (.srlI d b imm)

def dec_sraI (h : BitVec 16) (v : BitVec 16) : Except Reject Instr :=
  let d : SReg := h.extractLsb' 3 5
  let b : SReg := v.extractLsb' 11 5
  let imm : BitVec 11 := v.extractLsb' 0 11
  checked (decide (64 ≤ imm.toNat)) (true) (.sraI d b imm)

def dec_addW (h : BitVec 16) (v : BitVec 32) : Except Reject Instr :=
  let d : SReg := h.extractLsb' 3 5
  let b : SReg := v.extractLsb' 27 5
  let imm : BitVec 16 := v.extractLsb' 0 16
  checked false ((v.extractLsb' 22 5) == 0#5 && (v.extractLsb' 17 5) == 0#5 && (v.extractLsb' 16 1) == 0#1) (.addW d b imm)

def dec_rsubW (h : BitVec 16) (v : BitVec 32) : Except Reject Instr :=
  let d : SReg := h.extractLsb' 3 5
  let b : SReg := v.extractLsb' 27 5
  let imm : BitVec 16 := v.extractLsb' 0 16
  checked false ((v.extractLsb' 22 5) == 0#5 && (v.extractLsb' 17 5) == 0#5 && (v.extractLsb' 16 1) == 0#1) (.rsubW d b imm)

def dec_andW (h : BitVec 16) (v : BitVec 32) : Except Reject Instr :=
  let d : SReg := h.extractLsb' 3 5
  let b : SReg := v.extractLsb' 27 5
  let imm : BitVec 16 := v.extractLsb' 0 16
  checked false ((v.extractLsb' 22 5) == 0#5 && (v.extractLsb' 17 5) == 0#5 && (v.extractLsb' 16 1) == 0#1) (.andW d b imm)

def dec_orW (h : BitVec 16) (v : BitVec 32) : Except Reject Instr :=
  let d : SReg := h.extractLsb' 3 5
  let b : SReg := v.extractLsb' 27 5
  let imm : BitVec 16 := v.extractLsb' 0 16
  checked false ((v.extractLsb' 22 5) == 0#5 && (v.extractLsb' 17 5) == 0#5 && (v.extractLsb' 16 1) == 0#1) (.orW d b imm)

def dec_xorW (h : BitVec 16) (v : BitVec 32) : Except Reject Instr :=
  let d : SReg := h.extractLsb' 3 5
  let b : SReg := v.extractLsb' 27 5
  let imm : BitVec 16 := v.extractLsb' 0 16
  checked false ((v.extractLsb' 22 5) == 0#5 && (v.extractLsb' 17 5) == 0#5 && (v.extractLsb' 16 1) == 0#1) (.xorW d b imm)

def dec_sllW (h : BitVec 16) (v : BitVec 32) : Except Reject Instr :=
  let d : SReg := h.extractLsb' 3 5
  let b : SReg := v.extractLsb' 27 5
  let imm : BitVec 16 := v.extractLsb' 0 16
  checked (decide (64 ≤ imm.toNat)) ((v.extractLsb' 22 5) == 0#5 && (v.extractLsb' 17 5) == 0#5 && (v.extractLsb' 16 1) == 0#1) (.sllW d b imm)

def dec_srlW (h : BitVec 16) (v : BitVec 32) : Except Reject Instr :=
  let d : SReg := h.extractLsb' 3 5
  let b : SReg := v.extractLsb' 27 5
  let imm : BitVec 16 := v.extractLsb' 0 16
  checked (decide (64 ≤ imm.toNat)) ((v.extractLsb' 22 5) == 0#5 && (v.extractLsb' 17 5) == 0#5 && (v.extractLsb' 16 1) == 0#1) (.srlW d b imm)

def dec_sraW (h : BitVec 16) (v : BitVec 32) : Except Reject Instr :=
  let d : SReg := h.extractLsb' 3 5
  let b : SReg := v.extractLsb' 27 5
  let imm : BitVec 16 := v.extractLsb' 0 16
  checked (decide (64 ≤ imm.toNat)) ((v.extractLsb' 22 5) == 0#5 && (v.extractLsb' 17 5) == 0#5 && (v.extractLsb' 16 1) == 0#1) (.sraW d b imm)

def dec_seq (h : BitVec 16) (v : BitVec 16) : Except Reject Instr :=
  let d : SReg := h.extractLsb' 3 5
  let b : SReg := v.extractLsb' 11 5
  let c : SReg := v.extractLsb' 6 5
  checked false ((v.extractLsb' 0 6) == 0#6) (.seq d b c)

def dec_sne (h : BitVec 16) (v : BitVec 16) : Except Reject Instr :=
  let d : SReg := h.extractLsb' 3 5
  let b : SReg := v.extractLsb' 11 5
  let c : SReg := v.extractLsb' 6 5
  checked false ((v.extractLsb' 0 6) == 0#6) (.sne d b c)

def dec_slt (h : BitVec 16) (v : BitVec 16) : Except Reject Instr :=
  let d : SReg := h.extractLsb' 3 5
  let b : SReg := v.extractLsb' 11 5
  let c : SReg := v.extractLsb' 6 5
  checked false ((v.extractLsb' 0 6) == 0#6) (.slt d b c)

def dec_sltu (h : BitVec 16) (v : BitVec 16) : Except Reject Instr :=
  let d : SReg := h.extractLsb' 3 5
  let b : SReg := v.extractLsb' 11 5
  let c : SReg := v.extractLsb' 6 5
  checked false ((v.extractLsb' 0 6) == 0#6) (.sltu d b c)

def dec_sle (h : BitVec 16) (v : BitVec 16) : Except Reject Instr :=
  let d : SReg := h.extractLsb' 3 5
  let b : SReg := v.extractLsb' 11 5
  let c : SReg := v.extractLsb' 6 5
  checked false ((v.extractLsb' 0 6) == 0#6) (.sle d b c)

def dec_sleu (h : BitVec 16) (v : BitVec 16) : Except Reject Instr :=
  let d : SReg := h.extractLsb' 3 5
  let b : SReg := v.extractLsb' 11 5
  let c : SReg := v.extractLsb' 6 5
  checked false ((v.extractLsb' 0 6) == 0#6) (.sleu d b c)

def dec_minS (h : BitVec 16) (v : BitVec 16) : Except Reject Instr :=
  let d : SReg := h.extractLsb' 3 5
  let b : SReg := v.extractLsb' 11 5
  let c : SReg := v.extractLsb' 6 5
  checked false ((v.extractLsb' 1 5) == 0#5) (.minS d b c)

def dec_minU (h : BitVec 16) (v : BitVec 16) : Except Reject Instr :=
  let d : SReg := h.extractLsb' 3 5
  let b : SReg := v.extractLsb' 11 5
  let c : SReg := v.extractLsb' 6 5
  checked false ((v.extractLsb' 1 5) == 0#5) (.minU d b c)

def dec_maxS (h : BitVec 16) (v : BitVec 16) : Except Reject Instr :=
  let d : SReg := h.extractLsb' 3 5
  let b : SReg := v.extractLsb' 11 5
  let c : SReg := v.extractLsb' 6 5
  checked false ((v.extractLsb' 1 5) == 0#5) (.maxS d b c)

def dec_maxU (h : BitVec 16) (v : BitVec 16) : Except Reject Instr :=
  let d : SReg := h.extractLsb' 3 5
  let b : SReg := v.extractLsb' 11 5
  let c : SReg := v.extractLsb' 6 5
  checked false ((v.extractLsb' 1 5) == 0#5) (.maxU d b c)

def dec_seqW (h : BitVec 16) (v : BitVec 32) : Except Reject Instr :=
  let d : SReg := h.extractLsb' 3 5
  let b : SReg := v.extractLsb' 27 5
  let imm : BitVec 16 := v.extractLsb' 0 16
  checked false ((v.extractLsb' 22 5) == 0#5 && (v.extractLsb' 17 5) == 0#5 && (v.extractLsb' 16 1) == 0#1) (.seqW d b imm)

def dec_sneW (h : BitVec 16) (v : BitVec 32) : Except Reject Instr :=
  let d : SReg := h.extractLsb' 3 5
  let b : SReg := v.extractLsb' 27 5
  let imm : BitVec 16 := v.extractLsb' 0 16
  checked false ((v.extractLsb' 22 5) == 0#5 && (v.extractLsb' 17 5) == 0#5 && (v.extractLsb' 16 1) == 0#1) (.sneW d b imm)

def dec_sltW (h : BitVec 16) (v : BitVec 32) : Except Reject Instr :=
  let d : SReg := h.extractLsb' 3 5
  let b : SReg := v.extractLsb' 27 5
  let imm : BitVec 16 := v.extractLsb' 0 16
  checked false ((v.extractLsb' 22 5) == 0#5 && (v.extractLsb' 17 5) == 0#5 && (v.extractLsb' 16 1) == 0#1) (.sltW d b imm)

def dec_sltuW (h : BitVec 16) (v : BitVec 32) : Except Reject Instr :=
  let d : SReg := h.extractLsb' 3 5
  let b : SReg := v.extractLsb' 27 5
  let imm : BitVec 16 := v.extractLsb' 0 16
  checked false ((v.extractLsb' 22 5) == 0#5 && (v.extractLsb' 17 5) == 0#5 && (v.extractLsb' 16 1) == 0#1) (.sltuW d b imm)

def dec_sleW (h : BitVec 16) (v : BitVec 32) : Except Reject Instr :=
  let d : SReg := h.extractLsb' 3 5
  let b : SReg := v.extractLsb' 27 5
  let imm : BitVec 16 := v.extractLsb' 0 16
  checked false ((v.extractLsb' 22 5) == 0#5 && (v.extractLsb' 17 5) == 0#5 && (v.extractLsb' 16 1) == 0#1) (.sleW d b imm)

def dec_sleuW (h : BitVec 16) (v : BitVec 32) : Except Reject Instr :=
  let d : SReg := h.extractLsb' 3 5
  let b : SReg := v.extractLsb' 27 5
  let imm : BitVec 16 := v.extractLsb' 0 16
  checked false ((v.extractLsb' 22 5) == 0#5 && (v.extractLsb' 17 5) == 0#5 && (v.extractLsb' 16 1) == 0#1) (.sleuW d b imm)

def dec_minW (h : BitVec 16) (v : BitVec 32) : Except Reject Instr :=
  let d : SReg := h.extractLsb' 3 5
  let b : SReg := v.extractLsb' 27 5
  let imm : BitVec 16 := v.extractLsb' 0 16
  checked false ((v.extractLsb' 22 5) == 0#5 && (v.extractLsb' 17 5) == 0#5) (.minW d b imm)

def dec_minuW (h : BitVec 16) (v : BitVec 32) : Except Reject Instr :=
  let d : SReg := h.extractLsb' 3 5
  let b : SReg := v.extractLsb' 27 5
  let imm : BitVec 16 := v.extractLsb' 0 16
  checked false ((v.extractLsb' 22 5) == 0#5 && (v.extractLsb' 17 5) == 0#5) (.minuW d b imm)

def dec_maxW (h : BitVec 16) (v : BitVec 32) : Except Reject Instr :=
  let d : SReg := h.extractLsb' 3 5
  let b : SReg := v.extractLsb' 27 5
  let imm : BitVec 16 := v.extractLsb' 0 16
  checked false ((v.extractLsb' 22 5) == 0#5 && (v.extractLsb' 17 5) == 0#5) (.maxW d b imm)

def dec_maxuW (h : BitVec 16) (v : BitVec 32) : Except Reject Instr :=
  let d : SReg := h.extractLsb' 3 5
  let b : SReg := v.extractLsb' 27 5
  let imm : BitVec 16 := v.extractLsb' 0 16
  checked false ((v.extractLsb' 22 5) == 0#5 && (v.extractLsb' 17 5) == 0#5) (.maxuW d b imm)

def dec_mul (h : BitVec 16) (v : BitVec 16) : Except Reject Instr :=
  let d : SReg := h.extractLsb' 3 5
  let b : SReg := v.extractLsb' 11 5
  let c : SReg := v.extractLsb' 6 5
  checked false ((v.extractLsb' 0 6) == 0#6) (.mul d b c)

def dec_mulh (h : BitVec 16) (v : BitVec 16) : Except Reject Instr :=
  let d : SReg := h.extractLsb' 3 5
  let b : SReg := v.extractLsb' 11 5
  let c : SReg := v.extractLsb' 6 5
  checked false ((v.extractLsb' 0 6) == 0#6) (.mulh d b c)

def dec_mulhu (h : BitVec 16) (v : BitVec 16) : Except Reject Instr :=
  let d : SReg := h.extractLsb' 3 5
  let b : SReg := v.extractLsb' 11 5
  let c : SReg := v.extractLsb' 6 5
  checked false ((v.extractLsb' 0 6) == 0#6) (.mulhu d b c)

def dec_mulhsu (h : BitVec 16) (v : BitVec 16) : Except Reject Instr :=
  let d : SReg := h.extractLsb' 3 5
  let b : SReg := v.extractLsb' 11 5
  let c : SReg := v.extractLsb' 6 5
  checked false ((v.extractLsb' 0 6) == 0#6) (.mulhsu d b c)

def dec_div (h : BitVec 16) (v : BitVec 16) : Except Reject Instr :=
  let d : SReg := h.extractLsb' 3 5
  let b : SReg := v.extractLsb' 11 5
  let c : SReg := v.extractLsb' 6 5
  checked false ((v.extractLsb' 0 6) == 0#6) (.div d b c)

def dec_divu (h : BitVec 16) (v : BitVec 16) : Except Reject Instr :=
  let d : SReg := h.extractLsb' 3 5
  let b : SReg := v.extractLsb' 11 5
  let c : SReg := v.extractLsb' 6 5
  checked false ((v.extractLsb' 0 6) == 0#6) (.divu d b c)

def dec_rem (h : BitVec 16) (v : BitVec 16) : Except Reject Instr :=
  let d : SReg := h.extractLsb' 3 5
  let b : SReg := v.extractLsb' 11 5
  let c : SReg := v.extractLsb' 6 5
  checked false ((v.extractLsb' 0 6) == 0#6) (.rem d b c)

def dec_remu (h : BitVec 16) (v : BitVec 16) : Except Reject Instr :=
  let d : SReg := h.extractLsb' 3 5
  let b : SReg := v.extractLsb' 11 5
  let c : SReg := v.extractLsb' 6 5
  checked false ((v.extractLsb' 0 6) == 0#6) (.remu d b c)

def dec_clz (h : BitVec 16) (v : BitVec 16) : Except Reject Instr :=
  let d : SReg := h.extractLsb' 3 5
  let b : SReg := v.extractLsb' 11 5
  checked false ((v.extractLsb' 6 5) == 0#5 && (v.extractLsb' 0 6) == 0#6) (.clz d b)

def dec_ctz (h : BitVec 16) (v : BitVec 16) : Except Reject Instr :=
  let d : SReg := h.extractLsb' 3 5
  let b : SReg := v.extractLsb' 11 5
  checked false ((v.extractLsb' 6 5) == 0#5 && (v.extractLsb' 0 6) == 0#6) (.ctz d b)

def dec_popc (h : BitVec 16) (v : BitVec 16) : Except Reject Instr :=
  let d : SReg := h.extractLsb' 3 5
  let b : SReg := v.extractLsb' 11 5
  checked false ((v.extractLsb' 6 5) == 0#5 && (v.extractLsb' 0 6) == 0#6) (.popc d b)

def dec_brev (h : BitVec 16) (v : BitVec 16) : Except Reject Instr :=
  let d : SReg := h.extractLsb' 3 5
  let b : SReg := v.extractLsb' 11 5
  checked false ((v.extractLsb' 6 5) == 0#5 && (v.extractLsb' 0 6) == 0#6) (.brev d b)

def dec_bswap (h : BitVec 16) (v : BitVec 16) : Except Reject Instr :=
  let d : SReg := h.extractLsb' 3 5
  let b : SReg := v.extractLsb' 11 5
  checked false ((v.extractLsb' 6 5) == 0#5 && (v.extractLsb' 0 6) == 0#6) (.bswap d b)

def dec_rol (h : BitVec 16) (v : BitVec 16) : Except Reject Instr :=
  let d : SReg := h.extractLsb' 3 5
  let b : SReg := v.extractLsb' 11 5
  let c : SReg := v.extractLsb' 6 5
  checked false ((v.extractLsb' 0 6) == 0#6) (.rol d b c)

def dec_ror (h : BitVec 16) (v : BitVec 16) : Except Reject Instr :=
  let d : SReg := h.extractLsb' 3 5
  let b : SReg := v.extractLsb' 11 5
  let c : SReg := v.extractLsb' 6 5
  checked false ((v.extractLsb' 0 6) == 0#6) (.ror d b c)

def dec_ext (h : BitVec 16) (v : BitVec 32) : Except Reject Instr :=
  let d : SReg := h.extractLsb' 3 5
  let b : SReg := v.extractLsb' 27 5
  let pos : BitVec 6 := v.extractLsb' 6 6
  let lenM1 : BitVec 6 := v.extractLsb' 0 6
  checked (decide (64 < pos.toNat + lenM1.toNat + 1)) ((v.extractLsb' 22 5) == 0#5 && (v.extractLsb' 17 5) == 0#5 && (v.extractLsb' 16 1) == 0#1 && (v.extractLsb' 12 4) == 0#4) (.ext d b pos lenM1)

def dec_extu (h : BitVec 16) (v : BitVec 32) : Except Reject Instr :=
  let d : SReg := h.extractLsb' 3 5
  let b : SReg := v.extractLsb' 27 5
  let pos : BitVec 6 := v.extractLsb' 6 6
  let lenM1 : BitVec 6 := v.extractLsb' 0 6
  checked (decide (64 < pos.toNat + lenM1.toNat + 1)) ((v.extractLsb' 22 5) == 0#5 && (v.extractLsb' 17 5) == 0#5 && (v.extractLsb' 16 1) == 0#1 && (v.extractLsb' 12 4) == 0#4) (.extu d b pos lenM1)

def dec_ins (h : BitVec 16) (v : BitVec 32) : Except Reject Instr :=
  let d : SReg := h.extractLsb' 3 5
  let b : SReg := v.extractLsb' 27 5
  let pos : BitVec 6 := v.extractLsb' 6 6
  let lenM1 : BitVec 6 := v.extractLsb' 0 6
  checked (decide (64 < pos.toNat + lenM1.toNat + 1)) ((v.extractLsb' 22 5) == 0#5 && (v.extractLsb' 17 5) == 0#5 && (v.extractLsb' 16 1) == 0#1 && (v.extractLsb' 12 4) == 0#4) (.ins d b pos lenM1)

def dec_li (h : BitVec 16) (v : BitVec 16) : Except Reject Instr :=
  let d : SReg := h.extractLsb' 3 5
  let imm : BitVec 11 := v.extractLsb' 0 11
  checked false ((v.extractLsb' 11 5) == 0#5) (.li d imm)

def dec_liZ (h : BitVec 16) (v : BitVec 16) : Except Reject Instr :=
  let d : SReg := h.extractLsb' 3 5
  let imm : BitVec 11 := v.extractLsb' 0 11
  checked false ((v.extractLsb' 11 5) == 0#5) (.liZ d imm)

def dec_liW (h : BitVec 16) (v : BitVec 32) : Except Reject Instr :=
  let d : SReg := h.extractLsb' 3 5
  let imm : BitVec 16 := v.extractLsb' 0 16
  checked false ((v.extractLsb' 27 5) == 0#5 && (v.extractLsb' 22 5) == 0#5 && (v.extractLsb' 17 5) == 0#5 && (v.extractLsb' 16 1) == 0#1) (.liW d imm)

def dec_liZW (h : BitVec 16) (v : BitVec 32) : Except Reject Instr :=
  let d : SReg := h.extractLsb' 3 5
  let imm : BitVec 16 := v.extractLsb' 0 16
  checked false ((v.extractLsb' 27 5) == 0#5 && (v.extractLsb' 22 5) == 0#5 && (v.extractLsb' 17 5) == 0#5 && (v.extractLsb' 16 1) == 0#1) (.liZW d imm)

def dec_lih (h : BitVec 16) (v : BitVec 32) : Except Reject Instr :=
  let d : SReg := h.extractLsb' 3 5
  let imm : BitVec 16 := v.extractLsb' 0 16
  checked false ((v.extractLsb' 27 5) == 0#5 && (v.extractLsb' 22 5) == 0#5 && (v.extractLsb' 17 5) == 0#5 && (v.extractLsb' 16 1) == 0#1) (.lih d imm)

def dec_liX0 (h : BitVec 16) (v : BitVec 48) : Except Reject Instr :=
  let d : SReg := h.extractLsb' 3 5
  let imm : BitVec 48 := v.extractLsb' 0 48
  checked false (true) (.liX0 d imm)

def dec_liZX0 (h : BitVec 16) (v : BitVec 48) : Except Reject Instr :=
  let d : SReg := h.extractLsb' 3 5
  let imm : BitVec 48 := v.extractLsb' 0 48
  checked false (true) (.liZX0 d imm)

def dec_lea (h : BitVec 16) (v : BitVec 16) : Except Reject Instr :=
  let d : SReg := h.extractLsb' 3 5
  let b : SReg := v.extractLsb' 11 5
  let imm : BitVec 11 := v.extractLsb' 0 11
  checked false (true) (.lea d b imm)

def dec_leaW (h : BitVec 16) (v : BitVec 32) : Except Reject Instr :=
  let d : SReg := h.extractLsb' 3 5
  let b : SReg := v.extractLsb' 27 5
  let imm : BitVec 16 := v.extractLsb' 0 16
  checked false ((v.extractLsb' 22 5) == 0#5 && (v.extractLsb' 17 5) == 0#5 && (v.extractLsb' 16 1) == 0#1) (.leaW d b imm)

def dec_leaX1 (h : BitVec 16) (v : BitVec 48) : Except Reject Instr :=
  let n : BitVec 2 := h.extractLsb' 0 2
  let d : SReg := h.extractLsb' 3 5
  let b : SReg := v.extractLsb' 43 5
  let c : SReg := v.extractLsb' 38 5
  let imm : BitVec 33 := v.extractLsb' 0 33
  checked false ((v.extractLsb' 33 5) == 0#5) (.leaX1 n d b c imm)

def dec_mov (h : BitVec 16) (v : BitVec 16) : Except Reject Instr :=
  let d : SReg := h.extractLsb' 3 5
  let b : SReg := v.extractLsb' 11 5
  checked false ((v.extractLsb' 6 5) == 0#5 && (v.extractLsb' 5 1) == 0#1 && (v.extractLsb' 0 5) == 0#5) (.mov d b)

def dec_sel (h : BitVec 16) (v : BitVec 16) : Except Reject Instr :=
  let d : SReg := h.extractLsb' 3 5
  let b : SReg := v.extractLsb' 11 5
  let c : SReg := v.extractLsb' 6 5
  let k : SReg := v.extractLsb' 0 5
  checked false ((v.extractLsb' 5 1) == 0#1) (.sel d b c k)

def dec_beqz (h : BitVec 16) (v : BitVec 32) : Except Reject Instr :=
  let b : SReg := v.extractLsb' 27 5
  let off : BitVec 27 := v.extractLsb' 0 27
  checked false ((h.extractLsb' 3 5) == 0#5) (.beqz b off)

def dec_bnez (h : BitVec 16) (v : BitVec 32) : Except Reject Instr :=
  let b : SReg := v.extractLsb' 27 5
  let off : BitVec 27 := v.extractLsb' 0 27
  checked false ((h.extractLsb' 3 5) == 0#5) (.bnez b off)

def dec_bltz (h : BitVec 16) (v : BitVec 32) : Except Reject Instr :=
  let b : SReg := v.extractLsb' 27 5
  let off : BitVec 27 := v.extractLsb' 0 27
  checked false ((h.extractLsb' 3 5) == 0#5) (.bltz b off)

def dec_bgez (h : BitVec 16) (v : BitVec 32) : Except Reject Instr :=
  let b : SReg := v.extractLsb' 27 5
  let off : BitVec 27 := v.extractLsb' 0 27
  checked false ((h.extractLsb' 3 5) == 0#5) (.bgez b off)

def dec_bgtz (h : BitVec 16) (v : BitVec 32) : Except Reject Instr :=
  let b : SReg := v.extractLsb' 27 5
  let off : BitVec 27 := v.extractLsb' 0 27
  checked false ((h.extractLsb' 3 5) == 0#5) (.bgtz b off)

def dec_blez (h : BitVec 16) (v : BitVec 32) : Except Reject Instr :=
  let b : SReg := v.extractLsb' 27 5
  let off : BitVec 27 := v.extractLsb' 0 27
  checked false ((h.extractLsb' 3 5) == 0#5) (.blez b off)

def dec_beq (h : BitVec 16) (v : BitVec 48) : Except Reject Instr :=
  let b : SReg := v.extractLsb' 43 5
  let c : SReg := v.extractLsb' 38 5
  let off : BitVec 27 := v.extractLsb' 0 27
  checked false ((h.extractLsb' 3 5) == 0#5 && (v.extractLsb' 33 5) == 0#5 && (v.extractLsb' 27 6) == 0#6) (.beq b c off)

def dec_bne (h : BitVec 16) (v : BitVec 48) : Except Reject Instr :=
  let b : SReg := v.extractLsb' 43 5
  let c : SReg := v.extractLsb' 38 5
  let off : BitVec 27 := v.extractLsb' 0 27
  checked false ((h.extractLsb' 3 5) == 0#5 && (v.extractLsb' 33 5) == 0#5 && (v.extractLsb' 27 6) == 0#6) (.bne b c off)

def dec_blt (h : BitVec 16) (v : BitVec 48) : Except Reject Instr :=
  let b : SReg := v.extractLsb' 43 5
  let c : SReg := v.extractLsb' 38 5
  let off : BitVec 27 := v.extractLsb' 0 27
  checked false ((h.extractLsb' 3 5) == 0#5 && (v.extractLsb' 33 5) == 0#5 && (v.extractLsb' 27 6) == 0#6) (.blt b c off)

def dec_bge (h : BitVec 16) (v : BitVec 48) : Except Reject Instr :=
  let b : SReg := v.extractLsb' 43 5
  let c : SReg := v.extractLsb' 38 5
  let off : BitVec 27 := v.extractLsb' 0 27
  checked false ((h.extractLsb' 3 5) == 0#5 && (v.extractLsb' 33 5) == 0#5 && (v.extractLsb' 27 6) == 0#6) (.bge b c off)

def dec_bltu (h : BitVec 16) (v : BitVec 48) : Except Reject Instr :=
  let b : SReg := v.extractLsb' 43 5
  let c : SReg := v.extractLsb' 38 5
  let off : BitVec 27 := v.extractLsb' 0 27
  checked false ((h.extractLsb' 3 5) == 0#5 && (v.extractLsb' 33 5) == 0#5 && (v.extractLsb' 27 6) == 0#6) (.bltu b c off)

def dec_bgeu (h : BitVec 16) (v : BitVec 48) : Except Reject Instr :=
  let b : SReg := v.extractLsb' 43 5
  let c : SReg := v.extractLsb' 38 5
  let off : BitVec 27 := v.extractLsb' 0 27
  checked false ((h.extractLsb' 3 5) == 0#5 && (v.extractLsb' 33 5) == 0#5 && (v.extractLsb' 27 6) == 0#6) (.bgeu b c off)

def dec_br (h : BitVec 16) (v : BitVec 32) : Except Reject Instr :=
  let off : BitVec 27 := v.extractLsb' 0 27
  checked false ((h.extractLsb' 3 5) == 0#5 && (v.extractLsb' 27 5) == 0#5) (.br off)

def dec_call (h : BitVec 16) (v : BitVec 32) : Except Reject Instr :=
  let off : BitVec 27 := v.extractLsb' 0 27
  checked false ((h.extractLsb' 3 5) == 0#5 && (v.extractLsb' 27 5) == 0#5) (.call off)

def dec_dbnz (h : BitVec 16) (v : BitVec 32) : Except Reject Instr :=
  let b : SReg := v.extractLsb' 27 5
  let off : BitVec 27 := v.extractLsb' 0 27
  checked false ((h.extractLsb' 3 5) == 0#5) (.dbnz b off)

def dec_jt (h : BitVec 16) (v : BitVec 16) : Except Reject Instr :=
  let l : BitVec 5 := h.extractLsb' 3 5
  let b : SReg := v.extractLsb' 11 5
  let c : SReg := v.extractLsb' 6 5
  let nM1 : BitVec 6 := v.extractLsb' 0 6
  checked false (true) (.jt l b c nM1)

def dec_callt (h : BitVec 16) (v : BitVec 16) : Except Reject Instr :=
  let l : BitVec 5 := h.extractLsb' 3 5
  let b : SReg := v.extractLsb' 11 5
  let c : SReg := v.extractLsb' 6 5
  let nM1 : BitVec 6 := v.extractLsb' 0 6
  checked false (true) (.callt l b c nM1)

def dec_jtW (h : BitVec 16) (v : BitVec 32) : Except Reject Instr :=
  let b : SReg := v.extractLsb' 27 5
  let c : SReg := v.extractLsb' 22 5
  let n : SReg := v.extractLsb' 17 5
  let l : BitVec 11 := v.extractLsb' 0 11
  checked false ((h.extractLsb' 3 5) == 0#5 && (v.extractLsb' 16 1) == 0#1 && (v.extractLsb' 11 5) == 0#5) (.jtW b c n l)

def dec_calltW (h : BitVec 16) (v : BitVec 32) : Except Reject Instr :=
  let b : SReg := v.extractLsb' 27 5
  let c : SReg := v.extractLsb' 22 5
  let n : SReg := v.extractLsb' 17 5
  let l : BitVec 11 := v.extractLsb' 0 11
  checked false ((h.extractLsb' 3 5) == 0#5 && (v.extractLsb' 16 1) == 0#1 && (v.extractLsb' 11 5) == 0#5) (.calltW b c n l)

def dec_lpad (h : BitVec 16) (v : BitVec 16) : Except Reject Instr :=
  let l : BitVec 11 := v.extractLsb' 0 11
  checked false ((h.extractLsb' 3 5) == 0#5 && (v.extractLsb' 11 5) == 0#5) (.lpad l)

def dec_nop (h : BitVec 16) : Except Reject Instr :=
  checked false ((h.extractLsb' 3 5) == 0#5) (.nop)

def dec_exit (h : BitVec 16) : Except Reject Instr :=
  checked false ((h.extractLsb' 3 5) == 0#5) (.exit)

def dec_rets (h : BitVec 16) : Except Reject Instr :=
  let f : SReg := h.extractLsb' 3 5
  checked false (true) (.rets f)

def dec_ret (h : BitVec 16) : Except Reject Instr :=
  checked false ((h.extractLsb' 3 5) == 0#5) (.ret)

def dec_trap (h : BitVec 16) (v : BitVec 16) : Except Reject Instr :=
  let b : SReg := v.extractLsb' 11 5
  let code : BitVec 11 := v.extractLsb' 0 11
  checked false ((h.extractLsb' 3 5) == 0#5) (.trap b code)

def dec_eret (h : BitVec 16) : Except Reject Instr :=
  checked false ((h.extractLsb' 3 5) == 0#5) (.eret)

def dec_mfc (h : BitVec 16) (v : BitVec 16) : Except Reject Instr :=
  let d : SReg := h.extractLsb' 3 5
  let n : BitVec 11 := v.extractLsb' 0 11
  checked (!CReg.known n) ((v.extractLsb' 11 5) == 0#5) (.mfc d n)

def dec_mtc (h : BitVec 16) (v : BitVec 16) : Except Reject Instr :=
  let s : SReg := h.extractLsb' 3 5
  let n : BitVec 11 := v.extractLsb' 0 11
  checked (!CReg.known n) ((v.extractLsb' 11 5) == 0#5) (.mtc s n)

def dec_ld (h : BitVec 16) (v : BitVec 16) : Except Reject Instr :=
  let d : SReg := h.extractLsb' 3 5
  let b : SReg := v.extractLsb' 11 5
  let imm : BitVec 11 := v.extractLsb' 0 11
  checked false (true) (.ld d b imm)

def dec_lw (h : BitVec 16) (v : BitVec 16) : Except Reject Instr :=
  let d : SReg := h.extractLsb' 3 5
  let b : SReg := v.extractLsb' 11 5
  let imm : BitVec 11 := v.extractLsb' 0 11
  checked false (true) (.lw d b imm)

def dec_lwu (h : BitVec 16) (v : BitVec 16) : Except Reject Instr :=
  let d : SReg := h.extractLsb' 3 5
  let b : SReg := v.extractLsb' 11 5
  let imm : BitVec 11 := v.extractLsb' 0 11
  checked false (true) (.lwu d b imm)

def dec_lh (h : BitVec 16) (v : BitVec 16) : Except Reject Instr :=
  let d : SReg := h.extractLsb' 3 5
  let b : SReg := v.extractLsb' 11 5
  let imm : BitVec 11 := v.extractLsb' 0 11
  checked false (true) (.lh d b imm)

def dec_lhu (h : BitVec 16) (v : BitVec 16) : Except Reject Instr :=
  let d : SReg := h.extractLsb' 3 5
  let b : SReg := v.extractLsb' 11 5
  let imm : BitVec 11 := v.extractLsb' 0 11
  checked false (true) (.lhu d b imm)

def dec_lb (h : BitVec 16) (v : BitVec 16) : Except Reject Instr :=
  let d : SReg := h.extractLsb' 3 5
  let b : SReg := v.extractLsb' 11 5
  let imm : BitVec 11 := v.extractLsb' 0 11
  checked false (true) (.lb d b imm)

def dec_lbu (h : BitVec 16) (v : BitVec 16) : Except Reject Instr :=
  let d : SReg := h.extractLsb' 3 5
  let b : SReg := v.extractLsb' 11 5
  let imm : BitVec 11 := v.extractLsb' 0 11
  checked false (true) (.lbu d b imm)

def dec_ldW (h : BitVec 16) (v : BitVec 32) : Except Reject Instr :=
  let d : SReg := h.extractLsb' 3 5
  let b : SReg := v.extractLsb' 27 5
  let rx : BitVec 1 := v.extractLsb' 16 1
  let imm : BitVec 16 := v.extractLsb' 0 16
  checked false ((v.extractLsb' 22 5) == 0#5 && (v.extractLsb' 17 5) == 0#5) (.ldW d b rx imm)

def dec_lwW (h : BitVec 16) (v : BitVec 32) : Except Reject Instr :=
  let d : SReg := h.extractLsb' 3 5
  let b : SReg := v.extractLsb' 27 5
  let rx : BitVec 1 := v.extractLsb' 16 1
  let imm : BitVec 16 := v.extractLsb' 0 16
  checked false ((v.extractLsb' 22 5) == 0#5 && (v.extractLsb' 17 5) == 0#5) (.lwW d b rx imm)

def dec_lwuW (h : BitVec 16) (v : BitVec 32) : Except Reject Instr :=
  let d : SReg := h.extractLsb' 3 5
  let b : SReg := v.extractLsb' 27 5
  let rx : BitVec 1 := v.extractLsb' 16 1
  let imm : BitVec 16 := v.extractLsb' 0 16
  checked false ((v.extractLsb' 22 5) == 0#5 && (v.extractLsb' 17 5) == 0#5) (.lwuW d b rx imm)

def dec_lhW (h : BitVec 16) (v : BitVec 32) : Except Reject Instr :=
  let d : SReg := h.extractLsb' 3 5
  let b : SReg := v.extractLsb' 27 5
  let rx : BitVec 1 := v.extractLsb' 16 1
  let imm : BitVec 16 := v.extractLsb' 0 16
  checked false ((v.extractLsb' 22 5) == 0#5 && (v.extractLsb' 17 5) == 0#5) (.lhW d b rx imm)

def dec_lhuW (h : BitVec 16) (v : BitVec 32) : Except Reject Instr :=
  let d : SReg := h.extractLsb' 3 5
  let b : SReg := v.extractLsb' 27 5
  let rx : BitVec 1 := v.extractLsb' 16 1
  let imm : BitVec 16 := v.extractLsb' 0 16
  checked false ((v.extractLsb' 22 5) == 0#5 && (v.extractLsb' 17 5) == 0#5) (.lhuW d b rx imm)

def dec_lbW (h : BitVec 16) (v : BitVec 32) : Except Reject Instr :=
  let d : SReg := h.extractLsb' 3 5
  let b : SReg := v.extractLsb' 27 5
  let rx : BitVec 1 := v.extractLsb' 16 1
  let imm : BitVec 16 := v.extractLsb' 0 16
  checked false ((v.extractLsb' 22 5) == 0#5 && (v.extractLsb' 17 5) == 0#5) (.lbW d b rx imm)

def dec_lbuW (h : BitVec 16) (v : BitVec 32) : Except Reject Instr :=
  let d : SReg := h.extractLsb' 3 5
  let b : SReg := v.extractLsb' 27 5
  let rx : BitVec 1 := v.extractLsb' 16 1
  let imm : BitVec 16 := v.extractLsb' 0 16
  checked false ((v.extractLsb' 22 5) == 0#5 && (v.extractLsb' 17 5) == 0#5) (.lbuW d b rx imm)

def dec_ldX1 (h : BitVec 16) (v : BitVec 48) : Except Reject Instr :=
  let d : SReg := h.extractLsb' 3 5
  let b : SReg := v.extractLsb' 43 5
  let c : SReg := v.extractLsb' 38 5
  let rx : BitVec 1 := v.extractLsb' 32 1
  let imm : BitVec 32 := v.extractLsb' 0 32
  checked false ((v.extractLsb' 33 5) == 0#5) (.ldX1 d b c rx imm)

def dec_lwX1 (h : BitVec 16) (v : BitVec 48) : Except Reject Instr :=
  let d : SReg := h.extractLsb' 3 5
  let b : SReg := v.extractLsb' 43 5
  let c : SReg := v.extractLsb' 38 5
  let rx : BitVec 1 := v.extractLsb' 32 1
  let imm : BitVec 32 := v.extractLsb' 0 32
  checked false ((v.extractLsb' 33 5) == 0#5) (.lwX1 d b c rx imm)

def dec_lwuX1 (h : BitVec 16) (v : BitVec 48) : Except Reject Instr :=
  let d : SReg := h.extractLsb' 3 5
  let b : SReg := v.extractLsb' 43 5
  let c : SReg := v.extractLsb' 38 5
  let rx : BitVec 1 := v.extractLsb' 32 1
  let imm : BitVec 32 := v.extractLsb' 0 32
  checked false ((v.extractLsb' 33 5) == 0#5) (.lwuX1 d b c rx imm)

def dec_lhX1 (h : BitVec 16) (v : BitVec 48) : Except Reject Instr :=
  let d : SReg := h.extractLsb' 3 5
  let b : SReg := v.extractLsb' 43 5
  let c : SReg := v.extractLsb' 38 5
  let rx : BitVec 1 := v.extractLsb' 32 1
  let imm : BitVec 32 := v.extractLsb' 0 32
  checked false ((v.extractLsb' 33 5) == 0#5) (.lhX1 d b c rx imm)

def dec_lhuX1 (h : BitVec 16) (v : BitVec 48) : Except Reject Instr :=
  let d : SReg := h.extractLsb' 3 5
  let b : SReg := v.extractLsb' 43 5
  let c : SReg := v.extractLsb' 38 5
  let rx : BitVec 1 := v.extractLsb' 32 1
  let imm : BitVec 32 := v.extractLsb' 0 32
  checked false ((v.extractLsb' 33 5) == 0#5) (.lhuX1 d b c rx imm)

def dec_lbX1 (h : BitVec 16) (v : BitVec 48) : Except Reject Instr :=
  let d : SReg := h.extractLsb' 3 5
  let b : SReg := v.extractLsb' 43 5
  let c : SReg := v.extractLsb' 38 5
  let rx : BitVec 1 := v.extractLsb' 32 1
  let imm : BitVec 32 := v.extractLsb' 0 32
  checked false ((v.extractLsb' 33 5) == 0#5) (.lbX1 d b c rx imm)

def dec_lbuX1 (h : BitVec 16) (v : BitVec 48) : Except Reject Instr :=
  let d : SReg := h.extractLsb' 3 5
  let b : SReg := v.extractLsb' 43 5
  let c : SReg := v.extractLsb' 38 5
  let rx : BitVec 1 := v.extractLsb' 32 1
  let imm : BitVec 32 := v.extractLsb' 0 32
  checked false ((v.extractLsb' 33 5) == 0#5) (.lbuX1 d b c rx imm)

def dec_st (h : BitVec 16) (v : BitVec 16) : Except Reject Instr :=
  let a : SReg := h.extractLsb' 3 5
  let b : SReg := v.extractLsb' 11 5
  let imm : BitVec 11 := v.extractLsb' 0 11
  checked false (true) (.st a b imm)

def dec_sw (h : BitVec 16) (v : BitVec 16) : Except Reject Instr :=
  let a : SReg := h.extractLsb' 3 5
  let b : SReg := v.extractLsb' 11 5
  let imm : BitVec 11 := v.extractLsb' 0 11
  checked false (true) (.sw a b imm)

def dec_sh (h : BitVec 16) (v : BitVec 16) : Except Reject Instr :=
  let a : SReg := h.extractLsb' 3 5
  let b : SReg := v.extractLsb' 11 5
  let imm : BitVec 11 := v.extractLsb' 0 11
  checked false (true) (.sh a b imm)

def dec_sb (h : BitVec 16) (v : BitVec 16) : Except Reject Instr :=
  let a : SReg := h.extractLsb' 3 5
  let b : SReg := v.extractLsb' 11 5
  let imm : BitVec 11 := v.extractLsb' 0 11
  checked false (true) (.sb a b imm)

def dec_stW (h : BitVec 16) (v : BitVec 32) : Except Reject Instr :=
  let a : SReg := h.extractLsb' 3 5
  let b : SReg := v.extractLsb' 27 5
  let rx : BitVec 1 := v.extractLsb' 16 1
  let imm : BitVec 16 := v.extractLsb' 0 16
  checked false ((v.extractLsb' 22 5) == 0#5 && (v.extractLsb' 17 5) == 0#5) (.stW a b rx imm)

def dec_swW (h : BitVec 16) (v : BitVec 32) : Except Reject Instr :=
  let a : SReg := h.extractLsb' 3 5
  let b : SReg := v.extractLsb' 27 5
  let rx : BitVec 1 := v.extractLsb' 16 1
  let imm : BitVec 16 := v.extractLsb' 0 16
  checked false ((v.extractLsb' 22 5) == 0#5 && (v.extractLsb' 17 5) == 0#5) (.swW a b rx imm)

def dec_shW (h : BitVec 16) (v : BitVec 32) : Except Reject Instr :=
  let a : SReg := h.extractLsb' 3 5
  let b : SReg := v.extractLsb' 27 5
  let rx : BitVec 1 := v.extractLsb' 16 1
  let imm : BitVec 16 := v.extractLsb' 0 16
  checked false ((v.extractLsb' 22 5) == 0#5 && (v.extractLsb' 17 5) == 0#5) (.shW a b rx imm)

def dec_sbW (h : BitVec 16) (v : BitVec 32) : Except Reject Instr :=
  let a : SReg := h.extractLsb' 3 5
  let b : SReg := v.extractLsb' 27 5
  let rx : BitVec 1 := v.extractLsb' 16 1
  let imm : BitVec 16 := v.extractLsb' 0 16
  checked false ((v.extractLsb' 22 5) == 0#5 && (v.extractLsb' 17 5) == 0#5) (.sbW a b rx imm)

def dec_stX1 (h : BitVec 16) (v : BitVec 48) : Except Reject Instr :=
  let a : SReg := h.extractLsb' 3 5
  let b : SReg := v.extractLsb' 43 5
  let c : SReg := v.extractLsb' 38 5
  let rx : BitVec 1 := v.extractLsb' 32 1
  let imm : BitVec 32 := v.extractLsb' 0 32
  checked false ((v.extractLsb' 33 5) == 0#5) (.stX1 a b c rx imm)

def dec_swX1 (h : BitVec 16) (v : BitVec 48) : Except Reject Instr :=
  let a : SReg := h.extractLsb' 3 5
  let b : SReg := v.extractLsb' 43 5
  let c : SReg := v.extractLsb' 38 5
  let rx : BitVec 1 := v.extractLsb' 32 1
  let imm : BitVec 32 := v.extractLsb' 0 32
  checked false ((v.extractLsb' 33 5) == 0#5) (.swX1 a b c rx imm)

def dec_shX1 (h : BitVec 16) (v : BitVec 48) : Except Reject Instr :=
  let a : SReg := h.extractLsb' 3 5
  let b : SReg := v.extractLsb' 43 5
  let c : SReg := v.extractLsb' 38 5
  let rx : BitVec 1 := v.extractLsb' 32 1
  let imm : BitVec 32 := v.extractLsb' 0 32
  checked false ((v.extractLsb' 33 5) == 0#5) (.shX1 a b c rx imm)

def dec_sbX1 (h : BitVec 16) (v : BitVec 48) : Except Reject Instr :=
  let a : SReg := h.extractLsb' 3 5
  let b : SReg := v.extractLsb' 43 5
  let c : SReg := v.extractLsb' 38 5
  let rx : BitVec 1 := v.extractLsb' 32 1
  let imm : BitVec 32 := v.extractLsb' 0 32
  checked false ((v.extractLsb' 33 5) == 0#5) (.sbX1 a b c rx imm)

def dec_vld (h : BitVec 16) (v : BitVec 16) : Except Reject Instr :=
  let vd : VReg := h.extractLsb' 3 5
  let b : SReg := v.extractLsb' 11 5
  let mk : BitVec 4 := v.extractLsb' 2 4
  let ew : BitVec 2 := v.extractLsb' 0 2
  checked false ((v.extractLsb' 6 5) == 0#5 && mkOk mk) (.vld vd b mk ew)

def dec_vst (h : BitVec 16) (v : BitVec 16) : Except Reject Instr :=
  let vd : VReg := h.extractLsb' 3 5
  let b : SReg := v.extractLsb' 11 5
  let mk : BitVec 4 := v.extractLsb' 2 4
  let ew : BitVec 2 := v.extractLsb' 0 2
  checked false ((v.extractLsb' 6 5) == 0#5 && mkOk mk) (.vst vd b mk ew)

def dec_vlds (h : BitVec 16) (v : BitVec 16) : Except Reject Instr :=
  let vd : VReg := h.extractLsb' 3 5
  let b : SReg := v.extractLsb' 11 5
  let c : SReg := v.extractLsb' 6 5
  let mk : BitVec 4 := v.extractLsb' 2 4
  let ew : BitVec 2 := v.extractLsb' 0 2
  checked false (mkOk mk) (.vlds vd b c mk ew)

def dec_vsts (h : BitVec 16) (v : BitVec 16) : Except Reject Instr :=
  let vd : VReg := h.extractLsb' 3 5
  let b : SReg := v.extractLsb' 11 5
  let c : SReg := v.extractLsb' 6 5
  let mk : BitVec 4 := v.extractLsb' 2 4
  let ew : BitVec 2 := v.extractLsb' 0 2
  checked false (mkOk mk) (.vsts vd b c mk ew)

def dec_vldW (h : BitVec 16) (v : BitVec 32) : Except Reject Instr :=
  let vd : VReg := h.extractLsb' 3 5
  let b : SReg := v.extractLsb' 27 5
  let mk : BitVec 4 := v.extractLsb' 18 4
  let rx : BitVec 1 := v.extractLsb' 16 1
  let ew : BitVec 2 := v.extractLsb' 14 2
  let imm : BitVec 14 := v.extractLsb' 0 14
  checked false ((v.extractLsb' 22 5) == 0#5 && mkOk mk && (v.extractLsb' 17 1) == 0#1) (.vldW vd b mk rx ew imm)

def dec_vstW (h : BitVec 16) (v : BitVec 32) : Except Reject Instr :=
  let vd : VReg := h.extractLsb' 3 5
  let b : SReg := v.extractLsb' 27 5
  let mk : BitVec 4 := v.extractLsb' 18 4
  let rx : BitVec 1 := v.extractLsb' 16 1
  let ew : BitVec 2 := v.extractLsb' 14 2
  let imm : BitVec 14 := v.extractLsb' 0 14
  checked false ((v.extractLsb' 22 5) == 0#5 && mkOk mk && (v.extractLsb' 17 1) == 0#1) (.vstW vd b mk rx ew imm)

def dec_vldsW (h : BitVec 16) (v : BitVec 32) : Except Reject Instr :=
  let vd : VReg := h.extractLsb' 3 5
  let b : SReg := v.extractLsb' 27 5
  let c : SReg := v.extractLsb' 22 5
  let mk : BitVec 4 := v.extractLsb' 18 4
  let rx : BitVec 1 := v.extractLsb' 16 1
  let ew : BitVec 2 := v.extractLsb' 14 2
  let imm : BitVec 14 := v.extractLsb' 0 14
  checked false (mkOk mk && (v.extractLsb' 17 1) == 0#1) (.vldsW vd b c mk rx ew imm)

def dec_vstsW (h : BitVec 16) (v : BitVec 32) : Except Reject Instr :=
  let vd : VReg := h.extractLsb' 3 5
  let b : SReg := v.extractLsb' 27 5
  let c : SReg := v.extractLsb' 22 5
  let mk : BitVec 4 := v.extractLsb' 18 4
  let rx : BitVec 1 := v.extractLsb' 16 1
  let ew : BitVec 2 := v.extractLsb' 14 2
  let imm : BitVec 14 := v.extractLsb' 0 14
  checked false (mkOk mk && (v.extractLsb' 17 1) == 0#1) (.vstsW vd b c mk rx ew imm)

def dec_vldX1 (h : BitVec 16) (v : BitVec 48) : Except Reject Instr :=
  let vd : VReg := h.extractLsb' 3 5
  let b : SReg := v.extractLsb' 43 5
  let mk : BitVec 4 := v.extractLsb' 34 4
  let rx : BitVec 1 := v.extractLsb' 32 1
  let ew : BitVec 2 := v.extractLsb' 30 2
  let imm : BitVec 30 := v.extractLsb' 0 30
  checked false ((v.extractLsb' 38 5) == 0#5 && mkOk mk && (v.extractLsb' 33 1) == 0#1) (.vldX1 vd b mk rx ew imm)

def dec_vstX1 (h : BitVec 16) (v : BitVec 48) : Except Reject Instr :=
  let vd : VReg := h.extractLsb' 3 5
  let b : SReg := v.extractLsb' 43 5
  let mk : BitVec 4 := v.extractLsb' 34 4
  let rx : BitVec 1 := v.extractLsb' 32 1
  let ew : BitVec 2 := v.extractLsb' 30 2
  let imm : BitVec 30 := v.extractLsb' 0 30
  checked false ((v.extractLsb' 38 5) == 0#5 && mkOk mk && (v.extractLsb' 33 1) == 0#1) (.vstX1 vd b mk rx ew imm)

def dec_vldsX1 (h : BitVec 16) (v : BitVec 48) : Except Reject Instr :=
  let vd : VReg := h.extractLsb' 3 5
  let b : SReg := v.extractLsb' 43 5
  let c : SReg := v.extractLsb' 38 5
  let mk : BitVec 4 := v.extractLsb' 34 4
  let rx : BitVec 1 := v.extractLsb' 32 1
  let ew : BitVec 2 := v.extractLsb' 30 2
  let imm : BitVec 30 := v.extractLsb' 0 30
  checked false (mkOk mk && (v.extractLsb' 33 1) == 0#1) (.vldsX1 vd b c mk rx ew imm)

def dec_vstsX1 (h : BitVec 16) (v : BitVec 48) : Except Reject Instr :=
  let vd : VReg := h.extractLsb' 3 5
  let b : SReg := v.extractLsb' 43 5
  let c : SReg := v.extractLsb' 38 5
  let mk : BitVec 4 := v.extractLsb' 34 4
  let rx : BitVec 1 := v.extractLsb' 32 1
  let ew : BitVec 2 := v.extractLsb' 30 2
  let imm : BitVec 30 := v.extractLsb' 0 30
  checked false (mkOk mk && (v.extractLsb' 33 1) == 0#1) (.vstsX1 vd b c mk rx ew imm)

def dec_vgath (h : BitVec 16) (v : BitVec 16) : Except Reject Instr :=
  let vd : VReg := h.extractLsb' 3 5
  let b : SReg := v.extractLsb' 11 5
  let c : VReg := v.extractLsb' 6 5
  let mk : BitVec 4 := v.extractLsb' 2 4
  let x64 : BitVec 1 := v.extractLsb' 1 1
  checked false (mkOk mk && (v.extractLsb' 0 1) == 0#1) (.vgath vd b c mk x64)

def dec_vscat (h : BitVec 16) (v : BitVec 16) : Except Reject Instr :=
  let vd : VReg := h.extractLsb' 3 5
  let b : SReg := v.extractLsb' 11 5
  let c : VReg := v.extractLsb' 6 5
  let mk : BitVec 4 := v.extractLsb' 2 4
  let x64 : BitVec 1 := v.extractLsb' 1 1
  checked false (mkOk mk && (v.extractLsb' 0 1) == 0#1) (.vscat vd b c mk x64)

def dec_vgathW (h : BitVec 16) (v : BitVec 32) : Except Reject Instr :=
  let vd : VReg := h.extractLsb' 3 5
  let b : SReg := v.extractLsb' 27 5
  let c : VReg := v.extractLsb' 22 5
  let mk : BitVec 4 := v.extractLsb' 18 4
  let rx : BitVec 1 := v.extractLsb' 16 1
  let x64 : BitVec 1 := v.extractLsb' 2 1
  let sc : BitVec 2 := v.extractLsb' 0 2
  checked false (mkOk mk && (v.extractLsb' 17 1) == 0#1 && (v.extractLsb' 3 13) == 0#13) (.vgathW vd b c mk rx x64 sc)

def dec_vscatW (h : BitVec 16) (v : BitVec 32) : Except Reject Instr :=
  let vd : VReg := h.extractLsb' 3 5
  let b : SReg := v.extractLsb' 27 5
  let c : VReg := v.extractLsb' 22 5
  let mk : BitVec 4 := v.extractLsb' 18 4
  let rx : BitVec 1 := v.extractLsb' 16 1
  let x64 : BitVec 1 := v.extractLsb' 2 1
  let sc : BitVec 2 := v.extractLsb' 0 2
  checked false (mkOk mk && (v.extractLsb' 17 1) == 0#1 && (v.extractLsb' 3 13) == 0#13) (.vscatW vd b c mk rx x64 sc)

def dec_aadd (h : BitVec 16) (v : BitVec 16) : Except Reject Instr :=
  let d : SReg := h.extractLsb' 3 5
  let b : SReg := v.extractLsb' 11 5
  let c : SReg := v.extractLsb' 6 5
  let w32 : BitVec 1 := v.extractLsb' 5 1
  let rx : BitVec 1 := v.extractLsb' 4 1
  checked false ((v.extractLsb' 2 2) == 0#2 && (v.extractLsb' 0 2) == 0#2) (.aadd d b c w32 rx)

def dec_aand (h : BitVec 16) (v : BitVec 16) : Except Reject Instr :=
  let d : SReg := h.extractLsb' 3 5
  let b : SReg := v.extractLsb' 11 5
  let c : SReg := v.extractLsb' 6 5
  let w32 : BitVec 1 := v.extractLsb' 5 1
  let rx : BitVec 1 := v.extractLsb' 4 1
  checked false ((v.extractLsb' 2 2) == 0#2 && (v.extractLsb' 0 2) == 0#2) (.aand d b c w32 rx)

def dec_aor (h : BitVec 16) (v : BitVec 16) : Except Reject Instr :=
  let d : SReg := h.extractLsb' 3 5
  let b : SReg := v.extractLsb' 11 5
  let c : SReg := v.extractLsb' 6 5
  let w32 : BitVec 1 := v.extractLsb' 5 1
  let rx : BitVec 1 := v.extractLsb' 4 1
  checked false ((v.extractLsb' 2 2) == 0#2 && (v.extractLsb' 0 2) == 0#2) (.aor d b c w32 rx)

def dec_axor (h : BitVec 16) (v : BitVec 16) : Except Reject Instr :=
  let d : SReg := h.extractLsb' 3 5
  let b : SReg := v.extractLsb' 11 5
  let c : SReg := v.extractLsb' 6 5
  let w32 : BitVec 1 := v.extractLsb' 5 1
  let rx : BitVec 1 := v.extractLsb' 4 1
  checked false ((v.extractLsb' 2 2) == 0#2 && (v.extractLsb' 0 2) == 0#2) (.axor d b c w32 rx)

def dec_aswp (h : BitVec 16) (v : BitVec 16) : Except Reject Instr :=
  let d : SReg := h.extractLsb' 3 5
  let b : SReg := v.extractLsb' 11 5
  let c : SReg := v.extractLsb' 6 5
  let w32 : BitVec 1 := v.extractLsb' 5 1
  let rx : BitVec 1 := v.extractLsb' 4 1
  checked false ((v.extractLsb' 2 2) == 0#2 && (v.extractLsb' 0 2) == 0#2) (.aswp d b c w32 rx)

def dec_acas (h : BitVec 16) (v : BitVec 16) : Except Reject Instr :=
  let d : SReg := h.extractLsb' 3 5
  let b : SReg := v.extractLsb' 11 5
  let c : SReg := v.extractLsb' 6 5
  let w32 : BitVec 1 := v.extractLsb' 5 1
  let rx : BitVec 1 := v.extractLsb' 4 1
  checked false ((v.extractLsb' 2 2) == 0#2 && (v.extractLsb' 0 2) == 0#2) (.acas d b c w32 rx)

def dec_amin (h : BitVec 16) (v : BitVec 16) : Except Reject Instr :=
  let d : SReg := h.extractLsb' 3 5
  let b : SReg := v.extractLsb' 11 5
  let c : SReg := v.extractLsb' 6 5
  let w32 : BitVec 1 := v.extractLsb' 5 1
  let rx : BitVec 1 := v.extractLsb' 4 1
  checked false ((v.extractLsb' 2 2) == 0#2) (.amin d b c w32 rx)

def dec_amax (h : BitVec 16) (v : BitVec 16) : Except Reject Instr :=
  let d : SReg := h.extractLsb' 3 5
  let b : SReg := v.extractLsb' 11 5
  let c : SReg := v.extractLsb' 6 5
  let w32 : BitVec 1 := v.extractLsb' 5 1
  let rx : BitVec 1 := v.extractLsb' 4 1
  checked false ((v.extractLsb' 2 2) == 0#2) (.amax d b c w32 rx)

def dec_aminu (h : BitVec 16) (v : BitVec 16) : Except Reject Instr :=
  let d : SReg := h.extractLsb' 3 5
  let b : SReg := v.extractLsb' 11 5
  let c : SReg := v.extractLsb' 6 5
  let w32 : BitVec 1 := v.extractLsb' 5 1
  let rx : BitVec 1 := v.extractLsb' 4 1
  checked false ((v.extractLsb' 2 2) == 0#2) (.aminu d b c w32 rx)

def dec_amaxu (h : BitVec 16) (v : BitVec 16) : Except Reject Instr :=
  let d : SReg := h.extractLsb' 3 5
  let b : SReg := v.extractLsb' 11 5
  let c : SReg := v.extractLsb' 6 5
  let w32 : BitVec 1 := v.extractLsb' 5 1
  let rx : BitVec 1 := v.extractLsb' 4 1
  checked false ((v.extractLsb' 2 2) == 0#2) (.amaxu d b c w32 rx)

def dec_afadd (h : BitVec 16) (v : BitVec 16) : Except Reject Instr :=
  let d : SReg := h.extractLsb' 3 5
  let b : SReg := v.extractLsb' 11 5
  let c : SReg := v.extractLsb' 6 5
  let w32 : BitVec 1 := v.extractLsb' 5 1
  let rx : BitVec 1 := v.extractLsb' 4 1
  checked (w32 == 0#1) ((v.extractLsb' 2 2) == 0#2 && (v.extractLsb' 0 2) == 0#2) (.afadd d b c w32 rx)

def dec_aaddW (h : BitVec 16) (v : BitVec 32) : Except Reject Instr :=
  let d : SReg := h.extractLsb' 3 5
  let b : SReg := v.extractLsb' 27 5
  let c : SReg := v.extractLsb' 22 5
  let w32 : BitVec 1 := v.extractLsb' 21 1
  let rx : BitVec 1 := v.extractLsb' 16 1
  let imm : BitVec 16 := v.extractLsb' 0 16
  checked false ((v.extractLsb' 19 2) == 0#2 && (v.extractLsb' 17 2) == 0#2) (.aaddW d b c w32 rx imm)

def dec_aandW (h : BitVec 16) (v : BitVec 32) : Except Reject Instr :=
  let d : SReg := h.extractLsb' 3 5
  let b : SReg := v.extractLsb' 27 5
  let c : SReg := v.extractLsb' 22 5
  let w32 : BitVec 1 := v.extractLsb' 21 1
  let rx : BitVec 1 := v.extractLsb' 16 1
  let imm : BitVec 16 := v.extractLsb' 0 16
  checked false ((v.extractLsb' 19 2) == 0#2 && (v.extractLsb' 17 2) == 0#2) (.aandW d b c w32 rx imm)

def dec_aorW (h : BitVec 16) (v : BitVec 32) : Except Reject Instr :=
  let d : SReg := h.extractLsb' 3 5
  let b : SReg := v.extractLsb' 27 5
  let c : SReg := v.extractLsb' 22 5
  let w32 : BitVec 1 := v.extractLsb' 21 1
  let rx : BitVec 1 := v.extractLsb' 16 1
  let imm : BitVec 16 := v.extractLsb' 0 16
  checked false ((v.extractLsb' 19 2) == 0#2 && (v.extractLsb' 17 2) == 0#2) (.aorW d b c w32 rx imm)

def dec_axorW (h : BitVec 16) (v : BitVec 32) : Except Reject Instr :=
  let d : SReg := h.extractLsb' 3 5
  let b : SReg := v.extractLsb' 27 5
  let c : SReg := v.extractLsb' 22 5
  let w32 : BitVec 1 := v.extractLsb' 21 1
  let rx : BitVec 1 := v.extractLsb' 16 1
  let imm : BitVec 16 := v.extractLsb' 0 16
  checked false ((v.extractLsb' 19 2) == 0#2 && (v.extractLsb' 17 2) == 0#2) (.axorW d b c w32 rx imm)

def dec_aswpW (h : BitVec 16) (v : BitVec 32) : Except Reject Instr :=
  let d : SReg := h.extractLsb' 3 5
  let b : SReg := v.extractLsb' 27 5
  let c : SReg := v.extractLsb' 22 5
  let w32 : BitVec 1 := v.extractLsb' 21 1
  let rx : BitVec 1 := v.extractLsb' 16 1
  let imm : BitVec 16 := v.extractLsb' 0 16
  checked false ((v.extractLsb' 19 2) == 0#2 && (v.extractLsb' 17 2) == 0#2) (.aswpW d b c w32 rx imm)

def dec_acasW (h : BitVec 16) (v : BitVec 32) : Except Reject Instr :=
  let d : SReg := h.extractLsb' 3 5
  let b : SReg := v.extractLsb' 27 5
  let c : SReg := v.extractLsb' 22 5
  let w32 : BitVec 1 := v.extractLsb' 21 1
  let rx : BitVec 1 := v.extractLsb' 16 1
  let imm : BitVec 16 := v.extractLsb' 0 16
  checked false ((v.extractLsb' 19 2) == 0#2 && (v.extractLsb' 17 2) == 0#2) (.acasW d b c w32 rx imm)

def dec_aminW (h : BitVec 16) (v : BitVec 32) : Except Reject Instr :=
  let d : SReg := h.extractLsb' 3 5
  let b : SReg := v.extractLsb' 27 5
  let c : SReg := v.extractLsb' 22 5
  let w32 : BitVec 1 := v.extractLsb' 21 1
  let rx : BitVec 1 := v.extractLsb' 16 1
  let imm : BitVec 16 := v.extractLsb' 0 16
  checked false ((v.extractLsb' 19 2) == 0#2) (.aminW d b c w32 rx imm)

def dec_amaxW (h : BitVec 16) (v : BitVec 32) : Except Reject Instr :=
  let d : SReg := h.extractLsb' 3 5
  let b : SReg := v.extractLsb' 27 5
  let c : SReg := v.extractLsb' 22 5
  let w32 : BitVec 1 := v.extractLsb' 21 1
  let rx : BitVec 1 := v.extractLsb' 16 1
  let imm : BitVec 16 := v.extractLsb' 0 16
  checked false ((v.extractLsb' 19 2) == 0#2) (.amaxW d b c w32 rx imm)

def dec_aminuW (h : BitVec 16) (v : BitVec 32) : Except Reject Instr :=
  let d : SReg := h.extractLsb' 3 5
  let b : SReg := v.extractLsb' 27 5
  let c : SReg := v.extractLsb' 22 5
  let w32 : BitVec 1 := v.extractLsb' 21 1
  let rx : BitVec 1 := v.extractLsb' 16 1
  let imm : BitVec 16 := v.extractLsb' 0 16
  checked false ((v.extractLsb' 19 2) == 0#2) (.aminuW d b c w32 rx imm)

def dec_amaxuW (h : BitVec 16) (v : BitVec 32) : Except Reject Instr :=
  let d : SReg := h.extractLsb' 3 5
  let b : SReg := v.extractLsb' 27 5
  let c : SReg := v.extractLsb' 22 5
  let w32 : BitVec 1 := v.extractLsb' 21 1
  let rx : BitVec 1 := v.extractLsb' 16 1
  let imm : BitVec 16 := v.extractLsb' 0 16
  checked false ((v.extractLsb' 19 2) == 0#2) (.amaxuW d b c w32 rx imm)

def dec_afaddW (h : BitVec 16) (v : BitVec 32) : Except Reject Instr :=
  let d : SReg := h.extractLsb' 3 5
  let b : SReg := v.extractLsb' 27 5
  let c : SReg := v.extractLsb' 22 5
  let w32 : BitVec 1 := v.extractLsb' 21 1
  let rx : BitVec 1 := v.extractLsb' 16 1
  let imm : BitVec 16 := v.extractLsb' 0 16
  checked (w32 == 0#1) ((v.extractLsb' 19 2) == 0#2 && (v.extractLsb' 17 2) == 0#2) (.afaddW d b c w32 rx imm)

def dec_tatsw (h : BitVec 16) : Except Reject Instr :=
  let t : BitVec 2 := h.extractLsb' 3 2
  checked false ((h.extractLsb' 5 3) == 0#3) (.tatsw t)

def dec_tget (h : BitVec 16) (v : BitVec 16) : Except Reject Instr :=
  let d : SReg := h.extractLsb' 3 5
  let b : SReg := v.extractLsb' 11 5
  checked false ((v.extractLsb' 6 5) == 0#5 && (v.extractLsb' 0 6) == 0#6) (.tget d b)

def dec_tset (h : BitVec 16) (v : BitVec 16) : Except Reject Instr :=
  let b : SReg := v.extractLsb' 11 5
  let c : SReg := v.extractLsb' 6 5
  checked false ((h.extractLsb' 3 5) == 0#5 && (v.extractLsb' 3 2) == 0#2 && (v.extractLsb' 0 3) == 0#3) (.tset b c)

def dec_tsetImm (h : BitVec 16) (v : BitVec 16) : Except Reject Instr :=
  let b : SReg := v.extractLsb' 11 5
  let t : BitVec 3 := v.extractLsb' 0 3
  checked false ((h.extractLsb' 3 5) == 0#5 && (v.extractLsb' 6 5) == 0#5 && (v.extractLsb' 3 2) == 0#2) (.tsetImm b t)

def dec_tcas (h : BitVec 16) (v : BitVec 16) : Except Reject Instr :=
  let d : SReg := h.extractLsb' 3 5
  let b : SReg := v.extractLsb' 11 5
  let c : SReg := v.extractLsb' 6 5
  checked false ((v.extractLsb' 0 6) == 0#6) (.tcas d b c)

def dec_tatld (h : BitVec 16) (v : BitVec 16) : Except Reject Instr :=
  let t : BitVec 2 := h.extractLsb' 3 2
  let b : SReg := v.extractLsb' 11 5
  checked false ((h.extractLsb' 5 3) == 0#3 && (v.extractLsb' 6 5) == 0#5 && (v.extractLsb' 0 6) == 0#6) (.tatld t b)

def dec_rmset (h : BitVec 16) (v : BitVec 16) : Except Reject Instr :=
  let t : BitVec 2 := h.extractLsb' 3 2
  let k : BitVec 6 := v.extractLsb' 0 6
  checked false ((h.extractLsb' 5 3) == 0#3 && (v.extractLsb' 11 5) == 0#5 && (v.extractLsb' 6 5) == 0#5) (.rmset t k)

def dec_fence (h : BitVec 16) : Except Reject Instr :=
  let sc : BitVec 3 := h.extractLsb' 3 3
  checked (!scopeFence sc) ((h.extractLsb' 6 2) == 0#2) (.fence sc)

def dec_bar (h : BitVec 16) : Except Reject Instr :=
  let sc : BitVec 3 := h.extractLsb' 3 3
  checked (!scopeBar sc) ((h.extractLsb' 6 2) == 0#2) (.bar sc)

def dec_bara (h : BitVec 16) : Except Reject Instr :=
  let sc : BitVec 3 := h.extractLsb' 3 3
  checked (!scopeBar sc) ((h.extractLsb' 6 2) == 0#2) (.bara sc)

def dec_barw (h : BitVec 16) : Except Reject Instr :=
  let sc : BitVec 3 := h.extractLsb' 3 3
  checked (!scopeBar sc) ((h.extractLsb' 6 2) == 0#2) (.barw sc)

def dec_xfence (h : BitVec 16) (v : BitVec 16) : Except Reject Instr :=
  let p : BitVec 3 := v.extractLsb' 3 3
  let q : BitVec 3 := v.extractLsb' 0 3
  checked (decide (6 ≤ p.toNat) || decide (6 ≤ q.toNat)) ((h.extractLsb' 3 5) == 0#5 && (v.extractLsb' 11 5) == 0#5 && (v.extractLsb' 6 5) == 0#5) (.xfence p q)

def dec_sbinit (h : BitVec 16) (v : BitVec 16) : Except Reject Instr :=
  let b : SReg := v.extractLsb' 11 5
  let c : SReg := v.extractLsb' 6 5
  checked false ((h.extractLsb' 3 5) == 0#5 && (v.extractLsb' 0 6) == 0#6) (.sbinit b c)

def dec_sbarv (h : BitVec 16) (v : BitVec 16) : Except Reject Instr :=
  let d : SReg := h.extractLsb' 3 5
  let b : SReg := v.extractLsb' 11 5
  let sc : BitVec 3 := v.extractLsb' 0 3
  checked (!scopeFence sc) ((v.extractLsb' 6 5) == 0#5 && (v.extractLsb' 3 3) == 0#3) (.sbarv d b sc)

def dec_sbwait (h : BitVec 16) (v : BitVec 16) : Except Reject Instr :=
  let d : SReg := h.extractLsb' 3 5
  let b : SReg := v.extractLsb' 11 5
  let c : SReg := v.extractLsb' 6 5
  checked false ((v.extractLsb' 0 6) == 0#6) (.sbwait d b c)

def dec_sbtest (h : BitVec 16) (v : BitVec 16) : Except Reject Instr :=
  let d : SReg := h.extractLsb' 3 5
  let b : SReg := v.extractLsb' 11 5
  let c : SReg := v.extractLsb' 6 5
  checked false ((v.extractLsb' 0 6) == 0#6) (.sbtest d b c)

def dec_waitTag (h : BitVec 16) (v : BitVec 16) : Except Reject Instr :=
  let b : SReg := v.extractLsb' 11 5
  let t : BitVec 3 := v.extractLsb' 0 3
  checked false ((h.extractLsb' 3 5) == 0#5 && (v.extractLsb' 6 5) == 0#5 && (v.extractLsb' 3 3) == 0#3) (.waitTag b t)

def dec_dqlen (h : BitVec 16) : Except Reject Instr :=
  let d : SReg := h.extractLsb' 3 5
  checked false (true) (.dqlen d)

def dec_joinWord (h : BitVec 16) (v : BitVec 16) : Except Reject Instr :=
  let b : SReg := v.extractLsb' 11 5
  checked false ((h.extractLsb' 3 5) == 0#5 && (v.extractLsb' 6 5) == 0#5 && (v.extractLsb' 0 6) == 0#6) (.joinWord b)

def dec_steal (h : BitVec 16) (v : BitVec 16) : Except Reject Instr :=
  let d : SReg := h.extractLsb' 3 5
  let b : SReg := v.extractLsb' 11 5
  let t : BitVec 3 := v.extractLsb' 0 3
  checked false ((v.extractLsb' 6 5) == 0#5 && (v.extractLsb' 3 3) == 0#3) (.steal d b t)

def dec_pcon (h : BitVec 16) (v : BitVec 16) : Except Reject Instr :=
  let b : SReg := v.extractLsb' 11 5
  let fl : BitVec 4 := v.extractLsb' 0 4
  checked false ((h.extractLsb' 3 5) == 0#5 && (v.extractLsb' 6 5) == 0#5 && (v.extractLsb' 4 2) == 0#2) (.pcon b fl)

def dec_flushi (h : BitVec 16) (v : BitVec 16) : Except Reject Instr :=
  let b : SReg := v.extractLsb' 11 5
  let c : SReg := v.extractLsb' 6 5
  let sc : BitVec 3 := v.extractLsb' 0 3
  checked (!scopeFlush sc) ((h.extractLsb' 3 5) == 0#5 && (v.extractLsb' 3 3) == 0#3) (.flushi b c sc)

def dec_spawn (h : BitVec 16) (v : BitVec 32) : Except Reject Instr :=
  let b : SReg := v.extractLsb' 27 5
  let off : BitVec 27 := v.extractLsb' 0 27
  checked false ((h.extractLsb' 3 5) == 0#5) (.spawn b off)

def dec_vadd (h : BitVec 16) (v : BitVec 16) : Except Reject Instr :=
  let d : VReg := h.extractLsb' 3 5
  let b : VReg := v.extractLsb' 11 5
  let c : VReg := v.extractLsb' 6 5
  let mk : BitVec 4 := v.extractLsb' 2 4
  let t : BitVec 2 := v.extractLsb' 0 2
  checked false (mkOk mk) (.vadd d b c mk t)

def dec_vsub (h : BitVec 16) (v : BitVec 16) : Except Reject Instr :=
  let d : VReg := h.extractLsb' 3 5
  let b : VReg := v.extractLsb' 11 5
  let c : VReg := v.extractLsb' 6 5
  let mk : BitVec 4 := v.extractLsb' 2 4
  let t : BitVec 2 := v.extractLsb' 0 2
  checked false (mkOk mk) (.vsub d b c mk t)

def dec_vmul (h : BitVec 16) (v : BitVec 16) : Except Reject Instr :=
  let d : VReg := h.extractLsb' 3 5
  let b : VReg := v.extractLsb' 11 5
  let c : VReg := v.extractLsb' 6 5
  let mk : BitVec 4 := v.extractLsb' 2 4
  let t : BitVec 2 := v.extractLsb' 0 2
  checked false (mkOk mk) (.vmul d b c mk t)

def dec_vmulh (h : BitVec 16) (v : BitVec 16) : Except Reject Instr :=
  let d : VReg := h.extractLsb' 3 5
  let b : VReg := v.extractLsb' 11 5
  let c : VReg := v.extractLsb' 6 5
  let mk : BitVec 4 := v.extractLsb' 2 4
  let t : BitVec 2 := v.extractLsb' 0 2
  checked false (mkOk mk) (.vmulh d b c mk t)

def dec_vmin (h : BitVec 16) (v : BitVec 16) : Except Reject Instr :=
  let d : VReg := h.extractLsb' 3 5
  let b : VReg := v.extractLsb' 11 5
  let c : VReg := v.extractLsb' 6 5
  let mk : BitVec 4 := v.extractLsb' 2 4
  let t : BitVec 2 := v.extractLsb' 0 2
  checked false (mkOk mk) (.vmin d b c mk t)

def dec_vmax (h : BitVec 16) (v : BitVec 16) : Except Reject Instr :=
  let d : VReg := h.extractLsb' 3 5
  let b : VReg := v.extractLsb' 11 5
  let c : VReg := v.extractLsb' 6 5
  let mk : BitVec 4 := v.extractLsb' 2 4
  let t : BitVec 2 := v.extractLsb' 0 2
  checked false (mkOk mk) (.vmax d b c mk t)

def dec_vminu (h : BitVec 16) (v : BitVec 16) : Except Reject Instr :=
  let d : VReg := h.extractLsb' 3 5
  let b : VReg := v.extractLsb' 11 5
  let c : VReg := v.extractLsb' 6 5
  let mk : BitVec 4 := v.extractLsb' 2 4
  let t : BitVec 2 := v.extractLsb' 0 2
  checked false (mkOk mk) (.vminu d b c mk t)

def dec_vmaxu (h : BitVec 16) (v : BitVec 16) : Except Reject Instr :=
  let d : VReg := h.extractLsb' 3 5
  let b : VReg := v.extractLsb' 11 5
  let c : VReg := v.extractLsb' 6 5
  let mk : BitVec 4 := v.extractLsb' 2 4
  let t : BitVec 2 := v.extractLsb' 0 2
  checked false (mkOk mk) (.vmaxu d b c mk t)

def dec_vaddW (h : BitVec 16) (v : BitVec 32) : Except Reject Instr :=
  let d : VReg := h.extractLsb' 3 5
  let b : VReg := v.extractLsb' 27 5
  let c : VReg := v.extractLsb' 22 5
  let z : BitVec 1 := v.extractLsb' 16 1
  let mk : BitVec 4 := v.extractLsb' 12 4
  let t : BitVec 2 := v.extractLsb' 10 2
  let sat : BitVec 2 := v.extractLsb' 5 2
  checked (sat == 3#2 || !rmPlain (v.extractLsb' 7 3)) ((v.extractLsb' 17 5) == 0#5 && mkOk mk && (v.extractLsb' 7 3) == 0#3 && (v.extractLsb' 0 3) == 0#3) (.vaddW d b c z mk t sat)

def dec_vsubW (h : BitVec 16) (v : BitVec 32) : Except Reject Instr :=
  let d : VReg := h.extractLsb' 3 5
  let b : VReg := v.extractLsb' 27 5
  let c : VReg := v.extractLsb' 22 5
  let z : BitVec 1 := v.extractLsb' 16 1
  let mk : BitVec 4 := v.extractLsb' 12 4
  let t : BitVec 2 := v.extractLsb' 10 2
  let sat : BitVec 2 := v.extractLsb' 5 2
  checked (sat == 3#2 || !rmPlain (v.extractLsb' 7 3)) ((v.extractLsb' 17 5) == 0#5 && mkOk mk && (v.extractLsb' 7 3) == 0#3 && (v.extractLsb' 0 3) == 0#3) (.vsubW d b c z mk t sat)

def dec_vmulW (h : BitVec 16) (v : BitVec 32) : Except Reject Instr :=
  let d : VReg := h.extractLsb' 3 5
  let b : VReg := v.extractLsb' 27 5
  let c : VReg := v.extractLsb' 22 5
  let z : BitVec 1 := v.extractLsb' 16 1
  let mk : BitVec 4 := v.extractLsb' 12 4
  let t : BitVec 2 := v.extractLsb' 10 2
  let sat : BitVec 2 := v.extractLsb' 5 2
  checked (sat == 3#2 || !rmPlain (v.extractLsb' 7 3)) ((v.extractLsb' 17 5) == 0#5 && mkOk mk && (v.extractLsb' 7 3) == 0#3 && (v.extractLsb' 0 3) == 0#3) (.vmulW d b c z mk t sat)

def dec_vmulhW (h : BitVec 16) (v : BitVec 32) : Except Reject Instr :=
  let d : VReg := h.extractLsb' 3 5
  let b : VReg := v.extractLsb' 27 5
  let c : VReg := v.extractLsb' 22 5
  let z : BitVec 1 := v.extractLsb' 16 1
  let mk : BitVec 4 := v.extractLsb' 12 4
  let t : BitVec 2 := v.extractLsb' 10 2
  checked (!rmPlain (v.extractLsb' 7 3) || (v.extractLsb' 5 2) == 3#2) ((v.extractLsb' 17 5) == 0#5 && mkOk mk && (v.extractLsb' 7 3) == 0#3 && (v.extractLsb' 5 2) == 0#2 && (v.extractLsb' 0 3) == 0#3) (.vmulhW d b c z mk t)

def dec_vminW (h : BitVec 16) (v : BitVec 32) : Except Reject Instr :=
  let d : VReg := h.extractLsb' 3 5
  let b : VReg := v.extractLsb' 27 5
  let c : VReg := v.extractLsb' 22 5
  let z : BitVec 1 := v.extractLsb' 16 1
  let mk : BitVec 4 := v.extractLsb' 12 4
  let t : BitVec 2 := v.extractLsb' 10 2
  checked (!rmPlain (v.extractLsb' 7 3) || (v.extractLsb' 5 2) == 3#2) ((v.extractLsb' 17 5) == 0#5 && mkOk mk && (v.extractLsb' 7 3) == 0#3 && (v.extractLsb' 5 2) == 0#2 && (v.extractLsb' 0 3) == 0#3) (.vminW d b c z mk t)

def dec_vmaxW (h : BitVec 16) (v : BitVec 32) : Except Reject Instr :=
  let d : VReg := h.extractLsb' 3 5
  let b : VReg := v.extractLsb' 27 5
  let c : VReg := v.extractLsb' 22 5
  let z : BitVec 1 := v.extractLsb' 16 1
  let mk : BitVec 4 := v.extractLsb' 12 4
  let t : BitVec 2 := v.extractLsb' 10 2
  checked (!rmPlain (v.extractLsb' 7 3) || (v.extractLsb' 5 2) == 3#2) ((v.extractLsb' 17 5) == 0#5 && mkOk mk && (v.extractLsb' 7 3) == 0#3 && (v.extractLsb' 5 2) == 0#2 && (v.extractLsb' 0 3) == 0#3) (.vmaxW d b c z mk t)

def dec_vminuW (h : BitVec 16) (v : BitVec 32) : Except Reject Instr :=
  let d : VReg := h.extractLsb' 3 5
  let b : VReg := v.extractLsb' 27 5
  let c : VReg := v.extractLsb' 22 5
  let z : BitVec 1 := v.extractLsb' 16 1
  let mk : BitVec 4 := v.extractLsb' 12 4
  let t : BitVec 2 := v.extractLsb' 10 2
  checked (!rmPlain (v.extractLsb' 7 3) || (v.extractLsb' 5 2) == 3#2) ((v.extractLsb' 17 5) == 0#5 && mkOk mk && (v.extractLsb' 7 3) == 0#3 && (v.extractLsb' 5 2) == 0#2 && (v.extractLsb' 0 3) == 0#3) (.vminuW d b c z mk t)

def dec_vmaxuW (h : BitVec 16) (v : BitVec 32) : Except Reject Instr :=
  let d : VReg := h.extractLsb' 3 5
  let b : VReg := v.extractLsb' 27 5
  let c : VReg := v.extractLsb' 22 5
  let z : BitVec 1 := v.extractLsb' 16 1
  let mk : BitVec 4 := v.extractLsb' 12 4
  let t : BitVec 2 := v.extractLsb' 10 2
  checked (!rmPlain (v.extractLsb' 7 3) || (v.extractLsb' 5 2) == 3#2) ((v.extractLsb' 17 5) == 0#5 && mkOk mk && (v.extractLsb' 7 3) == 0#3 && (v.extractLsb' 5 2) == 0#2 && (v.extractLsb' 0 3) == 0#3) (.vmaxuW d b c z mk t)

def dec_vand (h : BitVec 16) (v : BitVec 32) : Except Reject Instr :=
  let d : VReg := h.extractLsb' 3 5
  let b : VReg := v.extractLsb' 27 5
  let c : VReg := v.extractLsb' 22 5
  let z : BitVec 1 := v.extractLsb' 16 1
  let mk : BitVec 4 := v.extractLsb' 12 4
  let t : BitVec 2 := v.extractLsb' 10 2
  checked (!rmPlain (v.extractLsb' 7 3) || (v.extractLsb' 5 2) == 3#2) ((v.extractLsb' 17 5) == 0#5 && mkOk mk && (v.extractLsb' 7 3) == 0#3 && (v.extractLsb' 5 2) == 0#2 && (v.extractLsb' 0 3) == 0#3) (.vand d b c z mk t)

def dec_vor (h : BitVec 16) (v : BitVec 32) : Except Reject Instr :=
  let d : VReg := h.extractLsb' 3 5
  let b : VReg := v.extractLsb' 27 5
  let c : VReg := v.extractLsb' 22 5
  let z : BitVec 1 := v.extractLsb' 16 1
  let mk : BitVec 4 := v.extractLsb' 12 4
  let t : BitVec 2 := v.extractLsb' 10 2
  checked (!rmPlain (v.extractLsb' 7 3) || (v.extractLsb' 5 2) == 3#2) ((v.extractLsb' 17 5) == 0#5 && mkOk mk && (v.extractLsb' 7 3) == 0#3 && (v.extractLsb' 5 2) == 0#2 && (v.extractLsb' 0 3) == 0#3) (.vor d b c z mk t)

def dec_vxor (h : BitVec 16) (v : BitVec 32) : Except Reject Instr :=
  let d : VReg := h.extractLsb' 3 5
  let b : VReg := v.extractLsb' 27 5
  let c : VReg := v.extractLsb' 22 5
  let z : BitVec 1 := v.extractLsb' 16 1
  let mk : BitVec 4 := v.extractLsb' 12 4
  let t : BitVec 2 := v.extractLsb' 10 2
  checked (!rmPlain (v.extractLsb' 7 3) || (v.extractLsb' 5 2) == 3#2) ((v.extractLsb' 17 5) == 0#5 && mkOk mk && (v.extractLsb' 7 3) == 0#3 && (v.extractLsb' 5 2) == 0#2 && (v.extractLsb' 0 3) == 0#3) (.vxor d b c z mk t)

def dec_vsll (h : BitVec 16) (v : BitVec 32) : Except Reject Instr :=
  let d : VReg := h.extractLsb' 3 5
  let b : VReg := v.extractLsb' 27 5
  let c : VReg := v.extractLsb' 22 5
  let z : BitVec 1 := v.extractLsb' 16 1
  let mk : BitVec 4 := v.extractLsb' 12 4
  let t : BitVec 2 := v.extractLsb' 10 2
  checked (!rmPlain (v.extractLsb' 7 3) || (v.extractLsb' 5 2) == 3#2) ((v.extractLsb' 17 5) == 0#5 && mkOk mk && (v.extractLsb' 7 3) == 0#3 && (v.extractLsb' 5 2) == 0#2 && (v.extractLsb' 0 3) == 0#3) (.vsll d b c z mk t)

def dec_vsrl (h : BitVec 16) (v : BitVec 32) : Except Reject Instr :=
  let d : VReg := h.extractLsb' 3 5
  let b : VReg := v.extractLsb' 27 5
  let c : VReg := v.extractLsb' 22 5
  let z : BitVec 1 := v.extractLsb' 16 1
  let mk : BitVec 4 := v.extractLsb' 12 4
  let t : BitVec 2 := v.extractLsb' 10 2
  checked (!rmPlain (v.extractLsb' 7 3) || (v.extractLsb' 5 2) == 3#2) ((v.extractLsb' 17 5) == 0#5 && mkOk mk && (v.extractLsb' 7 3) == 0#3 && (v.extractLsb' 5 2) == 0#2 && (v.extractLsb' 0 3) == 0#3) (.vsrl d b c z mk t)

def dec_vsra (h : BitVec 16) (v : BitVec 32) : Except Reject Instr :=
  let d : VReg := h.extractLsb' 3 5
  let b : VReg := v.extractLsb' 27 5
  let c : VReg := v.extractLsb' 22 5
  let z : BitVec 1 := v.extractLsb' 16 1
  let mk : BitVec 4 := v.extractLsb' 12 4
  let t : BitVec 2 := v.extractLsb' 10 2
  checked (!rmPlain (v.extractLsb' 7 3) || (v.extractLsb' 5 2) == 3#2) ((v.extractLsb' 17 5) == 0#5 && mkOk mk && (v.extractLsb' 7 3) == 0#3 && (v.extractLsb' 5 2) == 0#2 && (v.extractLsb' 0 3) == 0#3) (.vsra d b c z mk t)

def dec_vmulhu (h : BitVec 16) (v : BitVec 32) : Except Reject Instr :=
  let d : VReg := h.extractLsb' 3 5
  let b : VReg := v.extractLsb' 27 5
  let c : VReg := v.extractLsb' 22 5
  let z : BitVec 1 := v.extractLsb' 16 1
  let mk : BitVec 4 := v.extractLsb' 12 4
  let t : BitVec 2 := v.extractLsb' 10 2
  checked (!rmPlain (v.extractLsb' 7 3) || (v.extractLsb' 5 2) == 3#2) ((v.extractLsb' 17 5) == 0#5 && mkOk mk && (v.extractLsb' 7 3) == 0#3 && (v.extractLsb' 5 2) == 0#2 && (v.extractLsb' 0 3) == 0#3) (.vmulhu d b c z mk t)

def dec_vabs (h : BitVec 16) (v : BitVec 32) : Except Reject Instr :=
  let d : VReg := h.extractLsb' 3 5
  let b : VReg := v.extractLsb' 27 5
  let mk : BitVec 4 := v.extractLsb' 12 4
  let t : BitVec 2 := v.extractLsb' 10 2
  let sat : BitVec 2 := v.extractLsb' 5 2
  checked (decide (2 ≤ sat.toNat) || !rmPlain (v.extractLsb' 7 3)) ((v.extractLsb' 22 5) == 0#5 && (v.extractLsb' 17 5) == 0#5 && (v.extractLsb' 16 1) == 0#1 && mkOk mk && (v.extractLsb' 7 3) == 0#3 && (v.extractLsb' 0 3) == 0#3) (.vabs d b mk t sat)

def dec_vfadd (h : BitVec 16) (v : BitVec 16) : Except Reject Instr :=
  let d : VReg := h.extractLsb' 3 5
  let b : VReg := v.extractLsb' 11 5
  let c : VReg := v.extractLsb' 6 5
  let mk : BitVec 4 := v.extractLsb' 2 4
  let t : BitVec 2 := v.extractLsb' 0 2
  checked (t == 3#2) (mkOk mk) (.vfadd d b c mk t)

def dec_vfsub (h : BitVec 16) (v : BitVec 16) : Except Reject Instr :=
  let d : VReg := h.extractLsb' 3 5
  let b : VReg := v.extractLsb' 11 5
  let c : VReg := v.extractLsb' 6 5
  let mk : BitVec 4 := v.extractLsb' 2 4
  let t : BitVec 2 := v.extractLsb' 0 2
  checked (t == 3#2) (mkOk mk) (.vfsub d b c mk t)

def dec_vfmul (h : BitVec 16) (v : BitVec 16) : Except Reject Instr :=
  let d : VReg := h.extractLsb' 3 5
  let b : VReg := v.extractLsb' 11 5
  let c : VReg := v.extractLsb' 6 5
  let mk : BitVec 4 := v.extractLsb' 2 4
  let t : BitVec 2 := v.extractLsb' 0 2
  checked (t == 3#2) (mkOk mk) (.vfmul d b c mk t)

def dec_vfdiv (h : BitVec 16) (v : BitVec 16) : Except Reject Instr :=
  let d : VReg := h.extractLsb' 3 5
  let b : VReg := v.extractLsb' 11 5
  let c : VReg := v.extractLsb' 6 5
  let mk : BitVec 4 := v.extractLsb' 2 4
  let t : BitVec 2 := v.extractLsb' 0 2
  checked (t == 3#2) (mkOk mk) (.vfdiv d b c mk t)

def dec_vfmin (h : BitVec 16) (v : BitVec 16) : Except Reject Instr :=
  let d : VReg := h.extractLsb' 3 5
  let b : VReg := v.extractLsb' 11 5
  let c : VReg := v.extractLsb' 6 5
  let mk : BitVec 4 := v.extractLsb' 2 4
  let t : BitVec 2 := v.extractLsb' 0 2
  checked (t == 3#2) (mkOk mk) (.vfmin d b c mk t)

def dec_vfmax (h : BitVec 16) (v : BitVec 16) : Except Reject Instr :=
  let d : VReg := h.extractLsb' 3 5
  let b : VReg := v.extractLsb' 11 5
  let c : VReg := v.extractLsb' 6 5
  let mk : BitVec 4 := v.extractLsb' 2 4
  let t : BitVec 2 := v.extractLsb' 0 2
  checked (t == 3#2) (mkOk mk) (.vfmax d b c mk t)

def dec_vfsqrt (h : BitVec 16) (v : BitVec 16) : Except Reject Instr :=
  let d : VReg := h.extractLsb' 3 5
  let b : VReg := v.extractLsb' 11 5
  let mk : BitVec 4 := v.extractLsb' 2 4
  let t : BitVec 2 := v.extractLsb' 0 2
  checked (t == 3#2) ((v.extractLsb' 6 5) == 0#5 && mkOk mk) (.vfsqrt d b mk t)

def dec_vfaddW (h : BitVec 16) (v : BitVec 32) : Except Reject Instr :=
  let d : VReg := h.extractLsb' 3 5
  let b : VReg := v.extractLsb' 27 5
  let c : VReg := v.extractLsb' 22 5
  let z : BitVec 1 := v.extractLsb' 16 1
  let mk : BitVec 4 := v.extractLsb' 12 4
  let t : BitVec 2 := v.extractLsb' 10 2
  let rm : BitVec 3 := v.extractLsb' 7 3
  checked (t == 3#2 || !rmPlain rm || (v.extractLsb' 5 2) == 3#2) ((v.extractLsb' 17 5) == 0#5 && mkOk mk && (v.extractLsb' 5 2) == 0#2 && (v.extractLsb' 0 3) == 0#3) (.vfaddW d b c z mk t rm)

def dec_vfsubW (h : BitVec 16) (v : BitVec 32) : Except Reject Instr :=
  let d : VReg := h.extractLsb' 3 5
  let b : VReg := v.extractLsb' 27 5
  let c : VReg := v.extractLsb' 22 5
  let z : BitVec 1 := v.extractLsb' 16 1
  let mk : BitVec 4 := v.extractLsb' 12 4
  let t : BitVec 2 := v.extractLsb' 10 2
  let rm : BitVec 3 := v.extractLsb' 7 3
  checked (t == 3#2 || !rmPlain rm || (v.extractLsb' 5 2) == 3#2) ((v.extractLsb' 17 5) == 0#5 && mkOk mk && (v.extractLsb' 5 2) == 0#2 && (v.extractLsb' 0 3) == 0#3) (.vfsubW d b c z mk t rm)

def dec_vfmulW (h : BitVec 16) (v : BitVec 32) : Except Reject Instr :=
  let d : VReg := h.extractLsb' 3 5
  let b : VReg := v.extractLsb' 27 5
  let c : VReg := v.extractLsb' 22 5
  let z : BitVec 1 := v.extractLsb' 16 1
  let mk : BitVec 4 := v.extractLsb' 12 4
  let t : BitVec 2 := v.extractLsb' 10 2
  let rm : BitVec 3 := v.extractLsb' 7 3
  checked (t == 3#2 || !rmPlain rm || (v.extractLsb' 5 2) == 3#2) ((v.extractLsb' 17 5) == 0#5 && mkOk mk && (v.extractLsb' 5 2) == 0#2 && (v.extractLsb' 0 3) == 0#3) (.vfmulW d b c z mk t rm)

def dec_vfdivW (h : BitVec 16) (v : BitVec 32) : Except Reject Instr :=
  let d : VReg := h.extractLsb' 3 5
  let b : VReg := v.extractLsb' 27 5
  let c : VReg := v.extractLsb' 22 5
  let z : BitVec 1 := v.extractLsb' 16 1
  let mk : BitVec 4 := v.extractLsb' 12 4
  let t : BitVec 2 := v.extractLsb' 10 2
  let rm : BitVec 3 := v.extractLsb' 7 3
  checked (t == 3#2 || !rmPlain rm || (v.extractLsb' 5 2) == 3#2) ((v.extractLsb' 17 5) == 0#5 && mkOk mk && (v.extractLsb' 5 2) == 0#2 && (v.extractLsb' 0 3) == 0#3) (.vfdivW d b c z mk t rm)

def dec_vfminW (h : BitVec 16) (v : BitVec 32) : Except Reject Instr :=
  let d : VReg := h.extractLsb' 3 5
  let b : VReg := v.extractLsb' 27 5
  let c : VReg := v.extractLsb' 22 5
  let z : BitVec 1 := v.extractLsb' 16 1
  let mk : BitVec 4 := v.extractLsb' 12 4
  let t : BitVec 2 := v.extractLsb' 10 2
  let rm : BitVec 3 := v.extractLsb' 7 3
  checked (t == 3#2 || !rmPlain rm || (v.extractLsb' 5 2) == 3#2) ((v.extractLsb' 17 5) == 0#5 && mkOk mk && (v.extractLsb' 5 2) == 0#2 && (v.extractLsb' 0 3) == 0#3) (.vfminW d b c z mk t rm)

def dec_vfmaxW (h : BitVec 16) (v : BitVec 32) : Except Reject Instr :=
  let d : VReg := h.extractLsb' 3 5
  let b : VReg := v.extractLsb' 27 5
  let c : VReg := v.extractLsb' 22 5
  let z : BitVec 1 := v.extractLsb' 16 1
  let mk : BitVec 4 := v.extractLsb' 12 4
  let t : BitVec 2 := v.extractLsb' 10 2
  let rm : BitVec 3 := v.extractLsb' 7 3
  checked (t == 3#2 || !rmPlain rm || (v.extractLsb' 5 2) == 3#2) ((v.extractLsb' 17 5) == 0#5 && mkOk mk && (v.extractLsb' 5 2) == 0#2 && (v.extractLsb' 0 3) == 0#3) (.vfmaxW d b c z mk t rm)

def dec_vfsqrtW (h : BitVec 16) (v : BitVec 32) : Except Reject Instr :=
  let d : VReg := h.extractLsb' 3 5
  let b : VReg := v.extractLsb' 27 5
  let mk : BitVec 4 := v.extractLsb' 12 4
  let t : BitVec 2 := v.extractLsb' 10 2
  let rm : BitVec 3 := v.extractLsb' 7 3
  checked (t == 3#2 || !rmPlain rm || (v.extractLsb' 5 2) == 3#2) ((v.extractLsb' 22 5) == 0#5 && (v.extractLsb' 17 5) == 0#5 && (v.extractLsb' 16 1) == 0#1 && mkOk mk && (v.extractLsb' 5 2) == 0#2 && (v.extractLsb' 0 3) == 0#3) (.vfsqrtW d b mk t rm)

def dec_vfneg (h : BitVec 16) (v : BitVec 32) : Except Reject Instr :=
  let d : VReg := h.extractLsb' 3 5
  let b : VReg := v.extractLsb' 27 5
  let mk : BitVec 4 := v.extractLsb' 12 4
  let t : BitVec 2 := v.extractLsb' 10 2
  let rm : BitVec 3 := v.extractLsb' 7 3
  checked (t == 3#2 || !rmPlain rm || (v.extractLsb' 5 2) == 3#2) ((v.extractLsb' 22 5) == 0#5 && (v.extractLsb' 17 5) == 0#5 && (v.extractLsb' 16 1) == 0#1 && mkOk mk && (v.extractLsb' 5 2) == 0#2 && (v.extractLsb' 0 3) == 0#3) (.vfneg d b mk t rm)

def dec_vfabs (h : BitVec 16) (v : BitVec 32) : Except Reject Instr :=
  let d : VReg := h.extractLsb' 3 5
  let b : VReg := v.extractLsb' 27 5
  let mk : BitVec 4 := v.extractLsb' 12 4
  let t : BitVec 2 := v.extractLsb' 10 2
  let rm : BitVec 3 := v.extractLsb' 7 3
  checked (t == 3#2 || !rmPlain rm || (v.extractLsb' 5 2) == 3#2) ((v.extractLsb' 22 5) == 0#5 && (v.extractLsb' 17 5) == 0#5 && (v.extractLsb' 16 1) == 0#1 && mkOk mk && (v.extractLsb' 5 2) == 0#2 && (v.extractLsb' 0 3) == 0#3) (.vfabs d b mk t rm)

def dec_vfma (h : BitVec 16) (v : BitVec 16) : Except Reject Instr :=
  let d : VReg := h.extractLsb' 3 5
  let b : VReg := v.extractLsb' 11 5
  let c : VReg := v.extractLsb' 6 5
  let mk : BitVec 4 := v.extractLsb' 2 4
  let t : BitVec 2 := v.extractLsb' 0 2
  checked (t == 3#2) (mkOk mk) (.vfma d b c mk t)

def dec_vfms (h : BitVec 16) (v : BitVec 16) : Except Reject Instr :=
  let d : VReg := h.extractLsb' 3 5
  let b : VReg := v.extractLsb' 11 5
  let c : VReg := v.extractLsb' 6 5
  let mk : BitVec 4 := v.extractLsb' 2 4
  let t : BitVec 2 := v.extractLsb' 0 2
  checked (t == 3#2) (mkOk mk) (.vfms d b c mk t)

def dec_vfnma (h : BitVec 16) (v : BitVec 16) : Except Reject Instr :=
  let d : VReg := h.extractLsb' 3 5
  let b : VReg := v.extractLsb' 11 5
  let c : VReg := v.extractLsb' 6 5
  let mk : BitVec 4 := v.extractLsb' 2 4
  let t : BitVec 2 := v.extractLsb' 0 2
  checked (t == 3#2) (mkOk mk) (.vfnma d b c mk t)

def dec_vfnms (h : BitVec 16) (v : BitVec 16) : Except Reject Instr :=
  let d : VReg := h.extractLsb' 3 5
  let b : VReg := v.extractLsb' 11 5
  let c : VReg := v.extractLsb' 6 5
  let mk : BitVec 4 := v.extractLsb' 2 4
  let t : BitVec 2 := v.extractLsb' 0 2
  checked (t == 3#2) (mkOk mk) (.vfnms d b c mk t)

def dec_vmac (h : BitVec 16) (v : BitVec 16) : Except Reject Instr :=
  let d : VReg := h.extractLsb' 3 5
  let b : VReg := v.extractLsb' 11 5
  let c : VReg := v.extractLsb' 6 5
  let mk : BitVec 4 := v.extractLsb' 2 4
  let t : BitVec 2 := v.extractLsb' 0 2
  checked false (mkOk mk) (.vmac d b c mk t)

def dec_vdot (h : BitVec 16) (v : BitVec 16) : Except Reject Instr :=
  let d : VReg := h.extractLsb' 3 5
  let b : VReg := v.extractLsb' 11 5
  let c : VReg := v.extractLsb' 6 5
  let mk : BitVec 4 := v.extractLsb' 2 4
  let t : BitVec 2 := v.extractLsb' 0 2
  checked (!tDot t) (mkOk mk) (.vdot d b c mk t)

def dec_vdotu (h : BitVec 16) (v : BitVec 16) : Except Reject Instr :=
  let d : VReg := h.extractLsb' 3 5
  let b : VReg := v.extractLsb' 11 5
  let c : VReg := v.extractLsb' 6 5
  let mk : BitVec 4 := v.extractLsb' 2 4
  let t : BitVec 2 := v.extractLsb' 0 2
  checked (!tDot t) (mkOk mk) (.vdotu d b c mk t)

def dec_vfmaW (h : BitVec 16) (v : BitVec 32) : Except Reject Instr :=
  let d : VReg := h.extractLsb' 3 5
  let b : VReg := v.extractLsb' 27 5
  let c : VReg := v.extractLsb' 22 5
  let e : VReg := v.extractLsb' 17 5
  let z : BitVec 1 := v.extractLsb' 16 1
  let mk : BitVec 4 := v.extractLsb' 12 4
  let t : BitVec 2 := v.extractLsb' 10 2
  let rm : BitVec 3 := v.extractLsb' 7 3
  checked (t == 3#2 || !rmPlain rm || (v.extractLsb' 5 2) == 3#2) (mkOk mk && (v.extractLsb' 5 2) == 0#2 && (v.extractLsb' 0 3) == 0#3 && !(z == 0#1 && e != 0#5)) (.vfmaW d b c e z mk t rm)

noncomputable def dec_vfmsW (h : BitVec 16) (v : BitVec 32) : Except Reject Instr :=
  let d : VReg := h.extractLsb' 3 5
  let b : VReg := v.extractLsb' 27 5
  let c : VReg := v.extractLsb' 22 5
  let e : VReg := v.extractLsb' 17 5
  let z : BitVec 1 := v.extractLsb' 16 1
  let mk : BitVec 4 := v.extractLsb' 12 4
  let t : BitVec 2 := v.extractLsb' 10 2
  let rm : BitVec 3 := v.extractLsb' 7 3
  checked (t == 3#2 || !rmPlain rm || (v.extractLsb' 5 2) == 3#2) (mkOk mk && (v.extractLsb' 5 2) == 0#2 && (v.extractLsb' 0 3) == 0#3 && !(z == 0#1 && e != 0#5)) (.vfmsW d b c e z mk t rm)

noncomputable def dec_vfnmaW (h : BitVec 16) (v : BitVec 32) : Except Reject Instr :=
  let d : VReg := h.extractLsb' 3 5
  let b : VReg := v.extractLsb' 27 5
  let c : VReg := v.extractLsb' 22 5
  let e : VReg := v.extractLsb' 17 5
  let z : BitVec 1 := v.extractLsb' 16 1
  let mk : BitVec 4 := v.extractLsb' 12 4
  let t : BitVec 2 := v.extractLsb' 10 2
  let rm : BitVec 3 := v.extractLsb' 7 3
  checked (t == 3#2 || !rmPlain rm || (v.extractLsb' 5 2) == 3#2) (mkOk mk && (v.extractLsb' 5 2) == 0#2 && (v.extractLsb' 0 3) == 0#3 && !(z == 0#1 && e != 0#5)) (.vfnmaW d b c e z mk t rm)

noncomputable def dec_vfnmsW (h : BitVec 16) (v : BitVec 32) : Except Reject Instr :=
  let d : VReg := h.extractLsb' 3 5
  let b : VReg := v.extractLsb' 27 5
  let c : VReg := v.extractLsb' 22 5
  let e : VReg := v.extractLsb' 17 5
  let z : BitVec 1 := v.extractLsb' 16 1
  let mk : BitVec 4 := v.extractLsb' 12 4
  let t : BitVec 2 := v.extractLsb' 10 2
  let rm : BitVec 3 := v.extractLsb' 7 3
  checked (t == 3#2 || !rmPlain rm || (v.extractLsb' 5 2) == 3#2) (mkOk mk && (v.extractLsb' 5 2) == 0#2 && (v.extractLsb' 0 3) == 0#3 && !(z == 0#1 && e != 0#5)) (.vfnmsW d b c e z mk t rm)

noncomputable def dec_vmacW (h : BitVec 16) (v : BitVec 32) : Except Reject Instr :=
  let d : VReg := h.extractLsb' 3 5
  let b : VReg := v.extractLsb' 27 5
  let c : VReg := v.extractLsb' 22 5
  let e : VReg := v.extractLsb' 17 5
  let z : BitVec 1 := v.extractLsb' 16 1
  let mk : BitVec 4 := v.extractLsb' 12 4
  let t : BitVec 2 := v.extractLsb' 10 2
  let sat : BitVec 2 := v.extractLsb' 5 2
  checked (sat == 3#2 || !rmPlain (v.extractLsb' 7 3)) (mkOk mk && (v.extractLsb' 7 3) == 0#3 && (v.extractLsb' 0 3) == 0#3 && !(z == 0#1 && e != 0#5)) (.vmacW d b c e z mk t sat)

noncomputable def dec_vdotW (h : BitVec 16) (v : BitVec 32) : Except Reject Instr :=
  let d : VReg := h.extractLsb' 3 5
  let b : VReg := v.extractLsb' 27 5
  let c : VReg := v.extractLsb' 22 5
  let e : VReg := v.extractLsb' 17 5
  let z : BitVec 1 := v.extractLsb' 16 1
  let mk : BitVec 4 := v.extractLsb' 12 4
  let t : BitVec 2 := v.extractLsb' 10 2
  let sat : BitVec 2 := v.extractLsb' 5 2
  checked (sat == 3#2 || !tDot t || !rmPlain (v.extractLsb' 7 3)) (mkOk mk && (v.extractLsb' 7 3) == 0#3 && (v.extractLsb' 0 3) == 0#3 && !(z == 0#1 && e != 0#5)) (.vdotW d b c e z mk t sat)

noncomputable def dec_vdotuW (h : BitVec 16) (v : BitVec 32) : Except Reject Instr :=
  let d : VReg := h.extractLsb' 3 5
  let b : VReg := v.extractLsb' 27 5
  let c : VReg := v.extractLsb' 22 5
  let e : VReg := v.extractLsb' 17 5
  let z : BitVec 1 := v.extractLsb' 16 1
  let mk : BitVec 4 := v.extractLsb' 12 4
  let t : BitVec 2 := v.extractLsb' 10 2
  let sat : BitVec 2 := v.extractLsb' 5 2
  checked (sat == 3#2 || !tDot t || !rmPlain (v.extractLsb' 7 3)) (mkOk mk && (v.extractLsb' 7 3) == 0#3 && (v.extractLsb' 0 3) == 0#3 && !(z == 0#1 && e != 0#5)) (.vdotuW d b c e z mk t sat)

noncomputable def dec_vseq (h : BitVec 16) (v : BitVec 16) : Except Reject Instr :=
  let d : VReg := h.extractLsb' 3 5
  let b : VReg := v.extractLsb' 11 5
  let c : VReg := v.extractLsb' 6 5
  let mk : BitVec 4 := v.extractLsb' 2 4
  let t : BitVec 2 := v.extractLsb' 0 2
  checked false (mkOk mk) (.vseq d b c mk t)

noncomputable def dec_vsne (h : BitVec 16) (v : BitVec 16) : Except Reject Instr :=
  let d : VReg := h.extractLsb' 3 5
  let b : VReg := v.extractLsb' 11 5
  let c : VReg := v.extractLsb' 6 5
  let mk : BitVec 4 := v.extractLsb' 2 4
  let t : BitVec 2 := v.extractLsb' 0 2
  checked false (mkOk mk) (.vsne d b c mk t)

noncomputable def dec_vslt (h : BitVec 16) (v : BitVec 16) : Except Reject Instr :=
  let d : VReg := h.extractLsb' 3 5
  let b : VReg := v.extractLsb' 11 5
  let c : VReg := v.extractLsb' 6 5
  let mk : BitVec 4 := v.extractLsb' 2 4
  let t : BitVec 2 := v.extractLsb' 0 2
  checked false (mkOk mk) (.vslt d b c mk t)

noncomputable def dec_vsle (h : BitVec 16) (v : BitVec 16) : Except Reject Instr :=
  let d : VReg := h.extractLsb' 3 5
  let b : VReg := v.extractLsb' 11 5
  let c : VReg := v.extractLsb' 6 5
  let mk : BitVec 4 := v.extractLsb' 2 4
  let t : BitVec 2 := v.extractLsb' 0 2
  checked false (mkOk mk) (.vsle d b c mk t)

noncomputable def dec_vsltu (h : BitVec 16) (v : BitVec 16) : Except Reject Instr :=
  let d : VReg := h.extractLsb' 3 5
  let b : VReg := v.extractLsb' 11 5
  let c : VReg := v.extractLsb' 6 5
  let mk : BitVec 4 := v.extractLsb' 2 4
  let t : BitVec 2 := v.extractLsb' 0 2
  checked false (mkOk mk) (.vsltu d b c mk t)

noncomputable def dec_vsleu (h : BitVec 16) (v : BitVec 16) : Except Reject Instr :=
  let d : VReg := h.extractLsb' 3 5
  let b : VReg := v.extractLsb' 11 5
  let c : VReg := v.extractLsb' 6 5
  let mk : BitVec 4 := v.extractLsb' 2 4
  let t : BitVec 2 := v.extractLsb' 0 2
  checked false (mkOk mk) (.vsleu d b c mk t)

noncomputable def dec_vseqW (h : BitVec 16) (v : BitVec 32) : Except Reject Instr :=
  let d : VReg := h.extractLsb' 3 5
  let b : VReg := v.extractLsb' 27 5
  let c : VReg := v.extractLsb' 22 5
  let z : BitVec 1 := v.extractLsb' 16 1
  let mk : BitVec 4 := v.extractLsb' 12 4
  let t : BitVec 2 := v.extractLsb' 10 2
  checked (!rmPlain (v.extractLsb' 7 3) || (v.extractLsb' 5 2) == 3#2) ((v.extractLsb' 17 5) == 0#5 && mkOk mk && (v.extractLsb' 7 3) == 0#3 && (v.extractLsb' 5 2) == 0#2 && (v.extractLsb' 0 3) == 0#3) (.vseqW d b c z mk t)

noncomputable def dec_vsneW (h : BitVec 16) (v : BitVec 32) : Except Reject Instr :=
  let d : VReg := h.extractLsb' 3 5
  let b : VReg := v.extractLsb' 27 5
  let c : VReg := v.extractLsb' 22 5
  let z : BitVec 1 := v.extractLsb' 16 1
  let mk : BitVec 4 := v.extractLsb' 12 4
  let t : BitVec 2 := v.extractLsb' 10 2
  checked (!rmPlain (v.extractLsb' 7 3) || (v.extractLsb' 5 2) == 3#2) ((v.extractLsb' 17 5) == 0#5 && mkOk mk && (v.extractLsb' 7 3) == 0#3 && (v.extractLsb' 5 2) == 0#2 && (v.extractLsb' 0 3) == 0#3) (.vsneW d b c z mk t)

noncomputable def dec_vsltW (h : BitVec 16) (v : BitVec 32) : Except Reject Instr :=
  let d : VReg := h.extractLsb' 3 5
  let b : VReg := v.extractLsb' 27 5
  let c : VReg := v.extractLsb' 22 5
  let z : BitVec 1 := v.extractLsb' 16 1
  let mk : BitVec 4 := v.extractLsb' 12 4
  let t : BitVec 2 := v.extractLsb' 10 2
  checked (!rmPlain (v.extractLsb' 7 3) || (v.extractLsb' 5 2) == 3#2) ((v.extractLsb' 17 5) == 0#5 && mkOk mk && (v.extractLsb' 7 3) == 0#3 && (v.extractLsb' 5 2) == 0#2 && (v.extractLsb' 0 3) == 0#3) (.vsltW d b c z mk t)

noncomputable def dec_vsleW (h : BitVec 16) (v : BitVec 32) : Except Reject Instr :=
  let d : VReg := h.extractLsb' 3 5
  let b : VReg := v.extractLsb' 27 5
  let c : VReg := v.extractLsb' 22 5
  let z : BitVec 1 := v.extractLsb' 16 1
  let mk : BitVec 4 := v.extractLsb' 12 4
  let t : BitVec 2 := v.extractLsb' 10 2
  checked (!rmPlain (v.extractLsb' 7 3) || (v.extractLsb' 5 2) == 3#2) ((v.extractLsb' 17 5) == 0#5 && mkOk mk && (v.extractLsb' 7 3) == 0#3 && (v.extractLsb' 5 2) == 0#2 && (v.extractLsb' 0 3) == 0#3) (.vsleW d b c z mk t)

noncomputable def dec_vsltuW (h : BitVec 16) (v : BitVec 32) : Except Reject Instr :=
  let d : VReg := h.extractLsb' 3 5
  let b : VReg := v.extractLsb' 27 5
  let c : VReg := v.extractLsb' 22 5
  let z : BitVec 1 := v.extractLsb' 16 1
  let mk : BitVec 4 := v.extractLsb' 12 4
  let t : BitVec 2 := v.extractLsb' 10 2
  checked (!rmPlain (v.extractLsb' 7 3) || (v.extractLsb' 5 2) == 3#2) ((v.extractLsb' 17 5) == 0#5 && mkOk mk && (v.extractLsb' 7 3) == 0#3 && (v.extractLsb' 5 2) == 0#2 && (v.extractLsb' 0 3) == 0#3) (.vsltuW d b c z mk t)

noncomputable def dec_vsleuW (h : BitVec 16) (v : BitVec 32) : Except Reject Instr :=
  let d : VReg := h.extractLsb' 3 5
  let b : VReg := v.extractLsb' 27 5
  let c : VReg := v.extractLsb' 22 5
  let z : BitVec 1 := v.extractLsb' 16 1
  let mk : BitVec 4 := v.extractLsb' 12 4
  let t : BitVec 2 := v.extractLsb' 10 2
  checked (!rmPlain (v.extractLsb' 7 3) || (v.extractLsb' 5 2) == 3#2) ((v.extractLsb' 17 5) == 0#5 && mkOk mk && (v.extractLsb' 7 3) == 0#3 && (v.extractLsb' 5 2) == 0#2 && (v.extractLsb' 0 3) == 0#3) (.vsleuW d b c z mk t)

noncomputable def dec_vfeq (h : BitVec 16) (v : BitVec 32) : Except Reject Instr :=
  let d : VReg := h.extractLsb' 3 5
  let b : VReg := v.extractLsb' 27 5
  let c : VReg := v.extractLsb' 22 5
  let z : BitVec 1 := v.extractLsb' 16 1
  let mk : BitVec 4 := v.extractLsb' 12 4
  let t : BitVec 2 := v.extractLsb' 10 2
  checked (t == 3#2 || !rmPlain (v.extractLsb' 7 3) || (v.extractLsb' 5 2) == 3#2) ((v.extractLsb' 17 5) == 0#5 && mkOk mk && (v.extractLsb' 7 3) == 0#3 && (v.extractLsb' 5 2) == 0#2 && (v.extractLsb' 0 3) == 0#3) (.vfeq d b c z mk t)

noncomputable def dec_vfne (h : BitVec 16) (v : BitVec 32) : Except Reject Instr :=
  let d : VReg := h.extractLsb' 3 5
  let b : VReg := v.extractLsb' 27 5
  let c : VReg := v.extractLsb' 22 5
  let z : BitVec 1 := v.extractLsb' 16 1
  let mk : BitVec 4 := v.extractLsb' 12 4
  let t : BitVec 2 := v.extractLsb' 10 2
  checked (t == 3#2 || !rmPlain (v.extractLsb' 7 3) || (v.extractLsb' 5 2) == 3#2) ((v.extractLsb' 17 5) == 0#5 && mkOk mk && (v.extractLsb' 7 3) == 0#3 && (v.extractLsb' 5 2) == 0#2 && (v.extractLsb' 0 3) == 0#3) (.vfne d b c z mk t)

noncomputable def dec_vflt (h : BitVec 16) (v : BitVec 32) : Except Reject Instr :=
  let d : VReg := h.extractLsb' 3 5
  let b : VReg := v.extractLsb' 27 5
  let c : VReg := v.extractLsb' 22 5
  let z : BitVec 1 := v.extractLsb' 16 1
  let mk : BitVec 4 := v.extractLsb' 12 4
  let t : BitVec 2 := v.extractLsb' 10 2
  checked (t == 3#2 || !rmPlain (v.extractLsb' 7 3) || (v.extractLsb' 5 2) == 3#2) ((v.extractLsb' 17 5) == 0#5 && mkOk mk && (v.extractLsb' 7 3) == 0#3 && (v.extractLsb' 5 2) == 0#2 && (v.extractLsb' 0 3) == 0#3) (.vflt d b c z mk t)

noncomputable def dec_vfle (h : BitVec 16) (v : BitVec 32) : Except Reject Instr :=
  let d : VReg := h.extractLsb' 3 5
  let b : VReg := v.extractLsb' 27 5
  let c : VReg := v.extractLsb' 22 5
  let z : BitVec 1 := v.extractLsb' 16 1
  let mk : BitVec 4 := v.extractLsb' 12 4
  let t : BitVec 2 := v.extractLsb' 10 2
  checked (t == 3#2 || !rmPlain (v.extractLsb' 7 3) || (v.extractLsb' 5 2) == 3#2) ((v.extractLsb' 17 5) == 0#5 && mkOk mk && (v.extractLsb' 7 3) == 0#3 && (v.extractLsb' 5 2) == 0#2 && (v.extractLsb' 0 3) == 0#3) (.vfle d b c z mk t)

noncomputable def dec_vfun (h : BitVec 16) (v : BitVec 32) : Except Reject Instr :=
  let d : VReg := h.extractLsb' 3 5
  let b : VReg := v.extractLsb' 27 5
  let c : VReg := v.extractLsb' 22 5
  let z : BitVec 1 := v.extractLsb' 16 1
  let mk : BitVec 4 := v.extractLsb' 12 4
  let t : BitVec 2 := v.extractLsb' 10 2
  checked (t == 3#2 || !rmPlain (v.extractLsb' 7 3) || (v.extractLsb' 5 2) == 3#2) ((v.extractLsb' 17 5) == 0#5 && mkOk mk && (v.extractLsb' 7 3) == 0#3 && (v.extractLsb' 5 2) == 0#2 && (v.extractLsb' 0 3) == 0#3) (.vfun d b c z mk t)

noncomputable def dec_vmov (h : BitVec 16) (v : BitVec 16) : Except Reject Instr :=
  let d : VReg := h.extractLsb' 3 5
  let b : VReg := v.extractLsb' 11 5
  let mk : BitVec 4 := v.extractLsb' 2 4
  let t : BitVec 2 := v.extractLsb' 0 2
  checked false ((v.extractLsb' 6 5) == 0#5 && mkOk mk) (.vmov d b mk t)

noncomputable def dec_vbcast (h : BitVec 16) (v : BitVec 16) : Except Reject Instr :=
  let d : VReg := h.extractLsb' 3 5
  let c : SReg := v.extractLsb' 6 5
  let mk : BitVec 4 := v.extractLsb' 2 4
  let t : BitVec 2 := v.extractLsb' 0 2
  checked false ((v.extractLsb' 11 5) == 0#5 && mkOk mk) (.vbcast d c mk t)

noncomputable def dec_vsldn (h : BitVec 16) (v : BitVec 16) : Except Reject Instr :=
  let d : VReg := h.extractLsb' 3 5
  let b : VReg := v.extractLsb' 11 5
  let c : SReg := v.extractLsb' 6 5
  let mk : BitVec 4 := v.extractLsb' 2 4
  let t : BitVec 2 := v.extractLsb' 0 2
  checked false (mkOk mk) (.vsldn d b c mk t)

noncomputable def dec_vslup (h : BitVec 16) (v : BitVec 16) : Except Reject Instr :=
  let d : VReg := h.extractLsb' 3 5
  let b : VReg := v.extractLsb' 11 5
  let c : SReg := v.extractLsb' 6 5
  let mk : BitVec 4 := v.extractLsb' 2 4
  let t : BitVec 2 := v.extractLsb' 0 2
  checked false (mkOk mk) (.vslup d b c mk t)

noncomputable def dec_vperm (h : BitVec 16) (v : BitVec 16) : Except Reject Instr :=
  let d : VReg := h.extractLsb' 3 5
  let b : VReg := v.extractLsb' 11 5
  let c : VReg := v.extractLsb' 6 5
  let mk : BitVec 4 := v.extractLsb' 2 4
  let t : BitVec 2 := v.extractLsb' 0 2
  checked false (mkOk mk) (.vperm d b c mk t)

noncomputable def dec_vins (h : BitVec 16) (v : BitVec 16) : Except Reject Instr :=
  let d : VReg := h.extractLsb' 3 5
  let b : SReg := v.extractLsb' 11 5
  let c : SReg := v.extractLsb' 6 5
  let mk : BitVec 4 := v.extractLsb' 2 4
  let t : BitVec 2 := v.extractLsb' 0 2
  checked false (mkOk mk) (.vins d b c mk t)

noncomputable def dec_vext (h : BitVec 16) (v : BitVec 16) : Except Reject Instr :=
  let d : SReg := h.extractLsb' 3 5
  let b : VReg := v.extractLsb' 11 5
  let c : SReg := v.extractLsb' 6 5
  let t : BitVec 2 := v.extractLsb' 0 2
  checked false ((v.extractLsb' 2 4) == 0#4) (.vext d b c t)

noncomputable def dec_vmovW (h : BitVec 16) (v : BitVec 32) : Except Reject Instr :=
  let d : VReg := h.extractLsb' 3 5
  let b : VReg := v.extractLsb' 27 5
  let mk : BitVec 4 := v.extractLsb' 12 4
  let t : BitVec 2 := v.extractLsb' 10 2
  checked (!rmPlain (v.extractLsb' 7 3) || (v.extractLsb' 5 2) == 3#2) ((v.extractLsb' 22 5) == 0#5 && (v.extractLsb' 17 5) == 0#5 && (v.extractLsb' 16 1) == 0#1 && mkOk mk && (v.extractLsb' 7 3) == 0#3 && (v.extractLsb' 5 2) == 0#2 && (v.extractLsb' 0 3) == 0#3) (.vmovW d b mk t)

noncomputable def dec_vbcastW (h : BitVec 16) (v : BitVec 32) : Except Reject Instr :=
  let d : VReg := h.extractLsb' 3 5
  let c : SReg := v.extractLsb' 22 5
  let mk : BitVec 4 := v.extractLsb' 12 4
  let t : BitVec 2 := v.extractLsb' 10 2
  checked (!rmPlain (v.extractLsb' 7 3) || (v.extractLsb' 5 2) == 3#2) ((v.extractLsb' 27 5) == 0#5 && (v.extractLsb' 17 5) == 0#5 && (v.extractLsb' 16 1) == 0#1 && mkOk mk && (v.extractLsb' 7 3) == 0#3 && (v.extractLsb' 5 2) == 0#2 && (v.extractLsb' 0 3) == 0#3) (.vbcastW d c mk t)

noncomputable def dec_vsldnW (h : BitVec 16) (v : BitVec 32) : Except Reject Instr :=
  let d : VReg := h.extractLsb' 3 5
  let b : VReg := v.extractLsb' 27 5
  let c : SReg := v.extractLsb' 22 5
  let mk : BitVec 4 := v.extractLsb' 12 4
  let t : BitVec 2 := v.extractLsb' 10 2
  checked (!rmPlain (v.extractLsb' 7 3) || (v.extractLsb' 5 2) == 3#2) ((v.extractLsb' 17 5) == 0#5 && (v.extractLsb' 16 1) == 0#1 && mkOk mk && (v.extractLsb' 7 3) == 0#3 && (v.extractLsb' 5 2) == 0#2 && (v.extractLsb' 0 3) == 0#3) (.vsldnW d b c mk t)

noncomputable def dec_vslupW (h : BitVec 16) (v : BitVec 32) : Except Reject Instr :=
  let d : VReg := h.extractLsb' 3 5
  let b : VReg := v.extractLsb' 27 5
  let c : SReg := v.extractLsb' 22 5
  let mk : BitVec 4 := v.extractLsb' 12 4
  let t : BitVec 2 := v.extractLsb' 10 2
  checked (!rmPlain (v.extractLsb' 7 3) || (v.extractLsb' 5 2) == 3#2) ((v.extractLsb' 17 5) == 0#5 && (v.extractLsb' 16 1) == 0#1 && mkOk mk && (v.extractLsb' 7 3) == 0#3 && (v.extractLsb' 5 2) == 0#2 && (v.extractLsb' 0 3) == 0#3) (.vslupW d b c mk t)

noncomputable def dec_vpermW (h : BitVec 16) (v : BitVec 32) : Except Reject Instr :=
  let d : VReg := h.extractLsb' 3 5
  let b : VReg := v.extractLsb' 27 5
  let c : VReg := v.extractLsb' 22 5
  let mk : BitVec 4 := v.extractLsb' 12 4
  let t : BitVec 2 := v.extractLsb' 10 2
  checked (!rmPlain (v.extractLsb' 7 3) || (v.extractLsb' 5 2) == 3#2) ((v.extractLsb' 17 5) == 0#5 && (v.extractLsb' 16 1) == 0#1 && mkOk mk && (v.extractLsb' 7 3) == 0#3 && (v.extractLsb' 5 2) == 0#2 && (v.extractLsb' 0 3) == 0#3) (.vpermW d b c mk t)

noncomputable def dec_vinsW (h : BitVec 16) (v : BitVec 32) : Except Reject Instr :=
  let d : VReg := h.extractLsb' 3 5
  let b : SReg := v.extractLsb' 27 5
  let c : SReg := v.extractLsb' 22 5
  let mk : BitVec 4 := v.extractLsb' 12 4
  let t : BitVec 2 := v.extractLsb' 10 2
  checked (!rmPlain (v.extractLsb' 7 3) || (v.extractLsb' 5 2) == 3#2) ((v.extractLsb' 17 5) == 0#5 && (v.extractLsb' 16 1) == 0#1 && mkOk mk && (v.extractLsb' 7 3) == 0#3 && (v.extractLsb' 5 2) == 0#2 && (v.extractLsb' 0 3) == 0#3) (.vinsW d b c mk t)

noncomputable def dec_vextW (h : BitVec 16) (v : BitVec 32) : Except Reject Instr :=
  let d : SReg := h.extractLsb' 3 5
  let b : VReg := v.extractLsb' 27 5
  let c : SReg := v.extractLsb' 22 5
  let t : BitVec 2 := v.extractLsb' 10 2
  checked (!rmPlain (v.extractLsb' 7 3) || (v.extractLsb' 5 2) == 3#2) ((v.extractLsb' 17 5) == 0#5 && (v.extractLsb' 16 1) == 0#1 && (v.extractLsb' 12 4) == 0#4 && (v.extractLsb' 7 3) == 0#3 && (v.extractLsb' 5 2) == 0#2 && (v.extractLsb' 0 3) == 0#3) (.vextW d b c t)

noncomputable def dec_vrsum (h : BitVec 16) (v : BitVec 16) : Except Reject Instr :=
  let d : SReg := h.extractLsb' 3 5
  let b : VReg := v.extractLsb' 11 5
  let mk : BitVec 4 := v.extractLsb' 2 4
  let t : BitVec 2 := v.extractLsb' 0 2
  checked false ((v.extractLsb' 6 5) == 0#5 && mkOk mk && !(mk.getLsbD 2)) (.vrsum d b mk t)

noncomputable def dec_vrmin (h : BitVec 16) (v : BitVec 16) : Except Reject Instr :=
  let d : SReg := h.extractLsb' 3 5
  let b : VReg := v.extractLsb' 11 5
  let mk : BitVec 4 := v.extractLsb' 2 4
  let t : BitVec 2 := v.extractLsb' 0 2
  checked false ((v.extractLsb' 6 5) == 0#5 && mkOk mk && !(mk.getLsbD 2)) (.vrmin d b mk t)

noncomputable def dec_vrmax (h : BitVec 16) (v : BitVec 16) : Except Reject Instr :=
  let d : SReg := h.extractLsb' 3 5
  let b : VReg := v.extractLsb' 11 5
  let mk : BitVec 4 := v.extractLsb' 2 4
  let t : BitVec 2 := v.extractLsb' 0 2
  checked false ((v.extractLsb' 6 5) == 0#5 && mkOk mk && !(mk.getLsbD 2)) (.vrmax d b mk t)

noncomputable def dec_vrminu (h : BitVec 16) (v : BitVec 16) : Except Reject Instr :=
  let d : SReg := h.extractLsb' 3 5
  let b : VReg := v.extractLsb' 11 5
  let mk : BitVec 4 := v.extractLsb' 2 4
  let t : BitVec 2 := v.extractLsb' 0 2
  checked false ((v.extractLsb' 6 5) == 0#5 && mkOk mk && !(mk.getLsbD 2)) (.vrminu d b mk t)

noncomputable def dec_vrmaxu (h : BitVec 16) (v : BitVec 16) : Except Reject Instr :=
  let d : SReg := h.extractLsb' 3 5
  let b : VReg := v.extractLsb' 11 5
  let mk : BitVec 4 := v.extractLsb' 2 4
  let t : BitVec 2 := v.extractLsb' 0 2
  checked false ((v.extractLsb' 6 5) == 0#5 && mkOk mk && !(mk.getLsbD 2)) (.vrmaxu d b mk t)

noncomputable def dec_vrpopc (h : BitVec 16) (v : BitVec 16) : Except Reject Instr :=
  let d : SReg := h.extractLsb' 3 5
  let b : VReg := v.extractLsb' 11 5
  let mk : BitVec 4 := v.extractLsb' 2 4
  let t : BitVec 2 := v.extractLsb' 0 2
  checked false ((v.extractLsb' 6 5) == 0#5 && mkOk mk && !(mk.getLsbD 2)) (.vrpopc d b mk t)

noncomputable def dec_vrsumW (h : BitVec 16) (v : BitVec 32) : Except Reject Instr :=
  let d : SReg := h.extractLsb' 3 5
  let b : VReg := v.extractLsb' 27 5
  let mk : BitVec 4 := v.extractLsb' 12 4
  let t : BitVec 2 := v.extractLsb' 10 2
  checked (!rmPlain (v.extractLsb' 7 3) || (v.extractLsb' 5 2) == 3#2) ((v.extractLsb' 22 5) == 0#5 && (v.extractLsb' 17 5) == 0#5 && (v.extractLsb' 16 1) == 0#1 && mkOk mk && (v.extractLsb' 7 3) == 0#3 && (v.extractLsb' 5 2) == 0#2 && (v.extractLsb' 0 3) == 0#3 && !(mk.getLsbD 2)) (.vrsumW d b mk t)

noncomputable def dec_vrminW (h : BitVec 16) (v : BitVec 32) : Except Reject Instr :=
  let d : SReg := h.extractLsb' 3 5
  let b : VReg := v.extractLsb' 27 5
  let mk : BitVec 4 := v.extractLsb' 12 4
  let t : BitVec 2 := v.extractLsb' 10 2
  checked (!rmPlain (v.extractLsb' 7 3) || (v.extractLsb' 5 2) == 3#2) ((v.extractLsb' 22 5) == 0#5 && (v.extractLsb' 17 5) == 0#5 && (v.extractLsb' 16 1) == 0#1 && mkOk mk && (v.extractLsb' 7 3) == 0#3 && (v.extractLsb' 5 2) == 0#2 && (v.extractLsb' 0 3) == 0#3 && !(mk.getLsbD 2)) (.vrminW d b mk t)

noncomputable def dec_vrmaxW (h : BitVec 16) (v : BitVec 32) : Except Reject Instr :=
  let d : SReg := h.extractLsb' 3 5
  let b : VReg := v.extractLsb' 27 5
  let mk : BitVec 4 := v.extractLsb' 12 4
  let t : BitVec 2 := v.extractLsb' 10 2
  checked (!rmPlain (v.extractLsb' 7 3) || (v.extractLsb' 5 2) == 3#2) ((v.extractLsb' 22 5) == 0#5 && (v.extractLsb' 17 5) == 0#5 && (v.extractLsb' 16 1) == 0#1 && mkOk mk && (v.extractLsb' 7 3) == 0#3 && (v.extractLsb' 5 2) == 0#2 && (v.extractLsb' 0 3) == 0#3 && !(mk.getLsbD 2)) (.vrmaxW d b mk t)

noncomputable def dec_vrminuW (h : BitVec 16) (v : BitVec 32) : Except Reject Instr :=
  let d : SReg := h.extractLsb' 3 5
  let b : VReg := v.extractLsb' 27 5
  let mk : BitVec 4 := v.extractLsb' 12 4
  let t : BitVec 2 := v.extractLsb' 10 2
  checked (!rmPlain (v.extractLsb' 7 3) || (v.extractLsb' 5 2) == 3#2) ((v.extractLsb' 22 5) == 0#5 && (v.extractLsb' 17 5) == 0#5 && (v.extractLsb' 16 1) == 0#1 && mkOk mk && (v.extractLsb' 7 3) == 0#3 && (v.extractLsb' 5 2) == 0#2 && (v.extractLsb' 0 3) == 0#3 && !(mk.getLsbD 2)) (.vrminuW d b mk t)

noncomputable def dec_vrmaxuW (h : BitVec 16) (v : BitVec 32) : Except Reject Instr :=
  let d : SReg := h.extractLsb' 3 5
  let b : VReg := v.extractLsb' 27 5
  let mk : BitVec 4 := v.extractLsb' 12 4
  let t : BitVec 2 := v.extractLsb' 10 2
  checked (!rmPlain (v.extractLsb' 7 3) || (v.extractLsb' 5 2) == 3#2) ((v.extractLsb' 22 5) == 0#5 && (v.extractLsb' 17 5) == 0#5 && (v.extractLsb' 16 1) == 0#1 && mkOk mk && (v.extractLsb' 7 3) == 0#3 && (v.extractLsb' 5 2) == 0#2 && (v.extractLsb' 0 3) == 0#3 && !(mk.getLsbD 2)) (.vrmaxuW d b mk t)

noncomputable def dec_vrpopcW (h : BitVec 16) (v : BitVec 32) : Except Reject Instr :=
  let d : SReg := h.extractLsb' 3 5
  let b : VReg := v.extractLsb' 27 5
  let mk : BitVec 4 := v.extractLsb' 12 4
  let t : BitVec 2 := v.extractLsb' 10 2
  checked (!rmPlain (v.extractLsb' 7 3) || (v.extractLsb' 5 2) == 3#2) ((v.extractLsb' 22 5) == 0#5 && (v.extractLsb' 17 5) == 0#5 && (v.extractLsb' 16 1) == 0#1 && mkOk mk && (v.extractLsb' 7 3) == 0#3 && (v.extractLsb' 5 2) == 0#2 && (v.extractLsb' 0 3) == 0#3 && !(mk.getLsbD 2)) (.vrpopcW d b mk t)

noncomputable def dec_vrfsum (h : BitVec 16) (v : BitVec 32) : Except Reject Instr :=
  let d : SReg := h.extractLsb' 3 5
  let b : VReg := v.extractLsb' 27 5
  let mk : BitVec 4 := v.extractLsb' 12 4
  let t : BitVec 2 := v.extractLsb' 10 2
  let rm : BitVec 3 := v.extractLsb' 7 3
  checked (t == 3#2 || !rmPlain rm || (v.extractLsb' 5 2) == 3#2) ((v.extractLsb' 22 5) == 0#5 && (v.extractLsb' 17 5) == 0#5 && (v.extractLsb' 16 1) == 0#1 && mkOk mk && (v.extractLsb' 5 2) == 0#2 && (v.extractLsb' 0 3) == 0#3 && !(mk.getLsbD 2)) (.vrfsum d b mk t rm)

noncomputable def dec_vrfmin (h : BitVec 16) (v : BitVec 32) : Except Reject Instr :=
  let d : SReg := h.extractLsb' 3 5
  let b : VReg := v.extractLsb' 27 5
  let mk : BitVec 4 := v.extractLsb' 12 4
  let t : BitVec 2 := v.extractLsb' 10 2
  let rm : BitVec 3 := v.extractLsb' 7 3
  checked (t == 3#2 || !rmPlain rm || (v.extractLsb' 5 2) == 3#2) ((v.extractLsb' 22 5) == 0#5 && (v.extractLsb' 17 5) == 0#5 && (v.extractLsb' 16 1) == 0#1 && mkOk mk && (v.extractLsb' 5 2) == 0#2 && (v.extractLsb' 0 3) == 0#3 && !(mk.getLsbD 2)) (.vrfmin d b mk t rm)

noncomputable def dec_vrfmax (h : BitVec 16) (v : BitVec 32) : Except Reject Instr :=
  let d : SReg := h.extractLsb' 3 5
  let b : VReg := v.extractLsb' 27 5
  let mk : BitVec 4 := v.extractLsb' 12 4
  let t : BitVec 2 := v.extractLsb' 10 2
  let rm : BitVec 3 := v.extractLsb' 7 3
  checked (t == 3#2 || !rmPlain rm || (v.extractLsb' 5 2) == 3#2) ((v.extractLsb' 22 5) == 0#5 && (v.extractLsb' 17 5) == 0#5 && (v.extractLsb' 16 1) == 0#1 && mkOk mk && (v.extractLsb' 5 2) == 0#2 && (v.extractLsb' 0 3) == 0#3 && !(mk.getLsbD 2)) (.vrfmax d b mk t rm)

noncomputable def dec_vrfsumo (h : BitVec 16) (v : BitVec 32) : Except Reject Instr :=
  let d : SReg := h.extractLsb' 3 5
  let b : VReg := v.extractLsb' 27 5
  let c : SReg := v.extractLsb' 22 5
  let mk : BitVec 4 := v.extractLsb' 12 4
  let t : BitVec 2 := v.extractLsb' 10 2
  let rm : BitVec 3 := v.extractLsb' 7 3
  checked (t == 3#2 || !rmPlain rm || (v.extractLsb' 5 2) == 3#2) ((v.extractLsb' 17 5) == 0#5 && (v.extractLsb' 16 1) == 0#1 && mkOk mk && (v.extractLsb' 5 2) == 0#2 && (v.extractLsb' 0 3) == 0#3 && !(mk.getLsbD 2)) (.vrfsumo d b c mk t rm)

noncomputable def dec_vftoi (h : BitVec 16) (v : BitVec 16) : Except Reject Instr :=
  let d : VReg := h.extractLsb' 3 5
  let b : VReg := v.extractLsb' 11 5
  let mk : BitVec 4 := v.extractLsb' 2 4
  let sat : BitVec 1 := v.extractLsb' 0 1
  checked false ((v.extractLsb' 6 5) == 0#5 && mkOk mk && (v.extractLsb' 1 1) == 0#1) (.vftoi d b mk sat)

noncomputable def dec_vftoiu (h : BitVec 16) (v : BitVec 16) : Except Reject Instr :=
  let d : VReg := h.extractLsb' 3 5
  let b : VReg := v.extractLsb' 11 5
  let mk : BitVec 4 := v.extractLsb' 2 4
  let sat : BitVec 1 := v.extractLsb' 0 1
  checked false ((v.extractLsb' 6 5) == 0#5 && mkOk mk && (v.extractLsb' 1 1) == 0#1) (.vftoiu d b mk sat)

noncomputable def dec_vitof (h : BitVec 16) (v : BitVec 16) : Except Reject Instr :=
  let d : VReg := h.extractLsb' 3 5
  let b : VReg := v.extractLsb' 11 5
  let mk : BitVec 4 := v.extractLsb' 2 4
  checked false ((v.extractLsb' 6 5) == 0#5 && mkOk mk && (v.extractLsb' 1 1) == 0#1 && (v.extractLsb' 0 1) == 0#1) (.vitof d b mk)

noncomputable def dec_vutof (h : BitVec 16) (v : BitVec 16) : Except Reject Instr :=
  let d : VReg := h.extractLsb' 3 5
  let b : VReg := v.extractLsb' 11 5
  let mk : BitVec 4 := v.extractLsb' 2 4
  checked false ((v.extractLsb' 6 5) == 0#5 && mkOk mk && (v.extractLsb' 1 1) == 0#1 && (v.extractLsb' 0 1) == 0#1) (.vutof d b mk)

noncomputable def dec_vcvt (h : BitVec 16) (v : BitVec 32) : Except Reject Instr :=
  let d : VReg := h.extractLsb' 3 5
  let b : VReg := v.extractLsb' 27 5
  let p : BitVec 4 := v.extractLsb' 22 4
  let r : VReg := v.extractLsb' 17 5
  let mk : BitVec 4 := v.extractLsb' 12 4
  let fs : BitVec 4 := v.extractLsb' 8 4
  let fd : BitVec 4 := v.extractLsb' 4 4
  let rm : BitVec 3 := v.extractLsb' 1 3
  let sat : BitVec 1 := v.extractLsb' 0 1
  checked (vcvtIllegal p fs fd rm) ((v.extractLsb' 26 1) == 0#1 && (v.extractLsb' 16 1) == 0#1 && mkOk mk && !(rm != 4#3 && r != 0#5)) (.vcvt d b p r mk fs fd rm sat)

noncomputable def dec_vexp2 (h : BitVec 16) (v : BitVec 16) : Except Reject Instr :=
  let d : VReg := h.extractLsb' 3 5
  let b : VReg := v.extractLsb' 11 5
  let mk : BitVec 4 := v.extractLsb' 2 4
  let t : BitVec 2 := v.extractLsb' 0 2
  checked (t != 0#2) ((v.extractLsb' 6 5) == 0#5 && mkOk mk) (.vexp2 d b mk t)

noncomputable def dec_vlog2 (h : BitVec 16) (v : BitVec 16) : Except Reject Instr :=
  let d : VReg := h.extractLsb' 3 5
  let b : VReg := v.extractLsb' 11 5
  let mk : BitVec 4 := v.extractLsb' 2 4
  let t : BitVec 2 := v.extractLsb' 0 2
  checked (t != 0#2) ((v.extractLsb' 6 5) == 0#5 && mkOk mk) (.vlog2 d b mk t)

noncomputable def dec_vrcp (h : BitVec 16) (v : BitVec 16) : Except Reject Instr :=
  let d : VReg := h.extractLsb' 3 5
  let b : VReg := v.extractLsb' 11 5
  let mk : BitVec 4 := v.extractLsb' 2 4
  let t : BitVec 2 := v.extractLsb' 0 2
  checked (t != 0#2) ((v.extractLsb' 6 5) == 0#5 && mkOk mk) (.vrcp d b mk t)

noncomputable def dec_vrsqrt (h : BitVec 16) (v : BitVec 16) : Except Reject Instr :=
  let d : VReg := h.extractLsb' 3 5
  let b : VReg := v.extractLsb' 11 5
  let mk : BitVec 4 := v.extractLsb' 2 4
  let t : BitVec 2 := v.extractLsb' 0 2
  checked (t != 0#2) ((v.extractLsb' 6 5) == 0#5 && mkOk mk) (.vrsqrt d b mk t)

noncomputable def dec_vtanh (h : BitVec 16) (v : BitVec 16) : Except Reject Instr :=
  let d : VReg := h.extractLsb' 3 5
  let b : VReg := v.extractLsb' 11 5
  let mk : BitVec 4 := v.extractLsb' 2 4
  let t : BitVec 2 := v.extractLsb' 0 2
  checked (t != 0#2) ((v.extractLsb' 6 5) == 0#5 && mkOk mk) (.vtanh d b mk t)

noncomputable def dec_vsig (h : BitVec 16) (v : BitVec 16) : Except Reject Instr :=
  let d : VReg := h.extractLsb' 3 5
  let b : VReg := v.extractLsb' 11 5
  let mk : BitVec 4 := v.extractLsb' 2 4
  let t : BitVec 2 := v.extractLsb' 0 2
  checked (t != 0#2) ((v.extractLsb' 6 5) == 0#5 && mkOk mk) (.vsig d b mk t)

noncomputable def dec_vexp (h : BitVec 16) (v : BitVec 16) : Except Reject Instr :=
  let d : VReg := h.extractLsb' 3 5
  let b : VReg := v.extractLsb' 11 5
  let mk : BitVec 4 := v.extractLsb' 2 4
  let t : BitVec 2 := v.extractLsb' 0 2
  checked (t != 0#2) ((v.extractLsb' 6 5) == 0#5 && mkOk mk) (.vexp d b mk t)

noncomputable def dec_vexp2W (h : BitVec 16) (v : BitVec 32) : Except Reject Instr :=
  let d : VReg := h.extractLsb' 3 5
  let b : VReg := v.extractLsb' 27 5
  let mk : BitVec 4 := v.extractLsb' 12 4
  let t : BitVec 2 := v.extractLsb' 10 2
  let rm : BitVec 3 := v.extractLsb' 7 3
  checked (t != 0#2 || !rmPlain rm || (v.extractLsb' 5 2) == 3#2) ((v.extractLsb' 22 5) == 0#5 && (v.extractLsb' 17 5) == 0#5 && (v.extractLsb' 16 1) == 0#1 && mkOk mk && (v.extractLsb' 5 2) == 0#2 && (v.extractLsb' 0 3) == 0#3) (.vexp2W d b mk t rm)

noncomputable def dec_vlog2W (h : BitVec 16) (v : BitVec 32) : Except Reject Instr :=
  let d : VReg := h.extractLsb' 3 5
  let b : VReg := v.extractLsb' 27 5
  let mk : BitVec 4 := v.extractLsb' 12 4
  let t : BitVec 2 := v.extractLsb' 10 2
  let rm : BitVec 3 := v.extractLsb' 7 3
  checked (t != 0#2 || !rmPlain rm || (v.extractLsb' 5 2) == 3#2) ((v.extractLsb' 22 5) == 0#5 && (v.extractLsb' 17 5) == 0#5 && (v.extractLsb' 16 1) == 0#1 && mkOk mk && (v.extractLsb' 5 2) == 0#2 && (v.extractLsb' 0 3) == 0#3) (.vlog2W d b mk t rm)

noncomputable def dec_vrcpW (h : BitVec 16) (v : BitVec 32) : Except Reject Instr :=
  let d : VReg := h.extractLsb' 3 5
  let b : VReg := v.extractLsb' 27 5
  let mk : BitVec 4 := v.extractLsb' 12 4
  let t : BitVec 2 := v.extractLsb' 10 2
  let rm : BitVec 3 := v.extractLsb' 7 3
  checked (t != 0#2 || !rmPlain rm || (v.extractLsb' 5 2) == 3#2) ((v.extractLsb' 22 5) == 0#5 && (v.extractLsb' 17 5) == 0#5 && (v.extractLsb' 16 1) == 0#1 && mkOk mk && (v.extractLsb' 5 2) == 0#2 && (v.extractLsb' 0 3) == 0#3) (.vrcpW d b mk t rm)

noncomputable def dec_vrsqrtW (h : BitVec 16) (v : BitVec 32) : Except Reject Instr :=
  let d : VReg := h.extractLsb' 3 5
  let b : VReg := v.extractLsb' 27 5
  let mk : BitVec 4 := v.extractLsb' 12 4
  let t : BitVec 2 := v.extractLsb' 10 2
  let rm : BitVec 3 := v.extractLsb' 7 3
  checked (t != 0#2 || !rmPlain rm || (v.extractLsb' 5 2) == 3#2) ((v.extractLsb' 22 5) == 0#5 && (v.extractLsb' 17 5) == 0#5 && (v.extractLsb' 16 1) == 0#1 && mkOk mk && (v.extractLsb' 5 2) == 0#2 && (v.extractLsb' 0 3) == 0#3) (.vrsqrtW d b mk t rm)

noncomputable def dec_vtanhW (h : BitVec 16) (v : BitVec 32) : Except Reject Instr :=
  let d : VReg := h.extractLsb' 3 5
  let b : VReg := v.extractLsb' 27 5
  let mk : BitVec 4 := v.extractLsb' 12 4
  let t : BitVec 2 := v.extractLsb' 10 2
  let rm : BitVec 3 := v.extractLsb' 7 3
  checked (t != 0#2 || rm != 7#3 || (v.extractLsb' 5 2) == 3#2) ((v.extractLsb' 22 5) == 0#5 && (v.extractLsb' 17 5) == 0#5 && (v.extractLsb' 16 1) == 0#1 && mkOk mk && (v.extractLsb' 5 2) == 0#2 && (v.extractLsb' 0 3) == 0#3) (.vtanhW d b mk t rm)

noncomputable def dec_vsigW (h : BitVec 16) (v : BitVec 32) : Except Reject Instr :=
  let d : VReg := h.extractLsb' 3 5
  let b : VReg := v.extractLsb' 27 5
  let mk : BitVec 4 := v.extractLsb' 12 4
  let t : BitVec 2 := v.extractLsb' 10 2
  let rm : BitVec 3 := v.extractLsb' 7 3
  checked (t != 0#2 || rm != 7#3 || (v.extractLsb' 5 2) == 3#2) ((v.extractLsb' 22 5) == 0#5 && (v.extractLsb' 17 5) == 0#5 && (v.extractLsb' 16 1) == 0#1 && mkOk mk && (v.extractLsb' 5 2) == 0#2 && (v.extractLsb' 0 3) == 0#3) (.vsigW d b mk t rm)

noncomputable def dec_vexpW (h : BitVec 16) (v : BitVec 32) : Except Reject Instr :=
  let d : VReg := h.extractLsb' 3 5
  let b : VReg := v.extractLsb' 27 5
  let mk : BitVec 4 := v.extractLsb' 12 4
  let t : BitVec 2 := v.extractLsb' 10 2
  let rm : BitVec 3 := v.extractLsb' 7 3
  checked (t != 0#2 || rm != 7#3 || (v.extractLsb' 5 2) == 3#2) ((v.extractLsb' 22 5) == 0#5 && (v.extractLsb' 17 5) == 0#5 && (v.extractLsb' 16 1) == 0#1 && mkOk mk && (v.extractLsb' 5 2) == 0#2 && (v.extractLsb' 0 3) == 0#3) (.vexpW d b mk t rm)

noncomputable def dec_modeM (h : BitVec 16) : Except Reject Instr :=
  checked false ((h.extractLsb' 3 5) == 0#5) (.modeM)

noncomputable def dec_modeV (h : BitVec 16) : Except Reject Instr :=
  checked false ((h.extractLsb' 3 5) == 0#5) (.modeV)

noncomputable def dec_mzero (h : BitVec 16) : Except Reject Instr :=
  checked false ((h.extractLsb' 3 5) == 0#5) (.mzero)

noncomputable def dec_mrnsoutRes30 (h : BitVec 16) : Except Reject Instr :=
  let n : BitVec 5 := h.extractLsb' 3 5
  checked false (true) (.mrnsoutRes30 n)

noncomputable def dec_mrnsoutRes15 (h : BitVec 16) : Except Reject Instr :=
  let n : BitVec 5 := h.extractLsb' 3 5
  checked false (true) (.mrnsoutRes15 n)

noncomputable def dec_mma (h : BitVec 16) (v : BitVec 16) : Except Reject Instr :=
  let k : SReg := h.extractLsb' 3 5
  let b : SReg := v.extractLsb' 11 5
  let c : SReg := v.extractLsb' 6 5
  let za : BitVec 1 := v.extractLsb' 0 1
  checked false ((v.extractLsb' 1 5) == 0#5) (.mma k b c za)

noncomputable def dec_mmas (h : BitVec 16) (v : BitVec 16) : Except Reject Instr :=
  let k : SReg := h.extractLsb' 3 5
  let b : SReg := v.extractLsb' 11 5
  let c : SReg := v.extractLsb' 6 5
  let za : BitVec 1 := v.extractLsb' 0 1
  checked false ((v.extractLsb' 1 5) == 0#5) (.mmas k b c za)

noncomputable def dec_mmaW (h : BitVec 16) (v : BitVec 32) : Except Reject Instr :=
  let k : SReg := h.extractLsb' 3 5
  let b : SReg := v.extractLsb' 27 5
  let c : SReg := v.extractLsb' 22 5
  let za : BitVec 1 := v.extractLsb' 16 1
  let fa : BitVec 4 := v.extractLsb' 12 4
  let fb : BitVec 4 := v.extractLsb' 8 4
  checked false ((v.extractLsb' 17 5) == 0#5 && (v.extractLsb' 0 8) == 0#8) (.mmaW k b c za fa fb)

noncomputable def dec_mmasW (h : BitVec 16) (v : BitVec 32) : Except Reject Instr :=
  let k : SReg := h.extractLsb' 3 5
  let b : SReg := v.extractLsb' 27 5
  let c : SReg := v.extractLsb' 22 5
  let za : BitVec 1 := v.extractLsb' 16 1
  let fa : BitVec 4 := v.extractLsb' 12 4
  let fb : BitVec 4 := v.extractLsb' 8 4
  checked false ((v.extractLsb' 17 5) == 0#5 && (v.extractLsb' 0 8) == 0#8) (.mmasW k b c za fa fb)

noncomputable def dec_sclfeed (h : BitVec 16) (v : BitVec 16) : Except Reject Instr :=
  let b : SReg := v.extractLsb' 11 5
  let c : SReg := v.extractLsb' 6 5
  checked false ((h.extractLsb' 3 5) == 0#5 && (v.extractLsb' 0 6) == 0#6) (.sclfeed b c)

noncomputable def dec_mplane (h : BitVec 16) (v : BitVec 16) : Except Reject Instr :=
  let a : SReg := h.extractLsb' 3 5
  let b : SReg := v.extractLsb' 11 5
  let c : SReg := v.extractLsb' 6 5
  let sh : BitVec 1 := v.extractLsb' 0 1
  checked false ((v.extractLsb' 1 5) == 0#5) (.mplane a b c sh)

noncomputable def dec_munpl (h : BitVec 16) (v : BitVec 16) : Except Reject Instr :=
  let a : SReg := h.extractLsb' 3 5
  let b : SReg := v.extractLsb' 11 5
  let c : SReg := v.extractLsb' 6 5
  let sh : BitVec 1 := v.extractLsb' 0 1
  checked false ((v.extractLsb' 1 5) == 0#5) (.munpl a b c sh)

noncomputable def dec_mrnsin (h : BitVec 16) (v : BitVec 16) : Except Reject Instr :=
  let a : SReg := h.extractLsb' 3 5
  let b : SReg := v.extractLsb' 11 5
  let dst : BitVec 1 := v.extractLsb' 5 1
  let fs : BitVec 4 := v.extractLsb' 0 4
  checked (!fmtInt fs) ((v.extractLsb' 6 5) == 0#5 && (v.extractLsb' 4 1) == 0#1) (.mrnsin a b dst fs)

noncomputable def dec_mplaneW (h : BitVec 16) (v : BitVec 32) : Except Reject Instr :=
  let a : SReg := h.extractLsb' 3 5
  let b : SReg := v.extractLsb' 27 5
  let c : SReg := v.extractLsb' 22 5
  let n : SReg := v.extractLsb' 17 5
  let fmt : BitVec 4 := v.extractLsb' 0 4
  checked false ((v.extractLsb' 16 1) == 0#1 && (v.extractLsb' 4 12) == 0#12) (.mplaneW a b c n fmt)

noncomputable def dec_munplW (h : BitVec 16) (v : BitVec 32) : Except Reject Instr :=
  let a : SReg := h.extractLsb' 3 5
  let b : SReg := v.extractLsb' 27 5
  let c : SReg := v.extractLsb' 22 5
  let n : SReg := v.extractLsb' 17 5
  let fmt : BitVec 4 := v.extractLsb' 0 4
  checked false ((v.extractLsb' 16 1) == 0#1 && (v.extractLsb' 4 12) == 0#12) (.munplW a b c n fmt)

noncomputable def dec_mrnsinW (h : BitVec 16) (v : BitVec 32) : Except Reject Instr :=
  let a : SReg := h.extractLsb' 3 5
  let b : SReg := v.extractLsb' 27 5
  let n : SReg := v.extractLsb' 17 5
  let dst : BitVec 1 := v.extractLsb' 4 1
  let fs : BitVec 4 := v.extractLsb' 0 4
  checked (!fmtInt fs) ((v.extractLsb' 22 5) == 0#5 && (v.extractLsb' 16 1) == 0#1 && (v.extractLsb' 5 11) == 0#11) (.mrnsinW a b n dst fs)

noncomputable def dec_dld (h : BitVec 16) (v : BitVec 16) : Except Reject Instr :=
  let d : DReg := h.extractLsb' 3 3
  let b : SReg := v.extractLsb' 11 5
  checked false ((h.extractLsb' 6 2) == 0#2 && (v.extractLsb' 6 5) == 0#5 && (v.extractLsb' 0 6) == 0#6) (.dld d b)

noncomputable def dec_dsv (h : BitVec 16) (v : BitVec 16) : Except Reject Instr :=
  let d : DReg := h.extractLsb' 3 3
  let b : SReg := v.extractLsb' 11 5
  checked false ((h.extractLsb' 6 2) == 0#2 && (v.extractLsb' 6 5) == 0#5 && (v.extractLsb' 0 6) == 0#6) (.dsv d b)

noncomputable def dec_dput (h : BitVec 16) (v : BitVec 16) : Except Reject Instr :=
  let d : DReg := h.extractLsb' 3 3
  let c : SReg := v.extractLsb' 6 5
  let w : BitVec 2 := v.extractLsb' 0 2
  checked false ((h.extractLsb' 6 2) == 0#2 && (v.extractLsb' 11 5) == 0#5 && (v.extractLsb' 2 4) == 0#4) (.dput d c w)

noncomputable def dec_dget (h : BitVec 16) (v : BitVec 16) : Except Reject Instr :=
  let d : SReg := h.extractLsb' 3 5
  let b : DReg := v.extractLsb' 11 3
  let w : BitVec 2 := v.extractLsb' 0 2
  checked false ((v.extractLsb' 14 2) == 0#2 && (v.extractLsb' 6 5) == 0#5 && (v.extractLsb' 2 4) == 0#4) (.dget d b w)

noncomputable def dec_dins (h : BitVec 16) (v : BitVec 32) : Except Reject Instr :=
  let d : DReg := h.extractLsb' 3 3
  let c : SReg := v.extractLsb' 22 5
  let w : BitVec 2 := v.extractLsb' 14 2
  let pos : BitVec 6 := v.extractLsb' 8 6
  let lenM1 : BitVec 6 := v.extractLsb' 2 6
  checked (decide (64 < pos.toNat + lenM1.toNat + 1)) ((h.extractLsb' 6 2) == 0#2 && (v.extractLsb' 27 5) == 0#5 && (v.extractLsb' 17 5) == 0#5 && (v.extractLsb' 16 1) == 0#1 && (v.extractLsb' 0 2) == 0#2) (.dins d c w pos lenM1)

noncomputable def dec_dinit (h : BitVec 16) (v : BitVec 48) : Except Reject Instr :=
  let d : DReg := h.extractLsb' 3 3
  let b : SReg := v.extractLsb' 43 5
  let c : SReg := v.extractLsb' 38 5
  let tr : BitVec 1 := v.extractLsb' 32 1
  let ro : BitVec 16 := v.extractLsb' 16 16
  let co : BitVec 16 := v.extractLsb' 0 16
  checked false ((h.extractLsb' 6 2) == 0#2 && (v.extractLsb' 33 5) == 0#5) (.dinit d b c tr ro co)

noncomputable def dec_tmul (h : BitVec 16) (v : BitVec 32) : Except Reject Instr :=
  let d : DReg := h.extractLsb' 3 3
  let b : DReg := v.extractLsb' 27 3
  let c : DReg := v.extractLsb' 22 3
  let acc : BitVec 1 := v.extractLsb' 16 1
  let kM1 : BitVec 11 := v.extractLsb' 0 11
  checked (kM1 == 2047#11) ((h.extractLsb' 6 2) == 0#2 && (v.extractLsb' 30 2) == 0#2 && (v.extractLsb' 25 2) == 0#2 && (v.extractLsb' 17 5) == 0#5 && (v.extractLsb' 11 5) == 0#5) (.tmul d b c acc kM1)

noncomputable def dec_tadd (h : BitVec 16) (v : BitVec 16) : Except Reject Instr :=
  let d : DReg := h.extractLsb' 3 3
  let b : DReg := v.extractLsb' 11 3
  let c : DReg := v.extractLsb' 6 3
  checked false ((h.extractLsb' 6 2) == 0#2 && (v.extractLsb' 14 2) == 0#2 && (v.extractLsb' 9 2) == 0#2 && (v.extractLsb' 0 6) == 0#6) (.tadd d b c)

noncomputable def dec_tsub (h : BitVec 16) (v : BitVec 16) : Except Reject Instr :=
  let d : DReg := h.extractLsb' 3 3
  let b : DReg := v.extractLsb' 11 3
  let c : DReg := v.extractLsb' 6 3
  checked false ((h.extractLsb' 6 2) == 0#2 && (v.extractLsb' 14 2) == 0#2 && (v.extractLsb' 9 2) == 0#2 && (v.extractLsb' 0 6) == 0#6) (.tsub d b c)

noncomputable def dec_tmax (h : BitVec 16) (v : BitVec 16) : Except Reject Instr :=
  let d : DReg := h.extractLsb' 3 3
  let b : DReg := v.extractLsb' 11 3
  let c : DReg := v.extractLsb' 6 3
  checked false ((h.extractLsb' 6 2) == 0#2 && (v.extractLsb' 14 2) == 0#2 && (v.extractLsb' 9 2) == 0#2 && (v.extractLsb' 0 6) == 0#6) (.tmax d b c)

noncomputable def dec_tcvt (h : BitVec 16) (v : BitVec 16) : Except Reject Instr :=
  let d : DReg := h.extractLsb' 3 3
  let b : DReg := v.extractLsb' 11 3
  let sat : BitVec 1 := v.extractLsb' 3 1
  let rm : BitVec 3 := v.extractLsb' 0 3
  checked (!rmPlain rm) ((h.extractLsb' 6 2) == 0#2 && (v.extractLsb' 14 2) == 0#2 && (v.extractLsb' 6 5) == 0#5 && (v.extractLsb' 4 2) == 0#2) (.tcvt d b sat rm)

noncomputable def dec_tred (h : BitVec 16) (v : BitVec 16) : Except Reject Instr :=
  let d : DReg := h.extractLsb' 3 3
  let b : DReg := v.extractLsb' 11 3
  let op : BitVec 1 := v.extractLsb' 0 1
  checked false ((h.extractLsb' 6 2) == 0#2 && (v.extractLsb' 14 2) == 0#2 && (v.extractLsb' 6 5) == 0#5 && (v.extractLsb' 2 4) == 0#4 && (v.extractLsb' 1 1) == 0#1) (.tred d b op)

noncomputable def dec_taddW (h : BitVec 16) (v : BitVec 32) : Except Reject Instr :=
  let d : DReg := h.extractLsb' 3 3
  let b : DReg := v.extractLsb' 27 3
  let c : DReg := v.extractLsb' 22 3
  let rm : BitVec 3 := v.extractLsb' 0 3
  checked (!rmPlain rm) ((h.extractLsb' 6 2) == 0#2 && (v.extractLsb' 30 2) == 0#2 && (v.extractLsb' 25 2) == 0#2 && (v.extractLsb' 17 5) == 0#5 && (v.extractLsb' 16 1) == 0#1 && (v.extractLsb' 3 13) == 0#13) (.taddW d b c rm)

noncomputable def dec_tsubW (h : BitVec 16) (v : BitVec 32) : Except Reject Instr :=
  let d : DReg := h.extractLsb' 3 3
  let b : DReg := v.extractLsb' 27 3
  let c : DReg := v.extractLsb' 22 3
  let rm : BitVec 3 := v.extractLsb' 0 3
  checked (!rmPlain rm) ((h.extractLsb' 6 2) == 0#2 && (v.extractLsb' 30 2) == 0#2 && (v.extractLsb' 25 2) == 0#2 && (v.extractLsb' 17 5) == 0#5 && (v.extractLsb' 16 1) == 0#1 && (v.extractLsb' 3 13) == 0#13) (.tsubW d b c rm)

noncomputable def dec_tmaxW (h : BitVec 16) (v : BitVec 32) : Except Reject Instr :=
  let d : DReg := h.extractLsb' 3 3
  let b : DReg := v.extractLsb' 27 3
  let c : DReg := v.extractLsb' 22 3
  let rm : BitVec 3 := v.extractLsb' 0 3
  checked (!rmPlain rm) ((h.extractLsb' 6 2) == 0#2 && (v.extractLsb' 30 2) == 0#2 && (v.extractLsb' 25 2) == 0#2 && (v.extractLsb' 17 5) == 0#5 && (v.extractLsb' 16 1) == 0#1 && (v.extractLsb' 3 13) == 0#13 && !(rm != 0#3)) (.tmaxW d b c rm)

noncomputable def dec_tmap (h : BitVec 16) (v : BitVec 32) : Except Reject Instr :=
  let d : DReg := h.extractLsb' 3 3
  let b : DReg := v.extractLsb' 27 3
  let c : SReg := v.extractLsb' 22 5
  let e : SReg := v.extractLsb' 17 5
  let fn : BitVec 2 := v.extractLsb' 3 2
  let rm : BitVec 3 := v.extractLsb' 0 3
  checked (fn == 3#2 || !rmPlain rm) ((h.extractLsb' 6 2) == 0#2 && (v.extractLsb' 30 2) == 0#2 && (v.extractLsb' 16 1) == 0#1 && (v.extractLsb' 5 11) == 0#11) (.tmap d b c e fn rm)

noncomputable def dec_force (h : BitVec 16) : Except Reject Instr :=
  checked false ((h.extractLsb' 3 5) == 0#5) (.force)

noncomputable def dec_forceM (h : BitVec 16) (v : BitVec 16) : Except Reject Instr :=
  let b : DReg := v.extractLsb' 11 3
  checked false ((h.extractLsb' 3 5) == 0#5 && (v.extractLsb' 14 2) == 0#2 && (v.extractLsb' 6 5) == 0#5 && (v.extractLsb' 0 6) == 0#6) (.forceM b)

noncomputable def dec_forceW (h : BitVec 16) (v : BitVec 32) : Except Reject Instr :=
  let b : DReg := v.extractLsb' 27 3
  let rb : BitVec 8 := v.extractLsb' 8 8
  let nbM1 : BitVec 8 := v.extractLsb' 0 8
  checked false ((h.extractLsb' 3 5) == 0#5 && (v.extractLsb' 30 2) == 0#2 && (v.extractLsb' 22 5) == 0#5 && (v.extractLsb' 17 5) == 0#5 && (v.extractLsb' 16 1) == 0#1) (.forceW b rb nbM1)

noncomputable def dec_tdrop (h : BitVec 16) : Except Reject Instr :=
  checked false ((h.extractLsb' 3 5) == 0#5) (.tdrop)

noncomputable def dec_tdropM (h : BitVec 16) (v : BitVec 16) : Except Reject Instr :=
  let n : BitVec 3 := v.extractLsb' 0 3
  checked false ((h.extractLsb' 3 5) == 0#5 && (v.extractLsb' 11 5) == 0#5 && (v.extractLsb' 6 5) == 0#5 && (v.extractLsb' 3 3) == 0#3) (.tdropM n)

noncomputable def dec_tqry (h : BitVec 16) (v : BitVec 16) : Except Reject Instr :=
  let d : SReg := h.extractLsb' 3 5
  let n : BitVec 3 := v.extractLsb' 0 3
  checked false ((v.extractLsb' 11 5) == 0#5 && (v.extractLsb' 6 5) == 0#5 && (v.extractLsb' 3 3) == 0#3) (.tqry d n)

noncomputable def dec_tst (h : BitVec 16) (v : BitVec 16) : Except Reject Instr :=
  let d : DReg := h.extractLsb' 3 3
  let b : DReg := v.extractLsb' 11 3
  checked false ((h.extractLsb' 6 2) == 0#2 && (v.extractLsb' 14 2) == 0#2 && (v.extractLsb' 6 5) == 0#5 && (v.extractLsb' 0 6) == 0#6) (.tst d b)

noncomputable def dec_cp (h : BitVec 16) (v : BitVec 16) : Except Reject Instr :=
  let t : SReg := h.extractLsb' 3 5
  let b : SReg := v.extractLsb' 11 5
  let c : SReg := v.extractLsb' 6 5
  let rs : BitVec 1 := v.extractLsb' 0 1
  checked false ((v.extractLsb' 1 5) == 0#5) (.cp t b c rs)

noncomputable def dec_cps (h : BitVec 16) (v : BitVec 32) : Except Reject Instr :=
  let t : SReg := h.extractLsb' 3 5
  let b : SReg := v.extractLsb' 27 5
  let c : SReg := v.extractLsb' 22 5
  let g : SReg := v.extractLsb' 17 5
  let rs : BitVec 1 := v.extractLsb' 16 1
  let dec : BitVec 16 := v.extractLsb' 0 16
  checked (dec == 0#16) (true) (.cps t b c g rs dec)

noncomputable def dec_draw (h : BitVec 16) : Except Reject Instr :=
  let d : SReg := h.extractLsb' 3 5
  checked false (true) (.draw d)

noncomputable def dec_drawV (h : BitVec 16) : Except Reject Instr :=
  let d : VReg := h.extractLsb' 3 5
  checked false (true) (.drawV d)

noncomputable def dec_rngkey (h : BitVec 16) (v : BitVec 16) : Except Reject Instr :=
  let k : SReg := h.extractLsb' 3 5
  let b : SReg := v.extractLsb' 11 5
  let c : SReg := v.extractLsb' 6 5
  checked false ((v.extractLsb' 0 6) == 0#6) (.rngkey k b c)

noncomputable def dec_rngadv (h : BitVec 16) (v : BitVec 16) : Except Reject Instr :=
  let b : SReg := v.extractLsb' 11 5
  let c : SReg := v.extractLsb' 6 5
  checked false ((h.extractLsb' 3 5) == 0#5 && (v.extractLsb' 0 6) == 0#6) (.rngadv b c)

noncomputable def dec_stamp (h : BitVec 16) : Except Reject Instr :=
  let k : BitVec 2 := h.extractLsb' 3 2
  checked false ((h.extractLsb' 5 3) == 0#3) (.stamp k)

noncomputable def dec_stampClose (h : BitVec 16) : Except Reject Instr :=
  checked false ((h.extractLsb' 3 5) == 0#5) (.stampClose)

noncomputable def dec_stampOpen (h : BitVec 16) (v : BitVec 16) : Except Reject Instr :=
  let b : SReg := v.extractLsb' 11 5
  checked false ((h.extractLsb' 3 5) == 0#5 && (v.extractLsb' 6 5) == 0#5 && (v.extractLsb' 0 6) == 0#6) (.stampOpen b)

noncomputable def dec_trmark (h : BitVec 16) (v : BitVec 16) : Except Reject Instr :=
  let b : SReg := v.extractLsb' 11 5
  let code : BitVec 6 := v.extractLsb' 0 6
  checked false ((h.extractLsb' 3 5) == 0#5 && (v.extractLsb' 6 5) == 0#5) (.trmark b code)

noncomputable def dec_epreg (h : BitVec 16) (v : BitVec 16) : Except Reject Instr :=
  let d : SReg := h.extractLsb' 3 5
  let b : SReg := v.extractLsb' 11 5
  checked false ((v.extractLsb' 6 5) == 0#5 && (v.extractLsb' 0 6) == 0#6) (.epreg d b)

noncomputable def dec_rpost (h : BitVec 16) (v : BitVec 32) : Except Reject Instr :=
  let k : SReg := v.extractLsb' 27 5
  let hd : SReg := v.extractLsb' 22 5
  let r : VReg := v.extractLsb' 17 5
  checked false ((h.extractLsb' 3 5) == 0#5 && (v.extractLsb' 16 1) == 0#1 && (v.extractLsb' 0 16) == 0#16) (.rpost k hd r)

noncomputable def dec_rlver (h : BitVec 16) (v : BitVec 16) : Except Reject Instr :=
  let d : SReg := h.extractLsb' 3 5
  let b : SReg := v.extractLsb' 11 5
  let c : SReg := v.extractLsb' 6 5
  let g : BitVec 4 := v.extractLsb' 0 4
  checked false ((v.extractLsb' 4 2) == 0#2) (.rlver d b c g)

noncomputable def dec_rjqry (h : BitVec 16) (v : BitVec 16) : Except Reject Instr :=
  let d : SReg := h.extractLsb' 3 5
  let b : SReg := v.extractLsb' 11 5
  let g : BitVec 4 := v.extractLsb' 0 4
  checked false ((v.extractLsb' 6 5) == 0#5 && (v.extractLsb' 4 2) == 0#2) (.rjqry d b g)

noncomputable def dec_tcinv (h : BitVec 16) : Except Reject Instr :=
  let sc : BitVec 3 := h.extractLsb' 3 3
  checked (!scopeTc sc) ((h.extractLsb' 6 2) == 0#2) (.tcinv sc)

noncomputable def dec_tcinvM (h : BitVec 16) (v : BitVec 16) : Except Reject Instr :=
  let b : SReg := v.extractLsb' 11 5
  let c : SReg := v.extractLsb' 6 5
  let sc : BitVec 3 := v.extractLsb' 0 3
  checked (!scopeTc sc) ((h.extractLsb' 3 5) == 0#5 && (v.extractLsb' 3 3) == 0#3) (.tcinvM b c sc)

noncomputable def dec_sleep (h : BitVec 16) (v : BitVec 16) : Except Reject Instr :=
  let b : SReg := v.extractLsb' 11 5
  checked false ((h.extractLsb' 3 5) == 0#5 && (v.extractLsb' 6 5) == 0#5 && (v.extractLsb' 0 6) == 0#6) (.sleep b)

/-- Minor map of major 0x00. -/
def decMajor00 (h : BitVec 16) : Tail → Except Reject Instr
  | .none => .error .undefinedTail
  | .one v =>
    match (h.extractLsb' 0 3).toNat with
    | 0 => dec_add h v
    | 1 => dec_sub h v
    | 2 => dec_andR h v
    | 3 => dec_orR h v
    | 4 => dec_xorR h v
    | 5 => dec_sll h v
    | 6 => dec_srl h v
    | 7 => dec_sra h v
    | _ => .error .reservedMinor
  | .two _ => .error .undefinedTail
  | .three _ => .error .undefinedTail

/-- Minor map of major 0x01. -/
def decMajor01 (h : BitVec 16) : Tail → Except Reject Instr
  | .none => .error .undefinedTail
  | .one v =>
    match (h.extractLsb' 0 3).toNat with
    | 0 => dec_addI h v
    | 1 => dec_rsubI h v
    | 2 => dec_andI h v
    | 3 => dec_orI h v
    | 4 => dec_xorI h v
    | 5 => dec_sllI h v
    | 6 => dec_srlI h v
    | 7 => dec_sraI h v
    | _ => .error .reservedMinor
  | .two v =>
    match (h.extractLsb' 0 3).toNat with
    | 0 => dec_addW h v
    | 1 => dec_rsubW h v
    | 2 => dec_andW h v
    | 3 => dec_orW h v
    | 4 => dec_xorW h v
    | 5 => dec_sllW h v
    | 6 => dec_srlW h v
    | 7 => dec_sraW h v
    | _ => .error .reservedMinor
  | .three _ => .error .undefinedTail

/-- Minor map of major 0x02. -/
def decMajor02 (h : BitVec 16) : Tail → Except Reject Instr
  | .none => .error .undefinedTail
  | .one v =>
    match (h.extractLsb' 0 3).toNat with
    | 0 => dec_seq h v
    | 1 => dec_sne h v
    | 2 => dec_slt h v
    | 3 => dec_sltu h v
    | 4 => dec_sle h v
    | 5 => dec_sleu h v
    | 6 =>
      if (v.extractLsb' 0 1) == 0#1 then dec_minS h v
      else if (v.extractLsb' 0 1) == 1#1 then dec_minU h v
      else .error .reservedMinor
    | 7 =>
      if (v.extractLsb' 0 1) == 0#1 then dec_maxS h v
      else if (v.extractLsb' 0 1) == 1#1 then dec_maxU h v
      else .error .reservedMinor
    | _ => .error .reservedMinor
  | .two v =>
    match (h.extractLsb' 0 3).toNat with
    | 0 => dec_seqW h v
    | 1 => dec_sneW h v
    | 2 => dec_sltW h v
    | 3 => dec_sltuW h v
    | 4 => dec_sleW h v
    | 5 => dec_sleuW h v
    | 6 =>
      if (v.extractLsb' 16 1) == 0#1 then dec_minW h v
      else if (v.extractLsb' 16 1) == 1#1 then dec_minuW h v
      else .error .reservedMinor
    | 7 =>
      if (v.extractLsb' 16 1) == 0#1 then dec_maxW h v
      else if (v.extractLsb' 16 1) == 1#1 then dec_maxuW h v
      else .error .reservedMinor
    | _ => .error .reservedMinor
  | .three _ => .error .undefinedTail

/-- Minor map of major 0x03. -/
def decMajor03 (h : BitVec 16) : Tail → Except Reject Instr
  | .none => .error .undefinedTail
  | .one v =>
    match (h.extractLsb' 0 3).toNat with
    | 0 => dec_mul h v
    | 1 => dec_mulh h v
    | 2 => dec_mulhu h v
    | 3 => dec_mulhsu h v
    | 4 => dec_div h v
    | 5 => dec_divu h v
    | 6 => dec_rem h v
    | 7 => dec_remu h v
    | _ => .error .reservedMinor
  | .two _ => .error .undefinedTail
  | .three _ => .error .undefinedTail

/-- Minor map of major 0x04. -/
def decMajor04 (h : BitVec 16) : Tail → Except Reject Instr
  | .none => .error .undefinedTail
  | .one v =>
    match (h.extractLsb' 0 3).toNat with
    | 0 => dec_clz h v
    | 1 => dec_ctz h v
    | 2 => dec_popc h v
    | 3 => dec_brev h v
    | 4 => dec_bswap h v
    | 5 => dec_rol h v
    | 6 => dec_ror h v
    | _ => .error .reservedMinor
  | .two v =>
    match (h.extractLsb' 0 3).toNat with
    | 0 => dec_ext h v
    | 1 => dec_extu h v
    | 2 => dec_ins h v
    | _ => .error .reservedMinor
  | .three _ => .error .undefinedTail

/-- Minor map of major 0x05. -/
def decMajor05 (h : BitVec 16) : Tail → Except Reject Instr
  | .none => .error .undefinedTail
  | .one v =>
    match (h.extractLsb' 0 3).toNat with
    | 0 => dec_li h v
    | 1 => dec_liZ h v
    | _ => .error .reservedMinor
  | .two v =>
    match (h.extractLsb' 0 3).toNat with
    | 0 => dec_liW h v
    | 1 => dec_liZW h v
    | 2 => dec_lih h v
    | _ => .error .reservedMinor
  | .three v =>
    match (h.extractLsb' 0 3).toNat with
    | 0 => dec_liX0 h v
    | 1 => dec_liZX0 h v
    | _ => .error .reservedMinor

/-- Minor map of major 0x06. -/
def decMajor06 (h : BitVec 16) : Tail → Except Reject Instr
  | .none => .error .undefinedTail
  | .one v =>
    match (h.extractLsb' 0 3).toNat with
    | 0 => dec_lea h v
    | _ => .error .reservedMinor
  | .two v =>
    match (h.extractLsb' 0 3).toNat with
    | 0 => dec_leaW h v
    | _ => .error .reservedMinor
  | .three v =>
    match (h.extractLsb' 0 3).toNat with
    | 0 => dec_leaX1 h v
    | 1 => dec_leaX1 h v
    | 2 => dec_leaX1 h v
    | 3 => dec_leaX1 h v
    | _ => .error .reservedMinor

/-- Minor map of major 0x07. -/
def decMajor07 (h : BitVec 16) : Tail → Except Reject Instr
  | .none => .error .undefinedTail
  | .one v =>
    match (h.extractLsb' 0 3).toNat with
    | 0 => dec_mov h v
    | 1 => dec_sel h v
    | _ => .error .reservedMinor
  | .two _ => .error .undefinedTail
  | .three _ => .error .undefinedTail

/-- Minor map of major 0x08. -/
def decMajor08 (h : BitVec 16) : Tail → Except Reject Instr
  | .none => .error .undefinedTail
  | .one _ => .error .undefinedTail
  | .two v =>
    match (h.extractLsb' 0 3).toNat with
    | 0 => dec_beqz h v
    | 1 => dec_bnez h v
    | 2 => dec_bltz h v
    | 3 => dec_bgez h v
    | 4 => dec_bgtz h v
    | 5 => dec_blez h v
    | _ => .error .reservedMinor
  | .three _ => .error .undefinedTail

/-- Minor map of major 0x09. -/
def decMajor09 (h : BitVec 16) : Tail → Except Reject Instr
  | .none => .error .undefinedTail
  | .one _ => .error .undefinedTail
  | .two _ => .error .undefinedTail
  | .three v =>
    match (h.extractLsb' 0 3).toNat with
    | 0 => dec_beq h v
    | 1 => dec_bne h v
    | 2 => dec_blt h v
    | 3 => dec_bge h v
    | 4 => dec_bltu h v
    | 5 => dec_bgeu h v
    | _ => .error .reservedMinor

/-- Minor map of major 0x0A. -/
def decMajor0A (h : BitVec 16) : Tail → Except Reject Instr
  | .none => .error .undefinedTail
  | .one _ => .error .undefinedTail
  | .two v =>
    match (h.extractLsb' 0 3).toNat with
    | 0 => dec_br h v
    | 1 => dec_call h v
    | _ => .error .reservedMinor
  | .three _ => .error .undefinedTail

/-- Minor map of major 0x0B. -/
def decMajor0B (h : BitVec 16) : Tail → Except Reject Instr
  | .none => .error .undefinedTail
  | .one v =>
    match (h.extractLsb' 0 3).toNat with
    | 0 => dec_jt h v
    | 1 => dec_callt h v
    | _ => .error .reservedMinor
  | .two v =>
    match (h.extractLsb' 0 3).toNat with
    | 0 => dec_jtW h v
    | 1 => dec_calltW h v
    | _ => .error .reservedMinor
  | .three _ => .error .undefinedTail

/-- Minor map of major 0x0C. -/
def decMajor0C (h : BitVec 16) : Tail → Except Reject Instr
  | .none =>
    match (h.extractLsb' 0 3).toNat with
    | 0 => dec_nop h
    | 1 => dec_ret h
    | 2 => dec_rets h
    | 3 => dec_exit h
    | _ => .error .reservedMinor
  | .one v =>
    match (h.extractLsb' 0 3).toNat with
    | 0 => dec_lpad h v
    | _ => .error .reservedMinor
  | .two _ => .error .undefinedTail
  | .three _ => .error .undefinedTail

/-- Minor map of major 0x0D. -/
def decMajor0D (h : BitVec 16) : Tail → Except Reject Instr
  | .none => .error .undefinedTail
  | .one _ => .error .undefinedTail
  | .two v =>
    match (h.extractLsb' 0 3).toNat with
    | 0 => dec_dbnz h v
    | _ => .error .reservedMinor
  | .three _ => .error .undefinedTail

/-- Minor map of major 0x0E. -/
def decMajor0E (h : BitVec 16) : Tail → Except Reject Instr
  | .none =>
    match (h.extractLsb' 0 3).toNat with
    | 0 => dec_eret h
    | _ => .error .reservedMinor
  | .one v =>
    match (h.extractLsb' 0 3).toNat with
    | 0 => dec_trap h v
    | _ => .error .reservedMinor
  | .two _ => .error .undefinedTail
  | .three _ => .error .undefinedTail

/-- Minor map of major 0x0F. -/
def decMajor0F (h : BitVec 16) : Tail → Except Reject Instr
  | .none => .error .undefinedTail
  | .one v =>
    match (h.extractLsb' 0 3).toNat with
    | 0 => dec_mfc h v
    | 1 => dec_mtc h v
    | _ => .error .reservedMinor
  | .two _ => .error .undefinedTail
  | .three _ => .error .undefinedTail

/-- Minor map of major 0x10. -/
def decMajor10 (h : BitVec 16) : Tail → Except Reject Instr
  | .none => .error .undefinedTail
  | .one v =>
    match (h.extractLsb' 0 3).toNat with
    | 0 => dec_ld h v
    | 1 => dec_lw h v
    | 2 => dec_lwu h v
    | 3 => dec_lh h v
    | 4 => dec_lhu h v
    | 5 => dec_lb h v
    | 6 => dec_lbu h v
    | _ => .error .reservedMinor
  | .two v =>
    match (h.extractLsb' 0 3).toNat with
    | 0 => dec_ldW h v
    | 1 => dec_lwW h v
    | 2 => dec_lwuW h v
    | 3 => dec_lhW h v
    | 4 => dec_lhuW h v
    | 5 => dec_lbW h v
    | 6 => dec_lbuW h v
    | _ => .error .reservedMinor
  | .three v =>
    match (h.extractLsb' 0 3).toNat with
    | 0 => dec_ldX1 h v
    | 1 => dec_lwX1 h v
    | 2 => dec_lwuX1 h v
    | 3 => dec_lhX1 h v
    | 4 => dec_lhuX1 h v
    | 5 => dec_lbX1 h v
    | 6 => dec_lbuX1 h v
    | _ => .error .reservedMinor

/-- Minor map of major 0x11. -/
def decMajor11 (h : BitVec 16) : Tail → Except Reject Instr
  | .none => .error .undefinedTail
  | .one v =>
    match (h.extractLsb' 0 3).toNat with
    | 0 => dec_st h v
    | 1 => dec_sw h v
    | 2 => dec_sh h v
    | 3 => dec_sb h v
    | _ => .error .reservedMinor
  | .two v =>
    match (h.extractLsb' 0 3).toNat with
    | 0 => dec_stW h v
    | 1 => dec_swW h v
    | 2 => dec_shW h v
    | 3 => dec_sbW h v
    | _ => .error .reservedMinor
  | .three v =>
    match (h.extractLsb' 0 3).toNat with
    | 0 => dec_stX1 h v
    | 1 => dec_swX1 h v
    | 2 => dec_shX1 h v
    | 3 => dec_sbX1 h v
    | _ => .error .reservedMinor

/-- Minor map of major 0x12. -/
def decMajor12 (h : BitVec 16) : Tail → Except Reject Instr
  | .none => .error .undefinedTail
  | .one v =>
    match (h.extractLsb' 0 3).toNat with
    | 0 => dec_vld h v
    | 1 => dec_vst h v
    | 2 => dec_vlds h v
    | 3 => dec_vsts h v
    | _ => .error .reservedMinor
  | .two v =>
    match (h.extractLsb' 0 3).toNat with
    | 0 => dec_vldW h v
    | 1 => dec_vstW h v
    | 2 => dec_vldsW h v
    | 3 => dec_vstsW h v
    | _ => .error .reservedMinor
  | .three v =>
    match (h.extractLsb' 0 3).toNat with
    | 0 => dec_vldX1 h v
    | 1 => dec_vstX1 h v
    | 2 => dec_vldsX1 h v
    | 3 => dec_vstsX1 h v
    | _ => .error .reservedMinor

/-- Minor map of major 0x13. -/
def decMajor13 (h : BitVec 16) : Tail → Except Reject Instr
  | .none => .error .undefinedTail
  | .one v =>
    match (h.extractLsb' 0 3).toNat with
    | 0 => dec_vgath h v
    | 1 => dec_vscat h v
    | _ => .error .reservedMinor
  | .two v =>
    match (h.extractLsb' 0 3).toNat with
    | 0 => dec_vgathW h v
    | 1 => dec_vscatW h v
    | _ => .error .reservedMinor
  | .three _ => .error .undefinedTail

/-- Minor map of major 0x14. -/
def decMajor14 (h : BitVec 16) : Tail → Except Reject Instr
  | .none => .error .undefinedTail
  | .one v =>
    match (h.extractLsb' 0 3).toNat with
    | 0 => dec_aadd h v
    | 1 => dec_aand h v
    | 2 => dec_aor h v
    | 3 => dec_axor h v
    | 4 => dec_aswp h v
    | 5 => dec_acas h v
    | 6 =>
      if (v.extractLsb' 0 2) == 0#2 then dec_amin h v
      else if (v.extractLsb' 0 2) == 1#2 then dec_amax h v
      else if (v.extractLsb' 0 2) == 2#2 then dec_aminu h v
      else if (v.extractLsb' 0 2) == 3#2 then dec_amaxu h v
      else .error .reservedMinor
    | 7 => dec_afadd h v
    | _ => .error .reservedMinor
  | .two v =>
    match (h.extractLsb' 0 3).toNat with
    | 0 => dec_aaddW h v
    | 1 => dec_aandW h v
    | 2 => dec_aorW h v
    | 3 => dec_axorW h v
    | 4 => dec_aswpW h v
    | 5 => dec_acasW h v
    | 6 =>
      if (v.extractLsb' 17 2) == 0#2 then dec_aminW h v
      else if (v.extractLsb' 17 2) == 1#2 then dec_amaxW h v
      else if (v.extractLsb' 17 2) == 2#2 then dec_aminuW h v
      else if (v.extractLsb' 17 2) == 3#2 then dec_amaxuW h v
      else .error .reservedMinor
    | 7 => dec_afaddW h v
    | _ => .error .reservedMinor
  | .three _ => .error .undefinedTail

/-- Minor map of major 0x15. -/
def decMajor15 (h : BitVec 16) : Tail → Except Reject Instr
  | .none =>
    match (h.extractLsb' 0 3).toNat with
    | 0 => dec_tatsw h
    | _ => .error .reservedMinor
  | .one v =>
    match (h.extractLsb' 0 3).toNat with
    | 0 => dec_tget h v
    | 1 =>
      if (v.extractLsb' 5 1) == 0#1 then dec_tset h v
      else if (v.extractLsb' 5 1) == 1#1 then dec_tsetImm h v
      else .error .reservedMinor
    | 2 => dec_tcas h v
    | 3 => dec_tatld h v
    | 4 => dec_rmset h v
    | _ => .error .reservedMinor
  | .two _ => .error .undefinedTail
  | .three _ => .error .undefinedTail

/-- Minor map of major 0x16. -/
def decMajor16 (h : BitVec 16) : Tail → Except Reject Instr
  | .none =>
    match (h.extractLsb' 0 3).toNat with
    | 0 => dec_fence h
    | 1 => dec_bar h
    | 2 => dec_bara h
    | 3 => dec_barw h
    | _ => .error .reservedMinor
  | .one v =>
    match (h.extractLsb' 0 3).toNat with
    | 0 => dec_xfence h v
    | _ => .error .reservedMinor
  | .two _ => .error .undefinedTail
  | .three _ => .error .undefinedTail

/-- Minor map of major 0x17. -/
def decMajor17 (h : BitVec 16) : Tail → Except Reject Instr
  | .none => .error .undefinedTail
  | .one v =>
    match (h.extractLsb' 0 3).toNat with
    | 0 => dec_sbinit h v
    | 1 => dec_sbarv h v
    | 2 => dec_sbwait h v
    | 3 => dec_sbtest h v
    | 4 => dec_waitTag h v
    | _ => .error .reservedMinor
  | .two _ => .error .undefinedTail
  | .three _ => .error .undefinedTail

/-- Minor map of major 0x18. -/
def decMajor18 (h : BitVec 16) : Tail → Except Reject Instr
  | .none =>
    match (h.extractLsb' 0 3).toNat with
    | 0 => dec_dqlen h
    | _ => .error .reservedMinor
  | .one v =>
    match (h.extractLsb' 0 3).toNat with
    | 0 => dec_joinWord h v
    | 1 => dec_steal h v
    | 2 => dec_pcon h v
    | 3 => dec_flushi h v
    | _ => .error .reservedMinor
  | .two v =>
    match (h.extractLsb' 0 3).toNat with
    | 0 => dec_spawn h v
    | _ => .error .reservedMinor
  | .three _ => .error .undefinedTail

/-- Minor map of major 0x20. -/
def decMajor20 (h : BitVec 16) : Tail → Except Reject Instr
  | .none => .error .undefinedTail
  | .one v =>
    match (h.extractLsb' 0 3).toNat with
    | 0 => dec_vadd h v
    | 1 => dec_vsub h v
    | 2 => dec_vmul h v
    | 3 => dec_vmulh h v
    | 4 => dec_vmin h v
    | 5 => dec_vmax h v
    | 6 => dec_vminu h v
    | 7 => dec_vmaxu h v
    | _ => .error .reservedMinor
  | .two v =>
    match (h.extractLsb' 0 3).toNat with
    | 0 =>
      if (v.extractLsb' 3 2) == 0#2 then dec_vaddW h v
      else if (v.extractLsb' 3 2) == 1#2 then dec_vand h v
      else .error .reservedMinor
    | 1 =>
      if (v.extractLsb' 3 2) == 0#2 then dec_vsubW h v
      else if (v.extractLsb' 3 2) == 1#2 then dec_vor h v
      else .error .reservedMinor
    | 2 =>
      if (v.extractLsb' 3 2) == 0#2 then dec_vmulW h v
      else if (v.extractLsb' 3 2) == 1#2 then dec_vxor h v
      else .error .reservedMinor
    | 3 =>
      if (v.extractLsb' 3 2) == 0#2 then dec_vmulhW h v
      else if (v.extractLsb' 3 2) == 1#2 then dec_vsll h v
      else .error .reservedMinor
    | 4 =>
      if (v.extractLsb' 3 2) == 0#2 then dec_vminW h v
      else if (v.extractLsb' 3 2) == 1#2 then dec_vsrl h v
      else .error .reservedMinor
    | 5 =>
      if (v.extractLsb' 3 2) == 0#2 then dec_vmaxW h v
      else if (v.extractLsb' 3 2) == 1#2 then dec_vsra h v
      else .error .reservedMinor
    | 6 =>
      if (v.extractLsb' 3 2) == 0#2 then dec_vminuW h v
      else if (v.extractLsb' 3 2) == 1#2 then dec_vmulhu h v
      else .error .reservedMinor
    | 7 =>
      if (v.extractLsb' 3 2) == 0#2 then dec_vmaxuW h v
      else if (v.extractLsb' 3 2) == 1#2 then dec_vabs h v
      else .error .reservedMinor
    | _ => .error .reservedMinor
  | .three _ => .error .undefinedTail

/-- Minor map of major 0x21. -/
def decMajor21 (h : BitVec 16) : Tail → Except Reject Instr
  | .none => .error .undefinedTail
  | .one v =>
    match (h.extractLsb' 0 3).toNat with
    | 0 => dec_vfadd h v
    | 1 => dec_vfsub h v
    | 2 => dec_vfmul h v
    | 3 => dec_vfdiv h v
    | 4 => dec_vfmin h v
    | 5 => dec_vfmax h v
    | 6 => dec_vfsqrt h v
    | _ => .error .reservedMinor
  | .two v =>
    match (h.extractLsb' 0 3).toNat with
    | 0 =>
      if (v.extractLsb' 3 2) == 0#2 then dec_vfaddW h v
      else if (v.extractLsb' 3 2) == 1#2 then dec_vfneg h v
      else .error .reservedMinor
    | 1 =>
      if (v.extractLsb' 3 2) == 0#2 then dec_vfsubW h v
      else if (v.extractLsb' 3 2) == 1#2 then dec_vfabs h v
      else .error .reservedMinor
    | 2 =>
      if (v.extractLsb' 3 2) == 0#2 then dec_vfmulW h v
      else .error .reservedMinor
    | 3 =>
      if (v.extractLsb' 3 2) == 0#2 then dec_vfdivW h v
      else .error .reservedMinor
    | 4 =>
      if (v.extractLsb' 3 2) == 0#2 then dec_vfminW h v
      else .error .reservedMinor
    | 5 =>
      if (v.extractLsb' 3 2) == 0#2 then dec_vfmaxW h v
      else .error .reservedMinor
    | 6 =>
      if (v.extractLsb' 3 2) == 0#2 then dec_vfsqrtW h v
      else .error .reservedMinor
    | _ => .error .reservedMinor
  | .three _ => .error .undefinedTail

/-- Minor map of major 0x22. -/
noncomputable def decMajor22 (h : BitVec 16) : Tail → Except Reject Instr
  | .none => .error .undefinedTail
  | .one v =>
    match (h.extractLsb' 0 3).toNat with
    | 0 => dec_vfma h v
    | 1 => dec_vfms h v
    | 2 => dec_vfnma h v
    | 3 => dec_vfnms h v
    | 4 => dec_vmac h v
    | 5 => dec_vdot h v
    | 6 => dec_vdotu h v
    | _ => .error .reservedMinor
  | .two v =>
    match (h.extractLsb' 0 3).toNat with
    | 0 =>
      if (v.extractLsb' 3 2) == 0#2 then dec_vfmaW h v
      else .error .reservedMinor
    | 1 =>
      if (v.extractLsb' 3 2) == 0#2 then dec_vfmsW h v
      else .error .reservedMinor
    | 2 =>
      if (v.extractLsb' 3 2) == 0#2 then dec_vfnmaW h v
      else .error .reservedMinor
    | 3 =>
      if (v.extractLsb' 3 2) == 0#2 then dec_vfnmsW h v
      else .error .reservedMinor
    | 4 =>
      if (v.extractLsb' 3 2) == 0#2 then dec_vmacW h v
      else .error .reservedMinor
    | 5 =>
      if (v.extractLsb' 3 2) == 0#2 then dec_vdotW h v
      else .error .reservedMinor
    | 6 =>
      if (v.extractLsb' 3 2) == 0#2 then dec_vdotuW h v
      else .error .reservedMinor
    | _ => .error .reservedMinor
  | .three _ => .error .undefinedTail

/-- Minor map of major 0x23. -/
noncomputable def decMajor23 (h : BitVec 16) : Tail → Except Reject Instr
  | .none => .error .undefinedTail
  | .one v =>
    match (h.extractLsb' 0 3).toNat with
    | 0 => dec_vseq h v
    | 1 => dec_vsne h v
    | 2 => dec_vslt h v
    | 3 => dec_vsle h v
    | 4 => dec_vsltu h v
    | 5 => dec_vsleu h v
    | _ => .error .reservedMinor
  | .two v =>
    match (h.extractLsb' 0 3).toNat with
    | 0 =>
      if (v.extractLsb' 3 2) == 0#2 then dec_vseqW h v
      else if (v.extractLsb' 3 2) == 1#2 then dec_vfeq h v
      else .error .reservedMinor
    | 1 =>
      if (v.extractLsb' 3 2) == 0#2 then dec_vsneW h v
      else if (v.extractLsb' 3 2) == 1#2 then dec_vfne h v
      else .error .reservedMinor
    | 2 =>
      if (v.extractLsb' 3 2) == 0#2 then dec_vsltW h v
      else if (v.extractLsb' 3 2) == 1#2 then dec_vflt h v
      else .error .reservedMinor
    | 3 =>
      if (v.extractLsb' 3 2) == 0#2 then dec_vsleW h v
      else if (v.extractLsb' 3 2) == 1#2 then dec_vfle h v
      else .error .reservedMinor
    | 4 =>
      if (v.extractLsb' 3 2) == 0#2 then dec_vsltuW h v
      else if (v.extractLsb' 3 2) == 1#2 then dec_vfun h v
      else .error .reservedMinor
    | 5 =>
      if (v.extractLsb' 3 2) == 0#2 then dec_vsleuW h v
      else .error .reservedMinor
    | _ => .error .reservedMinor
  | .three _ => .error .undefinedTail

/-- Minor map of major 0x24. -/
noncomputable def decMajor24 (h : BitVec 16) : Tail → Except Reject Instr
  | .none => .error .undefinedTail
  | .one v =>
    match (h.extractLsb' 0 3).toNat with
    | 0 => dec_vmov h v
    | 1 => dec_vbcast h v
    | 2 => dec_vsldn h v
    | 3 => dec_vslup h v
    | 4 => dec_vperm h v
    | 5 => dec_vins h v
    | 6 => dec_vext h v
    | _ => .error .reservedMinor
  | .two v =>
    match (h.extractLsb' 0 3).toNat with
    | 0 =>
      if (v.extractLsb' 3 2) == 0#2 then dec_vmovW h v
      else .error .reservedMinor
    | 1 =>
      if (v.extractLsb' 3 2) == 0#2 then dec_vbcastW h v
      else .error .reservedMinor
    | 2 =>
      if (v.extractLsb' 3 2) == 0#2 then dec_vsldnW h v
      else .error .reservedMinor
    | 3 =>
      if (v.extractLsb' 3 2) == 0#2 then dec_vslupW h v
      else .error .reservedMinor
    | 4 =>
      if (v.extractLsb' 3 2) == 0#2 then dec_vpermW h v
      else .error .reservedMinor
    | 5 =>
      if (v.extractLsb' 3 2) == 0#2 then dec_vinsW h v
      else .error .reservedMinor
    | 6 =>
      if (v.extractLsb' 3 2) == 0#2 then dec_vextW h v
      else .error .reservedMinor
    | _ => .error .reservedMinor
  | .three _ => .error .undefinedTail

/-- Minor map of major 0x25. -/
noncomputable def decMajor25 (h : BitVec 16) : Tail → Except Reject Instr
  | .none => .error .undefinedTail
  | .one v =>
    match (h.extractLsb' 0 3).toNat with
    | 0 => dec_vrsum h v
    | 1 => dec_vrmin h v
    | 2 => dec_vrmax h v
    | 3 => dec_vrminu h v
    | 4 => dec_vrmaxu h v
    | 5 => dec_vrpopc h v
    | _ => .error .reservedMinor
  | .two v =>
    match (h.extractLsb' 0 3).toNat with
    | 0 =>
      if (v.extractLsb' 3 2) == 0#2 then dec_vrsumW h v
      else if (v.extractLsb' 3 2) == 1#2 then dec_vrfsum h v
      else .error .reservedMinor
    | 1 =>
      if (v.extractLsb' 3 2) == 0#2 then dec_vrminW h v
      else if (v.extractLsb' 3 2) == 1#2 then dec_vrfmin h v
      else .error .reservedMinor
    | 2 =>
      if (v.extractLsb' 3 2) == 0#2 then dec_vrmaxW h v
      else if (v.extractLsb' 3 2) == 1#2 then dec_vrfmax h v
      else .error .reservedMinor
    | 3 =>
      if (v.extractLsb' 3 2) == 0#2 then dec_vrminuW h v
      else if (v.extractLsb' 3 2) == 1#2 then dec_vrfsumo h v
      else .error .reservedMinor
    | 4 =>
      if (v.extractLsb' 3 2) == 0#2 then dec_vrmaxuW h v
      else .error .reservedMinor
    | 5 =>
      if (v.extractLsb' 3 2) == 0#2 then dec_vrpopcW h v
      else .error .reservedMinor
    | _ => .error .reservedMinor
  | .three _ => .error .undefinedTail

/-- Minor map of major 0x26. -/
noncomputable def decMajor26 (h : BitVec 16) : Tail → Except Reject Instr
  | .none => .error .undefinedTail
  | .one v =>
    match (h.extractLsb' 0 3).toNat with
    | 0 => dec_vftoi h v
    | 1 => dec_vftoiu h v
    | 2 => dec_vitof h v
    | 3 => dec_vutof h v
    | _ => .error .reservedMinor
  | .two v =>
    match (h.extractLsb' 0 3).toNat with
    | 0 => dec_vcvt h v
    | _ => .error .reservedMinor
  | .three _ => .error .undefinedTail

/-- Minor map of major 0x27. -/
noncomputable def decMajor27 (h : BitVec 16) : Tail → Except Reject Instr
  | .none => .error .undefinedTail
  | .one v =>
    match (h.extractLsb' 0 3).toNat with
    | 0 => dec_vexp2 h v
    | 1 => dec_vlog2 h v
    | 2 => dec_vrcp h v
    | 3 => dec_vrsqrt h v
    | 4 => dec_vtanh h v
    | 5 => dec_vsig h v
    | 6 => dec_vexp h v
    | _ => .error .reservedMinor
  | .two v =>
    match (h.extractLsb' 0 3).toNat with
    | 0 =>
      if (v.extractLsb' 3 2) == 0#2 then dec_vexp2W h v
      else .error .reservedMinor
    | 1 =>
      if (v.extractLsb' 3 2) == 0#2 then dec_vlog2W h v
      else .error .reservedMinor
    | 2 =>
      if (v.extractLsb' 3 2) == 0#2 then dec_vrcpW h v
      else .error .reservedMinor
    | 3 =>
      if (v.extractLsb' 3 2) == 0#2 then dec_vrsqrtW h v
      else .error .reservedMinor
    | 4 =>
      if (v.extractLsb' 3 2) == 0#2 then dec_vtanhW h v
      else .error .reservedMinor
    | 5 =>
      if (v.extractLsb' 3 2) == 0#2 then dec_vsigW h v
      else .error .reservedMinor
    | 6 =>
      if (v.extractLsb' 3 2) == 0#2 then dec_vexpW h v
      else .error .reservedMinor
    | _ => .error .reservedMinor
  | .three _ => .error .undefinedTail

/-- Minor map of major 0x28. -/
noncomputable def decMajor28 (h : BitVec 16) : Tail → Except Reject Instr
  | .none =>
    match (h.extractLsb' 0 3).toNat with
    | 0 => dec_modeM h
    | 1 => dec_modeV h
    | 2 => dec_mzero h
    | 3 => dec_mrnsoutRes30 h
    | 4 => dec_mrnsoutRes15 h
    | _ => .error .reservedMinor
  | .one _ => .error .undefinedTail
  | .two _ => .error .undefinedTail
  | .three _ => .error .undefinedTail

/-- Minor map of major 0x29. -/
noncomputable def decMajor29 (h : BitVec 16) : Tail → Except Reject Instr
  | .none => .error .undefinedTail
  | .one v =>
    match (h.extractLsb' 0 3).toNat with
    | 0 => dec_mma h v
    | 1 => dec_mmas h v
    | _ => .error .reservedMinor
  | .two v =>
    match (h.extractLsb' 0 3).toNat with
    | 0 => dec_mmaW h v
    | 1 => dec_mmasW h v
    | _ => .error .reservedMinor
  | .three _ => .error .undefinedTail

/-- Minor map of major 0x2A. -/
noncomputable def decMajor2A (h : BitVec 16) : Tail → Except Reject Instr
  | .none => .error .undefinedTail
  | .one v =>
    match (h.extractLsb' 0 3).toNat with
    | 0 => dec_sclfeed h v
    | 1 => dec_mplane h v
    | 2 => dec_munpl h v
    | 3 => dec_mrnsin h v
    | _ => .error .reservedMinor
  | .two v =>
    match (h.extractLsb' 0 3).toNat with
    | 1 => dec_mplaneW h v
    | 2 => dec_munplW h v
    | 3 => dec_mrnsinW h v
    | _ => .error .reservedMinor
  | .three _ => .error .undefinedTail

/-- Minor map of major 0x2B. -/
noncomputable def decMajor2B (h : BitVec 16) : Tail → Except Reject Instr
  | .none => .error .undefinedTail
  | .one v =>
    match (h.extractLsb' 0 3).toNat with
    | 0 => dec_dld h v
    | 1 => dec_dsv h v
    | 2 => dec_dput h v
    | 3 => dec_dget h v
    | _ => .error .reservedMinor
  | .two v =>
    match (h.extractLsb' 0 3).toNat with
    | 0 => dec_dins h v
    | _ => .error .reservedMinor
  | .three v =>
    match (h.extractLsb' 0 3).toNat with
    | 0 => dec_dinit h v
    | _ => .error .reservedMinor

/-- Minor map of major 0x2C. -/
noncomputable def decMajor2C (h : BitVec 16) : Tail → Except Reject Instr
  | .none => .error .undefinedTail
  | .one v =>
    match (h.extractLsb' 0 3).toNat with
    | 1 => dec_tadd h v
    | 2 => dec_tsub h v
    | 3 => dec_tmax h v
    | 5 => dec_tcvt h v
    | 6 => dec_tred h v
    | _ => .error .reservedMinor
  | .two v =>
    match (h.extractLsb' 0 3).toNat with
    | 0 => dec_tmul h v
    | 1 => dec_taddW h v
    | 2 => dec_tsubW h v
    | 3 => dec_tmaxW h v
    | 4 => dec_tmap h v
    | _ => .error .reservedMinor
  | .three _ => .error .undefinedTail

/-- Minor map of major 0x2D. -/
noncomputable def decMajor2D (h : BitVec 16) : Tail → Except Reject Instr
  | .none =>
    match (h.extractLsb' 0 3).toNat with
    | 0 => dec_force h
    | 1 => dec_tdrop h
    | _ => .error .reservedMinor
  | .one v =>
    match (h.extractLsb' 0 3).toNat with
    | 0 => dec_forceM h v
    | 1 => dec_tdropM h v
    | 2 => dec_tqry h v
    | 3 => dec_tst h v
    | _ => .error .reservedMinor
  | .two v =>
    match (h.extractLsb' 0 3).toNat with
    | 0 => dec_forceW h v
    | _ => .error .reservedMinor
  | .three _ => .error .undefinedTail

/-- Minor map of major 0x2E. -/
noncomputable def decMajor2E (h : BitVec 16) : Tail → Except Reject Instr
  | .none => .error .undefinedTail
  | .one v =>
    match (h.extractLsb' 0 3).toNat with
    | 0 => dec_cp h v
    | _ => .error .reservedMinor
  | .two v =>
    match (h.extractLsb' 0 3).toNat with
    | 1 => dec_cps h v
    | _ => .error .reservedMinor
  | .three _ => .error .undefinedTail

/-- Minor map of major 0x2F. -/
noncomputable def decMajor2F (h : BitVec 16) : Tail → Except Reject Instr
  | .none => .error .undefinedTail
  | .one v =>
    match (h.extractLsb' 0 3).toNat with
    | 0 => dec_epreg h v
    | 2 => dec_rlver h v
    | 3 => dec_rjqry h v
    | _ => .error .reservedMinor
  | .two v =>
    match (h.extractLsb' 0 3).toNat with
    | 1 => dec_rpost h v
    | _ => .error .reservedMinor
  | .three _ => .error .undefinedTail

/-- Minor map of major 0x30. -/
noncomputable def decMajor30 (h : BitVec 16) : Tail → Except Reject Instr
  | .none =>
    match (h.extractLsb' 0 3).toNat with
    | 0 => dec_draw h
    | 1 => dec_drawV h
    | _ => .error .reservedMinor
  | .one v =>
    match (h.extractLsb' 0 3).toNat with
    | 0 => dec_rngkey h v
    | 1 => dec_rngadv h v
    | _ => .error .reservedMinor
  | .two _ => .error .undefinedTail
  | .three _ => .error .undefinedTail

/-- Minor map of major 0x31. -/
noncomputable def decMajor31 (h : BitVec 16) : Tail → Except Reject Instr
  | .none =>
    match (h.extractLsb' 0 3).toNat with
    | 0 => dec_stamp h
    | 1 => dec_stampClose h
    | _ => .error .reservedMinor
  | .one v =>
    match (h.extractLsb' 0 3).toNat with
    | 0 => dec_stampOpen h v
    | 1 => dec_trmark h v
    | _ => .error .reservedMinor
  | .two _ => .error .undefinedTail
  | .three _ => .error .undefinedTail

/-- Minor map of major 0x32. -/
noncomputable def decMajor32 (h : BitVec 16) : Tail → Except Reject Instr
  | .none =>
    match (h.extractLsb' 0 3).toNat with
    | 0 => dec_tcinv h
    | _ => .error .reservedMinor
  | .one v =>
    match (h.extractLsb' 0 3).toNat with
    | 0 => dec_tcinvM h v
    | 1 => dec_sleep h v
    | _ => .error .reservedMinor
  | .two _ => .error .undefinedTail
  | .three _ => .error .undefinedTail

/-- The instruction of a head and its tail, or the first check of R120 that they fail (checks 2 to 6). DEDUCED: log entry 20. -/
noncomputable def decodeHT (h : Parcel) (t : Tail) : Except Reject Instr :=
  match (h.extractLsb' 8 6).toNat with
  | 0 => decMajor00 h t
  | 1 => decMajor01 h t
  | 2 => decMajor02 h t
  | 3 => decMajor03 h t
  | 4 => decMajor04 h t
  | 5 => decMajor05 h t
  | 6 => decMajor06 h t
  | 7 => decMajor07 h t
  | 8 => decMajor08 h t
  | 9 => decMajor09 h t
  | 10 => decMajor0A h t
  | 11 => decMajor0B h t
  | 12 => decMajor0C h t
  | 13 => decMajor0D h t
  | 14 => decMajor0E h t
  | 15 => decMajor0F h t
  | 16 => decMajor10 h t
  | 17 => decMajor11 h t
  | 18 => decMajor12 h t
  | 19 => decMajor13 h t
  | 20 => decMajor14 h t
  | 21 => decMajor15 h t
  | 22 => decMajor16 h t
  | 23 => decMajor17 h t
  | 24 => decMajor18 h t
  | 32 => decMajor20 h t
  | 33 => decMajor21 h t
  | 34 => decMajor22 h t
  | 35 => decMajor23 h t
  | 36 => decMajor24 h t
  | 37 => decMajor25 h t
  | 38 => decMajor26 h t
  | 39 => decMajor27 h t
  | 40 => decMajor28 h t
  | 41 => decMajor29 h t
  | 42 => decMajor2A h t
  | 43 => decMajor2B h t
  | 44 => decMajor2C h t
  | 45 => decMajor2D h t
  | 46 => decMajor2E h t
  | 47 => decMajor2F h t
  | 48 => decMajor30 h t
  | 49 => decMajor31 h t
  | 50 => decMajor32 h t
  | _ => .error .reservedMajor

def enc_add (d : SReg) (b : SReg) (c : SReg) (sat : BitVec 2) : Parcel × Tail := (1#2 ++ 0x00#6 ++ d ++ 0#3, .one (b ++ c ++ 0#4 ++ sat))
def enc_sub (d : SReg) (b : SReg) (c : SReg) (sat : BitVec 2) : Parcel × Tail := (1#2 ++ 0x00#6 ++ d ++ 1#3, .one (b ++ c ++ 0#4 ++ sat))
def enc_andR (d : SReg) (b : SReg) (c : SReg) : Parcel × Tail := (1#2 ++ 0x00#6 ++ d ++ 2#3, .one (b ++ c ++ 0#6))
def enc_orR (d : SReg) (b : SReg) (c : SReg) : Parcel × Tail := (1#2 ++ 0x00#6 ++ d ++ 3#3, .one (b ++ c ++ 0#6))
def enc_xorR (d : SReg) (b : SReg) (c : SReg) : Parcel × Tail := (1#2 ++ 0x00#6 ++ d ++ 4#3, .one (b ++ c ++ 0#6))
def enc_sll (d : SReg) (b : SReg) (c : SReg) : Parcel × Tail := (1#2 ++ 0x00#6 ++ d ++ 5#3, .one (b ++ c ++ 0#6))
def enc_srl (d : SReg) (b : SReg) (c : SReg) : Parcel × Tail := (1#2 ++ 0x00#6 ++ d ++ 6#3, .one (b ++ c ++ 0#6))
def enc_sra (d : SReg) (b : SReg) (c : SReg) : Parcel × Tail := (1#2 ++ 0x00#6 ++ d ++ 7#3, .one (b ++ c ++ 0#6))
def enc_addI (d : SReg) (b : SReg) (imm : BitVec 11) : Parcel × Tail := (1#2 ++ 0x01#6 ++ d ++ 0#3, .one (b ++ imm))
def enc_rsubI (d : SReg) (b : SReg) (imm : BitVec 11) : Parcel × Tail := (1#2 ++ 0x01#6 ++ d ++ 1#3, .one (b ++ imm))
def enc_andI (d : SReg) (b : SReg) (imm : BitVec 11) : Parcel × Tail := (1#2 ++ 0x01#6 ++ d ++ 2#3, .one (b ++ imm))
def enc_orI (d : SReg) (b : SReg) (imm : BitVec 11) : Parcel × Tail := (1#2 ++ 0x01#6 ++ d ++ 3#3, .one (b ++ imm))
def enc_xorI (d : SReg) (b : SReg) (imm : BitVec 11) : Parcel × Tail := (1#2 ++ 0x01#6 ++ d ++ 4#3, .one (b ++ imm))
def enc_sllI (d : SReg) (b : SReg) (imm : BitVec 11) : Parcel × Tail := (1#2 ++ 0x01#6 ++ d ++ 5#3, .one (b ++ imm))
def enc_srlI (d : SReg) (b : SReg) (imm : BitVec 11) : Parcel × Tail := (1#2 ++ 0x01#6 ++ d ++ 6#3, .one (b ++ imm))
def enc_sraI (d : SReg) (b : SReg) (imm : BitVec 11) : Parcel × Tail := (1#2 ++ 0x01#6 ++ d ++ 7#3, .one (b ++ imm))
def enc_addW (d : SReg) (b : SReg) (imm : BitVec 16) : Parcel × Tail := (2#2 ++ 0x01#6 ++ d ++ 0#3, .two (b ++ 0#5 ++ 0#5 ++ 0#1 ++ imm))
def enc_rsubW (d : SReg) (b : SReg) (imm : BitVec 16) : Parcel × Tail := (2#2 ++ 0x01#6 ++ d ++ 1#3, .two (b ++ 0#5 ++ 0#5 ++ 0#1 ++ imm))
def enc_andW (d : SReg) (b : SReg) (imm : BitVec 16) : Parcel × Tail := (2#2 ++ 0x01#6 ++ d ++ 2#3, .two (b ++ 0#5 ++ 0#5 ++ 0#1 ++ imm))
def enc_orW (d : SReg) (b : SReg) (imm : BitVec 16) : Parcel × Tail := (2#2 ++ 0x01#6 ++ d ++ 3#3, .two (b ++ 0#5 ++ 0#5 ++ 0#1 ++ imm))
def enc_xorW (d : SReg) (b : SReg) (imm : BitVec 16) : Parcel × Tail := (2#2 ++ 0x01#6 ++ d ++ 4#3, .two (b ++ 0#5 ++ 0#5 ++ 0#1 ++ imm))
def enc_sllW (d : SReg) (b : SReg) (imm : BitVec 16) : Parcel × Tail := (2#2 ++ 0x01#6 ++ d ++ 5#3, .two (b ++ 0#5 ++ 0#5 ++ 0#1 ++ imm))
def enc_srlW (d : SReg) (b : SReg) (imm : BitVec 16) : Parcel × Tail := (2#2 ++ 0x01#6 ++ d ++ 6#3, .two (b ++ 0#5 ++ 0#5 ++ 0#1 ++ imm))
def enc_sraW (d : SReg) (b : SReg) (imm : BitVec 16) : Parcel × Tail := (2#2 ++ 0x01#6 ++ d ++ 7#3, .two (b ++ 0#5 ++ 0#5 ++ 0#1 ++ imm))
def enc_seq (d : SReg) (b : SReg) (c : SReg) : Parcel × Tail := (1#2 ++ 0x02#6 ++ d ++ 0#3, .one (b ++ c ++ 0#6))
def enc_sne (d : SReg) (b : SReg) (c : SReg) : Parcel × Tail := (1#2 ++ 0x02#6 ++ d ++ 1#3, .one (b ++ c ++ 0#6))
def enc_slt (d : SReg) (b : SReg) (c : SReg) : Parcel × Tail := (1#2 ++ 0x02#6 ++ d ++ 2#3, .one (b ++ c ++ 0#6))
def enc_sltu (d : SReg) (b : SReg) (c : SReg) : Parcel × Tail := (1#2 ++ 0x02#6 ++ d ++ 3#3, .one (b ++ c ++ 0#6))
def enc_sle (d : SReg) (b : SReg) (c : SReg) : Parcel × Tail := (1#2 ++ 0x02#6 ++ d ++ 4#3, .one (b ++ c ++ 0#6))
def enc_sleu (d : SReg) (b : SReg) (c : SReg) : Parcel × Tail := (1#2 ++ 0x02#6 ++ d ++ 5#3, .one (b ++ c ++ 0#6))
def enc_minS (d : SReg) (b : SReg) (c : SReg) : Parcel × Tail := (1#2 ++ 0x02#6 ++ d ++ 6#3, .one (b ++ c ++ 0#5 ++ 0#1))
def enc_minU (d : SReg) (b : SReg) (c : SReg) : Parcel × Tail := (1#2 ++ 0x02#6 ++ d ++ 6#3, .one (b ++ c ++ 0#5 ++ 1#1))
def enc_maxS (d : SReg) (b : SReg) (c : SReg) : Parcel × Tail := (1#2 ++ 0x02#6 ++ d ++ 7#3, .one (b ++ c ++ 0#5 ++ 0#1))
def enc_maxU (d : SReg) (b : SReg) (c : SReg) : Parcel × Tail := (1#2 ++ 0x02#6 ++ d ++ 7#3, .one (b ++ c ++ 0#5 ++ 1#1))
def enc_seqW (d : SReg) (b : SReg) (imm : BitVec 16) : Parcel × Tail := (2#2 ++ 0x02#6 ++ d ++ 0#3, .two (b ++ 0#5 ++ 0#5 ++ 0#1 ++ imm))
def enc_sneW (d : SReg) (b : SReg) (imm : BitVec 16) : Parcel × Tail := (2#2 ++ 0x02#6 ++ d ++ 1#3, .two (b ++ 0#5 ++ 0#5 ++ 0#1 ++ imm))
def enc_sltW (d : SReg) (b : SReg) (imm : BitVec 16) : Parcel × Tail := (2#2 ++ 0x02#6 ++ d ++ 2#3, .two (b ++ 0#5 ++ 0#5 ++ 0#1 ++ imm))
def enc_sltuW (d : SReg) (b : SReg) (imm : BitVec 16) : Parcel × Tail := (2#2 ++ 0x02#6 ++ d ++ 3#3, .two (b ++ 0#5 ++ 0#5 ++ 0#1 ++ imm))
def enc_sleW (d : SReg) (b : SReg) (imm : BitVec 16) : Parcel × Tail := (2#2 ++ 0x02#6 ++ d ++ 4#3, .two (b ++ 0#5 ++ 0#5 ++ 0#1 ++ imm))
def enc_sleuW (d : SReg) (b : SReg) (imm : BitVec 16) : Parcel × Tail := (2#2 ++ 0x02#6 ++ d ++ 5#3, .two (b ++ 0#5 ++ 0#5 ++ 0#1 ++ imm))
def enc_minW (d : SReg) (b : SReg) (imm : BitVec 16) : Parcel × Tail := (2#2 ++ 0x02#6 ++ d ++ 6#3, .two (b ++ 0#5 ++ 0#5 ++ 0#1 ++ imm))
def enc_minuW (d : SReg) (b : SReg) (imm : BitVec 16) : Parcel × Tail := (2#2 ++ 0x02#6 ++ d ++ 6#3, .two (b ++ 0#5 ++ 0#5 ++ 1#1 ++ imm))
def enc_maxW (d : SReg) (b : SReg) (imm : BitVec 16) : Parcel × Tail := (2#2 ++ 0x02#6 ++ d ++ 7#3, .two (b ++ 0#5 ++ 0#5 ++ 0#1 ++ imm))
def enc_maxuW (d : SReg) (b : SReg) (imm : BitVec 16) : Parcel × Tail := (2#2 ++ 0x02#6 ++ d ++ 7#3, .two (b ++ 0#5 ++ 0#5 ++ 1#1 ++ imm))
def enc_mul (d : SReg) (b : SReg) (c : SReg) : Parcel × Tail := (1#2 ++ 0x03#6 ++ d ++ 0#3, .one (b ++ c ++ 0#6))
def enc_mulh (d : SReg) (b : SReg) (c : SReg) : Parcel × Tail := (1#2 ++ 0x03#6 ++ d ++ 1#3, .one (b ++ c ++ 0#6))
def enc_mulhu (d : SReg) (b : SReg) (c : SReg) : Parcel × Tail := (1#2 ++ 0x03#6 ++ d ++ 2#3, .one (b ++ c ++ 0#6))
def enc_mulhsu (d : SReg) (b : SReg) (c : SReg) : Parcel × Tail := (1#2 ++ 0x03#6 ++ d ++ 3#3, .one (b ++ c ++ 0#6))
def enc_div (d : SReg) (b : SReg) (c : SReg) : Parcel × Tail := (1#2 ++ 0x03#6 ++ d ++ 4#3, .one (b ++ c ++ 0#6))
def enc_divu (d : SReg) (b : SReg) (c : SReg) : Parcel × Tail := (1#2 ++ 0x03#6 ++ d ++ 5#3, .one (b ++ c ++ 0#6))
def enc_rem (d : SReg) (b : SReg) (c : SReg) : Parcel × Tail := (1#2 ++ 0x03#6 ++ d ++ 6#3, .one (b ++ c ++ 0#6))
def enc_remu (d : SReg) (b : SReg) (c : SReg) : Parcel × Tail := (1#2 ++ 0x03#6 ++ d ++ 7#3, .one (b ++ c ++ 0#6))
def enc_clz (d : SReg) (b : SReg) : Parcel × Tail := (1#2 ++ 0x04#6 ++ d ++ 0#3, .one (b ++ 0#5 ++ 0#6))
def enc_ctz (d : SReg) (b : SReg) : Parcel × Tail := (1#2 ++ 0x04#6 ++ d ++ 1#3, .one (b ++ 0#5 ++ 0#6))
def enc_popc (d : SReg) (b : SReg) : Parcel × Tail := (1#2 ++ 0x04#6 ++ d ++ 2#3, .one (b ++ 0#5 ++ 0#6))
def enc_brev (d : SReg) (b : SReg) : Parcel × Tail := (1#2 ++ 0x04#6 ++ d ++ 3#3, .one (b ++ 0#5 ++ 0#6))
def enc_bswap (d : SReg) (b : SReg) : Parcel × Tail := (1#2 ++ 0x04#6 ++ d ++ 4#3, .one (b ++ 0#5 ++ 0#6))
def enc_rol (d : SReg) (b : SReg) (c : SReg) : Parcel × Tail := (1#2 ++ 0x04#6 ++ d ++ 5#3, .one (b ++ c ++ 0#6))
def enc_ror (d : SReg) (b : SReg) (c : SReg) : Parcel × Tail := (1#2 ++ 0x04#6 ++ d ++ 6#3, .one (b ++ c ++ 0#6))
def enc_ext (d : SReg) (b : SReg) (pos : BitVec 6) (lenM1 : BitVec 6) : Parcel × Tail := (2#2 ++ 0x04#6 ++ d ++ 0#3, .two (b ++ 0#5 ++ 0#5 ++ 0#1 ++ 0#4 ++ pos ++ lenM1))
def enc_extu (d : SReg) (b : SReg) (pos : BitVec 6) (lenM1 : BitVec 6) : Parcel × Tail := (2#2 ++ 0x04#6 ++ d ++ 1#3, .two (b ++ 0#5 ++ 0#5 ++ 0#1 ++ 0#4 ++ pos ++ lenM1))
def enc_ins (d : SReg) (b : SReg) (pos : BitVec 6) (lenM1 : BitVec 6) : Parcel × Tail := (2#2 ++ 0x04#6 ++ d ++ 2#3, .two (b ++ 0#5 ++ 0#5 ++ 0#1 ++ 0#4 ++ pos ++ lenM1))
def enc_li (d : SReg) (imm : BitVec 11) : Parcel × Tail := (1#2 ++ 0x05#6 ++ d ++ 0#3, .one (0#5 ++ imm))
def enc_liZ (d : SReg) (imm : BitVec 11) : Parcel × Tail := (1#2 ++ 0x05#6 ++ d ++ 1#3, .one (0#5 ++ imm))
def enc_liW (d : SReg) (imm : BitVec 16) : Parcel × Tail := (2#2 ++ 0x05#6 ++ d ++ 0#3, .two (0#5 ++ 0#5 ++ 0#5 ++ 0#1 ++ imm))
def enc_liZW (d : SReg) (imm : BitVec 16) : Parcel × Tail := (2#2 ++ 0x05#6 ++ d ++ 1#3, .two (0#5 ++ 0#5 ++ 0#5 ++ 0#1 ++ imm))
def enc_lih (d : SReg) (imm : BitVec 16) : Parcel × Tail := (2#2 ++ 0x05#6 ++ d ++ 2#3, .two (0#5 ++ 0#5 ++ 0#5 ++ 0#1 ++ imm))
def enc_liX0 (d : SReg) (imm : BitVec 48) : Parcel × Tail := (3#2 ++ 0x05#6 ++ d ++ 0#3, .three (imm))
def enc_liZX0 (d : SReg) (imm : BitVec 48) : Parcel × Tail := (3#2 ++ 0x05#6 ++ d ++ 1#3, .three (imm))
def enc_lea (d : SReg) (b : SReg) (imm : BitVec 11) : Parcel × Tail := (1#2 ++ 0x06#6 ++ d ++ 0#3, .one (b ++ imm))
def enc_leaW (d : SReg) (b : SReg) (imm : BitVec 16) : Parcel × Tail := (2#2 ++ 0x06#6 ++ d ++ 0#3, .two (b ++ 0#5 ++ 0#5 ++ 0#1 ++ imm))
def enc_leaX1 (n : BitVec 2) (d : SReg) (b : SReg) (c : SReg) (imm : BitVec 33) : Parcel × Tail := (3#2 ++ 0x06#6 ++ d ++ 0#1 ++ n, .three (b ++ c ++ 0#5 ++ imm))
def enc_mov (d : SReg) (b : SReg) : Parcel × Tail := (1#2 ++ 0x07#6 ++ d ++ 0#3, .one (b ++ 0#5 ++ 0#1 ++ 0#5))
def enc_sel (d : SReg) (b : SReg) (c : SReg) (k : SReg) : Parcel × Tail := (1#2 ++ 0x07#6 ++ d ++ 1#3, .one (b ++ c ++ 0#1 ++ k))
def enc_beqz (b : SReg) (off : BitVec 27) : Parcel × Tail := (2#2 ++ 0x08#6 ++ 0#5 ++ 0#3, .two (b ++ off))
def enc_bnez (b : SReg) (off : BitVec 27) : Parcel × Tail := (2#2 ++ 0x08#6 ++ 0#5 ++ 1#3, .two (b ++ off))
def enc_bltz (b : SReg) (off : BitVec 27) : Parcel × Tail := (2#2 ++ 0x08#6 ++ 0#5 ++ 2#3, .two (b ++ off))
def enc_bgez (b : SReg) (off : BitVec 27) : Parcel × Tail := (2#2 ++ 0x08#6 ++ 0#5 ++ 3#3, .two (b ++ off))
def enc_bgtz (b : SReg) (off : BitVec 27) : Parcel × Tail := (2#2 ++ 0x08#6 ++ 0#5 ++ 4#3, .two (b ++ off))
def enc_blez (b : SReg) (off : BitVec 27) : Parcel × Tail := (2#2 ++ 0x08#6 ++ 0#5 ++ 5#3, .two (b ++ off))
def enc_beq (b : SReg) (c : SReg) (off : BitVec 27) : Parcel × Tail := (3#2 ++ 0x09#6 ++ 0#5 ++ 0#3, .three (b ++ c ++ 0#5 ++ 0#6 ++ off))
def enc_bne (b : SReg) (c : SReg) (off : BitVec 27) : Parcel × Tail := (3#2 ++ 0x09#6 ++ 0#5 ++ 1#3, .three (b ++ c ++ 0#5 ++ 0#6 ++ off))
def enc_blt (b : SReg) (c : SReg) (off : BitVec 27) : Parcel × Tail := (3#2 ++ 0x09#6 ++ 0#5 ++ 2#3, .three (b ++ c ++ 0#5 ++ 0#6 ++ off))
def enc_bge (b : SReg) (c : SReg) (off : BitVec 27) : Parcel × Tail := (3#2 ++ 0x09#6 ++ 0#5 ++ 3#3, .three (b ++ c ++ 0#5 ++ 0#6 ++ off))
def enc_bltu (b : SReg) (c : SReg) (off : BitVec 27) : Parcel × Tail := (3#2 ++ 0x09#6 ++ 0#5 ++ 4#3, .three (b ++ c ++ 0#5 ++ 0#6 ++ off))
def enc_bgeu (b : SReg) (c : SReg) (off : BitVec 27) : Parcel × Tail := (3#2 ++ 0x09#6 ++ 0#5 ++ 5#3, .three (b ++ c ++ 0#5 ++ 0#6 ++ off))
def enc_br (off : BitVec 27) : Parcel × Tail := (2#2 ++ 0x0A#6 ++ 0#5 ++ 0#3, .two (0#5 ++ off))
def enc_call (off : BitVec 27) : Parcel × Tail := (2#2 ++ 0x0A#6 ++ 0#5 ++ 1#3, .two (0#5 ++ off))
def enc_dbnz (b : SReg) (off : BitVec 27) : Parcel × Tail := (2#2 ++ 0x0D#6 ++ 0#5 ++ 0#3, .two (b ++ off))
def enc_jt (l : BitVec 5) (b : SReg) (c : SReg) (nM1 : BitVec 6) : Parcel × Tail := (1#2 ++ 0x0B#6 ++ l ++ 0#3, .one (b ++ c ++ nM1))
def enc_callt (l : BitVec 5) (b : SReg) (c : SReg) (nM1 : BitVec 6) : Parcel × Tail := (1#2 ++ 0x0B#6 ++ l ++ 1#3, .one (b ++ c ++ nM1))
def enc_jtW (b : SReg) (c : SReg) (n : SReg) (l : BitVec 11) : Parcel × Tail := (2#2 ++ 0x0B#6 ++ 0#5 ++ 0#3, .two (b ++ c ++ n ++ 0#1 ++ 0#5 ++ l))
def enc_calltW (b : SReg) (c : SReg) (n : SReg) (l : BitVec 11) : Parcel × Tail := (2#2 ++ 0x0B#6 ++ 0#5 ++ 1#3, .two (b ++ c ++ n ++ 0#1 ++ 0#5 ++ l))
def enc_lpad (l : BitVec 11) : Parcel × Tail := (1#2 ++ 0x0C#6 ++ 0#5 ++ 0#3, .one (0#5 ++ l))
def enc_nop : Parcel × Tail := (0#2 ++ 0x0C#6 ++ 0#5 ++ 0#3, .none)
def enc_exit : Parcel × Tail := (0#2 ++ 0x0C#6 ++ 0#5 ++ 3#3, .none)
def enc_rets (f : SReg) : Parcel × Tail := (0#2 ++ 0x0C#6 ++ f ++ 2#3, .none)
def enc_ret : Parcel × Tail := (0#2 ++ 0x0C#6 ++ 0#5 ++ 1#3, .none)
def enc_trap (b : SReg) (code : BitVec 11) : Parcel × Tail := (1#2 ++ 0x0E#6 ++ 0#5 ++ 0#3, .one (b ++ code))
def enc_eret : Parcel × Tail := (0#2 ++ 0x0E#6 ++ 0#5 ++ 0#3, .none)
def enc_mfc (d : SReg) (n : BitVec 11) : Parcel × Tail := (1#2 ++ 0x0F#6 ++ d ++ 0#3, .one (0#5 ++ n))
def enc_mtc (s : SReg) (n : BitVec 11) : Parcel × Tail := (1#2 ++ 0x0F#6 ++ s ++ 1#3, .one (0#5 ++ n))
def enc_ld (d : SReg) (b : SReg) (imm : BitVec 11) : Parcel × Tail := (1#2 ++ 0x10#6 ++ d ++ 0#3, .one (b ++ imm))
def enc_lw (d : SReg) (b : SReg) (imm : BitVec 11) : Parcel × Tail := (1#2 ++ 0x10#6 ++ d ++ 1#3, .one (b ++ imm))
def enc_lwu (d : SReg) (b : SReg) (imm : BitVec 11) : Parcel × Tail := (1#2 ++ 0x10#6 ++ d ++ 2#3, .one (b ++ imm))
def enc_lh (d : SReg) (b : SReg) (imm : BitVec 11) : Parcel × Tail := (1#2 ++ 0x10#6 ++ d ++ 3#3, .one (b ++ imm))
def enc_lhu (d : SReg) (b : SReg) (imm : BitVec 11) : Parcel × Tail := (1#2 ++ 0x10#6 ++ d ++ 4#3, .one (b ++ imm))
def enc_lb (d : SReg) (b : SReg) (imm : BitVec 11) : Parcel × Tail := (1#2 ++ 0x10#6 ++ d ++ 5#3, .one (b ++ imm))
def enc_lbu (d : SReg) (b : SReg) (imm : BitVec 11) : Parcel × Tail := (1#2 ++ 0x10#6 ++ d ++ 6#3, .one (b ++ imm))
def enc_ldW (d : SReg) (b : SReg) (rx : BitVec 1) (imm : BitVec 16) : Parcel × Tail := (2#2 ++ 0x10#6 ++ d ++ 0#3, .two (b ++ 0#5 ++ 0#5 ++ rx ++ imm))
def enc_lwW (d : SReg) (b : SReg) (rx : BitVec 1) (imm : BitVec 16) : Parcel × Tail := (2#2 ++ 0x10#6 ++ d ++ 1#3, .two (b ++ 0#5 ++ 0#5 ++ rx ++ imm))
def enc_lwuW (d : SReg) (b : SReg) (rx : BitVec 1) (imm : BitVec 16) : Parcel × Tail := (2#2 ++ 0x10#6 ++ d ++ 2#3, .two (b ++ 0#5 ++ 0#5 ++ rx ++ imm))
def enc_lhW (d : SReg) (b : SReg) (rx : BitVec 1) (imm : BitVec 16) : Parcel × Tail := (2#2 ++ 0x10#6 ++ d ++ 3#3, .two (b ++ 0#5 ++ 0#5 ++ rx ++ imm))
def enc_lhuW (d : SReg) (b : SReg) (rx : BitVec 1) (imm : BitVec 16) : Parcel × Tail := (2#2 ++ 0x10#6 ++ d ++ 4#3, .two (b ++ 0#5 ++ 0#5 ++ rx ++ imm))
def enc_lbW (d : SReg) (b : SReg) (rx : BitVec 1) (imm : BitVec 16) : Parcel × Tail := (2#2 ++ 0x10#6 ++ d ++ 5#3, .two (b ++ 0#5 ++ 0#5 ++ rx ++ imm))
def enc_lbuW (d : SReg) (b : SReg) (rx : BitVec 1) (imm : BitVec 16) : Parcel × Tail := (2#2 ++ 0x10#6 ++ d ++ 6#3, .two (b ++ 0#5 ++ 0#5 ++ rx ++ imm))
def enc_ldX1 (d : SReg) (b : SReg) (c : SReg) (rx : BitVec 1) (imm : BitVec 32) : Parcel × Tail := (3#2 ++ 0x10#6 ++ d ++ 0#3, .three (b ++ c ++ 0#5 ++ rx ++ imm))
def enc_lwX1 (d : SReg) (b : SReg) (c : SReg) (rx : BitVec 1) (imm : BitVec 32) : Parcel × Tail := (3#2 ++ 0x10#6 ++ d ++ 1#3, .three (b ++ c ++ 0#5 ++ rx ++ imm))
def enc_lwuX1 (d : SReg) (b : SReg) (c : SReg) (rx : BitVec 1) (imm : BitVec 32) : Parcel × Tail := (3#2 ++ 0x10#6 ++ d ++ 2#3, .three (b ++ c ++ 0#5 ++ rx ++ imm))
def enc_lhX1 (d : SReg) (b : SReg) (c : SReg) (rx : BitVec 1) (imm : BitVec 32) : Parcel × Tail := (3#2 ++ 0x10#6 ++ d ++ 3#3, .three (b ++ c ++ 0#5 ++ rx ++ imm))
def enc_lhuX1 (d : SReg) (b : SReg) (c : SReg) (rx : BitVec 1) (imm : BitVec 32) : Parcel × Tail := (3#2 ++ 0x10#6 ++ d ++ 4#3, .three (b ++ c ++ 0#5 ++ rx ++ imm))
def enc_lbX1 (d : SReg) (b : SReg) (c : SReg) (rx : BitVec 1) (imm : BitVec 32) : Parcel × Tail := (3#2 ++ 0x10#6 ++ d ++ 5#3, .three (b ++ c ++ 0#5 ++ rx ++ imm))
def enc_lbuX1 (d : SReg) (b : SReg) (c : SReg) (rx : BitVec 1) (imm : BitVec 32) : Parcel × Tail := (3#2 ++ 0x10#6 ++ d ++ 6#3, .three (b ++ c ++ 0#5 ++ rx ++ imm))
def enc_st (a : SReg) (b : SReg) (imm : BitVec 11) : Parcel × Tail := (1#2 ++ 0x11#6 ++ a ++ 0#3, .one (b ++ imm))
def enc_sw (a : SReg) (b : SReg) (imm : BitVec 11) : Parcel × Tail := (1#2 ++ 0x11#6 ++ a ++ 1#3, .one (b ++ imm))
def enc_sh (a : SReg) (b : SReg) (imm : BitVec 11) : Parcel × Tail := (1#2 ++ 0x11#6 ++ a ++ 2#3, .one (b ++ imm))
def enc_sb (a : SReg) (b : SReg) (imm : BitVec 11) : Parcel × Tail := (1#2 ++ 0x11#6 ++ a ++ 3#3, .one (b ++ imm))
def enc_stW (a : SReg) (b : SReg) (rx : BitVec 1) (imm : BitVec 16) : Parcel × Tail := (2#2 ++ 0x11#6 ++ a ++ 0#3, .two (b ++ 0#5 ++ 0#5 ++ rx ++ imm))
def enc_swW (a : SReg) (b : SReg) (rx : BitVec 1) (imm : BitVec 16) : Parcel × Tail := (2#2 ++ 0x11#6 ++ a ++ 1#3, .two (b ++ 0#5 ++ 0#5 ++ rx ++ imm))
def enc_shW (a : SReg) (b : SReg) (rx : BitVec 1) (imm : BitVec 16) : Parcel × Tail := (2#2 ++ 0x11#6 ++ a ++ 2#3, .two (b ++ 0#5 ++ 0#5 ++ rx ++ imm))
def enc_sbW (a : SReg) (b : SReg) (rx : BitVec 1) (imm : BitVec 16) : Parcel × Tail := (2#2 ++ 0x11#6 ++ a ++ 3#3, .two (b ++ 0#5 ++ 0#5 ++ rx ++ imm))
def enc_stX1 (a : SReg) (b : SReg) (c : SReg) (rx : BitVec 1) (imm : BitVec 32) : Parcel × Tail := (3#2 ++ 0x11#6 ++ a ++ 0#3, .three (b ++ c ++ 0#5 ++ rx ++ imm))
def enc_swX1 (a : SReg) (b : SReg) (c : SReg) (rx : BitVec 1) (imm : BitVec 32) : Parcel × Tail := (3#2 ++ 0x11#6 ++ a ++ 1#3, .three (b ++ c ++ 0#5 ++ rx ++ imm))
def enc_shX1 (a : SReg) (b : SReg) (c : SReg) (rx : BitVec 1) (imm : BitVec 32) : Parcel × Tail := (3#2 ++ 0x11#6 ++ a ++ 2#3, .three (b ++ c ++ 0#5 ++ rx ++ imm))
def enc_sbX1 (a : SReg) (b : SReg) (c : SReg) (rx : BitVec 1) (imm : BitVec 32) : Parcel × Tail := (3#2 ++ 0x11#6 ++ a ++ 3#3, .three (b ++ c ++ 0#5 ++ rx ++ imm))
def enc_vld (vd : VReg) (b : SReg) (mk : BitVec 4) (ew : BitVec 2) : Parcel × Tail := (1#2 ++ 0x12#6 ++ vd ++ 0#3, .one (b ++ 0#5 ++ mk ++ ew))
def enc_vst (vd : VReg) (b : SReg) (mk : BitVec 4) (ew : BitVec 2) : Parcel × Tail := (1#2 ++ 0x12#6 ++ vd ++ 1#3, .one (b ++ 0#5 ++ mk ++ ew))
def enc_vlds (vd : VReg) (b : SReg) (c : SReg) (mk : BitVec 4) (ew : BitVec 2) : Parcel × Tail := (1#2 ++ 0x12#6 ++ vd ++ 2#3, .one (b ++ c ++ mk ++ ew))
def enc_vsts (vd : VReg) (b : SReg) (c : SReg) (mk : BitVec 4) (ew : BitVec 2) : Parcel × Tail := (1#2 ++ 0x12#6 ++ vd ++ 3#3, .one (b ++ c ++ mk ++ ew))
def enc_vldW (vd : VReg) (b : SReg) (mk : BitVec 4) (rx : BitVec 1) (ew : BitVec 2) (imm : BitVec 14) : Parcel × Tail := (2#2 ++ 0x12#6 ++ vd ++ 0#3, .two (b ++ 0#5 ++ mk ++ 0#1 ++ rx ++ ew ++ imm))
def enc_vstW (vd : VReg) (b : SReg) (mk : BitVec 4) (rx : BitVec 1) (ew : BitVec 2) (imm : BitVec 14) : Parcel × Tail := (2#2 ++ 0x12#6 ++ vd ++ 1#3, .two (b ++ 0#5 ++ mk ++ 0#1 ++ rx ++ ew ++ imm))
def enc_vldsW (vd : VReg) (b : SReg) (c : SReg) (mk : BitVec 4) (rx : BitVec 1) (ew : BitVec 2) (imm : BitVec 14) : Parcel × Tail := (2#2 ++ 0x12#6 ++ vd ++ 2#3, .two (b ++ c ++ mk ++ 0#1 ++ rx ++ ew ++ imm))
def enc_vstsW (vd : VReg) (b : SReg) (c : SReg) (mk : BitVec 4) (rx : BitVec 1) (ew : BitVec 2) (imm : BitVec 14) : Parcel × Tail := (2#2 ++ 0x12#6 ++ vd ++ 3#3, .two (b ++ c ++ mk ++ 0#1 ++ rx ++ ew ++ imm))
def enc_vldX1 (vd : VReg) (b : SReg) (mk : BitVec 4) (rx : BitVec 1) (ew : BitVec 2) (imm : BitVec 30) : Parcel × Tail := (3#2 ++ 0x12#6 ++ vd ++ 0#3, .three (b ++ 0#5 ++ mk ++ 0#1 ++ rx ++ ew ++ imm))
def enc_vstX1 (vd : VReg) (b : SReg) (mk : BitVec 4) (rx : BitVec 1) (ew : BitVec 2) (imm : BitVec 30) : Parcel × Tail := (3#2 ++ 0x12#6 ++ vd ++ 1#3, .three (b ++ 0#5 ++ mk ++ 0#1 ++ rx ++ ew ++ imm))
def enc_vldsX1 (vd : VReg) (b : SReg) (c : SReg) (mk : BitVec 4) (rx : BitVec 1) (ew : BitVec 2) (imm : BitVec 30) : Parcel × Tail := (3#2 ++ 0x12#6 ++ vd ++ 2#3, .three (b ++ c ++ mk ++ 0#1 ++ rx ++ ew ++ imm))
def enc_vstsX1 (vd : VReg) (b : SReg) (c : SReg) (mk : BitVec 4) (rx : BitVec 1) (ew : BitVec 2) (imm : BitVec 30) : Parcel × Tail := (3#2 ++ 0x12#6 ++ vd ++ 3#3, .three (b ++ c ++ mk ++ 0#1 ++ rx ++ ew ++ imm))
def enc_vgath (vd : VReg) (b : SReg) (c : VReg) (mk : BitVec 4) (x64 : BitVec 1) : Parcel × Tail := (1#2 ++ 0x13#6 ++ vd ++ 0#3, .one (b ++ c ++ mk ++ x64 ++ 0#1))
def enc_vscat (vd : VReg) (b : SReg) (c : VReg) (mk : BitVec 4) (x64 : BitVec 1) : Parcel × Tail := (1#2 ++ 0x13#6 ++ vd ++ 1#3, .one (b ++ c ++ mk ++ x64 ++ 0#1))
def enc_vgathW (vd : VReg) (b : SReg) (c : VReg) (mk : BitVec 4) (rx : BitVec 1) (x64 : BitVec 1) (sc : BitVec 2) : Parcel × Tail := (2#2 ++ 0x13#6 ++ vd ++ 0#3, .two (b ++ c ++ mk ++ 0#1 ++ rx ++ 0#13 ++ x64 ++ sc))
def enc_vscatW (vd : VReg) (b : SReg) (c : VReg) (mk : BitVec 4) (rx : BitVec 1) (x64 : BitVec 1) (sc : BitVec 2) : Parcel × Tail := (2#2 ++ 0x13#6 ++ vd ++ 1#3, .two (b ++ c ++ mk ++ 0#1 ++ rx ++ 0#13 ++ x64 ++ sc))
def enc_aadd (d : SReg) (b : SReg) (c : SReg) (w32 : BitVec 1) (rx : BitVec 1) : Parcel × Tail := (1#2 ++ 0x14#6 ++ d ++ 0#3, .one (b ++ c ++ w32 ++ rx ++ 0#2 ++ 0#2))
def enc_aand (d : SReg) (b : SReg) (c : SReg) (w32 : BitVec 1) (rx : BitVec 1) : Parcel × Tail := (1#2 ++ 0x14#6 ++ d ++ 1#3, .one (b ++ c ++ w32 ++ rx ++ 0#2 ++ 0#2))
def enc_aor (d : SReg) (b : SReg) (c : SReg) (w32 : BitVec 1) (rx : BitVec 1) : Parcel × Tail := (1#2 ++ 0x14#6 ++ d ++ 2#3, .one (b ++ c ++ w32 ++ rx ++ 0#2 ++ 0#2))
def enc_axor (d : SReg) (b : SReg) (c : SReg) (w32 : BitVec 1) (rx : BitVec 1) : Parcel × Tail := (1#2 ++ 0x14#6 ++ d ++ 3#3, .one (b ++ c ++ w32 ++ rx ++ 0#2 ++ 0#2))
def enc_aswp (d : SReg) (b : SReg) (c : SReg) (w32 : BitVec 1) (rx : BitVec 1) : Parcel × Tail := (1#2 ++ 0x14#6 ++ d ++ 4#3, .one (b ++ c ++ w32 ++ rx ++ 0#2 ++ 0#2))
def enc_acas (d : SReg) (b : SReg) (c : SReg) (w32 : BitVec 1) (rx : BitVec 1) : Parcel × Tail := (1#2 ++ 0x14#6 ++ d ++ 5#3, .one (b ++ c ++ w32 ++ rx ++ 0#2 ++ 0#2))
def enc_amin (d : SReg) (b : SReg) (c : SReg) (w32 : BitVec 1) (rx : BitVec 1) : Parcel × Tail := (1#2 ++ 0x14#6 ++ d ++ 6#3, .one (b ++ c ++ w32 ++ rx ++ 0#2 ++ 0#2))
def enc_amax (d : SReg) (b : SReg) (c : SReg) (w32 : BitVec 1) (rx : BitVec 1) : Parcel × Tail := (1#2 ++ 0x14#6 ++ d ++ 6#3, .one (b ++ c ++ w32 ++ rx ++ 0#2 ++ 1#2))
def enc_aminu (d : SReg) (b : SReg) (c : SReg) (w32 : BitVec 1) (rx : BitVec 1) : Parcel × Tail := (1#2 ++ 0x14#6 ++ d ++ 6#3, .one (b ++ c ++ w32 ++ rx ++ 0#2 ++ 2#2))
def enc_amaxu (d : SReg) (b : SReg) (c : SReg) (w32 : BitVec 1) (rx : BitVec 1) : Parcel × Tail := (1#2 ++ 0x14#6 ++ d ++ 6#3, .one (b ++ c ++ w32 ++ rx ++ 0#2 ++ 3#2))
def enc_afadd (d : SReg) (b : SReg) (c : SReg) (w32 : BitVec 1) (rx : BitVec 1) : Parcel × Tail := (1#2 ++ 0x14#6 ++ d ++ 7#3, .one (b ++ c ++ w32 ++ rx ++ 0#2 ++ 0#2))
def enc_aaddW (d : SReg) (b : SReg) (c : SReg) (w32 : BitVec 1) (rx : BitVec 1) (imm : BitVec 16) : Parcel × Tail := (2#2 ++ 0x14#6 ++ d ++ 0#3, .two (b ++ c ++ w32 ++ 0#2 ++ 0#2 ++ rx ++ imm))
def enc_aandW (d : SReg) (b : SReg) (c : SReg) (w32 : BitVec 1) (rx : BitVec 1) (imm : BitVec 16) : Parcel × Tail := (2#2 ++ 0x14#6 ++ d ++ 1#3, .two (b ++ c ++ w32 ++ 0#2 ++ 0#2 ++ rx ++ imm))
def enc_aorW (d : SReg) (b : SReg) (c : SReg) (w32 : BitVec 1) (rx : BitVec 1) (imm : BitVec 16) : Parcel × Tail := (2#2 ++ 0x14#6 ++ d ++ 2#3, .two (b ++ c ++ w32 ++ 0#2 ++ 0#2 ++ rx ++ imm))
def enc_axorW (d : SReg) (b : SReg) (c : SReg) (w32 : BitVec 1) (rx : BitVec 1) (imm : BitVec 16) : Parcel × Tail := (2#2 ++ 0x14#6 ++ d ++ 3#3, .two (b ++ c ++ w32 ++ 0#2 ++ 0#2 ++ rx ++ imm))
def enc_aswpW (d : SReg) (b : SReg) (c : SReg) (w32 : BitVec 1) (rx : BitVec 1) (imm : BitVec 16) : Parcel × Tail := (2#2 ++ 0x14#6 ++ d ++ 4#3, .two (b ++ c ++ w32 ++ 0#2 ++ 0#2 ++ rx ++ imm))
def enc_acasW (d : SReg) (b : SReg) (c : SReg) (w32 : BitVec 1) (rx : BitVec 1) (imm : BitVec 16) : Parcel × Tail := (2#2 ++ 0x14#6 ++ d ++ 5#3, .two (b ++ c ++ w32 ++ 0#2 ++ 0#2 ++ rx ++ imm))
def enc_aminW (d : SReg) (b : SReg) (c : SReg) (w32 : BitVec 1) (rx : BitVec 1) (imm : BitVec 16) : Parcel × Tail := (2#2 ++ 0x14#6 ++ d ++ 6#3, .two (b ++ c ++ w32 ++ 0#2 ++ 0#2 ++ rx ++ imm))
def enc_amaxW (d : SReg) (b : SReg) (c : SReg) (w32 : BitVec 1) (rx : BitVec 1) (imm : BitVec 16) : Parcel × Tail := (2#2 ++ 0x14#6 ++ d ++ 6#3, .two (b ++ c ++ w32 ++ 0#2 ++ 1#2 ++ rx ++ imm))
def enc_aminuW (d : SReg) (b : SReg) (c : SReg) (w32 : BitVec 1) (rx : BitVec 1) (imm : BitVec 16) : Parcel × Tail := (2#2 ++ 0x14#6 ++ d ++ 6#3, .two (b ++ c ++ w32 ++ 0#2 ++ 2#2 ++ rx ++ imm))
def enc_amaxuW (d : SReg) (b : SReg) (c : SReg) (w32 : BitVec 1) (rx : BitVec 1) (imm : BitVec 16) : Parcel × Tail := (2#2 ++ 0x14#6 ++ d ++ 6#3, .two (b ++ c ++ w32 ++ 0#2 ++ 3#2 ++ rx ++ imm))
def enc_afaddW (d : SReg) (b : SReg) (c : SReg) (w32 : BitVec 1) (rx : BitVec 1) (imm : BitVec 16) : Parcel × Tail := (2#2 ++ 0x14#6 ++ d ++ 7#3, .two (b ++ c ++ w32 ++ 0#2 ++ 0#2 ++ rx ++ imm))
def enc_tatsw (t : BitVec 2) : Parcel × Tail := (0#2 ++ 0x15#6 ++ 0#3 ++ t ++ 0#3, .none)
def enc_tget (d : SReg) (b : SReg) : Parcel × Tail := (1#2 ++ 0x15#6 ++ d ++ 0#3, .one (b ++ 0#5 ++ 0#6))
def enc_tset (b : SReg) (c : SReg) : Parcel × Tail := (1#2 ++ 0x15#6 ++ 0#5 ++ 1#3, .one (b ++ c ++ 0#1 ++ 0#2 ++ 0#3))
def enc_tsetImm (b : SReg) (t : BitVec 3) : Parcel × Tail := (1#2 ++ 0x15#6 ++ 0#5 ++ 1#3, .one (b ++ 0#5 ++ 1#1 ++ 0#2 ++ t))
def enc_tcas (d : SReg) (b : SReg) (c : SReg) : Parcel × Tail := (1#2 ++ 0x15#6 ++ d ++ 2#3, .one (b ++ c ++ 0#6))
def enc_tatld (t : BitVec 2) (b : SReg) : Parcel × Tail := (1#2 ++ 0x15#6 ++ 0#3 ++ t ++ 3#3, .one (b ++ 0#5 ++ 0#6))
def enc_rmset (t : BitVec 2) (k : BitVec 6) : Parcel × Tail := (1#2 ++ 0x15#6 ++ 0#3 ++ t ++ 4#3, .one (0#5 ++ 0#5 ++ k))
def enc_fence (sc : BitVec 3) : Parcel × Tail := (0#2 ++ 0x16#6 ++ 0#2 ++ sc ++ 0#3, .none)
def enc_bar (sc : BitVec 3) : Parcel × Tail := (0#2 ++ 0x16#6 ++ 0#2 ++ sc ++ 1#3, .none)
def enc_bara (sc : BitVec 3) : Parcel × Tail := (0#2 ++ 0x16#6 ++ 0#2 ++ sc ++ 2#3, .none)
def enc_barw (sc : BitVec 3) : Parcel × Tail := (0#2 ++ 0x16#6 ++ 0#2 ++ sc ++ 3#3, .none)
def enc_xfence (p : BitVec 3) (q : BitVec 3) : Parcel × Tail := (1#2 ++ 0x16#6 ++ 0#5 ++ 0#3, .one (0#5 ++ 0#5 ++ p ++ q))
def enc_sbinit (b : SReg) (c : SReg) : Parcel × Tail := (1#2 ++ 0x17#6 ++ 0#5 ++ 0#3, .one (b ++ c ++ 0#6))
def enc_sbarv (d : SReg) (b : SReg) (sc : BitVec 3) : Parcel × Tail := (1#2 ++ 0x17#6 ++ d ++ 1#3, .one (b ++ 0#5 ++ 0#3 ++ sc))
def enc_sbwait (d : SReg) (b : SReg) (c : SReg) : Parcel × Tail := (1#2 ++ 0x17#6 ++ d ++ 2#3, .one (b ++ c ++ 0#6))
def enc_sbtest (d : SReg) (b : SReg) (c : SReg) : Parcel × Tail := (1#2 ++ 0x17#6 ++ d ++ 3#3, .one (b ++ c ++ 0#6))
def enc_waitTag (b : SReg) (t : BitVec 3) : Parcel × Tail := (1#2 ++ 0x17#6 ++ 0#5 ++ 4#3, .one (b ++ 0#5 ++ 0#3 ++ t))
def enc_dqlen (d : SReg) : Parcel × Tail := (0#2 ++ 0x18#6 ++ d ++ 0#3, .none)
def enc_joinWord (b : SReg) : Parcel × Tail := (1#2 ++ 0x18#6 ++ 0#5 ++ 0#3, .one (b ++ 0#5 ++ 0#6))
def enc_steal (d : SReg) (b : SReg) (t : BitVec 3) : Parcel × Tail := (1#2 ++ 0x18#6 ++ d ++ 1#3, .one (b ++ 0#5 ++ 0#3 ++ t))
def enc_pcon (b : SReg) (fl : BitVec 4) : Parcel × Tail := (1#2 ++ 0x18#6 ++ 0#5 ++ 2#3, .one (b ++ 0#5 ++ 0#2 ++ fl))
def enc_flushi (b : SReg) (c : SReg) (sc : BitVec 3) : Parcel × Tail := (1#2 ++ 0x18#6 ++ 0#5 ++ 3#3, .one (b ++ c ++ 0#3 ++ sc))
def enc_spawn (b : SReg) (off : BitVec 27) : Parcel × Tail := (2#2 ++ 0x18#6 ++ 0#5 ++ 0#3, .two (b ++ off))
def enc_vadd (d : VReg) (b : VReg) (c : VReg) (mk : BitVec 4) (t : BitVec 2) : Parcel × Tail := (1#2 ++ 0x20#6 ++ d ++ 0#3, .one (b ++ c ++ mk ++ t))
def enc_vsub (d : VReg) (b : VReg) (c : VReg) (mk : BitVec 4) (t : BitVec 2) : Parcel × Tail := (1#2 ++ 0x20#6 ++ d ++ 1#3, .one (b ++ c ++ mk ++ t))
def enc_vmul (d : VReg) (b : VReg) (c : VReg) (mk : BitVec 4) (t : BitVec 2) : Parcel × Tail := (1#2 ++ 0x20#6 ++ d ++ 2#3, .one (b ++ c ++ mk ++ t))
def enc_vmulh (d : VReg) (b : VReg) (c : VReg) (mk : BitVec 4) (t : BitVec 2) : Parcel × Tail := (1#2 ++ 0x20#6 ++ d ++ 3#3, .one (b ++ c ++ mk ++ t))
def enc_vmin (d : VReg) (b : VReg) (c : VReg) (mk : BitVec 4) (t : BitVec 2) : Parcel × Tail := (1#2 ++ 0x20#6 ++ d ++ 4#3, .one (b ++ c ++ mk ++ t))
def enc_vmax (d : VReg) (b : VReg) (c : VReg) (mk : BitVec 4) (t : BitVec 2) : Parcel × Tail := (1#2 ++ 0x20#6 ++ d ++ 5#3, .one (b ++ c ++ mk ++ t))
def enc_vminu (d : VReg) (b : VReg) (c : VReg) (mk : BitVec 4) (t : BitVec 2) : Parcel × Tail := (1#2 ++ 0x20#6 ++ d ++ 6#3, .one (b ++ c ++ mk ++ t))
def enc_vmaxu (d : VReg) (b : VReg) (c : VReg) (mk : BitVec 4) (t : BitVec 2) : Parcel × Tail := (1#2 ++ 0x20#6 ++ d ++ 7#3, .one (b ++ c ++ mk ++ t))
def enc_vaddW (d : VReg) (b : VReg) (c : VReg) (z : BitVec 1) (mk : BitVec 4) (t : BitVec 2) (sat : BitVec 2) : Parcel × Tail := (2#2 ++ 0x20#6 ++ d ++ 0#3, .two (b ++ c ++ 0#5 ++ z ++ mk ++ t ++ 0#3 ++ sat ++ 0#2 ++ 0#3))
def enc_vsubW (d : VReg) (b : VReg) (c : VReg) (z : BitVec 1) (mk : BitVec 4) (t : BitVec 2) (sat : BitVec 2) : Parcel × Tail := (2#2 ++ 0x20#6 ++ d ++ 1#3, .two (b ++ c ++ 0#5 ++ z ++ mk ++ t ++ 0#3 ++ sat ++ 0#2 ++ 0#3))
def enc_vmulW (d : VReg) (b : VReg) (c : VReg) (z : BitVec 1) (mk : BitVec 4) (t : BitVec 2) (sat : BitVec 2) : Parcel × Tail := (2#2 ++ 0x20#6 ++ d ++ 2#3, .two (b ++ c ++ 0#5 ++ z ++ mk ++ t ++ 0#3 ++ sat ++ 0#2 ++ 0#3))
def enc_vmulhW (d : VReg) (b : VReg) (c : VReg) (z : BitVec 1) (mk : BitVec 4) (t : BitVec 2) : Parcel × Tail := (2#2 ++ 0x20#6 ++ d ++ 3#3, .two (b ++ c ++ 0#5 ++ z ++ mk ++ t ++ 0#3 ++ 0#2 ++ 0#2 ++ 0#3))
def enc_vminW (d : VReg) (b : VReg) (c : VReg) (z : BitVec 1) (mk : BitVec 4) (t : BitVec 2) : Parcel × Tail := (2#2 ++ 0x20#6 ++ d ++ 4#3, .two (b ++ c ++ 0#5 ++ z ++ mk ++ t ++ 0#3 ++ 0#2 ++ 0#2 ++ 0#3))
def enc_vmaxW (d : VReg) (b : VReg) (c : VReg) (z : BitVec 1) (mk : BitVec 4) (t : BitVec 2) : Parcel × Tail := (2#2 ++ 0x20#6 ++ d ++ 5#3, .two (b ++ c ++ 0#5 ++ z ++ mk ++ t ++ 0#3 ++ 0#2 ++ 0#2 ++ 0#3))
def enc_vminuW (d : VReg) (b : VReg) (c : VReg) (z : BitVec 1) (mk : BitVec 4) (t : BitVec 2) : Parcel × Tail := (2#2 ++ 0x20#6 ++ d ++ 6#3, .two (b ++ c ++ 0#5 ++ z ++ mk ++ t ++ 0#3 ++ 0#2 ++ 0#2 ++ 0#3))
def enc_vmaxuW (d : VReg) (b : VReg) (c : VReg) (z : BitVec 1) (mk : BitVec 4) (t : BitVec 2) : Parcel × Tail := (2#2 ++ 0x20#6 ++ d ++ 7#3, .two (b ++ c ++ 0#5 ++ z ++ mk ++ t ++ 0#3 ++ 0#2 ++ 0#2 ++ 0#3))
def enc_vand (d : VReg) (b : VReg) (c : VReg) (z : BitVec 1) (mk : BitVec 4) (t : BitVec 2) : Parcel × Tail := (2#2 ++ 0x20#6 ++ d ++ 0#3, .two (b ++ c ++ 0#5 ++ z ++ mk ++ t ++ 0#3 ++ 0#2 ++ 1#2 ++ 0#3))
def enc_vor (d : VReg) (b : VReg) (c : VReg) (z : BitVec 1) (mk : BitVec 4) (t : BitVec 2) : Parcel × Tail := (2#2 ++ 0x20#6 ++ d ++ 1#3, .two (b ++ c ++ 0#5 ++ z ++ mk ++ t ++ 0#3 ++ 0#2 ++ 1#2 ++ 0#3))
def enc_vxor (d : VReg) (b : VReg) (c : VReg) (z : BitVec 1) (mk : BitVec 4) (t : BitVec 2) : Parcel × Tail := (2#2 ++ 0x20#6 ++ d ++ 2#3, .two (b ++ c ++ 0#5 ++ z ++ mk ++ t ++ 0#3 ++ 0#2 ++ 1#2 ++ 0#3))
def enc_vsll (d : VReg) (b : VReg) (c : VReg) (z : BitVec 1) (mk : BitVec 4) (t : BitVec 2) : Parcel × Tail := (2#2 ++ 0x20#6 ++ d ++ 3#3, .two (b ++ c ++ 0#5 ++ z ++ mk ++ t ++ 0#3 ++ 0#2 ++ 1#2 ++ 0#3))
def enc_vsrl (d : VReg) (b : VReg) (c : VReg) (z : BitVec 1) (mk : BitVec 4) (t : BitVec 2) : Parcel × Tail := (2#2 ++ 0x20#6 ++ d ++ 4#3, .two (b ++ c ++ 0#5 ++ z ++ mk ++ t ++ 0#3 ++ 0#2 ++ 1#2 ++ 0#3))
def enc_vsra (d : VReg) (b : VReg) (c : VReg) (z : BitVec 1) (mk : BitVec 4) (t : BitVec 2) : Parcel × Tail := (2#2 ++ 0x20#6 ++ d ++ 5#3, .two (b ++ c ++ 0#5 ++ z ++ mk ++ t ++ 0#3 ++ 0#2 ++ 1#2 ++ 0#3))
def enc_vmulhu (d : VReg) (b : VReg) (c : VReg) (z : BitVec 1) (mk : BitVec 4) (t : BitVec 2) : Parcel × Tail := (2#2 ++ 0x20#6 ++ d ++ 6#3, .two (b ++ c ++ 0#5 ++ z ++ mk ++ t ++ 0#3 ++ 0#2 ++ 1#2 ++ 0#3))
def enc_vabs (d : VReg) (b : VReg) (mk : BitVec 4) (t : BitVec 2) (sat : BitVec 2) : Parcel × Tail := (2#2 ++ 0x20#6 ++ d ++ 7#3, .two (b ++ 0#5 ++ 0#5 ++ 0#1 ++ mk ++ t ++ 0#3 ++ sat ++ 1#2 ++ 0#3))
def enc_vfadd (d : VReg) (b : VReg) (c : VReg) (mk : BitVec 4) (t : BitVec 2) : Parcel × Tail := (1#2 ++ 0x21#6 ++ d ++ 0#3, .one (b ++ c ++ mk ++ t))
def enc_vfsub (d : VReg) (b : VReg) (c : VReg) (mk : BitVec 4) (t : BitVec 2) : Parcel × Tail := (1#2 ++ 0x21#6 ++ d ++ 1#3, .one (b ++ c ++ mk ++ t))
def enc_vfmul (d : VReg) (b : VReg) (c : VReg) (mk : BitVec 4) (t : BitVec 2) : Parcel × Tail := (1#2 ++ 0x21#6 ++ d ++ 2#3, .one (b ++ c ++ mk ++ t))
def enc_vfdiv (d : VReg) (b : VReg) (c : VReg) (mk : BitVec 4) (t : BitVec 2) : Parcel × Tail := (1#2 ++ 0x21#6 ++ d ++ 3#3, .one (b ++ c ++ mk ++ t))
def enc_vfmin (d : VReg) (b : VReg) (c : VReg) (mk : BitVec 4) (t : BitVec 2) : Parcel × Tail := (1#2 ++ 0x21#6 ++ d ++ 4#3, .one (b ++ c ++ mk ++ t))
def enc_vfmax (d : VReg) (b : VReg) (c : VReg) (mk : BitVec 4) (t : BitVec 2) : Parcel × Tail := (1#2 ++ 0x21#6 ++ d ++ 5#3, .one (b ++ c ++ mk ++ t))
def enc_vfsqrt (d : VReg) (b : VReg) (mk : BitVec 4) (t : BitVec 2) : Parcel × Tail := (1#2 ++ 0x21#6 ++ d ++ 6#3, .one (b ++ 0#5 ++ mk ++ t))
def enc_vfaddW (d : VReg) (b : VReg) (c : VReg) (z : BitVec 1) (mk : BitVec 4) (t : BitVec 2) (rm : BitVec 3) : Parcel × Tail := (2#2 ++ 0x21#6 ++ d ++ 0#3, .two (b ++ c ++ 0#5 ++ z ++ mk ++ t ++ rm ++ 0#2 ++ 0#2 ++ 0#3))
def enc_vfsubW (d : VReg) (b : VReg) (c : VReg) (z : BitVec 1) (mk : BitVec 4) (t : BitVec 2) (rm : BitVec 3) : Parcel × Tail := (2#2 ++ 0x21#6 ++ d ++ 1#3, .two (b ++ c ++ 0#5 ++ z ++ mk ++ t ++ rm ++ 0#2 ++ 0#2 ++ 0#3))
def enc_vfmulW (d : VReg) (b : VReg) (c : VReg) (z : BitVec 1) (mk : BitVec 4) (t : BitVec 2) (rm : BitVec 3) : Parcel × Tail := (2#2 ++ 0x21#6 ++ d ++ 2#3, .two (b ++ c ++ 0#5 ++ z ++ mk ++ t ++ rm ++ 0#2 ++ 0#2 ++ 0#3))
def enc_vfdivW (d : VReg) (b : VReg) (c : VReg) (z : BitVec 1) (mk : BitVec 4) (t : BitVec 2) (rm : BitVec 3) : Parcel × Tail := (2#2 ++ 0x21#6 ++ d ++ 3#3, .two (b ++ c ++ 0#5 ++ z ++ mk ++ t ++ rm ++ 0#2 ++ 0#2 ++ 0#3))
def enc_vfminW (d : VReg) (b : VReg) (c : VReg) (z : BitVec 1) (mk : BitVec 4) (t : BitVec 2) (rm : BitVec 3) : Parcel × Tail := (2#2 ++ 0x21#6 ++ d ++ 4#3, .two (b ++ c ++ 0#5 ++ z ++ mk ++ t ++ rm ++ 0#2 ++ 0#2 ++ 0#3))
def enc_vfmaxW (d : VReg) (b : VReg) (c : VReg) (z : BitVec 1) (mk : BitVec 4) (t : BitVec 2) (rm : BitVec 3) : Parcel × Tail := (2#2 ++ 0x21#6 ++ d ++ 5#3, .two (b ++ c ++ 0#5 ++ z ++ mk ++ t ++ rm ++ 0#2 ++ 0#2 ++ 0#3))
def enc_vfsqrtW (d : VReg) (b : VReg) (mk : BitVec 4) (t : BitVec 2) (rm : BitVec 3) : Parcel × Tail := (2#2 ++ 0x21#6 ++ d ++ 6#3, .two (b ++ 0#5 ++ 0#5 ++ 0#1 ++ mk ++ t ++ rm ++ 0#2 ++ 0#2 ++ 0#3))
def enc_vfneg (d : VReg) (b : VReg) (mk : BitVec 4) (t : BitVec 2) (rm : BitVec 3) : Parcel × Tail := (2#2 ++ 0x21#6 ++ d ++ 0#3, .two (b ++ 0#5 ++ 0#5 ++ 0#1 ++ mk ++ t ++ rm ++ 0#2 ++ 1#2 ++ 0#3))
def enc_vfabs (d : VReg) (b : VReg) (mk : BitVec 4) (t : BitVec 2) (rm : BitVec 3) : Parcel × Tail := (2#2 ++ 0x21#6 ++ d ++ 1#3, .two (b ++ 0#5 ++ 0#5 ++ 0#1 ++ mk ++ t ++ rm ++ 0#2 ++ 1#2 ++ 0#3))
def enc_vfma (d : VReg) (b : VReg) (c : VReg) (mk : BitVec 4) (t : BitVec 2) : Parcel × Tail := (1#2 ++ 0x22#6 ++ d ++ 0#3, .one (b ++ c ++ mk ++ t))
def enc_vfms (d : VReg) (b : VReg) (c : VReg) (mk : BitVec 4) (t : BitVec 2) : Parcel × Tail := (1#2 ++ 0x22#6 ++ d ++ 1#3, .one (b ++ c ++ mk ++ t))
def enc_vfnma (d : VReg) (b : VReg) (c : VReg) (mk : BitVec 4) (t : BitVec 2) : Parcel × Tail := (1#2 ++ 0x22#6 ++ d ++ 2#3, .one (b ++ c ++ mk ++ t))
def enc_vfnms (d : VReg) (b : VReg) (c : VReg) (mk : BitVec 4) (t : BitVec 2) : Parcel × Tail := (1#2 ++ 0x22#6 ++ d ++ 3#3, .one (b ++ c ++ mk ++ t))
def enc_vmac (d : VReg) (b : VReg) (c : VReg) (mk : BitVec 4) (t : BitVec 2) : Parcel × Tail := (1#2 ++ 0x22#6 ++ d ++ 4#3, .one (b ++ c ++ mk ++ t))
def enc_vdot (d : VReg) (b : VReg) (c : VReg) (mk : BitVec 4) (t : BitVec 2) : Parcel × Tail := (1#2 ++ 0x22#6 ++ d ++ 5#3, .one (b ++ c ++ mk ++ t))
def enc_vdotu (d : VReg) (b : VReg) (c : VReg) (mk : BitVec 4) (t : BitVec 2) : Parcel × Tail := (1#2 ++ 0x22#6 ++ d ++ 6#3, .one (b ++ c ++ mk ++ t))
def enc_vfmaW (d : VReg) (b : VReg) (c : VReg) (e : VReg) (z : BitVec 1) (mk : BitVec 4) (t : BitVec 2) (rm : BitVec 3) : Parcel × Tail := (2#2 ++ 0x22#6 ++ d ++ 0#3, .two (b ++ c ++ e ++ z ++ mk ++ t ++ rm ++ 0#2 ++ 0#2 ++ 0#3))
def enc_vfmsW (d : VReg) (b : VReg) (c : VReg) (e : VReg) (z : BitVec 1) (mk : BitVec 4) (t : BitVec 2) (rm : BitVec 3) : Parcel × Tail := (2#2 ++ 0x22#6 ++ d ++ 1#3, .two (b ++ c ++ e ++ z ++ mk ++ t ++ rm ++ 0#2 ++ 0#2 ++ 0#3))
def enc_vfnmaW (d : VReg) (b : VReg) (c : VReg) (e : VReg) (z : BitVec 1) (mk : BitVec 4) (t : BitVec 2) (rm : BitVec 3) : Parcel × Tail := (2#2 ++ 0x22#6 ++ d ++ 2#3, .two (b ++ c ++ e ++ z ++ mk ++ t ++ rm ++ 0#2 ++ 0#2 ++ 0#3))
def enc_vfnmsW (d : VReg) (b : VReg) (c : VReg) (e : VReg) (z : BitVec 1) (mk : BitVec 4) (t : BitVec 2) (rm : BitVec 3) : Parcel × Tail := (2#2 ++ 0x22#6 ++ d ++ 3#3, .two (b ++ c ++ e ++ z ++ mk ++ t ++ rm ++ 0#2 ++ 0#2 ++ 0#3))
def enc_vmacW (d : VReg) (b : VReg) (c : VReg) (e : VReg) (z : BitVec 1) (mk : BitVec 4) (t : BitVec 2) (sat : BitVec 2) : Parcel × Tail := (2#2 ++ 0x22#6 ++ d ++ 4#3, .two (b ++ c ++ e ++ z ++ mk ++ t ++ 0#3 ++ sat ++ 0#2 ++ 0#3))
def enc_vdotW (d : VReg) (b : VReg) (c : VReg) (e : VReg) (z : BitVec 1) (mk : BitVec 4) (t : BitVec 2) (sat : BitVec 2) : Parcel × Tail := (2#2 ++ 0x22#6 ++ d ++ 5#3, .two (b ++ c ++ e ++ z ++ mk ++ t ++ 0#3 ++ sat ++ 0#2 ++ 0#3))
def enc_vdotuW (d : VReg) (b : VReg) (c : VReg) (e : VReg) (z : BitVec 1) (mk : BitVec 4) (t : BitVec 2) (sat : BitVec 2) : Parcel × Tail := (2#2 ++ 0x22#6 ++ d ++ 6#3, .two (b ++ c ++ e ++ z ++ mk ++ t ++ 0#3 ++ sat ++ 0#2 ++ 0#3))
def enc_vseq (d : VReg) (b : VReg) (c : VReg) (mk : BitVec 4) (t : BitVec 2) : Parcel × Tail := (1#2 ++ 0x23#6 ++ d ++ 0#3, .one (b ++ c ++ mk ++ t))
def enc_vsne (d : VReg) (b : VReg) (c : VReg) (mk : BitVec 4) (t : BitVec 2) : Parcel × Tail := (1#2 ++ 0x23#6 ++ d ++ 1#3, .one (b ++ c ++ mk ++ t))
def enc_vslt (d : VReg) (b : VReg) (c : VReg) (mk : BitVec 4) (t : BitVec 2) : Parcel × Tail := (1#2 ++ 0x23#6 ++ d ++ 2#3, .one (b ++ c ++ mk ++ t))
def enc_vsle (d : VReg) (b : VReg) (c : VReg) (mk : BitVec 4) (t : BitVec 2) : Parcel × Tail := (1#2 ++ 0x23#6 ++ d ++ 3#3, .one (b ++ c ++ mk ++ t))
def enc_vsltu (d : VReg) (b : VReg) (c : VReg) (mk : BitVec 4) (t : BitVec 2) : Parcel × Tail := (1#2 ++ 0x23#6 ++ d ++ 4#3, .one (b ++ c ++ mk ++ t))
def enc_vsleu (d : VReg) (b : VReg) (c : VReg) (mk : BitVec 4) (t : BitVec 2) : Parcel × Tail := (1#2 ++ 0x23#6 ++ d ++ 5#3, .one (b ++ c ++ mk ++ t))
def enc_vseqW (d : VReg) (b : VReg) (c : VReg) (z : BitVec 1) (mk : BitVec 4) (t : BitVec 2) : Parcel × Tail := (2#2 ++ 0x23#6 ++ d ++ 0#3, .two (b ++ c ++ 0#5 ++ z ++ mk ++ t ++ 0#3 ++ 0#2 ++ 0#2 ++ 0#3))
def enc_vsneW (d : VReg) (b : VReg) (c : VReg) (z : BitVec 1) (mk : BitVec 4) (t : BitVec 2) : Parcel × Tail := (2#2 ++ 0x23#6 ++ d ++ 1#3, .two (b ++ c ++ 0#5 ++ z ++ mk ++ t ++ 0#3 ++ 0#2 ++ 0#2 ++ 0#3))
def enc_vsltW (d : VReg) (b : VReg) (c : VReg) (z : BitVec 1) (mk : BitVec 4) (t : BitVec 2) : Parcel × Tail := (2#2 ++ 0x23#6 ++ d ++ 2#3, .two (b ++ c ++ 0#5 ++ z ++ mk ++ t ++ 0#3 ++ 0#2 ++ 0#2 ++ 0#3))
def enc_vsleW (d : VReg) (b : VReg) (c : VReg) (z : BitVec 1) (mk : BitVec 4) (t : BitVec 2) : Parcel × Tail := (2#2 ++ 0x23#6 ++ d ++ 3#3, .two (b ++ c ++ 0#5 ++ z ++ mk ++ t ++ 0#3 ++ 0#2 ++ 0#2 ++ 0#3))
def enc_vsltuW (d : VReg) (b : VReg) (c : VReg) (z : BitVec 1) (mk : BitVec 4) (t : BitVec 2) : Parcel × Tail := (2#2 ++ 0x23#6 ++ d ++ 4#3, .two (b ++ c ++ 0#5 ++ z ++ mk ++ t ++ 0#3 ++ 0#2 ++ 0#2 ++ 0#3))
def enc_vsleuW (d : VReg) (b : VReg) (c : VReg) (z : BitVec 1) (mk : BitVec 4) (t : BitVec 2) : Parcel × Tail := (2#2 ++ 0x23#6 ++ d ++ 5#3, .two (b ++ c ++ 0#5 ++ z ++ mk ++ t ++ 0#3 ++ 0#2 ++ 0#2 ++ 0#3))
def enc_vfeq (d : VReg) (b : VReg) (c : VReg) (z : BitVec 1) (mk : BitVec 4) (t : BitVec 2) : Parcel × Tail := (2#2 ++ 0x23#6 ++ d ++ 0#3, .two (b ++ c ++ 0#5 ++ z ++ mk ++ t ++ 0#3 ++ 0#2 ++ 1#2 ++ 0#3))
def enc_vfne (d : VReg) (b : VReg) (c : VReg) (z : BitVec 1) (mk : BitVec 4) (t : BitVec 2) : Parcel × Tail := (2#2 ++ 0x23#6 ++ d ++ 1#3, .two (b ++ c ++ 0#5 ++ z ++ mk ++ t ++ 0#3 ++ 0#2 ++ 1#2 ++ 0#3))
def enc_vflt (d : VReg) (b : VReg) (c : VReg) (z : BitVec 1) (mk : BitVec 4) (t : BitVec 2) : Parcel × Tail := (2#2 ++ 0x23#6 ++ d ++ 2#3, .two (b ++ c ++ 0#5 ++ z ++ mk ++ t ++ 0#3 ++ 0#2 ++ 1#2 ++ 0#3))
def enc_vfle (d : VReg) (b : VReg) (c : VReg) (z : BitVec 1) (mk : BitVec 4) (t : BitVec 2) : Parcel × Tail := (2#2 ++ 0x23#6 ++ d ++ 3#3, .two (b ++ c ++ 0#5 ++ z ++ mk ++ t ++ 0#3 ++ 0#2 ++ 1#2 ++ 0#3))
def enc_vfun (d : VReg) (b : VReg) (c : VReg) (z : BitVec 1) (mk : BitVec 4) (t : BitVec 2) : Parcel × Tail := (2#2 ++ 0x23#6 ++ d ++ 4#3, .two (b ++ c ++ 0#5 ++ z ++ mk ++ t ++ 0#3 ++ 0#2 ++ 1#2 ++ 0#3))
def enc_vmov (d : VReg) (b : VReg) (mk : BitVec 4) (t : BitVec 2) : Parcel × Tail := (1#2 ++ 0x24#6 ++ d ++ 0#3, .one (b ++ 0#5 ++ mk ++ t))
def enc_vbcast (d : VReg) (c : SReg) (mk : BitVec 4) (t : BitVec 2) : Parcel × Tail := (1#2 ++ 0x24#6 ++ d ++ 1#3, .one (0#5 ++ c ++ mk ++ t))
def enc_vsldn (d : VReg) (b : VReg) (c : SReg) (mk : BitVec 4) (t : BitVec 2) : Parcel × Tail := (1#2 ++ 0x24#6 ++ d ++ 2#3, .one (b ++ c ++ mk ++ t))
def enc_vslup (d : VReg) (b : VReg) (c : SReg) (mk : BitVec 4) (t : BitVec 2) : Parcel × Tail := (1#2 ++ 0x24#6 ++ d ++ 3#3, .one (b ++ c ++ mk ++ t))
def enc_vperm (d : VReg) (b : VReg) (c : VReg) (mk : BitVec 4) (t : BitVec 2) : Parcel × Tail := (1#2 ++ 0x24#6 ++ d ++ 4#3, .one (b ++ c ++ mk ++ t))
def enc_vins (d : VReg) (b : SReg) (c : SReg) (mk : BitVec 4) (t : BitVec 2) : Parcel × Tail := (1#2 ++ 0x24#6 ++ d ++ 5#3, .one (b ++ c ++ mk ++ t))
def enc_vext (d : SReg) (b : VReg) (c : SReg) (t : BitVec 2) : Parcel × Tail := (1#2 ++ 0x24#6 ++ d ++ 6#3, .one (b ++ c ++ 0#4 ++ t))
def enc_vmovW (d : VReg) (b : VReg) (mk : BitVec 4) (t : BitVec 2) : Parcel × Tail := (2#2 ++ 0x24#6 ++ d ++ 0#3, .two (b ++ 0#5 ++ 0#5 ++ 0#1 ++ mk ++ t ++ 0#3 ++ 0#2 ++ 0#2 ++ 0#3))
def enc_vbcastW (d : VReg) (c : SReg) (mk : BitVec 4) (t : BitVec 2) : Parcel × Tail := (2#2 ++ 0x24#6 ++ d ++ 1#3, .two (0#5 ++ c ++ 0#5 ++ 0#1 ++ mk ++ t ++ 0#3 ++ 0#2 ++ 0#2 ++ 0#3))
def enc_vsldnW (d : VReg) (b : VReg) (c : SReg) (mk : BitVec 4) (t : BitVec 2) : Parcel × Tail := (2#2 ++ 0x24#6 ++ d ++ 2#3, .two (b ++ c ++ 0#5 ++ 0#1 ++ mk ++ t ++ 0#3 ++ 0#2 ++ 0#2 ++ 0#3))
def enc_vslupW (d : VReg) (b : VReg) (c : SReg) (mk : BitVec 4) (t : BitVec 2) : Parcel × Tail := (2#2 ++ 0x24#6 ++ d ++ 3#3, .two (b ++ c ++ 0#5 ++ 0#1 ++ mk ++ t ++ 0#3 ++ 0#2 ++ 0#2 ++ 0#3))
def enc_vpermW (d : VReg) (b : VReg) (c : VReg) (mk : BitVec 4) (t : BitVec 2) : Parcel × Tail := (2#2 ++ 0x24#6 ++ d ++ 4#3, .two (b ++ c ++ 0#5 ++ 0#1 ++ mk ++ t ++ 0#3 ++ 0#2 ++ 0#2 ++ 0#3))
def enc_vinsW (d : VReg) (b : SReg) (c : SReg) (mk : BitVec 4) (t : BitVec 2) : Parcel × Tail := (2#2 ++ 0x24#6 ++ d ++ 5#3, .two (b ++ c ++ 0#5 ++ 0#1 ++ mk ++ t ++ 0#3 ++ 0#2 ++ 0#2 ++ 0#3))
def enc_vextW (d : SReg) (b : VReg) (c : SReg) (t : BitVec 2) : Parcel × Tail := (2#2 ++ 0x24#6 ++ d ++ 6#3, .two (b ++ c ++ 0#5 ++ 0#1 ++ 0#4 ++ t ++ 0#3 ++ 0#2 ++ 0#2 ++ 0#3))
def enc_vrsum (d : SReg) (b : VReg) (mk : BitVec 4) (t : BitVec 2) : Parcel × Tail := (1#2 ++ 0x25#6 ++ d ++ 0#3, .one (b ++ 0#5 ++ mk ++ t))
def enc_vrmin (d : SReg) (b : VReg) (mk : BitVec 4) (t : BitVec 2) : Parcel × Tail := (1#2 ++ 0x25#6 ++ d ++ 1#3, .one (b ++ 0#5 ++ mk ++ t))
def enc_vrmax (d : SReg) (b : VReg) (mk : BitVec 4) (t : BitVec 2) : Parcel × Tail := (1#2 ++ 0x25#6 ++ d ++ 2#3, .one (b ++ 0#5 ++ mk ++ t))
def enc_vrminu (d : SReg) (b : VReg) (mk : BitVec 4) (t : BitVec 2) : Parcel × Tail := (1#2 ++ 0x25#6 ++ d ++ 3#3, .one (b ++ 0#5 ++ mk ++ t))
def enc_vrmaxu (d : SReg) (b : VReg) (mk : BitVec 4) (t : BitVec 2) : Parcel × Tail := (1#2 ++ 0x25#6 ++ d ++ 4#3, .one (b ++ 0#5 ++ mk ++ t))
def enc_vrpopc (d : SReg) (b : VReg) (mk : BitVec 4) (t : BitVec 2) : Parcel × Tail := (1#2 ++ 0x25#6 ++ d ++ 5#3, .one (b ++ 0#5 ++ mk ++ t))
def enc_vrsumW (d : SReg) (b : VReg) (mk : BitVec 4) (t : BitVec 2) : Parcel × Tail := (2#2 ++ 0x25#6 ++ d ++ 0#3, .two (b ++ 0#5 ++ 0#5 ++ 0#1 ++ mk ++ t ++ 0#3 ++ 0#2 ++ 0#2 ++ 0#3))
def enc_vrminW (d : SReg) (b : VReg) (mk : BitVec 4) (t : BitVec 2) : Parcel × Tail := (2#2 ++ 0x25#6 ++ d ++ 1#3, .two (b ++ 0#5 ++ 0#5 ++ 0#1 ++ mk ++ t ++ 0#3 ++ 0#2 ++ 0#2 ++ 0#3))
def enc_vrmaxW (d : SReg) (b : VReg) (mk : BitVec 4) (t : BitVec 2) : Parcel × Tail := (2#2 ++ 0x25#6 ++ d ++ 2#3, .two (b ++ 0#5 ++ 0#5 ++ 0#1 ++ mk ++ t ++ 0#3 ++ 0#2 ++ 0#2 ++ 0#3))
def enc_vrminuW (d : SReg) (b : VReg) (mk : BitVec 4) (t : BitVec 2) : Parcel × Tail := (2#2 ++ 0x25#6 ++ d ++ 3#3, .two (b ++ 0#5 ++ 0#5 ++ 0#1 ++ mk ++ t ++ 0#3 ++ 0#2 ++ 0#2 ++ 0#3))
def enc_vrmaxuW (d : SReg) (b : VReg) (mk : BitVec 4) (t : BitVec 2) : Parcel × Tail := (2#2 ++ 0x25#6 ++ d ++ 4#3, .two (b ++ 0#5 ++ 0#5 ++ 0#1 ++ mk ++ t ++ 0#3 ++ 0#2 ++ 0#2 ++ 0#3))
def enc_vrpopcW (d : SReg) (b : VReg) (mk : BitVec 4) (t : BitVec 2) : Parcel × Tail := (2#2 ++ 0x25#6 ++ d ++ 5#3, .two (b ++ 0#5 ++ 0#5 ++ 0#1 ++ mk ++ t ++ 0#3 ++ 0#2 ++ 0#2 ++ 0#3))
def enc_vrfsum (d : SReg) (b : VReg) (mk : BitVec 4) (t : BitVec 2) (rm : BitVec 3) : Parcel × Tail := (2#2 ++ 0x25#6 ++ d ++ 0#3, .two (b ++ 0#5 ++ 0#5 ++ 0#1 ++ mk ++ t ++ rm ++ 0#2 ++ 1#2 ++ 0#3))
def enc_vrfmin (d : SReg) (b : VReg) (mk : BitVec 4) (t : BitVec 2) (rm : BitVec 3) : Parcel × Tail := (2#2 ++ 0x25#6 ++ d ++ 1#3, .two (b ++ 0#5 ++ 0#5 ++ 0#1 ++ mk ++ t ++ rm ++ 0#2 ++ 1#2 ++ 0#3))
def enc_vrfmax (d : SReg) (b : VReg) (mk : BitVec 4) (t : BitVec 2) (rm : BitVec 3) : Parcel × Tail := (2#2 ++ 0x25#6 ++ d ++ 2#3, .two (b ++ 0#5 ++ 0#5 ++ 0#1 ++ mk ++ t ++ rm ++ 0#2 ++ 1#2 ++ 0#3))
def enc_vrfsumo (d : SReg) (b : VReg) (c : SReg) (mk : BitVec 4) (t : BitVec 2) (rm : BitVec 3) : Parcel × Tail := (2#2 ++ 0x25#6 ++ d ++ 3#3, .two (b ++ c ++ 0#5 ++ 0#1 ++ mk ++ t ++ rm ++ 0#2 ++ 1#2 ++ 0#3))
def enc_vftoi (d : VReg) (b : VReg) (mk : BitVec 4) (sat : BitVec 1) : Parcel × Tail := (1#2 ++ 0x26#6 ++ d ++ 0#3, .one (b ++ 0#5 ++ mk ++ 0#1 ++ sat))
def enc_vftoiu (d : VReg) (b : VReg) (mk : BitVec 4) (sat : BitVec 1) : Parcel × Tail := (1#2 ++ 0x26#6 ++ d ++ 1#3, .one (b ++ 0#5 ++ mk ++ 0#1 ++ sat))
def enc_vitof (d : VReg) (b : VReg) (mk : BitVec 4) : Parcel × Tail := (1#2 ++ 0x26#6 ++ d ++ 2#3, .one (b ++ 0#5 ++ mk ++ 0#1 ++ 0#1))
def enc_vutof (d : VReg) (b : VReg) (mk : BitVec 4) : Parcel × Tail := (1#2 ++ 0x26#6 ++ d ++ 3#3, .one (b ++ 0#5 ++ mk ++ 0#1 ++ 0#1))
def enc_vcvt (d : VReg) (b : VReg) (p : BitVec 4) (r : VReg) (mk : BitVec 4) (fs : BitVec 4) (fd : BitVec 4) (rm : BitVec 3) (sat : BitVec 1) : Parcel × Tail := (2#2 ++ 0x26#6 ++ d ++ 0#3, .two (b ++ 0#1 ++ p ++ r ++ 0#1 ++ mk ++ fs ++ fd ++ rm ++ sat))
def enc_vexp2 (d : VReg) (b : VReg) (mk : BitVec 4) (t : BitVec 2) : Parcel × Tail := (1#2 ++ 0x27#6 ++ d ++ 0#3, .one (b ++ 0#5 ++ mk ++ t))
def enc_vlog2 (d : VReg) (b : VReg) (mk : BitVec 4) (t : BitVec 2) : Parcel × Tail := (1#2 ++ 0x27#6 ++ d ++ 1#3, .one (b ++ 0#5 ++ mk ++ t))
def enc_vrcp (d : VReg) (b : VReg) (mk : BitVec 4) (t : BitVec 2) : Parcel × Tail := (1#2 ++ 0x27#6 ++ d ++ 2#3, .one (b ++ 0#5 ++ mk ++ t))
def enc_vrsqrt (d : VReg) (b : VReg) (mk : BitVec 4) (t : BitVec 2) : Parcel × Tail := (1#2 ++ 0x27#6 ++ d ++ 3#3, .one (b ++ 0#5 ++ mk ++ t))
def enc_vtanh (d : VReg) (b : VReg) (mk : BitVec 4) (t : BitVec 2) : Parcel × Tail := (1#2 ++ 0x27#6 ++ d ++ 4#3, .one (b ++ 0#5 ++ mk ++ t))
def enc_vsig (d : VReg) (b : VReg) (mk : BitVec 4) (t : BitVec 2) : Parcel × Tail := (1#2 ++ 0x27#6 ++ d ++ 5#3, .one (b ++ 0#5 ++ mk ++ t))
def enc_vexp (d : VReg) (b : VReg) (mk : BitVec 4) (t : BitVec 2) : Parcel × Tail := (1#2 ++ 0x27#6 ++ d ++ 6#3, .one (b ++ 0#5 ++ mk ++ t))
def enc_vexp2W (d : VReg) (b : VReg) (mk : BitVec 4) (t : BitVec 2) (rm : BitVec 3) : Parcel × Tail := (2#2 ++ 0x27#6 ++ d ++ 0#3, .two (b ++ 0#5 ++ 0#5 ++ 0#1 ++ mk ++ t ++ rm ++ 0#2 ++ 0#2 ++ 0#3))
def enc_vlog2W (d : VReg) (b : VReg) (mk : BitVec 4) (t : BitVec 2) (rm : BitVec 3) : Parcel × Tail := (2#2 ++ 0x27#6 ++ d ++ 1#3, .two (b ++ 0#5 ++ 0#5 ++ 0#1 ++ mk ++ t ++ rm ++ 0#2 ++ 0#2 ++ 0#3))
def enc_vrcpW (d : VReg) (b : VReg) (mk : BitVec 4) (t : BitVec 2) (rm : BitVec 3) : Parcel × Tail := (2#2 ++ 0x27#6 ++ d ++ 2#3, .two (b ++ 0#5 ++ 0#5 ++ 0#1 ++ mk ++ t ++ rm ++ 0#2 ++ 0#2 ++ 0#3))
def enc_vrsqrtW (d : VReg) (b : VReg) (mk : BitVec 4) (t : BitVec 2) (rm : BitVec 3) : Parcel × Tail := (2#2 ++ 0x27#6 ++ d ++ 3#3, .two (b ++ 0#5 ++ 0#5 ++ 0#1 ++ mk ++ t ++ rm ++ 0#2 ++ 0#2 ++ 0#3))
def enc_vtanhW (d : VReg) (b : VReg) (mk : BitVec 4) (t : BitVec 2) (rm : BitVec 3) : Parcel × Tail := (2#2 ++ 0x27#6 ++ d ++ 4#3, .two (b ++ 0#5 ++ 0#5 ++ 0#1 ++ mk ++ t ++ rm ++ 0#2 ++ 0#2 ++ 0#3))
def enc_vsigW (d : VReg) (b : VReg) (mk : BitVec 4) (t : BitVec 2) (rm : BitVec 3) : Parcel × Tail := (2#2 ++ 0x27#6 ++ d ++ 5#3, .two (b ++ 0#5 ++ 0#5 ++ 0#1 ++ mk ++ t ++ rm ++ 0#2 ++ 0#2 ++ 0#3))
def enc_vexpW (d : VReg) (b : VReg) (mk : BitVec 4) (t : BitVec 2) (rm : BitVec 3) : Parcel × Tail := (2#2 ++ 0x27#6 ++ d ++ 6#3, .two (b ++ 0#5 ++ 0#5 ++ 0#1 ++ mk ++ t ++ rm ++ 0#2 ++ 0#2 ++ 0#3))
def enc_modeM : Parcel × Tail := (0#2 ++ 0x28#6 ++ 0#5 ++ 0#3, .none)
def enc_modeV : Parcel × Tail := (0#2 ++ 0x28#6 ++ 0#5 ++ 1#3, .none)
def enc_mzero : Parcel × Tail := (0#2 ++ 0x28#6 ++ 0#5 ++ 2#3, .none)
def enc_mrnsoutRes30 (n : BitVec 5) : Parcel × Tail := (0#2 ++ 0x28#6 ++ n ++ 3#3, .none)
def enc_mrnsoutRes15 (n : BitVec 5) : Parcel × Tail := (0#2 ++ 0x28#6 ++ n ++ 4#3, .none)
def enc_mma (k : SReg) (b : SReg) (c : SReg) (za : BitVec 1) : Parcel × Tail := (1#2 ++ 0x29#6 ++ k ++ 0#3, .one (b ++ c ++ 0#5 ++ za))
def enc_mmas (k : SReg) (b : SReg) (c : SReg) (za : BitVec 1) : Parcel × Tail := (1#2 ++ 0x29#6 ++ k ++ 1#3, .one (b ++ c ++ 0#5 ++ za))
def enc_mmaW (k : SReg) (b : SReg) (c : SReg) (za : BitVec 1) (fa : BitVec 4) (fb : BitVec 4) : Parcel × Tail := (2#2 ++ 0x29#6 ++ k ++ 0#3, .two (b ++ c ++ 0#5 ++ za ++ fa ++ fb ++ 0#8))
def enc_mmasW (k : SReg) (b : SReg) (c : SReg) (za : BitVec 1) (fa : BitVec 4) (fb : BitVec 4) : Parcel × Tail := (2#2 ++ 0x29#6 ++ k ++ 1#3, .two (b ++ c ++ 0#5 ++ za ++ fa ++ fb ++ 0#8))
def enc_sclfeed (b : SReg) (c : SReg) : Parcel × Tail := (1#2 ++ 0x2A#6 ++ 0#5 ++ 0#3, .one (b ++ c ++ 0#6))
def enc_mplane (a : SReg) (b : SReg) (c : SReg) (sh : BitVec 1) : Parcel × Tail := (1#2 ++ 0x2A#6 ++ a ++ 1#3, .one (b ++ c ++ 0#5 ++ sh))
def enc_munpl (a : SReg) (b : SReg) (c : SReg) (sh : BitVec 1) : Parcel × Tail := (1#2 ++ 0x2A#6 ++ a ++ 2#3, .one (b ++ c ++ 0#5 ++ sh))
def enc_mrnsin (a : SReg) (b : SReg) (dst : BitVec 1) (fs : BitVec 4) : Parcel × Tail := (1#2 ++ 0x2A#6 ++ a ++ 3#3, .one (b ++ 0#5 ++ dst ++ 0#1 ++ fs))
def enc_mplaneW (a : SReg) (b : SReg) (c : SReg) (n : SReg) (fmt : BitVec 4) : Parcel × Tail := (2#2 ++ 0x2A#6 ++ a ++ 1#3, .two (b ++ c ++ n ++ 0#1 ++ 0#12 ++ fmt))
def enc_munplW (a : SReg) (b : SReg) (c : SReg) (n : SReg) (fmt : BitVec 4) : Parcel × Tail := (2#2 ++ 0x2A#6 ++ a ++ 2#3, .two (b ++ c ++ n ++ 0#1 ++ 0#12 ++ fmt))
def enc_mrnsinW (a : SReg) (b : SReg) (n : SReg) (dst : BitVec 1) (fs : BitVec 4) : Parcel × Tail := (2#2 ++ 0x2A#6 ++ a ++ 3#3, .two (b ++ 0#5 ++ n ++ 0#1 ++ 0#11 ++ dst ++ fs))
def enc_dld (d : DReg) (b : SReg) : Parcel × Tail := (1#2 ++ 0x2B#6 ++ 0#2 ++ d ++ 0#3, .one (b ++ 0#5 ++ 0#6))
def enc_dsv (d : DReg) (b : SReg) : Parcel × Tail := (1#2 ++ 0x2B#6 ++ 0#2 ++ d ++ 1#3, .one (b ++ 0#5 ++ 0#6))
def enc_dput (d : DReg) (c : SReg) (w : BitVec 2) : Parcel × Tail := (1#2 ++ 0x2B#6 ++ 0#2 ++ d ++ 2#3, .one (0#5 ++ c ++ 0#4 ++ w))
def enc_dget (d : SReg) (b : DReg) (w : BitVec 2) : Parcel × Tail := (1#2 ++ 0x2B#6 ++ d ++ 3#3, .one (0#2 ++ b ++ 0#5 ++ 0#4 ++ w))
def enc_dins (d : DReg) (c : SReg) (w : BitVec 2) (pos : BitVec 6) (lenM1 : BitVec 6) : Parcel × Tail := (2#2 ++ 0x2B#6 ++ 0#2 ++ d ++ 0#3, .two (0#5 ++ c ++ 0#5 ++ 0#1 ++ w ++ pos ++ lenM1 ++ 0#2))
def enc_dinit (d : DReg) (b : SReg) (c : SReg) (tr : BitVec 1) (ro : BitVec 16) (co : BitVec 16) : Parcel × Tail := (3#2 ++ 0x2B#6 ++ 0#2 ++ d ++ 0#3, .three (b ++ c ++ 0#5 ++ tr ++ ro ++ co))
def enc_tmul (d : DReg) (b : DReg) (c : DReg) (acc : BitVec 1) (kM1 : BitVec 11) : Parcel × Tail := (2#2 ++ 0x2C#6 ++ 0#2 ++ d ++ 0#3, .two (0#2 ++ b ++ 0#2 ++ c ++ 0#5 ++ acc ++ 0#5 ++ kM1))
def enc_tadd (d : DReg) (b : DReg) (c : DReg) : Parcel × Tail := (1#2 ++ 0x2C#6 ++ 0#2 ++ d ++ 1#3, .one (0#2 ++ b ++ 0#2 ++ c ++ 0#6))
def enc_tsub (d : DReg) (b : DReg) (c : DReg) : Parcel × Tail := (1#2 ++ 0x2C#6 ++ 0#2 ++ d ++ 2#3, .one (0#2 ++ b ++ 0#2 ++ c ++ 0#6))
def enc_tmax (d : DReg) (b : DReg) (c : DReg) : Parcel × Tail := (1#2 ++ 0x2C#6 ++ 0#2 ++ d ++ 3#3, .one (0#2 ++ b ++ 0#2 ++ c ++ 0#6))
def enc_tcvt (d : DReg) (b : DReg) (sat : BitVec 1) (rm : BitVec 3) : Parcel × Tail := (1#2 ++ 0x2C#6 ++ 0#2 ++ d ++ 5#3, .one (0#2 ++ b ++ 0#5 ++ 0#2 ++ sat ++ rm))
def enc_tred (d : DReg) (b : DReg) (op : BitVec 1) : Parcel × Tail := (1#2 ++ 0x2C#6 ++ 0#2 ++ d ++ 6#3, .one (0#2 ++ b ++ 0#5 ++ 0#4 ++ 0#1 ++ op))
def enc_taddW (d : DReg) (b : DReg) (c : DReg) (rm : BitVec 3) : Parcel × Tail := (2#2 ++ 0x2C#6 ++ 0#2 ++ d ++ 1#3, .two (0#2 ++ b ++ 0#2 ++ c ++ 0#5 ++ 0#1 ++ 0#13 ++ rm))
def enc_tsubW (d : DReg) (b : DReg) (c : DReg) (rm : BitVec 3) : Parcel × Tail := (2#2 ++ 0x2C#6 ++ 0#2 ++ d ++ 2#3, .two (0#2 ++ b ++ 0#2 ++ c ++ 0#5 ++ 0#1 ++ 0#13 ++ rm))
def enc_tmaxW (d : DReg) (b : DReg) (c : DReg) (rm : BitVec 3) : Parcel × Tail := (2#2 ++ 0x2C#6 ++ 0#2 ++ d ++ 3#3, .two (0#2 ++ b ++ 0#2 ++ c ++ 0#5 ++ 0#1 ++ 0#13 ++ rm))
def enc_tmap (d : DReg) (b : DReg) (c : SReg) (e : SReg) (fn : BitVec 2) (rm : BitVec 3) : Parcel × Tail := (2#2 ++ 0x2C#6 ++ 0#2 ++ d ++ 4#3, .two (0#2 ++ b ++ c ++ e ++ 0#1 ++ 0#11 ++ fn ++ rm))
def enc_force : Parcel × Tail := (0#2 ++ 0x2D#6 ++ 0#5 ++ 0#3, .none)
def enc_forceM (b : DReg) : Parcel × Tail := (1#2 ++ 0x2D#6 ++ 0#5 ++ 0#3, .one (0#2 ++ b ++ 0#5 ++ 0#6))
def enc_forceW (b : DReg) (rb : BitVec 8) (nbM1 : BitVec 8) : Parcel × Tail := (2#2 ++ 0x2D#6 ++ 0#5 ++ 0#3, .two (0#2 ++ b ++ 0#5 ++ 0#5 ++ 0#1 ++ rb ++ nbM1))
def enc_tdrop : Parcel × Tail := (0#2 ++ 0x2D#6 ++ 0#5 ++ 1#3, .none)
def enc_tdropM (n : BitVec 3) : Parcel × Tail := (1#2 ++ 0x2D#6 ++ 0#5 ++ 1#3, .one (0#5 ++ 0#5 ++ 0#3 ++ n))
def enc_tqry (d : SReg) (n : BitVec 3) : Parcel × Tail := (1#2 ++ 0x2D#6 ++ d ++ 2#3, .one (0#5 ++ 0#5 ++ 0#3 ++ n))
def enc_tst (d : DReg) (b : DReg) : Parcel × Tail := (1#2 ++ 0x2D#6 ++ 0#2 ++ d ++ 3#3, .one (0#2 ++ b ++ 0#5 ++ 0#6))
def enc_cp (t : SReg) (b : SReg) (c : SReg) (rs : BitVec 1) : Parcel × Tail := (1#2 ++ 0x2E#6 ++ t ++ 0#3, .one (b ++ c ++ 0#5 ++ rs))
def enc_cps (t : SReg) (b : SReg) (c : SReg) (g : SReg) (rs : BitVec 1) (dec : BitVec 16) : Parcel × Tail := (2#2 ++ 0x2E#6 ++ t ++ 1#3, .two (b ++ c ++ g ++ rs ++ dec))
def enc_draw (d : SReg) : Parcel × Tail := (0#2 ++ 0x30#6 ++ d ++ 0#3, .none)
def enc_drawV (d : VReg) : Parcel × Tail := (0#2 ++ 0x30#6 ++ d ++ 1#3, .none)
def enc_rngkey (k : SReg) (b : SReg) (c : SReg) : Parcel × Tail := (1#2 ++ 0x30#6 ++ k ++ 0#3, .one (b ++ c ++ 0#6))
def enc_rngadv (b : SReg) (c : SReg) : Parcel × Tail := (1#2 ++ 0x30#6 ++ 0#5 ++ 1#3, .one (b ++ c ++ 0#6))
def enc_stamp (k : BitVec 2) : Parcel × Tail := (0#2 ++ 0x31#6 ++ 0#3 ++ k ++ 0#3, .none)
def enc_stampClose : Parcel × Tail := (0#2 ++ 0x31#6 ++ 0#5 ++ 1#3, .none)
def enc_stampOpen (b : SReg) : Parcel × Tail := (1#2 ++ 0x31#6 ++ 0#5 ++ 0#3, .one (b ++ 0#5 ++ 0#6))
def enc_trmark (b : SReg) (code : BitVec 6) : Parcel × Tail := (1#2 ++ 0x31#6 ++ 0#5 ++ 1#3, .one (b ++ 0#5 ++ code))
def enc_epreg (d : SReg) (b : SReg) : Parcel × Tail := (1#2 ++ 0x2F#6 ++ d ++ 0#3, .one (b ++ 0#5 ++ 0#6))
def enc_rpost (k : SReg) (hd : SReg) (r : VReg) : Parcel × Tail := (2#2 ++ 0x2F#6 ++ 0#5 ++ 1#3, .two (k ++ hd ++ r ++ 0#1 ++ 0#16))
def enc_rlver (d : SReg) (b : SReg) (c : SReg) (g : BitVec 4) : Parcel × Tail := (1#2 ++ 0x2F#6 ++ d ++ 2#3, .one (b ++ c ++ 0#2 ++ g))
def enc_rjqry (d : SReg) (b : SReg) (g : BitVec 4) : Parcel × Tail := (1#2 ++ 0x2F#6 ++ d ++ 3#3, .one (b ++ 0#5 ++ 0#2 ++ g))
def enc_tcinv (sc : BitVec 3) : Parcel × Tail := (0#2 ++ 0x32#6 ++ 0#2 ++ sc ++ 0#3, .none)
def enc_tcinvM (b : SReg) (c : SReg) (sc : BitVec 3) : Parcel × Tail := (1#2 ++ 0x32#6 ++ 0#5 ++ 0#3, .one (b ++ c ++ 0#3 ++ sc))
def enc_sleep (b : SReg) : Parcel × Tail := (1#2 ++ 0x32#6 ++ 0#5 ++ 1#3, .one (b ++ 0#5 ++ 0#6))

/-- The head and the tail of an instruction, written from the encoding tables of each entry; none for the steps that
are no instruction of a thread. -/
def encodeHT : Instr → Option (Parcel × Tail)
  | .add d b c sat => some (enc_add d b c sat)
  | .sub d b c sat => some (enc_sub d b c sat)
  | .andR d b c => some (enc_andR d b c)
  | .orR d b c => some (enc_orR d b c)
  | .xorR d b c => some (enc_xorR d b c)
  | .sll d b c => some (enc_sll d b c)
  | .srl d b c => some (enc_srl d b c)
  | .sra d b c => some (enc_sra d b c)
  | .addI d b imm => some (enc_addI d b imm)
  | .rsubI d b imm => some (enc_rsubI d b imm)
  | .andI d b imm => some (enc_andI d b imm)
  | .orI d b imm => some (enc_orI d b imm)
  | .xorI d b imm => some (enc_xorI d b imm)
  | .sllI d b imm => some (enc_sllI d b imm)
  | .srlI d b imm => some (enc_srlI d b imm)
  | .sraI d b imm => some (enc_sraI d b imm)
  | .addW d b imm => some (enc_addW d b imm)
  | .rsubW d b imm => some (enc_rsubW d b imm)
  | .andW d b imm => some (enc_andW d b imm)
  | .orW d b imm => some (enc_orW d b imm)
  | .xorW d b imm => some (enc_xorW d b imm)
  | .sllW d b imm => some (enc_sllW d b imm)
  | .srlW d b imm => some (enc_srlW d b imm)
  | .sraW d b imm => some (enc_sraW d b imm)
  | .seq d b c => some (enc_seq d b c)
  | .sne d b c => some (enc_sne d b c)
  | .slt d b c => some (enc_slt d b c)
  | .sltu d b c => some (enc_sltu d b c)
  | .sle d b c => some (enc_sle d b c)
  | .sleu d b c => some (enc_sleu d b c)
  | .minS d b c => some (enc_minS d b c)
  | .minU d b c => some (enc_minU d b c)
  | .maxS d b c => some (enc_maxS d b c)
  | .maxU d b c => some (enc_maxU d b c)
  | .seqW d b imm => some (enc_seqW d b imm)
  | .sneW d b imm => some (enc_sneW d b imm)
  | .sltW d b imm => some (enc_sltW d b imm)
  | .sltuW d b imm => some (enc_sltuW d b imm)
  | .sleW d b imm => some (enc_sleW d b imm)
  | .sleuW d b imm => some (enc_sleuW d b imm)
  | .minW d b imm => some (enc_minW d b imm)
  | .minuW d b imm => some (enc_minuW d b imm)
  | .maxW d b imm => some (enc_maxW d b imm)
  | .maxuW d b imm => some (enc_maxuW d b imm)
  | .mul d b c => some (enc_mul d b c)
  | .mulh d b c => some (enc_mulh d b c)
  | .mulhu d b c => some (enc_mulhu d b c)
  | .mulhsu d b c => some (enc_mulhsu d b c)
  | .div d b c => some (enc_div d b c)
  | .divu d b c => some (enc_divu d b c)
  | .rem d b c => some (enc_rem d b c)
  | .remu d b c => some (enc_remu d b c)
  | .clz d b => some (enc_clz d b)
  | .ctz d b => some (enc_ctz d b)
  | .popc d b => some (enc_popc d b)
  | .brev d b => some (enc_brev d b)
  | .bswap d b => some (enc_bswap d b)
  | .rol d b c => some (enc_rol d b c)
  | .ror d b c => some (enc_ror d b c)
  | .ext d b pos lenM1 => some (enc_ext d b pos lenM1)
  | .extu d b pos lenM1 => some (enc_extu d b pos lenM1)
  | .ins d b pos lenM1 => some (enc_ins d b pos lenM1)
  | .li d imm => some (enc_li d imm)
  | .liZ d imm => some (enc_liZ d imm)
  | .liW d imm => some (enc_liW d imm)
  | .liZW d imm => some (enc_liZW d imm)
  | .lih d imm => some (enc_lih d imm)
  | .liX0 d imm => some (enc_liX0 d imm)
  | .liZX0 d imm => some (enc_liZX0 d imm)
  | .lea d b imm => some (enc_lea d b imm)
  | .leaW d b imm => some (enc_leaW d b imm)
  | .leaX1 n d b c imm => some (enc_leaX1 n d b c imm)
  | .mov d b => some (enc_mov d b)
  | .sel d b c k => some (enc_sel d b c k)
  | .beqz b off => some (enc_beqz b off)
  | .bnez b off => some (enc_bnez b off)
  | .bltz b off => some (enc_bltz b off)
  | .bgez b off => some (enc_bgez b off)
  | .bgtz b off => some (enc_bgtz b off)
  | .blez b off => some (enc_blez b off)
  | .beq b c off => some (enc_beq b c off)
  | .bne b c off => some (enc_bne b c off)
  | .blt b c off => some (enc_blt b c off)
  | .bge b c off => some (enc_bge b c off)
  | .bltu b c off => some (enc_bltu b c off)
  | .bgeu b c off => some (enc_bgeu b c off)
  | .br off => some (enc_br off)
  | .call off => some (enc_call off)
  | .dbnz b off => some (enc_dbnz b off)
  | .jt l b c nM1 => some (enc_jt l b c nM1)
  | .callt l b c nM1 => some (enc_callt l b c nM1)
  | .jtW b c n l => some (enc_jtW b c n l)
  | .calltW b c n l => some (enc_calltW b c n l)
  | .lpad l => some (enc_lpad l)
  | .nop => some enc_nop
  | .exit => some enc_exit
  | .rets f => some (enc_rets f)
  | .ret => some enc_ret
  | .trap b code => some (enc_trap b code)
  | .eret => some enc_eret
  | .mfc d n => some (enc_mfc d n)
  | .mtc s n => some (enc_mtc s n)
  | .ld d b imm => some (enc_ld d b imm)
  | .lw d b imm => some (enc_lw d b imm)
  | .lwu d b imm => some (enc_lwu d b imm)
  | .lh d b imm => some (enc_lh d b imm)
  | .lhu d b imm => some (enc_lhu d b imm)
  | .lb d b imm => some (enc_lb d b imm)
  | .lbu d b imm => some (enc_lbu d b imm)
  | .ldW d b rx imm => some (enc_ldW d b rx imm)
  | .lwW d b rx imm => some (enc_lwW d b rx imm)
  | .lwuW d b rx imm => some (enc_lwuW d b rx imm)
  | .lhW d b rx imm => some (enc_lhW d b rx imm)
  | .lhuW d b rx imm => some (enc_lhuW d b rx imm)
  | .lbW d b rx imm => some (enc_lbW d b rx imm)
  | .lbuW d b rx imm => some (enc_lbuW d b rx imm)
  | .ldX1 d b c rx imm => some (enc_ldX1 d b c rx imm)
  | .lwX1 d b c rx imm => some (enc_lwX1 d b c rx imm)
  | .lwuX1 d b c rx imm => some (enc_lwuX1 d b c rx imm)
  | .lhX1 d b c rx imm => some (enc_lhX1 d b c rx imm)
  | .lhuX1 d b c rx imm => some (enc_lhuX1 d b c rx imm)
  | .lbX1 d b c rx imm => some (enc_lbX1 d b c rx imm)
  | .lbuX1 d b c rx imm => some (enc_lbuX1 d b c rx imm)
  | .st a b imm => some (enc_st a b imm)
  | .sw a b imm => some (enc_sw a b imm)
  | .sh a b imm => some (enc_sh a b imm)
  | .sb a b imm => some (enc_sb a b imm)
  | .stW a b rx imm => some (enc_stW a b rx imm)
  | .swW a b rx imm => some (enc_swW a b rx imm)
  | .shW a b rx imm => some (enc_shW a b rx imm)
  | .sbW a b rx imm => some (enc_sbW a b rx imm)
  | .stX1 a b c rx imm => some (enc_stX1 a b c rx imm)
  | .swX1 a b c rx imm => some (enc_swX1 a b c rx imm)
  | .shX1 a b c rx imm => some (enc_shX1 a b c rx imm)
  | .sbX1 a b c rx imm => some (enc_sbX1 a b c rx imm)
  | .vld vd b mk ew => some (enc_vld vd b mk ew)
  | .vst vd b mk ew => some (enc_vst vd b mk ew)
  | .vlds vd b c mk ew => some (enc_vlds vd b c mk ew)
  | .vsts vd b c mk ew => some (enc_vsts vd b c mk ew)
  | .vldW vd b mk rx ew imm => some (enc_vldW vd b mk rx ew imm)
  | .vstW vd b mk rx ew imm => some (enc_vstW vd b mk rx ew imm)
  | .vldsW vd b c mk rx ew imm => some (enc_vldsW vd b c mk rx ew imm)
  | .vstsW vd b c mk rx ew imm => some (enc_vstsW vd b c mk rx ew imm)
  | .vldX1 vd b mk rx ew imm => some (enc_vldX1 vd b mk rx ew imm)
  | .vstX1 vd b mk rx ew imm => some (enc_vstX1 vd b mk rx ew imm)
  | .vldsX1 vd b c mk rx ew imm => some (enc_vldsX1 vd b c mk rx ew imm)
  | .vstsX1 vd b c mk rx ew imm => some (enc_vstsX1 vd b c mk rx ew imm)
  | .vgath vd b c mk x64 => some (enc_vgath vd b c mk x64)
  | .vscat vd b c mk x64 => some (enc_vscat vd b c mk x64)
  | .vgathW vd b c mk rx x64 sc => some (enc_vgathW vd b c mk rx x64 sc)
  | .vscatW vd b c mk rx x64 sc => some (enc_vscatW vd b c mk rx x64 sc)
  | .aadd d b c w32 rx => some (enc_aadd d b c w32 rx)
  | .aand d b c w32 rx => some (enc_aand d b c w32 rx)
  | .aor d b c w32 rx => some (enc_aor d b c w32 rx)
  | .axor d b c w32 rx => some (enc_axor d b c w32 rx)
  | .aswp d b c w32 rx => some (enc_aswp d b c w32 rx)
  | .acas d b c w32 rx => some (enc_acas d b c w32 rx)
  | .amin d b c w32 rx => some (enc_amin d b c w32 rx)
  | .amax d b c w32 rx => some (enc_amax d b c w32 rx)
  | .aminu d b c w32 rx => some (enc_aminu d b c w32 rx)
  | .amaxu d b c w32 rx => some (enc_amaxu d b c w32 rx)
  | .afadd d b c w32 rx => some (enc_afadd d b c w32 rx)
  | .aaddW d b c w32 rx imm => some (enc_aaddW d b c w32 rx imm)
  | .aandW d b c w32 rx imm => some (enc_aandW d b c w32 rx imm)
  | .aorW d b c w32 rx imm => some (enc_aorW d b c w32 rx imm)
  | .axorW d b c w32 rx imm => some (enc_axorW d b c w32 rx imm)
  | .aswpW d b c w32 rx imm => some (enc_aswpW d b c w32 rx imm)
  | .acasW d b c w32 rx imm => some (enc_acasW d b c w32 rx imm)
  | .aminW d b c w32 rx imm => some (enc_aminW d b c w32 rx imm)
  | .amaxW d b c w32 rx imm => some (enc_amaxW d b c w32 rx imm)
  | .aminuW d b c w32 rx imm => some (enc_aminuW d b c w32 rx imm)
  | .amaxuW d b c w32 rx imm => some (enc_amaxuW d b c w32 rx imm)
  | .afaddW d b c w32 rx imm => some (enc_afaddW d b c w32 rx imm)
  | .tatsw t => some (enc_tatsw t)
  | .tget d b => some (enc_tget d b)
  | .tset b c => some (enc_tset b c)
  | .tsetImm b t => some (enc_tsetImm b t)
  | .tcas d b c => some (enc_tcas d b c)
  | .tatld t b => some (enc_tatld t b)
  | .rmset t k => some (enc_rmset t k)
  | .fence sc => some (enc_fence sc)
  | .bar sc => some (enc_bar sc)
  | .bara sc => some (enc_bara sc)
  | .barw sc => some (enc_barw sc)
  | .xfence p q => some (enc_xfence p q)
  | .sbinit b c => some (enc_sbinit b c)
  | .sbarv d b sc => some (enc_sbarv d b sc)
  | .sbwait d b c => some (enc_sbwait d b c)
  | .sbtest d b c => some (enc_sbtest d b c)
  | .waitTag b t => some (enc_waitTag b t)
  | .dqlen d => some (enc_dqlen d)
  | .joinWord b => some (enc_joinWord b)
  | .steal d b t => some (enc_steal d b t)
  | .pcon b fl => some (enc_pcon b fl)
  | .flushi b c sc => some (enc_flushi b c sc)
  | .spawn b off => some (enc_spawn b off)
  | .vadd d b c mk t => some (enc_vadd d b c mk t)
  | .vsub d b c mk t => some (enc_vsub d b c mk t)
  | .vmul d b c mk t => some (enc_vmul d b c mk t)
  | .vmulh d b c mk t => some (enc_vmulh d b c mk t)
  | .vmin d b c mk t => some (enc_vmin d b c mk t)
  | .vmax d b c mk t => some (enc_vmax d b c mk t)
  | .vminu d b c mk t => some (enc_vminu d b c mk t)
  | .vmaxu d b c mk t => some (enc_vmaxu d b c mk t)
  | .vaddW d b c z mk t sat => some (enc_vaddW d b c z mk t sat)
  | .vsubW d b c z mk t sat => some (enc_vsubW d b c z mk t sat)
  | .vmulW d b c z mk t sat => some (enc_vmulW d b c z mk t sat)
  | .vmulhW d b c z mk t => some (enc_vmulhW d b c z mk t)
  | .vminW d b c z mk t => some (enc_vminW d b c z mk t)
  | .vmaxW d b c z mk t => some (enc_vmaxW d b c z mk t)
  | .vminuW d b c z mk t => some (enc_vminuW d b c z mk t)
  | .vmaxuW d b c z mk t => some (enc_vmaxuW d b c z mk t)
  | .vand d b c z mk t => some (enc_vand d b c z mk t)
  | .vor d b c z mk t => some (enc_vor d b c z mk t)
  | .vxor d b c z mk t => some (enc_vxor d b c z mk t)
  | .vsll d b c z mk t => some (enc_vsll d b c z mk t)
  | .vsrl d b c z mk t => some (enc_vsrl d b c z mk t)
  | .vsra d b c z mk t => some (enc_vsra d b c z mk t)
  | .vmulhu d b c z mk t => some (enc_vmulhu d b c z mk t)
  | .vabs d b mk t sat => some (enc_vabs d b mk t sat)
  | .vfadd d b c mk t => some (enc_vfadd d b c mk t)
  | .vfsub d b c mk t => some (enc_vfsub d b c mk t)
  | .vfmul d b c mk t => some (enc_vfmul d b c mk t)
  | .vfdiv d b c mk t => some (enc_vfdiv d b c mk t)
  | .vfmin d b c mk t => some (enc_vfmin d b c mk t)
  | .vfmax d b c mk t => some (enc_vfmax d b c mk t)
  | .vfsqrt d b mk t => some (enc_vfsqrt d b mk t)
  | .vfaddW d b c z mk t rm => some (enc_vfaddW d b c z mk t rm)
  | .vfsubW d b c z mk t rm => some (enc_vfsubW d b c z mk t rm)
  | .vfmulW d b c z mk t rm => some (enc_vfmulW d b c z mk t rm)
  | .vfdivW d b c z mk t rm => some (enc_vfdivW d b c z mk t rm)
  | .vfminW d b c z mk t rm => some (enc_vfminW d b c z mk t rm)
  | .vfmaxW d b c z mk t rm => some (enc_vfmaxW d b c z mk t rm)
  | .vfsqrtW d b mk t rm => some (enc_vfsqrtW d b mk t rm)
  | .vfneg d b mk t rm => some (enc_vfneg d b mk t rm)
  | .vfabs d b mk t rm => some (enc_vfabs d b mk t rm)
  | .vfma d b c mk t => some (enc_vfma d b c mk t)
  | .vfms d b c mk t => some (enc_vfms d b c mk t)
  | .vfnma d b c mk t => some (enc_vfnma d b c mk t)
  | .vfnms d b c mk t => some (enc_vfnms d b c mk t)
  | .vmac d b c mk t => some (enc_vmac d b c mk t)
  | .vdot d b c mk t => some (enc_vdot d b c mk t)
  | .vdotu d b c mk t => some (enc_vdotu d b c mk t)
  | .vfmaW d b c e z mk t rm => some (enc_vfmaW d b c e z mk t rm)
  | .vfmsW d b c e z mk t rm => some (enc_vfmsW d b c e z mk t rm)
  | .vfnmaW d b c e z mk t rm => some (enc_vfnmaW d b c e z mk t rm)
  | .vfnmsW d b c e z mk t rm => some (enc_vfnmsW d b c e z mk t rm)
  | .vmacW d b c e z mk t sat => some (enc_vmacW d b c e z mk t sat)
  | .vdotW d b c e z mk t sat => some (enc_vdotW d b c e z mk t sat)
  | .vdotuW d b c e z mk t sat => some (enc_vdotuW d b c e z mk t sat)
  | .vseq d b c mk t => some (enc_vseq d b c mk t)
  | .vsne d b c mk t => some (enc_vsne d b c mk t)
  | .vslt d b c mk t => some (enc_vslt d b c mk t)
  | .vsle d b c mk t => some (enc_vsle d b c mk t)
  | .vsltu d b c mk t => some (enc_vsltu d b c mk t)
  | .vsleu d b c mk t => some (enc_vsleu d b c mk t)
  | .vseqW d b c z mk t => some (enc_vseqW d b c z mk t)
  | .vsneW d b c z mk t => some (enc_vsneW d b c z mk t)
  | .vsltW d b c z mk t => some (enc_vsltW d b c z mk t)
  | .vsleW d b c z mk t => some (enc_vsleW d b c z mk t)
  | .vsltuW d b c z mk t => some (enc_vsltuW d b c z mk t)
  | .vsleuW d b c z mk t => some (enc_vsleuW d b c z mk t)
  | .vfeq d b c z mk t => some (enc_vfeq d b c z mk t)
  | .vfne d b c z mk t => some (enc_vfne d b c z mk t)
  | .vflt d b c z mk t => some (enc_vflt d b c z mk t)
  | .vfle d b c z mk t => some (enc_vfle d b c z mk t)
  | .vfun d b c z mk t => some (enc_vfun d b c z mk t)
  | .vmov d b mk t => some (enc_vmov d b mk t)
  | .vbcast d c mk t => some (enc_vbcast d c mk t)
  | .vsldn d b c mk t => some (enc_vsldn d b c mk t)
  | .vslup d b c mk t => some (enc_vslup d b c mk t)
  | .vperm d b c mk t => some (enc_vperm d b c mk t)
  | .vins d b c mk t => some (enc_vins d b c mk t)
  | .vext d b c t => some (enc_vext d b c t)
  | .vmovW d b mk t => some (enc_vmovW d b mk t)
  | .vbcastW d c mk t => some (enc_vbcastW d c mk t)
  | .vsldnW d b c mk t => some (enc_vsldnW d b c mk t)
  | .vslupW d b c mk t => some (enc_vslupW d b c mk t)
  | .vpermW d b c mk t => some (enc_vpermW d b c mk t)
  | .vinsW d b c mk t => some (enc_vinsW d b c mk t)
  | .vextW d b c t => some (enc_vextW d b c t)
  | .vrsum d b mk t => some (enc_vrsum d b mk t)
  | .vrmin d b mk t => some (enc_vrmin d b mk t)
  | .vrmax d b mk t => some (enc_vrmax d b mk t)
  | .vrminu d b mk t => some (enc_vrminu d b mk t)
  | .vrmaxu d b mk t => some (enc_vrmaxu d b mk t)
  | .vrpopc d b mk t => some (enc_vrpopc d b mk t)
  | .vrsumW d b mk t => some (enc_vrsumW d b mk t)
  | .vrminW d b mk t => some (enc_vrminW d b mk t)
  | .vrmaxW d b mk t => some (enc_vrmaxW d b mk t)
  | .vrminuW d b mk t => some (enc_vrminuW d b mk t)
  | .vrmaxuW d b mk t => some (enc_vrmaxuW d b mk t)
  | .vrpopcW d b mk t => some (enc_vrpopcW d b mk t)
  | .vrfsum d b mk t rm => some (enc_vrfsum d b mk t rm)
  | .vrfmin d b mk t rm => some (enc_vrfmin d b mk t rm)
  | .vrfmax d b mk t rm => some (enc_vrfmax d b mk t rm)
  | .vrfsumo d b c mk t rm => some (enc_vrfsumo d b c mk t rm)
  | .vftoi d b mk sat => some (enc_vftoi d b mk sat)
  | .vftoiu d b mk sat => some (enc_vftoiu d b mk sat)
  | .vitof d b mk => some (enc_vitof d b mk)
  | .vutof d b mk => some (enc_vutof d b mk)
  | .vcvt d b p r mk fs fd rm sat => some (enc_vcvt d b p r mk fs fd rm sat)
  | .vexp2 d b mk t => some (enc_vexp2 d b mk t)
  | .vlog2 d b mk t => some (enc_vlog2 d b mk t)
  | .vrcp d b mk t => some (enc_vrcp d b mk t)
  | .vrsqrt d b mk t => some (enc_vrsqrt d b mk t)
  | .vtanh d b mk t => some (enc_vtanh d b mk t)
  | .vsig d b mk t => some (enc_vsig d b mk t)
  | .vexp d b mk t => some (enc_vexp d b mk t)
  | .vexp2W d b mk t rm => some (enc_vexp2W d b mk t rm)
  | .vlog2W d b mk t rm => some (enc_vlog2W d b mk t rm)
  | .vrcpW d b mk t rm => some (enc_vrcpW d b mk t rm)
  | .vrsqrtW d b mk t rm => some (enc_vrsqrtW d b mk t rm)
  | .vtanhW d b mk t rm => some (enc_vtanhW d b mk t rm)
  | .vsigW d b mk t rm => some (enc_vsigW d b mk t rm)
  | .vexpW d b mk t rm => some (enc_vexpW d b mk t rm)
  | .modeM => some enc_modeM
  | .modeV => some enc_modeV
  | .mzero => some enc_mzero
  | .mrnsoutRes30 n => some (enc_mrnsoutRes30 n)
  | .mrnsoutRes15 n => some (enc_mrnsoutRes15 n)
  | .mma k b c za => some (enc_mma k b c za)
  | .mmas k b c za => some (enc_mmas k b c za)
  | .mmaW k b c za fa fb => some (enc_mmaW k b c za fa fb)
  | .mmasW k b c za fa fb => some (enc_mmasW k b c za fa fb)
  | .sclfeed b c => some (enc_sclfeed b c)
  | .mplane a b c sh => some (enc_mplane a b c sh)
  | .munpl a b c sh => some (enc_munpl a b c sh)
  | .mrnsin a b dst fs => some (enc_mrnsin a b dst fs)
  | .mplaneW a b c n fmt => some (enc_mplaneW a b c n fmt)
  | .munplW a b c n fmt => some (enc_munplW a b c n fmt)
  | .mrnsinW a b n dst fs => some (enc_mrnsinW a b n dst fs)
  | .dld d b => some (enc_dld d b)
  | .dsv d b => some (enc_dsv d b)
  | .dput d c w => some (enc_dput d c w)
  | .dget d b w => some (enc_dget d b w)
  | .dins d c w pos lenM1 => some (enc_dins d c w pos lenM1)
  | .dinit d b c tr ro co => some (enc_dinit d b c tr ro co)
  | .tmul d b c acc kM1 => some (enc_tmul d b c acc kM1)
  | .tadd d b c => some (enc_tadd d b c)
  | .tsub d b c => some (enc_tsub d b c)
  | .tmax d b c => some (enc_tmax d b c)
  | .tcvt d b sat rm => some (enc_tcvt d b sat rm)
  | .tred d b op => some (enc_tred d b op)
  | .taddW d b c rm => some (enc_taddW d b c rm)
  | .tsubW d b c rm => some (enc_tsubW d b c rm)
  | .tmaxW d b c rm => some (enc_tmaxW d b c rm)
  | .tmap d b c e fn rm => some (enc_tmap d b c e fn rm)
  | .force => some enc_force
  | .forceM b => some (enc_forceM b)
  | .forceW b rb nbM1 => some (enc_forceW b rb nbM1)
  | .tdrop => some enc_tdrop
  | .tdropM n => some (enc_tdropM n)
  | .tqry d n => some (enc_tqry d n)
  | .tst d b => some (enc_tst d b)
  | .cp t b c rs => some (enc_cp t b c rs)
  | .cps t b c g rs dec => some (enc_cps t b c g rs dec)
  | .draw d => some (enc_draw d)
  | .drawV d => some (enc_drawV d)
  | .rngkey k b c => some (enc_rngkey k b c)
  | .rngadv b c => some (enc_rngadv b c)
  | .stamp k => some (enc_stamp k)
  | .stampClose => some enc_stampClose
  | .stampOpen b => some (enc_stampOpen b)
  | .trmark b code => some (enc_trmark b code)
  | .epreg d b => some (enc_epreg d b)
  | .rpost k hd r => some (enc_rpost k hd r)
  | .rlver d b c g => some (enc_rlver d b c g)
  | .rjqry d b g => some (enc_rjqry d b g)
  | .tcinv sc => some (enc_tcinv sc)
  | .tcinvM b c sc => some (enc_tcinvM b c sc)
  | .sleep b => some (enc_sleep b)
  | .gridOperationComplete _ => none
  | .blockEvaluation _ => none
  | .copyCommandStart _ => none
  | .copyCommandEnd _ => none
  | .sleepExpiry _ _ => none
  | .bankOperation _ _ _ => none
  | .waiterReevaluation _ => none
  | .rdrReissue _ _ => none
  | .remoteWaitRetry _ _ => none
  | .tagWaitWatchdog _ _ _ => none
  | .accessCompletion _ _ _ _ => none
  | .backgroundSpill _ _ => none
  | .barrierRoundRelease _ _ => none
  | .gateCommit _ => none
  | .ungateStart _ => none
  | .ungateComplete _ => none
  | .lateTrapEntry _ _ => none
  | .preemptNotice _ _ => none
  | .pbudgetExpiry _ _ => none
  | .preemptSave _ => none
  | .gangResume _ => none
  | .translationWalk _ => none
  | .fackStore _ _ => none
  | .queueWriteStore _ _ => none
  | .prioStore _ _ => none
  | .preemptRequest _ => none
  | .dependenceReread => none
  | .packetSelection => none
  | .gangPlacement => none
  | .placementWaitExpiry _ => none
  | .launchCompletion _ => none
  | .rewardMessageHandling _ => none
  | .partRecorded _ _ => none
  | .zeroFillDone _ _ => none
  | .deadline _ => none
  | .fullerScanDone _ _ => none
  | .episodeRelease _ _ => none
  | .lreadReread _ _ => none
  | .readMsg _ => none
  | .readReply _ => none
  | .writeMsg _ => none
  | .acknowledge _ => none
  | .atomicMsg _ => none
  | .atomicReply _ => none
  | .putWithSignal _ => none
  | .rewardMsg _ => none
  | .barrierMsg _ => none
  | .stopMessage _ => none
  | .errorMsg _ => none
  | .sessionMsg _ => none
  | .linkFailure _ => none
  | .stopTakesEffect _ => none
  | .stopCmd _ => none
  | .resumeCmd _ => none
  | .resumeTakesEffect _ => none
  | .stepCmd _ _ => none
  | .wpctlWrite _ _ _ => none
  | .slotWindowWrite _ _ _ _ => none
  | .registerWrite _ _ => none
  | .dumpGang => none
  | .rctlStore _ _ => none
  | .invalidateTranslations _ => none
  | .invalidateRange _ => none
  | .functionLevelReset _ => none
  | .replay _ => none
  | .assign _ => none
  | .release _ => none
  | .create _ => none
  | .destroy _ => none
  | .queueOp _ => none
  | .region _ => none
  | .report _ => none
  | .extend _ => none
  | .sessionOperation _ => none
  | .rootOp _ => none
  | .writeOperation _ => none
  | .sleepOperation _ => none
  | .deepSleepEntry => none
  | .managementWake => none
  | .coldReset => none
  | .powerLoss => none
  | .thermalWarning _ => none
  | .thermalWarningClear _ => none
  | .criticalTrip => none
  | .debugUnlock _ _ _ _ _ => none
  | .provisioning => none
  | .productionFuse => none
  | .retireFuse => none
  | .notAnInstruction _ _ _ => none
  | .flushiAcknowledgement _ _ => none
  | .tcinvAcknowledgement _ _ => none
  | .unitInstructionHandling _ => none
  | .fabricDrop _ => none
  | .cxlLinkDown _ => none

/-! ### Lines -/

/-- Parcel k of a line: bytes 2k and 2k + 1, low byte first (R112). -/
def Line.parcel (l : Line) (k : Nat) : Parcel := l.extractLsb' (16 * k) 16

/-- What a slot of a line holds. -/
inductive SlotHead where
  | instr (h : Parcel) (t : Tail)
  | overlap (h : Parcel)
deriving DecidableEq, Repr

/-- The tail of tl parcels that ends below parcel e. -/
def Line.tailAt (l : Line) (e tl : Nat) : Tail :=
  match tl with
  | 0 => .none
  | 1 => .one (l.parcel (e - 1))
  | 2 => .two (l.parcel (e - 2) ++ l.parcel (e - 1))
  | _ => .three (l.parcel (e - 3) ++ l.parcel (e - 2) ++ l.parcel (e - 1))

/-- The loop of R113 from slot j with e one past the lowest parcel taken by tails; fuel counts the slots left. -/
def Line.slotsFrom (l : Line) : (fuel j e : Nat) → List SlotHead
  | 0, _, _ => []
  | fuel + 1, j, e =>
    if e ≤ j then []
    else
      let h := l.parcel j
      if h == 0xFFFF#16 then []
      else
        let tl := (h.extractLsb' 14 2).toNat
        if e < j + tl + 1 then [.overlap h]
        else .instr h (l.tailAt e tl) :: l.slotsFrom fuel (j + 1) (e - tl)

/-- The slots of a line that hold an instruction, in order (R113). -/
def Line.slots (l : Line) : List SlotHead := l.slotsFrom 32 0 32

/-- What slot j of a line decodes to. -/
noncomputable def decodeSlot (l : Line) (j : Nat) : Except Reject Instr :=
  match l.slots[j]? with
  | none => .error .emptySlot
  | some (.overlap _) => .error .overlappingHead
  | some (.instr h t) => decodeHT h t

/-- The parcels of a tail as c.tval reports them: T1 in [31:16], T2 in [47:32], T3 in [63:48] (R120). -/
def Tail.report : Tail → BitVec 48
  | .none => 0
  | .one v => (0 : BitVec 32) ++ v
  | .two v => (0 : BitVec 16) ++ v.extractLsb' 0 16 ++ v.extractLsb' 16 16
  | .three v => v.extractLsb' 0 16 ++ v.extractLsb' 16 16 ++ v.extractLsb' 32 16

/-- c.tval of an encoding check: head and tail; a zero tail for an overlapping head (R120). -/
def slotReport (l : Line) (j : Nat) : Word :=
  match l.slots[j]? with
  | none => 0
  | some (.overlap h) => (0 : BitVec 48) ++ h
  | some (.instr h t) => t.report ++ h

/-- The line that holds one instruction in slot 0: its head in parcel 0, its tail ending at parcel 31, a pad after it. -/
def lineOf (h : Parcel) (t : Tail) : Line :=
  match t with
  | .none => (0 : BitVec 480) ++ (0xFFFF : BitVec 16) ++ h
  | .one v => v ++ (0 : BitVec 464) ++ (0xFFFF : BitVec 16) ++ h
  | .two v => v.extractLsb' 0 16 ++ v.extractLsb' 16 16 ++ (0 : BitVec 448) ++ (0xFFFF : BitVec 16) ++ h
  | .three v =>
    v.extractLsb' 0 16 ++ v.extractLsb' 16 16 ++ v.extractLsb' 32 16 ++ (0 : BitVec 432) ++ (0xFFFF : BitVec 16) ++ h

/-- Head and tail of an instruction given as one number in the numbering of the opcode table: the head is its most
significant parcel, T1 the next, and parcels the number does not give are zero. -/
def tablePacked (nbits w : Nat) : Parcel × Tail :=
  let n := nbits / 16
  let p (k : Nat) : Parcel := if k < n then BitVec.ofNat 16 (w >>> (16 * (n - 1 - k))) else 0
  let h := p 0
  match (h.extractLsb' 14 2).toNat with
  | 0 => (h, .none)
  | 1 => (h, .one (p 1))
  | 2 => (h, .two (p 1 ++ p 2))
  | _ => (h, .three (p 1 ++ p 2 ++ p 3))

/-- The line that holds the instruction whose bits are w in the opcode table's numbering. -/
def tableLine (nbits w : Nat) : Line := lineOf (tablePacked nbits w).1 (tablePacked nbits w).2

/-- The instruction the decoder reads from the bits w, numbered as the opcode table numbers them. -/
noncomputable def decodeTableWord (nbits w : Nat) : Option Instr :=
  match decodeSlot (tableLine nbits w) 0 with
  | .ok i => some i
  | .error _ => none

/-- The parcels of a tail, T1 first: the order in which they lie in the line. -/
def Tail.parcels : Tail → List Parcel
  | .none => []
  | .one v => [v]
  | .two v => [v.extractLsb' 16 16, v.extractLsb' 0 16]
  | .three v => [v.extractLsb' 32 16, v.extractLsb' 16 16, v.extractLsb' 0 16]

/-- The words of an instruction: its head parcel and its tail parcels. -/
def encode (i : Instr) : List Parcel :=
  match encodeHT i with
  | none => []
  | some (h, t) => h :: t.parcels

end Sys2Proof
end

