-- ==== Sys2Proof/Machine/Slot.lean ====
section
/-!
DEFINITION. What one slot holds: the full state of one thread (03 R30), with what it waits for and what it has
outstanding.
-/

namespace Sys2Proof.Machine

/-- The states of a slot (R31). -/
inductive SlotState where
  | empty
  | ready
  | parked
  | stopped
deriving DecidableEq, Repr

/-- A thread by its place: physical core and slot. -/
structure Tid where
  core : Nat
  slot : BitVec 3
deriving DecidableEq, Repr

/-- Who makes an access. -/
inductive Agent where
  | thread (t : Tid)
  /-- One element of a relaxed access of a thread: 64 times its instruction's number, plus its place. -/
  | access (t : Tid) (acc : Nat)
  /-- A window spill of a thread in an idle cycle (R100). -/
  | window (t : Tid)
  | copy (core : Nat)
  | grid (core : Nat)
  | blocker (core : Nat)
  /-- The dispatcher, for the head of a queue or for a launch. -/
  | queue (n : Nat)
  | launch (id : Nat)
  /-- A join unit, for the record that RLVER names, for an entry, or for the rings of a binding. -/
  | join (u : Nat)
  | entry (u k : Nat)
  | group (u b : Nat)
  /-- The closed tile stamps of a thread, on path D (R373). -/
  | stamp (t : Tid)
  | dump
  /-- The fault unit, for the records of a host function, or for its acknowledgements (R350, R352). -/
  | faultUnit (fn : Nat)
  | fack (fn : Nat)
  /-- The dispatcher and the secure service core, for the recording or replay of a host function (R376). -/
  | recorder (fn : Nat)
  | digest (fn : Nat)
  /-- The secure service core, in the teardown of a context (R393). -/
  | ssc
deriving DecidableEq, Repr

/-- The thread behind an agent. -/
def Agent.tid? : Agent → Option Tid
  | .thread t | .access t _ => some t
  | _ => none

/-- The thread on whose account an agent acts. -/
def Agent.owner? : Agent → Option Tid
  | .thread t | .access t _ | .window t | .stamp t => some t
  | _ => none

/-- The thread whose parked instruction, or whose window, makes an access: what its gang's end abandons at once (R344). -/
def Agent.parked : Agent → Option Tid
  | .thread t | .window t => some t
  | _ => none

/-- A trap's class, CODE and c.tval (R338, R339). -/
structure TrapInfo where
  cls : BitVec 5
  code : BitVec 16
  tval : Word
deriving DecidableEq, Repr

/-- A late or deferred trap that waits for an instruction boundary (R341): c.tpc2, LATE, DEFER, whether c.epc is 0 (the
RETS of R49), whether the access or blank was a handler's, and the number at which the access or the evaluation that failed began. -/
structure LateTrap where
  age : Nat
  info : TrapInfo
  pc2 : Word
  late : Bool
  defer : Bool
  epcZero : Bool
  byHandler : Bool
deriving DecidableEq, Repr

/-- What a parked thread waits for (R31). -/
inductive Await where
  | none
  /-- A table WAIT on the word at this home (R165). -/
  | table (home : Nat)
  /-- A refused remote wait, retried at this count (R168). -/
  | refused (home : Nat) (at_ : Nat)
  /-- The tag of the word at this home (R52). -/
  | tag (home : Nat)
  /-- The value of the word at this home: SBWAIT (R225), and JOIN (R51). -/
  | value (home : Nat)
  | join (home : Nat)
  /-- A push to a deque of the gang in the quad, or the quit word's tag (R229); retry is the count at which a refused wait on that word is
  tried again (R53, R168). -/
  | steal (home : Option Nat) (retry : Option Nat)
  /-- The reissue of a redirected access (R162), or the next element of a form whose last one has made waiters due (R166). -/
  | rdr
  /-- The walk of the page of this address (R349), or the service of its fault (R350). -/
  | walk (va : Word)
  | service (va : Word)
  /-- A reply over the fabric to request number tag (R396). -/
  | reply (tag : Nat)
  /-- The end of a forcing (R291). -/
  | force
  /-- The token write of a copy (R302), all copies of the thread (R206, R145), room in the copy queue (R297). -/
  | token (home : Nat)
  | copies
  | copyRoom
  /-- The thread's relaxed accesses (R174, R202). -/
  | outs
  /-- An older store of another thread to the same bytes that is still on the route to their home (R198). -/
  | route
  /-- The end of the ungating of the core that holds the word (R61). -/
  | gate (core : Nat)
  /-- A barrier round (R222). -/
  | barrier (sc : BitVec 3)
  /-- Ports (R55). -/
  | portUp
  | portDown
  | vportUp
  | vportDown
  /-- The matrix grant (R258), the end of the thread's own grid operation, and its turn on the grid (R263). -/
  | grant
  | grid
  | turn
  /-- A count of the core's cycles (R359). -/
  | sleep (at_ : Nat)
  /-- An earlier instruction of the core, in whose issue order it takes effect (R150, R169, R192). -/
  | order
  /-- The end of a spill in progress (R104). -/
  | window
  /-- Acknowledgements of FLUSHI or TCINV (R233, R358). -/
  | acks
  /-- A reward join unit's reply (R337). -/
  | unit
deriving DecidableEq, Repr

/-- A line of the own local store as it was before a write: its offset, the bytes written, its data, the tags of its words, the poisoned ones among
them (R293). -/
structure LineSnap where
  off : Nat
  be : BitVec 64
  line : Line
  tags : List (BitVec 3)
  poison : List Nat
deriving DecidableEq, Repr

/-- A parked instruction and its progress: elements done, data gathered, the address of a redirected access, the
number of its place in the order of waiters, the core's count when its table wait began, whether the watchdog ended that wait; step
counts the parts of an instruction of several accesses; fault is a failure met in the reads of a TST, with its block, which waits for the writes below it
(R285); seen keeps what a control register held when the instruction issued (R150), and count the core's count then (R370). -/
structure Cont where
  head : Parcel
  tail : Tail
  npc : Word
  idx : Nat
  acc : List Line
  redirect : Option Word
  second : Bool
  seq : Nat
  since : Option Nat
  dog : Bool
  step : Nat
  fault : Option (Nat × TrapInfo)
  seen : Option Word
  count : Word
deriving DecidableEq, Repr

/-- Where a scalar register's value is stored (R97, R98, R102). -/
inductive RegLoc where
  | zero
  | common (i : Nat)
  | portIn
  | portOut
  | ring (i : Nat)
  | trap (i : Nat)
deriving DecidableEq, Repr

/-- The atomic operations of R188. -/
inductive AtomOp where
  | add
  | and
  | or
  | xor
  | swp
  | cas
  | min
  | max
  | minu
  | maxu
  | fadd
deriving DecidableEq, Repr

/-- What one access does to its bytes. Data stand in the low bytes. -/
inductive WordOp where
  | read
  | write (data : Line)
  /-- An atomic (R188): operand, the value that ACAS expects. -/
  | atom (op : AtomOp) (operand cmp : Word)
  /-- The tag operations (R191) and SBINIT (R223). -/
  | tget
  | tset (t : BitVec 3)
  | tcas (expect new : BitVec 3)
  | sbinit (exp : BitVec 20) (t : BitVec 3)
  /-- The tag read of WAIT and of STEAL's quit word (R226, R229). -/
  | tagRead
  /-- An arrival at a stage barrier (R210). -/
  | arrive
  /-- The join updates of SPAWN and RETS, and a CPS signal (R48, R49, R301): add this number. -/
  | addWord (n : Word)
deriving DecidableEq, Repr

/-- One access: address as issued, size in bytes, which of its bytes are enabled, its operation. -/
structure Acc where
  va : Word
  size : Nat
  be : BitVec 64
  op : WordOp
deriving DecidableEq, Repr

/-- What a relaxed instruction does with what its elements return. -/
inductive OutDest where
  | none
  | scalar (loc : RegLoc) (n : Nat) (signed : Bool)
  | fadd (loc : RegLoc)
  /-- A vector register, element width in bits, one wide access or one access per element. -/
  | vector (r : VReg) (ew : Nat) (wide : Bool)
deriving DecidableEq, Repr

/-- One element of a relaxed access: its number, the access, its home, how far it has come (0 outbound queue, 1 quad router,
2 die egress, 3 port of the I/O die) and the number at which it came there, whether it was redirected, what it waits for and since when, whether it is
over, whether it failed, what it returned. -/
structure OutItem where
  elem : Nat
  acc : Acc
  home : Nat
  point : Nat
  came : Nat
  second : Bool
  stall : Await
  since : Option Nat
  done : Bool
  failed : Bool
  ret : Line
deriving DecidableEq, Repr

/-- An outstanding relaxed instruction (R174); multi marks the strided, gather and scatter forms; fail is the lowest element that
failed and its trap (R186). -/
structure Out where
  seq : Nat
  pc : Word
  byHandler : Bool
  store : Bool
  multi : Bool
  fail : Option (Nat × TrapInfo)
  items : List OutItem
  dest : OutDest
deriving DecidableEq, Repr

/-- What the current frame is (R102): a frame of the interrupted program, the trap frame, or a callee of a handler at
this depth. -/
inductive Frame where
  | normal
  | trap
  | callee (depth : Nat)
deriving DecidableEq, Repr

/-- Scalar, vector and descriptor registers with the window ring (R97 to R109). older counts the resident older frames;
left counts, while a handler runs, the resident groups of the interrupted program: pass bank, interrupted frame, older frames. -/
structure Regs where
  common : Vector Word 5
  ring : Vector Word 64
  trap : Vector Word 24
  vec : Vector Line 32
  desc : Vector (BitVec 256) 8
  cur : BitVec 2
  older : Nat
  frame : Frame
  left : Nat
deriving DecidableEq, Repr

/-- The per-slot control registers (R110), as their fields. -/
structure CRegs where
  gid : Word
  gdim : Word
  core : Word
  ncore : Word
  tid : Word
  nactive : Word
  fmta : BitVec 4
  fmtb : BitVec 4
  scla : BitVec 8
  sclb : BitVec 8
  nbv : BitVec 1
  frm : BitVec 2
  fflags : BitVec 6
  fen : BitVec 6
  wsb : BitVec 11
  wsl : BitVec 11
  wsp : BitVec 11
  sbtag : BitVec 3
  rngk : Word
  rngc : Word
  rngch : Word
  tvec : BitVec 58
  epc : BitVec 63
  code : BitVec 16
  defer : BitVec 1
  late : BitVec 1
  cls : BitVec 5
  tval : Word
  tpc2 : BitVec 63
  intrap : Bool
  wloop : BitVec 63
  pbudget : BitVec 32
deriving DecidableEq, Repr

/-- The ports of a thread (R54, R55): flags, downstream target (member and slot), upstream queues, and which slot of the
quad claims each queue. -/
structure Port where
  dn : Bool
  su : Bool
  vu : Bool
  vp : Bool
  target : BitVec 5
  sq : List Word
  vq : List Line
  sclaim : Option Tid
  vclaim : Option Tid
deriving DecidableEq, Repr

/-- The tile operations (R281). -/
inductive TileOp where
  | mul (k : Nat) (acc : Bool)
  | add
  | sub
  | max
  | map (fn : BitVec 2) (a c : BitVec 32)
  | cvt (sat : Bool)
  | redSum
  | redMax
deriving DecidableEq, Repr

/-- A failed block (R290): its number, the write accesses that are still to be made once its values have been computed (line, data, bits
written), the flags of its values. DEDUCED: log entry 37. -/
structure FltBlock where
  block : Nat
  writes : Option (List (Nat × Line × Line))
  fl : BitVec 6
deriving DecidableEq, Repr

/-- A blank (R277): pend lists the blocks still pending, flt those of them that failed; rm is 0 to 3. -/
structure Blank where
  seq : Nat
  pc : Word
  byHandler : Bool
  op : TileOp
  dst : BitVec 256
  src1 : BitVec 256
  src2 : BitVec 256
  rm : BitVec 3
  nbv : BitVec 1
  scla : BitVec 8
  sclb : BitVec 8
  pend : List Nat
  total : Nat
  flt : List FltBlock
deriving DecidableEq, Repr

/-- One slot. src is the PC that led to pc (the c.tval of R114); notice is 1 while a preempt notice is pending and 2 once it
is delivered and c.pbudget counts (R322); stamps holds the closed stamps that are not yet in their ring (R373); stopAt is the core's count when the slot became STOPPED. -/
structure Slot where
  st : SlotState
  heldSt : SlotState
  await : Await
  cont : Option Cont
  gang : Nat
  index : Nat
  pc : Word
  src : Word
  mode : Bool
  regs : Regs
  cr : CRegs
  port : Port
  deque : List (Word × Word)
  blanks : List Blank
  outs : List Out
  lates : List LateTrap
  notice : Nat
  ab : Vector (Option Nat) 6
  stamp : Option (Vector Word 8)
  stamps : List (Vector Word 8)
  stopAt : Nat
deriving DecidableEq, Repr

/-- Registers of an empty slot. -/
def Regs.zero : Regs :=
  { common := Vector.replicate 5 0, ring := Vector.replicate 64 0, trap := Vector.replicate 24 0,
    vec := Vector.replicate 32 0, desc := Vector.replicate 8 0, cur := 0, older := 0, frame := .normal, left := 0 }

/-- Control registers of an empty slot. -/
def CRegs.zero : CRegs :=
  { gid := 0, gdim := 0, core := 0, ncore := 0, tid := 0, nactive := 0, fmta := 0, fmtb := 0, scla := 0, sclb := 0,
    nbv := 0, frm := 0, fflags := 0, fen := 0, wsb := 0, wsl := 0, wsp := 0, sbtag := 0, rngk := 0, rngc := 0,
    rngch := 0, tvec := 0, epc := 0, code := 0, defer := 0, late := 0, cls := 0, tval := 0, tpc2 := 0,
    intrap := false, wloop := 0, pbudget := 0 }

/-- Ports disabled and empty (R43). -/
def Port.zero : Port :=
  { dn := false, su := false, vu := false, vp := false, target := 0, sq := [], vq := [], sclaim := none, vclaim := none }

/-- An EMPTY slot at reset. DESIGN CHOICE: log entry 2. -/
def Slot.zero : Slot :=
  { st := .empty, heldSt := .empty, await := .none, cont := none, gang := 0, index := 0, pc := 0, src := 0,
    mode := false, regs := Regs.zero, cr := CRegs.zero, port := Port.zero, deque := [], blanks := [], outs := [],
    lates := [], notice := 0, ab := Vector.replicate 6 none, stamp := none, stamps := [], stopAt := 0 }

end Sys2Proof.Machine
end

