-- ==== Sys2Proof/Machine/CoreState.lean ====
section
/-!
DEFINITION. What one core holds beside its slots (01 R18): tag action tables, matrix grant, scale FIFO, grid, copy engine,
trace ring, instruction cache, debug block, power gating.
-/

namespace Sys2Proof.Machine

/-- A grid operation of MMA or MMAS that has issued (R263, R268): operands, the copy of ACC, the numeric controls sampled at issue,
NEXT, whether it pops s6, the lines read so far, and the count at which it began to stall. -/
structure GridOp where
  slot : BitVec 3
  scaled : Bool
  a : Word
  b : Word
  k : Nat
  fa : BitVec 4
  fb : BitVec 4
  acc : List Line
  nbv : BitVec 1
  scla : BitVec 8
  sclb : BitVec 8
  npc : Word
  pop : Bool
  seq : Nat
  got : List Line
  since : Option Nat
deriving DecidableEq, Repr

/-- A pattern record (R295). -/
structure Pattern where
  base : Word
  esize : Nat
  ext : List Nat
  str : List Word
deriving DecidableEq, Repr

/-- A copy command (R297 to R301): the thread and gang that issued it, its token's home, elements [pos, n) still to move, the element
that has been read and is to be written, signal word and decrement, whether the engine has taken it, whether every element has been moved
and the signal applied, the status of a failure, what it stalls on and since when. -/
structure CopyCmd where
  seq : Nat
  tid : Tid
  gang : Nat
  token : Nat
  src : Pattern
  dst : Pattern
  pos : Nat
  n : Nat
  signal : Option (Word × BitVec 16)
  started : Bool
  data : Option Line
  signaled : Bool
  fail : Option (BitVec 18)
  stall : Await
  since : Option Nat
deriving DecidableEq, Repr

/-- A line of the instruction cache, by context and line address (R212). -/
structure CodeLine where
  ctx : BitVec 8
  addr : Word
  line : Line
deriving DecidableEq, Repr

/-- A block that a demand names: slot, blank, block number, whether the blocks that come first have been named, the lines read and the
number of writes made before it stalled. depth counts the blocker writes on whose account it is forced (R291); passed is the number of the write whose
forcing has ended in a failure, plus one; undo holds the lines written, the last first (R293). -/
structure DBlock where
  slot : BitVec 3
  seq : Nat
  n : Nat
  opened : Bool
  got : List Line
  made : Nat
  depth : Nat
  passed : Nat
  undo : List LineSnap
deriving DecidableEq, Repr

/-- A demand on the blocker (R289): its number, who makes it, the blocks still to evaluate, whether a block of it failed, the word on which it
stalls and since when. -/
structure Demand where
  seq : Nat
  by_ : Agent
  blocks : List DBlock
  failed : Bool
  stall : Option Nat
  since : Option Nat
deriving DecidableEq, Repr

/-- The debug register block of a core (R360 to R369). -/
structure Debug where
  wpaddr : Vector Word 4
  wpctl : Vector Word 4
  stopSrc : Word
  stopAddr : Word
  stopCnt : Word
  skid : Vector (BitVec 32) 8
  err : Bool
  stepping : Option (BitVec 3)
  dom : BitVec 3
  stopped : Bool
deriving DecidableEq, Repr

/-- The working keys of a context (R384). -/
structure WorkKeys where
  xtsd : BitVec 256
  xtst : BitVec 256
  ltag : BitVec 256
  msgc : BitVec 256
  dump : BitVec 256
  save : BitVec 256
deriving DecidableEq, Repr

/-- A key slot of a network interface or a memory controller (R388). -/
inductive KeySlot where
  | empty
  | null
  | keyed (world : BitVec 8) (keys : WorkKeys)
deriving DecidableEq, Repr

/-- One core. ctx is the context whose gangs it holds, prev the last one whose gangs it held; staging holds the words that path M has read ahead
(R204), by offset; tst is the slot whose TST has the grid for a block (R285), lastBlock tells that the last grid operation begun was a block's (R263). -/
structure Core where
  slots : Vector Slot 8
  cyc : Word
  ctx : Option (BitVec 8)
  prev : Option (BitVec 8)
  alloc : SMap Nat
  tables : Vector (Vector (BitVec 16) 64) 3
  shadows : Vector (Vector (BitVec 16) 64) 3
  rmap0 : Word
  rmap1 : Word
  gdly : BitVec 16
  grant : Option (BitVec 3)
  grantq : List (BitVec 3)
  fifo : List (List (BitVec 256))
  grid : Option GridOp
  tst : Option (BitVec 3)
  lastBlock : Bool
  staging : SMap Word
  copies : List CopyCmd
  demands : List Demand
  trace : SMap (BitVec 128)
  trnext : BitVec 9
  frozen : Bool
  icache : List CodeLine
  dbg : Debug
  idle : Nat
  gated : Bool
  ungating : Bool
  keys : SMap KeySlot
deriving DecidableEq, Repr

/-- The debug block at reset. -/
def Debug.zero : Debug :=
  { wpaddr := Vector.replicate 4 0, wpctl := Vector.replicate 4 0, stopSrc := 0, stopAddr := 0, stopCnt := 0,
    skid := Vector.replicate 8 0, err := false, stepping := none, dom := 0,
    stopped := false }

/-- A core at reset: every slot EMPTY, tables the identity (R154, R156). -/
def Core.zero : Core :=
  { slots := Vector.replicate 8 Slot.zero, cyc := 0, ctx := none, prev := none, alloc := [],
    tables := Vector.replicate 3 (Vector.replicate 64 0), shadows := Vector.replicate 3 (Vector.replicate 64 0),
    rmap0 := 0, rmap1 := 0, gdly := 0x0400, grant := none, grantq := [], fifo := [], grid := none, tst := none, lastBlock := false, staging := [], copies := [], demands := [],
    trace := [], trnext := 0, frozen := false, icache := [], dbg := Debug.zero, idle := 0, gated := false,
    ungating := false, keys := [] }

end Sys2Proof.Machine
end

