-- ==== Sys2Proof/Machine/Units.lean ====
section
/-!
DEFINITION. The agents outside the cores: translation (24), dispatcher (21), reward join units (22), secure service core
(28), host functions, fabric and platform (30), replay (26).
-/

namespace Sys2Proof.Machine

/-- A valid leaf in a translation cache (R348): context, page number in units of 64 KiB or of 512 MiB, the entry. -/
structure Leaf where
  ctx : BitVec 8
  page : Nat
  big : Bool
  pte : Word
deriving DecidableEq, Repr

/-- A walk in progress (R349): for a (context, 64 KiB page) on a die (8 and 9: the I/O dies), the quads whose misses joined
it, the agents that wait, the first faulting access's address and kind code (R351). -/
structure Walk where
  seq : Nat
  die : Nat
  ctx : BitVec 8
  page : Nat
  va : Word
  kind : BitVec 3
  quads : List Nat
  agents : List Agent
deriving DecidableEq, Repr

/-- A translation fault (R350): record index once recorded, the record's words, the agents attached. -/
structure FaultRec where
  ctx : BitVec 8
  page : Nat
  fn : Nat
  index : Option Nat
  words : Vector Word 4
  agents : List Agent
deriving DecidableEq, Repr

/-- Who waits on a local-store word, in parking order (R166). -/
structure Waiter where
  seq : Nat
  home : Nat
  agent : Agent
  remote : Bool
  /-- Woken by any write to the word, not only by a tag change (R51, R210). -/
  onWrite : Bool
  onTag : Bool
  /-- A wait under a WAIT action (R165). -/
  table : Bool
  /-- An access that is held until its core has ungated (R61), or until the token at this home has been written (R302). -/
  gate : Bool
deriving DecidableEq, Repr

/-- A round of a barrier channel (R221): scope, its gang or launch, its place, its pod group, the round now open. -/
structure Chan where
  sc : BitVec 3
  owner : Nat
  place : Nat
  group : Nat
  round : Nat
  /-- A pod channel whose arrival has gone to its root, and one whose arrival for good has (R404). -/
  sent : Bool
  final : Bool
deriving DecidableEq, Repr

/-- A stop or a resume on its way to a core (R365, R368): it takes effect at count at_ of that core. hit is that core's count in cycle h, issued what each
slot has issued since (R367). -/
structure StopMsg where
  core : Nat
  at_ : Nat
  ctx : BitVec 8
  gangs : Option (List Nat)
  src : Word
  addr : Word
  cnt : Word
  dom : BitVec 3
  hit : Nat
  issued : Vector Nat 8
deriving DecidableEq, Repr

/-- The states of a queue's head (R314). -/
inductive HeadState where
  | queued
  | head
  | depwait
  | eligible
deriving DecidableEq, Repr

/-- A work queue (R309): the record's words, the owning host function, the head's state. depFailed marks a dependence read
that failed; due is the dispatcher's count at which the word of a head in DEPWAIT is read again (R314). -/
structure Queue where
  w : Vector Word 8
  owner : Option Nat
  head : HeadState
  depFailed : Bool
  due : Nat
deriving DecidableEq, Repr

/-- The states of a launch (R314): ended means that its code is known and STATUS is to be written. -/
inductive LaunchState where
  | check
  | placing
  | running
  | ended
deriving DecidableEq, Repr

/-- A launch (R314): queue and index, context and permitted dies, packet and descriptor, latched priority, the dispatcher count at which it began
to wait for placement, the next gang to place and their number, whether a notice was delivered, CODE, GANG and REASON, whether STATUS is
written, its packet index in a recording, the value of c.nbv that a replay gives, whether READ has passed it. -/
structure Launch where
  id : Nat
  queue : Nat
  index : Nat
  ctx : BitVec 8
  aff : BitVec 8
  packet : Vector Word 16
  desc : Vector Word 8
  prio : Nat
  state : LaunchState
  since : Nat
  nextGang : Nat
  total : Nat
  noticed : Bool
  code : Nat
  gangNo : Nat
  reason : Nat
  written : Bool
  recorded : Option Nat
  nbv : Option Bool
  advanced : Bool
deriving DecidableEq, Repr

/-- One core's part of a gang's saved image (R321), with the core it was on and the places of its waiters (R235). -/
structure CoreImage where
  core : Nat
  base : Nat
  regions : Nat
  slots : SMap Slot
  bytes : SMap Byte
  tags : SMap (BitVec 3)
  poison : List Nat
  badTags : List Nat
  tables : Vector (Vector (BitVec 16) 64) 3
  shadows : Vector (Vector (BitVec 16) 64) 3
  rmap0 : Word
  rmap1 : Word
  gdly : BitVec 16
  fifo : List (List (BitVec 256))
  grant : Option (BitVec 3)
  copies : List CopyCmd
  waiters : List Waiter
  dbg : Debug
  /-- The save key under which it is written; none for world 0 (R384, R394). -/
  key : Option (BitVec 256)
deriving DecidableEq, Repr

/-- Where a gang is: on a core, its region base, its number of regions, its slots. -/
structure GangCore where
  core : Nat
  base : Nat
  regions : Nat
  slots : List (BitVec 3)
deriving DecidableEq, Repr

/-- A gang (R36). image holds a saved gang; fatal holds its fatal trap with its CODE and c.tval, the thread and c.epc (R339, R344); preempt says that it stops to be
saved. -/
structure Gang where
  id : Nat
  launch : Nat
  linear : Nat
  ctx : BitVec 8
  aper : Bool
  places : List GangCore
  image : Option (List CoreImage)
  fatal : Option (TrapInfo × Tid × Word)
  preempt : Bool
deriving DecidableEq, Repr

/-- An invalidation of instruction caches by FLUSHI (R233): its number, its scope from a core, the context and the range. -/
structure Flush where
  num : Nat
  sc : BitVec 3
  core : Nat
  ctx : BitVec 8
  base : Nat
  len : Nat
deriving DecidableEq, Repr

/-- A dump that is to be made (R374): its gang; the gang's commands as the copy engines ended them; once it has begun, the dump engine's count then
and the sections of commands and blanks; once all is read, the sections and whether one is left out, and the dump's bytes; how many chunks of it are written,
the pages of the dump area that the host refused, and the blocks that have failed in it: core, slot, blank, block. -/
structure DumpJob where
  gang : Nat
  copies : List (Nat × CopyCmd)
  start : Option (Word × List (List Byte))
  body : Option (List Byte × Bool)
  bytes : List Byte
  pos : Nat
  gaps : List Nat
  flt : List (Nat × BitVec 3 × Nat × Nat)
deriving DecidableEq, Repr

/-- A dump that has not begun. -/
def DumpJob.new (gang : Nat) : DumpJob := { gang := gang, copies := [], start := none, body := none, bytes := [], pos := 0, gaps := [], flt := [] }

/-- A reward message as a unit receives it (R328). -/
structure RewardMsg where
  ctx : BitVec 8
  key : Word
  hdr : Word
  data : Line
deriving DecidableEq, Repr

/-- An instruction that a join unit has accepted (R329, R337). -/
inductive UnitInstr where
  | epreg (t : Tid) (ctx : BitVec 8) (desc : Vector Word 8)
  | rlver (t : Tid) (ctx : BitVec 8) (g : BitVec 4) (v r : Word)
  | rjqry (t : Tid) (ctx : BitVec 8) (g : BitVec 4) (key : Word)
deriving DecidableEq, Repr

/-- The rings of a group record (R325). -/
inductive Ring where
  | learner
  | stale
  | orphan
deriving DecidableEq, Repr

/-- What a unit has still to write for a binding, in its order: a record of a ring, with the index that follows it, or an error (R325). -/
inductive RingJob where
  | record (r : Ring) (ws : List Word)
  | error (e : BitVec 8)
deriving DecidableEq, Repr

/-- A binding of a group to a record (R325, R337): record address, the unit's copies of words 0, 1, 3, 5, 7 and 8, the ring indices, LREAD as
last read, the version; bound marks the group's present binding, full a learner ring without room. -/
structure Group where
  ctx : BitVec 8
  g : BitVec 4
  addr : Word
  lbase : Word
  sizes : Word
  sbase : Word
  obase : Word
  sig : Word
  sdec : Word
  lwrite : BitVec 32
  lread : BitVec 32
  swrite : BitVec 32
  owrite : BitVec 32
  err : BitVec 8
  version : BitVec 32
  bound : Bool
  full : Bool
  work : List RingJob
deriving DecidableEq, Repr

/-- An entry of a join unit (R327). pending holds the headers and rewards of parts that are being written; done is the completion
count, order the order of closing; opened is the count at which it became OPEN; grec is the binding as of completion; written marks a release whose record is written and whose
signal is not applied yet; stalled, an access whose fault is in service. -/
structure Entry where
  ctx : BitVec 8
  group : BitVec 4
  key : Word
  desc : Vector Word 8
  state : Nat
  parts : BitVec 64
  pending : List (Word × Line)
  dup : BitVec 8
  tout : Bool
  out : Nat
  reg : Word
  opened : Word
  done : Word
  order : Nat
  grec : Option Nat
  written : Bool
  stalled : Bool
deriving DecidableEq, Repr

/-- A reward join unit (R324). phase tells how much of the present cycle is done (R329): 0 nothing, 1 its instruction, 2 its message, 3 its
deadlines. stalled marks an instruction that waits for the record that it reads. -/
structure JoinUnit where
  count : Word
  groups : SMap Group
  entries : SMap Entry
  inq : List RewardMsg
  instrs : List UnitInstr
  closes : Nat
  phase : Nat
  stalled : Bool
deriving DecidableEq, Repr

/-- A context (R383). key is its context key, drawn from the entropy source. -/
structure Context where
  world : BitVec 8
  root : Word
  dumpBase : Word
  dumpLen : Word
  saveBase : Word
  saveLen : Word
  owner : Nat
  meas : Line
  key : BitVec 256
deriving DecidableEq, Repr

/-- What follows the failure of contexts: nothing; the end of a function-level reset or of a DESTROY; Off after a critical trip; the rest of a debug unlock, with
the permissions granted, the event and the granules to scrub; the rest of a wake whose tag has failed, with the granules to scrub. -/
inductive TearEnd where
  | nothing
  | reset (fn : Nat)
  | destroy (fn : Nat)
  | trip
  | unlock (perm : BitVec 8) (ev : List Byte) (granules : List Nat)
  | scrub (granules : List Nat)
deriving DecidableEq, Repr

/-- The failure of contexts (R393): the step that is next, the number as of which the engines stopped, whether it is reported, each context's function and
pages of its dump notification ring with their homes as they stood before step 4, the places of its gangs, the dies that are still to be torn down, and what
follows. -/
structure Teardown where
  ctxs : List (BitVec 8)
  step : Nat
  num : Nat
  report : Bool
  rings : List (BitVec 8 × Nat × List (Nat × Nat))
  places : List GangCore
  dies : List Nat
  last : TearEnd
deriving DecidableEq, Repr

/-- A session (R400). -/
structure Session where
  world : BitVec 8
  ctx : BitVec 8
  endpoint : BitVec 8
  key : BitVec 256
deriving DecidableEq, Repr

/-- What is kept through deep sleep (R394): the sleep key, in always-on retention; in HBM the wrapped keys of contexts (2c) and of sessions (2k + 1), each
with its nonce, the latches, the region-world table and the tag over both. -/
structure Retained where
  key : BitVec 256
  wrapped : SMap (BitVec 96 × List Byte)
  latches : Vector (BitVec 16) 8
  regions : SMap (BitVec 16)
  tag : BitVec 256
deriving DecidableEq, Repr

/-- A Session exchange in progress: who opens it, the world, the bytes of the encapsulation key that have come (R400). -/
structure Offer where
  endpoint : BitVec 8
  world : BitVec 8
  bytes : List Byte
deriving DecidableEq, Repr

/-- The secure service core (28), with the count of its cycles (R27). secret and tokenKey are the fused device secret and the digest of the debug-token key
(R389), digest is that of the firmware with which M0 was extended (R407), sleepCount the count from which nonces under sleep keys are taken (R394), lastMail
the function whose mailbox was served last (R402). -/
structure Ssc where
  life : BitVec 3
  provisioned : Bool
  deviceId : Word
  secret : BitVec 256
  tokenKey : BitVec 256
  digest : Line
  meas : Vector Line 8
  latches : Vector (BitVec 16) 8
  regions : SMap (BitVec 16)
  contexts : SMap Context
  sessions : SMap Session
  nonce : Option (BitVec 256)
  sahgon : Option (BitVec 8)
  retained : Option Retained
  sleepCount : Nat
  mcKeys : SMap KeySlot
  offers : List Offer
  lastMail : Nat
  count : Word
deriving DecidableEq, Repr

/-- A host function: record (R399), command register with its operands (R401), SSC mailbox (R402), the index last acknowledged, whether its fault
records wait for room in the ring, the acknowledgements that are still to be taken up (R351, R352). -/
structure HostFn where
  state : BitVec 2
  dbg : Bool
  pod : Bool
  host : BitVec 8
  fctl : Word
  dbase : Word
  dsize : BitVec 5
  dwrite : BitVec 32
  rctl : Word
  busy : Bool
  err : Bool
  ctx : BitVec 8
  cmd : BitVec 4
  base : Word
  len : Word
  mcmd : Word
  mstat : BitVec 8
  mail : SMap Byte
  facked : BitVec 32
  fwait : Bool
  acks : List (BitVec 32)
deriving DecidableEq, Repr

/-- A packet read back from a replay log (R377): index, queue, packet, c.nbv, digest. -/
structure Logged where
  idx : Nat
  queue : Nat
  packet : Vector Word 16
  nbv : Bool
  digest : BitVec 128
deriving DecidableEq, Repr

/-- What is still to be done for a recording or a replay, in its order (R376 to R378): checking the record that arms it, the snapshot, an entry of the
log, the digest of a packet, writing STATUS, ending with a STATUS, restoring the snapshot, comparing a digest. -/
inductive LogJob where
  | arm
  | snapshot
  | entry (ty idx len payload : Nat)
  | digest (k : Nat)
  | stop (st : Nat)
  | restore
  | compare (k : Nat)
deriving DecidableEq, Repr

/-- Recording and replay of a host function (R376 to R378): the context through which its record is reached, the record's address. work is what is
still to be done; ending tells that it ends with that; left holds the logged packets still to dispatch in replay, wait the launch whose DONE replay
waits for. -/
structure Replay where
  fn : Nat
  ctx : BitVec 8
  addr : Word
  snapped : Bool
  packets : Nat
  replaying : Bool
  work : List LogJob
  ending : Bool
  left : List Logged
  wait : Option Nat
deriving DecidableEq, Repr

/-- An access that a unit's present action has made: what it returned, or why it failed. -/
structure Made where
  agent : Agent
  acc : Acc
  trap : Option TrapInfo
  value : Nat
deriving DecidableEq, Repr

/-- A request that waits for a reply over the fabric (R396): who made it, to which endpoint, its virtual and physical address, whether it is a
fetch of code, and the bytes that a read found on its route when it was sent, by their offset (R196). -/
structure Request where
  tag : Nat
  agent : Agent
  dst : BitVec 8
  va : Word
  pa : Nat
  fetch : Bool
  found : SMap Byte
deriving DecidableEq, Repr

/-- Arrivals of a pod barrier group at its root by package, those of launches whose threads have all exited, and rounds released
(R221, R404). -/
structure PodBar where
  group : Nat
  arrived : List (BitVec 8 × Nat)
  gone : List (BitVec 8 × Nat)
  round : Nat
deriving DecidableEq, Repr

/-- Grades of the part (R1). -/
inductive Grade where
  | zx4096
  | zx3840
  | zx3072
deriving DecidableEq, Repr

/-- Power states (R408). -/
inductive Power where
  | run
  | deepSleep
  | off
deriving DecidableEq, Repr

/-- The platform (30): power, boot progress, how many boots there have been and whether the present one is a wake, grade and core map, links trained and
failed, CXL ports trained and down, whether a deep sleep has begun, counters, dies under a thermal warning, what the sensors last gave (R409). -/
structure Platform where
  power : Power
  boot : BitVec 8
  fail : BitVec 8
  boots : Nat
  waking : Bool
  grade : Grade
  fused : List Nat
  linksUp : BitVec 24
  linksFailed : BitVec 24
  self : BitVec 8
  cxl : BitVec 4
  cxlDown : BitVec 4
  sleeping : Bool
  ecc : SMap Word
  linkCount : SMap Nat
  drops : Nat
  warm : List Nat
  sensors : SMap Word
deriving DecidableEq, Repr

def Queue.zero : Queue := { w := Vector.replicate 8 0, owner := none, head := .queued, depFailed := false, due := 0 }

def JoinUnit.zero : JoinUnit := { count := 0, groups := [], entries := [], inq := [], instrs := [], closes := 0, phase := 0, stalled := false }

def Ssc.zero : Ssc :=
  { life := 2, provisioned := true, deviceId := 0, secret := 0, tokenKey := 0, digest := 0, meas := Vector.replicate 8 0, latches := Vector.replicate 8 0,
    regions := [], contexts := [], sessions := [], nonce := none, sahgon := none, retained := none, sleepCount := 0,
    mcKeys := [], offers := [], lastMail := 0, count := 0 }

def HostFn.zero : HostFn :=
  { state := 0, dbg := false, pod := false, host := 0, fctl := 0, dbase := 0, dsize := 0, dwrite := 0, rctl := 0,
    busy := false, err := false, ctx := 0, cmd := 0, base := 0, len := 0, mcmd := 0, mstat := 0, mail := [],
    facked := 0, fwait := false, acks := [] }

def Platform.zero : Platform :=
  { power := .run, boot := 0, fail := 0, boots := 0, waking := false, grade := .zx4096, fused := [], linksUp := 0, linksFailed := 0, self := 0, cxl := 0, cxlDown := 0, sleeping := false, ecc := [],
    linkCount := [], drops := 0, warm := [], sensors := [] }

end Sys2Proof.Machine
end

