-- ==== Sys2Proof/Machine/State.lean ====
section
/-!
DEFINITION. The whole state of the package, what a step can end in, and the state after reset.
-/

namespace Sys2Proof.Machine

/-- The steps that are no instruction of a thread, as entries of the lists of things to do: the same names and operands
as the constructors of Instr. -/
inductive Event where
  | gridOperationComplete (core : Nat)
  | blockEvaluation (core : Nat)
  | copyCommandStart (core : Nat)
  | copyCommandEnd (core : Nat)
  | sleepExpiry (core : Nat) (slot : BitVec 3)
  | bankOperation (core : Nat) (slot : BitVec 3) (acc : Nat)
  | waiterReevaluation (w : Nat)
  | rdrReissue (core : Nat) (slot : BitVec 3)
  | remoteWaitRetry (core : Nat) (slot : BitVec 3)
  | tagWaitWatchdog (core : Nat) (agent : BitVec 2) (slot : BitVec 3)
  | accessCompletion (core : Nat) (slot : BitVec 3) (acc : Nat) (point : BitVec 3)
  | backgroundSpill (core : Nat) (slot : BitVec 3)
  | barrierRoundRelease (sc : BitVec 3) (key : Nat)
  | gateCommit (core : Nat)
  | ungateStart (core : Nat)
  | ungateComplete (core : Nat)
  | lateTrapEntry (core : Nat) (slot : BitVec 3)
  | preemptNotice (core : Nat) (slot : BitVec 3)
  | pbudgetExpiry (core : Nat) (slot : BitVec 3)
  | preemptSave (g : Nat)
  | gangResume (g : Nat)
  | translationWalk (w : Nat)
  | fackStore (fn : BitVec 6) (idx : BitVec 32)
  | queueWriteStore (q : BitVec 13) (v : BitVec 32)
  | prioStore (q : BitVec 13) (v : BitVec 3)
  | preemptRequest (q : BitVec 13)
  | dependenceReread
  | packetSelection
  | gangPlacement
  | placementWaitExpiry (l : Nat)
  | launchCompletion (l : Nat)
  | rewardMessageHandling (u : BitVec 1)
  | partRecorded (u : BitVec 1) (ent : Nat)
  | zeroFillDone (u : BitVec 1) (ent : Nat)
  | deadline (u : BitVec 1)
  | fullerScanDone (u : BitVec 1) (ent : Nat)
  | episodeRelease (u : BitVec 1) (ent : Nat)
  | lreadReread (u : BitVec 1) (grp : Nat)
  | readMsg (m : Msg)
  | readReply (m : Msg)
  | writeMsg (m : Msg)
  | acknowledge (m : Msg)
  | atomicMsg (m : Msg)
  | atomicReply (m : Msg)
  | putWithSignal (m : Msg)
  | rewardMsg (m : Msg)
  | barrierMsg (m : Msg)
  | stopMessage (m : Msg)
  | errorMsg (m : Msg)
  | sessionMsg (m : Msg)
  | linkFailure (k : Nat)
  | stopTakesEffect (core : Nat)
  | stopCmd (core : Nat)
  | resumeCmd (core : Nat)
  | resumeTakesEffect (core : Nat)
  | stepCmd (core : Nat) (slot : BitVec 3)
  | wpctlWrite (core : Nat) (n : BitVec 2) (v : BitVec 64)
  | slotWindowWrite (core : Nat) (slot : BitVec 3) (off : BitVec 12) (v : BitVec 64)
  | registerWrite (a : Nat) (v : BitVec 64)
  | dumpGang
  | rctlStore (fn : BitVec 6) (v : BitVec 64)
  | invalidateTranslations (fn : BitVec 6)
  | invalidateRange (fn : BitVec 6)
  | functionLevelReset (fn : BitVec 6)
  | replay (fn : BitVec 6)
  | assign (fn : BitVec 6)
  | release (fn : BitVec 6)
  | create (fn : BitVec 6)
  | destroy (fn : BitVec 6)
  | queueOp (fn : BitVec 6)
  | region (fn : BitVec 6)
  | report (fn : BitVec 6)
  | extend (fn : BitVec 6)
  | sessionOperation (fn : BitVec 6)
  | rootOp (fn : BitVec 6)
  | writeOperation (fn : BitVec 6)
  | sleepOperation (fn : BitVec 6)
  | deepSleepEntry
  | managementWake
  | coldReset
  | powerLoss
  | thermalWarning (die : BitVec 3)
  | thermalWarningClear (die : BitVec 3)
  | criticalTrip
  | debugUnlock (dev : BitVec 64) (life : BitVec 3) (nonce : BitVec 256) (perm : BitVec 8) (sig : Nat)
  | provisioning
  | productionFuse
  | retireFuse
  | notAnInstruction (cls : BitVec 5) (code : BitVec 16) (tval : BitVec 64)
  | flushiAcknowledgement (core : Nat) (slot : BitVec 3)
  | tcinvAcknowledgement (core : Nat) (slot : BitVec 3)
  | unitInstructionHandling (u : BitVec 1)
  | fabricDrop (m : Msg)
  | cxlLinkDown (p : BitVec 2)
deriving DecidableEq, Repr

/-- A bit error, an act from outside (R354, R355; DESIGN CHOICE: log entry 60): one that ECC corrects, counted at an offset of the IDECC registers (R409); one it
cannot in a local-store word or an HBM line, in a word's tag bits, in a line against its tag, in a thread's registers or its scale FIFO; in a core's next message under its context's
key (R387); in what deep sleep keeps in HBM, a region-world entry or a wrapped key (R394). DESIGN CHOICE: log entry 60. -/
inductive Upset where
  | corrected (off : Nat)
  | data (home : Nat)
  | tagBits (home : Nat)
  | lineTag (home : Nat)
  | registers (t : Tid)
  | message (core : Nat)
  | saved (g : Nat) (v : BitVec 16)
  | wrapped (k : Nat) (bs : List Byte)
deriving DecidableEq, Repr

/-- One turn of the agenda: which agent acts next (DESIGN CHOICE, log entry 4). DESIGN CHOICE: log entry 35. -/
inductive Turn where
  /-- The next cycle of a core: its rotation chooses the slot (R33). -/
  | core (n : Nat)
  /-- Entry k of the list of things that have become possible. -/
  | todo (k : Nat)
  /-- An act from outside, or an event brought forward. -/
  | event (e : Event)
  /-- A cycle of the dispatcher (0), of join unit 0 or 1 (1, 2). -/
  | clock (u : Nat)
  /-- A bit error. -/
  | upset (k : Upset)
  /-- A sample of sensor k (R409). -/
  | sample (k : Nat) (v : Word)
deriving DecidableEq, Repr

/-- An event that becomes possible when a core's count, or an I/O unit's (unit 8192 + u), reaches a value. -/
structure Timer where
  unit : Nat
  at_ : Nat
  ev : Event
deriving DecidableEq, Repr

/-- The reasons a step stops for good. -/
inductive Fault where
  /-- Raised by step when the package is Off (R408) and nothing from outside is due. Safe: the part is without power. -/
  | poweredOff
deriving DecidableEq, Repr

/-- Why an instruction has no meaning. -/
inductive Refusal where
  /-- Raised by exec for an instruction that is not modelled, named by its mnemonic. Safe: the run ends. -/
  | notModelled (mnemonic : String)
deriving DecidableEq, Repr

/-- The state of the package. The first eleven fields are the model's own (INVENTORY, State). -/
structure State where
  agenda : List Turn
  todo : List Event
  timers : List Timer
  urgent : List Tid
  cur : Tid
  npc : Word
  ir : Parcel × Tail
  seq : Nat
  /-- Cycles of the core clock that are over, and where the present one has come to: cores below nextCore have had it. -/
  clock : Nat
  nextCore : Nat
  draws : Nat
  /-- Bytes by home: local store of core n at 0x1_0000_0000 + n * 2^18 (R151); physical kinds above (Ops). -/
  mem : List Host.Cell
  /-- Tags by local-store home (R154). -/
  tags : SMap (BitVec 3)
  /-- Poisoned words and lines, words with bad tag bits, lines with a mismatched tag (R354, R355), by home. -/
  poison : List Nat
  badTags : List Nat
  badLines : List Nat
  /-- Keys under which lines outside local store are held, by home; an unlisted line is held in clear (R385, R386). -/
  lineKeys : SMap WorkKeys
  /-- Words outside local store that a write has replaced: its number, the word's home, the value it had (R213). -/
  replaced : List (Nat × Nat × Word)
  /-- The invalidations of instruction caches that there have been, for the words that a later fetch may still find (R213). -/
  flushes : List Flush
  /-- Flags of blocks whose forcing has not ended: who forces, the owner of the blank, the flags (R96). -/
  owed : List (Agent × Tid × BitVec 6)
  cores : SMap Core
  waiters : List Waiter
  tcaches : SMap (List Leaf)
  iocaches : SMap (List Leaf)
  walks : List Walk
  faults : List FaultRec
  /-- Refused faults (R352): I/O die unit, context, page, CODE; the unit's next access there fails. -/
  refused : List (Agent × Nat × Nat × Nat)
  chans : List Chan
  pods : List PodBar
  podTable : SMap (Vector Word 4)
  stops : List StopMsg
  resumes : List StopMsg
  dispCount : Word
  queues : SMap Queue
  lastSel : Vector (Option Nat) 8
  launches : List Launch
  gangs : List Gang
  /-- Dumps of gangs, in the order of their fatal traps (R374). -/
  dumps : List DumpJob
  dumpCount : Word
  joins : Vector JoinUnit 2
  ssc : Ssc
  fns : SMap HostFn
  replays : List Replay
  sent : List Msg
  /-- Message counts by key and sender (R385): session k's key is number 2k, a context c's own keys 2c + 1. -/
  counts : SMap Nat
  /-- Cores whose next message of a protected context to another agent of the package arrives with a bad tag (R387). -/
  badMsgs : List Nat
  /-- Failures of contexts that are in progress or still to begin, in their order (R393). -/
  tears : List Teardown
  requests : List Request
  replies : SMap (Bool × Line)
  /-- Accesses of the actions of units that are still to end: each is made once, however often its action is taken up again. -/
  made : List Made
  plat : Platform
deriving DecidableEq, Repr

/-- The package right after reset: the cold reset, before boot step 1 (R407). -/
def State.reset : State :=
  { agenda := [], todo := [], timers := [], urgent := [], cur := { core := 0, slot := 0 }, npc := 0,
    ir := (0, .none), seq := 0, clock := 0, nextCore := 0, draws := 0, mem := [], tags := [], poison := [],
    badTags := [], badLines := [], lineKeys := [], replaced := [], flushes := [], owed := [], cores := [], waiters := [], tcaches := [], iocaches := [], walks := [], faults := [], refused := [],
    chans := [], pods := [], podTable := [], stops := [], resumes := [], dispCount := 0, queues := [],
    lastSel := Vector.replicate 8 none, launches := [], gangs := [], dumps := [], dumpCount := 0,
    joins := Vector.replicate 2 JoinUnit.zero, ssc := Ssc.zero, fns := [], replays := [], sent := [], counts := [], badMsgs := [], tears := [], requests := [],
    replies := [], made := [], plat := Platform.zero }

/-- What an instruction or a step ends in. -/
abbrev Out3 := Host.Outcome State Fault Refusal

end Sys2Proof.Machine
end

