-- ==== Sys2Proof/Machine/Ops.lean ====
section
/-!
DEFINITION. The named operations over the state: cores and slots, registers and the window ring, ports, bytes, parking
and waking, taking a trap and returning from one.
-/

namespace Sys2Proof.Machine

/-! ### Cores, slots, threads -/

/-- A core that nothing has touched, k cycles of the core clock after its reset: its count and its idle count have run, and it has gated when the
idle count came to the reset value of GDLY (R27, R29, R58, R59). -/
def Core.untouched (k : Nat) : Core :=
  { Core.zero with cyc := BitVec.ofNat 64 (min k 0x400), idle := min k 0x400, gated := decide (0x400 ≤ k) }

/-- Core n. -/
def State.core (s : State) (n : Nat) : Core :=
  SMap.getD s.cores n (Core.untouched (if n < s.nextCore then s.clock + 1 else s.clock))

def State.setCore (s : State) (n : Nat) (c : Core) : State := { s with cores := SMap.put s.cores n c }

def Core.slot (c : Core) (k : BitVec 3) : Slot := c.slots[k.toNat]'(k.isLt)

def Core.setSlot (c : Core) (k : BitVec 3) (t : Slot) : Core := { c with slots := c.slots.set k.toNat t k.isLt }

def State.slot (s : State) (t : Tid) : Slot := (s.core t.core).slot t.slot

def State.setSlot (s : State) (t : Tid) (x : Slot) : State := s.setCore t.core ((s.core t.core).setSlot t.slot x)

/-- The slot of the thread that issues, and its core. -/
def State.me (s : State) : Slot := s.slot s.cur

def State.setMe (s : State) (x : Slot) : State := s.setSlot s.cur x

def State.myCore (s : State) : Core := s.core s.cur.core

/-- The context whose threads core n holds, 0 when it holds none. -/
def State.ctxOf (s : State) (n : Nat) : BitVec 8 := (s.core n).ctx.getD 0

/-- Compute die and quad of a core (R15). -/
def dieOf (n : Nat) : Nat := n / 512

def quadOf (n : Nat) : Nat := n / 4

/-- Compute dies that the grade populates (R10). -/
def Grade.dies : Grade → Nat
  | .zx3072 => 6
  | _ => 8

/-- Whether physical core n exists and is enabled (R10, R15, R16). -/
def State.coreExists (s : State) (n : Nat) : Bool :=
  decide (n < 512 * s.plat.grade.dies) && !s.plat.fused.contains n

/-- Whether core m lies within scope sc of core n (R24). -/
def inScope (sc : BitVec 3) (n m : Nat) : Bool :=
  match sc.toNat with
  | 0 | 1 => n == m
  | 2 => quadOf n == quadOf m
  | 3 => dieOf n == dieOf m
  | _ => true

def State.gang (s : State) (id : Nat) : Option Gang := s.gangs.find? (·.id == id)

def State.launch (s : State) (id : Nat) : Option Launch := s.launches.find? (·.id == id)

def State.setGang (s : State) (g : Gang) : State := { s with gangs := s.gangs.map (fun x => if x.id == g.id then g else x) }

def State.setLaunch (s : State) (l : Launch) : State :=
  { s with launches := s.launches.map (fun x => if x.id == l.id then l else x) }

def State.gangLaunch (s : State) (id : Nat) : Option Launch := (s.gang id).bind (fun g => s.launch g.launch)

/-- The threads of a gang, placed slots whether or not their thread has exited. -/
def Gang.tids (g : Gang) : List Tid := g.places.flatMap (fun p => p.slots.map (fun k => { core := p.core, slot := k }))

/-- The world of a context. -/
def State.world (s : State) (ctx : BitVec 8) : BitVec 8 :=
  match SMap.find s.ssc.contexts ctx.toNat with
  | some c => c.world
  | none => 0

/-- Whether the key slot that an agent of a context would send through is in its world's state (R388). -/
def State.keyOk (s : State) (core : Nat) (ctx : BitVec 8) : Bool :=
  let w := s.world ctx
  match SMap.getD (s.core core).keys ctx.toNat .empty with
  | .empty => false
  | .null => w == 0
  | .keyed v _ => w != 0 && v == w

/-- Whether a context fails, or is about to (R393). -/
def State.failing (s : State) (ctx : BitVec 8) : Bool := s.tears.any (·.ctxs.contains ctx)

/-- Whether the next message of a core for its context arrives with a bad tag (R387). -/
def State.tampered (s : State) (core : Nat) : Bool := s.badMsgs.contains core && s.world (s.ctxOf core) != 0

/-- A message with a bad tag has been discarded. -/
def State.untamper (s : State) (core : Nat) : State := { s with badMsgs := s.badMsgs.filter (· != core) }

/-- A reward join unit. -/
def State.join (s : State) (u : Nat) : JoinUnit := (s.joins[u]?).getD JoinUnit.zero

def State.setJoin (s : State) (u : Nat) (j : JoinUnit) : State := { s with joins := s.joins.setIfInBounds u j }

/-- A fresh number. -/
def State.fresh (s : State) : Nat × State := (s.seq, { s with seq := s.seq + 1 })

/-- Adds an event to the list of things that have become possible, once. -/
def State.post (s : State) (e : Event) : State := if s.todo.contains e then s else { s with todo := s.todo ++ [e] }

/-- A timer at a count of a unit. -/
def State.timer (s : State) (unit at_ : Nat) (e : Event) : State :=
  { s with timers := s.timers ++ [{ unit := unit, at_ := at_, ev := e }] }

/-! ### Scalar registers -/

/-- Where register n of the current frame is stored (R97, R98, R102). -/
def Regs.loc (r : Regs) (n : SReg) : RegLoc :=
  let k := n.toNat
  if k = 0 then .zero
  else if k ≤ 5 then .common (k - 1)
  else if k = 6 then .portIn
  else if k = 7 then .portOut
  else
    match r.frame with
    | .trap => .trap (k - 8)
    | _ => if k < 24 then .ring (16 * r.cur.toNat + (k - 8)) else .ring (16 * (r.cur + 1).toNat + (k - 24))

/-- Reads a place; ports are read through the slot. -/
def Regs.readLoc (r : Regs) : RegLoc → Word
  | .common i => r.common[i]?.getD 0
  | .ring i => r.ring[i]?.getD 0
  | .trap i => r.trap[i]?.getD 0
  | _ => 0

/-- Writes a place; a write to s0 is discarded. -/
def Regs.writeLoc (r : Regs) (l : RegLoc) (v : Word) : Regs :=
  match l with
  | .common i => { r with common := r.common.setIfInBounds i v }
  | .ring i => { r with ring := r.ring.setIfInBounds i v }
  | .trap i => { r with trap := r.trap.setIfInBounds i v }
  | _ => r

/-- The value an instruction reads from a scalar register: s0 reads zero, s6 the oldest entry of the upstream queue, which
the instruction pops when it completes (R55, R126). -/
def Slot.readS (t : Slot) (n : SReg) : Word :=
  match t.regs.loc n with
  | .portIn => t.port.sq.headD 0
  | l => t.regs.readLoc l

/-- s[n] of the issuing thread. -/
def State.rs (s : State) (n : SReg) : Word := s.me.readS n

/-- The thread whose queues a thread's pushes reach (R231). -/
def State.portTarget (s : State) (t : Tid) : Tid :=
  let g := (s.slot t).port.target
  { core := 4 * quadOf t.core + (g.extractLsb' 3 2).toNat, slot := g.extractLsb' 0 3 }

/-! ### Parking and waking -/

/-- A wake is latched at a core (R60): it starts the ungating of a gated one; the idle count of another returns to 0, which aborts a commit that
is under way. -/
def State.rouse (s : State) (n : Nat) : State :=
  let c := s.core n
  if c.gated then s.post (.ungateStart n) else if c.idle == 0 then s else s.setCore n { c with idle := 0 }

/-- A thread whose parked instruction goes on is the next to be evaluated; one that waited for the line of its next instruction has none, and takes
part in the rotation (R33, R35). On a gated core it waits for the end of the ungating (R60). -/
def State.urge (s : State) (t : Tid) (gated : Bool) : State :=
  if gated || (s.slot t).cont.isNone then s else { s with urgent := s.urgent ++ [t] }

/-- Makes a parked thread READY; a stopped one keeps the event, and its instruction, issued before, runs to completion (R31, R35, R166, R365). The
wake reaches the thread's core (R60). -/
def State.wake (s : State) (t : Tid) : State :=
  let x := s.slot t
  match x.st with
  | .parked => ((s.setSlot t { x with st := .ready, await := .none }).rouse t.core).urge t (s.core t.core).gated
  | .stopped => ((s.setSlot t { x with heldSt := .ready, await := .none }).rouse t.core).urge t (s.core t.core).gated
  | _ => s

/-- The same for a waiter that is evaluated again at its bank (R166, R171): the evaluation does not wait for the ungating of the waiter's own core. -/
def State.wakeAtBank (s : State) (t : Tid) : State :=
  let s1 := s.wake t
  if s1.urgent.contains t then s1 else s1.urge t false

/-- READY, or STOPPED with its event no longer awaited: a parked instruction that is left goes on (R31, R365). -/
def Slot.runnable (x : Slot) : Bool := x.st == .ready || (x.st == .stopped && x.heldSt == .ready)

/-- Whether a thread waits in a given way. -/
def Slot.waitsFor (x : Slot) (p : Await → Bool) : Bool :=
  (x.st == .parked || (x.st == .stopped && x.heldSt == .parked)) && p x.await

/-- All slots of a core. -/
def slotNums : List (BitVec 3) := [0, 1, 2, 3, 4, 5, 6, 7]

/-- Wakes the threads of a core that wait in a given way. -/
def State.wakeCore (s : State) (n : Nat) (p : Await → Bool) : State :=
  slotNums.foldl (fun s k => if (s.slot ⟨n, k⟩).waitsFor p then s.wake ⟨n, k⟩ else s) s

/-- Wakes the threads of a core that wait for an earlier instruction of it (R150, R192). -/
def State.wakeOrder (s : State) (n : Nat) : State := s.wakeCore n (· == .order)

/-- Wakes the threads that wait for an older store on the route of their access (R198). -/
def State.wakeRoutes (s : State) : State :=
  s.cores.foldl (fun s p => s.wakeCore p.1 (· == .route)) s

/-- Parks the issuing thread, keeping its instruction and its progress (R31). Only wait, place in the order of waiters and
the start of the wait are new when the instruction was parked before. -/
def State.park (s : State) (w : Await) : State :=
  let x := s.me
  let c : Cont := match x.cont with
    | some c => c
    | none =>
      { head := s.ir.1, tail := s.ir.2, npc := s.npc, idx := 0, acc := [], redirect := none, second := false,
        seq := s.seq, since := none, dog := false, step := 0, fault := none, seen := none, count := s.myCore.cyc }
  { s.setMe { x with st := .parked, await := w, cont := some c } with seq := s.seq + 1 }

/-- The progress of the issuing instruction. -/
def State.cont (s : State) : Cont :=
  match s.me.cont with
  | some c => c
  | none =>
    { head := s.ir.1, tail := s.ir.2, npc := s.npc, idx := 0, acc := [], redirect := none, second := false,
      seq := s.seq, since := none, dog := false, step := 0, fault := none, seen := none, count := s.myCore.cyc }

/-- Records progress of the issuing instruction. -/
def State.setCont (s : State) (c : Cont) : State := s.setMe { s.me with cont := some c }

/-! ### Ports -/

/-- Pushes to the downstream scalar queue and wakes its reader (R55); a push wakes the core of the queue (R60). -/
def State.pushScalar (s : State) (t : Tid) (v : Word) : State :=
  let g := s.portTarget t
  let x := s.slot g
  let s1 := (s.setSlot g { x with port := { x.port with sq := x.port.sq ++ [v] } }).rouse g.core
  if (s1.slot g).waitsFor (· == .portUp) then s1.wake g else s1

/-- Pushes to the downstream vector queue. -/
def State.pushVector (s : State) (t : Tid) (v : Line) : State :=
  let g := s.portTarget t
  let x := s.slot g
  let s1 := (s.setSlot g { x with port := { x.port with vq := x.port.vq ++ [v] } }).rouse g.core
  if (s1.slot g).waitsFor (· == .vportUp) then s1.wake g else s1

/-- Wakes the producer that claims a queue of thread t and waits for room in it. -/
def State.wakeProducer (s : State) (p : Option Tid) (w : Await) : State :=
  match p with
  | some g => if (s.slot g).waitsFor (· == w) then s.wake g else s
  | none => s

/-- Takes the oldest entry of a thread's own scalar queue. -/
def State.popScalar (s : State) (t : Tid) : State :=
  let x := s.slot t
  (s.setSlot t { x with port := { x.port with sq := x.port.sq.tail } }).wakeProducer x.port.sclaim .portDown

def State.popVector (s : State) (t : Tid) : State :=
  let x := s.slot t
  (s.setSlot t { x with port := { x.port with vq := x.port.vq.tail } }).wakeProducer x.port.vclaim .vportDown

/-- Writes s[n] of thread t: s0 discards, s7 pushes downstream. -/
def State.writeS (s : State) (t : Tid) (n : SReg) (v : Word) : State :=
  let x := s.slot t
  match x.regs.loc n with
  | .portOut => s.pushScalar t v
  | l => s.setSlot t { x with regs := x.regs.writeLoc l v }

/-- Writes s[n] of the issuing thread. -/
def State.ws (s : State) (n : SReg) (v : Word) : State := s.writeS s.cur n v

/-- Whether v15 is the vector port (R108). -/
def Slot.isPort (x : Slot) (n : VReg) : Bool := x.port.vp && n == 15

/-- The value an instruction reads from a vector register. -/
def Slot.readV (x : Slot) (n : VReg) : Line :=
  if x.isPort n then x.port.vq.headD 0 else x.regs.vec[n.toNat]'(n.isLt)

def State.rv (s : State) (n : VReg) : Line := s.me.readV n

/-- The old value of a destination: zero for the vector port (R108). -/
def Slot.oldV (x : Slot) (n : VReg) : Line := if x.isPort n then 0 else x.regs.vec[n.toNat]'(n.isLt)

/-- Writes v[n] of the issuing thread, or pushes it downstream. -/
def State.wv (s : State) (n : VReg) (v : Line) : State :=
  let x := s.me
  if x.isPort n then s.pushVector s.cur v
  else s.setMe { x with regs := { x.regs with vec := x.regs.vec.set n.toNat v n.isLt } }

/-- d[n] of the issuing thread. -/
def State.rd (s : State) (n : DReg) : BitVec 256 := s.me.regs.desc[n.toNat]'(n.isLt)

def State.wd (s : State) (n : DReg) (v : BitVec 256) : State :=
  s.setMe { s.me with regs := { s.me.regs with desc := s.me.regs.desc.set n.toNat v n.isLt } }

/-! ### Trace ring -/

/-- Writes one trace record with a count unless the ring is frozen (R370 to R372). -/
def Core.traceRec (c : Core) (kind : Nat) (slot : BitVec 3) (code : Nat) (pc ta cnt : Word) : Core :=
  if c.frozen then c
  else
    let w0 : Word := BitVec.ofNat 4 kind ++ slot ++ BitVec.ofNat 6 code ++ (0 : BitVec 2) ++ pc.extractLsb' 1 48 ++ (0 : BitVec 1)
    let w1 : Word := cnt.extractLsb' 0 16 ++ ta.extractLsb' 0 48
    { c with trace := SMap.put c.trace (c.trnext.toNat % 256) (w1 ++ w0), trnext := c.trnext + 1 }

/-- A record of the issuing instruction, with the core's count at its issue (R370). -/
def State.trace (s : State) (kind code : Nat) (pc ta : Word) : State :=
  s.setCore s.cur.core (s.myCore.traceRec kind s.cur.slot code pc ta s.cont.count)

/-- A record of what happens to a slot now. -/
def State.traceAt (s : State) (t : Tid) (kind code : Nat) (pc ta : Word) : State :=
  s.setCore t.core ((s.core t.core).traceRec kind t.slot code pc ta (s.core t.core).cyc)

/-- A record of a slot's instruction, with the count at its issue. -/
def State.traceIssue (s : State) (t : Tid) (kind code : Nat) (pc ta : Word) : State :=
  s.setCore t.core ((s.core t.core).traceRec kind t.slot code pc ta (((s.slot t).cont.map (·.count)).getD (s.core t.core).cyc))

/-! ### Completing an instruction -/

/-- The issuing instruction is done and the thread goes on at pc (R114). -/
def State.goto (s : State) (pc : Word) : State :=
  let x := s.me
  s.setMe { x with st := .ready, pc := pc, src := x.pc, cont := none, await := .none }

/-- The issuing instruction is done and the thread goes on at NEXT. -/
def State.retire (s : State) : State := s.goto s.npc

/-- A taken transfer of control, with its trace record (R371). -/
def State.jump (s : State) (pc : Word) : State :=
  let t := pc &&& ~~~(1 : Word)
  (s.trace 1 0 s.me.pc t).goto t

/-! ### Fatal traps and trap entry -/

/-- REASON of a trap class (R338, R344); class 0 stands for a fatal condition without a class. -/
def reasonOf (cls : BitVec 5) : Nat :=
  match cls.toNat with
  | 1 | 2 | 3 | 9 | 10 | 12 => 0
  | 5 | 6 | 8 | 11 => 1
  | 7 => 2
  | 13 => 3
  | 4 | 14 | 15 => 4
  | 0 | 16 => 5
  | 17 => 6
  | _ => 7

/-- STATUS of an aborted command: class 8 (R300). -/
def abortStatus : BitVec 18 := 0x00800

/-- Forgets the requests of agents whose accesses are abandoned, and what they have made: a reply that still comes finds none. -/
def State.dropRequests (s : State) (p : Agent → Bool) : State :=
  let gone := (s.requests.filter (fun r => p r.agent)).map (·.tag)
  { s with
    requests := s.requests.filter (fun r => !p r.agent), replies := s.replies.filter (fun r => !gone.contains r.1)
    made := s.made.filter (fun m => !p m.agent) }

/-- The forcing that an agent's access or instruction needed is over: the flags of the blocks forced for it are ORed into the c.fflags of their blanks'
owners (R96). -/
def State.settle (s : State) (ag : Agent) : State :=
  if s.owed.any (fun p => p.1 == ag) then
    { (s.owed.filter (fun p => p.1 == ag)).foldl (fun (s : State) p =>
        let x := s.slot p.2.1
        s.setSlot p.2.1 { x with cr := { x.cr with fflags := x.cr.fflags ||| p.2.2 } }) s with
      owed := s.owed.filter (fun p => p.1 != ag) }
  else s

/-- A fatal trap of a thread of a gang (R344): its threads stop and abandon their parked instructions, its copies abort, the
rings freeze, and the dump engine is asked for a dump, unless its context fails (R393); a grid operation in progress completes, and so do relaxed accesses
that have issued (R200). -/
def State.fatal (s : State) (t : Tid) (i : TrapInfo) (epc : Word) : State :=
  match s.gang (s.slot t).gang with
  | none => s.setSlot t { s.slot t with st := .empty, cont := none, await := .none }
  | some g =>
    if g.fatal.isSome then s
    else
      let s1 := s.setGang { g with fatal := some (i, t, epc) }
      let s2 := g.tids.foldl (fun s u =>
        let x := s.slot u
        if x.gang == g.id && x.st != .empty then
          s.setSlot u { x with st := if x.st == .stopped then .stopped else .ready, heldSt := .ready, await := .none, cont := none,
                               lates := [] }
        else s) s1
      let s3 := g.places.foldl (fun s p =>
        let c := s.core p.core
        let busy := c.copies.any (·.gang == g.id)
        let c1 := { c with
          frozen := true
          demands := c.demands.filter (fun d => !d.by_.parked.any (fun u => (s.slot u).gang == g.id))
          copies := c.copies.map (fun k => if k.gang == g.id && k.fail.isNone then { k with fail := some abortStatus, stall := .none } else k) }
        let s0 := (s.setCore p.core c1).wakeCore p.core (fun w => w == .force || w == .turn || w == .order)
        let s' := if c1.demands.isEmpty && c1.grid.isNone then s0 else (s0.post (.blockEvaluation p.core)).post (.gridOperationComplete p.core)
        if busy then s'.post (.copyCommandEnd p.core) else s') s2
      let gone (a : Agent) : Bool := a.parked.any (fun u => (s3.slot u).gang == g.id)
      { (g.tids.foldl (fun (s : State) u => s.settle (.thread u)) s3).dropRequests gone with
        waiters := s3.waiters.filter (fun w => !gone w.agent)
        urgent := s3.urgent.filter (fun u => (s3.slot u).gang != g.id)
        dumps := if s3.failing g.ctx then s3.dumps else s3.dumps ++ [DumpJob.new g.id] }.post .dumpGang

/-- Trap entry (R147), of any thread: what it writes when INTRAP is 0 and the kernel has a handler. As a transfer of control it counts as one of the
instruction at the PC (DESIGN CHOICE: log entry 82). -/
def State.enterTrap (s : State) (t : Tid) (i : TrapInfo) (epc pc2 : Word) (late defer : Bool) : State :=
  let x := s.slot t
  let cr := { x.cr with
    epc := epc.extractLsb' 1 63, code := i.code, cls := i.cls, late := BitVec.ofBool late, defer := BitVec.ofBool defer
    tval := i.tval, tpc2 := pc2.extractLsb' 1 63, intrap := true }
  let r := { x.regs with frame := .trap, left := 2 + x.regs.older }
  let x1 := { x with
    cr := cr, regs := r, pc := x.cr.tvec ++ (0 : BitVec 6), src := x.pc, cont := none, await := .none
    st := if x.st == .parked then .ready else x.st, heldSt := if x.st == .stopped then .ready else x.heldSt }
  (s.traceIssue t 3 i.cls.toNat x.pc i.tval).setSlot t x1

/-- Taking a trap: the one operation every class goes through. While INTRAP is 1, or with no handler, it is fatal
(R102, R343), and so is a translation fault that the host refused; otherwise it is trap entry. -/
def State.takeTrap (s : State) (t : Tid) (i : TrapInfo) (epc pc2 : Word) (late defer : Bool) : State :=
  let x := s.slot t
  if x.cr.intrap || x.cr.tvec == 0 || i.cls == 8 then s.fatal t i epc else s.enterTrap t i epc pc2 late defer

/-- Waiters of a thread are withdrawn (R167, R234). -/
def State.unwait (s : State) (t : Tid) : State := { s with waiters := s.waiters.filter (fun w => w.agent != .thread t) }

/-- A precise trap of the issuing thread (R340). -/
def State.precise (s : State) (i : TrapInfo) : State := (s.unwait s.cur).takeTrap s.cur i s.me.pc 0 false false

/-- A precise trap, by its parts. -/
def trapOf (cls code : Nat) (tval : Word) : TrapInfo :=
  { cls := BitVec.ofNat 5 cls, code := BitVec.ofNat 16 code, tval := tval }

/-- What a part of an instruction ends in. -/
inductive Res (α : Type) where
  | ok (a : α) (s : State)
  | trap (i : TrapInfo) (s : State)
  | park (w : Await) (s : State)
  /-- The thread has already been given its next state (a deferred trap, a fatal trap). -/
  | done (s : State)

/-- The whole instruction from its parts. -/
def Res.finish : Res Unit → Out3
  | .ok _ s => .next s
  | .trap i s => .next (s.precise i)
  | .park w s => .next (s.park w)
  | .done s => .next s

/-- Sequencing. -/
def Res.bind {α β : Type} (r : Res α) (f : α → State → Res β) : Res β :=
  match r with
  | .ok a s => f a s
  | .trap i s => .trap i s
  | .park w s => .park w s
  | .done s => .done s

/-- What a part leaves with an instruction that it parks. -/
def Res.keeping {α : Type} (r : Res α) (f : State → State) : Res α :=
  match r with
  | .park w s => .park w (f s)
  | r => r

/-! ### Register fields and ports of an instruction -/

/-- A port fault (R128). -/
def portFault : TrapInfo := trapOf 12 0 0

/-- The scalar fields of an instruction (R55, R128): s6 as a destination, s7 as a source, or a disabled port is a fault. -/
def Slot.portBad (x : Slot) (srcs dsts : List SReg) : Bool :=
  srcs.contains 7 || dsts.contains 6 || (srcs.contains 6 && !x.port.su) || (dsts.contains 7 && !x.port.dn)

/-- The vector fields: v15 as a source needs VU, as a destination DN, while the vector port is enabled (R231). -/
def Slot.vportBad (x : Slot) (srcs dsts : List VReg) : Bool :=
  x.port.vp && ((srcs.contains 15 && !x.port.vu) || (dsts.contains 15 && !x.port.dn))

/-- Whether an instruction pushes to a queue of another core: the push is a message of its context (R385). -/
def State.pushesOut (s : State) (dsts : List SReg) (vdsts : List VReg) : Bool :=
  (dsts.contains 7 || (s.me.port.vp && vdsts.contains 15)) && (s.portTarget s.cur).core != s.cur.core

/-- Ports of an instruction: a push that its key slot does not let out (R388; DESIGN CHOICE: log entry 83), a fault (R128), a push to an EMPTY slot (R232), a
park on an empty or a full queue (R55), a push whose tag fails (R387), or go on. -/
def State.ports (s : State) (srcs dsts : List SReg) (vsrcs vdsts : List VReg) : Res Unit :=
  let x := s.me
  let g := s.slot (s.portTarget s.cur)
  if s.pushesOut dsts vdsts && x.port.dn && !s.keyOk s.cur.core (s.ctxOf s.cur.core) then .trap (trapOf 7 8 0) s
  else if x.portBad srcs dsts || x.vportBad vsrcs vdsts then .trap portFault s
  else if (dsts.contains 7 || (x.port.vp && vdsts.contains 15)) && g.st == .empty then .trap (trapOf 12 4 0) s
  else if srcs.contains 6 && x.port.sq.isEmpty then .park .portUp s
  else if x.port.vp && vsrcs.contains 15 && x.port.vq.isEmpty then .park .vportUp s
  else if dsts.contains 7 && decide (8 ≤ g.port.sq.length) then .park .portDown s
  else if x.port.vp && vdsts.contains 15 && decide (4 ≤ g.port.vq.length) then .park .vportDown s
  else if s.pushesOut dsts vdsts && s.tampered s.cur.core then .trap (trapOf 16 3 0) (s.untamper s.cur.core)
  else .ok () s

/-- The pops of a completing instruction: once each (R126). -/
def State.pops (s : State) (srcs : List SReg) (vsrcs : List VReg) : State :=
  let s1 := if srcs.contains 6 then s.popScalar s.cur else s
  if s1.me.port.vp && vsrcs.contains 15 then s1.popVector s1.cur else s1

/-! ### The window ring -/

/-- Group g's 16 registers. -/
def Regs.group (r : Regs) (g : BitVec 2) : List Word :=
  (List.range 16).map (fun k => r.ring[16 * g.toNat + k]?.getD 0)

/-- Replaces registers of a place in the ring. -/
def Regs.setRing (r : Regs) (at_ : Nat) (vs : List Word) : Regs :=
  { r with ring := (vs.foldl (fun (p : Vector Word 64 × Nat) v => (p.1.setIfInBounds p.2 v, p.2 + 1)) (r.ring, at_)).1 }

/-- Replaces registers of the trap group from register s8 + at_. -/
def Regs.setTrapRegs (r : Regs) (at_ : Nat) (vs : List Word) : Regs :=
  { r with trap := (vs.foldl (fun (p : Vector Word 24 × Nat) v => (p.1.setIfInBounds p.2 v, p.2 + 1)) (r.trap, at_)).1 }

/-- An empty ring with one fresh frame whose receive bank is given (R49, R50). The link of the frame before it stays, that of a callee of a trap handler too.
DESIGN CHOICE: log entry 79. -/
def Slot.freshRing (x : Slot) (s8 : Word) : Slot :=
  let r := { x.regs with older := 0, left := 0 }
  { x with regs := r.setRing (16 * r.cur.toNat) (s8 :: List.replicate 7 0), cr := { x.cr with wsp := x.cr.wsb } }

end Sys2Proof.Machine
end

