-- ==== Sys2Proof/Machine/Descr.lean ====
section
/-!
DEFINITION. Descriptors: their fields, where their elements lie, the ranges and blocks of blanks (17 R275, 18 R278, R289).
-/

namespace Sys2Proof.Machine

/-! ### Fields of a descriptor (R275) -/

def dW (d : BitVec 256) (k : Nat) : Word := d.extractLsb' (64 * k) 64

def dCols (d : BitVec 256) : Nat := ((dW d 0).extractLsb' 48 16).toNat

def dRows (d : BitVec 256) : Nat := ((dW d 0).extractLsb' 32 16).toNat

def dScaled (d : BitVec 256) : Bool := (dW d 0).getLsbD 27

def dPlaned (d : BitVec 256) : Bool := (dW d 0).getLsbD 26

def dFmt (d : BitVec 256) : BitVec 4 := (dW d 0).extractLsb' 22 4

def dMember (d : BitVec 256) : Nat := ((dW d 0).extractLsb' 20 2).toNat

def dSpace (d : BitVec 256) : Nat := ((dW d 0).extractLsb' 18 2).toNat

def dBase (d : BitVec 256) : Nat := ((dW d 0).extractLsb' 0 18).toNat

def dSbase (d : BitVec 256) : Nat := ((dW d 1).extractLsb' 32 18).toNat

def dPitch (d : BitVec 256) : Nat := ((dW d 1).extractLsb' 0 32).toNat

def dRoff (d : BitVec 256) : Int := ((dW d 2).extractLsb' 32 32).toInt

def dRcross (d : BitVec 256) : Int := ((dW d 2).extractLsb' 16 16).toInt

def dRstep (d : BitVec 256) : Int := ((dW d 2).extractLsb' 0 16).toInt

def dCoff (d : BitVec 256) : Int := ((dW d 3).extractLsb' 32 32).toInt

def dCcross (d : BitVec 256) : Int := ((dW d 3).extractLsb' 16 16).toInt

def dCstep (d : BitVec 256) : Int := ((dW d 3).extractLsb' 0 16).toInt

/-- Reserved bits of W0 and W1, and SPACE (R279 row 1). -/
def dReservedBad (d : BitVec 256) : Bool :=
  (dW d 0).extractLsb' 28 4 != 0 || (dW d 1).extractLsb' 50 14 != 0 || decide (2 ≤ dSpace d)

/-- The source row and column of index (i, j) (R275). -/
def dMap (d : BitVec 256) (i j : Nat) : Int × Int :=
  (dRstep d * i + dRcross d * j + dRoff d, dCcross d * i + dCstep d * j + dCoff d)

/-- Planes of a format: its element width (R62, R261). -/
def fmtPlanes (f : BitVec 4) : Nat :=
  match f.toNat with
  | 0 | 1 => 8
  | 2 | 3 => 6
  | 4 => 4
  | 5 | 6 => 16
  | 7 => 32
  | 8 | 9 => 8
  | 10 | 11 => 4
  | 12 => 16
  | 13 => 2
  | 14 => 32
  | _ => 16

/-- The bit positions of element (r, c): for each bit of its value, a byte offset in the local store and a bit number; row-major
elements lie in containers, planed ones bit by bit (R63, R261). -/
def dElemBits (d : BitVec 256) (r c : Nat) : List (Nat × Nat) :=
  if dPlaned d then
    let b := fmtPlanes (dFmt d)
    let at_ := dBase d + r / 16 * dPitch d + c / 32 * (b * 64)
    let bit := 32 * (r % 16) + c % 32
    (List.range b).map (fun p => (at_ + 64 * p + bit / 8, bit % 8))
  else
    let w := fmtContainer (dFmt d)
    let at_ := 8 * (dBase d + r * dPitch d) + c * w
    (List.range w).map (fun k => ((at_ + k) / 8, (at_ + k) % 8))

/-- The bytes of element (r, c). -/
def dElemBytes (d : BitVec 256) (r c : Nat) : List Nat := (dElemBits d r c).map (·.1) |>.eraseDups

/-- One past the last byte that rows 0 to rows - 1 take. -/
def dEnd (d : BitVec 256) : Nat :=
  if dPlaned d then
    dBase d + ((dRows d + 15) / 16 - 1) * dPitch d + (dCols d + 31) / 32 * (fmtPlanes (dFmt d) * 64)
  else dBase d + (dRows d - 1) * dPitch d + (dCols d * fmtContainer (dFmt d) + 7) / 8

/-- The comparator range of an operand: first byte and one past the last (R278). -/
def dRange (d : BitVec 256) (src : Bool) : Nat × Nat :=
  if src && dScaled d then
    (min (dBase d) (dSbase d), max (dEnd d) (dSbase d + dRows d * (dCols d / 32)))
  else (dBase d, dEnd d)

/-! ### Blocks (R289) -/

/-- Columns of blocks in a destination; a TRED destination has one column. -/
def dBlockCols (d : BitVec 256) : Nat := (dCols d + 15) / 16

/-- Number of blocks of a destination. -/
def dBlocks (d : BitVec 256) : Nat := (dRows d + 15) / 16 * dBlockCols d

/-- The indices of block n, in row-major order, clipped to the extent. -/
def dBlockElems (d : BitVec 256) (n : Nat) : List (Nat × Nat) :=
  let p := n / dBlockCols d
  let q := n % dBlockCols d
  (List.range 16).flatMap (fun a => (List.range 16).filterMap (fun b =>
    if 16 * p + a < dRows d ∧ 16 * q + b < dCols d then some (16 * p + a, 16 * q + b) else none))

/-- The bytes of block n of a destination. -/
def dBlockBytes (d : BitVec 256) (n : Nat) : List Nat := (dBlockElems d n).flatMap (fun e => dElemBytes d e.1 e.2)

/-- The sources of a blank. -/
def Blank.sources (b : Blank) : List (BitVec 256) :=
  match b.op with
  | .mul _ _ | .add | .sub | .max => [b.src1, b.src2]
  | _ => [b.src1]

/-- Whether a byte of a list lies in a source range of a blank. -/
def Blank.srcHit (b : Blank) (as : List Nat) : Bool :=
  b.sources.any (fun d => let r := dRange d true; as.any (fun a => r.1 ≤ a && a < r.2))

/-- The pending blocks of a blank that hold a byte. -/
def Blank.dstHits (b : Blank) (p : Nat → Bool) : List Nat := b.pend.filter (fun n => (dBlockBytes b.dst n).any p)

/-- The blank of a slot by its number. -/
def Core.blank (c : Core) (k : BitVec 3) (seq : Nat) : Option Blank := (c.slot k).blanks.find? (fun b => b.seq == seq)

/-- The blocks that an access to bytes of a core's local store forces (R291): slot, blank, block. A write to a source range forces the
blank in full; wr lists the bytes of a write. -/
def Core.forcedBy (c : Core) (p : Nat → Bool) (wr : List Nat) (except_ : Option (BitVec 3)) : List (BitVec 3 × Nat × Nat) :=
  slotNums.flatMap (fun k =>
    if except_ == some k then []
    else (c.slot k).blanks.flatMap (fun b =>
      let ns := if b.srcHit wr then b.pend else b.dstHits p
      ns.map (fun n => (k, b.seq, n))))

/-- The same for bytes [lo, hi). -/
def Core.forced (c : Core) (lo hi : Nat) (write : Bool) (except_ : Option (BitVec 3)) : List (BitVec 3 × Nat × Nat) :=
  c.forcedBy (fun a => lo ≤ a && a < hi) (if write then (List.range (hi - lo)).map (lo + ·) else []) except_

/-- Inserts a block behind those of older and equal blanks. -/
def byAge (b : BitVec 3 × Nat × Nat) : List (BitVec 3 × Nat × Nat) → List (BitVec 3 × Nat × Nat)
  | [] => [b]
  | c :: cs => if b.2.1 ≤ c.2.1 then b :: c :: cs else c :: byAge b cs

/-- The blocks of a demand, oldest blank first (R289). -/
def demandBlocks (depth : Nat) (bs : List (BitVec 3 × Nat × Nat)) : List DBlock :=
  (bs.foldr byAge []).map (fun b => { slot := b.1, seq := b.2.1, n := b.2.2, opened := false, got := [], made := 0, depth := depth, passed := 0, undo := [] })

end Sys2Proof.Machine
end

