-- ==== Sys2Proof/Machine/Keys.lean ====
section
/-!
DEFINITION. Working keys, lines under a key and their tags, message counts, and messages under a session key (28 R383 to R388; 30 R395, R400).
-/

namespace Sys2Proof.Machine

/-! ### Working keys (R384) -/

/-- The key of a label, derived from a context key. -/
def workKey (k : BitVec 256) (label : List Byte) (ctx world : BitVec 8) : BitVec 256 :=
  BitVec.ofNat 256 (Config.kmac256 (natBytes 32 k.toNat) (label ++ [ctx, world]) 32 "ZX4096 key")

/-- The working keys of a context, under the labels XTSD, XTST, LTAG, MSGC, DUMP and SAVE. -/
def workKeys (ctx : BitVec 8) (x : Context) : WorkKeys :=
  let f (label : List Byte) : BitVec 256 := workKey x.key label ctx x.world
  { xtsd := f [0x58, 0x54, 0x53, 0x44], xtst := f [0x58, 0x54, 0x53, 0x54], ltag := f [0x4C, 0x54, 0x41, 0x47], msgc := f [0x4D, 0x53, 0x47, 0x43]
    dump := f [0x44, 0x55, 0x4D, 0x50], save := f [0x53, 0x41, 0x56, 0x45] }

/-- What the SSC installs for a context in a key slot (R383, R388). -/
def Context.slot (x : Context) (ctx : BitVec 8) : KeySlot := if x.world == 0 then .null else .keyed x.world (workKeys ctx x)

/-- The same for a context of the key store. -/
def State.slotFor (s : State) (ctx : BitVec 8) : KeySlot :=
  match SMap.find s.ssc.contexts ctx.toNat with
  | some x => x.slot ctx
  | none => .null

/-- The keys that a slot holds; the null key is none. -/
def KeySlot.keys : KeySlot → Option WorkKeys
  | .keyed _ k => some k
  | _ => none

/-- The keys of a context as the memory controllers hold them. -/
def State.ctxKeys (s : State) (ctx : BitVec 8) : Option WorkKeys := (SMap.getD s.ssc.mcKeys ctx.toNat .empty).keys

/-- Whether the memory controllers' key slot of a context is in its world's state (R388). -/
def State.mcOk (s : State) (ctx : BitVec 8) : Bool :=
  let w := s.world ctx
  match SMap.getD s.ssc.mcKeys ctx.toNat .empty with
  | .empty => false
  | .null => w == 0
  | .keyed v _ => w != 0 && v == w

/-! ### Lines (R385, R386). DESIGN CHOICE: log entry 51 -/

/-- The keys under which a line is held; none is clear. -/
def State.lineKey (s : State) (line : Nat) : Option WorkKeys := SMap.find s.lineKeys line

def State.setLineKey (s : State) (line : Nat) (k : Option WorkKeys) : State :=
  { s with lineKeys := match k with
      | some w => SMap.put s.lineKeys line w
      | none => SMap.erase s.lineKeys line }

/-- The tweak of a line: PA[56:6]. -/
def lineTweak (line : Nat) : BitVec 128 := BitVec.ofNat 128 (homePa line / 64)

/-- A line's plaintext under keys, and the plaintext that keys make of a ciphertext. -/
def WorkKeys.cipher (k : WorkKeys) (line : Nat) (d : Line) : Line := Config.xtsEncrypt k.xtsd k.xtst (lineTweak line) d

def WorkKeys.plain (k : WorkKeys) (line : Nat) (d : Line) : Line := Config.xtsDecrypt k.xtsd k.xtst (lineTweak line) d

/-- The 56-bit tag of a line's ciphertext under a line tag key. -/
def lineTag (k : BitVec 256) (line : Nat) (c : Line) : BitVec 56 :=
  BitVec.ofNat 56 (Config.kmac256 (natBytes 32 k.toNat) (natBytes 64 c.toNat ++ natBytes 7 (homePa line / 64)) 8 "ZX4096 line")

/-- What a reader's keys make of a line that a writer's keys wrote; under the null key data passes as it stands. -/
def seenLine (w r : Option WorkKeys) (line : Nat) (d : Line) : Line :=
  if w == r then d
  else
    let c := match w with
      | some k => k.cipher line d
      | none => d
    match r with
    | some k => k.plain line c
    | none => c

/-- The memory in which a home's line stands as a reader's keys decrypt it. A line of HBM that no key has written holds zeros under its world's keys
(R382). -/
def State.seenAs (s : State) (r : Option WorkKeys) (home : Nat) : State :=
  let line := lineOfHome home
  let w := s.lineKey line
  if w == r || (homeKind home == 0 && w.isNone) then s
  else { s with mem := Memory.writeN s.mem line (seenLine w r line (Memory.line s.mem line)).toNat (2 ^ 64 - 1) 64 }

/-- The same for a context. -/
def State.asSeen (s : State) (ctx : BitVec 8) (home : Nat) : State := s.seenAs (s.ctxKeys ctx) home

/-- Whether the tag of an HBM line does not match under a reader's keys: other keys wrote it (R386). Under the null key tags are not checked (R383). -/
def State.tagBad (s : State) (r : Option WorkKeys) (home : Nat) : Bool :=
  let line := lineOfHome home
  match s.lineKey line, r with
  | some w, some k =>
    let c := w.cipher line (Memory.line s.mem line)
    homeKind home == 0 && w != k && lineTag k.ltag line c != lineTag w.ltag line c
  | _, _ => false

/-- Whether a read of an HBM line under keys of a world fails on its tag (R355, R386). -/
def State.tagFailsFor (s : State) (w : BitVec 8) (r : Option WorkKeys) (home : Nat) : Bool :=
  (homeKind home == 0 && w != 0 && s.badLines.contains (lineOfHome home)) || s.tagBad r home

/-- The same for a context. -/
def State.tagFails (s : State) (ctx : BitVec 8) (home : Nat) : Bool := s.tagFailsFor (s.world ctx) (s.ctxKeys ctx) home

/-! ### Message counts (R385) -/

/-- The number of a session's key and of a context's own keys in counts. -/
def sessionKeyNo (k : Nat) : Nat := 2 * k

def ctxKeyNo (c : BitVec 8) : Nat := 2 * c.toNat + 1

/-- The place of a sender's count under a key; 4096 stands for the I/O die units. -/
def countAt (key sender : Nat) : Nat := 8192 * key + sender

/-- The sender of an agent's messages: its core, or an I/O die unit. -/
def Agent.sender : Agent → Nat
  | .thread t | .access t _ | .window t | .stamp t => t.core
  | .copy n | .grid n | .blocker n => n
  | _ => 4096

/-- The next nonce of a sender under a key: the sender's core, or 0xFFF, and its count. -/
def State.nonce (s : State) (key sender : Nat) : BitVec 96 :=
  BitVec.ofNat 12 (min sender 0xFFF) ++ BitVec.ofNat 84 (SMap.getD s.counts (countAt key sender) 0)

/-- The count has gone up by one. -/
def State.counted (s : State) (key sender : Nat) : State :=
  { s with counts := SMap.put s.counts (countAt key sender) (SMap.getD s.counts (countAt key sender) 0 + 1) }

/-- Whether a sender's count under a key is used up: it sends nothing further. -/
def State.spent (s : State) (key sender : Nat) : Bool := decide (2 ^ 84 ≤ SMap.getD s.counts (countAt key sender) 0)

/-- A key is installed: its counts start from 0. -/
def State.freshCounts (s : State) (key : Nat) : State := { s with counts := s.counts.filter (fun p => p.1 / 8192 != key) }

/-- Contexts are to be failed as under R393; one that fails already is not failed twice. -/
def State.failLater (s : State) (cs : List (BitVec 8)) (report : Bool) (last : TearEnd) : State :=
  { s with tears := s.tears ++
      [{ ctxs := cs.filter (fun c => !s.failing c), step := 1, num := 0, report := report, rings := [], places := [], dies := [], last := last }] }

/-- The context of a key that is used up fails. -/
def State.exhausted (s : State) (ctx : BitVec 8) : State := if s.failing ctx then s else s.failLater [ctx] true .nothing

/-! ### Messages to other endpoints (R385, R395) -/

/-- The planes cabled, in ascending link order. -/
def Platform.planes (p : Platform) : List Nat := (List.range 24).filter (fun k => p.linksUp.getLsbD k)

/-- The link on which traffic to an endpoint in a lane travels (R395). -/
def Platform.link (p : Platform) (e : BitVec 8) (lane : Nat) : Option Nat := p.planes[(lane + e.toNat) % p.planes.length]?

/-- Whether endpoint e is reachable in a lane (R395). -/
def Platform.reaches (p : Platform) (e : BitVec 8) (lane : Nat) : Bool :=
  match p.link e lane with
  | some k => !p.linksFailed.getLsbD k
  | none => false

/-- Whether a message maps to a link that has failed. -/
def State.lost (s : State) (m : Msg) : Bool := ((s.plat.link m.dst m.lane.toNat).map (fun k => s.plat.linksFailed.getLsbD k)).getD false

/-- Counts a message on a link (R409; DESIGN CHOICE: log entry 86). -/
def State.countLink (s : State) (l : Option Nat) : State :=
  match l with
  | some k => { s with plat := { s.plat with linkCount := SMap.put s.plat.linkCount k (SMap.getD s.plat.linkCount k 0 + 1) } }
  | none => s

/-- A message's header word and data under a key, with the tag. DESIGN CHOICE: log entry 14. -/
def sealMsg (m : Msg) (key : BitVec 256) (nonce : BitVec 96) : Msg :=
  let bs := Config.gcmSeal key nonce (natBytes 8 m.hdr.toNat ++ natBytes 64 m.data.toNat)
  { m with
    nonce := nonce, hdr := BitVec.ofNat 64 (bytesNat (bs.take 8)), data := BitVec.ofNat 512 (bytesNat ((bs.drop 8).take 64))
    mac := BitVec.ofNat 128 (bytesNat ((bs.drop 72).take 16)) }

/-- Sends a message: one of world 0 in clear, one of a protected world under its session's key. One that maps to a failed link is lost (R395), and a sender
whose count is used up sends nothing (R385). -/
def State.transmit (s : State) (sender : Nat) (m : Msg) : State :=
  if s.lost m then s
  else
    let s0 := s.countLink (s.plat.link m.dst m.lane.toNat)
    if m.world == 0 || m.session == 0 then { s0 with sent := s0.sent ++ [m] }
    else
      match SMap.find s.ssc.sessions m.session with
      | none => s
      | some x =>
        let key := sessionKeyNo m.session
        if s.spent key sender then s.exhausted x.ctx
        else { s0.counted key sender with sent := s0.sent ++ [sealMsg m x.key (s.nonce key sender)] }

/-- Sends messages in their order. -/
def State.transmitAll (s : State) (sender : Nat) (ms : List Msg) : State := ms.foldl (fun s m => s.transmit sender m) s

/-- A message that has arrived, opened; none where its tag fails (R387). -/
def State.openMsg (s : State) (m : Msg) : Option Msg :=
  if m.world == 0 || m.session == 0 then some m
  else
    match SMap.find s.ssc.sessions m.session with
    | none => some m
    | some x =>
      (Config.gcmOpen x.key m.nonce (natBytes 8 m.hdr.toNat ++ natBytes 64 m.data.toNat ++ natBytes 16 m.mac.toNat)).map (fun bs =>
        { m with hdr := BitVec.ofNat 64 (bytesNat (bs.take 8)), data := BitVec.ofNat 512 (bytesNat ((bs.drop 8).take 64)) })

/-- A context's session with an endpoint (R400). -/
def State.sessionWith (s : State) (ctx e : BitVec 8) : Option (Nat × Session) :=
  s.ssc.sessions.find? (fun p => p.2.ctx == ctx && p.2.world == s.world ctx && p.2.endpoint == e)

/-- Whether a context has a session with an endpoint. -/
def State.hasSession (s : State) (ctx e : BitVec 8) : Bool := (s.sessionWith ctx e).isSome

end Sys2Proof.Machine
end

