-- ==== Sys2Proof/Machine/Translate.lean ====
section
/-!
DEFINITION. Address translation: page tables, walks, translation caches, the checks at a leaf and at a memory controller
(24 R345 to R349; 28 R382; 30 R397, R405, R406).
-/

namespace Sys2Proof.Machine

/-- What an access needs of a page (R347), with its code in a fault record (R351). -/
inductive Need where
  | load
  | store
  | atomic
  | fetch
deriving DecidableEq, Repr

def Need.kind : Need → BitVec 3
  | .load => 0
  | .store => 1
  | .atomic => 2
  | .fetch => 3

/-- What translation finds. -/
inductive Tr where
  | home (h : Nat)
  | miss
  | trap (i : TrapInfo)
deriving DecidableEq, Repr

/-! ### Table entries (R346) -/

def pteAddr (e : Word) : Nat := (e.extractLsb' 16 41).toNat * 0x10000

def pteKind (e : Word) : Nat := (e.extractLsb' 6 2).toNat

/-- Whether an entry is malformed at a level (R346, R347). -/
def pteBad (level : Nat) (e : Word) : Bool :=
  let leaf := e.getLsbD 1
  e.extractLsb' 57 7 != 0 || (leaf && decide (level ≤ 1)) || (!leaf && level == 3) ||
  (leaf && level == 2 && e.extractLsb' 16 13 != 0) ||
  (!leaf && (e.extractLsb' 5 3 != 0 || e.extractLsb' 8 8 != 0))

/-- The index of an address at a level (R345). -/
def vaIndex (level : Nat) (va : Word) : Nat :=
  match level with
  | 0 => (va.extractLsb' 55 2).toNat
  | 1 => (va.extractLsb' 42 13).toNat
  | 2 => (va.extractLsb' 29 13).toNat
  | _ => (va.extractLsb' 16 13).toNat

/-- How a walk ends: a leaf, not valid or malformed at a level, or a table line that cannot be read: class and CODE. -/
inductive WalkEnd where
  | leaf (big : Bool) (pte : Word)
  | bad (level : Nat) (malformed : Bool)
  | fails (cls code : Nat)
deriving DecidableEq, Repr

/-- A walk from a level; fuel counts the levels left. Every table lies in HBM (R345); fails says which homes cannot be read, and why. -/
def walkFrom (fails : Nat → Option (Nat × Nat)) (m : List Host.Cell) (va : Word) : (fuel level table : Nat) → WalkEnd
  | 0, level, _ => .bad level true
  | fuel + 1, level, table =>
    let h := physHome 0 (table + 8 * vaIndex level va)
    match fails h with
    | some p => .fails p.1 p.2
    | none =>
      let e := Memory.word m h
      if !e.getLsbD 0 then .bad level false
      else if pteBad level e then .bad level true
      else if e.getLsbD 1 then .leaf (level == 2) e
      else walkFrom fails m va fuel (level + 1) (pteAddr e)

/-! ### Leaves -/

/-- Whether a leaf maps an address of a context. -/
def Leaf.maps (l : Leaf) (ctx : BitVec 8) (va : Word) : Bool :=
  l.ctx == ctx && (if l.big then l.page == va.toNat / 0x20000000 else l.page == va.toNat / 0x10000)

/-- The physical address a leaf gives. -/
def leafPa (big : Bool) (pte va : Word) : Nat :=
  if big then pteAddr pte + va.toNat % 0x20000000 else pteAddr pte + va.toNat % 0x10000

/-- Rights (R347). -/
def pteAllows (pte : Word) (n : Need) : Bool :=
  match n with
  | .load => pte.getLsbD 2
  | .store => pte.getLsbD 3
  | .atomic => pte.getLsbD 2 && pte.getLsbD 3
  | .fetch => pte.getLsbD 4

/-- Bytes of HBM (R1, R406). -/
def Grade.hbm : Grade → Nat
  | .zx3072 => 768 * 0x40000000
  | _ => 1024 * 0x40000000

/-- The region-world entry of a granule (R382): WORLD in [7:0], SEC in [8]. -/
def State.granule (s : State) (pa : Nat) : BitVec 16 := SMap.getD s.ssc.regions (pa / 0x200000) 0

/-- Why a walk for a context cannot read the table entry at a home: each read of it carries the context's world (R379), so the checks of the memory
controller apply (R382, R387, R388), and the line may be poisoned or fail on its tag (R354, R355). -/
def State.tableFails (s : State) (ctx : BitVec 8) (h : Nat) : Option (Nat × Nat) :=
  let w := s.world ctx
  let g := s.granule (homePa h)
  if !s.mcOk ctx then some (16, 3)
  else if g.extractLsb' 0 8 != w || g.getLsbD 8 != (w != 0) then some (7, 4)
  else if s.tagFails ctx h then some (16, 3)
  else if s.poison.contains (lineOfHome h) then some (16, 0)
  else none

/-- The walk of an address for a context (R347). -/
def State.walk (s : State) (ctx : BitVec 8) (va : Word) : WalkEnd :=
  match SMap.find s.ssc.contexts ctx.toNat with
  | some c => walkFrom (s.tableFails ctx) s.mem va 4 0 c.root.toNat
  | none => .bad 0 false

/-- The lane of a physical line address (R201). -/
def laneOf (pa : Nat) : Nat :=
  let a : BitVec 64 := BitVec.ofNat 64 pa
  (a.extractLsb' 18 4 ^^^ a.extractLsb' 14 4 ^^^ a.extractLsb' 10 4 ^^^ a.extractLsb' 6 4).toNat

/-- The checks at a leaf and at the home's controller for an access of a context (R347, R382, R397, R400, R405, R406). -/
def State.leafCheck (s : State) (ctx : BitVec 8) (big : Bool) (pte va : Word) (n : Need) : Tr :=
  let w := s.world ctx
  let pa := leafPa big pte va
  let a : BitVec 64 := BitVec.ofNat 64 pa
  if pte.extractLsb' 8 8 != w || pte.getLsbD 5 != (w != 0) then .trap (trapOf 7 3 va)
  else if !pteAllows pte n then .trap (trapOf 7 2 va)
  else
    match pteKind pte with
    | 0 =>
      if s.plat.grade.hbm ≤ pa then .trap (trapOf 6 0 va)
      else
        let g := s.granule pa
        if g.extractLsb' 0 8 != w || g.getLsbD 8 != (w != 0) then .trap (trapOf 7 4 va) else .home (physHome 0 pa)
    | 1 =>
      let port := (a.extractLsb' 41 2).toNat
      if !s.plat.cxl.getLsbD port || s.plat.cxlDown.getLsbD port then .trap (trapOf 6 2 va)
      else if Config.cxlCapacity port ≤ (a.extractLsb' 0 41).toNat then .trap (trapOf 6 0 va)
      else .home (physHome 1 pa)
    | k =>
      let e := a.extractLsb' 48 8
      if 191 < e.toNat || (k == 3 && !Config.isPackage e) || !s.plat.reaches e (laneOf pa) ||
          (w != 0 && !s.hasSession ctx e) then .trap (trapOf 6 2 va)
      else .home (physHome k pa)

/-- Translation through a cache of valid leaves (R348). -/
def State.lookup (s : State) (leaves : List Leaf) (ctx : BitVec 8) (va : Word) (n : Need) : Tr :=
  match leaves.find? (·.maps ctx va) with
  | some l => s.leafCheck ctx l.big l.pte va n
  | none => .miss

/-- A leaf enters a cache that holds n; a replacement is never visible but in timing (R348): the oldest leaves (DESIGN CHOICE: log entry 12). -/
def keepLeaf (n : Nat) (c : List Leaf) (l : Leaf) : List Leaf := if c.contains l then c else (c ++ [l]).drop (c.length + 1 - n)

/-- Translation for a core, through its quad's cache. -/
def State.translate (s : State) (core : Nat) (ctx : BitVec 8) (va : Word) (n : Need) : Tr :=
  s.lookup (SMap.getD s.tcaches (quadOf core) []) ctx va n

/-- A miss joins the walk of its page on its die, or starts one (R349). die 8 and 9 are the I/O dies. -/
def State.joinWalk (s : State) (die quad : Nat) (a : Agent) (ctx : BitVec 8) (va : Word) (k : BitVec 3) : State :=
  let page := va.toNat / 0x10000
  if s.walks.any (fun w => w.die == die && w.ctx == ctx && w.page == page) then
    { s with walks := s.walks.map (fun w =>
        if w.die == die && w.ctx == ctx && w.page == page then
          { w with quads := NSet.add w.quads quad, agents := if w.agents.contains a then w.agents else w.agents ++ [a] }
        else w) }
  else
    let w : Walk := { seq := s.seq, die := die, ctx := ctx, page := page, va := va, kind := k, quads := [quad], agents := [a] }
    let s1 : State := { s with walks := s.walks ++ [w], seq := s.seq + 1 }
    s1.post (.translationWalk s.seq)

/-- A walk and its checks at once, for an access that an I/O die unit makes for a context: its home, a fault that is to be
serviced (miss), or a failed check. -/
def State.unitTr (s : State) (ctx : BitVec 8) (va : Word) (n : Need) : Tr :=
  match s.walk ctx va with
  | .leaf big pte => s.leafCheck ctx big pte va n
  | .bad _ _ => .miss
  | .fails c k => .trap (trapOf c k va)

/-- Whether an address lies in translated space (R151). -/
def isTranslated (va : Word) : Bool := decide (0x10000000000 ≤ va.toNat) && decide (va.toNat ≤ 0x1FFFFFFFFFFFFFF)

end Sys2Proof.Machine
end

