-- ==== Sys2Proof/Machine/Access.lean ====
section
/-!
DEFINITION. One access: its checks, its bank operation or its operation at a home, waiting, redirecting, watchpoints, and
what it wakes (10; 11 R173 to R191; 13 R194 to R200; 24 R354; 26 R362 to R365).
-/

namespace Sys2Proof.Machine

/-! ### The address map (R151) -/

/-- Where an address lies, seen from a core: a local-store offset (whose core it is, whether it came through the aperture to
another core), translated space, or nowhere. -/
inductive Place where
  | ls (core off : Nat) (aper : Bool)
  | translated
  | nowhere
deriving DecidableEq, Repr

def State.place (s : State) (core : Nat) (va : Word) : Place :=
  let a := va.toNat
  if a ≤ 0x3FFFF then .ls core a false
  else if 0x100000 ≤ a ∧ a ≤ 0x1FFFFF then
    let n := 4 * quadOf core + a / 0x40000 % 4
    if s.coreExists n then .ls n (a % 0x40000) false else .nowhere
  else if 0x100000000 ≤ a ∧ a ≤ 0x13FFFFFFF then
    let n := a / 0x40000 % 0x1000
    if s.coreExists n then .ls n (a % 0x40000) (n != core) else .nowhere
  else if isTranslated va then .translated
  else .nowhere

/-- What an operation needs of a page. -/
def WordOp.need : WordOp → Need
  | .read | .tget | .tagRead => .load
  | .write _ => .store
  | _ => .atomic

/-- Operations without a table evaluation (R155): they reach no translated address (R191, R214). -/
def WordOp.bypass : WordOp → Bool
  | .tget | .tset _ | .tcas _ _ | .sbinit _ _ | .tagRead => true
  | _ => false

/-- Whether an operation may write bytes of its word, not only its tag (R191). -/
def WordOp.stores : WordOp → Bool
  | .read | .tget | .tagRead | .tset _ | .tcas _ _ => false
  | _ => true

/-- Operations that only local-store words have. -/
def WordOp.lsOnly (o : WordOp) : Bool := o.bypass || (match o with | .arrive => true | _ => false)

/-- Whether an operation may write its bytes. -/
def WordOp.writes : WordOp → Bool
  | .read | .tget | .tagRead => false
  | _ => true

/-- Whether the latch of a die refuses a world (R380). -/
def State.latchRefuses (s : State) (die : Nat) (w : BitVec 8) : Bool :=
  let l := s.ssc.latches[die]?.getD 0
  l.getLsbD 8 && l.extractLsb' 0 8 != w

/-- Whether the context has the region of an offset on a core (R152). -/
def State.allocated (s : State) (n off : Nat) (ctx : BitVec 8) : Bool :=
  (s.core n).ctx == some ctx && (SMap.find (s.core n).alloc (off / 0x1000)).isSome

/-- Whether the port of a core's die refuses a request of a context from a core of another die (R380). -/
def State.portRefuses (s : State) (core n : Nat) (ctx : BitVec 8) : Bool :=
  dieOf n != dieOf core && s.latchRefuses (dieOf n) (s.world ctx)

/-- The checks of a local-store access from a core, or from a unit of an I/O die (from = none) (R152, R380, R388). A request that a die's port refuses never
comes to the check of the allocations. -/
def State.lsCheck (s : State) (from_ : Option Nat) (ctx : BitVec 8) (aper : Bool) (va : Word) (n off : Nat) (ap : Bool) :
    Option TrapInfo :=
  match from_ with
  | none => if s.allocated n off ctx then none else some (trapOf 7 0 va)
  | some core =>
    if s.portRefuses core n ctx && (aper || !ap) then some (trapOf 7 3 va)
    else if !s.allocated n off ctx then some (trapOf 7 0 va)
    else if ap && !aper then some (trapOf 7 1 va)
    else if n != core && !s.keyOk core ctx then some (trapOf 7 8 va)
    else none

/-- Alignment, map, protection and translation of an access (R151 to R153, R178): its home. A miss parks on the walk of its
page, a page whose fault is in service on that. -/
def State.precheck (s : State) (ag : Agent) (core : Nat) (ctx : BitVec 8) (aper : Bool) (a : Acc) (kind : BitVec 3) : Res Nat :=
  if a.va.toNat % a.size ≠ 0 then .trap (trapOf 5 0 a.va) s
  else
    match s.place core a.va with
    | .nowhere => .trap (trapOf 6 0 a.va) s
    | .ls n off ap =>
      match s.lsCheck (some core) ctx aper a.va n off ap with
      | some i => .trap i s
      | none => .ok (lsHome n off) s
    | .translated =>
      if a.op.lsOnly then .trap (trapOf 6 0 a.va) s
      else
        match s.translate core ctx a.va a.op.need with
        | .trap i => .trap i s
        | .miss => .park (.walk a.va) (s.joinWalk (dieOf core) (quadOf core) ag ctx a.va kind)
        | .home h => if s.keyOk core ctx then .ok h s else .trap (trapOf 7 8 a.va) s

/-! ### Tags and tables -/

/-- The tag of a word (R154). -/
def State.tag (s : State) (home : Nat) : BitVec 3 := SMap.getD s.tags (wordOf home) 0

/-- The table of a region (R156). -/
def Core.tableOf (c : Core) (region : Nat) : Nat :=
  let m := if region < 32 then c.rmap0 else c.rmap1
  (m.extractLsb' (2 * (region % 32)) 2).toNat

/-- The entry that an access of a kind meets at a word (R156). -/
def State.entry (s : State) (n off kind : Nat) : BitVec 16 :=
  let c := s.core n
  match c.tableOf (off / 0x1000) with
  | 0 => 0
  | t + 1 => ((c.tables[t]?.getD (Vector.replicate 64 0))[8 * kind + (s.tag (lsHome n off)).toNat]?).getD 0

def entAct (e : BitVec 16) : Nat := (e.extractLsb' 13 3).toNat

def entUpd (e : BitVec 16) : Bool := e.getLsbD 12

def entTag (e : BitVec 16) : BitVec 3 := e.extractLsb' 9 3

def entTcode (e : BitVec 16) : Nat := (e.extractLsb' 6 3).toNat

/-- The kind code of an operation (R155). -/
def kindOf (o : WordOp) (remote engine : Bool) : Nat :=
  if engine then (if o.writes then 7 else 6)
  else
    let k := match o.need with
      | .load => 0
      | .store => 1
      | _ => 2
    if remote then k + 3 else k

/-- Re-evaluations of the waiters of a word, in parking order, ahead of everything else (R166, R51, R210). -/
def State.wakeWord (s : State) (home : Nat) (tagChanged written : Bool) : State :=
  let ws := s.waiters.filter (fun w => w.home == wordOf home && ((tagChanged && w.onTag) || (written && w.onWrite)))
  let es := ws.map (fun w => Event.waiterReevaluation w.seq)
  { s with todo := es ++ s.todo.filter (fun e => !es.contains e) }

/-- The same for a write of the words of [lo, hi), in parking order. -/
def State.wakeRange (s : State) (lo hi : Nat) : State :=
  let ws := s.waiters.filter (fun w => w.onWrite && decide (lo ≤ w.home) && decide (w.home < hi))
  let es := ws.map (fun w => Event.waiterReevaluation w.seq)
  { s with todo := es ++ s.todo.filter (fun e => !es.contains e) }

/-- Whether an event is the re-evaluation of a waiter. -/
def Event.isWake : Event → Bool
  | .waiterReevaluation _ => true
  | _ => false

/-- Whether waiters are due for re-evaluation: no other access is made before they have been evaluated (R166, R210). -/
def State.wakesDue (s : State) : Bool := (s.todo.head?.map Event.isWake).getD false

/-- The issuing thread makes its next access once the waiters that are due have been evaluated (R166, R210). -/
def State.pause (s : State) : Res Unit := .park .rdr (s.post (.rdrReissue s.cur.core s.cur.slot))

/-- Sets a tag and wakes the word's waiters when it changes. -/
def State.setTag (s : State) (home : Nat) (t : BitVec 3) : State :=
  if s.tag home == t then s
  else { s with tags := SMap.setD s.tags (wordOf home) 0 t }.wakeWord home true false

/-- The words of [home, home + n) outside local store, with their values, before write number num replaces them (R213). -/
def State.replacing (s : State) (num home n : Nat) : List (Nat × Nat × Word) :=
  (List.range ((home + n - 1) / 8 - home / 8 + 1)).map (fun k => (num, wordOf home + 8 * k, Memory.word s.mem (wordOf home + 8 * k)))

/-- Write number num of bytes at a home; the bytes that be enables. What words of HBM or of the CXL tier held is kept for fetches that have not been told
of the write (R213); a line of far memory comes as its endpoint gives it. -/
def State.writeBytesAt (s : State) (num home v be n : Nat) : State :=
  { s with mem := Memory.writeN s.mem home v be n,
           replaced := if homeIsLs home || decide (2 ≤ homeKind home) then s.replaced else s.replaced ++ s.replacing num home n }

/-- A write now. -/
def State.writeBytes (s : State) (home v be n : Nat) : State := s.writeBytesAt s.seq home v be n

/-! ### What an operation does to a value (R188, R210) -/

/-- A stage barrier word after one arrival (R209, R210). -/
def arriveWord (w : Word) : Word :=
  let phase := w.extractLsb' 40 24
  let exp := w.extractLsb' 20 20
  let arr := w.extractLsb' 0 20
  let a := arr.toNat + 1
  if exp.toNat ≤ a then (phase + 1) ++ exp ++ (0 : BitVec 20) else phase ++ exp ++ BitVec.ofNat 20 a

/-- The new value of an atomic on n bits (R188); none where ACAS does not write. -/
def AtomOp.new (o : AtomOp) (n : Nat) (old b cmp : Nat) : Option Nat :=
  match o with
  | .add => some ((old + b) % 2 ^ n)
  | .and => some (old &&& b)
  | .or => some (old ||| b)
  | .xor => some (old ^^^ b)
  | .swp => some b
  | .cas => if old = cmp then some b else none
  | .min => some (if intOf n true old ≤ intOf n true b then old else b)
  | .max => some (if intOf n true old ≤ intOf n true b then b else old)
  | .minu => some (Nat.min old b)
  | .maxu => some (Nat.max old b)
  | .fadd => some (fp32.addV .rne (fp32.decode old) (fp32.decode b)).bits

/-- The new value of n bytes under an operation, none where nothing is written. -/
def WordOp.new (o : WordOp) (n : Nat) (old : Nat) : Option Nat :=
  match o with
  | .write d => some (d.toNat % 256 ^ n)
  | .atom op b c => op.new (8 * n) old (b.toNat % 256 ^ n) (c.toNat % 256 ^ n)
  | .arrive => some (arriveWord (BitVec.ofNat 64 old)).toNat
  | .addWord k => some ((old + k.toNat) % 2 ^ 64)
  | _ => none

/-! ### Watchpoints and stops (R362 to R367) -/

/-- Stop latency in cycles of the target core (R365). -/
def stopDelay (h n : Nat) : Nat := if quadOf h == quadOf n then 8 else if dieOf h == dieOf n then 24 else 98

/-- The count of core n in the cycle of the core clock that core h is in, or comes to next: all cores run the one core clock (R29, R365). -/
def State.cycleOf (s : State) (h n : Nat) : Nat :=
  (s.core n).cyc.toNat + (if h < s.nextCore then 1 else 0) - (if n < s.nextCore then 1 else 0)

/-- The stop or resume messages of a context to every other package of the pod (R365, R368, R396): STOPSRC and STOPADDR, and the context, whose slots alone
are stopped, as the tag. DESIGN CHOICE: log entry 14. -/
def State.stopMsgs (s : State) (ctx : BitVec 8) (hdr addr : Word) : List Msg :=
  let dsts := ((List.range 192).map (BitVec.ofNat 8)).filter (fun e => Config.isPackage e && e != s.plat.self)
  dsts.map (fun e =>
    { ty := 0x0A, src := s.plat.self, dst := e, lane := 0, world := s.world ctx, session := if s.world ctx == 0 then 0 else ((s.sessionWith ctx e).map (·.1)).getD 0
      nonce := 0, addr := addr, hdr := hdr, tag := ctx.toNat, data := 0, mask := 0, mac := 0 })

/-- Whether a stop names a gang: all of them, or those it lists. -/
def namesGang (gs : Option (List Nat)) (g : Nat) : Bool :=
  match gs with
  | some l => l.contains g
  | none => true

/-- Whether the threads of the named gangs on core n are stopped, or about to be (R364). -/
def State.stopCovers (s : State) (n : Nat) (gs : Option (List Nat)) : Bool :=
  (s.core n).dbg.stopped &&
  slotNums.all (fun k =>
    let x := s.slot ⟨n, k⟩
    x.st == .empty || x.st == .stopped || !namesGang gs x.gang ||
      s.stops.any (fun m => m.core == n && (s.core n).ctx == some m.ctx && namesGang m.gangs x.gang))

/-- A stop raised at core h for a context: the domain's cores stop after the latencies of R365; nothing happens to a core of it that is
already stopped or about to be, and nothing at all while all of them are (R364). -/
def State.raiseStop (s : State) (h : Nat) (dom : BitVec 3) (ctx : BitVec 8) (src addr : Word) : State :=
  let gs := (s.gangs.filter (fun g => g.ctx == ctx && g.places.any (·.core == h)))
  let gangs : Option (List Nat) := if dom == 0 then some (gs.map (·.id)) else none
  let domain : List Nat := if dom == 0 then (gs.flatMap (fun g => g.places.map (·.core))).eraseDups
    else (s.cores.map (·.1)).filter (fun n => inScope dom h n && (s.core n).ctx == some ctx)
  let cnt := (s.core h).cyc
  let s1 := (domain.filter (fun n => !s.stopCovers n gangs)).foldl (fun s n =>
    let c := s.core n
    let at_ := s.cycleOf h n + stopDelay h n
    let s0 := s.setCore n { c with dbg := { c.dbg with stopped := true } }
    let s1 := s0.rouse n
    let m : StopMsg := { core := n, at_ := at_, ctx := ctx, gangs := gangs, src := src, addr := addr, cnt := cnt, dom := dom, hit := s.cycleOf h n
                         issued := Vector.replicate 8 0 }
    { s1 with stops := s1.stops ++ [m] }.timer n at_ (.stopTakesEffect n)) s
  if dom == 5 && !((s.core h).dbg.stopped && ((s.core h).dbg.dom == 5 || s.stops.any (fun m => m.core == h && m.dom == 5))) then
    s1.transmitAll h (s1.stopMsgs ctx src addr)
  else s1

/-- The watchpoints of a core that match an access to bytes [lo, hi) of a list of ranges, the lowest first. -/
def Core.wpMatch (c : Core) (space kind : Nat) (rs : List (Nat × Nat)) : List Nat :=
  (List.range 4).filter (fun k =>
    let w := c.dbg.wpctl[k]?.getD 0
    let len := (w.extractLsb' 18 6).toNat
    let base := (c.dbg.wpaddr[k]?.getD 0).toNat / 2 ^ len * 2 ^ len
    (w.extractLsb' 16 2).toNat == space && w.getLsbD (24 + kind) && rs.any (fun r => decide (r.1 < base + 2 ^ len) && decide (base < r.2)))

/-- STOPSRC of a hit (R367). -/
def stopSrcOf (h wp kind : Nat) (ag : Agent) : Word :=
  let (rc, rs, eng) : Nat × BitVec 3 × Bool := match ag with
    | .thread t | .access t _ | .window t => (t.core, t.slot, false)
    | .copy n | .grid n | .blocker n => (n, 0, true)
    | _ => (0xFFF, 0, true)
  (0 : BitVec 16) ++ BitVec.ofNat 12 h ++ (0 : BitVec 2) ++ BitVec.ofNat 2 wp ++ BitVec.ofNat 4 kind ++ BitVec.ofNat 12 rc ++ rs ++
    BitVec.ofBool eng ++ (0 : BitVec 10) ++ (0 : BitVec 1) ++ (1 : BitVec 1)

/-- The watchpoints of core h on an access about to be performed: each that matches is a hit and stops its domain, the lowest first, whose stop is the
one recorded; one with ACT 1 is a precise trap of a thread requester (R363, R364). An access of a stepped instruction raises no stop (R369). -/
def State.watch (s : State) (h space kind : Nat) (rs : List (Nat × Nat)) (ag : Agent) (addr : Word) : State × Option TrapInfo :=
  let ks := (s.core h).wpMatch space kind rs
  let lo := (rs.head?.map (·.1)).getD 0
  let ctl (k : Nat) : Word := (s.core h).dbg.wpctl[k]?.getD 0
  let stepped : Bool := match ag with
    | .thread t => (s.core t.core).dbg.stepping == some t.slot && (s.slot t).st == .stopped
    | _ => false
  let s1 := if stepped = true then s else ks.foldl (fun s k => s.raiseStop h ((ctl k).extractLsb' 13 3) (s.ctxOf h) (stopSrcOf h k kind ag) (BitVec.ofNat 64 lo)) s
  let free := match ag.tid? with
    | some t => !(s.slot t).cr.intrap
    | none => false
  (s1, if free then (ks.find? (fun k => (ctl k).getLsbD 12)).map (fun k => trapOf 18 k addr) else none)

/-! ### Waiting in the order of waiters -/

/-- An element of an outstanding relaxed access, by its number. -/
def Slot.item (x : Slot) (acc : Nat) : Option (Out × OutItem) :=
  (x.outs.find? (fun o => o.seq == acc / 64)).bind (fun o => (o.items[acc % 64]?).map (fun i => (o, i)))

/-- Replaces an element of an outstanding relaxed access. -/
def State.setItem (s : State) (t : Tid) (acc : Nat) (i : OutItem) : State :=
  let x := s.slot t
  s.setSlot t { x with outs := x.outs.map (fun o => if o.seq == acc / 64 then { o with items := o.items.set (acc % 64) i } else o) }

/-- The count at which an agent's table wait began, recorded when it begins (R167). -/
def State.beginWait (s : State) (ag : Agent) (cyc : Nat) : Nat × State :=
  match ag with
  | .thread _ =>
    let c := s.cont
    let n := c.since.getD cyc
    (n, s.setCont { c with since := some n })
  | .access t k =>
    match (s.slot t).item k with
    | some (_, i) =>
      let n := i.since.getD cyc
      (n, s.setItem t k { i with since := some n })
    | none => (cyc, s)
  | _ => (cyc, s)

/-- The watchdog of a table wait: 2^26 cycles of the requester's core (R167). -/
def State.setDog (s : State) (ag : Agent) (core since : Nat) : State :=
  match ag with
  | .thread t | .access t _ => s.timer core (since + 2 ^ 26) (.tagWaitWatchdog core 0 t.slot)
  | .copy _ => s.timer core (since + 2 ^ 26) (.tagWaitWatchdog core 1 0)
  | .grid _ => s.timer core (since + 2 ^ 26) (.tagWaitWatchdog core 2 0)
  | .blocker _ => s.timer core (since + 2 ^ 26) (.tagWaitWatchdog core 3 0)
  | _ => s

/-- Enters an agent in the list of waiters of a word, or keeps its place (R165, R166, R168). A remote thread that finds the
16 entries of the remote-wait queue taken is refused and retries 64 cycles later; the watchdog of a table wait is set. -/
def State.enter (s : State) (ag : Agent) (core n home : Nat) (onTag onWrite watchdog : Bool) (w : Await) : Await × State :=
  let home := wordOf home
  if s.waiters.any (fun x => x.agent == ag && x.home == home) then (w, s)
  else
    let remote := ag.tid?.isSome && n != core
    let used := (s.waiters.filter (fun x => x.remote && homeCore x.home == n)).length
    let cyc := (s.core core).cyc.toNat
    let s1 := if watchdog then
        let r := s.beginWait ag cyc
        r.2.setDog ag core r.1
      else s
    if remote && decide (16 ≤ used) then
      match ag.tid? with
      | some t => (.refused home (cyc + 64), s1.timer core (cyc + 64) (.remoteWaitRetry core t.slot))
      | none => (w, s1)
    else
      let x : Waiter := { seq := s1.seq, home := home, agent := ag, remote := remote, onTag := onTag, onWrite := onWrite, table := watchdog, gate := false }
      (w, { s1 with waiters := s1.waiters ++ [x], seq := s1.seq + 1 })

/-- Inserts a waiter at its place in the order. -/
def insertWaiter (w : Waiter) : List Waiter → List Waiter
  | [] => [w]
  | x :: xs => if w.seq < x.seq then w :: x :: xs else x :: insertWaiter w xs

/-- Leaves the list of waiters. -/
def State.leave (s : State) (ag : Agent) : State := { s with waiters := s.waiters.filter (·.agent != ag) }

/-! ### Bank operation (R161) -/

/-- The word offsets that an access touches: those with an enabled byte. -/
def Acc.words (a : Acc) (off : Nat) : List Nat :=
  if a.size ≤ 8 then [wordOf off]
  else (List.range (a.size / 8)).filterMap (fun k =>
    if (a.be >>> (8 * k)).toNat % 256 ≠ 0 then some (off + 8 * k) else none)

/-- What the words of an access decide together (R158, R160, R164): the words that wait, or the word that decides. A word with bad tag bits is not
evaluated; an error there stands below a tag trap of another word (R178, R338). To an engine RDR is a TRAP with TCODE 7 (R163). -/
inductive Decision where
  | go
  | wait (offs : List Nat)
  | redirect (off : Nat)
  | trap (off tcode : Nat)
  | badTag (off : Nat)
deriving DecidableEq, Repr

def State.decide_ (s : State) (n kind : Nat) (wide bypass : Bool) (ws : List Nat) : Decision :=
  let bad (o : Nat) : Bool := s.badTags.contains (lsHome n o)
  let es := if bypass then [] else (ws.filter (fun o => !bad o)).map (fun o => (o, s.entry n o kind))
  match es.find? (fun p => entAct p.2 == 3 || (decide (6 ≤ kind) && entAct p.2 == 2)) with
  | some p => .trap p.1 (if entAct p.2 == 2 then 7 else entTcode p.2)
  | none =>
    match es.find? (fun p => entAct p.2 == 2) with
    | some p => if wide then .trap p.1 7 else .redirect p.1
    | none =>
      match ws.find? bad with
      | some o => .badTag o
      | none =>
        match es.filter (fun p => entAct p.2 == 1) with
        | [] => .go
        | ps => .wait (ps.map (·.1))

/-- What an operation leaves in bytes [b, b + k) of the word at home: its new value, if it writes one. A write of the whole word clears its poison
(R354); the word's waiters for a write are evaluated again (R166). -/
def State.putNew (s : State) (home b k be : Nat) : Option Nat → State
  | some v =>
    let s1 := s.writeBytes (home + b) v be k
    let s2 := if k == 8 && be % 256 == 255 then { s1 with poison := s1.poison.filter (· != home) } else s1
    s2.wakeWord home false true
  | none => s

/-- One word's part of an access: bytes [b, b + k) of the word at home w, with the entry e: what is returned and the state. -/
def State.wordStep (s : State) (o : WordOp) (home b k be : Nat) (data : Nat) (e : BitVec 16) (bypass : Bool) : Nat × State :=
  let old := Memory.readN s.mem (home + b) k
  let z := entAct e == 4
  match o with
  | .tget | .tagRead => ((s.tag home).toNat, s)
  | .tset t => (0, s.setTag home t)
  | .tcas x t =>
    let g := s.tag home
    (g.toNat, if g == x then s.setTag home t else s)
  | .sbinit x t =>
    (0, (s.setTag home t).putNew home 0 8 255 (some ((0 : BitVec 24) ++ x ++ (0 : BitVec 20)).toNat))
  | _ =>
    let o1 : WordOp := match o with
      | .write _ => .write (BitVec.ofNat 512 data)
      | o => o
    let s1 := if z then s
      else s.putNew home b k be (o1.new k old)
    let s2 := if entUpd e && !bypass then s1.setTag home (entTag e) else s1
    (if z then 0 else old, s2)

/-- The words of a wide access one after the other, in one operation: what each returns. -/
def State.wideSteps (s : State) (o : WordOp) (n off kind : Nat) (be : Nat) (data : Nat) : (ks : List Nat) → Nat × State
  | [] => (0, s)
  | k :: ks =>
    let b8 := be / 2 ^ (8 * k) % 256
    if b8 = 0 then s.wideSteps o n off kind be data ks
    else
      let r := s.wordStep o (lsHome n (off + 8 * k)) 0 8 b8 (data / 2 ^ (64 * k) % 2 ^ 64) (s.entry n (off + 8 * k) kind) false
      let q := r.2.wideSteps o n off kind be data ks
      (r.1 * 2 ^ (64 * k) + q.1, q.2)

/-- The data an operation carries. -/
def WordOp.data : WordOp → Nat
  | .write d => d.toNat
  | _ => 0

/-- The bytes that an access from an offset covers, as ranges: of a wide access, its enabled bytes (R363). -/
def Acc.runs (a : Acc) (off : Nat) : List (Nat × Nat) :=
  if a.size ≤ 8 then [(off, off + a.size)]
  else ((List.range a.size).filter (fun k => a.be.getLsbD k)).map (fun k => (off + k, off + k + 1))

/-- A waiting access is in the list of each word that makes it wait, at one place in the order, and of no other; its first word holds the entry that
a remote access has in the remote-wait queue (R164, R166, R168). -/
def State.listOn (s : State) (x : Waiter) (n : Nat) (offs : List Nat) : State :=
  let others := s.waiters.filter (fun y => y.agent != x.agent)
  { s with waiters := (offs.zipIdx).foldr (fun p ws => insertWaiter { x with home := lsHome n p.1, remote := x.remote && p.2 == 0 } ws) others }

/-- Whether the count of a table wait of an agent does not run: it has come back from a saved image (R167, R235). -/
def State.uncounted (s : State) (ag : Agent) : Bool :=
  match ag with
  | .thread _ => s.cont.since.isNone
  | .access t k => (((s.slot t).item k).map (fun p => p.2.since.isNone)).getD false
  | .copy n => ((s.core n).copies.head?.map (fun k => k.since.isNone)).getD false
  | _ => false

/-- Enters an agent in the lists of every word that makes it wait (R164); a refusal keeps it out of all. An access that waits already keeps its place and
its entry of the remote-wait queue (R166, R168). -/
def State.enterAll (s : State) (ag : Agent) (core n : Nat) (offs : List Nat) : Await × State :=
  match offs with
  | [] => (.none, s)
  | o :: os =>
    let w : Await := .table (lsHome n o)
    match s.waiters.find? (fun x => x.agent == ag && x.table) with
    | some x =>
      let s1 := if s.uncounted ag then
          let r := s.beginWait ag (s.core core).cyc.toNat
          r.2.setDog ag core r.1
        else s
      (w, s1.listOn { x with remote := ag.tid?.isSome && n != core } n (o :: os))
    | none =>
      let r := s.enter ag core n (lsHome n o) true false true w
      match r.1 with
      | .refused _ _ => r
      | _ =>
        match r.2.waiters.find? (fun x => x.agent == ag && x.table) with
        | some x => (w, if os.isEmpty then r.2 else r.2.listOn x n (o :: os))
        | none => r

/-- Whether an access needs the data of word o, whose offset from the first byte of the access it gives, and so takes its poison: a read, an
atomic, a store of less than the whole word, a masked store that writes part of it among them (R354). -/
def Acc.needsData (a : Acc) (rel : Nat) : Bool :=
  match a.op with
  | .write _ => decide (a.size < 8) || (decide (8 < a.size) && (a.be >>> rel).toNat % 256 != 255)
  | .tget | .tset _ | .tcas _ _ | .tagRead | .sbinit _ _ => false
  | _ => true

/-- Whether an agent's present table wait has lasted 2^26 cycles of its core (R167). -/
def State.overdue (s : State) (ag : Agent) (core : Nat) : Bool :=
  let late (since : Option Nat) : Bool := (since.map (fun n => decide (n + 2 ^ 26 ≤ (s.core core).cyc.toNat))).getD false
  match ag with
  | .thread t => t == s.cur && (s.cont.dog || late s.cont.since)
  | .access t k => (((s.slot t).item k).map (fun p => late p.2.since)).getD false
  | .copy n => late ((s.core n).copies.head?.bind (·.since))
  | .grid n => late ((s.core n).grid.bind (·.since))
  | .blocker n => late ((s.core n).demands.head?.bind (·.since))
  | _ => false

/-- The address that a failing evaluation of word o reports for an access at offset off: as issued (R159), for an engine's access that of the word (R159,
R270, R273). -/
def Acc.seen (a : Acc) (off : Nat) (engine : Bool) (o : Nat) : Word :=
  if engine then a.va + BitVec.ofNat 64 o - BitVec.ofNat 64 off else a.va

/-- The evaluation of an access at offset off of core n (R158 to R165, R167): ok when it is to be performed, with nothing changed. -/
def State.judge (s : State) (ag : Agent) (core n off kind : Nat) (a : Acc) (second : Bool) : Res Unit :=
  let seen := a.seen off (decide (6 ≤ kind))
  match s.decide_ n kind (decide (8 < a.size)) a.op.bypass (a.words off) with
  | .badTag o => .trap (trapOf 16 1 (seen o)) s
  | .trap o c => .trap (trapOf 13 c (seen o)) s
  | .wait os =>
    if s.overdue ag core then .trap (trapOf 17 0 (seen (os.headD off))) (s.leave ag)
    else
      let r := s.enterAll ag core n os
      .park r.1 r.2
  | .redirect o =>
    let e := s.entry n o kind
    if ag.tid?.isNone || second then .trap (trapOf 13 7 (seen o)) s
    else if s.poison.contains (lsHome n o) then .trap (trapOf 16 0 (seen o)) s
    else
      let na := Memory.word s.mem (lsHome n o)
      let s1 := if entUpd e then s.setTag (lsHome n o) (entTag e) else s
      match ag with
      | .thread t =>
        let s2 := s1.leave ag
        let c := s2.cont
        let s3 := s2.setCont { c with redirect := some na, second := true, since := none, dog := false }
        .park .rdr (s3.post (.rdrReissue t.core t.slot))
      | .access _ _ => .park .rdr (s1.leave ag)
      | _ => .trap (trapOf 13 7 (seen o)) s
  | .go => .ok () s

/-- What may still stop an access that its evaluation lets be performed: poison in a word whose data it needs (R354), and a watchpoint (R363, R364). -/
def State.letIn (s : State) (ag : Agent) (n off kind : Nat) (a : Acc) : Res Unit :=
  let zret := fun o => entAct (s.entry n o kind) == 4
  let poisoned := (a.words off).filter (fun o => s.poison.contains (lsHome n o) && !(zret o && !a.op.bypass) && a.needsData (o - off))
  if !poisoned.isEmpty then .trap (trapOf 16 0 (a.seen off (decide (6 ≤ kind)) (poisoned.headD off))) s
  else
    let r := s.watch n 1 kind (a.runs off) ag a.va
    match r.2 with
    | some i => .trap i r.1
    | none => .ok () r.1

/-- The access itself, UPD and wakes (R158, R161, R166): what it returns and the state. -/
def State.enact (s : State) (ag : Agent) (n off kind : Nat) (a : Acc) : Nat × State :=
  let s1 := s.leave ag
  if 8 < a.size then s1.wideSteps a.op n off kind a.be.toNat a.op.data (List.range (a.size / 8))
  else s1.wordStep a.op (lsHome n (wordOf off)) (off % 8) a.size (2 ^ a.size - 1) a.op.data (s1.entry n off kind) a.op.bypass

/-- One bank operation of an access at offset off of core n (R161): evaluation, watchpoints, the access, UPD, wakes. A contiguous vector access is wide
whatever its mask leaves of it. DESIGN CHOICE: log entry 70. -/
def State.bank (s : State) (ag : Agent) (core n off kind : Nat) (a : Acc) (second : Bool) : Res Line :=
  (s.judge ag core n off kind a second).bind fun _ s1 => (s1.letIn ag n off kind a).bind fun _ s2 =>
    .ok (BitVec.ofNat 512 (s2.enact ag n off kind a).1) (s2.enact ag n off kind a).2

/-! ### Holds before a bank operation -/

/-- The number at which the access that an agent is making came to its bank: its place in the list of waiters, or now. -/
def State.arrival (s : State) (ag : Agent) : Nat := ((s.waiters.find? (·.agent == ag)).map (·.seq)).getD s.seq

/-- Whether a command that was there when an agent's access arrived names a word among those at these offsets of core n as its token (R302). The
commands of its own queue hold an engine's access only while they stand before the one that makes it. DEDUCED: log entry 38. -/
def State.tokenHeld (s : State) (ag : Agent) (n : Nat) (ws : List Nat) : Option Nat :=
  let ks := if ag == .copy n then [] else (s.core n).copies
  (ks.find? (fun k => ws.any (fun o => k.token == lsHome n o) && decide (k.seq < s.arrival ag))).map (·.token)

/-- Holds an access for a word, in its order of arrival (R61, R302). -/
def State.holdOn (s : State) (ag : Agent) (home : Nat) : State :=
  if s.waiters.any (fun x => x.gate && x.agent == ag) then
    { s with waiters := s.waiters.map (fun x => if x.gate && x.agent == ag then { x with home := home } else x) }
  else
    { s with seq := s.seq + 1, waiters := s.waiters ++
        [{ seq := s.seq, home := home, agent := ag, remote := false, onTag := false, onWrite := false, table := false, gate := true }] }

/-- Whether an access of an agent is held before its bank operation (R61, R302). -/
def State.held (s : State) (ag : Agent) : Bool := s.waiters.any (fun w => w.gate && w.agent == ag)

/-- An access that was held goes on. -/
def State.unhold (s : State) (ag : Agent) : State :=
  if s.waiters.any (fun x => x.gate && x.agent == ag) then
    { s with waiters := s.waiters.filter (fun x => !(x.gate && x.agent == ag)) }
  else s

/-- A demand of an agent for blocks of core n's blanks (R289): go on when none is pending, or park while the blocker evaluates them. An
agent whose demand ended in a failed block of another thread goes on once (R290). -/
def State.demand (s : State) (ag : Agent) (n : Nat) (bs : List (BitVec 3 × Nat × Nat)) : Res Unit :=
  let c := s.core n
  match bs with
  | [] => .ok () (if c.demands.any (fun d => d.by_ == ag && d.failed) then
      s.setCore n { c with demands := c.demands.filter (fun d => d.by_ != ag || !d.failed) } else s)
  | bs =>
    match c.demands.find? (fun d => d.by_ == ag) with
    | some d =>
      if d.failed then .ok () (s.setCore n { c with demands := c.demands.filter (fun d => d.by_ != ag) })
      else .park .force s
    | none =>
      let d : Demand := { seq := s.seq, by_ := ag, blocks := demandBlocks 0 bs, failed := false, stall := none, since := none }
      .park .force ({ s.setCore n { c with demands := c.demands ++ [d] } with seq := s.seq + 1 }.post (.blockEvaluation n))

/-- The comparators of the blanks of core n on an access to bytes [lo, hi) (R291). -/
def State.comparators (s : State) (ag : Agent) (n lo hi : Nat) (write : Bool) (except_ : Option (BitVec 3)) : Res Unit :=
  s.demand ag n ((s.core n).forced lo hi write except_)

/-- The bytes that an access at an offset touches, as the comparators see them. -/
def Acc.bytes (a : Acc) (off : Nat) : List Nat :=
  if a.op.bypass then (List.range 8).map (wordOf off + ·)
  else if a.size ≤ 8 then (List.range a.size).map (off + ·)
  else (List.range a.size).filterMap (fun k => if a.be.getLsbD k then some (off + k) else none)

/-- The word on which the issuing thread's wait has ended by the watchdog, when it is among those of an access at offset off of core n (R167). -/
def State.barked (s : State) (ag : Agent) (n : Nat) (ws : List Nat) : Option Nat :=
  if ag != .thread s.cur || !s.cont.dog then none
  else
    match s.waiters.filter (fun w => w.agent == ag && w.table) with
    | [] => ws.head?
    | xs => ws.find? (fun o => xs.any (fun w => w.home == lsHome n o))

/-- What holds an access at a local-store home before its bank operation: the end of its wait by the watchdog, gating, a token, the comparators (R61,
R167, R302, R291). One that reaches a gated core is held until it has ungated (R60, R61); one from another core ends the idle count. -/
def State.lsHold (s : State) (ag : Agent) (core home : Nat) (a : Acc) (engine : Bool) : Res Unit :=
  let n := homeCore home
  let off := homeOff home
  match s.barked ag n (a.words off) with
  | some o => .trap (trapOf 17 0 (a.seen off engine o)) (s.leave ag)
  | none =>
    if (s.core n).gated then .park (.gate n) ((s.rouse n).holdOn ag (wordOf home))
    else
      let s0 := if n == core then s else s.rouse n
      match s0.tokenHeld ag n (a.words off) with
      | some tk => .park (.token tk) (s0.holdOn ag tk)
      | none =>
        let as := a.bytes off
        let w := match a.op with
          | .tget => true
          | o => o.writes
        (s0.unhold ag).demand ag n ((s0.core n).forcedBy (fun x => as.contains x) (if w then as else []) none)

/-- An access at a local-store home: what holds it, then its bank operation (R161). One of another core is a message, which is discarded where its tag fails
(R385, R387). -/
def State.lsPerform (s : State) (ag : Agent) (core home : Nat) (a : Acc) (engine second : Bool) : Res Line :=
  (s.lsHold ag core home a engine).bind fun _ s1 =>
    if homeCore home != core && s1.tampered core then .trap (trapOf 16 3 a.va) ((s1.untamper core).leave ag)
    else s1.bank ag core (homeCore home) (homeOff home) (kindOf a.op (homeCore home != core) engine) a second

/-! ### Homes outside local store -/

/-- Whether a relaxed store at a point of its route lies on a reader's route to the same home (R195, R196). -/
def onRoute (point writer reader : Nat) : Bool :=
  match point with
  | 0 => writer == reader
  | 1 => quadOf writer == quadOf reader
  | 2 => dieOf writer == dieOf reader
  | _ => true

/-- A relaxed store that a point of its route holds: the point, the number at which it came there, its first byte, its size, its enabled bytes and its
data. -/
structure Held where
  point : Nat
  came : Nat
  home : Nat
  size : Nat
  be : BitVec 64
  data : Nat
deriving DecidableEq, Repr

/-- Whether an element has been redirected and its new address has no home yet (R162). -/
def OutItem.adrift (i : OutItem) : Bool :=
  match i.stall with
  | .rdr | .walk _ | .service _ => true
  | _ => false

/-- Whether an element of a relaxed store of a thread of a core is on its way and held by a point of its route: until it has been performed at its home,
where it may have to wait, it stays on the route of every reader that could see it (R195, R198). A store to the writer's own local store passes no point,
and one that is redirected sets out anew. DEDUCED: log entry 76. -/
def OutItem.held (i : OutItem) (store : Bool) (writer : Nat) : Bool :=
  store && !i.done && !(homeIsLs i.home && homeCore i.home == writer) && !i.adrift

/-- The relaxed stores of other threads to bytes of [lo, hi) that the points of core c's route hold (R195, R196). -/
def State.buffered (s : State) (c : Nat) (me : Option Tid) (lo hi : Nat) : List Held :=
  s.cores.flatMap (fun (p : Nat × Core) =>
    slotNums.flatMap (fun k =>
      if me == some ⟨p.1, k⟩ then []
      else (p.2.slot k).outs.flatMap (fun o =>
        o.items.filterMap (fun i =>
          if i.held o.store p.1 && decide (i.home < hi) && decide (lo < i.home + i.acc.size) && onRoute i.point p.1 c then
            some { point := i.point, came := i.came, home := i.home, size := i.acc.size, be := i.acc.be, data := i.acc.op.data }
          else none))))

/-- Whether a held store is found after another: it lies farther out, or came to the same point earlier (R196). -/
def Held.behind (a b : Held) : Bool := decide (b.point < a.point) || (a.point == b.point && decide (a.came ≤ b.came))

/-- Inserts a held store into a list, the farthest and oldest first. -/
def Held.insert (b : Held) : List Held → List Held
  | [] => [b]
  | c :: cs => if b.behind c then b :: c :: cs else c :: Held.insert b cs

/-- Overlays the bytes of held stores on memory: of each byte, what the youngest write at the first point from the reader outward says (R196). -/
def overlay (m : List Host.Cell) (bs : List Held) : List Host.Cell :=
  (bs.foldr Held.insert []).foldl (fun m b => Memory.writeN m b.home b.data b.be.toNat b.size) m

/-- The bytes of an access of n bytes at a home that held stores give, by their offset. -/
def foundBytes (bs : List Held) (home n : Nat) : SMap Byte :=
  let m := overlay [] bs
  (List.range n).foldl (fun f k =>
    if bs.any (fun b => decide (b.home ≤ home + k) && decide (home + k < b.home + b.size) && b.be.getLsbD (home + k - b.home)) then
      SMap.put f k (Memory.byte m (home + k))
    else f) []

/-- What a read of n bytes returns: the bytes found on its route, and the home's (R196). -/
def withFound (f : SMap Byte) (d : Line) (n : Nat) : Line :=
  let m := Memory.writeN [] 0 d.toNat (2 ^ n - 1) n
  BitVec.ofNat 512 (Memory.readN (f.foldl (fun m p => Memory.setByte m p.1 p.2) m) 0 n)

/-- Whether an ordinary access that writes must wait: a store of another thread to the same bytes is still on its route (R198). One whose message has left
waits for its answer alone. -/
def State.routeBusy (s : State) (ag : Agent) (core home : Nat) (a : Acc) : Bool :=
  match ag with
  | .thread t =>
    a.op.stores && !s.requests.any (fun r => r.agent == ag && r.va == a.va) && !(s.buffered core (some t) home (home + a.size)).isEmpty
  | _ => false

/-- Codes of atomic operations in a message (DESIGN CHOICE: log entry 14). -/
def AtomOp.num : AtomOp → Nat
  | .add => 0
  | .and => 1
  | .or => 2
  | .xor => 3
  | .swp => 4
  | .cas => 5
  | .min => 6
  | .max => 7
  | .minu => 8
  | .maxu => 9
  | .fadd => 10

/-- The operation of a code. -/
def atomOfNum (n : Nat) : Option AtomOp := [AtomOp.add, .and, .or, .xor, .swp, .cas, .min, .max, .minu, .maxu, .fadd][n]?

/-- The operation's code in a message: an atomic's, or that of an add. -/
def WordOp.code : WordOp → Nat
  | .atom o _ _ => o.num
  | _ => 0

/-- Whether a copy engine's access is the last write of a CPS, which travels as a put-with-signal (R301, R396). -/
def State.lastPut (s : State) (ag : Agent) : Bool :=
  match ag with
  | .copy n => ((s.core n).copies.head?.map (fun k => k.signal.isSome && decide (k.pos + 1 = k.n))).getD false
  | _ => false

/-- The kind of an access as a watchpoint outside local store numbers it (R363). -/
def Need.space : Need → Nat
  | .load => 0
  | .store => 1
  | _ => 2

/-- The number of an agent's write: of a relaxed store that has passed the port of its tier, the number at which it came there, when it became visible in
the package (R195, R212); of any other, that of the present. -/
def State.writeNum (s : State) (ag : Agent) : Nat :=
  match ag with
  | .access t k => ((s.slot t).item k).elim s.seq (fun p => if p.2.point == 3 then p.2.came else s.seq)
  | _ => s.seq

/-- The watchpoints of a core on its own thread's access outside local store (R353, R363). -/
def State.watchHome (s : State) (ag : Agent) (core : Nat) (a : Acc) : State × Option TrapInfo :=
  match ag with
  | .thread _ => s.watch core 2 a.op.need.space (a.runs a.va.toNat) ag a.va
  | _ => (s, none)

/-- An access to far memory (kinds 2 and 3) is a message and completes with its reply (R396, R397), sent after its watchpoints (R353, R363) if its link is up
(R395) and its key is not used up (R385). A read of
path T meets the held stores of its route as it leaves: what they hold is in the answer, and a read that they answer whole sends nothing (R196). The bytes
that the package last knew of there are kept at their homes (DESIGN CHOICE: log entry 13). -/
def State.farPerform (s : State) (ag : Agent) (core : Nat) (ctx : BitVec 8) (home : Nat) (a : Acc) (fetch : Bool) : Res Line :=
  match s.requests.find? (fun r => r.agent == ag && r.va == a.va) with
  | some r =>
    match SMap.find s.replies r.tag with
    | none => .park (.reply r.tag) s
    | some (ok, d) =>
      let s1 := { s with requests := s.requests.filter (·.tag != r.tag), replies := SMap.erase s.replies r.tag }
      if !ok then
        let c := (d.extractLsb' 0 5).toNat
        .trap (if c == 6 || c == 7 || c == 16 then trapOf c (d.extractLsb' 8 16).toNat a.va
          else match a.op.need with
            | .atomic => trapOf 6 1 a.va
            | _ => trapOf 6 2 a.va) s1
      else
        match a.op with
        | .write v => .ok 0 (s1.writeBytes home v.toNat a.be.toNat a.size)
        | .read => .ok (withFound r.found d a.size) (s1.writeBytes home d.toNat (2 ^ a.size - 1) a.size)
        | o =>
          let old := d.toNat % 256 ^ a.size
          .ok d (match o.new a.size old with
            | some v => s1.writeBytes home v (2 ^ a.size - 1) a.size
            | none => s1)
  | none =>
    let pa : BitVec 64 := BitVec.ofNat 64 (homePa home)
    let w := s.world ctx
    let sess := ((s.sessionWith ctx (pa.extractLsb' 48 8)).map (·.1)).getD 0
    let ty : BitVec 8 := match a.op.need with
      | .load => 0x01
      | .store => if s.lastPut ag then 0x07 else 0x03
      | _ => 0x05
    let opd : Word := match a.op with
      | .atom _ b _ => b
      | .addWord k => k
      | _ => 0
    let d : Line := match a.op with
      | .write v => v
      | .atom _ b c => (0 : BitVec 384) ++ c ++ b
      | _ => (0 : BitVec 448) ++ opd
    let msg : Msg := { ty := ty, src := s.plat.self, dst := pa.extractLsb' 48 8, lane := BitVec.ofNat 4 (laneOf (homePa home)), world := w
                       session := if w == 0 then 0 else sess, nonce := 0, addr := pa, hdr := BitVec.ofNat 64 (a.size + 256 * a.op.code), tag := s.seq
                       data := d, mask := a.be, mac := 0 }
    let found := match ag.tid?, a.op, fetch with
      | some t, .read, false => foundBytes (s.buffered core (some t) home (home + a.size)) home a.size
      | _, _, _ => []
    let q : Request := { tag := s.seq, agent := ag, dst := pa.extractLsb' 48 8, va := a.va, pa := homePa home, fetch := fetch, found := found }
    let r := if fetch then (s, none) else s.watchHome ag core a
    match r.2 with
    | some i => .trap i r.1
    | none =>
      if found.length == a.size then .ok (withFound found 0 a.size) r.1
      else if s.lost msg then .trap (trapOf 6 2 a.va) s
      else if w != 0 && s.spent (sessionKeyNo sess) ag.sender then .park .route (s.exhausted ctx)
      else .park (.reply s.seq) { r.1.transmit ag.sender msg with seq := s.seq + 1, requests := r.1.requests ++ [q] }

/-- Whether an access only writes. -/
def WordOp.isWrite : WordOp → Bool
  | .write _ => true
  | _ => false

/-- The bytes that an operation's new value goes to. -/
def Acc.mask (a : Acc) : Nat :=
  match a.op with
  | .write _ => a.be.toNat
  | _ => 2 ^ a.size - 1

/-- A write of all 64 bytes of a line. -/
def Acc.wholeLine (a : Acc) : Bool :=
  match a.op with
  | .write _ => a.size == 64 && a.be == BitVec.allOnes 64
  | _ => false

/-- Whether a memory controller refuses an access of a context to a home: the granule's entry is of another world (R382). -/
def State.worldRefuses (s : State) (ctx : BitVec 8) (home : Nat) : Bool :=
  let g := s.granule (homePa home)
  homeKind home == 0 && (g.extractLsb' 0 8 != s.world ctx || g.getLsbD 8 != (s.world ctx != 0))

/-- An access at an HBM or CXL home, one indivisible operation (R188, R194, R197), which the controller checks against the region-world table as it then
is (R382); a partial write and an atomic are messages, whose tags may fail (R385, R387); after its watchpoints (R353, R363); a read by a thread meets the buffered stores of its route (R196). -/
def State.homePerform (s : State) (ag : Agent) (core : Nat) (ctx : BitVec 8) (home : Nat) (a : Acc) : Res Line :=
  if 2 ≤ homeKind home then s.farPerform ag core ctx home a false
  else
    let line := lineOfHome home
    let full := a.wholeLine
    if s.worldRefuses ctx home then .trap (trapOf 7 4 a.va) s
    else if !s.mcOk ctx || (s.tagFails ctx home && !full) then .trap (trapOf 16 3 a.va) s
    else if s.tampered core && a.op.writes && !full then .trap (trapOf 16 3 a.va) (s.untamper core)
    else if s.poison.contains line && !full && !a.op.isWrite then .trap (trapOf 16 0 a.va) s
    else
      let r := s.watchHome ag core a
      match r.2 with
      | some i => .trap i r.1
      | none =>
        let s1 := r.1
        let sx := s1.asSeen ctx home
        match ag.tid?, a.op with
        | some t, .read =>
          let m := overlay sx.mem (s1.buffered core (some t) home (home + a.size))
          .ok (BitVec.ofNat 512 (Memory.readN m home a.size)) s1
        | _, o =>
          let old := Memory.readN sx.mem home a.size
          let s2 := match o.new a.size old with
            | some v => (sx.writeBytesAt (s1.writeNum ag) home v a.mask a.size).setLineKey line (s1.ctxKeys ctx)
            | none => s1
          let s3 := if full then
              { s2 with poison := s2.poison.filter (· != line), badLines := s2.badLines.filter (· != line) }
            else s2
          .ok (BitVec.ofNat 512 old) s3

/-- A local-store read by a thread also meets the buffered stores of its route, unless a word of it returns zero (R158, R196). -/
def State.lsForward (s : State) (ag : Agent) (core home : Nat) (a : Acc) (v : Line) : Line :=
  match ag.tid?, a.op with
  | some t, .read =>
    let n := homeCore home
    let bs := s.buffered core (some t) home (home + a.size)
    if bs.isEmpty || (a.words (homeOff home)).any (fun o => entAct (s.entry n o (kindOf a.op (n != core) false)) == 4) then v
    else BitVec.ofNat 512 (Memory.readN (overlay (Memory.writeN [] home v.toNat (2 ^ a.size - 1) a.size) bs) home a.size)
  | _, _ => v

/-- An access at its home. -/
def State.perform (s : State) (ag : Agent) (core : Nat) (ctx : BitVec 8) (home : Nat) (a : Acc) (engine second : Bool) : Res Line :=
  if homeIsLs home then
    match s.lsPerform ag core home a engine second with
    | .ok v s1 => .ok (s.lsForward ag core home a v) s1
    | r => r
  else s.homePerform ag core ctx home a

/-! ### A thread's accesses -/

/-- The issuing thread as an agent, its context and its launch's aperture permission. -/
def State.myAgent (s : State) : Agent := .thread s.cur

def State.myCtx (s : State) : BitVec 8 := s.ctxOf s.cur.core

def State.myAper (s : State) : Bool := ((s.gang s.me.gang).map (·.aper)).getD false

/-- Whether an earlier relaxed access of the thread, not yet performed, overlaps these bytes (R200); one that is being redirected may. -/
def Slot.overlaps (x : Slot) (home size : Nat) : Bool :=
  x.outs.any (fun o => o.items.any (fun i => !i.done && (i.adrift || (decide (i.home < home + size) && decide (home < i.home + i.acc.size)))))

/-- An access as it is made: at the address that a redirect gave it, or its own (R162). -/
def Cont.redirected (c : Cont) (a : Acc) : Acc :=
  match c.redirect with
  | some r => { a with va := r }
  | none => a

/-- One ordinary access of the issuing thread (R174): checks, the order kept with its own relaxed accesses, the access. A
redirected one goes to its new address (R162). DESIGN CHOICE: log entry 6. -/
def State.ordinary (s : State) (a : Acc) : Res Line :=
  let c := s.cont
  let a1 := c.redirected a
  (s.precheck s.myAgent s.cur.core s.myCtx s.myAper a1 a1.op.need.kind).bind fun home s1 =>
    if s1.me.overlaps home a1.size then .park .outs s1
    else if s1.routeBusy s1.myAgent s1.cur.core home a1 then .park .route s1
    else s1.perform s1.myAgent s1.cur.core s1.myCtx home a1 false c.second

/-- Progress of an instruction of several accesses: element done, its value kept, the redirect over. -/
def State.elemDone (s : State) (v : Line) : State :=
  let c := s.cont
  s.setCont { c with idx := c.idx + 1, acc := c.acc ++ [v], redirect := none, second := false, since := none, dog := false }

/-- The accesses of one instruction in order, from the element it has reached (R186). What is left of the list after a trap or
a park is not performed. Waiters that one has made due are evaluated before the next (R166, R210). -/
def State.sequence (s : State) : List Acc → Res Unit
  | [] => .ok () s
  | a :: as =>
    match s.ordinary a with
    | .ok v s1 => if s1.wakesDue && !as.isEmpty then (s1.elemDone v).pause else (s1.elemDone v).sequence as
    | .trap i s1 => .trap i s1
    | .park w s1 => .park w s1
    | .done s1 => .done s1

/-- A read of up to 8 bytes, a write of them. -/
def accRead (va : Word) (n : Nat) : Acc := { va := va, size := n, be := BitVec.allOnes 64, op := .read }

def accWrite (va : Word) (n : Nat) (d : Word) : Acc :=
  { va := va, size := n, be := BitVec.allOnes 64, op := .write ((0 : BitVec 448) ++ d) }

def accOp (va : Word) (n : Nat) (o : WordOp) : Acc := { va := va, size := n, be := BitVec.allOnes 64, op := o }

end Sys2Proof.Machine
end

