-- ==== Sys2Proof/Machine/Fetch.lean ====
section
/-!
DEFINITION. Instruction fetch: lines through translated space and the instruction cache (07 R112 to R115; 13 R212; 24 R354).
-/

namespace Sys2Proof.Machine

/-- Line address and head slot of a PC (R113). -/
def lineAddr (pc : Word) : Word := pc &&& ~~~(63 : Word)

def slotIndex (pc : Word) : Nat := (pc.extractLsb' 1 5).toNat

/-- The line of an address in a core's instruction cache. -/
def Core.cached (c : Core) (ctx : BitVec 8) (la : Word) : Option Line :=
  (c.icache.find? (fun l => l.ctx == ctx && l.addr == la)).map (·.line)

/-- Installs a line; the cache holds 512, the oldest leaves first (DESIGN CHOICE: log entry 12). -/
def Core.install (c : Core) (ctx : BitVec 8) (la : Word) (l : Line) : Core :=
  { c with icache := ({ ctx := ctx, addr := la, line := l } :: c.icache).take 512 }

/-- The number of the last invalidation of a line in core n's cache, plus one; 0 where there was none (R212). -/
def State.flushedAt (s : State) (n : Nat) (ctx : BitVec 8) (la : Word) : Nat :=
  s.flushes.foldl (fun m f =>
    if inScope f.sc f.core n && f.ctx == ctx && decide (f.base < la.toNat + 64) && decide (la.toNat < f.base + f.len) then max m (f.num + 1) else m) 0

/-- The values that the word at a home has had since the invalidation of a line, before its present one (R213). -/
def State.olderValues (s : State) (since h : Nat) : List Word := (s.replaced.filter (fun p => p.2.1 == h && decide (since ≤ p.1))).map (·.2.2)

/-- A line as a core fetches it: of each word, its present value or one that it had since the core was last told of a change, as a free value says
(R213; log entry 11). -/
def State.mixedLine (s : State) (since h : Nat) (l : Line) : Line :=
  (List.range 8).foldl (fun (l : Line) k =>
    let vs := s.olderValues since (h + 8 * k)
    match vs[Config.oldWord s.seq k % (vs.length + 1) - 1]? with
    | some v => if Config.oldWord s.seq k % (vs.length + 1) = 0 then l else
        (l &&& ~~~((BitVec.allOnes 64).setWidth 512 <<< (64 * k))) ||| (v.setWidth 512 <<< (64 * k))
    | none => l) l

/-- Fetches a line from its home into the cache of the issuing thread's core; a trap reports the PC. A fetch from the CXL tier comes after the stores
that its port holds, which FENCE.pkg leaves there (R195, R202, R212). -/
def State.fetchHome (s : State) (pc : Word) : Res Line :=
  let n := s.cur.core
  let ctx := s.myCtx
  let la := lineAddr pc
  match s.translate n ctx la .fetch with
  | .trap i => .trap { i with tval := pc } s
  | .miss => .park (.walk pc) (s.joinWalk (dieOf n) (quadOf n) s.myAgent ctx la 3)
  | .home h =>
    if !s.keyOk n ctx then .trap (trapOf 7 8 pc) s
    else if homeKind h ≤ 1 && (!s.mcOk ctx || s.tagFails ctx h) then .trap (trapOf 16 3 pc) s
    else if s.poison.contains h then .trap (trapOf 16 2 pc) s
    else if homeKind h == 1 && (s.buffered n none h (h + 64)).any (fun b => b.point == 3) then .park .route s
    else
      let r := if 2 ≤ homeKind h then s.farPerform s.myAgent n ctx h { va := la, size := 64, be := BitVec.allOnes 64, op := .read } true
        else .ok (Memory.line (s.asSeen ctx h).mem h) s
      match r with
      | .ok l0 s1 =>
        let l := s1.mixedLine (s1.flushedAt n ctx la) h l0
        .ok l { s1.setCore n ((s1.core n).install ctx la l) with seq := s1.seq + 1 }
      | .trap i s1 => .trap { i with code := if i.cls == 16 && i.code == 0 then 2 else i.code, tval := pc } s1
      | r => r

/-- Whether a core still holds a line that it has cached: the cache may replace one at any time, which shows where a word of it has changed, as one of far
memory may (R212, R213; log entry 11). -/
def State.keepsLine (s : State) (n : Nat) (ctx : BitVec 8) (la : Word) : Bool :=
  match s.translate n ctx la .fetch with
  | .home h =>
    let since := s.flushedAt n ctx la
    (decide (homeKind h < 2) && (List.range 8).all (fun k => (s.olderValues since (h + 8 * k)).isEmpty)) || Config.oldWord s.seq 8 % 2 == 0
  | _ => true

/-- Fetches the line of a PC for the issuing thread. -/
def State.fetchLine (s : State) (pc : Word) : Res Line :=
  let la := lineAddr pc
  if !isTranslated la then .trap (trapOf 6 0 pc) s
  else
    match s.myCore.cached s.myCtx la with
    | some l => if s.keepsLine s.cur.core s.myCtx la then .ok l s else s.fetchHome pc
    | none => s.fetchHome pc

/-- Parks the issuing thread on the fetch of its next instruction: it has no parked instruction, and fetches again when woken. -/
def State.parkFetch (s : State) (w : Await) : State :=
  let x := s.me
  { s.setMe { x with st := .parked, await := w } with seq := s.seq + 1 }

/-- The PC of the instruction after slot j of a line (R114). -/
def nextPc (l : Line) (pc : Word) : Word :=
  if slotIndex pc + 1 < l.slots.length then pc + 2 else lineAddr pc + 64

/-- The target of a branch with a 27-bit field (R118). -/
def branchTarget (pc : Word) (off : BitVec 27) : Word :=
  ((pc.extractLsb' 6 58 + (off.extractLsb' 5 22).signExtend 58) ++ off.extractLsb' 0 5) ++ (0 : BitVec 1)

/-- CLASS of a rejection (R120). -/
def rejectClass : Reject → Nat
  | .reservedField => 2
  | _ => 1

end Sys2Proof.Machine
end

