-- ==== Sys2Proof/Machine/Operands.lean ====
section
/-!
DEFINITION. Operand forms: reading sources, writing results and popping ports when an instruction completes, numeric traps,
addresses, and the elements and masks of vector registers.
-/

namespace Sys2Proof.Machine

/-! ### Completing with a result -/

/-- Completes an instruction that writes s[d]: pops, the write or push, NEXT (R126). -/
def State.setS (s : State) (srcs : List SReg) (d : SReg) (v : Word) : State := ((s.pops srcs []).ws d v).retire

/-- Completes an instruction that writes nothing. -/
def State.doneS (s : State) (srcs : List SReg) : State := (s.pops srcs []).retire

/-- A scalar instruction: its ports, then its result from the state it reads (R55, R126, R128). -/
def State.scalar (s : State) (srcs : List SReg) (d : SReg) (f : State → Word) : Out3 :=
  ((s.ports srcs [d] [] []).bind fun _ s1 => .ok () (s1.setS srcs d (f s1))).finish

/-- One source and two sources. -/
def State.scalar1 (s : State) (d b : SReg) (f : Word → Word) : Out3 := s.scalar [b] d (fun s1 => f (s1.rs b))

def State.scalar2 (s : State) (d b c : SReg) (f : Word → Word → Word) : Out3 :=
  s.scalar [b, c] d (fun s1 => f (s1.rs b) (s1.rs c))

/-! ### Port faults below other traps (R178, R338) -/

/-- Whether registers can be read: no s7, and no s6 that is disabled or empty; the vector port likewise. -/
def Slot.readable (x : Slot) (srcs : List SReg) (vsrcs : List VReg) : Bool :=
  !srcs.contains 7 && !(srcs.contains 6 && (!x.port.su || x.port.sq.isEmpty)) &&
  !(x.port.vp && vsrcs.contains 15 && (!x.port.vu || x.port.vq.isEmpty))

/-- The ports of an instruction of which some traps stand above the port fault: those that first finds in what can be read. -/
def State.portsAfter (s : State) (srcs dsts : List SReg) (vsrcs vdsts : List VReg) (first : State → Res Unit) : Res Unit :=
  match s.ports srcs dsts vsrcs vdsts with
  | .trap i s1 => (first s1).bind fun _ s2 => .trap i s2
  | r => r

/-! ### Flags (R93, R94) -/

/-- ORs flags into c.fflags of the issuing thread. -/
def State.orFlags (s : State) (fl : Flags) : State :=
  s.setMe { s.me with cr := { s.me.cr with fflags := s.me.cr.fflags ||| fl } }

/-- Raises flags: a precise numeric trap when one is enabled, with c.fflags unchanged; otherwise they are ORed. -/
def State.raise (s : State) (fl : Flags) : Res Unit :=
  if fl &&& s.me.cr.fen != 0 then .trap (trapOf 15 0 ((0 : BitVec 58) ++ fl)) s else .ok () (s.orFlags fl)

/-- A scalar instruction that may raise flags. -/
def State.scalarF (s : State) (b c d : SReg) (f : Word → Word → FR) : Out3 :=
  ((s.ports [b, c] [d] [] []).bind fun _ s1 =>
    let r := f (s1.rs b) (s1.rs c)
    (s1.raise r.fl).bind fun _ s2 => .ok () (s2.setS [b, c] d (BitVec.ofNat 64 r.bits))).finish

/-- ADD and SUB with their SAT codes (R131). -/
def satArith (sat : BitVec 2) (exactSigned exactUnsigned : Int) (wrapped : Word) : FR :=
  match sat.toNat with
  | 1 => clampInt 64 true exactSigned
  | 2 => clampInt 64 false exactUnsigned
  | _ => ⟨wrapped.toNat, 0⟩

/-! ### Immediates and addresses -/

def sx11 (i : BitVec 11) : Word := i.signExtend 64

def sx16 (i : BitVec 16) : Word := i.signExtend 64

def sx32 (i : BitVec 32) : Word := i.signExtend 64

def b2w (b : Bool) : Word := if b then 1 else 0

/-! ### Vector elements and masks (R105, R106, R182) -/

/-- Element e of w bits. -/
def elem (w : Nat) (v : Line) (e : Nat) : Nat := (v.extractLsb' (w * e) w).toNat

/-- Elements put together, element 0 lowest. -/
def packElems (w : Nat) (es : List Nat) : Line :=
  es.foldr (fun x acc => (acc <<< w) ||| BitVec.ofNat 512 (x % 2 ^ w)) 0

/-- Width of an element type field: 0 for 32 bits, 1 for 16, 2 for 8, 3 for 64 (R182, R236). -/
def ewBits (ew : BitVec 2) : Nat :=
  match ew.toNat with
  | 0 => 32
  | 1 => 16
  | 2 => 8
  | _ => 64

/-- The mask register of a mask field. -/
def mkReg (mk : BitVec 4) : VReg := (0 : BitVec 3) ++ mk.extractLsb' 0 2

/-- Whether a mask field masks, and whether its treatment is fill. -/
def mkMasked (mk : BitVec 4) : Bool := mk.getLsbD 3

def mkFill (mk : BitVec 4) : Bool := mk.getLsbD 2

/-- The mask register as a source: none when the instruction is not masked. -/
def mkSrcs (mk : BitVec 4) : List VReg := if mkMasked mk then [mkReg mk] else []

/-- Whether element e is enabled under a mask field (R106). -/
def State.enabled (s : State) (mk : BitVec 4) (e : Nat) : Bool := !mkMasked mk || (s.me.regs.vec[(mkReg mk).toNat]'((mkReg mk).isLt)).getLsbD e

/-- The enabled elements among n. -/
def State.enabledElems (s : State) (mk : BitVec 4) (n : Nat) : List Nat := (List.range n).filter (s.enabled mk)

end Sys2Proof.Machine
end

