-- ==== Sys2Proof/Machine/Relaxed.lean ====
section
/-!
DEFINITION. Relaxed accesses on their way (11 R174, R178, R186, R189; 13 R195, R200, R202), retries of refused waits and the watchdog of tag waits
(10 R167, R168), and their events.
-/

namespace Sys2Proof.Machine

/-! ### Late traps -/

/-- The late and deferred traps of a thread, the oldest failing access or forcing first (R341). -/
def LateTrap.insert (l : LateTrap) : List LateTrap → List LateTrap
  | [] => [l]
  | m :: ms => if l.age < m.age then l :: m :: ms else m :: LateTrap.insert l ms

/-- A late or deferred trap waits for an instruction boundary; one of a handler's access or blank is fatal when detected (R341). -/
def State.addLate (s : State) (t : Tid) (l : LateTrap) : State :=
  if l.byHandler || l.info.cls == 8 then s.fatal t l.info l.pc2
  else
    let x := s.slot t
    s.setSlot t { x with lates := l.insert x.lates }

/-- A late trap of an instruction that has issued, by the number at which it did. -/
def lateOf (age : Nat) (i : TrapInfo) (pc : Word) (byHandler : Bool) : LateTrap :=
  { age := age, info := i, pc2 := pc, late := true, defer := false, epcZero := false, byHandler := byHandler }

/-! ### Where a relaxed store is (R195) -/

/-- The last point that a store from a core passes before its home: 0 its network interface, 1 the quad router, 2 the die
egress, 3 the port or link. -/
def lastPoint (core home : Nat) : Nat :=
  if homeIsLs home then
    if quadOf (homeCore home) == quadOf core then 0 else if dieOf (homeCore home) == dieOf core then 1 else 2
  else if homeKind home == 0 then 2 else 3

/-- Whether an element of a relaxed access is performed at a scope (R195, R202): 1 core, 2 quad, 3 die, 4 pkg, 5 and above sys. -/
def OutItem.performedAt (i : OutItem) (store : Bool) (core sc : Nat) : Bool :=
  i.done ||
  (store && !i.adrift &&
    (match sc with
      | 1 => !(homeIsLs i.home && homeCore i.home == core)
      | 2 => decide (1 ≤ i.point) && !(homeIsLs i.home && quadOf (homeCore i.home) == quadOf core)
      | 3 => decide (2 ≤ i.point) && !(homeIsLs i.home && dieOf (homeCore i.home) == dieOf core)
      | 4 => decide (3 ≤ i.point) && decide (1 ≤ homeKind i.home) && !homeIsLs i.home
      | _ => false))

/-- Whether every outstanding relaxed access of a slot is performed at a scope. -/
def Slot.performedAt (x : Slot) (core sc : Nat) : Bool :=
  x.outs.all (fun o => o.items.all (fun i => i.performedAt o.store core sc))

/-! ### Moving on -/

/-- Whether an earlier access of the thread, or an earlier element of the instruction, to overlapping bytes is still to be performed
(R186, R200); one that is being redirected may overlap. -/
def Slot.blocked (x : Slot) (acc : Nat) (i : OutItem) : Bool :=
  x.outs.any (fun o =>
    (List.range o.items.length).any (fun k =>
      match o.items[k]? with
      | some j => decide (64 * o.seq + k < acc) && !j.done &&
        (j.adrift || (decide (j.home < i.home + i.acc.size) && decide (i.home < j.home + j.acc.size)))
      | none => false))

/-- Whether an element of a relaxed access finds its way taken: at the point where it is by a store to overlapping bytes that came there before it, at
the port of far memory by any; a relaxed atomic, which no point holds, by every store of its route that left before it or is ahead of it (R198). -/
def State.itemBusy (s : State) (t : Tid) (store : Bool) (i : OutItem) : Bool :=
  i.acc.op.stores && (s.buffered t.core (some t) i.home (i.home + i.acc.size)).any (fun b =>
    if store then (b.point == i.point && decide (b.came < i.came)) || (b.point == 3 && i.point == 2 && decide (2 ≤ homeKind i.home) && !homeIsLs i.home)
    else decide (1 ≤ b.point) || decide (b.came < i.came))

/-- The next event of an element that waits for nothing. -/
def OutItem.next (i : OutItem) (store : Bool) (t : Tid) (acc : Nat) : Event :=
  if store && decide (i.point < lastPoint t.core i.home) then .accessCompletion t.core t.slot acc (BitVec.ofNat 3 (i.point + 1))
  else if homeIsLs i.home then .bankOperation t.core t.slot acc
  else .accessCompletion t.core t.slot acc 4

/-- Lets every element of a thread that waits for nothing, or is to be issued again, go on. -/
def State.kick (s : State) (t : Tid) : State :=
  (s.slot t).outs.foldl (fun s o =>
    (List.range o.items.length).foldl (fun s k =>
      match o.items[k]? with
      | some i => if i.done || (i.stall != .none && i.stall != .rdr) then s else s.post (i.next o.store t (64 * o.seq + k))
      | none => s) s) s

/-- The same for the elements of every thread (R198). -/
def State.kickAll (s : State) : State :=
  s.cores.foldl (fun s p => slotNums.foldl (fun s k => if (s.slot ⟨p.1, k⟩).outs.isEmpty then s else s.kick ⟨p.1, k⟩) s) s

/-- A store is no longer where it was on its route: what waited behind it looks again (R198). -/
def State.routeFreed (s : State) : State := s.kickAll.wakeRoutes

/-- The value of a vector register after a load: enabled elements that were performed are written, a failed one is unchanged, and the rest
are zero (R106, R183, R186). -/
def loadVector (old : Line) (ew : Nat) (items : List OutItem) (wide : Bool) : Line :=
  match wide, items with
  | true, i :: _ =>
    if i.failed then old
    else packElems ew ((List.range (512 / ew)).map (fun e => if i.acc.be.getLsbD (e * (ew / 8)) then elem ew i.ret e else 0))
  | _, _ =>
    packElems ew ((List.range (512 / ew)).map (fun e =>
      match items.find? (fun i => i.elem == e) with
      | some i =>
        if i.done && !i.failed then i.ret.toNat % 2 ^ ew else elem ew old e
      | none => 0))

/-- Extends n loaded bytes (R180). -/
def extend (n : Nat) (signed : Bool) (v : Line) : Word :=
  match n with
  | 1 => if signed then (v.extractLsb' 0 8).signExtend 64 else (v.extractLsb' 0 8).setWidth 64
  | 2 => if signed then (v.extractLsb' 0 16).signExtend 64 else (v.extractLsb' 0 16).setWidth 64
  | 4 => if signed then (v.extractLsb' 0 32).signExtend 64 else (v.extractLsb' 0 32).setWidth 64
  | _ => v.extractLsb' 0 64

/-- Flags of an AFADD: its operand on what it read (R189). -/
def faddFlags (o : WordOp) (old : Line) : Flags :=
  match o with
  | .atom .fadd b _ => (fp32.addV .rne (fp32.decode (old.toNat % 2 ^ 32)) (fp32.decode (b.toNat % 2 ^ 32))).fl
  | _ => 0

/-- Writes a place of thread t; a downstream port is pushed to. -/
def State.writeLocOf (s : State) (t : Tid) (l : RegLoc) (v : Word) : State :=
  match l with
  | .portOut => s.pushScalar t v
  | l =>
    let x := s.slot t
    s.setSlot t { x with regs := x.regs.writeLoc l v }

/-- Flags of an AFADD at its reply, with its late trap when one is enabled (R189). -/
def State.faddDone (s : State) (t : Tid) (age : Nat) (pc : Word) (byHandler : Bool) (fl : Flags) : State :=
  let x := s.slot t
  let s1 := s.setSlot t { x with cr := { x.cr with fflags := x.cr.fflags ||| fl } }
  if fl &&& x.cr.fen != 0 then s1.addLate t (lateOf age (trapOf 15 0 ((0 : BitVec 58) ++ fl)) pc byHandler) else s1

/-- Whether the destination of a relaxed instruction is a downstream port. -/
def Slot.toPort (x : Slot) : OutDest → Bool
  | .scalar .portOut _ _ | .fadd .portOut => true
  | .vector r _ _ => x.isPort r
  | _ => false

/-- Whether the port that a relaxed load pushes to has no room; the queues of an EMPTY slot take nothing and delay nothing (R232). -/
def State.destFull (s : State) (t : Tid) (d : OutDest) : Bool :=
  let x := s.slot t
  let g := s.slot (s.portTarget t)
  x.toPort d && g.st != .empty &&
    (match d with
      | .vector _ _ _ => decide (4 ≤ g.port.vq.length)
      | _ => decide (8 ≤ g.port.sq.length))

/-- What a relaxed instruction does with what its elements returned, once they are all over. A failed one writes what its performed elements loaded
(R186); it pushes nothing (DESIGN CHOICE: log entry 61). A push to a slot that has become EMPTY is a port fault with CODE 4, and pushes nothing
(R232; late, DESIGN CHOICE: log entry 61). Whether it is a push, and to which slot, goes by the port as it then is (DESIGN CHOICE: log entry 61). -/
def State.outWrite (s : State) (t : Tid) (o : Out) : State :=
  let x := s.slot t
  let v := (o.items.head?.map (·.ret)).getD 0
  let gone := x.toPort o.dest && (s.slot (s.portTarget t)).st == .empty
  let push (f : State → State) : State :=
    if gone then s.addLate t (lateOf o.seq (trapOf 12 4 0) o.pc o.byHandler) else f s
  match o.dest, o.fail with
  | .scalar l n g, none => push (fun s => s.writeLocOf t l (extend n g v))
  | .fadd l, none =>
    let op := (o.items.head?.map (·.acc.op)).getD .read
    (push (fun s => s.writeLocOf t l (extend 4 false v))).faddDone t o.seq o.pc o.byHandler (faddFlags op v)
  | .vector r ew wide, f =>
    let w := loadVector (x.oldV r) ew o.items wide
    if x.isPort r then (if f.isSome then s else push (fun s => s.pushVector t w))
    else s.setSlot t { x with regs := { x.regs with vec := x.regs.vec.set r.toNat w r.isLt } }
  | _, _ => s

/-- A relaxed instruction whose elements are all over leaves the list: its destination, its flags and those of the blocks that it forced (R96), its late
trap. A full port is tried again in
the next cycle. -/
def State.outDone (s : State) (t : Tid) (o : Out) : State :=
  if s.destFull t o.dest && o.fail.isNone then
    let c := s.core t.core
    s.timer t.core (c.cyc.toNat + 1) (.accessCompletion t.core t.slot (64 * o.seq) 4)
  else
    let x := s.slot t
    let s0 := (List.range o.items.length).foldl (fun (s : State) k => s.settle (.access t (64 * o.seq + k)))
      (s.setSlot t { x with outs := x.outs.filter (fun p => p.seq != o.seq) })
    let s1 := s0.outWrite t o
    match o.fail with
    | some (e, i) => s1.addLate t (lateOf o.seq (if o.multi then { i with code := BitVec.ofNat 8 e ++ i.code.extractLsb' 0 8 } else i) o.pc o.byHandler)
    | none => s1

/-- Wakes a thread that waits for its relaxed accesses; its instruction looks again. -/
def State.wakeOuts (s : State) (t : Tid) : State := if (s.slot t).waitsFor (· == .outs) then s.wake t else s

/-- Records that an element failed: the lowest one is reported (R186). -/
def Out.failed (o : Out) (e : Nat) (f : TrapInfo) : Out :=
  match o.fail with
  | some (d, g) => { o with fail := if d ≤ e then some (d, g) else some (e, f) }
  | none => { o with fail := some (e, f) }

/-- An element has been performed or has failed; the instruction is done when all of its elements are. -/
def State.itemDone (s : State) (t : Tid) (acc : Nat) (i : OutItem) (fail : Option TrapInfo) : State :=
  let s1 := s.setItem t acc { i with done := true, failed := fail.isSome, stall := .none }
  let x := s1.slot t
  let s2 := match fail with
    | none => s1
    | some f => s1.setSlot t { x with outs := x.outs.map (fun (o : Out) => if o.seq == acc / 64 then o.failed i.elem f else o) }
  let s3 := match (s2.slot t).outs.find? (fun o => o.seq == acc / 64) with
    | some o => if o.items.all (·.done) then s2.outDone t o else s2
    | none => s2
  (s3.wakeOuts t).routeFreed

/-! ### Issue -/

/-- A trap of element e of a relaxed instruction: CODE[15:8] names the element of a form of several (R186). -/
def TrapInfo.atElem (i : TrapInfo) (multi : Bool) (e : Nat) : TrapInfo :=
  if multi then { i with code := BitVec.ofNat 8 e ++ i.code.extractLsb' 0 8 } else i

/-- The checks of every element of a relaxed instruction (R178): the homes. -/
def State.relaxedChecks (s : State) (multi : Bool) : List (Nat × Acc) → Res (List Nat)
  | [] => .ok [] s
  | (e, a) :: as =>
    match s.precheck s.myAgent s.cur.core s.myCtx s.myAper a a.op.need.kind with
    | .trap i s1 => .trap (i.atElem multi e) s1
    | .park w s1 => .park w s1
    | .done s1 => .done s1
    | .ok h s1 => (s1.relaxedChecks multi as).bind fun hs s2 => .ok (h :: hs) s2

/-- The translated-space watchpoints of every element, once all have been translated, so that each hit is reported once (R353, R363, R364). -/
def State.relaxedWatch (s : State) (multi : Bool) : List ((Nat × Acc) × Nat) → Res Unit
  | [] => .ok () s
  | ((e, a), h) :: as =>
    let r := if homeIsLs h then (s, none)
      else s.watch s.cur.core 2 a.op.need.space (a.runs a.va.toNat) s.myAgent a.va
    match r.2 with
    | some i => .trap (i.atElem multi e) r.1
    | none => r.1.relaxedWatch multi as

/-- Issues a relaxed instruction: a fifth one waits (R174); it counts as issued when its checks have passed. -/
def State.issueRelaxed (s : State) (accs : List (Nat × Acc)) (store multi : Bool) (dest : OutDest) (srcs : List SReg)
    (vsrcs : List VReg) : Res Unit :=
  if decide (4 ≤ s.me.outs.length) then .park .outs s
  else
    (s.relaxedChecks multi accs).bind fun hs s0 => (s0.relaxedWatch multi (accs.zip hs)).bind fun _ s1 =>
      let items := (accs.zip hs).map (fun (p : (Nat × Acc) × Nat) =>
        ({ elem := p.1.1, acc := p.1.2, home := p.2, point := 0, came := s1.seq, second := false, stall := .none, since := none, done := false,
           failed := false, ret := 0 } : OutItem))
      let o : Out := { seq := s1.seq, pc := s1.me.pc, byHandler := s1.me.cr.intrap, store := store, multi := multi, fail := none,
                       items := items, dest := dest }
      let s2 := (s1.pops srcs vsrcs).retire
      let x := s2.me
      .ok () (({ s2 with seq := s2.seq + 1 }.setMe { x with outs := x.outs ++ [o] }).kick s2.cur)

/-! ### Events of relaxed accesses -/

/-- A redirected element is issued again, to the address that the word held: its checks, its watchpoints in translated space, and the first point of its
new route (R162, R195, R353). DEDUCED: log entry 28. -/
def State.itemReissue (s : State) (t : Tid) (acc : Nat) (i : OutItem) : State :=
  let ag : Agent := .access t acc
  let ctx := s.ctxOf t.core
  let aper := ((s.gang (s.slot t).gang).map (·.aper)).getD false
  match s.precheck ag t.core ctx aper i.acc i.acc.op.need.kind with
  | .trap f s1 => s1.itemDone t acc i (some f)
  | .done s1 => s1
  | .park w s1 => s1.setItem t acc { i with stall := w }
  | .ok h s1 =>
    let r := if homeIsLs h then (s1, none) else s1.watch t.core 2 i.acc.op.need.space (i.acc.runs i.acc.va.toNat) ag i.acc.va
    match r.2 with
    | some f => r.1.itemDone t acc i (some f)
    | none => (({ r.1 with seq := r.1.seq + 1 }.setItem t acc { i with home := h, stall := .none, came := r.1.seq }).kick t).wakeOuts t

/-- One try at performing an element at its home: the checks again where it names local store (R152); the access; what it then waits for. A redirected one
goes on to the address that the word held (R162). -/
def State.itemStep (s : State) (t : Tid) (acc : Nat) : State :=
  let x := s.slot t
  match x.item acc with
  | none => s
  | some (o, i) =>
    let ag : Agent := .access t acc
    let sent := s.requests.any (fun r => r.agent == ag && r.va == i.acc.va)
    if i.done then (if o.items.all (·.done) then (s.outDone t o).wakeOuts t else s)
    else if i.adrift then s.itemReissue t acc i
    else if !sent && (x.blocked acc i || s.itemBusy t o.store i) then s
    else
      let ctx := s.ctxOf t.core
      let aper := ((s.gang x.gang).map (·.aper)).getD false
      let stay (w : Await) (h : Nat) (s1 : State) : State :=
        match (s1.slot t).item acc with
        | some (_, j) => s1.setItem t acc { j with stall := w, home := h }
        | none => s1
      match if homeIsLs i.home then s.precheck ag t.core ctx aper i.acc i.acc.op.need.kind else .ok i.home s with
      | .trap f s1 => s1.itemDone t acc i (some f)
      | .done s1 => s1
      | .park w s1 => stay w i.home s1
      | .ok h s1 =>
        match s1.perform ag t.core ctx h i.acc false i.second with
        | .ok v s2 => s2.itemDone t acc { i with ret := v, home := h } none
        | .trap f s2 => s2.itemDone t acc { i with home := h } (some f)
        | .done s2 => s2
        | .park .rdr s2 =>
          let na := Memory.word s2.mem (wordOf h)
          let s3 := s2.setItem t acc { i with acc := { i.acc with va := na }, home := h, point := 0, second := true, stall := .rdr, since := none }
          s3.routeFreed.post (.bankOperation t.core t.slot acc)
        | .park w s2 => stay w h s2

/-- BANK_OPERATION: a relaxed access evaluated at its bank (R161). -/
def execBankOperation (core : Nat) (slot : BitVec 3) (acc : Nat) (s : State) : Out3 := .next (s.itemStep ⟨core, slot⟩ acc)

/-- ACCESS_COMPLETION: a relaxed store passes the next point of its route, in the order in which the stores to its bytes came to the one before (R198), or an
access is performed at its home (R195, R200). A store to far memory leaves the port as it comes to it. -/
def execAccessCompletion (core : Nat) (slot : BitVec 3) (acc : Nat) (point : BitVec 3) (s : State) : Out3 :=
  let t : Tid := ⟨core, slot⟩
  if 4 ≤ point.toNat then .next (s.itemStep t acc)
  else
    match (s.slot t).item acc with
    | none => .next s
    | some (o, i) =>
      if i.done || !o.store || i.point + 1 != point.toNat || decide (lastPoint core i.home < point.toNat) || (s.slot t).blocked acc i ||
          s.itemBusy t o.store i then .next s
      else
        let s1 := { s with seq := s.seq + 1 }.setItem t acc { i with point := point.toNat, came := s.seq }
        let s2 := if point == 3 && decide (2 ≤ homeKind i.home) then s1.itemStep t acc else s1
        .next (s2.wakeOuts t).routeFreed

/-- Whatever an agent waited for is there: it goes on. The units of the I/O dies look in each of their cycles. -/
def State.resume (s : State) (ag : Agent) : State :=
  match ag with
  | .thread t => s.wake t
  | .access t k =>
    match (s.slot t).item k with
    | some (o, i) =>
      let keep := i.adrift
      let j := if keep then i else { i with stall := .none }
      let e : Event := if keep || homeIsLs i.home then .bankOperation t.core t.slot k else j.next o.store t k
      let s1 := s.setItem t k j
      if s1.todo.contains e then s1 else { s1 with todo := e :: s1.todo }
    | none => s
  | .window t => s.post (.backgroundSpill t.core t.slot)
  | .copy n => s.post (.copyCommandStart n)
  | .grid n => s.post (.gridOperationComplete n)
  | .blocker n => s.post (.blockEvaluation n)
  | .launch id => s.post (if (s.launch id).any (fun l => l.state == .ended) then .launchCompletion id else .packetSelection)
  | .join u => s.setJoin u { s.join u with stalled := false }
  | .entry u k => s.setJoin u { s.join u with entries := (s.join u).entries.map (fun p => if p.1 == k then (p.1, { p.2 with stalled := false }) else p) }
  | .dump => s.post .dumpGang
  | .queue _ | .group _ _ | .stamp _ | .faultUnit _ | .fack _ | .recorder _ | .digest _ | .ssc => s

/-- RDR_REISSUE: the redirected access is issued again, to the address the word held (R162), or the next access of the instruction is made. DEDUCED: log entry 24. -/
def execRdrReissue (core : Nat) (slot : BitVec 3) (s : State) : Out3 :=
  if (s.slot ⟨core, slot⟩).waitsFor (· == .rdr) then .next (s.wake ⟨core, slot⟩) else .next s

/-- Whether a wait is a refusal whose time to retry has come (R168): of an access, or of the wait on a quit word (R53). -/
def Await.retryDue (now : Nat) : Await → Bool
  | .refused _ at_ | .steal _ (some at_) => decide (at_ ≤ now)
  | _ => false

/-- REMOTE_WAIT_RETRY: a refused remote access is evaluated anew (R168). -/
def execRemoteWaitRetry (core : Nat) (slot : BitVec 3) (s : State) : Out3 :=
  let t : Tid := ⟨core, slot⟩
  let now := (s.core core).cyc.toNat
  let s1 := if (s.slot t).waitsFor (Await.retryDue now) then s.wake t else s
  .next ((s1.slot t).outs.foldl (fun s o =>
    (List.range o.items.length).foldl (fun s k =>
      match o.items[k]? with
      | some i => if !i.done && i.stall.retryDue now then s.resume (.access t (64 * o.seq + k)) else s
      | none => s) s) s1)

/-- A table wait: in the order of waiters, or refused and retried. -/
def Await.isTable : Await → Bool
  | .table _ | .refused _ _ => true
  | _ => false

/-- TAG_WAIT_WATCHDOG: a table wait of 2^26 cycles ends (R167, R290). The thread's instruction is evaluated once more and traps; a relaxed
access fails; an engine's operation fails. DEDUCED: log entry 19. -/
def execTagWaitWatchdog (core : Nat) (agent : BitVec 2) (slot : BitVec 3) (s : State) : Out3 :=
  let now := (s.core core).cyc.toNat
  let beyond (since : Nat) : Bool := decide (since + 2 ^ 26 ≤ now)
  match agent.toNat with
  | 0 =>
    let t : Tid := ⟨core, slot⟩
    let x := s.slot t
    if x.st == .stopped then .next s
    else
      let s1 := match x.cont with
        | some c =>
          if x.waitsFor Await.isTable && (c.since.map beyond).getD false then
            (s.setSlot t { x with cont := some { c with dog := true } }).wake t
          else s
        | none => s
      .next ((s1.slot t).outs.foldl (fun s o =>
        (List.range o.items.length).foldl (fun s k =>
          match o.items[k]? with
          | some i =>
            if !i.done && i.stall.isTable && (i.since.map beyond).getD false then
              (s.leave (.access t (64 * o.seq + k))).itemDone t (64 * o.seq + k) i (some (trapOf 17 0 i.acc.va))
            else s
          | none => s) s) s1)
  | 1 => .next (if (s.core core).copies.any (fun k => k.stall.isTable && (k.since.map beyond).getD false) then s.post (.copyCommandStart core) else s)
  | 2 => .next (if ((s.core core).grid.map (fun g => (g.since.map beyond).getD false)).getD false then s.post (.gridOperationComplete core) else s)
  | _ => .next (if (s.core core).demands.any (fun d => (d.since.map beyond).getD false) then s.post (.blockEvaluation core) else s)

end Sys2Proof.Machine
end

