-- ==== Sys2Proof/Machine/UnitAcc.lean ====
section
/-!
DEFINITION. Accesses that units outside the cores, and path D, make for a context (10 R151, R152; 24 R347 to R352; 30 R397), the replay
log (26 R376, R377), and the fault unit.
-/

namespace Sys2Proof.Machine

/-! ### Accesses that are made at once or fail -/

/-- Where an access of an I/O die unit for a context lies: translated space, or the package aperture; it needs no aperture permission
(R152). -/
def State.unitHome (s : State) (ctx : BitVec 8) (va : Word) (n : Nat) (need : Need) : Tr :=
  if va.toNat % n ≠ 0 then .trap (trapOf 5 0 va)
  else if isTranslated va then s.unitTr ctx va need
  else if 0x100000000 ≤ va.toNat ∧ va.toNat ≤ 0x13FFFFFFF then
    let c := va.toNat / 0x40000 % 0x1000
    let off := va.toNat % 0x40000
    if !s.coreExists c then .trap (trapOf 6 0 va)
    else match s.lsCheck none ctx true va c off false with
      | some i => .trap i
      | none => .home (lsHome c off)
  else .trap (trapOf 6 0 va)

/-- Whether a context's read on path W at a home outside local store meets an uncorrectable error: a poisoned line, or a line or key slot that fails
(R354, R355, R388). -/
def State.eccBad (s : State) (ctx : BitVec 8) (h : Nat) : Bool :=
  homeKind h ≤ 1 && (s.poison.contains (lineOfHome h) || s.tagFails ctx h || !s.mcOk ctx)

/-- Its trap: CODE 0 for poison, 3 otherwise. -/
def State.eccTrap (s : State) (h : Nat) (va : Word) : TrapInfo := trapOf 16 (if s.poison.contains (lineOfHome h) then 0 else 3) va

/-! ### What a unit's action has made -/

/-- The action that an agent was on has ended. -/
def State.unitEnd (s : State) (ag : Agent) : State := s.dropRequests (· == ag)

/-- An access of a unit's action, which is made once: when the action is taken up again after a wait, it finds what the access returned. -/
def State.once (s : State) (ag : Agent) (a : Acc) (r : Res Nat) : Res Nat :=
  match s.made.find? (fun m => m.agent == ag && m.acc == a) with
  | some m => match m.trap with
    | some i => .trap i s
    | none => .ok m.value s
  | none => match r with
    | .ok v s1 => .ok v { s1 with made := s1.made ++ [{ agent := ag, acc := a, trap := none, value := v }] }
    | .trap i s1 => .trap i { s1 with made := s1.made ++ [{ agent := ag, acc := a, trap := some i, value := 0 }] }
    | r => r

/-! ### The replay log (R376, R377) -/

/-- The host function that owns a context (R383). -/
def State.fnOf (s : State) (ctx : BitVec 8) : Option Nat := (SMap.find s.ssc.contexts ctx.toNat).map (·.owner)

def State.fn (s : State) (n : Nat) : HostFn := SMap.getD s.fns n HostFn.zero

def State.setFn (s : State) (n : Nat) (f : HostFn) : State := { s with fns := SMap.put s.fns n f }

/-- The recording or replay of a function. -/
def State.replayOf (s : State) (fn : Nat) : Option Replay := s.replays.find? (fun r => r.fn == fn)

def State.setReplay (s : State) (r : Replay) : State :=
  { s with replays := s.replays.map (fun x => if x.fn == r.fn then r else x) }

/-- Recording stops (R376, R377). DEDUCED: log entry 50. -/
def State.disarm (s : State) (fn : Nat) : State := { s with replays := s.replays.filter (fun r => r.fn != fn) }

/-- Adds to what is still to be done for a recording, unless it ends. -/
def State.logJobs (s : State) (fn : Nat) (js : List LogJob) : State :=
  match s.replayOf fn with
  | some r => if r.ending then s else s.setReplay { r with work := r.work ++ js }
  | none => s

/-- Logs an event that cannot recur with the same timing, while a function records (R376, R377): kind, then 32 bytes. -/
def State.logFor (s : State) (fn kind : Nat) (ws : List Word) : State :=
  match s.replayOf fn with
  | some r => if r.replaying then s else s.logJobs fn [.entry 4 r.packets 40 (kind + 2 ^ 64 * wordsNat ws)]
  | none => s

/-- The same, for the function that owns a context. -/
def State.logEvent (s : State) (ctx : BitVec 8) (kind : Nat) (ws : List Word) : State :=
  match s.fnOf ctx with
  | some fn => s.logFor fn kind ws
  | none => s

/-! ### The fault unit (R350, R351) -/

/-- The context through whose tables a function's rings are reached for a context of it: the context itself when it is of world 0, else the
lowest-numbered world-0 context of its function where there is one (DESIGN CHOICE: log entry 15). DESIGN CHOICE: log entry 22. -/
def State.ringCtx (s : State) (ctx : BitVec 8) : BitVec 8 :=
  if s.world ctx == 0 then ctx
  else
    match s.ssc.contexts.find? (fun p => p.2.world == 0 && some p.2.owner == s.fnOf ctx) with
    | some p => BitVec.ofNat 8 p.1
    | none => ctx

/-- The unit that an access's fault names, its slot and its count (R28, R351). -/
def State.unitOf (s : State) (ag : Agent) : BitVec 16 × BitVec 3 × Word :=
  match ag with
  | .thread t | .access t _ | .window t | .stamp t => (BitVec.ofNat 16 t.core, t.slot, (s.core t.core).cyc)
  | .copy n | .grid n | .blocker n => (BitVec.ofNat 16 n, 0, (s.core n).cyc)
  | .queue _ | .launch _ | .recorder _ => (0x2000, 0, s.dispCount)
  | .join u | .entry u _ | .group u _ => (0x1000 + BitVec.ofNat 16 u, 0, (s.join u).count)
  | .dump => (0x3000, 0, s.dumpCount)
  | .faultUnit _ | .fack _ | .digest _ | .ssc => (0x4000, 0, s.ssc.count)

/-- A translation fault of agents at a page: attached to the record of the page, or a record of its own, which the fault unit writes (R350). -/
def State.raiseFault (s : State) (ctx : BitVec 8) (va : Word) (kind : BitVec 3) (level : Nat) (mal : Bool) (ags : List Agent) : State :=
  let page := va.toNat / 0x10000
  if s.faults.any (fun r => r.ctx == ctx && r.page == page) then
    { s with faults := s.faults.map (fun r =>
        if r.ctx == ctx && r.page == page then { r with agents := r.agents ++ ags.filter (fun a => !r.agents.contains a) } else r) }
  else
    let u := match ags with
      | a :: _ => s.unitOf a
      | [] => (0, 0, 0)
    let w1 : Word := u.1 ++ s.world ctx ++ ctx ++ (0 : BitVec 8) ++ kind ++ BitVec.ofBool mal ++ BitVec.ofNat 2 level ++ (0 : BitVec 15) ++ u.2.1
    let fn := (s.fnOf ctx).getD 64
    let r : FaultRec := { ctx := ctx, page := page, fn := fn, index := none, words := #v[va, w1, u.2.2, 0], agents := ags }
    { s with faults := s.faults ++ [r] }.setFn fn { s.fn fn with fwait := false }

/-! ### Accesses that wait for the service of a fault (R350) -/

/-- The I/O die of a unit, as an index of the I/O die caches. -/
def unitDie : Agent → Nat
  | .join u | .entry u _ | .group u _ => u
  | _ => 0

/-- The translation cache of an agent: that of its I/O die, or for a stamp that of its quad. -/
def State.leavesOf (s : State) : Agent → List Leaf
  | .stamp t => SMap.getD s.tcaches (quadOf t.core) []
  | ag => SMap.getD s.iocaches (unitDie ag) []

/-- Installs a leaf there: 2,048 or 512 are held (R20, R348). -/
def State.keepFor (s : State) (ag : Agent) (l : Leaf) : State :=
  match ag with
  | .stamp t => { s with tcaches := SMap.put s.tcaches (quadOf t.core) (keepLeaf 2048 (s.leavesOf ag) l) }
  | ag => { s with iocaches := SMap.put s.iocaches (unitDie ag) (keepLeaf 512 (s.leavesOf ag) l) }

/-- The kind of an access in a fault record (R351). -/
def faultKind (ag : Agent) (need : Need) : BitVec 3 :=
  match ag with
  | .stamp _ => need.kind
  | _ => 6

/-- Translation for a unit, through its cache; a walk is made at once. A fault attaches the unit to its record and stalls it, and after a refusal the
access fails (R350, R352); the fault unit's own access fails (DESIGN CHOICE: log entry 15). -/
def State.uTr (s : State) (ag : Agent) (ctx : BitVec 8) (va : Word) (need : Need) : Res Nat :=
  let page := va.toNat / 0x10000
  match s.refused.find? (fun r => r.1 == ag && r.2.1 == ctx.toNat && r.2.2.1 == page) with
  | some r => .trap (trapOf 8 r.2.2.2 va) { s with refused := s.refused.filter (· != r) }
  | none =>
    match s.lookup (s.leavesOf ag) ctx va need with
    | .home h => .ok h s
    | .trap i => .trap i s
    | .miss =>
      match s.walk ctx va with
      | .leaf big pte =>
        let s1 := s.keepFor ag { ctx := ctx, page := if big then va.toNat / 0x20000000 else page, big := big, pte := pte }
        (match s.leafCheck ctx big pte va need with
        | .home h => .ok h s1
        | .trap i => .trap i s1
        | .miss => .trap (trapOf 6 0 va) s1)
      | .fails c k => .trap (trapOf c k va) s
      | .bad level mal =>
        match ag with
        | .faultUnit _ | .fack _ => .trap (trapOf 8 level va) s
        | _ => .park (.service va) (s.raiseFault ctx va (faultKind ag need) level mal [ag])

/-- The home of an aligned access of a unit in translated space. -/
def State.uHome (s : State) (ag : Agent) (ctx : BitVec 8) (va : Word) (n : Nat) (need : Need) : Res Nat :=
  if va.toNat % n ≠ 0 then .trap (trapOf 5 0 va) s
  else if isTranslated va then s.uTr ag ctx va need
  else .trap (trapOf 6 0 va) s

/-- An access of a unit in translated space, at its home: at once, or with a message and its answer (R194, R396). -/
def State.uAccess (s : State) (ag : Agent) (ctx : BitVec 8) (a : Acc) : Res Nat :=
  s.once ag a ((s.uHome ag ctx a.va a.size a.op.need).bind fun h s1 =>
    (s1.homePerform ag 0 ctx h a).bind fun d s2 => .ok (d.toNat % 256 ^ a.size) s2)

/-- A write of the low n bytes of a number. -/
def putAcc (va : Word) (n v : Nat) : Acc := { va := va, size := n, be := BitVec.ofNat 64 (2 ^ n - 1), op := .write (BitVec.ofNat 512 v) }

/-- A read of n bytes. -/
def State.uLoad (s : State) (ag : Agent) (ctx : BitVec 8) (va : Word) (n : Nat) : Res Nat := s.uAccess ag ctx (accRead va n)

/-- A write of n bytes. -/
def State.uStore (s : State) (ag : Agent) (ctx : BitVec 8) (va : Word) (n v : Nat) : Res Unit :=
  (s.uAccess ag ctx (putAcc va n v)).bind fun _ s1 => .ok () s1

/-- k reads of n bytes each, in ascending address. -/
def State.uLoads (s : State) (ag : Agent) (ctx : BitVec 8) (va : Word) (n : Nat) : Nat → Res (List Nat)
  | 0 => .ok [] s
  | k + 1 => (s.uLoad ag ctx va n).bind fun v s1 => (s1.uLoads ag ctx (va + BitVec.ofNat 64 n) n k).bind fun vs s2 => .ok (v :: vs) s2

/-- Writes of n bytes each, in ascending address. -/
def State.uStores (s : State) (ag : Agent) (ctx : BitVec 8) (va : Word) (n : Nat) : List Nat → Res Unit
  | [] => .ok () s
  | v :: vs => (s.uStore ag ctx va n v).bind fun _ s1 => s1.uStores ag ctx (va + BitVec.ofNat 64 n) n vs

/-- An access of a unit at an address of the package's local-store aperture, through the bank (R301, R315). -/
def State.uLocal (s : State) (ag : Agent) (ctx : BitVec 8) (a : Acc) : Res Nat :=
  s.once ag a (match s.unitHome ctx a.va a.size a.op.need with
    | .home h => (s.lsPerform ag (homeCore h) h a true false).bind fun d s1 => .ok (d.toNat % 256 ^ a.size) s1
    | .trap i => .trap i s
    | .miss => .trap (trapOf 6 0 a.va) s)

/-- An access of a unit to a signal word (R301, R314, R315, R333): at a translated home, or by an engine's bank operation in local store reached through
the aperture. -/
def State.uWord (s : State) (ag : Agent) (ctx : BitVec 8) (a : Acc) : Res Nat :=
  if isTranslated a.va then s.uAccess ag ctx a else s.uLocal ag ctx a

/-- A signal: the number is added atomically. -/
def State.uSignal (s : State) (ag : Agent) (ctx : BitVec 8) (va k : Word) : Res Unit :=
  (s.uWord ag ctx (accOp va 8 (.addWord k))).bind fun _ s1 => .ok () s1

/-! ### Fault records in their rings (R350, R351) -/

/-- Writes a record in its function's ring: the index that it has there. A record that does not fit, or a ring that cannot be used, makes it wait. -/
def State.faultPut (s : State) (ag : Agent) (ctx : BitVec 8) (r : FaultRec) : Res Nat :=
  let f := s.fn r.fn
  (s.uLoad ag ctx f.fctl 8).bind fun base s1 => (s1.uLoad ag ctx (f.fctl + 8) 8).bind fun size s2 =>
    (s2.uLoad ag ctx (f.fctl + 16) 4).bind fun wr s3 =>
      if f.fctl.toNat % 64 ≠ 0 || base % 64 ≠ 0 || size = 0 || 16 < size || 2 ^ size ≤ (wr + 2 ^ 32 - f.facked.toNat) % 2 ^ 32 then .done s3
      else
        (s3.uStore ag ctx (BitVec.ofNat 64 (base + 32 * (wr % 2 ^ size))) 32 (wordsNat r.words.toList)).bind fun _ s4 =>
          (s4.uStore ag ctx (f.fctl + 16) 4 ((wr + 1) % 2 ^ 32)).bind fun _ s5 => .ok wr s5

/-- Writes the waiting records of a function in their order, while its ring has room, and logs them: fuel bounds them. -/
def State.recordFn (s : State) (fn : Nat) : (fuel : Nat) → State
  | 0 => s
  | k + 1 =>
    let ag : Agent := .faultUnit fn
    match s.faults.find? (fun r => r.fn == fn && r.index.isNone) with
    | none => s
    | some r =>
      if (s.fn fn).fwait then s
      else
        match s.faultPut ag (s.ringCtx r.ctx) r with
        | .ok i s1 =>
          let s2 := s1.unitEnd ag
          let s3 := { s2 with faults := s2.faults.map (fun (x : FaultRec) => if x.ctx == r.ctx && x.page == r.page then { x with index := some i } else x) }
          (s3.logEvent r.ctx 1 r.words.toList).recordFn fn k
        | .park _ s1 => s1
        | .trap _ s1 | .done s1 => (s1.unitEnd ag).setFn fn { s1.fn fn with fwait := true }

/-- Writes the records that wait, function by function. -/
def State.recordFaults (s : State) : State :=
  ((s.faults.filter (fun r => r.index.isNone)).map (·.fn)).eraseDups.foldl (fun s fn => s.recordFn fn s.faults.length) s

end Sys2Proof.Machine
end

