-- ==== Sys2Proof/Machine/Barrier.lean ====
section
/-!
DEFINITION. Barrier channels: participants, arrival, release of a round (14 R221, R222; 30 R404).
-/

namespace Sys2Proof.Machine

/-! ### Fields of a launch's packet that barriers and stamps read (R311) -/

/-- A launch placed all or nothing: flagged COOP, or in grid mode P (R40, R42). -/
def Launch.coop (l : Launch) : Bool := l.packet[0].getLsbD 8 || l.packet[0].getLsbD 14

def Launch.podgrp (l : Launch) : Nat := (l.packet[4].extractLsb' 32 16).toNat

def Launch.stamps (l : Launch) : Bool := l.packet[0].getLsbD 11

/-! ### Channels -/

/-- Whether thread t is a live thread of gang g. -/
def State.live (s : State) (g : Nat) (t : Tid) : Bool :=
  let x := s.slot t
  x.st != .empty && x.gang == g

/-- The place that distinguishes the channels of one gang at a scope. -/
def barPlace (sc : BitVec 3) (core : Nat) : Nat :=
  match sc.toNat with
  | 1 => core
  | 2 => quadOf core
  | 3 => dieOf core
  | _ => 0

/-- Whose channel a thread of gang g uses at a scope: its gang's, or its launch's. -/
def State.barOwner (s : State) (g : Nat) (sc : BitVec 3) : Nat :=
  if sc.toNat ≤ 3 then g else ((s.gang g).map (·.launch)).getD 0

/-- The live participants of a channel (R221); a thread that has exited counts as arrived. -/
def State.participants (s : State) (c : Chan) : List Tid :=
  if c.sc.toNat ≤ 3 then
    match s.gang c.owner with
    | some g => g.tids.filter (fun t => barPlace c.sc t.core == c.place && s.live g.id t)
    | none => []
  else (s.gangs.filter (·.launch == c.owner)).flatMap (fun g => g.tids.filter (s.live g.id))

/-- The participants whose gang is saved: their slots as its image holds them (R221, R235). -/
def State.savedParts (s : State) (c : Chan) : List Slot :=
  let here (g : Gang) (n : Nat) : Bool := if c.sc.toNat ≤ 3 then g.id == c.owner && barPlace c.sc n == c.place else g.launch == c.owner
  s.gangs.flatMap (fun g => ((g.image.getD []).filter (fun i => here g i.core)).flatMap (fun i => (i.slots.map (·.2)).filter (·.st != .empty)))

/-- Whether no thread that takes part in a channel is left. -/
def State.allGone (s : State) (c : Chan) : Bool := (s.participants c).isEmpty && (s.savedParts c).isEmpty

/-- Whether every participant that has not exited has arrived in the open round. -/
def State.roundFull (s : State) (c : Chan) : Bool :=
  let at_ (x : Slot) : Bool := (x.ab[c.sc.toNat]?.getD none) == some c.round
  (s.participants c).all (fun t => at_ (s.slot t)) && (s.savedParts c).all at_

/-- A channel's index in the list. -/
def State.chanIdx (s : State) (sc : BitVec 3) (owner place : Nat) : Option Nat :=
  s.chans.findIdx? (fun c => c.sc == sc && c.owner == owner && c.place == place)

/-- The open round of the channel that thread t uses. -/
def State.openRound (s : State) (t : Tid) (sc : BitVec 3) : Nat :=
  match s.chanIdx sc (s.barOwner (s.slot t).gang sc) (barPlace sc t.core) with
  | some k => (s.chans[k]?.map (·.round)).getD 0
  | none => 0

/-- Sets a thread's arrival bit, with the round it arrived in. -/
def State.setAb (s : State) (t : Tid) (sc : BitVec 3) (r : Option Nat) : State :=
  let x := s.slot t
  s.setSlot t { x with ab := x.ab.setIfInBounds sc.toNat r }

/-- A channel whose round is full is released by an event of its own. -/
def State.postFull (s : State) : State :=
  (List.range s.chans.length).foldl (fun s k =>
    match s.chans[k]? with
    | some c => if s.roundFull c && !c.sent && (!s.allGone c || c.sc == 5) then s.post (.barrierRoundRelease c.sc k) else s
    | none => s) s

/-- The issuing thread arrives at a channel (R222). -/
def State.arrive (s : State) (sc : BitVec 3) : State :=
  let g := s.me.gang
  let owner := s.barOwner g sc
  let place := barPlace sc s.cur.core
  let s1 : State := match s.chanIdx sc owner place with
    | some _ => s
    | none =>
      let group := if sc == 5 then ((s.launch owner).map Launch.podgrp).getD 0 else 0
      { s with chans := s.chans ++ [{ sc := sc, owner := owner, place := place, group := group, round := 0, sent := false, final := false }] }
  (s1.setAb s1.cur sc (some (s1.openRound s1.cur sc))).postFull

/-- Opens the next round of channel k and wakes those who wait (R222). -/
def State.openNext (s : State) (k : Nat) : State :=
  match s.chans[k]? with
  | none => s
  | some c =>
    let s1 : State := { s with chans := s.chans.set k { c with round := c.round + 1, sent := c.final } }
    (s1.participants c).foldl (fun s t => if (s.slot t).waitsFor (· == .barrier c.sc) then s.wake t else s) s1

/-! ### Pod groups (R404) -/

/-- The members of a pod group. -/
def State.podMembers (s : State) (g : Nat) : List (BitVec 8) :=
  let e := SMap.getD s.podTable g (Vector.replicate 4 0)
  ((List.range 192).filter (fun k => (e[k / 64]?.getD 0).getLsbD (k % 64))).map (BitVec.ofNat 8)

/-- A pod group's root: the endpoint that word 3 [7:0] of its table entry names, or its lowest member. DEDUCED: log entry 77. -/
def State.podRoot (s : State) (g : Nat) : BitVec 8 :=
  let r := (SMap.getD s.podTable g (Vector.replicate 4 0))[3].extractLsb' 0 8
  if r == 0 then (s.podMembers g).headD 0 else r

/-- Launches that each member contributes. -/
def State.podLaunches (s : State) (g : Nat) : Nat := ((SMap.getD s.podTable g (Vector.replicate 4 0))[3].extractLsb' 8 8).toNat

/-- A barrier message (R396): header bits [15:0] the group, bit 16 a release, bit 17 an arrival for good (DESIGN CHOICE: log entry 14). -/
def barrierMsg (src dst : BitVec 8) (g : Nat) (release final : Bool) : Msg :=
  { ty := 0x09, src := src, dst := dst, lane := 0, world := 0, session := 0, nonce := 0, addr := 0
    hdr := BitVec.ofNat 64 (g + (if release then 0x10000 else 0) + (if final then 0x20000 else 0)), tag := 0, data := 0, mask := 0, mac := 0 }

/-- Counts of a package in a list. -/
def countOf (l : List (BitVec 8 × Nat)) (e : BitVec 8) : Nat := ((l.find? (fun p => p.1 == e)).map (·.2)).getD 0

/-- Adds to a package's count. -/
def bump (l : List (BitVec 8 × Nat)) (e : BitVec 8) : List (BitVec 8 × Nat) :=
  if l.any (fun p => p.1 == e) then l.map (fun p => if p.1 == e then (e, p.2 + 1) else p) else l ++ [(e, 1)]

/-- Releases a pod group's round on this package. -/
def State.podRelease (s : State) (g : Nat) : State :=
  (List.range s.chans.length).foldl (fun s k =>
    match s.chans[k]? with
    | some c => if c.sc == 5 && c.sent && c.group == g then s.openNext k else s
    | none => s) s

/-- An arrival at the root: when every member has sent all of its arrivals, the round is released everywhere. When every launch has arrived for good the
group starts anew. -/
def State.podArrive (s : State) (g : Nat) (e : BitVec 8) (final : Bool) : State :=
  let p : PodBar := (s.pods.find? (fun p => p.group == g)).getD { group := g, arrived := [], gone := [], round := 0 }
  let p1 := if final then { p with gone := bump p.gone e } else { p with arrived := bump p.arrived e }
  let need := s.podLaunches g
  let full := !p1.arrived.isEmpty && (s.podMembers g).all (fun m => decide (need ≤ countOf p1.arrived m + countOf p1.gone m))
  let p2 := if full then { p1 with arrived := [], round := p1.round + 1 } else p1
  let used := p2.arrived.isEmpty && (s.podMembers g).all (fun m => decide (need ≤ countOf p2.gone m))
  let s1 : State := { s with pods := (if used then [] else [p2]) ++ s.pods.filter (fun q => q.group != g) }
  if full then
    let out := ((s1.podMembers g).filter (· != s1.plat.self)).map (fun m => barrierMsg s1.plat.self m g true false)
    ((s1.transmitAll 4096 out).podRelease g).postFull
  else s1

/-- This package's arrival of one launch. -/
def State.podSend (s : State) (g : Nat) (final : Bool) : State :=
  if s.podRoot g == s.plat.self then s.podArrive g s.plat.self final
  else s.transmit 4096 (barrierMsg s.plat.self (s.podRoot g) g false final)

/-- The channels of a launch that is over are forgotten; a pod channel stays until its arrival for good has gone to its root (R221, R404). -/
def State.closeChans (s : State) (id : Nat) : State :=
  { s with chans := s.chans.filter (fun c => !(4 ≤ c.sc.toNat && c.owner == id) || (c.sc == 5 && !c.final && !(s.podMembers c.group).isEmpty)) }.postFull

/-- After a thread's exit: rounds that waited for it alone are full, and a cooperative launch of a pod group whose threads have all
exited has arrived for good. -/
def State.exitRounds (s : State) (l : Option Launch) : State :=
  match l with
  | some l =>
    let c : Chan := { sc := 5, owner := l.id, place := 0, group := l.podgrp, round := 0, sent := false, final := false }
    if l.coop && s.allGone c && !(s.podMembers l.podgrp).isEmpty && (s.chanIdx 5 l.id 0).isNone then
      { s with chans := s.chans ++ [c] }.postFull
    else s.postFull
  | none => s.postFull

/-- BARRIER_ROUND_RELEASE: a full round of channel key ends; a pod channel's arrival goes to its root, for good when all its threads have exited (R221,
R222, R404). -/
def execBarrierRoundRelease (sc : BitVec 3) (key : Nat) (s : State) : Out3 :=
  match s.chans[key]? with
  | none => .next s
  | some c =>
    if c.sc != sc || c.sent || !s.roundFull c then .next s
    else if sc == 5 then
      let final := s.allGone c
      let s1 : State := { s with chans := s.chans.set key { c with sent := true, final := final } }
      .next ((if final && (s.launch c.owner).isNone then s1.closeChans c.owner else s1).podSend c.group final)
    else if s.allGone c then .next s
    else .next (s.openNext key)

end Sys2Proof.Machine
end

