-- ==== Sys2Proof/Machine/Tables.lean ====
section
/-!
DEFINITION. Switching tag action tables and region maps, and the control registers by number (10 R169 to R171; 07 R110, R111).
-/

namespace Sys2Proof.Machine

/-- The 64 entries that the words of a region meet, as a table number and its contents. -/
def Core.regionTable (c : Core) (region : Nat) : Nat × Vector (BitVec 16) 64 :=
  match c.tableOf region with
  | 0 => (0, Vector.replicate 64 0)
  | t + 1 => (t + 1, c.tables[t]?.getD (Vector.replicate 64 0))

/-- A switch of a core's tables or region map, and the re-evaluation of the waiters on words whose table or entries changed, in
parking order, ahead of everything else (R170, R171). -/
def State.switch (s : State) (n : Nat) (f : Core → Core) : State :=
  let c := s.core n
  let d := f c
  let ws := s.waiters.filter (fun w => w.table && homeIsLs w.home && homeCore w.home == n &&
    c.regionTable (homeOff w.home / 0x1000) != d.regionTable (homeOff w.home / 0x1000))
  let es := ws.map (fun w => Event.waiterReevaluation w.seq)
  let s1 := s.setCore n d
  { s1 with todo := es ++ s1.todo.filter (fun e => !es.contains e) }

/-- Whether an AFADD of the thread has not replied yet: MFC and MTC of the numeric registers wait for it (R93, R189). -/
def Slot.fadding (x : Slot) : Bool :=
  x.outs.any (fun o => match o.dest with
    | .fadd _ => true
    | _ => false)

/-- Whether an earlier relaxed access of a thread may still raise flags of the thread: an AFADD without its reply, or an access that has forced blocks of
its blanks, or will (R93). -/
def State.raising (s : State) (t : Tid) : Bool :=
  let x := s.slot t
  let c := s.core t.core
  let mine (ag : Agent) : Bool := ag.tid? == some t && ag != .thread t
  let catches (i : OutItem) : Bool :=
    let as := i.acc.bytes (homeOff i.home)
    !i.done && homeIsLs i.home && homeCore i.home == t.core &&
      (c.forcedBy as.contains (if i.acc.op.writes then as else []) none).any (fun b => b.1 == t.slot)
  x.fadding || s.owed.any (fun p => p.2.1 == t && mine p.1) || c.demands.any (fun d => mine d.by_) || x.outs.any (fun o => o.items.any catches)

/-! ### Control registers (R44, R92, R103, R110, R111) -/

/-- A field at the bottom of a word. -/
def zx {w : Nat} (v : BitVec w) : Word := v.setWidth 64

/-- c.tcause. -/
def CRegs.cause (c : CRegs) : Word :=
  (0 : BitVec 32) ++ c.code ++ (0 : BitVec 8) ++ c.defer ++ c.late ++ (0 : BitVec 1) ++ c.cls

/-- What MFC reads from control register n of the issuing thread. -/
def State.creg (s : State) (n : BitVec 11) : Word :=
  let c := s.me.cr
  match n.toNat with
  | 0x000 => c.gid
  | 0x001 => c.gdim
  | 0x002 => c.core
  | 0x003 => c.ncore
  | 0x004 => zx s.cur.slot
  | 0x005 => c.tid
  | 0x006 => BitVec.ofNat 64 s.cur.core
  | 0x007 => c.nactive
  | 0x010 => zx c.fmta
  | 0x011 => zx c.fmtb
  | 0x012 => zx c.scla
  | 0x013 => zx c.sclb
  | 0x014 => zx c.nbv
  | 0x015 => zx c.frm
  | 0x016 => zx c.fflags
  | 0x017 => zx c.fen
  | 0x020 => zx (c.wsb ++ (0 : BitVec 7))
  | 0x021 => zx (c.wsl ++ (0 : BitVec 7))
  | 0x022 => zx (c.wsp ++ (0 : BitVec 7))
  | 0x028 => s.myCore.rmap0
  | 0x029 => s.myCore.rmap1
  | 0x02A => zx c.sbtag
  | 0x030 => c.rngk
  | 0x031 => c.rngc
  | 0x032 => c.rngch
  | 0x040 => c.tvec ++ (0 : BitVec 6)
  | 0x041 => c.epc ++ (0 : BitVec 1)
  | 0x042 => c.cause
  | 0x043 => c.tval
  | 0x044 => c.tpc2 ++ (0 : BitVec 1)
  | 0x045 => b2w c.intrap
  | 0x050 => c.wloop ++ (0 : BitVec 1)
  | 0x051 => zx s.myCore.gdly
  | 0x052 => zx c.pbudget
  | _ => 0

/-- Whether all writable fields of a register are RO: an MTC to it is a protection trap (R44, R110). -/
def cregReadOnly (n : BitVec 11) : Bool := decide (n.toNat ≤ 7) || n == 0x045 || n == 0x052

/-- The per-slot registers after an MTC: the writable fields of register n (R110). -/
def CRegs.write (c : CRegs) (n : BitVec 11) (v : Word) : CRegs :=
  match n.toNat with
  | 0x010 => { c with fmta := v.extractLsb' 0 4 }
  | 0x011 => { c with fmtb := v.extractLsb' 0 4 }
  | 0x012 => { c with scla := v.extractLsb' 0 8 }
  | 0x013 => { c with sclb := v.extractLsb' 0 8 }
  | 0x014 => { c with nbv := v.extractLsb' 0 1 }
  | 0x015 => { c with frm := v.extractLsb' 0 2 }
  | 0x016 => { c with fflags := v.extractLsb' 0 6 }
  | 0x017 => { c with fen := v.extractLsb' 0 6 }
  | 0x020 => { c with wsb := v.extractLsb' 7 11 }
  | 0x021 => { c with wsl := v.extractLsb' 7 11 }
  | 0x022 => { c with wsp := v.extractLsb' 7 11 }
  | 0x02A => { c with sbtag := v.extractLsb' 0 3 }
  | 0x030 => { c with rngk := v }
  | 0x031 => { c with rngc := v }
  | 0x032 => { c with rngch := v }
  | 0x040 => { c with tvec := v.extractLsb' 6 58 }
  | 0x041 => { c with epc := v.extractLsb' 1 63 }
  | 0x042 =>
    { c with code := v.extractLsb' 16 16, defer := v.extractLsb' 7 1, late := v.extractLsb' 6 1, cls := v.extractLsb' 0 5 }
  | 0x043 => { c with tval := v }
  | 0x044 => { c with tpc2 := v.extractLsb' 1 63 }
  | 0x050 => { c with wloop := v.extractLsb' 1 63 }
  | _ => c

/-- What instructions of one core take effect on in its issue order: the tables' shadows, the tables with the region maps, GDLY (R150, R169, R192). -/
inductive CoreOrder where
  | shadows
  | maps
  | gdly
deriving DecidableEq, Repr

/-- The per-core registers whose MTCs an access to a control register follows (R150). -/
def cregOrder (n : BitVec 11) : List CoreOrder := if n == 0x028 || n == 0x029 then [.maps] else if n == 0x051 then [.gdly] else []

/-- Those that a parked instruction acts on: TATSW, TATLD, RMSET, MTC. -/
def Cont.order (c : Cont) : List CoreOrder :=
  let k := c.head &&& 0xFFE7
  if k == 0x1500 then [.shadows, .maps]
  else if k == 0x5503 then [.shadows]
  else if k == 0x5504 then [.maps]
  else if c.head &&& 0xFF07 == 0x4F01 then
    match c.tail with
    | .one x => cregOrder (x.extractLsb' 0 11)
    | _ => []
  else []

/-- Whether an instruction of another slot of the core that issued before the present one, and acts on one of these, has not completed. -/
def State.follows (s : State) (os : List CoreOrder) : Bool :=
  !os.isEmpty && slotNums.any (fun k => k != s.cur.slot &&
    (match (s.slot ⟨s.cur.core, k⟩).cont with
      | some c => decide (c.seq < s.cont.seq) && c.order.any os.contains
      | none => false))

/-- An MTC's write: per-core registers take it in the core's issue order, a region map as a switch (R150, R170). -/
def State.setCreg (s : State) (n : BitVec 11) (v : Word) : State :=
  match n.toNat with
  | 0x028 => s.switch s.cur.core (fun c => { c with rmap0 := v })
  | 0x029 => s.switch s.cur.core (fun c => { c with rmap1 := v })
  | 0x051 => s.setCore s.cur.core { s.myCore with gdly := v.extractLsb' 0 16 }
  | _ => s.setMe { s.me with cr := s.me.cr.write n v }

end Sys2Proof.Machine
end

