-- ==== Sys2Proof/Machine/Window.lean ====
section
/-!
DEFINITION. The window ring in motion: spills and fills, calls and returns (07 R98 to R102; 24 R356).
-/

namespace Sys2Proof.Machine

/-- c.wsp as an offset. -/
def wsOff (w : BitVec 11) : Nat := w.toNat * 128

/-- The window-stack trap (R339): 1 overflow, 2 underflow, c.tval = c.wsp. -/
def windowTrap (x : Slot) (code : Nat) : TrapInfo := trapOf 11 code (BitVec.ofNat 64 (wsOff x.cr.wsp))

/-- The checks of n bytes of a thread's own core that are read or written raw, under table 0, before they are: region, the order with the thread's own
relaxed accesses (R200), token, comparators, tag bits and, for a read, data, watchpoints (R100, R152, R160, R302, R363). va is the address of the first
byte. DEDUCED: log entry 31. -/
def State.rawCheck (s : State) (ag : Agent) (t : Tid) (va : Word) (off len : Nat) (write : Bool) : Res Unit :=
  let n := t.core
  let h := lsHome n off
  let inside (p : Nat) : Bool := decide (h ≤ p) && decide (p < h + len)
  match s.lsCheck (some n) (s.ctxOf n) false va n off false with
  | some i => .trap i s
  | none =>
    if (s.slot t).overlaps h len then .park .outs s
    else
      match s.tokenHeld ag n ((List.range (len / 8)).map (off + 8 * ·)) with
      | some tk => .park (.token tk) (s.holdOn ag tk)
      | none =>
        ((s.unhold ag).comparators ag n off (off + len) write none).bind fun _ s1 =>
          if s1.badTags.any inside then .trap (trapOf 16 1 va) s1
          else if !write && s1.poison.any inside then .trap (trapOf 16 0 va) s1
          else
            let r := s1.watch n 1 (if write then 1 else 0) [(off, off + len)] ag va
            match r.2 with
            | some i => .trap i r.1
            | none => .ok () r.1

/-- The checks of a spill or a fill at an offset (R100). -/
def State.windowCheck (s : State) (ag : Agent) (t : Tid) (off : Nat) (write : Bool) : Res Unit :=
  s.rawCheck ag t (BitVec.ofNat 64 off) off 128 write

/-- Whether a background spill of a thread is in progress: held for a token, or for blocks that it forces (R104). -/
def State.windowBusy (s : State) (t : Tid) : Bool :=
  s.held (.window t) || (s.core t.core).demands.any (fun d => d.by_ == .window t)

/-- A spill's one bank operation: the 16 words of a group at c.wsp of a thread, tags unchanged (R100); the waiters for a write of them are evaluated again
(R51). -/
def State.spillWords (s : State) (t : Tid) (g : BitVec 2) : State :=
  let x := s.slot t
  let h := lsHome t.core (wsOff x.cr.wsp)
  let m := ((x.regs.group g).foldl (fun (p : List Host.Cell × Nat) w => (Memory.setWord p.1 p.2 w, p.2 + 8)) (s.mem, h)).1
  ({ s with mem := m, poison := s.poison.filter (fun p => !(h ≤ p && p < h + 128)) }.setSlot t
    { x with cr := { x.cr with wsp := x.cr.wsp + 1 } }).wakeRange h (h + 128)

/-- A spill of one group (R100, R101): it fits or traps. -/
def State.spill (s : State) (g : BitVec 2) : Res Unit :=
  let x := s.me
  if x.cr.wsl.toNat < x.cr.wsp.toNat + 1 then .trap (windowTrap x 1) s
  else (s.windowCheck s.myAgent s.cur (wsOff x.cr.wsp) true).bind fun _ s1 => .ok () (s1.spillWords s1.cur g)

/-- Where a fill reads from. -/
def Slot.fillOff (x : Slot) : Nat := wsOff (x.cr.wsp - 1)

/-- What a fill does once it may be made (R100): the 16 words below c.wsp to a group. -/
def State.fillWords (s : State) (g : BitVec 2) : State :=
  let x := s.me
  let ws := (List.range 16).map (fun k => Memory.word s.mem (lsHome s.cur.core x.fillOff + 8 * k))
  s.setMe { x with regs := x.regs.setRing (16 * g.toNat) ws, cr := { x.cr with wsp := x.cr.wsp - 1 } }

/-- Whether the window stack holds a frame, and the checks of its read (R100, R101). -/
def State.fillCheck (s : State) : Res Unit :=
  let x := s.me
  if x.cr.wsp == x.cr.wsb then .trap (windowTrap x 2) s else s.windowCheck s.myAgent s.cur x.fillOff false

/-- A fill of one group (R100, R101), under table 0 wherever c.wsp lies. DESIGN CHOICE: log entry 71. -/
def State.fill (s : State) (g : BitVec 2) : Res Unit := s.fillCheck.bind fun _ s1 => .ok () (s1.fillWords g)

/-- Updates the ring's place. -/
def State.setRegs (s : State) (f : Regs → Regs) : State := s.setMe { s.me with regs := f s.me.regs }

/-- Spills the oldest resident groups, one at a time, until left is at most keep (R102): fuel counts them. -/
def State.spillTo (s : State) (keep : Nat) : (fuel : Nat) → Res Unit
  | 0 => .ok () s
  | k + 1 =>
    let r := s.me.regs
    if r.left ≤ keep then .ok () s
    else
      let g := r.cur + 1 - BitVec.ofNat 2 (r.left - 1)
      (s.spill g).bind fun _ s1 => (s1.setRegs (fun r => { r with left := r.left - 1 })).spillTo keep k

/-- What the spill that a call in a frame of the program needs meets before it is made (R99, R100). -/
def State.frameCheckSpill (s : State) : Res Unit :=
  if 2 ≤ s.me.regs.older then s.windowCheck s.myAgent s.cur (wsOff s.me.cr.wsp) true else .ok () s

/-- That spill, once it may be made. -/
def State.frameSpill (s : State) : State :=
  let r := s.me.regs
  if 2 ≤ r.older then (s.spillWords s.cur (r.cur - BitVec.ofNat 2 r.older)).setRegs (fun r => { r with older := r.older - 1 }) else s

/-- The spills that a call needs before it moves the ring (R99, R102). -/
def State.callSpill (s : State) : Res Unit :=
  let r := s.me.regs
  match r.frame with
  | .trap => s.spillTo 2 2
  | _ =>
    if 2 ≤ r.older then
      (s.spill (r.cur - BitVec.ofNat 2 r.older)).bind fun _ s1 => .ok () (s1.setRegs (fun r => { r with older := r.older - 1 }))
    else .ok () s

/-- Whether a call now needs a spill that does not fit (R101, R102, R227). -/
def Slot.spillBlocked (x : Slot) : Bool :=
  let n := match x.regs.frame with
    | .trap => x.regs.left - 2
    | _ => if 2 ≤ x.regs.older then 1 else 0
  decide (0 < n) && decide (x.cr.wsl.toNat < x.cr.wsp.toNat + n)

/-- Whether a return now needs a fill that the window stack does not hold (R101, R102). -/
def Slot.fillBlocked (x : Slot) : Bool :=
  x.regs.frame != .callee 1 && x.regs.older == 0 && x.cr.wsp == x.cr.wsb

/-- A call's move of the ring, the return link in the caller's s31 (R97, R99, R102). -/
def Regs.callMove (r : Regs) (link : Word) : Regs :=
  let r1 := r.writeLoc (r.loc 31) link
  match r.frame with
  | .trap =>
    let pass := (List.range 8).map (fun k => r1.trap[16 + k]?.getD 0)
    let g := r.cur + 2
    { r1.setRing (16 * g.toNat) pass with cur := g, frame := .callee 1, older := r.left }
  | .normal => { r1 with cur := r.cur + 1, older := r.older + 1 }
  | .callee d => { r1 with cur := r.cur + 1, older := r.older + 1, frame := .callee (d + 1) }

/-- Whether a return needs a fill (R99); one into the trap frame needs none (R102). -/
def Slot.retFills (x : Slot) : Bool := x.regs.frame != .callee 1 && x.regs.older == 0

/-- The checks of the fill that a return needs. -/
def State.retCheck (s : State) : Res Unit := if s.me.retFills then s.fillCheck else .ok () s

/-- The fill that a return needs, once it may be made. -/
def State.retWords (s : State) : State :=
  if s.me.retFills then (s.fillWords (s.me.regs.cur - 1)).setRegs (fun r => { r with older := 1 }) else s

/-- The fill that a return needs (R99, R101). -/
def State.retFill (s : State) : Res Unit := s.retCheck.bind fun _ s1 => .ok () s1.retWords

/-- A return's move of the ring (R99, R102). -/
def Regs.retMove (r : Regs) : Regs :=
  match r.frame with
  | .callee 1 =>
    let back := (List.range 8).map (fun k => r.ring[16 * r.cur.toNat + k]?.getD 0)
    { r.setTrapRegs 16 back with cur := r.cur - 2, frame := .trap, left := r.older, older := 0 }
  | .callee d => { r with cur := r.cur - 1, older := r.older - 1, frame := .callee (d - 1) }
  | _ => { r with cur := r.cur - 1, older := r.older - 1 }

/-- CALL to a target (R140). -/
def State.call (s : State) (target : Word) : Res Unit :=
  s.callSpill.bind fun _ s1 => .ok () ((s1.setRegs (fun r => r.callMove s1.npc)).jump target)

/-- Whether the current frame is the trap frame. -/
def State.inTrapFrame (s : State) : Bool := s.me.regs.frame == .trap

/-- An illegal-instruction trap of an instruction that the trap frame, or its absence, forbids; c.tval as an encoding check gives
it (R120, R140, R149). -/
def State.illegal (s : State) : TrapInfo := trapOf 1 0 (s.ir.2.report ++ s.ir.1)

/-- Returning from a trap: INTRAP falls and the interrupted frame is current (R149). -/
def State.leaveTrap (s : State) : State :=
  let x := s.me
  let r := { x.regs with frame := .normal, older := x.regs.left - 2, left := 0 }
  let s1 := s.setMe { x with regs := r, cr := { x.cr with intrap := false } }
  let pc : Word := x.cr.epc ++ (0 : BitVec 1)
  (s1.trace 4 0 x.pc pc).goto pc

/-! ### Background spills (R100) -/

/-- Whether the window unit can spill the oldest frame of a slot: group g + 2 is occupied and the spill fits. -/
def Slot.spillable (x : Slot) : Bool :=
  (match x.regs.frame with
    | .trap => decide (4 ≤ x.regs.left)
    | _ => decide (2 ≤ x.regs.older)) && decide (x.cr.wsp.toNat + 1 ≤ x.cr.wsl.toNat) && x.st != .empty

/-- A spill in progress is over: an MTC that waits for it goes on (R104). -/
def State.windowDone (s : State) (t : Tid) : State :=
  if !s.windowBusy t && (s.slot t).waitsFor (· == .window) then s.wake t else s

/-- BACKGROUND_SPILL: in a cycle in which its core issues nothing, the oldest frame of a slot is spilled; none starts while an MTC waits for the end of one
(R104). No instruction is there to take a trap: a watchpoint stops its domain and traps no thread (R364), and a spill that would end in another trap is left
to the call that needs it. DEDUCED: log entry 31. -/
def execBackgroundSpill (core : Nat) (slot : BitVec 3) (s : State) : Out3 :=
  let t : Tid := ⟨core, slot⟩
  let x := s.slot t
  let ag : Agent := .window t
  if !x.spillable || (s.core core).gated || (x.waitsFor (· == .window) && !s.windowBusy t) then .next ((s.unhold ag).windowDone t)
  else
    match s.windowCheck ag t (wsOff x.cr.wsp) true with
    | .ok _ s1 =>
      let g := match x.regs.frame with
        | .trap => x.regs.cur + 1 - BitVec.ofNat 2 (x.regs.left - 1)
        | _ => x.regs.cur - BitVec.ofNat 2 x.regs.older
      let s2 := s1.spillWords t g
      let y := s2.slot t
      let r := match y.regs.frame with
        | .trap => { y.regs with left := y.regs.left - 1 }
        | _ => { y.regs with older := y.regs.older - 1 }
      .next ((s2.setSlot t { y with regs := r }).windowDone t)
    | .trap _ s1 => .next ((s1.unhold ag).windowDone t)
    | .park _ s1 | .done s1 => .next s1

/-- The fills that ERET makes first: pass group, then interrupted frame (R149). -/
def State.eretFill (s : State) : Res Unit :=
  let r := s.me.regs
  let fillLeft (s : State) (g : BitVec 2) : Res Unit :=
    (s.fill g).bind fun _ s1 => .ok () (s1.setRegs (fun r => { r with left := r.left + 1 }))
  match r.left with
  | 0 => (fillLeft s (r.cur + 1)).bind fun _ s1 => fillLeft s1 r.cur
  | 1 => fillLeft s r.cur
  | _ => .ok () s

end Sys2Proof.Machine
end

