-- ==== Sys2Proof/Machine/Control.lean ====
section
/-!
DEFINITION. Majors 0x08 to 0x0F but for EXIT and RETS: branches, calls and returns, jump tables, traps, control registers
(09 R139 to R144, R147 to R150).
-/

namespace Sys2Proof.Machine

/-! ### Branches (R139) -/

/-- A branch: its condition on the state it reads. -/
def State.branch (s : State) (srcs : List SReg) (off : BitVec 27) (p : State → Bool) : Out3 :=
  ((s.ports srcs [] [] []).bind fun _ s1 =>
    let t := branchTarget s1.me.pc off
    let b := p s1
    let s2 := s1.pops srcs []
    .ok () (if b then s2.jump t else s2.retire)).finish

def State.branch1 (s : State) (b : SReg) (off : BitVec 27) (p : Word → Bool) : Out3 := s.branch [b] off (fun s1 => p (s1.rs b))

def State.branch2 (s : State) (b c : SReg) (off : BitVec 27) (p : Word → Word → Bool) : Out3 :=
  s.branch [b, c] off (fun s1 => p (s1.rs b) (s1.rs c))

/-- BEQZ: R139. -/
def execBeqz (b : SReg) (off : BitVec 27) (s : State) : Out3 := s.branch1 b off (fun x => x == 0)

/-- BNEZ: R139. -/
def execBnez (b : SReg) (off : BitVec 27) (s : State) : Out3 := s.branch1 b off (fun x => x != 0)

/-- BLTZ: R139. -/
def execBltz (b : SReg) (off : BitVec 27) (s : State) : Out3 := s.branch1 b off (fun x => x.slt 0)

/-- BGEZ: R139. -/
def execBgez (b : SReg) (off : BitVec 27) (s : State) : Out3 := s.branch1 b off (fun x => !x.slt 0)

/-- BGTZ: R139. -/
def execBgtz (b : SReg) (off : BitVec 27) (s : State) : Out3 := s.branch1 b off (fun x => (0 : Word).slt x)

/-- BLEZ: R139. -/
def execBlez (b : SReg) (off : BitVec 27) (s : State) : Out3 := s.branch1 b off (fun x => !(0 : Word).slt x)

/-- BEQ: R139. -/
def execBeq (b c : SReg) (off : BitVec 27) (s : State) : Out3 := s.branch2 b c off (fun x y => x == y)

/-- BNE: R139. -/
def execBne (b c : SReg) (off : BitVec 27) (s : State) : Out3 := s.branch2 b c off (fun x y => x != y)

/-- BLT: R139. -/
def execBlt (b c : SReg) (off : BitVec 27) (s : State) : Out3 := s.branch2 b c off (fun x y => x.slt y)

/-- BGE: R139. -/
def execBge (b c : SReg) (off : BitVec 27) (s : State) : Out3 := s.branch2 b c off (fun x y => !x.slt y)

/-- BLTU: R139. -/
def execBltu (b c : SReg) (off : BitVec 27) (s : State) : Out3 := s.branch2 b c off (fun x y => x.ult y)

/-- BGEU: R139. -/
def execBgeu (b c : SReg) (off : BitVec 27) (s : State) : Out3 := s.branch2 b c off (fun x y => !x.ult y)

/-- B: R139. -/
def execBr (off : BitVec 27) (s : State) : Out3 := s.branch [] off (fun _ => true)

/-! ### Calls and returns (R140, R141) -/

/-- CALL: R140. -/
def execCall (off : BitVec 27) (s : State) : Out3 := (s.call (branchTarget s.me.pc off)).finish

/-- RET: R140. In the trap frame it is an illegal instruction, before any other check. -/
def execRet (s : State) : Out3 :=
  (if s.inTrapFrame then .trap s.illegal s
  else
    let t := s.rs 15
    s.retFill.bind fun _ s1 => .ok () ((s1.setRegs Regs.retMove).jump t)).finish

/-- DBNZ: R141. The register is source and destination, so s6 and s7 are port faults. -/
def execDbnz (b : SReg) (off : BitVec 27) (s : State) : Out3 :=
  ((s.ports [b] [b] [] []).bind fun _ s1 =>
    let t := branchTarget s1.me.pc off
    let v := s1.rs b - 1
    let s2 := s1.ws b v
    .ok () (if v != 0 then s2.jump t else s2.retire)).finish

/-! ### Jump tables (R142, R143) -/

/-- The target of JT and CALLT: alignment, bound, the entry's load, the fetch of the target and its landing pad. The entry is
kept when the fetch must wait. -/
def State.tableTarget (s : State) (i n base : Word) (l : BitVec 11) : Res Word :=
  if base.toNat % 8 ≠ 0 then .trap (trapOf 5 0 (base + 8 * i)) s
  else if n.toNat ≤ i.toNat then .trap (trapOf 10 0 i) s
  else
    let entry : Res Word := match s.cont.acc.head? with
      | some e => .ok (e.setWidth 64) s
      | none => (s.ordinary (accRead (base + 8 * i) 8)).bind fun v s1 => .ok (v.setWidth 64) (s1.elemDone v)
    entry.bind fun e s1 =>
      let t := e &&& ~~~(1 : Word)
      (s1.fetchLine t).bind fun ln s2 =>
        match ln.slots[slotIndex t]? with
        | some (.instr h (.one x)) => if h == 0x4C00 && x == (0 : BitVec 5) ++ l then .ok t s2 else .trap (trapOf 9 0 t) s2
        | _ => .trap (trapOf 9 0 t) s2

/-- The checks of a jump table that stand above a port fault and can be made with what can be read: alignment, bound, and a call's window-stack
overflow (R143, R338). The address that an alignment fault reports takes an index that cannot be read as zero. -/
def State.tableFirst (s : State) (b c n : List SReg) (i lim base : Word) (call : Bool) : Res Unit :=
  let x := s.me
  if x.readable c [] && base.toNat % 8 != 0 then .trap (trapOf 5 0 (if x.readable b [] then base + 8 * i else base)) s
  else if x.readable b [] && x.readable n [] && decide (lim.toNat ≤ i.toNat) then .trap (trapOf 10 0 i) s
  else if call && x.spillBlocked then .trap (windowTrap x 1) s
  else .ok () s

/-- JT: index, bound and base, with the fields that they come from. -/
def State.jumpTable (s : State) (b c : SReg) (n : List SReg) (lim : State → Word) (l : BitVec 11) : Out3 :=
  let srcs := b :: c :: n
  ((s.portsAfter srcs [] [] [] (fun s1 => s1.tableFirst [b] [c] n (s1.rs b) (lim s1) (s1.rs c) false)).bind fun _ s1 =>
    (s1.tableTarget (s1.rs b) (lim s1) (s1.rs c) l).bind fun t s2 => .ok () ((s2.pops srcs []).jump t)).finish

/-- CALLT. A window-stack overflow stands below the traps of the address and the landing pad, and above those of the entry's load (R338). -/
def State.callTable (s : State) (b c : SReg) (n : List SReg) (lim : State → Word) (l : BitVec 11) : Out3 :=
  let srcs := b :: c :: n
  ((s.portsAfter srcs [] [] [] (fun s1 => s1.tableFirst [b] [c] n (s1.rs b) (lim s1) (s1.rs c) true)).bind fun _ s1 =>
    let r : Res Word := match s1.tableTarget (s1.rs b) (lim s1) (s1.rs c) l with
      | .trap i s2 => .trap (if decide (11 ≤ i.cls.toNat) && s1.me.spillBlocked then windowTrap s1.me 1 else i) s2
      | r => r
    r.bind fun t s2 =>
      s2.callSpill.bind fun _ s3 => .ok () (((s3.pops srcs []).setRegs (fun r => r.callMove s3.npc)).jump t)).finish

/-- JT, short form: R142. -/
def execJt (l : BitVec 5) (b c : SReg) (nM1 : BitVec 6) (s : State) : Out3 :=
  s.jumpTable b c [] (fun _ => zx nM1 + 1) ((0 : BitVec 6) ++ l)

/-- CALLT, short form: R142. -/
def execCallt (l : BitVec 5) (b c : SReg) (nM1 : BitVec 6) (s : State) : Out3 :=
  s.callTable b c [] (fun _ => zx nM1 + 1) ((0 : BitVec 6) ++ l)

/-- JT, long form: R142. -/
def execJtW (b c n : SReg) (l : BitVec 11) (s : State) : Out3 := s.jumpTable b c [n] (·.rs n) l

/-- CALLT, long form: R142. -/
def execCalltW (b c n : SReg) (l : BitVec 11) (s : State) : Out3 := s.callTable b c [n] (·.rs n) l

/-- LPAD: it executes as NOP (R143). -/
def execLpad (_l : BitVec 11) (s : State) : Out3 := .next s.retire

/-- NOP: R144. -/
def execNop (s : State) : Out3 := .next s.retire

/-! ### Traps -/

/-- TRAP: it completes, then enters the trap of class 20 with c.epc = NEXT (R148). -/
def execTrap (b : SReg) (code : BitVec 11) (s : State) : Out3 :=
  ((s.ports [b] [] [] []).bind fun _ s1 =>
    let i : TrapInfo := { cls := 20, code := (0 : BitVec 5) ++ code, tval := s1.rs b }
    let s2 := s1.pops [b] []
    .done (s2.takeTrap s2.cur i s2.npc s2.me.pc true false)).finish

/-- ERET: R149. -/
def execEret (s : State) : Out3 :=
  (if !s.me.cr.intrap || !s.inTrapFrame then .trap s.illegal s
  else s.eretFill.bind fun _ s1 => .ok () s1.leaveTrap).finish

/-- A slot or head that is no instruction: the trap of the check that fails, at issue (R114, R120). -/
def execNotAnInstruction (cls : BitVec 5) (code : BitVec 16) (tval : BitVec 64) (s : State) : Out3 :=
  .next (s.precise { cls := cls, code := code, tval := tval })

/-! ### Control registers (R150) -/

/-- What an access to a control register waits for before its ports: earlier instructions of the thread that raise flags (R93). -/
def State.cregWait (s : State) (mtc : Bool) (n : BitVec 11) : Bool :=
  (n == 0x016 || (mtc && (n == 0x014 || n == 0x015 || n == 0x017))) && s.raising s.cur

/-- MFC: R150. The value is that at issue, also where the instruction then waits for room in a port. -/
def execMfc (d : SReg) (n : BitVec 11) (s : State) : Out3 :=
  if !CReg.known n then .next (s.precise s.illegal)
  else if s.cregWait false n then .next (s.park .outs)
  else if s.cont.seen.isNone && s.follows (cregOrder n) then .next (s.park .order)
  else
    let v := s.cont.seen.getD (s.creg n)
    (((s.ports [] [d] [] []).keeping (fun s1 => s1.setCont { s1.cont with seen := some v })).bind fun _ s1 => .ok () (s1.setS [] d v)).finish

/-- MTC: R150. A register whose fields are all RO is a protection trap; one of the window stack waits for a spill in progress (R104). -/
def execMtc (r : SReg) (n : BitVec 11) (s : State) : Out3 :=
  if !CReg.known n then .next (s.precise s.illegal)
  else if s.cregWait true n then .next (s.park .outs)
  else
    ((if cregReadOnly n then .trap (trapOf 7 5 (zx n)) s else s.ports [r] [] [] []).bind fun _ s1 =>
      if s1.follows (cregOrder n) then .park .order s1
      else if decide (0x020 ≤ n.toNat) && decide (n.toNat ≤ 0x022) && s1.windowBusy s1.cur then .park .window s1
      else .ok () (((s1.pops [r] []).setCreg n (s1.rs r)).retire)).finish

end Sys2Proof.Machine
end

