-- ==== Sys2Proof/Machine/Grid.lean ====
section
/-!
DEFINITION. What the grid computes (05 R79 to R85) and the layout of planed operands (17 R261).
-/

namespace Sys2Proof.Machine

/-! ### Planes (R261) -/

/-- The element at bit k of each plane, plane 0 least significant. -/
def bitsAt (ls : List Line) (k : Nat) : Nat := ls.foldr (fun l n => 2 * n + (if l.getLsbD k then 1 else 0)) 0

/-- The 16 rows of 32 elements of a planed chunk. -/
def unplane (ls : List Line) : List (List Nat) :=
  (List.range 16).map (fun r => (List.range 32).map (fun e => bitsAt ls (32 * r + e)))

/-- Plane p of a chunk. -/
def planeOf (rows : List (List Nat)) (p : Nat) : Line := packElems 1 (rows.flatten.map (fun x => x / 2 ^ p % 2))

/-! ### Pairings (R79) -/

/-- The kinds of accumulator. -/
inductive AccKind where
  | fp32
  | int32
  | res (r15 : Bool)
deriving DecidableEq, Repr

def fmtNarrow (f : BitVec 4) : Bool := decide (f.toNat ≤ 4)

def fmtSmallInt (f : BitVec 4) : Bool := f == 8 || f == 9 || f == 10 || f == 11 || f == 13

/-- The accumulator of a pairing, none where the grid does not implement it. -/
def accKind (fa fb : BitVec 4) : Option AccKind :=
  if fmtNarrow fa && fmtNarrow fb then some .fp32
  else if fa == fb && (fa == 5 || fa == 6 || fa == 7) then some .fp32
  else if fmtSmallInt fa && fmtSmallInt fb then some .int32
  else if fa == fb && fa == 12 then some .int32
  else if fa == fb && fa == 14 then some (.res false)
  else if fa == fb && fa == 15 then some (.res true)
  else none

/-! ### One chunk (R81 to R85) -/

/-- Whether a product is zero times infinity. -/
def zeroTimesInf (x y : FV) : Bool :=
  match x, y with
  | .inf _, .fin _ m _ | .fin _ m _, .inf _ => m == 0
  | _, _ => false

/-- The sign of an infinite product. -/
def infSign (x y : FV) : Option Bool :=
  match x, y with
  | .inf n, .inf k | .inf n, .fin k _ _ | .fin k _ _, .inf n => some (n != k)
  | _, _ => none

/-- An exact finite product. -/
def finProduct (x y : FV) : Bool × Nat × Int :=
  match x, y with
  | .fin n m e, .fin k p f => (n != k, m * p, e + f)
  | _, _ => (false, 0, 0)

/-- S of a chunk (R82, R84): the exact sum of its products, scaled by 2^sc, with the flag it raises. -/
def chunkSum (ps : List (FV × FV)) (badScale : Bool) (sc : Int) : FV × Flags :=
  if badScale || ps.any (fun p => p.1.isNan || p.2.isNan || zeroTimesInf p.1 p.2) then (.nan false, flNV)
  else
    let infs := ps.filterMap (fun p => infSign p.1 p.2)
    if infs.contains true && infs.contains false then (.nan false, flNV)
    else
      match infs with
      | n :: _ => (.inf n, 0)
      | [] =>
        let qs := ps.map (fun p => finProduct p.1 p.2)
        let e : Int := qs.foldl (fun (m : Int) q => min m q.2.2) 0
        let sum : Int := qs.foldl (fun (t : Int) q => t + (if q.1 then -1 else 1) * (q.2.1 * 2 ^ (q.2.2 - e).toNat : Nat)) 0
        let neg := if sum = 0 then qs.all (fun q => q.1 && q.2.1 == 0) else decide (sum < 0)
        (.fin neg sum.natAbs (e + sc), 0)

/-- An FP32 cell after one S. -/
def accAdd (acc : FR) (s : FV × Flags) : FR :=
  let r := fp32.addV .rne (fp32.decode acc.bits) s.1
  ⟨r.bits, acc.fl ||| s.2 ||| r.fl⟩

/-- A cell after one chunk of elements of A and B, under scale bytes and c.nbv. -/
def macChunk (kind : AccKind) (fa fb : BitVec 4) (nbv : BitVec 1) (sa sb : BitVec 8) (acc : FR) (ps : List (Nat × Nat)) : FR :=
  match kind with
  | .fp32 =>
    let vs := ps.map (fun p => ((FFmt.of fa).decode p.1, (FFmt.of fb).decode p.2))
    let bad := sa == 255 || sb == 255
    let sc : Int := (sa.toNat : Int) + sb.toNat - 254
    if nbv == 1 then accAdd acc (chunkSum vs bad sc) else vs.foldl (fun a v => accAdd a (chunkSum [v] bad sc)) acc
  | .int32 =>
    let sum := ps.foldl (fun (t : Int) p => t + intOf (intBits fa) (fmtSigned fa) p.1 * intOf (intBits fb) (fmtSigned fb) p.2) (acc.bits : Int)
    ⟨ofInt 32 sum, acc.fl⟩
  | .res r15 => ⟨ps.foldl (fun t p => resMac r15 t p.1 p.2) acc.bits, acc.fl⟩

end Sys2Proof.Machine
end

