-- ==== Sys2Proof/Machine/Mem.lean ====
section
/-!
DEFINITION. Majors 0x10 to 0x15: loads and stores, vector memory, gather and scatter, atomics, tags and tables (11 R173 to R193).
-/

namespace Sys2Proof.Machine

/-! ### Shared operations -/

/-- The ports of a memory instruction. A port fault stands below the alignment, address, protection and translation of its first
access, of every access of a relaxed form (R178); multi marks the forms of several elements (R186). -/
def State.memPorts (s : State) (srcs dsts : List SReg) (vsrcs vdsts : List VReg) (addr : List SReg) (vaddr : List VReg) (rx multi : Bool)
    (accs : State → List (Nat × Acc)) : Res Unit :=
  s.portsAfter srcs dsts vsrcs vdsts (fun s1 =>
    if s1.me.readable addr vaddr then
      (s1.relaxedChecks multi (if rx then accs s1 else (accs s1).take 1)).bind fun _ s2 => .ok () s2
    else .ok () s1)

/-- A scalar load (R180). -/
def State.load (s : State) (d : SReg) (srcs : List SReg) (rx : Bool) (n : Nat) (signed : Bool) (va : State → Word) : Out3 :=
  ((s.memPorts srcs [d] [] [] srcs [] rx false (fun s1 => [(0, accRead (va s1) n)])).bind fun _ s1 =>
    let a := accRead (va s1) n
    if rx then s1.issueRelaxed [(0, a)] false false (.scalar (s1.me.regs.loc d) n signed) srcs []
    else (s1.ordinary a).bind fun v s2 => .ok () (s2.setS srcs d (extend n signed v))).finish

/-- A scalar store (R181). -/
def State.store (s : State) (r : SReg) (srcs : List SReg) (rx : Bool) (n : Nat) (va : State → Word) : Out3 :=
  ((s.memPorts (r :: srcs) [] [] [] srcs [] rx false (fun s1 => [(0, accWrite (va s1) n 0)])).bind fun _ s1 =>
    let a := accWrite (va s1) n (s1.rs r)
    if rx then s1.issueRelaxed [(0, a)] true false .none (r :: srcs) []
    else (s1.ordinary a).bind fun _ s2 => .ok () (s2.doneS (r :: srcs))).finish

/-- An atomic (R187 to R189): the destination is also a source of ACAS. -/
def State.atomic (s : State) (o : AtomOp) (d b c : SReg) (w32 rx : BitVec 1) (off : Word) : Out3 :=
  let n := if w32 == 1 then 4 else 8
  let srcs := if o == .cas then [b, c, d] else [b, c]
  ((s.memPorts srcs [d] [] [] [b] [] (rx == 1) false (fun s1 => [(0, accOp (s1.rs b + off) n (.atom o 0 0))])).bind fun _ s1 =>
    let a := accOp (s1.rs b + off) n (.atom o (s1.rs c) (if o == .cas then s1.rs d else 0))
    if rx == 1 then
      s1.issueRelaxed [(0, a)] false false (if o == .fadd then .fadd (s1.me.regs.loc d) else .scalar (s1.me.regs.loc d) n false) srcs []
    else
      (s1.ordinary a).bind fun v s2 =>
        let x := s2.me
        let s3 := s2.setS srcs d (extend n false v)
        .ok () (if o == .fadd then s3.faddDone s3.cur s2.cont.seq x.pc x.cr.intrap (faddFlags a.op v) else s3)).finish

/-! ### Vectors -/

/-- Bytes of the enabled elements. -/
def State.byteMask (s : State) (mk : BitVec 4) (ew : Nat) : BitVec 64 :=
  BitVec.ofNat 64 ((List.range 64).foldl (fun m k => if s.enabled mk (k / (ew / 8)) then m + 2 ^ k else m) 0)

/-- Completes a vector load. -/
def State.setV (s : State) (srcs : List SReg) (vsrcs : List VReg) (d : VReg) (v : Line) : State := ((s.pops srcs vsrcs).wv d v).retire

/-- The checks of a vector access with every element masked off: alignment, address, protection (R183). DEDUCED: log entry 27. -/
def State.emptyChecks (s : State) (va : Word) (need : Need) : Res Unit :=
  if va.toNat % 64 ≠ 0 then .trap (trapOf 5 0 va) s
  else
    match s.place s.cur.core va with
    | .nowhere => .trap (trapOf 6 0 va) s
    | .ls n off ap =>
      (match s.lsCheck (some s.cur.core) s.myCtx s.myAper va n off ap with
      | some i => .trap i s
      | none => .ok () s)
    | .translated =>
      match s.translate s.cur.core s.myCtx va need with
      | .trap i => .trap i s
      | .miss => .park (.walk va) (s.joinWalk (dieOf s.cur.core) (quadOf s.cur.core) s.myAgent s.myCtx va need.kind)
      | .home _ => if s.keyOk s.cur.core s.myCtx then .ok () s else .trap (trapOf 7 8 va) s

/-- VLD (R183). -/
def State.vload (s : State) (d : VReg) (b : SReg) (mk : BitVec 4) (ew : BitVec 2) (rx : Bool) (off : Word) : Out3 :=
  let acc (s1 : State) : Acc := { va := s1.rs b + off, size := 64, be := s1.byteMask mk (ewBits ew), op := .read }
  ((s.memPorts [b] [] [] [d] [b] [] rx false (fun s1 => [(0, acc s1)])).bind fun _ s1 =>
    let a := acc s1
    if a.be == 0 then (s1.emptyChecks a.va .load).bind fun _ s2 => .ok () (s2.setV [b] [] d 0)
    else if rx then s1.issueRelaxed [(0, a)] false false (.vector d (ewBits ew) true) [b] []
    else
      (s1.ordinary a).bind fun v s2 =>
        let w := ewBits ew
        .ok () (s2.setV [b] [] d (packElems w ((List.range (512 / w)).map (fun e => if s2.enabled mk e then elem w v e else 0))))).finish

/-- VST (R183). -/
def State.vstore (s : State) (d : VReg) (b : SReg) (mk : BitVec 4) (ew : BitVec 2) (rx : Bool) (off : Word) : Out3 :=
  let acc (s1 : State) (v : Line) : Acc := { va := s1.rs b + off, size := 64, be := s1.byteMask mk (ewBits ew), op := .write v }
  ((s.memPorts [b] [] [d] [] [b] [] rx false (fun s1 => [(0, acc s1 0)])).bind fun _ s1 =>
    let a := acc s1 (s1.rv d)
    if a.be == 0 then (s1.emptyChecks a.va .store).bind fun _ s2 => .ok () (s2.pops [b] [d]).retire
    else if rx then s1.issueRelaxed [(0, a)] true false .none [b] [d]
    else (s1.ordinary a).bind fun _ s2 => .ok () (s2.pops [b] [d]).retire).finish

/-- The elements of an ordinary strided, gather or scatter form in increasing order, from the one reached (R186). Where one has made waiters due for
re-evaluation, they are evaluated before the next element (R166, R210). -/
def State.elements (s : State) : List (Nat × Acc) → Res Unit
  | [] => .ok () s
  | (e, a) :: as =>
    match s.ordinary a with
    | .ok v s1 =>
      if s1.wakesDue && !as.isEmpty then (s1.elemDone v).pause else (s1.elemDone v).elements as
    | .trap i s1 => .trap { i with code := BitVec.ofNat 8 e ++ i.code.extractLsb' 0 8 } s1
    | .park w s1 => .park w s1
    | .done s1 => .done s1

/-- A loaded register: elements below lim that were loaded, zero where masked off, the old value from lim on. -/
def gathered (ew : Nat) (old : Line) (es : List Nat) (vs : List Line) (lim : Nat) : Line :=
  packElems ew ((List.range (512 / ew)).map (fun e =>
    if lim ≤ e then elem ew old e
    else match (es.zip vs).find? (fun p => p.1 == e) with
      | some p => p.2.toNat % 2 ^ ew
      | none => 0))

/-- A load of separate elements. DEDUCED: log entry 26. One into a port that traps pushes nothing (DESIGN CHOICE: log entry 61). -/
def State.vloads (s : State) (d : VReg) (srcs : List SReg) (vsrcs : List VReg) (ew : Nat) (rx : Bool)
    (addrs : State → List (Nat × Word)) : Out3 :=
  let accs (s1 : State) := (addrs s1).map (fun p => (p.1, accRead p.2 (ew / 8)))
  ((s.memPorts srcs [] vsrcs [d] srcs vsrcs rx true accs).bind fun _ s1 =>
    let as := accs s1
    if as.isEmpty then .ok () (s1.setV srcs vsrcs d 0)
    else if rx then s1.issueRelaxed as false true (.vector d ew false) srcs vsrcs
    else
      match s1.elements (as.drop s1.cont.idx) with
      | .ok _ s2 => .ok () (s2.setV srcs vsrcs d (gathered ew 0 (as.map (·.1)) s2.cont.acc (512 / ew)))
      | .trap i s2 =>
        let x := s2.me
        let lim := (i.code.extractLsb' 8 8).toNat
        .trap i (if x.isPort d then s2
          else s2.wv d (gathered ew (x.oldV d) (as.map (·.1)) s2.cont.acc lim))
      | .park w s2 => .park w s2
      | .done s2 => .done s2).finish

/-- A store of separate elements. -/
def State.vstores (s : State) (d : VReg) (srcs : List SReg) (vaddr : List VReg) (ew : Nat) (rx : Bool)
    (addrs : State → List (Nat × Word)) : Out3 :=
  let accs (s1 : State) (v : Line) := (addrs s1).map (fun p => (p.1, accWrite p.2 (ew / 8) (BitVec.ofNat 64 (elem ew v p.1))))
  ((s.memPorts srcs [] (d :: vaddr) [] srcs vaddr rx true (fun s1 => accs s1 0)).bind fun _ s1 =>
    let as := accs s1 (s1.rv d)
    if as.isEmpty then .ok () (s1.pops srcs (d :: vaddr)).retire
    else if rx then s1.issueRelaxed as true true .none srcs (d :: vaddr)
    else (s1.elements (as.drop s1.cont.idx)).bind fun _ s2 => .ok () (s2.pops srcs (d :: vaddr)).retire).finish

/-- Addresses of a strided form (R184). -/
def State.strided (s : State) (b c : SReg) (mk : BitVec 4) (ew : BitVec 2) (off : Word) : List (Nat × Word) :=
  (s.enabledElems mk (512 / ewBits ew)).map (fun e => (e, s.rs b + off + BitVec.ofNat 64 e * s.rs c))

/-- Element width of a gather or scatter. -/
def gatherBits (x64 : BitVec 1) : Nat := if x64 == 1 then 64 else 32

/-- Addresses of a gather or scatter (R185). -/
def State.indexed (s : State) (b : SReg) (c : VReg) (mk : BitVec 4) (x64 : BitVec 1) (sc : BitVec 2) : List (Nat × Word) :=
  let w := gatherBits x64
  (s.enabledElems mk (512 / w)).map (fun e =>
    let i : Word := if x64 == 1 then BitVec.ofNat 64 (elem 64 (s.rv c) e) else (BitVec.ofNat 32 (elem 32 (s.rv c) e)).signExtend 64
    (e, s.rs b + i <<< sc.toNat))

/-! ### Scalar loads and stores (R180, R181) -/

/-- LD: R180. -/
def execLd (d b : SReg) (imm : BitVec 11) (s : State) : Out3 :=
  s.load d [b] false 8 false (fun s1 => s1.rs b + sx11 imm)

/-- LW: R180. -/
def execLw (d b : SReg) (imm : BitVec 11) (s : State) : Out3 :=
  s.load d [b] false 4 true (fun s1 => s1.rs b + sx11 imm)

/-- LWU: R180. -/
def execLwu (d b : SReg) (imm : BitVec 11) (s : State) : Out3 :=
  s.load d [b] false 4 false (fun s1 => s1.rs b + sx11 imm)

/-- LH: R180. -/
def execLh (d b : SReg) (imm : BitVec 11) (s : State) : Out3 :=
  s.load d [b] false 2 true (fun s1 => s1.rs b + sx11 imm)

/-- LHU: R180. -/
def execLhu (d b : SReg) (imm : BitVec 11) (s : State) : Out3 :=
  s.load d [b] false 2 false (fun s1 => s1.rs b + sx11 imm)

/-- LB: R180. -/
def execLb (d b : SReg) (imm : BitVec 11) (s : State) : Out3 :=
  s.load d [b] false 1 true (fun s1 => s1.rs b + sx11 imm)

/-- LBU: R180. -/
def execLbu (d b : SReg) (imm : BitVec 11) (s : State) : Out3 :=
  s.load d [b] false 1 false (fun s1 => s1.rs b + sx11 imm)

/-- LD, W form: R180. -/
def execLdW (d b : SReg) (rx : BitVec 1) (imm : BitVec 16) (s : State) : Out3 :=
  s.load d [b] (rx == 1) 8 false (fun s1 => s1.rs b + sx16 imm)

/-- LW, W form: R180. -/
def execLwW (d b : SReg) (rx : BitVec 1) (imm : BitVec 16) (s : State) : Out3 :=
  s.load d [b] (rx == 1) 4 true (fun s1 => s1.rs b + sx16 imm)

/-- LWU, W form: R180. -/
def execLwuW (d b : SReg) (rx : BitVec 1) (imm : BitVec 16) (s : State) : Out3 :=
  s.load d [b] (rx == 1) 4 false (fun s1 => s1.rs b + sx16 imm)

/-- LH, W form: R180. -/
def execLhW (d b : SReg) (rx : BitVec 1) (imm : BitVec 16) (s : State) : Out3 :=
  s.load d [b] (rx == 1) 2 true (fun s1 => s1.rs b + sx16 imm)

/-- LHU, W form: R180. -/
def execLhuW (d b : SReg) (rx : BitVec 1) (imm : BitVec 16) (s : State) : Out3 :=
  s.load d [b] (rx == 1) 2 false (fun s1 => s1.rs b + sx16 imm)

/-- LB, W form: R180. -/
def execLbW (d b : SReg) (rx : BitVec 1) (imm : BitVec 16) (s : State) : Out3 :=
  s.load d [b] (rx == 1) 1 true (fun s1 => s1.rs b + sx16 imm)

/-- LBU, W form: R180. -/
def execLbuW (d b : SReg) (rx : BitVec 1) (imm : BitVec 16) (s : State) : Out3 :=
  s.load d [b] (rx == 1) 1 false (fun s1 => s1.rs b + sx16 imm)

/-- LD, X1 form: R180. -/
def execLdX1 (d b c : SReg) (rx : BitVec 1) (imm : BitVec 32) (s : State) : Out3 :=
  s.load d [b, c] (rx == 1) 8 false (fun s1 => s1.rs b + s1.rs c + sx32 imm)

/-- LW, X1 form: R180. -/
def execLwX1 (d b c : SReg) (rx : BitVec 1) (imm : BitVec 32) (s : State) : Out3 :=
  s.load d [b, c] (rx == 1) 4 true (fun s1 => s1.rs b + s1.rs c + sx32 imm)

/-- LWU, X1 form: R180. -/
def execLwuX1 (d b c : SReg) (rx : BitVec 1) (imm : BitVec 32) (s : State) : Out3 :=
  s.load d [b, c] (rx == 1) 4 false (fun s1 => s1.rs b + s1.rs c + sx32 imm)

/-- LH, X1 form: R180. -/
def execLhX1 (d b c : SReg) (rx : BitVec 1) (imm : BitVec 32) (s : State) : Out3 :=
  s.load d [b, c] (rx == 1) 2 true (fun s1 => s1.rs b + s1.rs c + sx32 imm)

/-- LHU, X1 form: R180. -/
def execLhuX1 (d b c : SReg) (rx : BitVec 1) (imm : BitVec 32) (s : State) : Out3 :=
  s.load d [b, c] (rx == 1) 2 false (fun s1 => s1.rs b + s1.rs c + sx32 imm)

/-- LB, X1 form: R180. -/
def execLbX1 (d b c : SReg) (rx : BitVec 1) (imm : BitVec 32) (s : State) : Out3 :=
  s.load d [b, c] (rx == 1) 1 true (fun s1 => s1.rs b + s1.rs c + sx32 imm)

/-- LBU, X1 form: R180. -/
def execLbuX1 (d b c : SReg) (rx : BitVec 1) (imm : BitVec 32) (s : State) : Out3 :=
  s.load d [b, c] (rx == 1) 1 false (fun s1 => s1.rs b + s1.rs c + sx32 imm)

/-- ST: R181. -/
def execSt (a b : SReg) (imm : BitVec 11) (s : State) : Out3 :=
  s.store a [b] false 8 (fun s1 => s1.rs b + sx11 imm)

/-- SW: R181. -/
def execSw (a b : SReg) (imm : BitVec 11) (s : State) : Out3 :=
  s.store a [b] false 4 (fun s1 => s1.rs b + sx11 imm)

/-- SH: R181. -/
def execSh (a b : SReg) (imm : BitVec 11) (s : State) : Out3 :=
  s.store a [b] false 2 (fun s1 => s1.rs b + sx11 imm)

/-- SB: R181. -/
def execSb (a b : SReg) (imm : BitVec 11) (s : State) : Out3 :=
  s.store a [b] false 1 (fun s1 => s1.rs b + sx11 imm)

/-- ST, W form: R181. -/
def execStW (a b : SReg) (rx : BitVec 1) (imm : BitVec 16) (s : State) : Out3 :=
  s.store a [b] (rx == 1) 8 (fun s1 => s1.rs b + sx16 imm)

/-- SW, W form: R181. -/
def execSwW (a b : SReg) (rx : BitVec 1) (imm : BitVec 16) (s : State) : Out3 :=
  s.store a [b] (rx == 1) 4 (fun s1 => s1.rs b + sx16 imm)

/-- SH, W form: R181. -/
def execShW (a b : SReg) (rx : BitVec 1) (imm : BitVec 16) (s : State) : Out3 :=
  s.store a [b] (rx == 1) 2 (fun s1 => s1.rs b + sx16 imm)

/-- SB, W form: R181. -/
def execSbW (a b : SReg) (rx : BitVec 1) (imm : BitVec 16) (s : State) : Out3 :=
  s.store a [b] (rx == 1) 1 (fun s1 => s1.rs b + sx16 imm)

/-- ST, X1 form: R181. -/
def execStX1 (a b c : SReg) (rx : BitVec 1) (imm : BitVec 32) (s : State) : Out3 :=
  s.store a [b, c] (rx == 1) 8 (fun s1 => s1.rs b + s1.rs c + sx32 imm)

/-- SW, X1 form: R181. -/
def execSwX1 (a b c : SReg) (rx : BitVec 1) (imm : BitVec 32) (s : State) : Out3 :=
  s.store a [b, c] (rx == 1) 4 (fun s1 => s1.rs b + s1.rs c + sx32 imm)

/-- SH, X1 form: R181. -/
def execShX1 (a b c : SReg) (rx : BitVec 1) (imm : BitVec 32) (s : State) : Out3 :=
  s.store a [b, c] (rx == 1) 2 (fun s1 => s1.rs b + s1.rs c + sx32 imm)

/-- SB, X1 form: R181. -/
def execSbX1 (a b c : SReg) (rx : BitVec 1) (imm : BitVec 32) (s : State) : Out3 :=
  s.store a [b, c] (rx == 1) 1 (fun s1 => s1.rs b + s1.rs c + sx32 imm)

/-! ### Vector memory (R182 to R185) -/

/-- VLD: R183. -/
def execVld (vd : VReg) (b : SReg) (mk : BitVec 4) (ew : BitVec 2) (s : State) : Out3 :=
  s.vload vd b mk ew false 0

/-- VST: R183. -/
def execVst (vd : VReg) (b : SReg) (mk : BitVec 4) (ew : BitVec 2) (s : State) : Out3 :=
  s.vstore vd b mk ew false 0

/-- VLDS: R184. -/
def execVlds (vd : VReg) (b c : SReg) (mk : BitVec 4) (ew : BitVec 2) (s : State) : Out3 :=
  s.vloads vd [b, c] [] (ewBits ew) false (fun s1 => s1.strided b c mk ew 0)

/-- VSTS: R184. -/
def execVsts (vd : VReg) (b c : SReg) (mk : BitVec 4) (ew : BitVec 2) (s : State) : Out3 :=
  s.vstores vd [b, c] [] (ewBits ew) false (fun s1 => s1.strided b c mk ew 0)

/-- VLD, W form: R183. -/
def execVldW (vd : VReg) (b : SReg) (mk : BitVec 4) (rx : BitVec 1) (ew : BitVec 2) (imm : BitVec 14) (s : State) : Out3 :=
  s.vload vd b mk ew (rx == 1) (imm.signExtend 64)

/-- VST, W form: R183. -/
def execVstW (vd : VReg) (b : SReg) (mk : BitVec 4) (rx : BitVec 1) (ew : BitVec 2) (imm : BitVec 14) (s : State) : Out3 :=
  s.vstore vd b mk ew (rx == 1) (imm.signExtend 64)

/-- VLDS, W form: R184. -/
def execVldsW (vd : VReg) (b c : SReg) (mk : BitVec 4) (rx : BitVec 1) (ew : BitVec 2) (imm : BitVec 14) (s : State) : Out3 :=
  s.vloads vd [b, c] [] (ewBits ew) (rx == 1) (fun s1 => s1.strided b c mk ew (imm.signExtend 64))

/-- VSTS, W form: R184. -/
def execVstsW (vd : VReg) (b c : SReg) (mk : BitVec 4) (rx : BitVec 1) (ew : BitVec 2) (imm : BitVec 14) (s : State) : Out3 :=
  s.vstores vd [b, c] [] (ewBits ew) (rx == 1) (fun s1 => s1.strided b c mk ew (imm.signExtend 64))

/-- VLD, X1 form: R183. -/
def execVldX1 (vd : VReg) (b : SReg) (mk : BitVec 4) (rx : BitVec 1) (ew : BitVec 2) (imm : BitVec 30) (s : State) : Out3 :=
  s.vload vd b mk ew (rx == 1) (imm.signExtend 64)

/-- VST, X1 form: R183. -/
def execVstX1 (vd : VReg) (b : SReg) (mk : BitVec 4) (rx : BitVec 1) (ew : BitVec 2) (imm : BitVec 30) (s : State) : Out3 :=
  s.vstore vd b mk ew (rx == 1) (imm.signExtend 64)

/-- VLDS, X1 form: R184. -/
def execVldsX1 (vd : VReg) (b c : SReg) (mk : BitVec 4) (rx : BitVec 1) (ew : BitVec 2) (imm : BitVec 30) (s : State) : Out3 :=
  s.vloads vd [b, c] [] (ewBits ew) (rx == 1) (fun s1 => s1.strided b c mk ew (imm.signExtend 64))

/-- VSTS, X1 form: R184. -/
def execVstsX1 (vd : VReg) (b c : SReg) (mk : BitVec 4) (rx : BitVec 1) (ew : BitVec 2) (imm : BitVec 30) (s : State) : Out3 :=
  s.vstores vd [b, c] [] (ewBits ew) (rx == 1) (fun s1 => s1.strided b c mk ew (imm.signExtend 64))

/-- VGATH: R185. -/
def execVgath (vd : VReg) (b : SReg) (c : VReg) (mk : BitVec 4) (x64 : BitVec 1) (s : State) : Out3 :=
  s.vloads vd [b] [c] (gatherBits x64) false (fun s1 => s1.indexed b c mk x64 0)

/-- VSCAT: R185. -/
def execVscat (vd : VReg) (b : SReg) (c : VReg) (mk : BitVec 4) (x64 : BitVec 1) (s : State) : Out3 :=
  s.vstores vd [b] [c] (gatherBits x64) false (fun s1 => s1.indexed b c mk x64 0)

/-- VGATH, W form: R185. -/
def execVgathW (vd : VReg) (b : SReg) (c : VReg) (mk : BitVec 4) (rx : BitVec 1) (x64 : BitVec 1) (sc : BitVec 2) (s : State) : Out3 :=
  s.vloads vd [b] [c] (gatherBits x64) (rx == 1) (fun s1 => s1.indexed b c mk x64 sc)

/-- VSCAT, W form: R185. -/
def execVscatW (vd : VReg) (b : SReg) (c : VReg) (mk : BitVec 4) (rx : BitVec 1) (x64 : BitVec 1) (sc : BitVec 2) (s : State) : Out3 :=
  s.vstores vd [b] [c] (gatherBits x64) (rx == 1) (fun s1 => s1.indexed b c mk x64 sc)

/-! ### Atomics (R187 to R190) -/

/-- AADD: R188. -/
def execAadd (d b c : SReg) (w32 rx : BitVec 1) (s : State) : Out3 :=
  s.atomic .add d b c w32 rx 0

/-- AADD, W form: R188. -/
def execAaddW (d b c : SReg) (w32 rx : BitVec 1) (imm : BitVec 16) (s : State) : Out3 :=
  s.atomic .add d b c w32 rx (sx16 imm)

/-- AAND: R188. -/
def execAand (d b c : SReg) (w32 rx : BitVec 1) (s : State) : Out3 :=
  s.atomic .and d b c w32 rx 0

/-- AAND, W form: R188. -/
def execAandW (d b c : SReg) (w32 rx : BitVec 1) (imm : BitVec 16) (s : State) : Out3 :=
  s.atomic .and d b c w32 rx (sx16 imm)

/-- AOR: R188. -/
def execAor (d b c : SReg) (w32 rx : BitVec 1) (s : State) : Out3 :=
  s.atomic .or d b c w32 rx 0

/-- AOR, W form: R188. -/
def execAorW (d b c : SReg) (w32 rx : BitVec 1) (imm : BitVec 16) (s : State) : Out3 :=
  s.atomic .or d b c w32 rx (sx16 imm)

/-- AXOR: R188. -/
def execAxor (d b c : SReg) (w32 rx : BitVec 1) (s : State) : Out3 :=
  s.atomic .xor d b c w32 rx 0

/-- AXOR, W form: R188. -/
def execAxorW (d b c : SReg) (w32 rx : BitVec 1) (imm : BitVec 16) (s : State) : Out3 :=
  s.atomic .xor d b c w32 rx (sx16 imm)

/-- ASWP: R188. -/
def execAswp (d b c : SReg) (w32 rx : BitVec 1) (s : State) : Out3 :=
  s.atomic .swp d b c w32 rx 0

/-- ASWP, W form: R188. -/
def execAswpW (d b c : SReg) (w32 rx : BitVec 1) (imm : BitVec 16) (s : State) : Out3 :=
  s.atomic .swp d b c w32 rx (sx16 imm)

/-- ACAS: R188. -/
def execAcas (d b c : SReg) (w32 rx : BitVec 1) (s : State) : Out3 :=
  s.atomic .cas d b c w32 rx 0

/-- ACAS, W form: R188. -/
def execAcasW (d b c : SReg) (w32 rx : BitVec 1) (imm : BitVec 16) (s : State) : Out3 :=
  s.atomic .cas d b c w32 rx (sx16 imm)

/-- AMIN: R188. -/
def execAmin (d b c : SReg) (w32 rx : BitVec 1) (s : State) : Out3 :=
  s.atomic .min d b c w32 rx 0

/-- AMIN, W form: R188. -/
def execAminW (d b c : SReg) (w32 rx : BitVec 1) (imm : BitVec 16) (s : State) : Out3 :=
  s.atomic .min d b c w32 rx (sx16 imm)

/-- AMAX: R188. -/
def execAmax (d b c : SReg) (w32 rx : BitVec 1) (s : State) : Out3 :=
  s.atomic .max d b c w32 rx 0

/-- AMAX, W form: R188. -/
def execAmaxW (d b c : SReg) (w32 rx : BitVec 1) (imm : BitVec 16) (s : State) : Out3 :=
  s.atomic .max d b c w32 rx (sx16 imm)

/-- AMINU: R188. -/
def execAminu (d b c : SReg) (w32 rx : BitVec 1) (s : State) : Out3 :=
  s.atomic .minu d b c w32 rx 0

/-- AMINU, W form: R188. -/
def execAminuW (d b c : SReg) (w32 rx : BitVec 1) (imm : BitVec 16) (s : State) : Out3 :=
  s.atomic .minu d b c w32 rx (sx16 imm)

/-- AMAXU: R188. -/
def execAmaxu (d b c : SReg) (w32 rx : BitVec 1) (s : State) : Out3 :=
  s.atomic .maxu d b c w32 rx 0

/-- AMAXU, W form: R188. -/
def execAmaxuW (d b c : SReg) (w32 rx : BitVec 1) (imm : BitVec 16) (s : State) : Out3 :=
  s.atomic .maxu d b c w32 rx (sx16 imm)

/-- AFADD: R188. -/
def execAfadd (d b c : SReg) (w32 rx : BitVec 1) (s : State) : Out3 :=
  s.atomic .fadd d b c w32 rx 0

/-- AFADD, W form: R188. -/
def execAfaddW (d b c : SReg) (w32 rx : BitVec 1) (imm : BitVec 16) (s : State) : Out3 :=
  s.atomic .fadd d b c w32 rx (sx16 imm)

/-! ### Tags (R191) -/

/-- A tag operation that writes the tag it finds to a register. -/
def State.tagOp (s : State) (srcs dsts : List SReg) (b : SReg) (o : State → WordOp) (f : State → Line → State) : Out3 :=
  ((s.memPorts srcs dsts [] [] [b] [] false false (fun s1 => [(0, accOp (s1.rs b) 8 .tget)])).bind fun _ s1 =>
    (s1.ordinary (accOp (s1.rs b) 8 (o s1))).bind fun v s2 => .ok () (f s2 v)).finish

/-- TGET: R191. -/
def execTget (d b : SReg) (s : State) : Out3 :=
  s.tagOp [b] [d] b (fun _ => .tget) (fun s2 v => s2.setS [b] d (v.setWidth 64))

/-- TSET from a register: R191. -/
def execTset (b c : SReg) (s : State) : Out3 :=
  s.tagOp [b, c] [] b (fun s1 => .tset ((s1.rs c).extractLsb' 0 3)) (fun s2 _ => s2.doneS [b, c])

/-- TSET with an immediate: R191. -/
def execTsetImm (b : SReg) (t : BitVec 3) (s : State) : Out3 :=
  s.tagOp [b] [] b (fun _ => .tset t) (fun s2 _ => s2.doneS [b])

/-- TCAS: R191. -/
def execTcas (d b c : SReg) (s : State) : Out3 :=
  s.tagOp [b, c, d] [d] b (fun s1 => .tcas ((s1.rs d).extractLsb' 0 3) ((s1.rs c).extractLsb' 0 3))
    (fun s2 v => s2.setS [b, c, d] d (v.setWidth 64))

/-! ### Tables (R157, R169, R192, R193) -/

/-- The check of one entry of a table image (R157). -/
def entryBad (e : BitVec 16) : Bool :=
  decide (5 ≤ entAct e) || e.extractLsb' 0 6 != 0 || (entUpd e && (entAct e == 1 || entAct e == 3)) ||
  (entTcode e != 0 && entAct e != 3) || (entTag e != 0 && !entUpd e)

/-- The watchpoints of a core on reads of words in turn, the state and the first trap. -/
def State.watchWords (s : State) (n : Nat) (va : Word) : List Nat → State × Option TrapInfo
  | [] => (s, none)
  | o :: os =>
    let r := s.watch n 1 0 [(o, o + 8)] s.myAgent (va + BitVec.ofNat 64 (o - va.toNat % 0x40000))
    match r.2 with
    | some i => (r.1, some i)
    | none => r.1.watchWords n va os

/-- The checks of TATLD on its image at an address: alignment, address, protection, in that order (R192, R338): its offset. -/
def State.imageCheck (s : State) (t : BitVec 2) (a : Word) : Res Nat :=
  let n := s.cur.core
  if a.toNat % 8 ≠ 0 then .trap (trapOf 5 0 a) s
  else
    match s.place n a with
    | .ls m off ap =>
      if m ≠ n ∨ 0x40000 < off + 128 then .trap (trapOf 6 0 a) s
      else
        (match ((List.range 16).map (fun k => off + 8 * k)).findSome? (fun o =>
            s.lsCheck (some n) s.myCtx s.myAper (a + BitVec.ofNat 64 (o - off)) n o ap) with
        | some i => .trap i s
        | none => if t == 0 then .trap (trapOf 7 6 0) s else .ok off s)
    | _ => .trap (trapOf 6 0 a) s

/-- The raw read of an image: an ordinary access of path T, after the thread's own relaxed accesses to its bytes (R174, R200), its tokens (R302) and the
comparators; an error in a word of it is the reader's (R160, R354). DEDUCED: log entry 62. -/
def State.imageRead (s : State) (a : Word) (off : Nat) : Res (List (BitVec 16)) :=
  let n := s.cur.core
  let h := lsHome n off
  let os := (List.range 16).map (fun k => off + 8 * k)
  if s.me.overlaps h 128 then .park .outs s
  else
    match s.tokenHeld s.myAgent n os with
    | some tk => .park (.token tk) (s.holdOn s.myAgent tk)
    | none =>
      ((s.unhold s.myAgent).comparators s.myAgent n off (off + 128) false none).bind fun _ s1 =>
        match os.find? (fun o => s1.badTags.contains (lsHome n o)), os.find? (fun o => s1.poison.contains (lsHome n o)) with
        | some o, _ => .trap (trapOf 16 1 (a + BitVec.ofNat 64 (o - off))) s1
        | none, some o => .trap (trapOf 16 0 (a + BitVec.ofNat 64 (o - off))) s1
        | none, none => .ok ((List.range 64).map (fun k => BitVec.ofNat 16 (Memory.readN s1.mem (h + 2 * k) 2))) s1

/-- TATLD: the checked image goes to the shadow (R157, R192). -/
def execTatld (t : BitVec 2) (b : SReg) (s : State) : Out3 :=
  ((s.portsAfter [b] [] [] [] (fun s1 => if t == 0 then .trap (trapOf 7 6 0) s1 else .ok () s1)).bind fun _ s0 =>
    (if s0.follows [.shadows] then .park .order s0 else .ok () s0 : Res Unit).bind fun _ s1 =>
    let a := s1.rs b
    let n := s1.cur.core
    (s1.imageCheck t a).bind fun off s2 => (s2.imageRead a off).bind fun img s3 =>
      match (List.range 64).find? (fun k => (img[k]?.map entryBad).getD false) with
      | some k => .trap (trapOf 2 1 (BitVec.ofNat 64 k)) s3
      | none =>
        let r := s3.watchWords n a ((List.range 16).map (fun k => off + 8 * k))
        match r.2 with
        | some i => .trap i r.1
        | none =>
          let c := r.1.core n
          let v := Vector.ofFn (fun (k : Fin 64) => img[k.val]?.getD 0)
          .ok () ((r.1.setCore n { c with shadows := c.shadows.setIfInBounds (t.toNat - 1) v }).doneS [b])).finish

/-- The pending blocks of the core's blanks that have a source or destination in one of some regions (R193). -/
def Core.regionBlocks (c : Core) (regions : List Nat) : List (BitVec 3 × Nat × Nat) :=
  slotNums.flatMap (fun k => (c.slot k).blanks.flatMap (fun b =>
    let hit := (dRange b.dst false :: b.sources.map (fun d => dRange d true)).any (fun r =>
      regions.any (fun g => decide (r.1 < 0x1000 * (g + 1)) && decide (0x1000 * g < r.2)))
    if hit then b.pend.map (fun n => (k, b.seq, n)) else []))

/-- TATSW: R169, R170, R193. -/
def execTatsw (t : BitVec 2) (s : State) : Out3 :=
  (if t == 0 then .trap (trapOf 7 6 0) s
  else if s.follows [.shadows, .maps] then .park .order s
  else
    let n := s.cur.core
    let c := s.core n
    (s.demand s.myAgent n (c.regionBlocks ((List.range 64).filter (fun g => c.tableOf g == t.toNat)))).bind fun _ s1 =>
      .ok () ((s1.switch n (fun c => { c with
        tables := c.tables.setIfInBounds (t.toNat - 1) (c.shadows[t.toNat - 1]?.getD (Vector.replicate 64 0)) })).retire)).finish

/-- A region map with one field replaced. -/
def Core.setRegion (c : Core) (k t : Nat) : Core :=
  let put (w : Word) : Word :=
    let sh := 2 * (k % 32)
    (w &&& ~~~((3 : Word) <<< sh)) ||| (BitVec.ofNat 64 (t % 4) <<< sh)
  if k < 32 then { c with rmap0 := put c.rmap0 } else { c with rmap1 := put c.rmap1 }

/-- Whether the gang of the issuing thread holds region k of its core. -/
def State.holdsRegion (s : State) (k : Nat) : Bool :=
  match s.gang s.me.gang with
  | none => false
  | some g => g.places.any (fun p => p.core == s.cur.core && decide (p.base ≤ k) && decide (k < p.base + p.regions))

/-- RMSET: R193. -/
def execRmset (t : BitVec 2) (k : BitVec 6) (s : State) : Out3 :=
  (if !s.holdsRegion k.toNat then .trap (trapOf 7 0 (BitVec.ofNat 64 (k.toNat * 0x1000))) s
  else if s.follows [.maps] then .park .order s
  else
    let n := s.cur.core
    (s.demand s.myAgent n ((s.core n).regionBlocks [k.toNat])).bind fun _ s1 =>
      .ok () (s1.switch n (fun c => c.setRegion k.toNat t.toNat)).retire).finish

end Sys2Proof.Machine
end

