-- ==== Sys2Proof/Machine/Sync.lean ====
section
/-!
DEFINITION. Majors 0x16 and 0x17, and FLUSHI: fences, barriers, stage barrier words, waits (13 R202 to R212; 14 R214 to R226,
R233).
-/

namespace Sys2Proof.Machine

/-! ### Fences (R202, R219, R220) -/

/-- Waits until every relaxed access of the thread is performed at a scope. A late trap of an access that the fence waits for is taken at this
instruction, which ERET issues again (R202); one that came while the instruction was parked otherwise is taken after it (R342). DEDUCED: log entry 17. -/
def State.fenceWait (s : State) (sc : Nat) : Res Unit :=
  let x := s.me
  if s.cont.second && !x.lates.isEmpty && !x.cr.intrap then .done (s.setMe { x with st := .ready, await := .none, cont := none })
  else if x.performedAt s.cur.core sc then
    .ok () (match x.cont with
      | none => s
      | some c => s.setCont { c with second := false })
  else .park .outs (s.setCont { s.cont with second := true })

/-- FENCE: R219. -/
def execFence (sc : BitVec 3) (s : State) : Out3 := ((s.fenceWait sc.toNat).bind fun _ s1 => .ok () s1.retire).finish

/-- Whether a copy that a thread issued has not written its token. -/
def State.copying (s : State) (t : Tid) : Bool := (s.core t.core).copies.any (fun k => k.tid == t)

/-- The end of an XFENCE to path Q: what path M of the core has read ahead is discarded (R206). -/
def State.fencePath (s : State) (q : BitVec 3) : State :=
  if q == 2 then s.setCore s.cur.core { s.myCore with staging := [] } else s

/-- XFENCE P,Q: what P awaits, then Q (R206). A blocker write is performed when it is made. -/
def execXfence (p q : BitVec 3) (s : State) : Out3 :=
  (match p.toNat with
  | 0 => (s.fenceWait 6).bind fun _ s1 => .ok () (s1.fencePath q).retire
  | 1 => if s.copying s.cur then .park .copies s else .ok () (s.fencePath q).retire
  | _ => .ok () (s.fencePath q).retire).finish

/-! ### Barriers (R221, R222) -/

/-- A barrier instruction past its checks: lane scope does nothing; pkg and pod need a cooperative launch. -/
def State.barrier (s : State) (sc : BitVec 3) (f : State → Res Unit) : Out3 :=
  (if sc == 0 then .ok () s.retire
  else if 4 ≤ sc.toNat && !((s.gangLaunch s.me.gang).map Launch.coop).getD false then .trap (trapOf 7 7 (zx sc)) s
  else f s).finish

/-- The scope of a barrier's fence: sys for pod. -/
def barFence (sc : BitVec 3) : Nat := if sc == 5 then 6 else sc.toNat

/-- Waits for the round of the last arrival, if there was one, and clears the bit. -/
def State.barWait (s : State) (sc : BitVec 3) : Res Unit :=
  match s.me.ab[sc.toNat]?.getD none with
  | none => .ok () s
  | some r => if s.openRound s.cur sc ≤ r then .park (.barrier sc) s else .ok () (s.setAb s.cur sc none)

/-- BAR: R222. step 1 is the fence after the round; a notice or a late trap there makes the BAR issue again, and arrive again. DESIGN CHOICE: log entry 67. -/
def execBar (sc : BitVec 3) (s : State) : Out3 :=
  s.barrier sc fun s =>
    let last (s : State) : Res Unit := (s.fenceWait (barFence sc)).bind fun _ s1 => .ok () s1.retire
    if s.cont.step == 1 then last s
    else
      match s.me.ab[sc.toNat]?.getD none with
      | none => (s.fenceWait (barFence sc)).bind fun _ s1 => .park (.barrier sc) (s1.arrive sc)
      | some _ => (s.barWait sc).bind fun _ s1 => last (s1.setCont { s1.cont with step := 1 })

/-- BARA: R222. -/
def execBara (sc : BitVec 3) (s : State) : Out3 :=
  s.barrier sc fun s =>
    (s.barWait sc).bind fun _ s1 => (s1.fenceWait (barFence sc)).bind fun _ s2 => .ok () (s2.arrive sc).retire

/-- BARW: R222. -/
def execBarw (sc : BitVec 3) (s : State) : Out3 :=
  s.barrier sc fun s => (s.barWait sc).bind fun _ s1 => (s1.fenceWait (barFence sc)).bind fun _ s2 => .ok () s2.retire

/-! ### Waiting for a word (R210, R51) -/

/-- Where a thread's word lies: its local-store home. -/
def State.wordHome (s : State) (va : Word) : Nat :=
  match s.place s.cur.core va with
  | .ls n off _ => lsHome n (wordOf off)
  | _ => 0

/-- The issuing thread waits on a word that it has just read in the same bank operation; before is the state before that read. It keeps an earlier
place on that word (R165, R225, R228); a refused wait leaves nothing of the read (R168, R363). Where an RDR sent the read to translated space, it waits on
the word that sent it there. DESIGN CHOICE: log entry 69. -/
def State.waitWord (s before : State) (va : Word) (onTag onWrite : Bool) (w : Nat → Await) : Await × State :=
  let c := s.cont
  let target := match c.redirect with
    | some r => if (s.place s.cur.core r) matches .ls _ _ _ then r else va
    | none => va
  let home := s.wordHome target
  let s1 := s.setCont { c with redirect := none, second := false, since := none }
  match before.waiters.find? (fun x => x.agent == s.myAgent && x.home == home && !x.table && !x.gate) with
  | some x => (w home, { s1 with waiters := insertWaiter x s1.waiters })
  | none =>
    let r := s1.enter s1.myAgent s1.cur.core (homeCore home) home onTag onWrite false (w home)
    match r.1 with
    | .refused h a =>
      let s2 := before.leave s.myAgent
      (r.1, (s2.setCont { s2.cont with redirect := none, second := false, since := none }).timer s.cur.core a (.remoteWaitRetry s.cur.core s.cur.slot))
    | _ => r

/-! ### Stage barrier words (R223 to R225) -/

/-- SBINIT: R223. -/
def execSbinit (b c : SReg) (s : State) : Out3 :=
  s.tagOp [b, c] [] b (fun s1 => .sbinit ((s1.rs c).extractLsb' 0 20) s1.me.cr.sbtag) (fun s2 _ => s2.doneS [b, c])

/-- SBARV: a fence, then the arrival (R224). step 1 means that the fence is over: an arrival that waits or is redirected does not fence again. -/
def execSbarv (d b : SReg) (sc : BitVec 3) (s : State) : Out3 :=
  ((s.memPorts [b] [d] [] [] [b] [] false false (fun s1 => [(0, accOp (s1.rs b) 8 .arrive)])).bind fun _ s1 =>
    (s1.precheck s1.myAgent s1.cur.core s1.myCtx s1.myAper (accOp (s1.rs b) 8 .arrive) 2).bind fun _ s2 =>
      (if s2.cont.step == 1 then .ok () s2
        else (s2.fenceWait sc.toNat).bind fun _ s3 => .ok () (s3.setCont { s3.cont with step := 1 }) : Res Unit).bind fun _ s3 =>
        (s3.ordinary (accOp (s3.rs b) 8 .arrive)).bind fun v s4 => .ok () (s4.setS [b] d (v.setWidth 64))).finish

/-- A word of a local store that an instruction may name: a translated address is an address fault (R214). -/
def State.lsWord (s : State) (va : Word) : Res Unit :=
  (s.precheck s.myAgent s.cur.core s.myCtx s.myAper (accOp va 8 .tagRead) 0).bind fun _ s1 => .ok () s1

/-- SBWAIT: R225. -/
def execSbwait (d b c : SReg) (s : State) : Out3 :=
  ((s.memPorts [b, c] [d] [] [] [b] [] false false (fun s1 => [(0, accOp (s1.rs b) 8 .tagRead)])).bind fun _ s1 =>
    (s1.lsWord (s1.rs b)).bind fun _ s2 =>
      let va := s2.rs b
      (s2.ordinary (accRead va 8)).bind fun v s3 =>
        let w : Word := v.setWidth 64
        if w.extractLsb' 40 24 != (s3.rs c).extractLsb' 0 24 then .ok () (s3.setS [b, c] d w)
        else
          let r := s3.waitWord s2 va false true .value
          .park r.1 r.2).finish

/-- SBTEST: R225. A WAIT action of the table is a table wait; on an unchanged phase it never parks. DESIGN CHOICE: log entry 69. -/
def execSbtest (d b c : SReg) (s : State) : Out3 :=
  ((s.memPorts [b, c] [d] [] [] [b] [] false false (fun s1 => [(0, accOp (s1.rs b) 8 .tagRead)])).bind fun _ s1 =>
    (s1.lsWord (s1.rs b)).bind fun _ s2 =>
      (s2.ordinary (accRead (s2.rs b) 8)).bind fun v s3 =>
        let w : Word := v.setWidth 64
        .ok () (s3.setS [b, c] d (b2w (w.extractLsb' 40 24 != (s3.rs c).extractLsb' 0 24)))).finish

/-! ### WAIT (R52, R53, R226) -/

/-- WAIT: step 1 means that it waits on the word's list; a change of the tag then completes it. DEDUCED: log entry 25. -/
def execWaitTag (b : SReg) (t : BitVec 3) (s : State) : Out3 :=
  ((s.memPorts [b] [] [] [] [b] [] false false (fun s1 => [(0, accOp (s1.rs b) 8 .tagRead)])).bind fun _ s1 =>
    if s1.cont.step == 1 then .ok () ((s1.unwait s1.cur).doneS [b])
    else
      let va := s1.rs b
      (s1.ordinary (accOp va 8 .tagRead)).bind fun v s2 =>
        if v != t.setWidth 512 then .ok () (s2.doneS [b])
        else
          let r := s2.waitWord s1 va true false .tag
          let queued := r.1 matches .tag _
          .park r.1 (r.2.setCont { r.2.cont with step := if queued then 1 else 0 })).finish

/-! ### FLUSHI (R212, R233) -/

/-- FLUSHI: it waits for the acknowledgement of every core of the scope; its range is kept with the parked instruction. -/
def execFlushi (b c : SReg) (sc : BitVec 3) (s : State) : Out3 :=
  ((s.ports [b, c] [] [] []).bind fun _ s1 =>
    if s1.cont.step == 1 || s1.rs c == 0 then .ok () (s1.doneS [b, c])
    else
      let k := s1.cont
      let s2 := s1.setCont { k with acc := [(s1.rs b).setWidth 512, (s1.rs c).setWidth 512, sc.setWidth 512] }
      .park .acks (s2.post (.flushiAcknowledgement s2.cur.core s2.cur.slot))).finish

/-- Lines of a context that overlap [base, base + len) leave a core's instruction cache. DEDUCED: log entry 30. -/
def Core.flush (c : Core) (ctx : BitVec 8) (base len : Nat) : Core :=
  { c with icache := c.icache.filter (fun l => !(l.ctx == ctx && decide (l.addr.toNat < base + len) && decide (base < l.addr.toNat + 64))) }

/-- The fetches of a context by the cores of a scope that are in progress on lines of [base, base + len) are void: their line is not installed when it
lands, and the fetch is made again (R233). -/
def State.voidFetches (s : State) (sc : BitVec 3) (core : Nat) (ctx : BitVec 8) (base len : Nat) : State :=
  let hit (r : Request) : Bool := r.fetch && decide (r.va.toNat < base + len) && decide (base < r.va.toNat + 64) &&
    (match r.agent.tid? with
      | some t => inScope sc core t.core && s.ctxOf t.core == ctx
      | none => false)
  let rs := s.requests.filter hit
  rs.foldl (fun s r => match r.agent.tid? with
    | some t => if (s.slot t).waitsFor (· == .reply r.tag) then s.wake t else s
    | none => s)
    { s with requests := s.requests.filter (fun r => !hit r), replies := s.replies.filter (fun p => !rs.any (fun r => r.tag == p.1)) }

/-- FLUSHI_ACKNOWLEDGEMENT: every core of the scope has discarded the lines; the issuer goes on. -/
def execFlushiAcknowledgement (core : Nat) (slot : BitVec 3) (s : State) : Out3 :=
  let t : Tid := ⟨core, slot⟩
  let x := s.slot t
  match x.cont with
  | some k =>
    if x.waitsFor (· == .acks) && k.step == 0 then
      let arg (i : Nat) : Nat := ((k.acc[i]?).getD 0).toNat
      let sc : BitVec 3 := BitVec.ofNat 3 (arg 2)
      let ctx := s.ctxOf core
      let s1 := ((s.cores.map (·.1)).filter (inScope sc core)).foldl (fun s n => s.setCore n ((s.core n).flush ctx (arg 0) (arg 1))) s
      let f : Flush := { num := s.seq, sc := sc, core := core, ctx := ctx, base := arg 0, len := arg 1 }
      let s2 := { s1 with seq := s.seq + 1, flushes := s1.flushes ++ [f] }.voidFetches sc core ctx (arg 0) (arg 1)
      .next ((s2.setSlot t { s2.slot t with cont := some { k with step := 1 } }).wake t)
    else .next s
  | none => .next s

end Sys2Proof.Machine
end

