-- ==== Sys2Proof/Machine/Task.lean ====
section
/-!
DEFINITION. Threads and their gang: EXIT, RETS, SPAWN, JOIN, STEAL, DQLEN, PCON, tile stamps, and the end of a gang (03 R43 to R56;
09 R145, R146; 14 R227 to R232; 19 R306, R307; 26 R373).
-/

namespace Sys2Proof.Machine

/-! ### Tile stamps (R306, R307, R373) -/

/-- Whether the launch of a thread enables stamps. -/
def State.stampsOn (s : State) (t : Tid) : Bool := ((s.gangLaunch (s.slot t).gang).map Launch.stamps).getD false

/-- The number of a 64-byte record's words, word 0 lowest. -/
def recordOf (ws : List Word) : Nat := ws.foldr (fun w n => n * 2 ^ 64 + w.toNat) 0

/-- Writes a closed stamp to the launch's ring: an atomic claim of an index at its home, then the record (R373). -/
def State.stampPut (s : State) (t : Tid) (r : Vector Word 8) : Res Unit :=
  let ag : Agent := .stamp t
  let ctx := s.ctxOf t.core
  let ring := ((s.gangLaunch (s.slot t).gang).map (fun l => l.packet[11])).getD 0
  (s.uLoad ag ctx ring 8).bind fun base s1 => (s1.uLoad ag ctx (ring + 8) 8).bind fun size s2 =>
    if ring.toNat % 64 ≠ 0 || base % 64 ≠ 0 || size % 32 = 0 || 24 < size % 32 then .done s2
    else
      (s2.uAccess ag ctx (accOp (ring + 16) 8 (.addWord 1))).bind fun i s3 =>
        s3.uStore ag ctx (BitVec.ofNat 64 (base + 64 * (i % 2 ^ (size % 32)))) 64 (recordOf r.toList)

/-- Writes the closed stamps of a thread, the oldest first; one whose claim or write fails is dropped (R373): fuel bounds them. An EXIT that waits for them
goes on. DEDUCED: log entry 44. -/
def State.stampWork (s : State) (t : Tid) : (fuel : Nat) → State
  | 0 => s
  | k + 1 =>
    match (s.slot t).stamps with
    | [] => s
    | r :: _ =>
      match s.stampPut t r with
      | .park _ s1 => s1
      | .ok _ s1 | .trap _ s1 | .done s1 =>
        let s2 := s1.unitEnd (.stamp t)
        let x := s2.slot t
        ((s2.setSlot t { x with stamps := x.stamps.drop 1 }).wakeOuts t).stampWork t k

/-- Whether a stamp of a thread has an index, or waits for an answer. -/
def State.stampBusy (s : State) (t : Tid) : Bool :=
  s.requests.any (fun r => r.agent == .stamp t) || s.made.any (fun m => m.agent == .stamp t && m.acc.op != .read)

/-- Closes a thread's open stamp: UNIT and SLOT name where it closes. -/
def State.stampClose (s : State) (t : Tid) : State :=
  let x := s.slot t
  match x.stamp with
  | none => s
  | some r =>
    let w1 : Word := (r[1] &&& 0x0F000000) ||| (zx t.slot <<< 16) ||| BitVec.ofNat 64 t.core
    let r1 := (r.set 1 w1).set 7 (s.core t.core).cyc
    let s1 := s.setSlot t { x with stamp := none, stamps := x.stamps ++ [r1] }
    s1.stampWork t (s1.slot t).stamps.length

/-! ### The end of a gang (R45) -/

/-- Passes the matrix grant of a core on: the scale FIFO is discarded and the next slot in order takes the grant (R258, R266). -/
def State.releaseGrant (s : State) (n : Nat) : State :=
  let c := s.core n
  match c.grantq with
  | [] => s.setCore n { c with grant := none, fifo := [] }
  | k :: ks => (s.setCore n { c with grant := some k, grantq := ks, fifo := [] }).wake ⟨n, k⟩

/-- Releases the claims that a thread holds on queues of its quad (R232). -/
def State.releaseClaims (s : State) (t : Tid) : State :=
  [0, 1, 2, 3].foldl (fun s m =>
    slotNums.foldl (fun s k =>
      let u : Tid := ⟨4 * quadOf t.core + m, k⟩
      let x := s.slot u
      if x.port.sclaim == some t || x.port.vclaim == some t then
        s.setSlot u { x with port := { x.port with
          sclaim := if x.port.sclaim == some t then none else x.port.sclaim
          vclaim := if x.port.vclaim == some t then none else x.port.vclaim } }
      else s) s) s

/-- Wakes the producers that wait for room in a queue of thread t: t is EMPTY now, and their push meets that (R232). -/
def State.wakeProducers (s : State) (t : Tid) : State :=
  [0, 1, 2, 3].foldl (fun s m =>
    slotNums.foldl (fun s k =>
      let u : Tid := ⟨4 * quadOf t.core + m, k⟩
      let x := s.slot u
      if x.waitsFor (fun w => w == .portDown || w == .vportDown) && s.portTarget u == t then s.wake u else s) s) s

/-- Frees one core of a gang: its slots, its regions, and the core when no other gang is on it. -/
def State.freePlace (s : State) (g : Nat) (p : GangCore) : State :=
  let c := s.core p.core
  let held := match c.grant with
    | some k => p.slots.contains k
    | none => false
  let s0 := s.setCore p.core { c with grantq := c.grantq.filter (fun k => !p.slots.contains k) }
  let s1 := if held then s0.releaseGrant p.core else s0
  let s2 := p.slots.foldl (fun s k => (s.releaseClaims ⟨p.core, k⟩).setSlot ⟨p.core, k⟩ Slot.zero) s1
  let c2 := s2.core p.core
  let alloc := c2.alloc.filter (fun r => r.2 != g)
  State.wakeOrder (n := p.core) <| s2.setCore p.core { c2 with
    alloc := alloc, ctx := if alloc.isEmpty then none else c2.ctx, prev := if alloc.isEmpty then c2.ctx else c2.prev
    copies := c2.copies.filter (·.gang != g)
    demands := c2.demands.filter (fun d => match d.by_.owner? with
      | some u => !(u.core == p.core && p.slots.contains u.slot)
      | none => true) }

/-- A gang ends: slots and regions are released, deques and port queues discarded; its launch may be complete (R45, R315). -/
def State.endGang (s : State) (id : Nat) : State :=
  match s.gang id with
  | none => s
  | some g =>
    let ws := s.waiters.filter (fun w => match w.agent.owner? with
      | some u => !g.tids.contains u
      | none => true)
    let gone (a : Agent) : Bool := (a.owner?.map g.tids.contains).getD false
    let s1 := g.places.foldl (fun s p => s.freePlace id p) ({ s with waiters := ws }.dropRequests gone)
    let s2 : State := { s1 with
      gangs := s1.gangs.filter (·.id != id)
      owed := s1.owed.filter (fun p => !g.tids.contains p.2.1)
      chans := s1.chans.map (fun (c : Chan) => if c.sc.toNat ≤ 3 && c.owner == id then { c with sent := true } else c)
      dumps := s1.dumps.filter (fun p => p.gang != id) }
    ((s2.exitRounds (s.launch g.launch)).post (.launchCompletion g.launch)).post .gangPlacement

/-- Whether no thread of a gang is left. -/
def State.gangOver (s : State) (id : Nat) : Bool :=
  match s.gang id with
  | none => false
  | some g => g.image.isNone && g.tids.all (fun t => !s.live id t)

/-! ### EXIT (R145) -/

/-- All pending blocks of a thread's blanks, oldest blank first. -/
def Slot.allBlocks (x : Slot) (k : BitVec 3) : List (BitVec 3 × Nat × Nat) := x.blanks.flatMap (fun b => b.pend.map (fun n => (k, b.seq, n)))

/-- The slot of a thread becomes EMPTY. A late trap that is still pending then is dropped with the thread's other state. DESIGN CHOICE: log entry 29. -/
def State.leaveSlot (s : State) (t : Tid) : State :=
  let s1 := s.settle (.thread t)
  let x := s1.slot t
  let lin := ((s1.gang x.gang).map (·.linear)).getD 0
  let s2 := s1.traceIssue t 8 1 x.pc (BitVec.ofNat 64 lin)
  let c := s2.core t.core
  let s3 := if c.grant == some t.slot then s2.releaseGrant t.core else s2
  let y := s3.slot t
  let s4 := s3.setSlot t { y with st := .empty, await := .none, cont := none, blanks := [], lates := [], notice := 0, mode := false }
  let s5 := ((s4.releaseClaims t).wakeProducers t).exitRounds (s.gangLaunch x.gang)
  if s5.gangOver x.gang then s5.endGang x.gang else s5

/-- EXIT: R145. DEDUCED: log entry 29. -/
def execExit (s : State) : Out3 :=
  ((s.demand s.myAgent s.cur.core (s.me.allBlocks s.cur.slot)).bind fun _ s1 =>
    if s1.copying s1.cur then .park .copies s1
    else (s1.fenceWait 6).bind fun _ s2 =>
      let s3 := s2.stampClose s2.cur
      if s3.me.stamps.isEmpty then .ok () (s3.leaveSlot s3.cur) else .park .outs s3).finish

/-! ### Frames, SPAWN, RETS, JOIN (R46 to R51) -/

/-- The frame address check (R47): alignment, then the quad window. -/
def State.frameCheck (s : State) (f : Word) : Res Unit :=
  if f.toNat % 8 ≠ 0 then .trap (trapOf 5 0 f) s
  else if f.toNat < 0x100000 ∨ 0x1FFFFF < f.toNat then .trap (trapOf 6 0 f) s
  else (s.precheck s.myAgent s.cur.core s.myCtx s.myAper (accOp f 8 (.addWord 0)) 2).bind fun _ s1 => .ok () s1

/-- A push to a deque of a gang wakes the cores of the quad (R60) and the thieves of the gang there (R50). -/
def State.wakeThieves (s : State) (core g : Nat) : State :=
  [0, 1, 2, 3].foldl (fun s m =>
    slotNums.foldl (fun s k =>
      let u : Tid := ⟨4 * quadOf core + m, k⟩
      let x := s.slot u
      let steals := match x.await with
        | .steal _ _ => true
        | _ => false
      if x.gang == g && x.waitsFor (fun _ => steals) then s.wake u else s)
      (if s.coreExists (4 * quadOf core + m) then s.rouse (4 * quadOf core + m) else s)) s

/-- Adds to the join word. -/
def State.joinAdd (s : State) (f k : Word) : Res Unit :=
  (s.ordinary (accOp f 8 (.addWord k))).bind fun _ s1 => .ok () s1

/-- The same, for an instruction that also reads or writes the window stack: what that access would meet is met first, once the join word would be
added to, so that an instruction that traps or parks there has added nothing and issues again (R49, R340). -/
def State.joinAfter (s : State) (f k : Word) (check : State → Res Unit) : Res Unit :=
  match s.joinAdd f k with
  | .ok _ _ => (check s).bind fun _ s1 => s1.joinAdd f k
  | r => r

/-- SPAWN: R48, R227. -/
def execSpawn (b : SReg) (off : BitVec 27) (s : State) : Out3 :=
  (if s.inTrapFrame then .trap s.illegal s
  else
    (s.portsAfter [b] [] [] [] (fun s1 => if s1.me.spillBlocked then .trap (windowTrap s1.me 1) s1 else .ok () s1)).bind fun _ s1 =>
      let f := s1.rs b
      (s1.frameCheck f).bind fun _ s2 =>
        if s2.me.spillBlocked then .trap (windowTrap s2.me 1) s2
        else
          (s2.joinAfter f 1 State.frameCheckSpill).bind fun _ s3 =>
            let x := s3.me
            let full := decide (16 ≤ x.deque.length)
            let link : Word := if full then s3.npc else s3.npc ||| 1
            let s4 := if full then s3 else (s3.setMe { x with deque := x.deque ++ [(s3.npc, f)] }).wakeThieves s3.cur.core x.gang
            .ok () (((s4.frameSpill.pops [b] []).setRegs (fun r => r.callMove link)).jump (branchTarget s4.me.pc off))).finish

/-- RETS: R49, R146. step 1 means that the thread's relaxed accesses are performed at quad scope. -/
def execRets (f : SReg) (s : State) : Out3 :=
  (if s.inTrapFrame then .trap s.illegal s
  else
    let link := s.rs 15
    let stolen (s : State) : Bool := link.getLsbD 0 && s.me.deque.isEmpty
    (s.portsAfter [f] [] [] [] (fun s1 => if !stolen s1 && s1.me.fillBlocked then .trap (windowTrap s1.me 2) s1 else .ok () s1)).bind fun _ s1 =>
      let a := s1.rs f
      (s1.frameCheck a).bind fun _ s2 =>
        if !stolen s2 && s2.me.fillBlocked then .trap (windowTrap s2.me 2) s2
        else
          (if s2.cont.step == 1 then .ok () s2
            else (s2.fenceWait 2).bind fun _ s3 => .ok () (s3.setCont { s3.cont with step := 1 }) : Res Unit).bind fun _ s3 =>
            (s3.joinAfter a (-1) (fun s => if stolen s then .ok () s else s.retCheck)).bind fun _ s4 =>
              let ret (s : State) (t : Word) : Res Unit := .ok () (((s.retWords.pops [f] []).setRegs Regs.retMove).jump t)
              let x := s4.me
              if !link.getLsbD 0 then ret s4 link
              else
                match x.deque.getLast? with
                | some r => ret (s4.setMe { x with deque := x.deque.dropLast }) r.1
                | none =>
                  let s5 := s4.pops [f] []
                  let y := s5.me
                  let s6 := s5.setMe (y.freshRing 0)
                  if y.cr.wloop == 0 then .done ((s6.setMe { s6.me with cont := none }).takeTrap s6.cur (trapOf 10 0 0) 0 y.pc true false)
                  else .ok () (s6.jump (y.cr.wloop ++ (0 : BitVec 1)))).finish

/-- JOIN: R51, R228. -/
def execJoinWord (b : SReg) (s : State) : Out3 :=
  ((s.ports [b] [] [] []).bind fun _ s1 =>
    let f := s1.rs b
    (s1.frameCheck f).bind fun _ s2 =>
      (s2.ordinary (accRead f 8)).bind fun v s3 =>
        if v == 0 then .ok () (s3.doneS [b])
        else
          let r := s3.waitWord s2 f false true .join
          .park r.1 r.2).finish

/-! ### STEAL, DQLEN (R50, R229, R230) -/

/-- The slots that a thief searches, in order. -/
def stealOrder (t : Tid) : List Tid :=
  let m := t.core % 4
  ([1, 2, 3, 4, 5, 6, 7].map (fun (i : BitVec 3) => (⟨t.core, t.slot + i⟩ : Tid))) ++
  [1, 2, 3].flatMap (fun k => slotNums.map (fun j => (⟨4 * quadOf t.core + (m + k) % 4, j⟩ : Tid)))

/-- What outstanding relaxed accesses would still write to the receive bank of a frame that is discarded is lost with it (R50, R174); an AFADD still
raises its flags (R93, R189). -/
def Slot.dropReceive (x : Slot) : Slot :=
  let lo := 16 * x.regs.cur.toNat
  let gone : RegLoc → Bool
    | .ring i => decide (lo ≤ i) && decide (i < lo + 8)
    | _ => false
  { x with outs := x.outs.map (fun o => match o.dest with
      | .scalar l _ _ => if gone l then { o with dest := .none } else o
      | .fadd l => if gone l then { o with dest := .fadd .zero } else o
      | _ => o) }

/-- STEAL: R229. DEDUCED: log entry 18. -/
def execSteal (d b : SReg) (t : BitVec 3) (s : State) : Out3 :=
  (if s.inTrapFrame then .trap s.illegal s
  else
    (s.memPorts [b] [d] [] [] [b] [] false false (fun s1 => if b == 0 then [] else [(0, accOp (s1.rs b) 8 .tagRead)])).bind fun _ s1 =>
      (if b == 0 then .ok () s1 else s1.lsWord (s1.rs b)).bind fun _ s2 =>
        let g := s2.me.gang
        match (stealOrder s2.cur).find? (fun u => (s2.slot u).gang == g && !(s2.slot u).deque.isEmpty) with
        | some u =>
          let y := s2.slot u
          let r := y.deque.headD (0, 0)
          let s3 := ((s2.unwait s2.cur).setSlot u { y with deque := y.deque.tail }).pops [b] []
          let x := s3.me
          let s4 := s3.setMe (x.dropReceive.freshRing r.2)
          .ok () ((s4.trace 2 0 x.pc r.1).goto r.1)
        | none =>
          if b == 0 then .park (.steal none none) s2
          else
            let va := s2.rs b
            (s2.ordinary (accOp va 8 .tagRead)).bind fun v s3 =>
              if v != t.setWidth 512 then .ok () (s3.setS [b] d 0)
              else
                let r := s3.waitWord s2 va true false (fun h => .steal (some h) none)
                let w := match r.1 with
                  | .refused h n => Await.steal (some h) (some n)
                  | w => w
                .park w r.2).finish

/-- DQLEN: R230. -/
def execDqlen (d : SReg) (s : State) : Out3 := s.scalar [] d (fun s1 => BitVec.ofNat 64 s1.me.deque.length)

/-! ### PCON (R231, R232) -/

/-- Whether the target of a PCON is a slot of the issuing thread's gang in its quad. -/
def State.pconTarget (s : State) (v : Word) : Option Tid :=
  let u : Tid := ⟨4 * quadOf s.cur.core + (v.extractLsb' 3 2).toNat, v.extractLsb' 0 3⟩
  if v.extractLsb' 5 59 != 0 then none
  else
    match s.gang s.me.gang with
    | some g => if g.tids.contains u then some u else none
    | none => none

/-- PCON: the cases are tested in the order 3, 1, 2 (R232). sT is read whatever DN is, and ignored when it is 0. DESIGN CHOICE: log entry 68. -/
def execPcon (b : SReg) (fl : BitVec 4) (s : State) : Out3 :=
  ((s.ports [b] [] [] []).bind fun _ s1 =>
    let dn := fl.getLsbD 0
    let vp := fl.getLsbD 3
    let v := s1.rs b
    let me := s1.cur
    let other (c : Option Tid) : Bool := c.isSome && c != some me
    if fl.getLsbD 2 && !vp then .trap (trapOf 12 3 0) s1
    else if dn && (s1.pconTarget v).isNone then .trap (trapOf 12 1 0) s1
    else
      let u := (s1.pconTarget v).getD me
      let p := (s1.slot u).port
      if dn && (other p.sclaim || (vp && other p.vclaim)) then .trap (trapOf 12 2 0) s1
      else
        let s2 := (s1.pops [b] []).releaseClaims me
        let y := s2.slot u
        let s3 := if dn then s2.setSlot u { y with port := { y.port with sclaim := some me, vclaim := if vp then some me else y.port.vclaim } } else s2
        let x := s3.me
        .ok () (s3.setMe { x with port := { x.port with
          dn := dn, su := fl.getLsbD 1, vu := fl.getLsbD 2, vp := vp, target := if dn then v.extractLsb' 0 5 else x.port.target } }).retire).finish

/-! ### STAMP, TRMARK (R307, R308) -/

/-- STAMP #k: R307. -/
def execStamp (k : BitVec 2) (s : State) : Out3 :=
  let x := s.me
  match x.stamp with
  | some r =>
    if s.stampsOn s.cur then
      let r1 := (r.set 1 (r[1] ||| ((1 : Word) <<< (24 + k.toNat)))).setIfInBounds (3 + k.toNat) s.myCore.cyc
      .next (s.setMe { x with stamp := some r1 }).retire
    else .next s.retire
  | none => .next s.retire

/-- STAMP.close: R307. -/
def execStampClose (s : State) : Out3 := .next (if s.stampsOn s.cur then s.stampClose s.cur else s).retire

/-- STAMP.open: R307. -/
def execStampOpen (b : SReg) (s : State) : Out3 :=
  ((s.ports [b] [] [] []).bind fun _ s1 =>
    let v := s1.rs b
    let s2 :=
      if s1.stampsOn s1.cur then
        let s3 := s1.stampClose s1.cur
        s3.setMe { s3.me with stamp := some (((Vector.replicate 8 (0 : Word)).set 0 v).set 2 s3.myCore.cyc) }
      else s1
    .ok () (s2.doneS [b])).finish

/-- TRMARK: R308. -/
def execTrmark (b : SReg) (code : BitVec 6) (s : State) : Out3 :=
  ((s.ports [b] [] [] []).bind fun _ s1 => .ok () ((s1.trace 5 code.toNat s1.me.pc (s1.rs b)).doneS [b])).finish

end Sys2Proof.Machine
end

