-- ==== Sys2Proof/Machine/Matrix.lean ====
section
/-!
DEFINITION. Majors 0x28 to 0x2B: the matrix grant, the grid, block scales, layout conversions, descriptors (17 R258 to R276).
-/

namespace Sys2Proof.Machine

/-! ### Checks before the port fault -/

/-- The first of a list of checks that fails. -/
def firstTrap : List (Option TrapInfo) → Option TrapInfo
  | [] => none
  | some i :: _ => some i
  | none :: cs => firstTrap cs

/-- A check of an instruction, with the scalar registers that it needs. -/
abbrev Check : Type := List SReg × Option TrapInfo

/-- The first check that fails of those whose registers can be read: what a port does not give cannot be checked (R338). -/
def State.firstFailing (s : State) (cs : List Check) : Option TrapInfo :=
  firstTrap (cs.map (fun c => if s.me.readable c.1 [] then c.2 else none))

/-- The ports of an instruction whose other checks stand above the port fault (R338). -/
def State.checkedPorts (s : State) (srcs dsts : List SReg) (checks : State → List Check) : Res Unit :=
  match s.ports srcs dsts [] [] with
  | .trap i s1 => .trap ((s1.firstFailing (checks s1)).getD i) s1
  | .ok _ s1 =>
    (match s1.firstFailing (checks s1) with
    | some i => .trap i s1
    | none => .ok () s1)
  | r => r

/-! ### Operands in the own local store (R267) -/

/-- The offset in the own local store that an address names: an own-LS, quad-window or aperture address of the issuing core. -/
def State.ownOff (s : State) (va : Word) : Option Nat :=
  match s.place s.cur.core va with
  | .ls n off _ => if n == s.cur.core then some off else none
  | _ => none

/-- Address fault of n bytes from an address: the first address outside the own local store. -/
def State.ownAddress (s : State) (va : Word) (n : Nat) : Option TrapInfo :=
  if n = 0 then none
  else
    match s.ownOff va with
    | none => some (trapOf 6 0 va)
    | some off => if 0x40000 < off + n then some (trapOf 6 0 (va + BitVec.ofNat 64 (0x40000 - off))) else none

/-- Protection trap of n bytes from an offset that lies in the own local store, at most its 64 pages (R152). DESIGN CHOICE: log entry 21. -/
def State.ownProtection (s : State) (va : Word) (n : Nat) : Option TrapInfo :=
  if n = 0 then none
  else
    match s.ownOff va with
    | none => none
    | some off =>
      let k0 := off / 0x1000
      match (List.range (min 64 ((off + n - 1) / 0x1000 - k0 + 1))).find? (fun j => !s.allocated s.cur.core ((k0 + j) * 0x1000) s.myCtx) with
      | some j => some (trapOf 7 0 (if j = 0 then va else va + BitVec.ofNat 64 ((k0 + j) * 0x1000 - off)))
      | none => none

def alignTrap (va : Word) (n : Nat) : Option TrapInfo := if va.toNat % n ≠ 0 then some (trapOf 5 0 va) else none

/-! ### What path M has read ahead (R204 to R206; log entry 11) -/

/-- Word k of a line replaced. -/
def setLineWord (l : Line) (k : Nat) (w : Word) : Line :=
  (l &&& ~~~((BitVec.allOnes 64).setWidth 512 <<< (64 * k))) ||| (w.setWidth 512 <<< (64 * k))

/-- A line at an offset of a core's local store as a path-M read returns it: of a word that has been read ahead, the copy. -/
def Core.staged (c : Core) (off : Nat) (l : Line) : Line :=
  (List.range 8).foldl (fun l k => match SMap.find c.staging (off + 8 * k) with
    | some w => setLineWord l k w
    | none => l) l

/-- A path-M write of a core discards what it has read ahead of the words written (R264). -/
def State.unstage (s : State) (n off : Nat) (be : BitVec 64) : State :=
  let c := s.core n
  if c.staging.isEmpty then s
  else s.setCore n { c with staging := c.staging.filter (fun p => p.1 / 64 != off / 64 || (be >>> (p.1 / 8 % 8 * 8)).toNat % 256 == 0) }

/-- Path M of a core reads words ahead: which, no rule says. -/
def State.readAhead (s : State) (n : Nat) : State :=
  let c := s.core n
  let ws := ((Config.readAhead s.seq).map wordOf).filter (fun o => decide (o < 0x40000))
  { s.setCore n { c with staging := ws.foldl (fun m o => SMap.put m o (Memory.word s.mem (lsHome n o))) c.staging } with seq := s.seq + 1 }

/-! ### Lines that an abandonment puts back (R293) -/

/-- The line at an offset of a core's local store, before a write of some of its bytes. -/
def State.lineSnap (s : State) (n off : Nat) (be : BitVec 64) : LineSnap :=
  { off := off, be := be, line := Memory.line s.mem (lsHome n off), tags := (List.range 8).map (fun k => s.tag (lsHome n (off + 8 * k)))
    poison := ((List.range 8).map (fun k => off + 8 * k)).filter (fun o => s.poison.contains (lsHome n o)) }

/-- Puts the bytes written, and the tags and the poison of their words, back as they were. -/
def State.putBack (s : State) (n : Nat) (p : LineSnap) : State :=
  let s1 := s.writeBytes (lsHome n p.off) p.line.toNat p.be.toNat 64
  let s2 := ((List.range 8).filter (fun k => (p.be >>> (8 * k)).toNat % 256 != 0)).foldl (fun s k =>
    s.setTag (lsHome n (p.off + 8 * k)) ((p.tags[k]?).getD 0)) s1
  { s2 with poison := p.poison.foldl (fun l o => NSet.add l (lsHome n o)) s2.poison }.wakeRange (lsHome n p.off) (lsHome n p.off + 64)

/-! ### Path-M accesses of an instruction (R264) -/

/-- The line accesses that n bytes from an offset take; va is the address of the first byte. An access enables, and evaluates, only the words that the
instruction names, though the engine moves the whole line (R264). DESIGN CHOICE: log entry 63. -/
def lineAccs (va : Word) (off n : Nat) (op : Nat → WordOp) : List (Nat × Acc) :=
  (List.range ((off + n - 1) / 64 - off / 64 + 1)).map (fun k =>
    let l := 64 * (off / 64 + k)
    let lo := max off l
    let hi := min (off + n) (l + 64)
    (l, { va := va + BitVec.ofNat 64 l - BitVec.ofNat 64 off, size := 64, be := BitVec.ofNat 64 ((2 ^ (hi - lo) - 1) * 2 ^ (lo - l)), op := op k }))

/-- The line accesses that write the number v in n bytes from an offset. -/
def lineWrites (va : Word) (off n v : Nat) : List (Nat × Acc) :=
  lineAccs va off n (fun k => .write (BitVec.ofNat 512 (v * 2 ^ (8 * (off % 64)) / 2 ^ (512 * k))))

/-- The number that n bytes from an offset hold, from the lines read. -/
def lineValue (off n : Nat) (ls : List Line) : Nat :=
  ls.foldr (fun l v => v * 2 ^ 512 + l.toNat) 0 / 2 ^ (8 * (off % 64)) % 2 ^ (8 * n)

/-- One path-M access of the issuing thread: an engine access of 64 bytes (R164, R264). -/
def State.pathM (s : State) (off : Nat) (a : Acc) : Res Line :=
  (s.lsPerform s.myAgent s.cur.core (lsHome s.cur.core off) a true false).bind fun v s1 =>
    if a.op.writes then .ok v (s1.unstage s1.cur.core off a.be) else .ok (s1.myCore.staged off v) s1

/-- Path-M reads in order. Waiters that one has made due are evaluated before the next (R166). -/
def State.pathSeq (s : State) : List (Nat × Acc) → Res Unit
  | [] => .ok () s
  | p :: ps =>
    match s.pathM p.1 p.2 with
    | .ok v s1 => if s1.wakesDue && !ps.isEmpty then (s1.elemDone v).pause else (s1.elemDone v).pathSeq ps
    | .trap i s1 => .trap i s1
    | .park w s1 => .park w s1
    | .done s1 => .done s1

/-- What every path-M write of a chunk meets before any of them is made: its holds and its evaluation (R264, R273). -/
def State.chunkJudge (s : State) : List (Nat × Acc) → Res Unit
  | [] => .ok () s
  | p :: ps =>
    let n := s.cur.core
    (s.lsHold s.myAgent n (lsHome n p.1) p.2 true).bind fun _ s1 =>
      (s1.judge s1.myAgent n n p.1 7 p.2 false).bind fun _ s2 => s2.chunkJudge ps

/-- Poison and watchpoints of every write of a chunk, before any of them is made. -/
def State.chunkAdmit (s : State) : List (Nat × Acc) → Res Unit
  | [] => .ok () s
  | p :: ps => (s.letIn s.myAgent s.cur.core p.1 7 p.2).bind fun _ s1 => s1.chunkAdmit ps

/-- The path-M writes of a chunk, in order, once none of them waits or fails: a fault leaves the whole chunk unwritten (R273). DEDUCED: log entry 74. -/
def State.chunkWrites (s : State) (ps : List (Nat × Acc)) : Res Unit :=
  (s.chunkJudge ps).bind fun _ s1 => (s1.chunkAdmit ps).bind fun _ s2 =>
    .ok () (ps.foldl (fun s p => (s.enact s.myAgent s.cur.core p.1 7 p.2).2.unstage s.cur.core p.1 p.2.be) s2)

/-! ### The grant (R258, R266) -/

/-- MODE_M: takes the matrix grant, or waits for it in order. -/
def execModeM (s : State) : Out3 :=
  let x := s.me
  let c := s.myCore
  let k := s.cur.slot
  if x.mode then .next s.retire
  else if c.grant == some k then .next (s.setMe { x with mode := true }).retire
  else if c.grant.isNone && c.grantq.isEmpty then
    let s1 := s.setCore s.cur.core { c with grant := some k }
    .next (s1.setMe { s1.me with mode := true }).retire
  else
    let s1 := if c.grantq.contains k then s else s.setCore s.cur.core { c with grantq := c.grantq ++ [k] }
    .next (s1.park .grant)

/-- MODE_V: discards the scale FIFO and releases the grant. -/
def execModeV (s : State) : Out3 :=
  let x := s.me
  if x.mode then .next ((s.setMe { x with mode := false }).releaseGrant s.cur.core).retire else .next s.retire

/-- Writes the accumulator rows. -/
def State.setAcc (s : State) (rows : List Line) : State :=
  let x := s.me
  let v := rows.zipIdx.foldl (fun (v : Vector Line 32) p => v.setIfInBounds (16 + p.2) p.1) x.regs.vec
  s.setMe { x with regs := { x.regs with vec := v } }

/-- The accumulator rows. -/
def Slot.accRows (x : Slot) : List Line := (List.range 16).map (fun i => x.regs.vec[16 + i]?.getD 0)

/-- MZERO: R266, in either mode. -/
def execMzero (s : State) : Out3 := .next (s.setAcc (List.replicate 16 0)).retire

/-- A mode fault in vector mode (R259). -/
def modeFault : TrapInfo := trapOf 3 0 0

/-- A residue word shifted right by n with ties to even, as an INT32 value (R71, R274). -/
def resShift (r15 : Bool) (n b : Nat) : Nat :=
  let x := resInt r15 b
  let r := roundAt .rne (decide (x < 0)) x.natAbs (-(n : Int)) 0
  ofInt 32 (if x < 0 then -(r.1 : Int) else r.1)

/-- MRNSOUT (R274). -/
def State.mrnsout (s : State) (r15 : Bool) (n : Nat) : Out3 :=
  if !s.me.mode then .next (s.precise modeFault)
  else
    .next (s.setAcc (s.me.accRows.map (fun v => packElems 32 ((List.range 16).map (fun j => resShift r15 n (elem 32 v j)))))).retire

/-- MRNSOUT_RES30: R274. -/
def execMrnsoutRes30 (n : BitVec 5) (s : State) : Out3 := s.mrnsout false n.toNat

/-- MRNSOUT_RES15: R274. -/
def execMrnsoutRes15 (n : BitVec 5) (s : State) : Out3 := s.mrnsout true n.toNat

/-! ### MMA and MMAS (R267 to R270) -/

/-- Whether a pairing is one that MMA, or MMAS, accepts (R79, R80). -/
def pairingOk (scaled : Bool) (fa fb : BitVec 4) : Bool :=
  match accKind fa fb with
  | some .fp32 => true
  | some _ => !scaled
  | none => false

/-- Bytes of a stripe of K elements. -/
def stripeBytes (f : BitVec 4) (k : Nat) : Nat := k / 32 * (fmtPlanes f * 64)

/-- The operand limits that stand above the port fault (R267). Of two that fail in one class the first here is reported (DESIGN CHOICE: log entry 87). -/
def State.mmaChecks (s : State) (scaled : Bool) (k b c : SReg) (fa fb : BitVec 4) : List Check :=
  let n := (s.rs k).toNat
  let na := stripeBytes fa n
  let nb := stripeBytes fb n
  [([k], if n < 32 ∨ 65536 < n ∨ n % 32 ≠ 0 then some (trapOf 4 2 (s.rs k)) else none),
   ([], if pairingOk scaled fa fb then none else some (trapOf 4 1 ((0 : BitVec 56) ++ fa ++ fb))),
   ([b], alignTrap (s.rs b) 64), ([c], alignTrap (s.rs c) 64),
   ([k, b], s.ownAddress (s.rs b) na), ([k, c], s.ownAddress (s.rs c) nb),
   ([k, b], s.ownProtection (s.rs b) na), ([k, c], s.ownProtection (s.rs c) nb)]

/-- Groups that the scale FIFO of a core holds. -/
def Core.fifoGroups (c : Core) : List (BitVec 256) := c.fifo.flatten

/-- MMA and MMAS at issue: the checks, then the thread is PARKED while the grid works (R259, R268). -/
def State.mma (s : State) (scaled : Bool) (k b c : SReg) (za : Bool) (fa fb : BitVec 4) : Out3 :=
  if !s.me.mode then .next (s.precise modeFault)
  else if (s.myCore.grid.map (·.slot)) == some s.cur.slot then .next (s.park .grid)
  else
    ((s.checkedPorts [k, b, c] [] (fun s1 => s1.mmaChecks scaled k b c fa fb)).bind fun _ s1 =>
      let x := s1.me
      let n := (s1.rs k).toNat
      if scaled && decide (s1.myCore.fifoGroups.length < n / 32) then .trap (trapOf 14 1 0) s1
      else
        let op : GridOp := {
          slot := s1.cur.slot, scaled := scaled, a := s1.rs b, b := s1.rs c, k := n, fa := fa, fb := fb
          acc := if za then List.replicate 16 0 else x.accRows
          nbv := x.cr.nbv, scla := x.cr.scla, sclb := x.cr.sclb, npc := s1.npc, pop := [k, b, c].contains 6, seq := s1.seq
          got := [], since := none }
        let s2 := s1.setCore s1.cur.core { s1.myCore with grid := some op }
        .park .grid ({ s2 with seq := s2.seq + 1 }.post (.gridOperationComplete s2.cur.core))).finish

/-- MMA in form M, formats from c.fmta and c.fmtb: R267, R268. -/
def execMma (k : SReg) (b : SReg) (c : SReg) (za : BitVec 1) (s : State) : Out3 :=
  s.mma false k b c (za == 1) s.me.cr.fmta s.me.cr.fmtb

/-- MMAS in form M: R267, R268. -/
def execMmas (k : SReg) (b : SReg) (c : SReg) (za : BitVec 1) (s : State) : Out3 :=
  s.mma true k b c (za == 1) s.me.cr.fmta s.me.cr.fmtb

/-- MMA in form W, with its formats: R267, R268. -/
def execMmaW (k : SReg) (b : SReg) (c : SReg) (za : BitVec 1) (fa : BitVec 4) (fb : BitVec 4) (s : State) : Out3 :=
  s.mma false k b c (za == 1) fa fb

/-- MMAS in form W: R267, R268. -/
def execMmasW (k : SReg) (b : SReg) (c : SReg) (za : BitVec 1) (fa : BitVec 4) (fb : BitVec 4) (s : State) : Out3 :=
  s.mma true k b c (za == 1) fa fb

/-- The read number i of a grid operation: of each chunk the planes of A, then those of B (R268): address and offset. -/
def State.gridRead (s : State) (op : GridOp) (core i : Nat) : Nat × Acc :=
  let na := fmtPlanes op.fa
  let nb := fmtPlanes op.fb
  let c := i / (na + nb)
  let r := i % (na + nb)
  let va := if r < na then op.a + BitVec.ofNat 64 (64 * (c * na + r)) else op.b + BitVec.ofNat 64 (64 * (c * nb + (r - na)))
  let off := match s.place core va with
    | .ls _ off _ => off
    | _ => 0
  (off, { va := va, size := 64, be := BitVec.allOnes 64, op := .read })

/-- The reads of a grid operation in order, from the one it has reached. They are an engine's: a watchpoint that one hits stops its domain and traps no
thread (R364, R367). Waiters that one has made due are evaluated before the next (R166). DEDUCED: log entry 64. -/
def State.gridReads (s : State) (core : Nat) : (fuel : Nat) → Res Unit
  | 0 => .ok () s
  | n + 1 =>
    match (s.core core).grid with
    | none => .ok () s
    | some op =>
      let p := s.gridRead op core op.got.length
      match s.lsPerform (.grid core) core (lsHome core p.1) p.2 true false with
      | .ok v s1 =>
        let c := s1.core core
        let s2 := s1.setCore core { c with grid := some { op with got := op.got ++ [c.staged p.1 v], since := none } }
        if s2.wakesDue && n != 0 then .park .rdr (s2.post (.gridOperationComplete core)) else s2.gridReads core n
      | .trap i s1 => .trap i s1
      | .park w s1 => .park w s1
      | .done s1 => .done s1

/-- Splits a list into pieces of n. -/
def pieces {α : Type} (n : Nat) : (count : Nat) → List α → List (List α)
  | 0, _ => []
  | k + 1, xs => xs.take n :: pieces n k (xs.drop n)

/-- ACC and the flags after a grid operation (R268); group c holds the scale bytes of chunk c. -/
def GridOp.result (op : GridOp) (kind : AccKind) (groups : List (BitVec 256)) : List (List FR) :=
  let na := fmtPlanes op.fa
  let nb := fmtPlanes op.fb
  let chunks := (pieces (na + nb) (op.k / 32) op.got).map (fun ls => (unplane (ls.take na), unplane (ls.drop na)))
  op.acc.zipIdx.map (fun (row : Line × Nat) =>
    (List.range 16).map (fun j =>
      chunks.zipIdx.foldl (fun (acc : FR) c =>
        let g := groups[c.2]?.getD 0
        let sa := if op.scaled then g.extractLsb' (8 * row.2) 8 else op.scla
        let sb := if op.scaled then g.extractLsb' (128 + 8 * j) 8 else op.sclb
        let ps := ((c.1.1[row.2]?).getD []).zip ((c.1.2[j]?).getD [])
        macChunk kind op.fa op.fb op.nbv sa sb acc ps) ⟨elem 32 row.1 j, 0⟩))

/-- Takes n groups from the front of the scale FIFO; whether the last group taken was the last of its feed record. -/
def takeGroups : (records : List (List (BitVec 256))) → Nat → List (List (BitVec 256)) × Bool
  | [], _ => ([], true)
  | r :: rs, n =>
    if n = 0 then (r :: rs, true)
    else if n < r.length then (r.drop n :: rs, false)
    else takeGroups rs (n - r.length)

/-- A thread that was PARKED for an operation completes its instruction and goes on at NEXT. -/
def State.complete (s : State) (t : Tid) (npc : Word) : State :=
  let x := s.slot t
  let x1 := { x with pc := npc, src := x.pc, cont := none, await := .none }
  s.setSlot t (match x.st with
    | .stopped => { x1 with heldSt := .ready }
    | _ => { x1 with st := .ready })

/-- A precise trap of a thread that an engine's access fails for. -/
def State.preciseOf (s : State) (t : Tid) (i : TrapInfo) : State := (s.unwait t).takeTrap t i (s.slot t).pc 0 false false

/-- The end of the grid operation of a core without a result. -/
def State.dropGrid (s : State) (core : Nat) : State :=
  let c := s.core core
  (s.setCore core { c with grid := none, lastBlock := false, demands := c.demands.filter (fun d => d.by_ != .grid core) }).leave (.grid core)

/-- Whether a parked instruction is a TST. -/
def Cont.isTst (c : Cont) : Bool :=
  c.head.extractLsb' 14 2 == 1 && c.head.extractLsb' 8 6 == 0x2D && c.head.extractLsb' 0 3 == 3

/-- Whether a TST has the grid of a core for one of its blocks (R285). -/
def Core.tstHolds (c : Core) : Bool :=
  match c.tst with
  | some k => ((c.slot k).cont.map Cont.isTst).getD false
  | none => false

/-- Whether a block evaluation has the grid of a core: it has read or written, or stalls, or is held for a token (R263, R290). DEDUCED: log entry 36. -/
def State.blockBusy (s : State) (core : Nat) : Bool :=
  (s.core core).demands.any (fun d => !d.failed && (d.stall.isSome || d.blocks.any (fun k => !k.got.isEmpty || k.made != 0))) ||
    s.held (.blocker core)

/-- Whether an MMA or MMAS has the grid of a core: it has read, or stalls, or is held for a token (R263). -/
def State.mmaBusy (s : State) (core : Nat) : Bool :=
  match (s.core core).grid with
  | some op => !op.got.isEmpty || op.since.isSome || s.held (.grid core)
  | none => false

/-- Whether an MMA or MMAS of a core waits for its turn on the grid: it has not begun, and none of its operands is being forced (R263). -/
def State.mmaWaits (s : State) (core : Nat) : Bool :=
  (s.core core).grid.isSome && !s.mmaBusy core && !(s.core core).demands.any (fun d => d.by_ == .grid core)

/-- What waits for the grid of a core goes on once an operation has ended or stands back (R263). -/
def State.gridFree (s : State) (core : Nat) : State :=
  let s1 := s.wakeCore core (· == .turn)
  let s2 := if (s1.core core).demands.any (fun d => !d.failed) then s1.post (.blockEvaluation core) else s1
  if (s2.core core).grid.isSome then s2.post (.gridOperationComplete core) else s2

/-- The end of a grid operation that has read its operands (R268, R269, R95). Where the gang of its thread has stopped for good, the accumulators are
written and nothing more happens (R344). -/
def State.gridDone (s : State) (core : Nat) (op : GridOp) : State :=
  let t : Tid := ⟨core, op.slot⟩
  let x := s.slot t
  let n := op.k / 32
  let c := s.core core
  let rows := op.result ((accKind op.fa op.fb).getD .fp32) (c.fifoGroups.take n)
  let fl := rows.foldl (fun fl r => r.foldl (fun fl c => fl ||| c.fl) fl) (0 : Flags)
  let tk := takeGroups c.fifo n
  let desync := op.scaled && !tk.2
  let s1 := s.setCore core { c with grid := none, lastBlock := false, fifo := if op.scaled then (if desync then [] else tk.1) else c.fifo }
  let vec := rows.zipIdx.foldl (fun (v : Vector Line 32) p => v.setIfInBounds (16 + p.2) (packElems 32 (p.1.map (·.bits)))) x.regs.vec
  let s2 := s1.setSlot t { x with regs := { x.regs with vec := vec }, cr := { x.cr with fflags := x.cr.fflags ||| fl } }
  if !x.waitsFor (· == .grid) then s2
  else
    let s3 := ((if op.pop then s2.popScalar t else s2).complete t op.npc).settle (.grid core)
    let late (i : TrapInfo) : State := s3.addLate t (lateOf op.seq i x.pc x.cr.intrap)
    if desync then late (trapOf 14 2 0)
    else if fl &&& x.cr.fen != 0 then late (trapOf 15 0 ((0 : BitVec 58) ++ fl))
    else s3

/-- The end of a grid operation whose access fails, with what waits for the grid. -/
def State.gridFail (s : State) (core : Nat) (t : Tid) (i : TrapInfo) : State :=
  let s1 := (s.dropGrid core).settle (.grid core)
  (if (s1.slot t).waitsFor (· == .grid) then s1.preciseOf t i else s1).gridFree core

/-- GRID_OPERATION_COMPLETE: the grid operation of a core reads its operands and, when it has them all, ends (R263 to R270). It waits while
a block evaluation is stalled on the grid and while it is a block's turn, and it fails when a stall has lasted 2^26 cycles (R167). One whose gang has
stopped for good completes unless it is stalled (R344). Without an operation, path M may read ahead for the thread that has the grant (R204). -/
def execGridOperationComplete (core : Nat) (s : State) : Out3 :=
  let c := s.core core
  match c.grid with
  | none => .next (if c.grant.isSome then s.readAhead core else s)
  | some op =>
    let t : Tid := ⟨core, op.slot⟩
    let dead := ((s.gang (s.slot t).gang).map (·.fatal.isSome)).getD false
    if !(s.slot t).waitsFor (· == .grid) && !(dead && op.since.isNone) then .next ((s.dropGrid core).gridFree core)
    else if (s.blockBusy core && !s.mmaBusy core) || c.tstHolds then .next s
    else if s.mmaWaits core && !c.lastBlock && c.demands.any (fun d => !d.failed) then .next (s.post (.blockEvaluation core))
    else
      let beyond := (op.since.map (fun n => decide (n + 2 ^ 26 ≤ c.cyc.toNat))).getD false
      let total := op.k / 32 * (fmtPlanes op.fa + fmtPlanes op.fb)
      if beyond then
        let p := s.gridRead op core op.got.length
        let ws := (s.waiters.filter (fun x => x.agent == .grid core && x.table)).map (fun x => homeOff x.home)
        .next (s.gridFail core t (trapOf 17 0 (p.2.seen p.1 true (ws.foldl min (ws.headD p.1)))))
      else
        match s.gridReads core (total - op.got.length) with
        | .ok _ s1 =>
          (match (s1.core core).grid with
          | some op1 => .next (((s1.leave (.grid core)).gridDone core op1).gridFree core)
          | none => .next s1)
        | .trap i s1 => .next (s1.gridFail core t i)
        | .park (.table _) s1 =>
          let c1 := s1.core core
          .next (s1.setCore core { c1 with grid := c1.grid.map (fun o => { o with since := some (o.since.getD c1.cyc.toNat) }) })
        | .park _ s1 => .next s1
        | .done s1 => .next s1

/-! ### SCLFEED (R271) -/

/-- SCLFEED: R271. -/
def execSclfeed (b : SReg) (c : SReg) (s : State) : Out3 :=
  if !s.me.mode then .next (s.precise modeFault)
  else
    ((s.checkedPorts [b, c] [] (fun s1 =>
        let va := s1.rs b
        let n := 32 * (s1.rs c).toNat
        [([b], alignTrap va 32), ([b, c], s1.ownAddress va n), ([b, c], s1.ownProtection va n)])).bind fun _ s1 =>
      let va := s1.rs b
      let n := (s1.rs c).toNat
      let k := s1.myCore
      if n = 0 ∨ 64 < n then .trap (trapOf 14 3 0) s1
      else if 64 < k.fifoGroups.length + n ∨ 16 ≤ k.fifo.length then .trap (trapOf 14 4 0) s1
      else
        let off := (s1.ownOff va).getD 0
        (s1.pathSeq ((lineAccs va off (32 * n) (fun _ => .read)).drop s1.cont.idx)).bind fun _ s2 =>
          let v := lineValue off (32 * n) s2.cont.acc
          let gs := (List.range n).map (fun g => BitVec.ofNat 256 (v / 2 ^ (256 * g)))
          let s3 := s2.setCore s2.cur.core { s2.myCore with fifo := s2.myCore.fifo ++ [gs] }
          .ok () (s3.doneS [b, c])).finish

/-! ### Layout conversions (R272, R273) -/

/-- An operand of a layout conversion: planed with so many planes, or row-major with a container width and a pitch. DEDUCED: log entry 33. -/
inductive Layout where
  | planed (b : Nat)
  | rows (w : Nat) (pitch : Word)
deriving DecidableEq, Repr

/-- Alignment of an operand's address, and of its pitch. -/
def Layout.align (l : Layout) (va : Word) : Option TrapInfo :=
  match l with
  | .planed _ => alignTrap va 64
  | .rows _ _ => alignTrap va 8

def Layout.alignPitch (l : Layout) : Option TrapInfo :=
  match l with
  | .planed _ => none
  | .rows _ pitch => alignTrap pitch 8

/-- The pieces of memory that n chunks of an operand take: address and bytes. -/
def Layout.extents (l : Layout) (va : Word) (n : Nat) : List (Word × Nat) :=
  match l with
  | .planed b => [(va, n * (b * 64))]
  | .rows w pitch => (List.range 16).map (fun r => (va + BitVec.ofNat 64 r * pitch, n * (4 * w)))

/-- Address faults of an operand, then protection traps. -/
def State.layoutAddress (s : State) (l : Layout) (va : Word) (n : Nat) : Option TrapInfo :=
  firstTrap ((l.extents va n).map (fun p => s.ownAddress p.1 p.2))

def State.layoutProtection (s : State) (l : Layout) (va : Word) (n : Nat) : Option TrapInfo :=
  firstTrap ((l.extents va n).map (fun p => s.ownProtection p.1 p.2))

/-- The pieces of chunk c of an operand: address and bytes. -/
def Layout.chunk (l : Layout) (va : Word) (c : Nat) : List (Word × Nat) :=
  match l with
  | .planed b => (List.range b).map (fun p => (va + BitVec.ofNat 64 (64 * (c * b + p)), 64))
  | .rows w pitch => (List.range 16).map (fun r => (va + BitVec.ofNat 64 r * pitch + BitVec.ofNat 64 (c * (4 * w)), 4 * w))

/-- The rows of elements that the pieces of a chunk hold. -/
def Layout.unpack (l : Layout) (bits : Nat) (vs : List Nat) : List (List Nat) :=
  match l with
  | .planed _ => unplane (vs.map (BitVec.ofNat 512))
  | .rows w _ => vs.map (fun v => (List.range 32).map (fun e => v / 2 ^ (w * e) % 2 ^ bits))

/-- The pieces of a chunk for its rows of elements. -/
def Layout.pack (l : Layout) (rows : List (List Nat)) : List Nat :=
  match l with
  | .planed b => (List.range b).map (fun p => (planeOf rows p).toNat)
  | .rows w _ => rows.map (fun r => (r.zipIdx.map (fun p => p.1 % 2 ^ w * 2 ^ (w * p.2))).foldl (· + ·) 0)

/-- The numbers that the pieces hold, from the lines read for them in order. -/
def pieceValues (offs : List (Nat × Nat)) (ls : List Line) : List Nat :=
  (offs.foldl (fun (p : List Nat × List Line) o =>
    let k := (o.1 + o.2 - 1) / 64 - o.1 / 64 + 1
    (p.1 ++ [lineValue o.1 o.2 (p.2.take k)], p.2.drop k)) ([], ls)).1

/-- The chunks of a layout conversion in increasing order: every source word of a chunk is read before a destination word of it is
written (R273). -/
def State.layoutChunks (s : State) (src dst : Layout) (bits : Nat) (sva dva : Word) (f : Nat → Nat) : (fuel : Nat) → Res Unit
  | 0 => .ok () s
  | n + 1 =>
    let c := s.cont.step
    let at_ (p : Word × Nat) : Nat × Nat := ((s.ownOff p.1).getD 0, p.2)
    let sp := src.chunk sva c
    let rd := sp.flatMap (fun p => lineAccs p.1 (at_ p).1 p.2 (fun _ => .read))
    (s.pathSeq (rd.drop s.cont.idx)).bind fun _ s1 =>
      let rows := (src.unpack bits (pieceValues (sp.map at_) (s1.cont.acc.take rd.length))).map (·.map f)
      let wr := ((dst.chunk dva c).zip (dst.pack rows)).flatMap (fun p => lineWrites p.1.1 (at_ p.1).1 p.1.2 p.2)
      (s1.chunkWrites wr).bind fun _ s2 =>
        let s3 := s2.setCont { s2.cont with idx := 0, acc := [], step := c + 1, since := none, dog := false }
        if s3.wakesDue then s3.pause else s3.layoutChunks src dst bits sva dva f n

/-- A layout conversion of n chunks (R272), whose address registers are a and b, whose pitch is in dp or sp, and whose count is in the registers cnt: the
checks before any access, then the chunks. A fault in a chunk names it in CODE and leaves it unwritten (R273). -/
def State.layout (s : State) (a b : SReg) (dp sp cnt : List SReg) (count : State → Nat) (src dst : State → Layout) (bits : Nat) (f : Nat → Nat) : Out3 :=
  let srcs := a :: b :: (dp ++ sp ++ cnt)
  ((s.checkedPorts srcs [] (fun s1 =>
      let n := count s1
      let da := s1.rs a
      let sa := s1.rs b
      let d := a :: (dp ++ cnt)
      let r := b :: (sp ++ cnt)
      [([a], (dst s1).align da), (dp, (dst s1).alignPitch), ([b], (src s1).align sa), (sp, (src s1).alignPitch),
       (d, s1.layoutAddress (dst s1) da n), (r, s1.layoutAddress (src s1) sa n),
       (d, s1.layoutProtection (dst s1) da n), (r, s1.layoutProtection (src s1) sa n)])).bind fun _ s1 =>
    match s1.layoutChunks (src s1) (dst s1) bits (s1.rs b) (s1.rs a) f (count s1 - s1.cont.step) with
    | .trap i s2 => .trap { i with code := BitVec.ofNat 8 s2.cont.step ++ i.code.extractLsb' 0 8 } s2
    | .ok _ s2 => .ok () (s2.doneS srcs)
    | r => r).finish

/-- MPLANE and MUNPL in a format (R272). Plane 31 of a planed RES30 operand reads as zero (R261; DEDUCED: log entry 11). -/
def State.planing (s : State) (toPlanes : Bool) (a b c : SReg) (cnt : List SReg) (count : State → Nat) (f : BitVec 4) : Out3 :=
  let rows (s1 : State) : Layout := .rows (fmtContainer f) (s1.rs c)
  let planes (_ : State) : Layout := .planed (fmtPlanes f)
  if toPlanes then s.layout a b [] [c] cnt count rows planes (fmtPlanes f) (fun x => x)
  else s.layout a b [c] [] cnt count planes rows (fmtPlanes f) (fun x => if f == 14 then x % 2 ^ 31 else x)

/-- MRNSIN (R272): integers to canonical residue words. -/
def State.residues (s : State) (a b : SReg) (cnt : List SReg) (count : State → Nat) (r15 : Bool) (fs : BitVec 4) : Out3 :=
  s.layout a b [] [] cnt count (fun _ => .planed (fmtPlanes fs)) (fun _ => .planed (if r15 then 16 else 32)) (fmtPlanes fs)
    (fun x => resOf r15 (intOf (intBits fs) (fmtSigned fs) x))

/-- MPLANE in form M: one chunk, format c.fmta or c.fmtb. -/
def execMplane (a : SReg) (b : SReg) (c : SReg) (sh : BitVec 1) (s : State) : Out3 :=
  s.planing true a b c [] (fun _ => 1) (if sh == 1 then s.me.cr.fmtb else s.me.cr.fmta)

/-- MUNPL in form M. -/
def execMunpl (a : SReg) (b : SReg) (c : SReg) (sh : BitVec 1) (s : State) : Out3 :=
  s.planing false a b c [] (fun _ => 1) (if sh == 1 then s.me.cr.fmtb else s.me.cr.fmta)

/-- MRNSIN in form M. -/
def execMrnsin (a : SReg) (b : SReg) (dst : BitVec 1) (fs : BitVec 4) (s : State) : Out3 :=
  s.residues a b [] (fun _ => 1) (dst == 1) fs

/-- MPLANE in form W: s[n] chunks of a given format. -/
def execMplaneW (a : SReg) (b : SReg) (c : SReg) (n : SReg) (fmt : BitVec 4) (s : State) : Out3 :=
  s.planing true a b c [n] (fun s1 => (s1.rs n).toNat) fmt

/-- MUNPL in form W. -/
def execMunplW (a : SReg) (b : SReg) (c : SReg) (n : SReg) (fmt : BitVec 4) (s : State) : Out3 :=
  s.planing false a b c [n] (fun s1 => (s1.rs n).toNat) fmt

/-- MRNSIN in form W. -/
def execMrnsinW (a : SReg) (b : SReg) (n : SReg) (dst : BitVec 1) (fs : BitVec 4) (s : State) : Out3 :=
  s.residues a b [n] (fun s1 => (s1.rs n).toNat) (dst == 1) fs

/-! ### Descriptors (R276) -/

/-- Word w of a descriptor replaced. -/
def dSetWord (d : BitVec 256) (w : Nat) (v : Word) : BitVec 256 :=
  (d &&& ~~~(BitVec.setWidth 256 (BitVec.allOnes 64) <<< (64 * w))) ||| (v.setWidth 256 <<< (64 * w))

/-- DLD: R276. -/
def execDld (d : DReg) (b : SReg) (s : State) : Out3 :=
  ((s.memPorts [b] [] [] [] [b] [] false false (fun s1 => [(0, accRead (s1.rs b) 32)])).bind fun _ s1 =>
    (s1.ordinary (accRead (s1.rs b) 32)).bind fun v s2 => .ok () (((s2.pops [b] []).wd d (v.extractLsb' 0 256)).retire)).finish

/-- DSV: R276. -/
def execDsv (d : DReg) (b : SReg) (s : State) : Out3 :=
  let acc (s1 : State) : Acc := accOp (s1.rs b) 32 (.write ((s1.rd d).setWidth 512))
  ((s.memPorts [b] [] [] [] [b] [] false false (fun s1 => [(0, acc s1)])).bind fun _ s1 =>
    (s1.ordinary (acc s1)).bind fun _ s2 => .ok () (s2.doneS [b])).finish

/-- DPUT: R276. -/
def execDput (d : DReg) (c : SReg) (w : BitVec 2) (s : State) : Out3 :=
  ((s.ports [c] [] [] []).bind fun _ s1 => .ok () (((s1.pops [c] []).wd d (dSetWord (s1.rd d) w.toNat (s1.rs c))).retire)).finish

/-- DGET: R276. -/
def execDget (a : SReg) (b : DReg) (w : BitVec 2) (s : State) : Out3 :=
  s.scalar [] a (fun s1 => dW (s1.rd b) w.toNat)

/-- DINS: R276. -/
def execDins (d : DReg) (c : SReg) (w : BitVec 2) (pos : BitVec 6) (len : BitVec 6) (s : State) : Out3 :=
  ((s.ports [c] [] [] []).bind fun _ s1 =>
    let n := len.toNat + 1
    let mask : Word := BitVec.ofNat 64 ((2 ^ n - 1) * 2 ^ pos.toNat)
    let old := dW (s1.rd d) w.toNat
    let v := (old &&& ~~~mask) ||| ((s1.rs c <<< pos.toNat) &&& mask)
    .ok () (((s1.pops [c] []).wd d (dSetWord (s1.rd d) w.toNat v)).retire)).finish

/-- DINIT: R276. -/
def execDinit (d : DReg) (b : SReg) (c : SReg) (tr : BitVec 1) (ro : BitVec 16) (co : BitVec 16) (s : State) : Out3 :=
  ((s.ports [b, c] [] [] []).bind fun _ s1 =>
    let step : BitVec 16 := if tr == 1 then 0 else 1
    let cross : BitVec 16 := if tr == 1 then 1 else 0
    let w2 : Word := ro.signExtend 32 ++ cross ++ step
    let w3 : Word := co.signExtend 32 ++ cross ++ step
    .ok () (((s1.pops [b, c] []).wd d (w3 ++ w2 ++ s1.rs c ++ s1.rs b)).retire)).finish

end Sys2Proof.Machine
end

