-- ==== Sys2Proof/Machine/Tile.lean ====
section
/-!
DEFINITION. Majors 0x2C and 0x2D: blanks, their creation checks, the blocker, TST, FORCE, TDROP and TQRY (18 R277 to R293; 05 R96).
-/

namespace Sys2Proof.Machine

/-! ### Creation checks (R279, R282) -/

/-- An operand of a tile instruction: its register, its role (0 destination, 1 and 2 sources), its descriptor. -/
structure TileArg where
  reg : DReg
  role : Nat
  d : BitVec 256
deriving DecidableEq, Repr

/-- A trap of the checks, with c.tval in the layout of R279. -/
def tileTrap (cls code : Nat) (a : TileArg) (val : Nat) : TrapInfo :=
  trapOf cls code (BitVec.ofNat 64 (a.reg.toNat + 16 * a.role + 256 * val))

/-- Which operation the checks are for; TST stands beside the operations that create a blank. -/
inductive TileKind where
  | op (o : TileOp)
  | tst
deriving DecidableEq, Repr

/-- K of a TMUL. -/
def TileKind.k? : TileKind → Option Nat
  | .op (.mul k _) => some k
  | _ => none

def TileKind.isReduce : TileKind → Bool
  | .op .redSum | .op .redMax => true
  | _ => false

/-- Whether an operation accepts a format for an operand (R282). -/
def tileFmtOk (k : TileKind) (kind : Option AccKind) (dst : BitVec 256) (a : TileArg) : Bool :=
  let f := dFmt a.d
  match k with
  | .op (.mul _ _) =>
    a.role != 0 || (match kind with
      | some (.res false) => f == 14
      | some (.res true) => f == 15
      | some _ => f == 7
      | none => true)
  | .op .add | .op .sub | .op .max => (f == 5 || f == 6 || f == 7) && f == dFmt dst
  | .op (.map _ _ _) => f == 7
  | .op (.cvt _) => decide (f.toNat ≤ 13)
  | .op .redSum | .op .redMax => if a.role = 0 then f == 7 else f == 5 || f == 6 || f == 7
  | .tst => f == dFmt dst

/-- The extent over which a source is indexed (R282). -/
def tileExtent (k : TileKind) (dst : BitVec 256) (a : TileArg) : Nat × Nat :=
  match k.k? with
  | some n => (if a.role = 2 then dCols dst else dRows dst, n)
  | none => (dRows dst, if k.isReduce then dCols a.d else dCols dst)

/-- Whether a map keeps the corners of an extent inside the operand (R279). -/
def mapInside (d : BitVec 256) (ext : Nat × Nat) : Bool :=
  [0, ext.1 - 1].all (fun i => [0, ext.2 - 1].all (fun j =>
    let m := dMap d i j
    decide (0 ≤ m.1) && decide (m.1 < dRows d) && decide (0 ≤ m.2) && decide (m.2 < dCols d)))

/-- Whether elements of a destination overlap one another. -/
def dSelfOverlap (d : BitVec 256) : Bool :=
  if dPlaned d then decide (16 < dRows d) && decide (dPitch d < dCols d / 32 * (fmtPlanes (dFmt d) * 64))
  else decide (1 < dRows d) && decide (8 * dPitch d < dCols d * fmtContainer (dFmt d))

/-- The bytes that rows of an operand take, as intervals: rows of a row-major operand, stripes of a planed one. -/
def dSegments (d : BitVec 256) : List (Nat × Nat) :=
  if dPlaned d then
    (List.range (dRows d / 16)).map (fun r =>
      let lo := dBase d + r * dPitch d
      (lo, lo + dCols d / 32 * (fmtPlanes (dFmt d) * 64)))
  else
    (List.range (dRows d)).map (fun r =>
      let lo := dBase d + r * dPitch d
      (lo, lo + (dCols d * fmtContainer (dFmt d) + 7) / 8))

/-- The identity map. -/
def dIdentity (d : BitVec 256) : Bool := dW d 2 == 1 && dW d 3 == 1

/-- The in-place case of row 7. -/
def inPlace (k : TileKind) (dst src : BitVec 256) : Bool :=
  (match k with
    | .op .add | .op .sub | .op .max | .op (.map _ _ _) | .op (.cvt _) => true
    | _ => false) &&
  dIdentity src && dBase src == dBase dst && dPitch src == dPitch dst && dPlaned src == dPlaned dst && dFmt src == dFmt dst

/-- The core that SPACE and MEMBER of an operand name, seen from a core (R275). -/
def dCore (core : Nat) (d : BitVec 256) : Nat := if dSpace d == 1 then 4 * quadOf core + dMember d else core

/-- The core whose local store an operand names, none when it names another member where only the own core may be. -/
def tileCore (k : TileKind) (core : Nat) (a : TileArg) : Option Nat :=
  let n := dCore core a.d
  if n == core || (a.role == 0 && k == .tst) then some n else none

/-- The first misaligned field of an operand: BASE, PITCH, then SBASE, scaled or not. -/
def dMisaligned (d : BitVec 256) : Option Nat :=
  let m := if dPlaned d then 64 else 8
  if dBase d % m ≠ 0 then some (dBase d)
  else if dPitch d % m ≠ 0 then some (dPitch d)
  else if dSbase d % 8 ≠ 0 then some (dSbase d)
  else none

/-- One row of the table of R279 for one operand. -/
def State.tileRow (s : State) (k : TileKind) (dst : TileArg) (srcs : List TileArg) (row : Nat) (a : TileArg) : Option TrapInfo :=
  let fa := ((srcs[0]?).map (fun x => dFmt x.d)).getD 0
  let fb := ((srcs[1]?).map (fun x => dFmt x.d)).getD 0
  let mul := k.k?.isSome
  let kind := accKind fa fb
  let src := a.role != 0
  match row with
  | 1 => if dReservedBad a.d then some (tileTrap 2 0 a 0) else none
  | 2 =>
    if mul && src && ((a.role == 1 && kind.isNone) || (dScaled a.d && kind != some .fp32)) then
      some (tileTrap 4 1 a (16 * fa.toNat + fb.toNat))
    else none
  | 3 => if k.isReduce && !src && dCols a.d != 1 then some (tileTrap 4 2 a 0) else none
  | 4 =>
    let scaledBad := dScaled a.d && (!src || !mul || dCstep a.d != 1 || dCcross a.d != 0 || dRcross a.d != 0 || dCoff a.d % 32 != 0 ||
      dCols a.d % 32 != 0)
    if !tileFmtOk k kind dst.d a || scaledBad then some (tileTrap 4 3 a 0) else none
  | 5 =>
    let e := tileExtent k dst.d a
    if src && e.1 != 0 && e.2 != 0 && !mapInside a.d e then some (tileTrap 4 4 a 0) else none
  | 6 =>
    if dRows a.d == 0 || dCols a.d == 0 || (dPlaned a.d && (dRows a.d % 16 != 0 || dCols a.d % 32 != 0)) || (!src && dSelfOverlap a.d) then
      some (tileTrap 4 5 a 0)
    else none
  | 7 =>
    if !src && k != .tst && srcs.any (fun x =>
        let r := dRange x.d true
        dCore s.cur.core dst.d == dCore s.cur.core x.d && !inPlace k dst.d x.d && (dSegments dst.d).any (fun g => g.1 < r.2 && r.1 < g.2)) then
      some (tileTrap 4 6 a 0)
    else none
  | 8 => (dMisaligned a.d).map (fun v => tileTrap 5 0 a v)
  | 9 =>
    (match tileCore k s.cur.core a with
    | none => some (tileTrap 6 0 a (dBase a.d))
    | some n =>
      if !s.coreExists n then some (tileTrap 6 0 a (dBase a.d))
      else if 0x40000 < (dRange a.d src).2 then some (tileTrap 6 0 a 0x40000) else none)
  | _ =>
    let n := (tileCore k s.cur.core a).getD s.cur.core
    let r := dRange a.d src
    let g0 := r.1 / 0x1000
    match (List.range ((r.2 - 1) / 0x1000 - g0 + 1)).find? (fun j => !s.allocated n ((g0 + j) * 0x1000) s.myCtx) with
    | some j => some (tileTrap 7 0 a (max r.1 ((g0 + j) * 0x1000)))
    | none => none

/-- The checks of R279, each row over every operand before the next row. -/
def State.tileChecks (s : State) (k : TileKind) (dst : TileArg) (srcs : List TileArg) : Option TrapInfo :=
  firstTrap ([1, 2, 3, 4, 5, 6, 7, 8, 9, 10].flatMap (fun row => (dst :: srcs).map (s.tileRow k dst srcs row)))

/-! ### Creation (R277, R280, R284) -/

/-- The blocks of a slot's oldest blank. -/
def Slot.oldestBlocks (x : Slot) (k : BitVec 3) : List (BitVec 3 × Nat × Nat) :=
  match x.blanks with
  | b :: _ => b.pend.map (fun n => (k, b.seq, n))
  | [] => []

/-- Creates a blank of an operation over descriptor registers, forcing the oldest one when the table is full. -/
def State.createBlank (s : State) (op : TileOp) (d b : DReg) (c : Option DReg) (rm : BitVec 3) : Res Unit :=
  let dst : TileArg := { reg := d, role := 0, d := s.rd d }
  let s1 : TileArg := { reg := b, role := 1, d := s.rd b }
  let s2 : List TileArg := match c with
    | some r => [{ reg := r, role := 2, d := s.rd r }]
    | none => []
  match s.tileChecks (.op op) dst (s1 :: s2) with
  | some i => .trap i s
  | none =>
    let full (s : State) : Res Unit :=
      if s.me.blanks.length < 8 then .ok () s else s.demand s.myAgent s.cur.core (s.me.oldestBlocks s.cur.slot)
    ((full s).bind fun _ t => full t).bind fun _ t =>
      let x := t.me
      let n := dBlocks dst.d
      let bl : Blank := {
        seq := t.seq, pc := x.pc, byHandler := x.cr.intrap, op := op, dst := dst.d, src1 := s1.d
        src2 := match s2 with
          | a :: _ => a.d
          | [] => 0
        rm := if rm == 7 then (0 : BitVec 1) ++ x.cr.frm else rm, nbv := x.cr.nbv, scla := x.cr.scla, sclb := x.cr.sclb
        pend := List.range n, total := n, flt := [] }
      .ok () ({ t with seq := t.seq + 1 }.setMe { x with blanks := x.blanks ++ [bl] })

/-- A creating instruction without scalar operands. -/
def State.tile (s : State) (op : TileOp) (d b : DReg) (c : Option DReg) (rm : BitVec 3) : Out3 :=
  ((s.createBlank op d b c rm).bind fun _ s1 => .ok () s1.retire).finish

/-- TMUL: R281, K in chunks of 32 (R284). -/
def execTmul (d : DReg) (b : DReg) (c : DReg) (acc : BitVec 1) (kM1 : BitVec 11) (s : State) : Out3 :=
  s.tile (.mul (32 * (kM1.toNat + 1)) (acc == 1)) d b (some c) 0

/-- TADD in form M, under c.frm: R281. -/
def execTadd (d : DReg) (b : DReg) (c : DReg) (s : State) : Out3 := s.tile .add d b (some c) 7

/-- TSUB in form M, under c.frm: R281. -/
def execTsub (d : DReg) (b : DReg) (c : DReg) (s : State) : Out3 := s.tile .sub d b (some c) 7

/-- TMAX in form M: R281. -/
def execTmax (d : DReg) (b : DReg) (c : DReg) (s : State) : Out3 := s.tile .max d b (some c) 7

/-- TADD in form W: R281. -/
def execTaddW (d : DReg) (b : DReg) (c : DReg) (rm : BitVec 3) (s : State) : Out3 := s.tile .add d b (some c) rm

/-- TSUB in form W: R281. -/
def execTsubW (d : DReg) (b : DReg) (c : DReg) (rm : BitVec 3) (s : State) : Out3 := s.tile .sub d b (some c) rm

/-- TMAX in form W: R281; it rounds nothing, and the decoder lets only rm = 0 pass. -/
def execTmaxW (d : DReg) (b : DReg) (c : DReg) (rm : BitVec 3) (s : State) : Out3 := s.tile .max d b (some c) rm

/-- TMAP: R281, its scalars read at issue; the port fault comes before the checks of R279 (R284). -/
def execTmap (d : DReg) (b : DReg) (c : SReg) (e : SReg) (fn : BitVec 2) (rm : BitVec 3) (s : State) : Out3 :=
  ((s.ports [c, e] [] [] []).bind fun _ s1 =>
    (s1.createBlank (.map fn ((s1.rs c).extractLsb' 0 32) ((s1.rs e).extractLsb' 0 32)) d b none rm).bind fun _ s2 =>
      .ok () (s2.doneS [c, e])).finish

/-- TCVT: R281. -/
def execTcvt (d : DReg) (b : DReg) (sat : BitVec 1) (rm : BitVec 3) (s : State) : Out3 := s.tile (.cvt (sat == 1)) d b none rm

/-- TRED: R281, under c.frm (R284). -/
def execTred (d : DReg) (b : DReg) (op : BitVec 1) (s : State) : Out3 :=
  s.tile (if op == 1 then .redMax else .redSum) d b none 7

/-! ### What a block reads, computes and writes (R281, R289) -/

/-- A set of bytes as lines with masks of bytes, by line offset. -/
def byteLines (as : List Nat) : SMap (BitVec 64) :=
  as.foldl (fun m a => SMap.put m (a / 64 * 64) (SMap.getD m (a / 64 * 64) 0 ||| ((1 : BitVec 64) <<< (a % 64)))) []

/-- The bytes of the source element that a map gives an index. -/
def dMapBytes (d : BitVec 256) (i j : Nat) : List Nat :=
  let m := dMap d i j
  dElemBytes d m.1.toNat m.2.toNat

/-- The byte of a scale: row and column of the element in the operand's own index space (R275). -/
def dScaleByte (d : BitVec 256) (r c : Nat) : Nat := dSbase d + r * (dCols d / 32) + c / 32

/-- The scale bytes of index row i over K. -/
def dScaleBytes (d : BitVec 256) (i k : Nat) : List Nat :=
  (List.range (k / 32)).map (fun c =>
    let m := dMap d i (32 * c)
    dScaleByte d m.1.toNat m.2.toNat)

/-- The bytes that block n of a blank reads. -/
def Blank.readBytes (b : Blank) (n : Nat) : List Nat :=
  let es := dBlockElems b.dst n
  let rows := (es.map (·.1)).eraseDups
  let cols := (es.map (·.2)).eraseDups
  match b.op with
  | .mul k acc =>
    rows.flatMap (fun i => (List.range k).flatMap (dMapBytes b.src1 i)) ++
    cols.flatMap (fun j => (List.range k).flatMap (dMapBytes b.src2 j)) ++
    (if dScaled b.src1 then rows.flatMap (fun i => dScaleBytes b.src1 i k) else []) ++
    (if dScaled b.src2 then cols.flatMap (fun j => dScaleBytes b.src2 j k) else []) ++
    (if acc then dBlockBytes b.dst n else [])
  | .redSum | .redMax => rows.flatMap (fun i => (List.range (dCols b.src1)).flatMap (dMapBytes b.src1 i))
  | _ => es.flatMap (fun e => b.sources.flatMap (fun d => dMapBytes d e.1 e.2))

/-- An element read from lines. -/
def elemFrom (m : SMap Line) (d : BitVec 256) (r c : Nat) : Nat :=
  (dElemBits d r c).foldr (fun p n =>
    2 * n + (if (SMap.getD m (p.1 / 64 * 64) 0).getLsbD (8 * (p.1 % 64) + p.2) then 1 else 0)) 0 % 2 ^ fmtPlanes (dFmt d)

/-- The element that a map gives an index. -/
def elemVia (m : SMap Line) (d : BitVec 256) (i j : Nat) : Nat :=
  let p := dMap d i j
  elemFrom m d p.1.toNat p.2.toNat

/-- A scale byte from lines. -/
def scaleFrom (m : SMap Line) (d : BitVec 256) (i c : Nat) (dflt : BitVec 8) : BitVec 8 :=
  if dScaled d then
    let p := dMap d i (32 * c)
    let a := dScaleByte d p.1.toNat p.2.toNat
    (SMap.getD m (a / 64 * 64) 0).extractLsb' (8 * (a % 64)) 8
  else dflt

/-- One cell of a TMUL. -/
def Blank.mulCell (b : Blank) (m : SMap Line) (k : Nat) (acc : Bool) (i j : Nat) : FR :=
  let fa := dFmt b.src1
  let fb := dFmt b.src2
  (List.range (k / 32)).foldl (fun (a : FR) c =>
    let ps := (List.range 32).map (fun e => (elemVia m b.src1 i (32 * c + e), elemVia m b.src2 j (32 * c + e)))
    macChunk ((accKind fa fb).getD .fp32) fa fb b.nbv (scaleFrom m b.src1 i c b.scla) (scaleFrom m b.src2 j c b.sclb) a ps)
    ⟨if acc then elemFrom m b.dst i j else 0, 0⟩

/-- An element widened exactly to FP32 (R282): a NaN becomes the canonical one, and a signalling one raises NV (R66, R75). -/
def widen (f : BitVec 4) (v : Nat) : FR := fp32.convV .rne false ((FFmt.of f).decode v)

/-- A row of a TRED: element 0, then the others in order (R281). -/
def Blank.redRow (b : Blank) (m : SMap Line) (i : Nat) (f : Nat → Nat → FR) : FR :=
  let w := widen (dFmt b.src1)
  (List.range (dCols b.src1 - 1)).foldl (fun (acc : FR) k =>
    let x := w (elemVia m b.src1 i (k + 1))
    let r := f acc.bits x.bits
    ⟨r.bits, acc.fl ||| x.fl ||| r.fl⟩) (w (elemVia m b.src1 i 0))

/-- TMAP on one element: one rounding, then its function (R281). -/
def mapElem (fn : BitVec 2) (mode : RM) (a x c : Nat) : FR :=
  let t := fp32.fmaV mode (fp32.decode a) (fp32.decode x) (fp32.decode c)
  match fn.toNat with
  | 1 =>
    let r := fp32.minmax true t.bits 0
    ⟨r.bits, t.fl ||| r.fl⟩
  | 2 =>
    let r := exp2V mode (fp32.decode t.bits)
    ⟨r.bits, t.fl ||| r.fl⟩
  | _ => t

/-- The value of element (i, j) of a blank's destination, from the lines its block has read (R281). -/
def Blank.value (b : Blank) (m : SMap Line) (i j : Nat) : FR :=
  let mode := RM.of b.rm.toNat
  let F := FFmt.of (dFmt b.dst)
  let x := elemVia m b.src1 i j
  match b.op with
  | .mul k acc => b.mulCell m k acc i j
  | .add => F.addV mode (F.decode x) (F.decode (elemVia m b.src2 i j))
  | .sub => F.addV mode (F.decode x) (F.decode (elemVia m b.src2 i j)).neg
  | .max => F.minmax true x (elemVia m b.src2 i j)
  | .map fn a c => mapElem fn mode a.toNat x c.toNat
  | .cvt sat => convert (dFmt b.src1) (dFmt b.dst) mode sat x
  | .redSum => b.redRow m i (fun p q => fp32.addV mode (fp32.decode p) (fp32.decode q))
  | .redMax => b.redRow m i (fp32.minmax true)

/-- The line writes that put values into elements of an operand, in increasing address: line, data, bits written. -/
def lineStores (d : BitVec 256) (vs : List ((Nat × Nat) × Nat)) : List (Nat × Line × Line) :=
  let w := fmtPlanes (dFmt d)
  (vs.foldl (fun (m : SMap (Line × Line)) e =>
    ((dElemBits d e.1.1 e.1.2).zipIdx).foldl (fun m p =>
      let l := p.1.1 / 64 * 64
      let bit : Line := (1 : Line) <<< (8 * (p.1.1 % 64) + p.1.2)
      let old := SMap.getD m l (0, 0)
      SMap.put m l (if e.2 % 2 ^ w / 2 ^ p.2 % 2 = 1 then old.1 ||| bit else old.1, old.2 ||| bit)) m) []).map
    (fun p => (p.1, p.2.1, p.2.2))

/-- The write access of a line at offset off of core n: bits that are not written keep what the line holds. -/
def State.lineStore (s : State) (n : Nat) (va : Word) (w : Nat × Line × Line) : Acc :=
  let old := Memory.line s.mem (lsHome n w.1)
  let be := BitVec.ofNat 64 ((List.range 64).foldl (fun t k => if w.2.2.extractLsb' (8 * k) 8 != 0 then t + 2 ^ k else t) 0)
  { va := va, size := 64, be := be, op := .write ((old &&& ~~~w.2.2) ||| (w.2.1 &&& w.2.2)) }

/-! ### The blocker (R289, R290) -/

/-- The block that the blocker of a core is at. -/
def Core.front (c : Core) : Option (Demand × DBlock) :=
  match c.demands with
  | d :: _ => match d.blocks with
    | k :: _ => some (d, k)
    | [] => none
  | [] => none

/-- Changes the first demand of a core. -/
def State.setDemand (s : State) (core : Nat) (f : Demand → Demand) : State :=
  let c := s.core core
  s.setCore core { c with demands := match c.demands with
    | d :: ds => f d :: ds
    | [] => [] }

/-- Changes the block that the blocker is at. -/
def State.setFront (s : State) (core : Nat) (f : DBlock → DBlock) : State :=
  s.setDemand core (fun d => { d with blocks := match d.blocks with
    | k :: ks => f k :: ks
    | [] => [] })

/-- The blocks that come before block n of a blank (R289): those of older blanks of the thread whose destination it reads, and those that its write
meets. -/
def State.before (s : State) (core : Nat) (k : DBlock) (b : Blank) : List (BitVec 3 × Nat × Nat) :=
  let c := s.core core
  let rb := byteLines (b.readBytes k.n)
  let inRb (a : Nat) : Bool := (SMap.getD rb (a / 64 * 64) 0).getLsbD (a % 64)
  let db := dBlockBytes b.dst k.n
  let older := (c.slot k.slot).blanks.filter (fun o => o.seq < b.seq)
  older.flatMap (fun o => (o.dstHits inRb).map (fun n => (k.slot, o.seq, n))) ++
  older.flatMap (fun o => (if o.srcHit db then o.pend else o.dstHits db.contains).map (fun n => (k.slot, o.seq, n)))

/-- Blocks without those that already wait for the ones in evaluation, and without repeats. -/
def Demand.missing (d : Demand) (bs : List (BitVec 3 × Nat × Nat)) : List (BitVec 3 × Nat × Nat) :=
  (bs.filter (fun b => !d.blocks.any (fun k => k.opened && k.slot == b.1 && k.seq == b.2.1 && k.n == b.2.2))).eraseDups

/-- Puts blocks before the front of the first demand: those that the block there needs, or those that one of its writes forces (R289, R291). -/
def State.openFront (s : State) (core : Nat) (forced : Bool) (bs : List (BitVec 3 × Nat × Nat)) : State :=
  s.setDemand core (fun d =>
    match d.blocks with
    | k :: ks => { d with blocks := demandBlocks (if forced then k.depth + 1 else k.depth) bs ++ ({ k with opened := true } ::
        (if forced then ks else ks.filter (fun j => j.opened || !bs.contains (j.slot, j.seq, j.n)))) }
    | [] => d)

/-- One access of the blocker (R164, R289). A line that completes ends the wait that held it (R167). -/
def State.blockerAcc (s : State) (core line kind : Nat) (a : Acc) : Res Line :=
  match s.tokenHeld (.blocker core) core (a.words line) with
  | some tk => .park (.token tk) (s.holdOn (.blocker core) tk)
  | none =>
    ((s.unhold (.blocker core)).bank (.blocker core) core core line kind a false).bind fun v s1 =>
      .ok v (s1.setDemand core (fun d => { d with stall := none, since := none }))

/-- The reads of a block, from the one reached: line and mask. Waiters that an access has made due are evaluated before the next (R166). What path M has read ahead is not used: a source stands as it did when the blank was
created (R281). -/
def State.blockReads (s : State) (core : Nat) : List (Nat × BitVec 64) → Res Unit
  | [] => .ok () s
  | p :: ps =>
    match s.blockerAcc core p.1 6 { va := BitVec.ofNat 64 p.1, size := 64, be := p.2, op := .read } with
    | .ok v s1 =>
      let s2 := s1.setFront core (fun k => { k with got := k.got ++ [v] })
      if s2.wakesDue then .park .rdr (s2.post (.blockEvaluation core)) else s2.blockReads core ps
    | .trap i s1 => .trap i s1
    | .park w s1 => .park w s1
    | .done s1 => .done s1

/-- The blocks of other threads' blanks that a line write of a slot's block forces (R291), of those that the first demand does not already evaluate. -/
def State.writeForces (s : State) (core : Nat) (slot : BitVec 3) (w : Nat × Line × Line) : List (BitVec 3 × Nat × Nat) :=
  let as := (List.range 64).filterMap (fun k => if w.2.2.extractLsb' (8 * k) 8 != 0 then some (w.1 + k) else none)
  match (s.core core).front with
  | some (d, k) => if k.passed == k.made + 1 then [] else d.missing ((s.core core).forcedBy as.contains as (some slot))
  | none => []

/-- The writes of a block of a slot's blank, from the one reached: each first forces what its comparators catch, and keeps its line as it was. -/
def State.blockWrites (s : State) (core : Nat) (slot : BitVec 3) : List (Nat × Line × Line) → Res Unit
  | [] => .ok () s
  | w :: ws =>
    match s.writeForces core slot w with
    | b :: bs => .park .force ((s.openFront core true (b :: bs)).post (.blockEvaluation core))
    | [] =>
      let a := s.lineStore core (BitVec.ofNat 64 w.1) w
      let old := s.lineSnap core w.1 a.be
      match s.blockerAcc core w.1 7 a with
      | .ok _ s1 =>
        let s2 := (s1.setFront core (fun k => { k with made := k.made + 1, undo := old :: k.undo })).unstage core w.1 a.be
        if s2.wakesDue && !ws.isEmpty then .park .rdr (s2.post (.blockEvaluation core)) else s2.blockWrites core slot ws
      | .trap i s1 => .trap i s1
      | .park w s1 => .park w s1
      | .done s1 => .done s1

/-- Changes a blank of a slot; one with nothing pending retires (R277). -/
def State.setBlank (s : State) (t : Tid) (b : Blank) : State :=
  let x := s.slot t
  s.setSlot t { x with blanks := (x.blanks.map (fun o => if o.seq == b.seq then b else o)).filter (fun o => !o.pend.isEmpty) }

/-- The writes of a block and its flags: those kept when it failed, or those of the values computed from the lines read. -/
def Blank.blockOut (b : Blank) (k : DBlock) (lines : List (Nat × BitVec 64)) : List (Nat × Line × Line) × Flags :=
  match b.flt.find? (fun f => f.block == k.n) with
  | some { block := _, writes := some ws, fl := fl } => (ws, fl)
  | _ =>
    let m : SMap Line := (lines.zip k.got).map (fun p => (p.1.1, p.2))
    let vs := (dBlockElems b.dst k.n).map (fun e => (e, b.value m e.1 e.2))
    (lineStores b.dst (vs.map (fun v => (v.1, v.2.bits))), vs.foldl (fun fl v => fl ||| v.2.fl) 0)

/-- Whether the values of a block are kept from an earlier failure. -/
def Blank.kept (b : Blank) (n : Nat) : Bool := b.flt.any (fun f => f.block == n && f.writes.isSome)

/-- Whether the end of a forcing for an agent is the end of what needed it; a thread's instruction, a relaxed access and a grid operation settle when they
end (R96). -/
def Agent.settlesAtOnce : Agent → Bool
  | .thread _ | .access _ _ | .grid _ => false
  | _ => true

/-- The end of a demand: what made it goes on. -/
def State.endDemand (s : State) (core : Nat) (failed : Bool) : State :=
  let c := s.core core
  match c.demands with
  | d :: ds =>
    let s1 := if failed then s.setCore core { c with demands := ds ++ [{ d with blocks := [], failed := true, stall := none, since := none }] }
      else s.setCore core { c with demands := ds }
    (if d.by_.settlesAtOnce then s1.settle d.by_ else s1).resume d.by_
  | [] => s

/-- The end, in a failure, of what a blocker write forces: the blocks not yet evaluated stay pending, and the write proceeds (R290, R291). -/
def State.endForced (s : State) (core depth : Nat) : State :=
  s.setDemand core (fun d =>
    { d with stall := none, since := none, blocks := match d.blocks.dropWhile (fun j => decide (depth ≤ j.depth)) with
      | k :: ks => { k with passed := k.made + 1 } :: ks
      | [] => [] })

/-- A deferred fault at the forcing instruction of the thread that owns the blank (R96, R290). -/
def State.deferred (s : State) (t : Tid) (b : Blank) (i : TrapInfo) : State :=
  let s1 := s.unwait t
  if b.byHandler then s1.fatal t i b.pc else (s1.takeTrap t i (s1.slot t).pc b.pc false true).wakeOrder t.core

/-- Reports a failure of a block to the thread that owns it (R290, R96): precise at an instruction of that thread that forced it, late otherwise. It ends
the demand, or, where a blocker write forced the block, what that write forced. -/
def State.reportBlock (s : State) (core : Nat) (d : Demand) (k : DBlock) (t : Tid) (b : Blank) (i : TrapInfo) : State :=
  let late (s : State) : State :=
    s.addLate t { age := d.seq, info := i, pc2 := b.pc, late := true, defer := true, epcZero := false, byHandler := b.byHandler }
  let ended := if 0 < k.depth then s.endForced core k.depth else s.endDemand core true
  let dropped := s.setCore core { s.core core with demands := (s.core core).demands.drop 1 }
  let mine := match d.by_ with
    | .thread u => u == t
    | .grid n => n == core && ((s.core core).grid.map (·.slot)) == some t.slot
    | _ => false
  if d.by_ == .dump then
    { ended with dumps := match ended.dumps with
      | j :: js => { j with flt := j.flt ++ [(core, k.slot, k.seq, k.n)] } :: js
      | [] => [] }
  else if mine && k.depth == 0 then
    match d.by_ with
    | .grid n => ((dropped.dropGrid n).settle d.by_).deferred t b i
    | a => (dropped.settle a).deferred t b i
  else late ended

/-- A block that has failed (R290): its values are kept, its blank is FLT. -/
def State.blockFail (s : State) (core : Nat) (d : Demand) (k : DBlock) (b : Blank) (lines : List (Nat × BitVec 64)) (i : TrapInfo) : State :=
  let t : Tid := ⟨core, k.slot⟩
  let k1 := match (s.core core).front with
    | some (_, j) => j
    | none => k
  let f : FltBlock :=
    if b.kept k.n || k1.got.length == lines.length then
      let o := b.blockOut k1 lines
      { block := k.n, writes := some (o.1.drop k1.made), fl := o.2 }
    else { block := k.n, writes := none, fl := 0 }
  let b1 := { b with flt := b.flt.filter (fun g => g.block != k.n) ++ [f] }
  let s1 := s.leave (.blocker core)
  (s1.setBlank t b1).reportBlock core d k1 t b i

/-- A block that has been written (R277): its flags are owed to the thread that owns the blank until the forcing is over; an enabled one is a deferred
fault now (R96). DEDUCED: log entry 65. -/
def State.blockDone (s : State) (core : Nat) (d : Demand) (k : DBlock) (b : Blank) (fl : Flags) : State :=
  let t : Tid := ⟨core, k.slot⟩
  let s1 := s.setBlank t { b with pend := b.pend.filter (· != k.n), flt := b.flt.filter (fun g => g.block != k.n) }
  let s2 : State := if fl == 0 then s1 else { s1 with owed := s1.owed ++ [(d.by_, t, fl)] }
  let s3 := s2.setDemand core (fun d => { d with blocks := d.blocks.drop 1, stall := none, since := none })
  if fl &&& (s1.slot t).cr.fen != 0 then s3.reportBlock core d k t b (trapOf 15 0 ((0 : BitVec 58) ++ fl)) else s3

/-- A block that meets a WAIT action stalls (R290). -/
def State.stalled (s : State) (core : Nat) (w : Await) : State :=
  match w with
  | .table h => s.setDemand core (fun d => { d with stall := some h, since := some (d.since.getD (s.core core).cyc.toNat) })
  | _ => s

/-- One block evaluation, as far as it gets. -/
def State.blockRun (s : State) (core : Nat) (d : Demand) (k : DBlock) (b : Blank) : State :=
  let lines := if b.kept k.n then [] else byteLines (b.readBytes k.n)
  match s.blockReads core (lines.drop k.got.length) with
  | .trap i s1 => s1.blockFail core d k b lines i
  | .park w s1 => s1.stalled core w
  | .done s1 => s1
  | .ok _ s1 =>
    let k1 := match (s1.core core).front with
      | some (_, j) => j
      | none => k
    let o := b.blockOut k1 lines
    match s1.blockWrites core k.slot (o.1.drop k1.made) with
    | .trap i s2 => s2.blockFail core d k b lines i
    | .park w s2 => s2.stalled core w
    | .done s2 => s2
    | .ok _ s2 => (s2.leave (.blocker core)).blockDone core d k1 b o.2

/-- Drops blocks that are pending no more from the front of the first demand. -/
def State.pruneFront (s : State) (core : Nat) : State :=
  let c := s.core core
  s.setDemand core (fun d => { d with blocks := d.blocks.dropWhile (fun k =>
    match c.blank k.slot k.seq with
    | some b => !b.pend.contains k.n
    | none => true) })

/-- Whether an evaluation has begun: it has read or written a line, or has values from an earlier failure to write. -/
def DBlock.begun (k : DBlock) (b : Blank) : Bool := !k.got.isEmpty || k.made != 0 || b.kept k.n

/-- The demand that the blocker of a core works on. Blocks that an operation on the grid itself waits for are evaluated inside it, and no others (R263,
R291). -/
def State.nextDemand (s : State) (core : Nat) : Option Demand :=
  let c := s.core core
  let ds := c.demands.filter (fun d => !d.failed)
  if s.mmaBusy core then ds.find? (fun d => d.by_ == .grid core)
  else if c.tstHolds then ds.find? (fun d => d.by_.tid? == c.tst.map (fun k => ⟨core, k⟩))
  else ds.head?

/-- BLOCK_EVALUATION: the blocker of a core evaluates the next block of its demand, or first the blocks that come before it (R289). It
waits while another grid operation has the grid, and while it is the turn of an MMA (R263); a stall of 2^26 cycles fails the block (R290). -/
def execBlockEvaluation (core : Nat) (s : State) : Out3 :=
  let c := s.core core
  let inside := s.mmaBusy core || c.tstHolds
  match s.nextDemand core with
  | none => .next (if inside then s else s.gridFree core)
  | some d0 =>
    let s0 := s.setCore core { c with demands := d0 :: c.demands.filter (fun d => d.by_ != d0.by_) }
    let s1 := s0.pruneFront core
    match (s1.core core).front with
    | none => .next ((s1.endDemand core false).gridFree core)
    | some (d, k) =>
      match (s1.core core).blank k.slot k.seq with
      | none => .next s1
      | some b =>
        let beyond := (d.since.map (fun n => decide (n + 2 ^ 26 ≤ (s1.core core).cyc.toNat))).getD false
        let ps := if k.begun b then [] else d.missing (s1.before core k b)
        if beyond then
          .next ((s1.blockFail core d k b (if b.kept k.n then [] else byteLines (b.readBytes k.n))
            (trapOf 17 0 (BitVec.ofNat 64 (homeOff (d.stall.getD 0))))).gridFree core)
        else if !ps.isEmpty then .next ((s1.openFront core false ps).post (.blockEvaluation core))
        else if !inside && s.mmaWaits core && c.lastBlock && k.got.isEmpty && k.made == 0 then .next (s1.post (.gridOperationComplete core))
        else
          let s2 := (s1.setCore core { s1.core core with lastBlock := true }).blockRun core d k b
          if s2.blockBusy core then .next s2 else .next (s2.gridFree core)

/-! ### FORCE, TDROP, TQRY (R286 to R288) -/

/-- FORCE: every blank of the thread. -/
def execForce (s : State) : Out3 :=
  ((s.demand s.myAgent s.cur.core (s.me.allBlocks s.cur.slot)).bind fun _ s1 => .ok () s1.retire).finish

/-- Whether rows [r0, r1) of an operand hold byte a of its local store (R286); the map is ignored. -/
def dRowsHold (d : BitVec 256) (r0 r1 a : Nat) : Bool :=
  (List.range (r1 - r0)).any (fun k =>
    let r := r0 + k
    if dPlaned d then
      let b := fmtPlanes (dFmt d)
      let at_ := dBase d + r / 16 * dPitch d
      at_ ≤ a &&
        (let c := (a - at_) / (b * 64)
         let o := (a - at_) % 64
         decide (32 * c < dCols d) && decide (4 * (r % 16) ≤ o) && decide (o < 4 * (r % 16) + (min 32 (dCols d - 32 * c) + 7) / 8))
    else
      let lo := dBase d + r * dPitch d
      lo ≤ a && decide (a < lo + (dCols d * fmtContainer (dFmt d) + 7) / 8))

/-- FORCE of rows [r0, r1) of an operand. -/
def State.forceRows (s : State) (b : DReg) (r0 r1 : Nat) : Out3 :=
  let d := s.rd b
  if dReservedBad d then .next (s.precise (tileTrap 2 0 { reg := b, role := 1, d := d } 0))
  else
    let own := dCore s.cur.core d == s.cur.core
    let bs := if own then s.myCore.forcedBy (dRowsHold d r0 (min r1 (dRows d))) [] none else []
    ((s.demand s.myAgent s.cur.core bs).bind fun _ s1 => .ok () s1.retire).finish

/-- FORCE_M: the bytes of dS. -/
def execForceM (b : DReg) (s : State) : Out3 := s.forceRows b 0 (dRows (s.rd b))

/-- FORCE_W: rows 16 rb to 16 (rb + nb) - 1 of dS. -/
def execForceW (b : DReg) (rb : BitVec 8) (nbM1 : BitVec 8) (s : State) : Out3 :=
  s.forceRows b (16 * rb.toNat) (16 * (rb.toNat + nbM1.toNat + 1))

/-- Removes blanks of the issuing thread; the blocker looks at its demands again. -/
def State.dropBlanks (s : State) (keep : Nat → Bool) : State :=
  let x := s.me
  let s1 := s.setMe { x with blanks := (x.blanks.zipIdx.filter (fun p => keep p.2)).map (·.1) }
  let n := s1.cur.core
  let s2 := s1.setDemand n (fun d =>
    match d.blocks with
    | k :: _ => if k.slot == s1.cur.slot && !(s1.me.blanks.any (fun b => b.seq == k.seq)) then { d with stall := none, since := none } else d
    | [] => d)
  if (s2.core n).demands.isEmpty then s2 else (if ((s2.core n).demands.any (fun d => d.stall.isSome)) then s2 else s2.leave (.blocker n)).post (.blockEvaluation n)

/-- TDROP: every blank (R287). -/
def execTdrop (s : State) : Out3 := .next (s.dropBlanks (fun _ => false)).retire

/-- TDROP_M: the n-th oldest blank (R287). -/
def execTdropM (n : BitVec 3) (s : State) : Out3 := .next (s.dropBlanks (fun k => k != n.toNat)).retire

/-- F of the creating instruction, 0xF for TMAP (R288). -/
def TileOp.code : TileOp → Nat
  | .mul _ _ => 0
  | .add => 1
  | .sub => 2
  | .max => 3
  | .map _ _ _ => 15
  | .cvt _ => 5
  | .redSum | .redMax => 6

/-- The state code of a blank (R277). -/
def Blank.code (b : Blank) : Nat := if !b.flt.isEmpty then 3 else if b.pend.length < b.total then 2 else 1

/-- TQRY: R288. -/
def execTqry (d : SReg) (n : BitVec 3) (s : State) : Out3 :=
  s.scalar [] d (fun s1 =>
    match s1.me.blanks[n.toNat]? with
    | some b => BitVec.ofNat 64 (2 ^ 32 * b.pend.length + 2 ^ 16 * b.total + 256 * b.op.code + b.code)
    | none => 0)

/-! ### TST (R285) -/

/-- The bytes that block n of a TST reads from its source. -/
def tstBytes (dst src : BitVec 256) (n : Nat) : List Nat := (dBlockElems dst n).flatMap (fun e => dMapBytes src e.1 e.2)

/-- One path-M access of a TST at an offset of a core's local store. -/
def State.tstAcc (s : State) (core off : Nat) (a : Acc) : Res Line :=
  (s.lsPerform s.myAgent s.cur.core (lsHome core off) a true false).bind fun v s1 =>
    if a.op.writes then .ok v (if core == s1.cur.core then s1.unstage core off a.be else s1) else .ok (s1.myCore.staged off v) s1

/-- The grid for the next block of a TST, unless another operation is stalled on it or it is the turn of an MMA (R263, R285). -/
def State.takeGrid (s : State) : Res Unit :=
  let n := s.cur.core
  let c := s.myCore
  if c.tst == some s.cur.slot then .ok () s
  else if c.tstHolds || s.blockBusy n || (c.grid.isSome && !(s.mmaWaits n && !c.lastBlock)) then
    .park .turn (if c.grid.isSome then s.post (.gridOperationComplete n) else s)
  else .ok () (s.setCore n { c with tst := some s.cur.slot, lastBlock := true })

/-- A block of a TST is over, or the TST is. -/
def State.giveGrid (s : State) : State :=
  let c := s.myCore
  if c.tst == some s.cur.slot then s.setCore s.cur.core { c with tst := none } else s

/-- A step of a TST is over: its own wait has ended (R167). -/
def State.tstStep (s : State) (n : Nat) : State := s.setCont { s.cont with step := s.cont.step + n, since := none, dog := false }

/-- The reads of a TST over its blocks: (block, line, mask), from the one reached. A failure is kept with its block. -/
def State.tstReads (s : State) : List (Nat × Nat × BitVec 64) → Res Unit
  | [] => .ok () s
  | p :: ps =>
    match s.tstAcc s.cur.core p.2.1 { va := BitVec.ofNat 64 p.2.1, size := 64, be := p.2.2, op := .read } with
    | .ok v s1 => if s1.wakesDue && !ps.isEmpty then (s1.elemDone v).pause else (s1.elemDone v).tstReads ps
    | .trap i s1 => .ok () ((s1.setCont { s1.cont with fault := some (p.1, i) }).tstStep 0)
    | .park w s1 => .park w s1
    | .done s1 => .done s1

/-- The writes of a TST: (block, line, data, bits), from the one reached; each block is a grid operation. -/
def State.tstWrites (s : State) (core : Nat) (va : Nat → Word) : List (Nat × Nat × Line × Line) → Res Unit
  | [] => .ok () s
  | p :: ps =>
    match s.takeGrid with
    | .ok _ s0 =>
      (match s0.tstAcc core p.2.1 (s0.lineStore core (va p.2.1) p.2) with
      | .ok _ s1 =>
        let s2 := s1.tstStep 1
        let s3 := if (ps.head?.map (·.1)) == some p.1 then s2 else s2.giveGrid
        if s3.wakesDue && !ps.isEmpty then s3.pause else s3.tstWrites core va ps
      | .trap i s1 => .trap { i with code := BitVec.ofNat 8 p.1 ++ i.code.extractLsb' 0 8 } s1
      | .park w s1 => .park w s1
      | .done s1 => .done s1)
    | r => r

/-- The end of a TST, with what waits for the grid. -/
def Res.tstEnd (r : Res Unit) : Res Unit :=
  match r with
  | .ok _ s => .ok () (s.giveGrid.gridFree s.cur.core)
  | .trap i s => .trap i (s.giveGrid.gridFree s.cur.core)
  | r => r

/-- TST: every source element is read, then the blocks are written in row-major order, one grid operation each; the reads go with the first (R263, R285).
DEDUCED: log entry 42. -/
def execTst (d : DReg) (b : DReg) (s : State) : Out3 :=
  let dst := s.rd d
  let src := s.rd b
  match s.tileChecks .tst { reg := d, role := 0, d := dst } [{ reg := b, role := 1, d := src }] with
  | some i => .next (s.precise i)
  | none =>
    let nb := dBlocks dst
    let core := (tileCore .tst s.cur.core { reg := d, role := 0, d := dst }).getD s.cur.core
    let rd := (List.range nb).flatMap (fun n => (byteLines (tstBytes dst src n)).map (fun p => (n, p.1, p.2)))
    let s0 := if s.me.cont.isNone then s.giveGrid else s
    let first := if s0.cont.idx = 0 && s0.cont.fault.isNone then
        let rb := byteLines ((List.range nb).flatMap (tstBytes dst src))
        s0.demand s0.myAgent s0.cur.core (s0.myCore.forcedBy (fun a => (SMap.getD rb (a / 64 * 64) 0).getLsbD (a % 64)) [] none)
      else .ok () s0
    ((first.bind fun _ s1 =>
        if s1.cont.fault.isSome || s1.cont.idx == rd.length then .ok () s1
        else s1.takeGrid.bind fun _ s2 => s2.tstReads (rd.drop s2.cont.idx)).bind fun _ s2 =>
      let c := s2.cont
      let got := rd.zip c.acc
      let upTo := match c.fault with
        | some (n, _) => n
        | none => nb
      let wr := (List.range upTo).flatMap (fun n =>
        let m : SMap Line := (got.filter (fun p => p.1.1 == n)).map (fun p => (p.1.2.1, p.2))
        (lineStores dst ((dBlockElems dst n).map (fun e => (e, elemVia m src e.1 e.2)))).map (fun w => (n, w)))
      let va (off : Nat) : Word := if core == s2.cur.core then BitVec.ofNat 64 off else BitVec.ofNat 64 (0x100000 + 0x40000 * (core % 4) + off)
      (s2.tstWrites core va (wr.drop c.step)).bind fun _ s3 =>
        match s3.cont.fault with
        | some (n, i) => .trap { i with code := BitVec.ofNat 8 n ++ i.code.extractLsb' 0 8 } s3
        | none => .ok () s3.retire).tstEnd.finish

end Sys2Proof.Machine
end

