-- ==== Sys2Proof/Machine/Engines.lean ====
section
/-!
DEFINITION. Majors 0x2E and 0x30: the copy engine and the random generator (19 R294 to R305).
-/

namespace Sys2Proof.Machine

/-! ### Patterns (R295, R296) -/

/-- The fields of a record's sixteen words. -/
def patternOf (v : Nat) : Pattern :=
  let w (k : Nat) : Nat := v / 2 ^ (64 * k) % 2 ^ 64
  let nd := w 1 / 256 % 16
  { base := BitVec.ofNat 64 (w 0), esize := w 1 % 8
    ext := (List.range (min nd 8)).map (fun d => w (2 + d / 2) / 2 ^ (32 * (d % 2)) % 2 ^ 32)
    str := (List.range (min nd 8)).map (fun d => BitVec.ofNat 64 (w (6 + d))) }

/-- Element count. -/
def Pattern.count (p : Pattern) : Nat := p.ext.foldl (· * ·) 1

/-- The checks of row 4 of R297 on a record. -/
def patternOk (v : Nat) : Bool :=
  let w (k : Nat) : Nat := v / 2 ^ (64 * k) % 2 ^ 64
  let nd := w 1 / 256 % 16
  let ext (d : Nat) : Nat := w (2 + d / 2) / 2 ^ (32 * (d % 2)) % 2 ^ 32
  w 1 / 4096 == 0 && w 1 / 8 % 32 == 0 && decide (1 ≤ nd) && decide (nd ≤ 8) && decide (w 1 % 8 ≤ 6) && w 14 == 0 && w 15 == 0 &&
  (List.range 8).all (fun d => if d < nd then ext d != 0 else ext d == 0 && w (6 + d) == 0) &&
  decide ((patternOf v).count < 2 ^ 32)

/-- Bytes of an element. -/
def Pattern.size (p : Pattern) : Nat := 2 ^ p.esize

/-- Row 5 of R297. -/
def Pattern.aligned (p : Pattern) : Bool := p.base.toNat % p.size == 0 && p.str.all (fun x => x.toNat % p.size == 0)

/-- The address of element n (R296). -/
def patternAddr : (ext : List Nat) → (str : List Word) → Word → Nat → Word
  | e :: es, t :: ts, a, n => patternAddr es ts (a + BitVec.ofNat 64 (n % e) * t) (n / e)
  | _, _, a, _ => a

def Pattern.addr (p : Pattern) (n : Nat) : Word := patternAddr p.ext p.str p.base n

/-- The span of a pattern: its lowest byte and its highest, before addresses are taken modulo 2^64. DESIGN CHOICE: log entry 88. -/
def Pattern.span (p : Pattern) : Int × Int :=
  let ds := (p.ext.zip p.str).map (fun d => ((d.1 : Int) - 1) * d.2.toInt)
  (ds.foldl (fun a d => a + min 0 d) (p.base.toNat : Int), ds.foldl (fun a d => a + max 0 d) (p.base.toNat : Int) + (p.size : Int) - 1)

/-- Rows 4 to 7 of R297 on the source's and the destination's records. -/
def patternChecks (vs vd : Nat) : Option TrapInfo :=
  let ps := patternOf vs
  let pd := patternOf vd
  firstTrap [
    if patternOk vs then none else some (trapOf 4 8 0),
    if patternOk vd then none else some (trapOf 4 8 1),
    if ps.aligned then none else some (trapOf 4 9 0),
    if pd.aligned then none else some (trapOf 4 9 1),
    if ps.esize == pd.esize && ps.count == pd.count then none else some (trapOf 4 10 0),
    if ps.span.1 ≤ pd.span.2 ∧ pd.span.1 ≤ ps.span.2 then some (trapOf 4 11 0) else none]

/-! ### CP and CPS (R297) -/

/-- Rows 1 and 2 of R297: alignment, address and protection of the token and the records, then of the signal word. DEDUCED: log entry 40. -/
def State.copyChecks (s : State) (t b c : SReg) (g : Option SReg) : List Check :=
  let own (f : Word → Nat → Option TrapInfo) : List Check := [([t], f (s.rs t) 8), ([b], f (s.rs b) 128), ([c], f (s.rs c) 128)]
  own alignTrap ++ own s.ownAddress ++ own s.ownProtection ++
    (match g with
    | some a => [([a], alignTrap (s.rs a) 8), ([a], if s.place s.cur.core (s.rs a) == .nowhere then some (trapOf 6 0 (s.rs a)) else none)]
    | none => [])

/-- The two line reads of a record. -/
def recordReads (va : Word) : List Acc := [accRead va 64, accRead (va + 64) 64]

/-- COUNT of the token word at an offset, read raw under table 0 once every earlier command that names it has written it (R297, R302); it is read once. -/
def State.startIndex (s : State) (off : Nat) : Res Nat :=
  match s.cont.seen with
  | some v => .ok (v.toNat / 2 ^ 32) s
  | none => (s.rawCheck s.myAgent s.cur (BitVec.ofNat 64 off) off 8 false).bind fun _ s1 =>
      let v := Memory.word s1.mem (lsHome s1.cur.core off)
      .ok (v.toNat / 2 ^ 32) (s1.setCont { s1.cont with seen := some v })

/-- A copy instruction at issue: the checks, the record reads, the start index, the copy queue of 2 entries (R297). -/
def State.copy (s : State) (t b c : SReg) (g : Option SReg) (rs : Bool) (dec : BitVec 16) : Out3 :=
  let srcs := [t, b, c] ++ g.toList
  ((s.checkedPorts srcs [] (fun s1 => s1.copyChecks t b c g)).bind fun _ s1 =>
    (s1.sequence ((recordReads (s1.rs b) ++ recordReads (s1.rs c)).drop s1.cont.idx)).bind fun _ s2 =>
      let ls := s2.cont.acc
      let vs := lineValue 0 128 (ls.take 2)
      let vd := lineValue 0 128 (ls.drop 2)
      match patternChecks vs vd with
      | some i => .trap i s2
      | none =>
        let off := (s2.ownOff (s2.rs t)).getD 0
        let home := lsHome s2.cur.core off
        (if rs then s2.startIndex off else .ok 0 s2 : Res Nat).bind fun n0 s3 =>
          if decide (2 ≤ (s3.myCore.copies.filter (fun k => !k.started)).length) then .park .copyRoom s3
          else
            let n := (patternOf vs).count
            let k : CopyCmd := {
              seq := s3.seq, tid := s3.cur, gang := s3.me.gang, token := home, src := patternOf vs, dst := patternOf vd
              pos := min n0 n, n := n
              signal := g.map (fun r => (s3.rs r, dec)), started := false, data := none, signaled := false, fail := none
              stall := .none, since := none }
            let core := s3.cur.core
            let s4 := { s3 with seq := s3.seq + 1 }.setCore core { s3.myCore with copies := s3.myCore.copies ++ [k] }
            .ok () ((s4.post (.copyCommandStart core)).doneS srcs)).finish

/-- CP: R297. -/
def execCp (t : SReg) (b : SReg) (c : SReg) (rs : BitVec 1) (s : State) : Out3 := s.copy t b c none (rs == 1) 0

/-- CPS: R297, R301. -/
def execCps (t : SReg) (b : SReg) (c : SReg) (g : SReg) (rs : BitVec 1) (dec : BitVec 16) (s : State) : Out3 :=
  s.copy t b c (some g) (rs == 1) dec

/-! ### The engine (R298 to R302) -/

/-- Changes the first command of a core. -/
def State.setCopy (s : State) (core : Nat) (f : CopyCmd → CopyCmd) : State :=
  let c := s.core core
  s.setCore core { c with copies := match c.copies with
    | k :: ks => f k :: ks
    | [] => [] }

/-- STATUS of a failure (R300): its side and the trap that the access met. -/
def copyStatus (side : Nat) (i : TrapInfo) : BitVec 18 :=
  let cls : Nat := match i.cls.toNat with
    | 6 => if i.code.toNat = 0 then 1 else 7
    | 7 => 2
    | 8 => 3
    | 13 => 4
    | 16 => 6
    | 17 => 5
    | _ => 1
  BitVec.ofNat 18 (side * 65536 + cls * 256 + (if cls = 4 then i.code.toNat % 256 else 0))

/-- One access of a command, through the engine (R298). -/
def State.copyAcc (s : State) (core : Nat) (k : CopyCmd) (a : Acc) : Res Line :=
  let ag : Agent := .copy core
  let ctx := s.ctxOf core
  let aper := ((s.gang k.gang).map (·.aper)).getD false
  (s.precheck ag core ctx aper a (if a.op.writes then 5 else 4)).bind fun home s1 => s1.perform ag core ctx home a true false

/-- A command whose access parks stalls; the count of a table wait begins (R165, R167). -/
def State.copyStall (s : State) (core : Nat) (w : Await) : State :=
  let now := (s.core core).cyc.toNat
  s.setCopy core (fun k => { k with stall := w, since := if w.isTable then some (k.since.getD now) else k.since })

/-- Which side of a command its next access is on. -/
def CopyCmd.side (k : CopyCmd) : Nat := if k.pos = k.n then 2 else if k.data.isSome then 1 else 0

/-- A command fails; its end follows (R299). -/
def State.copyFail (s : State) (core side : Nat) (i : TrapInfo) : State :=
  ((s.setCopy core (fun k => { k with fail := some (k.fail.getD (copyStatus side i)), stall := .none, since := none })).leave (.copy core)).post
    (.copyCommandEnd core)

/-- Whether a table wait of a command has lasted 2^26 cycles. -/
def CopyCmd.beyond (k : CopyCmd) (now : Nat) : Bool := (k.since.map (fun n => decide (n + 2 ^ 26 ≤ now))).getD false

/-- The engine takes a command, which frees an entry of the queue. -/
def State.copyTake (s : State) (core : Nat) : State :=
  (s.setCopy core (fun k => { k with started := true })).wakeCore core (· == .copyRoom)

/-- Whether an access that the engine of a core has issued is still under way: a message that has had no answer (R299). -/
def State.copyIssued (s : State) (core : Nat) : Bool := s.requests.any (fun r => r.agent == .copy core)

/-- Whether the gang of a command is to stop, so that the engine issues no further element of it (R300). -/
def State.copyStops (s : State) (k : CopyCmd) : Bool := k.fail.isSome || ((s.gang k.gang).map (·.preempt)).getD false

/-- The next access of the first command of a core: an element's read, then its write. DEDUCED: log entry 39. -/
def State.copyStep (s : State) (core : Nat) (k : CopyCmd) : State :=
  match k.data with
  | none =>
    (match s.copyAcc core k (accOp (k.src.addr k.pos) k.src.size .read) with
    | .ok v s1 =>
      (s1.setCopy core (fun k => { k with data := some v, stall := .none, since := none })).post (.copyCommandStart core)
    | .trap i s1 => s1.copyFail core 0 i
    | .park w s1 => s1.copyStall core w
    | .done s1 => s1)
  | some v =>
    match s.copyAcc core k (accOp (k.dst.addr k.pos) k.dst.size (.write v)) with
    | .ok _ s1 =>
      let s2 := s1.setCopy core (fun k => { k with data := none, pos := k.pos + 1, stall := .none, since := none })
      if k.pos + 1 = k.n then s2.post (.copyCommandEnd core) else s2.post (.copyCommandStart core)
    | .trap i s1 => s1.copyFail core 1 i
    | .park w s1 => s1.copyStall core w
    | .done s1 => s1

/-- COPY_COMMAND_START: the copy engine of a core takes its next command and makes the next access of it (R298, R299). One that stops waits for what it
has issued, and issues no more (R299, R300). -/
def execCopyCommandStart (core : Nat) (s : State) : Out3 :=
  match (s.core core).copies with
  | [] => .next s
  | k :: _ =>
    let s1 := if k.started then s else s.copyTake core
    if k.pos == k.n then .next (s1.post (.copyCommandEnd core))
    else if s.copyStops k && !s.copyIssued core then .next (if k.fail.isSome then s1.post (.copyCommandEnd core) else s1)
    else if k.beyond (s1.core core).cyc.toNat then .next (s1.copyFail core k.side (trapOf 17 0 0))
    else .next (s1.copyStep core k)

/-- Releases what is held on a token word, in its order of arrival (R302). DEDUCED: log entry 59. -/
def State.releaseToken (s : State) (token : Nat) : State :=
  let es := (s.waiters.filter (fun w => w.gate && w.home == token)).map (fun w => Event.waiterReevaluation w.seq)
  { s with todo := (es.filter (fun e => !s.todo.contains e)) ++ s.todo }

/-- The write of a token word, a bank operation of the engine under table 0 (R299); on a word with bad tag bits it is not performed (R160). DEDUCED: log
entry 75. -/
def State.writeToken (s : State) (core token : Nat) (w : Word) : State :=
  if s.badTags.contains token then s
  else
    let off := homeOff token
    (s.watch core 1 7 [(off, off + 8)] (.copy core) (BitVec.ofNat 64 off)).1.putNew token 0 8 255 (some w.toNat)

/-- Writes the token of the first command, with its count and status, and ends the command (R299, R300). -/
def State.copyEnd (s : State) (core : Nat) (k : CopyCmd) (status : BitVec 18) : State :=
  let off := homeOff k.token
  match s.demand (.copy core) core ((s.core core).forced off (off + 8) true none) with
  | .ok _ s1 =>
    let s3 := s1.writeToken core k.token (BitVec.ofNat 64 (k.pos * 2 ^ 32 + status.toNat))
    let c := s3.core core
    let s3a : State := { s3 with dumps := s3.dumps.map (fun d => if d.gang == k.gang then { d with copies := d.copies ++ [(core, k)] } else d) }
    let s4 := (s3a.setCore core { c with copies := c.copies.drop 1 }).leave (.copy core)
    let s5 := (s4.releaseToken k.token).wakeCore core (fun a => a == .copies || a == .copyRoom)
    if (s5.core core).copies.isEmpty then s5 else s5.post (.copyCommandStart core)
  | .park w s1 => s1.copyStall core w
  | .trap _ s1 => s1
  | .done s1 => s1

/-- The end of an aborted command whose signal is on its way to another package: it waits for the answer (R299, R300). One that was applied was the last
thing to issue, and the command has succeeded. DEDUCED: log entry 39. -/
def State.copyLanded (s : State) (core : Nat) (k : CopyCmd) (st : BitVec 18) : State :=
  match k.signal with
  | none => s.copyEnd core k st
  | some (va, dec) =>
    match s.copyAcc core k (accOp va 8 (.addWord (0 - dec.setWidth 64))) with
    | .ok _ s1 => s1.copyEnd core k 0
    | .trap _ s1 | .done s1 => s1.copyEnd core k st
    | .park w s1 => s1.copyStall core w

/-- COPY_COMMAND_END: every element has been performed, or one has failed: the signal, then the token word (R299, R301). -/
def execCopyCommandEnd (core : Nat) (s : State) : Out3 :=
  match (s.core core).copies with
  | [] => .next s
  | k :: _ =>
    match k.fail with
    | some st =>
      if !s.copyIssued core then .next (s.copyEnd core k st)
      else if k.pos != k.n then .next (s.copyStep core k)
      else .next (s.copyLanded core k st)
    | none =>
      if k.pos != k.n || (s.copyStops k && !s.copyIssued core) then .next s
      else
        match k.signal with
        | none => .next (s.copyEnd core k 0)
        | some (va, dec) =>
          if k.signaled then .next (s.copyEnd core k 0)
          else if k.beyond (s.core core).cyc.toNat then .next (s.copyFail core 2 (trapOf 17 0 0))
          else
            match s.copyAcc core k (accOp va 8 (.addWord (0 - dec.setWidth 64))) with
            | .ok _ s1 => .next ((s1.setCopy core (fun k => { k with signaled := true, stall := .none, since := none })).post (.copyCommandEnd core))
            | .trap i s1 => .next (s1.copyFail core 2 i)
            | .park w s1 => .next (s1.copyStall core w)
            | .done s1 => .next s1

/-- The next access of the first command of a core, whatever it is (R298, R301). -/
def execCopyNext (core : Nat) (s : State) : Out3 :=
  if ((s.core core).copies.head?.map (fun k => k.started && k.fail.isNone && k.pos == k.n)).getD false then execCopyCommandEnd core s
  else execCopyCommandStart core s

/-! ### The random generator (R304, R305) -/

/-- The counter of a thread. -/
def CRegs.counter (c : CRegs) : BitVec 128 := c.rngch ++ c.rngc

/-- Sets the counter of the issuing thread. -/
def State.setCounter (s : State) (v : BitVec 128) : State :=
  s.setMe { s.me with cr := { s.me.cr with rngc := v.extractLsb' 0 64, rngch := v.extractLsb' 64 64 } }

/-- The pair for a key and a counter. -/
def drawPair (k : Word) (v : BitVec 128) : Word × Word := philox k (v.extractLsb' 0 64) (v.extractLsb' 64 64)

/-- DRAW: R305. -/
def execDraw (d : SReg) (s : State) : Out3 :=
  ((s.ports [] [d] [] []).bind fun _ s1 =>
    let c := s1.me.cr
    .ok () ((s1.setCounter (c.counter + 1)).setS [] d (drawPair c.rngk c.counter).1)).finish

/-- DRAW_V: R305. -/
def execDrawV (d : VReg) (s : State) : Out3 :=
  ((s.ports [] [] [] [d]).bind fun _ s1 =>
    let c := s1.me.cr
    let es := (List.range 4).flatMap (fun m =>
      let y := drawPair c.rngk (c.counter + BitVec.ofNat 128 m)
      [y.1.toNat, y.2.toNat])
    .ok () (((s1.setCounter (c.counter + 4)).wv d (packElems 64 es)).retire)).finish

/-- RNGKEY: R305. -/
def execRngkey (k : SReg) (b : SReg) (c : SReg) (s : State) : Out3 :=
  ((s.ports [k, b, c] [] [] []).bind fun _ s1 =>
    let x := s1.me
    .ok () ((s1.setMe { x with cr := { x.cr with rngk := s1.rs k, rngc := s1.rs b, rngch := s1.rs c } }).doneS [k, b, c])).finish

/-- RNGADV: R305. -/
def execRngadv (b : SReg) (c : SReg) (s : State) : Out3 :=
  ((s.ports [b, c] [] [] []).bind fun _ s1 =>
    .ok () ((s1.setCounter (s1.me.cr.counter + (s1.rs c ++ s1.rs b))).doneS [b, c])).finish

end Sys2Proof.Machine
end

