-- ==== Sys2Proof/Machine/Faults.lean ====
section
/-!
DEFINITION. Walks, their results, the service of faults, and the invalidation of translations (24 R347 to R352, R357, R358; 30 R401).
-/

namespace Sys2Proof.Machine

/-! ### Walks -/

/-- Installs a leaf in a quad's translation cache, which holds 2,048 (R20, R348). -/
def State.install (s : State) (q : Nat) (l : Leaf) : State :=
  { s with tcaches := SMap.put s.tcaches q (keepLeaf 2048 (SMap.getD s.tcaches q []) l) }

/-- Whether an agent still waits for a page: for its walk, or for the service of its fault. -/
def Await.onPage (page : Nat) : Await → Bool
  | .walk va | .service va => va.toNat / 0x10000 == page
  | _ => false

/-- The address of such a wait. -/
def Await.pageVa : Await → Word
  | .walk va | .service va => va
  | _ => 0

/-- A wait for a walk as the wait for the service of the fault that it found. -/
def Await.served : Await → Await
  | .walk va => .service va
  | w => w

/-- The wait of an agent of a context for a page, and the PC of its instruction; none where it waits for none. -/
def State.pageWait (s : State) (ctx : BitVec 8) (page : Nat) (ag : Agent) : Option Await :=
  let w : Option Await := match ag with
    | .thread t => if (s.slot t).waitsFor (Await.onPage page) && s.ctxOf t.core == ctx then some (s.slot t).await else none
    | .access t k => if s.ctxOf t.core == ctx then (s.slot t).item k |>.map (fun p => p.2.stall) else none
    | .copy n => if s.ctxOf n == ctx then (s.core n).copies.head?.map (·.stall) else none
    | _ => none
  w.filter (Await.onPage page)

/-- The agent's wait for a page becomes a wait for the service of its fault (R350), at which a notice that is pending is taken. -/
def State.awaitService (s : State) (ctx : BitVec 8) (page : Nat) (ag : Agent) : State :=
  match s.pageWait ctx page ag, ag with
  | none, _ => s
  | some w, .thread t =>
    let s1 := s.setSlot t { s.slot t with await := w.served }
    if (s1.slot t).notice == 1 then s1.post (.preemptNotice t.core t.slot) else s1
  | some w, .access t k =>
    (match (s.slot t).item k with
    | some (_, i) => s.setItem t k { i with stall := w.served }
    | none => s)
  | some w, .copy n => s.setCopy n (fun k => { k with stall := w.served })
  | some _, _ => s

/-- An agent that waited for a page goes on: it translates again. -/
def State.retryPage (s : State) (page : Nat) (ag : Agent) : State :=
  match ag with
  | .thread t => if (s.slot t).waitsFor (Await.onPage page) then s.wake t else s
  | _ => s.resume ag

/-- Whether a parked instruction is a CALLT. -/
def Cont.isCallt (c : Cont) : Bool := c.head &&& 0xFF07 == 0x4B01 || c.head == 0x8B01

/-- The access of an agent that waits for a page fails, at its own address (R339, R354, R382); a fetch reports the PC. A window-stack overflow of a
CALLT stands above an ECC error (R338). -/
def State.pageTrap (s : State) (ctx : BitVec 8) (page : Nat) (i : TrapInfo) (ag : Agent) : State :=
  match s.pageWait ctx page ag, ag with
  | some w, .thread t =>
    let x := s.slot t
    let tops := (x.cont.map Cont.isCallt).getD false && x.spillBlocked && decide (11 ≤ i.cls.toNat)
    s.preciseOf t (if tops then windowTrap x 1 else { i with tval := if x.cont.isNone then x.pc else w.pageVa })
  | some w, .access t k =>
    (match (s.slot t).item k with
    | some (_, j) => s.itemDone t k { j with stall := .none } (some { i with tval := w.pageVa })
    | none => s)
  | some w, .copy n => match (s.core n).copies.head? with
    | some k => s.copyFail n k.side { i with tval := w.pageVa }
    | none => s
  | _, _ => s

/-- TRANSLATION_WALK: the walk reads its tables; a leaf is installed for the quads whose misses joined it and every waiting agent goes on; a table line that
cannot be read fails their accesses (R354, R355, R382, R388); otherwise a fault is raised (R347 to R350). DESIGN CHOICE: log entry 45. -/
def execTranslationWalk (w : Nat) (s : State) : Out3 :=
  match s.walks.find? (fun x => x.seq == w) with
  | none => .next s
  | some x =>
    let s1 := { s with walks := s.walks.filter (fun y => y.seq != w) }
    match s1.walk x.ctx x.va with
    | .leaf big pte =>
      let l : Leaf := { ctx := x.ctx, page := if big then x.va.toNat / 0x20000000 else x.page, big := big, pte := pte }
      let s2 := x.quads.foldl (fun s q => s.install q l) s1
      .next (x.agents.foldl (State.retryPage · x.page) s2)
    | .fails c k => .next (x.agents.foldl (fun s a => s.pageTrap x.ctx x.page (trapOf c k 0) a) s1)
    | .bad level mal => .next (x.agents.foldl (State.awaitService · x.ctx x.page) (s1.raiseFault x.ctx x.va x.kind level mal x.agents)).recordFaults

/-! ### Acknowledgement (R352) -/

/-- CODE of the trap of a fault that is refused: the level at which the entry failed, and whether it was malformed (R339). -/
def FaultRec.code (r : FaultRec) : Nat :=
  (r.words[1].extractLsb' 18 2).toNat + (if r.words[1].getLsbD 20 then 16 else 0)

/-- Refuses an agent's fault: a fatal trap of class 8, a failed copy, or a failed access. -/
def State.refuse (s : State) (r : FaultRec) (ag : Agent) : State :=
  match ag with
  | .thread _ | .access _ _ | .copy _ => s.pageTrap r.ctx r.page (trapOf 8 r.code 0) ag
  | .window _ | .grid _ | .blocker _ | .ssc | .faultUnit _ | .fack _ => s
  | a => { s with refused := s.refused ++ [(a, r.ctx.toNat, r.page, r.code)] }.resume a

/-- The record of an index is serviced: its agents retry, or their fault is refused. -/
def State.service (s : State) (r : FaultRec) (retry : Bool) : State :=
  let s1 := { s with faults := s.faults.filter (fun x => !(x.ctx == r.ctx && x.page == r.page)) }
  if retry then r.agents.foldl (fun s a => s.retryPage r.page a) s1 else r.agents.foldl (fun s a => s.refuse r a) s1

/-- Takes up an acknowledgement: FACK takes the index, and the STATUS of its record is read at its home; none where no record has it. -/
def State.ackRead (s : State) (fn : Nat) (ctx : BitVec 8) (idx : BitVec 32) (known : Bool) : Res Nat :=
  let ag : Agent := .fack fn
  let f := s.fn fn
  (match s.uStore ag ctx (f.fctl + 24) 4 idx.toNat with
    | .trap _ s1 => .done s1
    | r => r : Res Unit).bind fun _ s1 =>
    if !known then .ok 0 s1
    else
      (s1.uLoad ag ctx f.fctl 8).bind fun base s2 => (s2.uLoad ag ctx (f.fctl + 8) 8).bind fun size s3 =>
        s3.uLoad ag ctx (BitVec.ofNat 64 (base + 32 * (idx.toNat % 2 ^ (size % 32))) + 24) 1

/-- An acknowledgement of a function has been taken up. -/
def State.ackDrop (s : State) (fn : Nat) : State :=
  let s1 := s.unitEnd (.fack fn)
  s1.setFn fn { s1.fn fn with acks := (s1.fn fn).acks.drop 1 }

/-- The acknowledgements of a function, the oldest first: fuel bounds them. One whose FACK cannot be stored changes nothing; a record whose STATUS
cannot be read is refused. -/
def State.ackWork (s : State) (fn : Nat) : (fuel : Nat) → State
  | 0 => s
  | k + 1 =>
    match (s.fn fn).acks with
    | [] => s
    | idx :: _ =>
      let rec? := s.faults.find? (fun r => r.fn == fn && r.index == some idx.toNat)
      let ctx? : Option (BitVec 8) := match rec? with
        | some r => some (s.ringCtx r.ctx)
        | none => (s.ssc.contexts.find? (fun p => p.2.owner == fn)).map (fun p => s.ringCtx (BitVec.ofNat 8 p.1))
      let taken (s : State) : State :=
        let s1 := s.ackDrop fn
        s1.setFn fn { s1.fn fn with facked := idx, fwait := false }
      let served (s : State) (status : Nat) : State := match rec? with
        | some r => (taken s).service r (status == 1)
        | none => taken s
      match ctx? with
      | none => (s.ackDrop fn).ackWork fn k
      | some ctx =>
        match s.ackRead fn ctx idx rec?.isSome with
        | .park _ s1 => s1
        | .ok status s1 => ((served s1 status).recordFaults).ackWork fn k
        | .trap _ s1 => ((served s1 0).recordFaults).ackWork fn k
        | .done s1 => (s1.ackDrop fn).ackWork fn k

/-- FACK_STORE: a store of an index to FACK; the fault unit reads STATUS of that record at its home (R352). -/
def execFackStore (fn : BitVec 6) (idx : BitVec 32) (s : State) : Out3 :=
  let f := s.fn fn.toNat
  .next ((s.setFn fn.toNat { f with acks := f.acks ++ [idx] }).ackWork fn.toNat (f.acks.length + 1))

/-! ### Invalidation (R348, R358) -/

/-- Whether a leaf's page overlaps [base, base + len). -/
def Leaf.overlaps (l : Leaf) (base len : Nat) : Bool :=
  let size := if l.big then 0x20000000 else 0x10000
  len != 0 && decide (l.page * size < base + len) && decide (base < (l.page + 1) * size)

/-- Discards a context's entries, all of them or those that overlap a range, from the caches of the quads that q names, and from those of the I/O
dies. -/
def State.invalidate (s : State) (q : Nat → Bool) (io : Bool) (ctx : BitVec 8) (range : Option (Nat × Nat)) : State :=
  let hit (l : Leaf) : Bool := l.ctx == ctx && (match range with
    | none => true
    | some (b, n) => l.overlaps b n)
  let sweep (m : SMap (List Leaf)) (p : Nat → Bool) : SMap (List Leaf) :=
    (m.map (fun e => if p e.1 then (e.1, e.2.filter (fun l => !hit l)) else e)).filter (fun e => !e.2.isEmpty)
  { s with tcaches := sweep s.tcaches q, iocaches := if io then sweep s.iocaches (fun _ => true) else s.iocaches }

/-- The quads within a scope of a core: quad, die or pkg. -/
def quadIn (sc : BitVec 3) (core q : Nat) : Bool :=
  match sc.toNat with
  | 2 => q == quadOf core
  | 3 => q / 128 == dieOf core
  | _ => true

/-- TCINV of a range: step 1 means that every cache has acknowledged. The context's scope and range are kept with the parked instruction. -/
def State.tcinv (s : State) (sc : BitVec 3) (range : Option (Word × Word)) (done : State → State) : Res Unit :=
  if s.cont.step == 1 then .ok () (done s)
  else
    let k := s.cont
    let arg : List Line := match range with
      | none => [sc.setWidth 512]
      | some (b, n) => [sc.setWidth 512, b.setWidth 512, n.setWidth 512]
    .park .acks ((s.setCont { k with acc := arg }).post (.tcinvAcknowledgement s.cur.core s.cur.slot))

/-- TCINV, every entry of the context: R357, R358. -/
def execTcinv (sc : BitVec 3) (s : State) : Out3 := (s.tcinv sc none State.retire).finish

/-- TCINV of a range: R357, R358. -/
def execTcinvM (b c : SReg) (sc : BitVec 3) (s : State) : Out3 :=
  ((s.ports [b, c] [] [] []).bind fun _ s1 => s1.tcinv sc (some (s1.rs b, s1.rs c)) (fun s2 => s2.doneS [b, c])).finish

/-- TCINV_ACKNOWLEDGEMENT: every cache of the scope has discarded the entries; the issuer goes on. -/
def execTcinvAcknowledgement (core : Nat) (slot : BitVec 3) (s : State) : Out3 :=
  let t : Tid := ⟨core, slot⟩
  let x := s.slot t
  match x.cont with
  | some k =>
    if x.waitsFor (· == .acks) && k.step == 0 then
      let arg (i : Nat) : Nat := ((k.acc[i]?).getD 0).toNat
      let sc : BitVec 3 := BitVec.ofNat 3 (arg 0)
      let range := if k.acc.length == 3 then some (arg 1, arg 2) else none
      let s1 := s.invalidate (quadIn sc core) (sc == 4) (s.ctxOf core) range
      .next ((s1.setSlot t { x with cont := some { k with step := 1 } }).wake t)
    else .next s
  | none => .next s

/-! ### SLEEP (R359) -/

/-- SLEEP: step 1 means that the sleep has begun; its end is a count of the core. -/
def execSleep (b : SReg) (s : State) : Out3 :=
  ((s.ports [b] [] [] []).bind fun _ s1 =>
    let n := ((s1.rs b).extractLsb' 0 32).toNat
    let now := s1.myCore.cyc.toNat
    let due := match s1.me.await with
      | .sleep d => d
      | _ => s1.cont.idx
    if n = 0 then .ok () (s1.doneS [b])
    else if s1.cont.step == 1 then
      if due ≤ now then .ok () (s1.doneS [b]) else .park (.sleep due) s1
    else
      let k := s1.cont
      .park (.sleep (now + n)) ((s1.setCont { k with step := 1, idx := now + n }).timer s1.cur.core (now + n) (.sleepExpiry s1.cur.core s1.cur.slot))).finish

/-- SLEEP_EXPIRY: the count has been reached; a STOPPED slot keeps the event (R359, R366). -/
def execSleepExpiry (core : Nat) (slot : BitVec 3) (s : State) : Out3 :=
  let t : Tid := ⟨core, slot⟩
  let now := (s.core core).cyc.toNat
  let due := match (s.slot t).await with
    | .sleep d => decide (d ≤ now)
    | _ => false
  .next (if (s.slot t).waitsFor (fun _ => due) then s.wake t else s)

end Sys2Proof.Machine
end

