-- ==== Sys2Proof/Machine/Replay.lean ====
section
/-!
DEFINITION. The recording and the replay of a host function's packets: the control record, the log, snapshots and digests (26 R376 to R378). What is to be
done for one is a list, done in its order; each part waits for its accesses.
-/

namespace Sys2Proof.Machine

/-- What is still to be done for a recording after a part of it, or nothing when the part ended it. -/
abbrev LogNext := Replay → Option Replay

/-- The recording goes on, with more to be done first. -/
def logMore (js : List LogJob) : LogNext := fun r => some { r with work := js ++ r.work }

/-- The recording ends with a STATUS. -/
def logStop (st : Nat) : LogNext := fun r => some { r with work := [.stop st], ending := true }

/-- Writes STATUS of a replay control record. -/
def State.replayStatus (s : State) (ag : Agent) (r : Replay) (st : Nat) : Res Unit := s.uStore ag r.ctx (r.addr + 32) 8 st

/-- The words of a replay control record. -/
def State.replayRecord (s : State) (ag : Agent) (r : Replay) : Res (List Nat) := s.uLoads ag r.ctx r.addr 8 40

/-- Whether a replay control record may be used: reserved fields zero, NREG at most 16, LBASE and LLEN aligned. -/
def replayOk (a : Word) (ws : List Nat) : Bool :=
  let w (k : Nat) : Nat := ws[k]?.getD 0
  a.toNat % 64 == 0 && w 0 % 64 == 0 && w 1 % 64 == 0 && decide (w 2 ≤ 16) && w 5 == 0 && w 6 == 0 && w 7 == 0 &&
    (List.range 16).all (fun k => decide (w (9 + 2 * k) < 2 ^ 58))

/-- The designated regions of a record: base, word 9 + 2k. -/
def regionsOf (ws : List Nat) : List (Word × Word) :=
  (List.range (ws[2]?.getD 0 % 32)).map (fun k => (BitVec.ofNat 64 (ws[8 + 2 * k]?.getD 0), BitVec.ofNat 64 (ws[9 + 2 * k]?.getD 0)))

/-- The length of a region. -/
def regionLen (w : Word) : Nat := (w.extractLsb' 0 56).toNat

/-! ### Snapshots and digests (R376) -/

/-- The entries of a snapshot: one for every SNAP region, from region k on. -/
def State.snapshots (s : State) (ag : Agent) (r : Replay) (k : Nat) : List (Word × Word) → Res (List LogJob)
  | [] => .ok [] s
  | (b, w) :: rs =>
    if !w.getLsbD 56 then s.snapshots ag r (k + 1) rs
    else
      let n := regionLen w
      (s.uLoads ag r.ctx b 1 n).bind fun v s1 => (s1.snapshots ag r (k + 1) rs).bind fun js s2 =>
        .ok (.entry 1 r.packets (24 + n) (k + 2 ^ 64 * b.toNat + 2 ^ 128 * n + 2 ^ 192 * bytesNat (v.map (BitVec.ofNat 8))) :: js) s2

/-- What the digest is taken over: the DIG regions in order, each after its base and its length. -/
def State.digested (s : State) (ag : Agent) (ctx : BitVec 8) : List (Word × Word) → Res (List Byte)
  | [] => .ok [] s
  | (b, w) :: rs =>
    if !w.getLsbD 57 then s.digested ag ctx rs
    else
      (s.uLoads ag ctx b 1 (regionLen w)).bind fun v s1 => (s1.digested ag ctx rs).bind fun bs s2 =>
        .ok (natBytes 8 b.toNat ++ natBytes 8 (regionLen w) ++ v.map (BitVec.ofNat 8) ++ bs) s2

/-- The digest: SHAKE256 cut to 128 bits. -/
def State.replayDigest (s : State) (ag : Agent) (r : Replay) : Res Nat :=
  (s.replayRecord ag r).bind fun ws s1 => (s1.digested ag r.ctx (regionsOf ws)).bind fun bs s2 => .ok (Config.shake256 bs 16) s2

/-! ### The log (R377) -/

/-- Appends an entry: its header, payload and padding; where it would pass the end of the log, recording stops with STATUS 2. -/
def State.logPut (s : State) (ag : Agent) (r : Replay) (ty idx len payload : Nat) : Res LogNext :=
  (s.uLoad ag r.ctx r.addr 8).bind fun base s1 => (s1.uLoad ag r.ctx (r.addr + 8) 8).bind fun max s2 =>
    (s2.uLoad ag r.ctx (r.addr + 24) 8).bind fun at_ s3 =>
      let size := (16 + len + 63) / 64 * 64
      if max < at_ + size then .ok (logStop 2) s3
      else
        let v := ty + len * 2 ^ 32 + idx * 2 ^ 64 + payload % 256 ^ len * 2 ^ 128
        let lines := (List.range (size / 64)).map (fun k => v / 2 ^ (512 * k) % 2 ^ 512)
        (s3.uStores ag r.ctx (BitVec.ofNat 64 (base + at_)) 64 lines).bind fun _ s4 =>
          (s4.uStore ag r.ctx (r.addr + 24) 8 (at_ + size)).bind fun _ s5 => .ok (logMore []) s5

/-- One entry of a log: type, packet index, payload length, payload as a number. -/
structure LogEntry where
  ty : Nat
  idx : Nat
  len : Nat
  payload : Nat
deriving DecidableEq, Repr

/-- The complete entries of a log of so many bytes: fuel bounds them. -/
def State.readLog (s : State) (ag : Agent) (ctx : BitVec 8) (base : Word) (size : Nat) : (fuel at_ : Nat) → Res (List LogEntry)
  | 0, _ => .ok [] s
  | fuel + 1, at_ =>
    if size < at_ + 64 then .ok [] s
    else
      let a := base + BitVec.ofNat 64 at_
      (s.uLoad ag ctx a 8).bind fun h s1 => (s1.uLoad ag ctx (a + 8) 8).bind fun idx s2 =>
        let len := h / 2 ^ 32
        let whole := (16 + len + 63) / 64 * 64
        if size < at_ + whole then .ok [] s2
        else
          (s2.uLoads ag ctx (a + 16) 1 len).bind fun v s3 => (s3.readLog ag ctx base size fuel (at_ + whole)).bind fun es s4 =>
            .ok ({ ty := h % 256, idx := idx, len := len, payload := bytesNat (v.map (BitVec.ofNat 8)) } :: es) s4

/-- Writes the snapshots of a log back. -/
def State.restoreSnapshots (s : State) (ag : Agent) (ctx : BitVec 8) : List LogEntry → Res Unit
  | [] => .ok () s
  | e :: es =>
    if e.ty != 1 then s.restoreSnapshots ag ctx es
    else
      (s.uStores ag ctx (natWord e.payload 1) 1 ((natBytes (e.len - 24) (e.payload / 2 ^ 192)).map (·.toNat))).bind fun _ s1 =>
        s1.restoreSnapshots ag ctx es

/-- The packets of a log whose digest is present, in order. -/
def loggedPackets (es : List LogEntry) : List Logged :=
  (es.filter (fun e => e.ty == 2)).filterMap (fun e =>
    (es.find? (fun d => d.ty == 3 && d.idx == e.idx)).map (fun d =>
      { idx := e.idx, queue := (natWord e.payload 0).toNat % 8192, packet := Vector.ofFn (fun i : Fin 16 => natWord e.payload (2 + i.val)),
        nbv := (natWord e.payload 1).getLsbD 0, digest := BitVec.ofNat 128 d.payload }))

/-! ### The parts, in their order -/

/-- Who does a part: the secure service core takes digests, the dispatcher does the rest (R376). -/
def LogJob.agent (fn : Nat) : LogJob → Agent
  | .digest _ | .compare _ => .digest fn
  | _ => .recorder fn

/-- One part of a recording or a replay. -/
def State.logJob (s : State) (ag : Agent) (r : Replay) : LogJob → Res LogNext
  | .arm =>
    (s.replayRecord ag r).bind fun ws s1 =>
      if !replayOk r.addr ws then .ok (logStop 6) s1
      else (s1.uStore ag r.ctx (r.addr + 24) 8 0).bind fun _ s2 => (s2.replayStatus ag r 1).bind fun _ s3 => .ok (logMore []) s3
  | .snapshot => (s.replayRecord ag r).bind fun ws s1 => (s1.snapshots ag r 0 (regionsOf ws)).bind fun js s2 => .ok (logMore js) s2
  | .entry ty idx len payload => s.logPut ag r ty idx len payload
  | .digest k => (s.replayDigest ag r).bind fun v s1 => .ok (logMore [.entry 3 k 16 v]) s1
  | .stop st => (s.replayStatus ag r st).bind fun _ s1 => .ok (fun _ => none) s1
  | .restore =>
    (s.replayRecord ag r).bind fun ws s1 =>
      if !replayOk r.addr ws then .ok (logStop 6) s1
      else
        let w (k : Nat) : Nat := ws[k]?.getD 0
        (s1.replayStatus ag r 3).bind fun _ s2 =>
          (s2.readLog ag r.ctx (BitVec.ofNat 64 (w 0)) (w 3) (w 3 / 64) 0).bind fun es s3 =>
            (s3.restoreSnapshots ag r.ctx es).bind fun _ s4 => .ok (fun r => some { r with left := loggedPackets es }) s4
  | .compare k =>
    (s.replayDigest ag r).bind fun found s1 =>
      let want := ((r.left.head?).map (·.digest.toNat)).getD 0
      if found == want then .ok (fun r => some { r with left := r.left.drop 1, wait := none }) s1
      else .ok (fun r => some { r with work := [.entry 5 k 40 (k + 2 ^ 64 * want + 2 ^ 192 * found), .stop 5], ending := true }) s1

/-- A recording or a replay is over; the command that started a replay is complete (R401). -/
def State.logOver (s : State) (r : Replay) : State :=
  let s1 := s.disarm r.fn
  if r.replaying then s1.setFn r.fn { s1.fn r.fn with busy := false } else s1

/-- What is to be done for a function, in its order: fuel bounds it. Where a part fails, recording stops with STATUS 2, and a replay or one whose STATUS
cannot be written is over. A replay goes on when all of it is done. -/
def State.logWork (s : State) (fn : Nat) : (fuel : Nat) → State
  | 0 => s
  | k + 1 =>
    match s.replayOf fn with
    | none => s
    | some r =>
      match r.work with
      | [] => if r.replaying then s.post (.replay (BitVec.ofNat 6 fn)) else s
      | j :: _ =>
        let ag := j.agent fn
        match s.logJob ag r j with
        | .park _ s1 => s1
        | .ok f s1 =>
          let s2 := s1.unitEnd ag
          match s2.replayOf fn with
          | none => s2
          | some r1 =>
            (match f { r1 with work := r1.work.drop 1 } with
            | some r2 => (s2.setReplay r2).logWork fn k
            | none => s2.logOver r1)
        | .trap _ s1 | .done s1 =>
          let s2 := s1.unitEnd ag
          if r.ending || r.replaying || j == .arm then s2.logOver r
          else (s2.setReplay { r with work := [.stop 2], ending := true }).logWork fn k

/-- Bounds the parts that one turn of the recorder does. -/
def logFuel (r : Replay) : Nat := 40 + r.work.length

/-- Every recording and replay goes on. -/
def State.logWorks (s : State) : State := s.replays.foldl (fun s r => if r.work.isEmpty then s else s.logWork r.fn (logFuel r)) s

end Sys2Proof.Machine
end

