-- ==== Sys2Proof/Machine/Reward.lean ====
section
/-!
DEFINITION. The reward join units and the fuller (22 R324 to R337).
-/

namespace Sys2Proof.Machine

/-! ### Units -/

def State.setEntry (s : State) (u k : Nat) (e : Entry) : State :=
  let j := s.join u
  s.setJoin u { j with entries := SMap.put j.entries k e }

def State.setGroup (s : State) (u k : Nat) (g : Group) : State :=
  let j := s.join u
  s.setJoin u { j with groups := SMap.put j.groups k g }

/-- The unit that serves a group (R324). -/
def unitOfGroup (g : BitVec 4) : Nat := g.toNat % 2

/-- The present binding of a context's group. -/
def JoinUnit.binding (j : JoinUnit) (ctx : BitVec 8) (g : BitVec 4) : Option (Nat × Group) :=
  j.groups.find? (fun p => p.2.ctx == ctx && p.2.g == g && p.2.bound)

/-- The entry of a key (R327): at most one. -/
def JoinUnit.lookup (j : JoinUnit) (ctx : BitVec 8) (g : BitVec 4) (key : Word) : Option (Nat × Entry) :=
  j.entries.find? (fun p => p.2.ctx == ctx && p.2.group == g && p.2.key == key)

/-! ### Descriptor fields (R326) -/

def Entry.ver (e : Entry) : BitVec 32 := e.desc[1].extractLsb' 32 32

def Entry.nparts (e : Entry) : Nat := (e.desc[1].extractLsb' 16 8).toNat

def Entry.steps (e : Entry) : Nat := (e.desc[1].extractLsb' 0 13).toNat

def Entry.term (e : Entry) : Bool := e.desc[6].getLsbD 0

def Entry.discards (e : Entry) : Bool := e.desc[6].getLsbD 1

def Entry.deadline (e : Entry) : Nat := (e.desc[7].extractLsb' 0 48).toNat

/-- The count of arrived parts. -/
def Entry.arrived (e : Entry) : Nat := ((List.range 64).filter (fun k => e.parts.getLsbD k)).length

/-- Whether every expected part has been recorded. -/
def Entry.complete (e : Entry) : Bool := (List.range e.nparts).all (fun k => e.parts.getLsbD k)

/-- Whether an entry's deadline has been reached (R330). -/
def Entry.reached (e : Entry) (count : Word) : Bool := e.deadline != 0 && decide (e.reg.toNat + e.deadline ≤ count.toNat)

/-- Whether a deadline of an entry is to be handled now: it is OPEN since an earlier cycle and every part handled has been recorded (R330). -/
def Entry.dueNow (e : Entry) (count : Word) : Bool :=
  e.state == 2 && e.pending.isEmpty && e.reached count && decide (e.opened.toNat < count.toNat)

/-! ### What a unit has to do -/

/-- Reserved bits of a reward header (R328). -/
def rewardReserved : Word := 0x03F0E000FFE0FFFF

/-- Whether the message at the head of the queue, if there is one, waits for its entry to leave ZERO (R329). -/
def JoinUnit.headWaits (j : JoinUnit) : Bool :=
  match j.inq with
  | [] => true
  | m :: _ =>
    match j.lookup m.ctx (m.hdr.extractLsb' 48 4) m.key with
    | some (_, e) =>
      e.state == 1 && (j.binding m.ctx (m.hdr.extractLsb' 48 4)).isSome && m.hdr &&& rewardReserved == 0 && !m.hdr.getLsbD 20
    | none => false

/-- Whether an instruction has its turn in the cycle before anything else: not while it waits for a record (R329; DEDUCED: log entry 43). -/
def JoinUnit.instrFirst (j : JoinUnit) : Bool := j.phase == 0 && !j.instrs.isEmpty && !j.stalled

/-- The steps that are possible in a unit. -/
def JoinUnit.ready (j : JoinUnit) (u : BitVec 1) : List Event :=
  (if j.instrFirst then [.unitInstructionHandling u] else []) ++
  (if !j.headWaits && decide (j.phase ≤ 1) then [.rewardMessageHandling u] else []) ++
  j.entries.flatMap (fun p =>
    if p.2.stalled then []
    else if p.2.state == 1 then [.zeroFillDone u p.1]
    else if p.2.state == 2 then (if p.2.pending.isEmpty || j.instrFirst then [] else [.partRecorded u p.1])
    else if p.2.state == 4 then (if p.2.pending.isEmpty then [.fullerScanDone u p.1] else [.partRecorded u p.1])
    else if p.2.state == 5 then
      (if decide (j.count.toNat ≤ p.2.done.toNat) || ((p.2.grec.bind (SMap.find j.groups)).map (·.full)).getD false then [] else [.episodeRelease u p.1])
    else []) ++
  (if decide (j.phase ≤ 2) && j.entries.any (fun p => p.2.dueNow j.count) then [.deadline u] else [])

/-- Posts what is possible in a unit. -/
def State.joinKick (s : State) (u : Nat) : State := ((s.join u).ready (BitVec.ofNat 1 u)).foldl State.post s

/-! ### Rings (R325) -/

/-- The address of the next record of a ring. -/
def Group.ringAt (g : Group) (r : Ring) : Word :=
  let at_ (base : Word) (sh : Nat) (i : BitVec 32) : Word :=
    base + BitVec.ofNat 64 (32 * (i.toNat % 2 ^ (g.sizes.extractLsb' sh 5).toNat))
  match r with
  | .learner => at_ g.lbase 0 g.lwrite
  | .stale => at_ g.sbase 8 g.swrite
  | .orphan => at_ g.obase 16 g.owrite

/-- The group after a record: its index, with the place of the index in the record. -/
def Group.advance (g : Group) (r : Ring) : Group × Nat × Nat :=
  match r with
  | .learner => let i := g.lwrite + 1; ({ g with lwrite := i }, 16, i.toNat)
  | .stale => let i := g.swrite + 1; ({ g with swrite := i }, 32, i.toNat)
  | .orphan => let i := g.owrite + 1; ({ g with owrite := i }, 48, i.toNat)

/-- A write-back of a field of the group record, performed at home; one that fails changes nothing. -/
def State.writeBack (s : State) (ag : Agent) (g : Group) (off n v : Nat) : Res Unit :=
  match s.uStore ag g.ctx (g.addr + BitVec.ofNat 64 off) n v with
  | .trap _ s1 => .ok () s1
  | r => r

/-- What a binding's ring job does: the record and its index, or ERR. -/
def State.ringJob (s : State) (ag : Agent) (g : Group) : RingJob → Res Unit
  | .record r ws => (s.uStore ag g.ctx (g.ringAt r) 32 (wordsNat ws)).bind fun _ s1 => s1.writeBack ag g (g.advance r).2.1 4 (g.advance r).2.2
  | .error e => s.writeBack ag g 72 1 e.toNat

/-- The group after a job: the index has advanced, or the error stands. -/
def Group.after (g : Group) : RingJob → Group
  | .record r _ => (g.advance r).1
  | .error e => { g with err := e }

/-- Bindings that nothing needs any more are dropped: no entry holds them, and they have nothing left to write. -/
def JoinUnit.tidy (j : JoinUnit) : JoinUnit :=
  { j with groups := j.groups.filter (fun p => p.2.bound || !p.2.work.isEmpty || j.entries.any (fun q => q.2.grec == some p.1)) }

/-- What binding b of a unit has to write, in its order; a record whose write fails is lost and sets ERR to 2 (R325, R333): fuel bounds it. -/
def State.ringWork (s : State) (u b : Nat) : (fuel : Nat) → State
  | 0 => s
  | k + 1 =>
    match SMap.find (s.join u).groups b with
    | none => s
    | some g =>
      match g.work with
      | [] => s
      | w :: ws =>
        let ag : Agent := .group u b
        let after (s : State) (g : Group) : State :=
          let s1 := (s.unitEnd ag).setGroup u b g
          s1.setJoin u (s1.join u).tidy
        match s.ringJob ag g w with
        | .park _ s1 => s1
        | .ok _ s1 => (after s1 { g.after w with work := ws }).ringWork u b k
        | .trap _ s1 | .done s1 => (after s1 { g with work := .error 2 :: ws }).ringWork u b k

/-- Gives a binding something to write. -/
def State.ringAdd (s : State) (u b : Nat) (w : RingJob) : State :=
  match SMap.find (s.join u).groups b with
  | some g => (s.setGroup u b { g with work := g.work ++ [w] }).ringWork u b (2 * g.work.length + 3)
  | none => s

/-- A cycle of a join unit (R26, R27, R329): what its bindings still have to write goes on. -/
def State.joinClock (s : State) (u : Nat) : State :=
  let j := s.join u
  let s1 := s.setJoin u { j with count := j.count + 1, phase := 0 }
  (j.groups.foldl (fun s p => if p.2.work.isEmpty then s else s.ringWork u p.1 (2 * p.2.work.length + 1)) s1).joinKick u

/-- The identity of a unit (R28). -/
def joinIdent (u : Nat) : Word := BitVec.ofNat 64 (0x1000 + u)

/-- A stale or learner record (R331). -/
def Entry.record (e : Entry) (u reason : Nat) (count : Word) : List Word :=
  [e.key, e.ver ++ BitVec.ofNat 8 reason ++ (0 : BitVec 1) ++ BitVec.ofNat 7 e.arrived ++ (0 : BitVec 2) ++ BitVec.ofBool e.tout ++
    BitVec.ofNat 13 e.steps, count, joinIdent u]

/-! ### Entries -/

/-- Closes an entry with an outcome: 1 released, 2 discarded, 3 stale, 4 failed. -/
def State.closeEntry (s : State) (u k : Nat) (e : Entry) (out : Nat) : State :=
  let s0 := s.unitEnd (.entry u k)
  let j := s0.join u
  s0.setJoin u { j with
    entries := SMap.put j.entries k { e with state := 6, out := out, order := j.closes, pending := [], stalled := false, grec := none }
    closes := j.closes + 1 }.tidy

/-- Closes an entry; its stale record goes to the ring of binding b (R327, R331). -/
def State.closeStale (s : State) (u k : Nat) (e : Entry) (b out reason : Nat) (count : Word) : State :=
  ((s.ringAdd u b (.record .stale (e.record u reason count))).closeEntry u k e out).joinKick u

/-- Closes an entry as failed: a stale record of reason 3, where its group is bound (R327). -/
def State.closeFailed (s : State) (u k : Nat) (e : Entry) : State :=
  match (s.join u).binding e.ctx e.group with
  | some (b, _) => s.closeStale u k e b 4 3 (s.join u).count
  | none => s.closeEntry u k e 4

/-- Completion (R331): the lag check, with the group's current version. -/
def State.completeEntry (s : State) (u k : Nat) (e : Entry) (tout : Bool) : State :=
  let j := s.join u
  match j.binding e.ctx e.group with
  | none => s.closeEntry u k e 4
  | some (b, g) =>
    let e1 := { e with tout := tout, done := j.count, state := 3, grec := some b }
    if (g.sizes.extractLsb' 32 32).toNat < (g.version - e.ver).toNat then s.closeStale u k e1 b 3 1 j.count
    else (s.setEntry u k { e1 with state := 4 }).joinKick u

/-- An entry goes on after an access of it was answered, or waits for that. -/
def State.entryEnd (s : State) (u k : Nat) (e : Entry) : State := ((s.unitEnd (.entry u k)).setEntry u k e).joinKick u

def State.entryStall (s : State) (u k : Nat) (e : Entry) : State := s.setEntry u k { e with stalled := true }

/-- ZERO_FILL_DONE: the T writes of +0 are performed at home; the entry opens (R327). -/
def execZeroFillDone (u : BitVec 1) (ent : Nat) (s : State) : Out3 :=
  let v := u.toNat
  match SMap.find (s.join v).entries ent with
  | none => .next s
  | some e =>
    if e.state != 1 then .next s
    else
      match s.uStores (.entry v ent) e.ctx e.desc[2] 4 (List.replicate e.steps 0) with
      | .ok _ s1 => .next (s1.entryEnd v ent { e with state := 2, opened := (s1.join v).count })
      | .park _ s1 => .next (s1.entryStall v ent e)
      | .trap _ s1 | .done s1 => .next (s1.closeFailed v ent e)

/-- PART_RECORDED: the rewards of the oldest part that is being written are performed at home and its bit is set; the last missing one completes
the episode (R327, R329, R331), whose scan waits for copies of parts that are still being written. It comes after the cycle's instruction, whose turn is then
over. DEDUCED: log entry 43. -/
def execPartRecorded (u : BitVec 1) (ent : Nat) (s : State) : Out3 :=
  let v := u.toNat
  match SMap.find (s.join v).entries ent with
  | none => .next s
  | some e =>
    match e.pending with
    | [] => .next s
    | (hdr, data) :: ps =>
      if (e.state != 2 && e.state != 4) || (s.join v).instrFirst then .next s
      else
        let start := (hdr.extractLsb' 32 13).toNat
        let n := (hdr.extractLsb' 16 5).toNat + 1
        let ws := (List.range n).map (fun k => (data.extractLsb' (32 * k) 32).toNat)
        match s.uStores (.entry v ent) e.ctx (e.desc[2] + BitVec.ofNat 64 (4 * start)) 4 ws with
        | .ok _ s1 =>
          let s0 := s1.unitEnd (.entry v ent)
          let s2 := s0.setJoin v { s0.join v with phase := Nat.max 1 (s0.join v).phase }
          let e1 := { e with parts := e.parts ||| ((1 : BitVec 64) <<< (hdr.extractLsb' 58 6).toNat), pending := ps }
          if e.state == 2 && e1.complete then .next (s2.completeEntry v ent e1 false) else .next ((s2.setEntry v ent e1).joinKick v)
        | .park _ s1 => .next (s1.entryStall v ent e)
        | .trap _ s1 | .done s1 => .next (if e.state == 4 then s1.closeStale v ent e (e.grec.getD 0) 4 3 e.done else s1.closeFailed v ent e)

/-- Whether the deadlines have their turn in the cycle: once, after the cycle's instruction and message (R329, R330). -/
def JoinUnit.deadlineTurn (j : JoinUnit) : Bool :=
  !j.instrFirst && (j.headWaits || decide (2 ≤ j.phase)) && decide (j.phase ≤ 2)

/-- Inserts an entry in the order of keys. -/
def byKey (p : Nat × Entry) : List (Nat × Entry) → List (Nat × Entry)
  | [] => [p]
  | q :: qs => if p.2.key.toNat ≤ q.2.key.toNat then p :: q :: qs else q :: byKey p qs

/-- DEADLINE: the deadlines that are due, in ascending key (R330). -/
def execDeadline (u : BitVec 1) (s : State) : Out3 :=
  let j := s.join u.toNat
  let due := (j.entries.filter (fun p => p.2.dueNow j.count)).foldr byKey []
  if due.isEmpty || !j.deadlineTurn then .next s
  else
    .next (due.foldl (fun s p =>
      if p.2.discards then
        match (s.join u.toNat).binding p.2.ctx p.2.group with
        | some (b, _) => s.closeStale u.toNat p.1 p.2 b 2 2 j.count
        | none => s.closeEntry u.toNat p.1 p.2 2
      else s.completeEntry u.toNat p.1 p.2 true) (s.setJoin u.toNat { j with phase := 3 }))

/-! ### Messages (R328, R329) -/

/-- An orphan record. -/
def RewardMsg.orphan (m : RewardMsg) (u reason : Nat) (count : Word) : List Word :=
  [m.key, (m.hdr &&& 0xFFFFFFFF00FFFFFF) ||| (BitVec.ofNat 64 reason <<< 24), count, joinIdent u]

/-- Takes the message at the head away: its room goes to an RPOST that waits for it (R337). -/
def State.dropMessage (s : State) (u : Nat) : State :=
  let j := s.join u
  let s1 := s.setJoin u { j with inq := j.inq.drop 1, phase := 2 }
  let ts : List Tid := s1.cores.flatMap (fun p => slotNums.map (fun k => ⟨p.1, k⟩))
  let posting (t : Tid) : Bool := (s1.slot t).waitsFor (· == .unit) && ((s1.slot t).cont.map (fun c => c.step == 0)).getD false
  ((ts.filter posting).foldl State.wake s1).joinKick u

/-- REWARD_MESSAGE_HANDLING: the message at the head of the queue has its outcome: the first condition that holds (R329). DEDUCED: log entry 43. -/
def execRewardMessageHandling (u : BitVec 1) (s : State) : Out3 :=
  let v := u.toNat
  let j := s.join v
  match j.inq with
  | [] => .next s
  | m :: _ =>
    if j.headWaits || 2 ≤ j.phase || j.instrFirst then .next s
    else
      let g : BitVec 4 := m.hdr.extractLsb' 48 4
      let part := (m.hdr.extractLsb' 58 6).toNat
      let start := (m.hdr.extractLsb' 32 13).toNat
      let nm1 := (m.hdr.extractLsb' 16 5).toNat
      match j.binding m.ctx g with
      | none => .next (s.dropMessage v)
      | some (b, _) =>
        let orphan (reason : Nat) : Out3 := .next ((s.ringAdd v b (.record .orphan (m.orphan v reason j.count))).dropMessage v)
        if m.hdr &&& rewardReserved != 0 || 15 < nm1 then orphan 6
        else
          match j.lookup m.ctx g m.key with
          | none => orphan 1
          | some (k, e) =>
            if e.state == 6 then orphan (e.out + 1)
            else if e.parts.getLsbD part then .next ((s.setEntry v k { e with dup := if e.dup == 255 then 255 else e.dup + 1 }).dropMessage v)
            else if e.state != 2 then orphan 7
            else if e.nparts ≤ part || e.steps ≤ start + nm1 then orphan 8
            else .next ((s.setEntry v k { e with pending := e.pending ++ [(m.hdr, m.data)] }).dropMessage v)

/-- A message reaches a unit's queue (R337): whether it is accepted. -/
def State.acceptMessage (s : State) (m : RewardMsg) : Option State :=
  let u := unitOfGroup (m.hdr.extractLsb' 48 4)
  let j := s.join u
  if 256 ≤ j.inq.length then none else some ((s.setJoin u { j with inq := j.inq ++ [m] }).joinKick u)

/-! ### The scan (R332) -/

/-- FP32 under round to nearest, flags dropped. -/
def f32Mul (a b : Nat) : Nat := (fp32.mulV .rne (fp32.decode a) (fp32.decode b)).bits

def f32Add (a b : Nat) : Nat := (fp32.addV .rne (fp32.decode a) (fp32.decode b)).bits

def f32Sub (a b : Nat) : Nat := (fp32.addV .rne (fp32.decode a) (fp32.decode b).neg).bits

def f32Fma (a b c : Nat) : Nat := (fp32.fmaV .rne (fp32.decode a) (fp32.decode b) (fp32.decode c)).bits

/-- The scan backwards: rewards and values of the steps, the last step first, with the value of the step after; A and G in ascending
order of steps. -/
def scanBack (gamma gl : Nat) : (steps : List (Nat × Nat)) → (vn a : Nat) → List Nat × List Nat → List Nat × List Nat
  | [], _, _, r => r
  | (rew, v) :: ss, vn, a, r =>
    let d := f32Sub (f32Fma gamma vn rew) v
    let a1 := f32Fma gl a d
    scanBack gamma gl ss v a1 (a1 :: r.1, f32Add a1 v :: r.2)

/-- A and G of an episode from its rewards, its values, and the bootstrap. -/
def scanOf (gamma lambda : Nat) (rs vs : List Nat) (boot : Nat) : List Nat × List Nat :=
  scanBack gamma (f32Mul gamma lambda) (rs.zip vs).reverse boot 0 ([], [])

/-- FULLER_SCAN_DONE: the scan reads rewards and values, and its outputs are performed at home (R332). -/
def execFullerScanDone (u : BitVec 1) (ent : Nat) (s : State) : Out3 :=
  let v := u.toNat
  match SMap.find (s.join v).entries ent with
  | none => .next s
  | some e =>
    if e.state != 4 || !e.pending.isEmpty then .next s
    else
      let ag : Agent := .entry v ent
      let n := e.steps
      let r : Res Unit := (s.uLoads ag e.ctx e.desc[2] 4 n).bind fun rs s1 =>
        (s1.uLoads ag e.ctx e.desc[3] 4 (if e.term then n else n + 1)).bind fun vs s2 =>
          let o := scanOf (e.desc[5].extractLsb' 0 32).toNat (e.desc[5].extractLsb' 32 32).toNat rs (vs.take n) ((vs.drop n).headD 0)
          s2.uStores ag e.ctx e.desc[4] 4 (o.1 ++ o.2)
      match r with
      | .ok _ s1 => .next (s1.entryEnd v ent { e with state := 5 })
      | .park _ s1 => .next (s1.entryStall v ent e)
      | .trap _ s1 | .done s1 => .next (s1.closeStale v ent e (e.grec.getD 0) 4 3 e.done)

/-! ### Release (R333) -/

/-- Whether an entry completed before another of its group, and is neither released nor closed. -/
def Entry.before (x e : Entry) : Bool :=
  x.ctx == e.ctx && x.group == e.group && decide (3 ≤ x.state) && x.state != 6 &&
    (decide (x.done.toNat < e.done.toNat) || (x.done == e.done && decide (x.key.toNat < e.key.toNat)))

/-- The rest of a release whose record is written: LWRITE is written back, then the signal; the entry closes as released. A signal that fails sets ERR to 1. -/
def State.signalRelease (s : State) (u k : Nat) (e : Entry) (b : Nat) (g : Group) : State :=
  let ag : Agent := .entry u k
  match (s.writeBack ag g 16 4 g.lwrite.toNat).bind fun _ s1 => s1.uSignal ag e.ctx g.sig (0 - g.sdec) with
  | .ok _ s1 => ((s1.leave ag).closeEntry u k e 1).joinKick u
  | .trap _ s1 | .done s1 => ((s1.ringAdd u b (.error 1)).closeEntry u k e 1).joinKick u
  | .park w s1 =>
    match w with
    | .service _ | .reply _ => s1.entryStall u k { e with written := true }
    | _ => s1.setEntry u k { e with written := true }

/-- One try at releasing an entry: LREAD is read, and with room the record is written at LWRITE (R325, R333). -/
def State.release (s : State) (u k : Nat) (e : Entry) : State :=
  let j := s.join u
  let ag : Agent := .entry u k
  match e.grec.bind (fun b => (SMap.find j.groups b).map (fun g => (b, g))) with
  | none => s.closeEntry u k e 4
  | some (b, g) =>
    if e.written then s.signalRelease u k e b g
    else
      match s.uLoad ag e.ctx (g.addr + 20) 4 with
      | .park _ s1 => s1.entryStall u k e
      | .done s1 => s1
      | r =>
        let size := 2 ^ (g.sizes.extractLsb' 0 5).toNat
        let p : BitVec 32 × State := match r with
          | .ok x s1 => (BitVec.ofNat 32 x, s1)
          | .trap _ s1 => (g.lwrite - BitVec.ofNat 32 size, s1)
          | _ => (g.lread, s)
        let s1 := p.2
        if (g.lwrite - p.1).toNat == size then
          ((s1.unitEnd ag).setGroup u b { g with lread := p.1, full := true }).timer (8193 + u) (j.count.toNat + 1024) (.lreadReread (BitVec.ofNat 1 u) b)
        else
          match s1.uStore ag e.ctx (g.ringAt .learner) 32 (wordsNat (e.record u 0 e.done)) with
          | .ok _ s2 =>
            let g1 := { (g.advance .learner).1 with lread := p.1 }
            ((s2.unitEnd ag).setGroup u b g1).signalRelease u k { e with written := true } b g1
          | .park _ s2 => s2.entryStall u k e
          | .trap _ s2 | .done s2 => (s2.ringAdd u b (.error 2)).closeStale u k e b 4 3 e.done

/-- EPISODE_RELEASE: an episode in HOLD is released in its turn, when the learner ring has room; not in the cycle of its completion, in which another may
still complete that stands before it (R333). -/
def execEpisodeRelease (u : BitVec 1) (ent : Nat) (s : State) : Out3 :=
  let j := s.join u.toNat
  match SMap.find j.entries ent with
  | none => .next s
  | some e =>
    let full := ((e.grec.bind (SMap.find j.groups)).map (·.full)).getD false
    if e.state != 5 || full || decide (j.count.toNat ≤ e.done.toNat) || j.entries.any (fun p => p.1 != ent && p.2.before e) then .next s
    else .next (s.release u.toNat ent e)

/-- LREAD_REREAD: the unit reads LREAD of a full learner ring again, 1,024 cycles later (R325). -/
def execLreadReread (u : BitVec 1) (grp : Nat) (s : State) : Out3 :=
  match SMap.find (s.join u.toNat).groups grp with
  | some g => if g.full then .next ((s.setGroup u.toNat grp { g with full := false }).joinKick u.toNat) else .next s
  | none => .next s

/-! ### Instructions (R335 to R337) -/

/-- A range of n bytes in translated space, aligned to 4. -/
def arrayOk (p : Word) (n : Nat) : Bool :=
  decide (p.toNat % 4 = 0) && isTranslated p && decide (p.toNat + n - 1 ≤ 0x1FFFFFFFFFFFFFF)

/-- Whether a descriptor meets the limits of R326. -/
def descOk (d : Vector Word 8) : Bool :=
  let n := (d[1].extractLsb' 0 13).toNat
  let p := (d[1].extractLsb' 16 8).toNat
  d[1].extractLsb' 24 8 == 0 && d[1].extractLsb' 13 3 == 0 && decide (1 ≤ p) && decide (p ≤ 64) && decide (1 ≤ n) && decide (n ≤ 4096) &&
  d[6].extractLsb' 52 12 == 0 && d[6].extractLsb' 2 46 == 0 && d[7].extractLsb' 48 16 == 0 &&
  arrayOk d[2] (4 * n) && arrayOk d[3] (4 * n + 4) && arrayOk d[4] (8 * n)

/-- The lowest number that is not a key. -/
def freeKey {α : Type} (m : SMap α) : Nat := m.foldl (fun k p => if p.1 = k then k + 1 else k) 0

/-- The CLOSED entry that closed earliest. -/
def oldestClosed (m : SMap Entry) : Option Nat :=
  (m.foldl (fun (best : Option (Nat × Nat)) p =>
    if p.2.state != 6 then best
    else match best with
      | some (_, o) => if p.2.order < o then some (p.1, p.2.order) else best
      | none => some (p.1, p.2.order)) none).map (·.1)

/-- EPREG in the unit: the status, and the entry in ZERO (R327, R337). -/
def State.register (s : State) (u : Nat) (ctx : BitVec 8) (d : Vector Word 8) : Nat × State :=
  let j := s.join u
  let g : BitVec 4 := d[6].extractLsb' 48 4
  let e : Entry := { ctx := ctx, group := g, key := d[0], desc := d, state := 1, parts := 0, pending := [], dup := 0, tout := false, out := 0,
                     reg := j.count, opened := 0, done := 0, order := 0, grec := none, written := false, stalled := false }
  if !descOk d then (4, s)
  else if (j.binding ctx g).isNone then (3, s)
  else
    match j.lookup ctx g d[0] with
    | some (k, x) => if x.state == 6 then (0, s.setEntry u k e) else (1, s)
    | none =>
      if j.entries.length < 32768 then (0, s.setEntry u (freeKey j.entries) e)
      else match oldestClosed j.entries with
        | some k => (0, s.setEntry u k e)
        | none => (2, s)

/-- Whether a group record passes the reserved and size checks of R325. -/
def recordOk (w : List Word) : Bool :=
  let x (k : Nat) : Word := w[k]?.getD 0
  let size (sh : Nat) : Bool := decide (1 ≤ ((x 1).extractLsb' sh 5).toNat) && decide (((x 1).extractLsb' sh 5).toNat ≤ 16)
  (x 1).extractLsb' 21 11 == 0 && (x 1).extractLsb' 13 3 == 0 && (x 1).extractLsb' 5 3 == 0 && size 0 && size 8 && size 16 &&
  (x 4).extractLsb' 32 32 == 0 && (x 6).extractLsb' 32 32 == 0 && (x 9).extractLsb' 8 56 == 0 &&
  [10, 11, 12, 13, 14, 15].all (fun k => x k == 0)

/-- RLVER in the unit (R337). -/
def State.bind_ (s : State) (u : Nat) (ctx : BitVec 8) (g : BitVec 4) (v r : Word) : Res Nat :=
  let j := s.join u
  let ver : BitVec 32 := v.extractLsb' 0 32
  if r == 0 then
    match j.binding ctx g with
    | some (b, x) => .ok 0 (s.setGroup u b { x with version := ver })
    | none => .ok 3 s
  else if r.toNat % 64 ≠ 0 || !isTranslated r || !isTranslated (r + 127) then .ok 5 s
  else
    match s.uLoads (.join u) ctx r 8 16 with
    | .park w s1 => .park w s1
    | .done s1 => .done s1
    | .trap _ s1 => .ok 5 s1
    | .ok ns s1 =>
      let w := ns.map (BitVec.ofNat 64)
      let x (k : Nat) : Word := w[k]?.getD 0
      if !recordOk w then .ok 5 s1
      else
        let low (k : Nat) : BitVec 32 := (x k).extractLsb' 0 32
        let n : Group := { ctx := ctx, g := g, addr := r, lbase := x 0, sizes := x 1, sbase := x 3, obase := x 5, sig := x 7, sdec := x 8,
                           lwrite := low 2, lread := 0, swrite := low 4, owrite := low 6, err := (x 9).extractLsb' 0 8, version := ver,
                           bound := true, full := false, work := [] }
        let j1 := s1.join u
        let old := j1.groups.map (fun p => if p.2.ctx == ctx && p.2.g == g then (p.1, { p.2 with bound := false }) else p)
        .ok 0 (s1.setJoin u { j1 with groups := SMap.put old (freeKey j1.groups) n }.tidy)

/-- What RJQRY reads (R337). -/
def Entry.query (e : Entry) : Word :=
  e.ver ++ e.dup ++ (0 : BitVec 1) ++ BitVec.ofNat 7 e.arrived ++ (0 : BitVec 8) ++ BitVec.ofNat 4 e.out ++ BitVec.ofBool e.tout ++ BitVec.ofNat 3 e.state

/-- A unit's reply reaches the thread that waits for it. -/
def State.reply (s : State) (t : Tid) (v : Word) : State :=
  let x := s.slot t
  match x.cont with
  | some c => if x.waitsFor (· == .unit) && c.step == 1 then (s.setSlot t { x with cont := some { c with step := 2, acc := [v.setWidth 512] } }).wake t else s
  | none => s

/-- UNIT_INSTRUCTION_HANDLING: the oldest accepted instruction of a unit, at most one in a cycle (R329, R337). -/
def execUnitInstructionHandling (u : BitVec 1) (s : State) : Out3 :=
  let v := u.toNat
  let j := s.join v
  match j.instrs with
  | [] => .next s
  | i :: is =>
    if !j.instrFirst then .next s
    else
      let s1 := s.setJoin v { j with instrs := is, phase := 1 }
      match i with
      | .epreg t ctx d =>
        let r := s1.register v ctx d
        .next ((r.2.reply t (BitVec.ofNat 64 r.1)).joinKick v)
      | .rlver t ctx g ver r =>
        match s1.bind_ v ctx g ver r with
        | .ok st s2 => .next (((s2.unitEnd (.join v)).reply t (BitVec.ofNat 64 st)).joinKick v)
        | .park _ s2 => .next ((s2.setJoin v { s2.join v with instrs := i :: is, phase := 0, stalled := true }).joinKick v)
        | .trap _ s2 | .done s2 => .next s2
      | .rjqry t ctx g key => .next ((s1.reply t (((j.lookup ctx g key).map (·.2.query)).getD 0)).joinKick v)

/-- Sends an instruction to its unit and waits for the reply: step 1 while it is there, step 2 when the reply is. -/
def State.askUnit (s : State) (u : Nat) (i : UnitInstr) : Res Unit :=
  let j := s.join u
  let s1 := (s.setJoin u { j with instrs := j.instrs ++ [i] }).joinKick u
  .park .unit (s1.setCont { s1.cont with step := 1 })

/-- The part of an instruction that follows its ports: the reply's value, once it is there. -/
def State.unitReply (s : State) (srcs : List SReg) (d : SReg) (ask : State → Res Unit) : Res Unit :=
  if s.cont.step == 2 then .ok () (s.setS srcs d (((s.cont.acc.head?).getD 0).setWidth 64))
  else if s.cont.step == 1 then .park .unit s
  else ask s

/-- The network interface's read of 64 bytes on path W (R337): at the home, without buffered stores. -/
def State.readPathW (s : State) (va : Word) : Res Line :=
  if va.toNat % 64 ≠ 0 then .trap (trapOf 5 0 va) s
  else if !isTranslated va then .trap (trapOf 6 0 va) s
  else
    (s.precheck s.myAgent s.cur.core s.myCtx s.myAper { va := va, size := 64, be := BitVec.allOnes 64, op := .read } 0).bind fun h s1 =>
      if 2 ≤ homeKind h then s1.farPerform s1.myAgent s1.cur.core s1.myCtx h { va := va, size := 64, be := BitVec.allOnes 64, op := .read } true
      else if s1.eccBad s1.myCtx h then .trap (s1.eccTrap h va) s1
      else .ok (Memory.line (s1.asSeen s1.myCtx h).mem h) s1

/-- EPREG: R335, R337. -/
def execEpreg (d b : SReg) (s : State) : Out3 :=
  let seen (s : State) : Res Unit :=
    let a := s.rs b
    if s.cont.step != 0 || !s.me.readable [b] [] then .ok () s
    else if a.toNat % 64 ≠ 0 then .trap (trapOf 5 0 a) s
    else if !isTranslated a then .trap (trapOf 6 0 a) s
    else (s.precheck s.myAgent s.cur.core s.myCtx s.myAper (accRead a 64) 0).bind fun _ s1 => .ok () s1
  ((s.portsAfter [b] [d] [] [] seen).bind fun _ s1 => s1.unitReply [b] d (fun s2 =>
    let a := s2.rs b
    if a.toNat % 64 ≠ 0 then .trap (trapOf 5 0 a) s2
    else if !isTranslated a then .trap (trapOf 6 0 a) s2
    else
      (s2.fenceWait 6).bind fun _ s3 => (s3.readPathW a).bind fun l s4 =>
        let desc : Vector Word 8 := Vector.ofFn (fun i : Fin 8 => l.extractLsb' (64 * i.val) 64)
        s4.askUnit (unitOfGroup (desc[6].extractLsb' 48 4)) (.epreg s4.cur s4.myCtx desc))).finish

/-- RLVER: R335, R337. -/
def execRlver (d b c : SReg) (g : BitVec 4) (s : State) : Out3 :=
  ((s.ports [b, c] [d] [] []).bind fun _ s1 => s1.unitReply [b, c] d (fun s2 =>
    (s2.fenceWait 6).bind fun _ s3 => s3.askUnit (unitOfGroup g) (.rlver s3.cur s3.myCtx g (s3.rs b) (s3.rs c)))).finish

/-- RJQRY: R337. -/
def execRjqry (d b : SReg) (g : BitVec 4) (s : State) : Out3 :=
  ((s.ports [b] [d] [] []).bind fun _ s1 => s1.unitReply [b] d (fun s2 =>
    s2.askUnit (unitOfGroup g) (.rjqry s2.cur s2.myCtx g (s2.rs b)))).finish

/-- RPOST: R335, R337. -/
def execRpost (k hd : SReg) (r : VReg) (s : State) : Out3 :=
  ((s.ports [k, hd] [] [r] []).bind fun _ s1 =>
    (s1.fenceWait 6).bind fun _ s2 =>
      let m : RewardMsg := { ctx := s2.myCtx, key := s2.rs k, hdr := s2.rs hd, data := s2.rv r }
      match s2.acceptMessage m with
      | some s3 => .ok () (s3.pops [k, hd] [r]).retire
      | none => .park .unit s2).finish

end Sys2Proof.Machine
end

