-- ==== Sys2Proof/Machine/Queues.lean ====
section
/-!
DEFINITION. The dispatcher: queues and their heads, selection, checks, placement, completion (21 R309 to R320; 03 R36 to R45); the re-evaluation
of waiters (10 R166).
-/

namespace Sys2Proof.Machine

/-! ### Queue records (R309) -/

def State.queue (s : State) (n : Nat) : Queue := SMap.getD s.queues n Queue.zero

def State.setQueue (s : State) (n : Nat) (q : Queue) : State := { s with queues := SMap.put s.queues n q }

def Queue.en (q : Queue) : Bool := q.w[1].getLsbD 11

def Queue.ctx (q : Queue) : BitVec 8 := q.w[1].extractLsb' 24 8

def Queue.prio (q : Queue) : BitVec 3 := q.w[1].extractLsb' 8 3

def Queue.rsize (q : Queue) : Nat := (q.w[1].extractLsb' 0 5).toNat

def Queue.write (q : Queue) : BitVec 32 := q.w[2].extractLsb' 0 32

def Queue.read (q : Queue) : BitVec 32 := q.w[3].extractLsb' 0 32

def Queue.eprio (q : Queue) : Nat := (q.w[4].extractLsb' 0 3).toNat

def Queue.age (q : Queue) : Nat := (q.w[4].extractLsb' 32 32).toNat

/-- Sets EPRIO and AGE. -/
def Queue.setLevel (q : Queue) (eprio age : Nat) : Queue :=
  { q with w := q.w.set 4 (BitVec.ofNat 32 age ++ q.w[4].extractLsb' 3 29 ++ BitVec.ofNat 3 eprio) }

/-- EN is cleared and ERR set (R310). -/
def Queue.error (q : Queue) (e : BitVec 8) : Queue :=
  { q with w := (q.w.set 1 (q.w[1] &&& ~~~0x800)).set 4 (q.w[4].extractLsb' 16 48 ++ e ++ q.w[4].extractLsb' 0 8), head := .queued }

/-- A reserved field that is not zero, or RSIZE outside 1 to 16 (R310). -/
def Queue.malformed (q : Queue) : Bool :=
  q.w[0].extractLsb' 0 12 != 0 || q.w[1].extractLsb' 40 24 != 0 || q.w[1].extractLsb' 12 4 != 0 || q.w[1].extractLsb' 5 3 != 0 ||
  q.rsize == 0 || decide (16 < q.rsize) || q.w[6] != 0 || q.w[7] != 0

/-- The two tests of a record, and the ERR of the first that fails (R310). -/
def Queue.fault (q : Queue) : Option (BitVec 8) :=
  if q.malformed then some 2 else if 2 ^ q.rsize < (q.write - q.read).toNat then some 1 else none

/-- The address of packet i. -/
def Queue.packetAt (q : Queue) (i : Nat) : Word := (q.w[0] &&& ~~~0xFFF) + BitVec.ofNat 64 (128 * (i % 2 ^ q.rsize))

/-! ### Heads (R314) -/

/-- A dependence read: an ordinary read at the word's home, translated, or an engine's in local store (R314, R315). -/
def State.depRead (s : State) (n : Nat) (ctx : BitVec 8) (va : Word) : Res Word :=
  (s.uWord (.queue n) ctx (accRead va 8)).bind fun v s1 => .ok (BitVec.ofNat 64 v) s1

/-- The condition of a dependence (R311). -/
def depMet (p : Vector Word 16) (v : Word) : Bool := if p[9].getLsbD 0 then decide (v.toNat ≤ p[8].toNat) else v == p[8]

/-- Words as a vector of n, zeros where the list is short. -/
def vecOf (n : Nat) (l : List Nat) : Vector Word n := Vector.ofFn (fun i : Fin n => BitVec.ofNat 64 (l[i.val]?.getD 0))

/-- A queue's EN is cleared, with an error (R310). -/
def State.queueError (s : State) (n : Nat) (e : BitVec 8) : State := (s.unitEnd (.queue n)).setQueue n ((s.queue n).error e)

/-- The head of a queue is looked at: the record, its order and its dependence (R310, R314). A head that waits for a read is looked at again in the next
cycle, one in DEPWAIT when its word is to be read again. An earlier packet is finished once its launch is over. DESIGN CHOICE: log entry 78. -/
def State.evalHead (s : State) (n : Nat) : State :=
  let q := s.queue n
  let ag : Agent := .queue n
  if !q.en || s.failing q.ctx || q.read == q.write || q.head == .eligible || (q.head == .depwait && decide (s.dispCount.toNat < q.due)) ||
      s.launches.any (fun l => l.queue == n && !l.advanced) then s
  else if q.fault.isSome then s.queueError n (q.fault.getD 0)
  else
    match s.uLoads ag q.ctx (q.packetAt q.read.toNat) 8 16 with
    | .park _ s1 => s1.setQueue n { q with head := if q.head == .depwait then .depwait else .head }
    | .trap _ s1 | .done s1 => s1.queueError n 3
    | .ok ws s1 =>
      let p := vecOf 16 ws
      let eligible (s : State) (failed : Bool) : State :=
        (((s.leave ag).unitEnd ag).setQueue n { q with head := .eligible, depFailed := failed }).post .packetSelection
      if p[0].getLsbD 12 && s1.launches.any (fun l => l.queue == n) then s1.setQueue n { q with head := .head }
      else if p[7] == 0 then eligible s1 false
      else
        match s1.depRead n q.ctx p[7] with
        | .ok v s2 =>
          if depMet p v then eligible s2 false
          else (s2.unitEnd ag).setQueue n { q with head := .depwait, due := s.dispCount.toNat + 1024 }
        | .park _ s2 => s2.setQueue n { q with head := .depwait, due := s.dispCount.toNat }
        | .trap _ s2 | .done s2 => eligible s2 true

/-- Whether the word of a head in DEPWAIT is to be read again at a count (R314). -/
def Queue.rereads (q : Queue) (count : Nat) : Bool := q.head == .depwait && decide (q.due ≤ count)

/-- A completion signal has been applied: every DEPWAIT word is read again (R314). -/
def State.rereadAll (s : State) : State :=
  { s with queues := s.queues.map (fun (p : Nat × Queue) => if p.2.head == HeadState.depwait then (p.1, { p.2 with due := 0 }) else p) }.post .dependenceReread

/-- QUEUE_WRITE_STORE: a store to WRITE; the record is tested, and its head is looked at (R310). -/
def execQueueWriteStore (q : BitVec 13) (v : BitVec 32) (s : State) : Out3 :=
  let n := q.toNat
  let x := s.queue n
  let y := { x with w := x.w.set 2 (v.setWidth 64) }
  if !x.en then .next (s.setQueue n y)
  else
    match y.fault with
    | some e => .next ((s.setQueue n y).queueError n e)
    | none => .next ((s.setQueue n y).evalHead n)

/-- PRIO_STORE: EPRIO = PRIO and AGE = 0 (R310). -/
def execPrioStore (q : BitVec 13) (v : BitVec 3) (s : State) : Out3 :=
  let x := s.queue q.toNat
  let y := { x with w := x.w.set 1 (x.w[1].extractLsb' 11 53 ++ v ++ x.w[1].extractLsb' 0 8) }
  .next (s.setQueue q.toNat (y.setLevel v.toNat 0))

/-- DEPENDENCE_REREAD: the words of the heads in DEPWAIT are read again, each once every 1,024 cycles and after a completion signal (R314). -/
def execDependenceReread (s : State) : Out3 :=
  .next ((s.queues.filter (fun p => p.2.rereads s.dispCount.toNat)).foldl (fun s p => s.evalHead p.1) s)

/-! ### Packets and descriptors (R311, R313) -/

def Launch.shape (l : Launch) : Nat := (l.packet[0].extractLsb' 16 2).toNat

def Launch.quads (l : Launch) : Nat := (l.packet[0].extractLsb' 18 8).toNat

/-- Threads per core, T. -/
def Launch.thr (l : Launch) : Nat := (l.packet[0].extractLsb' 26 3).toNat + 1

def Launch.gmodeP (l : Launch) : Bool := l.packet[0].getLsbD 14

def Launch.notices (l : Launch) : Bool := l.packet[0].getLsbD 9

def Launch.replayed (l : Launch) : Bool := l.packet[0].getLsbD 10

def Launch.dim (l : Launch) (k : Nat) : Nat := (l.packet[2].extractLsb' (21 * k) 21).toNat

def Launch.nregions (l : Launch) : Nat := (l.desc[2].extractLsb' 32 7).toNat

def Launch.wssize (l : Launch) : Nat := (l.desc[2].extractLsb' 16 16).toNat

def Launch.stack (l : Launch) : Nat := (l.desc[2].extractLsb' 0 16).toNat

/-- Cores of one gang (R36). -/
def Launch.cores (l : Launch) : Nat :=
  match l.shape with
  | 0 => 1
  | 1 => 2
  | 2 => 4
  | _ => 4 * l.quads

/-- The dies on which a launch may be placed: permitted by its queue and latched to its world (R319). -/
def State.permitted (s : State) (l : Launch) : List Nat :=
  let w := s.world l.ctx
  (List.range s.plat.grade.dies).filter (fun d =>
    l.aff.getLsbD d && (s.ssc.latches[d]?.getD 0).getLsbD 8 && (s.ssc.latches[d]?.getD 0).extractLsb' 0 8 == w)

/-- Enabled cores of a quad. -/
def State.quadCores (s : State) (q : Nat) : List Nat := ([0, 1, 2, 3].map (fun m => 4 * q + m)).filter s.coreExists

/-- Quads of a die. -/
def dieQuads (d : Nat) : List Nat := (List.range 128).map (fun k => 128 * d + k)

/-- Whether a gang would fit a die that holds nothing (R318). -/
def State.couldFit (s : State) (l : Launch) (d : Nat) : Bool :=
  match l.shape with
  | 0 => (dieQuads d).any (fun q => decide (1 ≤ (s.quadCores q).length))
  | 1 => (dieQuads d).any (fun q => decide (2 ≤ (s.quadCores q).length))
  | 2 => (dieQuads d).any (fun q => (s.quadCores q).length == 4)
  | _ => decide (l.quads ≤ ((dieQuads d).filter (fun q => (s.quadCores q).length == 4)).length)

/-! ### CHECK (R318) -/

/-- CODE 1 but for the dependence read. DEDUCED: log entry 46. -/
def packetBad (p : Vector Word 16) : Bool :=
  decide (1 < (p[0].extractLsb' 0 8).toNat) || p[0].extractLsb' 29 35 != 0 || p[0].getLsbD 15 || p[2].getLsbD 63 ||
  p[4].extractLsb' 48 16 != 0 || p[4].extractLsb' 24 8 != 0 || p[9].extractLsb' 1 63 != 0 ||
  p[12] != 0 || p[13] != 0 || p[14] != 0 || p[15] != 0 || decide (4096 ≤ (p[4].extractLsb' 32 16).toNat)

/-- CODE 3. -/
def Launch.gridBad (l : Launch) : Bool :=
  [0, 1, 2].any (fun k => l.dim k == 0 || decide (2 ^ 20 < l.dim k)) ||
  (if l.shape == 3 then decide (l.quads < 2) || decide (128 < l.quads) else l.quads != 0) ||
  (l.gmodeP && (l.dim 1 != 1 || l.dim 2 != 1))

/-- CODE 5, for a descriptor that has been read. -/
def Launch.descBad (l : Launch) : Bool :=
  l.desc[1].extractLsb' 0 6 != 0 || l.desc[2].extractLsb' 43 21 != 0 || l.desc[2].getLsbD 39 || l.desc[3].extractLsb' 32 32 != 0 || l.desc[7] != 0 ||
  l.nregions == 0 || decide (64 < l.nregions) || l.stack % 128 != 0 || l.wssize % 128 != 0 ||
  decide (l.nregions * 4096 < l.thr * (l.stack + l.wssize))

/-- CODE 4 but for the fit: no die, or a cooperative grid in mode V that exceeds the enabled cores. -/
def State.affBad (s : State) (l : Launch) : Bool :=
  l.aff == 0 ||
  (l.packet[0].getLsbD 8 && !l.gmodeP &&
    decide (((s.permitted l).map (fun d => ((dieQuads d).map (fun q => (s.quadCores q).length)).sum)).sum < l.dim 0 * l.dim 1 * l.dim 2 * l.cores))

/-- The result of CHECK, with the descriptor as read: none passes. -/
def State.checkCode (s : State) (l : Launch) (readable : Bool) : Option Nat :=
  let bad5 := !readable || l.descBad
  if !bad5 && l.desc[2].getLsbD 40 != l.gmodeP then some 2
  else if l.gridBad then some 3
  else if s.affBad l || (!bad5 && !(s.permitted l).any (s.couldFit l)) then some 4
  else if bad5 then some 5
  else none

/-- READ passes a launch's packet; the next head is looked at (R314). -/
def State.advance (s : State) (l : Launch) : State :=
  if l.advanced then s
  else
    let q := s.queue l.queue
    let s1 := s.setQueue l.queue { q with w := q.w.set 3 ((q.read + 1).setWidth 64), head := .queued, depFailed := false }
    (s1.setLaunch { l with advanced := true }).evalHead l.queue

/-- A launch ends with a code; its STATUS follows (R315). -/
def State.endLaunch (s : State) (l : Launch) (code : Nat) : State :=
  ((s.setLaunch { l with state := .ended, code := code }).advance { l with state := .ended, code := code }).post (.launchCompletion l.id)

/-! ### Recording (R376, R377) -/

/-- A packet with REPLAY set is logged at its CHECK, whatever comes of it, while its function records: the snapshot before the first, then the
packet. -/
def State.recordPacket (s : State) (l : Launch) : State :=
  match (s.fnOf l.ctx).bind s.replayOf with
  | none => s
  | some r =>
    if !l.replayed || r.replaying || r.ending || l.recorded.isSome then s
    else
      let k := r.packets + 1
      let nbv := if l.desc[2].getLsbD 41 then 1 else 0
      let js : List LogJob := (if r.snapped then [] else [.snapshot]) ++ [.entry 2 k 144 (l.queue + 2 ^ 64 * nbv + 2 ^ 128 * wordsNat l.packet.toList)]
      let r1 := { r with snapped := true, packets := k, work := r.work ++ js }
      ((s.setReplay r1).setLaunch { l with recorded := some k }).logWork r.fn (logFuel r1)

/-- Whether the recording of a launch's function still has something to do: its packets wait for that. -/
def State.recording (s : State) (l : Launch) : Bool :=
  l.recorded.isSome && l.nbv.isNone && (((s.fnOf l.ctx).bind s.replayOf).map (fun r => !r.work.isEmpty)).getD false

/-- A launch passes CHECK with no failure: it waits for placement. -/
def State.toPlacing (s : State) (l : Launch) : State :=
  let s1 := s.setLaunch { l with state := .placing, since := s.dispCount.toNat, total := l.dim 0 * l.dim 1 * l.dim 2 }
  (s1.timer 8192 (s.dispCount.toNat + 65536) (.placementWaitExpiry l.id)).post .gangPlacement

/-- The end of CHECK with a CODE, or none for a launch that passes; it follows what its recording has to write. -/
def State.checked (s : State) (l : Launch) (code : Option Nat) : State :=
  let s1 := (s.setLaunch l).recordPacket l
  match s1.launch l.id with
  | none => s1
  | some l1 =>
    if s1.recording l1 then s1
    else
      let s2 := s1.unitEnd (.launch l.id)
      match code with
      | some c => s2.endLaunch l1 c
      | none => s2.toPlacing l1

/-- CHECK of a launch: it stalls while its descriptor's page is in service (R318). -/
def State.check (s : State) (l : Launch) : State :=
  if packetBad l.packet || l.code == 1 then s.checked l (some 1)
  else if l.packet[0].extractLsb' 0 8 == 0 then s.checked l (some 0)
  else if l.packet[1].toNat % 64 ≠ 0 then s.checked l (s.checkCode l false)
  else
    match s.uLoads (.launch l.id) l.ctx l.packet[1] 8 8 with
    | .park _ s1 => s1
    | .trap _ s1 | .done s1 => s1.checked l (s1.checkCode l false)
    | .ok ws s1 =>
      let l1 := { l with desc := vecOf 8 ws }
      s1.checked l1 (s1.checkCode l1 true)

/-! ### Selection (R316) -/

/-- The queues whose heads compete. -/
def State.eligibleQueues (s : State) : List Nat := (s.queues.filter (fun p => p.2.head == .eligible && p.2.en && !s.failing p.2.ctx)).map (·.1)

/-- The queue that is selected: the highest EPRIO, then the first after the one last selected at that level. -/
def State.selected (s : State) : Option Nat :=
  let ns := s.eligibleQueues
  let top := ns.foldl (fun m n => Nat.max m (s.queue n).eprio) 0
  let cs := ns.filter (fun n => (s.queue n).eprio == top)
  match (s.lastSel[top]?).getD none with
  | some k => (cs.find? (fun n => decide (k < n))).orElse (fun _ => cs.head?)
  | none => cs.head?

/-- The packet of a selected queue becomes a launch in CHECK; the other competitors age. A record that fails its tests gives none (R310). -/
def State.select (s : State) (n : Nat) : State :=
  let q := s.queue n
  let lvl := q.eprio
  if q.fault.isSome then s.queueError n (q.fault.getD 0)
  else
  match s.uLoads (.queue n) q.ctx (q.packetAt q.read.toNat) 8 16 with
  | .park _ s1 => s1
  | .trap _ s1 | .done s1 => s1.queueError n 3
  | .ok ws s0 =>
    let s1 := s0.unitEnd (.queue n)
    let others := s1.eligibleQueues.filter (· != n)
    let s2 := others.foldl (fun s k =>
      let x := s.queue k
      s.setQueue k (if 4096 ≤ x.age + 1 then x.setLevel (Nat.min (x.eprio + 1) 7) 0 else x.setLevel x.eprio (x.age + 1))) s1
    let s3 := s2.setQueue n { (q.setLevel q.prio.toNat 0) with head := .queued }
    let l : Launch := { id := s3.seq, queue := n, index := q.read.toNat, ctx := q.ctx, aff := q.w[1].extractLsb' 32 8, packet := vecOf 16 ws,
                        desc := Vector.replicate 8 0, prio := lvl, state := .check, since := 0, nextGang := 0, total := 0, noticed := false,
                        code := if q.depFailed then 1 else 0, gangNo := 0, reason := 0, written := false, recorded := none, nbv := none, advanced := false }
    { s3 with seq := s3.seq + 1, launches := s3.launches ++ [l], lastSel := s3.lastSel.setIfInBounds lvl (some n) }.check l

/-- PACKET_SELECTION: a packet whose CHECK stalled goes on; else one is selected, unless 64 launches are in PLACING (R316, R318). -/
def execPacketSelection (s : State) : Out3 :=
  if s.plat.sleeping then .next s
  else
  match s.launches.find? (fun l => l.state == .check) with
  | some l => .next (s.check l)
  | none =>
    if 64 ≤ (s.launches.filter (fun l => l.state == .placing)).length then .next s
    else
      match s.selected with
      | some n =>
        let s1 := s.select n
        .next (if s1.eligibleQueues.isEmpty then s1 else s1.post .packetSelection)
      | none => .next s

/-! ### Room (R319) -/

/-- Slots of a core that no resident gang has. -/
def State.freeSlots (s : State) (n : Nat) : List (BitVec 3) :=
  slotNums.filter (fun k => !s.gangs.any (fun g => g.places.any (fun p => p.core == n && p.slots.contains k)))

/-- Whether k regions from b are free on a core. -/
def Core.regionsFree (c : Core) (b k : Nat) : Bool :=
  decide (b + k ≤ 64) && (List.range k).all (fun i => (SMap.find c.alloc (b + i)).isNone)

/-- The lowest-addressed free run of k regions. -/
def Core.freeRun (c : Core) (k : Nat) : Option Nat := (List.range 64).find? (fun b => c.regionsFree b k)

/-- Whether a core may hold a context. -/
def State.coreFor (s : State) (n : Nat) (ctx : BitVec 8) : Bool :=
  s.coreExists n && (match (s.core n).ctx with
    | some c => c == ctx
    | none => true)

/-- What a gang of a launch would take on a core. -/
def State.room (s : State) (l : Launch) (n : Nat) : Option GangCore :=
  if !s.coreFor n l.ctx then none
  else
    let fs := s.freeSlots n
    if fs.length < l.thr then none
    else ((s.core n).freeRun l.nregions).map (fun b => { core := n, base := b, regions := l.nregions, slots := fs.take l.thr })

/-- The cores of a quad with room. -/
def State.quadRoom (s : State) (l : Launch) (q : Nat) : List GangCore := (s.quadCores q).filterMap (s.room l)

/-- The first fit of a gang on a die. -/
def State.fitDie (s : State) (l : Launch) (d : Nat) : Option (List GangCore) :=
  match l.shape with
  | 0 => (dieQuads d).findSome? (fun q => ((s.quadRoom l q).head?).map (fun p => [p]))
  | 1 => (dieQuads d).findSome? (fun q => let r := s.quadRoom l q; if 2 ≤ r.length then some (r.take 2) else none)
  | 2 => (dieQuads d).findSome? (fun q => let r := s.quadRoom l q; if r.length == 4 then some r else none)
  | _ =>
    let rs := ((dieQuads d).map (s.quadRoom l)).filter (fun r => r.length == 4)
    if l.quads ≤ rs.length then some (rs.take l.quads).flatten else none

/-- Whether a launch of lower priority must leave a die alone: a cooperative one has waited 65,536 cycles for it (R319). -/
def State.dieHeld (s : State) (l : Launch) (d : Nat) : Bool :=
  s.launches.any (fun x => x.state == .placing && x.coop && decide (l.prio < x.prio) && decide (x.since + 65536 ≤ s.dispCount.toNat) &&
    (s.permitted x).contains d)

/-- The dies on which a launch may be placed now (R319, R408). -/
def State.openDies (s : State) (l : Launch) : List Nat := (s.permitted l).filter (fun d => !s.plat.warm.contains d && !s.dieHeld l d)

/-- The first fit of the next gang. -/
def State.fit (s : State) (l : Launch) : Option (List GangCore) := (s.openDies l).findSome? (s.fitDie l)

/-! ### Preparing a core and starting threads (R43, R154, R320) -/

/-- Identity tables. -/
def idTables : Vector (Vector (BitVec 16) 64) 3 := Vector.replicate 3 (Vector.replicate 64 0)

/-- The core before a gang of a context is put on it: what a change of context clears (R320, R361), and tables when no other gang is there
(R154); the context's key slot (R384). -/
def Core.prepare (c : Core) (ctx : BitVec 8) (slot : KeySlot) : Core :=
  let changed := match c.ctx, c.prev with
    | some _, _ => false
    | none, some p => p != ctx
    | none, none => true
  let c1 := if c.ctx.isNone then { c with tables := idTables, shadows := idTables } else c
  let c2 := if changed then { c1 with icache := [], trace := [], trnext := 0, frozen := false, rmap0 := 0, rmap1 := 0, gdly := 0x0400, dbg := Debug.zero, staging := [] } else c1
  { c2 with ctx := some ctx, keys := SMap.put c2.keys ctx.toNat slot }

/-- Sets the region-map field of a region. -/
def Core.setRmap (c : Core) (region : Nat) (t : BitVec 2) : Core :=
  let sh := 2 * (region % 32)
  let f (m : Word) : Word := (m &&& ~~~((3 : Word) <<< sh)) ||| (zx t <<< sh)
  if region < 32 then { c with rmap0 := f c.rmap0 } else { c with rmap1 := f c.rmap1 }

/-- Zeroes regions of a core with their tags and marks (R154, R320). -/
def State.zeroRegions (s : State) (n b k : Nat) : State :=
  let lo := lsHome n (4096 * b)
  let hi := lo + 4096 * k
  { s with
    mem := Memory.zero s.mem lo (4096 * k)
    tags := s.tags.filter (fun p => p.1 < lo || hi ≤ p.1)
    poison := s.poison.filter (fun p => p < lo || hi ≤ p)
    badTags := s.badTags.filter (fun p => p < lo || hi ≤ p) }

/-- Reserves and prepares a gang's place on a core. -/
def State.prepare (s : State) (g : Nat) (ctx : BitVec 8) (p : GangCore) (rmap0 rmap1 : Word) : State :=
  let c := (s.core p.core).prepare ctx (s.slotFor ctx)
  let c1 := (List.range p.regions).foldl (fun (c : Core) i =>
    let m := if i < 32 then rmap0 else rmap1
    let c := c.setRmap (p.base + i) (m.extractLsb' (2 * (i % 32)) 2)
    { c with alloc := SMap.put c.alloc (p.base + i) g }) c
  let staging := c1.staging.filter (fun w => w.1 / 4096 < p.base || p.base + p.regions ≤ w.1 / 4096)
  let s1 := (s.setCore p.core { c1 with idle := 0, staging := staging }).zeroRegions p.core p.base p.regions
  if c.gated then s1.post (.ungateStart p.core) else s1

/-- The registers of a thread at its start (R43, R44, R312, R313); c.wsl keeps the low 11 bits of a window stack's end. DESIGN CHOICE: log entry 81. -/
def Launch.thread (l : Launch) (g : Nat) (lin : Nat) (gx : Nat) (nactive : Nat) (ci i : Nat) (p : GangCore) : Slot :=
  let b := 4096 * p.base
  let x := lin % gx
  let y := lin / gx % l.dim 1
  let z := lin / (gx * l.dim 1)
  let pack (x y z : Nat) : Word := (0 : BitVec 1) ++ BitVec.ofNat 21 z ++ BitVec.ofNat 21 y ++ BitVec.ofNat 21 x
  let wsb : BitVec 11 := BitVec.ofNat 11 ((b + l.thr * l.stack + i * l.wssize) / 128)
  let sh := l.packet[0].getLsbD 13
  let f (at_ n : Nat) (d : BitVec n) : BitVec n := if sh then l.packet[4].extractLsb' at_ n else d
  let cr : CRegs := { CRegs.zero with
    gid := pack x y z, gdim := pack gx (l.dim 1) (l.dim 2), core := BitVec.ofNat 64 ci, ncore := BitVec.ofNat 64 l.cores
    tid := BitVec.ofNat 64 (ci * l.thr + i), nactive := BitVec.ofNat 64 nactive
    fmta := f 0 4 0, fmtb := f 4 4 0, scla := f 8 8 0x7F, sclb := f 16 8 0x7F
    nbv := match l.nbv with
      | some v => BitVec.ofBool v
      | none => l.desc[2].extractLsb' 41 1
    wsb := wsb, wsl := wsb + BitVec.ofNat 11 (l.wssize / 128), wsp := wsb
    tvec := l.desc[1].extractLsb' 6 58, pbudget := l.desc[3].extractLsb' 0 32 }
  let s1 : Word := BitVec.ofNat 64 (b + (i + 1) * l.stack)
  let s2 : Word := if l.packet[3] == 0 then l.desc[4] else l.packet[3]
  { Slot.zero with
    st := .ready, gang := g, index := i, pc := l.desc[0] &&& ~~~1, cr := cr
    regs := { Regs.zero with common := (Regs.zero.common.set 0 s1).set 1 s2 } }

/-- A gang becomes resident, whole (R36, R43). -/
def State.placeGang (s : State) (l : Launch) (lin gx nactive : Nat) (ps : List GangCore) : State :=
  let id := s.seq
  let g : Gang := { id := id, launch := l.id, linear := lin, ctx := l.ctx, aper := l.desc[2].getLsbD 42, places := ps, image := none, fatal := none, preempt := false }
  let s0 : State := { s with seq := s.seq + 1, gangs := s.gangs ++ [g] }
  (List.range ps.length).foldl (fun s ci =>
    match ps[ci]? with
    | none => s
    | some p =>
      let s1 := s.prepare id l.ctx p l.desc[5] l.desc[6]
      (List.range p.slots.length).foldl (fun s i =>
        match p.slots[i]? with
        | some k => (s.setSlot ⟨p.core, k⟩ (l.thread id lin gx nactive ci i p)).traceAt ⟨p.core, k⟩ 8 0 (l.desc[0] &&& ~~~1) (BitVec.ofNat 64 lin)
        | none => s) s1) s0

/-- Places gangs of a launch from its next one on, as many as fit: fuel bounds them. -/
def State.placeRun (s : State) (l : Launch) (gx nactive : Nat) : (fuel lin : Nat) → Nat × State
  | 0, lin => (lin, s)
  | fuel + 1, lin =>
    match s.fit l with
    | some ps => (s.placeGang l lin gx nactive ps).placeRun l gx nactive fuel (lin + 1)
    | none => (lin, s)

/-! ### GANG_PLACEMENT (R39 to R42, R319) -/

/-- Whether a gang of a launch is saved, or has met a fatal trap. -/
def State.savedGang (s : State) (l : Launch) : Option Gang := s.gangs.find? (fun g => g.launch == l.id && g.image.isSome)

def State.failedLaunch (s : State) (l : Launch) : Bool := l.code == 6 || s.gangs.any (fun g => g.launch == l.id && g.fatal.isSome)

/-- A launch whose last gang has been placed runs. -/
def State.toRunning (s : State) (l : Launch) : State := (s.setLaunch { l with state := .running }).advance { l with state := .running }

/-- One launch's turn in placement. -/
def State.placeLaunch (s : State) (id : Nat) : State :=
  match s.launch id with
  | none => s
  | some l =>
    if l.state != .placing || s.failing l.ctx || l.noticed || s.failedLaunch l || (s.savedGang l).isSome then s
    else if l.gmodeP then
      let r := s.placeRun l (l.dim 0) 0 (l.dim 0) 0
      if r.1 == 0 then s
      else
        let q := s.placeRun l r.1 (r.1 * l.cores) r.1 0
        q.2.toRunning { l with nextGang := r.1, total := r.1 }
    else
      let r := s.placeRun l (l.dim 0) 0 (l.total - l.nextGang) l.nextGang
      if r.1 == l.total then r.2.toRunning { l with nextGang := r.1 }
      else if l.coop then s
      else r.2.setLaunch { l with nextGang := r.1 }

/-- Inserts a launch in the order of placement: latched priority, then selection. -/
def byPriority (l : Launch) : List Launch → List Launch
  | [] => [l]
  | x :: xs => if x.prio < l.prio || (x.prio == l.prio && decide (l.id < x.id)) then l :: x :: xs else x :: byPriority l xs

/-- GANG_PLACEMENT: a cycle of placement: the launches in PLACING in order, then the saved gangs that wait to be resumed. -/
def execGangPlacement (s : State) : Out3 :=
  if s.plat.sleeping || s.plat.power != .run || s.plat.boot != 6 then .next s
  else
  let ls := (s.launches.filter (fun l => l.state == .placing)).foldr byPriority []
  let s1 := (ls.map (·.id)).foldl State.placeLaunch s
  .next ((s1.gangs.filter (fun g => g.image.isSome)).foldl (fun s g => s.post (.gangResume g.id)) s1)

/-! ### LAUNCH_COMPLETION (R315, R376) -/

/-- STATUS of a launch (R311). -/
def Launch.status (l : Launch) : Word := BitVec.ofNat 32 l.gangNo ++ (0 : BitVec 16) ++ BitVec.ofNat 8 l.reason ++ BitVec.ofNat 8 l.code

/-- The write of STATUS at the packet's home, where the record then puts the packet. DESIGN CHOICE: log entry 78. -/
def State.statusAcc (s : State) (l : Launch) : Acc := putAcc ((s.queue l.queue).packetAt l.index + 80) 8 l.status.toNat

/-- Writes STATUS; a replayed packet has no place in a ring. -/
def State.writeStatus (s : State) (l : Launch) : Res Unit :=
  if l.nbv.isSome then .ok () s else (s.uAccess (.launch l.id) l.ctx (s.statusAcc l)).bind fun _ s1 => .ok () s1

/-- After a recorded packet's DONE the digest is taken and logged; in replay it is compared with the logged one (R376, R378). -/
def State.digestLaunch (s : State) (l : Launch) : State :=
  match (s.fnOf l.ctx).bind s.replayOf, l.recorded with
  | some r, some k =>
    if r.ending || r.replaying != l.nbv.isSome then s
    else
      let r1 := { r with work := r.work ++ [if r.replaying then .compare k else .digest k] }
      (s.setReplay r1).logWork r.fn (logFuel r1)
  | _, _ => s

/-- The launch is over. -/
def State.dropLaunch (s : State) (l : Launch) : State :=
  let s0 := (s.leave (.launch l.id)).unitEnd (.launch l.id)
  (({ s0 with launches := s0.launches.filter (fun x => x.id != l.id) }.closeChans l.id).digestLaunch l).evalHead l.queue

/-- Whether a signal of a context may still be applied there: a home of world 0. -/
def State.openHome (s : State) (c : BitVec 8) (va : Word) : Bool :=
  match s.unitHome c va 8 .atomic with
  | .home h => if homeIsLs h then s.world c == 0 else homeKind h != 0 || s.granule (homePa h) == 0
  | _ => false

/-- Whether the completion signal of a launch may be applied: while its context fails, only at homes of world 0 (R393). -/
def State.signalOpen (s : State) (l : Launch) : Bool := !s.failing l.ctx || s.openHome l.ctx l.packet[5]

/-- STATUS, then the completion signal, whose failure sets bit 7 of CODE (R315); after a signal that is applied the words of the heads in DEPWAIT are read
again (R314). Once STATUS is written, or its write has failed, the signal follows. DESIGN CHOICE: log entry 78. -/
def State.completeLaunch (s : State) (l : Launch) : State :=
  let signal (s : State) (l : Launch) : State :=
    if l.packet[5] == 0 then s.dropLaunch l
    else
      match (if s.signalOpen l then s.uSignal (.launch l.id) l.ctx l.packet[5] (0 - l.packet[6]) else .trap (trapOf 7 0 l.packet[5]) s : Res Unit) with
      | .ok _ s1 => s1.rereadAll.dropLaunch l
      | .park _ s1 => s1
      | .trap _ s1 | .done s1 =>
        let l1 := { l with code := l.code ||| 0x80 }
        match s1.writeStatus l1 with
        | .park _ s2 => s2
        | .ok _ s2 | .trap _ s2 | .done s2 => s2.dropLaunch l1
  if l.written then signal s l
  else
    match s.writeStatus l with
    | .park _ s1 => s1
    | .ok _ s1 | .trap _ s1 | .done s1 => signal (s1.setLaunch { l with written := true }) { l with written := true }

/-- LAUNCH_COMPLETION: a launch none of whose gangs is left, and that places no more, ends; its STATUS and its signal follow (R315). -/
def execLaunchCompletion (l : Nat) (s : State) : Out3 :=
  match s.launch l with
  | none => .next s
  | some x =>
    match x.state with
    | .ended => .next (s.completeLaunch x)
    | .check => .next s
    | _ =>
      if s.gangs.any (fun g => g.launch == l) then .next s
      else if x.state == .running || x.noticed || x.code != 0 then
        .next (s.endLaunch x (if x.code == 0 && x.noticed then 8 else x.code))
      else .next s

/-- WAITER_REEVALUATION: the waiter is evaluated again, in its place in the order, an engine's or a unit's access at once (R166, R171). -/
def execWaiterReevaluation (w : Nat) (s : State) : Out3 :=
  match s.waiters.find? (fun x => x.seq == w) with
  | none => .next s
  | some x =>
    match x.agent with
    | .thread t => .next (s.wakeAtBank t)
    | .window t => execBackgroundSpill t.core t.slot s
    | .copy n => execCopyNext n s
    | .grid n => execGridOperationComplete n s
    | .blocker n => execBlockEvaluation n s
    | .access t k =>
      (match (s.slot t).item k with
      | some (_, i) => .next ((s.setItem t k { i with stall := .none }).itemStep t k)
      | none => .next s)
    | .queue n => .next (s.evalHead n)
    | .launch id => execLaunchCompletion id s
    | .entry u k => execEpisodeRelease (BitVec.ofNat 1 u) k (s.resume x.agent)
    | a => .next (s.resume a)

/-- What the units beside the dispatcher still have to do in its cycle: fault records, acknowledgements, recordings. -/
def State.serviceClock (s : State) : State :=
  let s1 := s.recordFaults
  (s1.fns.foldl (fun s p => if p.2.acks.isEmpty then s else s.ackWork p.1 p.2.acks.length) s1).logWorks

/-- A cycle of the dispatcher: heads whose reads stalled or are due, launches in CHECK, PLACING or at their end, saved gangs. The dump engine and the secure
service core count the same clock (R26, R27). -/
def State.dispClock (s : State) : State :=
  let s0 : State := { s with dispCount := s.dispCount + 1, dumpCount := s.dumpCount + 1, ssc := { s.ssc with count := s.ssc.count + 1 } }.serviceClock
  let s1 : State := s0.queues.foldl (fun s p => if p.2.head == .queued || p.2.head == .head then s.evalHead p.1 else s) s0
  let s2 : State := if s1.launches.any (fun l => l.state == .check) || !s1.eligibleQueues.isEmpty then s1.post .packetSelection else s1
  let s3 : State := s2.launches.foldl (fun s l => if l.state == .ended then s.post (.launchCompletion l.id) else s) s2
  let s4 : State := if s3.queues.any (fun p => p.2.rereads s3.dispCount.toNat) then s3.post .dependenceReread else s3
  if s4.launches.any (fun l => l.state == .placing) || s4.gangs.any (fun g => g.image.isSome) then s4.post .gangPlacement else s4

end Sys2Proof.Machine
end

