-- ==== Sys2Proof/Machine/Preempt.lean ====
section
/-!
DEFINITION. Late traps at an instruction boundary, preempt notices, transparent pre-emption and resume (21 R321, R322; 24 R340 to R342; 14 R234,
R235; 17 R260; 18 R293; 19 R300), background spills (07 R100) and power gating (03 R58 to R61).
-/

namespace Sys2Proof.Machine

/-! ### LATE_TRAP_ENTRY (R340, R341) -/

/-- Takes the first late or deferred trap that is pending: c.epc is the PC about to issue, or 0 for the RETS of R49. -/
def State.takeLate (s : State) (t : Tid) : State :=
  let x := s.slot t
  match x.lates with
  | [] => s
  | l :: ls => (s.setSlot t { x with lates := ls }).takeTrap t l.info (if l.epcZero then 0 else x.pc) l.pc2 l.late l.defer

/-- Whether a slot is at an instruction boundary at which it may take a trap. -/
def State.atBoundary (s : State) (t : Tid) : Bool :=
  let x := s.slot t
  x.cont.isNone && !x.cr.intrap && (x.st == .ready || (x.st == .stopped && x.heldSt == .ready && (s.core t.core).dbg.stepping == some t.slot))

/-- LATE_TRAP_ENTRY: at an instruction boundary (R341, R342). -/
def execLateTrapEntry (core : Nat) (slot : BitVec 3) (s : State) : Out3 :=
  let t : Tid := ⟨core, slot⟩
  if s.atBoundary t && !(s.slot t).lates.isEmpty then .next (s.takeLate t) else .next s

/-! ### Notices (R234, R322) -/

/-- Whether a parked instruction is a SLEEP that has begun: a notice or a save ends it, and the thread goes on at NEXT (R359). -/
def Cont.sleeping (c : Cont) : Bool :=
  c.head.extractLsb' 8 6 == 0x32 && c.head.extractLsb' 14 2 == 1 && c.head.extractLsb' 0 3 == 1 && c.step == 1

/-- Whether a wait is one for the service of a fault (R350). -/
def Await.isService : Await → Bool
  | .service _ => true
  | _ => false

/-- Whether a parked instruction is one at which a notice is taken: BAR, BARA, BARW, XFENCE, SBWAIT, WAIT, JOIN and STEAL; SPAWN, SBARV and
SBINIT on a table WAIT (R234); SLEEP (R359); any that waits for the service of a fault (R350). -/
def Cont.noticed (c : Cont) (w : Await) : Bool :=
  let tl := (c.head.extractLsb' 14 2).toNat
  let maj := (c.head.extractLsb' 8 6).toNat
  let f := (c.head.extractLsb' 0 3).toNat
  w.isService || (maj == 0x16 && (tl == 1 || f == 1 || f == 2 || f == 3)) || (maj == 0x17 && (f == 2 || f == 4 || ((f == 0 || f == 1) && w.isTable))) ||
    (maj == 0x18 && (if tl == 1 then decide (f ≤ 1) else w.isTable)) || c.sleeping

/-- The parked instruction of a thread is abandoned: it has not completed, and issues again from the start (R234); a SLEEP ends. A thread that waits for the
line of its next instruction fetches it again (R350). -/
def State.abandon (s : State) (t : Tid) : State :=
  let s1 := (s.unwait t).settle (.thread t)
  let x := s1.slot t
  let x1 := { x with cont := none, await := .none, st := if x.st == .parked then .ready else x.st, heldSt := if x.st == .stopped then .ready else x.heldSt }
  match x.cont with
  | none => if x.waitsFor (fun _ => true) then s1.setSlot t x1 else s1
  | some c => (s1.setSlot t (if c.sleeping then { x1 with pc := c.npc, src := x.pc } else x1)).wakeOrder t.core

/-- Whether a thread is parked where a notice is taken (R234, R350). -/
def Slot.noticedHere (x : Slot) : Bool :=
  x.st == .parked && (match x.cont with
    | some c => c.noticed x.await
    | none => x.await.isService)

/-- The gangs that are pre-empted with a gang: all of a cooperative launch (R321). -/
def State.withGang (s : State) (g : Gang) : List Gang :=
  match s.launch g.launch with
  | some l => if l.coop then s.gangs.filter (fun x => x.launch == g.launch) else [g]
  | none => [g]

/-- Transparent pre-emption of a gang, with those that go with it, begins: its threads stop at an instruction boundary (R321). -/
def State.stopToSave (s : State) (g : Gang) : State :=
  (s.withGang g).foldl (fun s x =>
    match s.gang x.id with
    | some y =>
      if y.image.isSome || y.fatal.isSome || y.preempt then s
      else (y.places.foldl (fun s p => s.rouse p.core) (s.setGang { y with preempt := true })).post (.preemptSave y.id)
    | none => s) s

/-- A notice counts as delivered to a launch: no further gang of it is placed (R322). -/
def State.notedLaunch (s : State) (id : Nat) : State :=
  match s.launch id with
  | some l =>
    let s1 := s.setLaunch { l with noticed := true }
    if l.state == .placing then s1.toRunning { l with noticed := true } else s1
  | none => s

/-- PREEMPT_NOTICE: the notice is taken before the next instruction, or at the parked one; with no handler the gang is pre-empted
transparently (R234, R322). -/
def execPreemptNotice (core : Nat) (slot : BitVec 3) (s : State) : Out3 :=
  let t : Tid := ⟨core, slot⟩
  let x := s.slot t
  if x.notice != 1 || x.cr.intrap || !(x.noticedHere || s.atBoundary t) then .next s
  else
    match s.gang x.gang with
    | none => .next s
    | some g =>
      if x.cr.tvec == 0 then .next ((s.notedLaunch g.launch).stopToSave g)
      else
        let s1 := s.abandon t
        if !(s1.slot t).lates.isEmpty then .next (s1.takeLate t)
        else
          let y := s1.slot t
          let s2 := (s1.setSlot t { y with notice := 2 }).takeTrap t (trapOf 19 0 (zx y.cr.pbudget)) y.pc 0 false false
          let s3 := s2.notedLaunch g.launch
          .next (if y.cr.pbudget == 0 then s3.post (.pbudgetExpiry core slot) else s3)

/-- PBUDGET_EXPIRY: a thread's count has reached zero while its gang has threads left: transparent pre-emption (R322). -/
def execPbudgetExpiry (core : Nat) (slot : BitVec 3) (s : State) : Out3 :=
  let x := s.slot ⟨core, slot⟩
  if x.notice == 2 && x.cr.pbudget == 0 && x.st != .empty then
    match s.gang x.gang with
    | some g => .next (s.stopToSave g)
    | none => .next s
  else .next s

/-- Whether the live threads of a gang have no handler (R322). -/
def State.handlerless (s : State) (g : Gang) : Bool := g.tids.all (fun t => let x := s.slot t; x.gang != g.id || x.st == .empty || x.cr.tvec == 0)

/-- A notice to the threads of a gang; with no handler there it counts as delivered, and the gang is pre-empted at once (R322). The request reaches their
cores (R60). -/
def State.noticeGang (s : State) (g : Gang) : State :=
  if s.handlerless g then (s.notedLaunch g.launch).stopToSave g
  else
    g.tids.foldl (fun s t =>
      let y := s.slot t
      if y.gang == g.id && y.st != .empty && y.notice == 0 then
        ((s.setSlot t { y with notice := 1 }).rouse t.core).post (.preemptNotice t.core t.slot)
      else s) s

/-- Pre-emption of a gang is asked for: a launch flagged NOTICE first receives a notice (R321, R322). -/
def State.askPreempt (s : State) (g : Gang) : State :=
  match s.launch g.launch with
  | none => s
  | some l => if !l.notices then s.stopToSave g else (s.withGang g).foldl State.noticeGang s

/-- Whether a gang is resident and alive. -/
def Gang.resident (g : Gang) : Bool := g.image.isNone && g.fatal.isNone

/-- PREEMPT_REQUEST: a store to PREEMPT asks for every resident gang of the queue's launches (R321). -/
def execPreemptRequest (q : BitVec 13) (s : State) : Out3 :=
  let ids := (s.launches.filter (fun l => l.queue == q.toNat)).map (·.id)
  .next ((s.gangs.filter (fun g => g.resident && ids.contains g.launch)).foldl State.askPreempt s)

/-- The gangs that may be pre-empted for a launch: of latched priority below p − 1 on its permitted dies (R321). -/
def State.victims (s : State) (l : Launch) : List (Gang × Launch) :=
  let ds := s.permitted l
  s.gangs.filterMap (fun g =>
    match s.launch g.launch with
    | some x => if g.resident && decide (x.prio + 1 < l.prio) && g.places.any (fun p => ds.contains (dieOf p.core)) then some (g, x) else none
    | none => none)

/-- The next of them: lowest priority first and youngest launch first. -/
def State.victim (s : State) (l : Launch) : Option Gang :=
  ((s.victims l).foldl (fun (best : Option (Gang × Launch)) c =>
    match best with
    | none => some c
    | some b => if c.2.prio < b.2.prio || (c.2.prio == b.2.prio && decide (b.2.id < c.2.id)) then some c else best) none).map (·.1)

/-- Whether a gang is on its way out: it stops to be saved, or a notice is with a thread of it. -/
def State.leaving (s : State) (g : Gang) : Bool :=
  g.preempt || g.places.any (fun p => p.slots.any (fun k => let x := s.slot ⟨p.core, k⟩; x.gang == g.id && x.notice != 0))

/-- PLACEMENT_WAIT_EXPIRY: a launch has waited 65,536 cycles: gangs of lower priority are pre-empted, one after the other, until its next gang fits (R321). It
looks again in each cycle until it is placed. -/
def execPlacementWaitExpiry (l : Nat) (s : State) : Out3 :=
  match s.launch l with
  | none => .next s
  | some x =>
    if x.state != .placing || s.dispCount.toNat < x.since + 65536 then .next s
    else
      let again := s.timer 8192 (s.dispCount.toNat + 1) (.placementWaitExpiry l)
      let fits := if x.coop && !x.gmodeP then (s.placeRun x (x.dim 0) 0 (x.total - x.nextGang) x.nextGang).1 == x.total else (s.fit x).isSome
      if fits then .next (again.post .gangPlacement)
      else if (s.victims x).any (fun v => s.leaving v.1) then .next again
      else
        match s.victim x with
        | some g => .next (again.askPreempt g)
        | none => .next again

/-- Whether a saved gang of a launch stays saved: a launch of priority above its own by 2 or more has waited 65,536 cycles for one of its dies (DESIGN
CHOICE: log entry 73). -/
def State.yields (s : State) (l : Launch) : Bool :=
  s.launches.any (fun x => x.state == .placing && decide (l.prio + 1 < x.prio) && decide (x.since + 65536 ≤ s.dispCount.toNat) && !s.failedLaunch x &&
    (s.permitted x).any ((s.permitted l).contains ·))

/-! ### PREEMPT_SAVE (R321) -/

/-- Whether a slot can be saved now: it waits for no reply. DEDUCED: log entry 47. -/
def Slot.savable (x : Slot) : Bool :=
  !x.waitsFor (fun w => match w with
    | .reply _ | .acks => true
    | .unit => (x.cont.map (fun c => c.step == 1)).getD false
    | _ => false) &&
  x.outs.all (fun o => o.items.all (fun i => match i.stall with
    | .reply _ => false
    | _ => true))

/-- Whether the blocker of a core is in an evaluation of a block of these slots that is not stalled on a WAIT action (R293). -/
def State.blockerBusy (s : State) (p : GangCore) : Bool :=
  (s.core p.core).demands.any (fun d => d.stall.isNone && d.blocks.any (fun k => p.slots.contains k.slot && (!k.got.isEmpty || k.made != 0)))

/-- Whether the copy engine of a core waits for an answer to what it has issued for a gang (R300). -/
def State.copyBusy (s : State) (g : Nat) (p : GangCore) : Bool :=
  s.copyIssued p.core && ((s.core p.core).copies.head?.map (fun k => k.gang == g)).getD false

/-- Whether the grid of a core runs an operation of one of these slots that is not stalled on a WAIT action (R260). -/
def State.gridBusy (s : State) (p : GangCore) : Bool :=
  match (s.core p.core).grid with
  | some g => p.slots.contains g.slot && g.since.isNone
  | none => false

/-- A slot as it is saved: a parked instruction of R234 is abandoned, but a waiter keeps its place in the order; another keeps its progress and issues
again (R235). No transfer leads to the PC that
a resume restores (R114). -/
def State.saveSlot (s : State) (t : Tid) : Slot :=
  let x0 : Slot := s.slot t
  let x : Slot := match x0.cont with
    | some c => if (c.noticed x0.await || x0.await == Await.grid) && !s.waiters.any (fun w => !w.gate && w.agent == .thread t) then (s.abandon t).slot t else x0
    | none => x0
  let c1 : Option Cont := x.cont.map (fun (c : Cont) => { c with since := none, dog := false })
  { x with
    cont := c1, await := .none, notice := 0, src := 0
    st := if x.st == .parked then .ready else x.st, heldSt := if x.st == .stopped && x.heldSt == .parked then .ready else x.heldSt
    outs := x.outs.map (fun o => { o with items := o.items.map (fun i => if i.done then i else { i with stall := .none, since := none, point := 0 }) }) }

/-- One core's part of a gang, as it is saved. DESIGN CHOICE: log entry 23. -/
def State.imageOf (s : State) (g : Nat) (p : GangCore) : CoreImage :=
  let c := s.core p.core
  let lo := lsHome p.core (4096 * p.base)
  let hi := lo + 4096 * p.regions
  let inR (a : Nat) : Bool := decide (lo ≤ a) && decide (a < hi)
  { core := p.core, base := p.base, regions := p.regions
    slots := p.slots.map (fun k => (k.toNat, s.saveSlot ⟨p.core, k⟩))
    bytes := (s.mem.filter (fun b => inR b.1)).map (fun b => (b.1 - lo, b.2))
    tags := (s.tags.filter (fun b => inR b.1)).map (fun b => (b.1 - lo, b.2))
    poison := (s.poison.filter inR).map (· - lo), badTags := (s.badTags.filter inR).map (· - lo)
    tables := c.tables, shadows := c.shadows, rmap0 := c.rmap0, rmap1 := c.rmap1, gdly := c.gdly
    fifo := match c.grant with
      | some k => if p.slots.contains k then c.fifo else []
      | none => []
    grant := match c.grant with
      | some k => if p.slots.contains k then some k else none
      | none => none
    copies := (c.copies.filter (fun k => k.gang == g)).map (fun k => { k with stall := .none, since := none, data := none })
    waiters := s.waiters.filter (fun w => !w.gate && (match w.agent with
      | .thread t | .access t _ => t.core == p.core && p.slots.contains t.slot
      | .copy n => n == p.core && (c.copies.head?.map (fun k => k.gang == g)).getD false
      | _ => false))
    dbg := c.dbg
    key := (s.ctxKeys (s.ctxOf p.core)).map (·.save) }

/-- The agents of a gang. -/
def State.agentOf (s : State) (g : Gang) (a : Agent) : Bool :=
  match a with
  | .copy n => g.places.any (fun p => p.core == n) && ((s.core n).copies.head?.map (fun k => k.gang == g.id)).getD false
  | .grid n => g.places.any (fun p => p.core == n && (match (s.core n).grid with
      | some o => p.slots.contains o.slot
      | none => false))
  | a => (a.owner?.map g.tids.contains).getD false

/-- Whether a demand is for blocks of these slots. -/
def Demand.on (d : Demand) (p : GangCore) : Bool := d.blocks.any (fun b => p.slots.contains b.slot)

/-- The evaluations of a gang's blocks on a core are abandoned with nothing written (R293). -/
def State.abandonBlocks (s : State) (p : GangCore) : State :=
  let c := s.core p.core
  let ds := c.demands.filter (·.on p)
  if ds.isEmpty then s
  else
    let s1 := ds.foldl (fun s d => d.blocks.foldl (fun s k => k.undo.foldl (State.putBack · p.core) s) s) s
    (s1.setCore p.core { s1.core p.core with demands := (s1.core p.core).demands.filter (fun d => !d.on p) }).leave (.blocker p.core)

/-- Flags that blocks forced for a gang, or blocks of its blanks, still owe (R96). -/
def State.settleGang (s : State) (g : Gang) : State :=
  (s.owed.filter (fun o => s.agentOf g o.1 || g.tids.contains o.2.1)).foldl (fun s o => s.settle o.1) s

/-- A gang's place on a core is given up: its grid operation and what it demands there end with it; what other gangs have there goes on. -/
def State.vacate (s : State) (g : Gang) (p : GangCore) : State :=
  let c := s.core p.core
  let mine := (c.grid.map (fun o => p.slots.contains o.slot)).getD false
  let s1 := s.setCore p.core { c with
    grid := if mine then none else c.grid
    tst := c.tst.filter (fun k => !p.slots.contains k)
    demands := c.demands.filter (fun d => !s.agentOf g d.by_) }
  let s2 := (s1.freePlace g.id p).gridFree p.core
  if (s2.core p.core).copies.isEmpty then s2 else s2.post (.copyCommandStart p.core)

/-- The gang leaves its cores, its image kept by the dispatcher. -/
def State.saveGang (s : State) (g : Gang) : State :=
  let others := (g.places.flatMap (fun p => ((s.core p.core).demands.filter (·.on p)).map (·.by_))).filter (fun a => !s.agentOf g a)
  let s0 := g.places.foldl State.abandonBlocks (s.settleGang g)
  let imgs := g.places.map (s0.imageOf g.id)
  let s1 := g.places.foldl (fun s p => p.slots.foldl (fun s k => s.traceAt ⟨p.core, k⟩ 8 2 (s.slot ⟨p.core, k⟩).pc (BitVec.ofNat 64 g.linear)) s) s0
  let s2 : State := { s1 with
    waiters := s1.waiters.filter (fun w => !s.agentOf g w.agent)
    urgent := s1.urgent.filter (fun t => !g.tids.contains t) }.dropRequests (s.agentOf g)
  let s3 := g.places.foldl (fun s p => s.vacate g p) s2
  let s4 := s3.setGang { g with places := [], image := some imgs, preempt := false }
  let s5 := others.foldl State.resume s4
  (s5.logEvent g.ctx 3 [BitVec.ofNat 64 g.linear, s5.dispCount, 0, 0]).post .gangPlacement

/-- Whether everything that must finish before a gang is saved has finished (R260, R293, R300, R321). -/
def State.canSave (s : State) (g : Gang) : Bool :=
  g.tids.all (fun t => (s.slot t).savable && !s.stampBusy t) &&
  g.places.all (fun p => !s.gridBusy p && !s.blockerBusy p && !s.copyBusy g.id p)

/-- PREEMPT_SAVE: the gang's threads are at instruction boundaries and what must finish has finished: it is saved (R321). -/
def execPreemptSave (g : Nat) (s : State) : Out3 :=
  match s.gang g with
  | none => .next s
  | some x =>
    if !x.preempt || x.image.isSome || x.fatal.isSome then .next s
    else if s.canSave x then .next (s.saveGang x)
    else .next (s.timer 8192 (s.dispCount.toNat + 1) (.preemptSave g))

/-! ### GANG_RESUME (R235, R321) -/

/-- Whether a core can take an image back: the same context, its slots, its regions, and the matrix grant that it brings. -/
def State.takesImage (s : State) (ctx : BitVec 8) (n : Nat) (m : CoreImage) : Bool :=
  s.coreFor n ctx && m.slots.all (fun p => (s.freeSlots n).contains (BitVec.ofNat 3 p.1)) && (s.core n).regionsFree m.base m.regions &&
    (m.grant.isNone || (s.core n).grant.isNone)

/-- The images of a gang, quad by quad. -/
def groupQuads (ms : List CoreImage) : List (List CoreImage) :=
  let qs := (ms.map (fun m => quadOf m.core)).eraseDups
  qs.map (fun q => ms.filter (fun m => quadOf m.core == q))

/-- Quads of a list for the groups of images, in order: the same member numbers. -/
def State.seatQuads (s : State) (ctx : BitVec 8) : List (List CoreImage) → List Nat → Option (List (CoreImage × Nat))
  | [], _ => some []
  | _ :: _, [] => none
  | g :: gs, q :: qs =>
    if g.all (fun m => s.takesImage ctx (4 * q + m.core % 4) m) then
      (s.seatQuads ctx gs qs).map (fun r => g.map (fun m => (m, 4 * q + m.core % 4)) ++ r)
    else s.seatQuads ctx (g :: gs) qs

/-- Where a saved gang can go: its own cores for a launch with aperture permission, else the first fit, on dies that are still latched to its world (R319, R321,
R380). -/
def State.seatGang (s : State) (l : Launch) (g : Gang) (ms : List CoreImage) : Option (List (CoreImage × Nat)) :=
  let ds := s.openDies l
  if g.aper then (if ms.all (fun m => ds.contains (dieOf m.core) && s.takesImage g.ctx m.core m) then some (ms.map (fun m => (m, m.core))) else none)
  else ds.findSome? (fun d => s.seatQuads g.ctx (groupQuads ms) (dieQuads d))

/-- A home on one of a gang's old cores, on its new core. -/
def moveHome (map : List (Nat × Nat)) (h : Nat) : Nat :=
  if homeIsLs h then
    match map.find? (fun p => p.1 == homeCore h) with
    | some p => lsHome p.2 (homeOff h)
    | none => h
  else h

/-- A thread's place on its new core. -/
def moveTid (map : List (Nat × Nat)) (t : Tid) : Tid :=
  match map.find? (fun p => p.1 == t.core) with
  | some p => ⟨p.2, t.slot⟩
  | none => t

/-- A saved waiter on its new core. -/
def Waiter.moved (map : List (Nat × Nat)) (w : Waiter) : Waiter :=
  { w with
    home := moveHome map w.home
    agent := match w.agent with
      | .thread t => .thread (moveTid map t)
      | .access t k => .access (moveTid map t) k
      | .copy n => .copy (moveTid map ⟨n, 0⟩).core
      | a => a }

/-- A saved slot on its new core: what names a core by its number is renamed; its parked instruction issues again, at the core's count. -/
def Slot.moved (map : List (Nat × Nat)) (x : Slot) (budget : BitVec 32) (count : Word) : Slot :=
  { x with
    cont := x.cont.map (fun (c : Cont) => { c with count := count })
    cr := { x.cr with pbudget := budget }
    port := { x.port with sclaim := x.port.sclaim.map (moveTid map), vclaim := x.port.vclaim.map (moveTid map) }
    outs := x.outs.map (fun o => { o with items := o.items.map (fun i => { i with home := moveHome map i.home }) }) }

/-- Restores one core's image. The core's tables are the saved ones again, for what else it holds too (DESIGN CHOICE: log entry 73). -/
def State.restoreCore (s : State) (g : Gang) (budget : BitVec 32) (map : List (Nat × Nat)) (m : CoreImage) (n : Nat) : State :=
  let alone := (s.core n).ctx.isNone
  let p : GangCore := { core := n, base := m.base, regions := m.regions, slots := m.slots.map (fun q => BitVec.ofNat 3 q.1) }
  let field (i : Nat) : BitVec 2 := ((if i < 32 then m.rmap0 else m.rmap1).extractLsb' (2 * (i % 32)) 2)
  let s1 := s.prepare g.id g.ctx p 0 0
  let c := (List.range m.regions).foldl (fun (c : Core) i => c.setRmap (m.base + i) (field (m.base + i))) (s1.core n)
  let c1 := { c with gdly := m.gdly, dbg := if alone then m.dbg else c.dbg }
  let c2 := { c1 with
    grant := if m.grant.isSome then m.grant else c1.grant
    fifo := if m.grant.isSome then m.fifo else c1.fifo
    copies := c1.copies ++ m.copies.map (fun k => { k with token := moveHome map k.token, tid := moveTid map k.tid }) }
  let lo := lsHome n (4096 * m.base)
  let s2 := (s1.setCore n c2).switch n (fun c => { c with tables := m.tables, shadows := m.shadows })
  let s3 : State := { s2 with
    mem := m.bytes.foldl (fun a b => Memory.setByte a (lo + b.1) b.2) s2.mem
    tags := m.tags.foldl (fun a b => SMap.setD a (lo + b.1) 0 b.2) s2.tags
    poison := s2.poison ++ m.poison.map (lo + ·), badTags := s2.badTags ++ m.badTags.map (lo + ·) }
  let s4 := m.slots.foldl (fun s q =>
    let k : BitVec 3 := BitVec.ofNat 3 q.1
    let s5 := (s.setSlot ⟨n, k⟩ (q.2.moved map budget (s.core n).cyc)).traceAt ⟨n, k⟩ 8 3 q.2.pc (BitVec.ofNat 64 g.linear)
    (if q.2.runnable && q.2.cont.isSome then { s5 with urgent := s5.urgent ++ [⟨n, k⟩] } else s5).kick ⟨n, k⟩) s3
  if m.copies.isEmpty then s4 else s4.post (.copyCommandStart n)

/-- Puts saved waiters back at their places in the order; each is evaluated again once, in that order (R166, R235). -/
def State.restoreWaiters (s : State) (ws : List Waiter) : State :=
  let es := ((ws.foldr insertWaiter []).map (fun w => Event.waiterReevaluation w.seq)).eraseDups
  { s with waiters := ws.foldr insertWaiter s.waiters, todo := es ++ s.todo }

/-- Restores a gang on the cores it is given. -/
def State.resumeOn (s : State) (l : Launch) (g : Gang) (seats : List (CoreImage × Nat)) : State :=
  let map := seats.map (fun p => (p.1.core, p.2))
  let places : List GangCore := seats.map (fun p => { core := p.2, base := p.1.base, regions := p.1.regions, slots := p.1.slots.map (fun q => BitVec.ofNat 3 q.1) })
  let g1 := { g with places := places, image := none }
  let place (c : Chan) : Chan :=
    match map.find? (fun p => barPlace c.sc p.1 == c.place) with
    | some p => { c with place := barPlace c.sc p.2 }
    | none => c
  let s1 : State := { s.setGang g1 with chans := s.chans.map (fun c => if c.sc.toNat ≤ 3 && c.owner == g.id then place c else c) }
  let s2 := seats.foldl (fun s p => s.restoreCore g1 (l.desc[3].extractLsb' 0 32) map p.1 p.2) s1
  (s2.restoreWaiters ((seats.flatMap (fun p => p.1.waiters)).map (Waiter.moved map))).postFull

/-- Resumes gangs one after the other; none where one finds no place. -/
def State.resumeAll (s : State) (l : Launch) : List Gang → Option State
  | [] => some s
  | g :: gs =>
    match s.seatGang l g (g.image.getD []) with
    | some seats => (s.resumeOn l g seats).resumeAll l gs
    | none => none

/-- Whether the images of a gang open under its context's save key (R384, R394). -/
def State.opens (s : State) (g : Gang) : Bool := (g.image.getD []).all (fun m => m.key == (s.ctxKeys g.ctx).map (·.save))

/-- GANG_RESUME: a saved gang goes on; all of a cooperative launch at once (R321). -/
def execGangResume (g : Nat) (s : State) : Out3 :=
  match s.gang g with
  | none => .next s
  | some x =>
    match s.launch x.launch with
    | none => .next s
    | some l =>
      if x.image.isNone || s.plat.sleeping || s.plat.power != .run || s.plat.boot != 6 || s.yields l || s.failing x.ctx || !s.opens x then .next s
      else
        let gs := if l.coop then (s.gangs.filter (fun y => y.launch == l.id && y.image.isSome)) else [x]
        if l.coop && s.gangs.any (fun y => y.launch == l.id && y.preempt) then .next s
        else
          match s.resumeAll l gs with
          | some s1 => .next (if l.state == .placing then s1.post .gangPlacement else s1)
          | none => .next s

/-! ### Idle cycles (R100) -/

/-- What a core's window unit does in a cycle without an issue. -/
def State.postSpills (s : State) (n : Nat) : State :=
  if (s.core n).gated then s
  else slotNums.foldl (fun s k => if (s.slot ⟨n, k⟩).spillable then s.post (.backgroundSpill n k) else s) s

/-! ### Power gating (R58 to R61) -/

/-- GATE_COMMIT: the idle count has reached GDLY and nothing has woken the core: it gates; its instruction cache and its operand staging are lost. -/
def execGateCommit (core : Nat) (s : State) : Out3 :=
  let c := s.core core
  if c.gated || c.gdly == 0 || c.idle < c.gdly.toNat then .next s
  else .next (s.setCore core { c with gated := true, ungating := false, icache := [], staging := [] })

/-- UNGATE_START: a wake reaches a gated core. -/
def execUngateStart (core : Nat) (s : State) : Out3 :=
  let c := s.core core
  if c.gated && !c.ungating then .next ((s.setCore core { c with ungating := true }).post (.ungateComplete core)) else .next s

/-- UNGATE_COMPLETE: within 256 cycles; the threads that were woken go on, and the accesses that were held, in their order of arrival (R60, R61). -/
def execUngateComplete (core : Nat) (s : State) : Out3 :=
  let c := s.core core
  if !c.ungating then .next s
  else
    let woken : List Tid := (slotNums.filter (fun k => (c.slot k).runnable && (c.slot k).cont.isSome)).map (fun k => ⟨core, k⟩)
    let s1 := s.setCore core { c with gated := false, ungating := false, idle := 0 }
    let held := (s1.waiters.filter (fun w => w.gate && homeCore w.home == core)).map (fun w => Event.waiterReevaluation w.seq)
    .next { s1 with urgent := s1.urgent ++ woken.filter (fun t => !s1.urgent.contains t), todo := held.filter (fun e => !s1.todo.contains e) ++ s1.todo }

end Sys2Proof.Machine
end

