-- ==== Sys2Proof/Machine/Debug.lean ====
section
/-!
DEFINITION. The debug blocks: watchpoint registers, stop, resume and step, slot windows; dumps (26 R360 to R375).
-/

namespace Sys2Proof.Machine

/-! ### Who reaches a block (R360) -/

/-- Whether a core holds a protected context: no route reaches it. -/
def State.shielded (s : State) (core : Nat) : Bool :=
  match (s.core core).ctx with
  | some c => s.world c != 0
  | none => false

/-- Whether some route reaches a core's block: the Sahgon port while the part is unlocked with access to the debug blocks, or a host function
with DBG that owns the core's context, of world 0. -/
def State.reachable (s : State) (core : Nat) : Bool :=
  !s.shielded core &&
  ((s.ssc.life == 3 && (s.ssc.sahgon.map (·.getLsbD 0)).getD false) ||
    (match (s.core core).ctx with
    | some c => ((s.fnOf c).map (fun f => (s.fn f).dbg)).getD false
    | none => false))

def State.dbg (s : State) (core : Nat) : Debug := (s.core core).dbg

def State.setDbg (s : State) (core : Nat) (d : Debug) : State := s.setCore core { s.core core with dbg := d }

/-- A command that is refused sets DSTAT.ERR; an accepted one clears it (R368). -/
def State.dbgErr (s : State) (core : Nat) (e : Bool) : State := s.setDbg core { s.dbg core with err := e }

/-! ### Watchpoint registers (R362) -/

/-- Whether a value may be written to WPCTL. -/
def wpctlOk (v : Word) : Bool :=
  v.extractLsb' 16 2 != 3 && decide ((v.extractLsb' 13 3).toNat ≤ 5) && decide ((v.extractLsb' 18 6).toNat ≤ 32) &&
  (v.extractLsb' 16 2 != 2 || v.extractLsb' 27 5 == 0)

/-- WPCTL_WRITE: R362. -/
def execWpctlWrite (core : Nat) (n : BitVec 2) (v : BitVec 64) (s : State) : Out3 :=
  if !s.reachable core || !wpctlOk v then .next s
  else .next (s.setDbg core { s.dbg core with wpctl := (s.dbg core).wpctl.set n.toNat (v &&& 0xFFFFF000) n.isLt })

/-! ### Stops (R365 to R367) -/

/-- Puts one slot under a stop: its state is kept, and a trace record written. -/
def State.stopSlot (s : State) (t : Tid) (m : StopMsg) : State :=
  let x := s.slot t
  let now := (s.core t.core).cyc.toNat
  let wp := if m.src.getLsbD 1 then 63 else (m.src.extractLsb' 32 2).toNat
  (s.setSlot t { x with st := .stopped, heldSt := x.st, stopAt := now }).traceAt t 6 wp ((x.cont.map (fun _ => x.pc)).getD x.pc) m.addr

/-- One stop takes effect on a core. -/
def State.takeStop (s : State) (m : StopMsg) : State :=
  let n := m.core
  let hit (k : BitVec 3) : Bool :=
    let x := s.slot ⟨n, k⟩
    (s.core n).ctx == some m.ctx && (x.st == .ready || x.st == .parked) && (match m.gangs with
      | some gs => gs.contains x.gang
      | none => true)
  let ks := slotNums.filter hit
  let d := s.dbg n
  let skid : Vector (BitVec 32) 8 := Vector.ofFn (fun i : Fin 8 =>
    if ks.contains (BitVec.ofNat 3 i.val) then (1 : BitVec 1) ++ (0 : BitVec 15) ++ BitVec.ofNat 16 (m.issued[i.val]?.getD 0) else 0)
  let s1 := s.setDbg n { d with stopSrc := m.src, stopAddr := m.addr, stopCnt := m.cnt, skid := skid, dom := m.dom, stopped := true }
  let s2 := ks.foldl (fun s k => s.stopSlot ⟨n, k⟩ m) s1
  if ks.isEmpty then s2 else s2.logEvent m.ctx 4 [m.src, m.addr, m.cnt, 0]

/-- STOP_TAKES_EFFECT: the stops of a core that are due (R365). -/
def execStopTakesEffect (core : Nat) (s : State) : Out3 :=
  let now := (s.core core).cyc.toNat
  let due := s.stops.filter (fun m => m.core == core && decide (m.at_ ≤ now))
  .next (due.foldl State.takeStop { s with stops := s.stops.filter (fun m => !(m.core == core && decide (m.at_ ≤ now))) })

/-- STOP through DCMD: a hit of domain 0 with PORT set (R368). -/
def execStopCmd (core : Nat) (s : State) : Out3 :=
  if !s.reachable core then .next s
  else if !s.gangs.any (fun g => g.places.any (·.core == core)) then .next (s.dbgErr core true)
  else
    let src : Word := (0 : BitVec 16) ++ BitVec.ofNat 12 core ++ (0 : BitVec 34) ++ (1 : BitVec 1) ++ (1 : BitVec 1)
    .next ((s.dbgErr core false).raiseStop core 0 (s.ctxOf core) src 0)

/-! ### Resume and step (R368, R369) -/

/-- The cores that recorded, or are about to record, the same stop as a core. -/
def State.sameStop (s : State) (core : Nat) : List Nat :=
  let d := s.dbg core
  let recd := (s.cores.filter (fun p => p.2.dbg.stopSrc == d.stopSrc && p.2.dbg.stopCnt == d.stopCnt && p.2.dbg.stopAddr == d.stopAddr)).map (·.1)
  let coming := (s.stops.filter (fun m => m.src == d.stopSrc && m.cnt == d.stopCnt && m.addr == d.stopAddr)).map (·.core)
  (recd ++ coming.filter (fun n => !recd.contains n)).eraseDups

/-- The cores of the last stop's domain on a core (R365, R368): those that recorded the stop, and those that DOM names, which an earlier stop may have held
already. -/
def State.stopDomain (s : State) (core : Nat) : List Nat :=
  let d := s.dbg core
  let h := (d.stopSrc.extractLsb' 36 12).toNat
  let c := (s.core core).ctx
  let named := if d.dom == 0 then (s.gangs.filter (fun g => some g.ctx == c && g.places.any (·.core == h))).flatMap (fun g => g.places.map (·.core))
    else (s.cores.filter (fun p => p.2.ctx == c && (d.dom == 5 || inScope d.dom h p.1))).map (·.1)
  (s.sameStop core ++ named).eraseDups

/-- RESUME: it travels as a stop does, to every core of the last stop's domain (R368); at DOM 5 to every package of the pod. -/
def execResumeCmd (core : Nat) (s : State) : Out3 :=
  let d := s.dbg core
  if !s.reachable core then .next s
  else if !d.stopSrc.getLsbD 0 then .next (s.dbgErr core true)
  else
    let s1 := (s.stopDomain core).foldl (fun (s : State) n =>
      let at_ := s.cycleOf core n + stopDelay core n
      let m : StopMsg := { core := n, at_ := at_, ctx := s.ctxOf n, gangs := none, src := d.stopSrc, addr := d.stopAddr, cnt := d.stopCnt, dom := d.dom, hit := 0
                           issued := Vector.replicate 8 0 }
      let s2 : State := { s with resumes := s.resumes ++ [m] }
      (s2.rouse n).timer n at_ (.resumeTakesEffect n)) (s.dbgErr core false)
    .next (if d.dom == 5 then s1.transmitAll core (s1.stopMsgs (s.ctxOf core) (d.stopSrc ||| 4) d.stopAddr) else s1)

/-- A STOPPED slot goes on: READY, or PARKED while its event has not occurred; the counts of its table waits, and of those of its relaxed accesses, did not
advance (R31, R167, R366). -/
def State.resumeSlot (s : State) (t : Tid) : State :=
  let x := s.slot t
  let now := (s.core t.core).cyc.toNat
  let late (n : Nat) : Nat := n + (now - max n x.stopAt)
  let y : Slot := { x with
    st := if x.heldSt == .parked then .parked else .ready
    cont := x.cont.map (fun (c : Cont) => { c with since := c.since.map late })
    outs := x.outs.map (fun (o : Out) => { o with items := o.items.map (fun (i : OutItem) => { i with since := i.since.map late }) }) }
  let waits : List Nat := (if y.await.isTable then (y.cont.bind (·.since)).toList else []) ++
    y.outs.flatMap (fun o => o.items.filterMap (fun i => if !i.done && i.stall.isTable then i.since else none))
  let s1 := waits.foldl (fun s n => s.timer t.core (n + 2 ^ 26) (.tagWaitWatchdog t.core 0 t.slot)) (s.setSlot t y)
  if y.st == .ready then s1.urge t (s1.core t.core).gated else s1

/-- RESUME_TAKES_EFFECT: the resumes of a core that are due; the stop records stay (R368). -/
def execResumeTakesEffect (core : Nat) (s : State) : Out3 :=
  let now := (s.core core).cyc.toNat
  if !s.resumes.any (fun m => m.core == core && decide (m.at_ ≤ now)) then .next s
  else
    let s1 : State := { s with resumes := s.resumes.filter (fun m => !(m.core == core && decide (m.at_ ≤ now))) }
    let s2 := slotNums.foldl (fun s k => if (s.slot ⟨core, k⟩).st == .stopped then s.resumeSlot ⟨core, k⟩ else s) s1
    .next (s2.setDbg core { s2.dbg core with stopped := false, stepping := none })

/-- STEP: one instruction of a STOPPED slot whose awaited event is not outstanding (R369). -/
def execStepCmd (core : Nat) (slot : BitVec 3) (s : State) : Out3 :=
  let x := s.slot ⟨core, slot⟩
  if !s.reachable core then .next s
  else if x.st != .stopped || x.heldSt == .parked || (s.dbg core).stepping.isSome then .next (s.dbgErr core true)
  else .next (s.setDbg core { s.dbg core with err := false, stepping := some slot })

/-! ### Slot images (R360, R374) -/

/-- The control registers in the order of R110. -/
def cregList : List (BitVec 11) :=
  [0x000, 0x001, 0x002, 0x003, 0x004, 0x005, 0x006, 0x007, 0x010, 0x011, 0x012, 0x013, 0x014, 0x015, 0x016, 0x017, 0x020, 0x021, 0x022,
   0x028, 0x029, 0x02A, 0x030, 0x031, 0x032, 0x040, 0x041, 0x042, 0x043, 0x044, 0x045, 0x050, 0x051, 0x052]

/-- The status word of a slot image. -/
def Slot.statusWord (x : Slot) : Word :=
  let st : Nat := match x.st with
    | .empty => 0
    | .ready => 1
    | .parked => 2
    | .stopped => 3
  let wait := x.st == .parked || (x.st == .stopped && x.heldSt == .parked)
  BitVec.ofNat 64 st ||| (b2w x.mode <<< 2) ||| (b2w x.cr.intrap <<< 3) ||| (zx x.regs.cur <<< 4) ||| (b2w wait <<< 7)

/-- Word k of a slot image. -/
def State.slotWord (s : State) (t : Tid) (k : Nat) : Word :=
  let x := s.slot t
  if k = 0 then x.pc
  else if k = 1 then x.statusWord
  else if 4 ≤ k ∧ k < 9 then x.regs.common[k - 4]?.getD 0
  else if 16 ≤ k ∧ k < 80 then x.regs.ring[k - 16]?.getD 0
  else if 80 ≤ k ∧ k < 104 then x.regs.trap[k - 80]?.getD 0
  else if 104 ≤ k ∧ k < 160 then
    match cregList[k - 104]? with
    | some n => { s with cur := t }.creg n
    | none => 0
  else if 160 ≤ k ∧ k < 192 then ((x.regs.desc[(k - 160) / 4]?).getD 0).extractLsb' (64 * ((k - 160) % 4)) 64
  else if 256 ≤ k ∧ k < 512 then ((x.regs.vec[(k - 256) / 8]?).getD 0).extractLsb' (64 * ((k - 256) % 8)) 64
  else 0

/-- Replaces 64 bits of a wider value. -/
def putWord {w : Nat} (v : BitVec w) (k : Nat) (x : Word) : BitVec w :=
  (v &&& ~~~(((BitVec.allOnes 64).setWidth w) <<< (64 * k))) ||| ((x.setWidth w) <<< (64 * k))

/-- A write of word k of a slot image; no transfer leads to a PC that it sets (R114). DEDUCED: log entry 48. -/
def State.writeSlotWord (s : State) (t : Tid) (k : Nat) (v : Word) : State :=
  let x := s.slot t
  let regs (r : Regs) : State := s.setSlot t { x with regs := r }
  if k = 0 then s.setSlot t { x with pc := v &&& ~~~1, src := 0 }
  else if 4 ≤ k ∧ k < 9 then regs { x.regs with common := x.regs.common.setIfInBounds (k - 4) v }
  else if 16 ≤ k ∧ k < 80 then regs { x.regs with ring := x.regs.ring.setIfInBounds (k - 16) v }
  else if 80 ≤ k ∧ k < 104 then regs { x.regs with trap := x.regs.trap.setIfInBounds (k - 80) v }
  else if 104 ≤ k ∧ k < 160 then
    match cregList[k - 104]? with
    | some n => { ({ s with cur := t }.setCreg n v) with cur := s.cur }
    | none => s
  else if 160 ≤ k ∧ k < 192 then
    let i := (k - 160) / 4
    regs { x.regs with desc := x.regs.desc.setIfInBounds i (putWord ((x.regs.desc[i]?).getD 0) ((k - 160) % 4) v) }
  else if 256 ≤ k ∧ k < 512 then
    let i := (k - 256) / 8
    regs { x.regs with vec := x.regs.vec.setIfInBounds i (putWord ((x.regs.vec[i]?).getD 0) ((k - 256) % 8) v) }
  else s

/-- SLOT_WINDOW_WRITE: while the slot is STOPPED; an unaligned access is ignored (R360). -/
def execSlotWindowWrite (core : Nat) (slot : BitVec 3) (off : BitVec 12) (v : BitVec 64) (s : State) : Out3 :=
  let t : Tid := ⟨core, slot⟩
  if !s.reachable core || (s.slot t).st != .stopped || off.toNat % 8 ≠ 0 then .next s
  else .next (s.writeSlotWord t (off.toNat / 8) v)

/-- DSTAT (R368). -/
def State.dstat (s : State) (core : Nat) : Word :=
  let bit (p : Slot → Bool) : Nat := (slotNums.map (fun k => if p (s.slot ⟨core, k⟩) then 2 ^ k.toNat else 0)).sum
  let d := s.dbg core
  BitVec.ofNat 64 (bit (fun x => x.st == .stopped) + 256 * bit (fun x => x.st == .stopped && x.heldSt == .parked) +
    (if d.stepping.isSome then 65536 else 0) + (if d.err then 131072 else 0))

/-- A read of a register of a core's debug block; an offset that the block does not define reads zero (R360). -/
def State.debugRead (s : State) (core off : Nat) : Word :=
  let d := s.dbg core
  if off % 8 ≠ 0 then 0
  else if off < 0x40 then
    let n := off / 16
    if off % 16 = 0 then d.wpaddr[n]?.getD 0 else d.wpctl[n]?.getD 0
  else if off = 0x40 then s.dstat core
  else if off = 0x50 then d.stopSrc
  else if off = 0x58 then d.stopAddr
  else if off = 0x60 then d.stopCnt
  else if 0x80 ≤ off ∧ off < 0xC0 then ((d.skid[(off - 0x80) / 8]?).getD 0).setWidth 64
  else if off = 0x100 then zx (s.core core).trnext
  else if 0x1000 ≤ off ∧ off < 0x2000 then
    (SMap.getD (s.core core).trace ((off - 0x1000) / 16) 0).extractLsb' (64 * ((off - 0x1000) / 8 % 2)) 64
  else if 0x2000 ≤ off ∧ off < 0xA000 then
    let t : Tid := ⟨core, BitVec.ofNat 3 ((off - 0x2000) / 0x1000)⟩
    if (s.slot t).st == .stopped then s.slotWord t (off % 0x1000 / 8) else 0
  else 0

/-! ### Dumps (R374, R375) -/

/-- A section: header and contents. -/
def dumpSection (ty core index : Nat) (bs : List Byte) : List Byte :=
  natBytes 8 (ty + core * 2 ^ 16 + index * 2 ^ 28 + bs.length * 2 ^ 32) ++ List.replicate 8 0 ++ bs

def wordsBytes (ws : List Word) : List Byte := ws.flatMap (fun w => natBytes 8 w.toNat)

/-- A pattern record (R295). -/
def Pattern.words (p : Pattern) : List Word :=
  let e (d : Nat) : Nat := p.ext[d]?.getD 0
  [p.base, BitVec.ofNat 64 (p.esize + 256 * p.ext.length)] ++ (List.range 4).map (fun k => BitVec.ofNat 64 (e (2 * k) + 2 ^ 32 * e (2 * k + 1))) ++
    (List.range 8).map (fun k => p.str[k]?.getD 0) ++ [0, 0]

/-- The dump's record of a blank: TQRY's, the creating PC, descriptors, scalar words, numeric controls, the pending bitmap. -/
def Blank.words (b : Blank) : List Word :=
  let dw (d : BitVec 256) : List Word := (List.range 4).map (fun k => d.extractLsb' (64 * k) 64)
  let sc : Word × Word := match b.op with
    | .map _ a c => (zx a, zx c)
    | _ => (0, 0)
  let sat : Word := match b.op with
    | .cvt v => b2w v
    | _ => 0
  let q := BitVec.ofNat 64 (2 ^ 32 * b.pend.length + 2 ^ 16 * b.total + 256 * b.op.code + b.code)
  let n := (b.total + 63) / 64
  [q, b.pc] ++ dw b.dst ++ dw b.src1 ++ dw b.src2 ++ [sc.1, sc.2] ++
    [zx b.rm ||| (sat <<< 3) ||| (zx b.nbv <<< 4) ||| (zx b.scla <<< 8) ||| (zx b.sclb <<< 16)] ++
    (List.range n).map (fun k => BitVec.ofNat 64 ((b.pend.filter (fun j => j / 64 == k)).map (fun j => 2 ^ (j % 64))).sum)

/-- A region's data, then a byte for each word's tag, bit 7 for poison. -/
def State.regionBytes (s : State) (core region : Nat) : List Byte :=
  let lo := lsHome core (4096 * region)
  (List.range 4096).map (fun k => Memory.byte s.mem (lo + k)) ++
    (List.range 512).map (fun k => (s.tag (lo + 8 * k)).setWidth 8 ||| (if s.poison.contains (lo + 8 * k) then 0x80 else 0))

/-- Deque records, port claims and queues, arrival bits of a slot. -/
def Slot.taskWords (x : Slot) : List Word :=
  let tid (t : Option Tid) : Word := match t with
    | some u => 0x8000 ||| BitVec.ofNat 64 (u.core * 8) ||| zx u.slot
    | none => 0
  BitVec.ofNat 64 x.deque.length :: x.deque.flatMap (fun r => [r.1, r.2]) ++
    [tid x.port.sclaim, tid x.port.vclaim, BitVec.ofNat 64 x.port.sq.length] ++ x.port.sq ++ [BitVec.ofNat 64 x.port.vq.length] ++
    x.port.vq.flatMap (fun l => (List.range 8).map (fun k => l.extractLsb' (64 * k) 64)) ++
    [BitVec.ofNat 64 ((List.range 6).map (fun k => if (x.ab[k]?.getD none).isSome then 2 ^ k else 0)).sum]

/-- The sections that are read first (R374): copy commands as they ended, blank tables. -/
def State.dumpTables (s : State) (g : Gang) (cs : List (Nat × CopyCmd)) : List (List Byte) :=
  g.places.flatMap (fun p => (cs.filter (·.1 == p.core)).zipIdx.map (fun q =>
    dumpSection 7 p.core q.2 (wordsBytes (q.1.2.src.words ++ q.1.2.dst.words ++ [BitVec.ofNat 64 (homeOff q.1.2.token), BitVec.ofNat 64 q.1.2.pos])))) ++
  g.places.flatMap (fun p => p.slots.map (fun k => dumpSection 3 p.core k.toNat (wordsBytes ((s.slot ⟨p.core, k⟩).blanks.flatMap Blank.words))))

/-- The sections that are read once the pending blocks in the regions have been evaluated, in the order in which the engine reads (R374). DESIGN CHOICE:
log entry 49. -/
def State.dumpRest (s : State) (g : Gang) : List (List Byte) :=
  let each (f : GangCore → List (List Byte)) : List (List Byte) := g.places.flatMap f
  each (fun p => (List.range p.regions).map (fun r => dumpSection 2 p.core (p.base + r) (s.regionBytes p.core (p.base + r)))) ++
  each (fun p => p.slots.map (fun k => dumpSection 1 p.core k.toNat (wordsBytes ((List.range 512).map (s.slotWord ⟨p.core, k⟩))))) ++
  each (fun p => p.slots.map (fun k => dumpSection 4 p.core k.toNat (wordsBytes (s.slot ⟨p.core, k⟩).taskWords))) ++
  each (fun p =>
    let c := s.core p.core
    [dumpSection 5 p.core 0 ((List.range 256).flatMap (fun k => natBytes 16 (SMap.getD c.trace k 0).toNat) ++ natBytes 8 c.trnext.toNat)]) ++
  each (fun p => [dumpSection 6 p.core 0 ((List.range 32).flatMap (fun k => natBytes 8 (s.debugRead p.core (8 * k)).toNat))])

/-- Sections that fit, in order, and whether one was left out. -/
def fitSections (room : Nat) : List (List Byte) → List Byte × Bool
  | [] => ([], false)
  | b :: bs =>
    if b.length ≤ room then
      let r := fitSections (room - b.length) bs
      (b ++ r.1, r.2)
    else
      let r := fitSections room bs
      (r.1, true)

/-- Bytes that a dump of a context has beside its sections: the header, and for a protected world the envelope. -/
def State.dumpBeyond (s : State) (ctx : BitVec 8) : Nat := if s.world ctx == 0 then 64 else 64 + 24 + 16

/-- A gang's dump as it is written to the dump area, from the engine's count at its start, its sections and whether one is left out: in clear for world 0,
else sealed behind an envelope, of which REASON and length are in clear (R375). -/
def State.dumpBytes (s : State) (g : Gang) (count : Word) (body : List Byte × Bool) : List Byte :=
  match g.fatal with
  | none => []
  | some (i, t, epc) =>
    let env : Word := BitVec.ofNat 64 (reasonOf i.cls + (64 + body.1.length) * 2 ^ 32)
    let hdr := [env ||| (zx i.cls <<< 8), BitVec.ofNat 64 g.linear, BitVec.ofNat 64 (t.core + 4096 * t.slot.toNat), epc,
      (0x3000 : Word) ||| (b2w body.2 <<< 16), count, 0, 0]
    let clear := wordsBytes hdr ++ body.1
    if s.world g.ctx == 0 then clear
    else
      let nonce := s.nonce (ctxKeyNo g.ctx) 4096
      natBytes 8 env.toNat ++ natBytes 16 nonce.toNat ++ Config.gcmSeal (((s.ctxKeys g.ctx).map (·.dump)).getD 0) nonce clear

/-- The record of a dump in its function's dump notification ring, with the function; none where DBASE is 0 (R375, R399). The identity of the engine, which
R28 asks of it, stands in word 1. DESIGN CHOICE: log entry 49. -/
def State.notifyAcc (s : State) (ctx : BitVec 8) (len reason : Nat) (addr count : Word) : Option (Nat × Acc) :=
  (s.fnOf ctx).bind (fun n =>
    let f := s.fn n
    if f.dbase == 0 then none
    else
      some (n, putAcc (f.dbase + BitVec.ofNat 64 (32 * (f.dwrite.toNat % 2 ^ f.dsize.toNat))) 32
        (wordsNat [zx ctx, BitVec.ofNat 64 (len * 2 ^ 32 + 0x30000000 + reason), addr, count])))

/-- DWRITE passes a record. -/
def State.notified (s : State) (n : Nat) : State := s.setFn n { s.fn n with dwrite := (s.fn n).dwrite + 1 }

/-- The record of a failure of a context that is reported (R375, R393): REASON 7. -/
def State.failureAcc (s : State) (ctx : BitVec 8) (n : Nat) : Acc :=
  let f := s.fn n
  putAcc (f.dbase + BitVec.ofNat 64 (32 * (f.dwrite.toNat % 2 ^ f.dsize.toNat))) 32 (wordsNat [zx ctx, 0x30000007, 0, s.dumpCount])

/-- Appends the record; one that cannot be written is left out. -/
def State.notifyDump (s : State) (ctx : BitVec 8) (len reason : Nat) (addr count : Word) : Res Unit :=
  match s.notifyAcc ctx len reason addr count with
  | none => .ok () s
  | some (n, a) =>
    match s.uAccess .dump (s.ringCtx ctx) a with
    | .ok _ s1 => .ok () (s1.notified n)
    | .trap _ s1 => .ok () s1
    | .park w s1 => .park w s1
    | .done s1 => .done s1

/-- The launch of a gang that has met a fatal trap records CODE 6, the lowest failing gang and its reason class (R318). -/
def State.failLaunch (s : State) (g : Gang) (cls : BitVec 5) : State :=
  match s.launch g.launch with
  | none => s
  | some l =>
    if l.code == 7 then s
    else if l.code == 6 && l.gangNo ≤ g.linear then s
    else
      let l1 := { l with code := 6, gangNo := g.linear, reason := reasonOf cls }
      if l.state == .placing then (s.setLaunch { l1 with state := .running }).advance { l1 with state := .running } else s.setLaunch l1

/-- Blocks that the dump's reads of the gang's regions force, whoever owns them, but those that have failed in this dump (R290, R291). After one that
fails the others follow. -/
def State.dumpDemand (s : State) : List GangCore → Res Unit
  | [] => .ok () s
  | p :: ps =>
    let c := s.core p.core
    let failed := (s.dumps.head?.map (·.flt)).getD []
    let bs := (c.forced (4096 * p.base) (4096 * (p.base + p.regions)) false none).filter (fun b => !failed.contains (p.core, b))
    ((s.setCore p.core { c with demands := c.demands.filter (fun d => d.by_ != .dump || !d.failed) }).demand .dump p.core bs).bind fun _ s1 => s1.dumpDemand ps

/-- Whether something that a thread of a gang had issued before its fatal trap is still to be performed, and can be: a relaxed access that no table action
and no fault holds back, a closed stamp (R200, R344). -/
def State.dumpAwaits (s : State) (g : Gang) : Bool :=
  g.tids.any (fun t => s.stampBusy t || (s.slot t).outs.any (fun o => o.items.any (fun i => !i.done && (match i.stall with
    | .table _ | .refused _ _ | .service _ => false
    | _ => true))))

/-- The class of a gang's fatal trap, 0 for a condition without a class. -/
def Gang.cls (g : Gang) : BitVec 5 := (g.fatal.map (·.1.cls)).getD 0

/-- A dump stands in its area and has been notified: the launch fails, and the gang ends. -/
def State.finishDump (s : State) (g : Gang) : State :=
  let s1 := (s.unitEnd .dump).failLaunch g g.cls
  let s2 := g.places.foldl (fun s p =>
    let c := s.core p.core
    let mine := (c.grid.map (fun o => p.slots.contains o.slot)).getD false
    let s' := s.setCore p.core { c with demands := c.demands.filter (fun d => !d.blocks.any (fun b => p.slots.contains b.slot)) }
    if mine then s'.dropGrid p.core else s') s1
  s2.endGang g.id

/-- The dump area of a context: base and length. -/
def State.dumpArea (s : State) (ctx : BitVec 8) : Word × Nat :=
  match SMap.find s.ssc.contexts ctx.toNat with
  | some c => (c.dumpBase, c.dumpLen.toNat)
  | none => (0, 0)

/-- Changes a dump. -/
def State.setDump (s : State) (j : DumpJob) : State := { s with dumps := s.dumps.map (fun d => if d.gang == j.gang then j else d) }

/-- The dump has read the trace rings: they go on, but where another dump is still to read one (R372). -/
def State.thaw (s : State) (g : Gang) : State :=
  let awaited (n : Nat) : Bool := s.dumps.any (fun d => d.gang != g.id && d.body.isNone && ((s.gang d.gang).map (fun x => x.places.any (·.core == n))).getD false)
  g.places.foldl (fun s p => if awaited p.core then s else s.setCore p.core { s.core p.core with frozen := false }) s

/-- Reads what is still to be read: the sections that fit the dump area, and the dump's bytes. -/
def State.readDump (s : State) (g : Gang) (j : DumpJob) : DumpJob × State :=
  let start := j.start.getD (s.dumpCount, s.dumpTables g j.copies)
  let body := fitSections ((s.dumpArea g.ctx).2 - s.dumpBeyond g.ctx) (start.2 ++ s.dumpRest g)
  let j1 := { j with start := some start, body := some body, bytes := s.dumpBytes g start.1 body }
  (j1, ((s.counted (ctxKeyNo g.ctx) 4096).setDump j1).thaw g)

/-- The write of chunk k of a dump: a line, or a byte where the area is not aligned to lines. -/
def State.dumpAcc (s : State) (g : Gang) (j : DumpJob) (k : Nat) : Option Acc :=
  let base := (s.dumpArea g.ctx).1
  let n := if base.toNat % 64 = 0 then 64 else 1
  let bs := (j.bytes.drop (n * k)).take n
  if bs.isEmpty then none
  else some { va := base + BitVec.ofNat 64 (n * k), size := n, be := BitVec.ofNat 64 (2 ^ bs.length - 1), op := .write (BitVec.ofNat 512 (bytesNat bs)) }

/-- The notification, then the end of the gang and the next dump. -/
def State.dumpNotify (s : State) (g : Gang) (j : DumpJob) (count : Word) : State :=
  match s.notifyDump g.ctx j.bytes.length (reasonOf g.cls) (s.dumpArea g.ctx).1 count with
  | .ok _ s1 | .trap _ s1 | .done s1 =>
    let s2 := s1.finishDump g
    if s2.dumps.isEmpty then s2 else s2.post .dumpGang
  | .park _ s1 => s1

/-- All of a dump is written: the notification, and the end of the gang. Where the host has refused a page of the area (R352), the dump is first written
again with TRUNC set. DESIGN CHOICE: log entry 49. -/
def State.dumpEnd (s : State) (g : Gang) (j : DumpJob) : State :=
  let count := (j.start.map (·.1)).getD 0
  match j.body with
  | some (b, false) =>
    if j.gaps.isEmpty then s.dumpNotify g j count
    else ((s.counted (ctxKeyNo g.ctx) 4096).setDump { j with body := some (b, true), bytes := s.dumpBytes g count (b, true), pos := 0 }).post .dumpGang
  | _ => s.dumpNotify g j count

/-- Writes a dump, chunk by chunk, from the one reached: fuel bounds them. What a refused page of the area would hold is left out (R352). -/
def State.dumpWrite (s : State) (g : Gang) (j : DumpJob) : (fuel : Nat) → State
  | 0 => s
  | k + 1 =>
    match s.dumpAcc g j j.pos with
    | none => s.dumpEnd g j
    | some a =>
      let page := a.va.toNat / 0x10000
      let j1 := { j with pos := j.pos + 1 }
      if j.gaps.contains page then (s.setDump j1).dumpWrite g j1 k
      else
        match s.uAccess .dump g.ctx a with
        | .park _ s1 => s1
        | .ok _ s1 => ((s1.unitEnd .dump).setDump j1).dumpWrite g j1 k
        | .trap _ s1 | .done s1 =>
          let j2 := { j1 with gaps := page :: j1.gaps }
          ((s1.unitEnd .dump).setDump j2).dumpWrite g j2 k

/-- DUMP: the dump engine makes the dump of the oldest gang that met a fatal trap, once its commands have ended, its grid operation is over and what it had
issued is performed; the gang then ends (R344, R374, R375). -/
def execDumpGang (s : State) : Out3 :=
  match s.dumps with
  | [] => .next s
  | j :: ds =>
    match s.gang j.gang with
    | none => .next { s with dumps := ds }
    | some g =>
      if j.body.isSome then .next (s.dumpWrite g j (j.bytes.length + 1))
      else if g.places.any s.gridBusy || s.dumpAwaits g || g.places.any (fun p => (s.core p.core).copies.any (fun k => k.gang == g.id)) then
        .next (s.timer 8192 (s.dispCount.toNat + 1) .dumpGang)
      else
        let j1 := { j with start := some (j.start.getD (s.dumpCount, s.dumpTables g j.copies)) }
        match (s.setDump j1).dumpDemand g.places with
        | .park _ s1 | .trap _ s1 | .done s1 => .next s1
        | .ok _ s1 =>
          let r := s1.readDump g j1
          .next (r.2.dumpWrite g r.1 (r.1.bytes.length + 1))

end Sys2Proof.Machine
end

