-- ==== Sys2Proof/Machine/Hostif.lean ====
section
/-!
DEFINITION. The package's fabric space: function windows, identification registers, pod group table, queue records, debug blocks (30 R398 to
R402, R404, R409); recording, the command register and replay (26 R376 to R378; 30 R401).
-/

namespace Sys2Proof.Machine

/-! ### Identification registers (R409) -/

/-- HBM stacks of a grade. -/
def Grade.stacks : Grade → Nat
  | .zx3072 => 12
  | _ => 16

def Grade.code : Grade → Nat
  | .zx4096 => 0
  | .zx3840 => 1
  | .zx3072 => 2

/-- The map word w of die d: bit b set where core 64w + b of the die is enabled. -/
def State.coreMap (s : State) (d w : Nat) : Word :=
  BitVec.ofNat 64 (((List.range 64).map (fun b => if s.coreExists (512 * d + 64 * w + b) then 2 ^ b else 0)).sum)

/-- A word of the identification registers; an offset with none reads zero. -/
def State.idReg (s : State) (off : Nat) : Word :=
  let latch (d : Nat) : Word := zx (s.ssc.latches[d]?.getD 0)
  let four (d : Nat) : Word := latch d ||| (latch (d + 1) <<< 16) ||| (latch (d + 2) <<< 32) ||| (latch (d + 3) <<< 48)
  if off = 0 then s.ssc.deviceId
  else if off = 0x08 then
    BitVec.ofNat 64 (Config.stepping.toNat * 2 ^ 32 + s.plat.grade.dies * 2 ^ 24 + s.plat.grade.stacks * 2 ^ 16 + s.plat.grade.code * 256 + s.ssc.life.toNat)
  else if off = 0x10 then zx s.plat.fail <<< 8 ||| zx s.plat.boot
  else if off = 0x18 then zx s.plat.self <<< 24 ||| zx s.plat.linksUp
  else if off = 0x20 then zx s.plat.cxl
  else if off = 0x40 then four 0
  else if off = 0x48 then four 4
  else if 0x100 ≤ off ∧ off < 0x300 then s.coreMap ((off - 0x100) / 64) ((off - 0x100) / 8 % 8)
  else if 0x400 ≤ off ∧ off < 0x4C0 then SMap.getD s.plat.ecc off 0
  else 0

/-- What the management interface reads (R409): a temperature, voltage or power as last sampled, a link's counter, the count of messages that the fabric
has dropped, a word of the identification registers. -/
inductive Reading where
  | sensor (k : Nat)
  | link (k : Nat)
  | drops
  | register (off : Nat)
deriving DecidableEq, Repr

/-- A read through the management interface (R409). DESIGN CHOICE: log entry 86. -/
def State.management (s : State) : Reading → Word
  | .sensor k => SMap.getD s.plat.sensors k 0
  | .link k => BitVec.ofNat 64 (SMap.getD s.plat.linkCount k 0)
  | .drops => BitVec.ofNat 64 s.plat.drops
  | .register off => s.idReg off

/-! ### Reads of a window (R398 to R402) -/

/-- The function record (R399). -/
def HostFn.record (f : HostFn) (k : Nat) : Word :=
  match k with
  | 0 => (zx f.state <<< 12) ||| (b2w f.dbg <<< 11) ||| (b2w f.pod <<< 10) ||| zx f.host
  | 1 => f.fctl
  | 2 => f.dbase
  | 3 => zx f.dsize
  | 4 => zx f.dwrite
  | 5 => f.rctl
  | _ => 0

/-- The command register (R401). -/
def HostFn.command (f : HostFn) : Word := (b2w f.busy <<< 63) ||| (b2w f.err <<< 62) ||| (zx f.ctx <<< 8) ||| zx f.cmd

/-- Word at an offset of the SSC mailbox (R402). -/
def HostFn.mailWord (f : HostFn) (off : Nat) : Word :=
  if off = 0 then f.mcmd &&& 0x80000000000001FF
  else if off = 8 then zx f.mstat
  else if off < 0x40 then 0
  else Memory.word f.mail off

/-- An aligned word of the window of function n. -/
def State.windowRead (s : State) (n off : Nat) : Word :=
  let f := s.fn n
  if off < 0x80 then f.record (off / 8)
  else if off = 0x100 then f.command
  else if off = 0x108 then f.base
  else if off = 0x110 then f.len
  else if 0x1000 ≤ off ∧ off < 0x2000 then f.mailWord (off - 0x1000)
  else if 0x2000 ≤ off ∧ off < 0x3000 then s.idReg (off - 0x2000)
  else if 0x40000 ≤ off ∧ off < 0x60000 then
    if f.pod then ((SMap.getD s.podTable ((off - 0x40000) / 32) (Vector.replicate 4 0))[off / 8 % 4]?).getD 0 else 0
  else if 0x80000 ≤ off then
    let q := s.queue ((off - 0x80000) / 64)
    if q.owner == some n then q.w[off / 8 % 8]?.getD 0 else 0
  else 0

/-! ### Recording (R376) -/

/-- The lowest-numbered context of a function. -/
def State.firstCtx (s : State) (fn : Nat) : Option (BitVec 8) := (s.ssc.contexts.find? (fun p => p.2.owner == fn)).map (fun p => BitVec.ofNat 8 p.1)

/-- A recording or a replay begins, with a first part. -/
def State.newReplay (s : State) (r : Replay) : State := { s with replays := s.replays ++ [r] }.logWork r.fn (logFuel r)

/-- Recording ends with STATUS 0; the parts that were still to be done are not (R376). -/
def State.stopRecording (s : State) (n : Nat) : State :=
  match s.replayOf n with
  | some r => ((s.unitEnd (.recorder n)).unitEnd (.digest n)).setReplay { r with work := [.stop 0], ending := true }
  | none => s

/-- RCTL_STORE: a non-zero store arms recording with a record that it checks, a zero store disarms it (R376, R399). A record that takes the place of another
is used at once; the STATUS of the other is written first where that waits for nothing. DEDUCED: log entry 50. -/
def execRctlStore (fn : BitVec 6) (v : BitVec 64) (s : State) : Out3 :=
  let n := fn.toNat
  let s1 := s.setFn n { s.fn n with rctl := v }
  if ((s.replayOf n).map (·.replaying)).getD false then .next s1
  else
    let s2 := (s1.stopRecording n).logWork n 2
    if v == 0 then .next s2
    else
      match s2.firstCtx n with
      | none => .next s2
      | some c =>
        .next ((s2.disarm n).newReplay
          { fn := n, ctx := c, addr := v, snapped := false, packets := 0, replaying := false, work := [.arm], ending := false, left := [], wait := none })

/-! ### The command register (R401) -/

/-- A store to the command register: ignored with ERR while BUSY, for an unknown command, for a context that the function does not own, and for a
replay that may not start. DEDUCED: log entry 52. -/
def State.commandStore (s : State) (n : Nat) (v : Word) : State :=
  let f := s.fn n
  let ctx : BitVec 8 := v.extractLsb' 8 8
  let cmd : BitVec 4 := v.extractLsb' 0 4
  let k := cmd.toNat
  let owned := s.fnOf ctx == some n
  let bad := f.busy || k == 0 || decide (4 < k) || ((k == 1 || k == 2) && !owned) || (k == 3 && !owned) ||
    (k == 4 && (f.rctl == 0 || (s.replayOf n).isSome))
  if bad then s.setFn n { f with err := true }
  else
    let fn : BitVec 6 := BitVec.ofNat 6 n
    let s1 := s.setFn n { f with busy := true, err := false, ctx := ctx, cmd := cmd }
    s1.post (match k with
      | 1 => .invalidateTranslations fn
      | 2 => .invalidateRange fn
      | 3 => .functionLevelReset fn
      | _ => .replay fn)

/-- Whether a command of a function is in progress. -/
def State.running (s : State) (fn : BitVec 6) (k : Nat) : Bool := (s.fn fn.toNat).busy && (s.fn fn.toNat).cmd.toNat == k

/-- A command of a function is complete. -/
def State.commandDone (s : State) (n : Nat) : State := s.setFn n { s.fn n with busy := false }

/-- The walks of a context that overlap a range start again from level 0 (R358): a walk reads its tables when it ends, so that nothing of it is
older. -/
def execInvalidateTranslations (fn : BitVec 6) (s : State) : Out3 :=
  if !s.running fn 1 then .next s
  else .next ((s.invalidate (fun _ => true) true (s.fn fn.toNat).ctx none).commandDone fn.toNat)

/-- INVALIDATE_RANGE: [base, base + length) of the words beside the command register (R401). -/
def execInvalidateRange (fn : BitVec 6) (s : State) : Out3 :=
  let f := s.fn fn.toNat
  if !s.running fn 2 then .next s
  else
    let s1 := if f.len == 0 then s else s.invalidate (fun _ => true) true f.ctx (some (f.base.toNat, f.len.toNat))
    .next (s1.commandDone fn.toNat)

/-! ### Replay (R378) -/

/-- The next logged packet is dispatched through its queue, or the replay ends with STATUS 4. -/
def State.replayNext (s : State) (r : Replay) : State :=
  match r.left with
  | [] => (s.setReplay { r with work := [.stop 4], ending := true }).logWork r.fn 2
  | p :: _ =>
    let q := s.queue p.queue
    let l : Launch := { id := s.seq, queue := p.queue, index := 0, ctx := q.ctx, aff := q.w[1].extractLsb' 32 8, packet := p.packet,
                        desc := Vector.replicate 8 0, prio := q.prio.toNat, state := .check, since := 0, nextGang := 0, total := 0, noticed := false,
                        code := 0, gangNo := 0, reason := 0, written := false, recorded := some p.idx, nbv := some p.nbv, advanced := true }
    let s1 := { s with seq := s.seq + 1, launches := s.launches ++ [l] }.setReplay { r with wait := some l.id }
    s1.check l

/-- REPLAY: its first part restores the snapshot and reads the log; each packet follows the DONE of the one before (R378). -/
def execReplay (fn : BitVec 6) (s : State) : Out3 :=
  let n := fn.toNat
  if !s.running fn 4 then .next s
  else
    match s.replayOf n with
    | some r => .next (if !r.replaying || r.ending || !r.work.isEmpty || (r.wait.bind s.launch).isSome then s else s.replayNext r)
    | none =>
      match s.firstCtx n with
      | none => .next (s.commandDone n)
      | some c =>
        .next (s.newReplay { fn := n, ctx := c, addr := (s.fn n).rctl, snapped := false, packets := 0, replaying := true, work := [.restore], ending := false,
                             left := [], wait := none })

/-! ### Writes of a window (R398 to R404) -/

/-- The event of an operation of the SSC mailbox (R403). -/
def mailEvent (op : Nat) (fn : BitVec 6) : Option Event :=
  match op with
  | 1 => some (.assign fn)
  | 2 => some (.release fn)
  | 3 => some (.create fn)
  | 4 => some (.destroy fn)
  | 5 => some (.queueOp fn)
  | 6 => some (.region fn)
  | 7 => some (.report fn)
  | 8 => some (.extend fn)
  | 9 => some (.sessionOperation fn)
  | 10 => some (.rootOp fn)
  | 11 => some (.writeOperation fn)
  | 12 => some (.sleepOperation fn)
  | _ => none

/-- A store to MCMD: with GO it asks for an operation, which the SSC takes up in its turn (R402). -/
def State.mailStore (s : State) (n : Nat) (v : Word) : State :=
  let f := s.fn n
  if f.mcmd.getLsbD 63 then s else s.setFn n { f with mcmd := if v.getLsbD 63 then v else v &&& 0x1FF }

/-- A store of a word to a queue record of a function's own (R309, R310): WORLD, CTX, AFF, READ and word 4 keep their values. -/
def State.queueStore (s : State) (q k : Nat) (v : Word) : State :=
  let x := s.queue q
  match k with
  | 0 => s.setQueue q { x with w := x.w.set 0 v }
  | 1 =>
    let w := (v &&& 0xFFFFFF000000FFFF) ||| (x.w[1] &&& 0x000000FFFFFF0000)
    let y := { x with w := x.w.set 1 w }
    let s1 := if y.en then s else s.unitEnd (.queue q)
    s1.setQueue q ((if y.en then y else { y with head := .queued }).setLevel (v.extractLsb' 8 3).toNat 0)
  | 2 => { s with todo := s.todo ++ [.queueWriteStore (BitVec.ofNat 13 q) (v.extractLsb' 0 32)] }
  | 5 => { s.setQueue q { x with w := x.w.set 5 v } with todo := s.todo ++ [.preemptRequest (BitVec.ofNat 13 q)] }
  | 6 => s.setQueue q { x with w := x.w.set 6 v }
  | 7 => s.setQueue q { x with w := x.w.set 7 v }
  | _ => s

/-- An aligned store of a word to the window of function n: a register without a behaviour of its own takes the writable fields; a store that has
one becomes the event that it is. -/
def State.windowWrite (s : State) (n off : Nat) (v : Word) : State :=
  let f := s.fn n
  if off = 0x08 then s.setFn n { f with fctl := v, fwait := false }
  else if off = 0x10 then s.setFn n { f with dbase := v }
  else if off = 0x18 then s.setFn n { f with dsize := v.extractLsb' 0 5 }
  else if off = 0x28 then { s with todo := s.todo ++ [.rctlStore (BitVec.ofNat 6 n) v] }
  else if off = 0x100 then s.commandStore n v
  else if off = 0x108 then s.setFn n { f with base := v }
  else if off = 0x110 then s.setFn n { f with len := v }
  else if off = 0x1000 then s.mailStore n v
  else if 0x1040 ≤ off ∧ off < 0x1800 then s.setFn n { f with mail := Memory.setWord f.mail (off - 0x1000) v }
  else if 0x40000 ≤ off ∧ off < 0x60000 then
    if f.pod then
      let e := (off - 0x40000) / 32
      { s with podTable := SMap.put s.podTable e ((SMap.getD s.podTable e (Vector.replicate 4 0)).setIfInBounds (off / 8 % 4) v) }
    else s
  else if 0x80000 ≤ off then
    let q := (off - 0x80000) / 64
    if (s.queue q).owner == some n then s.queueStore q (off / 8 % 8) v else s
  else s

/-! ### Debug blocks in fabric space (R360, R368) -/

/-- A store to DCMD: a command that is malformed or unknown is ignored and sets ERR. DEDUCED: log entry 58. -/
def State.dcmd (s : State) (core : Nat) (v : Word) : State :=
  let k := (v.extractLsb' 0 4).toNat
  let slot : BitVec 3 := v.extractLsb' 4 3
  let e? : Option Event :=
    if v.extractLsb' 7 57 != 0 then none
    else if k == 3 then some (.stepCmd core slot)
    else if slot != 0 then none
    else if k == 1 then some (.stopCmd core)
    else if k == 2 then some (.resumeCmd core)
    else none
  match e? with
  | some e => { s with todo := s.todo ++ [e] }
  | none => s.dbgErr core true

/-- A store to an offset of a core's debug block that a route reaches. -/
def State.debugWrite (s : State) (core off : Nat) (v : Word) : State :=
  if !s.reachable core || off % 8 ≠ 0 then s
  else if off < 0x40 then
    if off % 16 = 0 then s.setDbg core { s.dbg core with wpaddr := (s.dbg core).wpaddr.setIfInBounds (off / 16) v }
    else { s with todo := s.todo ++ [.wpctlWrite core (BitVec.ofNat 2 (off / 16)) v] }
  else if off = 0x48 then s.dcmd core v
  else if 0x2000 ≤ off ∧ off < 0xA000 then
    { s with todo := s.todo ++ [.slotWindowWrite core (BitVec.ofNat 3 ((off - 0x2000) / 0x1000)) (BitVec.ofNat 12 off) v] }
  else s

/-! ### Fabric space (R398) -/

/-- What an offset of the fabric space is. -/
inductive Fab where
  | window (fn off : Nat)
  | debug (core off : Nat)
  | hbm (pa : Nat)
  | none
deriving DecidableEq, Repr

def fabOf (a : Nat) : Fab :=
  if a < 64 * 0x100000 then .window (a / 0x100000) (a % 0x100000)
  else if 0x100000000 ≤ a ∧ a < 0x100000000 + 4096 * 0x10000 then .debug ((a - 0x100000000) / 0x10000) (a % 0x10000)
  else if 0x100000000000 ≤ a then .hbm (a - 0x100000000000)
  else .none

/-- A store of a word to a register at an offset of the fabric space. -/
def State.registerStore (s : State) (a : Nat) (v : Word) : State :=
  if a % 8 ≠ 0 then s
  else
    match fabOf a with
    | .window f off => s.windowWrite f off v
    | .debug n off => if s.coreExists n then s.debugWrite n off v else s
    | _ => s

/-- REGISTER_WRITE: R360, R398 to R402; with the links down, or before boot step 6, nothing is reached (R407, R408). -/
def execRegisterWrite (a : Nat) (v : BitVec 64) (s : State) : Out3 :=
  if s.plat.power == .run && s.plat.boot == 6 then .next (s.registerStore a v) else .next s

end Sys2Proof.Machine
end

