-- ==== Sys2Proof/Machine/Secure.lean ====
section
/-!
DEFINITION. The secure service core: measurement, dies and granules changing worlds, the failure of a context (28 R379 to R393).
-/

namespace Sys2Proof.Machine

def State.setSsc (s : State) (x : Ssc) : State := { s with ssc := x }

/-! ### Measurement (R390) -/

/-- One extension: SHAKE256 of the register and the record, 512 bits. -/
def extended (m : Line) (e : List Byte) : Line := BitVec.ofNat 512 (Config.shake256 (natBytes 64 m.toNat ++ e) 64)

/-- Extends a measurement register by an event record. -/
def State.extend (s : State) (i : Nat) (e : List Byte) : State :=
  s.setSsc { s.ssc with meas := s.ssc.meas.setIfInBounds i (extended (s.ssc.meas[i]?.getD 0) e) }

/-- The record of a die assignment (1) or teardown (0): die, world, event. DEDUCED: log entry 55. -/
def dieRecord (die : Nat) (w : BitVec 8) (ev : Nat) : List Byte := [BitVec.ofNat 8 die, w, BitVec.ofNat 8 ev]

/-- The record of a lifecycle event. -/
def lifeRecord (life : Nat) : List Byte := [BitVec.ofNat 8 life]

/-! ### Dies (R381) -/

/-- Whether a die holds a gang, a blank, a copy command, a remote-wait entry or a stop. -/
def State.dieBusy (s : State) (d : Nat) : Bool :=
  s.gangs.any (fun g => g.places.any (fun p => dieOf p.core == d)) ||
  s.cores.any (fun p => dieOf p.1 == d && (!p.2.copies.isEmpty || p.2.slots.toList.any (fun x => !x.blanks.isEmpty))) ||
  s.waiters.any (fun w => w.remote && homeIsLs w.home && dieOf (homeCore w.home) == d) ||
  s.stops.any (fun m => dieOf m.core == d)

/-- Every local-store byte, tag and mark of the cores that p names is zeroed. -/
def State.zeroCores (s : State) (p : Nat → Bool) : State :=
  let keep (h : Nat) : Bool := !(homeIsLs h && p (homeCore h))
  { s with
    mem := s.mem.filter (fun x => keep x.1), tags := s.tags.filter (fun x => keep x.1)
    poison := s.poison.filter keep, badTags := s.badTags.filter keep }

/-- Steps 2 and 3 of R381: local stores and tags zeroed, tables the identity, region maps 0, caches invalidated, key slots empty. -/
def State.wipeDie (s : State) (d : Nat) : State :=
  let s1 := s.zeroCores (fun n => dieOf n == d)
  { s1 with
    cores := s1.cores.map (fun p =>
      if dieOf p.1 == d then
        (p.1, { p.2 with tables := idTables, shadows := idTables, rmap0 := 0, rmap1 := 0, icache := [], staging := [], keys := [] })
      else p)
    tcaches := s1.tcaches.filter (fun p => p.1 / 128 != d) }

/-- Writes a die's latch. -/
def State.setLatch (s : State) (d : Nat) (v : BitVec 16) : State := s.setSsc { s.ssc with latches := s.ssc.latches.setIfInBounds d v }

/-- Assigns a die that holds nothing to a world. -/
def State.assignDie (s : State) (d : Nat) (w : BitVec 8) : State :=
  ((s.wipeDie d).setLatch d ((1 : BitVec 8) ++ w)).extend 3 (dieRecord d w 1)

/-- Tears a die down. -/
def State.tearDown (s : State) (d : Nat) : State :=
  let l := s.ssc.latches[d]?.getD 0
  ((s.wipeDie d).setLatch d (l &&& 0x00FF)).extend 3 (dieRecord d (l.extractLsb' 0 8) 0)

/-! ### Granules (R382) -/

/-- Bytes of a granule. -/
def granuleSize : Nat := 0x200000

/-- Overwrites granules [a, a + n) with zeros. -/
def State.scrub (s : State) (a n : Nat) : State :=
  let lo := physHome 0 (a * granuleSize)
  let hi := lo + n * granuleSize
  let out (h : Nat) : Bool := h < lo || hi ≤ h
  { s with
    mem := Memory.zero s.mem lo (n * granuleSize)
    poison := s.poison.filter out, badLines := s.badLines.filter out, lineKeys := s.lineKeys.filter (fun p => out p.1) }

/-- Writes the entries of granules [a, a + n). -/
def State.setGranules (s : State) (a n : Nat) (v : BitVec 16) : State :=
  s.setSsc { s.ssc with regions := (List.range n).foldl (fun m k => SMap.setD m (a + k) 0 v) s.ssc.regions }

/-- Granules whose entry names a protected world. -/
def State.protectedGranules (s : State) : List Nat :=
  (s.ssc.regions.filter (fun p => p.2.extractLsb' 0 8 != 0 && p.2.extractLsb' 0 8 != 255)).map (·.1)

/-- The entries of a table of 8,192 that are not zero (four at level 0). -/
def tableEntries (m : List Host.Cell) (table n : Nat) : List Word :=
  let lo := physHome 0 table
  let ks := ((m.filter (fun p => decide (lo ≤ p.1) && decide (p.1 < lo + 8 * n))).map (fun p => (p.1 - lo) / 8)).eraseDups
  ks.map (fun k => Memory.word m (lo + 8 * k))

/-- Valid leaves and the tables named, from a table on: fuel counts the levels left. -/
def treeFrom (m : List Host.Cell) : (fuel level table : Nat) → List (Bool × Word) × List Nat
  | 0, _, _ => ([], [])
  | fuel + 1, level, table =>
    let es := (tableEntries m table (if level == 0 then 4 else 8192)).filter (fun e => e.getLsbD 0 && !pteBad level e)
    let subs := es.filter (fun e => !e.getLsbD 1)
    let rs := subs.map (fun e => treeFrom m fuel (level + 1) (pteAddr e))
    ((es.filter (fun e => e.getLsbD 1)).map (fun e => (level == 2, e)) ++ rs.flatMap (·.1), table :: rs.flatMap (·.2))

/-- Whether a context's tables map a byte of granules [a, a + n) of HBM. -/
def State.mapsGranules (s : State) (root : Word) (a n : Nat) : Bool :=
  (treeFrom s.mem 4 0 root.toNat).1.any (fun l =>
    let size := if l.1 then 0x20000000 else 0x10000
    pteKind l.2 == 0 && decide (pteAddr l.2 < (a + n) * granuleSize) && decide (a * granuleSize < pteAddr l.2 + size))

/-- Whether bytes [pa, pa + n) of HBM lie in granules of a world. -/
def State.inWorld (s : State) (pa n : Nat) (w : BitVec 8) : Bool :=
  decide (pa + n ≤ s.plat.grade.hbm) &&
  (List.range ((pa + n - 1) / granuleSize + 1 - pa / granuleSize)).all (fun k =>
    let e := s.granule ((pa / granuleSize + k) * granuleSize)
    e.extractLsb' 0 8 == w && e.getLsbD 8 == (w != 0))

/-! ### The failure of a context (R393) -/

/-- The context for which a unit outside the slots acts. -/
def State.unitCtx (s : State) : Agent → Option (BitVec 8)
  | .copy n | .grid n | .blocker n => (s.core n).ctx
  | .queue n => some (s.queue n).ctx
  | .launch id => (s.launch id).map (·.ctx)
  | .join u => (s.join u).instrs.head?.map (fun i => match i with
      | .epreg _ x _ | .rlver _ x _ _ _ | .rjqry _ x _ _ => x)
  | .entry u k => (SMap.find (s.join u).entries k).map (·.ctx)
  | .group u b => (SMap.find (s.join u).groups b).map (·.ctx)
  | .faultUnit fn => (s.faults.find? (fun r => r.fn == fn && r.index.isNone)).map (·.ctx)
  | .recorder fn | .digest fn => (s.replayOf fn).map (·.ctx)
  | _ => none

/-- What units have under way for contexts is forgotten. -/
def State.dropUnits (s : State) (p : BitVec 8 → Bool) : State :=
  let gone (a : Agent) : Bool := ((s.unitCtx a).map p).getD false
  { s.dropRequests gone with waiters := s.waiters.filter (fun w => !gone w.agent) }

/-- Step 1: queues EN = 0. -/
def State.refuseWork (s : State) (cs : List (BitVec 8)) : State :=
  { s with queues := s.queues.map (fun p => if cs.contains p.2.ctx then (p.1, { p.2 with w := p.2.w.set 1 (p.2.w[1] &&& ~~~0x800), head := .queued }) else p) }

/-- A join unit without what belongs to failing contexts. -/
def JoinUnit.without (j : JoinUnit) (p : BitVec 8 → Bool) : JoinUnit :=
  let mine (i : UnitInstr) : Bool := match i with
    | .epreg _ x _ | .rlver _ x _ _ _ | .rjqry _ x _ _ => p x
  { j with
    entries := j.entries.filter (fun e => !p e.2.ctx), groups := j.groups.filter (fun g => !p g.2.ctx)
    inq := j.inq.filter (fun m => !p m.ctx)
    instrs := j.instrs.filter (fun i => !mine i)
    stalled := j.stalled && !(j.instrs.head?.map mine).getD false }

/-- Whether no context but those that fail is of a world. -/
def State.lastOf (s : State) (cs : List (BitVec 8)) (w : BitVec 8) : Bool :=
  !s.ssc.contexts.any (fun p => !cs.contains (BitVec.ofNat 8 p.1) && p.2.world == w)

/-- Step 4: the roots are revoked; granules of a protected world without another context become the SSC's. -/
def State.revoke (s : State) (cs : List (BitVec 8)) : State :=
  let gone (w : BitVec 8) : Bool := w != 0 && cs.any (fun c => s.world c == w) && s.lastOf cs w
  let s1 := cs.foldl (fun s c => s.invalidate (fun _ => true) true c none) s
  s1.setSsc { s1.ssc with
    contexts := s1.ssc.contexts.filter (fun p => !cs.contains (BitVec.ofNat 8 p.1))
    regions := s1.ssc.regions.map (fun p => if gone (p.2.extractLsb' 0 8) then (p.1, 0x1FF) else p) }

/-- Step 5: a context's keys are erased from network interfaces, memory controllers and key store; a slot becomes EMPTY (R388). -/
def State.eraseKeys (s : State) (c : BitVec 8) : State :=
  { s with
    cores := s.cores.map (fun p => (p.1, { p.2 with
      keys := SMap.erase p.2.keys c.toNat, prev := if p.2.prev == some c then none else p.2.prev, icache := p.2.icache.filter (fun l => l.ctx != c) }))
    ssc := { s.ssc with mcKeys := SMap.erase s.ssc.mcKeys c.toNat, sessions := s.ssc.sessions.filter (fun p => p.2.ctx != c) } }

/-- The dies that the failure of contexts affects: those with a gang of them, and those latched to a protected world of which they are the last contexts. -/
def State.affected (s : State) (cs : List (BitVec 8)) : List Nat :=
  let latched (d : Nat) (w : BitVec 8) : Bool := (s.ssc.latches[d]?.getD 0) == ((1 : BitVec 8) ++ w)
  (List.range 8).filter (fun d =>
    s.gangs.any (fun g => cs.contains g.ctx && g.places.any (fun p => dieOf p.core == d)) ||
    cs.any (fun c => s.world c != 0 && s.lastOf cs (s.world c) && latched d (s.world c)))

/-- The contexts of a function. -/
def State.contextsOf (s : State) (fn : Nat) : List (BitVec 8) := (s.ssc.contexts.filter (fun p => p.2.owner == fn)).map (fun p => BitVec.ofNat 8 p.1)

/-- FUNCTION_LEVEL_RESET: command 3: every context of the function fails, all in one run of the steps; then STATE is 1 and BUSY falls (R393, R401). -/
def execFunctionLevelReset (fn : BitVec 6) (s : State) : Out3 :=
  let n := fn.toNat
  if !s.running fn 3 || (s.fn n).state == 2 then .next s
  else .next ((s.setFn n { s.fn n with state := 2 }).failLater (s.contextsOf n) true (.reset n))

end Sys2Proof.Machine
end

