-- ==== Sys2Proof/Machine/Mailbox.lean ====
section
/-!
DEFINITION. The operations of the SSC mailbox (30 R402, R403; 28 R381 to R384, R390, R391; 30 R400).
-/

namespace Sys2Proof.Machine

/-! ### Requests and responses (R402) -/

/-- Bytes of a mailbox. -/
def HostFn.mailBytes (f : HostFn) (off n : Nat) : List Byte := (List.range n).map (fun k => Memory.byte f.mail (off + k))

/-- A request as the SSC reads it: the operands' bytes, and the session that sealed them. -/
structure Asked where
  body : List Byte
  sess : Option (Nat × Session)
deriving DecidableEq, Repr

/-- Word k of a request. -/
def Asked.word (a : Asked) (k : Nat) : Nat := bytesNat ((a.body.drop (8 * k)).take 8)

/-- The request in a function's mailbox; none where it is sealed and its session is unknown or its tag fails. -/
def State.asked (s : State) (n : Nat) : Option Asked :=
  let f := s.fn n
  if f.mcmd.getLsbD 8 then
    let k := (Memory.word f.mail 0x40).toNat
    match SMap.find s.ssc.sessions k with
    | none => none
    | some x => (Config.gcmOpen x.key (BitVec.ofNat 96 (Memory.readN f.mail 0x48 12)) (f.mailBytes 0x60 (0x800 - 0x60))).map (fun b =>
        { body := b, sess := some (k, x) })
  else some { body := f.mailBytes 0x40 (0x800 - 0x40), sess := none }

/-- Whether an operation that names a world may be done: world 0, or sealed under a session of the world. DEDUCED: log entry 54. -/
def Asked.sealedFor (a : Asked) (w : BitVec 8) : Bool := w == 0 || (a.sess.map (fun p => p.2.world == w)).getD false

/-- Writes bytes of a mailbox, as far as the mailbox goes. -/
def putMail (m : SMap Byte) (off : Nat) : List Byte → SMap Byte
  | [] => m
  | b :: bs => if off < 0x1000 then putMail (Memory.setByte m off b) (off + 1) bs else m

/-- The operation ends: response, MSTAT, GO. A sealed response is a nonce, then ciphertext and tag under the same key; with the key's count used up
nothing is sent under it (R385). -/
def State.answer (s : State) (n : Nat) (a : Option Asked) (status : BitVec 8) (resp : List Byte) : State :=
  let f := s.fn n
  let done (s : State) (out : List Byte) : State :=
    s.setFn n { f with mcmd := f.mcmd &&& 0x1FF, mstat := status, mail := putMail f.mail 0x800 out }
  match a.bind (·.sess) with
  | some (k, x) =>
    let key := sessionKeyNo k
    if resp.isEmpty then done s []
    else if s.spent key 4096 then done (s.exhausted x.ctx) []
    else done (s.counted key 4096) (natBytes 16 (s.nonce key 4096).toNat ++ Config.gcmSeal x.key (s.nonce key 4096) resp)
  | none => done s resp

/-- Whether operation op of a function has been started. -/
def State.asking (s : State) (fn : BitVec 6) (op : Nat) : Bool :=
  let f := s.fn fn.toNat
  f.mcmd.getLsbD 63 && (f.mcmd.extractLsb' 0 8).toNat == op

/-- An operation, for which the SSC is free (R392, R402): its request is opened, and f answers a status or what follows. -/
def State.handle (s : State) (fn : BitVec 6) (op : Nat) (f : Asked → Except (BitVec 8) State) : Out3 :=
  if !s.asking fn op || !s.tears.isEmpty then .next s
  else
    match s.asked fn.toNat with
    | none => .next (s.answer fn.toNat none 6 [])
    | some a =>
      match f a with
      | .error st => .next (s.answer fn.toNat (some a) st [])
      | .ok s1 => .next s1

/-- An operation that ends at once: it answers a status and a response, and only a status of 0 changes the state. -/
def State.operate (s : State) (fn : BitVec 6) (op : Nat) (f : Asked → Except (BitVec 8) (List Byte × State)) : Out3 :=
  s.handle fn op (fun a => (f a).map (fun r => r.2.answer fn.toNat (some a) 0 r.1))

/-- The first check that fails gives the status. DEDUCED: log entry 53. -/
def firstStatus : List (Bool × BitVec 8) → Option (BitVec 8)
  | [] => none
  | (ok, st) :: cs => if ok then firstStatus cs else some st

/-- Checks in order, then an effect. -/
def checked (cs : List (Bool × BitVec 8)) (r : List Byte × State) : Except (BitVec 8) (List Byte × State) :=
  match firstStatus cs with
  | some st => .error st
  | none => .ok r

/-- Whether the lifecycle state allows a world (R389). -/
def State.lifeAllows (s : State) (w : BitVec 8) : Bool := w == 0 || s.ssc.life == 2

/-! ### Dies, granules, queues -/

/-- ASSIGN: R381, R403. -/
def execAssign (fn : BitVec 6) (s : State) : Out3 :=
  s.operate fn 1 (fun a =>
    let d := a.word 0
    let w : BitVec 8 := BitVec.ofNat 8 (a.word 1)
    checked [(decide (d < s.plat.grade.dies) && decide (a.word 1 ≤ 254), 5), (s.lifeAllows w, 4), (a.sealedFor w, 6), (!s.dieBusy d, 2)]
      ([], s.assignDie d w))

/-- RELEASE: R381, R403. -/
def execRelease (fn : BitVec 6) (s : State) : Out3 :=
  s.operate fn 2 (fun a =>
    let d := a.word 0
    let l := s.ssc.latches[d]?.getD 0
    let w : BitVec 8 := l.extractLsb' 0 8
    let free := l.getLsbD 8 && !s.gangs.any (fun g => s.world g.ctx == w && g.places.any (fun p => dieOf p.core == d)) && !s.dieBusy d
    checked [(decide (d < s.plat.grade.dies), 5), (a.sealedFor w, 6), (free, 2)] ([], s.tearDown d))

/-- QUEUE: R309, R403. -/
def execQueueOp (fn : BitVec 6) (s : State) : Out3 :=
  s.operate fn 5 (fun a =>
    let q := a.word 0
    let c := a.word 1
    let x := s.queue q
    let w := s.world (BitVec.ofNat 8 c)
    let v : Word := (x.w[1] &&& 0xFFFFFF000000FFFF) ||| (BitVec.ofNat 64 (a.word 2 % 256) <<< 32) ||| (BitVec.ofNat 64 (c % 256) <<< 24) ||| (zx w <<< 16)
    checked [(decide (q < 8192) && decide (c < 256) && decide (a.word 2 < 256), 5),
      (s.fnOf (BitVec.ofNat 8 c) == some fn.toNat && (x.owner.isNone || x.owner == some fn.toNat), 3), (a.sealedFor w, 6)]
      ([], s.setQueue q { x with w := x.w.set 1 v, owner := some fn.toNat }))

/-- REGION: R382, R403. -/
def execRegion (fn : BitVec 6) (s : State) : Out3 :=
  s.operate fn 6 (fun a =>
    let g := a.word 0
    let n := a.word 1
    let w : BitVec 8 := BitVec.ofNat 8 (a.word 2)
    let entry : BitVec 16 := (0 : BitVec 7) ++ BitVec.ofNat 1 (a.word 3) ++ w
    let mapped := s.ssc.contexts.any (fun p => p.2.world != w && s.mapsGranules p.2.root g n)
    checked [(decide ((g + n) * granuleSize ≤ s.plat.grade.hbm) && decide (a.word 2 ≤ 254) && decide (a.word 3 ≤ 1), 5), (s.lifeAllows w, 4),
      (a.sealedFor w, 6), (!mapped, 2)]
      ([], (s.scrub g n).setGranules g n entry))

/-! ### Contexts -/

/-- The lowest context number that is free. -/
def State.freeCtx (s : State) : Option Nat := (List.range 256).find? (fun k => (SMap.find s.ssc.contexts k).isNone)

/-- A fresh 256-bit key from the entropy source, conditioned with SHAKE256 (R383). -/
def State.freshKey (s : State) : BitVec 256 := BitVec.ofNat 256 (Config.shake256 (natBytes 32 (Config.entropy s.draws).toNat) 32)

/-- A new context: its key, its key slot in every memory controller, its root and areas (R383, R384, R388). A session without a context takes
it. -/
def State.newContext (s : State) (k : Nat) (w : BitVec 8) (owner : Nat) (root db dl sb sl : Word) (sess : Option (Nat × Session)) : State :=
  let c : Context := { world := w, root := root, dumpBase := db, dumpLen := dl, saveBase := sb, saveLen := sl, owner := owner, meas := 0,
                       key := if w == 0 then 0 else s.freshKey }
  let x := s.ssc
  { s.freshCounts (ctxKeyNo (BitVec.ofNat 8 k)) with draws := s.draws + 1 }.setSsc { x with
    contexts := SMap.put x.contexts k c, mcKeys := SMap.put x.mcKeys k (c.slot (BitVec.ofNat 8 k))
    sessions := match sess with
      | some (i, y) => if y.ctx == 0xFF then SMap.put x.sessions i { y with ctx := BitVec.ofNat 8 k } else x.sessions
      | none => x.sessions }

/-- CREATE: R383, R403. -/
def execCreate (fn : BitVec 6) (s : State) : Out3 :=
  s.operate fn 3 (fun a =>
    let w : BitVec 8 := BitVec.ofNat 8 (a.word 0)
    let i := if w == 0 then 2 else 1
    let root := if w == 0 then a.word 1 else 0
    let x (k : Nat) : Word := BitVec.ofNat 64 (a.word (i + k))
    checked [(decide (a.word 0 ≤ 254) && decide (root % 64 = 0) && decide (root + 32 ≤ s.plat.grade.hbm), 5), (s.lifeAllows w, 4), (a.sealedFor w, 6),
      (s.freeCtx.isSome, 2)]
      (natBytes 8 (s.freeCtx.getD 0),
        s.newContext (s.freeCtx.getD 0) w fn.toNat (BitVec.ofNat 64 root) (x 0) (x 1) (x 2) (x 3) a.sess))

/-- DESTROY: R393, R403. It is answered when the steps are over. -/
def execDestroy (fn : BitVec 6) (s : State) : Out3 :=
  s.handle fn 4 (fun a =>
    let c : BitVec 8 := BitVec.ofNat 8 (a.word 0)
    (checked [(decide (a.word 0 < 256), 5), (s.fnOf c == some fn.toNat, 3), (a.sealedFor (s.world c), 6)] ([], s)).map (fun _ =>
      s.failLater [c] true (.destroy fn.toNat)))

/-- ROOT: the root and every table that it names lie in granules of the context's world (R403). -/
def execRootOp (fn : BitVec 6) (s : State) : Out3 :=
  s.operate fn 10 (fun a =>
    let c : BitVec 8 := BitVec.ofNat 8 (a.word 0)
    let w := s.world c
    let root := a.word 1
    let tables := (treeFrom s.mem 4 0 root).2
    let held := s.inWorld root 32 w && (tables.drop 1).all (fun t => s.inWorld t 0x10000 w)
    let s1 := match SMap.find s.ssc.contexts c.toNat with
      | some x => s.setSsc { s.ssc with contexts := SMap.put s.ssc.contexts c.toNat { x with root := BitVec.ofNat 64 root } }
      | none => s
    checked [(decide (a.word 0 < 256) && decide (root % 64 = 0), 5), (s.fnOf c == some fn.toNat, 3), (w != 0, 5), (a.sealedFor w, 6), (held, 5)]
      ([], s1))

/-- Writes bytes at physical addresses of HBM under a context's keys. -/
def State.putPhysical (s : State) (c : BitVec 8) (pa : Nat) : List Byte → State
  | [] => s
  | b :: bs =>
    let h := physHome 0 pa
    (((s.asSeen c h).writeBytes h b.toNat 1 1).setLineKey (lineOfHome h) (s.ctxKeys c)).putPhysical c (pa + 1) bs

/-- Whether the lines of bytes [pa, pa + n) of HBM can be read under a context's keys, as a merge with what they hold needs: no other context's tag
(R386). -/
def State.mergeable (s : State) (c : BitVec 8) (pa n : Nat) : Bool :=
  (List.range ((pa + n + 63) / 64 - pa / 64)).all (fun k => !s.tagFails c (physHome 0 (64 * (pa / 64 + k))))

/-- WRITE: sealed only (R403). Data over a line whose tag fails ends with STATUS 2 (DESIGN CHOICE: log entry 53). -/
def execWriteOperation (fn : BitVec 6) (s : State) : Out3 :=
  s.operate fn 11 (fun a =>
    let c : BitVec 8 := BitVec.ofNat 8 (a.word 0)
    let pa := a.word 1
    let bs := a.body.drop 16
    let w := s.world c
    checked [(a.sess.isSome, 6), (decide (a.word 0 < 256), 5), (s.fnOf c == some fn.toNat, 3), ((a.sess.map (fun p => p.2.world == w)).getD false, 6),
      (decide (bs.length ≤ 768) && (bs.isEmpty || s.inWorld pa bs.length w), 5), (s.mergeable c pa bs.length, 2)]
      ([], s.putPhysical c pa bs))

/-! ### Attestation and sessions -/

/-- Bytes 0 to 655 of a report (R391). -/
def State.reportBody (s : State) (nonce : List Byte) (c : Nat) : List Byte :=
  let x? : Option Context := if c == 0xFF then none else SMap.find s.ssc.contexts c
  natBytes 4 1 ++ natBytes 4 s.ssc.life.toNat ++ natBytes 8 s.ssc.deviceId.toNat ++ nonce ++ s.ssc.latches.toList.flatMap (fun l => natBytes 2 l.toNat) ++
    s.ssc.meas.toList.flatMap (fun m => natBytes 64 m.toNat) ++ natBytes 64 ((x?.map (fun x => x.meas.toNat)).getD 0) ++
    natBytes 2 ((x?.map (fun x => c + 256 * x.world.toNat)).getD 0xFFFF) ++ List.replicate 14 0

/-- A list cut or padded with zeros to n bytes. -/
def fitBytes (n : Nat) (bs : List Byte) : List Byte := (bs ++ List.replicate n 0).take n

/-- The seed of the identity key (R391): KMAC256 of the device secret and "IDK". -/
def State.identitySeed (s : State) : BitVec 256 :=
  BitVec.ofNat 256 (Config.kmac256 (natBytes 32 s.ssc.secret.toNat) [0x49, 0x44, 0x4B] 32 "ZX4096 id")

/-- A signature by the identity key; in RETIRED there is none (R389, R391). -/
def State.signed (s : State) (bs : List Byte) : List Byte :=
  if s.ssc.life == 4 then List.replicate 3309 0 else fitBytes 3309 (Config.sign s.identitySeed bs)

/-- Writes bytes in clear at a home outside local store. -/
def State.putClear (s : State) (home : Nat) (bs : List Byte) : State :=
  let s1 := s.writeBytes home (bytesNat bs) (2 ^ bs.length - 1) bs.length
  { s1 with lineKeys := s1.lineKeys.filter (fun p => p.1 < lineOfHome home || home + bs.length ≤ p.1) }

/-- REPORT: R391, R403. -/
def execReport (fn : BitVec 6) (s : State) : Out3 :=
  s.operate fn 7 (fun a =>
    let c := a.word 4
    let dst := a.word 5
    let body := s.reportBody (a.body.take 32) c
    let bytes := body ++ s.signed body
    let own := c == 0xFF || s.fnOf (BitVec.ofNat 8 c) == some fn.toNat
    let asks := c == 0xFF || (a.sess.map (fun p => p.2.ctx.toNat == c && p.2.world == s.world (BitVec.ofNat 8 c))).getD false
    checked [(decide (c < 256) && decide (dst % 64 = 0) && s.inWorld dst 3965 0, 5), (own, 3), (asks, 6)]
      ([], s.putClear (physHome 0 dst) bytes))

/-- EXTEND: registers 4 to 7 (R390, R403). -/
def execExtend (fn : BitVec 6) (s : State) : Out3 :=
  s.operate fn 8 (fun a =>
    let i := a.word 0
    let s1 := s.extend i ((a.body.drop 8).take 64)
    checked [(decide (4 ≤ i) && decide (i ≤ 7), 5)] (natBytes 64 ((s1.ssc.meas[i]?.getD 0).toNat), s1))

/-- The lowest session number that is free; session 0 is the clear one. -/
def State.freeSession (s : State) : Nat := (s.ssc.sessions.map (·.1)).foldl (fun k n => if n = k then k + 1 else k) 1

/-- A session key (R400). -/
def sessionKey (secret : BitVec 256) (ctx e : BitVec 8) : BitVec 256 :=
  BitVec.ofNat 256 (Config.kmac256 (natBytes 32 secret.toNat) ([0x53, 0x45, 0x53] ++ [ctx, e]) 32 "ZX4096 ses")

/-- Establishes a session of a world with an endpoint: its number, the ciphertext and the state. It takes the lowest-numbered context of the world
that p admits, or none (0xFF). -/
def State.establish (s : State) (w e : BitVec 8) (ek : List Byte) (p : Context → Bool) : Nat × List Byte × State :=
  let r := Config.encaps ek s.draws
  let k := s.freeSession
  let c : BitVec 8 := match s.ssc.contexts.find? (fun x => x.2.world == w && p x.2) with
    | some x => BitVec.ofNat 8 x.1
    | none => 0xFF
  let x : Session := { world := w, ctx := c, endpoint := e, key := sessionKey r.2 c e }
  (k, r.1, { s.freshCounts (sessionKeyNo k) with draws := s.draws + 1 }.setSsc { s.ssc with sessions := SMap.put s.ssc.sessions k x })

/-- SESSION: R400, R403. -/
def execSessionOperation (fn : BitVec 6) (s : State) : Out3 :=
  s.operate fn 9 (fun a =>
    let w : BitVec 8 := BitVec.ofNat 8 (a.word 0)
    let e : BitVec 8 := BitVec.ofNat 8 (a.word 1)
    let r := s.establish w e ((a.body.drop 16).take 1184) (fun x => x.owner == fn.toNat)
    let head := natBytes 8 r.1 ++ fitBytes 1088 r.2.1
    checked [(decide (a.word 0 ≤ 254) && decide (a.word 1 ≤ 191), 5), (s.lifeAllows w, 4)] (head ++ s.signed head, r.2.2))

end Sys2Proof.Machine
end

