-- ==== Sys2Proof/Machine/Power.lean ====
section
/-!
DEFINITION. Boot, deep sleep and wake, power and thermal events, fuses and the debug unlock (30 R407, R408; 28 R389, R392, R394; 30 R395, R405).
-/

namespace Sys2Proof.Machine

/-! ### Boot (R407) -/

/-- The package without power: fuses, and what has left the package, remain. -/
def State.dark (s : State) : State :=
  { State.reset with
    agenda := s.agenda, seq := s.seq, draws := s.draws, sent := s.sent
    ssc := { Ssc.zero with
      life := s.ssc.life, provisioned := s.ssc.provisioned, deviceId := s.ssc.deviceId, secret := s.ssc.secret, tokenKey := s.ssc.tokenKey
      sleepCount := s.ssc.sleepCount }
    plat := { Platform.zero with grade := s.plat.grade, fused := s.plat.fused, boots := s.plat.boots } }

/-- The cold form of boot begins at step 1: everything but the fuses restarts, and DEBUG-UNLOCKED is left for PRODUCTION (R389). No context lives, and no
notification ring is there for a report: DBASE is 0 (R394, R399). -/
def State.coldForm (s : State) : State :=
  let s1 := s.dark
  { s1 with
    ssc := { s1.ssc with life := if s1.ssc.life == 3 then 2 else s1.ssc.life }
    plat := { s1.plat with boots := s1.plat.boots + 1, boot := 1 } }

/-- The host functions as the firmware's configuration enables them (R399). -/
def bootFns : SMap HostFn :=
  (List.range 64).map (fun k =>
    let f : BitVec 6 := BitVec.ofNat 6 k
    (k, { HostFn.zero with
      state := if Config.fnEnabled f then 1 else 0, dbg := Config.fnDbg f, pod := Config.fnPod f, host := Config.fnHost f }))

/-- The boot is at a step. -/
def State.bootTo (s : State) (k : BitVec 8) : State := { s with plat := { s.plat with boot := k } }

/-- A step fails: the cold form stops with STATE 0xF and FAIL, and enables no host function; the wake form gives up the retention and becomes the cold
form. -/
def State.bootFails (s : State) (k : BitVec 8) : State :=
  if s.plat.waking then s.coldForm else { s with plat := { s.plat with boot := 0xF, fail := k } }

/-- Step 4 brings up links and ports; those that do not train are excluded. -/
def State.bringUp (s : State) : State :=
  let n := s.plat.boots
  { s with plat := { s.plat with
      linksUp := Config.linksTrained n, linksFailed := 0, self := Config.endpoint n, cxl := Config.cxlPresent n, cxlDown := 0, boot := 5 } }

/-! ### Deep sleep (R394) -/

/-- Every resident gang is asked to stop, to be saved. -/
def State.saveAll (s : State) : State := (s.gangs.filter Gang.resident).foldl State.stopToSave s

/-- The latches and the region-world table as they are written to HBM: 16 bits each. -/
def savedBytes (latches : Vector (BitVec 16) 8) (regions : SMap (BitVec 16)) (granules : Nat) : List Byte :=
  latches.toList.flatMap (fun l => natBytes 2 l.toNat) ++ (List.range granules).flatMap (fun g => natBytes 2 (SMap.getD regions g 0).toNat)

/-- The 256-bit tag over them under a sleep key. DESIGN CHOICE: log entry 56. -/
def savedTag (key : BitVec 256) (latches : Vector (BitVec 16) 8) (regions : SMap (BitVec 16)) (granules : Nat) : BitVec 256 :=
  BitVec.ofNat 256 (Config.kmac256 (natBytes 32 key.toNat) (savedBytes latches regions granules) 32 "ZX4096 slp")

/-- Granules of the package's HBM. -/
def State.granules (s : State) : Nat := s.plat.grade.hbm / granuleSize

/-- The keys that are wrapped: the context keys of protected contexts, and the session keys. -/
def Ssc.secrets (x : Ssc) : List (Nat × BitVec 256) :=
  (x.contexts.filter (fun p => p.2.world != 0)).map (fun p => (2 * p.1, p.2.key)) ++ x.sessions.map (fun p => (2 * p.1 + 1, p.2.key))

/-- What the SSC keeps for the wake: a fresh sleep key; every key wrapped under it with a nonce from the retained count; latches, table and tag. -/
def State.retention (s : State) : Retained :=
  let x := s.ssc
  let key := s.freshKey
  let wrapped := x.secrets.zipIdx.map (fun p =>
    let nonce : BitVec 96 := BitVec.ofNat 96 (x.sleepCount + p.2)
    (p.1.1, nonce, Config.gcmSeal key nonce (natBytes 32 p.1.2.toNat)))
  { key := key, wrapped := wrapped.foldl (fun m p => SMap.put m p.1 p.2) [], latches := x.latches, regions := x.regions
    tag := savedTag key x.latches x.regions s.granules }

/-- What deep sleep leaves: keys erased, fabric sessions suspended, cores off, HBM in self-refresh (R394, R408). -/
def State.asleep (s : State) : State :=
  let x := s.ssc
  { s.zeroCores (fun _ => true) with
    cores := [], clock := 0, nextCore := 0, tcaches := [], iocaches := [], walks := [], urgent := [], stops := [], resumes := [], requests := [], replies := [], made := []
    timers := s.timers.filter (fun t => 8192 ≤ t.unit)
    ssc := { x with
      retained := some s.retention, sleepCount := x.sleepCount + x.secrets.length, mcKeys := [], offers := []
      contexts := x.contexts.map (fun p => (p.1, { p.2 with key := 0 })), sessions := x.sessions.map (fun p => (p.1, { p.2 with key := 0 })) }
    draws := s.draws + 1
    plat := { s.plat with power := .deepSleep, sleeping := false } }

/-- A step of the entry: contexts that fail are gone, gangs are saved; once none is resident, the part sleeps. DEDUCED: log entry 56. -/
def State.enterSleep (s : State) : State :=
  let s1 := { s with plat := { s.plat with sleeping := true } }
  if s1.tears.isEmpty && s1.gangs.all (fun g => g.image.isSome) then s1.asleep
  else (if s1.tears.isEmpty then s1.saveAll else s1).timer 8192 (s1.dispCount.toNat + 1) .deepSleepEntry

/-- DEEP_SLEEP_ENTRY: a management command (R394, R408). -/
def execDeepSleepEntry (s : State) : Out3 := if s.plat.power != .run || s.plat.boot != 6 then .next s else .next s.enterSleep

/-- SLEEP: operation 0x0C of the mailbox: the response is written on wake (R403). -/
def execSleepOperation (fn : BitVec 6) (s : State) : Out3 :=
  if !s.asking fn 12 || s.plat.power != .run then .next s else .next s.enterSleep

/-- The protected contexts. -/
def State.protectedContexts (s : State) : List (BitVec 8) := (s.ssc.contexts.filter (fun p => p.2.world != 0)).map (fun p => BitVec.ofNat 8 p.1)

/-- The mailbox that asked for the sleep is answered. -/
def State.answerSleeper (s : State) : State :=
  let n := s.ssc.lastMail
  if s.asking (BitVec.ofNat 6 n) 12 then s.answer n none 0 [] else s

/-- The key that was wrapped as number k; none where its tag fails. -/
def Retained.unwrap (r : Retained) (k : Nat) : Option (BitVec 256) :=
  (SMap.find r.wrapped k).bind (fun p => (Config.gcmOpen r.key p.1 p.2).map (fun bs => BitVec.ofNat 256 (bytesNat bs)))

/-- The contexts and sessions of the key store with their keys unwrapped. -/
def State.unwrapped (s : State) (r : Retained) : State :=
  s.setSsc { s.ssc with
    contexts := s.ssc.contexts.map (fun p => (p.1, { p.2 with key := (r.unwrap (2 * p.1)).getD 0 }))
    sessions := s.ssc.sessions.map (fun p => (p.1, { p.2 with key := (r.unwrap (2 * p.1 + 1)).getD 0 })) }

/-- The contexts a key of which does not unwrap: their own, or that of a session of theirs. -/
def State.lockedOut (s : State) (r : Retained) : List (BitVec 8) :=
  s.protectedContexts.filter (fun c =>
    (r.unwrap (2 * c.toNat)).isNone || s.ssc.sessions.any (fun p => p.2.ctx == c && (r.unwrap (2 * p.1 + 1)).isNone))

/-- Key slots of every memory controller for the contexts that live and that p names. -/
def State.installKeys (s : State) (p : BitVec 8 → Bool) : State :=
  s.setSsc { s.ssc with mcKeys := (s.ssc.contexts.filter (fun q => p (BitVec.ofNat 8 q.1))).map (fun q => (q.1, q.2.slot (BitVec.ofNat 8 q.1))) }

/-- The wake of R394: the tag is verified, latches and table are restored, each key is unwrapped and the derived keys are reinstalled. A tag that fails
fails every protected context, and their granules are scrubbed under world 0; a key that does not unwrap fails its context. -/
def State.restoreKept (s : State) (r : Retained) : State :=
  let s0 := s.setSsc { s.ssc with retained := none }
  if savedTag r.key r.latches r.regions s.granules == r.tag then
    let bad := s0.lockedOut r
    let s1 := ((s0.setSsc { s0.ssc with latches := r.latches, regions := r.regions }).unwrapped r).installKeys (fun c => !bad.contains c)
    if bad.isEmpty then s1 else s1.failLater bad true .nothing
  else
    let ps := s0.protectedContexts
    (s0.installKeys (fun c => !ps.contains c)).failLater ps true (.scrub s0.protectedGranules)

/-- One step of boot (R407). The wake form extends no register and writes no line; with step 6 come the wake of R394 and, from it, what was saved. -/
def State.bootStep (s : State) : State :=
  let n := s.plat.boots
  let w := s.plat.waking
  match s.plat.boot.toNat with
  | 1 =>
    if !Config.firmwareGood n || (w && Config.firmwareDigest n != s.ssc.digest) then s.bootFails 1
    else if w then s.bootTo 2
    else
      let s1 := s.extend 0 (natBytes 64 (Config.firmwareDigest n).toNat)
      (s1.setSsc { s1.ssc with digest := Config.firmwareDigest n }).bootTo 2
  | 2 => if !Config.fusesGood n then s.bootFails 2 else (if w then s else s.extend 1 (natBytes 64 (Config.firmwareConfig n).toNat)).bootTo 3
  | 3 => if Config.hbmGood n then s.bootTo 4 else s.bootFails 3
  | 4 => if Config.portsGood n then s.bringUp else s.bootFails 4
  | 5 =>
    if !Config.tablesGood n then s.bootFails 5
    else
      match w, s.ssc.retained with
      | true, some r => ((({ s with plat := { s.plat with waking := false } }.restoreKept r).bootTo 6).answerSleeper).post .gangPlacement
      | _, _ => { s.bootTo 6 with fns := bootFns }
  | _ => s

/-- COLD_RESET: everything but the fuses restarts, and the package boots; DEBUG-UNLOCKED is left for PRODUCTION (R389, R407). -/
def execColdReset (s : State) : Out3 := .next s.coldForm

/-- POWER_LOSS: the module is Off; keys are lost (R408). -/
def execPowerLoss (s : State) : Out3 :=
  let s1 := s.dark
  .next { s1 with plat := { s1.plat with power := .off } }

/-- MANAGEMENT_WAKE: the wake form of boot begins; without the retention it is a cold boot (R394, R407). -/
def execManagementWake (s : State) : Out3 :=
  if s.plat.power != .deepSleep then .next s
  else if s.ssc.retained.isNone then .next s.coldForm
  else .next { s with plat := { s.plat with power := .run, boots := s.plat.boots + 1, boot := 1, waking := true } }

/-! ### Power and thermal limits (R408) -/

/-- THERMAL_WARNING: the dispatcher places no gang on the die. -/
def execThermalWarning (die : BitVec 3) (s : State) : Out3 := .next { s with plat := { s.plat with warm := NSet.add s.plat.warm die.toNat } }

/-- THERMAL_WARNING_CLEAR. -/
def execThermalWarningClear (die : BitVec 3) (s : State) : Out3 :=
  .next ({ s with plat := { s.plat with warm := NSet.del s.plat.warm die.toNat } }.post .gangPlacement)

/-- CRITICAL_TRIP: every gang stops as under steps 1 to 3 of R393, launches report CODE 7, and the module then goes Off; out of Run it goes Off at once. -/
def execCriticalTrip (s : State) : Out3 :=
  if s.plat.power == .off || s.tears.any (fun t => t.last == .trip) then .next s
  else if s.plat.power == .run && s.plat.boot == 6 then .next (s.failLater (s.ssc.contexts.map (fun p => BitVec.ofNat 8 p.1)) false .trip)
  else execPowerLoss s

/-! ### Links (R395, R405) -/

/-- LINK_FAILURE: a link is not bypassed; requests on it, and later ones that map to it, fail as unreachable. -/
def State.failLink (s : State) (k : Nat) : State :=
  let hit (r : Request) : Bool := s.plat.link r.dst (laneOf r.pa) == some k
  let lost := s.requests.filter (fun r => hit r && (SMap.find s.replies r.tag).isNone)
  let s1 := { s with plat := { s.plat with linksFailed := s.plat.linksFailed ||| ((1 : BitVec 24) <<< k) } }
  lost.foldl (fun s r => { s with replies := SMap.put s.replies r.tag (false, 0x206) }.resume r.agent) s1

/-- LINK_FAILURE: R395. -/
def execLinkFailure (k : Nat) (s : State) : Out3 := if k < 24 && s.plat.linksUp.getLsbD k then .next (s.failLink k) else .next s

/-- CXL_LINK_DOWN: the port answers as unreachable (R405). DEDUCED: log entry 57. -/
def execCxlLinkDown (p : BitVec 2) (s : State) : Out3 := .next { s with plat := { s.plat with cxlDown := s.plat.cxlDown ||| ((1 : BitVec 4) <<< p.toNat) } }

/-! ### Lifecycle (R389) -/

/-- A lifecycle transition, which extends M2 (R390). -/
def State.enterLife (s : State) (k : BitVec 3) : State := (s.setSsc { s.ssc with life := k }).extend 2 (lifeRecord k.toNat)

/-- Whether a debug unlock is under way: no other lifecycle command is handled meanwhile (R392). -/
def State.unlocking (s : State) : Bool := s.tears.any (fun t => match t.last with
  | .unlock _ _ _ => true
  | _ => false)

/-- PROVISIONING: the secret, the id and the digest of the debug-token key are fused: BLANK becomes PROVISIONED. -/
def execProvisioning (s : State) : Out3 :=
  if s.ssc.life != 0 || s.unlocking then .next s
  else
    .next ((s.setSsc { s.ssc with
      provisioned := true, deviceId := Config.fusedId, secret := Config.fusedSecret, tokenKey := Config.fusedTokenKey }).enterLife 1)

/-- PRODUCTION_FUSE: PROVISIONED becomes PRODUCTION. -/
def execProductionFuse (s : State) : Out3 := if s.ssc.life == 1 && !s.unlocking then .next (s.enterLife 2) else .next s

/-- RETIRE_FUSE: PRODUCTION or DEBUG-UNLOCKED becomes RETIRED. -/
def execRetireFuse (s : State) : Out3 := if (s.ssc.life == 2 || s.ssc.life == 3) && !s.unlocking then .next (s.enterLife 4) else .next s

/-! ### Debug unlock (R392) -/

/-- Every tenant key is erased: key store, network interfaces, memory controllers. -/
def State.eraseTenants (s : State) : State :=
  let gone (k : KeySlot) : Bool := match k with
    | .keyed _ _ => true
    | _ => false
  { s with
    cores := s.cores.map (fun p => (p.1, { p.2 with keys := p.2.keys.filter (fun q => !gone q.2) }))
    ssc := { s.ssc with
      mcKeys := s.ssc.mcKeys.filter (fun q => !gone q.2), sessions := s.ssc.sessions.filter (fun q => q.2.world == 0)
      contexts := s.ssc.contexts.map (fun p => (p.1, { p.2 with key := 0 })) } }

/-- The message that a token's signature covers: device id, lifecycle state, nonce, permissions. -/
def tokenBytes (dev : BitVec 64) (life : BitVec 3) (nonce : BitVec 256) (perm : BitVec 8) : List Byte :=
  natBytes 8 dev.toNat ++ [BitVec.ofNat 8 life.toNat] ++ natBytes 32 nonce.toNat ++ [perm]

/-- The debug-open event and the digest of the token, which extend M2. -/
def unlockRecord (dev : BitVec 64) (life : BitVec 3) (nonce : BitVec 256) (perm : BitVec 8) (sig : Nat) : List Byte :=
  lifeRecord 3 ++ natBytes 32 (Config.shake256 (tokenBytes dev life nonce perm ++ natBytes 3309 sig) 32)

/-- DEBUG_UNLOCK: a fresh nonce is issued and a token that names it is verified against the fused key digest; any mismatch changes nothing but the nonce. Then
every tenant key is erased, and the steps of R393 follow for the protected contexts, with the rest of the unlock at their end (R392). An attempt while the
SSC is about another failure of contexts is not taken (DESIGN CHOICE: log entry 80). -/
def execDebugUnlock (dev : BitVec 64) (life : BitVec 3) (nonce : BitVec 256) (perm : BitVec 8) (sig : Nat) (s : State) : Out3 :=
  let n := Config.entropy s.draws
  let s1 := { s with draws := s.draws + 1 }.setSsc { s.ssc with nonce := some n }
  let ok := dev == s.ssc.deviceId && life == 2 && s.ssc.life == 2 && nonce == n && perm.extractLsb' 2 6 == 0 &&
    Config.tokenVerifies s.ssc.tokenKey (tokenBytes dev life nonce perm) sig
  if !s.tears.isEmpty then .next s
  else if !ok then .next s1
  else .next (s1.eraseTenants.failLater s1.protectedContexts false (.unlock perm (unlockRecord dev life nonce perm sig) s1.protectedGranules))

end Sys2Proof.Machine
end

