-- ==== Sys2Proof/Machine/Fabric.lean ====
section
/-!
DEFINITION. The Brodust fabric: the messages that reach the package (30 R395 to R398, R400, R404; 22 R328; 26 R365 to R368).
-/

namespace Sys2Proof.Machine

/-! ### Arrival (R396) -/

/-- Whether the package takes a message of a type: it is for this endpoint, and the links are up. -/
def State.takes (s : State) (m : Msg) (ty : BitVec 8) : Bool := m.ty == ty && m.dst == s.plat.self && s.plat.power == .run && s.plat.boot == 6

/-- Whether a type code is one of R396. -/
def knownType (ty : BitVec 8) : Bool := decide (1 ≤ ty.toNat) && decide (ty.toNat ≤ 12)

/-- A message that is discarded is counted (R396, R409). -/
def State.countDrop (s : State) : State := { s with plat := { s.plat with drops := s.plat.drops + 1 } }

/-- FABRIC_DROP: an unknown type, or another endpoint (R396). -/
def execFabricDrop (m : Msg) (s : State) : Out3 :=
  if s.plat.power == .run && (!knownType m.ty || m.dst != s.plat.self) then .next s.countDrop else .next s

/-- A message back to the source of another, in its lane; one of a protected world under the same session (R385, R387). -/
def State.back (s : State) (m : Msg) (ty : BitVec 8) (hdr : Word) (data : Line) : State :=
  { s with seq := s.seq + 1 }.transmit 4096
    { ty := ty, src := s.plat.self, dst := m.src, lane := m.lane, world := m.world, session := m.session, nonce := 0, addr := m.addr, hdr := hdr, tag := m.tag
      data := data, mask := 0, mac := 0 }

/-- An Error message with a trap's class and CODE (R396; DESIGN CHOICE: log entry 14). -/
def State.refuseMsg (s : State) (m : Msg) (cls code : Nat) : State := s.back m 0x0B (BitVec.ofNat 64 (cls + 256 * code)) 0

/-- A message that the package takes, opened under its session's key. One whose tag fails is discarded: its originator is answered with an error of class 16
and CODE 3, or, where it is an answer itself, takes that as its answer (R387). -/
def State.receive (s : State) (m : Msg) (ty : BitVec 8) (bad : State) (f : Msg → State) : Out3 :=
  if !s.takes m ty then .next s
  else
    match s.openMsg m with
    | some x => .next (f x)
    | none => .next bad

/-- The answer to a request whose tag fails. -/
def State.badTag (s : State) (m : Msg) : State := s.refuseMsg m 16 3

/-! ### What a message may reach (R397, R398) -/

/-- Where a request is served: a line or part of one in HBM, a register, or nowhere, with the class and CODE of the refusal. -/
inductive Served where
  | hbm (home : Nat)
  | window (fn off : Nat)
  | debug (core off : Nat)
  | refused (cls code : Nat)
deriving DecidableEq, Repr

/-- Whether a message of a protected world comes under a session of that world with its source (R400). -/
def State.sessionOk (s : State) (m : Msg) : Bool :=
  m.world == 0 || ((SMap.find s.ssc.sessions m.session).map (fun x => x.world == m.world && x.endpoint == m.src)).getD false

/-- Whether a host endpoint reaches a core's debug block (R360). -/
def State.hostDebugs (s : State) (e : BitVec 8) (core : Nat) : Bool :=
  match (s.core core).ctx with
  | some c => s.world c == 0 && ((s.fnOf c).map (fun f => (s.fn f).dbg && (s.fn f).host == e)).getD false
  | none => false

/-- Size of a request in bytes. -/
def msgSize (m : Msg) : Nat := m.hdr.toNat % 256

/-- Where a request of n bytes is served. An access to a debug block that is not aligned to 8 bytes reads zero or is ignored, and is no error (R360). -/
def State.serve (s : State) (m : Msg) : Served :=
  let a := m.addr.toNat % 2 ^ 48
  let n := msgSize m
  let debug? := match fabOf a with
    | .debug _ off => off % 8 ≠ 0
    | _ => false
  if !([1, 2, 4, 8, 16, 32, 64].contains n) || (a % n ≠ 0 && !debug?) then .refused 6 2
  else
    match fabOf a with
    | .hbm pa =>
      if !Config.isPackage m.src || s.plat.grade.hbm ≤ pa || !s.sessionOk m then .refused 6 2
      else if !s.inWorld pa n m.world then .refused 7 4
      else .hbm (physHome 0 pa)
    | .window f off => if (s.fn f).host == m.src && 8 ≤ n then .window f off else .refused 6 2
    | .debug c off => if s.coreExists c && (n == 8 || debug?) && s.hostDebugs m.src c then .debug c off else .refused 6 2
    | .none => .refused 6 2

/-- A line as words. -/
def lineWord (l : Line) (k : Nat) : Word := l.extractLsb' (64 * k) 64

/-- The context for which a message of a protected world acts: that of its session. -/
def State.msgCtx (s : State) (m : Msg) : Option (BitVec 8) := if m.world == 0 then none else (SMap.find s.ssc.sessions m.session).map (·.ctx)

/-- The keys under which a message's lines are held. -/
def State.msgKeys (s : State) (m : Msg) : Option WorkKeys := (s.msgCtx m).bind s.ctxKeys

/-- Whether a memory controller refuses a message: the key slot of its context is not in its world's state (R388). -/
def State.slotShut (s : State) (m : Msg) : Bool := m.world != 0 && !((s.msgCtx m).map s.mcOk).getD false

/-- Whether a request meets a line whose tag does not match (R355, R386). -/
def State.lineBad (s : State) (m : Msg) (h : Nat) : Bool := s.tagFailsFor m.world (s.msgKeys m) h

/-- READ: a line or a word is read at its home; a refusal is an Error message (R396 to R398). -/
def State.performRead (s : State) (m : Msg) : State :=
  match s.serve m with
  | .hbm h =>
    if s.slotShut m then s.refuseMsg m 16 3
    else if s.poison.contains (lineOfHome h) then s.refuseMsg m 16 0
    else if s.lineBad m h then s.refuseMsg m 16 3
    else s.back m 0x02 0 (BitVec.ofNat 512 (Memory.readN (s.seenAs (s.msgKeys m) h).mem h (msgSize m)))
  | .window f off =>
    s.back m 0x02 0 (BitVec.ofNat 512 (wordsNat ((List.range (msgSize m / 8)).map (fun k => s.windowRead f (off + 8 * k)))))
  | .debug c off => s.back m 0x02 0 ((s.debugRead c off).setWidth 512)
  | .refused c k => s.refuseMsg m c k

/-- READ: R396 to R398. -/
def execReadMsg (m : Msg) (s : State) : Out3 := s.receive m 0x01 (s.badTag m) s.performRead

/-- A word with the bytes that a mask of eight enables replaced. -/
def mergeWord (old new : Word) (be : Nat) : Word :=
  BitVec.ofNat 64 (((List.range 8).map (fun k => (if be / 2 ^ k % 2 = 1 then new.toNat else old.toNat) / 256 ^ k % 256 * 256 ^ k)).sum)

/-- A write of the enabled bytes of a request where it is served; an acknowledgement follows. -/
def State.performWrite (s : State) (m : Msg) : State :=
  match s.serve m with
  | .hbm h =>
    let full := msgSize m == 64 && m.mask == BitVec.allOnes 64
    if s.slotShut m || (s.lineBad m h && !full) then s.refuseMsg m 16 3
    else
      let k := s.msgKeys m
      let s1 := ((s.seenAs k h).writeBytes h m.data.toNat m.mask.toNat (msgSize m)).setLineKey (lineOfHome h) k
      let s2 := if full then
          { s1 with poison := s1.poison.filter (· != lineOfHome h), badLines := s1.badLines.filter (· != lineOfHome h) } else s1
      s2.back m 0x04 0 0
  | .window f off =>
    let s1 := (List.range (msgSize m / 8)).foldl (fun s k =>
      let be := m.mask.toNat / 2 ^ (8 * k) % 256
      if be = 0 then s
      else s.windowWrite f (off + 8 * k) (mergeWord (s.windowRead f (off + 8 * k)) (lineWord m.data k) be)) s
    s1.back m 0x04 0 0
  | .debug c off => (s.debugWrite c off (mergeWord (s.debugRead c off) (lineWord m.data 0) (m.mask.toNat % 256))).back m 0x04 0 0
  | .refused c k => s.refuseMsg m c k

/-- WRITE: performed at its home and acknowledged (R396). -/
def execWriteMsg (m : Msg) (s : State) : Out3 := s.receive m 0x03 (s.badTag m) s.performWrite

/-- PUT_WITH_SIGNAL: the last write of a CPS; its signal follows the acknowledgement (R301, R396). -/
def execPutWithSignal (m : Msg) (s : State) : Out3 := s.receive m 0x07 (s.badTag m) s.performWrite

/-- One atomic operation of a request where it is served; a home that cannot perform it answers with an error (R190, R396). -/
def State.performAtomic (s : State) (m : Msg) : State :=
  match s.serve m, atomOfNum (m.hdr.toNat / 256 % 256) with
  | .hbm h, some op =>
    if 8 < msgSize m then s.refuseMsg m 6 1
    else if s.slotShut m then s.refuseMsg m 16 3
    else if s.poison.contains (lineOfHome h) then s.refuseMsg m 16 0
    else if s.lineBad m h then s.refuseMsg m 16 3
    else
      let k := s.msgKeys m
      let sx := s.seenAs k h
      let old := Memory.readN sx.mem h (msgSize m)
      let b := (lineWord m.data 0).toNat % 256 ^ (msgSize m)
      let c := (lineWord m.data 1).toNat % 256 ^ (msgSize m)
      let s1 := match op.new (8 * (msgSize m)) old b c with
        | some v => (sx.writeBytes h v (2 ^ (msgSize m) - 1) (msgSize m)).setLineKey (lineOfHome h) k
        | none => s
      s1.back m 0x06 (BitVec.ofNat 64 old) 0
  | .refused c k, _ => s.refuseMsg m c k
  | _, _ => s.refuseMsg m 6 1

/-- ATOMIC: R190, R396. -/
def execAtomicMsg (m : Msg) (s : State) : Out3 := s.receive m 0x05 (s.badTag m) s.performAtomic

/-! ### Answers (R396) -/

/-- An answer reaches the request that it answers, once. -/
def State.answered (s : State) (m : Msg) (ok : Bool) (d : Line) : State :=
  match s.requests.find? (fun r => r.tag == m.tag && r.dst == m.src) with
  | none => s
  | some r =>
    if (SMap.find s.replies r.tag).isSome then s
    else { s with replies := SMap.put s.replies r.tag (ok, d) }.resume r.agent

/-- An answer whose tag fails is one of class 16 with CODE 3 (R387). -/
def State.badAnswer (s : State) (m : Msg) : State := s.answered m false (16 + 256 * 3)

/-- READ_REPLY. -/
def execReadReply (m : Msg) (s : State) : Out3 := s.receive m 0x02 (s.badAnswer m) (fun x => s.answered x true x.data)

/-- ACKNOWLEDGE: a write has been performed at its home. -/
def execAcknowledge (m : Msg) (s : State) : Out3 := s.receive m 0x04 (s.badAnswer m) (fun x => s.answered x true 0)

/-- ATOMIC_REPLY: the old value stands in the header flit. -/
def execAtomicReply (m : Msg) (s : State) : Out3 := s.receive m 0x06 (s.badAnswer m) (fun x => s.answered x true (x.hdr.setWidth 512))

/-- ERROR: its code becomes the requester's fault. -/
def execErrorMsg (m : Msg) (s : State) : Out3 := s.receive m 0x0B (s.badAnswer m) (fun x => s.answered x false (x.hdr.setWidth 512))

/-! ### Rewards (R328) -/

/-- The context of a reward message that is accepted: a world-0 context that the session field names and, for a host, owns; for a protected world
that of its sender's session. -/
def State.rewardCtx (s : State) (m : Msg) : Option (BitVec 8) :=
  if m.world == 0 then
    match SMap.find s.ssc.contexts m.session with
    | some c => if m.session < 256 && c.world == 0 && (Config.isPackage m.src || (s.fn c.owner).host == m.src) then some (BitVec.ofNat 8 m.session) else none
    | none => none
  else
    match SMap.find s.ssc.sessions m.session with
    | some x => if x.world == m.world && x.endpoint == m.src && (SMap.find s.ssc.contexts x.ctx.toNat).isSome then some x.ctx else none
    | none => none

/-- Whether a timer holds a reward message for a unit, which arrived before and found its queue full. -/
def State.rewardWaits (s : State) (u : Nat) : Bool :=
  s.timers.any (fun t => t.unit == 8193 + u && (match t.ev with
    | .rewardMsg _ => true
    | _ => false))

/-- A reward message is accepted into its unit's queue, or discarded and counted; one that finds the queue full waits on its link, as it came (R328, R329). -/
def State.takeReward (s : State) (whole m : Msg) : State :=
  match s.rewardCtx m with
  | none => s.countDrop
  | some c =>
    let r : RewardMsg := { ctx := c, key := m.addr, hdr := m.hdr, data := m.data }
    let u := unitOfGroup (m.hdr.extractLsb' 48 4)
    match (if s.rewardWaits u then none else s.acceptMessage r) with
    | some s1 => s1
    | none => s.timer (8193 + u) ((s.join u).count.toNat + 1) (.rewardMsg whole)

/-- REWARD: R328, R329. -/
def execRewardMsg (m : Msg) (s : State) : Out3 := s.receive m 0x08 (s.badTag m) (s.takeReward m)

/-! ### Barriers, stops, sessions -/

/-- A barrier message: an arrival at the root, or the root's release of a round (R404). -/
def State.takeBarrier (s : State) (m : Msg) : State :=
  let g := m.hdr.toNat % 0x10000
  if m.hdr.getLsbD 16 then (if m.src == s.podRoot g then (s.podRelease g).postFull else s)
  else if s.podRoot g == s.plat.self && (s.podMembers g).contains m.src then s.podArrive g m.src (m.hdr.getLsbD 17)
  else s

/-- BARRIER: R404. -/
def execBarrierMsg (m : Msg) (s : State) : Out3 := s.receive m 0x09 (s.badTag m) s.takeBarrier

/-- A stop from another package: every core that holds its context stops, unless it is stopped already, and records the arrival as its h (R365, R367). -/
def State.stopPackage (s : State) (ctx : BitVec 8) (src addr : Word) : State :=
  ((s.cores.map (·.1)).filter (fun n => (s.core n).ctx == some ctx && !s.stopCovers n none)).foldl (fun s n =>
    let c := s.core n
    let s1 := (s.setCore n { c with dbg := { c.dbg with stopped := true } }).rouse n
    let m : StopMsg := { core := n, at_ := c.cyc.toNat, ctx := ctx, gangs := none, src := src, addr := addr, cnt := c.cyc, dom := 5, hit := c.cyc.toNat
                         issued := Vector.replicate 8 0 }
    { s1 with stops := s1.stops ++ [m] }.post (.stopTakesEffect n)) s

/-- A resume from another package: every core that recorded that stop. -/
def State.resumePackage (s : State) (src addr : Word) : State :=
  (s.cores.map (·.1)).foldl (fun s n =>
    let c := s.core n
    if c.dbg.dom == 5 && c.dbg.stopSrc == src && c.dbg.stopAddr == addr then
      let m : StopMsg := { core := n, at_ := c.cyc.toNat, ctx := s.ctxOf n, gangs := none, src := src, addr := addr, cnt := c.dbg.stopCnt, dom := 5, hit := 0
                           issued := Vector.replicate 8 0 }
      { s with resumes := s.resumes ++ [m] }.post (.resumeTakesEffect n)
    else s) s

/-- A stop message: a stop, or with header bit 2 a RESUME, of domain 5, for the context that the tag names, of the message's world. -/
def State.takeStopMsg (s : State) (m : Msg) : State :=
  let ctx : BitVec 8 := BitVec.ofNat 8 m.tag
  if !s.sessionOk m then s
  else if m.hdr.getLsbD 2 then s.resumePackage (m.hdr &&& ~~~4) m.addr
  else if s.world ctx == m.world then s.stopPackage ctx m.hdr m.addr
  else s

/-- STOP_MESSAGE: R365, R367, R368. -/
def execStopMessage (m : Msg) (s : State) : Out3 := s.receive m 0x0A (s.badTag m) s.takeStopMsg

/-- Bytes as flits of 64. -/
def flits (bs : List Byte) : List Line := (List.range ((bs.length + 63) / 64)).map (fun k => BitVec.ofNat 512 (bytesNat ((bs.drop (64 * k)).take 64)))

/-- A flit of a Session exchange that establishes a session: an encapsulation key of 1,184 bytes comes in 19 of them; number, ciphertext and signature by the
identity key go back, flit by flit (R400). DESIGN CHOICE: log entry 84. -/
def State.offerFlit (s : State) (m : Msg) : State :=
  let mine (o : Offer) : Bool := o.endpoint == m.src && o.world == m.world
  let before : List Byte := ((s.ssc.offers.find? mine).map (·.bytes)).getD []
  let bs := before ++ natBytes 64 m.data.toNat
  let others := s.ssc.offers.filter (fun o => !mine o)
  if bs.length < 1184 then s.setSsc { s.ssc with offers := others ++ [{ endpoint := m.src, world := m.world, bytes := bs }] }
  else
    let r := { s with ssc := { s.ssc with offers := others } }.establish m.world m.src (bs.take 1184) (fun _ => true)
    let head := natBytes 8 r.1 ++ fitBytes 1088 r.2.1
    ((flits (head ++ s.signed head)).zipIdx).foldl (fun s p => s.back m 0x0C (BitVec.ofNat 64 p.2) p.1) r.2.2

/-- A Session message: without a session number, a session is established with the sender for the world of the message, if the lifecycle state allows it; none
is for the world of the secure service core (R379). Under a session, its data extend its context's measurement (R390, R400). -/
def State.takeSession (s : State) (m : Msg) : State :=
  if m.session == 0 then (if m.world == 255 || !s.lifeAllows m.world then s.refuseMsg m 6 2 else s.offerFlit m)
  else
    match SMap.find s.ssc.sessions m.session with
    | none => s
    | some x =>
      if x.endpoint != m.src || x.world != m.world then s
      else
        match SMap.find s.ssc.contexts x.ctx.toNat with
        | some c =>
          s.setSsc { s.ssc with contexts := SMap.put s.ssc.contexts x.ctx.toNat { c with meas := extended c.meas (natBytes 64 m.data.toNat) } }
        | none => s

/-- SESSION: R390, R400. -/
def execSessionMsg (m : Msg) (s : State) : Out3 := s.receive m 0x0C (s.badTag m) s.takeSession

end Sys2Proof.Machine
end

