-- ==== Sys2Proof/Machine/Scalar.lean ====
section
/-!
DEFINITION. Majors 0x00 to 0x07: arithmetic, comparison, multiplication and division, bit fields, immediates, addresses, moves
(09 R130 to R138).
-/

namespace Sys2Proof.Machine

/-- ADD: R131. -/
def execAdd (d : SReg) (b : SReg) (c : SReg) (sat : BitVec 2) (s : State) : Out3 :=
  s.scalarF b c d (fun x y => satArith sat (x.toInt + y.toInt) (x.toNat + y.toNat) (x + y))

/-- SUB: R131. -/
def execSub (d : SReg) (b : SReg) (c : SReg) (sat : BitVec 2) (s : State) : Out3 :=
  s.scalarF b c d (fun x y => satArith sat (x.toInt - y.toInt) ((x.toNat : Int) - y.toNat) (x - y))

/-- AND: R131. -/
def execAndR (d : SReg) (b : SReg) (c : SReg) (s : State) : Out3 :=
  s.scalar2 d b c (fun x y => x &&& y)

/-- OR: R131. -/
def execOrR (d : SReg) (b : SReg) (c : SReg) (s : State) : Out3 :=
  s.scalar2 d b c (fun x y => x ||| y)

/-- XOR: R131. -/
def execXorR (d : SReg) (b : SReg) (c : SReg) (s : State) : Out3 :=
  s.scalar2 d b c (fun x y => x ^^^ y)

/-- SLL: R131. -/
def execSll (d : SReg) (b : SReg) (c : SReg) (s : State) : Out3 :=
  s.scalar2 d b c (fun x y => x <<< (y.toNat % 64))

/-- SRL: R131. -/
def execSrl (d : SReg) (b : SReg) (c : SReg) (s : State) : Out3 :=
  s.scalar2 d b c (fun x y => x >>> (y.toNat % 64))

/-- SRA: R131. -/
def execSra (d : SReg) (b : SReg) (c : SReg) (s : State) : Out3 :=
  s.scalar2 d b c (fun x y => x.sshiftRight (y.toNat % 64))

/-- ADD_I: R131, immediate of 11 bits. -/
def execAddI (d : SReg) (b : SReg) (imm : BitVec 11) (s : State) : Out3 :=
  s.scalar1 d b (fun x => let y := sx11 imm; x + y)

/-- ADD_W: R131, immediate of 16 bits. -/
def execAddW (d : SReg) (b : SReg) (imm : BitVec 16) (s : State) : Out3 :=
  s.scalar1 d b (fun x => let y := sx16 imm; x + y)

/-- RSUB: R131, immediate of 11 bits. -/
def execRsubI (d : SReg) (b : SReg) (imm : BitVec 11) (s : State) : Out3 :=
  s.scalar1 d b (fun x => let y := sx11 imm; y - x)

/-- RSUB_W: R131, immediate of 16 bits. -/
def execRsubW (d : SReg) (b : SReg) (imm : BitVec 16) (s : State) : Out3 :=
  s.scalar1 d b (fun x => let y := sx16 imm; y - x)

/-- AND_I: R131, immediate of 11 bits. -/
def execAndI (d : SReg) (b : SReg) (imm : BitVec 11) (s : State) : Out3 :=
  s.scalar1 d b (fun x => let y := sx11 imm; x &&& y)

/-- AND_W: R131, immediate of 16 bits. -/
def execAndW (d : SReg) (b : SReg) (imm : BitVec 16) (s : State) : Out3 :=
  s.scalar1 d b (fun x => let y := sx16 imm; x &&& y)

/-- OR_I: R131, immediate of 11 bits. -/
def execOrI (d : SReg) (b : SReg) (imm : BitVec 11) (s : State) : Out3 :=
  s.scalar1 d b (fun x => let y := sx11 imm; x ||| y)

/-- OR_W: R131, immediate of 16 bits. -/
def execOrW (d : SReg) (b : SReg) (imm : BitVec 16) (s : State) : Out3 :=
  s.scalar1 d b (fun x => let y := sx16 imm; x ||| y)

/-- XOR_I: R131, immediate of 11 bits. -/
def execXorI (d : SReg) (b : SReg) (imm : BitVec 11) (s : State) : Out3 :=
  s.scalar1 d b (fun x => let y := sx11 imm; x ^^^ y)

/-- XOR_W: R131, immediate of 16 bits. -/
def execXorW (d : SReg) (b : SReg) (imm : BitVec 16) (s : State) : Out3 :=
  s.scalar1 d b (fun x => let y := sx16 imm; x ^^^ y)

/-- SLL_I: R131, immediate of 11 bits. -/
def execSllI (d : SReg) (b : SReg) (imm : BitVec 11) (s : State) : Out3 :=
  s.scalar1 d b (fun x => let y := sx11 imm; x <<< (y.toNat % 64))

/-- SLL_W: R131, immediate of 16 bits. -/
def execSllW (d : SReg) (b : SReg) (imm : BitVec 16) (s : State) : Out3 :=
  s.scalar1 d b (fun x => let y := sx16 imm; x <<< (y.toNat % 64))

/-- SRL_I: R131, immediate of 11 bits. -/
def execSrlI (d : SReg) (b : SReg) (imm : BitVec 11) (s : State) : Out3 :=
  s.scalar1 d b (fun x => let y := sx11 imm; x >>> (y.toNat % 64))

/-- SRL_W: R131, immediate of 16 bits. -/
def execSrlW (d : SReg) (b : SReg) (imm : BitVec 16) (s : State) : Out3 :=
  s.scalar1 d b (fun x => let y := sx16 imm; x >>> (y.toNat % 64))

/-- SRA_I: R131, immediate of 11 bits. -/
def execSraI (d : SReg) (b : SReg) (imm : BitVec 11) (s : State) : Out3 :=
  s.scalar1 d b (fun x => let y := sx11 imm; x.sshiftRight (y.toNat % 64))

/-- SRA_W: R131, immediate of 16 bits. -/
def execSraW (d : SReg) (b : SReg) (imm : BitVec 16) (s : State) : Out3 :=
  s.scalar1 d b (fun x => let y := sx16 imm; x.sshiftRight (y.toNat % 64))

/-- SEQ: R132. -/
def execSeq (d : SReg) (b : SReg) (c : SReg) (s : State) : Out3 :=
  s.scalar2 d b c (fun x y => b2w (x == y))

/-- SEQ_W: R132, immediate of 16 bits. -/
def execSeqW (d : SReg) (b : SReg) (imm : BitVec 16) (s : State) : Out3 :=
  s.scalar1 d b (fun x => let y := sx16 imm; b2w (x == y))

/-- SNE: R132. -/
def execSne (d : SReg) (b : SReg) (c : SReg) (s : State) : Out3 :=
  s.scalar2 d b c (fun x y => b2w (x != y))

/-- SNE_W: R132, immediate of 16 bits. -/
def execSneW (d : SReg) (b : SReg) (imm : BitVec 16) (s : State) : Out3 :=
  s.scalar1 d b (fun x => let y := sx16 imm; b2w (x != y))

/-- SLT: R132. -/
def execSlt (d : SReg) (b : SReg) (c : SReg) (s : State) : Out3 :=
  s.scalar2 d b c (fun x y => b2w (x.slt y))

/-- SLT_W: R132, immediate of 16 bits. -/
def execSltW (d : SReg) (b : SReg) (imm : BitVec 16) (s : State) : Out3 :=
  s.scalar1 d b (fun x => let y := sx16 imm; b2w (x.slt y))

/-- SLTU: R132. -/
def execSltu (d : SReg) (b : SReg) (c : SReg) (s : State) : Out3 :=
  s.scalar2 d b c (fun x y => b2w (x.ult y))

/-- SLTU_W: R132, immediate of 16 bits. -/
def execSltuW (d : SReg) (b : SReg) (imm : BitVec 16) (s : State) : Out3 :=
  s.scalar1 d b (fun x => let y := sx16 imm; b2w (x.ult y))

/-- SLE: R132. -/
def execSle (d : SReg) (b : SReg) (c : SReg) (s : State) : Out3 :=
  s.scalar2 d b c (fun x y => b2w (x.sle y))

/-- SLE_W: R132, immediate of 16 bits. -/
def execSleW (d : SReg) (b : SReg) (imm : BitVec 16) (s : State) : Out3 :=
  s.scalar1 d b (fun x => let y := sx16 imm; b2w (x.sle y))

/-- SLEU: R132. -/
def execSleu (d : SReg) (b : SReg) (c : SReg) (s : State) : Out3 :=
  s.scalar2 d b c (fun x y => b2w (x.ule y))

/-- SLEU_W: R132, immediate of 16 bits. -/
def execSleuW (d : SReg) (b : SReg) (imm : BitVec 16) (s : State) : Out3 :=
  s.scalar1 d b (fun x => let y := sx16 imm; b2w (x.ule y))

/-- MIN: R132. -/
def execMinS (d : SReg) (b : SReg) (c : SReg) (s : State) : Out3 :=
  s.scalar2 d b c (fun x y => if x.slt y then x else y)

/-- MIN_W: R132, immediate of 16 bits. -/
def execMinW (d : SReg) (b : SReg) (imm : BitVec 16) (s : State) : Out3 :=
  s.scalar1 d b (fun x => let y := sx16 imm; if x.slt y then x else y)

/-- MINU: R132. -/
def execMinU (d : SReg) (b : SReg) (c : SReg) (s : State) : Out3 :=
  s.scalar2 d b c (fun x y => if x.ult y then x else y)

/-- MINU_W: R132, immediate of 16 bits. -/
def execMinuW (d : SReg) (b : SReg) (imm : BitVec 16) (s : State) : Out3 :=
  s.scalar1 d b (fun x => let y := sx16 imm; if x.ult y then x else y)

/-- MAX: R132. -/
def execMaxS (d : SReg) (b : SReg) (c : SReg) (s : State) : Out3 :=
  s.scalar2 d b c (fun x y => if x.slt y then y else x)

/-- MAX_W: R132, immediate of 16 bits. -/
def execMaxW (d : SReg) (b : SReg) (imm : BitVec 16) (s : State) : Out3 :=
  s.scalar1 d b (fun x => let y := sx16 imm; if x.slt y then y else x)

/-- MAXU: R132. -/
def execMaxU (d : SReg) (b : SReg) (c : SReg) (s : State) : Out3 :=
  s.scalar2 d b c (fun x y => if x.ult y then y else x)

/-- MAXU_W: R132, immediate of 16 bits. -/
def execMaxuW (d : SReg) (b : SReg) (imm : BitVec 16) (s : State) : Out3 :=
  s.scalar1 d b (fun x => let y := sx16 imm; if x.ult y then y else x)

/-- MUL: R133, R91. -/
def execMul (d : SReg) (b : SReg) (c : SReg) (s : State) : Out3 :=
  s.scalar2 d b c (fun x y => x * y)

/-- MULH: R133, R91. -/
def execMulh (d : SReg) (b : SReg) (c : SReg) (s : State) : Out3 :=
  s.scalar2 d b c (fun x y => BitVec.ofInt 64 (x.toInt * y.toInt / 2 ^ 64))

/-- MULHU: R133, R91. -/
def execMulhu (d : SReg) (b : SReg) (c : SReg) (s : State) : Out3 :=
  s.scalar2 d b c (fun x y => BitVec.ofNat 64 (x.toNat * y.toNat / 2 ^ 64))

/-- MULHSU: R133, R91. -/
def execMulhsu (d : SReg) (b : SReg) (c : SReg) (s : State) : Out3 :=
  s.scalar2 d b c (fun x y => BitVec.ofInt 64 (x.toInt * y.toNat / 2 ^ 64))

/-- DIV: R133, R91. -/
def execDiv (d : SReg) (b : SReg) (c : SReg) (s : State) : Out3 :=
  s.scalar2 d b c (fun x y => divS x y)

/-- DIVU: R133, R91. -/
def execDivu (d : SReg) (b : SReg) (c : SReg) (s : State) : Out3 :=
  s.scalar2 d b c (fun x y => divU x y)

/-- REM: R133, R91. -/
def execRem (d : SReg) (b : SReg) (c : SReg) (s : State) : Out3 :=
  s.scalar2 d b c (fun x y => remS x y)

/-- REMU: R133, R91. -/
def execRemu (d : SReg) (b : SReg) (c : SReg) (s : State) : Out3 :=
  s.scalar2 d b c (fun x y => remU x y)

/-- Zero bits above the highest set bit of 64 (R134). -/
def clz64 (x : Word) : Nat := if x = 0 then 64 else 63 - Nat.log2 x.toNat

/-- Set bits (R134). -/
def popc64 (x : Word) : Nat := ((List.range 64).filter (fun i => x.getLsbD i)).length

/-- Byte i of the result is byte 7 − i (R134). -/
def bswap64 (x : Word) : Word := BitVec.ofNat 64 ((List.range 8).foldl (fun a i => a * 256 + (x.extractLsb' (8 * i) 8).toNat) 0)

/-- CLZ: R134. -/
def execClz (d : SReg) (b : SReg) (s : State) : Out3 :=
  s.scalar1 d b (fun x => BitVec.ofNat 64 (clz64 x))

/-- CTZ: R134. -/
def execCtz (d : SReg) (b : SReg) (s : State) : Out3 :=
  s.scalar1 d b (fun x => BitVec.ofNat 64 (clz64 x.reverse))

/-- POPC: R134. -/
def execPopc (d : SReg) (b : SReg) (s : State) : Out3 :=
  s.scalar1 d b (fun x => BitVec.ofNat 64 (popc64 x))

/-- BREV: R134. -/
def execBrev (d : SReg) (b : SReg) (s : State) : Out3 :=
  s.scalar1 d b (fun x => x.reverse)

/-- BSWAP: R134. -/
def execBswap (d : SReg) (b : SReg) (s : State) : Out3 :=
  s.scalar1 d b (fun x => bswap64 x)

/-- ROL: R134. -/
def execRol (d : SReg) (b : SReg) (c : SReg) (s : State) : Out3 :=
  s.scalar2 d b c (fun x y => x.rotateLeft (y.toNat % 64))

/-- ROR: R134. -/
def execRor (d : SReg) (b : SReg) (c : SReg) (s : State) : Out3 :=
  s.scalar2 d b c (fun x y => x.rotateRight (y.toNat % 64))

/-- Bits [pos + len − 1 : pos] replaced by the low bits of a value (R135). -/
def insBits (old v : Word) (pos len : Nat) : Word :=
  let m : Word := BitVec.ofNat 64 (2 ^ len - 1) <<< pos
  (old &&& ~~~m) ||| ((v <<< pos) &&& m)

/-- EXT: R135. -/
def execExt (d : SReg) (b : SReg) (pos : BitVec 6) (lenM1 : BitVec 6) (s : State) : Out3 :=
  s.scalar1 d b (fun x => BitVec.ofInt 64 (intOf (lenM1.toNat + 1) true (x.toNat / 2 ^ pos.toNat)))

/-- EXTU: R135. -/
def execExtu (d : SReg) (b : SReg) (pos : BitVec 6) (lenM1 : BitVec 6) (s : State) : Out3 :=
  s.scalar1 d b (fun x => BitVec.ofNat 64 (x.toNat / 2 ^ pos.toNat % 2 ^ (lenM1.toNat + 1)))

/-- INS: R135; sD is a third source. -/
def execIns (d : SReg) (b : SReg) (pos : BitVec 6) (lenM1 : BitVec 6) (s : State) : Out3 :=
  s.scalar [b, d] d (fun s1 => insBits (s1.rs d) (s1.rs b) pos.toNat (lenM1.toNat + 1))

/-- LI: R136. -/
def execLi (d : SReg) (imm : BitVec 11) (s : State) : Out3 :=
  s.scalar [] d (fun _ => imm.signExtend 64)

/-- LI_W: R136. -/
def execLiW (d : SReg) (imm : BitVec 16) (s : State) : Out3 :=
  s.scalar [] d (fun _ => imm.signExtend 64)

/-- LI_X0: R136. -/
def execLiX0 (d : SReg) (imm : BitVec 48) (s : State) : Out3 :=
  s.scalar [] d (fun _ => imm.signExtend 64)

/-- LI_Z: R136. -/
def execLiZ (d : SReg) (imm : BitVec 11) (s : State) : Out3 :=
  s.scalar [] d (fun _ => imm.zeroExtend 64)

/-- LI_Z_W: R136. -/
def execLiZW (d : SReg) (imm : BitVec 16) (s : State) : Out3 :=
  s.scalar [] d (fun _ => imm.zeroExtend 64)

/-- LI_Z_X0: R136. -/
def execLiZX0 (d : SReg) (imm : BitVec 48) (s : State) : Out3 :=
  s.scalar [] d (fun _ => imm.zeroExtend 64)

/-- LIH: R136; sD is a source. -/
def execLih (d : SReg) (imm : BitVec 16) (s : State) : Out3 :=
  s.scalar [d] d (fun s1 => imm ++ (s1.rs d).extractLsb' 0 48)

/-- LEA: R137. -/
def execLea (d : SReg) (b : SReg) (imm : BitVec 11) (s : State) : Out3 :=
  s.scalar1 d b (fun x => x + sx11 imm)

/-- LEA_W: R137. -/
def execLeaW (d : SReg) (b : SReg) (imm : BitVec 16) (s : State) : Out3 :=
  s.scalar1 d b (fun x => x + sx16 imm)

/-- LEA_X1: R137. -/
def execLeaX1 (n : BitVec 2) (d : SReg) (b : SReg) (c : SReg) (imm : BitVec 33) (s : State) : Out3 :=
  s.scalar2 d b c (fun x y => x + (y <<< n.toNat) + imm.signExtend 64)

/-- MOV: R138. -/
def execMov (d : SReg) (b : SReg) (s : State) : Out3 :=
  s.scalar1 d b (fun x => x)

/-- SEL: R138; all three sources are read. -/
def execSel (d : SReg) (b : SReg) (c : SReg) (k : SReg) (s : State) : Out3 :=
  s.scalar [b, c, k] d (fun s1 => if s1.rs k != 0 then s1.rs b else s1.rs c)

end Sys2Proof.Machine
end

