-- ==== Sys2Proof/Machine/Vector.lean ====
section
/-!
DEFINITION. Majors 0x20 to 0x27: vector arithmetic, comparison, permutation, reduction, conversion and special functions
(16 R236 to R257).
-/

namespace Sys2Proof.Machine

/-! ### Shared operations -/

/-- The mode of a rounding field for the issuing thread (R73). -/
def State.mode (s : State) (rm : BitVec 3) : RM := RM.field rm s.me.cr.frm

/-- Format and element width of a floating type field (R236). -/
def tFmt (t : BitVec 2) : FFmt := FFmt.of (7 - t.setWidth 4)

def tBits (t : BitVec 2) : Nat := if t == 0 then 32 else 16

/-- The flags that enabled elements raise (R243). -/
def flagsOf (es : List (Bool × FR)) : Flags := es.foldl (fun fl p => if p.1 then fl ||| p.2.fl else fl) 0

/-- What a vector instruction of w-bit elements computes from the state it reads: one result for each element number below n. -/
abbrev ElemFn := State → Nat → FR

/-- A vector instruction with a vector destination: ports, results of the n elements, numeric trap, the write under the mask field
(R106, R239, R243). -/
def State.vector (s : State) (d : VReg) (srcs : List SReg) (vsrcs : List VReg) (mk : BitVec 4) (w : Nat) (f : ElemFn) : Out3 :=
  ((s.ports srcs [] vsrcs [d]).bind fun _ s1 =>
    let g := f s1
    let es := (List.range (512 / w)).map (fun e => (s1.enabled mk e, g e))
    (s1.raise (flagsOf es)).bind fun _ s2 =>
      let old := s2.me.oldV d
      let v := packElems w (es.zipIdx.map (fun p => if p.1.1 || mkFill mk then p.1.2.bits else elem w old p.2))
      .ok () (((s2.pops srcs vsrcs).wv d v).retire)).finish

/-- A vector instruction whose enabled elements are only some: those that at lists, as destination numbers, in order of the
conversions or insertions; every other element keeps its old value (R239). -/
def State.vectorAt (s : State) (d : VReg) (srcs : List SReg) (vsrcs : List VReg) (mk : BitVec 4) (w n : Nat) (mbit dest : State → Nat → Nat)
    (f : ElemFn) : Out3 :=
  ((s.ports srcs [] vsrcs [d]).bind fun _ s1 =>
    let g := f s1
    let es := (List.range n).map (fun j => (s1.enabled mk (mbit s1 j), g j))
    let ts := (List.range n).map (dest s1)
    (s1.raise (flagsOf es)).bind fun _ s2 =>
      let old := s2.me.oldV d
      let v := packElems w ((List.range (512 / w)).map (fun e =>
        match (ts.zip es).find? (fun p => p.1 == e) with
        | some p => if p.2.1 || mkFill mk then p.2.2.bits else elem w old e
        | none => elem w old e))
      .ok () (((s2.pops srcs vsrcs).wv d v).retire)).finish

/-- A vector instruction that writes a bit vector (R250): bit e for element e, zero from n on. -/
def State.vectorBits (s : State) (d : VReg) (srcs : List SReg) (vsrcs : List VReg) (mk : BitVec 4) (n : Nat) (f : ElemFn) : Out3 :=
  ((s.ports srcs [] vsrcs [d]).bind fun _ s1 =>
    let g := f s1
    let es := (List.range n).map (fun e => (s1.enabled mk e, g e))
    (s1.raise (flagsOf es)).bind fun _ s2 =>
      let old := s2.me.oldV d
      let v := packElems 1 (es.zipIdx.map (fun p => if p.1.1 || mkFill mk then p.1.2.bits else elem 1 old p.2))
      .ok () (((s2.pops srcs vsrcs).wv d v).retire)).finish

/-- A vector instruction that writes a scalar register (R252, R253). -/
def State.vectorS (s : State) (d : SReg) (srcs : List SReg) (vsrcs : List VReg) (f : State → FR) : Out3 :=
  ((s.ports srcs [d] vsrcs []).bind fun _ s1 =>
    let r := f s1
    (s1.raise r.fl).bind fun _ s2 => .ok () (((s2.pops srcs vsrcs).ws d (BitVec.ofNat 64 r.bits)).retire)).finish

/-- The scalar and vector sources of a field C that Z may turn into a scalar (R238). -/
def zSrcs (c : BitVec 5) (z : BitVec 1) : List SReg := if z == 1 then [c] else []

def zVsrcs (b c : BitVec 5) (z : BitVec 1) : List VReg := if z == 1 then [b] else [b, c]

/-- The elements of field C (R238). -/
def State.elemsC (s : State) (c : BitVec 5) (z : BitVec 1) (w : Nat) : Nat → Nat :=
  if z == 1 then
    let v := (s.rs c).toNat % 2 ^ w
    fun _ => v
  else
    let v := s.rv c
    fun e => elem w v e

/-- Two operands, integer elements. -/
def State.vbin (s : State) (d b c : BitVec 5) (z : BitVec 1) (mk : BitVec 4) (t : BitVec 2) (f : Nat → Nat → Nat → FR) : Out3 :=
  let w := ewBits t
  s.vector d (zSrcs c z) (zVsrcs b c z) mk w (fun s1 =>
    let x := s1.rv b
    let y := s1.elemsC c z w
    fun e => f w (elem w x e) (y e))

/-- Two operands, floating elements. -/
def State.vbinF (s : State) (d b c : BitVec 5) (z : BitVec 1) (mk : BitVec 4) (t : BitVec 2) (rm : BitVec 3)
    (f : FFmt → RM → Nat → Nat → FR) : Out3 :=
  let w := tBits t
  s.vector d (zSrcs c z) (zVsrcs b c z) mk w (fun s1 =>
    let x := s1.rv b
    let y := s1.elemsC c z w
    let m := s1.mode rm
    fun e => f (tFmt t) m (elem w x e) (y e))

/-- One operand, floating elements. -/
def State.vunF (s : State) (d b : VReg) (mk : BitVec 4) (t : BitVec 2) (rm : BitVec 3) (f : FFmt → RM → Nat → FR) : Out3 :=
  let w := tBits t
  s.vector d [] [b] mk w (fun s1 =>
    let x := s1.rv b
    let m := s1.mode rm
    fun e => f (tFmt t) m (elem w x e))

/-- Clamping under a SAT code (R246): the exact signed result under 1, the exact unsigned one under 2, the wrapped one under 0. -/
def satElem (w : Nat) (sat : BitVec 2) (signed unsigned : Int) : FR :=
  match sat.toNat with
  | 1 => clampInt w true signed
  | 2 => clampInt w false unsigned
  | _ => ⟨ofInt w signed, 0⟩

/-- The exact results of two elements read as signed and as unsigned, clamped. -/
def satBin (sat : BitVec 2) (f : Int → Int → Int) (w a c : Nat) : FR := satElem w sat (f (intOf w true a) (intOf w true c)) (f a c)

/-- A result of w bits without flags. -/
def plain (w : Nat) (v : Int) : FR := ⟨ofInt w v, 0⟩

/-- Results of R245 that take no SAT. -/
def vMulh (w a c : Nat) : FR := plain w (intOf w true a * intOf w true c / 2 ^ w)

def vMulhu (w a c : Nat) : FR := plain w ((a * c / 2 ^ w : Nat) : Int)

def vMin (w a c : Nat) : FR := ⟨if intOf w true a ≤ intOf w true c then a else c, 0⟩

def vMax (w a c : Nat) : FR := ⟨if intOf w true a ≤ intOf w true c then c else a, 0⟩

def vMinu (_ a c : Nat) : FR := ⟨min a c, 0⟩

def vMaxu (_ a c : Nat) : FR := ⟨max a c, 0⟩

def vShl (w a c : Nat) : FR := plain w ((a * 2 ^ (c % w) : Nat) : Int)

def vShr (w a c : Nat) : FR := ⟨a / 2 ^ (c % w), 0⟩

def vSar (w a c : Nat) : FR := plain w (intOf w true a / 2 ^ (c % w))

/-- Binary floating operations on encodings. -/
def FFmt.addB (F : FFmt) (m : RM) (a c : Nat) : FR := F.addV m (F.decode a) (F.decode c)

def FFmt.subB (F : FFmt) (m : RM) (a c : Nat) : FR := F.addV m (F.decode a) (F.decode c).neg

def FFmt.mulB (F : FFmt) (m : RM) (a c : Nat) : FR := F.mulV m (F.decode a) (F.decode c)

def FFmt.divB (F : FFmt) (m : RM) (a c : Nat) : FR := F.divV m (F.decode a) (F.decode c)

/-- VFNEG and VFABS (R247): the canonical NaN for a NaN, otherwise a change of the sign bit; no flag. -/
def FFmt.signB (F : FFmt) (clear : Bool) (a : Nat) : FR :=
  if (F.decode a).isNan then ⟨F.nan, 0⟩
  else
    let m := a % 2 ^ (F.e + F.m)
    if clear || decide (m < a) then ⟨m, 0⟩ else ⟨m + F.signBit true, 0⟩

/-- The fused forms (R248); np and na change the signs of the product and of the addend. The addend is a source: where it is v15 under an enabled vector port it
is popped. DESIGN CHOICE: log entry 66. -/
def State.vfused (s : State) (d b c e_ : VReg) (z : BitVec 1) (mk : BitVec 4) (t : BitVec 2) (rm : BitVec 3) (np na : Bool) : Out3 :=
  let w := tBits t
  let r := if z == 1 then e_ else d
  s.vector d [] [b, c, r] mk w (fun s1 =>
    let x := s1.rv b
    let y := s1.rv c
    let a := s1.rv r
    let m := s1.mode rm
    let F := tFmt t
    fun e =>
      let p := F.decode (elem w x e)
      let q := F.decode (elem w a e)
      F.fmaV m (if np then p.neg else p) (F.decode (elem w y e)) (if na then q.neg else q))

/-- VMAC (R249). The accumulator is a source, as the addend of the fused forms. DESIGN CHOICE: log entry 66. -/
def State.vmacc (s : State) (d b c e_ : VReg) (z : BitVec 1) (mk : BitVec 4) (t sat : BitVec 2) : Out3 :=
  let w := ewBits t
  let r := if z == 1 then e_ else d
  s.vector d [] [b, c, r] mk w (fun s1 =>
    let x := s1.rv b
    let y := s1.rv c
    let a := s1.rv r
    fun e =>
      let exact (signed : Bool) : Int := intOf w signed (elem w a e) + intOf w signed (elem w x e) * intOf w signed (elem w y e)
      satElem w sat (exact true) (exact false))

/-- VDOT and VDOTU (R249): one result for each 32-bit lane. The accumulator is a source, as the addend of the fused forms. DESIGN CHOICE: log entry 66. -/
def State.vdots (s : State) (d b c e_ : VReg) (z : BitVec 1) (mk : BitVec 4) (t sat : BitVec 2) (signed : Bool) : Out3 :=
  let w := ewBits t
  let k := 32 / w
  let r := if z == 1 then e_ else d
  s.vector d [] [b, c, r] mk 32 (fun s1 =>
    let x := s1.rv b
    let y := s1.rv c
    let a := s1.rv r
    fun l =>
      let sum := (List.range k).foldl (fun (n : Int) i => n + intOf w signed (elem w x (k * l + i)) * intOf w signed (elem w y (k * l + i)))
        (intOf 32 signed (elem 32 a l))
      satElem 32 sat sum sum)

/-- Compares of integer elements. -/
def State.vcmp (s : State) (d b c : BitVec 5) (z : BitVec 1) (mk : BitVec 4) (t : BitVec 2) (signed : Bool) (f : Int → Int → Bool) : Out3 :=
  let w := ewBits t
  s.vectorBits d (zSrcs c z) (zVsrcs b c z) mk (512 / w) (fun s1 =>
    let x := s1.rv b
    let y := s1.elemsC c z w
    fun e => ⟨if f (intOf w signed (elem w x e)) (intOf w signed (y e)) then 1 else 0, 0⟩)

/-- Compares of floating elements: the relation of two numbers, its value when unordered, and whether a quiet NaN raises NV. -/
def State.vcmpF (s : State) (d b c : BitVec 5) (z : BitVec 1) (mk : BitVec 4) (t : BitVec 2) (f : Int → Bool) (unord quietNv : Bool) : Out3 :=
  let w := tBits t
  let F := tFmt t
  s.vectorBits d (zSrcs c z) (zVsrcs b c z) mk (512 / w) (fun s1 =>
    let x := s1.rv b
    let y := s1.elemsC c z w
    fun e =>
      let p := F.decode (elem w x e)
      let q := F.decode (y e)
      if p.isNan || q.isNan then ⟨if unord then 1 else 0, if quietNv then flNV else p.snan ||| q.snan⟩
      else ⟨if f (p.cmp q) then 1 else 0, 0⟩)

/-- Moves of elements (R251): element e of the result from source b. -/
def State.vmoves (s : State) (d b : VReg) (srcs : List SReg) (vs : List VReg) (mk : BitVec 4) (t : BitVec 2)
    (f : State → Nat → (Nat → Nat) → Nat → Nat) : Out3 :=
  let w := ewBits t
  s.vector d srcs (b :: vs) mk w (fun s1 =>
    let x := s1.rv b
    let g := f s1 w (elem w x)
    fun e => ⟨g e, 0⟩)

/-- VBCAST (R251). -/
def State.vbroadcast (s : State) (d : VReg) (c : SReg) (mk : BitVec 4) (t : BitVec 2) : Out3 :=
  let w := ewBits t
  s.vector d [c] [] mk w (fun s1 =>
    let v := (s1.rs c).toNat % 2 ^ w
    fun _ => ⟨v, 0⟩)

/-- Slides toward element 0 and away from it (R251). -/
def slideDown (c : SReg) (s : State) (w : Nat) (x : Nat → Nat) : Nat → Nat :=
  let k := (s.rs c).toNat
  fun e => if e + k < 512 / w then x (e + k) else 0

def slideUp (c : SReg) (s : State) (_ : Nat) (x : Nat → Nat) : Nat → Nat :=
  let k := (s.rs c).toNat
  fun e => if k ≤ e then x (e - k) else 0

/-- VPERM (R251). -/
def permute (c : VReg) (s : State) (w : Nat) (x : Nat → Nat) : Nat → Nat :=
  let y := s.rv c
  fun e =>
    let j := elem w y e
    if j < 512 / w then x j else 0

/-- VINS (R251). -/
def State.vinsert (s : State) (d : VReg) (b c : SReg) (mk : BitVec 4) (t : BitVec 2) : Out3 :=
  let w := ewBits t
  let i (s1 : State) (_ : Nat) : Nat := (s1.rs b).toNat % (512 / w)
  s.vectorAt d [b, c] [] mk w 1 i i (fun s1 =>
    let v := (s1.rs c).toNat % 2 ^ w
    fun _ => ⟨v, 0⟩)

/-- VEXT (R251). -/
def State.vextract (s : State) (d : SReg) (b : VReg) (c : SReg) (t : BitVec 2) : Out3 :=
  let w := ewBits t
  s.vectorS d [c] [b] (fun s1 => plain 64 (intOf w true (elem w (s1.rv b) ((s1.rs c).toNat % (512 / w)))))

/-! ### Reductions (R252, R253) -/

/-- The enabled elements of a vector. -/
def State.enabledVals (s : State) (b : VReg) (mk : BitVec 4) (w : Nat) : List Nat :=
  let x := s.rv b
  (s.enabledElems mk (512 / w)).map (elem w x)

/-- An integer reduction over the enabled elements, read as signed or not, from a start value. -/
def State.vreduce (s : State) (d : SReg) (b : VReg) (mk : BitVec 4) (t : BitVec 2) (signed : Bool) (start : Nat → Int)
    (f : Int → Int → Int) : Out3 :=
  let w := ewBits t
  s.vectorS d [] [b] (fun s1 => plain 64 (((s1.enabledVals b mk w).map (intOf w signed)).foldl f (start w)))

/-- VRPOPC (R252). -/
def State.vpopc (s : State) (d : SReg) (b : VReg) (mk : BitVec 4) (t : BitVec 2) : Out3 :=
  s.vectorS d [] [b] (fun s1 =>
    let x := s1.rv b
    ⟨((s1.enabledElems mk (512 / ewBits t)).filter (fun e => x.getLsbD e)).length, 0⟩)

/-- An element converted exactly to FP32 (R253): a NaN becomes the canonical one, and a signalling one raises NV (R66, R75). -/
def toFp32 (t : BitVec 2) (a : Nat) : FR := fp32.convV .rne false ((tFmt t).decode a)

/-- One level of the fixed tree (R253): absent elements pass the other through. -/
def treeLevel (f : Nat → Nat → FR) : List (Option Nat) → List (Option Nat) × Flags
  | some p :: some q :: xs =>
    let r := f p q
    let l := treeLevel f xs
    (some r.bits :: l.1, r.fl ||| l.2)
  | p :: q :: xs =>
    let l := treeLevel f xs
    (p.or q :: l.1, l.2)
  | xs => (xs, 0)

/-- The levels of the tree, as many as fuel. -/
def tree (f : Nat → Nat → FR) : (fuel : Nat) → List (Option Nat) → List (Option Nat) × Flags
  | 0, xs => (xs, 0)
  | n + 1, xs =>
    let l := treeLevel f xs
    let r := tree f n l.1
    (r.1, l.2 ||| r.2)

/-- A floating reduction by the tree, or the value given where no element is enabled. -/
def State.vreduceF (s : State) (d : SReg) (b : VReg) (mk : BitVec 4) (t : BitVec 2) (rm : BitVec 3) (none_ : Nat)
    (f : RM → Nat → Nat → FR) : Out3 :=
  let w := tBits t
  s.vectorS d [] [b] (fun s1 =>
    let x := s1.rv b
    let es := (List.range (512 / w)).map (fun e => if s1.enabled mk e then some (toFp32 t (elem w x e)) else none)
    let fl := es.foldl (fun (fl : Flags) r => match r with
      | some r => fl ||| r.fl
      | none => fl) 0
    let r := tree (f (s1.mode rm)) 5 (es.map (·.map (·.bits)))
    ⟨(r.1.headD none).getD none_, fl ||| r.2⟩)

/-- VRFSUMO (R253). -/
def State.vsumOrdered (s : State) (d : SReg) (b : VReg) (c : SReg) (mk : BitVec 4) (t : BitVec 2) (rm : BitVec 3) : Out3 :=
  let w := tBits t
  s.vectorS d [c] [b] (fun s1 =>
    let m := s1.mode rm
    (s1.enabledVals b mk w).foldl (fun (acc : FR) a =>
      let x := toFp32 t a
      let r := fp32.addB m acc.bits x.bits
      ⟨r.bits, acc.fl ||| x.fl ||| r.fl⟩) ⟨(s1.rs c).toNat % 2 ^ 32, 0⟩)

/-! ### Conversions (R254 to R256) -/

/-- VCVT (R254, R255). -/
def State.vconvert (s : State) (d b : VReg) (p : Nat) (r : VReg) (mk fs fd : BitVec 4) (rm : BitVec 3) (sat : BitVec 1) : Out3 :=
  let wS := fmtContainer fs
  let wD := fmtContainer fd
  let n := 512 / max wS wD
  let src (j : Nat) : Nat := if wS < wD then p * n + j else j
  let dst (j : Nat) : Nat := if wD < wS then p * n + j else j
  s.vectorAt d [] (if rm == 4 then [b, r] else [b]) mk wD n (fun _ j => j) (fun _ j => dst j) (fun s1 =>
    let x := s1.rv b
    let y := s1.rv r
    let m := s1.mode rm
    fun j =>
      let i := src j
      convert fs fd (if rm == 4 then .sr (elem 16 y (i % 32)) else m) (sat == 1) (elem wS x i))

/-- VFTOI and VFTOIU (R256). -/
def State.vfromFp (s : State) (d b : VReg) (mk : BitVec 4) (sat : BitVec 1) (signed : Bool) : Out3 :=
  s.vunF d b mk 0 7 (fun F m a => toIntV 32 signed (sat == 1) m (F.decode a))

/-- VITOF and VUTOF (R256). -/
def State.vtoFp (s : State) (d b : VReg) (mk : BitVec 4) (signed : Bool) : Out3 :=
  s.vunF d b mk 0 7 (fun F m a => F.ofIntV m false (intOf 32 signed a))

/-! ### Special functions (R257) -/

/-- e^a for a = y × 2^-320 at least 0: a number t and an exponent n, the value being t × 2^(n - 320). -/
def expOf (y : Nat) : Nat × Nat := (expFix (y % ln2Fix), y / ln2Fix)

/-- A magnitude of FP32 in units of 2^-320. -/
def fixOf (m : Nat) (e : Int) : Nat := m * 2 ^ (e + 320).toNat

/-- One of the results within one unit in the last place of an inexact value (R257): the neighbour toward zero or the one away from
it, or, just above a power of two, the value one unit of the lower binade below it. Which one is a fixed function of the function's
number and the input's bits (DESIGN CHOICE: log entry 9). -/
def nearby (fn a : Nat) (neg : Bool) (mant : Nat) (exp : Int) : FR :=
  let down := fp32.round .rtz false neg mant exp
  let up := fp32.round (if neg then .rdn else .rup) false neg mant exp
  let m := down.bits % 2 ^ 31
  let q : Int := exp + Nat.log2 mant - 24
  let low := m % 2 ^ 23 == 0 && decide (2 ^ 23 < m) && (roundAt .rtz neg mant exp q).1 % 2 ^ 24 == 0
  match Config.ulpChoice (fn * 2 ^ 32 + a) with
  | 0 => down
  | 1 => up
  | _ => if low then ⟨down.bits - 1, flNX⟩ else down

/-- VTANH (R257). -/
def tanhB (a : Nat) : FR :=
  match fp32.decode a with
  | .nan sn => fp32.qnan (if sn then flNV else 0)
  | .inf n => ⟨fp32.signBit n + 0x3F800000, 0⟩
  | .fin n m e =>
    if m = 0 then ⟨fp32.signBit n, 0⟩
    else
      let k := e + Nat.log2 m
      if k < -40 then nearby 0 a n (m * 2 ^ 80 - 1) (e - 80)
      else if 5 < k then nearby 0 a n (2 ^ 80 - 1) (-80)
      else
        let t := expOf (2 * fixOf m e)
        let q := quotBits (t.1 * 2 ^ t.2 - 2 ^ 320) (t.1 * 2 ^ t.2 + 2 ^ 320)
        nearby 0 a n q.1 q.2

/-- VSIG (R257). -/
def sigB (a : Nat) : FR :=
  match fp32.decode a with
  | .nan sn => fp32.qnan (if sn then flNV else 0)
  | .inf n => ⟨if n then 0 else 0x3F800000, 0⟩
  | .fin n m e =>
    if m = 0 then ⟨0x3F000000, 0⟩
    else if 7 < e + Nat.log2 m then (if n then nearby 1 a false 1 (-400) else nearby 1 a false (2 ^ 80 - 1) (-80))
    else
      let t := expOf (fixOf m e)
      let big := t.1 * 2 ^ t.2
      let q := quotBits (if n then 2 ^ 320 else big) (big + 2 ^ 320)
      nearby 1 a false q.1 q.2

/-- VEXP (R257). -/
def expB (a : Nat) : FR :=
  match fp32.decode a with
  | .nan sn => fp32.qnan (if sn then flNV else 0)
  | .inf n => if n then ⟨0, 0⟩ else ⟨fp32.inf false, 0⟩
  | .fin n m e =>
    if m = 0 then ⟨0x3F800000, 0⟩
    else if 7 < e + Nat.log2 m then (if n then nearby 2 a false 1 (-400) else nearby 2 a false 3 400)
    else
      let t := expOf (fixOf m e)
      if n then nearby 2 a false (2 * (2 ^ 640 / t.1) + 1) (-(t.2 : Int) - 321) else nearby 2 a false (2 * t.1 + 1) ((t.2 : Int) - 321)

/-! ### Major 0x20 -/

/-- VADD in form M: R245. -/
def execVadd (d : VReg) (b : VReg) (c : VReg) (mk : BitVec 4) (t : BitVec 2) (s : State) : Out3 :=
  s.vbin d b c 0 mk t (satBin 0 (· + ·))

/-- VSUB in form M: R245. -/
def execVsub (d : VReg) (b : VReg) (c : VReg) (mk : BitVec 4) (t : BitVec 2) (s : State) : Out3 :=
  s.vbin d b c 0 mk t (satBin 0 (· - ·))

/-- VMUL in form M: R245. -/
def execVmul (d : VReg) (b : VReg) (c : VReg) (mk : BitVec 4) (t : BitVec 2) (s : State) : Out3 :=
  s.vbin d b c 0 mk t (satBin 0 (· * ·))

/-- VMULH in form M: R245. -/
def execVmulh (d : VReg) (b : VReg) (c : VReg) (mk : BitVec 4) (t : BitVec 2) (s : State) : Out3 :=
  s.vbin d b c 0 mk t (vMulh)

/-- VMIN in form M: R245. -/
def execVmin (d : VReg) (b : VReg) (c : VReg) (mk : BitVec 4) (t : BitVec 2) (s : State) : Out3 :=
  s.vbin d b c 0 mk t (vMin)

/-- VMAX in form M: R245. -/
def execVmax (d : VReg) (b : VReg) (c : VReg) (mk : BitVec 4) (t : BitVec 2) (s : State) : Out3 :=
  s.vbin d b c 0 mk t (vMax)

/-- VMINU in form M: R245. -/
def execVminu (d : VReg) (b : VReg) (c : VReg) (mk : BitVec 4) (t : BitVec 2) (s : State) : Out3 :=
  s.vbin d b c 0 mk t (vMinu)

/-- VMAXU in form M: R245. -/
def execVmaxu (d : VReg) (b : VReg) (c : VReg) (mk : BitVec 4) (t : BitVec 2) (s : State) : Out3 :=
  s.vbin d b c 0 mk t (vMaxu)

/-- VADD in form W: R245, R246. -/
def execVaddW (d : VReg) (b : VReg) (c : VReg) (z : BitVec 1) (mk : BitVec 4) (t : BitVec 2) (sat : BitVec 2) (s : State) : Out3 :=
  s.vbin d b c z mk t (satBin sat (· + ·))

/-- VSUB in form W: R245, R246. -/
def execVsubW (d : VReg) (b : VReg) (c : VReg) (z : BitVec 1) (mk : BitVec 4) (t : BitVec 2) (sat : BitVec 2) (s : State) : Out3 :=
  s.vbin d b c z mk t (satBin sat (· - ·))

/-- VMUL in form W: R245, R246. -/
def execVmulW (d : VReg) (b : VReg) (c : VReg) (z : BitVec 1) (mk : BitVec 4) (t : BitVec 2) (sat : BitVec 2) (s : State) : Out3 :=
  s.vbin d b c z mk t (satBin sat (· * ·))

/-- VMULH in form W: R245. -/
def execVmulhW (d : VReg) (b : VReg) (c : VReg) (z : BitVec 1) (mk : BitVec 4) (t : BitVec 2) (s : State) : Out3 :=
  s.vbin d b c z mk t (vMulh)

/-- VMIN in form W: R245. -/
def execVminW (d : VReg) (b : VReg) (c : VReg) (z : BitVec 1) (mk : BitVec 4) (t : BitVec 2) (s : State) : Out3 :=
  s.vbin d b c z mk t (vMin)

/-- VMAX in form W: R245. -/
def execVmaxW (d : VReg) (b : VReg) (c : VReg) (z : BitVec 1) (mk : BitVec 4) (t : BitVec 2) (s : State) : Out3 :=
  s.vbin d b c z mk t (vMax)

/-- VMINU in form W: R245. -/
def execVminuW (d : VReg) (b : VReg) (c : VReg) (z : BitVec 1) (mk : BitVec 4) (t : BitVec 2) (s : State) : Out3 :=
  s.vbin d b c z mk t (vMinu)

/-- VMAXU in form W: R245. -/
def execVmaxuW (d : VReg) (b : VReg) (c : VReg) (z : BitVec 1) (mk : BitVec 4) (t : BitVec 2) (s : State) : Out3 :=
  s.vbin d b c z mk t (vMaxu)

/-- VAND: R245. -/
def execVand (d : VReg) (b : VReg) (c : VReg) (z : BitVec 1) (mk : BitVec 4) (t : BitVec 2) (s : State) : Out3 :=
  s.vbin d b c z mk t (fun _ x y => ⟨x &&& y, 0⟩)

/-- VOR: R245. -/
def execVor (d : VReg) (b : VReg) (c : VReg) (z : BitVec 1) (mk : BitVec 4) (t : BitVec 2) (s : State) : Out3 :=
  s.vbin d b c z mk t (fun _ x y => ⟨x ||| y, 0⟩)

/-- VXOR: R245. -/
def execVxor (d : VReg) (b : VReg) (c : VReg) (z : BitVec 1) (mk : BitVec 4) (t : BitVec 2) (s : State) : Out3 :=
  s.vbin d b c z mk t (fun _ x y => ⟨x ^^^ y, 0⟩)

/-- VSLL: R245. -/
def execVsll (d : VReg) (b : VReg) (c : VReg) (z : BitVec 1) (mk : BitVec 4) (t : BitVec 2) (s : State) : Out3 :=
  s.vbin d b c z mk t (vShl)

/-- VSRL: R245. -/
def execVsrl (d : VReg) (b : VReg) (c : VReg) (z : BitVec 1) (mk : BitVec 4) (t : BitVec 2) (s : State) : Out3 :=
  s.vbin d b c z mk t (vShr)

/-- VSRA: R245. -/
def execVsra (d : VReg) (b : VReg) (c : VReg) (z : BitVec 1) (mk : BitVec 4) (t : BitVec 2) (s : State) : Out3 :=
  s.vbin d b c z mk t (vSar)

/-- VMULHU: R245. -/
def execVmulhu (d : VReg) (b : VReg) (c : VReg) (z : BitVec 1) (mk : BitVec 4) (t : BitVec 2) (s : State) : Out3 :=
  s.vbin d b c z mk t (vMulhu)

/-- VABS: R245, R246; SAT 2 is refused by the decoder. -/
def execVabs (d : VReg) (b : VReg) (mk : BitVec 4) (t : BitVec 2) (sat : BitVec 2) (s : State) : Out3 :=
  let w := ewBits t
  s.vector d [] [b] mk w (fun s1 =>
    let x := s1.rv b
    fun e =>
      let v : Int := (intOf w true (elem w x e)).natAbs
      satElem w sat v v)

/-! ### Major 0x21 -/

/-- VFADD in form M, under c.frm: R247. -/
def execVfadd (d : VReg) (b : VReg) (c : VReg) (mk : BitVec 4) (t : BitVec 2) (s : State) : Out3 :=
  s.vbinF d b c 0 mk t 7 (fun F m => F.addB m)

/-- VFSUB in form M, under c.frm: R247. -/
def execVfsub (d : VReg) (b : VReg) (c : VReg) (mk : BitVec 4) (t : BitVec 2) (s : State) : Out3 :=
  s.vbinF d b c 0 mk t 7 (fun F m => F.subB m)

/-- VFMUL in form M, under c.frm: R247. -/
def execVfmul (d : VReg) (b : VReg) (c : VReg) (mk : BitVec 4) (t : BitVec 2) (s : State) : Out3 :=
  s.vbinF d b c 0 mk t 7 (fun F m => F.mulB m)

/-- VFDIV in form M, under c.frm: R247. -/
def execVfdiv (d : VReg) (b : VReg) (c : VReg) (mk : BitVec 4) (t : BitVec 2) (s : State) : Out3 :=
  s.vbinF d b c 0 mk t 7 (fun F m => F.divB m)

/-- VFMIN in form M, under c.frm: R247. -/
def execVfmin (d : VReg) (b : VReg) (c : VReg) (mk : BitVec 4) (t : BitVec 2) (s : State) : Out3 :=
  s.vbinF d b c 0 mk t 7 (fun F _ => F.minmax false)

/-- VFMAX in form M, under c.frm: R247. -/
def execVfmax (d : VReg) (b : VReg) (c : VReg) (mk : BitVec 4) (t : BitVec 2) (s : State) : Out3 :=
  s.vbinF d b c 0 mk t 7 (fun F _ => F.minmax true)

/-- VFSQRT in form M, under c.frm: R247. -/
def execVfsqrt (d : VReg) (b : VReg) (mk : BitVec 4) (t : BitVec 2) (s : State) : Out3 :=
  s.vunF d b mk t 7 (fun F m a => F.sqrtV m (F.decode a))

/-- VFADD in form W: R247. -/
def execVfaddW (d : VReg) (b : VReg) (c : VReg) (z : BitVec 1) (mk : BitVec 4) (t : BitVec 2) (rm : BitVec 3) (s : State) : Out3 :=
  s.vbinF d b c z mk t rm (fun F m => F.addB m)

/-- VFSUB in form W: R247. -/
def execVfsubW (d : VReg) (b : VReg) (c : VReg) (z : BitVec 1) (mk : BitVec 4) (t : BitVec 2) (rm : BitVec 3) (s : State) : Out3 :=
  s.vbinF d b c z mk t rm (fun F m => F.subB m)

/-- VFMUL in form W: R247. -/
def execVfmulW (d : VReg) (b : VReg) (c : VReg) (z : BitVec 1) (mk : BitVec 4) (t : BitVec 2) (rm : BitVec 3) (s : State) : Out3 :=
  s.vbinF d b c z mk t rm (fun F m => F.mulB m)

/-- VFDIV in form W: R247. -/
def execVfdivW (d : VReg) (b : VReg) (c : VReg) (z : BitVec 1) (mk : BitVec 4) (t : BitVec 2) (rm : BitVec 3) (s : State) : Out3 :=
  s.vbinF d b c z mk t rm (fun F m => F.divB m)

/-- VFMIN in form W: R247. -/
def execVfminW (d : VReg) (b : VReg) (c : VReg) (z : BitVec 1) (mk : BitVec 4) (t : BitVec 2) (rm : BitVec 3) (s : State) : Out3 :=
  s.vbinF d b c z mk t rm (fun F _ => F.minmax false)

/-- VFMAX in form W: R247. -/
def execVfmaxW (d : VReg) (b : VReg) (c : VReg) (z : BitVec 1) (mk : BitVec 4) (t : BitVec 2) (rm : BitVec 3) (s : State) : Out3 :=
  s.vbinF d b c z mk t rm (fun F _ => F.minmax true)

/-- VFSQRT in form W: R247. -/
def execVfsqrtW (d : VReg) (b : VReg) (mk : BitVec 4) (t : BitVec 2) (rm : BitVec 3) (s : State) : Out3 :=
  s.vunF d b mk t rm (fun F m a => F.sqrtV m (F.decode a))

/-- VFNEG: R247. -/
def execVfneg (d : VReg) (b : VReg) (mk : BitVec 4) (t : BitVec 2) (rm : BitVec 3) (s : State) : Out3 :=
  s.vunF d b mk t rm (fun F _ => F.signB false)

/-- VFABS: R247. -/
def execVfabs (d : VReg) (b : VReg) (mk : BitVec 4) (t : BitVec 2) (rm : BitVec 3) (s : State) : Out3 :=
  s.vunF d b mk t rm (fun F _ => F.signB true)

/-! ### Major 0x22 -/

/-- VFMA in form M, under c.frm: R248. -/
def execVfma (d : VReg) (b : VReg) (c : VReg) (mk : BitVec 4) (t : BitVec 2) (s : State) : Out3 :=
  s.vfused d b c 0 0 mk t 7 false false

/-- VFMS in form M, under c.frm: R248. -/
def execVfms (d : VReg) (b : VReg) (c : VReg) (mk : BitVec 4) (t : BitVec 2) (s : State) : Out3 :=
  s.vfused d b c 0 0 mk t 7 false true

/-- VFNMA in form M, under c.frm: R248. -/
def execVfnma (d : VReg) (b : VReg) (c : VReg) (mk : BitVec 4) (t : BitVec 2) (s : State) : Out3 :=
  s.vfused d b c 0 0 mk t 7 true false

/-- VFNMS in form M, under c.frm: R248. -/
def execVfnms (d : VReg) (b : VReg) (c : VReg) (mk : BitVec 4) (t : BitVec 2) (s : State) : Out3 :=
  s.vfused d b c 0 0 mk t 7 true true

/-- VMAC in form M: R249. -/
def execVmac (d : VReg) (b : VReg) (c : VReg) (mk : BitVec 4) (t : BitVec 2) (s : State) : Out3 :=
  s.vmacc d b c 0 0 mk t 0

/-- VDOT in form M: R249. -/
def execVdot (d : VReg) (b : VReg) (c : VReg) (mk : BitVec 4) (t : BitVec 2) (s : State) : Out3 :=
  s.vdots d b c 0 0 mk t 0 true

/-- VDOTU in form M: R249. -/
def execVdotu (d : VReg) (b : VReg) (c : VReg) (mk : BitVec 4) (t : BitVec 2) (s : State) : Out3 :=
  s.vdots d b c 0 0 mk t 0 false

/-- VFMA in form W: R248. -/
def execVfmaW (d : VReg) (b : VReg) (c : VReg) (e : VReg) (z : BitVec 1) (mk : BitVec 4) (t : BitVec 2) (rm : BitVec 3) (s : State) : Out3 :=
  s.vfused d b c e z mk t rm false false

/-- VFMS in form W: R248. -/
def execVfmsW (d : VReg) (b : VReg) (c : VReg) (e : VReg) (z : BitVec 1) (mk : BitVec 4) (t : BitVec 2) (rm : BitVec 3) (s : State) : Out3 :=
  s.vfused d b c e z mk t rm false true

/-- VFNMA in form W: R248. -/
def execVfnmaW (d : VReg) (b : VReg) (c : VReg) (e : VReg) (z : BitVec 1) (mk : BitVec 4) (t : BitVec 2) (rm : BitVec 3) (s : State) : Out3 :=
  s.vfused d b c e z mk t rm true false

/-- VFNMS in form W: R248. -/
def execVfnmsW (d : VReg) (b : VReg) (c : VReg) (e : VReg) (z : BitVec 1) (mk : BitVec 4) (t : BitVec 2) (rm : BitVec 3) (s : State) : Out3 :=
  s.vfused d b c e z mk t rm true true

/-- VMAC in form W: R249. -/
def execVmacW (d : VReg) (b : VReg) (c : VReg) (e : VReg) (z : BitVec 1) (mk : BitVec 4) (t : BitVec 2) (sat : BitVec 2) (s : State) : Out3 :=
  s.vmacc d b c e z mk t sat

/-- VDOT in form W: R249. -/
def execVdotW (d : VReg) (b : VReg) (c : VReg) (e : VReg) (z : BitVec 1) (mk : BitVec 4) (t : BitVec 2) (sat : BitVec 2) (s : State) : Out3 :=
  s.vdots d b c e z mk t sat true

/-- VDOTU in form W: R249. -/
def execVdotuW (d : VReg) (b : VReg) (c : VReg) (e : VReg) (z : BitVec 1) (mk : BitVec 4) (t : BitVec 2) (sat : BitVec 2) (s : State) : Out3 :=
  s.vdots d b c e z mk t sat false

/-! ### Major 0x23 -/

/-- VSEQ in form M: R250. -/
def execVseq (d : VReg) (b : VReg) (c : VReg) (mk : BitVec 4) (t : BitVec 2) (s : State) : Out3 :=
  s.vcmp d b c 0 mk t true (fun x y => x == y)

/-- VSNE in form M: R250. -/
def execVsne (d : VReg) (b : VReg) (c : VReg) (mk : BitVec 4) (t : BitVec 2) (s : State) : Out3 :=
  s.vcmp d b c 0 mk t true (fun x y => x != y)

/-- VSLT in form M: R250. -/
def execVslt (d : VReg) (b : VReg) (c : VReg) (mk : BitVec 4) (t : BitVec 2) (s : State) : Out3 :=
  s.vcmp d b c 0 mk t true (fun x y => decide (x < y))

/-- VSLE in form M: R250. -/
def execVsle (d : VReg) (b : VReg) (c : VReg) (mk : BitVec 4) (t : BitVec 2) (s : State) : Out3 :=
  s.vcmp d b c 0 mk t true (fun x y => decide (x ≤ y))

/-- VSLTU in form M: R250. -/
def execVsltu (d : VReg) (b : VReg) (c : VReg) (mk : BitVec 4) (t : BitVec 2) (s : State) : Out3 :=
  s.vcmp d b c 0 mk t false (fun x y => decide (x < y))

/-- VSLEU in form M: R250. -/
def execVsleu (d : VReg) (b : VReg) (c : VReg) (mk : BitVec 4) (t : BitVec 2) (s : State) : Out3 :=
  s.vcmp d b c 0 mk t false (fun x y => decide (x ≤ y))

/-- VSEQ in form W: R250. -/
def execVseqW (d : VReg) (b : VReg) (c : VReg) (z : BitVec 1) (mk : BitVec 4) (t : BitVec 2) (s : State) : Out3 :=
  s.vcmp d b c z mk t true (fun x y => x == y)

/-- VSNE in form W: R250. -/
def execVsneW (d : VReg) (b : VReg) (c : VReg) (z : BitVec 1) (mk : BitVec 4) (t : BitVec 2) (s : State) : Out3 :=
  s.vcmp d b c z mk t true (fun x y => x != y)

/-- VSLT in form W: R250. -/
def execVsltW (d : VReg) (b : VReg) (c : VReg) (z : BitVec 1) (mk : BitVec 4) (t : BitVec 2) (s : State) : Out3 :=
  s.vcmp d b c z mk t true (fun x y => decide (x < y))

/-- VSLE in form W: R250. -/
def execVsleW (d : VReg) (b : VReg) (c : VReg) (z : BitVec 1) (mk : BitVec 4) (t : BitVec 2) (s : State) : Out3 :=
  s.vcmp d b c z mk t true (fun x y => decide (x ≤ y))

/-- VSLTU in form W: R250. -/
def execVsltuW (d : VReg) (b : VReg) (c : VReg) (z : BitVec 1) (mk : BitVec 4) (t : BitVec 2) (s : State) : Out3 :=
  s.vcmp d b c z mk t false (fun x y => decide (x < y))

/-- VSLEU in form W: R250. -/
def execVsleuW (d : VReg) (b : VReg) (c : VReg) (z : BitVec 1) (mk : BitVec 4) (t : BitVec 2) (s : State) : Out3 :=
  s.vcmp d b c z mk t false (fun x y => decide (x ≤ y))

/-- VFEQ: R250. -/
def execVfeq (d : VReg) (b : VReg) (c : VReg) (z : BitVec 1) (mk : BitVec 4) (t : BitVec 2) (s : State) : Out3 :=
  s.vcmpF d b c z mk t (fun r => r == 0) false false

/-- VFNE: R250. -/
def execVfne (d : VReg) (b : VReg) (c : VReg) (z : BitVec 1) (mk : BitVec 4) (t : BitVec 2) (s : State) : Out3 :=
  s.vcmpF d b c z mk t (fun r => r != 0) true false

/-- VFLT: R250. -/
def execVflt (d : VReg) (b : VReg) (c : VReg) (z : BitVec 1) (mk : BitVec 4) (t : BitVec 2) (s : State) : Out3 :=
  s.vcmpF d b c z mk t (fun r => decide (r < 0)) false true

/-- VFLE: R250. -/
def execVfle (d : VReg) (b : VReg) (c : VReg) (z : BitVec 1) (mk : BitVec 4) (t : BitVec 2) (s : State) : Out3 :=
  s.vcmpF d b c z mk t (fun r => decide (r ≤ 0)) false true

/-- VFUN: R250. -/
def execVfun (d : VReg) (b : VReg) (c : VReg) (z : BitVec 1) (mk : BitVec 4) (t : BitVec 2) (s : State) : Out3 :=
  s.vcmpF d b c z mk t (fun _ => false) true false

/-! ### Major 0x24 -/

/-- VMOV in form M: R251. -/
def execVmov (d : VReg) (b : VReg) (mk : BitVec 4) (t : BitVec 2) (s : State) : Out3 :=
  s.vmoves d b [] [] mk t (fun _ _ x => x)

/-- VBCAST in form M: R251. -/
def execVbcast (d : VReg) (c : SReg) (mk : BitVec 4) (t : BitVec 2) (s : State) : Out3 :=
  s.vbroadcast d c mk t

/-- VSLDN in form M: R251. -/
def execVsldn (d : VReg) (b : VReg) (c : SReg) (mk : BitVec 4) (t : BitVec 2) (s : State) : Out3 :=
  s.vmoves d b [c] [] mk t (slideDown c)

/-- VSLUP in form M: R251. -/
def execVslup (d : VReg) (b : VReg) (c : SReg) (mk : BitVec 4) (t : BitVec 2) (s : State) : Out3 :=
  s.vmoves d b [c] [] mk t (slideUp c)

/-- VPERM in form M: R251. -/
def execVperm (d : VReg) (b : VReg) (c : VReg) (mk : BitVec 4) (t : BitVec 2) (s : State) : Out3 :=
  s.vmoves d b [] [c] mk t (permute c)

/-- VINS in form M: R251. -/
def execVins (d : VReg) (b : SReg) (c : SReg) (mk : BitVec 4) (t : BitVec 2) (s : State) : Out3 :=
  s.vinsert d b c mk t

/-- VEXT in form M: R251. -/
def execVext (d : SReg) (b : VReg) (c : SReg) (t : BitVec 2) (s : State) : Out3 :=
  s.vextract d b c t

/-- VMOV in form W: R251. -/
def execVmovW (d : VReg) (b : VReg) (mk : BitVec 4) (t : BitVec 2) (s : State) : Out3 :=
  s.vmoves d b [] [] mk t (fun _ _ x => x)

/-- VBCAST in form W: R251. -/
def execVbcastW (d : VReg) (c : SReg) (mk : BitVec 4) (t : BitVec 2) (s : State) : Out3 :=
  s.vbroadcast d c mk t

/-- VSLDN in form W: R251. -/
def execVsldnW (d : VReg) (b : VReg) (c : SReg) (mk : BitVec 4) (t : BitVec 2) (s : State) : Out3 :=
  s.vmoves d b [c] [] mk t (slideDown c)

/-- VSLUP in form W: R251. -/
def execVslupW (d : VReg) (b : VReg) (c : SReg) (mk : BitVec 4) (t : BitVec 2) (s : State) : Out3 :=
  s.vmoves d b [c] [] mk t (slideUp c)

/-- VPERM in form W: R251. -/
def execVpermW (d : VReg) (b : VReg) (c : VReg) (mk : BitVec 4) (t : BitVec 2) (s : State) : Out3 :=
  s.vmoves d b [] [c] mk t (permute c)

/-- VINS in form W: R251. -/
def execVinsW (d : VReg) (b : SReg) (c : SReg) (mk : BitVec 4) (t : BitVec 2) (s : State) : Out3 :=
  s.vinsert d b c mk t

/-- VEXT in form W: R251. -/
def execVextW (d : SReg) (b : VReg) (c : SReg) (t : BitVec 2) (s : State) : Out3 :=
  s.vextract d b c t

/-! ### Major 0x25 -/

/-- VRSUM in form M: R252. -/
def execVrsum (d : SReg) (b : VReg) (mk : BitVec 4) (t : BitVec 2) (s : State) : Out3 :=
  s.vreduce d b mk t true (fun _ => 0) (fun x y => x + y)

/-- VRMIN in form M: R252. -/
def execVrmin (d : SReg) (b : VReg) (mk : BitVec 4) (t : BitVec 2) (s : State) : Out3 :=
  s.vreduce d b mk t true (fun w => intMax w true) (fun x y => min x y)

/-- VRMAX in form M: R252. -/
def execVrmax (d : SReg) (b : VReg) (mk : BitVec 4) (t : BitVec 2) (s : State) : Out3 :=
  s.vreduce d b mk t true (fun w => intMin w true) (fun x y => max x y)

/-- VRMINU in form M: R252. -/
def execVrminu (d : SReg) (b : VReg) (mk : BitVec 4) (t : BitVec 2) (s : State) : Out3 :=
  s.vreduce d b mk t false (fun w => intMax w false) (fun x y => min x y)

/-- VRMAXU in form M: R252. -/
def execVrmaxu (d : SReg) (b : VReg) (mk : BitVec 4) (t : BitVec 2) (s : State) : Out3 :=
  s.vreduce d b mk t false (fun _ => 0) (fun x y => max x y)

/-- VRPOPC in form M: R252. -/
def execVrpopc (d : SReg) (b : VReg) (mk : BitVec 4) (t : BitVec 2) (s : State) : Out3 :=
  s.vpopc d b mk t

/-- VRSUM in form W: R252. -/
def execVrsumW (d : SReg) (b : VReg) (mk : BitVec 4) (t : BitVec 2) (s : State) : Out3 :=
  s.vreduce d b mk t true (fun _ => 0) (fun x y => x + y)

/-- VRMIN in form W: R252. -/
def execVrminW (d : SReg) (b : VReg) (mk : BitVec 4) (t : BitVec 2) (s : State) : Out3 :=
  s.vreduce d b mk t true (fun w => intMax w true) (fun x y => min x y)

/-- VRMAX in form W: R252. -/
def execVrmaxW (d : SReg) (b : VReg) (mk : BitVec 4) (t : BitVec 2) (s : State) : Out3 :=
  s.vreduce d b mk t true (fun w => intMin w true) (fun x y => max x y)

/-- VRMINU in form W: R252. -/
def execVrminuW (d : SReg) (b : VReg) (mk : BitVec 4) (t : BitVec 2) (s : State) : Out3 :=
  s.vreduce d b mk t false (fun w => intMax w false) (fun x y => min x y)

/-- VRMAXU in form W: R252. -/
def execVrmaxuW (d : SReg) (b : VReg) (mk : BitVec 4) (t : BitVec 2) (s : State) : Out3 :=
  s.vreduce d b mk t false (fun _ => 0) (fun x y => max x y)

/-- VRPOPC in form W: R252. -/
def execVrpopcW (d : SReg) (b : VReg) (mk : BitVec 4) (t : BitVec 2) (s : State) : Out3 :=
  s.vpopc d b mk t

/-- VRFSUM: R253. -/
def execVrfsum (d : SReg) (b : VReg) (mk : BitVec 4) (t : BitVec 2) (rm : BitVec 3) (s : State) : Out3 :=
  s.vreduceF d b mk t rm 0 (fun m => fp32.addB m)

/-- VRFMIN: R253. -/
def execVrfmin (d : SReg) (b : VReg) (mk : BitVec 4) (t : BitVec 2) (rm : BitVec 3) (s : State) : Out3 :=
  s.vreduceF d b mk t rm 0x7F800000 (fun _ => fp32.minmax false)

/-- VRFMAX: R253. -/
def execVrfmax (d : SReg) (b : VReg) (mk : BitVec 4) (t : BitVec 2) (rm : BitVec 3) (s : State) : Out3 :=
  s.vreduceF d b mk t rm 0xFF800000 (fun _ => fp32.minmax true)

/-- VRFSUMO: R253. -/
def execVrfsumo (d : SReg) (b : VReg) (c : SReg) (mk : BitVec 4) (t : BitVec 2) (rm : BitVec 3) (s : State) : Out3 :=
  s.vsumOrdered d b c mk t rm

/-! ### Major 0x26 -/

/-- VFTOI: R256. -/
def execVftoi (d : VReg) (b : VReg) (mk : BitVec 4) (sat : BitVec 1) (s : State) : Out3 :=
  s.vfromFp d b mk sat true

/-- VFTOIU: R256. -/
def execVftoiu (d : VReg) (b : VReg) (mk : BitVec 4) (sat : BitVec 1) (s : State) : Out3 :=
  s.vfromFp d b mk sat false

/-- VITOF: R256. -/
def execVitof (d : VReg) (b : VReg) (mk : BitVec 4) (s : State) : Out3 :=
  s.vtoFp d b mk true

/-- VUTOF: R256. -/
def execVutof (d : VReg) (b : VReg) (mk : BitVec 4) (s : State) : Out3 :=
  s.vtoFp d b mk false

/-- VCVT: R254, R255. -/
def execVcvt (d : VReg) (b : VReg) (p : BitVec 4) (r : VReg) (mk : BitVec 4) (fs : BitVec 4) (fd : BitVec 4) (rm : BitVec 3) (sat : BitVec 1) (s : State) : Out3 :=
  s.vconvert d b p.toNat r mk fs fd rm sat

/-! ### Major 0x27 -/

/-- VEXP2 in form M: R257. -/
def execVexp2 (d : VReg) (b : VReg) (mk : BitVec 4) (t : BitVec 2) (s : State) : Out3 :=
  s.vunF d b mk t 7 (fun F m a => exp2V m (F.decode a))

/-- VLOG2 in form M: R257. -/
def execVlog2 (d : VReg) (b : VReg) (mk : BitVec 4) (t : BitVec 2) (s : State) : Out3 :=
  s.vunF d b mk t 7 (fun F m a => log2V m (F.decode a))

/-- VRCP in form M: R257. -/
def execVrcp (d : VReg) (b : VReg) (mk : BitVec 4) (t : BitVec 2) (s : State) : Out3 :=
  s.vunF d b mk t 7 (fun F m a => rcpV m (F.decode a))

/-- VRSQRT in form M: R257. -/
def execVrsqrt (d : VReg) (b : VReg) (mk : BitVec 4) (t : BitVec 2) (s : State) : Out3 :=
  s.vunF d b mk t 7 (fun F m a => rsqrtV m (F.decode a))

/-- VTANH in form M: R257. -/
def execVtanh (d : VReg) (b : VReg) (mk : BitVec 4) (t : BitVec 2) (s : State) : Out3 :=
  s.vunF d b mk t 7 (fun _ _ => tanhB)

/-- VSIG in form M: R257. -/
def execVsig (d : VReg) (b : VReg) (mk : BitVec 4) (t : BitVec 2) (s : State) : Out3 :=
  s.vunF d b mk t 7 (fun _ _ => sigB)

/-- VEXP in form M: R257. -/
def execVexp (d : VReg) (b : VReg) (mk : BitVec 4) (t : BitVec 2) (s : State) : Out3 :=
  s.vunF d b mk t 7 (fun _ _ => expB)

/-- VEXP2 in form W: R257. -/
def execVexp2W (d : VReg) (b : VReg) (mk : BitVec 4) (t : BitVec 2) (rm : BitVec 3) (s : State) : Out3 :=
  s.vunF d b mk t rm (fun F m a => exp2V m (F.decode a))

/-- VLOG2 in form W: R257. -/
def execVlog2W (d : VReg) (b : VReg) (mk : BitVec 4) (t : BitVec 2) (rm : BitVec 3) (s : State) : Out3 :=
  s.vunF d b mk t rm (fun F m a => log2V m (F.decode a))

/-- VRCP in form W: R257. -/
def execVrcpW (d : VReg) (b : VReg) (mk : BitVec 4) (t : BitVec 2) (rm : BitVec 3) (s : State) : Out3 :=
  s.vunF d b mk t rm (fun F m a => rcpV m (F.decode a))

/-- VRSQRT in form W: R257. -/
def execVrsqrtW (d : VReg) (b : VReg) (mk : BitVec 4) (t : BitVec 2) (rm : BitVec 3) (s : State) : Out3 :=
  s.vunF d b mk t rm (fun F m a => rsqrtV m (F.decode a))

/-- VTANH in form W: R257. -/
def execVtanhW (d : VReg) (b : VReg) (mk : BitVec 4) (t : BitVec 2) (rm : BitVec 3) (s : State) : Out3 :=
  s.vunF d b mk t rm (fun _ _ => tanhB)

/-- VSIG in form W: R257. -/
def execVsigW (d : VReg) (b : VReg) (mk : BitVec 4) (t : BitVec 2) (rm : BitVec 3) (s : State) : Out3 :=
  s.vunF d b mk t rm (fun _ _ => sigB)

/-- VEXP in form W: R257. -/
def execVexpW (d : VReg) (b : VReg) (mk : BitVec 4) (t : BitVec 2) (rm : BitVec 3) (s : State) : Out3 :=
  s.vunF d b mk t rm (fun _ _ => expB)

end Sys2Proof.Machine
end

