-- ==== Sys2Proof/Machine/Dispatch.lean ====
section
/-!
DEFINITION. The meaning of every instruction and event: one arm per constructor of Instr, each one call.
-/

namespace Sys2Proof.Machine

def exec (i : Instr) (s : State) : Host.Outcome State Fault Refusal :=
  match i with
  | .add d b c sat => Sys2Proof.Machine.execAdd d b c sat s
  | .sub d b c sat => Sys2Proof.Machine.execSub d b c sat s
  | .andR d b c => Sys2Proof.Machine.execAndR d b c s
  | .orR d b c => Sys2Proof.Machine.execOrR d b c s
  | .xorR d b c => Sys2Proof.Machine.execXorR d b c s
  | .sll d b c => Sys2Proof.Machine.execSll d b c s
  | .srl d b c => Sys2Proof.Machine.execSrl d b c s
  | .sra d b c => Sys2Proof.Machine.execSra d b c s
  | .addI d b imm => Sys2Proof.Machine.execAddI d b imm s
  | .rsubI d b imm => Sys2Proof.Machine.execRsubI d b imm s
  | .andI d b imm => Sys2Proof.Machine.execAndI d b imm s
  | .orI d b imm => Sys2Proof.Machine.execOrI d b imm s
  | .xorI d b imm => Sys2Proof.Machine.execXorI d b imm s
  | .sllI d b imm => Sys2Proof.Machine.execSllI d b imm s
  | .srlI d b imm => Sys2Proof.Machine.execSrlI d b imm s
  | .sraI d b imm => Sys2Proof.Machine.execSraI d b imm s
  | .addW d b imm => Sys2Proof.Machine.execAddW d b imm s
  | .rsubW d b imm => Sys2Proof.Machine.execRsubW d b imm s
  | .andW d b imm => Sys2Proof.Machine.execAndW d b imm s
  | .orW d b imm => Sys2Proof.Machine.execOrW d b imm s
  | .xorW d b imm => Sys2Proof.Machine.execXorW d b imm s
  | .sllW d b imm => Sys2Proof.Machine.execSllW d b imm s
  | .srlW d b imm => Sys2Proof.Machine.execSrlW d b imm s
  | .sraW d b imm => Sys2Proof.Machine.execSraW d b imm s
  | .seq d b c => Sys2Proof.Machine.execSeq d b c s
  | .sne d b c => Sys2Proof.Machine.execSne d b c s
  | .slt d b c => Sys2Proof.Machine.execSlt d b c s
  | .sltu d b c => Sys2Proof.Machine.execSltu d b c s
  | .sle d b c => Sys2Proof.Machine.execSle d b c s
  | .sleu d b c => Sys2Proof.Machine.execSleu d b c s
  | .minS d b c => Sys2Proof.Machine.execMinS d b c s
  | .minU d b c => Sys2Proof.Machine.execMinU d b c s
  | .maxS d b c => Sys2Proof.Machine.execMaxS d b c s
  | .maxU d b c => Sys2Proof.Machine.execMaxU d b c s
  | .seqW d b imm => Sys2Proof.Machine.execSeqW d b imm s
  | .sneW d b imm => Sys2Proof.Machine.execSneW d b imm s
  | .sltW d b imm => Sys2Proof.Machine.execSltW d b imm s
  | .sltuW d b imm => Sys2Proof.Machine.execSltuW d b imm s
  | .sleW d b imm => Sys2Proof.Machine.execSleW d b imm s
  | .sleuW d b imm => Sys2Proof.Machine.execSleuW d b imm s
  | .minW d b imm => Sys2Proof.Machine.execMinW d b imm s
  | .minuW d b imm => Sys2Proof.Machine.execMinuW d b imm s
  | .maxW d b imm => Sys2Proof.Machine.execMaxW d b imm s
  | .maxuW d b imm => Sys2Proof.Machine.execMaxuW d b imm s
  | .mul d b c => Sys2Proof.Machine.execMul d b c s
  | .mulh d b c => Sys2Proof.Machine.execMulh d b c s
  | .mulhu d b c => Sys2Proof.Machine.execMulhu d b c s
  | .mulhsu d b c => Sys2Proof.Machine.execMulhsu d b c s
  | .div d b c => Sys2Proof.Machine.execDiv d b c s
  | .divu d b c => Sys2Proof.Machine.execDivu d b c s
  | .rem d b c => Sys2Proof.Machine.execRem d b c s
  | .remu d b c => Sys2Proof.Machine.execRemu d b c s
  | .clz d b => Sys2Proof.Machine.execClz d b s
  | .ctz d b => Sys2Proof.Machine.execCtz d b s
  | .popc d b => Sys2Proof.Machine.execPopc d b s
  | .brev d b => Sys2Proof.Machine.execBrev d b s
  | .bswap d b => Sys2Proof.Machine.execBswap d b s
  | .rol d b c => Sys2Proof.Machine.execRol d b c s
  | .ror d b c => Sys2Proof.Machine.execRor d b c s
  | .ext d b pos lenM1 => Sys2Proof.Machine.execExt d b pos lenM1 s
  | .extu d b pos lenM1 => Sys2Proof.Machine.execExtu d b pos lenM1 s
  | .ins d b pos lenM1 => Sys2Proof.Machine.execIns d b pos lenM1 s
  | .li d imm => Sys2Proof.Machine.execLi d imm s
  | .liZ d imm => Sys2Proof.Machine.execLiZ d imm s
  | .liW d imm => Sys2Proof.Machine.execLiW d imm s
  | .liZW d imm => Sys2Proof.Machine.execLiZW d imm s
  | .lih d imm => Sys2Proof.Machine.execLih d imm s
  | .liX0 d imm => Sys2Proof.Machine.execLiX0 d imm s
  | .liZX0 d imm => Sys2Proof.Machine.execLiZX0 d imm s
  | .lea d b imm => Sys2Proof.Machine.execLea d b imm s
  | .leaW d b imm => Sys2Proof.Machine.execLeaW d b imm s
  | .leaX1 n d b c imm => Sys2Proof.Machine.execLeaX1 n d b c imm s
  | .mov d b => Sys2Proof.Machine.execMov d b s
  | .sel d b c k => Sys2Proof.Machine.execSel d b c k s
  | .beqz b off => Sys2Proof.Machine.execBeqz b off s
  | .bnez b off => Sys2Proof.Machine.execBnez b off s
  | .bltz b off => Sys2Proof.Machine.execBltz b off s
  | .bgez b off => Sys2Proof.Machine.execBgez b off s
  | .bgtz b off => Sys2Proof.Machine.execBgtz b off s
  | .blez b off => Sys2Proof.Machine.execBlez b off s
  | .beq b c off => Sys2Proof.Machine.execBeq b c off s
  | .bne b c off => Sys2Proof.Machine.execBne b c off s
  | .blt b c off => Sys2Proof.Machine.execBlt b c off s
  | .bge b c off => Sys2Proof.Machine.execBge b c off s
  | .bltu b c off => Sys2Proof.Machine.execBltu b c off s
  | .bgeu b c off => Sys2Proof.Machine.execBgeu b c off s
  | .br off => Sys2Proof.Machine.execBr off s
  | .call off => Sys2Proof.Machine.execCall off s
  | .dbnz b off => Sys2Proof.Machine.execDbnz b off s
  | .jt l b c nM1 => Sys2Proof.Machine.execJt l b c nM1 s
  | .callt l b c nM1 => Sys2Proof.Machine.execCallt l b c nM1 s
  | .jtW b c n l => Sys2Proof.Machine.execJtW b c n l s
  | .calltW b c n l => Sys2Proof.Machine.execCalltW b c n l s
  | .lpad l => Sys2Proof.Machine.execLpad l s
  | .nop => Sys2Proof.Machine.execNop s
  | .exit => Sys2Proof.Machine.execExit s
  | .rets f => Sys2Proof.Machine.execRets f s
  | .ret => Sys2Proof.Machine.execRet s
  | .trap b code => Sys2Proof.Machine.execTrap b code s
  | .eret => Sys2Proof.Machine.execEret s
  | .mfc d n => Sys2Proof.Machine.execMfc d n s
  | .mtc r n => Sys2Proof.Machine.execMtc r n s
  | .ld d b imm => Sys2Proof.Machine.execLd d b imm s
  | .lw d b imm => Sys2Proof.Machine.execLw d b imm s
  | .lwu d b imm => Sys2Proof.Machine.execLwu d b imm s
  | .lh d b imm => Sys2Proof.Machine.execLh d b imm s
  | .lhu d b imm => Sys2Proof.Machine.execLhu d b imm s
  | .lb d b imm => Sys2Proof.Machine.execLb d b imm s
  | .lbu d b imm => Sys2Proof.Machine.execLbu d b imm s
  | .ldW d b rx imm => Sys2Proof.Machine.execLdW d b rx imm s
  | .lwW d b rx imm => Sys2Proof.Machine.execLwW d b rx imm s
  | .lwuW d b rx imm => Sys2Proof.Machine.execLwuW d b rx imm s
  | .lhW d b rx imm => Sys2Proof.Machine.execLhW d b rx imm s
  | .lhuW d b rx imm => Sys2Proof.Machine.execLhuW d b rx imm s
  | .lbW d b rx imm => Sys2Proof.Machine.execLbW d b rx imm s
  | .lbuW d b rx imm => Sys2Proof.Machine.execLbuW d b rx imm s
  | .ldX1 d b c rx imm => Sys2Proof.Machine.execLdX1 d b c rx imm s
  | .lwX1 d b c rx imm => Sys2Proof.Machine.execLwX1 d b c rx imm s
  | .lwuX1 d b c rx imm => Sys2Proof.Machine.execLwuX1 d b c rx imm s
  | .lhX1 d b c rx imm => Sys2Proof.Machine.execLhX1 d b c rx imm s
  | .lhuX1 d b c rx imm => Sys2Proof.Machine.execLhuX1 d b c rx imm s
  | .lbX1 d b c rx imm => Sys2Proof.Machine.execLbX1 d b c rx imm s
  | .lbuX1 d b c rx imm => Sys2Proof.Machine.execLbuX1 d b c rx imm s
  | .st a b imm => Sys2Proof.Machine.execSt a b imm s
  | .sw a b imm => Sys2Proof.Machine.execSw a b imm s
  | .sh a b imm => Sys2Proof.Machine.execSh a b imm s
  | .sb a b imm => Sys2Proof.Machine.execSb a b imm s
  | .stW a b rx imm => Sys2Proof.Machine.execStW a b rx imm s
  | .swW a b rx imm => Sys2Proof.Machine.execSwW a b rx imm s
  | .shW a b rx imm => Sys2Proof.Machine.execShW a b rx imm s
  | .sbW a b rx imm => Sys2Proof.Machine.execSbW a b rx imm s
  | .stX1 a b c rx imm => Sys2Proof.Machine.execStX1 a b c rx imm s
  | .swX1 a b c rx imm => Sys2Proof.Machine.execSwX1 a b c rx imm s
  | .shX1 a b c rx imm => Sys2Proof.Machine.execShX1 a b c rx imm s
  | .sbX1 a b c rx imm => Sys2Proof.Machine.execSbX1 a b c rx imm s
  | .vld vd b mk ew => Sys2Proof.Machine.execVld vd b mk ew s
  | .vst vd b mk ew => Sys2Proof.Machine.execVst vd b mk ew s
  | .vlds vd b c mk ew => Sys2Proof.Machine.execVlds vd b c mk ew s
  | .vsts vd b c mk ew => Sys2Proof.Machine.execVsts vd b c mk ew s
  | .vldW vd b mk rx ew imm => Sys2Proof.Machine.execVldW vd b mk rx ew imm s
  | .vstW vd b mk rx ew imm => Sys2Proof.Machine.execVstW vd b mk rx ew imm s
  | .vldsW vd b c mk rx ew imm => Sys2Proof.Machine.execVldsW vd b c mk rx ew imm s
  | .vstsW vd b c mk rx ew imm => Sys2Proof.Machine.execVstsW vd b c mk rx ew imm s
  | .vldX1 vd b mk rx ew imm => Sys2Proof.Machine.execVldX1 vd b mk rx ew imm s
  | .vstX1 vd b mk rx ew imm => Sys2Proof.Machine.execVstX1 vd b mk rx ew imm s
  | .vldsX1 vd b c mk rx ew imm => Sys2Proof.Machine.execVldsX1 vd b c mk rx ew imm s
  | .vstsX1 vd b c mk rx ew imm => Sys2Proof.Machine.execVstsX1 vd b c mk rx ew imm s
  | .vgath vd b c mk x64 => Sys2Proof.Machine.execVgath vd b c mk x64 s
  | .vscat vd b c mk x64 => Sys2Proof.Machine.execVscat vd b c mk x64 s
  | .vgathW vd b c mk rx x64 sc => Sys2Proof.Machine.execVgathW vd b c mk rx x64 sc s
  | .vscatW vd b c mk rx x64 sc => Sys2Proof.Machine.execVscatW vd b c mk rx x64 sc s
  | .aadd d b c w32 rx => Sys2Proof.Machine.execAadd d b c w32 rx s
  | .aand d b c w32 rx => Sys2Proof.Machine.execAand d b c w32 rx s
  | .aor d b c w32 rx => Sys2Proof.Machine.execAor d b c w32 rx s
  | .axor d b c w32 rx => Sys2Proof.Machine.execAxor d b c w32 rx s
  | .aswp d b c w32 rx => Sys2Proof.Machine.execAswp d b c w32 rx s
  | .acas d b c w32 rx => Sys2Proof.Machine.execAcas d b c w32 rx s
  | .amin d b c w32 rx => Sys2Proof.Machine.execAmin d b c w32 rx s
  | .amax d b c w32 rx => Sys2Proof.Machine.execAmax d b c w32 rx s
  | .aminu d b c w32 rx => Sys2Proof.Machine.execAminu d b c w32 rx s
  | .amaxu d b c w32 rx => Sys2Proof.Machine.execAmaxu d b c w32 rx s
  | .afadd d b c w32 rx => Sys2Proof.Machine.execAfadd d b c w32 rx s
  | .aaddW d b c w32 rx imm => Sys2Proof.Machine.execAaddW d b c w32 rx imm s
  | .aandW d b c w32 rx imm => Sys2Proof.Machine.execAandW d b c w32 rx imm s
  | .aorW d b c w32 rx imm => Sys2Proof.Machine.execAorW d b c w32 rx imm s
  | .axorW d b c w32 rx imm => Sys2Proof.Machine.execAxorW d b c w32 rx imm s
  | .aswpW d b c w32 rx imm => Sys2Proof.Machine.execAswpW d b c w32 rx imm s
  | .acasW d b c w32 rx imm => Sys2Proof.Machine.execAcasW d b c w32 rx imm s
  | .aminW d b c w32 rx imm => Sys2Proof.Machine.execAminW d b c w32 rx imm s
  | .amaxW d b c w32 rx imm => Sys2Proof.Machine.execAmaxW d b c w32 rx imm s
  | .aminuW d b c w32 rx imm => Sys2Proof.Machine.execAminuW d b c w32 rx imm s
  | .amaxuW d b c w32 rx imm => Sys2Proof.Machine.execAmaxuW d b c w32 rx imm s
  | .afaddW d b c w32 rx imm => Sys2Proof.Machine.execAfaddW d b c w32 rx imm s
  | .tatsw t => Sys2Proof.Machine.execTatsw t s
  | .tget d b => Sys2Proof.Machine.execTget d b s
  | .tset b c => Sys2Proof.Machine.execTset b c s
  | .tsetImm b t => Sys2Proof.Machine.execTsetImm b t s
  | .tcas d b c => Sys2Proof.Machine.execTcas d b c s
  | .tatld t b => Sys2Proof.Machine.execTatld t b s
  | .rmset t k => Sys2Proof.Machine.execRmset t k s
  | .fence sc => Sys2Proof.Machine.execFence sc s
  | .bar sc => Sys2Proof.Machine.execBar sc s
  | .bara sc => Sys2Proof.Machine.execBara sc s
  | .barw sc => Sys2Proof.Machine.execBarw sc s
  | .xfence p q => Sys2Proof.Machine.execXfence p q s
  | .sbinit b c => Sys2Proof.Machine.execSbinit b c s
  | .sbarv d b sc => Sys2Proof.Machine.execSbarv d b sc s
  | .sbwait d b c => Sys2Proof.Machine.execSbwait d b c s
  | .sbtest d b c => Sys2Proof.Machine.execSbtest d b c s
  | .waitTag b t => Sys2Proof.Machine.execWaitTag b t s
  | .dqlen d => Sys2Proof.Machine.execDqlen d s
  | .joinWord b => Sys2Proof.Machine.execJoinWord b s
  | .steal d b t => Sys2Proof.Machine.execSteal d b t s
  | .pcon b fl => Sys2Proof.Machine.execPcon b fl s
  | .flushi b c sc => Sys2Proof.Machine.execFlushi b c sc s
  | .spawn b off => Sys2Proof.Machine.execSpawn b off s
  | .vadd d b c mk t => Sys2Proof.Machine.execVadd d b c mk t s
  | .vsub d b c mk t => Sys2Proof.Machine.execVsub d b c mk t s
  | .vmul d b c mk t => Sys2Proof.Machine.execVmul d b c mk t s
  | .vmulh d b c mk t => Sys2Proof.Machine.execVmulh d b c mk t s
  | .vmin d b c mk t => Sys2Proof.Machine.execVmin d b c mk t s
  | .vmax d b c mk t => Sys2Proof.Machine.execVmax d b c mk t s
  | .vminu d b c mk t => Sys2Proof.Machine.execVminu d b c mk t s
  | .vmaxu d b c mk t => Sys2Proof.Machine.execVmaxu d b c mk t s
  | .vaddW d b c z mk t sat => Sys2Proof.Machine.execVaddW d b c z mk t sat s
  | .vsubW d b c z mk t sat => Sys2Proof.Machine.execVsubW d b c z mk t sat s
  | .vmulW d b c z mk t sat => Sys2Proof.Machine.execVmulW d b c z mk t sat s
  | .vmulhW d b c z mk t => Sys2Proof.Machine.execVmulhW d b c z mk t s
  | .vminW d b c z mk t => Sys2Proof.Machine.execVminW d b c z mk t s
  | .vmaxW d b c z mk t => Sys2Proof.Machine.execVmaxW d b c z mk t s
  | .vminuW d b c z mk t => Sys2Proof.Machine.execVminuW d b c z mk t s
  | .vmaxuW d b c z mk t => Sys2Proof.Machine.execVmaxuW d b c z mk t s
  | .vand d b c z mk t => Sys2Proof.Machine.execVand d b c z mk t s
  | .vor d b c z mk t => Sys2Proof.Machine.execVor d b c z mk t s
  | .vxor d b c z mk t => Sys2Proof.Machine.execVxor d b c z mk t s
  | .vsll d b c z mk t => Sys2Proof.Machine.execVsll d b c z mk t s
  | .vsrl d b c z mk t => Sys2Proof.Machine.execVsrl d b c z mk t s
  | .vsra d b c z mk t => Sys2Proof.Machine.execVsra d b c z mk t s
  | .vmulhu d b c z mk t => Sys2Proof.Machine.execVmulhu d b c z mk t s
  | .vabs d b mk t sat => Sys2Proof.Machine.execVabs d b mk t sat s
  | .vfadd d b c mk t => Sys2Proof.Machine.execVfadd d b c mk t s
  | .vfsub d b c mk t => Sys2Proof.Machine.execVfsub d b c mk t s
  | .vfmul d b c mk t => Sys2Proof.Machine.execVfmul d b c mk t s
  | .vfdiv d b c mk t => Sys2Proof.Machine.execVfdiv d b c mk t s
  | .vfmin d b c mk t => Sys2Proof.Machine.execVfmin d b c mk t s
  | .vfmax d b c mk t => Sys2Proof.Machine.execVfmax d b c mk t s
  | .vfsqrt d b mk t => Sys2Proof.Machine.execVfsqrt d b mk t s
  | .vfaddW d b c z mk t rm => Sys2Proof.Machine.execVfaddW d b c z mk t rm s
  | .vfsubW d b c z mk t rm => Sys2Proof.Machine.execVfsubW d b c z mk t rm s
  | .vfmulW d b c z mk t rm => Sys2Proof.Machine.execVfmulW d b c z mk t rm s
  | .vfdivW d b c z mk t rm => Sys2Proof.Machine.execVfdivW d b c z mk t rm s
  | .vfminW d b c z mk t rm => Sys2Proof.Machine.execVfminW d b c z mk t rm s
  | .vfmaxW d b c z mk t rm => Sys2Proof.Machine.execVfmaxW d b c z mk t rm s
  | .vfsqrtW d b mk t rm => Sys2Proof.Machine.execVfsqrtW d b mk t rm s
  | .vfneg d b mk t rm => Sys2Proof.Machine.execVfneg d b mk t rm s
  | .vfabs d b mk t rm => Sys2Proof.Machine.execVfabs d b mk t rm s
  | .vfma d b c mk t => Sys2Proof.Machine.execVfma d b c mk t s
  | .vfms d b c mk t => Sys2Proof.Machine.execVfms d b c mk t s
  | .vfnma d b c mk t => Sys2Proof.Machine.execVfnma d b c mk t s
  | .vfnms d b c mk t => Sys2Proof.Machine.execVfnms d b c mk t s
  | .vmac d b c mk t => Sys2Proof.Machine.execVmac d b c mk t s
  | .vdot d b c mk t => Sys2Proof.Machine.execVdot d b c mk t s
  | .vdotu d b c mk t => Sys2Proof.Machine.execVdotu d b c mk t s
  | .vfmaW d b c e z mk t rm => Sys2Proof.Machine.execVfmaW d b c e z mk t rm s
  | .vfmsW d b c e z mk t rm => Sys2Proof.Machine.execVfmsW d b c e z mk t rm s
  | .vfnmaW d b c e z mk t rm => Sys2Proof.Machine.execVfnmaW d b c e z mk t rm s
  | .vfnmsW d b c e z mk t rm => Sys2Proof.Machine.execVfnmsW d b c e z mk t rm s
  | .vmacW d b c e z mk t sat => Sys2Proof.Machine.execVmacW d b c e z mk t sat s
  | .vdotW d b c e z mk t sat => Sys2Proof.Machine.execVdotW d b c e z mk t sat s
  | .vdotuW d b c e z mk t sat => Sys2Proof.Machine.execVdotuW d b c e z mk t sat s
  | .vseq d b c mk t => Sys2Proof.Machine.execVseq d b c mk t s
  | .vsne d b c mk t => Sys2Proof.Machine.execVsne d b c mk t s
  | .vslt d b c mk t => Sys2Proof.Machine.execVslt d b c mk t s
  | .vsle d b c mk t => Sys2Proof.Machine.execVsle d b c mk t s
  | .vsltu d b c mk t => Sys2Proof.Machine.execVsltu d b c mk t s
  | .vsleu d b c mk t => Sys2Proof.Machine.execVsleu d b c mk t s
  | .vseqW d b c z mk t => Sys2Proof.Machine.execVseqW d b c z mk t s
  | .vsneW d b c z mk t => Sys2Proof.Machine.execVsneW d b c z mk t s
  | .vsltW d b c z mk t => Sys2Proof.Machine.execVsltW d b c z mk t s
  | .vsleW d b c z mk t => Sys2Proof.Machine.execVsleW d b c z mk t s
  | .vsltuW d b c z mk t => Sys2Proof.Machine.execVsltuW d b c z mk t s
  | .vsleuW d b c z mk t => Sys2Proof.Machine.execVsleuW d b c z mk t s
  | .vfeq d b c z mk t => Sys2Proof.Machine.execVfeq d b c z mk t s
  | .vfne d b c z mk t => Sys2Proof.Machine.execVfne d b c z mk t s
  | .vflt d b c z mk t => Sys2Proof.Machine.execVflt d b c z mk t s
  | .vfle d b c z mk t => Sys2Proof.Machine.execVfle d b c z mk t s
  | .vfun d b c z mk t => Sys2Proof.Machine.execVfun d b c z mk t s
  | .vmov d b mk t => Sys2Proof.Machine.execVmov d b mk t s
  | .vbcast d c mk t => Sys2Proof.Machine.execVbcast d c mk t s
  | .vsldn d b c mk t => Sys2Proof.Machine.execVsldn d b c mk t s
  | .vslup d b c mk t => Sys2Proof.Machine.execVslup d b c mk t s
  | .vperm d b c mk t => Sys2Proof.Machine.execVperm d b c mk t s
  | .vins d b c mk t => Sys2Proof.Machine.execVins d b c mk t s
  | .vext d b c t => Sys2Proof.Machine.execVext d b c t s
  | .vmovW d b mk t => Sys2Proof.Machine.execVmovW d b mk t s
  | .vbcastW d c mk t => Sys2Proof.Machine.execVbcastW d c mk t s
  | .vsldnW d b c mk t => Sys2Proof.Machine.execVsldnW d b c mk t s
  | .vslupW d b c mk t => Sys2Proof.Machine.execVslupW d b c mk t s
  | .vpermW d b c mk t => Sys2Proof.Machine.execVpermW d b c mk t s
  | .vinsW d b c mk t => Sys2Proof.Machine.execVinsW d b c mk t s
  | .vextW d b c t => Sys2Proof.Machine.execVextW d b c t s
  | .vrsum d b mk t => Sys2Proof.Machine.execVrsum d b mk t s
  | .vrmin d b mk t => Sys2Proof.Machine.execVrmin d b mk t s
  | .vrmax d b mk t => Sys2Proof.Machine.execVrmax d b mk t s
  | .vrminu d b mk t => Sys2Proof.Machine.execVrminu d b mk t s
  | .vrmaxu d b mk t => Sys2Proof.Machine.execVrmaxu d b mk t s
  | .vrpopc d b mk t => Sys2Proof.Machine.execVrpopc d b mk t s
  | .vrsumW d b mk t => Sys2Proof.Machine.execVrsumW d b mk t s
  | .vrminW d b mk t => Sys2Proof.Machine.execVrminW d b mk t s
  | .vrmaxW d b mk t => Sys2Proof.Machine.execVrmaxW d b mk t s
  | .vrminuW d b mk t => Sys2Proof.Machine.execVrminuW d b mk t s
  | .vrmaxuW d b mk t => Sys2Proof.Machine.execVrmaxuW d b mk t s
  | .vrpopcW d b mk t => Sys2Proof.Machine.execVrpopcW d b mk t s
  | .vrfsum d b mk t rm => Sys2Proof.Machine.execVrfsum d b mk t rm s
  | .vrfmin d b mk t rm => Sys2Proof.Machine.execVrfmin d b mk t rm s
  | .vrfmax d b mk t rm => Sys2Proof.Machine.execVrfmax d b mk t rm s
  | .vrfsumo d b c mk t rm => Sys2Proof.Machine.execVrfsumo d b c mk t rm s
  | .vftoi d b mk sat => Sys2Proof.Machine.execVftoi d b mk sat s
  | .vftoiu d b mk sat => Sys2Proof.Machine.execVftoiu d b mk sat s
  | .vitof d b mk => Sys2Proof.Machine.execVitof d b mk s
  | .vutof d b mk => Sys2Proof.Machine.execVutof d b mk s
  | .vcvt d b p r mk fs fd rm sat => Sys2Proof.Machine.execVcvt d b p r mk fs fd rm sat s
  | .vexp2 d b mk t => Sys2Proof.Machine.execVexp2 d b mk t s
  | .vlog2 d b mk t => Sys2Proof.Machine.execVlog2 d b mk t s
  | .vrcp d b mk t => Sys2Proof.Machine.execVrcp d b mk t s
  | .vrsqrt d b mk t => Sys2Proof.Machine.execVrsqrt d b mk t s
  | .vtanh d b mk t => Sys2Proof.Machine.execVtanh d b mk t s
  | .vsig d b mk t => Sys2Proof.Machine.execVsig d b mk t s
  | .vexp d b mk t => Sys2Proof.Machine.execVexp d b mk t s
  | .vexp2W d b mk t rm => Sys2Proof.Machine.execVexp2W d b mk t rm s
  | .vlog2W d b mk t rm => Sys2Proof.Machine.execVlog2W d b mk t rm s
  | .vrcpW d b mk t rm => Sys2Proof.Machine.execVrcpW d b mk t rm s
  | .vrsqrtW d b mk t rm => Sys2Proof.Machine.execVrsqrtW d b mk t rm s
  | .vtanhW d b mk t rm => Sys2Proof.Machine.execVtanhW d b mk t rm s
  | .vsigW d b mk t rm => Sys2Proof.Machine.execVsigW d b mk t rm s
  | .vexpW d b mk t rm => Sys2Proof.Machine.execVexpW d b mk t rm s
  | .modeM => Sys2Proof.Machine.execModeM s
  | .modeV => Sys2Proof.Machine.execModeV s
  | .mzero => Sys2Proof.Machine.execMzero s
  | .mrnsoutRes30 n => Sys2Proof.Machine.execMrnsoutRes30 n s
  | .mrnsoutRes15 n => Sys2Proof.Machine.execMrnsoutRes15 n s
  | .mma k b c za => Sys2Proof.Machine.execMma k b c za s
  | .mmas k b c za => Sys2Proof.Machine.execMmas k b c za s
  | .mmaW k b c za fa fb => Sys2Proof.Machine.execMmaW k b c za fa fb s
  | .mmasW k b c za fa fb => Sys2Proof.Machine.execMmasW k b c za fa fb s
  | .sclfeed b c => Sys2Proof.Machine.execSclfeed b c s
  | .mplane a b c sh => Sys2Proof.Machine.execMplane a b c sh s
  | .munpl a b c sh => Sys2Proof.Machine.execMunpl a b c sh s
  | .mrnsin a b dst fs => Sys2Proof.Machine.execMrnsin a b dst fs s
  | .mplaneW a b c n fmt => Sys2Proof.Machine.execMplaneW a b c n fmt s
  | .munplW a b c n fmt => Sys2Proof.Machine.execMunplW a b c n fmt s
  | .mrnsinW a b n dst fs => Sys2Proof.Machine.execMrnsinW a b n dst fs s
  | .dld d b => Sys2Proof.Machine.execDld d b s
  | .dsv d b => Sys2Proof.Machine.execDsv d b s
  | .dput d c w => Sys2Proof.Machine.execDput d c w s
  | .dget d b w => Sys2Proof.Machine.execDget d b w s
  | .dins d c w pos lenM1 => Sys2Proof.Machine.execDins d c w pos lenM1 s
  | .dinit d b c tr ro co => Sys2Proof.Machine.execDinit d b c tr ro co s
  | .tmul d b c acc kM1 => Sys2Proof.Machine.execTmul d b c acc kM1 s
  | .tadd d b c => Sys2Proof.Machine.execTadd d b c s
  | .tsub d b c => Sys2Proof.Machine.execTsub d b c s
  | .tmax d b c => Sys2Proof.Machine.execTmax d b c s
  | .tcvt d b sat rm => Sys2Proof.Machine.execTcvt d b sat rm s
  | .tred d b op => Sys2Proof.Machine.execTred d b op s
  | .taddW d b c rm => Sys2Proof.Machine.execTaddW d b c rm s
  | .tsubW d b c rm => Sys2Proof.Machine.execTsubW d b c rm s
  | .tmaxW d b c rm => Sys2Proof.Machine.execTmaxW d b c rm s
  | .tmap d b c e fn rm => Sys2Proof.Machine.execTmap d b c e fn rm s
  | .force => Sys2Proof.Machine.execForce s
  | .forceM b => Sys2Proof.Machine.execForceM b s
  | .forceW b rb nbM1 => Sys2Proof.Machine.execForceW b rb nbM1 s
  | .tdrop => Sys2Proof.Machine.execTdrop s
  | .tdropM n => Sys2Proof.Machine.execTdropM n s
  | .tqry d n => Sys2Proof.Machine.execTqry d n s
  | .tst d b => Sys2Proof.Machine.execTst d b s
  | .cp t b c rs => Sys2Proof.Machine.execCp t b c rs s
  | .cps t b c g rs dec => Sys2Proof.Machine.execCps t b c g rs dec s
  | .draw d => Sys2Proof.Machine.execDraw d s
  | .drawV d => Sys2Proof.Machine.execDrawV d s
  | .rngkey k b c => Sys2Proof.Machine.execRngkey k b c s
  | .rngadv b c => Sys2Proof.Machine.execRngadv b c s
  | .stamp k => Sys2Proof.Machine.execStamp k s
  | .stampClose => Sys2Proof.Machine.execStampClose s
  | .stampOpen b => Sys2Proof.Machine.execStampOpen b s
  | .trmark b code => Sys2Proof.Machine.execTrmark b code s
  | .epreg d b => Sys2Proof.Machine.execEpreg d b s
  | .rpost k hd r => Sys2Proof.Machine.execRpost k hd r s
  | .rlver d b c g => Sys2Proof.Machine.execRlver d b c g s
  | .rjqry d b g => Sys2Proof.Machine.execRjqry d b g s
  | .tcinv sc => Sys2Proof.Machine.execTcinv sc s
  | .tcinvM b c sc => Sys2Proof.Machine.execTcinvM b c sc s
  | .sleep b => Sys2Proof.Machine.execSleep b s
  | .gridOperationComplete core => Sys2Proof.Machine.execGridOperationComplete core s
  | .blockEvaluation core => Sys2Proof.Machine.execBlockEvaluation core s
  | .copyCommandStart core => Sys2Proof.Machine.execCopyCommandStart core s
  | .copyCommandEnd core => Sys2Proof.Machine.execCopyCommandEnd core s
  | .sleepExpiry core slot => Sys2Proof.Machine.execSleepExpiry core slot s
  | .bankOperation core slot acc => Sys2Proof.Machine.execBankOperation core slot acc s
  | .waiterReevaluation w => Sys2Proof.Machine.execWaiterReevaluation w s
  | .rdrReissue core slot => Sys2Proof.Machine.execRdrReissue core slot s
  | .remoteWaitRetry core slot => Sys2Proof.Machine.execRemoteWaitRetry core slot s
  | .tagWaitWatchdog core agent slot => Sys2Proof.Machine.execTagWaitWatchdog core agent slot s
  | .accessCompletion core slot acc point => Sys2Proof.Machine.execAccessCompletion core slot acc point s
  | .backgroundSpill core slot => Sys2Proof.Machine.execBackgroundSpill core slot s
  | .barrierRoundRelease sc key => Sys2Proof.Machine.execBarrierRoundRelease sc key s
  | .gateCommit core => Sys2Proof.Machine.execGateCommit core s
  | .ungateStart core => Sys2Proof.Machine.execUngateStart core s
  | .ungateComplete core => Sys2Proof.Machine.execUngateComplete core s
  | .lateTrapEntry core slot => Sys2Proof.Machine.execLateTrapEntry core slot s
  | .preemptNotice core slot => Sys2Proof.Machine.execPreemptNotice core slot s
  | .pbudgetExpiry core slot => Sys2Proof.Machine.execPbudgetExpiry core slot s
  | .preemptSave g => Sys2Proof.Machine.execPreemptSave g s
  | .gangResume g => Sys2Proof.Machine.execGangResume g s
  | .translationWalk w => Sys2Proof.Machine.execTranslationWalk w s
  | .fackStore fn idx => Sys2Proof.Machine.execFackStore fn idx s
  | .queueWriteStore q v => Sys2Proof.Machine.execQueueWriteStore q v s
  | .prioStore q v => Sys2Proof.Machine.execPrioStore q v s
  | .preemptRequest q => Sys2Proof.Machine.execPreemptRequest q s
  | .dependenceReread => Sys2Proof.Machine.execDependenceReread s
  | .packetSelection => Sys2Proof.Machine.execPacketSelection s
  | .gangPlacement => Sys2Proof.Machine.execGangPlacement s
  | .placementWaitExpiry l => Sys2Proof.Machine.execPlacementWaitExpiry l s
  | .launchCompletion l => Sys2Proof.Machine.execLaunchCompletion l s
  | .rewardMessageHandling u => Sys2Proof.Machine.execRewardMessageHandling u s
  | .partRecorded u ent => Sys2Proof.Machine.execPartRecorded u ent s
  | .zeroFillDone u ent => Sys2Proof.Machine.execZeroFillDone u ent s
  | .deadline u => Sys2Proof.Machine.execDeadline u s
  | .fullerScanDone u ent => Sys2Proof.Machine.execFullerScanDone u ent s
  | .episodeRelease u ent => Sys2Proof.Machine.execEpisodeRelease u ent s
  | .lreadReread u grp => Sys2Proof.Machine.execLreadReread u grp s
  | .readMsg m => Sys2Proof.Machine.execReadMsg m s
  | .readReply m => Sys2Proof.Machine.execReadReply m s
  | .writeMsg m => Sys2Proof.Machine.execWriteMsg m s
  | .acknowledge m => Sys2Proof.Machine.execAcknowledge m s
  | .atomicMsg m => Sys2Proof.Machine.execAtomicMsg m s
  | .atomicReply m => Sys2Proof.Machine.execAtomicReply m s
  | .putWithSignal m => Sys2Proof.Machine.execPutWithSignal m s
  | .rewardMsg m => Sys2Proof.Machine.execRewardMsg m s
  | .barrierMsg m => Sys2Proof.Machine.execBarrierMsg m s
  | .stopMessage m => Sys2Proof.Machine.execStopMessage m s
  | .errorMsg m => Sys2Proof.Machine.execErrorMsg m s
  | .sessionMsg m => Sys2Proof.Machine.execSessionMsg m s
  | .linkFailure k => Sys2Proof.Machine.execLinkFailure k s
  | .stopTakesEffect core => Sys2Proof.Machine.execStopTakesEffect core s
  | .stopCmd core => Sys2Proof.Machine.execStopCmd core s
  | .resumeCmd core => Sys2Proof.Machine.execResumeCmd core s
  | .resumeTakesEffect core => Sys2Proof.Machine.execResumeTakesEffect core s
  | .stepCmd core slot => Sys2Proof.Machine.execStepCmd core slot s
  | .wpctlWrite core n v => Sys2Proof.Machine.execWpctlWrite core n v s
  | .slotWindowWrite core slot off v => Sys2Proof.Machine.execSlotWindowWrite core slot off v s
  | .registerWrite a v => Sys2Proof.Machine.execRegisterWrite a v s
  | .dumpGang => Sys2Proof.Machine.execDumpGang s
  | .rctlStore fn v => Sys2Proof.Machine.execRctlStore fn v s
  | .invalidateTranslations fn => Sys2Proof.Machine.execInvalidateTranslations fn s
  | .invalidateRange fn => Sys2Proof.Machine.execInvalidateRange fn s
  | .functionLevelReset fn => Sys2Proof.Machine.execFunctionLevelReset fn s
  | .replay fn => Sys2Proof.Machine.execReplay fn s
  | .assign fn => Sys2Proof.Machine.execAssign fn s
  | .release fn => Sys2Proof.Machine.execRelease fn s
  | .create fn => Sys2Proof.Machine.execCreate fn s
  | .destroy fn => Sys2Proof.Machine.execDestroy fn s
  | .queueOp fn => Sys2Proof.Machine.execQueueOp fn s
  | .region fn => Sys2Proof.Machine.execRegion fn s
  | .report fn => Sys2Proof.Machine.execReport fn s
  | .extend fn => Sys2Proof.Machine.execExtend fn s
  | .sessionOperation fn => Sys2Proof.Machine.execSessionOperation fn s
  | .rootOp fn => Sys2Proof.Machine.execRootOp fn s
  | .writeOperation fn => Sys2Proof.Machine.execWriteOperation fn s
  | .sleepOperation fn => Sys2Proof.Machine.execSleepOperation fn s
  | .deepSleepEntry => Sys2Proof.Machine.execDeepSleepEntry s
  | .managementWake => Sys2Proof.Machine.execManagementWake s
  | .coldReset => Sys2Proof.Machine.execColdReset s
  | .powerLoss => Sys2Proof.Machine.execPowerLoss s
  | .thermalWarning die => Sys2Proof.Machine.execThermalWarning die s
  | .thermalWarningClear die => Sys2Proof.Machine.execThermalWarningClear die s
  | .criticalTrip => Sys2Proof.Machine.execCriticalTrip s
  | .debugUnlock dev life nonce perm sig => Sys2Proof.Machine.execDebugUnlock dev life nonce perm sig s
  | .provisioning => Sys2Proof.Machine.execProvisioning s
  | .productionFuse => Sys2Proof.Machine.execProductionFuse s
  | .retireFuse => Sys2Proof.Machine.execRetireFuse s
  | .notAnInstruction cls code tval => Sys2Proof.Machine.execNotAnInstruction cls code tval s
  | .flushiAcknowledgement core slot => Sys2Proof.Machine.execFlushiAcknowledgement core slot s
  | .tcinvAcknowledgement core slot => Sys2Proof.Machine.execTcinvAcknowledgement core slot s
  | .unitInstructionHandling u => Sys2Proof.Machine.execUnitInstructionHandling u s
  | .fabricDrop m => Sys2Proof.Machine.execFabricDrop m s
  | .cxlLinkDown p => Sys2Proof.Machine.execCxlLinkDown p s

end Sys2Proof.Machine
end

