-- ==== Sys2Proof/Machine/Teardown.lean ====
section
/-!
DEFINITION. The steps of the failure of contexts, one after the other, in cycles of the secure service core (28 R393), and its round of the mailboxes (30
R402).
-/

namespace Sys2Proof.Machine

/-- The failure that is in progress has come further. -/
def State.setTear (s : State) (t : Teardown) : State := { s with tears := t :: s.tears.drop 1 }

/-- What stops of contexts is refused at once: faults that are not yet acknowledged (R352, R393). -/
def State.refuseFaults (s : State) (cs : List (BitVec 8)) : State :=
  (s.faults.filter (fun r => cs.contains r.ctx)).foldl (fun s r =>
    let s1 := if (s.faults.find? (fun x => x.fn == r.fn && x.index.isNone)).any (· == r) then s.unitEnd (.faultUnit r.fn) else s
    s1.service r false) s

/-- The copy engines of contexts stop: each command is aborted where the engine stops issuing (R300). -/
def State.abortCopies (s : State) (cs : List (BitVec 8)) : State :=
  (s.cores.map (·.1)).foldl (fun s n =>
    let c := s.core n
    if (c.ctx.map cs.contains).getD false && c.copies.any (·.fail.isNone) then
      (s.setCore n { c with
        copies := c.copies.map (fun k => if k.fail.isNone then { k with fail := some abortStatus, stall := .none } else k) }).post (.copyCommandEnd n)
    else s) s

/-- The entries of contexts in a join unit are closed as failed, and messages for them are not taken up; the records of a protected world are not written,
since their homes are not of world 0. -/
def State.closeEntries (s : State) (cs : List (BitVec 8)) (u : Nat) : State :=
  let j := s.join u
  let s0 := s.setJoin u { j with
    inq := j.inq.filter (fun m => !cs.contains m.ctx)
    groups := j.groups.map (fun p => if cs.contains p.2.ctx && s.world p.2.ctx != 0 then (p.1, { p.2 with work := [] }) else p) }
  (j.entries.filter (fun p => cs.contains p.2.ctx && p.2.state != 6)).foldl (fun s p =>
    if s.world p.2.ctx == 0 then s.closeFailed u p.1 p.2 else s.closeEntry u p.1 p.2 4) s0

/-- The engines of contexts stop; each item completes or fails. -/
def State.stopEngines (s : State) (cs : List (BitVec 8)) : State := (((s.refuseFaults cs).abortCopies cs).closeEntries cs 0).closeEntries cs 1

/-- Whether an item of the engines is still to end: a command, one older than a number, or something that a join unit has to do. -/
def State.commandsLeft (s : State) (cs : List (BitVec 8)) (num : Nat) : Bool :=
  s.cores.any (fun p => (p.2.ctx.map cs.contains).getD false && p.2.copies.any (fun k => decide (k.seq < num)))

def State.unitsLeft (s : State) (cs : List (BitVec 8)) : Bool :=
  s.joins.toList.any (fun j => j.groups.any (fun p => cs.contains p.2.ctx && !p.2.work.isEmpty) ||
    j.instrs.any (fun i => match i with
      | .epreg _ x _ | .rlver _ x _ _ _ | .rjqry _ x _ _ => cs.contains x))

/-- Whether a launch stalls under a WAIT action on its way to its end (R315). -/
def State.launchStalls (s : State) (l : Launch) : Bool := s.waiters.any (fun w => w.agent == .launch l.id && w.table)

/-- The homes of the pages of the notification ring of a context's function, with their numbers. DESIGN CHOICE: log entry 85. -/
def State.ringPages (s : State) (ctx : BitVec 8) : Option (BitVec 8 × Nat × List (Nat × Nat)) :=
  (s.fnOf ctx).map (fun n =>
    let f := s.fn n
    let lo := f.dbase.toNat / 0x10000
    let hi := (f.dbase.toNat + 32 * 2 ^ f.dsize.toNat - 1) / 0x10000
    let home (k : Nat) : Option (Nat × Nat) :=
      let va : Word := BitVec.ofNat 64 ((lo + k) * 0x10000)
      if !isTranslated va then none
      else match s.unitTr (s.ringCtx ctx) va .store with
        | .home h => some (lo + k, h)
        | _ => none
    (ctx, n, if f.dbase == 0 then [] else (List.range (hi + 1 - lo)).filterMap home))

/-- Recordings and replays that go through failing contexts are over (R376, R378). -/
def State.endReplays (s : State) (cs : List (BitVec 8)) : State :=
  (s.replays.filter (fun r => cs.contains r.ctx)).foldl (fun s r => ((s.unitEnd (.recorder r.fn)).unitEnd (.digest r.fn)).logOver r) s

/-- The stops that are on their way for failing contexts have nothing left to stop. -/
def State.dropStops (s : State) (cs : List (BitVec 8)) : State :=
  { s with stops := s.stops.filter (fun m => !cs.contains m.ctx), resumes := s.resumes.filter (fun m => !cs.contains m.ctx) }

/-- What follows the last step. -/
def State.tearEnd (s : State) (t : Teardown) : State :=
  let s1 := { s with tears := s.tears.drop 1 }
  let clean (s : State) (gs : List Nat) : State := gs.foldl (fun s g => s.scrub g 1) s
  match t.last with
  | .nothing => s1
  | .reset fn => s1.setFn fn { s1.fn fn with state := 1, busy := false }
  | .destroy fn => s1.answer fn none 0 []
  | .trip =>
    let d := s1.dark
    { d with plat := { d.plat with power := .off } }
  | .unlock perm ev gs =>
    let s2 := (clean s1 gs).extend 2 ev
    s2.setSsc { s2.ssc with life := 3, sahgon := some perm }
  | .scrub gs =>
    let s2 := gs.foldl (fun s g => s.setGranules g 1 0) (clean s1 gs)
    s2.setSsc { s2.ssc with latches := Vector.replicate 8 0 }

/-- Whether nothing of a gang is under way: its threads are at instruction boundaries, and what they have issued is performed or has ended. -/
def State.quiet (s : State) (g : Gang) : Bool := s.canSave g && !s.dumpAwaits g

/-- Step 3: the gangs stop. Dumps that have not begun are not made; one that has completes. Once all is quiet the launches end with CODE 7, or with the CODE 6 that
they have; their STATUS and signals follow. A signal that stalls under a WAIT action is given up with the regions of its context. DEDUCED: log entry 85. -/
def State.tearThreads (s : State) (t : Teardown) : State :=
  let mine (c : BitVec 8) : Bool := t.ctxs.contains c
  let ours (s : State) : List Gang := s.gangs.filter (fun g => mine g.ctx)
  let s0 := s.stopEngines t.ctxs
  let s1 : State := { s0 with dumps := s0.dumps.filter (fun j => j.start.isSome || !((s0.gang j.gang).any (fun g => mine g.ctx))) }
  let s2 := (ours s1).foldl (fun s g => if g.image.isSome || g.preempt then s else s.setGang { g with preempt := true }) s1
  if s2.commandsLeft t.ctxs s2.seq || s2.unitsLeft t.ctxs || s2.dumps.any (fun j => (s2.gang j.gang).any (fun g => mine g.ctx)) ||
      (ours s2).any (fun g => g.image.isNone && !s2.quiet g) then s2
  else
    let s3 := (s2.launches.filter (fun l => mine l.ctx && l.state != .ended)).foldl (fun s l => s.endLaunch l (if l.code == 6 then 6 else 7)) s2
    let ls := s3.launches.filter (fun l => mine l.ctx)
    if !ls.all s3.launchStalls then s3
    else
      let s4 := (ours s3).foldl (fun s g => s.endGang g.id) s3
      if !ls.isEmpty then s4
      else
        let s5 := (s4.endReplays t.ctxs).dropStops t.ctxs
        if t.last == .trip then s5.tearEnd t
        else s5.setTear { t with step := 4, rings := if t.report then t.ctxs.filterMap s5.ringPages else [] }

/-- Step 4: nothing reaches the contexts' memory any more, nor goes on for them. -/
def State.cutOff (s : State) (cs : List (BitVec 8)) : State :=
  let s1 := s.dropUnits cs.contains
  { s1.revoke cs with
    joins := s1.joins.map (·.without cs.contains)
    walks := s1.walks.filter (fun w => !cs.contains w.ctx), faults := s1.faults.filter (fun r => !cs.contains r.ctx)
    refused := s1.refused.filter (fun r => !cs.contains (BitVec.ofNat 8 r.2.1)) }

/-- Step 6: the places of the gangs are zeroed, then the dies torn down, those on which no other gang is. One for which a stop is held waits until that has
taken effect (R381). -/
def State.tearDies (s : State) (t : Teardown) : State :=
  match t.dies with
  | [] => s.setTear { t with step := 7 }
  | d :: ds =>
    if s.stops.any (fun m => dieOf m.core == d) then ((s.stops.map (·.core)).foldl (fun s n => if dieOf n == d then s.rouse n else s) s).setTear t
    else
      let s1 := if s.gangs.any (fun g => g.places.any (fun p => dieOf p.core == d)) then s else s.tearDown d
      s1.setTear { t with dies := ds }

/-- Step 7: one record for each context, at its home in its function's ring; one that no page of the ring takes is left out. DESIGN CHOICE: log entry 85. -/
def State.tearReport (s : State) (t : Teardown) : State :=
  match t.rings with
  | [] => s.tearEnd t
  | (c, n, ps) :: rs =>
    let a := s.failureAcc c n
    let next (s : State) : State := s.setTear { t with rings := rs }
    match ps.find? (fun p => p.1 == a.va.toNat / 0x10000) with
    | none => next s
    | some (_, page) =>
      let h := page + a.va.toNat % 0x10000
      if (s.fn n).dbase == 0 || a.va.toNat % 32 ≠ 0 then next s
      else if homeKind h ≤ 1 then
        next (((s.writeBytes h (wordsNat [zx c, 0x30000007, 0, s.dumpCount]) (2 ^ 32 - 1) 32).setLineKey (lineOfHome h) none).notified n)
      else
        match s.farPerform .ssc 0 c h a false with
        | .ok _ s1 => next (s1.notified n)
        | .park _ s1 => s1
        | .trap _ s1 | .done s1 => next s1

/-- A cycle of the failure that is in progress (R393): each step is over for every context and die before the next begins. -/
def State.tearStep (s : State) : State :=
  match s.tears with
  | [] => s
  | t :: _ =>
    match t.step with
    | 1 =>
      (s.refuseWork t.ctxs).setTear { t with
        step := 2, num := s.seq, places := (s.gangs.filter (fun g => t.ctxs.contains g.ctx)).flatMap (·.places), dies := s.affected t.ctxs }
    | 2 =>
      let s1 := s.stopEngines t.ctxs
      if s1.commandsLeft t.ctxs t.num then s1 else s1.setTear { t with step := 3 }
    | 3 => s.tearThreads t
    | 4 => (s.cutOff t.ctxs).setTear { t with step := 5 }
    | 5 =>
      (match t.last with
      | .unlock _ _ _ => s
      | _ => t.ctxs.foldl State.eraseKeys s).setTear { t with step := 6 }
    | 6 =>
      (t.places.foldl (fun s p => s.zeroRegions p.core p.base p.regions) s).tearDies { t with places := [] }
    | _ => s.tearReport t

/-! ### The mailboxes, in turn (R402) -/

/-- Whether an entry of the things to do is an operation of a mailbox. -/
def Event.isMail : Event → Bool
  | .assign _ | .release _ | .create _ | .destroy _ | .queueOp _ | .region _ | .report _ | .extend _ | .sessionOperation _ | .rootOp _ | .writeOperation _
  | .sleepOperation _ => true
  | _ => false

/-- The function whose mailbox is next: the first that asks after the one served last. -/
def State.nextMail (s : State) : Option Nat :=
  let ns := (s.fns.filter (fun p => p.2.mcmd.getLsbD 63)).map (·.1)
  (ns.find? (fun n => decide (s.ssc.lastMail < n))).orElse (fun _ => ns.head?)

/-- The next operation is taken up, when no other is under way; an unknown one, or one with a reserved field that is not zero, ends with STATUS 1. -/
def State.mailTurn (s : State) : State :=
  if s.plat.sleeping || s.todo.any Event.isMail then s
  else
    match s.nextMail with
    | none => s
    | some n =>
      let f := s.fn n
      let s1 := s.setSsc { s.ssc with lastMail := n }
      match (if f.mcmd.extractLsb' 9 54 == 0 then mailEvent (f.mcmd.extractLsb' 0 8).toNat (BitVec.ofNat 6 n) else none) with
      | some e => s1.post e
      | none => s1.answer n none 1 []

/-- A cycle of the secure service core: a failure of contexts goes on, or a mailbox has its turn. -/
def State.sscClock (s : State) : State := if s.tears.isEmpty then s.mailTurn else s.tearStep

end Sys2Proof.Machine
end

