-- ==== Sys2Proof/Machine/Touch.lean ====
section
/-!
DEFINITION. The registers that an instruction names, for the interlock of R32: scalar and vector fields of its encoding.
-/

namespace Sys2Proof.Machine

/-- The scalar register that field C of a vector form with Z names (R238). -/
def zScalars (c : SReg) (z : BitVec 1) : List SReg := if z == 1 then [c] else []

/-- The vector registers that such a form names. -/
def zVectors (d b c : VReg) (z : BitVec 1) : List VReg := if z == 1 then [d, b] else [d, b, c]

/-- Scalar register fields of an instruction. -/
def instrScalars : Instr → List SReg
  | .add d b c _ => [d, b, c]
  | .sub d b c _ => [d, b, c]
  | .andR d b c => [d, b, c]
  | .orR d b c => [d, b, c]
  | .xorR d b c => [d, b, c]
  | .sll d b c => [d, b, c]
  | .srl d b c => [d, b, c]
  | .sra d b c => [d, b, c]
  | .addI d b _ => [d, b]
  | .rsubI d b _ => [d, b]
  | .andI d b _ => [d, b]
  | .orI d b _ => [d, b]
  | .xorI d b _ => [d, b]
  | .sllI d b _ => [d, b]
  | .srlI d b _ => [d, b]
  | .sraI d b _ => [d, b]
  | .addW d b _ => [d, b]
  | .rsubW d b _ => [d, b]
  | .andW d b _ => [d, b]
  | .orW d b _ => [d, b]
  | .xorW d b _ => [d, b]
  | .sllW d b _ => [d, b]
  | .srlW d b _ => [d, b]
  | .sraW d b _ => [d, b]
  | .seq d b c => [d, b, c]
  | .sne d b c => [d, b, c]
  | .slt d b c => [d, b, c]
  | .sltu d b c => [d, b, c]
  | .sle d b c => [d, b, c]
  | .sleu d b c => [d, b, c]
  | .minS d b c => [d, b, c]
  | .minU d b c => [d, b, c]
  | .maxS d b c => [d, b, c]
  | .maxU d b c => [d, b, c]
  | .seqW d b _ => [d, b]
  | .sneW d b _ => [d, b]
  | .sltW d b _ => [d, b]
  | .sltuW d b _ => [d, b]
  | .sleW d b _ => [d, b]
  | .sleuW d b _ => [d, b]
  | .minW d b _ => [d, b]
  | .minuW d b _ => [d, b]
  | .maxW d b _ => [d, b]
  | .maxuW d b _ => [d, b]
  | .mul d b c => [d, b, c]
  | .mulh d b c => [d, b, c]
  | .mulhu d b c => [d, b, c]
  | .mulhsu d b c => [d, b, c]
  | .div d b c => [d, b, c]
  | .divu d b c => [d, b, c]
  | .rem d b c => [d, b, c]
  | .remu d b c => [d, b, c]
  | .clz d b => [d, b]
  | .ctz d b => [d, b]
  | .popc d b => [d, b]
  | .brev d b => [d, b]
  | .bswap d b => [d, b]
  | .rol d b c => [d, b, c]
  | .ror d b c => [d, b, c]
  | .ext d b _ _ => [d, b]
  | .extu d b _ _ => [d, b]
  | .ins d b _ _ => [d, b]
  | .li d _ => [d]
  | .liZ d _ => [d]
  | .liW d _ => [d]
  | .liZW d _ => [d]
  | .lih d _ => [d]
  | .liX0 d _ => [d]
  | .liZX0 d _ => [d]
  | .lea d b _ => [d, b]
  | .leaW d b _ => [d, b]
  | .leaX1 _ d b c _ => [d, b, c]
  | .mov d b => [d, b]
  | .sel d b c k => [d, b, c, k]
  | .beqz b _ => [b]
  | .bnez b _ => [b]
  | .bltz b _ => [b]
  | .bgez b _ => [b]
  | .bgtz b _ => [b]
  | .blez b _ => [b]
  | .beq b c _ => [b, c]
  | .bne b c _ => [b, c]
  | .blt b c _ => [b, c]
  | .bge b c _ => [b, c]
  | .bltu b c _ => [b, c]
  | .bgeu b c _ => [b, c]
  | .dbnz b _ => [b]
  | .jt _ b c _ => [b, c]
  | .callt _ b c _ => [b, c]
  | .jtW b c n _ => [b, c, n]
  | .calltW b c n _ => [b, c, n]
  | .rets f => [f]
  | .trap b _ => [b]
  | .mfc d _ => [d]
  | .mtc s _ => [s]
  | .ld d b _ => [d, b]
  | .lw d b _ => [d, b]
  | .lwu d b _ => [d, b]
  | .lh d b _ => [d, b]
  | .lhu d b _ => [d, b]
  | .lb d b _ => [d, b]
  | .lbu d b _ => [d, b]
  | .ldW d b _ _ => [d, b]
  | .lwW d b _ _ => [d, b]
  | .lwuW d b _ _ => [d, b]
  | .lhW d b _ _ => [d, b]
  | .lhuW d b _ _ => [d, b]
  | .lbW d b _ _ => [d, b]
  | .lbuW d b _ _ => [d, b]
  | .ldX1 d b c _ _ => [d, b, c]
  | .lwX1 d b c _ _ => [d, b, c]
  | .lwuX1 d b c _ _ => [d, b, c]
  | .lhX1 d b c _ _ => [d, b, c]
  | .lhuX1 d b c _ _ => [d, b, c]
  | .lbX1 d b c _ _ => [d, b, c]
  | .lbuX1 d b c _ _ => [d, b, c]
  | .st a b _ => [a, b]
  | .sw a b _ => [a, b]
  | .sh a b _ => [a, b]
  | .sb a b _ => [a, b]
  | .stW a b _ _ => [a, b]
  | .swW a b _ _ => [a, b]
  | .shW a b _ _ => [a, b]
  | .sbW a b _ _ => [a, b]
  | .stX1 a b c _ _ => [a, b, c]
  | .swX1 a b c _ _ => [a, b, c]
  | .shX1 a b c _ _ => [a, b, c]
  | .sbX1 a b c _ _ => [a, b, c]
  | .vld _ b _ _ => [b]
  | .vst _ b _ _ => [b]
  | .vlds _ b c _ _ => [b, c]
  | .vsts _ b c _ _ => [b, c]
  | .vldW _ b _ _ _ _ => [b]
  | .vstW _ b _ _ _ _ => [b]
  | .vldsW _ b c _ _ _ _ => [b, c]
  | .vstsW _ b c _ _ _ _ => [b, c]
  | .vldX1 _ b _ _ _ _ => [b]
  | .vstX1 _ b _ _ _ _ => [b]
  | .vldsX1 _ b c _ _ _ _ => [b, c]
  | .vstsX1 _ b c _ _ _ _ => [b, c]
  | .vgath _ b _ _ _ => [b]
  | .vscat _ b _ _ _ => [b]
  | .vgathW _ b _ _ _ _ _ => [b]
  | .vscatW _ b _ _ _ _ _ => [b]
  | .aadd d b c _ _ => [d, b, c]
  | .aand d b c _ _ => [d, b, c]
  | .aor d b c _ _ => [d, b, c]
  | .axor d b c _ _ => [d, b, c]
  | .aswp d b c _ _ => [d, b, c]
  | .acas d b c _ _ => [d, b, c]
  | .amin d b c _ _ => [d, b, c]
  | .amax d b c _ _ => [d, b, c]
  | .aminu d b c _ _ => [d, b, c]
  | .amaxu d b c _ _ => [d, b, c]
  | .afadd d b c _ _ => [d, b, c]
  | .aaddW d b c _ _ _ => [d, b, c]
  | .aandW d b c _ _ _ => [d, b, c]
  | .aorW d b c _ _ _ => [d, b, c]
  | .axorW d b c _ _ _ => [d, b, c]
  | .aswpW d b c _ _ _ => [d, b, c]
  | .acasW d b c _ _ _ => [d, b, c]
  | .aminW d b c _ _ _ => [d, b, c]
  | .amaxW d b c _ _ _ => [d, b, c]
  | .aminuW d b c _ _ _ => [d, b, c]
  | .amaxuW d b c _ _ _ => [d, b, c]
  | .afaddW d b c _ _ _ => [d, b, c]
  | .tget d b => [d, b]
  | .tset b c => [b, c]
  | .tsetImm b _ => [b]
  | .tcas d b c => [d, b, c]
  | .tatld _ b => [b]
  | .sbinit b c => [b, c]
  | .sbarv d b _ => [d, b]
  | .sbwait d b c => [d, b, c]
  | .sbtest d b c => [d, b, c]
  | .waitTag b _ => [b]
  | .dqlen d => [d]
  | .joinWord b => [b]
  | .steal d b _ => [d, b]
  | .pcon b _ => [b]
  | .flushi b c _ => [b, c]
  | .spawn b _ => [b]
  | .vbcast _ c _ _ => [c]
  | .vsldn _ _ c _ _ => [c]
  | .vslup _ _ c _ _ => [c]
  | .vins _ b c _ _ => [b, c]
  | .vext d _ c _ => [d, c]
  | .vbcastW _ c _ _ => [c]
  | .vsldnW _ _ c _ _ => [c]
  | .vslupW _ _ c _ _ => [c]
  | .vinsW _ b c _ _ => [b, c]
  | .vextW d _ c _ => [d, c]
  | .vrsum d _ _ _ => [d]
  | .vrmin d _ _ _ => [d]
  | .vrmax d _ _ _ => [d]
  | .vrminu d _ _ _ => [d]
  | .vrmaxu d _ _ _ => [d]
  | .vrpopc d _ _ _ => [d]
  | .vrsumW d _ _ _ => [d]
  | .vrminW d _ _ _ => [d]
  | .vrmaxW d _ _ _ => [d]
  | .vrminuW d _ _ _ => [d]
  | .vrmaxuW d _ _ _ => [d]
  | .vrpopcW d _ _ _ => [d]
  | .vrfsum d _ _ _ _ => [d]
  | .vrfmin d _ _ _ _ => [d]
  | .vrfmax d _ _ _ _ => [d]
  | .vrfsumo d _ c _ _ _ => [d, c]
  | .mma k b c _ => [k, b, c]
  | .mmas k b c _ => [k, b, c]
  | .mmaW k b c _ _ _ => [k, b, c]
  | .mmasW k b c _ _ _ => [k, b, c]
  | .sclfeed b c => [b, c]
  | .mplane a b c _ => [a, b, c]
  | .munpl a b c _ => [a, b, c]
  | .mrnsin a b _ _ => [a, b]
  | .mplaneW a b c n _ => [a, b, c, n]
  | .munplW a b c n _ => [a, b, c, n]
  | .mrnsinW a b n _ _ => [a, b, n]
  | .dld _ b => [b]
  | .dsv _ b => [b]
  | .dput _ c _ => [c]
  | .dget d _ _ => [d]
  | .dins _ c _ _ _ => [c]
  | .dinit _ b c _ _ _ => [b, c]
  | .tmap _ _ c e _ _ => [c, e]
  | .tqry d _ => [d]
  | .cp t b c _ => [t, b, c]
  | .cps t b c g _ _ => [t, b, c, g]
  | .draw d => [d]
  | .rngkey k b c => [k, b, c]
  | .rngadv b c => [b, c]
  | .stampOpen b => [b]
  | .trmark b _ => [b]
  | .epreg d b => [d, b]
  | .rpost k hd _ => [k, hd]
  | .rlver d b c _ => [d, b, c]
  | .rjqry d b _ => [d, b]
  | .tcinvM b c _ => [b, c]
  | .vaddW _ _ c z _ _ _ => zScalars c z
  | .vsubW _ _ c z _ _ _ => zScalars c z
  | .vmulW _ _ c z _ _ _ => zScalars c z
  | .vmulhW _ _ c z _ _ => zScalars c z
  | .vminW _ _ c z _ _ => zScalars c z
  | .vmaxW _ _ c z _ _ => zScalars c z
  | .vminuW _ _ c z _ _ => zScalars c z
  | .vmaxuW _ _ c z _ _ => zScalars c z
  | .vand _ _ c z _ _ => zScalars c z
  | .vor _ _ c z _ _ => zScalars c z
  | .vxor _ _ c z _ _ => zScalars c z
  | .vsll _ _ c z _ _ => zScalars c z
  | .vsrl _ _ c z _ _ => zScalars c z
  | .vsra _ _ c z _ _ => zScalars c z
  | .vmulhu _ _ c z _ _ => zScalars c z
  | .vfaddW _ _ c z _ _ _ => zScalars c z
  | .vfsubW _ _ c z _ _ _ => zScalars c z
  | .vfmulW _ _ c z _ _ _ => zScalars c z
  | .vfdivW _ _ c z _ _ _ => zScalars c z
  | .vfminW _ _ c z _ _ _ => zScalars c z
  | .vfmaxW _ _ c z _ _ _ => zScalars c z
  | .vseqW _ _ c z _ _ => zScalars c z
  | .vsneW _ _ c z _ _ => zScalars c z
  | .vsltW _ _ c z _ _ => zScalars c z
  | .vsleW _ _ c z _ _ => zScalars c z
  | .vsltuW _ _ c z _ _ => zScalars c z
  | .vsleuW _ _ c z _ _ => zScalars c z
  | .vfeq _ _ c z _ _ => zScalars c z
  | .vfne _ _ c z _ _ => zScalars c z
  | .vflt _ _ c z _ _ => zScalars c z
  | .vfle _ _ c z _ _ => zScalars c z
  | .vfun _ _ c z _ _ => zScalars c z
  | .sleep b => [b]
  | _ => []

/-- The accumulator rows v16 to v31 (R107). -/
def accRegs : List VReg := (List.range 16).map (fun i => BitVec.ofNat 5 (16 + i))

/-- Vector register fields of an instruction; those that use the accumulator name its rows (R266). -/
def instrVectors : Instr → List VReg
  | .vld vd _ _ _ => [vd]
  | .vst vd _ _ _ => [vd]
  | .vlds vd _ _ _ _ => [vd]
  | .vsts vd _ _ _ _ => [vd]
  | .vldW vd _ _ _ _ _ => [vd]
  | .vstW vd _ _ _ _ _ => [vd]
  | .vldsW vd _ _ _ _ _ _ => [vd]
  | .vstsW vd _ _ _ _ _ _ => [vd]
  | .vldX1 vd _ _ _ _ _ => [vd]
  | .vstX1 vd _ _ _ _ _ => [vd]
  | .vldsX1 vd _ _ _ _ _ _ => [vd]
  | .vstsX1 vd _ _ _ _ _ _ => [vd]
  | .vgath vd _ c _ _ => [vd, c]
  | .vscat vd _ c _ _ => [vd, c]
  | .vgathW vd _ c _ _ _ _ => [vd, c]
  | .vscatW vd _ c _ _ _ _ => [vd, c]
  | .vadd d b c _ _ => [d, b, c]
  | .vsub d b c _ _ => [d, b, c]
  | .vmul d b c _ _ => [d, b, c]
  | .vmulh d b c _ _ => [d, b, c]
  | .vmin d b c _ _ => [d, b, c]
  | .vmax d b c _ _ => [d, b, c]
  | .vminu d b c _ _ => [d, b, c]
  | .vmaxu d b c _ _ => [d, b, c]
  | .vaddW d b c z _ _ _ => zVectors d b c z
  | .vsubW d b c z _ _ _ => zVectors d b c z
  | .vmulW d b c z _ _ _ => zVectors d b c z
  | .vmulhW d b c z _ _ => zVectors d b c z
  | .vminW d b c z _ _ => zVectors d b c z
  | .vmaxW d b c z _ _ => zVectors d b c z
  | .vminuW d b c z _ _ => zVectors d b c z
  | .vmaxuW d b c z _ _ => zVectors d b c z
  | .vand d b c z _ _ => zVectors d b c z
  | .vor d b c z _ _ => zVectors d b c z
  | .vxor d b c z _ _ => zVectors d b c z
  | .vsll d b c z _ _ => zVectors d b c z
  | .vsrl d b c z _ _ => zVectors d b c z
  | .vsra d b c z _ _ => zVectors d b c z
  | .vmulhu d b c z _ _ => zVectors d b c z
  | .vabs d b _ _ _ => [d, b]
  | .vfadd d b c _ _ => [d, b, c]
  | .vfsub d b c _ _ => [d, b, c]
  | .vfmul d b c _ _ => [d, b, c]
  | .vfdiv d b c _ _ => [d, b, c]
  | .vfmin d b c _ _ => [d, b, c]
  | .vfmax d b c _ _ => [d, b, c]
  | .vfsqrt d b _ _ => [d, b]
  | .vfaddW d b c z _ _ _ => zVectors d b c z
  | .vfsubW d b c z _ _ _ => zVectors d b c z
  | .vfmulW d b c z _ _ _ => zVectors d b c z
  | .vfdivW d b c z _ _ _ => zVectors d b c z
  | .vfminW d b c z _ _ _ => zVectors d b c z
  | .vfmaxW d b c z _ _ _ => zVectors d b c z
  | .vfsqrtW d b _ _ _ => [d, b]
  | .vfneg d b _ _ _ => [d, b]
  | .vfabs d b _ _ _ => [d, b]
  | .vfma d b c _ _ => [d, b, c]
  | .vfms d b c _ _ => [d, b, c]
  | .vfnma d b c _ _ => [d, b, c]
  | .vfnms d b c _ _ => [d, b, c]
  | .vmac d b c _ _ => [d, b, c]
  | .vdot d b c _ _ => [d, b, c]
  | .vdotu d b c _ _ => [d, b, c]
  | .vfmaW d b c e z _ _ _ => if z == 1 then [d, b, c, e] else [d, b, c]
  | .vfmsW d b c e z _ _ _ => if z == 1 then [d, b, c, e] else [d, b, c]
  | .vfnmaW d b c e z _ _ _ => if z == 1 then [d, b, c, e] else [d, b, c]
  | .vfnmsW d b c e z _ _ _ => if z == 1 then [d, b, c, e] else [d, b, c]
  | .vmacW d b c e z _ _ _ => if z == 1 then [d, b, c, e] else [d, b, c]
  | .vdotW d b c e z _ _ _ => if z == 1 then [d, b, c, e] else [d, b, c]
  | .vdotuW d b c e z _ _ _ => if z == 1 then [d, b, c, e] else [d, b, c]
  | .vseq d b c _ _ => [d, b, c]
  | .vsne d b c _ _ => [d, b, c]
  | .vslt d b c _ _ => [d, b, c]
  | .vsle d b c _ _ => [d, b, c]
  | .vsltu d b c _ _ => [d, b, c]
  | .vsleu d b c _ _ => [d, b, c]
  | .vseqW d b c z _ _ => zVectors d b c z
  | .vsneW d b c z _ _ => zVectors d b c z
  | .vsltW d b c z _ _ => zVectors d b c z
  | .vsleW d b c z _ _ => zVectors d b c z
  | .vsltuW d b c z _ _ => zVectors d b c z
  | .vsleuW d b c z _ _ => zVectors d b c z
  | .vfeq d b c z _ _ => zVectors d b c z
  | .vfne d b c z _ _ => zVectors d b c z
  | .vflt d b c z _ _ => zVectors d b c z
  | .vfle d b c z _ _ => zVectors d b c z
  | .vfun d b c z _ _ => zVectors d b c z
  | .vmov d b _ _ => [d, b]
  | .vbcast d _ _ _ => [d]
  | .vsldn d b _ _ _ => [d, b]
  | .vslup d b _ _ _ => [d, b]
  | .vperm d b c _ _ => [d, b, c]
  | .vins d _ _ _ _ => [d]
  | .vext _ b _ _ => [b]
  | .vmovW d b _ _ => [d, b]
  | .vbcastW d _ _ _ => [d]
  | .vsldnW d b _ _ _ => [d, b]
  | .vslupW d b _ _ _ => [d, b]
  | .vpermW d b c _ _ => [d, b, c]
  | .vinsW d _ _ _ _ => [d]
  | .vextW _ b _ _ => [b]
  | .vrsum _ b _ _ => [b]
  | .vrmin _ b _ _ => [b]
  | .vrmax _ b _ _ => [b]
  | .vrminu _ b _ _ => [b]
  | .vrmaxu _ b _ _ => [b]
  | .vrpopc _ b _ _ => [b]
  | .vrsumW _ b _ _ => [b]
  | .vrminW _ b _ _ => [b]
  | .vrmaxW _ b _ _ => [b]
  | .vrminuW _ b _ _ => [b]
  | .vrmaxuW _ b _ _ => [b]
  | .vrpopcW _ b _ _ => [b]
  | .vrfsum _ b _ _ _ => [b]
  | .vrfmin _ b _ _ _ => [b]
  | .vrfmax _ b _ _ _ => [b]
  | .vrfsumo _ b _ _ _ _ => [b]
  | .vftoi d b _ _ => [d, b]
  | .vftoiu d b _ _ => [d, b]
  | .vitof d b _ => [d, b]
  | .vutof d b _ => [d, b]
  | .vcvt d b _ r _ _ _ rm _ => if rm == 4 then [d, b, r] else [d, b]
  | .vexp2 d b _ _ => [d, b]
  | .vlog2 d b _ _ => [d, b]
  | .vrcp d b _ _ => [d, b]
  | .vrsqrt d b _ _ => [d, b]
  | .vtanh d b _ _ => [d, b]
  | .vsig d b _ _ => [d, b]
  | .vexp d b _ _ => [d, b]
  | .vexp2W d b _ _ _ => [d, b]
  | .vlog2W d b _ _ _ => [d, b]
  | .vrcpW d b _ _ _ => [d, b]
  | .vrsqrtW d b _ _ _ => [d, b]
  | .vtanhW d b _ _ _ => [d, b]
  | .vsigW d b _ _ _ => [d, b]
  | .vexpW d b _ _ _ => [d, b]
  | .drawV d => [d]
  | .rpost _ _ r => [r]
  | .modeM => accRegs
  | .mzero => accRegs
  | .mrnsoutRes30 _ => accRegs
  | .mrnsoutRes15 _ => accRegs
  | .mma _ _ _ _ => accRegs
  | .mmas _ _ _ _ => accRegs
  | .mmaW _ _ _ _ _ _ => accRegs
  | .mmasW _ _ _ _ _ _ => accRegs
  | _ => []

/-- Whether an instruction moves the window ring, or returns from the trap group, at every issue. -/
def instrMovesRing : Instr → Bool
  | .call _ | .callt _ _ _ _ | .calltW _ _ _ _ | .ret | .rets _ | .spawn _ _ | .eret => true
  | _ => false

/-- The mask register of an instruction, when it names one (R106). -/
def instrMaskReg : Instr → List VReg
  | .vld _ _ mk _ => [(0 : BitVec 3) ++ mk.extractLsb' 0 2]
  | .vst _ _ mk _ => [(0 : BitVec 3) ++ mk.extractLsb' 0 2]
  | .vlds _ _ _ mk _ => [(0 : BitVec 3) ++ mk.extractLsb' 0 2]
  | .vsts _ _ _ mk _ => [(0 : BitVec 3) ++ mk.extractLsb' 0 2]
  | .vldW _ _ mk _ _ _ => [(0 : BitVec 3) ++ mk.extractLsb' 0 2]
  | .vstW _ _ mk _ _ _ => [(0 : BitVec 3) ++ mk.extractLsb' 0 2]
  | .vldsW _ _ _ mk _ _ _ => [(0 : BitVec 3) ++ mk.extractLsb' 0 2]
  | .vstsW _ _ _ mk _ _ _ => [(0 : BitVec 3) ++ mk.extractLsb' 0 2]
  | .vldX1 _ _ mk _ _ _ => [(0 : BitVec 3) ++ mk.extractLsb' 0 2]
  | .vstX1 _ _ mk _ _ _ => [(0 : BitVec 3) ++ mk.extractLsb' 0 2]
  | .vldsX1 _ _ _ mk _ _ _ => [(0 : BitVec 3) ++ mk.extractLsb' 0 2]
  | .vstsX1 _ _ _ mk _ _ _ => [(0 : BitVec 3) ++ mk.extractLsb' 0 2]
  | .vgath _ _ _ mk _ => [(0 : BitVec 3) ++ mk.extractLsb' 0 2]
  | .vscat _ _ _ mk _ => [(0 : BitVec 3) ++ mk.extractLsb' 0 2]
  | .vgathW _ _ _ mk _ _ _ => [(0 : BitVec 3) ++ mk.extractLsb' 0 2]
  | .vscatW _ _ _ mk _ _ _ => [(0 : BitVec 3) ++ mk.extractLsb' 0 2]
  | .vadd _ _ _ mk _ => [(0 : BitVec 3) ++ mk.extractLsb' 0 2]
  | .vsub _ _ _ mk _ => [(0 : BitVec 3) ++ mk.extractLsb' 0 2]
  | .vmul _ _ _ mk _ => [(0 : BitVec 3) ++ mk.extractLsb' 0 2]
  | .vmulh _ _ _ mk _ => [(0 : BitVec 3) ++ mk.extractLsb' 0 2]
  | .vmin _ _ _ mk _ => [(0 : BitVec 3) ++ mk.extractLsb' 0 2]
  | .vmax _ _ _ mk _ => [(0 : BitVec 3) ++ mk.extractLsb' 0 2]
  | .vminu _ _ _ mk _ => [(0 : BitVec 3) ++ mk.extractLsb' 0 2]
  | .vmaxu _ _ _ mk _ => [(0 : BitVec 3) ++ mk.extractLsb' 0 2]
  | .vaddW _ _ _ _ mk _ _ => [(0 : BitVec 3) ++ mk.extractLsb' 0 2]
  | .vsubW _ _ _ _ mk _ _ => [(0 : BitVec 3) ++ mk.extractLsb' 0 2]
  | .vmulW _ _ _ _ mk _ _ => [(0 : BitVec 3) ++ mk.extractLsb' 0 2]
  | .vmulhW _ _ _ _ mk _ => [(0 : BitVec 3) ++ mk.extractLsb' 0 2]
  | .vminW _ _ _ _ mk _ => [(0 : BitVec 3) ++ mk.extractLsb' 0 2]
  | .vmaxW _ _ _ _ mk _ => [(0 : BitVec 3) ++ mk.extractLsb' 0 2]
  | .vminuW _ _ _ _ mk _ => [(0 : BitVec 3) ++ mk.extractLsb' 0 2]
  | .vmaxuW _ _ _ _ mk _ => [(0 : BitVec 3) ++ mk.extractLsb' 0 2]
  | .vand _ _ _ _ mk _ => [(0 : BitVec 3) ++ mk.extractLsb' 0 2]
  | .vor _ _ _ _ mk _ => [(0 : BitVec 3) ++ mk.extractLsb' 0 2]
  | .vxor _ _ _ _ mk _ => [(0 : BitVec 3) ++ mk.extractLsb' 0 2]
  | .vsll _ _ _ _ mk _ => [(0 : BitVec 3) ++ mk.extractLsb' 0 2]
  | .vsrl _ _ _ _ mk _ => [(0 : BitVec 3) ++ mk.extractLsb' 0 2]
  | .vsra _ _ _ _ mk _ => [(0 : BitVec 3) ++ mk.extractLsb' 0 2]
  | .vmulhu _ _ _ _ mk _ => [(0 : BitVec 3) ++ mk.extractLsb' 0 2]
  | .vabs _ _ mk _ _ => [(0 : BitVec 3) ++ mk.extractLsb' 0 2]
  | .vfadd _ _ _ mk _ => [(0 : BitVec 3) ++ mk.extractLsb' 0 2]
  | .vfsub _ _ _ mk _ => [(0 : BitVec 3) ++ mk.extractLsb' 0 2]
  | .vfmul _ _ _ mk _ => [(0 : BitVec 3) ++ mk.extractLsb' 0 2]
  | .vfdiv _ _ _ mk _ => [(0 : BitVec 3) ++ mk.extractLsb' 0 2]
  | .vfmin _ _ _ mk _ => [(0 : BitVec 3) ++ mk.extractLsb' 0 2]
  | .vfmax _ _ _ mk _ => [(0 : BitVec 3) ++ mk.extractLsb' 0 2]
  | .vfsqrt _ _ mk _ => [(0 : BitVec 3) ++ mk.extractLsb' 0 2]
  | .vfaddW _ _ _ _ mk _ _ => [(0 : BitVec 3) ++ mk.extractLsb' 0 2]
  | .vfsubW _ _ _ _ mk _ _ => [(0 : BitVec 3) ++ mk.extractLsb' 0 2]
  | .vfmulW _ _ _ _ mk _ _ => [(0 : BitVec 3) ++ mk.extractLsb' 0 2]
  | .vfdivW _ _ _ _ mk _ _ => [(0 : BitVec 3) ++ mk.extractLsb' 0 2]
  | .vfminW _ _ _ _ mk _ _ => [(0 : BitVec 3) ++ mk.extractLsb' 0 2]
  | .vfmaxW _ _ _ _ mk _ _ => [(0 : BitVec 3) ++ mk.extractLsb' 0 2]
  | .vfsqrtW _ _ mk _ _ => [(0 : BitVec 3) ++ mk.extractLsb' 0 2]
  | .vfneg _ _ mk _ _ => [(0 : BitVec 3) ++ mk.extractLsb' 0 2]
  | .vfabs _ _ mk _ _ => [(0 : BitVec 3) ++ mk.extractLsb' 0 2]
  | .vfma _ _ _ mk _ => [(0 : BitVec 3) ++ mk.extractLsb' 0 2]
  | .vfms _ _ _ mk _ => [(0 : BitVec 3) ++ mk.extractLsb' 0 2]
  | .vfnma _ _ _ mk _ => [(0 : BitVec 3) ++ mk.extractLsb' 0 2]
  | .vfnms _ _ _ mk _ => [(0 : BitVec 3) ++ mk.extractLsb' 0 2]
  | .vmac _ _ _ mk _ => [(0 : BitVec 3) ++ mk.extractLsb' 0 2]
  | .vdot _ _ _ mk _ => [(0 : BitVec 3) ++ mk.extractLsb' 0 2]
  | .vdotu _ _ _ mk _ => [(0 : BitVec 3) ++ mk.extractLsb' 0 2]
  | .vfmaW _ _ _ _ _ mk _ _ => [(0 : BitVec 3) ++ mk.extractLsb' 0 2]
  | .vfmsW _ _ _ _ _ mk _ _ => [(0 : BitVec 3) ++ mk.extractLsb' 0 2]
  | .vfnmaW _ _ _ _ _ mk _ _ => [(0 : BitVec 3) ++ mk.extractLsb' 0 2]
  | .vfnmsW _ _ _ _ _ mk _ _ => [(0 : BitVec 3) ++ mk.extractLsb' 0 2]
  | .vmacW _ _ _ _ _ mk _ _ => [(0 : BitVec 3) ++ mk.extractLsb' 0 2]
  | .vdotW _ _ _ _ _ mk _ _ => [(0 : BitVec 3) ++ mk.extractLsb' 0 2]
  | .vdotuW _ _ _ _ _ mk _ _ => [(0 : BitVec 3) ++ mk.extractLsb' 0 2]
  | .vseq _ _ _ mk _ => [(0 : BitVec 3) ++ mk.extractLsb' 0 2]
  | .vsne _ _ _ mk _ => [(0 : BitVec 3) ++ mk.extractLsb' 0 2]
  | .vslt _ _ _ mk _ => [(0 : BitVec 3) ++ mk.extractLsb' 0 2]
  | .vsle _ _ _ mk _ => [(0 : BitVec 3) ++ mk.extractLsb' 0 2]
  | .vsltu _ _ _ mk _ => [(0 : BitVec 3) ++ mk.extractLsb' 0 2]
  | .vsleu _ _ _ mk _ => [(0 : BitVec 3) ++ mk.extractLsb' 0 2]
  | .vseqW _ _ _ _ mk _ => [(0 : BitVec 3) ++ mk.extractLsb' 0 2]
  | .vsneW _ _ _ _ mk _ => [(0 : BitVec 3) ++ mk.extractLsb' 0 2]
  | .vsltW _ _ _ _ mk _ => [(0 : BitVec 3) ++ mk.extractLsb' 0 2]
  | .vsleW _ _ _ _ mk _ => [(0 : BitVec 3) ++ mk.extractLsb' 0 2]
  | .vsltuW _ _ _ _ mk _ => [(0 : BitVec 3) ++ mk.extractLsb' 0 2]
  | .vsleuW _ _ _ _ mk _ => [(0 : BitVec 3) ++ mk.extractLsb' 0 2]
  | .vfeq _ _ _ _ mk _ => [(0 : BitVec 3) ++ mk.extractLsb' 0 2]
  | .vfne _ _ _ _ mk _ => [(0 : BitVec 3) ++ mk.extractLsb' 0 2]
  | .vflt _ _ _ _ mk _ => [(0 : BitVec 3) ++ mk.extractLsb' 0 2]
  | .vfle _ _ _ _ mk _ => [(0 : BitVec 3) ++ mk.extractLsb' 0 2]
  | .vfun _ _ _ _ mk _ => [(0 : BitVec 3) ++ mk.extractLsb' 0 2]
  | .vmov _ _ mk _ => [(0 : BitVec 3) ++ mk.extractLsb' 0 2]
  | .vbcast _ _ mk _ => [(0 : BitVec 3) ++ mk.extractLsb' 0 2]
  | .vsldn _ _ _ mk _ => [(0 : BitVec 3) ++ mk.extractLsb' 0 2]
  | .vslup _ _ _ mk _ => [(0 : BitVec 3) ++ mk.extractLsb' 0 2]
  | .vperm _ _ _ mk _ => [(0 : BitVec 3) ++ mk.extractLsb' 0 2]
  | .vins _ _ _ mk _ => [(0 : BitVec 3) ++ mk.extractLsb' 0 2]
  | .vmovW _ _ mk _ => [(0 : BitVec 3) ++ mk.extractLsb' 0 2]
  | .vbcastW _ _ mk _ => [(0 : BitVec 3) ++ mk.extractLsb' 0 2]
  | .vsldnW _ _ _ mk _ => [(0 : BitVec 3) ++ mk.extractLsb' 0 2]
  | .vslupW _ _ _ mk _ => [(0 : BitVec 3) ++ mk.extractLsb' 0 2]
  | .vpermW _ _ _ mk _ => [(0 : BitVec 3) ++ mk.extractLsb' 0 2]
  | .vinsW _ _ _ mk _ => [(0 : BitVec 3) ++ mk.extractLsb' 0 2]
  | .vrsum _ _ mk _ => [(0 : BitVec 3) ++ mk.extractLsb' 0 2]
  | .vrmin _ _ mk _ => [(0 : BitVec 3) ++ mk.extractLsb' 0 2]
  | .vrmax _ _ mk _ => [(0 : BitVec 3) ++ mk.extractLsb' 0 2]
  | .vrminu _ _ mk _ => [(0 : BitVec 3) ++ mk.extractLsb' 0 2]
  | .vrmaxu _ _ mk _ => [(0 : BitVec 3) ++ mk.extractLsb' 0 2]
  | .vrpopc _ _ mk _ => [(0 : BitVec 3) ++ mk.extractLsb' 0 2]
  | .vrsumW _ _ mk _ => [(0 : BitVec 3) ++ mk.extractLsb' 0 2]
  | .vrminW _ _ mk _ => [(0 : BitVec 3) ++ mk.extractLsb' 0 2]
  | .vrmaxW _ _ mk _ => [(0 : BitVec 3) ++ mk.extractLsb' 0 2]
  | .vrminuW _ _ mk _ => [(0 : BitVec 3) ++ mk.extractLsb' 0 2]
  | .vrmaxuW _ _ mk _ => [(0 : BitVec 3) ++ mk.extractLsb' 0 2]
  | .vrpopcW _ _ mk _ => [(0 : BitVec 3) ++ mk.extractLsb' 0 2]
  | .vrfsum _ _ mk _ _ => [(0 : BitVec 3) ++ mk.extractLsb' 0 2]
  | .vrfmin _ _ mk _ _ => [(0 : BitVec 3) ++ mk.extractLsb' 0 2]
  | .vrfmax _ _ mk _ _ => [(0 : BitVec 3) ++ mk.extractLsb' 0 2]
  | .vrfsumo _ _ _ mk _ _ => [(0 : BitVec 3) ++ mk.extractLsb' 0 2]
  | .vftoi _ _ mk _ => [(0 : BitVec 3) ++ mk.extractLsb' 0 2]
  | .vftoiu _ _ mk _ => [(0 : BitVec 3) ++ mk.extractLsb' 0 2]
  | .vitof _ _ mk => [(0 : BitVec 3) ++ mk.extractLsb' 0 2]
  | .vutof _ _ mk => [(0 : BitVec 3) ++ mk.extractLsb' 0 2]
  | .vcvt _ _ _ _ mk _ _ _ _ => [(0 : BitVec 3) ++ mk.extractLsb' 0 2]
  | .vexp2 _ _ mk _ => [(0 : BitVec 3) ++ mk.extractLsb' 0 2]
  | .vlog2 _ _ mk _ => [(0 : BitVec 3) ++ mk.extractLsb' 0 2]
  | .vrcp _ _ mk _ => [(0 : BitVec 3) ++ mk.extractLsb' 0 2]
  | .vrsqrt _ _ mk _ => [(0 : BitVec 3) ++ mk.extractLsb' 0 2]
  | .vtanh _ _ mk _ => [(0 : BitVec 3) ++ mk.extractLsb' 0 2]
  | .vsig _ _ mk _ => [(0 : BitVec 3) ++ mk.extractLsb' 0 2]
  | .vexp _ _ mk _ => [(0 : BitVec 3) ++ mk.extractLsb' 0 2]
  | .vexp2W _ _ mk _ _ => [(0 : BitVec 3) ++ mk.extractLsb' 0 2]
  | .vlog2W _ _ mk _ _ => [(0 : BitVec 3) ++ mk.extractLsb' 0 2]
  | .vrcpW _ _ mk _ _ => [(0 : BitVec 3) ++ mk.extractLsb' 0 2]
  | .vrsqrtW _ _ mk _ _ => [(0 : BitVec 3) ++ mk.extractLsb' 0 2]
  | .vtanhW _ _ mk _ _ => [(0 : BitVec 3) ++ mk.extractLsb' 0 2]
  | .vsigW _ _ mk _ _ => [(0 : BitVec 3) ++ mk.extractLsb' 0 2]
  | .vexpW _ _ mk _ _ => [(0 : BitVec 3) ++ mk.extractLsb' 0 2]
  | _ => []

end Sys2Proof.Machine
end

