-- ==== Sys2Proof/Machine/Turns.lean ====
section
/-!
DEFINITION. Turns: what one core's or one unit's cycle runs, which thread issues, and what its issue does (03 R32, R33; 24 R341; DESIGN CHOICE: log entry 4).
-/

namespace Sys2Proof.Machine

/-- An event as the row of the table that it is. -/
noncomputable def eventInstr : Event → Instr
  | .gridOperationComplete core => .gridOperationComplete core
  | .blockEvaluation core => .blockEvaluation core
  | .copyCommandStart core => .copyCommandStart core
  | .copyCommandEnd core => .copyCommandEnd core
  | .sleepExpiry core slot => .sleepExpiry core slot
  | .bankOperation core slot acc => .bankOperation core slot acc
  | .waiterReevaluation w => .waiterReevaluation w
  | .rdrReissue core slot => .rdrReissue core slot
  | .remoteWaitRetry core slot => .remoteWaitRetry core slot
  | .tagWaitWatchdog core agent slot => .tagWaitWatchdog core agent slot
  | .accessCompletion core slot acc point => .accessCompletion core slot acc point
  | .backgroundSpill core slot => .backgroundSpill core slot
  | .barrierRoundRelease sc key => .barrierRoundRelease sc key
  | .gateCommit core => .gateCommit core
  | .ungateStart core => .ungateStart core
  | .ungateComplete core => .ungateComplete core
  | .lateTrapEntry core slot => .lateTrapEntry core slot
  | .preemptNotice core slot => .preemptNotice core slot
  | .pbudgetExpiry core slot => .pbudgetExpiry core slot
  | .preemptSave g => .preemptSave g
  | .gangResume g => .gangResume g
  | .translationWalk w => .translationWalk w
  | .fackStore fn idx => .fackStore fn idx
  | .queueWriteStore q v => .queueWriteStore q v
  | .prioStore q v => .prioStore q v
  | .preemptRequest q => .preemptRequest q
  | .dependenceReread => .dependenceReread
  | .packetSelection => .packetSelection
  | .gangPlacement => .gangPlacement
  | .placementWaitExpiry l => .placementWaitExpiry l
  | .launchCompletion l => .launchCompletion l
  | .rewardMessageHandling u => .rewardMessageHandling u
  | .partRecorded u ent => .partRecorded u ent
  | .zeroFillDone u ent => .zeroFillDone u ent
  | .deadline u => .deadline u
  | .fullerScanDone u ent => .fullerScanDone u ent
  | .episodeRelease u ent => .episodeRelease u ent
  | .lreadReread u grp => .lreadReread u grp
  | .readMsg m => .readMsg m
  | .readReply m => .readReply m
  | .writeMsg m => .writeMsg m
  | .acknowledge m => .acknowledge m
  | .atomicMsg m => .atomicMsg m
  | .atomicReply m => .atomicReply m
  | .putWithSignal m => .putWithSignal m
  | .rewardMsg m => .rewardMsg m
  | .barrierMsg m => .barrierMsg m
  | .stopMessage m => .stopMessage m
  | .errorMsg m => .errorMsg m
  | .sessionMsg m => .sessionMsg m
  | .linkFailure k => .linkFailure k
  | .stopTakesEffect core => .stopTakesEffect core
  | .stopCmd core => .stopCmd core
  | .resumeCmd core => .resumeCmd core
  | .resumeTakesEffect core => .resumeTakesEffect core
  | .stepCmd core slot => .stepCmd core slot
  | .wpctlWrite core n v => .wpctlWrite core n v
  | .slotWindowWrite core slot off v => .slotWindowWrite core slot off v
  | .registerWrite a v => .registerWrite a v
  | .dumpGang => .dumpGang
  | .rctlStore fn v => .rctlStore fn v
  | .invalidateTranslations fn => .invalidateTranslations fn
  | .invalidateRange fn => .invalidateRange fn
  | .functionLevelReset fn => .functionLevelReset fn
  | .replay fn => .replay fn
  | .assign fn => .assign fn
  | .release fn => .release fn
  | .create fn => .create fn
  | .destroy fn => .destroy fn
  | .queueOp fn => .queueOp fn
  | .region fn => .region fn
  | .report fn => .report fn
  | .extend fn => .extend fn
  | .sessionOperation fn => .sessionOperation fn
  | .rootOp fn => .rootOp fn
  | .writeOperation fn => .writeOperation fn
  | .sleepOperation fn => .sleepOperation fn
  | .deepSleepEntry => .deepSleepEntry
  | .managementWake => .managementWake
  | .coldReset => .coldReset
  | .powerLoss => .powerLoss
  | .thermalWarning die => .thermalWarning die
  | .thermalWarningClear die => .thermalWarningClear die
  | .criticalTrip => .criticalTrip
  | .debugUnlock dev life nonce perm sig => .debugUnlock dev life nonce perm sig
  | .provisioning => .provisioning
  | .productionFuse => .productionFuse
  | .retireFuse => .retireFuse
  | .notAnInstruction cls code tval => .notAnInstruction cls code tval
  | .flushiAcknowledgement core slot => .flushiAcknowledgement core slot
  | .tcinvAcknowledgement core slot => .tcinvAcknowledgement core slot
  | .unitInstructionHandling u => .unitInstructionHandling u
  | .fabricDrop m => .fabricDrop m
  | .cxlLinkDown p => .cxlLinkDown p

/-! ### Eligible threads (R32, R33) -/

/-- What the next slot of a thread holds, as far as it can be seen before its line is fetched: a line in the cache, or one in the memory of the package. -/
noncomputable def State.peek (s : State) (t : Tid) : Option Instr :=
  let x := s.slot t
  let ctx := s.ctxOf t.core
  let la := lineAddr x.pc
  let l : Option Line := match (s.core t.core).cached ctx la with
    | some l => some l
    | none => match s.translate t.core ctx la .fetch with
      | .home h => if homeKind h ≤ 1 then some (Memory.line s.mem h) else none
      | _ => none
  match l with
  | none => none
  | some l => match decodeSlot l (slotIndex x.pc) with
    | .ok i => some i
    | .error _ => none

/-- Whether an instruction names a register that an outstanding access is still to write (R32, R174). -/
def Slot.depends (x : Slot) (i : Instr) : Bool :=
  let locs := (instrScalars i).map x.regs.loc
  let vs := instrVectors i ++ instrMaskReg i
  x.outs.any (fun o => match o.dest with
    | .none => false
    | .scalar l _ _ | .fadd l => locs.contains l || instrMovesRing i
    | .vector r _ _ => vs.contains r)

/-- Whether the next instruction is known to be such a one. -/
noncomputable def State.interlocked (s : State) (t : Tid) : Bool :=
  let x := s.slot t
  if x.outs.isEmpty then false
  else
    match s.peek t with
    | none => false
    | some i => x.depends i

/-- Whether a gang's threads issue no more: it has met a fatal trap, or stops to be saved. -/
def State.gangDead (s : State) (id : Nat) : Bool := ((s.gang id).map (fun g => g.fatal.isSome || g.preempt)).getD false

/-- READY and able to issue (R32); a thread of a gang that met a fatal trap never issues (R344). -/
noncomputable def State.eligible (s : State) (t : Tid) : Bool :=
  let x := s.slot t
  (x.st == .ready || (x.st == .stopped && x.heldSt != .parked && (s.core t.core).dbg.stepping == some t.slot)) && !s.gangDead x.gang &&
    !(s.core t.core).gated && (x.cont.isSome || !s.interlocked t)

/-- The slot that a core issues from in a cycle (R33). -/
noncomputable def State.rotate (s : State) (n : Nat) : Option (BitVec 3) :=
  let owner : BitVec 3 := (s.core n).cyc.extractLsb' 0 3
  let step := (s.core n).dbg.stepping
  let held (k : BitVec 3) : Bool := (s.slot ⟨n, k⟩).st == .stopped && step != some k
  if held owner then none
  else if s.eligible ⟨n, owner⟩ then some owner
  else ([1, 2, 3, 4, 5, 6, 7].map (fun (i : BitVec 3) => owner + i)).find? (fun k => !held k && s.eligible ⟨n, k⟩)

/-! ### One instruction -/

/-- A slot that was STOPPED is so again, with the state that it has come to held. -/
def State.stopAgain (s : State) (t : Tid) : State :=
  let x := s.slot t
  if x.st == .empty || x.st == .stopped then s else s.setSlot t { x with st := .stopped, heldSt := x.st }

/-- The end of a single step of a slot that was x (R369, R371): the slot is STOPPED again, keeping what it waits for. A slot that has issued nothing, since
its line is still to come or a register is, takes part in the rotation until it does. -/
def State.endStep (s : State) (t : Tid) (x : Slot) : State :=
  if (s.core t.core).dbg.stepping == some t.slot then
    let y := s.slot t
    let s1 := s.stopAgain t
    if y == x || (y.st == .parked && y.cont.isNone) then s1
    else
      (s1.setCore t.core { s1.core t.core with dbg := { (s1.core t.core).dbg with stepping := none } }).traceAt t 7 0 x.pc y.pc
  else s

/-- Runs one decoded instruction, or the trap of the check it fails (R120). -/
noncomputable def State.run (s : State) (d : Except Reject Instr) (report : Word) : Out3 :=
  match d with
  | .ok i => exec i s
  | .error r => exec (.notAnInstruction (BitVec.ofNat 5 (rejectClass r)) 0 report) s

/-- Counts an instruction that issues between a hit and its stop, for each stop that is on its way to the core (R367). -/
def State.countSkid (s : State) : State :=
  let k := s.cur.slot.toNat
  { s with stops := s.stops.map (fun m =>
      if m.core == s.cur.core && decide (m.hit < s.myCore.cyc.toNat) then { m with issued := m.issued.setIfInBounds k (m.issued[k]?.getD 0 + 1) } else m) }

/-- The issue of the instruction at a thread's PC once its line is there; one that depends on an outstanding access is not issued (R174). -/
noncomputable def State.issueLine (s : State) (x : Slot) (l : Line) : Out3 :=
  match l.slots[slotIndex x.pc]? with
  | none => exec (.notAnInstruction 1 1 x.src) s
  | some (.overlap h) => s.run (.error .overlappingHead) ((0 : BitVec 48) ++ h)
  | some (.instr h tl) =>
    let d := decodeHT h tl
    if (match d with
      | .ok i => x.depends i
      | .error _ => false) then .next s
    else { s with npc := nextPc l x.pc, ir := (h, tl) }.countSkid.run d (tl.report ++ h)

/-- The issue of a thread at an instruction boundary (R341): what is pending first, then the parked instruction again or the
instruction at its PC. -/
noncomputable def State.issue (s : State) (t : Tid) : Out3 :=
  let s0 := { s with cur := t }
  let x := s0.me
  match x.cont with
  | some c =>
    { s0 with npc := c.npc, ir := (c.head, c.tail) }.run (decodeHT c.head c.tail) 0
  | none =>
    if !x.lates.isEmpty && !x.cr.intrap then exec (.lateTrapEntry t.core t.slot) s0
    else if x.notice == 1 && !x.cr.intrap then exec (.preemptNotice t.core t.slot) s0
    else
      match s0.fetchLine x.pc with
      | .trap i s1 => .next (s1.precise i)
      | .park w s1 => .next ({ s1 with npc := x.pc, ir := (0xFFFF, .none) }.parkFetch w)
      | .done s1 => .next s1
      | .ok l s1 => s1.issueLine x l

/-- Where an instruction has ended, so has the forcing that it needed (R96); those that take effect after it go on (R150, R192). -/
def State.unforced (s : State) (t : Tid) : State := if (s.slot t).cont.isNone then (s.settle (.thread t)).wakeOrder t.core else s

/-- The same, with the end of a forcing and of a single step after it. -/
noncomputable def State.issueStep (s : State) (t : Tid) : Out3 :=
  match s.issue t with
  | .next s1 => .next ((s1.unforced t).endStep t (s.slot t))
  | r => r

/-- A STOPPED thread whose parked instruction has met its event: the instruction had issued, and runs to completion (R365). DEDUCED: log entry 16. -/
def State.finishes (s : State) (t : Tid) : Bool :=
  let x := s.slot t
  x.st == .stopped && x.heldSt == .ready && x.cont.isSome && !s.gangDead x.gang

/-- A READY thread whose parked instruction has met its event: the instruction goes on outside the rotation (R35, R166). -/
def State.proceeds (s : State) (t : Tid) : Bool :=
  let x := s.slot t
  x.st == .ready && x.cont.isSome && !s.gangDead x.gang

/-- Goes on with the parked instruction of a STOPPED thread, which stays so. -/
noncomputable def State.finishStopped (s : State) (t : Tid) : Out3 :=
  match s.issue t with
  | .next s1 => .next ((s1.unforced t).stopAgain t)
  | r => r

/-! ### Turns -/

/-- Moves the timers of a unit that are due to the list of things to do. -/
def State.fire (s : State) (unit now : Nat) : State :=
  let due := s.timers.filter (fun t => t.unit == unit && decide (t.at_ ≤ now))
  let s1 := { s with timers := s.timers.filter (fun t => !(t.unit == unit && decide (t.at_ ≤ now))) }
  due.foldl (fun s t => s.post t.ev) s1

/-- One cycle of the counts that a delivered notice runs down (R322). -/
def State.countBudgets (s : State) (n : Nat) : State :=
  slotNums.foldl (fun s k =>
    let x := s.slot ⟨n, k⟩
    if x.notice == 2 && x.st != .stopped && x.st != .empty && x.cr.pbudget != 0 then
      let b := x.cr.pbudget - 1
      let s1 := s.setSlot ⟨n, k⟩ { x with cr := { x.cr with pbudget := b } }
      if b == 0 then s1.post (.pbudgetExpiry n k) else s1
    else s) s

/-- Whether a slot lets its core be idle (R59): EMPTY, or PARKED in one of the waits that the rule lists, with no access outstanding. The thread of an MMA
is, when the grid stalls under a WAIT action (R165). -/
def Slot.idle (x : Slot) (gridStalls : Bool) : Bool :=
  x.outs.isEmpty && x.stamps.isEmpty &&
  (match x.st with
    | .empty => true
    | .parked => match x.await with
      | .table _ | .tag _ | .join _ | .steal _ none | .portUp | .portDown | .vportUp | .vportDown => true
      | .grid => gridStalls
      | _ => false
    | _ => false)

/-- Whether an access from elsewhere to a core's local store is pending (R59): one that a table makes wait is not (R165). -/
def State.expects (s : State) (n : Nat) : Bool :=
  let at_ (h : Nat) : Bool := homeIsLs h && homeCore h == n
  s.waiters.any (fun w => w.gate && at_ w.home) ||
  s.cores.any (fun p => p.1 != n && slotNums.any (fun k => (p.2.slot k).outs.any (fun o => o.items.any (fun i =>
    !i.done && at_ i.home && (match i.stall with
      | .table _ => false
      | _ => true)))))

/-- Whether a core is idle in a cycle (R59). -/
def State.idleCore (s : State) (n : Nat) : Bool :=
  let c := s.core n
  let stalls := s.waiters.any (fun w => w.agent == .grid n && w.table)
  c.copies.isEmpty && (c.grid.isNone || stalls) && c.demands.isEmpty && slotNums.all (fun k => (c.slot k).idle stalls) && !s.expects n

/-- The closed tile stamps of a core's threads that are still on their way (R373). -/
def State.sendStamps (s : State) (n : Nat) : State :=
  slotNums.foldl (fun s k =>
    let m := (s.slot ⟨n, k⟩).stamps.length
    if m = 0 then s else s.stampWork ⟨n, k⟩ m) s

/-- The end of a core's cycle: count, idle count, timers (R27, R59). A gated core's count stands still. -/
def State.tick (s : State) (n : Nat) : State :=
  let c := s.core n
  if c.gated then s
  else
    let idle := if s.idleCore n then c.idle + 1 else 0
    let s1 := s.setCore n { c with cyc := c.cyc + 1, idle := idle }
    let s2 := ((s1.sendStamps n).countBudgets n).fire n (c.cyc.toNat + 1)
    if c.gdly != 0 && idle == c.gdly.toNat then s2.post (.gateCommit n) else s2

/-- A core's cycle: its rotation issues at most one instruction (R33). -/
noncomputable def State.coreTurn (s : State) (n : Nat) : Out3 :=
  match s.rotate n with
  | none => .next ((s.postSpills n).tick n)
  | some k =>
    match s.issueStep ⟨n, k⟩ with
    | .next s1 => .next (s1.tick n)
    | r => r

/-- A cycle of an I/O die unit (R26, R27): the dispatcher and with it the secure service core (0), join unit 0 or 1. -/
def State.clockTurn (s : State) (u : Nat) : State :=
  match u with
  | 0 => (s.dispClock.fire 8192 (s.dispCount.toNat + 1)).sscClock
  | k + 1 => (s.joinClock k).fire (8193 + k) ((s.join k).count.toNat + 1)

/-- A bit error (R354, R355, R409). What it does to a reader is said where the reader reads; the counts of corrected errors
are logged for a recording (R376, R377); one in a thread's registers is fatal to its gang. -/
def State.upset (s : State) : Upset → State
  | .corrected off =>
    if 0x400 ≤ off ∧ off < 0x4C0 ∧ off % 8 = 0 then
      let n := SMap.getD s.plat.ecc off 0
      let v := if n = BitVec.allOnes 64 then n else n + 1
      let s1 := { s with plat := { s.plat with ecc := SMap.put s.plat.ecc off v } }
      s1.replays.foldl (fun s r => s.logFor r.fn 2 [BitVec.ofNat 64 ((off - 0x400) / 8), v, 0, 0]) s1
    else s
  | .data h =>
    if homeIsLs h then { s with poison := NSet.add s.poison (wordOf h) }
    else if homeKind h ≤ 1 then { s with poison := NSet.add s.poison (lineOfHome h) }
    else s
  | .tagBits h => if homeIsLs h then { s with badTags := NSet.add s.badTags (wordOf h) } else s
  | .lineTag h => if homeIsLs h then s else { s with badLines := NSet.add s.badLines (lineOfHome h) }
  | .registers t => if (s.slot t).st == .empty then s else s.fatal t (trapOf 0 0 0) (s.slot t).pc
  | .message n => { s with badMsgs := NSet.add s.badMsgs n }
  | .saved g v => s.setSsc { s.ssc with retained := s.ssc.retained.map (fun r => { r with regions := SMap.setD r.regions g 0 v }) }
  | .wrapped k bs =>
    s.setSsc { s.ssc with retained := s.ssc.retained.map (fun r => match SMap.find r.wrapped k with
      | some p => { r with wrapped := SMap.put r.wrapped k (p.1, bs) }
      | none => r) }

/-- A value of the platform's sensors, as it is sampled (R409). -/
def State.sample (s : State) (k : Nat) (v : Word) : State := { s with plat := { s.plat with sensors := SMap.put s.plat.sensors k v } }

/-- Whether the package is up: it runs, and its boot is over (R407, R408). -/
def State.up (s : State) : Bool := s.plat.power == .run && s.plat.boot == 6

/-- Whether an event reaches the package without its links and cores: a management command, a loss of power, a limit (R408). -/
def Event.always : Event → Bool
  | .managementWake | .coldReset | .powerLoss | .criticalTrip | .thermalWarning _ | .thermalWarningClear _ => true
  | _ => false

/-- The first core that has not had the present cycle of the core clock and issues in it. -/
noncomputable def State.nextIssuer (s : State) : Option Nat :=
  (s.cores.map (·.1)).find? (fun n => decide (s.nextCore ≤ n) && (s.rotate n).isSome)

/-- The present cycle passes on the cores from nextCore to below hi, none of which issues. -/
def State.passTo (s : State) (hi : Nat) : State :=
  let ns := (s.cores.map (·.1)).filter (fun n => decide (s.nextCore ≤ n) && decide (n < hi))
  { ns.foldl (fun s n => (s.postSpills n).tick n) s with nextCore := hi }

/-- The end of a cycle of the core clock. A cycle of the I/O die units comes with every second one (R26; DESIGN CHOICE: log entry 5). -/
def State.endCycle (s : State) : State :=
  let s1 := { s.passTo 4096 with clock := s.clock + 1, nextCore := 0 }
  if s1.clock % 2 = 0 then ((s1.clockTurn 0).clockTurn 1).clockTurn 2 else s1

/-- A turn that the agenda does not name: the next core that issues in the present cycle of the core clock has its cycle; when no core is left
that does, the cycle ends. -/
noncomputable def State.freeTurn (s : State) : Out3 :=
  match s.nextIssuer with
  | none => .next s.endCycle
  | some n =>
    match (s.passTo n).coreTurn n with
    | .next s1 =>
      let s2 := { s1 with nextCore := n + 1 }
      .next (if s2.cores.any (fun p => decide (n < p.1)) then s2 else s2.endCycle)
    | r => r

/-- A thread whose parked instruction has met its event goes on with it. -/
noncomputable def State.goOn (s : State) (t : Tid) : Out3 :=
  if s.proceeds t then s.issueStep t else if s.finishes t then s.finishStopped t else .next s

/-- The first thing to do, when it is a re-evaluation of a waiter. -/
def firstWake : List Event → Option (Event × List Event)
  | .waiterReevaluation w :: es => some (.waiterReevaluation w, es)
  | _ => none

/-- The re-evaluation that comes next of those that are due: of a waiter for a write, which belongs to the bank operation of the write (R51, R210), and
otherwise the first in the order of waiters (R166, R171). -/
def State.nextWake (s : State) (w : Event) : Event :=
  ((s.todo.takeWhile Event.isWake).find? (fun e => match e with
    | .waiterReevaluation k => s.waiters.any (fun x => x.seq == k && x.onWrite)
    | _ => false)).getD w

/-- The thread whose access a re-evaluation evaluates. -/
def State.wakes (s : State) (e : Event) : Option Tid :=
  match e with
  | .waiterReevaluation k => (s.waiters.find? (fun x => x.seq == k)).bind (fun x => match x.agent with
    | .thread t => some t
    | _ => none)
  | _ => none

/-- One re-evaluation, a bank operation ahead of every new request (R166): that of a thread's access is made by its instruction, which goes on. -/
noncomputable def State.wakeStep (s : State) (w : Event) : Out3 :=
  let e := s.nextWake w
  match exec (eventInstr e) { s with todo := s.todo.erase e } with
  | .next s1 =>
    (match s.wakes e with
    | some t => { s1 with urgent := s1.urgent.filter (· != t) }.goOn t
    | none => .next s1)
  | r => r

end Sys2Proof.Machine
end

