-- ==== Sys2Proof/Machine/Step.lean ====
section
/-!
DEFINITION. One step of the package: whose turn it is (DESIGN CHOICE: log entry 4), and how an instruction is placed where the next step fetches.
-/

namespace Sys2Proof.Machine

/-- A step of a package that is not up: what reaches it from outside, or else the next step of its boot. Without power it stops. -/
noncomputable def State.downStep (s : State) : Out3 :=
  match s.agenda with
  | a :: as =>
    let s1 := { s with agenda := as }
    (match a with
    | .event e => if s.plat.power == .run || e.always then exec (eventInstr e) s1 else .next s1
    | .upset k => .next (if s.plat.power == .off then s1 else s1.upset k)
    | .sample k v => .next (if s.plat.power == .off then s1 else s1.sample k v)
    | _ => .next s1)
  | [] =>
    match s.plat.power with
    | .off => .fault .poweredOff
    | .deepSleep => .next s
    | .run => if s.plat.boot == 0 then exec .coldReset s else .next s.bootStep

/-- One step of the package. -/
noncomputable def step (s : State) : Host.Outcome State Fault Refusal :=
  if !s.up then s.downStep
  else
    match firstWake s.todo with
    | some (e, _) => s.wakeStep e
    | none =>
      match s.urgent with
      | t :: ts => { s with urgent := ts }.goOn t
      | [] =>
        match s.agenda with
        | a :: as =>
          let s1 := { s with agenda := as }
          (match a with
          | .event e => exec (eventInstr e) s1
          | .core n => s1.coreTurn n
          | .clock u => .next (s1.clockTurn u)
          | .upset k => .next (s1.upset k)
          | .sample k v => .next (s1.sample k v)
          | .todo k =>
            match s1.todo[k]? with
            | some e => exec (eventInstr e) { s1 with todo := s1.todo.eraseIdx k }
            | none => .next s1)
        | [] =>
          match s.todo with
          | e :: es => exec (eventInstr e) { s with todo := es }
          | [] => s.freeTurn

/-! ### A program placed for the host's questions (DESIGN CHOICE: log entry 1) -/

/-- The code address that withFetchWord uses. -/
def placedPc : Word := 0x10000000000

/-- The state with core 0 holding one READY thread of context 1 of world 0 whose PC names the line l, through a cached leaf. -/
def State.withLine (s : State) (l : Line) : State :=
  let pte : Word := 0x1F
  let leaf : Leaf := { ctx := 1, page := 0x1000000, big := false, pte := pte }
  let ctx : Context := { world := 0, root := 0, dumpBase := 0, dumpLen := 0, saveBase := 0, saveLen := 0, owner := 0, meas := 0, key := 0 }
  let x := { Slot.zero with st := .ready, pc := placedPc }
  let c := { (s.core 0) with slots := (s.core 0).slots.set 0 x, ctx := some 1, keys := SMap.put (s.core 0).keys 1 .null, icache := [], cyc := 0, idle := 0, gated := false }
  let g : Gang := { id := 0, launch := 0, linear := 0, ctx := 1, aper := false, places := [{ core := 0, base := 0, regions := 0, slots := [0] }],
                    image := none, fatal := none, preempt := false }
  let s1 := s.setCore 0 c
  { s1 with
    agenda := [], todo := [], timers := [], urgent := [], nextCore := 0
    mem := Memory.writeN s1.mem (physHome 0 0) l.toNat (2 ^ 64 - 1) 64
    tcaches := SMap.put s1.tcaches 0 [leaf]
    gangs := [g]
    ssc := { s1.ssc with mcKeys := SMap.put s1.ssc.mcKeys 1 .null, contexts := SMap.put s1.ssc.contexts 1 ctx, latches := s1.ssc.latches.set 0 0x100 }
    plat := { s1.plat with power := .run, boot := 6 } }

/-- The state with the instruction of bits w, in the opcode table's numbering, where the next step fetches. -/
def State.withFetchWord (s : State) (nbits w : Nat) : State := s.withLine (tableLine nbits w)

end Sys2Proof.Machine
end

