-- ==== Sys2Proof/Laws/Bits.lean ====
section
/-!
SUPPORT. Fields of concatenations: a field that lies within one side is that side's field.
-/

namespace Sys2Proof.Laws

theorem field_low {m n : Nat} (x : BitVec m) (y : BitVec n) (s l : Nat) (h : s + l ≤ n) :
    BitVec.extractLsb' (n := no_index (m + n)) s l (x ++ y) = y.extractLsb' s l := by
  ext i hi
  have h1 : s + i < n := by omega
  simp [BitVec.getElem_extractLsb', BitVec.getLsbD_append, h1]

theorem field_high {m n : Nat} (x : BitVec m) (y : BitVec n) (s l : Nat) (h : n ≤ s) :
    BitVec.extractLsb' (n := no_index (m + n)) s l (x ++ y) = x.extractLsb' (s - n) l := by
  ext i hi
  have h1 : ¬ s + i < n := by omega
  have h2 : s + i - n = s - n + i := by omega
  simp [BitVec.getElem_extractLsb', BitVec.getLsbD_append, h1, h2]

theorem field_split {m a n : Nat} (x : BitVec m) (y : BitVec a) (z : BitVec n) :
    BitVec.extractLsb' (n := no_index (m + a + n)) 0 (a + n) (x ++ y ++ z) = y ++ z := by
  ext i hi
  by_cases h : i < n
  · simp [BitVec.getElem_append, BitVec.getLsbD_append, h]
  · have h1 : i - n < a := by omega
    simp [BitVec.getElem_append, BitVec.getLsbD_append, h, h1]

theorem field_all {n : Nat} (x : BitVec n) : x.extractLsb' 0 n = x := by
  ext i hi
  simp

end Sys2Proof.Laws
end

