-- ==== Sys2Proof/Laws/PerInstr.lean ====
section
/-!
SUPPORT. Facts about every instruction as syntax, one lemma per constructor of Instr.
-/

namespace Sys2Proof.Laws

/-- The decoder reads an instruction's head and tail back as that instruction; the head's two top bits count the parcels of the tail, and no
head has the major 0x3F of a pad (07 R112 to R120). -/
def Encodes.Statement (i : Instr) : Prop :=
  i.wf = true → ∀ h t, encodeHT i = some (h, t) →
    decodeHT h t = .ok i ∧ (h.extractLsb' 14 2).toNat = t.parcels.length ∧ h.extractLsb' 8 6 ≠ 0x3F#6

set_option linter.unusedSimpArgs false

theorem decodeHT_00 (h : Parcel) (t : Tail) (e : h.extractLsb' 8 6 = 0x00#6) : decodeHT h t = decMajor00 h t := by
  unfold decodeHT; rw [e]; rfl

theorem decodeHT_01 (h : Parcel) (t : Tail) (e : h.extractLsb' 8 6 = 0x01#6) : decodeHT h t = decMajor01 h t := by
  unfold decodeHT; rw [e]; rfl

theorem decodeHT_02 (h : Parcel) (t : Tail) (e : h.extractLsb' 8 6 = 0x02#6) : decodeHT h t = decMajor02 h t := by
  unfold decodeHT; rw [e]; rfl

theorem decodeHT_03 (h : Parcel) (t : Tail) (e : h.extractLsb' 8 6 = 0x03#6) : decodeHT h t = decMajor03 h t := by
  unfold decodeHT; rw [e]; rfl

theorem decodeHT_04 (h : Parcel) (t : Tail) (e : h.extractLsb' 8 6 = 0x04#6) : decodeHT h t = decMajor04 h t := by
  unfold decodeHT; rw [e]; rfl

theorem decodeHT_05 (h : Parcel) (t : Tail) (e : h.extractLsb' 8 6 = 0x05#6) : decodeHT h t = decMajor05 h t := by
  unfold decodeHT; rw [e]; rfl

theorem decodeHT_06 (h : Parcel) (t : Tail) (e : h.extractLsb' 8 6 = 0x06#6) : decodeHT h t = decMajor06 h t := by
  unfold decodeHT; rw [e]; rfl

theorem decodeHT_07 (h : Parcel) (t : Tail) (e : h.extractLsb' 8 6 = 0x07#6) : decodeHT h t = decMajor07 h t := by
  unfold decodeHT; rw [e]; rfl

theorem decodeHT_08 (h : Parcel) (t : Tail) (e : h.extractLsb' 8 6 = 0x08#6) : decodeHT h t = decMajor08 h t := by
  unfold decodeHT; rw [e]; rfl

theorem decodeHT_09 (h : Parcel) (t : Tail) (e : h.extractLsb' 8 6 = 0x09#6) : decodeHT h t = decMajor09 h t := by
  unfold decodeHT; rw [e]; rfl

theorem decodeHT_0A (h : Parcel) (t : Tail) (e : h.extractLsb' 8 6 = 0x0A#6) : decodeHT h t = decMajor0A h t := by
  unfold decodeHT; rw [e]; rfl

theorem decodeHT_0B (h : Parcel) (t : Tail) (e : h.extractLsb' 8 6 = 0x0B#6) : decodeHT h t = decMajor0B h t := by
  unfold decodeHT; rw [e]; rfl

theorem decodeHT_0C (h : Parcel) (t : Tail) (e : h.extractLsb' 8 6 = 0x0C#6) : decodeHT h t = decMajor0C h t := by
  unfold decodeHT; rw [e]; rfl

theorem decodeHT_0D (h : Parcel) (t : Tail) (e : h.extractLsb' 8 6 = 0x0D#6) : decodeHT h t = decMajor0D h t := by
  unfold decodeHT; rw [e]; rfl

theorem decodeHT_0E (h : Parcel) (t : Tail) (e : h.extractLsb' 8 6 = 0x0E#6) : decodeHT h t = decMajor0E h t := by
  unfold decodeHT; rw [e]; rfl

theorem decodeHT_0F (h : Parcel) (t : Tail) (e : h.extractLsb' 8 6 = 0x0F#6) : decodeHT h t = decMajor0F h t := by
  unfold decodeHT; rw [e]; rfl

theorem decodeHT_10 (h : Parcel) (t : Tail) (e : h.extractLsb' 8 6 = 0x10#6) : decodeHT h t = decMajor10 h t := by
  unfold decodeHT; rw [e]; rfl

theorem decodeHT_11 (h : Parcel) (t : Tail) (e : h.extractLsb' 8 6 = 0x11#6) : decodeHT h t = decMajor11 h t := by
  unfold decodeHT; rw [e]; rfl

theorem decodeHT_12 (h : Parcel) (t : Tail) (e : h.extractLsb' 8 6 = 0x12#6) : decodeHT h t = decMajor12 h t := by
  unfold decodeHT; rw [e]; rfl

theorem decodeHT_13 (h : Parcel) (t : Tail) (e : h.extractLsb' 8 6 = 0x13#6) : decodeHT h t = decMajor13 h t := by
  unfold decodeHT; rw [e]; rfl

theorem decodeHT_14 (h : Parcel) (t : Tail) (e : h.extractLsb' 8 6 = 0x14#6) : decodeHT h t = decMajor14 h t := by
  unfold decodeHT; rw [e]; rfl

theorem decodeHT_15 (h : Parcel) (t : Tail) (e : h.extractLsb' 8 6 = 0x15#6) : decodeHT h t = decMajor15 h t := by
  unfold decodeHT; rw [e]; rfl

theorem decodeHT_16 (h : Parcel) (t : Tail) (e : h.extractLsb' 8 6 = 0x16#6) : decodeHT h t = decMajor16 h t := by
  unfold decodeHT; rw [e]; rfl

theorem decodeHT_17 (h : Parcel) (t : Tail) (e : h.extractLsb' 8 6 = 0x17#6) : decodeHT h t = decMajor17 h t := by
  unfold decodeHT; rw [e]; rfl

theorem decodeHT_18 (h : Parcel) (t : Tail) (e : h.extractLsb' 8 6 = 0x18#6) : decodeHT h t = decMajor18 h t := by
  unfold decodeHT; rw [e]; rfl

theorem decodeHT_20 (h : Parcel) (t : Tail) (e : h.extractLsb' 8 6 = 0x20#6) : decodeHT h t = decMajor20 h t := by
  unfold decodeHT; rw [e]; rfl

theorem decodeHT_21 (h : Parcel) (t : Tail) (e : h.extractLsb' 8 6 = 0x21#6) : decodeHT h t = decMajor21 h t := by
  unfold decodeHT; rw [e]; rfl

theorem decodeHT_22 (h : Parcel) (t : Tail) (e : h.extractLsb' 8 6 = 0x22#6) : decodeHT h t = decMajor22 h t := by
  unfold decodeHT; rw [e]; rfl

theorem decodeHT_23 (h : Parcel) (t : Tail) (e : h.extractLsb' 8 6 = 0x23#6) : decodeHT h t = decMajor23 h t := by
  unfold decodeHT; rw [e]; rfl

theorem decodeHT_24 (h : Parcel) (t : Tail) (e : h.extractLsb' 8 6 = 0x24#6) : decodeHT h t = decMajor24 h t := by
  unfold decodeHT; rw [e]; rfl

theorem decodeHT_25 (h : Parcel) (t : Tail) (e : h.extractLsb' 8 6 = 0x25#6) : decodeHT h t = decMajor25 h t := by
  unfold decodeHT; rw [e]; rfl

theorem decodeHT_26 (h : Parcel) (t : Tail) (e : h.extractLsb' 8 6 = 0x26#6) : decodeHT h t = decMajor26 h t := by
  unfold decodeHT; rw [e]; rfl

theorem decodeHT_27 (h : Parcel) (t : Tail) (e : h.extractLsb' 8 6 = 0x27#6) : decodeHT h t = decMajor27 h t := by
  unfold decodeHT; rw [e]; rfl

theorem decodeHT_28 (h : Parcel) (t : Tail) (e : h.extractLsb' 8 6 = 0x28#6) : decodeHT h t = decMajor28 h t := by
  unfold decodeHT; rw [e]; rfl

theorem decodeHT_29 (h : Parcel) (t : Tail) (e : h.extractLsb' 8 6 = 0x29#6) : decodeHT h t = decMajor29 h t := by
  unfold decodeHT; rw [e]; rfl

theorem decodeHT_2A (h : Parcel) (t : Tail) (e : h.extractLsb' 8 6 = 0x2A#6) : decodeHT h t = decMajor2A h t := by
  unfold decodeHT; rw [e]; rfl

theorem decodeHT_2B (h : Parcel) (t : Tail) (e : h.extractLsb' 8 6 = 0x2B#6) : decodeHT h t = decMajor2B h t := by
  unfold decodeHT; rw [e]; rfl

theorem decodeHT_2C (h : Parcel) (t : Tail) (e : h.extractLsb' 8 6 = 0x2C#6) : decodeHT h t = decMajor2C h t := by
  unfold decodeHT; rw [e]; rfl

theorem decodeHT_2D (h : Parcel) (t : Tail) (e : h.extractLsb' 8 6 = 0x2D#6) : decodeHT h t = decMajor2D h t := by
  unfold decodeHT; rw [e]; rfl

theorem decodeHT_2E (h : Parcel) (t : Tail) (e : h.extractLsb' 8 6 = 0x2E#6) : decodeHT h t = decMajor2E h t := by
  unfold decodeHT; rw [e]; rfl

theorem decodeHT_2F (h : Parcel) (t : Tail) (e : h.extractLsb' 8 6 = 0x2F#6) : decodeHT h t = decMajor2F h t := by
  unfold decodeHT; rw [e]; rfl

theorem decodeHT_30 (h : Parcel) (t : Tail) (e : h.extractLsb' 8 6 = 0x30#6) : decodeHT h t = decMajor30 h t := by
  unfold decodeHT; rw [e]; rfl

theorem decodeHT_31 (h : Parcel) (t : Tail) (e : h.extractLsb' 8 6 = 0x31#6) : decodeHT h t = decMajor31 h t := by
  unfold decodeHT; rw [e]; rfl

theorem decodeHT_32 (h : Parcel) (t : Tail) (e : h.extractLsb' 8 6 = 0x32#6) : decodeHT h t = decMajor32 h t := by
  unfold decodeHT; rw [e]; rfl

theorem Encodes.add (d : SReg) (b : SReg) (c : SReg) (sat : BitVec 2) : Encodes.Statement (.add d b c sat) := by
  rintro hw h t ⟨⟩
  have hw : (!(sat == 3#2)) = true := hw
  simp only [Bool.and_eq_true, Bool.not_eq_true'] at hw
  refine ⟨?_, by simp (disch := omega) only [field_low, field_high]; rfl, by simp (disch := omega) only [field_low, field_high]; decide⟩
  rw [decodeHT_00 _ _ (by simp (disch := omega) only [field_low, field_high]; rfl)]
  simp (disch := omega) only [decMajor00, dec_add, checked, field_low, field_high, field_all, Nat.reduceSub, BitVec.reduceExtractLsb', BitVec.reduceToNat, BitVec.ofNat_eq_ofNat, BitVec.reduceBEq, reduceIte, hw]
  try rfl

theorem Encodes.sub (d : SReg) (b : SReg) (c : SReg) (sat : BitVec 2) : Encodes.Statement (.sub d b c sat) := by
  rintro hw h t ⟨⟩
  have hw : (!(sat == 3#2)) = true := hw
  simp only [Bool.and_eq_true, Bool.not_eq_true'] at hw
  refine ⟨?_, by simp (disch := omega) only [field_low, field_high]; rfl, by simp (disch := omega) only [field_low, field_high]; decide⟩
  rw [decodeHT_00 _ _ (by simp (disch := omega) only [field_low, field_high]; rfl)]
  simp (disch := omega) only [decMajor00, dec_sub, checked, field_low, field_high, field_all, Nat.reduceSub, BitVec.reduceExtractLsb', BitVec.reduceToNat, BitVec.ofNat_eq_ofNat, BitVec.reduceBEq, reduceIte, hw]
  try rfl

theorem Encodes.andR (d : SReg) (b : SReg) (c : SReg) : Encodes.Statement (.andR d b c) := by
  rintro hw h t ⟨⟩
  refine ⟨?_, by simp (disch := omega) only [field_low, field_high]; rfl, by simp (disch := omega) only [field_low, field_high]; decide⟩
  rw [decodeHT_00 _ _ (by simp (disch := omega) only [field_low, field_high]; rfl)]
  simp (disch := omega) only [decMajor00, dec_andR, checked, field_low, field_high, field_all, Nat.reduceSub, BitVec.reduceExtractLsb', BitVec.reduceToNat, BitVec.ofNat_eq_ofNat, BitVec.reduceBEq, reduceIte]
  try rfl

theorem Encodes.orR (d : SReg) (b : SReg) (c : SReg) : Encodes.Statement (.orR d b c) := by
  rintro hw h t ⟨⟩
  refine ⟨?_, by simp (disch := omega) only [field_low, field_high]; rfl, by simp (disch := omega) only [field_low, field_high]; decide⟩
  rw [decodeHT_00 _ _ (by simp (disch := omega) only [field_low, field_high]; rfl)]
  simp (disch := omega) only [decMajor00, dec_orR, checked, field_low, field_high, field_all, Nat.reduceSub, BitVec.reduceExtractLsb', BitVec.reduceToNat, BitVec.ofNat_eq_ofNat, BitVec.reduceBEq, reduceIte]
  try rfl

theorem Encodes.xorR (d : SReg) (b : SReg) (c : SReg) : Encodes.Statement (.xorR d b c) := by
  rintro hw h t ⟨⟩
  refine ⟨?_, by simp (disch := omega) only [field_low, field_high]; rfl, by simp (disch := omega) only [field_low, field_high]; decide⟩
  rw [decodeHT_00 _ _ (by simp (disch := omega) only [field_low, field_high]; rfl)]
  simp (disch := omega) only [decMajor00, dec_xorR, checked, field_low, field_high, field_all, Nat.reduceSub, BitVec.reduceExtractLsb', BitVec.reduceToNat, BitVec.ofNat_eq_ofNat, BitVec.reduceBEq, reduceIte]
  try rfl

theorem Encodes.sll (d : SReg) (b : SReg) (c : SReg) : Encodes.Statement (.sll d b c) := by
  rintro hw h t ⟨⟩
  refine ⟨?_, by simp (disch := omega) only [field_low, field_high]; rfl, by simp (disch := omega) only [field_low, field_high]; decide⟩
  rw [decodeHT_00 _ _ (by simp (disch := omega) only [field_low, field_high]; rfl)]
  simp (disch := omega) only [decMajor00, dec_sll, checked, field_low, field_high, field_all, Nat.reduceSub, BitVec.reduceExtractLsb', BitVec.reduceToNat, BitVec.ofNat_eq_ofNat, BitVec.reduceBEq, reduceIte]
  try rfl

theorem Encodes.srl (d : SReg) (b : SReg) (c : SReg) : Encodes.Statement (.srl d b c) := by
  rintro hw h t ⟨⟩
  refine ⟨?_, by simp (disch := omega) only [field_low, field_high]; rfl, by simp (disch := omega) only [field_low, field_high]; decide⟩
  rw [decodeHT_00 _ _ (by simp (disch := omega) only [field_low, field_high]; rfl)]
  simp (disch := omega) only [decMajor00, dec_srl, checked, field_low, field_high, field_all, Nat.reduceSub, BitVec.reduceExtractLsb', BitVec.reduceToNat, BitVec.ofNat_eq_ofNat, BitVec.reduceBEq, reduceIte]
  try rfl

theorem Encodes.sra (d : SReg) (b : SReg) (c : SReg) : Encodes.Statement (.sra d b c) := by
  rintro hw h t ⟨⟩
  refine ⟨?_, by simp (disch := omega) only [field_low, field_high]; rfl, by simp (disch := omega) only [field_low, field_high]; decide⟩
  rw [decodeHT_00 _ _ (by simp (disch := omega) only [field_low, field_high]; rfl)]
  simp (disch := omega) only [decMajor00, dec_sra, checked, field_low, field_high, field_all, Nat.reduceSub, BitVec.reduceExtractLsb', BitVec.reduceToNat, BitVec.ofNat_eq_ofNat, BitVec.reduceBEq, reduceIte]
  try rfl

theorem Encodes.addI (d : SReg) (b : SReg) (imm : BitVec 11) : Encodes.Statement (.addI d b imm) := by
  rintro hw h t ⟨⟩
  refine ⟨?_, by simp (disch := omega) only [field_low, field_high]; rfl, by simp (disch := omega) only [field_low, field_high]; decide⟩
  rw [decodeHT_01 _ _ (by simp (disch := omega) only [field_low, field_high]; rfl)]
  simp (disch := omega) only [decMajor01, dec_addI, checked, field_low, field_high, field_all, Nat.reduceSub, BitVec.reduceExtractLsb', BitVec.reduceToNat, BitVec.ofNat_eq_ofNat, BitVec.reduceBEq, reduceIte]
  try rfl

theorem Encodes.rsubI (d : SReg) (b : SReg) (imm : BitVec 11) : Encodes.Statement (.rsubI d b imm) := by
  rintro hw h t ⟨⟩
  refine ⟨?_, by simp (disch := omega) only [field_low, field_high]; rfl, by simp (disch := omega) only [field_low, field_high]; decide⟩
  rw [decodeHT_01 _ _ (by simp (disch := omega) only [field_low, field_high]; rfl)]
  simp (disch := omega) only [decMajor01, dec_rsubI, checked, field_low, field_high, field_all, Nat.reduceSub, BitVec.reduceExtractLsb', BitVec.reduceToNat, BitVec.ofNat_eq_ofNat, BitVec.reduceBEq, reduceIte]
  try rfl

theorem Encodes.andI (d : SReg) (b : SReg) (imm : BitVec 11) : Encodes.Statement (.andI d b imm) := by
  rintro hw h t ⟨⟩
  refine ⟨?_, by simp (disch := omega) only [field_low, field_high]; rfl, by simp (disch := omega) only [field_low, field_high]; decide⟩
  rw [decodeHT_01 _ _ (by simp (disch := omega) only [field_low, field_high]; rfl)]
  simp (disch := omega) only [decMajor01, dec_andI, checked, field_low, field_high, field_all, Nat.reduceSub, BitVec.reduceExtractLsb', BitVec.reduceToNat, BitVec.ofNat_eq_ofNat, BitVec.reduceBEq, reduceIte]
  try rfl

theorem Encodes.orI (d : SReg) (b : SReg) (imm : BitVec 11) : Encodes.Statement (.orI d b imm) := by
  rintro hw h t ⟨⟩
  refine ⟨?_, by simp (disch := omega) only [field_low, field_high]; rfl, by simp (disch := omega) only [field_low, field_high]; decide⟩
  rw [decodeHT_01 _ _ (by simp (disch := omega) only [field_low, field_high]; rfl)]
  simp (disch := omega) only [decMajor01, dec_orI, checked, field_low, field_high, field_all, Nat.reduceSub, BitVec.reduceExtractLsb', BitVec.reduceToNat, BitVec.ofNat_eq_ofNat, BitVec.reduceBEq, reduceIte]
  try rfl

theorem Encodes.xorI (d : SReg) (b : SReg) (imm : BitVec 11) : Encodes.Statement (.xorI d b imm) := by
  rintro hw h t ⟨⟩
  refine ⟨?_, by simp (disch := omega) only [field_low, field_high]; rfl, by simp (disch := omega) only [field_low, field_high]; decide⟩
  rw [decodeHT_01 _ _ (by simp (disch := omega) only [field_low, field_high]; rfl)]
  simp (disch := omega) only [decMajor01, dec_xorI, checked, field_low, field_high, field_all, Nat.reduceSub, BitVec.reduceExtractLsb', BitVec.reduceToNat, BitVec.ofNat_eq_ofNat, BitVec.reduceBEq, reduceIte]
  try rfl

theorem Encodes.sllI (d : SReg) (b : SReg) (imm : BitVec 11) : Encodes.Statement (.sllI d b imm) := by
  rintro hw h t ⟨⟩
  have hw : (!(decide (64 ≤ imm.toNat))) = true := hw
  simp only [Bool.and_eq_true, Bool.not_eq_true'] at hw
  refine ⟨?_, by simp (disch := omega) only [field_low, field_high]; rfl, by simp (disch := omega) only [field_low, field_high]; decide⟩
  rw [decodeHT_01 _ _ (by simp (disch := omega) only [field_low, field_high]; rfl)]
  simp (disch := omega) only [decMajor01, dec_sllI, checked, field_low, field_high, field_all, Nat.reduceSub, BitVec.reduceExtractLsb', BitVec.reduceToNat, BitVec.ofNat_eq_ofNat, BitVec.reduceBEq, reduceIte, hw]
  try rfl

theorem Encodes.srlI (d : SReg) (b : SReg) (imm : BitVec 11) : Encodes.Statement (.srlI d b imm) := by
  rintro hw h t ⟨⟩
  have hw : (!(decide (64 ≤ imm.toNat))) = true := hw
  simp only [Bool.and_eq_true, Bool.not_eq_true'] at hw
  refine ⟨?_, by simp (disch := omega) only [field_low, field_high]; rfl, by simp (disch := omega) only [field_low, field_high]; decide⟩
  rw [decodeHT_01 _ _ (by simp (disch := omega) only [field_low, field_high]; rfl)]
  simp (disch := omega) only [decMajor01, dec_srlI, checked, field_low, field_high, field_all, Nat.reduceSub, BitVec.reduceExtractLsb', BitVec.reduceToNat, BitVec.ofNat_eq_ofNat, BitVec.reduceBEq, reduceIte, hw]
  try rfl

theorem Encodes.sraI (d : SReg) (b : SReg) (imm : BitVec 11) : Encodes.Statement (.sraI d b imm) := by
  rintro hw h t ⟨⟩
  have hw : (!(decide (64 ≤ imm.toNat))) = true := hw
  simp only [Bool.and_eq_true, Bool.not_eq_true'] at hw
  refine ⟨?_, by simp (disch := omega) only [field_low, field_high]; rfl, by simp (disch := omega) only [field_low, field_high]; decide⟩
  rw [decodeHT_01 _ _ (by simp (disch := omega) only [field_low, field_high]; rfl)]
  simp (disch := omega) only [decMajor01, dec_sraI, checked, field_low, field_high, field_all, Nat.reduceSub, BitVec.reduceExtractLsb', BitVec.reduceToNat, BitVec.ofNat_eq_ofNat, BitVec.reduceBEq, reduceIte, hw]
  try rfl

theorem Encodes.addW (d : SReg) (b : SReg) (imm : BitVec 16) : Encodes.Statement (.addW d b imm) := by
  rintro hw h t ⟨⟩
  refine ⟨?_, by simp (disch := omega) only [field_low, field_high]; rfl, by simp (disch := omega) only [field_low, field_high]; decide⟩
  rw [decodeHT_01 _ _ (by simp (disch := omega) only [field_low, field_high]; rfl)]
  simp (disch := omega) only [decMajor01, dec_addW, checked, field_low, field_high, field_all, Nat.reduceSub, BitVec.reduceExtractLsb', BitVec.reduceToNat, BitVec.ofNat_eq_ofNat, BitVec.reduceBEq, reduceIte]
  try rfl

theorem Encodes.rsubW (d : SReg) (b : SReg) (imm : BitVec 16) : Encodes.Statement (.rsubW d b imm) := by
  rintro hw h t ⟨⟩
  refine ⟨?_, by simp (disch := omega) only [field_low, field_high]; rfl, by simp (disch := omega) only [field_low, field_high]; decide⟩
  rw [decodeHT_01 _ _ (by simp (disch := omega) only [field_low, field_high]; rfl)]
  simp (disch := omega) only [decMajor01, dec_rsubW, checked, field_low, field_high, field_all, Nat.reduceSub, BitVec.reduceExtractLsb', BitVec.reduceToNat, BitVec.ofNat_eq_ofNat, BitVec.reduceBEq, reduceIte]
  try rfl

theorem Encodes.andW (d : SReg) (b : SReg) (imm : BitVec 16) : Encodes.Statement (.andW d b imm) := by
  rintro hw h t ⟨⟩
  refine ⟨?_, by simp (disch := omega) only [field_low, field_high]; rfl, by simp (disch := omega) only [field_low, field_high]; decide⟩
  rw [decodeHT_01 _ _ (by simp (disch := omega) only [field_low, field_high]; rfl)]
  simp (disch := omega) only [decMajor01, dec_andW, checked, field_low, field_high, field_all, Nat.reduceSub, BitVec.reduceExtractLsb', BitVec.reduceToNat, BitVec.ofNat_eq_ofNat, BitVec.reduceBEq, reduceIte]
  try rfl

theorem Encodes.orW (d : SReg) (b : SReg) (imm : BitVec 16) : Encodes.Statement (.orW d b imm) := by
  rintro hw h t ⟨⟩
  refine ⟨?_, by simp (disch := omega) only [field_low, field_high]; rfl, by simp (disch := omega) only [field_low, field_high]; decide⟩
  rw [decodeHT_01 _ _ (by simp (disch := omega) only [field_low, field_high]; rfl)]
  simp (disch := omega) only [decMajor01, dec_orW, checked, field_low, field_high, field_all, Nat.reduceSub, BitVec.reduceExtractLsb', BitVec.reduceToNat, BitVec.ofNat_eq_ofNat, BitVec.reduceBEq, reduceIte]
  try rfl

theorem Encodes.xorW (d : SReg) (b : SReg) (imm : BitVec 16) : Encodes.Statement (.xorW d b imm) := by
  rintro hw h t ⟨⟩
  refine ⟨?_, by simp (disch := omega) only [field_low, field_high]; rfl, by simp (disch := omega) only [field_low, field_high]; decide⟩
  rw [decodeHT_01 _ _ (by simp (disch := omega) only [field_low, field_high]; rfl)]
  simp (disch := omega) only [decMajor01, dec_xorW, checked, field_low, field_high, field_all, Nat.reduceSub, BitVec.reduceExtractLsb', BitVec.reduceToNat, BitVec.ofNat_eq_ofNat, BitVec.reduceBEq, reduceIte]
  try rfl

theorem Encodes.sllW (d : SReg) (b : SReg) (imm : BitVec 16) : Encodes.Statement (.sllW d b imm) := by
  rintro hw h t ⟨⟩
  have hw : (!(decide (64 ≤ imm.toNat))) = true := hw
  simp only [Bool.and_eq_true, Bool.not_eq_true'] at hw
  refine ⟨?_, by simp (disch := omega) only [field_low, field_high]; rfl, by simp (disch := omega) only [field_low, field_high]; decide⟩
  rw [decodeHT_01 _ _ (by simp (disch := omega) only [field_low, field_high]; rfl)]
  simp (disch := omega) only [decMajor01, dec_sllW, checked, field_low, field_high, field_all, Nat.reduceSub, BitVec.reduceExtractLsb', BitVec.reduceToNat, BitVec.ofNat_eq_ofNat, BitVec.reduceBEq, reduceIte, hw]
  try rfl

theorem Encodes.srlW (d : SReg) (b : SReg) (imm : BitVec 16) : Encodes.Statement (.srlW d b imm) := by
  rintro hw h t ⟨⟩
  have hw : (!(decide (64 ≤ imm.toNat))) = true := hw
  simp only [Bool.and_eq_true, Bool.not_eq_true'] at hw
  refine ⟨?_, by simp (disch := omega) only [field_low, field_high]; rfl, by simp (disch := omega) only [field_low, field_high]; decide⟩
  rw [decodeHT_01 _ _ (by simp (disch := omega) only [field_low, field_high]; rfl)]
  simp (disch := omega) only [decMajor01, dec_srlW, checked, field_low, field_high, field_all, Nat.reduceSub, BitVec.reduceExtractLsb', BitVec.reduceToNat, BitVec.ofNat_eq_ofNat, BitVec.reduceBEq, reduceIte, hw]
  try rfl

theorem Encodes.sraW (d : SReg) (b : SReg) (imm : BitVec 16) : Encodes.Statement (.sraW d b imm) := by
  rintro hw h t ⟨⟩
  have hw : (!(decide (64 ≤ imm.toNat))) = true := hw
  simp only [Bool.and_eq_true, Bool.not_eq_true'] at hw
  refine ⟨?_, by simp (disch := omega) only [field_low, field_high]; rfl, by simp (disch := omega) only [field_low, field_high]; decide⟩
  rw [decodeHT_01 _ _ (by simp (disch := omega) only [field_low, field_high]; rfl)]
  simp (disch := omega) only [decMajor01, dec_sraW, checked, field_low, field_high, field_all, Nat.reduceSub, BitVec.reduceExtractLsb', BitVec.reduceToNat, BitVec.ofNat_eq_ofNat, BitVec.reduceBEq, reduceIte, hw]
  try rfl

theorem Encodes.seq (d : SReg) (b : SReg) (c : SReg) : Encodes.Statement (.seq d b c) := by
  rintro hw h t ⟨⟩
  refine ⟨?_, by simp (disch := omega) only [field_low, field_high]; rfl, by simp (disch := omega) only [field_low, field_high]; decide⟩
  rw [decodeHT_02 _ _ (by simp (disch := omega) only [field_low, field_high]; rfl)]
  simp (disch := omega) only [decMajor02, dec_seq, checked, field_low, field_high, field_all, Nat.reduceSub, BitVec.reduceExtractLsb', BitVec.reduceToNat, BitVec.ofNat_eq_ofNat, BitVec.reduceBEq, reduceIte]
  try rfl

theorem Encodes.sne (d : SReg) (b : SReg) (c : SReg) : Encodes.Statement (.sne d b c) := by
  rintro hw h t ⟨⟩
  refine ⟨?_, by simp (disch := omega) only [field_low, field_high]; rfl, by simp (disch := omega) only [field_low, field_high]; decide⟩
  rw [decodeHT_02 _ _ (by simp (disch := omega) only [field_low, field_high]; rfl)]
  simp (disch := omega) only [decMajor02, dec_sne, checked, field_low, field_high, field_all, Nat.reduceSub, BitVec.reduceExtractLsb', BitVec.reduceToNat, BitVec.ofNat_eq_ofNat, BitVec.reduceBEq, reduceIte]
  try rfl

theorem Encodes.slt (d : SReg) (b : SReg) (c : SReg) : Encodes.Statement (.slt d b c) := by
  rintro hw h t ⟨⟩
  refine ⟨?_, by simp (disch := omega) only [field_low, field_high]; rfl, by simp (disch := omega) only [field_low, field_high]; decide⟩
  rw [decodeHT_02 _ _ (by simp (disch := omega) only [field_low, field_high]; rfl)]
  simp (disch := omega) only [decMajor02, dec_slt, checked, field_low, field_high, field_all, Nat.reduceSub, BitVec.reduceExtractLsb', BitVec.reduceToNat, BitVec.ofNat_eq_ofNat, BitVec.reduceBEq, reduceIte]
  try rfl

theorem Encodes.sltu (d : SReg) (b : SReg) (c : SReg) : Encodes.Statement (.sltu d b c) := by
  rintro hw h t ⟨⟩
  refine ⟨?_, by simp (disch := omega) only [field_low, field_high]; rfl, by simp (disch := omega) only [field_low, field_high]; decide⟩
  rw [decodeHT_02 _ _ (by simp (disch := omega) only [field_low, field_high]; rfl)]
  simp (disch := omega) only [decMajor02, dec_sltu, checked, field_low, field_high, field_all, Nat.reduceSub, BitVec.reduceExtractLsb', BitVec.reduceToNat, BitVec.ofNat_eq_ofNat, BitVec.reduceBEq, reduceIte]
  try rfl

theorem Encodes.sle (d : SReg) (b : SReg) (c : SReg) : Encodes.Statement (.sle d b c) := by
  rintro hw h t ⟨⟩
  refine ⟨?_, by simp (disch := omega) only [field_low, field_high]; rfl, by simp (disch := omega) only [field_low, field_high]; decide⟩
  rw [decodeHT_02 _ _ (by simp (disch := omega) only [field_low, field_high]; rfl)]
  simp (disch := omega) only [decMajor02, dec_sle, checked, field_low, field_high, field_all, Nat.reduceSub, BitVec.reduceExtractLsb', BitVec.reduceToNat, BitVec.ofNat_eq_ofNat, BitVec.reduceBEq, reduceIte]
  try rfl

theorem Encodes.sleu (d : SReg) (b : SReg) (c : SReg) : Encodes.Statement (.sleu d b c) := by
  rintro hw h t ⟨⟩
  refine ⟨?_, by simp (disch := omega) only [field_low, field_high]; rfl, by simp (disch := omega) only [field_low, field_high]; decide⟩
  rw [decodeHT_02 _ _ (by simp (disch := omega) only [field_low, field_high]; rfl)]
  simp (disch := omega) only [decMajor02, dec_sleu, checked, field_low, field_high, field_all, Nat.reduceSub, BitVec.reduceExtractLsb', BitVec.reduceToNat, BitVec.ofNat_eq_ofNat, BitVec.reduceBEq, reduceIte]
  try rfl

theorem Encodes.minS (d : SReg) (b : SReg) (c : SReg) : Encodes.Statement (.minS d b c) := by
  rintro hw h t ⟨⟩
  refine ⟨?_, by simp (disch := omega) only [field_low, field_high]; rfl, by simp (disch := omega) only [field_low, field_high]; decide⟩
  rw [decodeHT_02 _ _ (by simp (disch := omega) only [field_low, field_high]; rfl)]
  simp (disch := omega) only [decMajor02, dec_minS, checked, field_low, field_high, field_all, Nat.reduceSub, BitVec.reduceExtractLsb', BitVec.reduceToNat, BitVec.ofNat_eq_ofNat, BitVec.reduceBEq, reduceIte]
  try rfl

theorem Encodes.minU (d : SReg) (b : SReg) (c : SReg) : Encodes.Statement (.minU d b c) := by
  rintro hw h t ⟨⟩
  refine ⟨?_, by simp (disch := omega) only [field_low, field_high]; rfl, by simp (disch := omega) only [field_low, field_high]; decide⟩
  rw [decodeHT_02 _ _ (by simp (disch := omega) only [field_low, field_high]; rfl)]
  simp (disch := omega) only [decMajor02, dec_minU, checked, field_low, field_high, field_all, Nat.reduceSub, BitVec.reduceExtractLsb', BitVec.reduceToNat, BitVec.ofNat_eq_ofNat, BitVec.reduceBEq, reduceIte]
  try rfl

theorem Encodes.maxS (d : SReg) (b : SReg) (c : SReg) : Encodes.Statement (.maxS d b c) := by
  rintro hw h t ⟨⟩
  refine ⟨?_, by simp (disch := omega) only [field_low, field_high]; rfl, by simp (disch := omega) only [field_low, field_high]; decide⟩
  rw [decodeHT_02 _ _ (by simp (disch := omega) only [field_low, field_high]; rfl)]
  simp (disch := omega) only [decMajor02, dec_maxS, checked, field_low, field_high, field_all, Nat.reduceSub, BitVec.reduceExtractLsb', BitVec.reduceToNat, BitVec.ofNat_eq_ofNat, BitVec.reduceBEq, reduceIte]
  try rfl

theorem Encodes.maxU (d : SReg) (b : SReg) (c : SReg) : Encodes.Statement (.maxU d b c) := by
  rintro hw h t ⟨⟩
  refine ⟨?_, by simp (disch := omega) only [field_low, field_high]; rfl, by simp (disch := omega) only [field_low, field_high]; decide⟩
  rw [decodeHT_02 _ _ (by simp (disch := omega) only [field_low, field_high]; rfl)]
  simp (disch := omega) only [decMajor02, dec_maxU, checked, field_low, field_high, field_all, Nat.reduceSub, BitVec.reduceExtractLsb', BitVec.reduceToNat, BitVec.ofNat_eq_ofNat, BitVec.reduceBEq, reduceIte]
  try rfl

theorem Encodes.seqW (d : SReg) (b : SReg) (imm : BitVec 16) : Encodes.Statement (.seqW d b imm) := by
  rintro hw h t ⟨⟩
  refine ⟨?_, by simp (disch := omega) only [field_low, field_high]; rfl, by simp (disch := omega) only [field_low, field_high]; decide⟩
  rw [decodeHT_02 _ _ (by simp (disch := omega) only [field_low, field_high]; rfl)]
  simp (disch := omega) only [decMajor02, dec_seqW, checked, field_low, field_high, field_all, Nat.reduceSub, BitVec.reduceExtractLsb', BitVec.reduceToNat, BitVec.ofNat_eq_ofNat, BitVec.reduceBEq, reduceIte]
  try rfl

theorem Encodes.sneW (d : SReg) (b : SReg) (imm : BitVec 16) : Encodes.Statement (.sneW d b imm) := by
  rintro hw h t ⟨⟩
  refine ⟨?_, by simp (disch := omega) only [field_low, field_high]; rfl, by simp (disch := omega) only [field_low, field_high]; decide⟩
  rw [decodeHT_02 _ _ (by simp (disch := omega) only [field_low, field_high]; rfl)]
  simp (disch := omega) only [decMajor02, dec_sneW, checked, field_low, field_high, field_all, Nat.reduceSub, BitVec.reduceExtractLsb', BitVec.reduceToNat, BitVec.ofNat_eq_ofNat, BitVec.reduceBEq, reduceIte]
  try rfl

theorem Encodes.sltW (d : SReg) (b : SReg) (imm : BitVec 16) : Encodes.Statement (.sltW d b imm) := by
  rintro hw h t ⟨⟩
  refine ⟨?_, by simp (disch := omega) only [field_low, field_high]; rfl, by simp (disch := omega) only [field_low, field_high]; decide⟩
  rw [decodeHT_02 _ _ (by simp (disch := omega) only [field_low, field_high]; rfl)]
  simp (disch := omega) only [decMajor02, dec_sltW, checked, field_low, field_high, field_all, Nat.reduceSub, BitVec.reduceExtractLsb', BitVec.reduceToNat, BitVec.ofNat_eq_ofNat, BitVec.reduceBEq, reduceIte]
  try rfl

theorem Encodes.sltuW (d : SReg) (b : SReg) (imm : BitVec 16) : Encodes.Statement (.sltuW d b imm) := by
  rintro hw h t ⟨⟩
  refine ⟨?_, by simp (disch := omega) only [field_low, field_high]; rfl, by simp (disch := omega) only [field_low, field_high]; decide⟩
  rw [decodeHT_02 _ _ (by simp (disch := omega) only [field_low, field_high]; rfl)]
  simp (disch := omega) only [decMajor02, dec_sltuW, checked, field_low, field_high, field_all, Nat.reduceSub, BitVec.reduceExtractLsb', BitVec.reduceToNat, BitVec.ofNat_eq_ofNat, BitVec.reduceBEq, reduceIte]
  try rfl

theorem Encodes.sleW (d : SReg) (b : SReg) (imm : BitVec 16) : Encodes.Statement (.sleW d b imm) := by
  rintro hw h t ⟨⟩
  refine ⟨?_, by simp (disch := omega) only [field_low, field_high]; rfl, by simp (disch := omega) only [field_low, field_high]; decide⟩
  rw [decodeHT_02 _ _ (by simp (disch := omega) only [field_low, field_high]; rfl)]
  simp (disch := omega) only [decMajor02, dec_sleW, checked, field_low, field_high, field_all, Nat.reduceSub, BitVec.reduceExtractLsb', BitVec.reduceToNat, BitVec.ofNat_eq_ofNat, BitVec.reduceBEq, reduceIte]
  try rfl

theorem Encodes.sleuW (d : SReg) (b : SReg) (imm : BitVec 16) : Encodes.Statement (.sleuW d b imm) := by
  rintro hw h t ⟨⟩
  refine ⟨?_, by simp (disch := omega) only [field_low, field_high]; rfl, by simp (disch := omega) only [field_low, field_high]; decide⟩
  rw [decodeHT_02 _ _ (by simp (disch := omega) only [field_low, field_high]; rfl)]
  simp (disch := omega) only [decMajor02, dec_sleuW, checked, field_low, field_high, field_all, Nat.reduceSub, BitVec.reduceExtractLsb', BitVec.reduceToNat, BitVec.ofNat_eq_ofNat, BitVec.reduceBEq, reduceIte]
  try rfl

theorem Encodes.minW (d : SReg) (b : SReg) (imm : BitVec 16) : Encodes.Statement (.minW d b imm) := by
  rintro hw h t ⟨⟩
  refine ⟨?_, by simp (disch := omega) only [field_low, field_high]; rfl, by simp (disch := omega) only [field_low, field_high]; decide⟩
  rw [decodeHT_02 _ _ (by simp (disch := omega) only [field_low, field_high]; rfl)]
  simp (disch := omega) only [decMajor02, dec_minW, checked, field_low, field_high, field_all, Nat.reduceSub, BitVec.reduceExtractLsb', BitVec.reduceToNat, BitVec.ofNat_eq_ofNat, BitVec.reduceBEq, reduceIte]
  try rfl

theorem Encodes.minuW (d : SReg) (b : SReg) (imm : BitVec 16) : Encodes.Statement (.minuW d b imm) := by
  rintro hw h t ⟨⟩
  refine ⟨?_, by simp (disch := omega) only [field_low, field_high]; rfl, by simp (disch := omega) only [field_low, field_high]; decide⟩
  rw [decodeHT_02 _ _ (by simp (disch := omega) only [field_low, field_high]; rfl)]
  simp (disch := omega) only [decMajor02, dec_minuW, checked, field_low, field_high, field_all, Nat.reduceSub, BitVec.reduceExtractLsb', BitVec.reduceToNat, BitVec.ofNat_eq_ofNat, BitVec.reduceBEq, reduceIte]
  try rfl

theorem Encodes.maxW (d : SReg) (b : SReg) (imm : BitVec 16) : Encodes.Statement (.maxW d b imm) := by
  rintro hw h t ⟨⟩
  refine ⟨?_, by simp (disch := omega) only [field_low, field_high]; rfl, by simp (disch := omega) only [field_low, field_high]; decide⟩
  rw [decodeHT_02 _ _ (by simp (disch := omega) only [field_low, field_high]; rfl)]
  simp (disch := omega) only [decMajor02, dec_maxW, checked, field_low, field_high, field_all, Nat.reduceSub, BitVec.reduceExtractLsb', BitVec.reduceToNat, BitVec.ofNat_eq_ofNat, BitVec.reduceBEq, reduceIte]
  try rfl

theorem Encodes.maxuW (d : SReg) (b : SReg) (imm : BitVec 16) : Encodes.Statement (.maxuW d b imm) := by
  rintro hw h t ⟨⟩
  refine ⟨?_, by simp (disch := omega) only [field_low, field_high]; rfl, by simp (disch := omega) only [field_low, field_high]; decide⟩
  rw [decodeHT_02 _ _ (by simp (disch := omega) only [field_low, field_high]; rfl)]
  simp (disch := omega) only [decMajor02, dec_maxuW, checked, field_low, field_high, field_all, Nat.reduceSub, BitVec.reduceExtractLsb', BitVec.reduceToNat, BitVec.ofNat_eq_ofNat, BitVec.reduceBEq, reduceIte]
  try rfl

theorem Encodes.mul (d : SReg) (b : SReg) (c : SReg) : Encodes.Statement (.mul d b c) := by
  rintro hw h t ⟨⟩
  refine ⟨?_, by simp (disch := omega) only [field_low, field_high]; rfl, by simp (disch := omega) only [field_low, field_high]; decide⟩
  rw [decodeHT_03 _ _ (by simp (disch := omega) only [field_low, field_high]; rfl)]
  simp (disch := omega) only [decMajor03, dec_mul, checked, field_low, field_high, field_all, Nat.reduceSub, BitVec.reduceExtractLsb', BitVec.reduceToNat, BitVec.ofNat_eq_ofNat, BitVec.reduceBEq, reduceIte]
  try rfl

theorem Encodes.mulh (d : SReg) (b : SReg) (c : SReg) : Encodes.Statement (.mulh d b c) := by
  rintro hw h t ⟨⟩
  refine ⟨?_, by simp (disch := omega) only [field_low, field_high]; rfl, by simp (disch := omega) only [field_low, field_high]; decide⟩
  rw [decodeHT_03 _ _ (by simp (disch := omega) only [field_low, field_high]; rfl)]
  simp (disch := omega) only [decMajor03, dec_mulh, checked, field_low, field_high, field_all, Nat.reduceSub, BitVec.reduceExtractLsb', BitVec.reduceToNat, BitVec.ofNat_eq_ofNat, BitVec.reduceBEq, reduceIte]
  try rfl

theorem Encodes.mulhu (d : SReg) (b : SReg) (c : SReg) : Encodes.Statement (.mulhu d b c) := by
  rintro hw h t ⟨⟩
  refine ⟨?_, by simp (disch := omega) only [field_low, field_high]; rfl, by simp (disch := omega) only [field_low, field_high]; decide⟩
  rw [decodeHT_03 _ _ (by simp (disch := omega) only [field_low, field_high]; rfl)]
  simp (disch := omega) only [decMajor03, dec_mulhu, checked, field_low, field_high, field_all, Nat.reduceSub, BitVec.reduceExtractLsb', BitVec.reduceToNat, BitVec.ofNat_eq_ofNat, BitVec.reduceBEq, reduceIte]
  try rfl

theorem Encodes.mulhsu (d : SReg) (b : SReg) (c : SReg) : Encodes.Statement (.mulhsu d b c) := by
  rintro hw h t ⟨⟩
  refine ⟨?_, by simp (disch := omega) only [field_low, field_high]; rfl, by simp (disch := omega) only [field_low, field_high]; decide⟩
  rw [decodeHT_03 _ _ (by simp (disch := omega) only [field_low, field_high]; rfl)]
  simp (disch := omega) only [decMajor03, dec_mulhsu, checked, field_low, field_high, field_all, Nat.reduceSub, BitVec.reduceExtractLsb', BitVec.reduceToNat, BitVec.ofNat_eq_ofNat, BitVec.reduceBEq, reduceIte]
  try rfl

theorem Encodes.div (d : SReg) (b : SReg) (c : SReg) : Encodes.Statement (.div d b c) := by
  rintro hw h t ⟨⟩
  refine ⟨?_, by simp (disch := omega) only [field_low, field_high]; rfl, by simp (disch := omega) only [field_low, field_high]; decide⟩
  rw [decodeHT_03 _ _ (by simp (disch := omega) only [field_low, field_high]; rfl)]
  simp (disch := omega) only [decMajor03, dec_div, checked, field_low, field_high, field_all, Nat.reduceSub, BitVec.reduceExtractLsb', BitVec.reduceToNat, BitVec.ofNat_eq_ofNat, BitVec.reduceBEq, reduceIte]
  try rfl

theorem Encodes.divu (d : SReg) (b : SReg) (c : SReg) : Encodes.Statement (.divu d b c) := by
  rintro hw h t ⟨⟩
  refine ⟨?_, by simp (disch := omega) only [field_low, field_high]; rfl, by simp (disch := omega) only [field_low, field_high]; decide⟩
  rw [decodeHT_03 _ _ (by simp (disch := omega) only [field_low, field_high]; rfl)]
  simp (disch := omega) only [decMajor03, dec_divu, checked, field_low, field_high, field_all, Nat.reduceSub, BitVec.reduceExtractLsb', BitVec.reduceToNat, BitVec.ofNat_eq_ofNat, BitVec.reduceBEq, reduceIte]
  try rfl

theorem Encodes.rem (d : SReg) (b : SReg) (c : SReg) : Encodes.Statement (.rem d b c) := by
  rintro hw h t ⟨⟩
  refine ⟨?_, by simp (disch := omega) only [field_low, field_high]; rfl, by simp (disch := omega) only [field_low, field_high]; decide⟩
  rw [decodeHT_03 _ _ (by simp (disch := omega) only [field_low, field_high]; rfl)]
  simp (disch := omega) only [decMajor03, dec_rem, checked, field_low, field_high, field_all, Nat.reduceSub, BitVec.reduceExtractLsb', BitVec.reduceToNat, BitVec.ofNat_eq_ofNat, BitVec.reduceBEq, reduceIte]
  try rfl

theorem Encodes.remu (d : SReg) (b : SReg) (c : SReg) : Encodes.Statement (.remu d b c) := by
  rintro hw h t ⟨⟩
  refine ⟨?_, by simp (disch := omega) only [field_low, field_high]; rfl, by simp (disch := omega) only [field_low, field_high]; decide⟩
  rw [decodeHT_03 _ _ (by simp (disch := omega) only [field_low, field_high]; rfl)]
  simp (disch := omega) only [decMajor03, dec_remu, checked, field_low, field_high, field_all, Nat.reduceSub, BitVec.reduceExtractLsb', BitVec.reduceToNat, BitVec.ofNat_eq_ofNat, BitVec.reduceBEq, reduceIte]
  try rfl

theorem Encodes.clz (d : SReg) (b : SReg) : Encodes.Statement (.clz d b) := by
  rintro hw h t ⟨⟩
  refine ⟨?_, by simp (disch := omega) only [field_low, field_high]; rfl, by simp (disch := omega) only [field_low, field_high]; decide⟩
  rw [decodeHT_04 _ _ (by simp (disch := omega) only [field_low, field_high]; rfl)]
  simp (disch := omega) only [decMajor04, dec_clz, checked, field_low, field_high, field_all, Nat.reduceSub, BitVec.reduceExtractLsb', BitVec.reduceToNat, BitVec.ofNat_eq_ofNat, BitVec.reduceBEq, reduceIte]
  try rfl

theorem Encodes.ctz (d : SReg) (b : SReg) : Encodes.Statement (.ctz d b) := by
  rintro hw h t ⟨⟩
  refine ⟨?_, by simp (disch := omega) only [field_low, field_high]; rfl, by simp (disch := omega) only [field_low, field_high]; decide⟩
  rw [decodeHT_04 _ _ (by simp (disch := omega) only [field_low, field_high]; rfl)]
  simp (disch := omega) only [decMajor04, dec_ctz, checked, field_low, field_high, field_all, Nat.reduceSub, BitVec.reduceExtractLsb', BitVec.reduceToNat, BitVec.ofNat_eq_ofNat, BitVec.reduceBEq, reduceIte]
  try rfl

theorem Encodes.popc (d : SReg) (b : SReg) : Encodes.Statement (.popc d b) := by
  rintro hw h t ⟨⟩
  refine ⟨?_, by simp (disch := omega) only [field_low, field_high]; rfl, by simp (disch := omega) only [field_low, field_high]; decide⟩
  rw [decodeHT_04 _ _ (by simp (disch := omega) only [field_low, field_high]; rfl)]
  simp (disch := omega) only [decMajor04, dec_popc, checked, field_low, field_high, field_all, Nat.reduceSub, BitVec.reduceExtractLsb', BitVec.reduceToNat, BitVec.ofNat_eq_ofNat, BitVec.reduceBEq, reduceIte]
  try rfl

theorem Encodes.brev (d : SReg) (b : SReg) : Encodes.Statement (.brev d b) := by
  rintro hw h t ⟨⟩
  refine ⟨?_, by simp (disch := omega) only [field_low, field_high]; rfl, by simp (disch := omega) only [field_low, field_high]; decide⟩
  rw [decodeHT_04 _ _ (by simp (disch := omega) only [field_low, field_high]; rfl)]
  simp (disch := omega) only [decMajor04, dec_brev, checked, field_low, field_high, field_all, Nat.reduceSub, BitVec.reduceExtractLsb', BitVec.reduceToNat, BitVec.ofNat_eq_ofNat, BitVec.reduceBEq, reduceIte]
  try rfl

theorem Encodes.bswap (d : SReg) (b : SReg) : Encodes.Statement (.bswap d b) := by
  rintro hw h t ⟨⟩
  refine ⟨?_, by simp (disch := omega) only [field_low, field_high]; rfl, by simp (disch := omega) only [field_low, field_high]; decide⟩
  rw [decodeHT_04 _ _ (by simp (disch := omega) only [field_low, field_high]; rfl)]
  simp (disch := omega) only [decMajor04, dec_bswap, checked, field_low, field_high, field_all, Nat.reduceSub, BitVec.reduceExtractLsb', BitVec.reduceToNat, BitVec.ofNat_eq_ofNat, BitVec.reduceBEq, reduceIte]
  try rfl

theorem Encodes.rol (d : SReg) (b : SReg) (c : SReg) : Encodes.Statement (.rol d b c) := by
  rintro hw h t ⟨⟩
  refine ⟨?_, by simp (disch := omega) only [field_low, field_high]; rfl, by simp (disch := omega) only [field_low, field_high]; decide⟩
  rw [decodeHT_04 _ _ (by simp (disch := omega) only [field_low, field_high]; rfl)]
  simp (disch := omega) only [decMajor04, dec_rol, checked, field_low, field_high, field_all, Nat.reduceSub, BitVec.reduceExtractLsb', BitVec.reduceToNat, BitVec.ofNat_eq_ofNat, BitVec.reduceBEq, reduceIte]
  try rfl

theorem Encodes.ror (d : SReg) (b : SReg) (c : SReg) : Encodes.Statement (.ror d b c) := by
  rintro hw h t ⟨⟩
  refine ⟨?_, by simp (disch := omega) only [field_low, field_high]; rfl, by simp (disch := omega) only [field_low, field_high]; decide⟩
  rw [decodeHT_04 _ _ (by simp (disch := omega) only [field_low, field_high]; rfl)]
  simp (disch := omega) only [decMajor04, dec_ror, checked, field_low, field_high, field_all, Nat.reduceSub, BitVec.reduceExtractLsb', BitVec.reduceToNat, BitVec.ofNat_eq_ofNat, BitVec.reduceBEq, reduceIte]
  try rfl

theorem Encodes.ext (d : SReg) (b : SReg) (pos : BitVec 6) (lenM1 : BitVec 6) : Encodes.Statement (.ext d b pos lenM1) := by
  rintro hw h t ⟨⟩
  have hw : (!(decide (64 < pos.toNat + lenM1.toNat + 1))) = true := hw
  simp only [Bool.and_eq_true, Bool.not_eq_true'] at hw
  refine ⟨?_, by simp (disch := omega) only [field_low, field_high]; rfl, by simp (disch := omega) only [field_low, field_high]; decide⟩
  rw [decodeHT_04 _ _ (by simp (disch := omega) only [field_low, field_high]; rfl)]
  simp (disch := omega) only [decMajor04, dec_ext, checked, field_low, field_high, field_all, Nat.reduceSub, BitVec.reduceExtractLsb', BitVec.reduceToNat, BitVec.ofNat_eq_ofNat, BitVec.reduceBEq, reduceIte, hw]
  try rfl

theorem Encodes.extu (d : SReg) (b : SReg) (pos : BitVec 6) (lenM1 : BitVec 6) : Encodes.Statement (.extu d b pos lenM1) := by
  rintro hw h t ⟨⟩
  have hw : (!(decide (64 < pos.toNat + lenM1.toNat + 1))) = true := hw
  simp only [Bool.and_eq_true, Bool.not_eq_true'] at hw
  refine ⟨?_, by simp (disch := omega) only [field_low, field_high]; rfl, by simp (disch := omega) only [field_low, field_high]; decide⟩
  rw [decodeHT_04 _ _ (by simp (disch := omega) only [field_low, field_high]; rfl)]
  simp (disch := omega) only [decMajor04, dec_extu, checked, field_low, field_high, field_all, Nat.reduceSub, BitVec.reduceExtractLsb', BitVec.reduceToNat, BitVec.ofNat_eq_ofNat, BitVec.reduceBEq, reduceIte, hw]
  try rfl

theorem Encodes.ins (d : SReg) (b : SReg) (pos : BitVec 6) (lenM1 : BitVec 6) : Encodes.Statement (.ins d b pos lenM1) := by
  rintro hw h t ⟨⟩
  have hw : (!(decide (64 < pos.toNat + lenM1.toNat + 1))) = true := hw
  simp only [Bool.and_eq_true, Bool.not_eq_true'] at hw
  refine ⟨?_, by simp (disch := omega) only [field_low, field_high]; rfl, by simp (disch := omega) only [field_low, field_high]; decide⟩
  rw [decodeHT_04 _ _ (by simp (disch := omega) only [field_low, field_high]; rfl)]
  simp (disch := omega) only [decMajor04, dec_ins, checked, field_low, field_high, field_all, Nat.reduceSub, BitVec.reduceExtractLsb', BitVec.reduceToNat, BitVec.ofNat_eq_ofNat, BitVec.reduceBEq, reduceIte, hw]
  try rfl

theorem Encodes.li (d : SReg) (imm : BitVec 11) : Encodes.Statement (.li d imm) := by
  rintro hw h t ⟨⟩
  refine ⟨?_, by simp (disch := omega) only [field_low, field_high]; rfl, by simp (disch := omega) only [field_low, field_high]; decide⟩
  rw [decodeHT_05 _ _ (by simp (disch := omega) only [field_low, field_high]; rfl)]
  simp (disch := omega) only [decMajor05, dec_li, checked, field_low, field_high, field_all, Nat.reduceSub, BitVec.reduceExtractLsb', BitVec.reduceToNat, BitVec.ofNat_eq_ofNat, BitVec.reduceBEq, reduceIte]
  try rfl

theorem Encodes.liZ (d : SReg) (imm : BitVec 11) : Encodes.Statement (.liZ d imm) := by
  rintro hw h t ⟨⟩
  refine ⟨?_, by simp (disch := omega) only [field_low, field_high]; rfl, by simp (disch := omega) only [field_low, field_high]; decide⟩
  rw [decodeHT_05 _ _ (by simp (disch := omega) only [field_low, field_high]; rfl)]
  simp (disch := omega) only [decMajor05, dec_liZ, checked, field_low, field_high, field_all, Nat.reduceSub, BitVec.reduceExtractLsb', BitVec.reduceToNat, BitVec.ofNat_eq_ofNat, BitVec.reduceBEq, reduceIte]
  try rfl

theorem Encodes.liW (d : SReg) (imm : BitVec 16) : Encodes.Statement (.liW d imm) := by
  rintro hw h t ⟨⟩
  refine ⟨?_, by simp (disch := omega) only [field_low, field_high]; rfl, by simp (disch := omega) only [field_low, field_high]; decide⟩
  rw [decodeHT_05 _ _ (by simp (disch := omega) only [field_low, field_high]; rfl)]
  simp (disch := omega) only [decMajor05, dec_liW, checked, field_low, field_high, field_all, Nat.reduceSub, BitVec.reduceExtractLsb', BitVec.reduceToNat, BitVec.ofNat_eq_ofNat, BitVec.reduceBEq, reduceIte]
  try rfl

theorem Encodes.liZW (d : SReg) (imm : BitVec 16) : Encodes.Statement (.liZW d imm) := by
  rintro hw h t ⟨⟩
  refine ⟨?_, by simp (disch := omega) only [field_low, field_high]; rfl, by simp (disch := omega) only [field_low, field_high]; decide⟩
  rw [decodeHT_05 _ _ (by simp (disch := omega) only [field_low, field_high]; rfl)]
  simp (disch := omega) only [decMajor05, dec_liZW, checked, field_low, field_high, field_all, Nat.reduceSub, BitVec.reduceExtractLsb', BitVec.reduceToNat, BitVec.ofNat_eq_ofNat, BitVec.reduceBEq, reduceIte]
  try rfl

theorem Encodes.lih (d : SReg) (imm : BitVec 16) : Encodes.Statement (.lih d imm) := by
  rintro hw h t ⟨⟩
  refine ⟨?_, by simp (disch := omega) only [field_low, field_high]; rfl, by simp (disch := omega) only [field_low, field_high]; decide⟩
  rw [decodeHT_05 _ _ (by simp (disch := omega) only [field_low, field_high]; rfl)]
  simp (disch := omega) only [decMajor05, dec_lih, checked, field_low, field_high, field_all, Nat.reduceSub, BitVec.reduceExtractLsb', BitVec.reduceToNat, BitVec.ofNat_eq_ofNat, BitVec.reduceBEq, reduceIte]
  try rfl

theorem Encodes.liX0 (d : SReg) (imm : BitVec 48) : Encodes.Statement (.liX0 d imm) := by
  rintro hw h t ⟨⟩
  refine ⟨?_, by simp (disch := omega) only [field_low, field_high]; rfl, by simp (disch := omega) only [field_low, field_high]; decide⟩
  rw [decodeHT_05 _ _ (by simp (disch := omega) only [field_low, field_high]; rfl)]
  simp (disch := omega) only [decMajor05, dec_liX0, checked, field_low, field_high, field_all, Nat.reduceSub, BitVec.reduceExtractLsb', BitVec.reduceToNat, BitVec.ofNat_eq_ofNat, BitVec.reduceBEq, reduceIte]
  try rfl

theorem Encodes.liZX0 (d : SReg) (imm : BitVec 48) : Encodes.Statement (.liZX0 d imm) := by
  rintro hw h t ⟨⟩
  refine ⟨?_, by simp (disch := omega) only [field_low, field_high]; rfl, by simp (disch := omega) only [field_low, field_high]; decide⟩
  rw [decodeHT_05 _ _ (by simp (disch := omega) only [field_low, field_high]; rfl)]
  simp (disch := omega) only [decMajor05, dec_liZX0, checked, field_low, field_high, field_all, Nat.reduceSub, BitVec.reduceExtractLsb', BitVec.reduceToNat, BitVec.ofNat_eq_ofNat, BitVec.reduceBEq, reduceIte]
  try rfl

theorem Encodes.lea (d : SReg) (b : SReg) (imm : BitVec 11) : Encodes.Statement (.lea d b imm) := by
  rintro hw h t ⟨⟩
  refine ⟨?_, by simp (disch := omega) only [field_low, field_high]; rfl, by simp (disch := omega) only [field_low, field_high]; decide⟩
  rw [decodeHT_06 _ _ (by simp (disch := omega) only [field_low, field_high]; rfl)]
  simp (disch := omega) only [decMajor06, dec_lea, checked, field_low, field_high, field_all, Nat.reduceSub, BitVec.reduceExtractLsb', BitVec.reduceToNat, BitVec.ofNat_eq_ofNat, BitVec.reduceBEq, reduceIte]
  try rfl

theorem Encodes.leaW (d : SReg) (b : SReg) (imm : BitVec 16) : Encodes.Statement (.leaW d b imm) := by
  rintro hw h t ⟨⟩
  refine ⟨?_, by simp (disch := omega) only [field_low, field_high]; rfl, by simp (disch := omega) only [field_low, field_high]; decide⟩
  rw [decodeHT_06 _ _ (by simp (disch := omega) only [field_low, field_high]; rfl)]
  simp (disch := omega) only [decMajor06, dec_leaW, checked, field_low, field_high, field_all, Nat.reduceSub, BitVec.reduceExtractLsb', BitVec.reduceToNat, BitVec.ofNat_eq_ofNat, BitVec.reduceBEq, reduceIte]
  try rfl

theorem Encodes.leaX1 (n : BitVec 2) (d : SReg) (b : SReg) (c : SReg) (imm : BitVec 33) : Encodes.Statement (.leaX1 n d b c imm) := by
  rintro hw h t ⟨⟩
  refine ⟨?_, by simp (disch := omega) only [field_high]; rfl, by simp (disch := omega) only [field_high]; decide⟩
  rw [decodeHT_06 _ _ (by simp (disch := omega) only [field_high]; rfl)]
  have e : BitVec.extractLsb' (n := 16) 0 3 (3#2 ++ 0x06#6 ++ d ++ 0#1 ++ n) = 0#1 ++ n :=
    field_split (3#2 ++ 0x06#6 ++ d) 0#1 n
  simp only [decMajor06, e]
  have hf : dec_leaX1 (3#2 ++ 0x06#6 ++ d ++ 0#1 ++ n) (b ++ c ++ 0#5 ++ imm) = .ok (.leaX1 n d b c imm) := by
    simp (disch := omega) only [dec_leaX1, checked, field_low, field_high, field_all, Nat.reduceSub, BitVec.reduceExtractLsb', BitVec.reduceToNat, BitVec.ofNat_eq_ofNat, BitVec.reduceBEq, reduceIte]
    rfl
  have hn : ∀ k : BitVec 2, k = 0 ∨ k = 1 ∨ k = 2 ∨ k = 3 := by decide
  rcases hn n with rfl | rfl | rfl | rfl
  all_goals exact hf

theorem Encodes.mov (d : SReg) (b : SReg) : Encodes.Statement (.mov d b) := by
  rintro hw h t ⟨⟩
  refine ⟨?_, by simp (disch := omega) only [field_low, field_high]; rfl, by simp (disch := omega) only [field_low, field_high]; decide⟩
  rw [decodeHT_07 _ _ (by simp (disch := omega) only [field_low, field_high]; rfl)]
  simp (disch := omega) only [decMajor07, dec_mov, checked, field_low, field_high, field_all, Nat.reduceSub, BitVec.reduceExtractLsb', BitVec.reduceToNat, BitVec.ofNat_eq_ofNat, BitVec.reduceBEq, reduceIte]
  try rfl

theorem Encodes.sel (d : SReg) (b : SReg) (c : SReg) (k : SReg) : Encodes.Statement (.sel d b c k) := by
  rintro hw h t ⟨⟩
  refine ⟨?_, by simp (disch := omega) only [field_low, field_high]; rfl, by simp (disch := omega) only [field_low, field_high]; decide⟩
  rw [decodeHT_07 _ _ (by simp (disch := omega) only [field_low, field_high]; rfl)]
  simp (disch := omega) only [decMajor07, dec_sel, checked, field_low, field_high, field_all, Nat.reduceSub, BitVec.reduceExtractLsb', BitVec.reduceToNat, BitVec.ofNat_eq_ofNat, BitVec.reduceBEq, reduceIte]
  try rfl

theorem Encodes.beqz (b : SReg) (off : BitVec 27) : Encodes.Statement (.beqz b off) := by
  rintro hw h t ⟨⟩
  refine ⟨?_, by simp (disch := omega) only [field_low, field_high]; rfl, by simp (disch := omega) only [field_low, field_high]; decide⟩
  rw [decodeHT_08 _ _ (by simp (disch := omega) only [field_low, field_high]; rfl)]
  simp (disch := omega) only [decMajor08, dec_beqz, checked, field_low, field_high, field_all, Nat.reduceSub, BitVec.reduceExtractLsb', BitVec.reduceToNat, BitVec.ofNat_eq_ofNat, BitVec.reduceBEq, reduceIte]
  try rfl

theorem Encodes.bnez (b : SReg) (off : BitVec 27) : Encodes.Statement (.bnez b off) := by
  rintro hw h t ⟨⟩
  refine ⟨?_, by simp (disch := omega) only [field_low, field_high]; rfl, by simp (disch := omega) only [field_low, field_high]; decide⟩
  rw [decodeHT_08 _ _ (by simp (disch := omega) only [field_low, field_high]; rfl)]
  simp (disch := omega) only [decMajor08, dec_bnez, checked, field_low, field_high, field_all, Nat.reduceSub, BitVec.reduceExtractLsb', BitVec.reduceToNat, BitVec.ofNat_eq_ofNat, BitVec.reduceBEq, reduceIte]
  try rfl

theorem Encodes.bltz (b : SReg) (off : BitVec 27) : Encodes.Statement (.bltz b off) := by
  rintro hw h t ⟨⟩
  refine ⟨?_, by simp (disch := omega) only [field_low, field_high]; rfl, by simp (disch := omega) only [field_low, field_high]; decide⟩
  rw [decodeHT_08 _ _ (by simp (disch := omega) only [field_low, field_high]; rfl)]
  simp (disch := omega) only [decMajor08, dec_bltz, checked, field_low, field_high, field_all, Nat.reduceSub, BitVec.reduceExtractLsb', BitVec.reduceToNat, BitVec.ofNat_eq_ofNat, BitVec.reduceBEq, reduceIte]
  try rfl

theorem Encodes.bgez (b : SReg) (off : BitVec 27) : Encodes.Statement (.bgez b off) := by
  rintro hw h t ⟨⟩
  refine ⟨?_, by simp (disch := omega) only [field_low, field_high]; rfl, by simp (disch := omega) only [field_low, field_high]; decide⟩
  rw [decodeHT_08 _ _ (by simp (disch := omega) only [field_low, field_high]; rfl)]
  simp (disch := omega) only [decMajor08, dec_bgez, checked, field_low, field_high, field_all, Nat.reduceSub, BitVec.reduceExtractLsb', BitVec.reduceToNat, BitVec.ofNat_eq_ofNat, BitVec.reduceBEq, reduceIte]
  try rfl

theorem Encodes.bgtz (b : SReg) (off : BitVec 27) : Encodes.Statement (.bgtz b off) := by
  rintro hw h t ⟨⟩
  refine ⟨?_, by simp (disch := omega) only [field_low, field_high]; rfl, by simp (disch := omega) only [field_low, field_high]; decide⟩
  rw [decodeHT_08 _ _ (by simp (disch := omega) only [field_low, field_high]; rfl)]
  simp (disch := omega) only [decMajor08, dec_bgtz, checked, field_low, field_high, field_all, Nat.reduceSub, BitVec.reduceExtractLsb', BitVec.reduceToNat, BitVec.ofNat_eq_ofNat, BitVec.reduceBEq, reduceIte]
  try rfl

theorem Encodes.blez (b : SReg) (off : BitVec 27) : Encodes.Statement (.blez b off) := by
  rintro hw h t ⟨⟩
  refine ⟨?_, by simp (disch := omega) only [field_low, field_high]; rfl, by simp (disch := omega) only [field_low, field_high]; decide⟩
  rw [decodeHT_08 _ _ (by simp (disch := omega) only [field_low, field_high]; rfl)]
  simp (disch := omega) only [decMajor08, dec_blez, checked, field_low, field_high, field_all, Nat.reduceSub, BitVec.reduceExtractLsb', BitVec.reduceToNat, BitVec.ofNat_eq_ofNat, BitVec.reduceBEq, reduceIte]
  try rfl

theorem Encodes.beq (b : SReg) (c : SReg) (off : BitVec 27) : Encodes.Statement (.beq b c off) := by
  rintro hw h t ⟨⟩
  refine ⟨?_, by simp (disch := omega) only [field_low, field_high]; rfl, by simp (disch := omega) only [field_low, field_high]; decide⟩
  rw [decodeHT_09 _ _ (by simp (disch := omega) only [field_low, field_high]; rfl)]
  simp (disch := omega) only [decMajor09, dec_beq, checked, field_low, field_high, field_all, Nat.reduceSub, BitVec.reduceExtractLsb', BitVec.reduceToNat, BitVec.ofNat_eq_ofNat, BitVec.reduceBEq, reduceIte]
  try rfl

theorem Encodes.bne (b : SReg) (c : SReg) (off : BitVec 27) : Encodes.Statement (.bne b c off) := by
  rintro hw h t ⟨⟩
  refine ⟨?_, by simp (disch := omega) only [field_low, field_high]; rfl, by simp (disch := omega) only [field_low, field_high]; decide⟩
  rw [decodeHT_09 _ _ (by simp (disch := omega) only [field_low, field_high]; rfl)]
  simp (disch := omega) only [decMajor09, dec_bne, checked, field_low, field_high, field_all, Nat.reduceSub, BitVec.reduceExtractLsb', BitVec.reduceToNat, BitVec.ofNat_eq_ofNat, BitVec.reduceBEq, reduceIte]
  try rfl

theorem Encodes.blt (b : SReg) (c : SReg) (off : BitVec 27) : Encodes.Statement (.blt b c off) := by
  rintro hw h t ⟨⟩
  refine ⟨?_, by simp (disch := omega) only [field_low, field_high]; rfl, by simp (disch := omega) only [field_low, field_high]; decide⟩
  rw [decodeHT_09 _ _ (by simp (disch := omega) only [field_low, field_high]; rfl)]
  simp (disch := omega) only [decMajor09, dec_blt, checked, field_low, field_high, field_all, Nat.reduceSub, BitVec.reduceExtractLsb', BitVec.reduceToNat, BitVec.ofNat_eq_ofNat, BitVec.reduceBEq, reduceIte]
  try rfl

theorem Encodes.bge (b : SReg) (c : SReg) (off : BitVec 27) : Encodes.Statement (.bge b c off) := by
  rintro hw h t ⟨⟩
  refine ⟨?_, by simp (disch := omega) only [field_low, field_high]; rfl, by simp (disch := omega) only [field_low, field_high]; decide⟩
  rw [decodeHT_09 _ _ (by simp (disch := omega) only [field_low, field_high]; rfl)]
  simp (disch := omega) only [decMajor09, dec_bge, checked, field_low, field_high, field_all, Nat.reduceSub, BitVec.reduceExtractLsb', BitVec.reduceToNat, BitVec.ofNat_eq_ofNat, BitVec.reduceBEq, reduceIte]
  try rfl

theorem Encodes.bltu (b : SReg) (c : SReg) (off : BitVec 27) : Encodes.Statement (.bltu b c off) := by
  rintro hw h t ⟨⟩
  refine ⟨?_, by simp (disch := omega) only [field_low, field_high]; rfl, by simp (disch := omega) only [field_low, field_high]; decide⟩
  rw [decodeHT_09 _ _ (by simp (disch := omega) only [field_low, field_high]; rfl)]
  simp (disch := omega) only [decMajor09, dec_bltu, checked, field_low, field_high, field_all, Nat.reduceSub, BitVec.reduceExtractLsb', BitVec.reduceToNat, BitVec.ofNat_eq_ofNat, BitVec.reduceBEq, reduceIte]
  try rfl

theorem Encodes.bgeu (b : SReg) (c : SReg) (off : BitVec 27) : Encodes.Statement (.bgeu b c off) := by
  rintro hw h t ⟨⟩
  refine ⟨?_, by simp (disch := omega) only [field_low, field_high]; rfl, by simp (disch := omega) only [field_low, field_high]; decide⟩
  rw [decodeHT_09 _ _ (by simp (disch := omega) only [field_low, field_high]; rfl)]
  simp (disch := omega) only [decMajor09, dec_bgeu, checked, field_low, field_high, field_all, Nat.reduceSub, BitVec.reduceExtractLsb', BitVec.reduceToNat, BitVec.ofNat_eq_ofNat, BitVec.reduceBEq, reduceIte]
  try rfl

theorem Encodes.br (off : BitVec 27) : Encodes.Statement (.br off) := by
  rintro hw h t ⟨⟩
  refine ⟨?_, by simp (disch := omega) only [field_low, field_high]; rfl, by simp (disch := omega) only [field_low, field_high]; decide⟩
  rw [decodeHT_0A _ _ (by simp (disch := omega) only [field_low, field_high]; rfl)]
  simp (disch := omega) only [decMajor0A, dec_br, checked, field_low, field_high, field_all, Nat.reduceSub, BitVec.reduceExtractLsb', BitVec.reduceToNat, BitVec.ofNat_eq_ofNat, BitVec.reduceBEq, reduceIte]
  try rfl

theorem Encodes.call (off : BitVec 27) : Encodes.Statement (.call off) := by
  rintro hw h t ⟨⟩
  refine ⟨?_, by simp (disch := omega) only [field_low, field_high]; rfl, by simp (disch := omega) only [field_low, field_high]; decide⟩
  rw [decodeHT_0A _ _ (by simp (disch := omega) only [field_low, field_high]; rfl)]
  simp (disch := omega) only [decMajor0A, dec_call, checked, field_low, field_high, field_all, Nat.reduceSub, BitVec.reduceExtractLsb', BitVec.reduceToNat, BitVec.ofNat_eq_ofNat, BitVec.reduceBEq, reduceIte]
  try rfl

theorem Encodes.dbnz (b : SReg) (off : BitVec 27) : Encodes.Statement (.dbnz b off) := by
  rintro hw h t ⟨⟩
  refine ⟨?_, by simp (disch := omega) only [field_low, field_high]; rfl, by simp (disch := omega) only [field_low, field_high]; decide⟩
  rw [decodeHT_0D _ _ (by simp (disch := omega) only [field_low, field_high]; rfl)]
  simp (disch := omega) only [decMajor0D, dec_dbnz, checked, field_low, field_high, field_all, Nat.reduceSub, BitVec.reduceExtractLsb', BitVec.reduceToNat, BitVec.ofNat_eq_ofNat, BitVec.reduceBEq, reduceIte]
  try rfl

theorem Encodes.jt (l : BitVec 5) (b : SReg) (c : SReg) (nM1 : BitVec 6) : Encodes.Statement (.jt l b c nM1) := by
  rintro hw h t ⟨⟩
  refine ⟨?_, by simp (disch := omega) only [field_low, field_high]; rfl, by simp (disch := omega) only [field_low, field_high]; decide⟩
  rw [decodeHT_0B _ _ (by simp (disch := omega) only [field_low, field_high]; rfl)]
  simp (disch := omega) only [decMajor0B, dec_jt, checked, field_low, field_high, field_all, Nat.reduceSub, BitVec.reduceExtractLsb', BitVec.reduceToNat, BitVec.ofNat_eq_ofNat, BitVec.reduceBEq, reduceIte]
  try rfl

theorem Encodes.callt (l : BitVec 5) (b : SReg) (c : SReg) (nM1 : BitVec 6) : Encodes.Statement (.callt l b c nM1) := by
  rintro hw h t ⟨⟩
  refine ⟨?_, by simp (disch := omega) only [field_low, field_high]; rfl, by simp (disch := omega) only [field_low, field_high]; decide⟩
  rw [decodeHT_0B _ _ (by simp (disch := omega) only [field_low, field_high]; rfl)]
  simp (disch := omega) only [decMajor0B, dec_callt, checked, field_low, field_high, field_all, Nat.reduceSub, BitVec.reduceExtractLsb', BitVec.reduceToNat, BitVec.ofNat_eq_ofNat, BitVec.reduceBEq, reduceIte]
  try rfl

theorem Encodes.jtW (b : SReg) (c : SReg) (n : SReg) (l : BitVec 11) : Encodes.Statement (.jtW b c n l) := by
  rintro hw h t ⟨⟩
  refine ⟨?_, by simp (disch := omega) only [field_low, field_high]; rfl, by simp (disch := omega) only [field_low, field_high]; decide⟩
  rw [decodeHT_0B _ _ (by simp (disch := omega) only [field_low, field_high]; rfl)]
  simp (disch := omega) only [decMajor0B, dec_jtW, checked, field_low, field_high, field_all, Nat.reduceSub, BitVec.reduceExtractLsb', BitVec.reduceToNat, BitVec.ofNat_eq_ofNat, BitVec.reduceBEq, reduceIte]
  try rfl

theorem Encodes.calltW (b : SReg) (c : SReg) (n : SReg) (l : BitVec 11) : Encodes.Statement (.calltW b c n l) := by
  rintro hw h t ⟨⟩
  refine ⟨?_, by simp (disch := omega) only [field_low, field_high]; rfl, by simp (disch := omega) only [field_low, field_high]; decide⟩
  rw [decodeHT_0B _ _ (by simp (disch := omega) only [field_low, field_high]; rfl)]
  simp (disch := omega) only [decMajor0B, dec_calltW, checked, field_low, field_high, field_all, Nat.reduceSub, BitVec.reduceExtractLsb', BitVec.reduceToNat, BitVec.ofNat_eq_ofNat, BitVec.reduceBEq, reduceIte]
  try rfl

theorem Encodes.lpad (l : BitVec 11) : Encodes.Statement (.lpad l) := by
  rintro hw h t ⟨⟩
  refine ⟨?_, by simp (disch := omega) only [field_low, field_high]; rfl, by simp (disch := omega) only [field_low, field_high]; decide⟩
  rw [decodeHT_0C _ _ (by simp (disch := omega) only [field_low, field_high]; rfl)]
  simp (disch := omega) only [decMajor0C, dec_lpad, checked, field_low, field_high, field_all, Nat.reduceSub, BitVec.reduceExtractLsb', BitVec.reduceToNat, BitVec.ofNat_eq_ofNat, BitVec.reduceBEq, reduceIte]
  try rfl

theorem Encodes.nop : Encodes.Statement (.nop) := by
  rintro hw h t ⟨⟩
  refine ⟨?_, by simp (disch := omega) only [field_low, field_high]; rfl, by simp (disch := omega) only [field_low, field_high]; decide⟩
  rw [decodeHT_0C _ _ (by simp (disch := omega) only [field_low, field_high]; rfl)]
  simp (disch := omega) only [decMajor0C, dec_nop, checked, field_low, field_high, field_all, Nat.reduceSub, BitVec.reduceExtractLsb', BitVec.reduceToNat, BitVec.ofNat_eq_ofNat, BitVec.reduceBEq, reduceIte]
  try rfl

theorem Encodes.exit : Encodes.Statement (.exit) := by
  rintro hw h t ⟨⟩
  refine ⟨?_, by simp (disch := omega) only [field_low, field_high]; rfl, by simp (disch := omega) only [field_low, field_high]; decide⟩
  rw [decodeHT_0C _ _ (by simp (disch := omega) only [field_low, field_high]; rfl)]
  simp (disch := omega) only [decMajor0C, dec_exit, checked, field_low, field_high, field_all, Nat.reduceSub, BitVec.reduceExtractLsb', BitVec.reduceToNat, BitVec.ofNat_eq_ofNat, BitVec.reduceBEq, reduceIte]
  try rfl

theorem Encodes.rets (f : SReg) : Encodes.Statement (.rets f) := by
  rintro hw h t ⟨⟩
  refine ⟨?_, by simp (disch := omega) only [field_low, field_high]; rfl, by simp (disch := omega) only [field_low, field_high]; decide⟩
  rw [decodeHT_0C _ _ (by simp (disch := omega) only [field_low, field_high]; rfl)]
  simp (disch := omega) only [decMajor0C, dec_rets, checked, field_low, field_high, field_all, Nat.reduceSub, BitVec.reduceExtractLsb', BitVec.reduceToNat, BitVec.ofNat_eq_ofNat, BitVec.reduceBEq, reduceIte]
  try rfl

theorem Encodes.ret : Encodes.Statement (.ret) := by
  rintro hw h t ⟨⟩
  refine ⟨?_, by simp (disch := omega) only [field_low, field_high]; rfl, by simp (disch := omega) only [field_low, field_high]; decide⟩
  rw [decodeHT_0C _ _ (by simp (disch := omega) only [field_low, field_high]; rfl)]
  simp (disch := omega) only [decMajor0C, dec_ret, checked, field_low, field_high, field_all, Nat.reduceSub, BitVec.reduceExtractLsb', BitVec.reduceToNat, BitVec.ofNat_eq_ofNat, BitVec.reduceBEq, reduceIte]
  try rfl

theorem Encodes.trap (b : SReg) (code : BitVec 11) : Encodes.Statement (.trap b code) := by
  rintro hw h t ⟨⟩
  refine ⟨?_, by simp (disch := omega) only [field_low, field_high]; rfl, by simp (disch := omega) only [field_low, field_high]; decide⟩
  rw [decodeHT_0E _ _ (by simp (disch := omega) only [field_low, field_high]; rfl)]
  simp (disch := omega) only [decMajor0E, dec_trap, checked, field_low, field_high, field_all, Nat.reduceSub, BitVec.reduceExtractLsb', BitVec.reduceToNat, BitVec.ofNat_eq_ofNat, BitVec.reduceBEq, reduceIte]
  try rfl

theorem Encodes.eret : Encodes.Statement (.eret) := by
  rintro hw h t ⟨⟩
  refine ⟨?_, by simp (disch := omega) only [field_low, field_high]; rfl, by simp (disch := omega) only [field_low, field_high]; decide⟩
  rw [decodeHT_0E _ _ (by simp (disch := omega) only [field_low, field_high]; rfl)]
  simp (disch := omega) only [decMajor0E, dec_eret, checked, field_low, field_high, field_all, Nat.reduceSub, BitVec.reduceExtractLsb', BitVec.reduceToNat, BitVec.ofNat_eq_ofNat, BitVec.reduceBEq, reduceIte]
  try rfl

theorem Encodes.mfc (d : SReg) (n : BitVec 11) : Encodes.Statement (.mfc d n) := by
  rintro hw h t ⟨⟩
  have hw : (!(!CReg.known n)) = true := hw
  simp only [Bool.and_eq_true, Bool.not_eq_true'] at hw
  refine ⟨?_, by simp (disch := omega) only [field_low, field_high]; rfl, by simp (disch := omega) only [field_low, field_high]; decide⟩
  rw [decodeHT_0F _ _ (by simp (disch := omega) only [field_low, field_high]; rfl)]
  simp (disch := omega) only [decMajor0F, dec_mfc, checked, field_low, field_high, field_all, Nat.reduceSub, BitVec.reduceExtractLsb', BitVec.reduceToNat, BitVec.ofNat_eq_ofNat, BitVec.reduceBEq, reduceIte, hw]
  try rfl

theorem Encodes.mtc (s : SReg) (n : BitVec 11) : Encodes.Statement (.mtc s n) := by
  rintro hw h t ⟨⟩
  have hw : (!(!CReg.known n)) = true := hw
  simp only [Bool.and_eq_true, Bool.not_eq_true'] at hw
  refine ⟨?_, by simp (disch := omega) only [field_low, field_high]; rfl, by simp (disch := omega) only [field_low, field_high]; decide⟩
  rw [decodeHT_0F _ _ (by simp (disch := omega) only [field_low, field_high]; rfl)]
  simp (disch := omega) only [decMajor0F, dec_mtc, checked, field_low, field_high, field_all, Nat.reduceSub, BitVec.reduceExtractLsb', BitVec.reduceToNat, BitVec.ofNat_eq_ofNat, BitVec.reduceBEq, reduceIte, hw]
  try rfl

theorem Encodes.ld (d : SReg) (b : SReg) (imm : BitVec 11) : Encodes.Statement (.ld d b imm) := by
  rintro hw h t ⟨⟩
  refine ⟨?_, by simp (disch := omega) only [field_low, field_high]; rfl, by simp (disch := omega) only [field_low, field_high]; decide⟩
  rw [decodeHT_10 _ _ (by simp (disch := omega) only [field_low, field_high]; rfl)]
  simp (disch := omega) only [decMajor10, dec_ld, checked, field_low, field_high, field_all, Nat.reduceSub, BitVec.reduceExtractLsb', BitVec.reduceToNat, BitVec.ofNat_eq_ofNat, BitVec.reduceBEq, reduceIte]
  try rfl

theorem Encodes.lw (d : SReg) (b : SReg) (imm : BitVec 11) : Encodes.Statement (.lw d b imm) := by
  rintro hw h t ⟨⟩
  refine ⟨?_, by simp (disch := omega) only [field_low, field_high]; rfl, by simp (disch := omega) only [field_low, field_high]; decide⟩
  rw [decodeHT_10 _ _ (by simp (disch := omega) only [field_low, field_high]; rfl)]
  simp (disch := omega) only [decMajor10, dec_lw, checked, field_low, field_high, field_all, Nat.reduceSub, BitVec.reduceExtractLsb', BitVec.reduceToNat, BitVec.ofNat_eq_ofNat, BitVec.reduceBEq, reduceIte]
  try rfl

theorem Encodes.lwu (d : SReg) (b : SReg) (imm : BitVec 11) : Encodes.Statement (.lwu d b imm) := by
  rintro hw h t ⟨⟩
  refine ⟨?_, by simp (disch := omega) only [field_low, field_high]; rfl, by simp (disch := omega) only [field_low, field_high]; decide⟩
  rw [decodeHT_10 _ _ (by simp (disch := omega) only [field_low, field_high]; rfl)]
  simp (disch := omega) only [decMajor10, dec_lwu, checked, field_low, field_high, field_all, Nat.reduceSub, BitVec.reduceExtractLsb', BitVec.reduceToNat, BitVec.ofNat_eq_ofNat, BitVec.reduceBEq, reduceIte]
  try rfl

theorem Encodes.lh (d : SReg) (b : SReg) (imm : BitVec 11) : Encodes.Statement (.lh d b imm) := by
  rintro hw h t ⟨⟩
  refine ⟨?_, by simp (disch := omega) only [field_low, field_high]; rfl, by simp (disch := omega) only [field_low, field_high]; decide⟩
  rw [decodeHT_10 _ _ (by simp (disch := omega) only [field_low, field_high]; rfl)]
  simp (disch := omega) only [decMajor10, dec_lh, checked, field_low, field_high, field_all, Nat.reduceSub, BitVec.reduceExtractLsb', BitVec.reduceToNat, BitVec.ofNat_eq_ofNat, BitVec.reduceBEq, reduceIte]
  try rfl

theorem Encodes.lhu (d : SReg) (b : SReg) (imm : BitVec 11) : Encodes.Statement (.lhu d b imm) := by
  rintro hw h t ⟨⟩
  refine ⟨?_, by simp (disch := omega) only [field_low, field_high]; rfl, by simp (disch := omega) only [field_low, field_high]; decide⟩
  rw [decodeHT_10 _ _ (by simp (disch := omega) only [field_low, field_high]; rfl)]
  simp (disch := omega) only [decMajor10, dec_lhu, checked, field_low, field_high, field_all, Nat.reduceSub, BitVec.reduceExtractLsb', BitVec.reduceToNat, BitVec.ofNat_eq_ofNat, BitVec.reduceBEq, reduceIte]
  try rfl

theorem Encodes.lb (d : SReg) (b : SReg) (imm : BitVec 11) : Encodes.Statement (.lb d b imm) := by
  rintro hw h t ⟨⟩
  refine ⟨?_, by simp (disch := omega) only [field_low, field_high]; rfl, by simp (disch := omega) only [field_low, field_high]; decide⟩
  rw [decodeHT_10 _ _ (by simp (disch := omega) only [field_low, field_high]; rfl)]
  simp (disch := omega) only [decMajor10, dec_lb, checked, field_low, field_high, field_all, Nat.reduceSub, BitVec.reduceExtractLsb', BitVec.reduceToNat, BitVec.ofNat_eq_ofNat, BitVec.reduceBEq, reduceIte]
  try rfl

theorem Encodes.lbu (d : SReg) (b : SReg) (imm : BitVec 11) : Encodes.Statement (.lbu d b imm) := by
  rintro hw h t ⟨⟩
  refine ⟨?_, by simp (disch := omega) only [field_low, field_high]; rfl, by simp (disch := omega) only [field_low, field_high]; decide⟩
  rw [decodeHT_10 _ _ (by simp (disch := omega) only [field_low, field_high]; rfl)]
  simp (disch := omega) only [decMajor10, dec_lbu, checked, field_low, field_high, field_all, Nat.reduceSub, BitVec.reduceExtractLsb', BitVec.reduceToNat, BitVec.ofNat_eq_ofNat, BitVec.reduceBEq, reduceIte]
  try rfl

theorem Encodes.ldW (d : SReg) (b : SReg) (rx : BitVec 1) (imm : BitVec 16) : Encodes.Statement (.ldW d b rx imm) := by
  rintro hw h t ⟨⟩
  refine ⟨?_, by simp (disch := omega) only [field_low, field_high]; rfl, by simp (disch := omega) only [field_low, field_high]; decide⟩
  rw [decodeHT_10 _ _ (by simp (disch := omega) only [field_low, field_high]; rfl)]
  simp (disch := omega) only [decMajor10, dec_ldW, checked, field_low, field_high, field_all, Nat.reduceSub, BitVec.reduceExtractLsb', BitVec.reduceToNat, BitVec.ofNat_eq_ofNat, BitVec.reduceBEq, reduceIte]
  try rfl

theorem Encodes.lwW (d : SReg) (b : SReg) (rx : BitVec 1) (imm : BitVec 16) : Encodes.Statement (.lwW d b rx imm) := by
  rintro hw h t ⟨⟩
  refine ⟨?_, by simp (disch := omega) only [field_low, field_high]; rfl, by simp (disch := omega) only [field_low, field_high]; decide⟩
  rw [decodeHT_10 _ _ (by simp (disch := omega) only [field_low, field_high]; rfl)]
  simp (disch := omega) only [decMajor10, dec_lwW, checked, field_low, field_high, field_all, Nat.reduceSub, BitVec.reduceExtractLsb', BitVec.reduceToNat, BitVec.ofNat_eq_ofNat, BitVec.reduceBEq, reduceIte]
  try rfl

theorem Encodes.lwuW (d : SReg) (b : SReg) (rx : BitVec 1) (imm : BitVec 16) : Encodes.Statement (.lwuW d b rx imm) := by
  rintro hw h t ⟨⟩
  refine ⟨?_, by simp (disch := omega) only [field_low, field_high]; rfl, by simp (disch := omega) only [field_low, field_high]; decide⟩
  rw [decodeHT_10 _ _ (by simp (disch := omega) only [field_low, field_high]; rfl)]
  simp (disch := omega) only [decMajor10, dec_lwuW, checked, field_low, field_high, field_all, Nat.reduceSub, BitVec.reduceExtractLsb', BitVec.reduceToNat, BitVec.ofNat_eq_ofNat, BitVec.reduceBEq, reduceIte]
  try rfl

theorem Encodes.lhW (d : SReg) (b : SReg) (rx : BitVec 1) (imm : BitVec 16) : Encodes.Statement (.lhW d b rx imm) := by
  rintro hw h t ⟨⟩
  refine ⟨?_, by simp (disch := omega) only [field_low, field_high]; rfl, by simp (disch := omega) only [field_low, field_high]; decide⟩
  rw [decodeHT_10 _ _ (by simp (disch := omega) only [field_low, field_high]; rfl)]
  simp (disch := omega) only [decMajor10, dec_lhW, checked, field_low, field_high, field_all, Nat.reduceSub, BitVec.reduceExtractLsb', BitVec.reduceToNat, BitVec.ofNat_eq_ofNat, BitVec.reduceBEq, reduceIte]
  try rfl

theorem Encodes.lhuW (d : SReg) (b : SReg) (rx : BitVec 1) (imm : BitVec 16) : Encodes.Statement (.lhuW d b rx imm) := by
  rintro hw h t ⟨⟩
  refine ⟨?_, by simp (disch := omega) only [field_low, field_high]; rfl, by simp (disch := omega) only [field_low, field_high]; decide⟩
  rw [decodeHT_10 _ _ (by simp (disch := omega) only [field_low, field_high]; rfl)]
  simp (disch := omega) only [decMajor10, dec_lhuW, checked, field_low, field_high, field_all, Nat.reduceSub, BitVec.reduceExtractLsb', BitVec.reduceToNat, BitVec.ofNat_eq_ofNat, BitVec.reduceBEq, reduceIte]
  try rfl

theorem Encodes.lbW (d : SReg) (b : SReg) (rx : BitVec 1) (imm : BitVec 16) : Encodes.Statement (.lbW d b rx imm) := by
  rintro hw h t ⟨⟩
  refine ⟨?_, by simp (disch := omega) only [field_low, field_high]; rfl, by simp (disch := omega) only [field_low, field_high]; decide⟩
  rw [decodeHT_10 _ _ (by simp (disch := omega) only [field_low, field_high]; rfl)]
  simp (disch := omega) only [decMajor10, dec_lbW, checked, field_low, field_high, field_all, Nat.reduceSub, BitVec.reduceExtractLsb', BitVec.reduceToNat, BitVec.ofNat_eq_ofNat, BitVec.reduceBEq, reduceIte]
  try rfl

theorem Encodes.lbuW (d : SReg) (b : SReg) (rx : BitVec 1) (imm : BitVec 16) : Encodes.Statement (.lbuW d b rx imm) := by
  rintro hw h t ⟨⟩
  refine ⟨?_, by simp (disch := omega) only [field_low, field_high]; rfl, by simp (disch := omega) only [field_low, field_high]; decide⟩
  rw [decodeHT_10 _ _ (by simp (disch := omega) only [field_low, field_high]; rfl)]
  simp (disch := omega) only [decMajor10, dec_lbuW, checked, field_low, field_high, field_all, Nat.reduceSub, BitVec.reduceExtractLsb', BitVec.reduceToNat, BitVec.ofNat_eq_ofNat, BitVec.reduceBEq, reduceIte]
  try rfl

theorem Encodes.ldX1 (d : SReg) (b : SReg) (c : SReg) (rx : BitVec 1) (imm : BitVec 32) : Encodes.Statement (.ldX1 d b c rx imm) := by
  rintro hw h t ⟨⟩
  refine ⟨?_, by simp (disch := omega) only [field_low, field_high]; rfl, by simp (disch := omega) only [field_low, field_high]; decide⟩
  rw [decodeHT_10 _ _ (by simp (disch := omega) only [field_low, field_high]; rfl)]
  simp (disch := omega) only [decMajor10, dec_ldX1, checked, field_low, field_high, field_all, Nat.reduceSub, BitVec.reduceExtractLsb', BitVec.reduceToNat, BitVec.ofNat_eq_ofNat, BitVec.reduceBEq, reduceIte]
  try rfl

theorem Encodes.lwX1 (d : SReg) (b : SReg) (c : SReg) (rx : BitVec 1) (imm : BitVec 32) : Encodes.Statement (.lwX1 d b c rx imm) := by
  rintro hw h t ⟨⟩
  refine ⟨?_, by simp (disch := omega) only [field_low, field_high]; rfl, by simp (disch := omega) only [field_low, field_high]; decide⟩
  rw [decodeHT_10 _ _ (by simp (disch := omega) only [field_low, field_high]; rfl)]
  simp (disch := omega) only [decMajor10, dec_lwX1, checked, field_low, field_high, field_all, Nat.reduceSub, BitVec.reduceExtractLsb', BitVec.reduceToNat, BitVec.ofNat_eq_ofNat, BitVec.reduceBEq, reduceIte]
  try rfl

theorem Encodes.lwuX1 (d : SReg) (b : SReg) (c : SReg) (rx : BitVec 1) (imm : BitVec 32) : Encodes.Statement (.lwuX1 d b c rx imm) := by
  rintro hw h t ⟨⟩
  refine ⟨?_, by simp (disch := omega) only [field_low, field_high]; rfl, by simp (disch := omega) only [field_low, field_high]; decide⟩
  rw [decodeHT_10 _ _ (by simp (disch := omega) only [field_low, field_high]; rfl)]
  simp (disch := omega) only [decMajor10, dec_lwuX1, checked, field_low, field_high, field_all, Nat.reduceSub, BitVec.reduceExtractLsb', BitVec.reduceToNat, BitVec.ofNat_eq_ofNat, BitVec.reduceBEq, reduceIte]
  try rfl

theorem Encodes.lhX1 (d : SReg) (b : SReg) (c : SReg) (rx : BitVec 1) (imm : BitVec 32) : Encodes.Statement (.lhX1 d b c rx imm) := by
  rintro hw h t ⟨⟩
  refine ⟨?_, by simp (disch := omega) only [field_low, field_high]; rfl, by simp (disch := omega) only [field_low, field_high]; decide⟩
  rw [decodeHT_10 _ _ (by simp (disch := omega) only [field_low, field_high]; rfl)]
  simp (disch := omega) only [decMajor10, dec_lhX1, checked, field_low, field_high, field_all, Nat.reduceSub, BitVec.reduceExtractLsb', BitVec.reduceToNat, BitVec.ofNat_eq_ofNat, BitVec.reduceBEq, reduceIte]
  try rfl

theorem Encodes.lhuX1 (d : SReg) (b : SReg) (c : SReg) (rx : BitVec 1) (imm : BitVec 32) : Encodes.Statement (.lhuX1 d b c rx imm) := by
  rintro hw h t ⟨⟩
  refine ⟨?_, by simp (disch := omega) only [field_low, field_high]; rfl, by simp (disch := omega) only [field_low, field_high]; decide⟩
  rw [decodeHT_10 _ _ (by simp (disch := omega) only [field_low, field_high]; rfl)]
  simp (disch := omega) only [decMajor10, dec_lhuX1, checked, field_low, field_high, field_all, Nat.reduceSub, BitVec.reduceExtractLsb', BitVec.reduceToNat, BitVec.ofNat_eq_ofNat, BitVec.reduceBEq, reduceIte]
  try rfl

theorem Encodes.lbX1 (d : SReg) (b : SReg) (c : SReg) (rx : BitVec 1) (imm : BitVec 32) : Encodes.Statement (.lbX1 d b c rx imm) := by
  rintro hw h t ⟨⟩
  refine ⟨?_, by simp (disch := omega) only [field_low, field_high]; rfl, by simp (disch := omega) only [field_low, field_high]; decide⟩
  rw [decodeHT_10 _ _ (by simp (disch := omega) only [field_low, field_high]; rfl)]
  simp (disch := omega) only [decMajor10, dec_lbX1, checked, field_low, field_high, field_all, Nat.reduceSub, BitVec.reduceExtractLsb', BitVec.reduceToNat, BitVec.ofNat_eq_ofNat, BitVec.reduceBEq, reduceIte]
  try rfl

theorem Encodes.lbuX1 (d : SReg) (b : SReg) (c : SReg) (rx : BitVec 1) (imm : BitVec 32) : Encodes.Statement (.lbuX1 d b c rx imm) := by
  rintro hw h t ⟨⟩
  refine ⟨?_, by simp (disch := omega) only [field_low, field_high]; rfl, by simp (disch := omega) only [field_low, field_high]; decide⟩
  rw [decodeHT_10 _ _ (by simp (disch := omega) only [field_low, field_high]; rfl)]
  simp (disch := omega) only [decMajor10, dec_lbuX1, checked, field_low, field_high, field_all, Nat.reduceSub, BitVec.reduceExtractLsb', BitVec.reduceToNat, BitVec.ofNat_eq_ofNat, BitVec.reduceBEq, reduceIte]
  try rfl

theorem Encodes.st (a : SReg) (b : SReg) (imm : BitVec 11) : Encodes.Statement (.st a b imm) := by
  rintro hw h t ⟨⟩
  refine ⟨?_, by simp (disch := omega) only [field_low, field_high]; rfl, by simp (disch := omega) only [field_low, field_high]; decide⟩
  rw [decodeHT_11 _ _ (by simp (disch := omega) only [field_low, field_high]; rfl)]
  simp (disch := omega) only [decMajor11, dec_st, checked, field_low, field_high, field_all, Nat.reduceSub, BitVec.reduceExtractLsb', BitVec.reduceToNat, BitVec.ofNat_eq_ofNat, BitVec.reduceBEq, reduceIte]
  try rfl

theorem Encodes.sw (a : SReg) (b : SReg) (imm : BitVec 11) : Encodes.Statement (.sw a b imm) := by
  rintro hw h t ⟨⟩
  refine ⟨?_, by simp (disch := omega) only [field_low, field_high]; rfl, by simp (disch := omega) only [field_low, field_high]; decide⟩
  rw [decodeHT_11 _ _ (by simp (disch := omega) only [field_low, field_high]; rfl)]
  simp (disch := omega) only [decMajor11, dec_sw, checked, field_low, field_high, field_all, Nat.reduceSub, BitVec.reduceExtractLsb', BitVec.reduceToNat, BitVec.ofNat_eq_ofNat, BitVec.reduceBEq, reduceIte]
  try rfl

theorem Encodes.sh (a : SReg) (b : SReg) (imm : BitVec 11) : Encodes.Statement (.sh a b imm) := by
  rintro hw h t ⟨⟩
  refine ⟨?_, by simp (disch := omega) only [field_low, field_high]; rfl, by simp (disch := omega) only [field_low, field_high]; decide⟩
  rw [decodeHT_11 _ _ (by simp (disch := omega) only [field_low, field_high]; rfl)]
  simp (disch := omega) only [decMajor11, dec_sh, checked, field_low, field_high, field_all, Nat.reduceSub, BitVec.reduceExtractLsb', BitVec.reduceToNat, BitVec.ofNat_eq_ofNat, BitVec.reduceBEq, reduceIte]
  try rfl

theorem Encodes.sb (a : SReg) (b : SReg) (imm : BitVec 11) : Encodes.Statement (.sb a b imm) := by
  rintro hw h t ⟨⟩
  refine ⟨?_, by simp (disch := omega) only [field_low, field_high]; rfl, by simp (disch := omega) only [field_low, field_high]; decide⟩
  rw [decodeHT_11 _ _ (by simp (disch := omega) only [field_low, field_high]; rfl)]
  simp (disch := omega) only [decMajor11, dec_sb, checked, field_low, field_high, field_all, Nat.reduceSub, BitVec.reduceExtractLsb', BitVec.reduceToNat, BitVec.ofNat_eq_ofNat, BitVec.reduceBEq, reduceIte]
  try rfl

theorem Encodes.stW (a : SReg) (b : SReg) (rx : BitVec 1) (imm : BitVec 16) : Encodes.Statement (.stW a b rx imm) := by
  rintro hw h t ⟨⟩
  refine ⟨?_, by simp (disch := omega) only [field_low, field_high]; rfl, by simp (disch := omega) only [field_low, field_high]; decide⟩
  rw [decodeHT_11 _ _ (by simp (disch := omega) only [field_low, field_high]; rfl)]
  simp (disch := omega) only [decMajor11, dec_stW, checked, field_low, field_high, field_all, Nat.reduceSub, BitVec.reduceExtractLsb', BitVec.reduceToNat, BitVec.ofNat_eq_ofNat, BitVec.reduceBEq, reduceIte]
  try rfl

theorem Encodes.swW (a : SReg) (b : SReg) (rx : BitVec 1) (imm : BitVec 16) : Encodes.Statement (.swW a b rx imm) := by
  rintro hw h t ⟨⟩
  refine ⟨?_, by simp (disch := omega) only [field_low, field_high]; rfl, by simp (disch := omega) only [field_low, field_high]; decide⟩
  rw [decodeHT_11 _ _ (by simp (disch := omega) only [field_low, field_high]; rfl)]
  simp (disch := omega) only [decMajor11, dec_swW, checked, field_low, field_high, field_all, Nat.reduceSub, BitVec.reduceExtractLsb', BitVec.reduceToNat, BitVec.ofNat_eq_ofNat, BitVec.reduceBEq, reduceIte]
  try rfl

theorem Encodes.shW (a : SReg) (b : SReg) (rx : BitVec 1) (imm : BitVec 16) : Encodes.Statement (.shW a b rx imm) := by
  rintro hw h t ⟨⟩
  refine ⟨?_, by simp (disch := omega) only [field_low, field_high]; rfl, by simp (disch := omega) only [field_low, field_high]; decide⟩
  rw [decodeHT_11 _ _ (by simp (disch := omega) only [field_low, field_high]; rfl)]
  simp (disch := omega) only [decMajor11, dec_shW, checked, field_low, field_high, field_all, Nat.reduceSub, BitVec.reduceExtractLsb', BitVec.reduceToNat, BitVec.ofNat_eq_ofNat, BitVec.reduceBEq, reduceIte]
  try rfl

theorem Encodes.sbW (a : SReg) (b : SReg) (rx : BitVec 1) (imm : BitVec 16) : Encodes.Statement (.sbW a b rx imm) := by
  rintro hw h t ⟨⟩
  refine ⟨?_, by simp (disch := omega) only [field_low, field_high]; rfl, by simp (disch := omega) only [field_low, field_high]; decide⟩
  rw [decodeHT_11 _ _ (by simp (disch := omega) only [field_low, field_high]; rfl)]
  simp (disch := omega) only [decMajor11, dec_sbW, checked, field_low, field_high, field_all, Nat.reduceSub, BitVec.reduceExtractLsb', BitVec.reduceToNat, BitVec.ofNat_eq_ofNat, BitVec.reduceBEq, reduceIte]
  try rfl

theorem Encodes.stX1 (a : SReg) (b : SReg) (c : SReg) (rx : BitVec 1) (imm : BitVec 32) : Encodes.Statement (.stX1 a b c rx imm) := by
  rintro hw h t ⟨⟩
  refine ⟨?_, by simp (disch := omega) only [field_low, field_high]; rfl, by simp (disch := omega) only [field_low, field_high]; decide⟩
  rw [decodeHT_11 _ _ (by simp (disch := omega) only [field_low, field_high]; rfl)]
  simp (disch := omega) only [decMajor11, dec_stX1, checked, field_low, field_high, field_all, Nat.reduceSub, BitVec.reduceExtractLsb', BitVec.reduceToNat, BitVec.ofNat_eq_ofNat, BitVec.reduceBEq, reduceIte]
  try rfl

theorem Encodes.swX1 (a : SReg) (b : SReg) (c : SReg) (rx : BitVec 1) (imm : BitVec 32) : Encodes.Statement (.swX1 a b c rx imm) := by
  rintro hw h t ⟨⟩
  refine ⟨?_, by simp (disch := omega) only [field_low, field_high]; rfl, by simp (disch := omega) only [field_low, field_high]; decide⟩
  rw [decodeHT_11 _ _ (by simp (disch := omega) only [field_low, field_high]; rfl)]
  simp (disch := omega) only [decMajor11, dec_swX1, checked, field_low, field_high, field_all, Nat.reduceSub, BitVec.reduceExtractLsb', BitVec.reduceToNat, BitVec.ofNat_eq_ofNat, BitVec.reduceBEq, reduceIte]
  try rfl

theorem Encodes.shX1 (a : SReg) (b : SReg) (c : SReg) (rx : BitVec 1) (imm : BitVec 32) : Encodes.Statement (.shX1 a b c rx imm) := by
  rintro hw h t ⟨⟩
  refine ⟨?_, by simp (disch := omega) only [field_low, field_high]; rfl, by simp (disch := omega) only [field_low, field_high]; decide⟩
  rw [decodeHT_11 _ _ (by simp (disch := omega) only [field_low, field_high]; rfl)]
  simp (disch := omega) only [decMajor11, dec_shX1, checked, field_low, field_high, field_all, Nat.reduceSub, BitVec.reduceExtractLsb', BitVec.reduceToNat, BitVec.ofNat_eq_ofNat, BitVec.reduceBEq, reduceIte]
  try rfl

theorem Encodes.sbX1 (a : SReg) (b : SReg) (c : SReg) (rx : BitVec 1) (imm : BitVec 32) : Encodes.Statement (.sbX1 a b c rx imm) := by
  rintro hw h t ⟨⟩
  refine ⟨?_, by simp (disch := omega) only [field_low, field_high]; rfl, by simp (disch := omega) only [field_low, field_high]; decide⟩
  rw [decodeHT_11 _ _ (by simp (disch := omega) only [field_low, field_high]; rfl)]
  simp (disch := omega) only [decMajor11, dec_sbX1, checked, field_low, field_high, field_all, Nat.reduceSub, BitVec.reduceExtractLsb', BitVec.reduceToNat, BitVec.ofNat_eq_ofNat, BitVec.reduceBEq, reduceIte]
  try rfl

theorem Encodes.vld (vd : VReg) (b : SReg) (mk : BitVec 4) (ew : BitVec 2) : Encodes.Statement (.vld vd b mk ew) := by
  rintro hw h t ⟨⟩
  have hw : (mkOk mk) = true := hw
  refine ⟨?_, by simp (disch := omega) only [field_low, field_high]; rfl, by simp (disch := omega) only [field_low, field_high]; decide⟩
  rw [decodeHT_12 _ _ (by simp (disch := omega) only [field_low, field_high]; rfl)]
  simp (disch := omega) only [decMajor12, dec_vld, checked, field_low, field_high, field_all, Nat.reduceSub, BitVec.reduceExtractLsb', BitVec.reduceToNat, BitVec.ofNat_eq_ofNat, BitVec.reduceBEq, reduceIte, hw]
  try rfl

theorem Encodes.vst (vd : VReg) (b : SReg) (mk : BitVec 4) (ew : BitVec 2) : Encodes.Statement (.vst vd b mk ew) := by
  rintro hw h t ⟨⟩
  have hw : (mkOk mk) = true := hw
  refine ⟨?_, by simp (disch := omega) only [field_low, field_high]; rfl, by simp (disch := omega) only [field_low, field_high]; decide⟩
  rw [decodeHT_12 _ _ (by simp (disch := omega) only [field_low, field_high]; rfl)]
  simp (disch := omega) only [decMajor12, dec_vst, checked, field_low, field_high, field_all, Nat.reduceSub, BitVec.reduceExtractLsb', BitVec.reduceToNat, BitVec.ofNat_eq_ofNat, BitVec.reduceBEq, reduceIte, hw]
  try rfl

theorem Encodes.vlds (vd : VReg) (b : SReg) (c : SReg) (mk : BitVec 4) (ew : BitVec 2) : Encodes.Statement (.vlds vd b c mk ew) := by
  rintro hw h t ⟨⟩
  have hw : (mkOk mk) = true := hw
  refine ⟨?_, by simp (disch := omega) only [field_low, field_high]; rfl, by simp (disch := omega) only [field_low, field_high]; decide⟩
  rw [decodeHT_12 _ _ (by simp (disch := omega) only [field_low, field_high]; rfl)]
  simp (disch := omega) only [decMajor12, dec_vlds, checked, field_low, field_high, field_all, Nat.reduceSub, BitVec.reduceExtractLsb', BitVec.reduceToNat, BitVec.ofNat_eq_ofNat, BitVec.reduceBEq, reduceIte, hw]
  try rfl

theorem Encodes.vsts (vd : VReg) (b : SReg) (c : SReg) (mk : BitVec 4) (ew : BitVec 2) : Encodes.Statement (.vsts vd b c mk ew) := by
  rintro hw h t ⟨⟩
  have hw : (mkOk mk) = true := hw
  refine ⟨?_, by simp (disch := omega) only [field_low, field_high]; rfl, by simp (disch := omega) only [field_low, field_high]; decide⟩
  rw [decodeHT_12 _ _ (by simp (disch := omega) only [field_low, field_high]; rfl)]
  simp (disch := omega) only [decMajor12, dec_vsts, checked, field_low, field_high, field_all, Nat.reduceSub, BitVec.reduceExtractLsb', BitVec.reduceToNat, BitVec.ofNat_eq_ofNat, BitVec.reduceBEq, reduceIte, hw]
  try rfl

theorem Encodes.vldW (vd : VReg) (b : SReg) (mk : BitVec 4) (rx : BitVec 1) (ew : BitVec 2) (imm : BitVec 14) : Encodes.Statement (.vldW vd b mk rx ew imm) := by
  rintro hw h t ⟨⟩
  have hw : (mkOk mk) = true := hw
  refine ⟨?_, by simp (disch := omega) only [field_low, field_high]; rfl, by simp (disch := omega) only [field_low, field_high]; decide⟩
  rw [decodeHT_12 _ _ (by simp (disch := omega) only [field_low, field_high]; rfl)]
  simp (disch := omega) only [decMajor12, dec_vldW, checked, field_low, field_high, field_all, Nat.reduceSub, BitVec.reduceExtractLsb', BitVec.reduceToNat, BitVec.ofNat_eq_ofNat, BitVec.reduceBEq, reduceIte, hw]
  try rfl

theorem Encodes.vstW (vd : VReg) (b : SReg) (mk : BitVec 4) (rx : BitVec 1) (ew : BitVec 2) (imm : BitVec 14) : Encodes.Statement (.vstW vd b mk rx ew imm) := by
  rintro hw h t ⟨⟩
  have hw : (mkOk mk) = true := hw
  refine ⟨?_, by simp (disch := omega) only [field_low, field_high]; rfl, by simp (disch := omega) only [field_low, field_high]; decide⟩
  rw [decodeHT_12 _ _ (by simp (disch := omega) only [field_low, field_high]; rfl)]
  simp (disch := omega) only [decMajor12, dec_vstW, checked, field_low, field_high, field_all, Nat.reduceSub, BitVec.reduceExtractLsb', BitVec.reduceToNat, BitVec.ofNat_eq_ofNat, BitVec.reduceBEq, reduceIte, hw]
  try rfl

theorem Encodes.vldsW (vd : VReg) (b : SReg) (c : SReg) (mk : BitVec 4) (rx : BitVec 1) (ew : BitVec 2) (imm : BitVec 14) : Encodes.Statement (.vldsW vd b c mk rx ew imm) := by
  rintro hw h t ⟨⟩
  have hw : (mkOk mk) = true := hw
  refine ⟨?_, by simp (disch := omega) only [field_low, field_high]; rfl, by simp (disch := omega) only [field_low, field_high]; decide⟩
  rw [decodeHT_12 _ _ (by simp (disch := omega) only [field_low, field_high]; rfl)]
  simp (disch := omega) only [decMajor12, dec_vldsW, checked, field_low, field_high, field_all, Nat.reduceSub, BitVec.reduceExtractLsb', BitVec.reduceToNat, BitVec.ofNat_eq_ofNat, BitVec.reduceBEq, reduceIte, hw]
  try rfl

theorem Encodes.vstsW (vd : VReg) (b : SReg) (c : SReg) (mk : BitVec 4) (rx : BitVec 1) (ew : BitVec 2) (imm : BitVec 14) : Encodes.Statement (.vstsW vd b c mk rx ew imm) := by
  rintro hw h t ⟨⟩
  have hw : (mkOk mk) = true := hw
  refine ⟨?_, by simp (disch := omega) only [field_low, field_high]; rfl, by simp (disch := omega) only [field_low, field_high]; decide⟩
  rw [decodeHT_12 _ _ (by simp (disch := omega) only [field_low, field_high]; rfl)]
  simp (disch := omega) only [decMajor12, dec_vstsW, checked, field_low, field_high, field_all, Nat.reduceSub, BitVec.reduceExtractLsb', BitVec.reduceToNat, BitVec.ofNat_eq_ofNat, BitVec.reduceBEq, reduceIte, hw]
  try rfl

theorem Encodes.vldX1 (vd : VReg) (b : SReg) (mk : BitVec 4) (rx : BitVec 1) (ew : BitVec 2) (imm : BitVec 30) : Encodes.Statement (.vldX1 vd b mk rx ew imm) := by
  rintro hw h t ⟨⟩
  have hw : (mkOk mk) = true := hw
  refine ⟨?_, by simp (disch := omega) only [field_low, field_high]; rfl, by simp (disch := omega) only [field_low, field_high]; decide⟩
  rw [decodeHT_12 _ _ (by simp (disch := omega) only [field_low, field_high]; rfl)]
  simp (disch := omega) only [decMajor12, dec_vldX1, checked, field_low, field_high, field_all, Nat.reduceSub, BitVec.reduceExtractLsb', BitVec.reduceToNat, BitVec.ofNat_eq_ofNat, BitVec.reduceBEq, reduceIte, hw]
  try rfl

theorem Encodes.vstX1 (vd : VReg) (b : SReg) (mk : BitVec 4) (rx : BitVec 1) (ew : BitVec 2) (imm : BitVec 30) : Encodes.Statement (.vstX1 vd b mk rx ew imm) := by
  rintro hw h t ⟨⟩
  have hw : (mkOk mk) = true := hw
  refine ⟨?_, by simp (disch := omega) only [field_low, field_high]; rfl, by simp (disch := omega) only [field_low, field_high]; decide⟩
  rw [decodeHT_12 _ _ (by simp (disch := omega) only [field_low, field_high]; rfl)]
  simp (disch := omega) only [decMajor12, dec_vstX1, checked, field_low, field_high, field_all, Nat.reduceSub, BitVec.reduceExtractLsb', BitVec.reduceToNat, BitVec.ofNat_eq_ofNat, BitVec.reduceBEq, reduceIte, hw]
  try rfl

theorem Encodes.vldsX1 (vd : VReg) (b : SReg) (c : SReg) (mk : BitVec 4) (rx : BitVec 1) (ew : BitVec 2) (imm : BitVec 30) : Encodes.Statement (.vldsX1 vd b c mk rx ew imm) := by
  rintro hw h t ⟨⟩
  have hw : (mkOk mk) = true := hw
  refine ⟨?_, by simp (disch := omega) only [field_low, field_high]; rfl, by simp (disch := omega) only [field_low, field_high]; decide⟩
  rw [decodeHT_12 _ _ (by simp (disch := omega) only [field_low, field_high]; rfl)]
  simp (disch := omega) only [decMajor12, dec_vldsX1, checked, field_low, field_high, field_all, Nat.reduceSub, BitVec.reduceExtractLsb', BitVec.reduceToNat, BitVec.ofNat_eq_ofNat, BitVec.reduceBEq, reduceIte, hw]
  try rfl

theorem Encodes.vstsX1 (vd : VReg) (b : SReg) (c : SReg) (mk : BitVec 4) (rx : BitVec 1) (ew : BitVec 2) (imm : BitVec 30) : Encodes.Statement (.vstsX1 vd b c mk rx ew imm) := by
  rintro hw h t ⟨⟩
  have hw : (mkOk mk) = true := hw
  refine ⟨?_, by simp (disch := omega) only [field_low, field_high]; rfl, by simp (disch := omega) only [field_low, field_high]; decide⟩
  rw [decodeHT_12 _ _ (by simp (disch := omega) only [field_low, field_high]; rfl)]
  simp (disch := omega) only [decMajor12, dec_vstsX1, checked, field_low, field_high, field_all, Nat.reduceSub, BitVec.reduceExtractLsb', BitVec.reduceToNat, BitVec.ofNat_eq_ofNat, BitVec.reduceBEq, reduceIte, hw]
  try rfl

theorem Encodes.vgath (vd : VReg) (b : SReg) (c : VReg) (mk : BitVec 4) (x64 : BitVec 1) : Encodes.Statement (.vgath vd b c mk x64) := by
  rintro hw h t ⟨⟩
  have hw : (mkOk mk) = true := hw
  refine ⟨?_, by simp (disch := omega) only [field_low, field_high]; rfl, by simp (disch := omega) only [field_low, field_high]; decide⟩
  rw [decodeHT_13 _ _ (by simp (disch := omega) only [field_low, field_high]; rfl)]
  simp (disch := omega) only [decMajor13, dec_vgath, checked, field_low, field_high, field_all, Nat.reduceSub, BitVec.reduceExtractLsb', BitVec.reduceToNat, BitVec.ofNat_eq_ofNat, BitVec.reduceBEq, reduceIte, hw]
  try rfl

theorem Encodes.vscat (vd : VReg) (b : SReg) (c : VReg) (mk : BitVec 4) (x64 : BitVec 1) : Encodes.Statement (.vscat vd b c mk x64) := by
  rintro hw h t ⟨⟩
  have hw : (mkOk mk) = true := hw
  refine ⟨?_, by simp (disch := omega) only [field_low, field_high]; rfl, by simp (disch := omega) only [field_low, field_high]; decide⟩
  rw [decodeHT_13 _ _ (by simp (disch := omega) only [field_low, field_high]; rfl)]
  simp (disch := omega) only [decMajor13, dec_vscat, checked, field_low, field_high, field_all, Nat.reduceSub, BitVec.reduceExtractLsb', BitVec.reduceToNat, BitVec.ofNat_eq_ofNat, BitVec.reduceBEq, reduceIte, hw]
  try rfl

theorem Encodes.vgathW (vd : VReg) (b : SReg) (c : VReg) (mk : BitVec 4) (rx : BitVec 1) (x64 : BitVec 1) (sc : BitVec 2) : Encodes.Statement (.vgathW vd b c mk rx x64 sc) := by
  rintro hw h t ⟨⟩
  have hw : (mkOk mk) = true := hw
  refine ⟨?_, by simp (disch := omega) only [field_low, field_high]; rfl, by simp (disch := omega) only [field_low, field_high]; decide⟩
  rw [decodeHT_13 _ _ (by simp (disch := omega) only [field_low, field_high]; rfl)]
  simp (disch := omega) only [decMajor13, dec_vgathW, checked, field_low, field_high, field_all, Nat.reduceSub, BitVec.reduceExtractLsb', BitVec.reduceToNat, BitVec.ofNat_eq_ofNat, BitVec.reduceBEq, reduceIte, hw]
  try rfl

theorem Encodes.vscatW (vd : VReg) (b : SReg) (c : VReg) (mk : BitVec 4) (rx : BitVec 1) (x64 : BitVec 1) (sc : BitVec 2) : Encodes.Statement (.vscatW vd b c mk rx x64 sc) := by
  rintro hw h t ⟨⟩
  have hw : (mkOk mk) = true := hw
  refine ⟨?_, by simp (disch := omega) only [field_low, field_high]; rfl, by simp (disch := omega) only [field_low, field_high]; decide⟩
  rw [decodeHT_13 _ _ (by simp (disch := omega) only [field_low, field_high]; rfl)]
  simp (disch := omega) only [decMajor13, dec_vscatW, checked, field_low, field_high, field_all, Nat.reduceSub, BitVec.reduceExtractLsb', BitVec.reduceToNat, BitVec.ofNat_eq_ofNat, BitVec.reduceBEq, reduceIte, hw]
  try rfl

theorem Encodes.aadd (d : SReg) (b : SReg) (c : SReg) (w32 : BitVec 1) (rx : BitVec 1) : Encodes.Statement (.aadd d b c w32 rx) := by
  rintro hw h t ⟨⟩
  refine ⟨?_, by simp (disch := omega) only [field_low, field_high]; rfl, by simp (disch := omega) only [field_low, field_high]; decide⟩
  rw [decodeHT_14 _ _ (by simp (disch := omega) only [field_low, field_high]; rfl)]
  simp (disch := omega) only [decMajor14, dec_aadd, checked, field_low, field_high, field_all, Nat.reduceSub, BitVec.reduceExtractLsb', BitVec.reduceToNat, BitVec.ofNat_eq_ofNat, BitVec.reduceBEq, reduceIte]
  try rfl

theorem Encodes.aand (d : SReg) (b : SReg) (c : SReg) (w32 : BitVec 1) (rx : BitVec 1) : Encodes.Statement (.aand d b c w32 rx) := by
  rintro hw h t ⟨⟩
  refine ⟨?_, by simp (disch := omega) only [field_low, field_high]; rfl, by simp (disch := omega) only [field_low, field_high]; decide⟩
  rw [decodeHT_14 _ _ (by simp (disch := omega) only [field_low, field_high]; rfl)]
  simp (disch := omega) only [decMajor14, dec_aand, checked, field_low, field_high, field_all, Nat.reduceSub, BitVec.reduceExtractLsb', BitVec.reduceToNat, BitVec.ofNat_eq_ofNat, BitVec.reduceBEq, reduceIte]
  try rfl

theorem Encodes.aor (d : SReg) (b : SReg) (c : SReg) (w32 : BitVec 1) (rx : BitVec 1) : Encodes.Statement (.aor d b c w32 rx) := by
  rintro hw h t ⟨⟩
  refine ⟨?_, by simp (disch := omega) only [field_low, field_high]; rfl, by simp (disch := omega) only [field_low, field_high]; decide⟩
  rw [decodeHT_14 _ _ (by simp (disch := omega) only [field_low, field_high]; rfl)]
  simp (disch := omega) only [decMajor14, dec_aor, checked, field_low, field_high, field_all, Nat.reduceSub, BitVec.reduceExtractLsb', BitVec.reduceToNat, BitVec.ofNat_eq_ofNat, BitVec.reduceBEq, reduceIte]
  try rfl

theorem Encodes.axor (d : SReg) (b : SReg) (c : SReg) (w32 : BitVec 1) (rx : BitVec 1) : Encodes.Statement (.axor d b c w32 rx) := by
  rintro hw h t ⟨⟩
  refine ⟨?_, by simp (disch := omega) only [field_low, field_high]; rfl, by simp (disch := omega) only [field_low, field_high]; decide⟩
  rw [decodeHT_14 _ _ (by simp (disch := omega) only [field_low, field_high]; rfl)]
  simp (disch := omega) only [decMajor14, dec_axor, checked, field_low, field_high, field_all, Nat.reduceSub, BitVec.reduceExtractLsb', BitVec.reduceToNat, BitVec.ofNat_eq_ofNat, BitVec.reduceBEq, reduceIte]
  try rfl

theorem Encodes.aswp (d : SReg) (b : SReg) (c : SReg) (w32 : BitVec 1) (rx : BitVec 1) : Encodes.Statement (.aswp d b c w32 rx) := by
  rintro hw h t ⟨⟩
  refine ⟨?_, by simp (disch := omega) only [field_low, field_high]; rfl, by simp (disch := omega) only [field_low, field_high]; decide⟩
  rw [decodeHT_14 _ _ (by simp (disch := omega) only [field_low, field_high]; rfl)]
  simp (disch := omega) only [decMajor14, dec_aswp, checked, field_low, field_high, field_all, Nat.reduceSub, BitVec.reduceExtractLsb', BitVec.reduceToNat, BitVec.ofNat_eq_ofNat, BitVec.reduceBEq, reduceIte]
  try rfl

theorem Encodes.acas (d : SReg) (b : SReg) (c : SReg) (w32 : BitVec 1) (rx : BitVec 1) : Encodes.Statement (.acas d b c w32 rx) := by
  rintro hw h t ⟨⟩
  refine ⟨?_, by simp (disch := omega) only [field_low, field_high]; rfl, by simp (disch := omega) only [field_low, field_high]; decide⟩
  rw [decodeHT_14 _ _ (by simp (disch := omega) only [field_low, field_high]; rfl)]
  simp (disch := omega) only [decMajor14, dec_acas, checked, field_low, field_high, field_all, Nat.reduceSub, BitVec.reduceExtractLsb', BitVec.reduceToNat, BitVec.ofNat_eq_ofNat, BitVec.reduceBEq, reduceIte]
  try rfl

theorem Encodes.amin (d : SReg) (b : SReg) (c : SReg) (w32 : BitVec 1) (rx : BitVec 1) : Encodes.Statement (.amin d b c w32 rx) := by
  rintro hw h t ⟨⟩
  refine ⟨?_, by simp (disch := omega) only [field_low, field_high]; rfl, by simp (disch := omega) only [field_low, field_high]; decide⟩
  rw [decodeHT_14 _ _ (by simp (disch := omega) only [field_low, field_high]; rfl)]
  simp (disch := omega) only [decMajor14, dec_amin, checked, field_low, field_high, field_all, Nat.reduceSub, BitVec.reduceExtractLsb', BitVec.reduceToNat, BitVec.ofNat_eq_ofNat, BitVec.reduceBEq, reduceIte]
  try rfl

theorem Encodes.amax (d : SReg) (b : SReg) (c : SReg) (w32 : BitVec 1) (rx : BitVec 1) : Encodes.Statement (.amax d b c w32 rx) := by
  rintro hw h t ⟨⟩
  refine ⟨?_, by simp (disch := omega) only [field_low, field_high]; rfl, by simp (disch := omega) only [field_low, field_high]; decide⟩
  rw [decodeHT_14 _ _ (by simp (disch := omega) only [field_low, field_high]; rfl)]
  simp (disch := omega) only [decMajor14, dec_amax, checked, field_low, field_high, field_all, Nat.reduceSub, BitVec.reduceExtractLsb', BitVec.reduceToNat, BitVec.ofNat_eq_ofNat, BitVec.reduceBEq, reduceIte]
  try rfl

theorem Encodes.aminu (d : SReg) (b : SReg) (c : SReg) (w32 : BitVec 1) (rx : BitVec 1) : Encodes.Statement (.aminu d b c w32 rx) := by
  rintro hw h t ⟨⟩
  refine ⟨?_, by simp (disch := omega) only [field_low, field_high]; rfl, by simp (disch := omega) only [field_low, field_high]; decide⟩
  rw [decodeHT_14 _ _ (by simp (disch := omega) only [field_low, field_high]; rfl)]
  simp (disch := omega) only [decMajor14, dec_aminu, checked, field_low, field_high, field_all, Nat.reduceSub, BitVec.reduceExtractLsb', BitVec.reduceToNat, BitVec.ofNat_eq_ofNat, BitVec.reduceBEq, reduceIte]
  try rfl

theorem Encodes.amaxu (d : SReg) (b : SReg) (c : SReg) (w32 : BitVec 1) (rx : BitVec 1) : Encodes.Statement (.amaxu d b c w32 rx) := by
  rintro hw h t ⟨⟩
  refine ⟨?_, by simp (disch := omega) only [field_low, field_high]; rfl, by simp (disch := omega) only [field_low, field_high]; decide⟩
  rw [decodeHT_14 _ _ (by simp (disch := omega) only [field_low, field_high]; rfl)]
  simp (disch := omega) only [decMajor14, dec_amaxu, checked, field_low, field_high, field_all, Nat.reduceSub, BitVec.reduceExtractLsb', BitVec.reduceToNat, BitVec.ofNat_eq_ofNat, BitVec.reduceBEq, reduceIte]
  try rfl

theorem Encodes.afadd (d : SReg) (b : SReg) (c : SReg) (w32 : BitVec 1) (rx : BitVec 1) : Encodes.Statement (.afadd d b c w32 rx) := by
  rintro hw h t ⟨⟩
  have hw : (!(w32 == 0#1)) = true := hw
  simp only [Bool.and_eq_true, Bool.not_eq_true'] at hw
  refine ⟨?_, by simp (disch := omega) only [field_low, field_high]; rfl, by simp (disch := omega) only [field_low, field_high]; decide⟩
  rw [decodeHT_14 _ _ (by simp (disch := omega) only [field_low, field_high]; rfl)]
  simp (disch := omega) only [decMajor14, dec_afadd, checked, field_low, field_high, field_all, Nat.reduceSub, BitVec.reduceExtractLsb', BitVec.reduceToNat, BitVec.ofNat_eq_ofNat, BitVec.reduceBEq, reduceIte, hw]
  try rfl

theorem Encodes.aaddW (d : SReg) (b : SReg) (c : SReg) (w32 : BitVec 1) (rx : BitVec 1) (imm : BitVec 16) : Encodes.Statement (.aaddW d b c w32 rx imm) := by
  rintro hw h t ⟨⟩
  refine ⟨?_, by simp (disch := omega) only [field_low, field_high]; rfl, by simp (disch := omega) only [field_low, field_high]; decide⟩
  rw [decodeHT_14 _ _ (by simp (disch := omega) only [field_low, field_high]; rfl)]
  simp (disch := omega) only [decMajor14, dec_aaddW, checked, field_low, field_high, field_all, Nat.reduceSub, BitVec.reduceExtractLsb', BitVec.reduceToNat, BitVec.ofNat_eq_ofNat, BitVec.reduceBEq, reduceIte]
  try rfl

theorem Encodes.aandW (d : SReg) (b : SReg) (c : SReg) (w32 : BitVec 1) (rx : BitVec 1) (imm : BitVec 16) : Encodes.Statement (.aandW d b c w32 rx imm) := by
  rintro hw h t ⟨⟩
  refine ⟨?_, by simp (disch := omega) only [field_low, field_high]; rfl, by simp (disch := omega) only [field_low, field_high]; decide⟩
  rw [decodeHT_14 _ _ (by simp (disch := omega) only [field_low, field_high]; rfl)]
  simp (disch := omega) only [decMajor14, dec_aandW, checked, field_low, field_high, field_all, Nat.reduceSub, BitVec.reduceExtractLsb', BitVec.reduceToNat, BitVec.ofNat_eq_ofNat, BitVec.reduceBEq, reduceIte]
  try rfl

theorem Encodes.aorW (d : SReg) (b : SReg) (c : SReg) (w32 : BitVec 1) (rx : BitVec 1) (imm : BitVec 16) : Encodes.Statement (.aorW d b c w32 rx imm) := by
  rintro hw h t ⟨⟩
  refine ⟨?_, by simp (disch := omega) only [field_low, field_high]; rfl, by simp (disch := omega) only [field_low, field_high]; decide⟩
  rw [decodeHT_14 _ _ (by simp (disch := omega) only [field_low, field_high]; rfl)]
  simp (disch := omega) only [decMajor14, dec_aorW, checked, field_low, field_high, field_all, Nat.reduceSub, BitVec.reduceExtractLsb', BitVec.reduceToNat, BitVec.ofNat_eq_ofNat, BitVec.reduceBEq, reduceIte]
  try rfl

theorem Encodes.axorW (d : SReg) (b : SReg) (c : SReg) (w32 : BitVec 1) (rx : BitVec 1) (imm : BitVec 16) : Encodes.Statement (.axorW d b c w32 rx imm) := by
  rintro hw h t ⟨⟩
  refine ⟨?_, by simp (disch := omega) only [field_low, field_high]; rfl, by simp (disch := omega) only [field_low, field_high]; decide⟩
  rw [decodeHT_14 _ _ (by simp (disch := omega) only [field_low, field_high]; rfl)]
  simp (disch := omega) only [decMajor14, dec_axorW, checked, field_low, field_high, field_all, Nat.reduceSub, BitVec.reduceExtractLsb', BitVec.reduceToNat, BitVec.ofNat_eq_ofNat, BitVec.reduceBEq, reduceIte]
  try rfl

theorem Encodes.aswpW (d : SReg) (b : SReg) (c : SReg) (w32 : BitVec 1) (rx : BitVec 1) (imm : BitVec 16) : Encodes.Statement (.aswpW d b c w32 rx imm) := by
  rintro hw h t ⟨⟩
  refine ⟨?_, by simp (disch := omega) only [field_low, field_high]; rfl, by simp (disch := omega) only [field_low, field_high]; decide⟩
  rw [decodeHT_14 _ _ (by simp (disch := omega) only [field_low, field_high]; rfl)]
  simp (disch := omega) only [decMajor14, dec_aswpW, checked, field_low, field_high, field_all, Nat.reduceSub, BitVec.reduceExtractLsb', BitVec.reduceToNat, BitVec.ofNat_eq_ofNat, BitVec.reduceBEq, reduceIte]
  try rfl

theorem Encodes.acasW (d : SReg) (b : SReg) (c : SReg) (w32 : BitVec 1) (rx : BitVec 1) (imm : BitVec 16) : Encodes.Statement (.acasW d b c w32 rx imm) := by
  rintro hw h t ⟨⟩
  refine ⟨?_, by simp (disch := omega) only [field_low, field_high]; rfl, by simp (disch := omega) only [field_low, field_high]; decide⟩
  rw [decodeHT_14 _ _ (by simp (disch := omega) only [field_low, field_high]; rfl)]
  simp (disch := omega) only [decMajor14, dec_acasW, checked, field_low, field_high, field_all, Nat.reduceSub, BitVec.reduceExtractLsb', BitVec.reduceToNat, BitVec.ofNat_eq_ofNat, BitVec.reduceBEq, reduceIte]
  try rfl

theorem Encodes.aminW (d : SReg) (b : SReg) (c : SReg) (w32 : BitVec 1) (rx : BitVec 1) (imm : BitVec 16) : Encodes.Statement (.aminW d b c w32 rx imm) := by
  rintro hw h t ⟨⟩
  refine ⟨?_, by simp (disch := omega) only [field_low, field_high]; rfl, by simp (disch := omega) only [field_low, field_high]; decide⟩
  rw [decodeHT_14 _ _ (by simp (disch := omega) only [field_low, field_high]; rfl)]
  simp (disch := omega) only [decMajor14, dec_aminW, checked, field_low, field_high, field_all, Nat.reduceSub, BitVec.reduceExtractLsb', BitVec.reduceToNat, BitVec.ofNat_eq_ofNat, BitVec.reduceBEq, reduceIte]
  try rfl

theorem Encodes.amaxW (d : SReg) (b : SReg) (c : SReg) (w32 : BitVec 1) (rx : BitVec 1) (imm : BitVec 16) : Encodes.Statement (.amaxW d b c w32 rx imm) := by
  rintro hw h t ⟨⟩
  refine ⟨?_, by simp (disch := omega) only [field_low, field_high]; rfl, by simp (disch := omega) only [field_low, field_high]; decide⟩
  rw [decodeHT_14 _ _ (by simp (disch := omega) only [field_low, field_high]; rfl)]
  simp (disch := omega) only [decMajor14, dec_amaxW, checked, field_low, field_high, field_all, Nat.reduceSub, BitVec.reduceExtractLsb', BitVec.reduceToNat, BitVec.ofNat_eq_ofNat, BitVec.reduceBEq, reduceIte]
  try rfl

theorem Encodes.aminuW (d : SReg) (b : SReg) (c : SReg) (w32 : BitVec 1) (rx : BitVec 1) (imm : BitVec 16) : Encodes.Statement (.aminuW d b c w32 rx imm) := by
  rintro hw h t ⟨⟩
  refine ⟨?_, by simp (disch := omega) only [field_low, field_high]; rfl, by simp (disch := omega) only [field_low, field_high]; decide⟩
  rw [decodeHT_14 _ _ (by simp (disch := omega) only [field_low, field_high]; rfl)]
  simp (disch := omega) only [decMajor14, dec_aminuW, checked, field_low, field_high, field_all, Nat.reduceSub, BitVec.reduceExtractLsb', BitVec.reduceToNat, BitVec.ofNat_eq_ofNat, BitVec.reduceBEq, reduceIte]
  try rfl

theorem Encodes.amaxuW (d : SReg) (b : SReg) (c : SReg) (w32 : BitVec 1) (rx : BitVec 1) (imm : BitVec 16) : Encodes.Statement (.amaxuW d b c w32 rx imm) := by
  rintro hw h t ⟨⟩
  refine ⟨?_, by simp (disch := omega) only [field_low, field_high]; rfl, by simp (disch := omega) only [field_low, field_high]; decide⟩
  rw [decodeHT_14 _ _ (by simp (disch := omega) only [field_low, field_high]; rfl)]
  simp (disch := omega) only [decMajor14, dec_amaxuW, checked, field_low, field_high, field_all, Nat.reduceSub, BitVec.reduceExtractLsb', BitVec.reduceToNat, BitVec.ofNat_eq_ofNat, BitVec.reduceBEq, reduceIte]
  try rfl

theorem Encodes.afaddW (d : SReg) (b : SReg) (c : SReg) (w32 : BitVec 1) (rx : BitVec 1) (imm : BitVec 16) : Encodes.Statement (.afaddW d b c w32 rx imm) := by
  rintro hw h t ⟨⟩
  have hw : (!(w32 == 0#1)) = true := hw
  simp only [Bool.and_eq_true, Bool.not_eq_true'] at hw
  refine ⟨?_, by simp (disch := omega) only [field_low, field_high]; rfl, by simp (disch := omega) only [field_low, field_high]; decide⟩
  rw [decodeHT_14 _ _ (by simp (disch := omega) only [field_low, field_high]; rfl)]
  simp (disch := omega) only [decMajor14, dec_afaddW, checked, field_low, field_high, field_all, Nat.reduceSub, BitVec.reduceExtractLsb', BitVec.reduceToNat, BitVec.ofNat_eq_ofNat, BitVec.reduceBEq, reduceIte, hw]
  try rfl

theorem Encodes.tatsw (t : BitVec 2) : Encodes.Statement (.tatsw t) := by
  rintro hw h t ⟨⟩
  refine ⟨?_, by simp (disch := omega) only [field_low, field_high]; rfl, by simp (disch := omega) only [field_low, field_high]; decide⟩
  rw [decodeHT_15 _ _ (by simp (disch := omega) only [field_low, field_high]; rfl)]
  simp (disch := omega) only [decMajor15, dec_tatsw, checked, field_low, field_high, field_all, Nat.reduceSub, BitVec.reduceExtractLsb', BitVec.reduceToNat, BitVec.ofNat_eq_ofNat, BitVec.reduceBEq, reduceIte]
  try rfl

theorem Encodes.tget (d : SReg) (b : SReg) : Encodes.Statement (.tget d b) := by
  rintro hw h t ⟨⟩
  refine ⟨?_, by simp (disch := omega) only [field_low, field_high]; rfl, by simp (disch := omega) only [field_low, field_high]; decide⟩
  rw [decodeHT_15 _ _ (by simp (disch := omega) only [field_low, field_high]; rfl)]
  simp (disch := omega) only [decMajor15, dec_tget, checked, field_low, field_high, field_all, Nat.reduceSub, BitVec.reduceExtractLsb', BitVec.reduceToNat, BitVec.ofNat_eq_ofNat, BitVec.reduceBEq, reduceIte]
  try rfl

theorem Encodes.tset (b : SReg) (c : SReg) : Encodes.Statement (.tset b c) := by
  rintro hw h t ⟨⟩
  refine ⟨?_, by simp (disch := omega) only [field_low, field_high]; rfl, by simp (disch := omega) only [field_low, field_high]; decide⟩
  rw [decodeHT_15 _ _ (by simp (disch := omega) only [field_low, field_high]; rfl)]
  simp (disch := omega) only [decMajor15, dec_tset, checked, field_low, field_high, field_all, Nat.reduceSub, BitVec.reduceExtractLsb', BitVec.reduceToNat, BitVec.ofNat_eq_ofNat, BitVec.reduceBEq, reduceIte]
  try rfl

theorem Encodes.tsetImm (b : SReg) (t : BitVec 3) : Encodes.Statement (.tsetImm b t) := by
  rintro hw h t ⟨⟩
  refine ⟨?_, by simp (disch := omega) only [field_low, field_high]; rfl, by simp (disch := omega) only [field_low, field_high]; decide⟩
  rw [decodeHT_15 _ _ (by simp (disch := omega) only [field_low, field_high]; rfl)]
  simp (disch := omega) only [decMajor15, dec_tsetImm, checked, field_low, field_high, field_all, Nat.reduceSub, BitVec.reduceExtractLsb', BitVec.reduceToNat, BitVec.ofNat_eq_ofNat, BitVec.reduceBEq, reduceIte]
  try rfl

theorem Encodes.tcas (d : SReg) (b : SReg) (c : SReg) : Encodes.Statement (.tcas d b c) := by
  rintro hw h t ⟨⟩
  refine ⟨?_, by simp (disch := omega) only [field_low, field_high]; rfl, by simp (disch := omega) only [field_low, field_high]; decide⟩
  rw [decodeHT_15 _ _ (by simp (disch := omega) only [field_low, field_high]; rfl)]
  simp (disch := omega) only [decMajor15, dec_tcas, checked, field_low, field_high, field_all, Nat.reduceSub, BitVec.reduceExtractLsb', BitVec.reduceToNat, BitVec.ofNat_eq_ofNat, BitVec.reduceBEq, reduceIte]
  try rfl

theorem Encodes.tatld (t : BitVec 2) (b : SReg) : Encodes.Statement (.tatld t b) := by
  rintro hw h t ⟨⟩
  refine ⟨?_, by simp (disch := omega) only [field_low, field_high]; rfl, by simp (disch := omega) only [field_low, field_high]; decide⟩
  rw [decodeHT_15 _ _ (by simp (disch := omega) only [field_low, field_high]; rfl)]
  simp (disch := omega) only [decMajor15, dec_tatld, checked, field_low, field_high, field_all, Nat.reduceSub, BitVec.reduceExtractLsb', BitVec.reduceToNat, BitVec.ofNat_eq_ofNat, BitVec.reduceBEq, reduceIte]
  try rfl

theorem Encodes.rmset (t : BitVec 2) (k : BitVec 6) : Encodes.Statement (.rmset t k) := by
  rintro hw h t ⟨⟩
  refine ⟨?_, by simp (disch := omega) only [field_low, field_high]; rfl, by simp (disch := omega) only [field_low, field_high]; decide⟩
  rw [decodeHT_15 _ _ (by simp (disch := omega) only [field_low, field_high]; rfl)]
  simp (disch := omega) only [decMajor15, dec_rmset, checked, field_low, field_high, field_all, Nat.reduceSub, BitVec.reduceExtractLsb', BitVec.reduceToNat, BitVec.ofNat_eq_ofNat, BitVec.reduceBEq, reduceIte]
  try rfl

theorem Encodes.fence (sc : BitVec 3) : Encodes.Statement (.fence sc) := by
  rintro hw h t ⟨⟩
  have hw : (!(!scopeFence sc)) = true := hw
  simp only [Bool.and_eq_true, Bool.not_eq_true'] at hw
  refine ⟨?_, by simp (disch := omega) only [field_low, field_high]; rfl, by simp (disch := omega) only [field_low, field_high]; decide⟩
  rw [decodeHT_16 _ _ (by simp (disch := omega) only [field_low, field_high]; rfl)]
  simp (disch := omega) only [decMajor16, dec_fence, checked, field_low, field_high, field_all, Nat.reduceSub, BitVec.reduceExtractLsb', BitVec.reduceToNat, BitVec.ofNat_eq_ofNat, BitVec.reduceBEq, reduceIte, hw]
  try rfl

theorem Encodes.bar (sc : BitVec 3) : Encodes.Statement (.bar sc) := by
  rintro hw h t ⟨⟩
  have hw : (!(!scopeBar sc)) = true := hw
  simp only [Bool.and_eq_true, Bool.not_eq_true'] at hw
  refine ⟨?_, by simp (disch := omega) only [field_low, field_high]; rfl, by simp (disch := omega) only [field_low, field_high]; decide⟩
  rw [decodeHT_16 _ _ (by simp (disch := omega) only [field_low, field_high]; rfl)]
  simp (disch := omega) only [decMajor16, dec_bar, checked, field_low, field_high, field_all, Nat.reduceSub, BitVec.reduceExtractLsb', BitVec.reduceToNat, BitVec.ofNat_eq_ofNat, BitVec.reduceBEq, reduceIte, hw]
  try rfl

theorem Encodes.bara (sc : BitVec 3) : Encodes.Statement (.bara sc) := by
  rintro hw h t ⟨⟩
  have hw : (!(!scopeBar sc)) = true := hw
  simp only [Bool.and_eq_true, Bool.not_eq_true'] at hw
  refine ⟨?_, by simp (disch := omega) only [field_low, field_high]; rfl, by simp (disch := omega) only [field_low, field_high]; decide⟩
  rw [decodeHT_16 _ _ (by simp (disch := omega) only [field_low, field_high]; rfl)]
  simp (disch := omega) only [decMajor16, dec_bara, checked, field_low, field_high, field_all, Nat.reduceSub, BitVec.reduceExtractLsb', BitVec.reduceToNat, BitVec.ofNat_eq_ofNat, BitVec.reduceBEq, reduceIte, hw]
  try rfl

theorem Encodes.barw (sc : BitVec 3) : Encodes.Statement (.barw sc) := by
  rintro hw h t ⟨⟩
  have hw : (!(!scopeBar sc)) = true := hw
  simp only [Bool.and_eq_true, Bool.not_eq_true'] at hw
  refine ⟨?_, by simp (disch := omega) only [field_low, field_high]; rfl, by simp (disch := omega) only [field_low, field_high]; decide⟩
  rw [decodeHT_16 _ _ (by simp (disch := omega) only [field_low, field_high]; rfl)]
  simp (disch := omega) only [decMajor16, dec_barw, checked, field_low, field_high, field_all, Nat.reduceSub, BitVec.reduceExtractLsb', BitVec.reduceToNat, BitVec.ofNat_eq_ofNat, BitVec.reduceBEq, reduceIte, hw]
  try rfl

theorem Encodes.xfence (p : BitVec 3) (q : BitVec 3) : Encodes.Statement (.xfence p q) := by
  rintro hw h t ⟨⟩
  have hw : (!(decide (6 ≤ p.toNat) || decide (6 ≤ q.toNat))) = true := hw
  simp only [Bool.and_eq_true, Bool.not_eq_true'] at hw
  refine ⟨?_, by simp (disch := omega) only [field_low, field_high]; rfl, by simp (disch := omega) only [field_low, field_high]; decide⟩
  rw [decodeHT_16 _ _ (by simp (disch := omega) only [field_low, field_high]; rfl)]
  simp (disch := omega) only [decMajor16, dec_xfence, checked, field_low, field_high, field_all, Nat.reduceSub, BitVec.reduceExtractLsb', BitVec.reduceToNat, BitVec.ofNat_eq_ofNat, BitVec.reduceBEq, reduceIte, hw]
  try rfl

theorem Encodes.sbinit (b : SReg) (c : SReg) : Encodes.Statement (.sbinit b c) := by
  rintro hw h t ⟨⟩
  refine ⟨?_, by simp (disch := omega) only [field_low, field_high]; rfl, by simp (disch := omega) only [field_low, field_high]; decide⟩
  rw [decodeHT_17 _ _ (by simp (disch := omega) only [field_low, field_high]; rfl)]
  simp (disch := omega) only [decMajor17, dec_sbinit, checked, field_low, field_high, field_all, Nat.reduceSub, BitVec.reduceExtractLsb', BitVec.reduceToNat, BitVec.ofNat_eq_ofNat, BitVec.reduceBEq, reduceIte]
  try rfl

theorem Encodes.sbarv (d : SReg) (b : SReg) (sc : BitVec 3) : Encodes.Statement (.sbarv d b sc) := by
  rintro hw h t ⟨⟩
  have hw : (!(!scopeFence sc)) = true := hw
  simp only [Bool.and_eq_true, Bool.not_eq_true'] at hw
  refine ⟨?_, by simp (disch := omega) only [field_low, field_high]; rfl, by simp (disch := omega) only [field_low, field_high]; decide⟩
  rw [decodeHT_17 _ _ (by simp (disch := omega) only [field_low, field_high]; rfl)]
  simp (disch := omega) only [decMajor17, dec_sbarv, checked, field_low, field_high, field_all, Nat.reduceSub, BitVec.reduceExtractLsb', BitVec.reduceToNat, BitVec.ofNat_eq_ofNat, BitVec.reduceBEq, reduceIte, hw]
  try rfl

theorem Encodes.sbwait (d : SReg) (b : SReg) (c : SReg) : Encodes.Statement (.sbwait d b c) := by
  rintro hw h t ⟨⟩
  refine ⟨?_, by simp (disch := omega) only [field_low, field_high]; rfl, by simp (disch := omega) only [field_low, field_high]; decide⟩
  rw [decodeHT_17 _ _ (by simp (disch := omega) only [field_low, field_high]; rfl)]
  simp (disch := omega) only [decMajor17, dec_sbwait, checked, field_low, field_high, field_all, Nat.reduceSub, BitVec.reduceExtractLsb', BitVec.reduceToNat, BitVec.ofNat_eq_ofNat, BitVec.reduceBEq, reduceIte]
  try rfl

theorem Encodes.sbtest (d : SReg) (b : SReg) (c : SReg) : Encodes.Statement (.sbtest d b c) := by
  rintro hw h t ⟨⟩
  refine ⟨?_, by simp (disch := omega) only [field_low, field_high]; rfl, by simp (disch := omega) only [field_low, field_high]; decide⟩
  rw [decodeHT_17 _ _ (by simp (disch := omega) only [field_low, field_high]; rfl)]
  simp (disch := omega) only [decMajor17, dec_sbtest, checked, field_low, field_high, field_all, Nat.reduceSub, BitVec.reduceExtractLsb', BitVec.reduceToNat, BitVec.ofNat_eq_ofNat, BitVec.reduceBEq, reduceIte]
  try rfl

theorem Encodes.waitTag (b : SReg) (t : BitVec 3) : Encodes.Statement (.waitTag b t) := by
  rintro hw h t ⟨⟩
  refine ⟨?_, by simp (disch := omega) only [field_low, field_high]; rfl, by simp (disch := omega) only [field_low, field_high]; decide⟩
  rw [decodeHT_17 _ _ (by simp (disch := omega) only [field_low, field_high]; rfl)]
  simp (disch := omega) only [decMajor17, dec_waitTag, checked, field_low, field_high, field_all, Nat.reduceSub, BitVec.reduceExtractLsb', BitVec.reduceToNat, BitVec.ofNat_eq_ofNat, BitVec.reduceBEq, reduceIte]
  try rfl

theorem Encodes.dqlen (d : SReg) : Encodes.Statement (.dqlen d) := by
  rintro hw h t ⟨⟩
  refine ⟨?_, by simp (disch := omega) only [field_low, field_high]; rfl, by simp (disch := omega) only [field_low, field_high]; decide⟩
  rw [decodeHT_18 _ _ (by simp (disch := omega) only [field_low, field_high]; rfl)]
  simp (disch := omega) only [decMajor18, dec_dqlen, checked, field_low, field_high, field_all, Nat.reduceSub, BitVec.reduceExtractLsb', BitVec.reduceToNat, BitVec.ofNat_eq_ofNat, BitVec.reduceBEq, reduceIte]
  try rfl

theorem Encodes.joinWord (b : SReg) : Encodes.Statement (.joinWord b) := by
  rintro hw h t ⟨⟩
  refine ⟨?_, by simp (disch := omega) only [field_low, field_high]; rfl, by simp (disch := omega) only [field_low, field_high]; decide⟩
  rw [decodeHT_18 _ _ (by simp (disch := omega) only [field_low, field_high]; rfl)]
  simp (disch := omega) only [decMajor18, dec_joinWord, checked, field_low, field_high, field_all, Nat.reduceSub, BitVec.reduceExtractLsb', BitVec.reduceToNat, BitVec.ofNat_eq_ofNat, BitVec.reduceBEq, reduceIte]
  try rfl

theorem Encodes.steal (d : SReg) (b : SReg) (t : BitVec 3) : Encodes.Statement (.steal d b t) := by
  rintro hw h t ⟨⟩
  refine ⟨?_, by simp (disch := omega) only [field_low, field_high]; rfl, by simp (disch := omega) only [field_low, field_high]; decide⟩
  rw [decodeHT_18 _ _ (by simp (disch := omega) only [field_low, field_high]; rfl)]
  simp (disch := omega) only [decMajor18, dec_steal, checked, field_low, field_high, field_all, Nat.reduceSub, BitVec.reduceExtractLsb', BitVec.reduceToNat, BitVec.ofNat_eq_ofNat, BitVec.reduceBEq, reduceIte]
  try rfl

theorem Encodes.pcon (b : SReg) (fl : BitVec 4) : Encodes.Statement (.pcon b fl) := by
  rintro hw h t ⟨⟩
  refine ⟨?_, by simp (disch := omega) only [field_low, field_high]; rfl, by simp (disch := omega) only [field_low, field_high]; decide⟩
  rw [decodeHT_18 _ _ (by simp (disch := omega) only [field_low, field_high]; rfl)]
  simp (disch := omega) only [decMajor18, dec_pcon, checked, field_low, field_high, field_all, Nat.reduceSub, BitVec.reduceExtractLsb', BitVec.reduceToNat, BitVec.ofNat_eq_ofNat, BitVec.reduceBEq, reduceIte]
  try rfl

theorem Encodes.flushi (b : SReg) (c : SReg) (sc : BitVec 3) : Encodes.Statement (.flushi b c sc) := by
  rintro hw h t ⟨⟩
  have hw : (!(!scopeFlush sc)) = true := hw
  simp only [Bool.and_eq_true, Bool.not_eq_true'] at hw
  refine ⟨?_, by simp (disch := omega) only [field_low, field_high]; rfl, by simp (disch := omega) only [field_low, field_high]; decide⟩
  rw [decodeHT_18 _ _ (by simp (disch := omega) only [field_low, field_high]; rfl)]
  simp (disch := omega) only [decMajor18, dec_flushi, checked, field_low, field_high, field_all, Nat.reduceSub, BitVec.reduceExtractLsb', BitVec.reduceToNat, BitVec.ofNat_eq_ofNat, BitVec.reduceBEq, reduceIte, hw]
  try rfl

theorem Encodes.spawn (b : SReg) (off : BitVec 27) : Encodes.Statement (.spawn b off) := by
  rintro hw h t ⟨⟩
  refine ⟨?_, by simp (disch := omega) only [field_low, field_high]; rfl, by simp (disch := omega) only [field_low, field_high]; decide⟩
  rw [decodeHT_18 _ _ (by simp (disch := omega) only [field_low, field_high]; rfl)]
  simp (disch := omega) only [decMajor18, dec_spawn, checked, field_low, field_high, field_all, Nat.reduceSub, BitVec.reduceExtractLsb', BitVec.reduceToNat, BitVec.ofNat_eq_ofNat, BitVec.reduceBEq, reduceIte]
  try rfl

theorem Encodes.vadd (d : VReg) (b : VReg) (c : VReg) (mk : BitVec 4) (t : BitVec 2) : Encodes.Statement (.vadd d b c mk t) := by
  rintro hw h t ⟨⟩
  have hw : (mkOk mk) = true := hw
  refine ⟨?_, by simp (disch := omega) only [field_low, field_high]; rfl, by simp (disch := omega) only [field_low, field_high]; decide⟩
  rw [decodeHT_20 _ _ (by simp (disch := omega) only [field_low, field_high]; rfl)]
  simp (disch := omega) only [decMajor20, dec_vadd, checked, field_low, field_high, field_all, Nat.reduceSub, BitVec.reduceExtractLsb', BitVec.reduceToNat, BitVec.ofNat_eq_ofNat, BitVec.reduceBEq, reduceIte, hw]
  try rfl

theorem Encodes.vsub (d : VReg) (b : VReg) (c : VReg) (mk : BitVec 4) (t : BitVec 2) : Encodes.Statement (.vsub d b c mk t) := by
  rintro hw h t ⟨⟩
  have hw : (mkOk mk) = true := hw
  refine ⟨?_, by simp (disch := omega) only [field_low, field_high]; rfl, by simp (disch := omega) only [field_low, field_high]; decide⟩
  rw [decodeHT_20 _ _ (by simp (disch := omega) only [field_low, field_high]; rfl)]
  simp (disch := omega) only [decMajor20, dec_vsub, checked, field_low, field_high, field_all, Nat.reduceSub, BitVec.reduceExtractLsb', BitVec.reduceToNat, BitVec.ofNat_eq_ofNat, BitVec.reduceBEq, reduceIte, hw]
  try rfl

theorem Encodes.vmul (d : VReg) (b : VReg) (c : VReg) (mk : BitVec 4) (t : BitVec 2) : Encodes.Statement (.vmul d b c mk t) := by
  rintro hw h t ⟨⟩
  have hw : (mkOk mk) = true := hw
  refine ⟨?_, by simp (disch := omega) only [field_low, field_high]; rfl, by simp (disch := omega) only [field_low, field_high]; decide⟩
  rw [decodeHT_20 _ _ (by simp (disch := omega) only [field_low, field_high]; rfl)]
  simp (disch := omega) only [decMajor20, dec_vmul, checked, field_low, field_high, field_all, Nat.reduceSub, BitVec.reduceExtractLsb', BitVec.reduceToNat, BitVec.ofNat_eq_ofNat, BitVec.reduceBEq, reduceIte, hw]
  try rfl

theorem Encodes.vmulh (d : VReg) (b : VReg) (c : VReg) (mk : BitVec 4) (t : BitVec 2) : Encodes.Statement (.vmulh d b c mk t) := by
  rintro hw h t ⟨⟩
  have hw : (mkOk mk) = true := hw
  refine ⟨?_, by simp (disch := omega) only [field_low, field_high]; rfl, by simp (disch := omega) only [field_low, field_high]; decide⟩
  rw [decodeHT_20 _ _ (by simp (disch := omega) only [field_low, field_high]; rfl)]
  simp (disch := omega) only [decMajor20, dec_vmulh, checked, field_low, field_high, field_all, Nat.reduceSub, BitVec.reduceExtractLsb', BitVec.reduceToNat, BitVec.ofNat_eq_ofNat, BitVec.reduceBEq, reduceIte, hw]
  try rfl

theorem Encodes.vmin (d : VReg) (b : VReg) (c : VReg) (mk : BitVec 4) (t : BitVec 2) : Encodes.Statement (.vmin d b c mk t) := by
  rintro hw h t ⟨⟩
  have hw : (mkOk mk) = true := hw
  refine ⟨?_, by simp (disch := omega) only [field_low, field_high]; rfl, by simp (disch := omega) only [field_low, field_high]; decide⟩
  rw [decodeHT_20 _ _ (by simp (disch := omega) only [field_low, field_high]; rfl)]
  simp (disch := omega) only [decMajor20, dec_vmin, checked, field_low, field_high, field_all, Nat.reduceSub, BitVec.reduceExtractLsb', BitVec.reduceToNat, BitVec.ofNat_eq_ofNat, BitVec.reduceBEq, reduceIte, hw]
  try rfl

theorem Encodes.vmax (d : VReg) (b : VReg) (c : VReg) (mk : BitVec 4) (t : BitVec 2) : Encodes.Statement (.vmax d b c mk t) := by
  rintro hw h t ⟨⟩
  have hw : (mkOk mk) = true := hw
  refine ⟨?_, by simp (disch := omega) only [field_low, field_high]; rfl, by simp (disch := omega) only [field_low, field_high]; decide⟩
  rw [decodeHT_20 _ _ (by simp (disch := omega) only [field_low, field_high]; rfl)]
  simp (disch := omega) only [decMajor20, dec_vmax, checked, field_low, field_high, field_all, Nat.reduceSub, BitVec.reduceExtractLsb', BitVec.reduceToNat, BitVec.ofNat_eq_ofNat, BitVec.reduceBEq, reduceIte, hw]
  try rfl

theorem Encodes.vminu (d : VReg) (b : VReg) (c : VReg) (mk : BitVec 4) (t : BitVec 2) : Encodes.Statement (.vminu d b c mk t) := by
  rintro hw h t ⟨⟩
  have hw : (mkOk mk) = true := hw
  refine ⟨?_, by simp (disch := omega) only [field_low, field_high]; rfl, by simp (disch := omega) only [field_low, field_high]; decide⟩
  rw [decodeHT_20 _ _ (by simp (disch := omega) only [field_low, field_high]; rfl)]
  simp (disch := omega) only [decMajor20, dec_vminu, checked, field_low, field_high, field_all, Nat.reduceSub, BitVec.reduceExtractLsb', BitVec.reduceToNat, BitVec.ofNat_eq_ofNat, BitVec.reduceBEq, reduceIte, hw]
  try rfl

theorem Encodes.vmaxu (d : VReg) (b : VReg) (c : VReg) (mk : BitVec 4) (t : BitVec 2) : Encodes.Statement (.vmaxu d b c mk t) := by
  rintro hw h t ⟨⟩
  have hw : (mkOk mk) = true := hw
  refine ⟨?_, by simp (disch := omega) only [field_low, field_high]; rfl, by simp (disch := omega) only [field_low, field_high]; decide⟩
  rw [decodeHT_20 _ _ (by simp (disch := omega) only [field_low, field_high]; rfl)]
  simp (disch := omega) only [decMajor20, dec_vmaxu, checked, field_low, field_high, field_all, Nat.reduceSub, BitVec.reduceExtractLsb', BitVec.reduceToNat, BitVec.ofNat_eq_ofNat, BitVec.reduceBEq, reduceIte, hw]
  try rfl

theorem Encodes.vaddW (d : VReg) (b : VReg) (c : VReg) (z : BitVec 1) (mk : BitVec 4) (t : BitVec 2) (sat : BitVec 2) : Encodes.Statement (.vaddW d b c z mk t sat) := by
  rintro hw h t ⟨⟩
  have hw : (!(sat == 3#2) && mkOk mk) = true := hw
  simp only [Bool.and_eq_true, Bool.not_eq_true'] at hw
  refine ⟨?_, by simp (disch := omega) only [field_low, field_high]; rfl, by simp (disch := omega) only [field_low, field_high]; decide⟩
  rw [decodeHT_20 _ _ (by simp (disch := omega) only [field_low, field_high]; rfl)]
  simp (disch := omega) only [decMajor20, dec_vaddW, checked, field_low, field_high, field_all, Nat.reduceSub, BitVec.reduceExtractLsb', BitVec.reduceToNat, BitVec.ofNat_eq_ofNat, BitVec.reduceBEq, reduceIte, hw]
  try rfl

theorem Encodes.vsubW (d : VReg) (b : VReg) (c : VReg) (z : BitVec 1) (mk : BitVec 4) (t : BitVec 2) (sat : BitVec 2) : Encodes.Statement (.vsubW d b c z mk t sat) := by
  rintro hw h t ⟨⟩
  have hw : (!(sat == 3#2) && mkOk mk) = true := hw
  simp only [Bool.and_eq_true, Bool.not_eq_true'] at hw
  refine ⟨?_, by simp (disch := omega) only [field_low, field_high]; rfl, by simp (disch := omega) only [field_low, field_high]; decide⟩
  rw [decodeHT_20 _ _ (by simp (disch := omega) only [field_low, field_high]; rfl)]
  simp (disch := omega) only [decMajor20, dec_vsubW, checked, field_low, field_high, field_all, Nat.reduceSub, BitVec.reduceExtractLsb', BitVec.reduceToNat, BitVec.ofNat_eq_ofNat, BitVec.reduceBEq, reduceIte, hw]
  try rfl

theorem Encodes.vmulW (d : VReg) (b : VReg) (c : VReg) (z : BitVec 1) (mk : BitVec 4) (t : BitVec 2) (sat : BitVec 2) : Encodes.Statement (.vmulW d b c z mk t sat) := by
  rintro hw h t ⟨⟩
  have hw : (!(sat == 3#2) && mkOk mk) = true := hw
  simp only [Bool.and_eq_true, Bool.not_eq_true'] at hw
  refine ⟨?_, by simp (disch := omega) only [field_low, field_high]; rfl, by simp (disch := omega) only [field_low, field_high]; decide⟩
  rw [decodeHT_20 _ _ (by simp (disch := omega) only [field_low, field_high]; rfl)]
  simp (disch := omega) only [decMajor20, dec_vmulW, checked, field_low, field_high, field_all, Nat.reduceSub, BitVec.reduceExtractLsb', BitVec.reduceToNat, BitVec.ofNat_eq_ofNat, BitVec.reduceBEq, reduceIte, hw]
  try rfl

theorem Encodes.vmulhW (d : VReg) (b : VReg) (c : VReg) (z : BitVec 1) (mk : BitVec 4) (t : BitVec 2) : Encodes.Statement (.vmulhW d b c z mk t) := by
  rintro hw h t ⟨⟩
  have hw : (mkOk mk) = true := hw
  refine ⟨?_, by simp (disch := omega) only [field_low, field_high]; rfl, by simp (disch := omega) only [field_low, field_high]; decide⟩
  rw [decodeHT_20 _ _ (by simp (disch := omega) only [field_low, field_high]; rfl)]
  simp (disch := omega) only [decMajor20, dec_vmulhW, checked, field_low, field_high, field_all, Nat.reduceSub, BitVec.reduceExtractLsb', BitVec.reduceToNat, BitVec.ofNat_eq_ofNat, BitVec.reduceBEq, reduceIte, hw]
  try rfl

theorem Encodes.vminW (d : VReg) (b : VReg) (c : VReg) (z : BitVec 1) (mk : BitVec 4) (t : BitVec 2) : Encodes.Statement (.vminW d b c z mk t) := by
  rintro hw h t ⟨⟩
  have hw : (mkOk mk) = true := hw
  refine ⟨?_, by simp (disch := omega) only [field_low, field_high]; rfl, by simp (disch := omega) only [field_low, field_high]; decide⟩
  rw [decodeHT_20 _ _ (by simp (disch := omega) only [field_low, field_high]; rfl)]
  simp (disch := omega) only [decMajor20, dec_vminW, checked, field_low, field_high, field_all, Nat.reduceSub, BitVec.reduceExtractLsb', BitVec.reduceToNat, BitVec.ofNat_eq_ofNat, BitVec.reduceBEq, reduceIte, hw]
  try rfl

theorem Encodes.vmaxW (d : VReg) (b : VReg) (c : VReg) (z : BitVec 1) (mk : BitVec 4) (t : BitVec 2) : Encodes.Statement (.vmaxW d b c z mk t) := by
  rintro hw h t ⟨⟩
  have hw : (mkOk mk) = true := hw
  refine ⟨?_, by simp (disch := omega) only [field_low, field_high]; rfl, by simp (disch := omega) only [field_low, field_high]; decide⟩
  rw [decodeHT_20 _ _ (by simp (disch := omega) only [field_low, field_high]; rfl)]
  simp (disch := omega) only [decMajor20, dec_vmaxW, checked, field_low, field_high, field_all, Nat.reduceSub, BitVec.reduceExtractLsb', BitVec.reduceToNat, BitVec.ofNat_eq_ofNat, BitVec.reduceBEq, reduceIte, hw]
  try rfl

theorem Encodes.vminuW (d : VReg) (b : VReg) (c : VReg) (z : BitVec 1) (mk : BitVec 4) (t : BitVec 2) : Encodes.Statement (.vminuW d b c z mk t) := by
  rintro hw h t ⟨⟩
  have hw : (mkOk mk) = true := hw
  refine ⟨?_, by simp (disch := omega) only [field_low, field_high]; rfl, by simp (disch := omega) only [field_low, field_high]; decide⟩
  rw [decodeHT_20 _ _ (by simp (disch := omega) only [field_low, field_high]; rfl)]
  simp (disch := omega) only [decMajor20, dec_vminuW, checked, field_low, field_high, field_all, Nat.reduceSub, BitVec.reduceExtractLsb', BitVec.reduceToNat, BitVec.ofNat_eq_ofNat, BitVec.reduceBEq, reduceIte, hw]
  try rfl

theorem Encodes.vmaxuW (d : VReg) (b : VReg) (c : VReg) (z : BitVec 1) (mk : BitVec 4) (t : BitVec 2) : Encodes.Statement (.vmaxuW d b c z mk t) := by
  rintro hw h t ⟨⟩
  have hw : (mkOk mk) = true := hw
  refine ⟨?_, by simp (disch := omega) only [field_low, field_high]; rfl, by simp (disch := omega) only [field_low, field_high]; decide⟩
  rw [decodeHT_20 _ _ (by simp (disch := omega) only [field_low, field_high]; rfl)]
  simp (disch := omega) only [decMajor20, dec_vmaxuW, checked, field_low, field_high, field_all, Nat.reduceSub, BitVec.reduceExtractLsb', BitVec.reduceToNat, BitVec.ofNat_eq_ofNat, BitVec.reduceBEq, reduceIte, hw]
  try rfl

theorem Encodes.vand (d : VReg) (b : VReg) (c : VReg) (z : BitVec 1) (mk : BitVec 4) (t : BitVec 2) : Encodes.Statement (.vand d b c z mk t) := by
  rintro hw h t ⟨⟩
  have hw : (mkOk mk) = true := hw
  refine ⟨?_, by simp (disch := omega) only [field_low, field_high]; rfl, by simp (disch := omega) only [field_low, field_high]; decide⟩
  rw [decodeHT_20 _ _ (by simp (disch := omega) only [field_low, field_high]; rfl)]
  simp (disch := omega) only [decMajor20, dec_vand, checked, field_low, field_high, field_all, Nat.reduceSub, BitVec.reduceExtractLsb', BitVec.reduceToNat, BitVec.ofNat_eq_ofNat, BitVec.reduceBEq, reduceIte, hw]
  try rfl

theorem Encodes.vor (d : VReg) (b : VReg) (c : VReg) (z : BitVec 1) (mk : BitVec 4) (t : BitVec 2) : Encodes.Statement (.vor d b c z mk t) := by
  rintro hw h t ⟨⟩
  have hw : (mkOk mk) = true := hw
  refine ⟨?_, by simp (disch := omega) only [field_low, field_high]; rfl, by simp (disch := omega) only [field_low, field_high]; decide⟩
  rw [decodeHT_20 _ _ (by simp (disch := omega) only [field_low, field_high]; rfl)]
  simp (disch := omega) only [decMajor20, dec_vor, checked, field_low, field_high, field_all, Nat.reduceSub, BitVec.reduceExtractLsb', BitVec.reduceToNat, BitVec.ofNat_eq_ofNat, BitVec.reduceBEq, reduceIte, hw]
  try rfl

theorem Encodes.vxor (d : VReg) (b : VReg) (c : VReg) (z : BitVec 1) (mk : BitVec 4) (t : BitVec 2) : Encodes.Statement (.vxor d b c z mk t) := by
  rintro hw h t ⟨⟩
  have hw : (mkOk mk) = true := hw
  refine ⟨?_, by simp (disch := omega) only [field_low, field_high]; rfl, by simp (disch := omega) only [field_low, field_high]; decide⟩
  rw [decodeHT_20 _ _ (by simp (disch := omega) only [field_low, field_high]; rfl)]
  simp (disch := omega) only [decMajor20, dec_vxor, checked, field_low, field_high, field_all, Nat.reduceSub, BitVec.reduceExtractLsb', BitVec.reduceToNat, BitVec.ofNat_eq_ofNat, BitVec.reduceBEq, reduceIte, hw]
  try rfl

theorem Encodes.vsll (d : VReg) (b : VReg) (c : VReg) (z : BitVec 1) (mk : BitVec 4) (t : BitVec 2) : Encodes.Statement (.vsll d b c z mk t) := by
  rintro hw h t ⟨⟩
  have hw : (mkOk mk) = true := hw
  refine ⟨?_, by simp (disch := omega) only [field_low, field_high]; rfl, by simp (disch := omega) only [field_low, field_high]; decide⟩
  rw [decodeHT_20 _ _ (by simp (disch := omega) only [field_low, field_high]; rfl)]
  simp (disch := omega) only [decMajor20, dec_vsll, checked, field_low, field_high, field_all, Nat.reduceSub, BitVec.reduceExtractLsb', BitVec.reduceToNat, BitVec.ofNat_eq_ofNat, BitVec.reduceBEq, reduceIte, hw]
  try rfl

theorem Encodes.vsrl (d : VReg) (b : VReg) (c : VReg) (z : BitVec 1) (mk : BitVec 4) (t : BitVec 2) : Encodes.Statement (.vsrl d b c z mk t) := by
  rintro hw h t ⟨⟩
  have hw : (mkOk mk) = true := hw
  refine ⟨?_, by simp (disch := omega) only [field_low, field_high]; rfl, by simp (disch := omega) only [field_low, field_high]; decide⟩
  rw [decodeHT_20 _ _ (by simp (disch := omega) only [field_low, field_high]; rfl)]
  simp (disch := omega) only [decMajor20, dec_vsrl, checked, field_low, field_high, field_all, Nat.reduceSub, BitVec.reduceExtractLsb', BitVec.reduceToNat, BitVec.ofNat_eq_ofNat, BitVec.reduceBEq, reduceIte, hw]
  try rfl

theorem Encodes.vsra (d : VReg) (b : VReg) (c : VReg) (z : BitVec 1) (mk : BitVec 4) (t : BitVec 2) : Encodes.Statement (.vsra d b c z mk t) := by
  rintro hw h t ⟨⟩
  have hw : (mkOk mk) = true := hw
  refine ⟨?_, by simp (disch := omega) only [field_low, field_high]; rfl, by simp (disch := omega) only [field_low, field_high]; decide⟩
  rw [decodeHT_20 _ _ (by simp (disch := omega) only [field_low, field_high]; rfl)]
  simp (disch := omega) only [decMajor20, dec_vsra, checked, field_low, field_high, field_all, Nat.reduceSub, BitVec.reduceExtractLsb', BitVec.reduceToNat, BitVec.ofNat_eq_ofNat, BitVec.reduceBEq, reduceIte, hw]
  try rfl

theorem Encodes.vmulhu (d : VReg) (b : VReg) (c : VReg) (z : BitVec 1) (mk : BitVec 4) (t : BitVec 2) : Encodes.Statement (.vmulhu d b c z mk t) := by
  rintro hw h t ⟨⟩
  have hw : (mkOk mk) = true := hw
  refine ⟨?_, by simp (disch := omega) only [field_low, field_high]; rfl, by simp (disch := omega) only [field_low, field_high]; decide⟩
  rw [decodeHT_20 _ _ (by simp (disch := omega) only [field_low, field_high]; rfl)]
  simp (disch := omega) only [decMajor20, dec_vmulhu, checked, field_low, field_high, field_all, Nat.reduceSub, BitVec.reduceExtractLsb', BitVec.reduceToNat, BitVec.ofNat_eq_ofNat, BitVec.reduceBEq, reduceIte, hw]
  try rfl

theorem Encodes.vabs (d : VReg) (b : VReg) (mk : BitVec 4) (t : BitVec 2) (sat : BitVec 2) : Encodes.Statement (.vabs d b mk t sat) := by
  rintro hw h t ⟨⟩
  have hw : (!(decide (2 ≤ sat.toNat)) && mkOk mk) = true := hw
  simp only [Bool.and_eq_true, Bool.not_eq_true'] at hw
  refine ⟨?_, by simp (disch := omega) only [field_low, field_high]; rfl, by simp (disch := omega) only [field_low, field_high]; decide⟩
  rw [decodeHT_20 _ _ (by simp (disch := omega) only [field_low, field_high]; rfl)]
  simp (disch := omega) only [decMajor20, dec_vabs, checked, field_low, field_high, field_all, Nat.reduceSub, BitVec.reduceExtractLsb', BitVec.reduceToNat, BitVec.ofNat_eq_ofNat, BitVec.reduceBEq, reduceIte, hw]
  try rfl

theorem Encodes.vfadd (d : VReg) (b : VReg) (c : VReg) (mk : BitVec 4) (t : BitVec 2) : Encodes.Statement (.vfadd d b c mk t) := by
  rintro hw h t ⟨⟩
  have hw : (!(t == 3#2) && mkOk mk) = true := hw
  simp only [Bool.and_eq_true, Bool.not_eq_true'] at hw
  refine ⟨?_, by simp (disch := omega) only [field_low, field_high]; rfl, by simp (disch := omega) only [field_low, field_high]; decide⟩
  rw [decodeHT_21 _ _ (by simp (disch := omega) only [field_low, field_high]; rfl)]
  simp (disch := omega) only [decMajor21, dec_vfadd, checked, field_low, field_high, field_all, Nat.reduceSub, BitVec.reduceExtractLsb', BitVec.reduceToNat, BitVec.ofNat_eq_ofNat, BitVec.reduceBEq, reduceIte, hw]
  try rfl

theorem Encodes.vfsub (d : VReg) (b : VReg) (c : VReg) (mk : BitVec 4) (t : BitVec 2) : Encodes.Statement (.vfsub d b c mk t) := by
  rintro hw h t ⟨⟩
  have hw : (!(t == 3#2) && mkOk mk) = true := hw
  simp only [Bool.and_eq_true, Bool.not_eq_true'] at hw
  refine ⟨?_, by simp (disch := omega) only [field_low, field_high]; rfl, by simp (disch := omega) only [field_low, field_high]; decide⟩
  rw [decodeHT_21 _ _ (by simp (disch := omega) only [field_low, field_high]; rfl)]
  simp (disch := omega) only [decMajor21, dec_vfsub, checked, field_low, field_high, field_all, Nat.reduceSub, BitVec.reduceExtractLsb', BitVec.reduceToNat, BitVec.ofNat_eq_ofNat, BitVec.reduceBEq, reduceIte, hw]
  try rfl

theorem Encodes.vfmul (d : VReg) (b : VReg) (c : VReg) (mk : BitVec 4) (t : BitVec 2) : Encodes.Statement (.vfmul d b c mk t) := by
  rintro hw h t ⟨⟩
  have hw : (!(t == 3#2) && mkOk mk) = true := hw
  simp only [Bool.and_eq_true, Bool.not_eq_true'] at hw
  refine ⟨?_, by simp (disch := omega) only [field_low, field_high]; rfl, by simp (disch := omega) only [field_low, field_high]; decide⟩
  rw [decodeHT_21 _ _ (by simp (disch := omega) only [field_low, field_high]; rfl)]
  simp (disch := omega) only [decMajor21, dec_vfmul, checked, field_low, field_high, field_all, Nat.reduceSub, BitVec.reduceExtractLsb', BitVec.reduceToNat, BitVec.ofNat_eq_ofNat, BitVec.reduceBEq, reduceIte, hw]
  try rfl

theorem Encodes.vfdiv (d : VReg) (b : VReg) (c : VReg) (mk : BitVec 4) (t : BitVec 2) : Encodes.Statement (.vfdiv d b c mk t) := by
  rintro hw h t ⟨⟩
  have hw : (!(t == 3#2) && mkOk mk) = true := hw
  simp only [Bool.and_eq_true, Bool.not_eq_true'] at hw
  refine ⟨?_, by simp (disch := omega) only [field_low, field_high]; rfl, by simp (disch := omega) only [field_low, field_high]; decide⟩
  rw [decodeHT_21 _ _ (by simp (disch := omega) only [field_low, field_high]; rfl)]
  simp (disch := omega) only [decMajor21, dec_vfdiv, checked, field_low, field_high, field_all, Nat.reduceSub, BitVec.reduceExtractLsb', BitVec.reduceToNat, BitVec.ofNat_eq_ofNat, BitVec.reduceBEq, reduceIte, hw]
  try rfl

theorem Encodes.vfmin (d : VReg) (b : VReg) (c : VReg) (mk : BitVec 4) (t : BitVec 2) : Encodes.Statement (.vfmin d b c mk t) := by
  rintro hw h t ⟨⟩
  have hw : (!(t == 3#2) && mkOk mk) = true := hw
  simp only [Bool.and_eq_true, Bool.not_eq_true'] at hw
  refine ⟨?_, by simp (disch := omega) only [field_low, field_high]; rfl, by simp (disch := omega) only [field_low, field_high]; decide⟩
  rw [decodeHT_21 _ _ (by simp (disch := omega) only [field_low, field_high]; rfl)]
  simp (disch := omega) only [decMajor21, dec_vfmin, checked, field_low, field_high, field_all, Nat.reduceSub, BitVec.reduceExtractLsb', BitVec.reduceToNat, BitVec.ofNat_eq_ofNat, BitVec.reduceBEq, reduceIte, hw]
  try rfl

theorem Encodes.vfmax (d : VReg) (b : VReg) (c : VReg) (mk : BitVec 4) (t : BitVec 2) : Encodes.Statement (.vfmax d b c mk t) := by
  rintro hw h t ⟨⟩
  have hw : (!(t == 3#2) && mkOk mk) = true := hw
  simp only [Bool.and_eq_true, Bool.not_eq_true'] at hw
  refine ⟨?_, by simp (disch := omega) only [field_low, field_high]; rfl, by simp (disch := omega) only [field_low, field_high]; decide⟩
  rw [decodeHT_21 _ _ (by simp (disch := omega) only [field_low, field_high]; rfl)]
  simp (disch := omega) only [decMajor21, dec_vfmax, checked, field_low, field_high, field_all, Nat.reduceSub, BitVec.reduceExtractLsb', BitVec.reduceToNat, BitVec.ofNat_eq_ofNat, BitVec.reduceBEq, reduceIte, hw]
  try rfl

theorem Encodes.vfsqrt (d : VReg) (b : VReg) (mk : BitVec 4) (t : BitVec 2) : Encodes.Statement (.vfsqrt d b mk t) := by
  rintro hw h t ⟨⟩
  have hw : (!(t == 3#2) && mkOk mk) = true := hw
  simp only [Bool.and_eq_true, Bool.not_eq_true'] at hw
  refine ⟨?_, by simp (disch := omega) only [field_low, field_high]; rfl, by simp (disch := omega) only [field_low, field_high]; decide⟩
  rw [decodeHT_21 _ _ (by simp (disch := omega) only [field_low, field_high]; rfl)]
  simp (disch := omega) only [decMajor21, dec_vfsqrt, checked, field_low, field_high, field_all, Nat.reduceSub, BitVec.reduceExtractLsb', BitVec.reduceToNat, BitVec.ofNat_eq_ofNat, BitVec.reduceBEq, reduceIte, hw]
  try rfl

theorem Encodes.vfaddW (d : VReg) (b : VReg) (c : VReg) (z : BitVec 1) (mk : BitVec 4) (t : BitVec 2) (rm : BitVec 3) : Encodes.Statement (.vfaddW d b c z mk t rm) := by
  rintro hw h t ⟨⟩
  have hw : (!(t == 3#2 || !rmPlain rm) && mkOk mk) = true := hw
  simp only [Bool.and_eq_true, Bool.not_eq_true'] at hw
  refine ⟨?_, by simp (disch := omega) only [field_low, field_high]; rfl, by simp (disch := omega) only [field_low, field_high]; decide⟩
  rw [decodeHT_21 _ _ (by simp (disch := omega) only [field_low, field_high]; rfl)]
  simp (disch := omega) only [decMajor21, dec_vfaddW, checked, field_low, field_high, field_all, Nat.reduceSub, BitVec.reduceExtractLsb', BitVec.reduceToNat, BitVec.ofNat_eq_ofNat, BitVec.reduceBEq, reduceIte, hw]
  try rfl

theorem Encodes.vfsubW (d : VReg) (b : VReg) (c : VReg) (z : BitVec 1) (mk : BitVec 4) (t : BitVec 2) (rm : BitVec 3) : Encodes.Statement (.vfsubW d b c z mk t rm) := by
  rintro hw h t ⟨⟩
  have hw : (!(t == 3#2 || !rmPlain rm) && mkOk mk) = true := hw
  simp only [Bool.and_eq_true, Bool.not_eq_true'] at hw
  refine ⟨?_, by simp (disch := omega) only [field_low, field_high]; rfl, by simp (disch := omega) only [field_low, field_high]; decide⟩
  rw [decodeHT_21 _ _ (by simp (disch := omega) only [field_low, field_high]; rfl)]
  simp (disch := omega) only [decMajor21, dec_vfsubW, checked, field_low, field_high, field_all, Nat.reduceSub, BitVec.reduceExtractLsb', BitVec.reduceToNat, BitVec.ofNat_eq_ofNat, BitVec.reduceBEq, reduceIte, hw]
  try rfl

theorem Encodes.vfmulW (d : VReg) (b : VReg) (c : VReg) (z : BitVec 1) (mk : BitVec 4) (t : BitVec 2) (rm : BitVec 3) : Encodes.Statement (.vfmulW d b c z mk t rm) := by
  rintro hw h t ⟨⟩
  have hw : (!(t == 3#2 || !rmPlain rm) && mkOk mk) = true := hw
  simp only [Bool.and_eq_true, Bool.not_eq_true'] at hw
  refine ⟨?_, by simp (disch := omega) only [field_low, field_high]; rfl, by simp (disch := omega) only [field_low, field_high]; decide⟩
  rw [decodeHT_21 _ _ (by simp (disch := omega) only [field_low, field_high]; rfl)]
  simp (disch := omega) only [decMajor21, dec_vfmulW, checked, field_low, field_high, field_all, Nat.reduceSub, BitVec.reduceExtractLsb', BitVec.reduceToNat, BitVec.ofNat_eq_ofNat, BitVec.reduceBEq, reduceIte, hw]
  try rfl

theorem Encodes.vfdivW (d : VReg) (b : VReg) (c : VReg) (z : BitVec 1) (mk : BitVec 4) (t : BitVec 2) (rm : BitVec 3) : Encodes.Statement (.vfdivW d b c z mk t rm) := by
  rintro hw h t ⟨⟩
  have hw : (!(t == 3#2 || !rmPlain rm) && mkOk mk) = true := hw
  simp only [Bool.and_eq_true, Bool.not_eq_true'] at hw
  refine ⟨?_, by simp (disch := omega) only [field_low, field_high]; rfl, by simp (disch := omega) only [field_low, field_high]; decide⟩
  rw [decodeHT_21 _ _ (by simp (disch := omega) only [field_low, field_high]; rfl)]
  simp (disch := omega) only [decMajor21, dec_vfdivW, checked, field_low, field_high, field_all, Nat.reduceSub, BitVec.reduceExtractLsb', BitVec.reduceToNat, BitVec.ofNat_eq_ofNat, BitVec.reduceBEq, reduceIte, hw]
  try rfl

theorem Encodes.vfminW (d : VReg) (b : VReg) (c : VReg) (z : BitVec 1) (mk : BitVec 4) (t : BitVec 2) (rm : BitVec 3) : Encodes.Statement (.vfminW d b c z mk t rm) := by
  rintro hw h t ⟨⟩
  have hw : (!(t == 3#2 || !rmPlain rm) && mkOk mk) = true := hw
  simp only [Bool.and_eq_true, Bool.not_eq_true'] at hw
  refine ⟨?_, by simp (disch := omega) only [field_low, field_high]; rfl, by simp (disch := omega) only [field_low, field_high]; decide⟩
  rw [decodeHT_21 _ _ (by simp (disch := omega) only [field_low, field_high]; rfl)]
  simp (disch := omega) only [decMajor21, dec_vfminW, checked, field_low, field_high, field_all, Nat.reduceSub, BitVec.reduceExtractLsb', BitVec.reduceToNat, BitVec.ofNat_eq_ofNat, BitVec.reduceBEq, reduceIte, hw]
  try rfl

theorem Encodes.vfmaxW (d : VReg) (b : VReg) (c : VReg) (z : BitVec 1) (mk : BitVec 4) (t : BitVec 2) (rm : BitVec 3) : Encodes.Statement (.vfmaxW d b c z mk t rm) := by
  rintro hw h t ⟨⟩
  have hw : (!(t == 3#2 || !rmPlain rm) && mkOk mk) = true := hw
  simp only [Bool.and_eq_true, Bool.not_eq_true'] at hw
  refine ⟨?_, by simp (disch := omega) only [field_low, field_high]; rfl, by simp (disch := omega) only [field_low, field_high]; decide⟩
  rw [decodeHT_21 _ _ (by simp (disch := omega) only [field_low, field_high]; rfl)]
  simp (disch := omega) only [decMajor21, dec_vfmaxW, checked, field_low, field_high, field_all, Nat.reduceSub, BitVec.reduceExtractLsb', BitVec.reduceToNat, BitVec.ofNat_eq_ofNat, BitVec.reduceBEq, reduceIte, hw]
  try rfl

theorem Encodes.vfsqrtW (d : VReg) (b : VReg) (mk : BitVec 4) (t : BitVec 2) (rm : BitVec 3) : Encodes.Statement (.vfsqrtW d b mk t rm) := by
  rintro hw h t ⟨⟩
  have hw : (!(t == 3#2 || !rmPlain rm) && mkOk mk) = true := hw
  simp only [Bool.and_eq_true, Bool.not_eq_true'] at hw
  refine ⟨?_, by simp (disch := omega) only [field_low, field_high]; rfl, by simp (disch := omega) only [field_low, field_high]; decide⟩
  rw [decodeHT_21 _ _ (by simp (disch := omega) only [field_low, field_high]; rfl)]
  simp (disch := omega) only [decMajor21, dec_vfsqrtW, checked, field_low, field_high, field_all, Nat.reduceSub, BitVec.reduceExtractLsb', BitVec.reduceToNat, BitVec.ofNat_eq_ofNat, BitVec.reduceBEq, reduceIte, hw]
  try rfl

theorem Encodes.vfneg (d : VReg) (b : VReg) (mk : BitVec 4) (t : BitVec 2) (rm : BitVec 3) : Encodes.Statement (.vfneg d b mk t rm) := by
  rintro hw h t ⟨⟩
  have hw : (!(t == 3#2 || !rmPlain rm) && mkOk mk) = true := hw
  simp only [Bool.and_eq_true, Bool.not_eq_true'] at hw
  refine ⟨?_, by simp (disch := omega) only [field_low, field_high]; rfl, by simp (disch := omega) only [field_low, field_high]; decide⟩
  rw [decodeHT_21 _ _ (by simp (disch := omega) only [field_low, field_high]; rfl)]
  simp (disch := omega) only [decMajor21, dec_vfneg, checked, field_low, field_high, field_all, Nat.reduceSub, BitVec.reduceExtractLsb', BitVec.reduceToNat, BitVec.ofNat_eq_ofNat, BitVec.reduceBEq, reduceIte, hw]
  try rfl

theorem Encodes.vfabs (d : VReg) (b : VReg) (mk : BitVec 4) (t : BitVec 2) (rm : BitVec 3) : Encodes.Statement (.vfabs d b mk t rm) := by
  rintro hw h t ⟨⟩
  have hw : (!(t == 3#2 || !rmPlain rm) && mkOk mk) = true := hw
  simp only [Bool.and_eq_true, Bool.not_eq_true'] at hw
  refine ⟨?_, by simp (disch := omega) only [field_low, field_high]; rfl, by simp (disch := omega) only [field_low, field_high]; decide⟩
  rw [decodeHT_21 _ _ (by simp (disch := omega) only [field_low, field_high]; rfl)]
  simp (disch := omega) only [decMajor21, dec_vfabs, checked, field_low, field_high, field_all, Nat.reduceSub, BitVec.reduceExtractLsb', BitVec.reduceToNat, BitVec.ofNat_eq_ofNat, BitVec.reduceBEq, reduceIte, hw]
  try rfl

theorem Encodes.vfma (d : VReg) (b : VReg) (c : VReg) (mk : BitVec 4) (t : BitVec 2) : Encodes.Statement (.vfma d b c mk t) := by
  rintro hw h t ⟨⟩
  have hw : (!(t == 3#2) && mkOk mk) = true := hw
  simp only [Bool.and_eq_true, Bool.not_eq_true'] at hw
  refine ⟨?_, by simp (disch := omega) only [field_low, field_high]; rfl, by simp (disch := omega) only [field_low, field_high]; decide⟩
  rw [decodeHT_22 _ _ (by simp (disch := omega) only [field_low, field_high]; rfl)]
  simp (disch := omega) only [decMajor22, dec_vfma, checked, field_low, field_high, field_all, Nat.reduceSub, BitVec.reduceExtractLsb', BitVec.reduceToNat, BitVec.ofNat_eq_ofNat, BitVec.reduceBEq, reduceIte, hw]
  try rfl

theorem Encodes.vfms (d : VReg) (b : VReg) (c : VReg) (mk : BitVec 4) (t : BitVec 2) : Encodes.Statement (.vfms d b c mk t) := by
  rintro hw h t ⟨⟩
  have hw : (!(t == 3#2) && mkOk mk) = true := hw
  simp only [Bool.and_eq_true, Bool.not_eq_true'] at hw
  refine ⟨?_, by simp (disch := omega) only [field_low, field_high]; rfl, by simp (disch := omega) only [field_low, field_high]; decide⟩
  rw [decodeHT_22 _ _ (by simp (disch := omega) only [field_low, field_high]; rfl)]
  simp (disch := omega) only [decMajor22, dec_vfms, checked, field_low, field_high, field_all, Nat.reduceSub, BitVec.reduceExtractLsb', BitVec.reduceToNat, BitVec.ofNat_eq_ofNat, BitVec.reduceBEq, reduceIte, hw]
  try rfl

theorem Encodes.vfnma (d : VReg) (b : VReg) (c : VReg) (mk : BitVec 4) (t : BitVec 2) : Encodes.Statement (.vfnma d b c mk t) := by
  rintro hw h t ⟨⟩
  have hw : (!(t == 3#2) && mkOk mk) = true := hw
  simp only [Bool.and_eq_true, Bool.not_eq_true'] at hw
  refine ⟨?_, by simp (disch := omega) only [field_low, field_high]; rfl, by simp (disch := omega) only [field_low, field_high]; decide⟩
  rw [decodeHT_22 _ _ (by simp (disch := omega) only [field_low, field_high]; rfl)]
  simp (disch := omega) only [decMajor22, dec_vfnma, checked, field_low, field_high, field_all, Nat.reduceSub, BitVec.reduceExtractLsb', BitVec.reduceToNat, BitVec.ofNat_eq_ofNat, BitVec.reduceBEq, reduceIte, hw]
  try rfl

theorem Encodes.vfnms (d : VReg) (b : VReg) (c : VReg) (mk : BitVec 4) (t : BitVec 2) : Encodes.Statement (.vfnms d b c mk t) := by
  rintro hw h t ⟨⟩
  have hw : (!(t == 3#2) && mkOk mk) = true := hw
  simp only [Bool.and_eq_true, Bool.not_eq_true'] at hw
  refine ⟨?_, by simp (disch := omega) only [field_low, field_high]; rfl, by simp (disch := omega) only [field_low, field_high]; decide⟩
  rw [decodeHT_22 _ _ (by simp (disch := omega) only [field_low, field_high]; rfl)]
  simp (disch := omega) only [decMajor22, dec_vfnms, checked, field_low, field_high, field_all, Nat.reduceSub, BitVec.reduceExtractLsb', BitVec.reduceToNat, BitVec.ofNat_eq_ofNat, BitVec.reduceBEq, reduceIte, hw]
  try rfl

theorem Encodes.vmac (d : VReg) (b : VReg) (c : VReg) (mk : BitVec 4) (t : BitVec 2) : Encodes.Statement (.vmac d b c mk t) := by
  rintro hw h t ⟨⟩
  have hw : (mkOk mk) = true := hw
  refine ⟨?_, by simp (disch := omega) only [field_low, field_high]; rfl, by simp (disch := omega) only [field_low, field_high]; decide⟩
  rw [decodeHT_22 _ _ (by simp (disch := omega) only [field_low, field_high]; rfl)]
  simp (disch := omega) only [decMajor22, dec_vmac, checked, field_low, field_high, field_all, Nat.reduceSub, BitVec.reduceExtractLsb', BitVec.reduceToNat, BitVec.ofNat_eq_ofNat, BitVec.reduceBEq, reduceIte, hw]
  try rfl

theorem Encodes.vdot (d : VReg) (b : VReg) (c : VReg) (mk : BitVec 4) (t : BitVec 2) : Encodes.Statement (.vdot d b c mk t) := by
  rintro hw h t ⟨⟩
  have hw : (!(!tDot t) && mkOk mk) = true := hw
  simp only [Bool.and_eq_true, Bool.not_eq_true'] at hw
  refine ⟨?_, by simp (disch := omega) only [field_low, field_high]; rfl, by simp (disch := omega) only [field_low, field_high]; decide⟩
  rw [decodeHT_22 _ _ (by simp (disch := omega) only [field_low, field_high]; rfl)]
  simp (disch := omega) only [decMajor22, dec_vdot, checked, field_low, field_high, field_all, Nat.reduceSub, BitVec.reduceExtractLsb', BitVec.reduceToNat, BitVec.ofNat_eq_ofNat, BitVec.reduceBEq, reduceIte, hw]
  try rfl

theorem Encodes.vdotu (d : VReg) (b : VReg) (c : VReg) (mk : BitVec 4) (t : BitVec 2) : Encodes.Statement (.vdotu d b c mk t) := by
  rintro hw h t ⟨⟩
  have hw : (!(!tDot t) && mkOk mk) = true := hw
  simp only [Bool.and_eq_true, Bool.not_eq_true'] at hw
  refine ⟨?_, by simp (disch := omega) only [field_low, field_high]; rfl, by simp (disch := omega) only [field_low, field_high]; decide⟩
  rw [decodeHT_22 _ _ (by simp (disch := omega) only [field_low, field_high]; rfl)]
  simp (disch := omega) only [decMajor22, dec_vdotu, checked, field_low, field_high, field_all, Nat.reduceSub, BitVec.reduceExtractLsb', BitVec.reduceToNat, BitVec.ofNat_eq_ofNat, BitVec.reduceBEq, reduceIte, hw]
  try rfl

theorem Encodes.vfmaW (d : VReg) (b : VReg) (c : VReg) (e : VReg) (z : BitVec 1) (mk : BitVec 4) (t : BitVec 2) (rm : BitVec 3) : Encodes.Statement (.vfmaW d b c e z mk t rm) := by
  rintro hw h t ⟨⟩
  have hw : (!(t == 3#2 || !rmPlain rm) && mkOk mk && !(z == 0#1 && e != 0#5)) = true := hw
  simp only [Bool.and_eq_true, Bool.not_eq_true'] at hw
  refine ⟨?_, by simp (disch := omega) only [field_low, field_high]; rfl, by simp (disch := omega) only [field_low, field_high]; decide⟩
  rw [decodeHT_22 _ _ (by simp (disch := omega) only [field_low, field_high]; rfl)]
  simp (disch := omega) only [decMajor22, dec_vfmaW, checked, field_low, field_high, field_all, Nat.reduceSub, BitVec.reduceExtractLsb', BitVec.reduceToNat, BitVec.ofNat_eq_ofNat, BitVec.reduceBEq, reduceIte, hw]
  try rfl

theorem Encodes.vfmsW (d : VReg) (b : VReg) (c : VReg) (e : VReg) (z : BitVec 1) (mk : BitVec 4) (t : BitVec 2) (rm : BitVec 3) : Encodes.Statement (.vfmsW d b c e z mk t rm) := by
  rintro hw h t ⟨⟩
  have hw : (!(t == 3#2 || !rmPlain rm) && mkOk mk && !(z == 0#1 && e != 0#5)) = true := hw
  simp only [Bool.and_eq_true, Bool.not_eq_true'] at hw
  refine ⟨?_, by simp (disch := omega) only [field_low, field_high]; rfl, by simp (disch := omega) only [field_low, field_high]; decide⟩
  rw [decodeHT_22 _ _ (by simp (disch := omega) only [field_low, field_high]; rfl)]
  simp (disch := omega) only [decMajor22, dec_vfmsW, checked, field_low, field_high, field_all, Nat.reduceSub, BitVec.reduceExtractLsb', BitVec.reduceToNat, BitVec.ofNat_eq_ofNat, BitVec.reduceBEq, reduceIte, hw]
  try rfl

theorem Encodes.vfnmaW (d : VReg) (b : VReg) (c : VReg) (e : VReg) (z : BitVec 1) (mk : BitVec 4) (t : BitVec 2) (rm : BitVec 3) : Encodes.Statement (.vfnmaW d b c e z mk t rm) := by
  rintro hw h t ⟨⟩
  have hw : (!(t == 3#2 || !rmPlain rm) && mkOk mk && !(z == 0#1 && e != 0#5)) = true := hw
  simp only [Bool.and_eq_true, Bool.not_eq_true'] at hw
  refine ⟨?_, by simp (disch := omega) only [field_low, field_high]; rfl, by simp (disch := omega) only [field_low, field_high]; decide⟩
  rw [decodeHT_22 _ _ (by simp (disch := omega) only [field_low, field_high]; rfl)]
  simp (disch := omega) only [decMajor22, dec_vfnmaW, checked, field_low, field_high, field_all, Nat.reduceSub, BitVec.reduceExtractLsb', BitVec.reduceToNat, BitVec.ofNat_eq_ofNat, BitVec.reduceBEq, reduceIte, hw]
  try rfl

theorem Encodes.vfnmsW (d : VReg) (b : VReg) (c : VReg) (e : VReg) (z : BitVec 1) (mk : BitVec 4) (t : BitVec 2) (rm : BitVec 3) : Encodes.Statement (.vfnmsW d b c e z mk t rm) := by
  rintro hw h t ⟨⟩
  have hw : (!(t == 3#2 || !rmPlain rm) && mkOk mk && !(z == 0#1 && e != 0#5)) = true := hw
  simp only [Bool.and_eq_true, Bool.not_eq_true'] at hw
  refine ⟨?_, by simp (disch := omega) only [field_low, field_high]; rfl, by simp (disch := omega) only [field_low, field_high]; decide⟩
  rw [decodeHT_22 _ _ (by simp (disch := omega) only [field_low, field_high]; rfl)]
  simp (disch := omega) only [decMajor22, dec_vfnmsW, checked, field_low, field_high, field_all, Nat.reduceSub, BitVec.reduceExtractLsb', BitVec.reduceToNat, BitVec.ofNat_eq_ofNat, BitVec.reduceBEq, reduceIte, hw]
  try rfl

theorem Encodes.vmacW (d : VReg) (b : VReg) (c : VReg) (e : VReg) (z : BitVec 1) (mk : BitVec 4) (t : BitVec 2) (sat : BitVec 2) : Encodes.Statement (.vmacW d b c e z mk t sat) := by
  rintro hw h t ⟨⟩
  have hw : (!(sat == 3#2) && mkOk mk && !(z == 0#1 && e != 0#5)) = true := hw
  simp only [Bool.and_eq_true, Bool.not_eq_true'] at hw
  refine ⟨?_, by simp (disch := omega) only [field_low, field_high]; rfl, by simp (disch := omega) only [field_low, field_high]; decide⟩
  rw [decodeHT_22 _ _ (by simp (disch := omega) only [field_low, field_high]; rfl)]
  simp (disch := omega) only [decMajor22, dec_vmacW, checked, field_low, field_high, field_all, Nat.reduceSub, BitVec.reduceExtractLsb', BitVec.reduceToNat, BitVec.ofNat_eq_ofNat, BitVec.reduceBEq, reduceIte, hw]
  try rfl

theorem Encodes.vdotW (d : VReg) (b : VReg) (c : VReg) (e : VReg) (z : BitVec 1) (mk : BitVec 4) (t : BitVec 2) (sat : BitVec 2) : Encodes.Statement (.vdotW d b c e z mk t sat) := by
  rintro hw h t ⟨⟩
  have hw : (!(sat == 3#2 || !tDot t) && mkOk mk && !(z == 0#1 && e != 0#5)) = true := hw
  simp only [Bool.and_eq_true, Bool.not_eq_true'] at hw
  refine ⟨?_, by simp (disch := omega) only [field_low, field_high]; rfl, by simp (disch := omega) only [field_low, field_high]; decide⟩
  rw [decodeHT_22 _ _ (by simp (disch := omega) only [field_low, field_high]; rfl)]
  simp (disch := omega) only [decMajor22, dec_vdotW, checked, field_low, field_high, field_all, Nat.reduceSub, BitVec.reduceExtractLsb', BitVec.reduceToNat, BitVec.ofNat_eq_ofNat, BitVec.reduceBEq, reduceIte, hw]
  try rfl

theorem Encodes.vdotuW (d : VReg) (b : VReg) (c : VReg) (e : VReg) (z : BitVec 1) (mk : BitVec 4) (t : BitVec 2) (sat : BitVec 2) : Encodes.Statement (.vdotuW d b c e z mk t sat) := by
  rintro hw h t ⟨⟩
  have hw : (!(sat == 3#2 || !tDot t) && mkOk mk && !(z == 0#1 && e != 0#5)) = true := hw
  simp only [Bool.and_eq_true, Bool.not_eq_true'] at hw
  refine ⟨?_, by simp (disch := omega) only [field_low, field_high]; rfl, by simp (disch := omega) only [field_low, field_high]; decide⟩
  rw [decodeHT_22 _ _ (by simp (disch := omega) only [field_low, field_high]; rfl)]
  simp (disch := omega) only [decMajor22, dec_vdotuW, checked, field_low, field_high, field_all, Nat.reduceSub, BitVec.reduceExtractLsb', BitVec.reduceToNat, BitVec.ofNat_eq_ofNat, BitVec.reduceBEq, reduceIte, hw]
  try rfl

theorem Encodes.vseq (d : VReg) (b : VReg) (c : VReg) (mk : BitVec 4) (t : BitVec 2) : Encodes.Statement (.vseq d b c mk t) := by
  rintro hw h t ⟨⟩
  have hw : (mkOk mk) = true := hw
  refine ⟨?_, by simp (disch := omega) only [field_low, field_high]; rfl, by simp (disch := omega) only [field_low, field_high]; decide⟩
  rw [decodeHT_23 _ _ (by simp (disch := omega) only [field_low, field_high]; rfl)]
  simp (disch := omega) only [decMajor23, dec_vseq, checked, field_low, field_high, field_all, Nat.reduceSub, BitVec.reduceExtractLsb', BitVec.reduceToNat, BitVec.ofNat_eq_ofNat, BitVec.reduceBEq, reduceIte, hw]
  try rfl

theorem Encodes.vsne (d : VReg) (b : VReg) (c : VReg) (mk : BitVec 4) (t : BitVec 2) : Encodes.Statement (.vsne d b c mk t) := by
  rintro hw h t ⟨⟩
  have hw : (mkOk mk) = true := hw
  refine ⟨?_, by simp (disch := omega) only [field_low, field_high]; rfl, by simp (disch := omega) only [field_low, field_high]; decide⟩
  rw [decodeHT_23 _ _ (by simp (disch := omega) only [field_low, field_high]; rfl)]
  simp (disch := omega) only [decMajor23, dec_vsne, checked, field_low, field_high, field_all, Nat.reduceSub, BitVec.reduceExtractLsb', BitVec.reduceToNat, BitVec.ofNat_eq_ofNat, BitVec.reduceBEq, reduceIte, hw]
  try rfl

theorem Encodes.vslt (d : VReg) (b : VReg) (c : VReg) (mk : BitVec 4) (t : BitVec 2) : Encodes.Statement (.vslt d b c mk t) := by
  rintro hw h t ⟨⟩
  have hw : (mkOk mk) = true := hw
  refine ⟨?_, by simp (disch := omega) only [field_low, field_high]; rfl, by simp (disch := omega) only [field_low, field_high]; decide⟩
  rw [decodeHT_23 _ _ (by simp (disch := omega) only [field_low, field_high]; rfl)]
  simp (disch := omega) only [decMajor23, dec_vslt, checked, field_low, field_high, field_all, Nat.reduceSub, BitVec.reduceExtractLsb', BitVec.reduceToNat, BitVec.ofNat_eq_ofNat, BitVec.reduceBEq, reduceIte, hw]
  try rfl

theorem Encodes.vsle (d : VReg) (b : VReg) (c : VReg) (mk : BitVec 4) (t : BitVec 2) : Encodes.Statement (.vsle d b c mk t) := by
  rintro hw h t ⟨⟩
  have hw : (mkOk mk) = true := hw
  refine ⟨?_, by simp (disch := omega) only [field_low, field_high]; rfl, by simp (disch := omega) only [field_low, field_high]; decide⟩
  rw [decodeHT_23 _ _ (by simp (disch := omega) only [field_low, field_high]; rfl)]
  simp (disch := omega) only [decMajor23, dec_vsle, checked, field_low, field_high, field_all, Nat.reduceSub, BitVec.reduceExtractLsb', BitVec.reduceToNat, BitVec.ofNat_eq_ofNat, BitVec.reduceBEq, reduceIte, hw]
  try rfl

theorem Encodes.vsltu (d : VReg) (b : VReg) (c : VReg) (mk : BitVec 4) (t : BitVec 2) : Encodes.Statement (.vsltu d b c mk t) := by
  rintro hw h t ⟨⟩
  have hw : (mkOk mk) = true := hw
  refine ⟨?_, by simp (disch := omega) only [field_low, field_high]; rfl, by simp (disch := omega) only [field_low, field_high]; decide⟩
  rw [decodeHT_23 _ _ (by simp (disch := omega) only [field_low, field_high]; rfl)]
  simp (disch := omega) only [decMajor23, dec_vsltu, checked, field_low, field_high, field_all, Nat.reduceSub, BitVec.reduceExtractLsb', BitVec.reduceToNat, BitVec.ofNat_eq_ofNat, BitVec.reduceBEq, reduceIte, hw]
  try rfl

theorem Encodes.vsleu (d : VReg) (b : VReg) (c : VReg) (mk : BitVec 4) (t : BitVec 2) : Encodes.Statement (.vsleu d b c mk t) := by
  rintro hw h t ⟨⟩
  have hw : (mkOk mk) = true := hw
  refine ⟨?_, by simp (disch := omega) only [field_low, field_high]; rfl, by simp (disch := omega) only [field_low, field_high]; decide⟩
  rw [decodeHT_23 _ _ (by simp (disch := omega) only [field_low, field_high]; rfl)]
  simp (disch := omega) only [decMajor23, dec_vsleu, checked, field_low, field_high, field_all, Nat.reduceSub, BitVec.reduceExtractLsb', BitVec.reduceToNat, BitVec.ofNat_eq_ofNat, BitVec.reduceBEq, reduceIte, hw]
  try rfl

theorem Encodes.vseqW (d : VReg) (b : VReg) (c : VReg) (z : BitVec 1) (mk : BitVec 4) (t : BitVec 2) : Encodes.Statement (.vseqW d b c z mk t) := by
  rintro hw h t ⟨⟩
  have hw : (mkOk mk) = true := hw
  refine ⟨?_, by simp (disch := omega) only [field_low, field_high]; rfl, by simp (disch := omega) only [field_low, field_high]; decide⟩
  rw [decodeHT_23 _ _ (by simp (disch := omega) only [field_low, field_high]; rfl)]
  simp (disch := omega) only [decMajor23, dec_vseqW, checked, field_low, field_high, field_all, Nat.reduceSub, BitVec.reduceExtractLsb', BitVec.reduceToNat, BitVec.ofNat_eq_ofNat, BitVec.reduceBEq, reduceIte, hw]
  try rfl

theorem Encodes.vsneW (d : VReg) (b : VReg) (c : VReg) (z : BitVec 1) (mk : BitVec 4) (t : BitVec 2) : Encodes.Statement (.vsneW d b c z mk t) := by
  rintro hw h t ⟨⟩
  have hw : (mkOk mk) = true := hw
  refine ⟨?_, by simp (disch := omega) only [field_low, field_high]; rfl, by simp (disch := omega) only [field_low, field_high]; decide⟩
  rw [decodeHT_23 _ _ (by simp (disch := omega) only [field_low, field_high]; rfl)]
  simp (disch := omega) only [decMajor23, dec_vsneW, checked, field_low, field_high, field_all, Nat.reduceSub, BitVec.reduceExtractLsb', BitVec.reduceToNat, BitVec.ofNat_eq_ofNat, BitVec.reduceBEq, reduceIte, hw]
  try rfl

theorem Encodes.vsltW (d : VReg) (b : VReg) (c : VReg) (z : BitVec 1) (mk : BitVec 4) (t : BitVec 2) : Encodes.Statement (.vsltW d b c z mk t) := by
  rintro hw h t ⟨⟩
  have hw : (mkOk mk) = true := hw
  refine ⟨?_, by simp (disch := omega) only [field_low, field_high]; rfl, by simp (disch := omega) only [field_low, field_high]; decide⟩
  rw [decodeHT_23 _ _ (by simp (disch := omega) only [field_low, field_high]; rfl)]
  simp (disch := omega) only [decMajor23, dec_vsltW, checked, field_low, field_high, field_all, Nat.reduceSub, BitVec.reduceExtractLsb', BitVec.reduceToNat, BitVec.ofNat_eq_ofNat, BitVec.reduceBEq, reduceIte, hw]
  try rfl

theorem Encodes.vsleW (d : VReg) (b : VReg) (c : VReg) (z : BitVec 1) (mk : BitVec 4) (t : BitVec 2) : Encodes.Statement (.vsleW d b c z mk t) := by
  rintro hw h t ⟨⟩
  have hw : (mkOk mk) = true := hw
  refine ⟨?_, by simp (disch := omega) only [field_low, field_high]; rfl, by simp (disch := omega) only [field_low, field_high]; decide⟩
  rw [decodeHT_23 _ _ (by simp (disch := omega) only [field_low, field_high]; rfl)]
  simp (disch := omega) only [decMajor23, dec_vsleW, checked, field_low, field_high, field_all, Nat.reduceSub, BitVec.reduceExtractLsb', BitVec.reduceToNat, BitVec.ofNat_eq_ofNat, BitVec.reduceBEq, reduceIte, hw]
  try rfl

theorem Encodes.vsltuW (d : VReg) (b : VReg) (c : VReg) (z : BitVec 1) (mk : BitVec 4) (t : BitVec 2) : Encodes.Statement (.vsltuW d b c z mk t) := by
  rintro hw h t ⟨⟩
  have hw : (mkOk mk) = true := hw
  refine ⟨?_, by simp (disch := omega) only [field_low, field_high]; rfl, by simp (disch := omega) only [field_low, field_high]; decide⟩
  rw [decodeHT_23 _ _ (by simp (disch := omega) only [field_low, field_high]; rfl)]
  simp (disch := omega) only [decMajor23, dec_vsltuW, checked, field_low, field_high, field_all, Nat.reduceSub, BitVec.reduceExtractLsb', BitVec.reduceToNat, BitVec.ofNat_eq_ofNat, BitVec.reduceBEq, reduceIte, hw]
  try rfl

theorem Encodes.vsleuW (d : VReg) (b : VReg) (c : VReg) (z : BitVec 1) (mk : BitVec 4) (t : BitVec 2) : Encodes.Statement (.vsleuW d b c z mk t) := by
  rintro hw h t ⟨⟩
  have hw : (mkOk mk) = true := hw
  refine ⟨?_, by simp (disch := omega) only [field_low, field_high]; rfl, by simp (disch := omega) only [field_low, field_high]; decide⟩
  rw [decodeHT_23 _ _ (by simp (disch := omega) only [field_low, field_high]; rfl)]
  simp (disch := omega) only [decMajor23, dec_vsleuW, checked, field_low, field_high, field_all, Nat.reduceSub, BitVec.reduceExtractLsb', BitVec.reduceToNat, BitVec.ofNat_eq_ofNat, BitVec.reduceBEq, reduceIte, hw]
  try rfl

theorem Encodes.vfeq (d : VReg) (b : VReg) (c : VReg) (z : BitVec 1) (mk : BitVec 4) (t : BitVec 2) : Encodes.Statement (.vfeq d b c z mk t) := by
  rintro hw h t ⟨⟩
  have hw : (!(t == 3#2) && mkOk mk) = true := hw
  simp only [Bool.and_eq_true, Bool.not_eq_true'] at hw
  refine ⟨?_, by simp (disch := omega) only [field_low, field_high]; rfl, by simp (disch := omega) only [field_low, field_high]; decide⟩
  rw [decodeHT_23 _ _ (by simp (disch := omega) only [field_low, field_high]; rfl)]
  simp (disch := omega) only [decMajor23, dec_vfeq, checked, field_low, field_high, field_all, Nat.reduceSub, BitVec.reduceExtractLsb', BitVec.reduceToNat, BitVec.ofNat_eq_ofNat, BitVec.reduceBEq, reduceIte, hw]
  try rfl

theorem Encodes.vfne (d : VReg) (b : VReg) (c : VReg) (z : BitVec 1) (mk : BitVec 4) (t : BitVec 2) : Encodes.Statement (.vfne d b c z mk t) := by
  rintro hw h t ⟨⟩
  have hw : (!(t == 3#2) && mkOk mk) = true := hw
  simp only [Bool.and_eq_true, Bool.not_eq_true'] at hw
  refine ⟨?_, by simp (disch := omega) only [field_low, field_high]; rfl, by simp (disch := omega) only [field_low, field_high]; decide⟩
  rw [decodeHT_23 _ _ (by simp (disch := omega) only [field_low, field_high]; rfl)]
  simp (disch := omega) only [decMajor23, dec_vfne, checked, field_low, field_high, field_all, Nat.reduceSub, BitVec.reduceExtractLsb', BitVec.reduceToNat, BitVec.ofNat_eq_ofNat, BitVec.reduceBEq, reduceIte, hw]
  try rfl

theorem Encodes.vflt (d : VReg) (b : VReg) (c : VReg) (z : BitVec 1) (mk : BitVec 4) (t : BitVec 2) : Encodes.Statement (.vflt d b c z mk t) := by
  rintro hw h t ⟨⟩
  have hw : (!(t == 3#2) && mkOk mk) = true := hw
  simp only [Bool.and_eq_true, Bool.not_eq_true'] at hw
  refine ⟨?_, by simp (disch := omega) only [field_low, field_high]; rfl, by simp (disch := omega) only [field_low, field_high]; decide⟩
  rw [decodeHT_23 _ _ (by simp (disch := omega) only [field_low, field_high]; rfl)]
  simp (disch := omega) only [decMajor23, dec_vflt, checked, field_low, field_high, field_all, Nat.reduceSub, BitVec.reduceExtractLsb', BitVec.reduceToNat, BitVec.ofNat_eq_ofNat, BitVec.reduceBEq, reduceIte, hw]
  try rfl

theorem Encodes.vfle (d : VReg) (b : VReg) (c : VReg) (z : BitVec 1) (mk : BitVec 4) (t : BitVec 2) : Encodes.Statement (.vfle d b c z mk t) := by
  rintro hw h t ⟨⟩
  have hw : (!(t == 3#2) && mkOk mk) = true := hw
  simp only [Bool.and_eq_true, Bool.not_eq_true'] at hw
  refine ⟨?_, by simp (disch := omega) only [field_low, field_high]; rfl, by simp (disch := omega) only [field_low, field_high]; decide⟩
  rw [decodeHT_23 _ _ (by simp (disch := omega) only [field_low, field_high]; rfl)]
  simp (disch := omega) only [decMajor23, dec_vfle, checked, field_low, field_high, field_all, Nat.reduceSub, BitVec.reduceExtractLsb', BitVec.reduceToNat, BitVec.ofNat_eq_ofNat, BitVec.reduceBEq, reduceIte, hw]
  try rfl

theorem Encodes.vfun (d : VReg) (b : VReg) (c : VReg) (z : BitVec 1) (mk : BitVec 4) (t : BitVec 2) : Encodes.Statement (.vfun d b c z mk t) := by
  rintro hw h t ⟨⟩
  have hw : (!(t == 3#2) && mkOk mk) = true := hw
  simp only [Bool.and_eq_true, Bool.not_eq_true'] at hw
  refine ⟨?_, by simp (disch := omega) only [field_low, field_high]; rfl, by simp (disch := omega) only [field_low, field_high]; decide⟩
  rw [decodeHT_23 _ _ (by simp (disch := omega) only [field_low, field_high]; rfl)]
  simp (disch := omega) only [decMajor23, dec_vfun, checked, field_low, field_high, field_all, Nat.reduceSub, BitVec.reduceExtractLsb', BitVec.reduceToNat, BitVec.ofNat_eq_ofNat, BitVec.reduceBEq, reduceIte, hw]
  try rfl

theorem Encodes.vmov (d : VReg) (b : VReg) (mk : BitVec 4) (t : BitVec 2) : Encodes.Statement (.vmov d b mk t) := by
  rintro hw h t ⟨⟩
  have hw : (mkOk mk) = true := hw
  refine ⟨?_, by simp (disch := omega) only [field_low, field_high]; rfl, by simp (disch := omega) only [field_low, field_high]; decide⟩
  rw [decodeHT_24 _ _ (by simp (disch := omega) only [field_low, field_high]; rfl)]
  simp (disch := omega) only [decMajor24, dec_vmov, checked, field_low, field_high, field_all, Nat.reduceSub, BitVec.reduceExtractLsb', BitVec.reduceToNat, BitVec.ofNat_eq_ofNat, BitVec.reduceBEq, reduceIte, hw]
  try rfl

theorem Encodes.vbcast (d : VReg) (c : SReg) (mk : BitVec 4) (t : BitVec 2) : Encodes.Statement (.vbcast d c mk t) := by
  rintro hw h t ⟨⟩
  have hw : (mkOk mk) = true := hw
  refine ⟨?_, by simp (disch := omega) only [field_low, field_high]; rfl, by simp (disch := omega) only [field_low, field_high]; decide⟩
  rw [decodeHT_24 _ _ (by simp (disch := omega) only [field_low, field_high]; rfl)]
  simp (disch := omega) only [decMajor24, dec_vbcast, checked, field_low, field_high, field_all, Nat.reduceSub, BitVec.reduceExtractLsb', BitVec.reduceToNat, BitVec.ofNat_eq_ofNat, BitVec.reduceBEq, reduceIte, hw]
  try rfl

theorem Encodes.vsldn (d : VReg) (b : VReg) (c : SReg) (mk : BitVec 4) (t : BitVec 2) : Encodes.Statement (.vsldn d b c mk t) := by
  rintro hw h t ⟨⟩
  have hw : (mkOk mk) = true := hw
  refine ⟨?_, by simp (disch := omega) only [field_low, field_high]; rfl, by simp (disch := omega) only [field_low, field_high]; decide⟩
  rw [decodeHT_24 _ _ (by simp (disch := omega) only [field_low, field_high]; rfl)]
  simp (disch := omega) only [decMajor24, dec_vsldn, checked, field_low, field_high, field_all, Nat.reduceSub, BitVec.reduceExtractLsb', BitVec.reduceToNat, BitVec.ofNat_eq_ofNat, BitVec.reduceBEq, reduceIte, hw]
  try rfl

theorem Encodes.vslup (d : VReg) (b : VReg) (c : SReg) (mk : BitVec 4) (t : BitVec 2) : Encodes.Statement (.vslup d b c mk t) := by
  rintro hw h t ⟨⟩
  have hw : (mkOk mk) = true := hw
  refine ⟨?_, by simp (disch := omega) only [field_low, field_high]; rfl, by simp (disch := omega) only [field_low, field_high]; decide⟩
  rw [decodeHT_24 _ _ (by simp (disch := omega) only [field_low, field_high]; rfl)]
  simp (disch := omega) only [decMajor24, dec_vslup, checked, field_low, field_high, field_all, Nat.reduceSub, BitVec.reduceExtractLsb', BitVec.reduceToNat, BitVec.ofNat_eq_ofNat, BitVec.reduceBEq, reduceIte, hw]
  try rfl

theorem Encodes.vperm (d : VReg) (b : VReg) (c : VReg) (mk : BitVec 4) (t : BitVec 2) : Encodes.Statement (.vperm d b c mk t) := by
  rintro hw h t ⟨⟩
  have hw : (mkOk mk) = true := hw
  refine ⟨?_, by simp (disch := omega) only [field_low, field_high]; rfl, by simp (disch := omega) only [field_low, field_high]; decide⟩
  rw [decodeHT_24 _ _ (by simp (disch := omega) only [field_low, field_high]; rfl)]
  simp (disch := omega) only [decMajor24, dec_vperm, checked, field_low, field_high, field_all, Nat.reduceSub, BitVec.reduceExtractLsb', BitVec.reduceToNat, BitVec.ofNat_eq_ofNat, BitVec.reduceBEq, reduceIte, hw]
  try rfl

theorem Encodes.vins (d : VReg) (b : SReg) (c : SReg) (mk : BitVec 4) (t : BitVec 2) : Encodes.Statement (.vins d b c mk t) := by
  rintro hw h t ⟨⟩
  have hw : (mkOk mk) = true := hw
  refine ⟨?_, by simp (disch := omega) only [field_low, field_high]; rfl, by simp (disch := omega) only [field_low, field_high]; decide⟩
  rw [decodeHT_24 _ _ (by simp (disch := omega) only [field_low, field_high]; rfl)]
  simp (disch := omega) only [decMajor24, dec_vins, checked, field_low, field_high, field_all, Nat.reduceSub, BitVec.reduceExtractLsb', BitVec.reduceToNat, BitVec.ofNat_eq_ofNat, BitVec.reduceBEq, reduceIte, hw]
  try rfl

theorem Encodes.vext (d : SReg) (b : VReg) (c : SReg) (t : BitVec 2) : Encodes.Statement (.vext d b c t) := by
  rintro hw h t ⟨⟩
  refine ⟨?_, by simp (disch := omega) only [field_low, field_high]; rfl, by simp (disch := omega) only [field_low, field_high]; decide⟩
  rw [decodeHT_24 _ _ (by simp (disch := omega) only [field_low, field_high]; rfl)]
  simp (disch := omega) only [decMajor24, dec_vext, checked, field_low, field_high, field_all, Nat.reduceSub, BitVec.reduceExtractLsb', BitVec.reduceToNat, BitVec.ofNat_eq_ofNat, BitVec.reduceBEq, reduceIte]
  try rfl

theorem Encodes.vmovW (d : VReg) (b : VReg) (mk : BitVec 4) (t : BitVec 2) : Encodes.Statement (.vmovW d b mk t) := by
  rintro hw h t ⟨⟩
  have hw : (mkOk mk) = true := hw
  refine ⟨?_, by simp (disch := omega) only [field_low, field_high]; rfl, by simp (disch := omega) only [field_low, field_high]; decide⟩
  rw [decodeHT_24 _ _ (by simp (disch := omega) only [field_low, field_high]; rfl)]
  simp (disch := omega) only [decMajor24, dec_vmovW, checked, field_low, field_high, field_all, Nat.reduceSub, BitVec.reduceExtractLsb', BitVec.reduceToNat, BitVec.ofNat_eq_ofNat, BitVec.reduceBEq, reduceIte, hw]
  try rfl

theorem Encodes.vbcastW (d : VReg) (c : SReg) (mk : BitVec 4) (t : BitVec 2) : Encodes.Statement (.vbcastW d c mk t) := by
  rintro hw h t ⟨⟩
  have hw : (mkOk mk) = true := hw
  refine ⟨?_, by simp (disch := omega) only [field_low, field_high]; rfl, by simp (disch := omega) only [field_low, field_high]; decide⟩
  rw [decodeHT_24 _ _ (by simp (disch := omega) only [field_low, field_high]; rfl)]
  simp (disch := omega) only [decMajor24, dec_vbcastW, checked, field_low, field_high, field_all, Nat.reduceSub, BitVec.reduceExtractLsb', BitVec.reduceToNat, BitVec.ofNat_eq_ofNat, BitVec.reduceBEq, reduceIte, hw]
  try rfl

theorem Encodes.vsldnW (d : VReg) (b : VReg) (c : SReg) (mk : BitVec 4) (t : BitVec 2) : Encodes.Statement (.vsldnW d b c mk t) := by
  rintro hw h t ⟨⟩
  have hw : (mkOk mk) = true := hw
  refine ⟨?_, by simp (disch := omega) only [field_low, field_high]; rfl, by simp (disch := omega) only [field_low, field_high]; decide⟩
  rw [decodeHT_24 _ _ (by simp (disch := omega) only [field_low, field_high]; rfl)]
  simp (disch := omega) only [decMajor24, dec_vsldnW, checked, field_low, field_high, field_all, Nat.reduceSub, BitVec.reduceExtractLsb', BitVec.reduceToNat, BitVec.ofNat_eq_ofNat, BitVec.reduceBEq, reduceIte, hw]
  try rfl

theorem Encodes.vslupW (d : VReg) (b : VReg) (c : SReg) (mk : BitVec 4) (t : BitVec 2) : Encodes.Statement (.vslupW d b c mk t) := by
  rintro hw h t ⟨⟩
  have hw : (mkOk mk) = true := hw
  refine ⟨?_, by simp (disch := omega) only [field_low, field_high]; rfl, by simp (disch := omega) only [field_low, field_high]; decide⟩
  rw [decodeHT_24 _ _ (by simp (disch := omega) only [field_low, field_high]; rfl)]
  simp (disch := omega) only [decMajor24, dec_vslupW, checked, field_low, field_high, field_all, Nat.reduceSub, BitVec.reduceExtractLsb', BitVec.reduceToNat, BitVec.ofNat_eq_ofNat, BitVec.reduceBEq, reduceIte, hw]
  try rfl

theorem Encodes.vpermW (d : VReg) (b : VReg) (c : VReg) (mk : BitVec 4) (t : BitVec 2) : Encodes.Statement (.vpermW d b c mk t) := by
  rintro hw h t ⟨⟩
  have hw : (mkOk mk) = true := hw
  refine ⟨?_, by simp (disch := omega) only [field_low, field_high]; rfl, by simp (disch := omega) only [field_low, field_high]; decide⟩
  rw [decodeHT_24 _ _ (by simp (disch := omega) only [field_low, field_high]; rfl)]
  simp (disch := omega) only [decMajor24, dec_vpermW, checked, field_low, field_high, field_all, Nat.reduceSub, BitVec.reduceExtractLsb', BitVec.reduceToNat, BitVec.ofNat_eq_ofNat, BitVec.reduceBEq, reduceIte, hw]
  try rfl

theorem Encodes.vinsW (d : VReg) (b : SReg) (c : SReg) (mk : BitVec 4) (t : BitVec 2) : Encodes.Statement (.vinsW d b c mk t) := by
  rintro hw h t ⟨⟩
  have hw : (mkOk mk) = true := hw
  refine ⟨?_, by simp (disch := omega) only [field_low, field_high]; rfl, by simp (disch := omega) only [field_low, field_high]; decide⟩
  rw [decodeHT_24 _ _ (by simp (disch := omega) only [field_low, field_high]; rfl)]
  simp (disch := omega) only [decMajor24, dec_vinsW, checked, field_low, field_high, field_all, Nat.reduceSub, BitVec.reduceExtractLsb', BitVec.reduceToNat, BitVec.ofNat_eq_ofNat, BitVec.reduceBEq, reduceIte, hw]
  try rfl

theorem Encodes.vextW (d : SReg) (b : VReg) (c : SReg) (t : BitVec 2) : Encodes.Statement (.vextW d b c t) := by
  rintro hw h t ⟨⟩
  refine ⟨?_, by simp (disch := omega) only [field_low, field_high]; rfl, by simp (disch := omega) only [field_low, field_high]; decide⟩
  rw [decodeHT_24 _ _ (by simp (disch := omega) only [field_low, field_high]; rfl)]
  simp (disch := omega) only [decMajor24, dec_vextW, checked, field_low, field_high, field_all, Nat.reduceSub, BitVec.reduceExtractLsb', BitVec.reduceToNat, BitVec.ofNat_eq_ofNat, BitVec.reduceBEq, reduceIte]
  try rfl

theorem Encodes.vrsum (d : SReg) (b : VReg) (mk : BitVec 4) (t : BitVec 2) : Encodes.Statement (.vrsum d b mk t) := by
  rintro hw h t ⟨⟩
  have hw : (mkOk mk && !(mk.getLsbD 2)) = true := hw
  simp only [Bool.and_eq_true, Bool.not_eq_true'] at hw
  refine ⟨?_, by simp (disch := omega) only [field_low, field_high]; rfl, by simp (disch := omega) only [field_low, field_high]; decide⟩
  rw [decodeHT_25 _ _ (by simp (disch := omega) only [field_low, field_high]; rfl)]
  simp (disch := omega) only [decMajor25, dec_vrsum, checked, field_low, field_high, field_all, Nat.reduceSub, BitVec.reduceExtractLsb', BitVec.reduceToNat, BitVec.ofNat_eq_ofNat, BitVec.reduceBEq, reduceIte, hw]
  try rfl

theorem Encodes.vrmin (d : SReg) (b : VReg) (mk : BitVec 4) (t : BitVec 2) : Encodes.Statement (.vrmin d b mk t) := by
  rintro hw h t ⟨⟩
  have hw : (mkOk mk && !(mk.getLsbD 2)) = true := hw
  simp only [Bool.and_eq_true, Bool.not_eq_true'] at hw
  refine ⟨?_, by simp (disch := omega) only [field_low, field_high]; rfl, by simp (disch := omega) only [field_low, field_high]; decide⟩
  rw [decodeHT_25 _ _ (by simp (disch := omega) only [field_low, field_high]; rfl)]
  simp (disch := omega) only [decMajor25, dec_vrmin, checked, field_low, field_high, field_all, Nat.reduceSub, BitVec.reduceExtractLsb', BitVec.reduceToNat, BitVec.ofNat_eq_ofNat, BitVec.reduceBEq, reduceIte, hw]
  try rfl

theorem Encodes.vrmax (d : SReg) (b : VReg) (mk : BitVec 4) (t : BitVec 2) : Encodes.Statement (.vrmax d b mk t) := by
  rintro hw h t ⟨⟩
  have hw : (mkOk mk && !(mk.getLsbD 2)) = true := hw
  simp only [Bool.and_eq_true, Bool.not_eq_true'] at hw
  refine ⟨?_, by simp (disch := omega) only [field_low, field_high]; rfl, by simp (disch := omega) only [field_low, field_high]; decide⟩
  rw [decodeHT_25 _ _ (by simp (disch := omega) only [field_low, field_high]; rfl)]
  simp (disch := omega) only [decMajor25, dec_vrmax, checked, field_low, field_high, field_all, Nat.reduceSub, BitVec.reduceExtractLsb', BitVec.reduceToNat, BitVec.ofNat_eq_ofNat, BitVec.reduceBEq, reduceIte, hw]
  try rfl

theorem Encodes.vrminu (d : SReg) (b : VReg) (mk : BitVec 4) (t : BitVec 2) : Encodes.Statement (.vrminu d b mk t) := by
  rintro hw h t ⟨⟩
  have hw : (mkOk mk && !(mk.getLsbD 2)) = true := hw
  simp only [Bool.and_eq_true, Bool.not_eq_true'] at hw
  refine ⟨?_, by simp (disch := omega) only [field_low, field_high]; rfl, by simp (disch := omega) only [field_low, field_high]; decide⟩
  rw [decodeHT_25 _ _ (by simp (disch := omega) only [field_low, field_high]; rfl)]
  simp (disch := omega) only [decMajor25, dec_vrminu, checked, field_low, field_high, field_all, Nat.reduceSub, BitVec.reduceExtractLsb', BitVec.reduceToNat, BitVec.ofNat_eq_ofNat, BitVec.reduceBEq, reduceIte, hw]
  try rfl

theorem Encodes.vrmaxu (d : SReg) (b : VReg) (mk : BitVec 4) (t : BitVec 2) : Encodes.Statement (.vrmaxu d b mk t) := by
  rintro hw h t ⟨⟩
  have hw : (mkOk mk && !(mk.getLsbD 2)) = true := hw
  simp only [Bool.and_eq_true, Bool.not_eq_true'] at hw
  refine ⟨?_, by simp (disch := omega) only [field_low, field_high]; rfl, by simp (disch := omega) only [field_low, field_high]; decide⟩
  rw [decodeHT_25 _ _ (by simp (disch := omega) only [field_low, field_high]; rfl)]
  simp (disch := omega) only [decMajor25, dec_vrmaxu, checked, field_low, field_high, field_all, Nat.reduceSub, BitVec.reduceExtractLsb', BitVec.reduceToNat, BitVec.ofNat_eq_ofNat, BitVec.reduceBEq, reduceIte, hw]
  try rfl

theorem Encodes.vrpopc (d : SReg) (b : VReg) (mk : BitVec 4) (t : BitVec 2) : Encodes.Statement (.vrpopc d b mk t) := by
  rintro hw h t ⟨⟩
  have hw : (mkOk mk && !(mk.getLsbD 2)) = true := hw
  simp only [Bool.and_eq_true, Bool.not_eq_true'] at hw
  refine ⟨?_, by simp (disch := omega) only [field_low, field_high]; rfl, by simp (disch := omega) only [field_low, field_high]; decide⟩
  rw [decodeHT_25 _ _ (by simp (disch := omega) only [field_low, field_high]; rfl)]
  simp (disch := omega) only [decMajor25, dec_vrpopc, checked, field_low, field_high, field_all, Nat.reduceSub, BitVec.reduceExtractLsb', BitVec.reduceToNat, BitVec.ofNat_eq_ofNat, BitVec.reduceBEq, reduceIte, hw]
  try rfl

theorem Encodes.vrsumW (d : SReg) (b : VReg) (mk : BitVec 4) (t : BitVec 2) : Encodes.Statement (.vrsumW d b mk t) := by
  rintro hw h t ⟨⟩
  have hw : (mkOk mk && !(mk.getLsbD 2)) = true := hw
  simp only [Bool.and_eq_true, Bool.not_eq_true'] at hw
  refine ⟨?_, by simp (disch := omega) only [field_low, field_high]; rfl, by simp (disch := omega) only [field_low, field_high]; decide⟩
  rw [decodeHT_25 _ _ (by simp (disch := omega) only [field_low, field_high]; rfl)]
  simp (disch := omega) only [decMajor25, dec_vrsumW, checked, field_low, field_high, field_all, Nat.reduceSub, BitVec.reduceExtractLsb', BitVec.reduceToNat, BitVec.ofNat_eq_ofNat, BitVec.reduceBEq, reduceIte, hw]
  try rfl

theorem Encodes.vrminW (d : SReg) (b : VReg) (mk : BitVec 4) (t : BitVec 2) : Encodes.Statement (.vrminW d b mk t) := by
  rintro hw h t ⟨⟩
  have hw : (mkOk mk && !(mk.getLsbD 2)) = true := hw
  simp only [Bool.and_eq_true, Bool.not_eq_true'] at hw
  refine ⟨?_, by simp (disch := omega) only [field_low, field_high]; rfl, by simp (disch := omega) only [field_low, field_high]; decide⟩
  rw [decodeHT_25 _ _ (by simp (disch := omega) only [field_low, field_high]; rfl)]
  simp (disch := omega) only [decMajor25, dec_vrminW, checked, field_low, field_high, field_all, Nat.reduceSub, BitVec.reduceExtractLsb', BitVec.reduceToNat, BitVec.ofNat_eq_ofNat, BitVec.reduceBEq, reduceIte, hw]
  try rfl

theorem Encodes.vrmaxW (d : SReg) (b : VReg) (mk : BitVec 4) (t : BitVec 2) : Encodes.Statement (.vrmaxW d b mk t) := by
  rintro hw h t ⟨⟩
  have hw : (mkOk mk && !(mk.getLsbD 2)) = true := hw
  simp only [Bool.and_eq_true, Bool.not_eq_true'] at hw
  refine ⟨?_, by simp (disch := omega) only [field_low, field_high]; rfl, by simp (disch := omega) only [field_low, field_high]; decide⟩
  rw [decodeHT_25 _ _ (by simp (disch := omega) only [field_low, field_high]; rfl)]
  simp (disch := omega) only [decMajor25, dec_vrmaxW, checked, field_low, field_high, field_all, Nat.reduceSub, BitVec.reduceExtractLsb', BitVec.reduceToNat, BitVec.ofNat_eq_ofNat, BitVec.reduceBEq, reduceIte, hw]
  try rfl

theorem Encodes.vrminuW (d : SReg) (b : VReg) (mk : BitVec 4) (t : BitVec 2) : Encodes.Statement (.vrminuW d b mk t) := by
  rintro hw h t ⟨⟩
  have hw : (mkOk mk && !(mk.getLsbD 2)) = true := hw
  simp only [Bool.and_eq_true, Bool.not_eq_true'] at hw
  refine ⟨?_, by simp (disch := omega) only [field_low, field_high]; rfl, by simp (disch := omega) only [field_low, field_high]; decide⟩
  rw [decodeHT_25 _ _ (by simp (disch := omega) only [field_low, field_high]; rfl)]
  simp (disch := omega) only [decMajor25, dec_vrminuW, checked, field_low, field_high, field_all, Nat.reduceSub, BitVec.reduceExtractLsb', BitVec.reduceToNat, BitVec.ofNat_eq_ofNat, BitVec.reduceBEq, reduceIte, hw]
  try rfl

theorem Encodes.vrmaxuW (d : SReg) (b : VReg) (mk : BitVec 4) (t : BitVec 2) : Encodes.Statement (.vrmaxuW d b mk t) := by
  rintro hw h t ⟨⟩
  have hw : (mkOk mk && !(mk.getLsbD 2)) = true := hw
  simp only [Bool.and_eq_true, Bool.not_eq_true'] at hw
  refine ⟨?_, by simp (disch := omega) only [field_low, field_high]; rfl, by simp (disch := omega) only [field_low, field_high]; decide⟩
  rw [decodeHT_25 _ _ (by simp (disch := omega) only [field_low, field_high]; rfl)]
  simp (disch := omega) only [decMajor25, dec_vrmaxuW, checked, field_low, field_high, field_all, Nat.reduceSub, BitVec.reduceExtractLsb', BitVec.reduceToNat, BitVec.ofNat_eq_ofNat, BitVec.reduceBEq, reduceIte, hw]
  try rfl

theorem Encodes.vrpopcW (d : SReg) (b : VReg) (mk : BitVec 4) (t : BitVec 2) : Encodes.Statement (.vrpopcW d b mk t) := by
  rintro hw h t ⟨⟩
  have hw : (mkOk mk && !(mk.getLsbD 2)) = true := hw
  simp only [Bool.and_eq_true, Bool.not_eq_true'] at hw
  refine ⟨?_, by simp (disch := omega) only [field_low, field_high]; rfl, by simp (disch := omega) only [field_low, field_high]; decide⟩
  rw [decodeHT_25 _ _ (by simp (disch := omega) only [field_low, field_high]; rfl)]
  simp (disch := omega) only [decMajor25, dec_vrpopcW, checked, field_low, field_high, field_all, Nat.reduceSub, BitVec.reduceExtractLsb', BitVec.reduceToNat, BitVec.ofNat_eq_ofNat, BitVec.reduceBEq, reduceIte, hw]
  try rfl

theorem Encodes.vrfsum (d : SReg) (b : VReg) (mk : BitVec 4) (t : BitVec 2) (rm : BitVec 3) : Encodes.Statement (.vrfsum d b mk t rm) := by
  rintro hw h t ⟨⟩
  have hw : (!(t == 3#2 || !rmPlain rm) && mkOk mk && !(mk.getLsbD 2)) = true := hw
  simp only [Bool.and_eq_true, Bool.not_eq_true'] at hw
  refine ⟨?_, by simp (disch := omega) only [field_low, field_high]; rfl, by simp (disch := omega) only [field_low, field_high]; decide⟩
  rw [decodeHT_25 _ _ (by simp (disch := omega) only [field_low, field_high]; rfl)]
  simp (disch := omega) only [decMajor25, dec_vrfsum, checked, field_low, field_high, field_all, Nat.reduceSub, BitVec.reduceExtractLsb', BitVec.reduceToNat, BitVec.ofNat_eq_ofNat, BitVec.reduceBEq, reduceIte, hw]
  try rfl

theorem Encodes.vrfmin (d : SReg) (b : VReg) (mk : BitVec 4) (t : BitVec 2) (rm : BitVec 3) : Encodes.Statement (.vrfmin d b mk t rm) := by
  rintro hw h t ⟨⟩
  have hw : (!(t == 3#2 || !rmPlain rm) && mkOk mk && !(mk.getLsbD 2)) = true := hw
  simp only [Bool.and_eq_true, Bool.not_eq_true'] at hw
  refine ⟨?_, by simp (disch := omega) only [field_low, field_high]; rfl, by simp (disch := omega) only [field_low, field_high]; decide⟩
  rw [decodeHT_25 _ _ (by simp (disch := omega) only [field_low, field_high]; rfl)]
  simp (disch := omega) only [decMajor25, dec_vrfmin, checked, field_low, field_high, field_all, Nat.reduceSub, BitVec.reduceExtractLsb', BitVec.reduceToNat, BitVec.ofNat_eq_ofNat, BitVec.reduceBEq, reduceIte, hw]
  try rfl

theorem Encodes.vrfmax (d : SReg) (b : VReg) (mk : BitVec 4) (t : BitVec 2) (rm : BitVec 3) : Encodes.Statement (.vrfmax d b mk t rm) := by
  rintro hw h t ⟨⟩
  have hw : (!(t == 3#2 || !rmPlain rm) && mkOk mk && !(mk.getLsbD 2)) = true := hw
  simp only [Bool.and_eq_true, Bool.not_eq_true'] at hw
  refine ⟨?_, by simp (disch := omega) only [field_low, field_high]; rfl, by simp (disch := omega) only [field_low, field_high]; decide⟩
  rw [decodeHT_25 _ _ (by simp (disch := omega) only [field_low, field_high]; rfl)]
  simp (disch := omega) only [decMajor25, dec_vrfmax, checked, field_low, field_high, field_all, Nat.reduceSub, BitVec.reduceExtractLsb', BitVec.reduceToNat, BitVec.ofNat_eq_ofNat, BitVec.reduceBEq, reduceIte, hw]
  try rfl

theorem Encodes.vrfsumo (d : SReg) (b : VReg) (c : SReg) (mk : BitVec 4) (t : BitVec 2) (rm : BitVec 3) : Encodes.Statement (.vrfsumo d b c mk t rm) := by
  rintro hw h t ⟨⟩
  have hw : (!(t == 3#2 || !rmPlain rm) && mkOk mk && !(mk.getLsbD 2)) = true := hw
  simp only [Bool.and_eq_true, Bool.not_eq_true'] at hw
  refine ⟨?_, by simp (disch := omega) only [field_low, field_high]; rfl, by simp (disch := omega) only [field_low, field_high]; decide⟩
  rw [decodeHT_25 _ _ (by simp (disch := omega) only [field_low, field_high]; rfl)]
  simp (disch := omega) only [decMajor25, dec_vrfsumo, checked, field_low, field_high, field_all, Nat.reduceSub, BitVec.reduceExtractLsb', BitVec.reduceToNat, BitVec.ofNat_eq_ofNat, BitVec.reduceBEq, reduceIte, hw]
  try rfl

theorem Encodes.vftoi (d : VReg) (b : VReg) (mk : BitVec 4) (sat : BitVec 1) : Encodes.Statement (.vftoi d b mk sat) := by
  rintro hw h t ⟨⟩
  have hw : (mkOk mk) = true := hw
  refine ⟨?_, by simp (disch := omega) only [field_low, field_high]; rfl, by simp (disch := omega) only [field_low, field_high]; decide⟩
  rw [decodeHT_26 _ _ (by simp (disch := omega) only [field_low, field_high]; rfl)]
  simp (disch := omega) only [decMajor26, dec_vftoi, checked, field_low, field_high, field_all, Nat.reduceSub, BitVec.reduceExtractLsb', BitVec.reduceToNat, BitVec.ofNat_eq_ofNat, BitVec.reduceBEq, reduceIte, hw]
  try rfl

theorem Encodes.vftoiu (d : VReg) (b : VReg) (mk : BitVec 4) (sat : BitVec 1) : Encodes.Statement (.vftoiu d b mk sat) := by
  rintro hw h t ⟨⟩
  have hw : (mkOk mk) = true := hw
  refine ⟨?_, by simp (disch := omega) only [field_low, field_high]; rfl, by simp (disch := omega) only [field_low, field_high]; decide⟩
  rw [decodeHT_26 _ _ (by simp (disch := omega) only [field_low, field_high]; rfl)]
  simp (disch := omega) only [decMajor26, dec_vftoiu, checked, field_low, field_high, field_all, Nat.reduceSub, BitVec.reduceExtractLsb', BitVec.reduceToNat, BitVec.ofNat_eq_ofNat, BitVec.reduceBEq, reduceIte, hw]
  try rfl

theorem Encodes.vitof (d : VReg) (b : VReg) (mk : BitVec 4) : Encodes.Statement (.vitof d b mk) := by
  rintro hw h t ⟨⟩
  have hw : (mkOk mk) = true := hw
  refine ⟨?_, by simp (disch := omega) only [field_low, field_high]; rfl, by simp (disch := omega) only [field_low, field_high]; decide⟩
  rw [decodeHT_26 _ _ (by simp (disch := omega) only [field_low, field_high]; rfl)]
  simp (disch := omega) only [decMajor26, dec_vitof, checked, field_low, field_high, field_all, Nat.reduceSub, BitVec.reduceExtractLsb', BitVec.reduceToNat, BitVec.ofNat_eq_ofNat, BitVec.reduceBEq, reduceIte, hw]
  try rfl

theorem Encodes.vutof (d : VReg) (b : VReg) (mk : BitVec 4) : Encodes.Statement (.vutof d b mk) := by
  rintro hw h t ⟨⟩
  have hw : (mkOk mk) = true := hw
  refine ⟨?_, by simp (disch := omega) only [field_low, field_high]; rfl, by simp (disch := omega) only [field_low, field_high]; decide⟩
  rw [decodeHT_26 _ _ (by simp (disch := omega) only [field_low, field_high]; rfl)]
  simp (disch := omega) only [decMajor26, dec_vutof, checked, field_low, field_high, field_all, Nat.reduceSub, BitVec.reduceExtractLsb', BitVec.reduceToNat, BitVec.ofNat_eq_ofNat, BitVec.reduceBEq, reduceIte, hw]
  try rfl

theorem Encodes.vcvt (d : VReg) (b : VReg) (p : BitVec 4) (r : VReg) (mk : BitVec 4) (fs : BitVec 4) (fd : BitVec 4) (rm : BitVec 3) (sat : BitVec 1) : Encodes.Statement (.vcvt d b p r mk fs fd rm sat) := by
  rintro hw h t ⟨⟩
  have hw : (!(vcvtIllegal p fs fd rm) && mkOk mk && !(rm != 4#3 && r != 0#5)) = true := hw
  simp only [Bool.and_eq_true, Bool.not_eq_true'] at hw
  refine ⟨?_, by simp (disch := omega) only [field_low, field_high]; rfl, by simp (disch := omega) only [field_low, field_high]; decide⟩
  rw [decodeHT_26 _ _ (by simp (disch := omega) only [field_low, field_high]; rfl)]
  simp (disch := omega) only [decMajor26, dec_vcvt, checked, field_low, field_high, field_all, Nat.reduceSub, BitVec.reduceExtractLsb', BitVec.reduceToNat, BitVec.ofNat_eq_ofNat, BitVec.reduceBEq, reduceIte, hw]
  try rfl

theorem Encodes.vexp2 (d : VReg) (b : VReg) (mk : BitVec 4) (t : BitVec 2) : Encodes.Statement (.vexp2 d b mk t) := by
  rintro hw h t ⟨⟩
  have hw : (!(t != 0#2) && mkOk mk) = true := hw
  simp only [Bool.and_eq_true, Bool.not_eq_true'] at hw
  refine ⟨?_, by simp (disch := omega) only [field_low, field_high]; rfl, by simp (disch := omega) only [field_low, field_high]; decide⟩
  rw [decodeHT_27 _ _ (by simp (disch := omega) only [field_low, field_high]; rfl)]
  simp (disch := omega) only [decMajor27, dec_vexp2, checked, field_low, field_high, field_all, Nat.reduceSub, BitVec.reduceExtractLsb', BitVec.reduceToNat, BitVec.ofNat_eq_ofNat, BitVec.reduceBEq, reduceIte, hw]
  try rfl

theorem Encodes.vlog2 (d : VReg) (b : VReg) (mk : BitVec 4) (t : BitVec 2) : Encodes.Statement (.vlog2 d b mk t) := by
  rintro hw h t ⟨⟩
  have hw : (!(t != 0#2) && mkOk mk) = true := hw
  simp only [Bool.and_eq_true, Bool.not_eq_true'] at hw
  refine ⟨?_, by simp (disch := omega) only [field_low, field_high]; rfl, by simp (disch := omega) only [field_low, field_high]; decide⟩
  rw [decodeHT_27 _ _ (by simp (disch := omega) only [field_low, field_high]; rfl)]
  simp (disch := omega) only [decMajor27, dec_vlog2, checked, field_low, field_high, field_all, Nat.reduceSub, BitVec.reduceExtractLsb', BitVec.reduceToNat, BitVec.ofNat_eq_ofNat, BitVec.reduceBEq, reduceIte, hw]
  try rfl

theorem Encodes.vrcp (d : VReg) (b : VReg) (mk : BitVec 4) (t : BitVec 2) : Encodes.Statement (.vrcp d b mk t) := by
  rintro hw h t ⟨⟩
  have hw : (!(t != 0#2) && mkOk mk) = true := hw
  simp only [Bool.and_eq_true, Bool.not_eq_true'] at hw
  refine ⟨?_, by simp (disch := omega) only [field_low, field_high]; rfl, by simp (disch := omega) only [field_low, field_high]; decide⟩
  rw [decodeHT_27 _ _ (by simp (disch := omega) only [field_low, field_high]; rfl)]
  simp (disch := omega) only [decMajor27, dec_vrcp, checked, field_low, field_high, field_all, Nat.reduceSub, BitVec.reduceExtractLsb', BitVec.reduceToNat, BitVec.ofNat_eq_ofNat, BitVec.reduceBEq, reduceIte, hw]
  try rfl

theorem Encodes.vrsqrt (d : VReg) (b : VReg) (mk : BitVec 4) (t : BitVec 2) : Encodes.Statement (.vrsqrt d b mk t) := by
  rintro hw h t ⟨⟩
  have hw : (!(t != 0#2) && mkOk mk) = true := hw
  simp only [Bool.and_eq_true, Bool.not_eq_true'] at hw
  refine ⟨?_, by simp (disch := omega) only [field_low, field_high]; rfl, by simp (disch := omega) only [field_low, field_high]; decide⟩
  rw [decodeHT_27 _ _ (by simp (disch := omega) only [field_low, field_high]; rfl)]
  simp (disch := omega) only [decMajor27, dec_vrsqrt, checked, field_low, field_high, field_all, Nat.reduceSub, BitVec.reduceExtractLsb', BitVec.reduceToNat, BitVec.ofNat_eq_ofNat, BitVec.reduceBEq, reduceIte, hw]
  try rfl

theorem Encodes.vtanh (d : VReg) (b : VReg) (mk : BitVec 4) (t : BitVec 2) : Encodes.Statement (.vtanh d b mk t) := by
  rintro hw h t ⟨⟩
  have hw : (!(t != 0#2) && mkOk mk) = true := hw
  simp only [Bool.and_eq_true, Bool.not_eq_true'] at hw
  refine ⟨?_, by simp (disch := omega) only [field_low, field_high]; rfl, by simp (disch := omega) only [field_low, field_high]; decide⟩
  rw [decodeHT_27 _ _ (by simp (disch := omega) only [field_low, field_high]; rfl)]
  simp (disch := omega) only [decMajor27, dec_vtanh, checked, field_low, field_high, field_all, Nat.reduceSub, BitVec.reduceExtractLsb', BitVec.reduceToNat, BitVec.ofNat_eq_ofNat, BitVec.reduceBEq, reduceIte, hw]
  try rfl

theorem Encodes.vsig (d : VReg) (b : VReg) (mk : BitVec 4) (t : BitVec 2) : Encodes.Statement (.vsig d b mk t) := by
  rintro hw h t ⟨⟩
  have hw : (!(t != 0#2) && mkOk mk) = true := hw
  simp only [Bool.and_eq_true, Bool.not_eq_true'] at hw
  refine ⟨?_, by simp (disch := omega) only [field_low, field_high]; rfl, by simp (disch := omega) only [field_low, field_high]; decide⟩
  rw [decodeHT_27 _ _ (by simp (disch := omega) only [field_low, field_high]; rfl)]
  simp (disch := omega) only [decMajor27, dec_vsig, checked, field_low, field_high, field_all, Nat.reduceSub, BitVec.reduceExtractLsb', BitVec.reduceToNat, BitVec.ofNat_eq_ofNat, BitVec.reduceBEq, reduceIte, hw]
  try rfl

theorem Encodes.vexp (d : VReg) (b : VReg) (mk : BitVec 4) (t : BitVec 2) : Encodes.Statement (.vexp d b mk t) := by
  rintro hw h t ⟨⟩
  have hw : (!(t != 0#2) && mkOk mk) = true := hw
  simp only [Bool.and_eq_true, Bool.not_eq_true'] at hw
  refine ⟨?_, by simp (disch := omega) only [field_low, field_high]; rfl, by simp (disch := omega) only [field_low, field_high]; decide⟩
  rw [decodeHT_27 _ _ (by simp (disch := omega) only [field_low, field_high]; rfl)]
  simp (disch := omega) only [decMajor27, dec_vexp, checked, field_low, field_high, field_all, Nat.reduceSub, BitVec.reduceExtractLsb', BitVec.reduceToNat, BitVec.ofNat_eq_ofNat, BitVec.reduceBEq, reduceIte, hw]
  try rfl

theorem Encodes.vexp2W (d : VReg) (b : VReg) (mk : BitVec 4) (t : BitVec 2) (rm : BitVec 3) : Encodes.Statement (.vexp2W d b mk t rm) := by
  rintro hw h t ⟨⟩
  have hw : (!(t != 0#2 || !rmPlain rm) && mkOk mk) = true := hw
  simp only [Bool.and_eq_true, Bool.not_eq_true'] at hw
  refine ⟨?_, by simp (disch := omega) only [field_low, field_high]; rfl, by simp (disch := omega) only [field_low, field_high]; decide⟩
  rw [decodeHT_27 _ _ (by simp (disch := omega) only [field_low, field_high]; rfl)]
  simp (disch := omega) only [decMajor27, dec_vexp2W, checked, field_low, field_high, field_all, Nat.reduceSub, BitVec.reduceExtractLsb', BitVec.reduceToNat, BitVec.ofNat_eq_ofNat, BitVec.reduceBEq, reduceIte, hw]
  try rfl

theorem Encodes.vlog2W (d : VReg) (b : VReg) (mk : BitVec 4) (t : BitVec 2) (rm : BitVec 3) : Encodes.Statement (.vlog2W d b mk t rm) := by
  rintro hw h t ⟨⟩
  have hw : (!(t != 0#2 || !rmPlain rm) && mkOk mk) = true := hw
  simp only [Bool.and_eq_true, Bool.not_eq_true'] at hw
  refine ⟨?_, by simp (disch := omega) only [field_low, field_high]; rfl, by simp (disch := omega) only [field_low, field_high]; decide⟩
  rw [decodeHT_27 _ _ (by simp (disch := omega) only [field_low, field_high]; rfl)]
  simp (disch := omega) only [decMajor27, dec_vlog2W, checked, field_low, field_high, field_all, Nat.reduceSub, BitVec.reduceExtractLsb', BitVec.reduceToNat, BitVec.ofNat_eq_ofNat, BitVec.reduceBEq, reduceIte, hw]
  try rfl

theorem Encodes.vrcpW (d : VReg) (b : VReg) (mk : BitVec 4) (t : BitVec 2) (rm : BitVec 3) : Encodes.Statement (.vrcpW d b mk t rm) := by
  rintro hw h t ⟨⟩
  have hw : (!(t != 0#2 || !rmPlain rm) && mkOk mk) = true := hw
  simp only [Bool.and_eq_true, Bool.not_eq_true'] at hw
  refine ⟨?_, by simp (disch := omega) only [field_low, field_high]; rfl, by simp (disch := omega) only [field_low, field_high]; decide⟩
  rw [decodeHT_27 _ _ (by simp (disch := omega) only [field_low, field_high]; rfl)]
  simp (disch := omega) only [decMajor27, dec_vrcpW, checked, field_low, field_high, field_all, Nat.reduceSub, BitVec.reduceExtractLsb', BitVec.reduceToNat, BitVec.ofNat_eq_ofNat, BitVec.reduceBEq, reduceIte, hw]
  try rfl

theorem Encodes.vrsqrtW (d : VReg) (b : VReg) (mk : BitVec 4) (t : BitVec 2) (rm : BitVec 3) : Encodes.Statement (.vrsqrtW d b mk t rm) := by
  rintro hw h t ⟨⟩
  have hw : (!(t != 0#2 || !rmPlain rm) && mkOk mk) = true := hw
  simp only [Bool.and_eq_true, Bool.not_eq_true'] at hw
  refine ⟨?_, by simp (disch := omega) only [field_low, field_high]; rfl, by simp (disch := omega) only [field_low, field_high]; decide⟩
  rw [decodeHT_27 _ _ (by simp (disch := omega) only [field_low, field_high]; rfl)]
  simp (disch := omega) only [decMajor27, dec_vrsqrtW, checked, field_low, field_high, field_all, Nat.reduceSub, BitVec.reduceExtractLsb', BitVec.reduceToNat, BitVec.ofNat_eq_ofNat, BitVec.reduceBEq, reduceIte, hw]
  try rfl

theorem Encodes.vtanhW (d : VReg) (b : VReg) (mk : BitVec 4) (t : BitVec 2) (rm : BitVec 3) : Encodes.Statement (.vtanhW d b mk t rm) := by
  rintro hw h t ⟨⟩
  have hw : (!(t != 0#2 || rm != 7#3) && mkOk mk) = true := hw
  simp only [Bool.and_eq_true, Bool.not_eq_true'] at hw
  refine ⟨?_, by simp (disch := omega) only [field_low, field_high]; rfl, by simp (disch := omega) only [field_low, field_high]; decide⟩
  rw [decodeHT_27 _ _ (by simp (disch := omega) only [field_low, field_high]; rfl)]
  simp (disch := omega) only [decMajor27, dec_vtanhW, checked, field_low, field_high, field_all, Nat.reduceSub, BitVec.reduceExtractLsb', BitVec.reduceToNat, BitVec.ofNat_eq_ofNat, BitVec.reduceBEq, reduceIte, hw]
  try rfl

theorem Encodes.vsigW (d : VReg) (b : VReg) (mk : BitVec 4) (t : BitVec 2) (rm : BitVec 3) : Encodes.Statement (.vsigW d b mk t rm) := by
  rintro hw h t ⟨⟩
  have hw : (!(t != 0#2 || rm != 7#3) && mkOk mk) = true := hw
  simp only [Bool.and_eq_true, Bool.not_eq_true'] at hw
  refine ⟨?_, by simp (disch := omega) only [field_low, field_high]; rfl, by simp (disch := omega) only [field_low, field_high]; decide⟩
  rw [decodeHT_27 _ _ (by simp (disch := omega) only [field_low, field_high]; rfl)]
  simp (disch := omega) only [decMajor27, dec_vsigW, checked, field_low, field_high, field_all, Nat.reduceSub, BitVec.reduceExtractLsb', BitVec.reduceToNat, BitVec.ofNat_eq_ofNat, BitVec.reduceBEq, reduceIte, hw]
  try rfl

theorem Encodes.vexpW (d : VReg) (b : VReg) (mk : BitVec 4) (t : BitVec 2) (rm : BitVec 3) : Encodes.Statement (.vexpW d b mk t rm) := by
  rintro hw h t ⟨⟩
  have hw : (!(t != 0#2 || rm != 7#3) && mkOk mk) = true := hw
  simp only [Bool.and_eq_true, Bool.not_eq_true'] at hw
  refine ⟨?_, by simp (disch := omega) only [field_low, field_high]; rfl, by simp (disch := omega) only [field_low, field_high]; decide⟩
  rw [decodeHT_27 _ _ (by simp (disch := omega) only [field_low, field_high]; rfl)]
  simp (disch := omega) only [decMajor27, dec_vexpW, checked, field_low, field_high, field_all, Nat.reduceSub, BitVec.reduceExtractLsb', BitVec.reduceToNat, BitVec.ofNat_eq_ofNat, BitVec.reduceBEq, reduceIte, hw]
  try rfl

theorem Encodes.modeM : Encodes.Statement (.modeM) := by
  rintro hw h t ⟨⟩
  refine ⟨?_, by simp (disch := omega) only [field_low, field_high]; rfl, by simp (disch := omega) only [field_low, field_high]; decide⟩
  rw [decodeHT_28 _ _ (by simp (disch := omega) only [field_low, field_high]; rfl)]
  simp (disch := omega) only [decMajor28, dec_modeM, checked, field_low, field_high, field_all, Nat.reduceSub, BitVec.reduceExtractLsb', BitVec.reduceToNat, BitVec.ofNat_eq_ofNat, BitVec.reduceBEq, reduceIte]
  try rfl

theorem Encodes.modeV : Encodes.Statement (.modeV) := by
  rintro hw h t ⟨⟩
  refine ⟨?_, by simp (disch := omega) only [field_low, field_high]; rfl, by simp (disch := omega) only [field_low, field_high]; decide⟩
  rw [decodeHT_28 _ _ (by simp (disch := omega) only [field_low, field_high]; rfl)]
  simp (disch := omega) only [decMajor28, dec_modeV, checked, field_low, field_high, field_all, Nat.reduceSub, BitVec.reduceExtractLsb', BitVec.reduceToNat, BitVec.ofNat_eq_ofNat, BitVec.reduceBEq, reduceIte]
  try rfl

theorem Encodes.mzero : Encodes.Statement (.mzero) := by
  rintro hw h t ⟨⟩
  refine ⟨?_, by simp (disch := omega) only [field_low, field_high]; rfl, by simp (disch := omega) only [field_low, field_high]; decide⟩
  rw [decodeHT_28 _ _ (by simp (disch := omega) only [field_low, field_high]; rfl)]
  simp (disch := omega) only [decMajor28, dec_mzero, checked, field_low, field_high, field_all, Nat.reduceSub, BitVec.reduceExtractLsb', BitVec.reduceToNat, BitVec.ofNat_eq_ofNat, BitVec.reduceBEq, reduceIte]
  try rfl

theorem Encodes.mrnsoutRes30 (n : BitVec 5) : Encodes.Statement (.mrnsoutRes30 n) := by
  rintro hw h t ⟨⟩
  refine ⟨?_, by simp (disch := omega) only [field_low, field_high]; rfl, by simp (disch := omega) only [field_low, field_high]; decide⟩
  rw [decodeHT_28 _ _ (by simp (disch := omega) only [field_low, field_high]; rfl)]
  simp (disch := omega) only [decMajor28, dec_mrnsoutRes30, checked, field_low, field_high, field_all, Nat.reduceSub, BitVec.reduceExtractLsb', BitVec.reduceToNat, BitVec.ofNat_eq_ofNat, BitVec.reduceBEq, reduceIte]
  try rfl

theorem Encodes.mrnsoutRes15 (n : BitVec 5) : Encodes.Statement (.mrnsoutRes15 n) := by
  rintro hw h t ⟨⟩
  refine ⟨?_, by simp (disch := omega) only [field_low, field_high]; rfl, by simp (disch := omega) only [field_low, field_high]; decide⟩
  rw [decodeHT_28 _ _ (by simp (disch := omega) only [field_low, field_high]; rfl)]
  simp (disch := omega) only [decMajor28, dec_mrnsoutRes15, checked, field_low, field_high, field_all, Nat.reduceSub, BitVec.reduceExtractLsb', BitVec.reduceToNat, BitVec.ofNat_eq_ofNat, BitVec.reduceBEq, reduceIte]
  try rfl

theorem Encodes.mma (k : SReg) (b : SReg) (c : SReg) (za : BitVec 1) : Encodes.Statement (.mma k b c za) := by
  rintro hw h t ⟨⟩
  refine ⟨?_, by simp (disch := omega) only [field_low, field_high]; rfl, by simp (disch := omega) only [field_low, field_high]; decide⟩
  rw [decodeHT_29 _ _ (by simp (disch := omega) only [field_low, field_high]; rfl)]
  simp (disch := omega) only [decMajor29, dec_mma, checked, field_low, field_high, field_all, Nat.reduceSub, BitVec.reduceExtractLsb', BitVec.reduceToNat, BitVec.ofNat_eq_ofNat, BitVec.reduceBEq, reduceIte]
  try rfl

theorem Encodes.mmas (k : SReg) (b : SReg) (c : SReg) (za : BitVec 1) : Encodes.Statement (.mmas k b c za) := by
  rintro hw h t ⟨⟩
  refine ⟨?_, by simp (disch := omega) only [field_low, field_high]; rfl, by simp (disch := omega) only [field_low, field_high]; decide⟩
  rw [decodeHT_29 _ _ (by simp (disch := omega) only [field_low, field_high]; rfl)]
  simp (disch := omega) only [decMajor29, dec_mmas, checked, field_low, field_high, field_all, Nat.reduceSub, BitVec.reduceExtractLsb', BitVec.reduceToNat, BitVec.ofNat_eq_ofNat, BitVec.reduceBEq, reduceIte]
  try rfl

theorem Encodes.mmaW (k : SReg) (b : SReg) (c : SReg) (za : BitVec 1) (fa : BitVec 4) (fb : BitVec 4) : Encodes.Statement (.mmaW k b c za fa fb) := by
  rintro hw h t ⟨⟩
  refine ⟨?_, by simp (disch := omega) only [field_low, field_high]; rfl, by simp (disch := omega) only [field_low, field_high]; decide⟩
  rw [decodeHT_29 _ _ (by simp (disch := omega) only [field_low, field_high]; rfl)]
  simp (disch := omega) only [decMajor29, dec_mmaW, checked, field_low, field_high, field_all, Nat.reduceSub, BitVec.reduceExtractLsb', BitVec.reduceToNat, BitVec.ofNat_eq_ofNat, BitVec.reduceBEq, reduceIte]
  try rfl

theorem Encodes.mmasW (k : SReg) (b : SReg) (c : SReg) (za : BitVec 1) (fa : BitVec 4) (fb : BitVec 4) : Encodes.Statement (.mmasW k b c za fa fb) := by
  rintro hw h t ⟨⟩
  refine ⟨?_, by simp (disch := omega) only [field_low, field_high]; rfl, by simp (disch := omega) only [field_low, field_high]; decide⟩
  rw [decodeHT_29 _ _ (by simp (disch := omega) only [field_low, field_high]; rfl)]
  simp (disch := omega) only [decMajor29, dec_mmasW, checked, field_low, field_high, field_all, Nat.reduceSub, BitVec.reduceExtractLsb', BitVec.reduceToNat, BitVec.ofNat_eq_ofNat, BitVec.reduceBEq, reduceIte]
  try rfl

theorem Encodes.sclfeed (b : SReg) (c : SReg) : Encodes.Statement (.sclfeed b c) := by
  rintro hw h t ⟨⟩
  refine ⟨?_, by simp (disch := omega) only [field_low, field_high]; rfl, by simp (disch := omega) only [field_low, field_high]; decide⟩
  rw [decodeHT_2A _ _ (by simp (disch := omega) only [field_low, field_high]; rfl)]
  simp (disch := omega) only [decMajor2A, dec_sclfeed, checked, field_low, field_high, field_all, Nat.reduceSub, BitVec.reduceExtractLsb', BitVec.reduceToNat, BitVec.ofNat_eq_ofNat, BitVec.reduceBEq, reduceIte]
  try rfl

theorem Encodes.mplane (a : SReg) (b : SReg) (c : SReg) (sh : BitVec 1) : Encodes.Statement (.mplane a b c sh) := by
  rintro hw h t ⟨⟩
  refine ⟨?_, by simp (disch := omega) only [field_low, field_high]; rfl, by simp (disch := omega) only [field_low, field_high]; decide⟩
  rw [decodeHT_2A _ _ (by simp (disch := omega) only [field_low, field_high]; rfl)]
  simp (disch := omega) only [decMajor2A, dec_mplane, checked, field_low, field_high, field_all, Nat.reduceSub, BitVec.reduceExtractLsb', BitVec.reduceToNat, BitVec.ofNat_eq_ofNat, BitVec.reduceBEq, reduceIte]
  try rfl

theorem Encodes.munpl (a : SReg) (b : SReg) (c : SReg) (sh : BitVec 1) : Encodes.Statement (.munpl a b c sh) := by
  rintro hw h t ⟨⟩
  refine ⟨?_, by simp (disch := omega) only [field_low, field_high]; rfl, by simp (disch := omega) only [field_low, field_high]; decide⟩
  rw [decodeHT_2A _ _ (by simp (disch := omega) only [field_low, field_high]; rfl)]
  simp (disch := omega) only [decMajor2A, dec_munpl, checked, field_low, field_high, field_all, Nat.reduceSub, BitVec.reduceExtractLsb', BitVec.reduceToNat, BitVec.ofNat_eq_ofNat, BitVec.reduceBEq, reduceIte]
  try rfl

theorem Encodes.mrnsin (a : SReg) (b : SReg) (dst : BitVec 1) (fs : BitVec 4) : Encodes.Statement (.mrnsin a b dst fs) := by
  rintro hw h t ⟨⟩
  have hw : (!(!fmtInt fs)) = true := hw
  simp only [Bool.and_eq_true, Bool.not_eq_true'] at hw
  refine ⟨?_, by simp (disch := omega) only [field_low, field_high]; rfl, by simp (disch := omega) only [field_low, field_high]; decide⟩
  rw [decodeHT_2A _ _ (by simp (disch := omega) only [field_low, field_high]; rfl)]
  simp (disch := omega) only [decMajor2A, dec_mrnsin, checked, field_low, field_high, field_all, Nat.reduceSub, BitVec.reduceExtractLsb', BitVec.reduceToNat, BitVec.ofNat_eq_ofNat, BitVec.reduceBEq, reduceIte, hw]
  try rfl

theorem Encodes.mplaneW (a : SReg) (b : SReg) (c : SReg) (n : SReg) (fmt : BitVec 4) : Encodes.Statement (.mplaneW a b c n fmt) := by
  rintro hw h t ⟨⟩
  refine ⟨?_, by simp (disch := omega) only [field_low, field_high]; rfl, by simp (disch := omega) only [field_low, field_high]; decide⟩
  rw [decodeHT_2A _ _ (by simp (disch := omega) only [field_low, field_high]; rfl)]
  simp (disch := omega) only [decMajor2A, dec_mplaneW, checked, field_low, field_high, field_all, Nat.reduceSub, BitVec.reduceExtractLsb', BitVec.reduceToNat, BitVec.ofNat_eq_ofNat, BitVec.reduceBEq, reduceIte]
  try rfl

theorem Encodes.munplW (a : SReg) (b : SReg) (c : SReg) (n : SReg) (fmt : BitVec 4) : Encodes.Statement (.munplW a b c n fmt) := by
  rintro hw h t ⟨⟩
  refine ⟨?_, by simp (disch := omega) only [field_low, field_high]; rfl, by simp (disch := omega) only [field_low, field_high]; decide⟩
  rw [decodeHT_2A _ _ (by simp (disch := omega) only [field_low, field_high]; rfl)]
  simp (disch := omega) only [decMajor2A, dec_munplW, checked, field_low, field_high, field_all, Nat.reduceSub, BitVec.reduceExtractLsb', BitVec.reduceToNat, BitVec.ofNat_eq_ofNat, BitVec.reduceBEq, reduceIte]
  try rfl

theorem Encodes.mrnsinW (a : SReg) (b : SReg) (n : SReg) (dst : BitVec 1) (fs : BitVec 4) : Encodes.Statement (.mrnsinW a b n dst fs) := by
  rintro hw h t ⟨⟩
  have hw : (!(!fmtInt fs)) = true := hw
  simp only [Bool.and_eq_true, Bool.not_eq_true'] at hw
  refine ⟨?_, by simp (disch := omega) only [field_low, field_high]; rfl, by simp (disch := omega) only [field_low, field_high]; decide⟩
  rw [decodeHT_2A _ _ (by simp (disch := omega) only [field_low, field_high]; rfl)]
  simp (disch := omega) only [decMajor2A, dec_mrnsinW, checked, field_low, field_high, field_all, Nat.reduceSub, BitVec.reduceExtractLsb', BitVec.reduceToNat, BitVec.ofNat_eq_ofNat, BitVec.reduceBEq, reduceIte, hw]
  try rfl

theorem Encodes.dld (d : DReg) (b : SReg) : Encodes.Statement (.dld d b) := by
  rintro hw h t ⟨⟩
  refine ⟨?_, by simp (disch := omega) only [field_low, field_high]; rfl, by simp (disch := omega) only [field_low, field_high]; decide⟩
  rw [decodeHT_2B _ _ (by simp (disch := omega) only [field_low, field_high]; rfl)]
  simp (disch := omega) only [decMajor2B, dec_dld, checked, field_low, field_high, field_all, Nat.reduceSub, BitVec.reduceExtractLsb', BitVec.reduceToNat, BitVec.ofNat_eq_ofNat, BitVec.reduceBEq, reduceIte]
  try rfl

theorem Encodes.dsv (d : DReg) (b : SReg) : Encodes.Statement (.dsv d b) := by
  rintro hw h t ⟨⟩
  refine ⟨?_, by simp (disch := omega) only [field_low, field_high]; rfl, by simp (disch := omega) only [field_low, field_high]; decide⟩
  rw [decodeHT_2B _ _ (by simp (disch := omega) only [field_low, field_high]; rfl)]
  simp (disch := omega) only [decMajor2B, dec_dsv, checked, field_low, field_high, field_all, Nat.reduceSub, BitVec.reduceExtractLsb', BitVec.reduceToNat, BitVec.ofNat_eq_ofNat, BitVec.reduceBEq, reduceIte]
  try rfl

theorem Encodes.dput (d : DReg) (c : SReg) (w : BitVec 2) : Encodes.Statement (.dput d c w) := by
  rintro hw h t ⟨⟩
  refine ⟨?_, by simp (disch := omega) only [field_low, field_high]; rfl, by simp (disch := omega) only [field_low, field_high]; decide⟩
  rw [decodeHT_2B _ _ (by simp (disch := omega) only [field_low, field_high]; rfl)]
  simp (disch := omega) only [decMajor2B, dec_dput, checked, field_low, field_high, field_all, Nat.reduceSub, BitVec.reduceExtractLsb', BitVec.reduceToNat, BitVec.ofNat_eq_ofNat, BitVec.reduceBEq, reduceIte]
  try rfl

theorem Encodes.dget (d : SReg) (b : DReg) (w : BitVec 2) : Encodes.Statement (.dget d b w) := by
  rintro hw h t ⟨⟩
  refine ⟨?_, by simp (disch := omega) only [field_low, field_high]; rfl, by simp (disch := omega) only [field_low, field_high]; decide⟩
  rw [decodeHT_2B _ _ (by simp (disch := omega) only [field_low, field_high]; rfl)]
  simp (disch := omega) only [decMajor2B, dec_dget, checked, field_low, field_high, field_all, Nat.reduceSub, BitVec.reduceExtractLsb', BitVec.reduceToNat, BitVec.ofNat_eq_ofNat, BitVec.reduceBEq, reduceIte]
  try rfl

theorem Encodes.dins (d : DReg) (c : SReg) (w : BitVec 2) (pos : BitVec 6) (lenM1 : BitVec 6) : Encodes.Statement (.dins d c w pos lenM1) := by
  rintro hw h t ⟨⟩
  have hw : (!(decide (64 < pos.toNat + lenM1.toNat + 1))) = true := hw
  simp only [Bool.and_eq_true, Bool.not_eq_true'] at hw
  refine ⟨?_, by simp (disch := omega) only [field_low, field_high]; rfl, by simp (disch := omega) only [field_low, field_high]; decide⟩
  rw [decodeHT_2B _ _ (by simp (disch := omega) only [field_low, field_high]; rfl)]
  simp (disch := omega) only [decMajor2B, dec_dins, checked, field_low, field_high, field_all, Nat.reduceSub, BitVec.reduceExtractLsb', BitVec.reduceToNat, BitVec.ofNat_eq_ofNat, BitVec.reduceBEq, reduceIte, hw]
  try rfl

theorem Encodes.dinit (d : DReg) (b : SReg) (c : SReg) (tr : BitVec 1) (ro : BitVec 16) (co : BitVec 16) : Encodes.Statement (.dinit d b c tr ro co) := by
  rintro hw h t ⟨⟩
  refine ⟨?_, by simp (disch := omega) only [field_low, field_high]; rfl, by simp (disch := omega) only [field_low, field_high]; decide⟩
  rw [decodeHT_2B _ _ (by simp (disch := omega) only [field_low, field_high]; rfl)]
  simp (disch := omega) only [decMajor2B, dec_dinit, checked, field_low, field_high, field_all, Nat.reduceSub, BitVec.reduceExtractLsb', BitVec.reduceToNat, BitVec.ofNat_eq_ofNat, BitVec.reduceBEq, reduceIte]
  try rfl

theorem Encodes.tmul (d : DReg) (b : DReg) (c : DReg) (acc : BitVec 1) (kM1 : BitVec 11) : Encodes.Statement (.tmul d b c acc kM1) := by
  rintro hw h t ⟨⟩
  have hw : (!(kM1 == 2047#11)) = true := hw
  simp only [Bool.and_eq_true, Bool.not_eq_true'] at hw
  refine ⟨?_, by simp (disch := omega) only [field_low, field_high]; rfl, by simp (disch := omega) only [field_low, field_high]; decide⟩
  rw [decodeHT_2C _ _ (by simp (disch := omega) only [field_low, field_high]; rfl)]
  simp (disch := omega) only [decMajor2C, dec_tmul, checked, field_low, field_high, field_all, Nat.reduceSub, BitVec.reduceExtractLsb', BitVec.reduceToNat, BitVec.ofNat_eq_ofNat, BitVec.reduceBEq, reduceIte, hw]
  try rfl

theorem Encodes.tadd (d : DReg) (b : DReg) (c : DReg) : Encodes.Statement (.tadd d b c) := by
  rintro hw h t ⟨⟩
  refine ⟨?_, by simp (disch := omega) only [field_low, field_high]; rfl, by simp (disch := omega) only [field_low, field_high]; decide⟩
  rw [decodeHT_2C _ _ (by simp (disch := omega) only [field_low, field_high]; rfl)]
  simp (disch := omega) only [decMajor2C, dec_tadd, checked, field_low, field_high, field_all, Nat.reduceSub, BitVec.reduceExtractLsb', BitVec.reduceToNat, BitVec.ofNat_eq_ofNat, BitVec.reduceBEq, reduceIte]
  try rfl

theorem Encodes.tsub (d : DReg) (b : DReg) (c : DReg) : Encodes.Statement (.tsub d b c) := by
  rintro hw h t ⟨⟩
  refine ⟨?_, by simp (disch := omega) only [field_low, field_high]; rfl, by simp (disch := omega) only [field_low, field_high]; decide⟩
  rw [decodeHT_2C _ _ (by simp (disch := omega) only [field_low, field_high]; rfl)]
  simp (disch := omega) only [decMajor2C, dec_tsub, checked, field_low, field_high, field_all, Nat.reduceSub, BitVec.reduceExtractLsb', BitVec.reduceToNat, BitVec.ofNat_eq_ofNat, BitVec.reduceBEq, reduceIte]
  try rfl

theorem Encodes.tmax (d : DReg) (b : DReg) (c : DReg) : Encodes.Statement (.tmax d b c) := by
  rintro hw h t ⟨⟩
  refine ⟨?_, by simp (disch := omega) only [field_low, field_high]; rfl, by simp (disch := omega) only [field_low, field_high]; decide⟩
  rw [decodeHT_2C _ _ (by simp (disch := omega) only [field_low, field_high]; rfl)]
  simp (disch := omega) only [decMajor2C, dec_tmax, checked, field_low, field_high, field_all, Nat.reduceSub, BitVec.reduceExtractLsb', BitVec.reduceToNat, BitVec.ofNat_eq_ofNat, BitVec.reduceBEq, reduceIte]
  try rfl

theorem Encodes.tcvt (d : DReg) (b : DReg) (sat : BitVec 1) (rm : BitVec 3) : Encodes.Statement (.tcvt d b sat rm) := by
  rintro hw h t ⟨⟩
  have hw : (!(!rmPlain rm)) = true := hw
  simp only [Bool.and_eq_true, Bool.not_eq_true'] at hw
  refine ⟨?_, by simp (disch := omega) only [field_low, field_high]; rfl, by simp (disch := omega) only [field_low, field_high]; decide⟩
  rw [decodeHT_2C _ _ (by simp (disch := omega) only [field_low, field_high]; rfl)]
  simp (disch := omega) only [decMajor2C, dec_tcvt, checked, field_low, field_high, field_all, Nat.reduceSub, BitVec.reduceExtractLsb', BitVec.reduceToNat, BitVec.ofNat_eq_ofNat, BitVec.reduceBEq, reduceIte, hw]
  try rfl

theorem Encodes.tred (d : DReg) (b : DReg) (op : BitVec 1) : Encodes.Statement (.tred d b op) := by
  rintro hw h t ⟨⟩
  refine ⟨?_, by simp (disch := omega) only [field_low, field_high]; rfl, by simp (disch := omega) only [field_low, field_high]; decide⟩
  rw [decodeHT_2C _ _ (by simp (disch := omega) only [field_low, field_high]; rfl)]
  simp (disch := omega) only [decMajor2C, dec_tred, checked, field_low, field_high, field_all, Nat.reduceSub, BitVec.reduceExtractLsb', BitVec.reduceToNat, BitVec.ofNat_eq_ofNat, BitVec.reduceBEq, reduceIte]
  try rfl

theorem Encodes.taddW (d : DReg) (b : DReg) (c : DReg) (rm : BitVec 3) : Encodes.Statement (.taddW d b c rm) := by
  rintro hw h t ⟨⟩
  have hw : (!(!rmPlain rm)) = true := hw
  simp only [Bool.and_eq_true, Bool.not_eq_true'] at hw
  refine ⟨?_, by simp (disch := omega) only [field_low, field_high]; rfl, by simp (disch := omega) only [field_low, field_high]; decide⟩
  rw [decodeHT_2C _ _ (by simp (disch := omega) only [field_low, field_high]; rfl)]
  simp (disch := omega) only [decMajor2C, dec_taddW, checked, field_low, field_high, field_all, Nat.reduceSub, BitVec.reduceExtractLsb', BitVec.reduceToNat, BitVec.ofNat_eq_ofNat, BitVec.reduceBEq, reduceIte, hw]
  try rfl

theorem Encodes.tsubW (d : DReg) (b : DReg) (c : DReg) (rm : BitVec 3) : Encodes.Statement (.tsubW d b c rm) := by
  rintro hw h t ⟨⟩
  have hw : (!(!rmPlain rm)) = true := hw
  simp only [Bool.and_eq_true, Bool.not_eq_true'] at hw
  refine ⟨?_, by simp (disch := omega) only [field_low, field_high]; rfl, by simp (disch := omega) only [field_low, field_high]; decide⟩
  rw [decodeHT_2C _ _ (by simp (disch := omega) only [field_low, field_high]; rfl)]
  simp (disch := omega) only [decMajor2C, dec_tsubW, checked, field_low, field_high, field_all, Nat.reduceSub, BitVec.reduceExtractLsb', BitVec.reduceToNat, BitVec.ofNat_eq_ofNat, BitVec.reduceBEq, reduceIte, hw]
  try rfl

theorem Encodes.tmaxW (d : DReg) (b : DReg) (c : DReg) (rm : BitVec 3) : Encodes.Statement (.tmaxW d b c rm) := by
  rintro hw h t ⟨⟩
  have hw : (!(!rmPlain rm) && !(rm != 0#3)) = true := hw
  simp only [Bool.and_eq_true, Bool.not_eq_true'] at hw
  refine ⟨?_, by simp (disch := omega) only [field_low, field_high]; rfl, by simp (disch := omega) only [field_low, field_high]; decide⟩
  rw [decodeHT_2C _ _ (by simp (disch := omega) only [field_low, field_high]; rfl)]
  simp (disch := omega) only [decMajor2C, dec_tmaxW, checked, field_low, field_high, field_all, Nat.reduceSub, BitVec.reduceExtractLsb', BitVec.reduceToNat, BitVec.ofNat_eq_ofNat, BitVec.reduceBEq, reduceIte, hw]
  try rfl

theorem Encodes.tmap (d : DReg) (b : DReg) (c : SReg) (e : SReg) (fn : BitVec 2) (rm : BitVec 3) : Encodes.Statement (.tmap d b c e fn rm) := by
  rintro hw h t ⟨⟩
  have hw : (!(fn == 3#2 || !rmPlain rm)) = true := hw
  simp only [Bool.and_eq_true, Bool.not_eq_true'] at hw
  refine ⟨?_, by simp (disch := omega) only [field_low, field_high]; rfl, by simp (disch := omega) only [field_low, field_high]; decide⟩
  rw [decodeHT_2C _ _ (by simp (disch := omega) only [field_low, field_high]; rfl)]
  simp (disch := omega) only [decMajor2C, dec_tmap, checked, field_low, field_high, field_all, Nat.reduceSub, BitVec.reduceExtractLsb', BitVec.reduceToNat, BitVec.ofNat_eq_ofNat, BitVec.reduceBEq, reduceIte, hw]
  try rfl

theorem Encodes.force : Encodes.Statement (.force) := by
  rintro hw h t ⟨⟩
  refine ⟨?_, by simp (disch := omega) only [field_low, field_high]; rfl, by simp (disch := omega) only [field_low, field_high]; decide⟩
  rw [decodeHT_2D _ _ (by simp (disch := omega) only [field_low, field_high]; rfl)]
  simp (disch := omega) only [decMajor2D, dec_force, checked, field_low, field_high, field_all, Nat.reduceSub, BitVec.reduceExtractLsb', BitVec.reduceToNat, BitVec.ofNat_eq_ofNat, BitVec.reduceBEq, reduceIte]
  try rfl

theorem Encodes.forceM (b : DReg) : Encodes.Statement (.forceM b) := by
  rintro hw h t ⟨⟩
  refine ⟨?_, by simp (disch := omega) only [field_low, field_high]; rfl, by simp (disch := omega) only [field_low, field_high]; decide⟩
  rw [decodeHT_2D _ _ (by simp (disch := omega) only [field_low, field_high]; rfl)]
  simp (disch := omega) only [decMajor2D, dec_forceM, checked, field_low, field_high, field_all, Nat.reduceSub, BitVec.reduceExtractLsb', BitVec.reduceToNat, BitVec.ofNat_eq_ofNat, BitVec.reduceBEq, reduceIte]
  try rfl

theorem Encodes.forceW (b : DReg) (rb : BitVec 8) (nbM1 : BitVec 8) : Encodes.Statement (.forceW b rb nbM1) := by
  rintro hw h t ⟨⟩
  refine ⟨?_, by simp (disch := omega) only [field_low, field_high]; rfl, by simp (disch := omega) only [field_low, field_high]; decide⟩
  rw [decodeHT_2D _ _ (by simp (disch := omega) only [field_low, field_high]; rfl)]
  simp (disch := omega) only [decMajor2D, dec_forceW, checked, field_low, field_high, field_all, Nat.reduceSub, BitVec.reduceExtractLsb', BitVec.reduceToNat, BitVec.ofNat_eq_ofNat, BitVec.reduceBEq, reduceIte]
  try rfl

theorem Encodes.tdrop : Encodes.Statement (.tdrop) := by
  rintro hw h t ⟨⟩
  refine ⟨?_, by simp (disch := omega) only [field_low, field_high]; rfl, by simp (disch := omega) only [field_low, field_high]; decide⟩
  rw [decodeHT_2D _ _ (by simp (disch := omega) only [field_low, field_high]; rfl)]
  simp (disch := omega) only [decMajor2D, dec_tdrop, checked, field_low, field_high, field_all, Nat.reduceSub, BitVec.reduceExtractLsb', BitVec.reduceToNat, BitVec.ofNat_eq_ofNat, BitVec.reduceBEq, reduceIte]
  try rfl

theorem Encodes.tdropM (n : BitVec 3) : Encodes.Statement (.tdropM n) := by
  rintro hw h t ⟨⟩
  refine ⟨?_, by simp (disch := omega) only [field_low, field_high]; rfl, by simp (disch := omega) only [field_low, field_high]; decide⟩
  rw [decodeHT_2D _ _ (by simp (disch := omega) only [field_low, field_high]; rfl)]
  simp (disch := omega) only [decMajor2D, dec_tdropM, checked, field_low, field_high, field_all, Nat.reduceSub, BitVec.reduceExtractLsb', BitVec.reduceToNat, BitVec.ofNat_eq_ofNat, BitVec.reduceBEq, reduceIte]
  try rfl

theorem Encodes.tqry (d : SReg) (n : BitVec 3) : Encodes.Statement (.tqry d n) := by
  rintro hw h t ⟨⟩
  refine ⟨?_, by simp (disch := omega) only [field_low, field_high]; rfl, by simp (disch := omega) only [field_low, field_high]; decide⟩
  rw [decodeHT_2D _ _ (by simp (disch := omega) only [field_low, field_high]; rfl)]
  simp (disch := omega) only [decMajor2D, dec_tqry, checked, field_low, field_high, field_all, Nat.reduceSub, BitVec.reduceExtractLsb', BitVec.reduceToNat, BitVec.ofNat_eq_ofNat, BitVec.reduceBEq, reduceIte]
  try rfl

theorem Encodes.tst (d : DReg) (b : DReg) : Encodes.Statement (.tst d b) := by
  rintro hw h t ⟨⟩
  refine ⟨?_, by simp (disch := omega) only [field_low, field_high]; rfl, by simp (disch := omega) only [field_low, field_high]; decide⟩
  rw [decodeHT_2D _ _ (by simp (disch := omega) only [field_low, field_high]; rfl)]
  simp (disch := omega) only [decMajor2D, dec_tst, checked, field_low, field_high, field_all, Nat.reduceSub, BitVec.reduceExtractLsb', BitVec.reduceToNat, BitVec.ofNat_eq_ofNat, BitVec.reduceBEq, reduceIte]
  try rfl

theorem Encodes.cp (t : SReg) (b : SReg) (c : SReg) (rs : BitVec 1) : Encodes.Statement (.cp t b c rs) := by
  rintro hw h t ⟨⟩
  refine ⟨?_, by simp (disch := omega) only [field_low, field_high]; rfl, by simp (disch := omega) only [field_low, field_high]; decide⟩
  rw [decodeHT_2E _ _ (by simp (disch := omega) only [field_low, field_high]; rfl)]
  simp (disch := omega) only [decMajor2E, dec_cp, checked, field_low, field_high, field_all, Nat.reduceSub, BitVec.reduceExtractLsb', BitVec.reduceToNat, BitVec.ofNat_eq_ofNat, BitVec.reduceBEq, reduceIte]
  try rfl

theorem Encodes.cps (t : SReg) (b : SReg) (c : SReg) (g : SReg) (rs : BitVec 1) (dec : BitVec 16) : Encodes.Statement (.cps t b c g rs dec) := by
  rintro hw h t ⟨⟩
  have hw : (!(dec == 0#16)) = true := hw
  simp only [Bool.and_eq_true, Bool.not_eq_true'] at hw
  refine ⟨?_, by simp (disch := omega) only [field_low, field_high]; rfl, by simp (disch := omega) only [field_low, field_high]; decide⟩
  rw [decodeHT_2E _ _ (by simp (disch := omega) only [field_low, field_high]; rfl)]
  simp (disch := omega) only [decMajor2E, dec_cps, checked, field_low, field_high, field_all, Nat.reduceSub, BitVec.reduceExtractLsb', BitVec.reduceToNat, BitVec.ofNat_eq_ofNat, BitVec.reduceBEq, reduceIte, hw]
  try rfl

theorem Encodes.draw (d : SReg) : Encodes.Statement (.draw d) := by
  rintro hw h t ⟨⟩
  refine ⟨?_, by simp (disch := omega) only [field_low, field_high]; rfl, by simp (disch := omega) only [field_low, field_high]; decide⟩
  rw [decodeHT_30 _ _ (by simp (disch := omega) only [field_low, field_high]; rfl)]
  simp (disch := omega) only [decMajor30, dec_draw, checked, field_low, field_high, field_all, Nat.reduceSub, BitVec.reduceExtractLsb', BitVec.reduceToNat, BitVec.ofNat_eq_ofNat, BitVec.reduceBEq, reduceIte]
  try rfl

theorem Encodes.drawV (d : VReg) : Encodes.Statement (.drawV d) := by
  rintro hw h t ⟨⟩
  refine ⟨?_, by simp (disch := omega) only [field_low, field_high]; rfl, by simp (disch := omega) only [field_low, field_high]; decide⟩
  rw [decodeHT_30 _ _ (by simp (disch := omega) only [field_low, field_high]; rfl)]
  simp (disch := omega) only [decMajor30, dec_drawV, checked, field_low, field_high, field_all, Nat.reduceSub, BitVec.reduceExtractLsb', BitVec.reduceToNat, BitVec.ofNat_eq_ofNat, BitVec.reduceBEq, reduceIte]
  try rfl

theorem Encodes.rngkey (k : SReg) (b : SReg) (c : SReg) : Encodes.Statement (.rngkey k b c) := by
  rintro hw h t ⟨⟩
  refine ⟨?_, by simp (disch := omega) only [field_low, field_high]; rfl, by simp (disch := omega) only [field_low, field_high]; decide⟩
  rw [decodeHT_30 _ _ (by simp (disch := omega) only [field_low, field_high]; rfl)]
  simp (disch := omega) only [decMajor30, dec_rngkey, checked, field_low, field_high, field_all, Nat.reduceSub, BitVec.reduceExtractLsb', BitVec.reduceToNat, BitVec.ofNat_eq_ofNat, BitVec.reduceBEq, reduceIte]
  try rfl

theorem Encodes.rngadv (b : SReg) (c : SReg) : Encodes.Statement (.rngadv b c) := by
  rintro hw h t ⟨⟩
  refine ⟨?_, by simp (disch := omega) only [field_low, field_high]; rfl, by simp (disch := omega) only [field_low, field_high]; decide⟩
  rw [decodeHT_30 _ _ (by simp (disch := omega) only [field_low, field_high]; rfl)]
  simp (disch := omega) only [decMajor30, dec_rngadv, checked, field_low, field_high, field_all, Nat.reduceSub, BitVec.reduceExtractLsb', BitVec.reduceToNat, BitVec.ofNat_eq_ofNat, BitVec.reduceBEq, reduceIte]
  try rfl

theorem Encodes.stamp (k : BitVec 2) : Encodes.Statement (.stamp k) := by
  rintro hw h t ⟨⟩
  refine ⟨?_, by simp (disch := omega) only [field_low, field_high]; rfl, by simp (disch := omega) only [field_low, field_high]; decide⟩
  rw [decodeHT_31 _ _ (by simp (disch := omega) only [field_low, field_high]; rfl)]
  simp (disch := omega) only [decMajor31, dec_stamp, checked, field_low, field_high, field_all, Nat.reduceSub, BitVec.reduceExtractLsb', BitVec.reduceToNat, BitVec.ofNat_eq_ofNat, BitVec.reduceBEq, reduceIte]
  try rfl

theorem Encodes.stampClose : Encodes.Statement (.stampClose) := by
  rintro hw h t ⟨⟩
  refine ⟨?_, by simp (disch := omega) only [field_low, field_high]; rfl, by simp (disch := omega) only [field_low, field_high]; decide⟩
  rw [decodeHT_31 _ _ (by simp (disch := omega) only [field_low, field_high]; rfl)]
  simp (disch := omega) only [decMajor31, dec_stampClose, checked, field_low, field_high, field_all, Nat.reduceSub, BitVec.reduceExtractLsb', BitVec.reduceToNat, BitVec.ofNat_eq_ofNat, BitVec.reduceBEq, reduceIte]
  try rfl

theorem Encodes.stampOpen (b : SReg) : Encodes.Statement (.stampOpen b) := by
  rintro hw h t ⟨⟩
  refine ⟨?_, by simp (disch := omega) only [field_low, field_high]; rfl, by simp (disch := omega) only [field_low, field_high]; decide⟩
  rw [decodeHT_31 _ _ (by simp (disch := omega) only [field_low, field_high]; rfl)]
  simp (disch := omega) only [decMajor31, dec_stampOpen, checked, field_low, field_high, field_all, Nat.reduceSub, BitVec.reduceExtractLsb', BitVec.reduceToNat, BitVec.ofNat_eq_ofNat, BitVec.reduceBEq, reduceIte]
  try rfl

theorem Encodes.trmark (b : SReg) (code : BitVec 6) : Encodes.Statement (.trmark b code) := by
  rintro hw h t ⟨⟩
  refine ⟨?_, by simp (disch := omega) only [field_low, field_high]; rfl, by simp (disch := omega) only [field_low, field_high]; decide⟩
  rw [decodeHT_31 _ _ (by simp (disch := omega) only [field_low, field_high]; rfl)]
  simp (disch := omega) only [decMajor31, dec_trmark, checked, field_low, field_high, field_all, Nat.reduceSub, BitVec.reduceExtractLsb', BitVec.reduceToNat, BitVec.ofNat_eq_ofNat, BitVec.reduceBEq, reduceIte]
  try rfl

theorem Encodes.epreg (d : SReg) (b : SReg) : Encodes.Statement (.epreg d b) := by
  rintro hw h t ⟨⟩
  refine ⟨?_, by simp (disch := omega) only [field_low, field_high]; rfl, by simp (disch := omega) only [field_low, field_high]; decide⟩
  rw [decodeHT_2F _ _ (by simp (disch := omega) only [field_low, field_high]; rfl)]
  simp (disch := omega) only [decMajor2F, dec_epreg, checked, field_low, field_high, field_all, Nat.reduceSub, BitVec.reduceExtractLsb', BitVec.reduceToNat, BitVec.ofNat_eq_ofNat, BitVec.reduceBEq, reduceIte]
  try rfl

theorem Encodes.rpost (k : SReg) (hd : SReg) (r : VReg) : Encodes.Statement (.rpost k hd r) := by
  rintro hw h t ⟨⟩
  refine ⟨?_, by simp (disch := omega) only [field_low, field_high]; rfl, by simp (disch := omega) only [field_low, field_high]; decide⟩
  rw [decodeHT_2F _ _ (by simp (disch := omega) only [field_low, field_high]; rfl)]
  simp (disch := omega) only [decMajor2F, dec_rpost, checked, field_low, field_high, field_all, Nat.reduceSub, BitVec.reduceExtractLsb', BitVec.reduceToNat, BitVec.ofNat_eq_ofNat, BitVec.reduceBEq, reduceIte]
  try rfl

theorem Encodes.rlver (d : SReg) (b : SReg) (c : SReg) (g : BitVec 4) : Encodes.Statement (.rlver d b c g) := by
  rintro hw h t ⟨⟩
  refine ⟨?_, by simp (disch := omega) only [field_low, field_high]; rfl, by simp (disch := omega) only [field_low, field_high]; decide⟩
  rw [decodeHT_2F _ _ (by simp (disch := omega) only [field_low, field_high]; rfl)]
  simp (disch := omega) only [decMajor2F, dec_rlver, checked, field_low, field_high, field_all, Nat.reduceSub, BitVec.reduceExtractLsb', BitVec.reduceToNat, BitVec.ofNat_eq_ofNat, BitVec.reduceBEq, reduceIte]
  try rfl

theorem Encodes.rjqry (d : SReg) (b : SReg) (g : BitVec 4) : Encodes.Statement (.rjqry d b g) := by
  rintro hw h t ⟨⟩
  refine ⟨?_, by simp (disch := omega) only [field_low, field_high]; rfl, by simp (disch := omega) only [field_low, field_high]; decide⟩
  rw [decodeHT_2F _ _ (by simp (disch := omega) only [field_low, field_high]; rfl)]
  simp (disch := omega) only [decMajor2F, dec_rjqry, checked, field_low, field_high, field_all, Nat.reduceSub, BitVec.reduceExtractLsb', BitVec.reduceToNat, BitVec.ofNat_eq_ofNat, BitVec.reduceBEq, reduceIte]
  try rfl

theorem Encodes.tcinv (sc : BitVec 3) : Encodes.Statement (.tcinv sc) := by
  rintro hw h t ⟨⟩
  have hw : (!(!scopeTc sc)) = true := hw
  simp only [Bool.and_eq_true, Bool.not_eq_true'] at hw
  refine ⟨?_, by simp (disch := omega) only [field_low, field_high]; rfl, by simp (disch := omega) only [field_low, field_high]; decide⟩
  rw [decodeHT_32 _ _ (by simp (disch := omega) only [field_low, field_high]; rfl)]
  simp (disch := omega) only [decMajor32, dec_tcinv, checked, field_low, field_high, field_all, Nat.reduceSub, BitVec.reduceExtractLsb', BitVec.reduceToNat, BitVec.ofNat_eq_ofNat, BitVec.reduceBEq, reduceIte, hw]
  try rfl

theorem Encodes.tcinvM (b : SReg) (c : SReg) (sc : BitVec 3) : Encodes.Statement (.tcinvM b c sc) := by
  rintro hw h t ⟨⟩
  have hw : (!(!scopeTc sc)) = true := hw
  simp only [Bool.and_eq_true, Bool.not_eq_true'] at hw
  refine ⟨?_, by simp (disch := omega) only [field_low, field_high]; rfl, by simp (disch := omega) only [field_low, field_high]; decide⟩
  rw [decodeHT_32 _ _ (by simp (disch := omega) only [field_low, field_high]; rfl)]
  simp (disch := omega) only [decMajor32, dec_tcinvM, checked, field_low, field_high, field_all, Nat.reduceSub, BitVec.reduceExtractLsb', BitVec.reduceToNat, BitVec.ofNat_eq_ofNat, BitVec.reduceBEq, reduceIte, hw]
  try rfl

theorem Encodes.sleep (b : SReg) : Encodes.Statement (.sleep b) := by
  rintro hw h t ⟨⟩
  refine ⟨?_, by simp (disch := omega) only [field_low, field_high]; rfl, by simp (disch := omega) only [field_low, field_high]; decide⟩
  rw [decodeHT_32 _ _ (by simp (disch := omega) only [field_low, field_high]; rfl)]
  simp (disch := omega) only [decMajor32, dec_sleep, checked, field_low, field_high, field_all, Nat.reduceSub, BitVec.reduceExtractLsb', BitVec.reduceToNat, BitVec.ofNat_eq_ofNat, BitVec.reduceBEq, reduceIte]
  try rfl

theorem Encodes.gridOperationComplete (core : Nat) : Encodes.Statement (.gridOperationComplete core) := by
  rintro - h t ⟨⟩

theorem Encodes.blockEvaluation (core : Nat) : Encodes.Statement (.blockEvaluation core) := by
  rintro - h t ⟨⟩

theorem Encodes.copyCommandStart (core : Nat) : Encodes.Statement (.copyCommandStart core) := by
  rintro - h t ⟨⟩

theorem Encodes.copyCommandEnd (core : Nat) : Encodes.Statement (.copyCommandEnd core) := by
  rintro - h t ⟨⟩

theorem Encodes.sleepExpiry (core : Nat) (slot : BitVec 3) : Encodes.Statement (.sleepExpiry core slot) := by
  rintro - h t ⟨⟩

theorem Encodes.bankOperation (core : Nat) (slot : BitVec 3) (acc : Nat) : Encodes.Statement (.bankOperation core slot acc) := by
  rintro - h t ⟨⟩

theorem Encodes.waiterReevaluation (w : Nat) : Encodes.Statement (.waiterReevaluation w) := by
  rintro - h t ⟨⟩

theorem Encodes.rdrReissue (core : Nat) (slot : BitVec 3) : Encodes.Statement (.rdrReissue core slot) := by
  rintro - h t ⟨⟩

theorem Encodes.remoteWaitRetry (core : Nat) (slot : BitVec 3) : Encodes.Statement (.remoteWaitRetry core slot) := by
  rintro - h t ⟨⟩

theorem Encodes.tagWaitWatchdog (core : Nat) (agent : BitVec 2) (slot : BitVec 3) : Encodes.Statement (.tagWaitWatchdog core agent slot) := by
  rintro - h t ⟨⟩

theorem Encodes.accessCompletion (core : Nat) (slot : BitVec 3) (acc : Nat) (point : BitVec 3) : Encodes.Statement (.accessCompletion core slot acc point) := by
  rintro - h t ⟨⟩

theorem Encodes.backgroundSpill (core : Nat) (slot : BitVec 3) : Encodes.Statement (.backgroundSpill core slot) := by
  rintro - h t ⟨⟩

theorem Encodes.barrierRoundRelease (sc : BitVec 3) (key : Nat) : Encodes.Statement (.barrierRoundRelease sc key) := by
  rintro - h t ⟨⟩

theorem Encodes.gateCommit (core : Nat) : Encodes.Statement (.gateCommit core) := by
  rintro - h t ⟨⟩

theorem Encodes.ungateStart (core : Nat) : Encodes.Statement (.ungateStart core) := by
  rintro - h t ⟨⟩

theorem Encodes.ungateComplete (core : Nat) : Encodes.Statement (.ungateComplete core) := by
  rintro - h t ⟨⟩

theorem Encodes.lateTrapEntry (core : Nat) (slot : BitVec 3) : Encodes.Statement (.lateTrapEntry core slot) := by
  rintro - h t ⟨⟩

theorem Encodes.preemptNotice (core : Nat) (slot : BitVec 3) : Encodes.Statement (.preemptNotice core slot) := by
  rintro - h t ⟨⟩

theorem Encodes.pbudgetExpiry (core : Nat) (slot : BitVec 3) : Encodes.Statement (.pbudgetExpiry core slot) := by
  rintro - h t ⟨⟩

theorem Encodes.preemptSave (g : Nat) : Encodes.Statement (.preemptSave g) := by
  rintro - h t ⟨⟩

theorem Encodes.gangResume (g : Nat) : Encodes.Statement (.gangResume g) := by
  rintro - h t ⟨⟩

theorem Encodes.translationWalk (w : Nat) : Encodes.Statement (.translationWalk w) := by
  rintro - h t ⟨⟩

theorem Encodes.fackStore (fn : BitVec 6) (idx : BitVec 32) : Encodes.Statement (.fackStore fn idx) := by
  rintro - h t ⟨⟩

theorem Encodes.queueWriteStore (q : BitVec 13) (v : BitVec 32) : Encodes.Statement (.queueWriteStore q v) := by
  rintro - h t ⟨⟩

theorem Encodes.prioStore (q : BitVec 13) (v : BitVec 3) : Encodes.Statement (.prioStore q v) := by
  rintro - h t ⟨⟩

theorem Encodes.preemptRequest (q : BitVec 13) : Encodes.Statement (.preemptRequest q) := by
  rintro - h t ⟨⟩

theorem Encodes.dependenceReread : Encodes.Statement (.dependenceReread) := by
  rintro - h t ⟨⟩

theorem Encodes.packetSelection : Encodes.Statement (.packetSelection) := by
  rintro - h t ⟨⟩

theorem Encodes.gangPlacement : Encodes.Statement (.gangPlacement) := by
  rintro - h t ⟨⟩

theorem Encodes.placementWaitExpiry (l : Nat) : Encodes.Statement (.placementWaitExpiry l) := by
  rintro - h t ⟨⟩

theorem Encodes.launchCompletion (l : Nat) : Encodes.Statement (.launchCompletion l) := by
  rintro - h t ⟨⟩

theorem Encodes.rewardMessageHandling (u : BitVec 1) : Encodes.Statement (.rewardMessageHandling u) := by
  rintro - h t ⟨⟩

theorem Encodes.partRecorded (u : BitVec 1) (ent : Nat) : Encodes.Statement (.partRecorded u ent) := by
  rintro - h t ⟨⟩

theorem Encodes.zeroFillDone (u : BitVec 1) (ent : Nat) : Encodes.Statement (.zeroFillDone u ent) := by
  rintro - h t ⟨⟩

theorem Encodes.deadline (u : BitVec 1) : Encodes.Statement (.deadline u) := by
  rintro - h t ⟨⟩

theorem Encodes.fullerScanDone (u : BitVec 1) (ent : Nat) : Encodes.Statement (.fullerScanDone u ent) := by
  rintro - h t ⟨⟩

theorem Encodes.episodeRelease (u : BitVec 1) (ent : Nat) : Encodes.Statement (.episodeRelease u ent) := by
  rintro - h t ⟨⟩

theorem Encodes.lreadReread (u : BitVec 1) (grp : Nat) : Encodes.Statement (.lreadReread u grp) := by
  rintro - h t ⟨⟩

theorem Encodes.readMsg (m : Msg) : Encodes.Statement (.readMsg m) := by
  rintro - h t ⟨⟩

theorem Encodes.readReply (m : Msg) : Encodes.Statement (.readReply m) := by
  rintro - h t ⟨⟩

theorem Encodes.writeMsg (m : Msg) : Encodes.Statement (.writeMsg m) := by
  rintro - h t ⟨⟩

theorem Encodes.acknowledge (m : Msg) : Encodes.Statement (.acknowledge m) := by
  rintro - h t ⟨⟩

theorem Encodes.atomicMsg (m : Msg) : Encodes.Statement (.atomicMsg m) := by
  rintro - h t ⟨⟩

theorem Encodes.atomicReply (m : Msg) : Encodes.Statement (.atomicReply m) := by
  rintro - h t ⟨⟩

theorem Encodes.putWithSignal (m : Msg) : Encodes.Statement (.putWithSignal m) := by
  rintro - h t ⟨⟩

theorem Encodes.rewardMsg (m : Msg) : Encodes.Statement (.rewardMsg m) := by
  rintro - h t ⟨⟩

theorem Encodes.barrierMsg (m : Msg) : Encodes.Statement (.barrierMsg m) := by
  rintro - h t ⟨⟩

theorem Encodes.stopMessage (m : Msg) : Encodes.Statement (.stopMessage m) := by
  rintro - h t ⟨⟩

theorem Encodes.errorMsg (m : Msg) : Encodes.Statement (.errorMsg m) := by
  rintro - h t ⟨⟩

theorem Encodes.sessionMsg (m : Msg) : Encodes.Statement (.sessionMsg m) := by
  rintro - h t ⟨⟩

theorem Encodes.linkFailure (k : Nat) : Encodes.Statement (.linkFailure k) := by
  rintro - h t ⟨⟩

theorem Encodes.stopTakesEffect (core : Nat) : Encodes.Statement (.stopTakesEffect core) := by
  rintro - h t ⟨⟩

theorem Encodes.stopCmd (core : Nat) : Encodes.Statement (.stopCmd core) := by
  rintro - h t ⟨⟩

theorem Encodes.resumeCmd (core : Nat) : Encodes.Statement (.resumeCmd core) := by
  rintro - h t ⟨⟩

theorem Encodes.resumeTakesEffect (core : Nat) : Encodes.Statement (.resumeTakesEffect core) := by
  rintro - h t ⟨⟩

theorem Encodes.stepCmd (core : Nat) (slot : BitVec 3) : Encodes.Statement (.stepCmd core slot) := by
  rintro - h t ⟨⟩

theorem Encodes.wpctlWrite (core : Nat) (n : BitVec 2) (v : BitVec 64) : Encodes.Statement (.wpctlWrite core n v) := by
  rintro - h t ⟨⟩

theorem Encodes.slotWindowWrite (core : Nat) (slot : BitVec 3) (off : BitVec 12) (v : BitVec 64) : Encodes.Statement (.slotWindowWrite core slot off v) := by
  rintro - h t ⟨⟩

theorem Encodes.registerWrite (a : Nat) (v : BitVec 64) : Encodes.Statement (.registerWrite a v) := by
  rintro - h t ⟨⟩

theorem Encodes.dumpGang : Encodes.Statement (.dumpGang) := by
  rintro - h t ⟨⟩

theorem Encodes.rctlStore (fn : BitVec 6) (v : BitVec 64) : Encodes.Statement (.rctlStore fn v) := by
  rintro - h t ⟨⟩

theorem Encodes.invalidateTranslations (fn : BitVec 6) : Encodes.Statement (.invalidateTranslations fn) := by
  rintro - h t ⟨⟩

theorem Encodes.invalidateRange (fn : BitVec 6) : Encodes.Statement (.invalidateRange fn) := by
  rintro - h t ⟨⟩

theorem Encodes.functionLevelReset (fn : BitVec 6) : Encodes.Statement (.functionLevelReset fn) := by
  rintro - h t ⟨⟩

theorem Encodes.replay (fn : BitVec 6) : Encodes.Statement (.replay fn) := by
  rintro - h t ⟨⟩

theorem Encodes.assign (fn : BitVec 6) : Encodes.Statement (.assign fn) := by
  rintro - h t ⟨⟩

theorem Encodes.release (fn : BitVec 6) : Encodes.Statement (.release fn) := by
  rintro - h t ⟨⟩

theorem Encodes.create (fn : BitVec 6) : Encodes.Statement (.create fn) := by
  rintro - h t ⟨⟩

theorem Encodes.destroy (fn : BitVec 6) : Encodes.Statement (.destroy fn) := by
  rintro - h t ⟨⟩

theorem Encodes.queueOp (fn : BitVec 6) : Encodes.Statement (.queueOp fn) := by
  rintro - h t ⟨⟩

theorem Encodes.region (fn : BitVec 6) : Encodes.Statement (.region fn) := by
  rintro - h t ⟨⟩

theorem Encodes.report (fn : BitVec 6) : Encodes.Statement (.report fn) := by
  rintro - h t ⟨⟩

theorem Encodes.extend (fn : BitVec 6) : Encodes.Statement (.extend fn) := by
  rintro - h t ⟨⟩

theorem Encodes.sessionOperation (fn : BitVec 6) : Encodes.Statement (.sessionOperation fn) := by
  rintro - h t ⟨⟩

theorem Encodes.rootOp (fn : BitVec 6) : Encodes.Statement (.rootOp fn) := by
  rintro - h t ⟨⟩

theorem Encodes.writeOperation (fn : BitVec 6) : Encodes.Statement (.writeOperation fn) := by
  rintro - h t ⟨⟩

theorem Encodes.sleepOperation (fn : BitVec 6) : Encodes.Statement (.sleepOperation fn) := by
  rintro - h t ⟨⟩

theorem Encodes.deepSleepEntry : Encodes.Statement (.deepSleepEntry) := by
  rintro - h t ⟨⟩

theorem Encodes.managementWake : Encodes.Statement (.managementWake) := by
  rintro - h t ⟨⟩

theorem Encodes.coldReset : Encodes.Statement (.coldReset) := by
  rintro - h t ⟨⟩

theorem Encodes.powerLoss : Encodes.Statement (.powerLoss) := by
  rintro - h t ⟨⟩

theorem Encodes.thermalWarning (die : BitVec 3) : Encodes.Statement (.thermalWarning die) := by
  rintro - h t ⟨⟩

theorem Encodes.thermalWarningClear (die : BitVec 3) : Encodes.Statement (.thermalWarningClear die) := by
  rintro - h t ⟨⟩

theorem Encodes.criticalTrip : Encodes.Statement (.criticalTrip) := by
  rintro - h t ⟨⟩

theorem Encodes.debugUnlock (dev : BitVec 64) (life : BitVec 3) (nonce : BitVec 256) (perm : BitVec 8) (sig : Nat) : Encodes.Statement (.debugUnlock dev life nonce perm sig) := by
  rintro - h t ⟨⟩

theorem Encodes.provisioning : Encodes.Statement (.provisioning) := by
  rintro - h t ⟨⟩

theorem Encodes.productionFuse : Encodes.Statement (.productionFuse) := by
  rintro - h t ⟨⟩

theorem Encodes.retireFuse : Encodes.Statement (.retireFuse) := by
  rintro - h t ⟨⟩

theorem Encodes.notAnInstruction (cls : BitVec 5) (code : BitVec 16) (tval : BitVec 64) : Encodes.Statement (.notAnInstruction cls code tval) := by
  rintro - h t ⟨⟩

theorem Encodes.flushiAcknowledgement (core : Nat) (slot : BitVec 3) : Encodes.Statement (.flushiAcknowledgement core slot) := by
  rintro - h t ⟨⟩

theorem Encodes.tcinvAcknowledgement (core : Nat) (slot : BitVec 3) : Encodes.Statement (.tcinvAcknowledgement core slot) := by
  rintro - h t ⟨⟩

theorem Encodes.unitInstructionHandling (u : BitVec 1) : Encodes.Statement (.unitInstructionHandling u) := by
  rintro - h t ⟨⟩

theorem Encodes.fabricDrop (m : Msg) : Encodes.Statement (.fabricDrop m) := by
  rintro - h t ⟨⟩

theorem Encodes.cxlLinkDown (p : BitVec 2) : Encodes.Statement (.cxlLinkDown p) := by
  rintro - h t ⟨⟩

end Sys2Proof.Laws
end

