-- ==== Sys2Proof/Safety.lean ====
section
/-!
DEFINITION. What the claims mean: a safe machine (bytes and tags of memory in their one canonical form, a step that answers a next state, runs
made of such steps), the conditions under which an instruction executes normally, and the shapes that instructions of one kind share.
-/

namespace Sys2Proof.Machine

/-- Bytes and tags in canonical form: addresses strictly rising, nothing listed that an unlisted address reads as (a tag reads 0, R154). -/
def State.memOk (s : State) : Prop := Memory.wf s.mem = true ∧ SMap.wf 0 s.tags = true

/-- A state whose next step does not end the run. -/
def State.goesOn (s : State) : Prop := ∃ t, step s = .next t

/-- The states that some number of steps reaches from a state. -/
inductive Reaches : State → State → Prop where
  | refl (s : State) : Reaches s s
  | step {s t u : State} : Reaches s t → step t = .next u → Reaches s u

/-- A state from which no run stops: every state it reaches goes on. Only a package without power stops (Fault.poweredOff). -/
def State.safe (s : State) : Prop := ∀ t, Reaches s t → t.goesOn

/-! ### When an instruction executes normally -/

/-- The ports that an instruction's register fields name are usable at once (R55, R126, R128, R231, R232): no port fault, no push to an EMPTY
slot, something to pop where s6 or the vector port is a source, room where s7 or the vector port is a destination; a push that leaves the core goes under its
context's key and arrives whole (R385, R387, R388). An instruction that names no port meets it always. -/
def State.portsOpen (s : State) (srcs dsts : List SReg) (vsrcs vdsts : List VReg) : Bool :=
  let x := s.me
  let g := s.slot (s.portTarget s.cur)
  !x.portBad srcs dsts && !x.vportBad vsrcs vdsts &&
  !((dsts.contains 7 || (x.port.vp && vdsts.contains 15)) && g.st == .empty) &&
  !(srcs.contains 6 && x.port.sq.isEmpty) && !(x.port.vp && vsrcs.contains 15 && x.port.vq.isEmpty) &&
  !(dsts.contains 7 && decide (8 ≤ g.port.sq.length)) && !(x.port.vp && vdsts.contains 15 && decide (4 ≤ g.port.vq.length)) &&
  !(s.pushesOut dsts vdsts && (!s.keyOk s.cur.core (s.ctxOf s.cur.core) || s.tampered s.cur.core))

/-- A push to another core that the network interface has no key for (R388). -/
def State.pushShut (s : State) (dsts : List SReg) (vdsts : List VReg) : Bool :=
  s.pushesOut dsts vdsts && s.me.port.dn && !s.keyOk s.cur.core (s.ctxOf s.cur.core)

/-- No scalar field names a port register. -/
def noPorts (srcs dsts : List SReg) : Bool := !srcs.contains 6 && !srcs.contains 7 && !dsts.contains 6 && !dsts.contains 7

/-! ### Accesses to the own local store -/

/-- The bytes at an offset of the issuing core's local store as a number, the byte at the lowest address least significant (R112). -/
def State.bytesAt (s : State) (off n : Nat) : Nat :=
  ((List.range n).map (fun i => (Memory.byte s.mem (lsHome s.cur.core (off + i))).toNat * 256 ^ i)).sum

/-- Word offsets of an access. -/
def wordsAt (off n : Nat) : List Nat := (List.range ((n + 7) / 8)).map (fun k => off / 8 * 8 + 8 * k)

/-- An access of n bytes to the issuing core's own local store that nothing holds up but what its words' entries say: aligned, inside, in a region of its
context, words neither poisoned nor of bad tags, no comparator, copy token, watchpoint, waiter or buffered store in its way, no earlier relaxed access of the
thread to these bytes; the instruction is not one that has parked. -/
def State.clear (s : State) (va : Word) (n : Nat) : Bool :=
  let c := s.myCore
  let off := va.toNat
  let ws := wordsAt off n
  decide (off % n = 0) && decide (off + n ≤ 0x40000) && s.coreExists s.cur.core && c.ctx.isSome && (SMap.find c.alloc (off / 0x1000)).isSome &&
  !c.gated && c.copies.isEmpty && c.demands.isEmpty && slotNums.all (fun k => (c.slot k).blanks.isEmpty) && c.dbg.wpctl.toList.all (· == 0) &&
  ws.all (fun w => !s.badTags.contains (lsHome s.cur.core w) && !s.poison.contains (lsHome s.cur.core w)) &&
  s.waiters.all (fun w => w.agent != .thread s.cur && !(ws.map (lsHome s.cur.core)).contains w.home) && s.me.cont.isNone &&
  !s.me.overlaps (lsHome s.cur.core off) n && (s.buffered s.cur.core (some s.cur) (lsHome s.cur.core off) (lsHome s.cur.core off + n)).isEmpty

/-- The same in a region of table 0, the identity: nothing holds the access up at all. -/
def State.plain (s : State) (va : Word) (n : Nat) : Bool := s.clear va n && s.myCore.tableOf (va.toNat / 0x1000) == 0

/-! ### Shapes -/

/-- Source and destination registers of the instructions that only compute a scalar result from scalar registers and constants and raise no
flag: majors 0x00 to 0x07 but for ADD and SUB with a SAT field. -/
def scalarShape : Instr → Option (List SReg × SReg)
  | .andR d b c => some ([b, c], d)
  | .orR d b c => some ([b, c], d)
  | .xorR d b c => some ([b, c], d)
  | .sll d b c => some ([b, c], d)
  | .srl d b c => some ([b, c], d)
  | .sra d b c => some ([b, c], d)
  | .addI d b _ => some ([b], d)
  | .addW d b _ => some ([b], d)
  | .rsubI d b _ => some ([b], d)
  | .rsubW d b _ => some ([b], d)
  | .andI d b _ => some ([b], d)
  | .andW d b _ => some ([b], d)
  | .orI d b _ => some ([b], d)
  | .orW d b _ => some ([b], d)
  | .xorI d b _ => some ([b], d)
  | .xorW d b _ => some ([b], d)
  | .sllI d b _ => some ([b], d)
  | .sllW d b _ => some ([b], d)
  | .srlI d b _ => some ([b], d)
  | .srlW d b _ => some ([b], d)
  | .sraI d b _ => some ([b], d)
  | .sraW d b _ => some ([b], d)
  | .seq d b c => some ([b, c], d)
  | .seqW d b _ => some ([b], d)
  | .sne d b c => some ([b, c], d)
  | .sneW d b _ => some ([b], d)
  | .slt d b c => some ([b, c], d)
  | .sltW d b _ => some ([b], d)
  | .sltu d b c => some ([b, c], d)
  | .sltuW d b _ => some ([b], d)
  | .sle d b c => some ([b, c], d)
  | .sleW d b _ => some ([b], d)
  | .sleu d b c => some ([b, c], d)
  | .sleuW d b _ => some ([b], d)
  | .minS d b c => some ([b, c], d)
  | .minW d b _ => some ([b], d)
  | .minU d b c => some ([b, c], d)
  | .minuW d b _ => some ([b], d)
  | .maxS d b c => some ([b, c], d)
  | .maxW d b _ => some ([b], d)
  | .maxU d b c => some ([b, c], d)
  | .maxuW d b _ => some ([b], d)
  | .mul d b c => some ([b, c], d)
  | .mulh d b c => some ([b, c], d)
  | .mulhu d b c => some ([b, c], d)
  | .mulhsu d b c => some ([b, c], d)
  | .div d b c => some ([b, c], d)
  | .divu d b c => some ([b, c], d)
  | .rem d b c => some ([b, c], d)
  | .remu d b c => some ([b, c], d)
  | .clz d b => some ([b], d)
  | .ctz d b => some ([b], d)
  | .popc d b => some ([b], d)
  | .brev d b => some ([b], d)
  | .bswap d b => some ([b], d)
  | .rol d b c => some ([b, c], d)
  | .ror d b c => some ([b, c], d)
  | .ext d b _ _ => some ([b], d)
  | .extu d b _ _ => some ([b], d)
  | .ins d b _ _ => some ([b, d], d)
  | .li d _ => some ([], d)
  | .liW d _ => some ([], d)
  | .liX0 d _ => some ([], d)
  | .liZ d _ => some ([], d)
  | .liZW d _ => some ([], d)
  | .liZX0 d _ => some ([], d)
  | .lih d _ => some ([d], d)
  | .lea d b _ => some ([b], d)
  | .leaW d b _ => some ([b], d)
  | .leaX1 _ d b c _ => some ([b, c], d)
  | .mov d b => some ([b], d)
  | .sel d b c k => some ([b, c, k], d)
  | _ => none

/-- A port fault (09 R128, 03 R55): s7 as a source, s6 as a destination, or either while its port is disabled. Nothing is popped, pushed or written. Above it stands
a push that has no key (28 R388, 24 R338; c.tval 0 is the model's choice: log entry 83). -/
def PortFaults (i : Instr) (srcs dsts : List SReg) : Prop :=
  ∀ s : State, (s.pushShut dsts [] = false → s.me.portBad srcs dsts = true → exec i s = .next (s.precise (trapOf 12 0 0))) ∧
    (s.pushShut dsts [] = true → exec i s = .next (s.precise (trapOf 7 8 0)))

/-- What an instruction of two scalar sources does: it writes f of them wherever its ports are usable, and is a port fault where a field may not be. -/
def ScalarTwo (mk : SReg → SReg → SReg → Instr) (f : Word → Word → Word) : Prop :=
  (∀ (s : State) (d b c : SReg), s.portsOpen [b, c] [d] [] [] = true →
    exec (mk d b c) s = .next (s.setS [b, c] d (f (s.rs b) (s.rs c)))) ∧
  ∀ d b c, PortFaults (mk d b c) [b, c] [d]

/-- One scalar source. -/
def ScalarOne (mk : SReg → SReg → Instr) (f : Word → Word) : Prop :=
  (∀ (s : State) (d b : SReg), s.portsOpen [b] [d] [] [] = true → exec (mk d b) s = .next (s.setS [b] d (f (s.rs b)))) ∧
  ∀ d b, PortFaults (mk d b) [b] [d]

/-- A scalar source and an immediate of 11 bits, sign-extended. -/
def ScalarImm11 (mk : SReg → SReg → BitVec 11 → Instr) (f : Word → Word → Word) : Prop :=
  (∀ (s : State) (d b : SReg) (i : BitVec 11), s.portsOpen [b] [d] [] [] = true →
    exec (mk d b i) s = .next (s.setS [b] d (f (s.rs b) (i.signExtend 64)))) ∧
  ∀ d b i, PortFaults (mk d b i) [b] [d]

/-- A scalar source and an immediate of 16 bits, sign-extended. -/
def ScalarImm16 (mk : SReg → SReg → BitVec 16 → Instr) (f : Word → Word → Word) : Prop :=
  (∀ (s : State) (d b : SReg) (i : BitVec 16), s.portsOpen [b] [d] [] [] = true →
    exec (mk d b i) s = .next (s.setS [b] d (f (s.rs b) (i.signExtend 64)))) ∧
  ∀ d b i, PortFaults (mk d b i) [b] [d]

/-- A constant of w bits. -/
def ScalarConst (w : Nat) (mk : SReg → BitVec w → Instr) (f : BitVec w → Word) : Prop :=
  (∀ (s : State) (d : SReg) (i : BitVec w), s.portsOpen [] [d] [] [] = true → exec (mk d i) s = .next (s.setS [] d (f i))) ∧
  ∀ d i, PortFaults (mk d i) [] [d]

/-- A conditional branch on two registers: taken where p holds of them, else the thread goes on at NEXT. -/
def BranchTwo (mk : SReg → SReg → BitVec 27 → Instr) (p : Word → Word → Bool) : Prop :=
  (∀ (s : State) (b c : SReg) (off : BitVec 27), s.portsOpen [b, c] [] [] [] = true →
    exec (mk b c off) s = .next (if p (s.rs b) (s.rs c) then (s.pops [b, c] []).jump (branchTarget s.me.pc off) else s.doneS [b, c])) ∧
  ∀ b c off, PortFaults (mk b c off) [b, c] []

/-- A conditional branch on one register. -/
def BranchOne (mk : SReg → BitVec 27 → Instr) (p : Word → Bool) : Prop :=
  (∀ (s : State) (b : SReg) (off : BitVec 27), s.portsOpen [b] [] [] [] = true →
    exec (mk b off) s = .next (if p (s.rs b) then (s.pops [b] []).jump (branchTarget s.me.pc off) else s.doneS [b])) ∧
  ∀ b off, PortFaults (mk b off) [b] []

/-- What lies outside a thread's slot and its core's trace ring is as before: memory, tags, the other slots, the other cores. -/
def SameButSlot (s t : State) (u : Tid) : Prop :=
  t.cur = s.cur ∧ t.mem = s.mem ∧ t.tags = s.tags ∧ t.waiters = s.waiters ∧ t.gangs = s.gangs ∧
  (∀ v, v ≠ u → t.slot v = s.slot v) ∧ (∀ n, n ≠ u.core → t.core n = s.core n)

/-- A frame of the interrupted program that needs no spill for a call (R99). -/
def State.callFits (s : State) : Bool := s.me.regs.frame == .normal && decide (s.me.regs.older < 2)

/-- What a call does to the registers (R97, R99): the caller's pass bank is the callee's receive bank, with the link in s15 (the caller's s31); s0 to s5
are common. -/
def Called (s t : State) : Prop :=
  t.rs 15 = s.npc ∧ (∀ k : SReg, 8 ≤ k.toNat → k.toNat < 15 → t.rs k = s.rs (k + 16)) ∧ (∀ k : SReg, k.toNat < 6 → t.rs k = s.rs k) ∧
  t.me.regs.older = s.me.regs.older + 1 ∧ t.me.regs.vec = s.me.regs.vec ∧ t.me.regs.desc = s.me.regs.desc ∧ t.me.cr = s.me.cr ∧ t.mem = s.mem

/-- An address whose line is in the instruction cache, and stays there, and whose slot there is the landing pad of a label (R143, R212). -/
def State.landsOn (s : State) (t : Word) (l : BitVec 11) : Bool :=
  isTranslated (lineAddr t) && s.keepsLine s.cur.core s.myCtx (lineAddr t) && (match s.myCore.cached s.myCtx (lineAddr t) with
    | some ln => ln.slots[slotIndex t]? == some (.instr 0x4C00 (.one ((0 : BitVec 5) ++ l)))
    | none => false)

/-- Trap entry (R147): what it writes and where it goes; the frame of everything else. -/
def TrapEntered (s t : State) (u : Tid) (i : TrapInfo) (epc pc2 : Word) (late defer : Bool) : Prop :=
  let x := s.slot u
  let y := t.slot u
  y.pc = BitVec.ofNat 64 (64 * x.cr.tvec.toNat) ∧
  y.cr = { x.cr with
    epc := BitVec.ofNat 63 (epc.toNat / 2), code := i.code, cls := i.cls, late := (if late then 1 else 0), defer := (if defer then 1 else 0)
    tval := i.tval, tpc2 := BitVec.ofNat 63 (pc2.toNat / 2), intrap := true } ∧
  y.regs.frame = .trap ∧ y.regs.left = 2 + x.regs.older ∧ y.regs.common = x.regs.common ∧ y.regs.ring = x.regs.ring ∧ y.regs.cur = x.regs.cur ∧
  y.regs.vec = x.regs.vec ∧ y.regs.desc = x.regs.desc ∧ y.port = x.port ∧ y.cont = none ∧ SameButSlot s t u

/-- The control registers with writable fields, and which bits of a register those are (R110). -/
def writableRegisters : List (BitVec 11 × Word) :=
  [(0x010, 0xF), (0x011, 0xF), (0x012, 0xFF), (0x013, 0xFF), (0x014, 1), (0x015, 3), (0x016, 0x3F), (0x017, 0x3F),
   (0x020, 0x3FF80), (0x021, 0x3FF80), (0x022, 0x3FF80), (0x028, 0xFFFFFFFFFFFFFFFF), (0x029, 0xFFFFFFFFFFFFFFFF), (0x02A, 7),
   (0x030, 0xFFFFFFFFFFFFFFFF), (0x031, 0xFFFFFFFFFFFFFFFF), (0x032, 0xFFFFFFFFFFFFFFFF), (0x040, 0xFFFFFFFFFFFFFFC0),
   (0x041, 0xFFFFFFFFFFFFFFFE), (0x042, 0xFFFF00DF), (0x043, 0xFFFFFFFFFFFFFFFF), (0x044, 0xFFFFFFFFFFFFFFFE),
   (0x050, 0xFFFFFFFFFFFFFFFE), (0x051, 0xFFFF)]

/-! ### Memory instructions -/

/-- What a load of n bytes puts into its register (R180). -/
def State.loaded (s : State) (va : Word) (n : Nat) (signed : Bool) : Word :=
  let v := s.bytesAt va.toNat n
  BitVec.ofInt 64 (if signed && decide (2 ^ (8 * n - 1) ≤ v) then (v : Int) - 2 ^ (8 * n) else v)

/-- Memory after a store of the low n bytes of a number at an offset of the issuing core's local store. -/
def State.stored (s : State) (va : Word) (n v : Nat) : State :=
  { s with mem := Memory.writeN s.mem (lsHome s.cur.core va.toNat) (v % 256 ^ n) (2 ^ n - 1) n }

/-- The scalar loads and stores of each form, with their widths. -/
noncomputable def loadsI : List ((SReg → SReg → BitVec 11 → Instr) × Nat × Bool) :=
  [(.ld, 8, false), (.lw, 4, true), (.lwu, 4, false), (.lh, 2, true), (.lhu, 2, false), (.lb, 1, true), (.lbu, 1, false)]

noncomputable def loadsW : List ((SReg → SReg → BitVec 1 → BitVec 16 → Instr) × Nat × Bool) :=
  [(.ldW, 8, false), (.lwW, 4, true), (.lwuW, 4, false), (.lhW, 2, true), (.lhuW, 2, false), (.lbW, 1, true), (.lbuW, 1, false)]

noncomputable def loadsX : List ((SReg → SReg → SReg → BitVec 1 → BitVec 32 → Instr) × Nat × Bool) :=
  [(.ldX1, 8, false), (.lwX1, 4, true), (.lwuX1, 4, false), (.lhX1, 2, true), (.lhuX1, 2, false), (.lbX1, 1, true), (.lbuX1, 1, false)]

noncomputable def storesI : List ((SReg → SReg → BitVec 11 → Instr) × Nat) := [(.st, 8), (.sw, 4), (.sh, 2), (.sb, 1)]

noncomputable def storesW : List ((SReg → SReg → BitVec 1 → BitVec 16 → Instr) × Nat) := [(.stW, 8), (.swW, 4), (.shW, 2), (.sbW, 1)]

noncomputable def storesX : List ((SReg → SReg → SReg → BitVec 1 → BitVec 32 → Instr) × Nat) := [(.stX1, 8), (.swX1, 4), (.shX1, 2), (.sbX1, 1)]

/-- The atomics in both forms, with the operation of each (R188). -/
noncomputable def atomics : List ((SReg → SReg → SReg → BitVec 1 → BitVec 1 → Instr) × (SReg → SReg → SReg → BitVec 1 → BitVec 1 → BitVec 16 → Instr) × AtomOp) :=
  [(.aadd, .aaddW, .add), (.aand, .aandW, .and), (.aor, .aorW, .or), (.axor, .axorW, .xor), (.aswp, .aswpW, .swp), (.acas, .acasW, .cas),
   (.amin, .aminW, .min), (.amax, .amaxW, .max), (.aminu, .aminuW, .minu), (.amaxu, .amaxuW, .maxu)]

/-- What an atomic on n bits leaves in memory; ACAS writes only where the old value is the expected one (R188). -/
def atomResult (o : AtomOp) (n old b : Nat) : Nat :=
  let sg (v : Nat) : Int := (BitVec.ofNat n v).toInt
  match o with
  | .add => (old + b) % 2 ^ n
  | .and => old &&& b
  | .or => old ||| b
  | .xor => old ^^^ b
  | .swp => b
  | .cas => b
  | .min => if sg old ≤ sg b then old else b
  | .max => if sg old ≤ sg b then b else old
  | .minu => if old ≤ b then old else b
  | .maxu => if old ≤ b then b else old
  | .fadd => (fp32.addV .rne (fp32.decode old) (fp32.decode b)).bits

/-- An issued relaxed access of the thread that goes on at NEXT: memory, tags and registers as before, one more outstanding instruction, of one access (R174). -/
def Issued (s t : State) (va : Word) (n : Nat) (store : Bool) (dest : OutDest) : Prop :=
  t.me.pc = s.npc ∧ t.me.regs = s.me.regs ∧ t.mem = s.mem ∧ t.tags = s.tags ∧
  ∃ o i, t.me.outs = s.me.outs ++ [o] ∧ o.items = [i] ∧ o.store = store ∧ o.dest = dest ∧ o.pc = s.me.pc ∧ i.acc.va = va ∧ i.acc.size = n ∧
    i.home = lsHome s.cur.core va.toNat ∧ i.done = false

/-- A 16-bit entry of a tag action table, by its fields (R156). -/
structure TagEntry where
  act : Nat
  upd : Bool
  tag : BitVec 3
  tcode : Nat

def TagEntry.of (e : BitVec 16) : TagEntry :=
  { act := e.toNat / 2 ^ 13, upd := e.getLsbD 12, tag := BitVec.ofNat 3 (e.toNat / 2 ^ 9), tcode := e.toNat / 2 ^ 6 % 8 }

/-- Element e of w bits of a vector register. -/
def elemOf (w : Nat) (v : Line) (e : Nat) : Nat := v.toNat / 2 ^ (w * e) % 2 ^ w

/-- Element widths of the two-bit field (R182): 32, 16, 8, 64 bits. -/
def widthOf (ew : BitVec 2) : Nat := [32, 16, 8, 64][ew.toNat]?.getD 0

/-- Whether a mask field enables element e (R106): unmasked, or the bit of the mask register. -/
def State.isOn (s : State) (mk : BitVec 4) (e : Nat) : Bool :=
  !mk.getLsbD 3 || (s.me.regs.vec[mk.toNat % 4]'(by omega)).getLsbD e

/-- A vector register as a load leaves it: what each enabled element's bytes hold, zero in the others (R106, R183). -/
def Loads (s : State) (v : Line) (w : Nat) (mk : BitVec 4) (va : Nat → Word) : Prop :=
  ∀ e, e < 512 / w → elemOf w v e = if s.isOn mk e then s.bytesAt (va e).toNat (w / 8) else 0

/-- Every enabled element's own access is clear to go. -/
def State.plainElems (s : State) (w : Nat) (mk : BitVec 4) (va : Nat → Word) : Prop :=
  ∀ e, e < 512 / w → s.isOn mk e = true → s.plain (va e) (w / 8) = true

/-- Memory after the enabled elements of a store, in increasing order. -/
def State.storedElems (s : State) (w : Nat) (mk : BitVec 4) (va : Nat → Word) (v : Line) : State :=
  ((List.range (512 / w)).filter (s.isOn mk)).foldl (fun t e => t.stored (va e) (w / 8) (elemOf w v e)) s

/-! ### Vector instructions -/

/-- An element read as a signed number of w bits. -/
def sgn (w x : Nat) : Int := (BitVec.ofNat w x).toInt

/-- The low w bits of an integer. -/
def wrap (w : Nat) (v : Int) : Nat := (v % 2 ^ w).toNat

/-- An exact result under a SAT code (R246): wrapped, clamped to the signed range (1) or to the unsigned one (2); SX where clamping changes the value. -/
def clampTo (w : Nat) (sat : BitVec 2) (sv uv : Int) : FR :=
  let c (lo hi v : Int) : FR := ⟨wrap w (max lo (min hi v)), if lo ≤ v ∧ v ≤ hi then 0 else 0x20⟩
  if sat = 1 then c (-2 ^ (w - 1)) (2 ^ (w - 1) - 1) sv else if sat = 2 then c 0 (2 ^ w - 1) uv else ⟨wrap w sv, 0⟩

/-- Field C of a vector instruction as elements: a vector register, or under Z a scalar one (R238). -/
def State.fieldC (s : State) (c : BitVec 5) (z : BitVec 1) (w e : Nat) : Nat :=
  if z = 1 then (s.rs c).toNat % 2 ^ w else elemOf w (s.rv c) e

/-- Scalar and vector sources of an instruction with vector sources b and a field C. -/
def cSrcs (c : BitVec 5) (z : BitVec 1) : List SReg := if z = 1 then [c] else []

def cVsrcs (b c : BitVec 5) (z : BitVec 1) : List VReg := if z = 1 then [b] else [b, c]

/-- The flags of the enabled elements. -/
def State.unionFlags (s : State) (mk : BitVec 4) (n : Nat) (r : Nat → FR) : Flags :=
  ((List.range n).filter (s.isOn mk)).foldl (fun f e => f ||| (r e).fl) 0

/-- What a vector instruction of w-bit elements does when its ports are usable and no flag is enabled to trap (R106, R239, R243): element e of the destination is r's
where the mask or the fill treatment lets it be written and the old one otherwise; the enabled elements' flags are ORed into c.fflags. -/
def VecElems (i : Instr) (s : State) (srcs : List SReg) (vsrcs : List VReg) (d : VReg) (mk : BitVec 4) (w : Nat) (r : Nat → FR) : Prop :=
  s.portsOpen srcs [] vsrcs [d] = true → s.me.cr.fen = 0 →
    ∃ v : Line, (∀ e, e < 512 / w → elemOf w v e = if (s.isOn mk e || mk.getLsbD 2) then (r e).bits % 2 ^ w else elemOf w (s.me.oldV d) e) ∧
      exec i s = .next ((((s.orFlags (s.unionFlags mk (512 / w) r)).pops srcs vsrcs).wv d v).retire)

/-- A compare of n elements (R250): bit e of the destination, zero from n on. -/
def VecBits (i : Instr) (s : State) (srcs : List SReg) (vsrcs : List VReg) (d : VReg) (mk : BitVec 4) (n : Nat) (p : Nat → Bool) (fl : Nat → Flags) : Prop :=
  s.portsOpen srcs [] vsrcs [d] = true → s.me.cr.fen = 0 →
    ∃ v : Line, (∀ e, v.getLsbD e = (decide (e < n) && if (s.isOn mk e || mk.getLsbD 2) then p e else (s.me.oldV d).getLsbD e)) ∧
      exec i s = .next ((((s.orFlags (s.unionFlags mk n (fun e => ⟨0, fl e⟩))).pops srcs vsrcs).wv d v).retire)

/-- A vector instruction with a scalar result (R252, R253). -/
def VecScalar (i : Instr) (s : State) (d : SReg) (srcs : List SReg) (vsrcs : List VReg) (v : Word) (fl : Flags) : Prop :=
  s.portsOpen srcs [d] vsrcs [] = true → s.me.cr.fen = 0 →
    exec i s = .next ((((s.orFlags fl).pops srcs vsrcs).ws d v).retire)

/-- Elementwise integer operations of form M and of form W without SAT, as exact integers of the two elements (R245). -/
noncomputable def vecIntM : List ((VReg → VReg → VReg → BitVec 4 → BitVec 2 → Instr) × (Nat → Nat → Nat → Int)) :=
  [(.vadd, fun w a c => sgn w a + sgn w c), (.vsub, fun w a c => sgn w a - sgn w c), (.vmul, fun w a c => sgn w a * sgn w c),
   (.vmulh, fun w a c => sgn w a * sgn w c / 2 ^ w), (.vmin, fun w a c => min (sgn w a) (sgn w c)), (.vmax, fun w a c => max (sgn w a) (sgn w c)),
   (.vminu, fun _ a c => min (a : Int) c), (.vmaxu, fun _ a c => max (a : Int) c)]

noncomputable def vecIntW : List ((VReg → VReg → BitVec 5 → BitVec 1 → BitVec 4 → BitVec 2 → Instr) × (Nat → Nat → Nat → Int)) :=
  [(.vmulhW, fun w a c => sgn w a * sgn w c / 2 ^ w), (.vminW, fun w a c => min (sgn w a) (sgn w c)), (.vmaxW, fun w a c => max (sgn w a) (sgn w c)),
   (.vminuW, fun _ a c => min (a : Int) c), (.vmaxuW, fun _ a c => max (a : Int) c), (.vand, fun _ a c => ((a &&& c : Nat) : Int)),
   (.vor, fun _ a c => ((a ||| c : Nat) : Int)), (.vxor, fun _ a c => ((a ^^^ c : Nat) : Int)), (.vsll, fun w a c => (a : Int) * 2 ^ (c % w)),
   (.vsrl, fun w a c => (a : Int) / 2 ^ (c % w)), (.vsra, fun w a c => sgn w a / 2 ^ (c % w)), (.vmulhu, fun w a c => (a : Int) * c / 2 ^ w)]

/-- Those with a SAT field (R246): the exact operation. -/
noncomputable def vecIntSat : List ((VReg → VReg → BitVec 5 → BitVec 1 → BitVec 4 → BitVec 2 → BitVec 2 → Instr) × (Int → Int → Int)) :=
  [(.vaddW, fun a c => a + c), (.vsubW, fun a c => a - c), (.vmulW, fun a c => a * c)]

/-- Floating formats of a type field (R236): FP32, FP16, BF16; their containers. -/
def floatType (t : BitVec 2) : FFmt := if t = 0 then ⟨23, 8, 127, 2⟩ else if t = 1 then ⟨10, 5, 15, 2⟩ else ⟨7, 8, 127, 2⟩

def floatBits (t : BitVec 2) : Nat := if t = 0 then 32 else 16

/-! ### Correct rounding (05 R64, R65, R73 to R78, R87), on real numbers -/

/-- The magnitude of a code by the formula of R65, as if the exponent field had no end: of a code up to the largest finite one it is the code's own. -/
noncomputable def FFmt.magnitude (F : FFmt) (b : Nat) : ℝ :=
  if b / 2 ^ F.m = 0 then b * (2 : ℝ) ^ F.qmin else ((2 ^ F.m + b % 2 ^ F.m : Nat) : ℝ) * (2 : ℝ) ^ (F.qmin + ((b / 2 ^ F.m - 1 : Nat) : Int))

/-- The number that a finite value is. -/
noncomputable def FV.real : FV → ℝ
  | .fin n k e => (if n then -1 else 1) * k * (2 : ℝ) ^ e
  | _ => 0

/-- Whether a magnitude in [lo, hi) is rounded to hi (R73, R74); even tells that lo is the even neighbour. -/
def RoundsUp (mode : RM) (neg : Bool) (x lo hi : ℝ) (even : Bool) : Prop :=
  match mode with
  | .rne => lo + hi < 2 * x ∨ (2 * x = lo + hi ∧ even = false)
  | .rtz => False
  | .rup => neg = false ∧ lo < x
  | .rdn => neg = true ∧ lo < x
  | .sr rnd => (rnd : Int) < ⌊2 ^ 16 * (x - lo) / (hi - lo)⌋

/-- What an overflow gives (R76). -/
def overflowed (F : FFmt) (mode : RM) (sat neg : Bool) : FR :=
  let big := F.signBit neg + F.maxBits
  let out : FR := ⟨if F.special = 1 then 0x7F else big + 1, 0x05⟩
  if sat then ⟨big, 0x25⟩
  else match mode with
  | .sr _ => ⟨big, 0x05⟩
  | .rne => if F.special = 0 then ⟨big, 0x25⟩ else out
  | .rtz => if F.special = 0 then ⟨big, 0x25⟩ else ⟨big, 0x05⟩
  | .rup => if F.special = 0 then ⟨big, 0x25⟩ else if neg then ⟨big, 0x05⟩ else out
  | .rdn => if F.special = 0 then ⟨big, 0x25⟩ else if neg then out else ⟨big, 0x05⟩

/-- A magnitude is tiny: rounded to the format's precision without a least exponent it stays below the smallest normal (R78). -/
def Tiny (F : FFmt) (mode : RM) (neg : Bool) (x : ℝ) : Prop :=
  let least := (2 : ℝ) ^ (F.qmin + (F.m : Int))
  let below := least - (2 : ℝ) ^ (F.qmin - 1)
  x < least ∧ ¬(below < x ∧ RoundsUp mode neg x below least false)

/-- A positive magnitude, with a sign, rounded to a format: one of the two neighbours among the codes, or an overflow, with the flags NX (bit 0), UF (1), OF (2), SX (5). -/
def Rounded (F : FFmt) (mode : RM) (sat neg : Bool) (x : ℝ) (r : FR) : Prop :=
  ∃ b c : Nat, F.magnitude b ≤ x ∧ x < F.magnitude (b + 1) ∧
    (RoundsUp mode neg x (F.magnitude b) (F.magnitude (b + 1)) (b % 2 == 0) → c = b + 1) ∧
    (¬RoundsUp mode neg x (F.magnitude b) (F.magnitude (b + 1)) (b % 2 == 0) → c = b) ∧
    let beyond : Prop := match mode with
      | .sr _ => F.magnitude F.maxBits < x
      | _ => F.maxBits < c
    (beyond → r = overflowed F mode sat neg) ∧
    (¬beyond → r.bits = F.signBit neg + c ∧ (r.fl.getLsbD 0 = true ↔ x ≠ F.magnitude b) ∧ (r.fl.getLsbD 1 = true ↔ x ≠ F.magnitude b ∧ Tiny F mode neg x) ∧
      r.fl &&& 0x3C = 0)

/-- An exact real result, correctly rounded; zero with a sign that the operation says. -/
def Correct (F : FFmt) (mode : RM) (v : ℝ) (zero : Bool) (r : FR) : Prop :=
  (v = 0 → r = ⟨F.signBit zero, 0⟩) ∧ (v < 0 → Rounded F mode false true (-v) r) ∧ (0 < v → Rounded F mode false false v r)

/-- The canonical NaN, with NV where the operation is invalid (R66). -/
def nanResult (F : FFmt) (nv : Bool) : FR := ⟨F.nan, if nv then 0x10 else 0⟩

/-- The order of R88, for values that are no NaN: numbers by size, minus zero below plus zero, the infinities at the ends. -/
def FV.Below (x y : FV) : Prop :=
  match x, y with
  | .inf n, y => n = true ∧ y ≠ .inf true
  | x, .inf n => n = false ∧ x ≠ .inf false
  | .fin n j e, .fin k l f => (FV.fin n j e).real < (FV.fin k l f).real ∨ ((FV.fin n j e).real = (FV.fin k l f).real ∧ n = true ∧ k = false)
  | _, _ => False

/-- Rounding mode of a field (R73): c.frm under DYN (7). -/
def State.roundMode (s : State) (rm : BitVec 3) : RM :=
  match (if rm = 7 then s.me.cr.frm.toNat else rm.toNat) with
  | 0 => .rne
  | 1 => .rtz
  | 2 => .rup
  | _ => .rdn

/-- Binary floating operations of forms M and W (R247). -/
noncomputable def vecFloat : List ((VReg → VReg → VReg → BitVec 4 → BitVec 2 → Instr) ×
    (VReg → VReg → BitVec 5 → BitVec 1 → BitVec 4 → BitVec 2 → BitVec 3 → Instr) × (FFmt → RM → Nat → Nat → FR)) :=
  [(.vfadd, .vfaddW, fun F m a c => F.addV m (F.decode a) (F.decode c)), (.vfsub, .vfsubW, fun F m a c => F.addV m (F.decode a) (F.decode c).neg),
   (.vfmul, .vfmulW, fun F m a c => F.mulV m (F.decode a) (F.decode c)), (.vfdiv, .vfdivW, fun F m a c => F.divV m (F.decode a) (F.decode c)),
   (.vfmin, .vfminW, fun F _ a c => F.minmax false a c), (.vfmax, .vfmaxW, fun F _ a c => F.minmax true a c)]

/-- Fused forms M and W, with the signs of product and addend (R248). -/
noncomputable def vecFused : List ((VReg → VReg → VReg → BitVec 4 → BitVec 2 → Instr) ×
    (VReg → VReg → VReg → VReg → BitVec 1 → BitVec 4 → BitVec 2 → BitVec 3 → Instr) × Bool × Bool) :=
  [(.vfma, .vfmaW, false, false), (.vfms, .vfmsW, false, true), (.vfnma, .vfnmaW, true, false), (.vfnms, .vfnmsW, true, true)]

/-- Integer compares of forms M and W (R250). -/
noncomputable def vecCmp : List ((VReg → VReg → VReg → BitVec 4 → BitVec 2 → Instr) ×
    (VReg → VReg → BitVec 5 → BitVec 1 → BitVec 4 → BitVec 2 → Instr) × (Nat → Nat → Nat → Bool)) :=
  [(.vseq, .vseqW, fun _ a c => decide (a = c)), (.vsne, .vsneW, fun _ a c => decide (a ≠ c)), (.vslt, .vsltW, fun w a c => decide (sgn w a < sgn w c)),
   (.vsle, .vsleW, fun w a c => decide (sgn w a ≤ sgn w c)), (.vsltu, .vsltuW, fun _ a c => decide (a < c)), (.vsleu, .vsleuW, fun _ a c => decide (a ≤ c))]

/-- Floating compares (R250): the relation of ordered operands, its value when unordered, whether a quiet NaN raises NV. -/
noncomputable def vecCmpF : List ((VReg → VReg → BitVec 5 → BitVec 1 → BitVec 4 → BitVec 2 → Instr) × (Int → Bool) × Bool × Bool) :=
  [(.vfeq, fun r => decide (r = 0), false, false), (.vfne, fun r => decide (r ≠ 0), true, false), (.vflt, fun r => decide (r < 0), false, true),
   (.vfle, fun r => decide (r ≤ 0), false, true), (.vfun, fun _ => false, true, false)]

/-- The enabled elements of a register, in order. -/
def State.onElems (s : State) (b : VReg) (mk : BitVec 4) (w : Nat) : List Nat :=
  ((List.range (512 / w)).filter (s.isOn mk)).map (elemOf w (s.rv b))

/-- Integer reductions of forms M and W (R252), with the value for no element. -/
noncomputable def vecReduce : List ((SReg → VReg → BitVec 4 → BitVec 2 → Instr) × (SReg → VReg → BitVec 4 → BitVec 2 → Instr) × (Nat → List Nat → Int)) :=
  [(.vrsum, .vrsumW, fun w l => (l.map (sgn w)).sum), (.vrmin, .vrminW, fun w l => (l.map (sgn w)).foldl min (2 ^ (w - 1) - 1)),
   (.vrmax, .vrmaxW, fun w l => (l.map (sgn w)).foldl max (-2 ^ (w - 1))), (.vrminu, .vrminuW, fun w l => ((l.foldl min (2 ^ w - 1) : Nat) : Int)),
   (.vrmaxu, .vrmaxuW, fun _ l => ((l.foldl max 0 : Nat) : Int))]

/-- Special functions on FP32 lanes, forms M and W (R257). -/
noncomputable def vecSpecial : List ((VReg → VReg → BitVec 4 → BitVec 2 → Instr) × (VReg → VReg → BitVec 4 → BitVec 2 → BitVec 3 → Instr) × (RM → Nat → FR)) :=
  [(.vexp2, .vexp2W, fun m a => exp2V m (fp32.decode a)), (.vlog2, .vlog2W, fun m a => log2V m (fp32.decode a)),
   (.vrcp, .vrcpW, fun m a => rcpV m (fp32.decode a)), (.vrsqrt, .vrsqrtW, fun m a => rsqrtV m (fp32.decode a)),
   (.vtanh, .vtanhW, fun _ a => tanhB a), (.vsig, .vsigW, fun _ a => sigB a), (.vexp, .vexpW, fun _ a => expB a)]

/-! ### Matrix, descriptors, tiles, copies -/

/-- A core on which no engine, blank, comparator, relaxed access or table stands in the way of an access. -/
def Core.calm (c : Core) : Bool :=
  !c.gated && c.copies.isEmpty && c.demands.isEmpty && slotNums.all (fun k => (c.slot k).blanks.isEmpty && (c.slot k).outs.isEmpty) &&
  c.dbg.wpctl.toList.all (· == 0) && c.rmap0 == 0 && c.rmap1 == 0

/-- A machine in which every access of the issuing thread, whose instruction has not parked, finds all words free under table 0, and in which no waiter's
evaluation is due. -/
def State.calm (s : State) : Bool :=
  s.coreExists s.cur.core && s.myCore.ctx.isSome && s.cores.all (fun p => p.2.calm) && s.waiters.isEmpty && s.badTags.isEmpty && s.poison.isEmpty &&
  s.me.cont.isNone && s.me.st == .ready && !s.wakesDue

/-- n bytes of the issuing core's local store, by own-LS address, in regions of its context; no byte at all is always fine. -/
def State.owns (s : State) (va : Word) (n : Nat) : Bool :=
  n == 0 || (decide (va.toNat + n ≤ 0x40000) && (List.range 64).all (fun k =>
    decide (va.toNat + n ≤ 0x1000 * k) || decide (0x1000 * (k + 1) ≤ va.toNat) || (SMap.find s.myCore.alloc k).isSome))

/-- Element e of row r of chunk c of an operand with b planes (R261). -/
def State.planed (s : State) (va : Word) (b c r e : Nat) : Nat :=
  ((List.range b).map (fun p =>
    if (Memory.byte s.mem (lsHome s.cur.core (va.toNat + 64 * (c * b + p) + (32 * r + e) / 8))).getLsbD ((32 * r + e) % 8) then 2 ^ p else 0)).sum

/-- Element e of row r of chunk c of a row-major operand with containers of w bits (R272). -/
def State.rowElem (s : State) (va pitch : Word) (w c r e : Nat) : Nat :=
  s.bytesAt ((va + BitVec.ofNat 64 r * pitch).toNat + c * (4 * w)) (4 * w) / 2 ^ (w * e) % 2 ^ w

/-- Operands of an MMA or MMAS that pass its checks (R267). -/
def State.multiplies (s : State) (scaled : Bool) (k a b : Word) (fa fb : BitVec 4) : Prop :=
  32 ≤ k.toNat ∧ k.toNat ≤ 65536 ∧ k.toNat % 32 = 0 ∧ (∃ kind, accKind fa fb = some kind ∧ (scaled = true → kind = .fp32)) ∧
  a.toNat % 64 = 0 ∧ b.toNat % 64 = 0 ∧ s.owns a (k.toNat / 32 * (fmtPlanes fa * 64)) = true ∧ s.owns b (k.toNat / 32 * (fmtPlanes fb * 64)) = true

/-- Cell (i, j) of the accumulator after an MMA or MMAS, chunk by chunk (R268); groups are the scale groups taken. -/
def State.cellAfter (s : State) (scaled : Bool) (a b : Word) (n : Nat) (za : Bool) (fa fb : BitVec 4) (groups : List (BitVec 256)) (i j : Nat) : FR :=
  (List.range (n / 32)).foldl (fun (acc : FR) c =>
    let g := groups[c]?.getD 0
    macChunk ((accKind fa fb).getD .fp32) fa fb s.me.cr.nbv (if scaled then g.extractLsb' (8 * i) 8 else s.me.cr.scla)
      (if scaled then g.extractLsb' (128 + 8 * j) 8 else s.me.cr.sclb) acc
      ((List.range 32).map (fun e => (s.planed a (fmtPlanes fa) c i e, s.planed b (fmtPlanes fb) c j e))))
    ⟨if za then 0 else elemOf 32 (s.me.regs.vec[16 + i]?.getD 0) j, 0⟩

/-- A layout conversion that passes its checks: n chunks, one operand row-major with containers of w bits, the other with b planes; of several chunks
none is written over a source that is still to be read. -/
def State.converts (s : State) (planes rows pitch : Word) (b w n : Nat) : Prop :=
  planes.toNat % 64 = 0 ∧ rows.toNat % 8 = 0 ∧ pitch.toNat % 8 = 0 ∧ s.owns planes (n * (b * 64)) = true ∧
  (∀ r, r < 16 → s.owns (rows + BitVec.ofNat 64 r * pitch) (n * (4 * w)) = true) ∧
  (n ≤ 1 ∨ ∀ r, r < 16 → (rows + BitVec.ofNat 64 r * pitch).toNat + n * (4 * w) ≤ planes.toNat ∨
    planes.toNat + n * (b * 64) ≤ (rows + BitVec.ofNat 64 r * pitch).toNat)

/-- Rows of an operand that do not overlap one another. -/
def rowsApart (rows pitch : Word) (w n : Nat) : Prop :=
  ∀ r q, r < 16 → q < 16 → r ≠ q → (rows + BitVec.ofNat 64 r * pitch).toNat + n * (4 * w) ≤ (rows + BitVec.ofNat 64 q * pitch).toNat ∨
    (rows + BitVec.ofNat 64 q * pitch).toNat + n * (4 * w) ≤ (rows + BitVec.ofNat 64 r * pitch).toNat

/-- Only memory differs. -/
def OnlyMem (s t : State) : Prop := t = { s with mem := t.mem }

/-- Lines that agree with a core's local store. -/
def State.hasLines (s : State) (n : Nat) (m : SMap Line) : Prop :=
  ∀ l, l % 64 = 0 → l < 0x40000 → SMap.getD m l 0 = Memory.line s.mem (lsHome n l)

/-- The arguments of a tile operation for its checks. -/
def tileArgs (d b : DReg) (c : Option DReg) (s : State) : TileArg × List TileArg :=
  (⟨d, 0, s.rd d⟩, ⟨b, 1, s.rd b⟩ :: (match c with
    | some r => [⟨r, 2, s.rd r⟩]
    | none => []))

/-- What the creation of a blank does (R277, R279, R284): a failing check is the trap; otherwise, with fewer than eight blanks in the table, the blank is the youngest one, pending in
every block, with the descriptors and the numeric controls as they are at issue, and the thread goes on. -/
def Creates (i : Instr) (s : State) (op : TileOp) (d b : DReg) (c : Option DReg) (rm : BitVec 3) : Prop :=
  let a := tileArgs d b c s
  (∀ j, s.tileChecks (.op op) a.1 a.2 = some j → exec i s = .next (s.precise j)) ∧
  (s.tileChecks (.op op) a.1 a.2 = none → s.me.blanks.length < 8 →
    ∃ t bl, exec i s = .next t ∧ t.me.blanks = s.me.blanks ++ [bl] ∧ bl.op = op ∧ bl.dst = s.rd d ∧ bl.src1 = s.rd b ∧ bl.src2 = (c.map s.rd).getD 0 ∧
      bl.rm = (if rm = 7 then s.me.cr.frm.setWidth 3 else rm) ∧ bl.nbv = s.me.cr.nbv ∧ bl.scla = s.me.cr.scla ∧ bl.sclb = s.me.cr.sclb ∧ bl.pc = s.me.pc ∧
      bl.pend = List.range (dBlocks (s.rd d)) ∧ bl.total = dBlocks (s.rd d) ∧ bl.flt = [] ∧ t.me.pc = s.npc ∧ t.me.regs = s.me.regs ∧ t.me.cr = s.me.cr ∧
      t.mem = s.mem ∧ t.tags = s.tags)

/-! ### Threads, synchronisation, copies -/

/-- A frame in the issuing core's local store, by its quad-window address (R47). -/
def State.frameAt (s : State) (f : Word) (off : Nat) : Prop :=
  f.toNat = 0x100000 + 0x40000 * (s.cur.core % 4) + off ∧ off % 8 = 0 ∧ off < 0x40000 ∧ (SMap.find s.myCore.alloc (off / 0x1000)).isSome = true

/-- What a return does to the registers (R97, R99): the callee's receive bank is the caller's pass bank. -/
def Returned (s t : State) : Prop :=
  (∀ k : SReg, 8 ≤ k.toNat → k.toNat < 16 → t.rs (k + 16) = s.rs k) ∧ (∀ k : SReg, k.toNat < 6 → t.rs k = s.rs k) ∧
  t.me.regs.older + 1 = s.me.regs.older ∧ t.me.regs.vec = s.me.regs.vec

/-- The empty window ring with one fresh frame (R49, R50). -/
def FreshFrame (t : State) (s8 : Word) : Prop :=
  t.me.regs.older = 0 ∧ t.me.regs.left = 0 ∧ t.rs 8 = s8 ∧ (∀ k : SReg, 9 ≤ k.toNat → k.toNat < 16 → t.rs k = 0) ∧ t.me.cr.wsp = t.me.cr.wsb

/-- A parked thread, what it waits for, and what stays as it was. -/
def Waits (s t : State) (w : Await) : Prop :=
  t.me.st = .parked ∧ t.me.await = w ∧ t.me.pc = s.me.pc ∧ t.me.regs = s.me.regs ∧ t.mem = s.mem ∧ t.tags = s.tags

/-- A stage barrier word after an arrival (R209, R210). -/
def arrived (w : Nat) : Nat :=
  if w / 2 ^ 20 % 2 ^ 20 ≤ w % 2 ^ 20 + 1 then (w / 2 ^ 40 + 1) % 2 ^ 24 * 2 ^ 40 + w / 2 ^ 20 % 2 ^ 20 * 2 ^ 20 else w + 1

/-- Philox 2x64-10 (R304), as ten equal rounds on key and counter. -/
def philoxRounds (k x0 x1 : Word) : Word × Word :=
  let step (p : Word × Word × Word) : Word × Word × Word :=
    let m := p.2.1.toNat * 0xD2B74407B1CE6E93
    (p.1 + 0x9E3779B97F4A7C15, BitVec.ofNat 64 (m / 2 ^ 64) ^^^ p.1 ^^^ p.2.2, BitVec.ofNat 64 m)
  (step^[10] (k, x0, x1)).2

/-- The draw of a thread at its counter plus n (R304, R305). -/
def State.drawn (s : State) (n : Nat) : Word × Word :=
  let c := (s.me.cr.rngch.toNat * 2 ^ 64 + s.me.cr.rngc.toNat + n) % 2 ^ 128
  philoxRounds s.me.cr.rngk (BitVec.ofNat 64 c) (BitVec.ofNat 64 (c / 2 ^ 64))

/-- The counter moved on by n. -/
def State.advanced (s : State) (n : Nat) : State :=
  let c := (s.me.cr.rngch.toNat * 2 ^ 64 + s.me.cr.rngc.toNat + n) % 2 ^ 128
  s.setMe { s.me with cr := { s.me.cr with rngc := BitVec.ofNat 64 c, rngch := BitVec.ofNat 64 (c / 2 ^ 64) } }

/-- The machine without its copies. -/
def State.calmButCopies (s : State) : Bool :=
  s.cores.all (fun p => ({ p.2 with copies := [] } : Core).calm) && s.waiters.isEmpty && s.badTags.isEmpty && s.poison.isEmpty

/-- An element of n bytes in core m's own local store, in a region of the core's context. -/
def State.coreOwns (s : State) (m : Nat) (va : Word) (n : Nat) : Prop :=
  va.toNat % n = 0 ∧ va.toNat + n ≤ 0x40000 ∧ (s.core m).ctx.isSome = true ∧ (SMap.find (s.core m).alloc (va.toNat / 0x1000)).isSome = true ∧ s.coreExists m = true

/-! ### Events -/

/-- A thread that its event has made READY again, with the instruction that it had parked (R31); a gated core is woken first (R60). -/
def Woken (s t : State) (u : Tid) : Prop :=
  (t.slot u).st = .ready ∧ (t.slot u).await = .none ∧ (t.slot u).cont = (s.slot u).cont ∧ (t.slot u).pc = (s.slot u).pc ∧ (t.slot u).regs = (s.slot u).regs ∧
  t.mem = s.mem ∧ t.tags = s.tags ∧
  (if (s.core u.core).gated then t.todo.contains (.ungateStart u.core) = true else (s.slot u).cont ≠ none → t.urgent.contains u = true)

/-- An outstanding relaxed instruction of one element that has reached its home in a core's own local store, and nothing else outstanding in the package. -/
def State.lone (s : State) (t : Tid) (o : Out) (i : OutItem) : Prop :=
  (s.slot t).outs = [o] ∧ o.items = [i] ∧ o.fail = none ∧ o.multi = false ∧ i.done = false ∧ i.stall = .none ∧ i.second = false ∧
  (i.acc.size = 1 ∨ i.acc.size = 2 ∨ i.acc.size = 4 ∨ i.acc.size = 8) ∧ s.coreOwns t.core i.acc.va i.acc.size ∧ i.home = lsHome t.core i.acc.va.toNat ∧
  (s.setSlot t { s.slot t with outs := [] }).calmButCopies = true ∧ (s.core t.core).copies = []

/-- A thread at an instruction boundary with a handler to enter (R341). -/
def State.mayTrap (s : State) (t : Tid) : Prop :=
  (s.slot t).st = .ready ∧ (s.slot t).cont = none ∧ (s.slot t).cr.intrap = false ∧ (s.slot t).cr.tvec ≠ 0

/-- A gang that is resident and alive and is not being saved. -/
def Gang.runs (g : Gang) : Prop := g.image = none ∧ g.fatal = none ∧ g.preempt = false

/-- Pre-emption of a gang has begun (R321). -/
def State.saving (t : State) (g : Gang) : Prop := (t.gang g.id).map (·.preempt) = some true ∧ t.todo.contains (.preemptSave g.id) = true

/-- A translated address that an I/O die unit reaches for a context without a fault: a leaf in the cache of its die gives the home, in HBM, whose controller lets
the context's key and world pass, on a line in clear with nothing wrong; the unit has made no access of its action yet (R347, R348, R354, R382, R386). -/
def State.unitSees (s : State) (ag : Agent) (ctx : BitVec 8) (va : Word) (n : Nat) (need : Need) (h : Nat) : Prop :=
  va.toNat % n = 0 ∧ isTranslated va = true ∧ s.lookup (SMap.getD s.iocaches (unitDie ag) []) ctx va need = .home h ∧ homeKind h = 0 ∧ homeIsLs h = false ∧
  s.refused = [] ∧ s.mcOk ctx = true ∧ s.worldRefuses ctx h = false ∧ s.tampered 0 = false ∧ s.badLines = [] ∧ s.poison = [] ∧ s.lineKeys = [] ∧ s.made.all (fun m => m.agent != ag) = true

/-- k units of n bytes from an address, at homes that follow one another. -/
def State.unitSeesAll (s : State) (ag : Agent) (ctx : BitVec 8) (va : Word) (n k : Nat) (need : Need) (h : Nat) : Prop :=
  ∀ i, i < k → s.unitSees ag ctx (va + BitVec.ofNat 64 (n * i)) n need (h + n * i)

/-- n words of memory from a home. -/
def State.wordVec (s : State) (h n : Nat) : Vector Word n := Vector.ofFn (fun i : Fin n => BitVec.ofNat 64 (Memory.readN s.mem (h + 8 * i.val) 8))

/-- One enabled queue, in order, of a context that does not fail, whose head is readable at home h, and nothing else in the dispatcher. -/
def State.oneQueue (s : State) (n : Nat) (q : Queue) (h : Nat) : Prop :=
  s.queues = [(n, q)] ∧ q.en = true ∧ q.fault = none ∧ s.failing q.ctx = false ∧ q.read ≠ q.write ∧ s.launches = [] ∧ s.replays = [] ∧ s.plat.sleeping = false ∧
  s.unitSeesAll (.queue n) q.ctx (q.packetAt q.read.toNat) 8 16 .load h

/-- The thread of an instruction that a join unit has accepted waits for the unit's reply (R337). -/
def State.asks (s : State) (t : Tid) (c : Cont) : Prop :=
  (s.slot t).st = .parked ∧ (s.slot t).await = .unit ∧ (s.slot t).cont = some c ∧ c.step = 1

/-- The reply has come: the thread is READY and its instruction holds the value. -/
def State.repliedTo (u : State) (t : Tid) (c : Cont) (v : Word) : Prop :=
  (u.slot t).st = .ready ∧ (u.slot t).cont = some { c with step := 2, acc := [v.setWidth 512] }

/-- A join unit at the start of its cycle whose next instruction is i. -/
def State.handles (s : State) (u : BitVec 1) (i : UnitInstr) (is : List UnitInstr) : Prop :=
  (s.join u.toNat).instrs = i :: is ∧ (s.join u.toNat).phase = 0 ∧ (s.join u.toNat).stalled = false

/-- Entry k of unit u, and the binding of its group. -/
def State.hasEntry (s : State) (u : BitVec 1) (k : Nat) (e : Entry) (b : Nat) (g : Group) : Prop :=
  SMap.find (s.join u.toNat).entries k = some e ∧ (s.join u.toNat).binding e.ctx e.group = some (b, g) ∧ SMap.find (s.join u.toNat).groups b = some g

/-- The entry that stands at k after an event. -/
def State.entryIs (s : State) (u : BitVec 1) (k : Nat) (p : Entry → Prop) : Prop := ∃ e, SMap.find (s.join u.toNat).entries k = some e ∧ p e

/-- A 32-bit word of memory. -/
def State.half (s : State) (h : Nat) : Nat := Memory.readN s.mem h 4

/-- A binding with nothing to write reaches the next record of a ring, and the field of its group record that keeps the ring's index, elsewhere (R325). -/
def State.ringSees (s : State) (u b : Nat) (g : Group) (r : Ring) (h q : Nat) : Prop :=
  g.work = [] ∧ s.unitSees (.group u b) g.ctx (g.ringAt r) 32 .store h ∧ s.unitSees (.group u b) g.ctx (g.addr + BitVec.ofNat 64 (g.advance r).2.1) 4 .store q ∧
  (q + 4 ≤ h ∨ h + 32 ≤ q)

/-- A record of a key, with a reason, stands at its place in a ring, and the ring's index has passed it (R325, R331). -/
def State.ringHas (w : State) (h q : Nat) (key : Word) (reason index : Nat) : Prop :=
  Memory.readN w.mem h 8 = key.toNat ∧ (Memory.byte w.mem (h + 11)).toNat = reason ∧ w.half q = index

/-- Lag of an episode as its completion sees it (R331). -/
def lagOf (g : Group) (e : Entry) : Nat := (g.version - e.desc[1].extractLsb' 32 32).toNat

/-- A valid entry that names the next table (R346). -/
def pointsTo (level : Nat) (e : Word) (t : Nat) : Prop :=
  e.getLsbD 0 = true ∧ e.getLsbD 1 = false ∧ pteBad level e = false ∧ t = e.toNat / 2 ^ 16 % 2 ^ 41 * 2 ^ 16

/-- A message that the package takes (R396). -/
def State.receives (s : State) (m : Msg) (ty : BitVec 8) : Prop :=
  m.ty = ty ∧ m.dst = s.plat.self ∧ s.plat.power = .run ∧ s.plat.boot = 6

/-- A request of n bytes by a package for HBM of world 0 at physical address pa, on a line with nothing wrong (R397, R398). -/
def State.asksHbm (s : State) (m : Msg) (pa n : Nat) : Prop :=
  m.hdr.toNat % 256 = n ∧ n ∈ [1, 2, 4, 8, 16, 32, 64] ∧ m.addr.toNat % 2 ^ 48 = 0x100000000000 + pa ∧ pa % n = 0 ∧ Config.isPackage m.src = true ∧ m.world = 0 ∧
  s.inWorld pa n 0 = true ∧ s.poison = [] ∧ s.badLines = [] ∧ s.lineKeys = [] ∧ s.plat.linksFailed = 0

/-- One message leaves the package: an answer to m. -/
def Replies (s u : State) (m : Msg) (ty : BitVec 8) (p : Msg → Prop) : Prop :=
  ∃ r, u.sent = s.sent ++ [r] ∧ r.ty = ty ∧ r.src = s.plat.self ∧ r.dst = m.src ∧ r.tag = m.tag ∧ r.world = m.world ∧ p r

/-- A mailbox operation has ended with a status (R402). -/
def State.mailEnds (u : State) (fn : BitVec 6) (st : BitVec 8) : Prop := (u.fn fn.toNat).mcmd.getLsbD 63 = false ∧ (u.fn fn.toNat).mstat = st

/-- It ended with a status other than 0 and changed nothing but its mailbox. -/
def MailRefused (s u : State) (fn : BitVec 6) (st : BitVec 8) : Prop :=
  u.mailEnds fn st ∧ u.ssc = s.ssc ∧ u.mem = s.mem ∧ u.tags = s.tags ∧ u.cores = s.cores ∧ u.queues = s.queues ∧ u.gangs = s.gangs ∧ u.launches = s.launches ∧
  (u.fn fn.toNat).mail = (s.fn fn.toNat).mail ∧ ∀ m, m ≠ fn.toNat → u.fn m = s.fn m

/-- The package is Off, with nothing but its fuses left (R408). -/
def State.isOff (u s : State) : Prop :=
  u.plat.power = .off ∧ u.mem = [] ∧ u.tags = [] ∧ u.cores = [] ∧ u.gangs = [] ∧ u.ssc.contexts = [] ∧ u.ssc.life = s.ssc.life ∧ u.ssc.deviceId = s.ssc.deviceId ∧
  u.plat.grade = s.plat.grade ∧ u.plat.fused = s.plat.fused

end Sys2Proof.Machine
end

