-- ==== Sys2Proof/Certificates/Slice0/Obligations.lean ====
section
/-!
DEFINITION. Statements for the provers. A statement about an instruction holds in every state in which the conditions that it names hold, those
that no run reaches included.
-/

open Sys2Proof Sys2Proof.Machine

/-! ### Scalar instructions (09 R130 to R138) -/

/-- 09 R131: AND, OR, XOR and the shifts of two registers; a shift count is the low six bits of its register (R130).
09 R130, R131: the immediate forms of ADD, RSUB, AND, OR, XOR and the shifts. A shift count above 63 is no instruction (R130), so the low six
bits of the immediate are all of it. -/
def Obligations.scalar_logic_and_immediate_results : Prop :=
   (ScalarTwo .andR (fun x y => x &&& y) ∧ ScalarTwo .orR (fun x y => x ||| y) ∧ ScalarTwo .xorR (fun x y => x ^^^ y) ∧
    ScalarTwo .sll (fun x y => x <<< (y.toNat % 64)) ∧ ScalarTwo .srl (fun x y => x >>> (y.toNat % 64)) ∧
    ScalarTwo .sra (fun x y => x.sshiftRight (y.toNat % 64))) ∧
   (ScalarImm11 .addI (fun x y => x + y) ∧ ScalarImm16 .addW (fun x y => x + y) ∧
    ScalarImm11 .rsubI (fun x y => y - x) ∧ ScalarImm16 .rsubW (fun x y => y - x) ∧
    ScalarImm11 .andI (fun x y => x &&& y) ∧ ScalarImm16 .andW (fun x y => x &&& y) ∧
    ScalarImm11 .orI (fun x y => x ||| y) ∧ ScalarImm16 .orW (fun x y => x ||| y) ∧
    ScalarImm11 .xorI (fun x y => x ^^^ y) ∧ ScalarImm16 .xorW (fun x y => x ^^^ y) ∧
    ScalarImm11 .sllI (fun x y => x <<< (y.toNat % 64)) ∧ ScalarImm16 .sllW (fun x y => x <<< (y.toNat % 64)) ∧
    ScalarImm11 .srlI (fun x y => x >>> (y.toNat % 64)) ∧ ScalarImm16 .srlW (fun x y => x >>> (y.toNat % 64)) ∧
    ScalarImm11 .sraI (fun x y => x.sshiftRight (y.toNat % 64)) ∧ ScalarImm16 .sraW (fun x y => x.sshiftRight (y.toNat % 64)))

/-- 09 R132: the relations write 1 where they hold and 0 otherwise, the minimum and maximum the smaller and the larger operand; the U forms compare
unsigned, a sign-extended immediate included. Flags stay as they are (State.setS); a port that may not be used is a port fault; a U bit beside
F 0 to 5 is a reserved-field violation. -/
def Obligations.scalar_compare_results : Prop :=
  let bit (b : Bool) : Word := if b then 1 else 0
  ScalarTwo .seq (fun x y => bit (decide (x = y))) ∧ ScalarImm16 .seqW (fun x y => bit (decide (x = y))) ∧
  ScalarTwo .sne (fun x y => bit (decide (x ≠ y))) ∧ ScalarImm16 .sneW (fun x y => bit (decide (x ≠ y))) ∧
  ScalarTwo .slt (fun x y => bit (decide (x.toInt < y.toInt))) ∧ ScalarImm16 .sltW (fun x y => bit (decide (x.toInt < y.toInt))) ∧
  ScalarTwo .sltu (fun x y => bit (decide (x.toNat < y.toNat))) ∧ ScalarImm16 .sltuW (fun x y => bit (decide (x.toNat < y.toNat))) ∧
  ScalarTwo .sle (fun x y => bit (decide (x.toInt ≤ y.toInt))) ∧ ScalarImm16 .sleW (fun x y => bit (decide (x.toInt ≤ y.toInt))) ∧
  ScalarTwo .sleu (fun x y => bit (decide (x.toNat ≤ y.toNat))) ∧ ScalarImm16 .sleuW (fun x y => bit (decide (x.toNat ≤ y.toNat))) ∧
  ScalarTwo .minS (fun x y => if x.toInt ≤ y.toInt then x else y) ∧ ScalarImm16 .minW (fun x y => if x.toInt ≤ y.toInt then x else y) ∧
  ScalarTwo .minU (fun x y => if x.toNat ≤ y.toNat then x else y) ∧ ScalarImm16 .minuW (fun x y => if x.toNat ≤ y.toNat then x else y) ∧
  ScalarTwo .maxS (fun x y => if x.toInt ≤ y.toInt then y else x) ∧ ScalarImm16 .maxW (fun x y => if x.toInt ≤ y.toInt then y else x) ∧
  ScalarTwo .maxU (fun x y => if x.toNat ≤ y.toNat then y else x) ∧ ScalarImm16 .maxuW (fun x y => if x.toNat ≤ y.toNat then y else x) ∧
  (∀ (d : SReg) (f : BitVec 3) (v : BitVec 16), f.toNat < 6 → v.getLsbD 0 = true → decodeHT (0x42#8 ++ d ++ f) (.one v) = .error .reservedField) ∧
  (∀ (d : SReg) (f : BitVec 3) (v : BitVec 32), f.toNat < 6 → v.getLsbD 16 = true → decodeHT (0x82#8 ++ d ++ f) (.two v) = .error .reservedField)

/-- 09 R134: what each bit of the result is, or how many bits are counted.
09 R135: EXT and EXTU take len bits from pos, sign- and zero-extended; INS replaces bits pos to pos + len - 1 and keeps every other bit; a
field that reaches above bit 63 is an illegal instruction (R120, check 5). -/
def Obligations.scalar_bit_and_field_results : Prop :=
   (ScalarOne .clz (fun x => BitVec.ofNat 64 (((List.range 64).takeWhile (fun k => !x.getLsbD (63 - k))).length)) ∧
    ScalarOne .ctz (fun x => BitVec.ofNat 64 (((List.range 64).takeWhile (fun k => !x.getLsbD k)).length)) ∧
    ScalarOne .popc (fun x => BitVec.ofNat 64 ((List.range 64).countP (fun k => x.getLsbD k))) ∧
    (∀ (s : State) (d b : SReg), s.portsOpen [b] [d] [] [] = true →
      ∃ v : Word, exec (.brev d b) s = .next (s.setS [b] d v) ∧ ∀ i, i < 64 → v.getLsbD i = (s.rs b).getLsbD (63 - i)) ∧
    (∀ (s : State) (d b : SReg), s.portsOpen [b] [d] [] [] = true →
      ∃ v : Word, exec (.bswap d b) s = .next (s.setS [b] d v) ∧
        ∀ i j, i < 8 → j < 8 → v.getLsbD (8 * i + j) = (s.rs b).getLsbD (8 * (7 - i) + j)) ∧
    (∀ (s : State) (d b c : SReg), s.portsOpen [b, c] [d] [] [] = true →
      ∃ v : Word, exec (.rol d b c) s = .next (s.setS [b, c] d v) ∧
        ∀ i, i < 64 → v.getLsbD ((i + (s.rs c).toNat) % 64) = (s.rs b).getLsbD i) ∧
    (∀ (s : State) (d b c : SReg), s.portsOpen [b, c] [d] [] [] = true →
      ∃ v : Word, exec (.ror d b c) s = .next (s.setS [b, c] d v) ∧
        ∀ i, i < 64 → v.getLsbD i = (s.rs b).getLsbD ((i + (s.rs c).toNat) % 64)) ∧
    (∀ d b c, PortFaults (.brev d b) [b] [d] ∧ PortFaults (.bswap d b) [b] [d] ∧ PortFaults (.rol d b c) [b, c] [d] ∧ PortFaults (.ror d b c) [b, c] [d])) ∧
   ((∀ (s : State) (d b : SReg) (pos lenM1 : BitVec 6), pos.toNat + lenM1.toNat < 64 →
       (s.portsOpen [b] [d] [] [] = true →
         ∃ v : Word, exec (.ext d b pos lenM1) s = .next (s.setS [b] d v) ∧
           ∀ i, i < 64 → v.getLsbD i = (s.rs b).getLsbD (pos.toNat + min i lenM1.toNat)) ∧
       (s.portsOpen [b] [d] [] [] = true →
         ∃ v : Word, exec (.extu d b pos lenM1) s = .next (s.setS [b] d v) ∧
           ∀ i, i < 64 → v.getLsbD i = (decide (i ≤ lenM1.toNat) && (s.rs b).getLsbD (pos.toNat + i))) ∧
       (s.portsOpen [b, d] [d] [] [] = true →
         ∃ v : Word, exec (.ins d b pos lenM1) s = .next (s.setS [b, d] d v) ∧
           ∀ i, i < 64 → v.getLsbD i = if pos.toNat ≤ i ∧ i ≤ pos.toNat + lenM1.toNat then (s.rs b).getLsbD (i - pos.toNat) else (s.rs d).getLsbD i)) ∧
    (∀ (d b : SReg) (pos lenM1 : BitVec 6), PortFaults (.ext d b pos lenM1) [b] [d] ∧ PortFaults (.extu d b pos lenM1) [b] [d] ∧
      PortFaults (.ins d b pos lenM1) [b, d] [d]) ∧
    (∀ (d : SReg) (f : BitVec 3) (v : BitVec 32), f.toNat < 3 → 64 ≤ (v.extractLsb' 6 6).toNat + (v.extractLsb' 0 6).toNat →
      decodeHT (0x84#8 ++ d ++ f) (.two v) = .error .reservedValue))

/-- 09 R136 to R138: constants, LIH, addresses, MOV and SEL. -/
def Obligations.scalar_move_results : Prop :=
  ScalarConst 11 .li (·.signExtend 64) ∧ ScalarConst 16 .liW (·.signExtend 64) ∧ ScalarConst 48 .liX0 (·.signExtend 64) ∧
  ScalarConst 11 .liZ (·.zeroExtend 64) ∧ ScalarConst 16 .liZW (·.zeroExtend 64) ∧ ScalarConst 48 .liZX0 (·.zeroExtend 64) ∧
  (∀ (s : State) (d : SReg) (i : BitVec 16), s.portsOpen [d] [d] [] [] = true →
    exec (.lih d i) s = .next (s.setS [d] d (BitVec.ofNat 64 (i.toNat * 2 ^ 48 + (s.rs d).toNat % 2 ^ 48)))) ∧
  ScalarImm11 .lea (fun x y => x + y) ∧ ScalarImm16 .leaW (fun x y => x + y) ∧
  (∀ (n : BitVec 2) (s : State) (d b c : SReg) (i : BitVec 33), s.portsOpen [b, c] [d] [] [] = true →
    exec (.leaX1 n d b c i) s = .next (s.setS [b, c] d (s.rs b + s.rs c * BitVec.ofNat 64 (2 ^ n.toNat) + i.signExtend 64))) ∧
  ScalarOne .mov (fun x => x) ∧
  (∀ (s : State) (d b c k : SReg), s.portsOpen [b, c, k] [d] [] [] = true →
    exec (.sel d b c k) s = .next (s.setS [b, c, k] d (if s.rs k = 0 then s.rs c else s.rs b))) ∧
  (∀ (n : BitVec 2) (d b c k : SReg) (i : BitVec 16) (j : BitVec 33), PortFaults (.lih d i) [d] [d] ∧ PortFaults (.leaX1 n d b c j) [b, c] [d] ∧
    PortFaults (.sel d b c k) [b, c, k] [d]) ∧
  (∀ (s : State) (v : Word) (vs : List Word), s.me.st = .ready → s.me.port.su = true → s.me.port.sq = v :: vs →
    ∃ t, exec (.mov 0 6) s = .next t ∧ t.me.port.sq = vs ∧ t.rs 0 = 0)

/-- 09 R131, 05 R93, R94: ADD and SUB. Without SAT the sum or difference modulo 2^64; with SAT the exact signed or unsigned one, clamped; where it was
clamped, SX is ORed into c.fflags, or, where c.fen enables SX, the instruction takes a numeric trap instead of its result.
09 R133, 05 R91: the product's low and high halves; the quotient truncated toward zero and the remainder with the dividend's sign; a division by zero
gives all ones and the dividend, and the most negative value by -1 gives itself and 0. -/
def Obligations.scalar_arithmetic_results : Prop :=
   (∀ (s : State) (d b c : SReg), s.portsOpen [b, c] [d] [] [] = true →
      exec (.add d b c 0) s = .next (s.setS [b, c] d (s.rs b + s.rs c)) ∧
      exec (.sub d b c 0) s = .next (s.setS [b, c] d (s.rs b - s.rs c)) ∧
      (∀ (op : Instr) (sat : BitVec 2) (v lo hi : Int),
        ((op = .add d b c sat ∧ sat = 1 ∧ v = (s.rs b).toInt + (s.rs c).toInt ∨
          op = .sub d b c sat ∧ sat = 1 ∧ v = (s.rs b).toInt - (s.rs c).toInt) ∧ lo = -2 ^ 63 ∧ hi = 2 ^ 63 - 1 ∨
         (op = .add d b c sat ∧ sat = 2 ∧ v = (s.rs b).toNat + (s.rs c).toNat ∨
          op = .sub d b c sat ∧ sat = 2 ∧ v = ((s.rs b).toNat : Int) - (s.rs c).toNat) ∧ lo = 0 ∧ hi = 2 ^ 64 - 1) →
        let x : Word := BitVec.ofInt 64 (max lo (min hi v))
        if lo ≤ v ∧ v ≤ hi then exec op s = .next (s.setS [b, c] d x)
        else if s.me.cr.fen.getLsbD 5 then exec op s = .next (s.precise (trapOf 15 0 0x20))
        else exec op s = .next ((s.orFlags 0x20).setS [b, c] d x))) ∧
   (ScalarTwo .mul (fun x y => BitVec.ofNat 64 (x.toNat * y.toNat)) ∧
    ScalarTwo .mulh (fun x y => BitVec.ofInt 64 (x.toInt * y.toInt / 2 ^ 64)) ∧
    ScalarTwo .mulhu (fun x y => BitVec.ofNat 64 (x.toNat * y.toNat / 2 ^ 64)) ∧
    ScalarTwo .mulhsu (fun x y => BitVec.ofInt 64 (x.toInt * y.toNat / 2 ^ 64)) ∧
    ScalarTwo .div (fun x y => if y = 0 then BitVec.allOnes 64 else BitVec.ofInt 64 (x.toInt.tdiv y.toInt)) ∧
    ScalarTwo .divu (fun x y => if y = 0 then BitVec.allOnes 64 else BitVec.ofNat 64 (x.toNat / y.toNat)) ∧
    ScalarTwo .rem (fun x y => if y = 0 then x else BitVec.ofInt 64 (x.toInt.tmod y.toInt)) ∧
    ScalarTwo .remu (fun x y => if y = 0 then x else BitVec.ofNat 64 (x.toNat % y.toNat)))

/-- 07 R97, 09 R126; 09 R131 to R138: the frame of the scalar instructions named by scalarShape, for fields that name no port. The thread goes on at NEXT; the destination
register holds the result (s0 reads zero); every other register, the control registers with their flags, the ports, the descriptors, the
vectors, and everything outside the slot (memory, tags, other threads) are as before.
07 R97, 09 R126: a register other than s0 and the ports reads as the result that was written to it, a write of s0 is discarded.
09 R128, 03 R55: s7 as a source, s6 as a destination and a port register whose port is disabled are a port fault, which pops, pushes and writes nothing.
28 R388, 24 R338: a push to another core for which the context has no key is a protection trap with code 8, above a port fault (c.tval 0 is the model's choice: log entry 83).
03 R55; 09 R126; 14 R231: port forms of the results above. A source s6 reads the oldest entry of the thread's scalar queue, however often it is named, and one entry is popped; a destination s7
pushes the result at the end of the target's queue and the thread goes on at NEXT. -/
def Obligations.scalar_frame_and_ports : Prop :=
   (∀ (i : Instr) (srcs : List SReg) (d : SReg) (s t : State), scalarShape i = some (srcs, d) → noPorts srcs [d] = true → exec i s = .next t →
      ∃ x : Slot, t = s.setMe x ∧ t.me = x ∧ x.pc = s.npc ∧ x.st = .ready ∧ x.readS 0 = 0 ∧ (∀ k, k ≠ d → x.readS k = s.rs k) ∧
        x.regs.vec = s.me.regs.vec ∧ x.regs.desc = s.me.regs.desc ∧ x.cr = s.me.cr ∧ x.port = s.me.port ∧ x.mode = s.me.mode ∧
        x.blanks = s.me.blanks ∧ x.outs = s.me.outs ∧ x.deque = s.me.deque ∧
        (∀ u, u ≠ s.cur → t.slot u = s.slot u) ∧ (∀ a, Memory.byte t.mem a = Memory.byte s.mem a) ∧ t.tags = s.tags) ∧
   (∀ (s : State) (srcs : List SReg) (d : SReg) (v : Word), noPorts srcs [d] = true →
      (s.setS srcs d v).rs d = if d = 0 then 0 else v) ∧
   (∀ (i : Instr) (srcs : List SReg) (d : SReg) (s : State), scalarShape i = some (srcs, d) →
      (s.pushShut [d] [] = false → s.me.portBad srcs [d] = true → exec i s = .next (s.precise (trapOf 12 0 0))) ∧
      (s.pushShut [d] [] = true → exec i s = .next (s.precise (trapOf 7 8 0)))) ∧
   ((∀ (s : State) (srcs : List SReg) (d : SReg) (x v : Word) (vs : List Word), srcs.contains 6 = true → d ≠ 7 → s.me.port.sq = v :: vs → s.me.st = .ready →
      s.rs 6 = v ∧ (s.setS srcs d x).me.port.sq = vs ∧ (s.setS srcs d x).me.pc = s.npc ∧ (d ≠ 6 → (s.setS srcs d x).rs d = if d = 0 then 0 else x)) ∧
    (∀ (s : State) (srcs : List SReg) (x : Word), srcs.contains 6 = false → s.me.st = .ready →
      let t := s.setS srcs 7 x
      (t.slot (s.portTarget s.cur)).port.sq = (s.slot (s.portTarget s.cur)).port.sq ++ [x] ∧ t.me.pc = s.npc))

/-! ### Control: branches, calls, traps, control registers (09 R139 to R150, 07 R97 to R102, 23) -/

/-- 09 R139: each branch and its condition; a taken one goes to its target (R118), another one to NEXT.
07 R118, R114; 26 R371: the target of a branch is slot off[4:0] of the line that lies off[26:5] lines, signed, from the branch's; a taken transfer sets the
PC to it with bit 0 zero, keeps every register and leaves a trace record of kind 1 with the branch's address, the target and the core's count at the issue.
09 R143, R144; 07 R114: LPAD and NOP only go on at NEXT. -/
def Obligations.branch_and_nop_results : Prop :=
   (BranchOne .beqz (fun x => decide (x = 0)) ∧ BranchOne .bnez (fun x => decide (x ≠ 0)) ∧
    BranchOne .bltz (fun x => decide (x.toInt < 0)) ∧ BranchOne .bgez (fun x => decide (0 ≤ x.toInt)) ∧
    BranchOne .bgtz (fun x => decide (0 < x.toInt)) ∧ BranchOne .blez (fun x => decide (x.toInt ≤ 0)) ∧
    BranchTwo .beq (fun x y => decide (x = y)) ∧ BranchTwo .bne (fun x y => decide (x ≠ y)) ∧
    BranchTwo .blt (fun x y => decide (x.toInt < y.toInt)) ∧ BranchTwo .bge (fun x y => decide (y.toInt ≤ x.toInt)) ∧
    BranchTwo .bltu (fun x y => decide (x.toNat < y.toNat)) ∧ BranchTwo .bgeu (fun x y => decide (y.toNat ≤ x.toNat)) ∧
    (∀ (s : State) (off : BitVec 27), exec (.br off) s = .next (s.jump (branchTarget s.me.pc off))) ∧
    (∀ (s : State) (b : SReg) (off : BitVec 27), s.portsOpen [b] [b] [] [] = true →
      exec (.dbnz b off) s = .next
        (if s.rs b = 1 then (s.ws b 0).retire else (s.ws b (s.rs b - 1)).jump (branchTarget s.me.pc off)))) ∧
   ((∀ (pc : Word) (off : BitVec 27),
      branchTarget pc off = (pc &&& ~~~(63 : Word)) + BitVec.ofInt 64 (64 * (off.extractLsb' 5 22).toInt) + BitVec.ofNat 64 (2 * (off.toNat % 32))) ∧
    (∀ (s : State) (a : Word),
      let t := s.jump a
      t.me.pc = a &&& ~~~(1 : Word) ∧ t.me.src = s.me.pc ∧ t.me.st = .ready ∧ t.me.cont = none ∧ t.me.regs = s.me.regs ∧ t.me.cr = s.me.cr ∧
      t.me.port = s.me.port ∧ SameButSlot s t s.cur ∧
      (s.myCore.frozen = true → t.myCore.trace = s.myCore.trace) ∧
      (s.myCore.frozen = false →
        t.myCore.trnext = s.myCore.trnext + 1 ∧
        ∃ r : BitVec 128, SMap.find t.myCore.trace (s.myCore.trnext.toNat % 256) = some r ∧ r.extractLsb' 60 4 = 1 ∧
          r.extractLsb' 57 3 = s.cur.slot ∧ r.extractLsb' 1 48 = s.me.pc.extractLsb' 1 48 ∧
          r.extractLsb' 112 16 = (match s.me.cont with
            | some c => c.count
            | none => s.myCore.cyc).extractLsb' 0 16 ∧ r.extractLsb' 64 48 = (a &&& ~~~(1 : Word)).extractLsb' 0 48))) ∧
   (∀ (s : State), exec .nop s = .next s.retire ∧ (∀ l, exec (.lpad l) s = .next s.retire) ∧
      s.retire.me = { s.me with pc := s.npc, src := s.me.pc, st := .ready, cont := none, await := .none } ∧ SameButSlot s s.retire s.cur)

/-- 09 R140; 07 R97, R99: CALL from a frame that needs no spill.
09 R140; 07 R97, R99: RET to a resident frame: the PC is s15 with bit 0 clear, the callee's receive bank is the caller's pass bank.
07 R97, R99; 09 R140: a call and an immediate return bring every register back but s31, which holds the link.
07 R100, R101; 24 R339: a call that needs a spill for which the window stack has no room takes the window-stack trap with code 1, a return that needs a fill from an
empty window stack the one with code 2; c.tval is c.wsp. -/
def Obligations.calls_and_windows : Prop :=
   (∀ (s : State) (off : BitVec 27), s.callFits = true →
      ∃ t, exec (.call off) s = .next t ∧ t.me.pc = branchTarget s.me.pc off ∧ Called s t ∧ SameButSlot s t s.cur) ∧
   (∀ (s : State), s.me.regs.frame = .normal → 0 < s.me.regs.older →
      ∃ t, exec .ret s = .next t ∧ t.me.pc = s.rs 15 &&& ~~~(1 : Word) ∧ (∀ k : SReg, 8 ≤ k.toNat → k.toNat < 16 → t.rs (k + 16) = s.rs k) ∧
        (∀ k : SReg, k.toNat < 6 → t.rs k = s.rs k) ∧ t.me.regs.older + 1 = s.me.regs.older ∧ t.me.regs.vec = s.me.regs.vec ∧
        t.me.regs.desc = s.me.regs.desc ∧ t.me.cr = s.me.cr ∧ SameButSlot s t s.cur) ∧
   (∀ (s : State) (off : BitVec 27), s.callFits = true →
      ∃ t u, exec (.call off) s = .next t ∧ exec .ret t = .next u ∧ u.me.pc = s.npc &&& ~~~(1 : Word) ∧ u.rs 31 = s.npc ∧
        (∀ k : SReg, k ≠ 31 → u.rs k = s.rs k) ∧ u.me.regs.older = s.me.regs.older ∧ u.me.regs.cur = s.me.regs.cur) ∧
   ((∀ (s : State) (off : BitVec 27), s.me.regs.frame = .normal → 2 ≤ s.me.regs.older → s.me.cr.wsl.toNat < s.me.cr.wsp.toNat + 1 →
      exec (.call off) s = .next (s.precise (trapOf 11 1 (BitVec.ofNat 64 (128 * s.me.cr.wsp.toNat))))) ∧
    (∀ (s : State), s.me.regs.frame = .normal → s.me.regs.older = 0 → s.me.cr.wsp = s.me.cr.wsb →
      exec .ret s = .next (s.precise (trapOf 11 2 (BitVec.ofNat 64 (128 * s.me.cr.wsp.toNat))))))

/-- 09 R142, R143: jump tables in the own local store whose target's line is in the instruction cache; the index bound is the immediate plus one, or a register in the long
forms.
09 R142, 24 R339: a misaligned base and an index that is not below the bound trap, for every one of the four forms.
Where it rests on a choice of the model and not on the spec's words, the choice is that of log entry 6. -/
def Obligations.jump_tables : Prop :=
   (∀ (s : State) (b c : SReg) (base i n e : Word) (l : BitVec 11),
      base = s.rs c → i = s.rs b → base.toNat % 8 = 0 → i.toNat < n.toNat → s.plain (base + 8 * i) 8 = true →
      e = BitVec.ofNat 64 (s.bytesAt (base + 8 * i).toNat 8) → s.landsOn (e &&& ~~~(1 : Word)) l = true →
      (∀ (l5 : BitVec 5) (nM1 : BitVec 6), l = l5.setWidth 11 → n.toNat = nM1.toNat + 1 → s.portsOpen [b, c] [] [] [] = true →
        (∃ t, exec (.jt l5 b c nM1) s = .next t ∧ t.me.pc = e &&& ~~~(1 : Word) ∧ t.me.regs = s.me.regs ∧ t.me.cr = s.me.cr ∧ t.mem = s.mem) ∧
        (s.callFits = true → ∃ t, exec (.callt l5 b c nM1) s = .next t ∧ t.me.pc = e &&& ~~~(1 : Word) ∧ Called s t)) ∧
      (∀ nr : SReg, n = s.rs nr → s.portsOpen [b, c, nr] [] [] [] = true →
        (∃ t, exec (.jtW b c nr l) s = .next t ∧ t.me.pc = e &&& ~~~(1 : Word) ∧ t.me.regs = s.me.regs ∧ t.me.cr = s.me.cr ∧ t.mem = s.mem) ∧
        (s.callFits = true → ∃ t, exec (.calltW b c nr l) s = .next t ∧ t.me.pc = e &&& ~~~(1 : Word) ∧ Called s t))) ∧
   (∀ (s : State) (b c n : SReg) (l5 : BitVec 5) (l : BitVec 11) (nM1 : BitVec 6),
      (s.portsOpen [b, c] [] [] [] = true →
        ((s.rs c).toNat % 8 ≠ 0 →
          exec (.jt l5 b c nM1) s = .next (s.precise (trapOf 5 0 (s.rs c + 8 * s.rs b))) ∧
          exec (.callt l5 b c nM1) s = .next (s.precise (trapOf 5 0 (s.rs c + 8 * s.rs b)))) ∧
        ((s.rs c).toNat % 8 = 0 → nM1.toNat < (s.rs b).toNat →
          exec (.jt l5 b c nM1) s = .next (s.precise (trapOf 10 0 (s.rs b))) ∧
          exec (.callt l5 b c nM1) s = .next (s.precise (trapOf 10 0 (s.rs b))))) ∧
      (s.portsOpen [b, c, n] [] [] [] = true →
        ((s.rs c).toNat % 8 ≠ 0 →
          exec (.jtW b c n l) s = .next (s.precise (trapOf 5 0 (s.rs c + 8 * s.rs b))) ∧
          exec (.calltW b c n l) s = .next (s.precise (trapOf 5 0 (s.rs c + 8 * s.rs b)))) ∧
        ((s.rs c).toNat % 8 = 0 → (s.rs n).toNat ≤ (s.rs b).toNat →
          exec (.jtW b c n l) s = .next (s.precise (trapOf 10 0 (s.rs b))) ∧
          exec (.calltW b c n l) s = .next (s.precise (trapOf 10 0 (s.rs b))))))

/-- 09 R147, R148, 07 R120; 24 R340: trap entry, for any thread; TRAP completes and traps with c.epc at NEXT, class 20 and its operand as c.tval; a head that is no instruction traps
precisely with c.epc at its own address.
24 R343, R344, R352: a trap in a handler or without one, and a fault that the host refused, is fatal for the gang: the gang is marked with class and address, its threads wait for nothing, its cores'
trace rings freeze, and a dump is asked for unless the context itself fails (28 R393); only the first fatal trap counts, and relaxed accesses that have issued stay.
A preempt notice is never one (R338). -/
def Obligations.traps_taken : Prop :=
   ((∀ (s : State) (u : Tid) (i : TrapInfo) (epc pc2 : Word) (late defer : Bool),
      (s.slot u).cr.intrap = false → (s.slot u).cr.tvec ≠ 0 → i.cls ≠ 8 → TrapEntered s (s.takeTrap u i epc pc2 late defer) u i epc pc2 late defer) ∧
    (∀ (s : State) (b : SReg) (code : BitVec 11), s.me.cr.intrap = false → s.me.cr.tvec ≠ 0 → s.portsOpen [b] [] [] [] = true →
      ∃ t, exec (.trap b code) s = .next t ∧
        TrapEntered (s.pops [b] []) t s.cur { cls := 20, code := code.setWidth 16, tval := s.rs b } s.npc s.me.pc true false) ∧
    (∀ (b : SReg) (code : BitVec 11), PortFaults (.trap b code) [b] []) ∧
    (∀ (s : State) (cls : BitVec 5) (code : BitVec 16) (tval : Word), s.me.cr.intrap = false → s.me.cr.tvec ≠ 0 → cls ≠ 8 →
      ∃ t, exec (.notAnInstruction cls code tval) s = .next t ∧
        TrapEntered (s.unwait s.cur) t s.cur { cls := cls, code := code, tval := tval } s.me.pc 0 false false)) ∧
   (∀ (s : State) (u : Tid) (i : TrapInfo) (epc pc2 : Word) (late defer : Bool) (g : Gang),
      ((s.slot u).cr.intrap = true ∨ (s.slot u).cr.tvec = 0 ∨ i.cls = 8) → i.cls ≠ 19 → s.gang (s.slot u).gang = some g →
      (g.fatal.isSome = true → s.takeTrap u i epc pc2 late defer = s) ∧
      (g.fatal = none →
        let t := s.takeTrap u i epc pc2 late defer
        (t.gang g.id).map (·.fatal) = some (some (i, u, epc)) ∧ (s.failing g.ctx = false → t.dumps = s.dumps ++ [DumpJob.new g.id]) ∧ t.todo.contains .dumpGang = true ∧
        (∀ p ∈ g.places, (t.core p.core).frozen = true) ∧
        (∀ v ∈ g.tids, (s.slot v).gang = g.id → (s.slot v).st ≠ .empty → (t.slot v).await = .none ∧ (t.slot v).cont = none ∧ (t.slot v).outs = (s.slot v).outs) ∧
        t.mem = s.mem ∧ t.tags = s.tags))

/-- 09 R149; 07 R102: ERET from the trap frame, with pass group and interrupted frame resident, goes to c.epc and makes the interrupted frame current; what a call of the
handler has spilled is filled first, the pass group, then the interrupted frame (R100, R149); outside a handler, or in a frame called by one, it is an illegal instruction.
09 R147, R149; 07 R102: a trap of a class that has an entry (not class 8: 24 R343, R352) and an immediate ERET bring the interrupted frame and its registers back; the thread goes on at c.epc. -/
def Obligations.trap_return : Prop :=
   ((∀ (s : State), s.me.cr.intrap = true → s.me.regs.frame = .trap → 2 ≤ s.me.regs.left →
      ∃ t, exec .eret s = .next t ∧ t.me.pc = BitVec.ofNat 64 (2 * s.me.cr.epc.toNat) ∧ t.me.cr = { s.me.cr with intrap := false } ∧
        t.me.regs = { s.me.regs with frame := .normal, older := s.me.regs.left - 2, left := 0 } ∧ SameButSlot s t s.cur) ∧
    (∀ (s : State) (n : Nat), s.me.cr.intrap = true → s.me.regs.frame = .trap → s.me.regs.left < 2 → n = 2 - s.me.regs.left → s.calm = true →
      (∀ k, k < n → s.me.cr.wsp - BitVec.ofNat 11 k ≠ s.me.cr.wsb ∧ s.allocated s.cur.core (128 * (s.me.cr.wsp - BitVec.ofNat 11 (k + 1)).toNat) s.myCtx = true) →
      let stacked (k i : Nat) : Word := Memory.word s.mem (lsHome s.cur.core (128 * (s.me.cr.wsp - BitVec.ofNat 11 (k + 1)).toNat + 8 * i))
      ∃ t, exec .eret s = .next t ∧ t.me.pc = BitVec.ofNat 64 (2 * s.me.cr.epc.toNat) ∧
        t.me.cr = { s.me.cr with intrap := false, wsp := s.me.cr.wsp - BitVec.ofNat 11 n } ∧ t.me.regs.frame = .normal ∧ t.me.regs.older = 0 ∧
        t.me.regs.left = 0 ∧ t.me.regs.cur = s.me.regs.cur ∧ t.me.regs.common = s.me.regs.common ∧ t.me.regs.vec = s.me.regs.vec ∧
        t.me.regs.desc = s.me.regs.desc ∧
        (∀ i, i < 16 → t.me.regs.ring[16 * s.me.regs.cur.toNat + i]? = some (stacked (n - 1) i) ∧
          t.me.regs.ring[16 * (s.me.regs.cur + 1).toNat + i]? =
            (if n = 2 then some (stacked 0 i) else s.me.regs.ring[16 * (s.me.regs.cur + 1).toNat + i]?)) ∧
        (∀ i, i < 16 → ∀ g : BitVec 2, g ≠ s.me.regs.cur → g ≠ s.me.regs.cur + 1 →
          t.me.regs.ring[16 * g.toNat + i]? = s.me.regs.ring[16 * g.toNat + i]?) ∧ SameButSlot s t s.cur) ∧
    (∀ (s : State), (s.me.cr.intrap = false ∨ s.me.regs.frame ≠ .trap) → exec .eret s = .next (s.precise s.illegal)) ∧
    (∀ (s : State), s.me.regs.frame = .trap → exec .ret s = .next (s.precise s.illegal))) ∧
   (∀ (s : State) (i : TrapInfo) (epc pc2 : Word) (late defer : Bool),
      s.me.cr.intrap = false → s.me.cr.tvec ≠ 0 → i.cls ≠ 8 → s.me.regs.frame = .normal → s.me.regs.left = 0 →
      ∃ t, exec .eret (s.takeTrap s.cur i epc pc2 late defer) = .next t ∧ t.me.pc = epc &&& ~~~(1 : Word) ∧ t.me.regs = s.me.regs ∧ t.me.cr.intrap = false ∧
        t.mem = s.mem)

/-- 09 R150; 07 R110: the value of each control register; one that had to wait for room in its port delivers the value it had at issue.
09 R150; 07 R110: MTC writes the writable fields of its register, keeps every other control register and every general register; a register whose fields are all read-only
is a protection trap with code 5, an unknown number an illegal instruction. -/
def Obligations.control_registers : Prop :=
   ((∀ (s : State) (d : SReg) (n : BitVec 11), s.portsOpen [] [d] [] [] = true → CReg.known n = true → (n = 0x016 → s.raising s.cur = false) →
      (s.cont.seen = none → s.follows (cregOrder n) = false → exec (.mfc d n) s = .next (s.setS [] d (s.creg n))) ∧
      (∀ v, s.cont.seen = some v → exec (.mfc d n) s = .next (s.setS [] d v))) ∧
    (∀ s : State,
      let c := s.me.cr
      s.creg 0x000 = c.gid ∧ s.creg 0x001 = c.gdim ∧ s.creg 0x002 = c.core ∧ s.creg 0x003 = c.ncore ∧ s.creg 0x004 = BitVec.ofNat 64 s.cur.slot.toNat ∧
      s.creg 0x005 = c.tid ∧ s.creg 0x006 = BitVec.ofNat 64 s.cur.core ∧ s.creg 0x007 = c.nactive ∧
      s.creg 0x010 = BitVec.ofNat 64 c.fmta.toNat ∧ s.creg 0x011 = BitVec.ofNat 64 c.fmtb.toNat ∧ s.creg 0x012 = BitVec.ofNat 64 c.scla.toNat ∧
      s.creg 0x013 = BitVec.ofNat 64 c.sclb.toNat ∧ s.creg 0x014 = BitVec.ofNat 64 c.nbv.toNat ∧ s.creg 0x015 = BitVec.ofNat 64 c.frm.toNat ∧
      s.creg 0x016 = BitVec.ofNat 64 c.fflags.toNat ∧ s.creg 0x017 = BitVec.ofNat 64 c.fen.toNat ∧
      s.creg 0x020 = BitVec.ofNat 64 (128 * c.wsb.toNat) ∧ s.creg 0x021 = BitVec.ofNat 64 (128 * c.wsl.toNat) ∧
      s.creg 0x022 = BitVec.ofNat 64 (128 * c.wsp.toNat) ∧ s.creg 0x028 = s.myCore.rmap0 ∧ s.creg 0x029 = s.myCore.rmap1 ∧
      s.creg 0x02A = BitVec.ofNat 64 c.sbtag.toNat ∧ s.creg 0x030 = c.rngk ∧ s.creg 0x031 = c.rngc ∧ s.creg 0x032 = c.rngch ∧
      s.creg 0x040 = BitVec.ofNat 64 (64 * c.tvec.toNat) ∧ s.creg 0x041 = BitVec.ofNat 64 (2 * c.epc.toNat) ∧
      s.creg 0x042 = BitVec.ofNat 64 (c.cls.toNat + 2 ^ 6 * c.late.toNat + 2 ^ 7 * c.defer.toNat + 2 ^ 16 * c.code.toNat) ∧
      s.creg 0x043 = c.tval ∧ s.creg 0x044 = BitVec.ofNat 64 (2 * c.tpc2.toNat) ∧ s.creg 0x045 = (if c.intrap then 1 else 0) ∧
      s.creg 0x050 = BitVec.ofNat 64 (2 * c.wloop.toNat) ∧ s.creg 0x051 = BitVec.ofNat 64 s.myCore.gdly.toNat ∧
      s.creg 0x052 = BitVec.ofNat 64 c.pbudget.toNat)) ∧
   ((∀ (s : State) (r : SReg) (n : BitVec 11) (mask : Word), (n, mask) ∈ writableRegisters → s.portsOpen [r] [] [] [] = true →
      s.raising s.cur = false → s.follows (cregOrder n) = false → (0x020 ≤ n.toNat → n.toNat ≤ 0x022 → s.windowBusy s.cur = false) →
      ∃ t, exec (.mtc r n) s = .next t ∧ t.me.pc = s.npc ∧ t.creg n = s.rs r &&& mask ∧ (∀ m, m ≠ n → t.creg m = s.creg m) ∧
        t.me.regs = s.me.regs ∧ t.mem = s.mem ∧ t.tags = s.tags) ∧
    (∀ (s : State) (r : SReg) (n : BitVec 11), (n.toNat ≤ 7 ∨ n = 0x045 ∨ n = 0x052) → exec (.mtc r n) s = .next (s.precise (trapOf 7 5 (n.setWidth 64)))) ∧
    (∀ (s : State) (r : SReg) (n : BitVec 11), CReg.known n = false →
      exec (.mtc r n) s = .next (s.precise s.illegal) ∧ exec (.mfc r n) s = .next (s.precise s.illegal)))

/-! ### Memory instructions (11 R173 to R193; 10) -/

/-- 11 R180: scalar loads from the own local store under table 0: the bytes at the address, sign- or zero-extended; ordinary forms.
11 R181: scalar stores to the own local store under table 0: the low bytes of the register go to the address; ordinary forms.
11 R180, R181; 07 R112: what a store leaves: byte k of the value at the address plus k, every other byte as before; and a load of as many bytes there reads the value back.
Registers, tags and the other slots are as before.
Where it rests on a choice of the model and not on the spec's words, the choice is that of log entry 6. -/
def Obligations.load_and_store_results : Prop :=
   ((∀ p ∈ loadsI, ∀ (s : State) (d b : SReg) (i : BitVec 11), s.portsOpen [b] [d] [] [] = true → s.plain (s.rs b + i.signExtend 64) p.2.1 = true →
      exec (p.1 d b i) s = .next (s.setS [b] d (s.loaded (s.rs b + i.signExtend 64) p.2.1 p.2.2))) ∧
    (∀ p ∈ loadsW, ∀ (s : State) (d b : SReg) (i : BitVec 16), s.portsOpen [b] [d] [] [] = true → s.plain (s.rs b + i.signExtend 64) p.2.1 = true →
      exec (p.1 d b 0 i) s = .next (s.setS [b] d (s.loaded (s.rs b + i.signExtend 64) p.2.1 p.2.2))) ∧
    (∀ p ∈ loadsX, ∀ (s : State) (d b c : SReg) (i : BitVec 32), s.portsOpen [b, c] [d] [] [] = true →
      s.plain (s.rs b + s.rs c + i.signExtend 64) p.2.1 = true →
      exec (p.1 d b c 0 i) s = .next (s.setS [b, c] d (s.loaded (s.rs b + s.rs c + i.signExtend 64) p.2.1 p.2.2)))) ∧
   ((∀ p ∈ storesI, ∀ (s : State) (a b : SReg) (i : BitVec 11), s.portsOpen [a, b] [] [] [] = true → s.plain (s.rs b + i.signExtend 64) p.2 = true →
      exec (p.1 a b i) s = .next ((s.stored (s.rs b + i.signExtend 64) p.2 (s.rs a).toNat).doneS [a, b])) ∧
    (∀ p ∈ storesW, ∀ (s : State) (a b : SReg) (i : BitVec 16), s.portsOpen [a, b] [] [] [] = true → s.plain (s.rs b + i.signExtend 64) p.2 = true →
      exec (p.1 a b 0 i) s = .next ((s.stored (s.rs b + i.signExtend 64) p.2 (s.rs a).toNat).doneS [a, b])) ∧
    (∀ p ∈ storesX, ∀ (s : State) (a b c : SReg) (i : BitVec 32), s.portsOpen [a, b, c] [] [] [] = true →
      s.plain (s.rs b + s.rs c + i.signExtend 64) p.2 = true →
      exec (p.1 a b c 0 i) s = .next ((s.stored (s.rs b + s.rs c + i.signExtend 64) p.2 (s.rs a).toNat).doneS [a, b, c]))) ∧
   (∀ (s : State) (va : Word) (n v : Nat), 0 < n → n ≤ 8 →
      let t := s.stored va n v
      (∀ k, k < n → Memory.byte t.mem (lsHome s.cur.core va.toNat + k) = BitVec.ofNat 8 (v / 256 ^ k)) ∧
      (∀ a, a < lsHome s.cur.core va.toNat ∨ lsHome s.cur.core va.toNat + n ≤ a → Memory.byte t.mem a = Memory.byte s.mem a) ∧
      t.bytesAt va.toNat n = v % 256 ^ n ∧ t.cores = s.cores ∧ t.tags = s.tags ∧ t.cur = s.cur)

/-- 11 R174, R180, R181, R189: a relaxed load, store or atomic of the own local store that passes its checks goes on at NEXT with its access outstanding, and has neither read nor
written anything yet.
Where it rests on a choice of the model and not on the spec's words, the choice is that of log entry 6. -/
def Obligations.relaxed_issue : Prop :=
  (∀ p ∈ loadsW, ∀ (s : State) (d b : SReg) (i : BitVec 16), s.portsOpen [b] [d] [] [] = true → s.plain (s.rs b + i.signExtend 64) p.2.1 = true →
    s.me.outs.length < 4 →
    ∃ t, exec (p.1 d b 1 i) s = .next t ∧ Issued s t (s.rs b + i.signExtend 64) p.2.1 false (.scalar (s.me.regs.loc d) p.2.1 p.2.2)) ∧
  (∀ p ∈ loadsX, ∀ (s : State) (d b c : SReg) (i : BitVec 32), s.portsOpen [b, c] [d] [] [] = true →
    s.plain (s.rs b + s.rs c + i.signExtend 64) p.2.1 = true → s.me.outs.length < 4 →
    ∃ t, exec (p.1 d b c 1 i) s = .next t ∧ Issued s t (s.rs b + s.rs c + i.signExtend 64) p.2.1 false (.scalar (s.me.regs.loc d) p.2.1 p.2.2)) ∧
  (∀ p ∈ storesW, ∀ (s : State) (a b : SReg) (i : BitVec 16), s.portsOpen [a, b] [] [] [] = true → s.plain (s.rs b + i.signExtend 64) p.2 = true →
    s.me.outs.length < 4 → ∃ t, exec (p.1 a b 1 i) s = .next t ∧ Issued s t (s.rs b + i.signExtend 64) p.2 true .none) ∧
  (∀ p ∈ storesX, ∀ (s : State) (a b c : SReg) (i : BitVec 32), s.portsOpen [a, b, c] [] [] [] = true →
    s.plain (s.rs b + s.rs c + i.signExtend 64) p.2 = true → s.me.outs.length < 4 →
    ∃ t, exec (p.1 a b c 1 i) s = .next t ∧ Issued s t (s.rs b + s.rs c + i.signExtend 64) p.2 true .none) ∧
  (∀ p ∈ atomics, ∀ (s : State) (d b c : SReg), s.portsOpen [b, c, d] [d] [] [] = true → s.plain (s.rs b) 8 = true → s.me.outs.length < 4 →
    ∃ t, exec (p.1 d b c 0 1) s = .next t ∧ Issued s t (s.rs b) 8 false (.scalar (s.me.regs.loc d) 8 false))

/-- 11 R178; 10 R151, R152: an ordinary load or store whose address is misaligned, lies nowhere, or lies in a region of the own local store that the context does not have,
takes the alignment, address or protection trap, with c.tval the address, and nothing else happens. -/
def Obligations.memory_traps : Prop :=
  ∀ (s : State) (va : Word) (n : Nat) (i : TrapInfo),
    ((n ∈ [2, 4, 8] ∧ va.toNat % n ≠ 0 ∧ i = trapOf 5 0 va) ∨
      (n ∈ [1, 2, 4, 8] ∧ va.toNat % n = 0 ∧ 0x40000 ≤ va.toNat ∧ va.toNat < 0x100000 ∧ i = trapOf 6 0 va) ∨
      (n ∈ [1, 2, 4, 8] ∧ va.toNat % n = 0 ∧ va.toNat < 0x40000 ∧ s.allocated s.cur.core va.toNat s.myCtx = false ∧ i = trapOf 7 0 va)) →
    s.me.cont = none →
    (∀ p ∈ loadsI, p.2.1 = n → ∀ (d b : SReg) (j : BitVec 11), s.portsOpen [b] [d] [] [] = true → s.rs b + j.signExtend 64 = va →
      exec (p.1 d b j) s = .next (s.precise i)) ∧
    (∀ p ∈ storesI, p.2 = n → ∀ (a b : SReg) (j : BitVec 11), s.portsOpen [a, b] [] [] [] = true → s.rs b + j.signExtend 64 = va →
      exec (p.1 a b j) s = .next (s.precise i))

/-- 10 R155 to R159, R161: an ordinary load of a local-store word under its entry. PROCEED reads, ZERO returns zero; a tag update sets the tag afterwards and changes no byte; WAIT parks with the
word's home; REDIRECT parks for a reissue at the address that the word holds; TRAP traps with the entry's code.
10 R158, R162: an ordinary store or atomic of such a word, by the Write and the Atomic column: PROCEED performs it, ZERO discards a store and leaves the word of an atomic, which returns
zero; UPD as for a load; WAIT, REDIRECT, which keeps data and operands, and TRAP leave the word.
Where it rests on a choice of the model and not on the spec's words, the choice is that of log entry 6. -/
def Obligations.tag_action_load : Prop :=
  (∀ (s : State) (va : Word) (e : TagEntry), s.clear va 8 = true → e = TagEntry.of (s.entry s.cur.core va.toNat 0) →
    (e.act = 0 ∨ e.act = 4 →
      ∃ t, s.ordinary (accRead va 8) = .ok (if e.act = 4 then 0 else BitVec.ofNat 512 (s.bytesAt va.toNat 8)) t ∧ t.mem = s.mem ∧ t.cores = s.cores ∧
        ∀ h, t.tag h = if e.upd = true ∧ wordOf h = lsHome s.cur.core va.toNat then e.tag else s.tag h) ∧
    (e.act = 1 →
      ∃ t, s.ordinary (accRead va 8) = .park (.table (lsHome s.cur.core va.toNat)) t ∧ t.mem = s.mem ∧ t.tags = s.tags ∧
        ∃ w ∈ t.waiters, w.agent = .thread s.cur ∧ w.home = lsHome s.cur.core va.toNat ∧ w.onTag = true) ∧
    (e.act = 2 →
      ∃ t, s.ordinary (accRead va 8) = .park .rdr t ∧ t.mem = s.mem ∧ (t.cont.redirect = some (BitVec.ofNat 64 (s.bytesAt va.toNat 8))) ∧
        t.cont.second = true ∧ t.todo.contains (.rdrReissue s.cur.core s.cur.slot) = true) ∧
    (e.act = 3 → s.ordinary (accRead va 8) = .trap (trapOf 13 e.tcode va) s)) ∧
  (∀ (s : State) (va v b c : Word) (o : AtomOp) (a : Acc) (k : Nat) (e : TagEntry),
    (a = accWrite va 8 v ∧ k = 1 ∨ o ≠ .fadd ∧ a = accOp va 8 (.atom o b c) ∧ k = 2) → s.clear va 8 = true → e = TagEntry.of (s.entry s.cur.core va.toNat k) →
    let old := s.bytesAt va.toNat 8
    let tags (t : State) : Prop := ∀ h, t.tag h = if e.upd = true ∧ wordOf h = lsHome s.cur.core va.toNat then e.tag else s.tag h
    (e.act = 0 ∨ e.act = 4 →
      ∃ r t, s.ordinary a = .ok r t ∧ t.cores = s.cores ∧ tags t ∧ (k = 2 → r = if e.act = 4 then 0 else BitVec.ofNat 512 old) ∧
        t.mem = (if e.act = 4 ∨ (k = 2 ∧ o = .cas ∧ old ≠ c.toNat) then s.mem
          else if k = 1 then (s.stored va 8 v.toNat).mem else (s.stored va 8 (atomResult o 64 old b.toNat)).mem)) ∧
    (e.act = 1 →
      ∃ t, s.ordinary a = .park (.table (lsHome s.cur.core va.toNat)) t ∧ t.mem = s.mem ∧ t.tags = s.tags ∧
        ∃ w ∈ t.waiters, w.agent = .thread s.cur ∧ w.home = lsHome s.cur.core va.toNat ∧ w.onTag = true) ∧
    (e.act = 2 →
      ∃ t, s.ordinary a = .park .rdr t ∧ t.mem = s.mem ∧ tags t ∧ t.cont.redirect = some (BitVec.ofNat 64 old) ∧ t.cont.second = true ∧
        t.todo.contains (.rdrReissue s.cur.core s.cur.slot) = true ∧ t.cont.redirected a = { a with va := BitVec.ofNat 64 old }) ∧
    (e.act = 3 → s.ordinary a = .trap (trapOf 13 e.tcode va) s))

/-- 11 R187, R188: an ordinary atomic of the own local store under table 0, 64 or 32 bits: one indivisible operation, the old value zero-extended in the destination. AFADD rounds to nearest even and
ORs the flags of its sum.
Where it rests on a choice of the model and not on the spec's words, the choice is that of log entry 6. -/
def Obligations.atomic_results : Prop :=
  (∀ p ∈ atomics, ∀ (s : State) (d b c : SReg) (w32 : BitVec 1) (i : BitVec 16) (n : Nat) (srcs : List SReg),
    n = (if w32 = 1 then 4 else 8) → srcs = (if p.2.2 = .cas then [b, c, d] else [b, c]) → s.portsOpen srcs [d] [] [] = true →
    let after (va : Word) : State :=
      if p.2.2 = .cas ∧ s.bytesAt va.toNat n ≠ (s.rs d).toNat % 256 ^ n then s
      else s.stored va n (atomResult p.2.2 (8 * n) (s.bytesAt va.toNat n) ((s.rs c).toNat % 256 ^ n))
    (s.plain (s.rs b) n = true →
      exec (p.1 d b c w32 0) s = .next ((after (s.rs b)).setS srcs d (BitVec.ofNat 64 (s.bytesAt (s.rs b).toNat n)))) ∧
    (s.plain (s.rs b + i.signExtend 64) n = true →
      exec (p.2.1 d b c w32 0 i) s = .next ((after (s.rs b + i.signExtend 64)).setS srcs d
        (BitVec.ofNat 64 (s.bytesAt (s.rs b + i.signExtend 64).toNat n))))) ∧
  (∀ (s : State) (d b c : SReg) (i : BitVec 16) (va : Word), s.portsOpen [b, c] [d] [] [] = true → s.plain va 4 = true → s.me.cr.fen = 0 →
    let x := fp32.addV .rne (fp32.decode (s.bytesAt va.toNat 4)) (fp32.decode ((s.rs c).toNat % 2 ^ 32))
    let u := (s.stored va 4 x.bits).setS [b, c] d (BitVec.ofNat 64 (s.bytesAt va.toNat 4))
    (va = s.rs b → exec (.afadd d b c 1 0) s = .next (u.orFlags x.fl)) ∧
    (va = s.rs b + i.signExtend 64 → exec (.afaddW d b c 1 0 i) s = .next (u.orFlags x.fl)))

/-- 11 R182, R183: VLD and VST of the own local store under table 0 in each form; masked-off elements load as zero and store nothing.
11 R184, R185, R186: strided, gather and scatter forms of the own local store under table 0: each enabled element at its own address, stores in increasing order of the elements.
Where it rests on a choice of the model and not on the spec's words, the choice is that of log entry 6. -/
def Obligations.vector_memory_results : Prop :=
   (∀ (s : State) (vd : VReg) (b : SReg) (mk : BitVec 4) (ew : BitVec 2),
      (∀ (i : Instr) (off : Word), i = .vld vd b mk ew ∧ off = 0 ∨ (∃ j : BitVec 14, i = .vldW vd b mk 0 ew j ∧ off = j.signExtend 64) ∨
          (∃ j : BitVec 30, i = .vldX1 vd b mk 0 ew j ∧ off = j.signExtend 64) →
        s.portsOpen [b] [] [] [vd] = true → s.plain (s.rs b + off) 64 = true →
        ∃ v, Loads s v (widthOf ew) mk (fun e => s.rs b + off + BitVec.ofNat 64 (e * (widthOf ew / 8))) ∧ exec i s = .next (s.setV [b] [] vd v)) ∧
      (∀ (i : Instr) (off : Word), i = .vst vd b mk ew ∧ off = 0 ∨ (∃ j : BitVec 14, i = .vstW vd b mk 0 ew j ∧ off = j.signExtend 64) ∨
          (∃ j : BitVec 30, i = .vstX1 vd b mk 0 ew j ∧ off = j.signExtend 64) →
        s.portsOpen [b] [] [vd] [] = true → s.plain (s.rs b + off) 64 = true →
        ∃ t : State, exec i s = .next (t.pops [b] [vd]).retire ∧ t = { s with mem := t.mem } ∧
          (∀ k, k < 64 → Memory.byte t.mem (lsHome s.cur.core (s.rs b + off).toNat + k) =
            if s.isOn mk (k / (widthOf ew / 8)) then BitVec.ofNat 8 ((s.rv vd).toNat / 256 ^ k)
            else Memory.byte s.mem (lsHome s.cur.core (s.rs b + off).toNat + k)) ∧
          (∀ a, a < lsHome s.cur.core (s.rs b + off).toNat ∨ lsHome s.cur.core (s.rs b + off).toNat + 64 ≤ a → Memory.byte t.mem a = Memory.byte s.mem a))) ∧
   (∀ (s : State) (vd : VReg) (b c : SReg) (cv : VReg) (mk : BitVec 4) (ew sc : BitVec 2) (x64 : BitVec 1),
      let w := widthOf ew
      let gw := if x64 = 1 then 64 else 32
      let at_ (off : Word) (e : Nat) : Word := s.rs b + off + BitVec.ofNat 64 e * s.rs c
      let ix (sh e : Nat) : Word :=
        s.rs b + (if x64 = 1 then BitVec.ofNat 64 (elemOf 64 (s.rv cv) e) else (BitVec.ofNat 32 (elemOf 32 (s.rv cv) e)).signExtend 64) * BitVec.ofNat 64 (2 ^ sh)
      (∀ (i : Instr) (off : Word), i = .vlds vd b c mk ew ∧ off = 0 ∨ (∃ j : BitVec 14, i = .vldsW vd b c mk 0 ew j ∧ off = j.signExtend 64) ∨
          (∃ j : BitVec 30, i = .vldsX1 vd b c mk 0 ew j ∧ off = j.signExtend 64) →
        s.portsOpen [b, c] [] [] [vd] = true → s.plainElems w mk (at_ off) → s.me.cont = none → s.me.st = .ready → s.wakesDue = false →
        ∃ v, Loads s v w mk (at_ off) ∧ exec i s = .next (s.setV [b, c] [] vd v)) ∧
      (∀ (i : Instr) (off : Word), i = .vsts vd b c mk ew ∧ off = 0 ∨ (∃ j : BitVec 14, i = .vstsW vd b c mk 0 ew j ∧ off = j.signExtend 64) ∨
          (∃ j : BitVec 30, i = .vstsX1 vd b c mk 0 ew j ∧ off = j.signExtend 64) →
        s.portsOpen [b, c] [] [vd] [] = true → s.plainElems w mk (at_ off) → s.me.cont = none → s.me.st = .ready → s.wakesDue = false →
        exec i s = .next ((s.storedElems w mk (at_ off) (s.rv vd)).pops [b, c] [vd]).retire) ∧
      (∀ (i : Instr) (sh : Nat), i = .vgath vd b cv mk x64 ∧ sh = 0 ∨ i = .vgathW vd b cv mk 0 x64 sc ∧ sh = sc.toNat →
        s.portsOpen [b] [] [cv] [vd] = true → s.plainElems gw mk (ix sh) → s.me.cont = none → s.me.st = .ready → s.wakesDue = false →
        ∃ v, Loads s v gw mk (ix sh) ∧ exec i s = .next (s.setV [b] [cv] vd v)) ∧
      (∀ (i : Instr) (sh : Nat), i = .vscat vd b cv mk x64 ∧ sh = 0 ∨ i = .vscatW vd b cv mk 0 x64 sc ∧ sh = sc.toNat →
        s.portsOpen [b] [] [vd, cv] [] = true → s.plainElems gw mk (ix sh) → s.me.cont = none → s.me.st = .ready → s.wakesDue = false →
        exec i s = .next ((s.storedElems gw mk (ix sh) (s.rv vd)).pops [b] [vd, cv]).retire))

/-- 11 R191; 10 R154, R155: TGET, TSET and TCAS read and write the tag of a word whatever its table says; they change no byte and no other tag.
11 R192, R193; 10 R157, R169: TATLD checks a table image and keeps it as the table's shadow, TATSW makes the shadow the table, RMSET gives a region of the gang its table number. Table 0 cannot be
loaded, and a bad entry is a reserved-field trap with code 1 and its number.
Where it rests on a choice of the model and not on the spec's words, the choice is that of log entry 6. -/
def Obligations.tag_and_table_results : Prop :=
   (∀ (s : State) (d b c : SReg) (k : BitVec 3), s.clear (s.rs b) 8 = true →
      let h := lsHome s.cur.core (s.rs b).toNat
      let set (g : BitVec 3) (t : State) : Prop :=
        t = { s with tags := t.tags } ∧ ∀ a, t.tag a = if wordOf a = h then g else s.tag a
      (s.portsOpen [b] [d] [] [] = true → exec (.tget d b) s = .next (s.setS [b] d (BitVec.ofNat 64 (s.tag h).toNat))) ∧
      (s.portsOpen [b, c] [] [] [] = true → ∃ t, set (BitVec.ofNat 3 (s.rs c).toNat) t ∧ exec (.tset b c) s = .next (t.doneS [b, c])) ∧
      (s.portsOpen [b] [] [] [] = true → ∃ t, set k t ∧ exec (.tsetImm b k) s = .next (t.doneS [b])) ∧
      (s.portsOpen [b, c, d] [d] [] [] = true →
        ∃ t, set (if s.tag h = BitVec.ofNat 3 (s.rs d).toNat then BitVec.ofNat 3 (s.rs c).toNat else s.tag h) t ∧
          exec (.tcas d b c) s = .next (t.setS [b, c, d] d (BitVec.ofNat 64 (s.tag h).toNat)))) ∧
   ((∀ (s : State) (t : BitVec 2) (b : SReg), s.portsOpen [b] [] [] [] = true → t ≠ 0 → (s.rs b).toNat % 8 = 0 → (s.rs b).toNat + 128 ≤ 0x40000 →
      (∀ k, k < 16 → s.allocated s.cur.core ((s.rs b).toNat + 8 * k) s.myCtx = true) → s.myCore.demands = [] → (∀ k ∈ slotNums, (s.myCore.slot k).blanks = []) →
      (∀ w ∈ s.myCore.dbg.wpctl.toList, w = 0) → s.coreExists s.cur.core = true → s.follows [.shadows] = false → s.waiters = [] → s.myCore.copies = [] →
      s.me.overlaps (lsHome s.cur.core (s.rs b).toNat) 128 = false →
      (∀ k, k < 16 → lsHome s.cur.core ((s.rs b).toNat + 8 * k) ∉ s.badTags ∧ lsHome s.cur.core ((s.rs b).toNat + 8 * k) ∉ s.poison) →
      let img (k : Nat) : BitVec 16 := BitVec.ofNat 16 (s.bytesAt ((s.rs b).toNat + 2 * k) 2)
      ((∀ k, k < 64 → entryBad (img k) = false) →
        exec (.tatld t b) s = .next ((s.setCore s.cur.core
          { s.myCore with shadows := s.myCore.shadows.setIfInBounds (t.toNat - 1) (Vector.ofFn (fun (k : Fin 64) => img k.val)) }).doneS [b])) ∧
      (∀ k, k < 64 → entryBad (img k) = true → (∀ j, j < k → entryBad (img j) = false) →
        exec (.tatld t b) s = .next (s.precise (trapOf 2 1 (BitVec.ofNat 64 k))))) ∧
    (∀ (s : State) (t : BitVec 2), t ≠ 0 → s.myCore.demands = [] → (∀ k ∈ slotNums, (s.myCore.slot k).blanks = []) → s.waiters = [] → s.follows [.shadows, .maps] = false →
      exec (.tatsw t) s = .next (s.setCore s.cur.core { s.myCore with
        tables := s.myCore.tables.setIfInBounds (t.toNat - 1) (s.myCore.shadows[t.toNat - 1]?.getD (Vector.replicate 64 0)) }).retire) ∧
    (∀ (s : State) (t : BitVec 2) (k : BitVec 6), s.holdsRegion k.toNat = true → s.follows [.maps] = false → s.myCore.demands = [] → (∀ j ∈ slotNums, (s.myCore.slot j).blanks = []) → s.waiters = [] →
      ∃ u, exec (.rmset t k) s = .next u ∧ u.me.pc = s.npc ∧ u.mem = s.mem ∧ u.tags = s.tags ∧
        ∀ g, g < 64 → u.myCore.tableOf g = if g = k.toNat then t.toNat else s.myCore.tableOf g) ∧
    (∀ (s : State), exec (.tatsw 0) s = .next (s.precise (trapOf 7 6 0))))

/-- 10 R154; 07 R112: memory keeps its canonical form, and a byte reads as what was last written to it; so equal contents are equal data. -/
def Obligations.memory_laws : Prop :=
  (∀ (m : List Host.Cell) (a v be n : Nat), Memory.wf m = true → Memory.wf (Memory.writeN m a v be n) = true) ∧
  (∀ (m : List Host.Cell) (a v be n b : Nat),
    Memory.byte (Memory.writeN m a v be n) b =
      if a ≤ b ∧ b < a + n ∧ be / 2 ^ (b - a) % 2 = 1 then BitVec.ofNat 8 (v / 256 ^ (b - a)) else Memory.byte m b) ∧
  (∀ m1 m2 : List Host.Cell, Memory.wf m1 = true → Memory.wf m2 = true → (∀ a, Memory.byte m1 a = Memory.byte m2 a) → m1 = m2)

/-! ### Vector instructions (16) -/

/-- 16 R245, R246, R239: the elementwise integer operations, each element the low bits of the exact result; under SAT clamped, with SX. -/
def Obligations.vector_integer_results : Prop :=
  (∀ p ∈ vecIntM, ∀ (s : State) (d b c : VReg) (mk : BitVec 4) (t : BitVec 2),
    let w := widthOf t
    VecElems (p.1 d b c mk t) s [] [b, c] d mk w (fun e => ⟨wrap w (p.2 w (elemOf w (s.rv b) e) (elemOf w (s.rv c) e)), 0⟩)) ∧
  (∀ p ∈ vecIntW, ∀ (s : State) (d b : VReg) (c : BitVec 5) (z : BitVec 1) (mk : BitVec 4) (t : BitVec 2),
    let w := widthOf t
    VecElems (p.1 d b c z mk t) s (cSrcs c z) (cVsrcs b c z) d mk w (fun e => ⟨wrap w (p.2 w (elemOf w (s.rv b) e) (s.fieldC c z w e)), 0⟩)) ∧
  (∀ p ∈ vecIntSat, ∀ (s : State) (d b : VReg) (c : BitVec 5) (z : BitVec 1) (mk : BitVec 4) (t sat : BitVec 2),
    let w := widthOf t
    VecElems (p.1 d b c z mk t sat) s (cSrcs c z) (cVsrcs b c z) d mk w (fun e =>
      clampTo w sat (p.2 (sgn w (elemOf w (s.rv b) e)) (sgn w (s.fieldC c z w e))) (p.2 (elemOf w (s.rv b) e) (s.fieldC c z w e)))) ∧
  (∀ (s : State) (d b : VReg) (mk : BitVec 4) (t sat : BitVec 2), sat ≠ 2 →
    let w := widthOf t
    VecElems (.vabs d b mk t sat) s [] [b] d mk w (fun e => clampTo w sat |sgn w (elemOf w (s.rv b) e)| 0))

/-- 16 R247, R248, R249: the elementwise floating operations and the fused and dot-product forms. -/
def Obligations.vector_float_results : Prop :=
  (∀ p ∈ vecFloat, ∀ (s : State) (d b c : VReg) (z : BitVec 1) (mk : BitVec 4) (t : BitVec 2) (rm : BitVec 3), t ≠ 3 →
    let w := floatBits t
    VecElems (p.1 d b c mk t) s [] [b, c] d mk w (fun e => p.2.2 (floatType t) (s.roundMode 7) (elemOf w (s.rv b) e) (elemOf w (s.rv c) e)) ∧
    VecElems (p.2.1 d b c z mk t rm) s (cSrcs c z) (cVsrcs b c z) d mk w
      (fun e => p.2.2 (floatType t) (s.roundMode rm) (elemOf w (s.rv b) e) (s.fieldC c z w e))) ∧
  (∀ (s : State) (d b : VReg) (mk : BitVec 4) (t : BitVec 2) (rm : BitVec 3), t ≠ 3 →
    let w := floatBits t
    let F := floatType t
    let x (e : Nat) : Nat := elemOf w (s.rv b) e
    VecElems (.vfsqrt d b mk t) s [] [b] d mk w (fun e => F.sqrtV (s.roundMode 7) (F.decode (x e))) ∧
    VecElems (.vfsqrtW d b mk t rm) s [] [b] d mk w (fun e => F.sqrtV (s.roundMode rm) (F.decode (x e))) ∧
    VecElems (.vfneg d b mk t rm) s [] [b] d mk w
      (fun e => ⟨if (F.decode (x e)).isNan then F.nan else (x e + 2 ^ (w - 1)) % 2 ^ w, 0⟩) ∧
    VecElems (.vfabs d b mk t rm) s [] [b] d mk w (fun e => ⟨if (F.decode (x e)).isNan then F.nan else x e % 2 ^ (w - 1), 0⟩)) ∧
  (∀ p ∈ vecFused, ∀ (s : State) (d b c a : VReg) (z : BitVec 1) (mk : BitVec 4) (t : BitVec 2) (rm : BitVec 3), t ≠ 3 →
    let w := floatBits t
    let F := floatType t
    let r (m : RM) (v : VReg) (e : Nat) : FR :=
      let x := F.decode (elemOf w (s.rv b) e)
      let q := F.decode (elemOf w (s.rv v) e)
      F.fmaV m (if p.2.2.1 then x.neg else x) (F.decode (elemOf w (s.rv c) e)) (if p.2.2.2 then q.neg else q)
    VecElems (p.1 d b c mk t) s [] [b, c, d] d mk w (r (s.roundMode 7) d) ∧
    VecElems (p.2.1 d b c a z mk t rm) s [] [b, c, if z = 1 then a else d] d mk w (r (s.roundMode rm) (if z = 1 then a else d))) ∧
  (∀ (s : State) (d b c a : VReg) (z : BitVec 1) (mk : BitVec 4) (t sat : BitVec 2),
    let w := widthOf t
    let mac (v : VReg) (k : BitVec 2) (e : Nat) : FR :=
      clampTo w k (sgn w (elemOf w (s.rv v) e) + sgn w (elemOf w (s.rv b) e) * sgn w (elemOf w (s.rv c) e))
        (elemOf w (s.rv v) e + elemOf w (s.rv b) e * elemOf w (s.rv c) e)
    VecElems (.vmac d b c mk t) s [] [b, c, d] d mk w (mac d 0) ∧
    VecElems (.vmacW d b c a z mk t sat) s [] [b, c, if z = 1 then a else d] d mk w (mac (if z = 1 then a else d) sat)) ∧
  (∀ (s : State) (d b c a : VReg) (z : BitVec 1) (mk : BitVec 4) (t sat : BitVec 2), t = 1 ∨ t = 2 →
    let w := widthOf t
    let n := 32 / w
    let dot (f : Nat → Nat → Int) (v : VReg) (k : BitVec 2) (l : Nat) : FR :=
      let x : Int := f 32 (elemOf 32 (s.rv v) l) +
        ((List.range n).map (fun i => f w (elemOf w (s.rv b) (n * l + i)) * f w (elemOf w (s.rv c) (n * l + i)))).sum
      clampTo 32 k x x
    let u (_ x : Nat) : Int := x
    VecElems (.vdot d b c mk t) s [] [b, c, d] d mk 32 (dot sgn d 0) ∧ VecElems (.vdotu d b c mk t) s [] [b, c, d] d mk 32 (dot u d 0) ∧
    VecElems (.vdotW d b c a z mk t sat) s [] [b, c, if z = 1 then a else d] d mk 32 (dot sgn (if z = 1 then a else d) sat) ∧
    VecElems (.vdotuW d b c a z mk t sat) s [] [b, c, if z = 1 then a else d] d mk 32 (dot u (if z = 1 then a else d) sat))

/-- 16 R250: the compares write one bit for each element and zero above them; equality of zeros, unordered operands and NV as the table says. -/
def Obligations.vector_compare_results : Prop :=
  (∀ p ∈ vecCmp, ∀ (s : State) (d b c : VReg) (z : BitVec 1) (mk : BitVec 4) (t : BitVec 2),
    let w := widthOf t
    VecBits (p.1 d b c mk t) s [] [b, c] d mk (512 / w) (fun e => p.2.2 w (elemOf w (s.rv b) e) (elemOf w (s.rv c) e)) (fun _ => 0) ∧
    VecBits (p.2.1 d b c z mk t) s (cSrcs c z) (cVsrcs b c z) d mk (512 / w) (fun e => p.2.2 w (elemOf w (s.rv b) e) (s.fieldC c z w e)) (fun _ => 0)) ∧
  (∀ p ∈ vecCmpF, ∀ (s : State) (d b : VReg) (c : BitVec 5) (z : BitVec 1) (mk : BitVec 4) (t : BitVec 2), t ≠ 3 →
    let w := floatBits t
    let F := floatType t
    let x (e : Nat) : FV := F.decode (elemOf w (s.rv b) e)
    let y (e : Nat) : FV := F.decode (s.fieldC c z w e)
    VecBits (p.1 d b c z mk t) s (cSrcs c z) (cVsrcs b c z) d mk (512 / w)
      (fun e => if (x e).isNan || (y e).isNan then p.2.2.1 else p.2.1 ((x e).cmp (y e)))
      (fun e => if (x e).isNan || (y e).isNan then (if p.2.2.2 || x e == .nan true || y e == .nan true then 0x10 else 0) else 0))

/-- 16 R251: moves, broadcasts, slides, permutations, insertion and extraction, each in both forms. -/
def Obligations.vector_move_results : Prop :=
  ∀ (s : State) (d b c : VReg) (sb sc sd : SReg) (mk : BitVec 4) (t : BitVec 2),
    let w := widthOf t
    let n := 512 / w
    let x (e : Nat) : Nat := elemOf w (s.rv b) e
    let k := (s.rs sc).toNat
    (∀ i, i = .vmov d b mk t ∨ i = .vmovW d b mk t → VecElems i s [] [b] d mk w (fun e => ⟨x e, 0⟩)) ∧
    (∀ i, i = .vbcast d sc mk t ∨ i = .vbcastW d sc mk t → VecElems i s [sc] [] d mk w (fun _ => ⟨k % 2 ^ w, 0⟩)) ∧
    (∀ i, i = .vsldn d b sc mk t ∨ i = .vsldnW d b sc mk t → VecElems i s [sc] [b] d mk w (fun e => ⟨if e + k < n then x (e + k) else 0, 0⟩)) ∧
    (∀ i, i = .vslup d b sc mk t ∨ i = .vslupW d b sc mk t → VecElems i s [sc] [b] d mk w (fun e => ⟨if k ≤ e then x (e - k) else 0, 0⟩)) ∧
    (∀ i, i = .vperm d b c mk t ∨ i = .vpermW d b c mk t → VecElems i s [] [b, c] d mk w (fun e => ⟨if elemOf w (s.rv c) e < n then x (elemOf w (s.rv c) e) else 0, 0⟩)) ∧
    (∀ i, i = .vins d sb sc mk t ∨ i = .vinsW d sb sc mk t → s.portsOpen [sb, sc] [] [] [d] = true → s.me.cr.fen = 0 →
      ∃ v : Line, (∀ e, e < n → elemOf w v e =
          if e = (s.rs sb).toNat % n ∧ (s.isOn mk e || mk.getLsbD 2) = true then k % 2 ^ w else elemOf w (s.me.oldV d) e) ∧
        exec i s = .next ((((s.orFlags 0).pops [sb, sc] []).wv d v).retire)) ∧
    (∀ i, i = .vext sd b sc t ∨ i = .vextW sd b sc t → VecScalar i s sd [sc] [b] (BitVec.ofInt 64 (sgn w (x (k % n)))) 0)

/-- 16 R252, R253: reductions over the enabled elements; the floating ones by the fixed pairwise tree, or in order from s[C].
Where it rests on a choice of the model and not on the spec's words, the choice is that of log entry 32. -/
def Obligations.vector_reduction_results : Prop :=
  (∀ p ∈ vecReduce, ∀ (s : State) (d : SReg) (b : VReg) (mk : BitVec 4) (t : BitVec 2),
    let w := widthOf t
    VecScalar (p.1 d b mk t) s d [] [b] (BitVec.ofInt 64 (p.2.2 w (s.onElems b mk w))) 0 ∧
    VecScalar (p.2.1 d b mk t) s d [] [b] (BitVec.ofInt 64 (p.2.2 w (s.onElems b mk w))) 0) ∧
  (∀ (s : State) (d : SReg) (b : VReg) (mk : BitVec 4) (t : BitVec 2), ∀ i, i = .vrpopc d b mk t ∨ i = .vrpopcW d b mk t →
    VecScalar i s d [] [b] (BitVec.ofNat 64 (((List.range (512 / widthOf t)).filter (s.isOn mk)).countP (fun e => (s.rv b).getLsbD e))) 0) ∧
  (∀ (s : State) (d : SReg) (b : VReg) (mk : BitVec 4) (t : BitVec 2) (rm : BitVec 3), t ≠ 3 →
    let w := floatBits t
    let es := (List.range (512 / w)).map (fun e => if s.isOn mk e then some (toFp32 t (elemOf w (s.rv b) e)) else none)
    let f0 := (es.filterMap id).foldl (fun (f : Flags) r => f ||| r.fl) 0
    let res (f : Nat → Nat → FR) (z : Nat) : Nat × Flags :=
      let r := tree f 5 (es.map (·.map (·.bits)))
      ((r.1.headD none).getD z, f0 ||| r.2)
    let sum := res (fun a c => fp32.addV (s.roundMode rm) (fp32.decode a) (fp32.decode c)) 0
    let mn := res (fun a c => fp32.minmax false a c) 0x7F800000
    let mx := res (fun a c => fp32.minmax true a c) 0xFF800000
    VecScalar (.vrfsum d b mk t rm) s d [] [b] (BitVec.ofNat 64 sum.1) sum.2 ∧ VecScalar (.vrfmin d b mk t rm) s d [] [b] (BitVec.ofNat 64 mn.1) mn.2 ∧
    VecScalar (.vrfmax d b mk t rm) s d [] [b] (BitVec.ofNat 64 mx.1) mx.2) ∧
  (∀ (s : State) (d c : SReg) (b : VReg) (mk : BitVec 4) (t : BitVec 2) (rm : BitVec 3), t ≠ 3 →
    let r := (s.onElems b mk (floatBits t)).foldl (fun (acc : FR) a =>
      let x := toFp32 t a
      let y := fp32.addV (s.roundMode rm) (fp32.decode acc.bits) (fp32.decode x.bits)
      (⟨y.bits, acc.fl ||| x.fl ||| y.fl⟩ : FR)) ⟨(s.rs c).toNat % 2 ^ 32, 0⟩
    VecScalar (.vrfsumo d b c mk t rm) s d [c] [b] (BitVec.ofNat 64 r.bits) r.fl)

/-- 16 R254 to R257: conversions and special functions. VCVT moves n elements, n by the wider container, from or to part P of the narrower register; the results of VTANH, VSIG and VEXP lie within a unit in the last
place, which of the neighbours being the free value of log entry 9.
Where it rests on a choice of the model and not on the spec's words, the choice is that of log entries 9, 10 and 41. -/
def Obligations.vector_convert_results : Prop :=
  (∀ (s : State) (d b : VReg) (mk : BitVec 4) (sat : BitVec 1),
    let x (e : Nat) : Nat := elemOf 32 (s.rv b) e
    VecElems (.vftoi d b mk sat) s [] [b] d mk 32 (fun e => toIntV 32 true (sat == 1) (s.roundMode 7) (fp32.decode (x e))) ∧
    VecElems (.vftoiu d b mk sat) s [] [b] d mk 32 (fun e => toIntV 32 false (sat == 1) (s.roundMode 7) (fp32.decode (x e))) ∧
    VecElems (.vitof d b mk) s [] [b] d mk 32 (fun e => fp32.round (s.roundMode 7) false (decide (sgn 32 (x e) < 0)) (sgn 32 (x e)).natAbs 0) ∧
    VecElems (.vutof d b mk) s [] [b] d mk 32 (fun e => fp32.round (s.roundMode 7) false false (x e) 0)) ∧
  (∀ p ∈ vecSpecial, ∀ (s : State) (d b : VReg) (mk : BitVec 4) (rm : BitVec 3),
    VecElems (p.1 d b mk 0) s [] [b] d mk 32 (fun e => p.2.2 (s.roundMode 7) (elemOf 32 (s.rv b) e)) ∧
    VecElems (p.2.1 d b mk 0 rm) s [] [b] d mk 32 (fun e => p.2.2 (s.roundMode rm) (elemOf 32 (s.rv b) e))) ∧
  (∀ (s : State) (d b r : VReg) (p mk fs fd : BitVec 4) (rm : BitVec 3) (sat : BitVec 1),
    let ws := fmtContainer fs
    let wd := fmtContainer fd
    let n := 512 / max ws wd
    let src (j : Nat) : Nat := if ws < wd then p.toNat * n + j else j
    let dst (j : Nat) : Nat := if wd < ws then p.toNat * n + j else j
    let vs := if rm = 4 then [b, r] else [b]
    let res (j : Nat) : FR := convert fs fd (if rm = 4 then .sr (elemOf 16 (s.rv r) (src j % 32)) else s.roundMode rm) (sat == 1) (elemOf ws (s.rv b) (src j))
    fs.toNat ≤ 13 → fd.toNat ≤ 13 → p.toNat * n + n ≤ 512 / min ws wd → s.portsOpen [] [] vs [d] = true → s.me.cr.fen = 0 →
    ∃ v : Line,
      (∀ j, j < n → elemOf wd v (dst j) = if (s.isOn mk j || mk.getLsbD 2) then (res j).bits % 2 ^ wd else elemOf wd (s.me.oldV d) (dst j)) ∧
      (∀ e, e < 512 / wd → (∀ j, j < n → e ≠ dst j) → elemOf wd v e = elemOf wd (s.me.oldV d) e) ∧
      exec (.vcvt d b p r mk fs fd rm sat) s = .next ((((s.orFlags (s.unionFlags mk n res)).pops [] vs).wv d v).retire))

/-- 16 R243; 05 R94: where an enabled element raises an enabled flag, the vector instruction takes the numeric trap with the flags as c.tval and writes no element; c.fflags is as before.
07 R105, R108; 16 R239: what a written vector register reads as: the value, unless v15 is the port; then nothing is written and the value goes to the end of the target's queue. -/
def Obligations.vector_traps_and_destination : Prop :=
   (∀ p ∈ vecFloat, ∀ (s : State) (d b c : VReg) (mk : BitVec 4) (t : BitVec 2), t ≠ 3 → s.portsOpen [] [] [b, c] [d] = true →
      let w := floatBits t
      let fl := s.unionFlags mk (512 / w) (fun e => p.2.2 (floatType t) (s.roundMode 7) (elemOf w (s.rv b) e) (elemOf w (s.rv c) e))
      fl &&& s.me.cr.fen ≠ 0 → exec (p.1 d b c mk t) s = .next (s.precise (trapOf 15 0 (fl.setWidth 64)))) ∧
   (∀ (s : State) (d : VReg) (v : Line),
      (s.me.isPort d = false → (s.wv d v).rv d = v ∧ (∀ k, k ≠ d → (s.wv d v).rv k = s.rv k) ∧ (s.wv d v).me.cr = s.me.cr ∧ SameButSlot s (s.wv d v) s.cur) ∧
      (s.me.isPort d = true →
        let g := s.portTarget s.cur
        ((s.wv d v).slot g).port.vq = (s.slot g).port.vq ++ [v] ∧ (s.wv d v).me.regs = s.me.regs ∧ (s.wv d v).mem = s.mem))

/-- 05 R64 to R66, R73, R74: a value that a format holds exactly is rounded to itself under every mode, without a flag.
05 R64, R65: what a code of each floating format means: the formula's number up to the largest finite code, infinity or NaN above it.
05 R73 to R78: rounding. A positive magnitude goes to one of its two neighbours among the codes, as the mode says, or overflows; NX where it is inexact, UF where it is inexact and tiny.
05 R87, R88, R66: addition, multiplication, division, square root and the fused form of FP32, FP16 and BF16 round the exact real result once; invalid operations and NaN operands give the canonical NaN; minimum
and maximum by the order in which minus zero is below plus zero.
05 R70 to R72, R85: integer and residue accumulation. An integer cell is the exact sum of products modulo 2^32; a residue word of an integer of the signed range gives it back, and products and sums of
residue words are the words of products and sums, whatever the integers. None raises a flag. -/
def Obligations.exact_arithmetic : Prop :=
   (∀ (f : BitVec 4) (m : RM) (sat n : Bool) (k : Nat) (e : Int) (b : Nat), f.toNat ≤ 7 → b < 2 ^ ((FFmt.of f).e + (FFmt.of f).m + 1) →
      (FFmt.of f).decode b = .fin n k e → (FFmt.of f).round m sat n k e = ⟨b, 0⟩) ∧
   (∀ (f : BitVec 4) (b : Nat), f.toNat ≤ 7 → b < 2 ^ ((FFmt.of f).e + (FFmt.of f).m + 1) →
      let F := FFmt.of f
      let neg : Bool := decide (2 ^ (F.e + F.m) ≤ b)
      let c := b % 2 ^ (F.e + F.m)
      (c ≤ F.maxBits → ∃ k e, F.decode b = .fin neg k e ∧ (FV.fin false k e).real = F.magnitude c) ∧
      (F.maxBits < c → F.decode b = if F.special = 2 ∧ c = F.maxBits + 1 then .inf neg else .nan (F.special == 2 && decide (c % 2 ^ F.m < 2 ^ (F.m - 1))))) ∧
   ((FFmt.of 0).magnitude (FFmt.of 0).maxBits = 448 ∧ (FFmt.of 1).magnitude (FFmt.of 1).maxBits = 57344 ∧ (FFmt.of 2).magnitude (FFmt.of 2).maxBits = 28 ∧
    (FFmt.of 3).magnitude (FFmt.of 3).maxBits = 15 / 2 ∧ (FFmt.of 4).magnitude (FFmt.of 4).maxBits = 6) ∧
   (∀ (f : BitVec 4) (m : RM) (sat neg : Bool) (k : Nat) (e : Int), f.toNat ≤ 7 →
      (k = 0 → (FFmt.of f).round m sat neg k e = ⟨(FFmt.of f).signBit neg, 0⟩) ∧
      (0 < k → Rounded (FFmt.of f) m sat neg (FV.fin false k e).real ((FFmt.of f).round m sat neg k e))) ∧
   (∀ (f : BitVec 4) (c : Nat), f.toNat ∈ [5, 6, 7] → c < 4 →
      let F := FFmt.of f
      let m := RM.of c
      let ninf (n : Bool) : FR := ⟨F.inf n, 0⟩
      (∀ x y z : FV, let bad := x == .nan true || y == .nan true
        (x.isNan = true ∨ y.isNan = true → F.addV m x y = nanResult F bad ∧ F.mulV m x y = nanResult F bad ∧ F.divV m x y = nanResult F bad) ∧
        (x.isNan = true → F.sqrtV m x = nanResult F (x == .nan true)) ∧
        (let zi : Bool := match x, y with
            | .inf _, .fin _ k _ | .fin _ k _, .inf _ => k == 0
            | _, _ => false
          (x.isNan = true ∨ y.isNan = true ∨ z.isNan = true ∨ zi = true → F.fmaV m x y z = nanResult F (bad || z == .nan true || zi)))) ∧
      (∀ n k : Bool, F.addV m (.inf n) (.inf k) = (if n = k then ninf n else nanResult F true) ∧ F.mulV m (.inf n) (.inf k) = ninf (n != k) ∧
        F.divV m (.inf n) (.inf k) = nanResult F true ∧ F.sqrtV m (.inf n) = (if n then nanResult F true else ninf false) ∧
        ∀ (l : Nat) (e : Int), F.addV m (.inf n) (.fin k l e) = ninf n ∧ F.addV m (.fin k l e) (.inf n) = ninf n ∧
          F.mulV m (.inf n) (.fin k l e) = (if l = 0 then nanResult F true else ninf (n != k)) ∧
          F.mulV m (.fin k l e) (.inf n) = (if l = 0 then nanResult F true else ninf (n != k)) ∧
          F.divV m (.inf n) (.fin k l e) = ninf (n != k) ∧ F.divV m (.fin k l e) (.inf n) = ⟨F.signBit (n != k), 0⟩ ∧
          ∀ z : FV, z.isNan = false →
            F.fmaV m (.inf n) (.inf k) z = F.addV m (.inf (n != k)) z ∧
            (l ≠ 0 → F.fmaV m (.inf n) (.fin k l e) z = F.addV m (.inf (n != k)) z ∧ F.fmaV m (.fin k l e) (.inf n) z = F.addV m (.inf (n != k)) z)) ∧
      (∀ (n n1 n2 : Bool) (k1 k2 : Nat) (e1 e2 : Int), F.fmaV m (.fin n1 k1 e1) (.fin n2 k2 e2) (.inf n) = ninf n) ∧
      (∀ (n1 n2 n3 : Bool) (k1 k2 k3 : Nat) (e1 e2 e3 : Int),
        let x : FV := .fin n1 k1 e1
        let y : FV := .fin n2 k2 e2
        let z : FV := .fin n3 k3 e3
        let sum (a b : Bool) : Bool := if a = b then a else m == .rdn
        Correct F m (x.real + y.real) (sum n1 n2) (F.addV m x y) ∧ Correct F m (x.real * y.real) (n1 != n2) (F.mulV m x y) ∧
        Correct F m (x.real * y.real + z.real) (sum (n1 != n2) n3) (F.fmaV m x y z) ∧
        (k2 = 0 → F.divV m x y = if k1 = 0 then nanResult F true else ⟨F.inf (n1 != n2), 0x08⟩) ∧
        (k2 ≠ 0 → Correct F m (x.real / y.real) (n1 != n2) (F.divV m x y)) ∧
        (n1 = true → k1 ≠ 0 → F.sqrtV m x = nanResult F true) ∧
        (n1 = false ∨ k1 = 0 → Correct F m (Real.sqrt x.real) n1 (F.sqrtV m x))) ∧
      (∀ (mx : Bool) (a b : Nat),
        let x := F.decode a
        let y := F.decode b
        let nv : Flags := if x == .nan true || y == .nan true then 0x10 else 0
        let r := F.minmax mx a b
        r.fl = nv ∧ (x.isNan = true → y.isNan = true → r.bits = F.nan) ∧ (x.isNan = true → y.isNan = false → r.bits = b) ∧
        (x.isNan = false → y.isNan = true → r.bits = a) ∧ (x.isNan = false → y.isNan = false →
          (r.bits = a ∨ r.bits = b) ∧ (x.Below y → r.bits = if mx then b else a) ∧ (y.Below x → r.bits = if mx then a else b)))) ∧
   ((∀ (fa fb : BitVec 4) (nbv : BitVec 1) (sa sb : BitVec 8) (acc : FR) (ps : List (Nat × Nat)),
      macChunk .int32 fa fb nbv sa sb acc ps =
        ⟨wrap 32 (acc.bits + (ps.map (fun p => intOf (intBits fa) (fmtSigned fa) p.1 * intOf (intBits fb) (fmtSigned fb) p.2)).sum), acc.fl⟩) ∧
    (∀ v : Int, (-(1023 * 512 * 1025) ≤ v → v < 1023 * 512 * 1025 → resInt false (resOf false v) = v) ∧
      (-(31 * 16 * 33) ≤ v → v < 31 * 16 * 33 → resInt true (resOf true v) = v)) ∧
    (∀ (r15 : Bool) (x y z : Int), resMac r15 (resOf r15 x) (resOf r15 y) (resOf r15 z) = resOf r15 (x + y * z)) ∧
    (∀ (fa fb : BitVec 4) (nbv : BitVec 1) (sa sb : BitVec 8) (r15 : Bool) (x : Int) (fl : Flags) (ps : List (Int × Int)),
      macChunk (.res r15) fa fb nbv sa sb ⟨resOf r15 x, fl⟩ (ps.map (fun p => (resOf r15 p.1, resOf r15 p.2))) =
        ⟨resOf r15 (x + (ps.map (fun p => p.1 * p.2)).sum), fl⟩))

/-! ### Matrix, descriptors, tiles (17, 18) -/

/-- 17 R258, R259, R266, R274: the matrix grant and mode, MZERO and MRNSOUT; the matrix instructions are a mode fault in vector mode. -/
def Obligations.matrix_mode_results : Prop :=
  ∀ s : State,
    (s.me.mode = true → exec .modeM s = .next s.retire) ∧
    (s.me.mode = false → s.myCore.grant = none → s.myCore.grantq = [] →
      ∃ t, exec .modeM s = .next t ∧ t.me.mode = true ∧ t.myCore.grant = some s.cur.slot ∧ t.me.pc = s.npc ∧ t.me.regs = s.me.regs ∧ t.me.cr = s.me.cr ∧ t.mem = s.mem) ∧
    (s.me.mode = false → s.myCore.grantq.contains s.cur.slot = false → (∃ k, s.myCore.grant = some k ∧ k ≠ s.cur.slot) →
      ∃ t, exec .modeM s = .next t ∧ t.me.st = .parked ∧ t.me.await = .grant ∧ t.me.mode = false ∧ t.myCore.grantq = s.myCore.grantq ++ [s.cur.slot] ∧
        t.myCore.grant = s.myCore.grant) ∧
    (s.me.mode = false → exec .modeV s = .next s.retire) ∧
    (s.me.mode = true → s.myCore.grantq = [] →
      ∃ t, exec .modeV s = .next t ∧ t.me.mode = false ∧ t.myCore.grant = none ∧ t.myCore.fifo = [] ∧ t.me.pc = s.npc ∧ t.me.regs = s.me.regs ∧ t.mem = s.mem) ∧
    (∃ t, exec .mzero s = .next t ∧ (∀ k : VReg, t.me.regs.vec[k.toNat]'(k.isLt) = if 16 ≤ k.toNat then 0 else s.me.regs.vec[k.toNat]'(k.isLt)) ∧ t.me.pc = s.npc ∧
      t.me.cr = s.me.cr ∧ SameButSlot s t s.cur) ∧
    (s.me.mode = true → ∀ (r15 : Bool) (n : BitVec 5),
      ∃ t, exec (if r15 then .mrnsoutRes15 n else .mrnsoutRes30 n) s = .next t ∧ t.me.pc = s.npc ∧ t.me.cr = s.me.cr ∧ SameButSlot s t s.cur ∧
        (∀ k, k < 16 → t.me.regs.vec[k]? = s.me.regs.vec[k]?) ∧
        ∀ i j, i < 16 → j < 16 →
          let x := resInt r15 (elemOf 32 (s.me.regs.vec[16 + i]?.getD 0) j)
          let y := sgn 32 (elemOf 32 (t.me.regs.vec[16 + i]?.getD 0) j)
          2 * |x - y * 2 ^ n.toNat| < 2 ^ n.toNat ∨ (2 * |x - y * 2 ^ n.toNat| = 2 ^ n.toNat ∧ y % 2 = 0)) ∧
    (s.me.mode = false → ∀ (k b c : SReg) (z : BitVec 1) (fa fb : BitVec 4) (n : BitVec 5),
      ∀ i ∈ [Instr.mma k b c z, .mmas k b c z, .mmaW k b c z fa fb, .mmasW k b c z fa fb, .sclfeed b c, .mrnsoutRes30 n, .mrnsoutRes15 n],
        exec i s = .next (s.precise (trapOf 3 0 0)))

/-- 17 R267, R268; 05 R81 to R86: MMA and MMAS park the thread with a copy of ACC; the grid operation then writes the accumulator once, ORs the flags of every cell and lets
the thread go on. MMAS takes the scale groups of whole feed records from the front of the FIFO.
Where it rests on a choice of the model and not on the spec's words, the choice is that of log entries 6, 36 and 65. -/
def Obligations.matrix_multiply_results : Prop :=
  ∀ (s : State) (k b c : SReg) (za : BitVec 1) (fa fb : BitVec 4) (scaled : Bool) (i : Instr) (recs rest : List (List (BitVec 256))),
    (i = .mmaW k b c za fa fb ∧ scaled = false ∨ i = .mmasW k b c za fa fb ∧ scaled = true ∨
      (i = .mma k b c za ∧ scaled = false ∨ i = .mmas k b c za ∧ scaled = true) ∧ fa = s.me.cr.fmta ∧ fb = s.me.cr.fmtb) →
    s.calm = true → s.me.mode = true → s.myCore.grid = none → s.myCore.tst = none → s.myCore.staging = [] → s.owed = [] → s.me.cr.fen = 0 → s.portsOpen [k, b, c] [] [] [] = true →
    s.multiplies scaled (s.rs k) (s.rs b) (s.rs c) fa fb → s.myCore.fifo = recs ++ rest →
    (if scaled then (∀ r ∈ recs, r ≠ []) ∧ recs.flatten.length = (s.rs k).toNat / 32 else recs = []) →
    let cell := s.cellAfter scaled (s.rs b) (s.rs c) (s.rs k).toNat (za == 1) fa fb recs.flatten
    ∃ t u, exec i s = .next t ∧ t.me.st = .parked ∧ t.me.await = .grid ∧ t.me.regs = s.me.regs ∧ exec (.gridOperationComplete s.cur.core) t = .next u ∧
      (∀ i j, i < 16 → j < 16 → elemOf 32 (u.me.regs.vec[16 + i]?.getD 0) j = (cell i j).bits % 2 ^ 32) ∧ (∀ r, r < 16 → u.me.regs.vec[r]? = s.me.regs.vec[r]?) ∧
      u.me.pc = s.npc ∧ u.me.st = .ready ∧
      u.me.cr = { s.me.cr with fflags := s.me.cr.fflags ||| (List.range 256).foldl (fun f n => f ||| (cell (n / 16) (n % 16)).fl) 0 } ∧
      u.mem = s.mem ∧ u.tags = s.tags ∧ u.myCore.grid = none ∧ u.myCore.fifo = rest

/-- 17 R271 to R273, R261: SCLFEED appends its groups as one record, or is stream desynchronised; the layout conversions move every element of their chunks between rows and planes, MRNSIN as canonical residue words,
and change no byte outside their destination. Plane 31 of RES30 reads as zero (log entry 11). Nothing has been read ahead (R204).
Where it rests on a choice of the model and not on the spec's words, the choice is that of log entries 11, 33, 63 and 74. -/
def Obligations.matrix_layout_results : Prop :=
  (∀ (s : State) (b c : SReg), s.calm = true → s.me.mode = true → s.myCore.staging = [] → s.portsOpen [b, c] [] [] [] = true → (s.rs b).toNat % 32 = 0 →
    s.owns (s.rs b) (32 * (s.rs c).toNat) = true →
    let n := (s.rs c).toNat
    let have_ := s.myCore.fifo.flatten.length
    (1 ≤ n ∧ n ≤ 64 → have_ + n ≤ 64 ∧ s.myCore.fifo.length < 16 →
      exec (.sclfeed b c) s = .next ((s.setCore s.cur.core { s.myCore with
        fifo := s.myCore.fifo ++ [(List.range n).map (fun g => BitVec.ofNat 256 (s.bytesAt ((s.rs b).toNat + 32 * g) 32))] }).doneS [b, c])) ∧
    (n = 0 ∨ 64 < n → exec (.sclfeed b c) s = .next (s.precise (trapOf 14 3 0))) ∧
    (1 ≤ n ∧ n ≤ 64 → 64 < have_ + n ∨ 16 ≤ s.myCore.fifo.length → exec (.sclfeed b c) s = .next (s.precise (trapOf 14 4 0)))) ∧
  (∀ (s : State) (a b c m : SReg) (sh : BitVec 1) (f : BitVec 4) (srcs : List SReg) (n : Nat) (i : Instr), s.calm = true → s.myCore.staging = [] →
    let one := srcs = [a, b, c] ∧ n = 1 ∧ f = if sh = 1 then s.me.cr.fmtb else s.me.cr.fmta
    let many := srcs = [a, b, c, m] ∧ n = (s.rs m).toNat
    let w := fmtContainer f
    let p := fmtPlanes f
    s.portsOpen srcs [] [] [] = true →
    (i = .mplane a b c sh ∧ one ∨ i = .mplaneW a b c m f ∧ many → s.converts (s.rs a) (s.rs b) (s.rs c) p w n →
      ∃ t, exec i s = .next (t.doneS srcs) ∧ OnlyMem s t ∧
        (∀ q r e, q < n → r < 16 → e < 32 → t.planed (s.rs a) p q r e = s.rowElem (s.rs b) (s.rs c) w q r e % 2 ^ p) ∧
        (∀ h, h < lsHome s.cur.core (s.rs a).toNat ∨ lsHome s.cur.core (s.rs a).toNat + n * (p * 64) ≤ h → Memory.byte t.mem h = Memory.byte s.mem h)) ∧
    (i = .munpl a b c sh ∧ one ∨ i = .munplW a b c m f ∧ many → s.converts (s.rs b) (s.rs a) (s.rs c) p w n → rowsApart (s.rs a) (s.rs c) w n →
      ∃ t, exec i s = .next (t.doneS srcs) ∧ OnlyMem s t ∧
        (∀ q r e, q < n → r < 16 → e < 32 → t.rowElem (s.rs a) (s.rs c) w q r e = s.planed (s.rs b) p q r e % (if f = 14 then 2 ^ 31 else 2 ^ p)) ∧
        (∀ h, (∀ r, r < 16 → let lo := lsHome s.cur.core (s.rs a + BitVec.ofNat 64 r * s.rs c).toNat; h < lo ∨ lo + n * (4 * w) ≤ h) →
          Memory.byte t.mem h = Memory.byte s.mem h))) ∧
  (∀ (s : State) (a b m : SReg) (dst : BitVec 1) (fs : BitVec 4) (srcs : List SReg) (n : Nat) (i : Instr), s.calm = true → s.myCore.staging = [] →
    i = .mrnsin a b dst fs ∧ srcs = [a, b] ∧ n = 1 ∨ i = .mrnsinW a b m dst fs ∧ srcs = [a, b, m] ∧ n = (s.rs m).toNat → s.portsOpen srcs [] [] [] = true →
    let p := fmtPlanes fs
    let q := if dst = 1 then 16 else 32
    let da := (s.rs a).toNat
    let sa := (s.rs b).toNat
    8 ≤ fs.toNat → fs.toNat ≤ 13 → da % 64 = 0 → sa % 64 = 0 → s.owns (s.rs a) (n * (q * 64)) = true → s.owns (s.rs b) (n * (p * 64)) = true →
    n ≤ 1 ∨ da + n * (q * 64) ≤ sa ∨ sa + n * (p * 64) ≤ da →
    ∃ t, exec i s = .next (t.doneS srcs) ∧ OnlyMem s t ∧
      (∀ c r e, c < n → r < 16 → e < 32 → t.planed (s.rs a) q c r e = resOf (dst == 1) (intOf (intBits fs) (fmtSigned fs) (s.planed (s.rs b) p c r e))) ∧
      (∀ h, h < lsHome s.cur.core da ∨ lsHome s.cur.core da + n * (q * 64) ≤ h → Memory.byte t.mem h = Memory.byte s.mem h))

/-- 17 R275, R276: the descriptor instructions.
Where it rests on a choice of the model and not on the spec's words, the choice is that of log entry 6. -/
def Obligations.descriptor_results : Prop :=
  ∀ (s : State) (d : DReg) (a b c : SReg) (w : BitVec 2) (pos lenM1 : BitVec 6) (tr : BitVec 1) (ro co : BitVec 16),
    (s.portsOpen [b] [] [] [] = true → s.plain (s.rs b) 32 = true →
      exec (.dld d b) s = .next (((s.pops [b] []).wd d (BitVec.ofNat 256 (s.bytesAt (s.rs b).toNat 32))).retire) ∧
      ∃ t, exec (.dsv d b) s = .next (t.doneS [b]) ∧ OnlyMem s t ∧
        (∀ k, k < 32 → Memory.byte t.mem (lsHome s.cur.core (s.rs b).toNat + k) = BitVec.ofNat 8 ((s.rd d).toNat / 256 ^ k)) ∧
        (∀ h, h < lsHome s.cur.core (s.rs b).toNat ∨ lsHome s.cur.core (s.rs b).toNat + 32 ≤ h → Memory.byte t.mem h = Memory.byte s.mem h)) ∧
    (s.portsOpen [c] [] [] [] = true →
      ∃ v : BitVec 256, exec (.dput d c w) s = .next (((s.pops [c] []).wd d v).retire) ∧
        ∀ k, k < 256 → v.getLsbD k = if k / 64 = w.toNat then (s.rs c).getLsbD (k % 64) else (s.rd d).getLsbD k) ∧
    (s.portsOpen [] [a] [] [] = true → exec (.dget a d w) s = .next (s.setS [] a ((s.rd d).extractLsb' (64 * w.toNat) 64))) ∧
    (s.portsOpen [c] [] [] [] = true → pos.toNat + lenM1.toNat < 64 →
      ∃ v : BitVec 256, exec (.dins d c w pos lenM1) s = .next (((s.pops [c] []).wd d v).retire) ∧
        ∀ k, k < 256 → v.getLsbD k = if k / 64 = w.toNat ∧ pos.toNat ≤ k % 64 ∧ k % 64 ≤ pos.toNat + lenM1.toNat then (s.rs c).getLsbD (k % 64 - pos.toNat)
          else (s.rd d).getLsbD k) ∧
    (s.portsOpen [b, c] [] [] [] = true →
      ∃ v : BitVec 256, exec (.dinit d b c tr ro co) s = .next (((s.pops [b, c] []).wd d v).retire) ∧
        v.extractLsb' 0 64 = s.rs b ∧ v.extractLsb' 64 64 = s.rs c ∧ dRoff v = ro.toInt ∧ dCoff v = co.toInt ∧
        (∀ i j, dMap v i j = if tr = 1 then (j + ro.toInt, i + co.toInt) else (i + ro.toInt, j + co.toInt)))

/-- 18 R277, R279, R284: the creating tile instructions of both forms.
18 R285 to R288: FORCE with nothing to force, TDROP and TQRY; TST reads every source element before it stores any.
Where it rests on a choice of the model and not on the spec's words, the choice is that of log entries 34, 36 and 42. -/
def Obligations.tiles : Prop :=
   (∀ (s : State) (d b c : DReg) (x y : SReg) (acc op sat : BitVec 1) (kM1 : BitVec 11) (fn : BitVec 2) (rm : BitVec 3),
      Creates (.tmul d b c acc kM1) s (.mul (32 * (kM1.toNat + 1)) (acc == 1)) d b (some c) 0 ∧
      Creates (.tadd d b c) s .add d b (some c) 7 ∧ Creates (.taddW d b c rm) s .add d b (some c) rm ∧
      Creates (.tsub d b c) s .sub d b (some c) 7 ∧ Creates (.tsubW d b c rm) s .sub d b (some c) rm ∧
      Creates (.tmax d b c) s .max d b (some c) 7 ∧ Creates (.tmaxW d b c rm) s .max d b (some c) rm ∧
      Creates (.tcvt d b sat rm) s (.cvt (sat == 1)) d b none rm ∧
      Creates (.tred d b op) s (if op = 1 then .redMax else .redSum) d b none 7 ∧
      (noPorts [x, y] [] = true →
        Creates (.tmap d b x y fn rm) s (.map fn (BitVec.ofNat 32 (s.rs x).toNat) (BitVec.ofNat 32 (s.rs y).toNat)) d b none rm)) ∧
   ((∀ (s : State) (b : DReg) (rb nb : BitVec 8), (∀ k ∈ slotNums, (s.myCore.slot k).blanks = []) → s.myCore.demands = [] →
      exec .force s = .next s.retire ∧
      (dReservedBad (s.rd b) = false → exec (.forceM b) s = .next s.retire ∧ exec (.forceW b rb nb) s = .next s.retire)) ∧
    (∀ (s : State) (bl : Blank) (bs : List Blank), s.me.blanks = bl :: bs → bl.pend ≠ [] → s.myCore.demands = [] →
      ∃ t, exec .force s = .next t ∧ t.me.st = .parked ∧ t.me.await = .force ∧ t.todo.contains (.blockEvaluation s.cur.core) = true ∧
        ∃ dm, t.myCore.demands = [dm] ∧ dm.by_ = .thread s.cur ∧
          ∀ k ∈ slotNums, ∀ q n, (∃ e ∈ dm.blocks, e.slot = k ∧ e.seq = q ∧ e.n = n) ↔ (k = s.cur.slot ∧ ∃ x ∈ s.me.blanks, x.seq = q ∧ n ∈ x.pend)) ∧
    (∀ (s : State) (n : BitVec 3), s.myCore.demands = [] →
      (∃ t, exec .tdrop s = .next t ∧ t.me.blanks = [] ∧ t.me.pc = s.npc ∧ t.me.regs = s.me.regs ∧ t.me.cr = s.me.cr ∧ SameButSlot s t s.cur) ∧
      (∃ t, exec (.tdropM n) s = .next t ∧ t.me.blanks = s.me.blanks.eraseIdx n.toNat ∧ t.me.pc = s.npc ∧ t.me.regs = s.me.regs ∧ t.me.cr = s.me.cr ∧ SameButSlot s t s.cur)) ∧
    (∀ (s : State) (d : SReg) (n : BitVec 3), s.portsOpen [] [d] [] [] = true →
      (s.me.blanks[n.toNat]? = none → exec (.tqry d n) s = .next (s.setS [] d 0)) ∧
      (∀ b, s.me.blanks[n.toNat]? = some b →
        exec (.tqry d n) s = .next (s.setS [] d (BitVec.ofNat 64
          (2 ^ 32 * b.pend.length + 2 ^ 16 * b.total + 2 ^ 8 * b.op.code + (if b.flt ≠ [] then 3 else if b.pend.length < b.total then 2 else 1)))))) ∧
    (∀ (s : State) (d b : DReg), s.calm = true → s.myCore.grid = none → s.myCore.tst = none → s.myCore.staging = [] →
      (∀ j, s.tileChecks .tst ⟨d, 0, s.rd d⟩ [⟨b, 1, s.rd b⟩] = some j → exec (.tst d b) s = .next (s.precise j)) ∧
      (s.tileChecks .tst ⟨d, 0, s.rd d⟩ [⟨b, 1, s.rd b⟩] = none →
        let n := if dSpace (s.rd d) = 1 then 4 * quadOf s.cur.core + dMember (s.rd d) else s.cur.core
        ∃ t, exec (.tst d b) s = .next t ∧ t.me.pc = s.npc ∧ t.me.st = .ready ∧ t.me.cont = none ∧ t.me.regs = s.me.regs ∧ t.me.cr = s.me.cr ∧ t.tags = s.tags ∧
          t.myCore.tst = none ∧ t.myCore.grid = none ∧ (∀ u, u ≠ s.cur → (t.slot u).regs = (s.slot u).regs ∧ (t.slot u).cr = (s.slot u).cr ∧ (t.slot u).pc = (s.slot u).pc) ∧
          (∀ m m' : SMap Line, s.hasLines s.cur.core m → t.hasLines n m' → ∀ i j, i < dRows (s.rd d) → j < dCols (s.rd d) →
            elemFrom m' (s.rd d) i j = elemVia m (s.rd b) i j) ∧
          (∀ h, (∀ i j, i < dRows (s.rd d) → j < dCols (s.rd d) → ∀ a ∈ dElemBytes (s.rd d) i j, h ≠ lsHome n a) → Memory.byte t.mem h = Memory.byte s.mem h))))

/-- 18 R277, R281, R289, 05 R96: the evaluation of the one block that is demanded. Its elements become the operation's values of the source elements, no other byte changes; the block is no longer pending, a blank with nothing
pending leaves the table; the flags are kept for the end of what forced the block, which ORs them into the owner's c.fflags.
Where it rests on a choice of the model and not on the spec's words, the choice is that of log entries 6, 38 and 65. -/
def Obligations.block_evaluation : Prop :=
  ∀ (s : State) (n : Nat) (d : Demand) (k : DBlock) (b : Blank) (rb : DReg),
    (s.core n).demands = [d] → d.failed = false → d.blocks = [k] → k.opened = false → k.got = [] → k.made = 0 → d.since = none → (s.core n).grid = none → (s.core n).tst = none →
    (s.core n).copies = [] → ((s.core n).slot k.slot).blanks = [b] → (∀ j ∈ slotNums, j ≠ k.slot → ((s.core n).slot j).blanks = []) →
    b.seq = k.seq → k.n ∈ b.pend → b.flt = [] → (∀ w ∈ (s.core n).dbg.wpctl.toList, w = 0) → (s.core n).rmap0 = 0 → (s.core n).rmap1 = 0 →
    s.waiters = [] → s.badTags = [] → s.poison = [] → (s.slot ⟨n, k.slot⟩).cr.fen = 0 →
    { s with cur := ⟨n, k.slot⟩ }.tileChecks (.op b.op) ⟨rb, 0, b.dst⟩ (b.sources.zipIdx.map (fun (p : BitVec 256 × Nat) => (⟨rb, p.2 + 1, p.1⟩ : TileArg))) = none →
    ∃ t, exec (.blockEvaluation n) s = .next t ∧
      (∀ m m' : SMap Line, s.hasLines n m → t.hasLines n m' →
        (∀ e ∈ dBlockElems b.dst k.n, elemFrom m' b.dst e.1 e.2 = (b.value m e.1 e.2).bits % 2 ^ fmtPlanes (dFmt b.dst)) ∧
        (let fl := (dBlockElems b.dst k.n).foldl (fun f e => f ||| (b.value m e.1 e.2).fl) 0
         t.owed = if fl = 0 then s.owed else s.owed ++ [(d.by_, ⟨n, k.slot⟩, fl)])) ∧
      (t.slot ⟨n, k.slot⟩).cr = (s.slot ⟨n, k.slot⟩).cr ∧
      (∀ h, (∀ a ∈ dBlockBytes b.dst k.n, h ≠ lsHome n a) → Memory.byte t.mem h = Memory.byte s.mem h) ∧
      (t.slot ⟨n, k.slot⟩).blanks = (let p := b.pend.filter (· ≠ k.n); if p = [] then [] else [{ b with pend := p }]) ∧
      (t.slot ⟨n, k.slot⟩).regs = (s.slot ⟨n, k.slot⟩).regs ∧ t.tags = s.tags ∧ t.todo.contains (.blockEvaluation n) = true ∧
      ∀ (v : State) (ag : Agent) (u : Tid),
        (v.settle ag).owed = v.owed.filter (fun p => p.1 != ag) ∧ (v.settle ag).mem = v.mem ∧
        ((v.settle ag).slot u).cr = { (v.slot u).cr with
          fflags := (v.owed.filter (fun p => p.1 == ag && p.2.1 == u)).foldl (fun f p => f ||| p.2.2) (v.slot u).cr.fflags }

/-! ### Threads, synchronisation, copies (03, 13, 14, 19) -/

/-- 03 R46 to R51; 09 R145, R146; 14 R227 to R230: spawning, returning from and joining children, stealing, and leaving, for a frame address in the own local store and window groups that need neither
spill nor fill.
Where it rests on a choice of the model and not on the spec's words, the choice is that of log entries 6 and 18. -/
def Obligations.task_results : Prop :=
  (∀ (s : State) (b : SReg) (off : BitVec 27) (o : Nat), s.calm = true → s.portsOpen [b] [] [] [] = true → s.frameAt (s.rs b) o → s.callFits = true →
    ∃ t, exec (.spawn b off) s = .next t ∧ t.me.pc = branchTarget s.me.pc off ∧
      t.mem = Memory.writeN s.mem (lsHome s.cur.core o) ((s.bytesAt o 8 + 1) % 2 ^ 64) 255 8 ∧
      t.me.deque = (if s.me.deque.length < 16 then s.me.deque ++ [(s.npc, s.rs b)] else s.me.deque) ∧
      t.rs 15 = (if s.me.deque.length < 16 then s.npc ||| 1 else s.npc) ∧ (∀ k : SReg, 8 ≤ k.toNat → k.toNat < 15 → t.rs k = s.rs (k + 16)) ∧
      (∀ k : SReg, k.toNat < 6 → t.rs k = s.rs k) ∧ t.me.regs.older = s.me.regs.older + 1 ∧ t.tags = s.tags) ∧
  (∀ (s : State) (f : SReg) (o : Nat), s.calm = true → s.portsOpen [f] [] [] [] = true → s.frameAt (s.rs f) o → s.me.regs.frame = .normal →
    let m := Memory.writeN s.mem (lsHome s.cur.core o) ((s.bytesAt o 8 + (2 ^ 64 - 1)) % 2 ^ 64) 255 8
    ((s.rs 15).getLsbD 0 = false → 0 < s.me.regs.older →
      ∃ t, exec (.rets f) s = .next t ∧ t.me.pc = s.rs 15 ∧ Returned s t ∧ t.mem = m ∧ t.me.deque = s.me.deque) ∧
    (∀ ds r, (s.rs 15).getLsbD 0 = true → 0 < s.me.regs.older → s.me.deque = ds ++ [r] →
      ∃ t, exec (.rets f) s = .next t ∧ t.me.pc = r.1 &&& ~~~(1 : Word) ∧ Returned s t ∧ t.mem = m ∧ t.me.deque = ds) ∧
    ((s.rs 15).getLsbD 0 = true → s.me.deque = [] → s.me.cr.wloop ≠ 0 →
      ∃ t, exec (.rets f) s = .next t ∧ t.me.pc = BitVec.ofNat 64 (2 * s.me.cr.wloop.toNat) ∧ FreshFrame t 0 ∧ t.mem = m)) ∧
  (∀ (s : State) (b : SReg) (o : Nat), s.calm = true → s.portsOpen [b] [] [] [] = true → s.frameAt (s.rs b) o →
    (s.bytesAt o 8 = 0 → exec (.joinWord b) s = .next (s.doneS [b])) ∧
    (s.bytesAt o 8 ≠ 0 → ∃ t, exec (.joinWord b) s = .next t ∧ Waits s t (.join (lsHome s.cur.core o)) ∧
      ∃ w ∈ t.waiters, w.agent = .thread s.cur ∧ w.home = lsHome s.cur.core o ∧ w.onWrite = true)) ∧
  (∀ (s : State) (d : SReg) (k : BitVec 3), s.portsOpen [0] [d] [] [] = true → s.me.regs.frame = .normal →
    let mine (u : Tid) : Bool := (s.slot u).gang == s.me.gang && !(s.slot u).deque.isEmpty
    (∀ u r rs, (stealOrder s.cur).find? mine = some u → (s.slot u).deque = r :: rs →
      ∃ t, exec (.steal d 0 k) s = .next t ∧ t.me.pc = r.1 ∧ FreshFrame t r.2 ∧ (t.slot u).deque = rs ∧ t.mem = s.mem) ∧
    ((stealOrder s.cur).find? mine = none → ∃ t, exec (.steal d 0 k) s = .next t ∧ Waits s t (.steal none none))) ∧
  (∀ (s : State) (d b : SReg) (k : BitVec 3), s.calm = true → b ≠ 0 → s.portsOpen [b] [d] [] [] = true → s.me.regs.frame = .normal →
    (∀ u ∈ stealOrder s.cur, (s.slot u).gang = s.me.gang → (s.slot u).deque = []) → (s.rs b).toNat % 8 = 0 → s.owns (s.rs b) 8 = true →
    (s.tag (lsHome s.cur.core (s.rs b).toNat) ≠ k → exec (.steal d b k) s = .next (s.setS [b] d 0)) ∧
    (s.tag (lsHome s.cur.core (s.rs b).toNat) = k →
      ∃ t, exec (.steal d b k) s = .next t ∧ Waits s t (.steal (some (lsHome s.cur.core (s.rs b).toNat)) none))) ∧
  (∀ (s : State) (d : SReg), s.portsOpen [] [d] [] [] = true → exec (.dqlen d) s = .next (s.setS [] d (BitVec.ofNat 64 s.me.deque.length))) ∧
  (∀ s : State, s.me.blanks = [] → s.myCore.demands = [] → s.copying s.cur = false → s.me.outs = [] → s.me.cont = none → s.me.stamp = none → s.me.stamps = [] →
    ∃ t, exec .exit s = .next t ∧ t.me.st = .empty ∧ t.me.blanks = [] ∧ t.mem = s.mem ∧ t.tags = s.tags)

/-- 14 R231, R232; 19 R304, R305, R307, R308; 26 R371: port connections, random draws, stamps and trace marks. -/
def Obligations.thread_register_results : Prop :=
  (∀ (s : State) (b : SReg) (fl : BitVec 4), s.portsOpen [b] [] [] [] = true →
    let v := s.rs b
    let u : Tid := ⟨4 * quadOf s.cur.core + (v.toNat / 8) % 4, BitVec.ofNat 3 v.toNat⟩
    let ok := v.toNat < 32 ∧ ∃ g, s.gang s.me.gang = some g ∧ u ∈ g.tids
    let other (c : Option Tid) : Prop := ∃ x, c = some x ∧ x ≠ s.cur
    let claimed := other (s.slot u).port.sclaim ∨ (fl.getLsbD 3 = true ∧ other (s.slot u).port.vclaim)
    (fl.getLsbD 2 = true → fl.getLsbD 3 = false → exec (.pcon b fl) s = .next (s.precise (trapOf 12 3 0))) ∧
    ((fl.getLsbD 2 = true → fl.getLsbD 3 = true) → fl.getLsbD 0 = true → ¬ ok → exec (.pcon b fl) s = .next (s.precise (trapOf 12 1 0))) ∧
    ((fl.getLsbD 2 = true → fl.getLsbD 3 = true) → fl.getLsbD 0 = true → ok → claimed → exec (.pcon b fl) s = .next (s.precise (trapOf 12 2 0))) ∧
    ((fl.getLsbD 2 = true → fl.getLsbD 3 = true) → (fl.getLsbD 0 = true → ok ∧ ¬ claimed) →
      ∃ t, exec (.pcon b fl) s = .next t ∧ t.me.pc = s.npc ∧ t.me.port.dn = fl.getLsbD 0 ∧ t.me.port.su = fl.getLsbD 1 ∧ t.me.port.vu = fl.getLsbD 2 ∧
        t.me.port.vp = fl.getLsbD 3 ∧ t.me.regs = s.me.regs ∧ t.mem = s.mem ∧
        (fl.getLsbD 0 = true → t.me.port.target = BitVec.ofNat 5 v.toNat ∧ (t.slot u).port.sclaim = some s.cur ∧
          (fl.getLsbD 3 = true → (t.slot u).port.vclaim = some s.cur)))) ∧
  (∀ (s : State) (d : SReg), s.portsOpen [] [d] [] [] = true → exec (.draw d) s = .next ((s.advanced 1).setS [] d (s.drawn 0).1)) ∧
  (∀ (s : State) (d : VReg), s.portsOpen [] [] [] [d] = true →
    ∃ v : Line, (∀ m, m < 4 → elemOf 64 v (2 * m) = (s.drawn m).1.toNat ∧ elemOf 64 v (2 * m + 1) = (s.drawn m).2.toNat) ∧
      exec (.drawV d) s = .next (((s.advanced 4).wv d v).retire)) ∧
  (∀ (s : State) (k b c : SReg), s.portsOpen [k, b, c] [] [] [] = true →
    exec (.rngkey k b c) s = .next ((s.setMe { s.me with cr := { s.me.cr with rngk := s.rs k, rngc := s.rs b, rngch := s.rs c } }).doneS [k, b, c])) ∧
  (∀ (s : State) (b c : SReg), s.portsOpen [b, c] [] [] [] = true →
    exec (.rngadv b c) s = .next ((s.advanced ((s.rs c).toNat * 2 ^ 64 + (s.rs b).toNat)).doneS [b, c])) ∧
  (∀ (s : State) (b : SReg), s.stampsOn s.cur = false →
    (∀ k : BitVec 2, exec (.stamp k) s = .next s.retire) ∧ exec .stampClose s = .next s.retire ∧
    (s.portsOpen [b] [] [] [] = true → exec (.stampOpen b) s = .next (s.doneS [b]))) ∧
  (∀ (s : State) (b : SReg), s.stampsOn s.cur = true →
    (∀ (k : BitVec 2) (r : Vector Word 8), s.me.stamp = some r →
      ∃ t q, exec (.stamp k) s = .next t ∧ t.me.stamp = some q ∧ t.me.pc = s.npc ∧ t.mem = s.mem ∧
        ∀ j (h : j < 8), q[j] = if j = 3 + k.toNat then s.myCore.cyc else if j = 1 then r[1] ||| BitVec.ofNat 64 (2 ^ (24 + k.toNat)) else r[j]) ∧
    (s.me.stamp = none → s.portsOpen [b] [] [] [] = true →
      ∃ t q, exec (.stampOpen b) s = .next t ∧ t.me.stamp = some q ∧ t.me.pc = s.npc ∧ t.mem = s.mem ∧
        ∀ j (h : j < 8), q[j] = if j = 0 then s.rs b else if j = 2 then s.myCore.cyc else 0) ∧
    (∃ t, exec .stampClose s = .next t ∧ t.me.stamp = none ∧ t.me.pc = s.npc ∧ t.me.regs = s.me.regs)) ∧
  (∀ (s : State) (b : SReg) (code : BitVec 6), s.portsOpen [b] [] [] [] = true →
    ∃ t, exec (.trmark b code) s = .next t ∧ t.me.pc = s.npc ∧ t.me.regs = s.me.regs ∧ t.mem = s.mem ∧
      (s.myCore.frozen = false → t.myCore.trnext = s.myCore.trnext + 1 ∧
        ∃ r : BitVec 128, SMap.find t.myCore.trace (s.myCore.trnext.toNat % 256) = some r ∧ r.extractLsb' 60 4 = 5 ∧ r.extractLsb' 57 3 = s.cur.slot ∧
          r.extractLsb' 51 6 = code ∧ r.extractLsb' 1 48 = s.me.pc.extractLsb' 1 48 ∧ r.extractLsb' 64 48 = (s.rs b).extractLsb' 0 48))

/-- 13 R202, R206, R209, R210; 14 R219 to R226; 03 R52, R53: fences, barriers, stage barrier words and tag waits, with nothing outstanding.
Where it rests on a choice of the model and not on the spec's words, the choice is that of log entries 6 and 25. -/
def Obligations.synchronisation_results : Prop :=
  (∀ (s : State) (sc q : BitVec 3), s.me.outs = [] → s.me.cont = none →
    exec (.fence sc) s = .next s.retire ∧ exec (.xfence 0 q) s = .next (s.fencePath q).retire ∧ (s.copying s.cur = false → exec (.xfence 1 q) s = .next (s.fencePath q).retire) ∧
    (∀ p : BitVec 3, 2 ≤ p.toNat → exec (.xfence p q) s = .next (s.fencePath q).retire) ∧
    (s.fencePath 2).myCore = { s.myCore with staging := [] } ∧ (q ≠ 2 → s.fencePath q = s) ∧
    exec (.bar 0) s = .next s.retire ∧ exec (.bara 0) s = .next s.retire ∧ exec (.barw 0) s = .next s.retire) ∧
  (∀ (s : State) (sc q : BitVec 3), s.me.cont = none → s.me.lates = [] →
    (s.me.performedAt s.cur.core sc.toNat = false → ∃ t, exec (.fence sc) s = .next t ∧ Waits s t .outs) ∧
    (s.me.performedAt s.cur.core 6 = false → ∃ t, exec (.xfence 0 q) s = .next t ∧ Waits s t .outs) ∧
    (s.copying s.cur = true → ∃ t, exec (.xfence 1 q) s = .next t ∧ Waits s t .copies)) ∧
  (∀ (s : State) (sc : BitVec 3), 4 ≤ sc.toNat → ((s.gangLaunch s.me.gang).map Launch.coop).getD false = false →
    ∀ i ∈ [Instr.bar sc, .bara sc, .barw sc], exec i s = .next (s.precise (trapOf 7 7 (sc.setWidth 64)))) ∧
  (∀ (s : State) (sc : BitVec 3), s.me.outs = [] → s.me.cont = none → 1 ≤ sc.toNat → sc.toNat ≤ 5 →
    (4 ≤ sc.toNat → ((s.gangLaunch s.me.gang).map Launch.coop).getD false = true) →
    let bit (t : State) : Option Nat := t.me.ab[sc.toNat]?.getD none
    (bit s = none →
      (∃ t, exec (.bara sc) s = .next t ∧ bit t = some (s.openRound s.cur sc) ∧ t.me.pc = s.npc ∧ t.me.regs = s.me.regs ∧ t.mem = s.mem) ∧
      (∃ t, exec (.bar sc) s = .next t ∧ bit t = some (s.openRound s.cur sc) ∧ Waits s t (.barrier sc)) ∧ exec (.barw sc) s = .next s.retire) ∧
    (∀ r, bit s = some r → r < s.openRound s.cur sc →
      (∀ i ∈ [Instr.bar sc, .barw sc], ∃ t, exec i s = .next t ∧ bit t = none ∧ t.me.pc = s.npc ∧ t.me.regs = s.me.regs ∧ t.mem = s.mem) ∧
      (∃ t, exec (.bara sc) s = .next t ∧ bit t = some (s.openRound s.cur sc) ∧ t.me.pc = s.npc ∧ t.me.regs = s.me.regs ∧ t.mem = s.mem)) ∧
    (∀ r, bit s = some r → s.openRound s.cur sc ≤ r → ∀ i ∈ [Instr.bar sc, .bara sc, .barw sc], ∃ t, exec i s = .next t ∧ Waits s t (.barrier sc))) ∧
  (∀ (s : State) (d b c : SReg) (sc k : BitVec 3), s.calm = true → (s.rs b).toNat % 8 = 0 → s.owns (s.rs b) 8 = true →
    let va := s.rs b
    let h := lsHome s.cur.core va.toNat
    let w := s.bytesAt va.toNat 8
    (s.portsOpen [b, c] [] [] [] = true →
      ∃ t : State, exec (.sbinit b c) s = .next (t.doneS [b, c]) ∧ t = { s with mem := t.mem, tags := t.tags } ∧ t.bytesAt va.toNat 8 = (s.rs c).toNat % 2 ^ 20 * 2 ^ 20 ∧
        (∀ a, a < h ∨ h + 8 ≤ a → Memory.byte t.mem a = Memory.byte s.mem a) ∧ ∀ a, t.tag a = if wordOf a = h then s.me.cr.sbtag else s.tag a) ∧
    (s.portsOpen [b] [d] [] [] = true → exec (.sbarv d b sc) s = .next ((s.stored va 8 (arrived w)).setS [b] d (BitVec.ofNat 64 w))) ∧
    (s.portsOpen [b, c] [d] [] [] = true →
      exec (.sbtest d b c) s = .next (s.setS [b, c] d (if w / 2 ^ 40 = (s.rs c).toNat % 2 ^ 24 then 0 else 1)) ∧
      (w / 2 ^ 40 ≠ (s.rs c).toNat % 2 ^ 24 → exec (.sbwait d b c) s = .next (s.setS [b, c] d (BitVec.ofNat 64 w))) ∧
      (w / 2 ^ 40 = (s.rs c).toNat % 2 ^ 24 → ∃ t, exec (.sbwait d b c) s = .next t ∧ Waits s t (.value h) ∧
        ∃ x ∈ t.waiters, x.agent = .thread s.cur ∧ x.home = h ∧ x.onWrite = true)) ∧
    (s.portsOpen [b] [] [] [] = true →
      (s.tag h ≠ k → exec (.waitTag b k) s = .next (s.doneS [b])) ∧
      (s.tag h = k → ∃ t, exec (.waitTag b k) s = .next t ∧ Waits s t (.tag h) ∧
        ∃ x ∈ t.waiters, x.agent = .thread s.cur ∧ x.home = h ∧ x.onTag = true)))

/-- 14 R233; 13 R212; 24 R357 to R359: FLUSHI, TCINV and SLEEP. Each parks the thread; the acknowledgement of every cache of the scope, or the count, wakes it, and the instruction then
completes. An acknowledged line or translation is in no cache of the scope.
Where it rests on a choice of the model and not on the spec's words, the choice is that of log entry 30. -/
def Obligations.maintenance_results : Prop :=
  (∀ (s : State) (b c : SReg) (sc : BitVec 3), s.portsOpen [b, c] [] [] [] = true → s.me.st = .ready →
    (s.rs c = 0 → exec (.flushi b c sc) s = .next (s.doneS [b, c])) ∧
    (s.rs c ≠ 0 → s.me.cont = none → s.myCore.gated = false →
      ∃ t u, exec (.flushi b c sc) s = .next t ∧ Waits s t .acks ∧ t.todo.contains (.flushiAcknowledgement s.cur.core s.cur.slot) = true ∧
        exec (.flushiAcknowledgement s.cur.core s.cur.slot) t = .next u ∧ u.me.st = .ready ∧ u.urgent.contains s.cur = true ∧ u.mem = s.mem ∧
        (∀ n, inScope sc s.cur.core n = true → ∀ l ∈ (u.core n).icache, l.ctx = s.myCtx →
          (s.rs b).toNat + (s.rs c).toNat ≤ l.addr.toNat ∨ l.addr.toNat + 64 ≤ (s.rs b).toNat) ∧
        exec (.flushi b c sc) u = .next (u.doneS [b, c]))) ∧
  (∀ (s : State) (b c : SReg) (sc : BitVec 3) (ranged : Bool), s.portsOpen [b, c] [] [] [] = true → s.me.st = .ready → s.me.cont = none → s.myCore.gated = false →
    let i := if ranged then Instr.tcinvM b c sc else .tcinv sc
    ∃ t u, exec i s = .next t ∧ Waits s t .acks ∧ t.todo.contains (.tcinvAcknowledgement s.cur.core s.cur.slot) = true ∧
      exec (.tcinvAcknowledgement s.cur.core s.cur.slot) t = .next u ∧ u.me.st = .ready ∧ u.urgent.contains s.cur = true ∧ u.mem = s.mem ∧
      (∀ q, quadIn sc s.cur.core q = true → ∀ e ∈ u.tcaches, e.1 = q → ∀ l ∈ e.2, l.ctx = s.myCtx →
        ranged = true ∧ l.overlaps (s.rs b).toNat (s.rs c).toNat = false) ∧
      exec i u = .next (if ranged then u.doneS [b, c] else u.retire)) ∧
  (∀ (s : State) (b : SReg), s.portsOpen [b] [] [] [] = true → s.me.st = .ready →
    (s.rs b).toNat % 2 ^ 32 = 0 → exec (.sleep b) s = .next (s.doneS [b])) ∧
  (∀ (s : State) (b : SReg) (n : Nat), s.portsOpen [b] [] [] [] = true → s.me.st = .ready → s.me.cont = none → s.me.await = .none →
    n = (s.rs b).toNat % 2 ^ 32 → n ≠ 0 →
    ∃ t, exec (.sleep b) s = .next t ∧ Waits s t (.sleep (s.myCore.cyc.toNat + n)) ∧
      { unit := s.cur.core, at_ := s.myCore.cyc.toNat + n, ev := Event.sleepExpiry s.cur.core s.cur.slot } ∈ t.timers) ∧
  (∀ (s : State) (u : Tid) (due : Nat), (s.slot u).st = .parked → (s.slot u).await = .sleep due → due ≤ (s.core u.core).cyc.toNat → (s.core u.core).gated = false → (s.slot u).cont ≠ none →
    ∃ t, exec (.sleepExpiry u.core u.slot) s = .next t ∧ (t.slot u).st = .ready ∧ (t.slot u).cont = (s.slot u).cont ∧ t.urgent.contains u = true ∧ t.mem = s.mem)

/-- 19 R295 to R302: CP and CPS check their records and queue a command; the engine reads an element, then writes it, then, all being moved, applies the signal and writes the token with count and status.
Where it rests on a choice of the model and not on the spec's words, the choice is that of log entries 39 and 40. -/
def Obligations.copy_results : Prop :=
  (∀ (s : State) (t b c g : SReg) (rs : BitVec 1) (dec : BitVec 16) (i : Instr) (srcs : List SReg) (sig : Option (Word × BitVec 16)), s.calm = true →
    i = .cp t b c rs ∧ srcs = [t, b, c] ∧ sig = none ∨
      (i = .cps t b c g rs dec ∧ srcs = [t, b, c, g] ∧ sig = some (s.rs g, dec) ∧ (s.rs g).toNat % 8 = 0 ∧ s.place s.cur.core (s.rs g) ≠ .nowhere) →
    s.portsOpen srcs [] [] [] = true → (s.rs t).toNat % 8 = 0 → (s.rs b).toNat % 128 = 0 → (s.rs c).toNat % 128 = 0 →
    s.owns (s.rs t) 8 = true → s.owns (s.rs b) 128 = true → s.owns (s.rs c) 128 = true →
    let vs := s.bytesAt (s.rs b).toNat 128
    let vd := s.bytesAt (s.rs c).toNat 128
    (∀ j, s.me.cr.intrap = false → s.me.cr.tvec ≠ 0 → patternChecks vs vd = some j → exec i s = .next (s.precise j)) ∧
    (patternChecks vs vd = none →
      ∃ u k, exec i s = .next u ∧ u.myCore.copies = [k] ∧ k.tid = s.cur ∧ k.token = lsHome s.cur.core (s.rs t).toNat ∧ k.src = patternOf vs ∧ k.dst = patternOf vd ∧
        k.n = (patternOf vs).count ∧ k.pos = (if rs = 1 then min (s.bytesAt (s.rs t).toNat 8 / 2 ^ 32) k.n else 0) ∧ k.signal = sig ∧ k.started = false ∧
        k.data = none ∧ k.fail = none ∧ u.todo.contains (.copyCommandStart s.cur.core) = true ∧ u.me.pc = s.npc ∧ u.mem = s.mem)) ∧
  (∀ (s : State) (m : Nat) (k : CopyCmd), s.calmButCopies = true → (s.core m).copies = [k] → k.started = true → k.fail = none → k.since = none → s.copyStops k = false →
    (k.pos < k.n → k.data = none → s.coreOwns m (k.src.addr k.pos) k.src.size → k.src.size ≤ 64 →
      ∃ u v, exec (.copyCommandStart m) s = .next u ∧ (u.core m).copies = [{ k with data := some v, stall := .none }] ∧ u.mem = s.mem ∧
        (∀ j, j < k.src.size → Memory.byte s.mem (lsHome m ((k.src.addr k.pos).toNat + j)) = BitVec.ofNat 8 (v.toNat / 256 ^ j)) ∧
        u.todo.contains (.copyCommandStart m) = true) ∧
    (∀ v, k.pos < k.n → k.data = some v → s.coreOwns m (k.dst.addr k.pos) k.dst.size → k.dst.size ≤ 64 →
      ∃ u, exec (.copyCommandStart m) s = .next u ∧ (u.core m).copies = [{ k with data := none, pos := k.pos + 1, stall := .none }] ∧
        (∀ j, j < k.dst.size → Memory.byte u.mem (lsHome m (k.dst.addr k.pos).toNat + j) = BitVec.ofNat 8 (v.toNat / 256 ^ j)) ∧
        (∀ a, a < lsHome m (k.dst.addr k.pos).toNat ∨ lsHome m (k.dst.addr k.pos).toNat + k.dst.size ≤ a → Memory.byte u.mem a = Memory.byte s.mem a) ∧
        u.todo.contains (if k.pos + 1 = k.n then .copyCommandEnd m else .copyCommandStart m) = true) ∧
    (∀ o, k.pos = k.n → k.signal = none → k.token = lsHome m o → o % 8 = 0 → o < 0x40000 →
      ∃ u, exec (.copyCommandEnd m) s = .next u ∧ (u.core m).copies = [] ∧ u.mem = Memory.writeN s.mem k.token (k.pos * 2 ^ 32 % 2 ^ 64) 255 8 ∧ u.tags = s.tags)) ∧
  (∀ (i : TrapInfo), ∀ side, side < 4 → (copyStatus side i).toNat / 2 ^ 16 = side ∧
    (i.cls = 7 → (copyStatus side i).toNat / 2 ^ 8 % 2 ^ 8 = 2) ∧ (i.cls = 8 → (copyStatus side i).toNat / 2 ^ 8 % 2 ^ 8 = 3) ∧
    (i.cls = 17 → (copyStatus side i).toNat / 2 ^ 8 % 2 ^ 8 = 5) ∧ (i.cls = 16 → (copyStatus side i).toNat / 2 ^ 8 % 2 ^ 8 = 6) ∧
    (i.cls = 13 → (copyStatus side i).toNat / 2 ^ 8 % 2 ^ 8 = 4 ∧ (copyStatus side i).toNat % 2 ^ 8 = i.code.toNat % 2 ^ 8))

/-! ### Events of threads and their accesses -/

/-- 10 R161, R162, R165 to R168; 11 R174; 13 R195: a relaxed access performed at its bank, the points that a relaxed store passes, the re-evaluation of a waiter, the reissue of a
redirected access, the retry of a refused one, and the watchdog.
Where it rests on a choice of the model and not on the spec's words, the choice is that of log entries 4, 24 and 28. -/
def Obligations.access_event_results : Prop :=
  (∀ (s : State) (t : Tid) (o : Out) (i : OutItem), s.lone t o i →
    (∀ (l : RegLoc) (n : Nat) (g : Bool), i.acc.op = .read → o.store = false → o.dest = .scalar l n g → n = i.acc.size → l ≠ .portOut →
      ∃ u, exec (.bankOperation t.core t.slot (64 * o.seq)) s = .next u ∧ (u.slot t).outs = [] ∧ u.mem = s.mem ∧ u.tags = s.tags ∧
        (u.slot t).regs = (s.slot t).regs.writeLoc l (({ s with cur := t } : State).loaded i.acc.va n g)) ∧
    (∀ d : Line, i.acc.op = .write d → i.acc.be = BitVec.allOnes 64 → o.store = true → o.dest = .none →
      ∃ u, exec (.bankOperation t.core t.slot (64 * o.seq)) s = .next u ∧ (u.slot t).outs = [] ∧ (u.slot t).regs = (s.slot t).regs ∧ u.tags = s.tags ∧
        u.mem = Memory.writeN s.mem i.home (d.toNat % 256 ^ i.acc.size) (2 ^ i.acc.size - 1) i.acc.size)) ∧
  (∀ (s : State) (t : Tid) (acc p : Nat) (o : Out) (i : OutItem), (s.slot t).item acc = some (o, i) → i.done = false → o.store = true →
    1 ≤ p → p ≤ 3 → i.point + 1 = p → p ≤ lastPoint t.core i.home → (s.slot t).blocked acc i = false → s.itemBusy t true i = false →
    (p = 3 → homeKind i.home < 2) →
    ∃ u, exec (.accessCompletion t.core t.slot acc (BitVec.ofNat 3 p)) s = .next u ∧ (((u.slot t).item acc).map (fun q => q.2.point)) = some p ∧ u.mem = s.mem ∧
      u.tags = s.tags ∧ (u.slot t).regs = (s.slot t).regs) ∧
  (∀ (s : State) (t : Tid) (acc : Nat) (o : Out) (i : OutItem) (d : Line), (s.slot t).item acc = some (o, i) → i.done = false → o.store = true → i.point = 2 →
    i.stall = .none → i.acc.op = .write d → i.acc.size ≠ 0 → homeIsLs i.home = false → 2 ≤ homeKind i.home → (s.slot t).blocked acc i = false →
    s.itemBusy t true i = false → (∀ r ∈ s.requests, r.agent ≠ .access t acc) → s.plat.linksFailed = 0 →
    let c := s.ctxOf t.core
    let pa : Word := BitVec.ofNat 64 (homePa i.home)
    let leaves (f : Msg → Msg) : Prop :=
      ∃ u m, exec (.accessCompletion t.core t.slot acc 3) s = .next u ∧ (((u.slot t).item acc).map (fun q => q.2.point)) = some 3 ∧ u.sent = s.sent ++ [f m] ∧
        m.ty = 0x03 ∧ m.addr = pa ∧ m.data = d ∧ m.mask = i.acc.be ∧ m.dst = pa.extractLsb' 48 8 ∧ m.world = s.world c ∧ u.mem = s.mem ∧ u.tags = s.tags ∧
        (u.slot t).regs = (s.slot t).regs
    (s.world c = 0 → leaves id) ∧
    (∀ (k : Nat) (x : Session), s.world c ≠ 0 → s.sessionWith c (pa.extractLsb' 48 8) = some (k, x) → SMap.find s.ssc.sessions k = some x → k ≠ 0 →
      s.spent (sessionKeyNo k) t.core = false → leaves (fun m => sealMsg m x.key (s.nonce (sessionKeyNo k) t.core)))) ∧
  (∀ (s : State) (w : Nat) (x : Waiter) (t : Tid), s.waiters.find? (fun y => y.seq == w) = some x → x.agent = .thread t → (s.slot t).st = .parked →
    (s.slot t).cont ≠ none →
    ∃ u, exec (.waiterReevaluation w) s = .next u ∧ (u.slot t).st = .ready ∧ (u.slot t).await = .none ∧ (u.slot t).cont = (s.slot t).cont ∧
      (u.slot t).pc = (s.slot t).pc ∧ (u.slot t).regs = (s.slot t).regs ∧ u.mem = s.mem ∧ u.tags = s.tags ∧ u.urgent.contains t = true ∧ u.waiters = s.waiters) ∧
  (∀ (s : State) (t : Tid), (s.slot t).st = .parked → (s.slot t).await = .rdr → (s.slot t).cont ≠ none → ∃ u, exec (.rdrReissue t.core t.slot) s = .next u ∧ Woken s u t) ∧
  (∀ (s : State) (t : Tid) (h due : Nat), (s.slot t).st = .parked → (s.slot t).await = .refused h due → due ≤ (s.core t.core).cyc.toNat → (s.slot t).outs = [] → (s.slot t).cont ≠ none →
    ∃ u, exec (.remoteWaitRetry t.core t.slot) s = .next u ∧ Woken s u t) ∧
  (∀ (s : State) (t : Tid) (h n : Nat) (c : Cont), (s.slot t).st = .parked → (s.slot t).await = .table h → (s.slot t).cont = some c → c.since = some n → (s.slot t).outs = [] →
    (n + 2 ^ 26 ≤ (s.core t.core).cyc.toNat →
      ∃ u, exec (.tagWaitWatchdog t.core 0 t.slot) s = .next u ∧ (u.slot t).st = .ready ∧ (u.slot t).cont = some { c with dog := true } ∧ u.mem = s.mem ∧ u.tags = s.tags) ∧
    ((s.core t.core).cyc.toNat < n + 2 ^ 26 → exec (.tagWaitWatchdog t.core 0 t.slot) s = .next s)) ∧
  (∀ (s : State) (t : Tid) (c : Cont) (va : Word), t = s.cur → (s.slot t).cont = some c → c.dog = true → c.redirect = none → va.toNat % 8 = 0 → va.toNat < 0x40000 →
    s.place t.core va = .ls t.core va.toNat false → s.lsCheck (some t.core) s.myCtx s.myAper va t.core va.toNat false = none → s.badTags = [] → (s.core t.core).copies = [] →
    (∀ k, ((s.core t.core).slot k).blanks = []) → (s.core t.core).demands = [] → (s.core t.core).gated = false → s.me.outs = [] → (s.entry t.core va.toNat 0).toNat / 2 ^ 13 = 1 →
    ∃ u, s.ordinary (accRead va 8) = .trap (trapOf 17 0 va) u ∧ u.mem = s.mem ∧ u.tags = s.tags)

/-- 24 R340 to R342; 14 R234; 21 R321, R322: late traps and preempt notices at an instruction boundary, the budget, the save of a gang and its resume.
Where it rests on a choice of the model and not on the spec's words, the choice is that of log entries 23, 47 and 53. -/
def Obligations.boundary_event_results : Prop :=
  (∀ (s : State) (t : Tid) (l : LateTrap) (ls : List LateTrap), s.mayTrap t → (s.slot t).lates = l :: ls → l.info.cls ≠ 8 →
    ∃ u, exec (.lateTrapEntry t.core t.slot) s = .next u ∧ (u.slot t).lates = ls ∧
      TrapEntered (s.setSlot t { s.slot t with lates := ls }) u t l.info (if l.epcZero then 0 else (s.slot t).pc) l.pc2 l.late l.defer) ∧
  (∀ (s : State) (t : Tid) (g : Gang), s.gang (s.slot t).gang = some g → (s.slot t).notice = 1 → (s.slot t).lates = [] →
    (s.mayTrap t →
      ∃ u, exec (.preemptNotice t.core t.slot) s = .next u ∧ (u.slot t).notice = 2 ∧ (u.slot t).cr.cls = 19 ∧ (u.slot t).cr.code = 0 ∧
        (u.slot t).cr.tval = (s.slot t).cr.pbudget.setWidth 64 ∧ (u.slot t).cr.intrap = true ∧ (u.slot t).pc = BitVec.ofNat 64 (64 * (s.slot t).cr.tvec.toNat) ∧
        2 * (u.slot t).cr.epc.toNat = (s.slot t).pc.toNat / 2 * 2) ∧
    ((s.slot t).st = .ready → (s.slot t).cont = none → (s.slot t).cr.intrap = false → (s.slot t).cr.tvec = 0 → g.runs →
      ∃ u, exec (.preemptNotice t.core t.slot) s = .next u ∧ u.saving g)) ∧
  (∀ (s : State) (t : Tid) (g : Gang), s.gang (s.slot t).gang = some g → g.runs → (s.slot t).notice = 2 → (s.slot t).cr.pbudget = 0 → (s.slot t).st ≠ .empty →
    ∃ u, exec (.pbudgetExpiry t.core t.slot) s = .next u ∧ u.saving g ∧ u.mem = s.mem) ∧
  (∀ (s : State) (g : Gang), s.gang g.id = some g → g.preempt = true → g.image = none → g.fatal = none → s.canSave g = true →
    (∀ p ∈ g.places, ∀ d ∈ (s.core p.core).demands, d.on p = false) → s.owed = [] →
    ∃ u, exec (.preemptSave g.id) s = .next u ∧ (u.gang g.id).map (fun x => (x.places, x.image, x.preempt)) = some ([], some (g.places.map (s.imageOf g.id)), false) ∧
      ∀ t ∈ g.tids, (u.slot t).st = .empty) ∧
  (∀ (s : State) (g : Gang) (l : Launch) (m : CoreImage) (n : Nat) (k : BitVec 3) (x : Slot), s.gang g.id = some g → s.launch g.launch = some l → l.coop = false →
    g.image = some [m] → s.plat.sleeping = false → s.plat.power = .run → s.plat.boot = 6 → s.failing g.ctx = false → s.opens g = true → s.yields l = false → s.seatGang l g [m] = some [(m, n)] → m.slots = [(k.toNat, x)] →
    ∃ u, exec (.gangResume g.id) s = .next u ∧
      (u.gang g.id).map (fun y => (y.places, y.image)) = some ([{ core := n, base := m.base, regions := m.regions, slots := [k] }], none) ∧
      (u.slot ⟨n, k⟩).pc = x.pc ∧ (u.slot ⟨n, k⟩).regs = x.regs ∧ (u.slot ⟨n, k⟩).st = x.st ∧
      ((u.slot ⟨n, k⟩).cont.map (fun c => { c with count := 0 })) = x.cont.map (fun c => { c with count := 0 }) ∧
      (u.slot ⟨n, k⟩).cr = { x.cr with pbudget := BitVec.ofNat 32 l.desc[3].toNat })

/-- 07 R100; 03 R58 to R61; 14 R222; 30 R404: background spills, power gating, the release of a barrier round.
Where it rests on a choice of the model and not on the spec's words, the choice is that of log entry 31. -/
def Obligations.core_event_results : Prop :=
  (∀ (s : State) (t : Tid), s.calm = true → (s.slot t).regs.frame = .normal → 2 ≤ (s.slot t).regs.older → (s.slot t).cr.wsp.toNat + 1 ≤ (s.slot t).cr.wsl.toNat →
    (s.slot t).st ≠ .empty → (s.slot t).await ≠ .window → s.allocated t.core (128 * (s.slot t).cr.wsp.toNat) (s.ctxOf t.core) = true →
    let x := s.slot t
    let g := (x.regs.cur.toNat + 4 - x.regs.older % 4) % 4
    ∃ u, exec (.backgroundSpill t.core t.slot) s = .next u ∧ (u.slot t).cr = { x.cr with wsp := x.cr.wsp + 1 } ∧ (u.slot t).regs = { x.regs with older := x.regs.older - 1 } ∧
      (∀ k, k < 16 → Memory.readN u.mem (lsHome t.core (128 * x.cr.wsp.toNat + 8 * k)) 8 = ((x.regs.ring[16 * g + k]?).getD 0).toNat) ∧
      (∀ a, a < lsHome t.core (128 * x.cr.wsp.toNat) ∨ lsHome t.core (128 * x.cr.wsp.toNat) + 128 ≤ a → Memory.byte u.mem a = Memory.byte s.mem a) ∧
      (u.slot t).pc = x.pc ∧ u.tags = s.tags) ∧
  (∀ (s : State) (n : Nat),
    let c := s.core n
    (c.gated = false → c.gdly ≠ 0 → c.gdly.toNat ≤ c.idle →
      ∃ u, exec (.gateCommit n) s = .next u ∧ (u.core n).gated = true ∧ (u.core n).icache = [] ∧ (u.core n).slots = c.slots ∧ u.mem = s.mem ∧ u.tags = s.tags) ∧
    (c.gated = false → c.gdly = 0 → exec (.gateCommit n) s = .next s) ∧
    (c.gated = true → c.ungating = false →
      ∃ u, exec (.ungateStart n) s = .next u ∧ (u.core n).ungating = true ∧ u.todo.contains (.ungateComplete n) = true ∧ u.mem = s.mem) ∧
    (c.ungating = true →
      ∃ u, exec (.ungateComplete n) s = .next u ∧ (u.core n).gated = false ∧ (u.core n).slots = c.slots ∧ u.mem = s.mem ∧
        ∀ k : BitVec 3, (c.slot k).st = .ready → (c.slot k).cont ≠ none → u.urgent.contains ⟨n, k⟩ = true)) ∧
  (∀ (s : State) (sc : BitVec 3) (key : Nat) (c : Chan), s.chans[key]? = some c → c.sc = sc → c.sent = false →
    (∀ t ∈ s.participants c, (s.slot t).ab[sc.toNat]?.getD none = some c.round) → (∀ x ∈ s.savedParts c, x.ab[sc.toNat]?.getD none = some c.round) →
    (sc ≠ 5 → s.participants c ≠ [] →
      ∃ u, exec (.barrierRoundRelease sc key) s = .next u ∧ (u.chans[key]?).map (·.round) = some (c.round + 1) ∧ u.mem = s.mem ∧
        ∀ t ∈ s.participants c, (s.slot t).st = .parked → (s.slot t).await = .barrier sc → (u.slot t).st = .ready ∧ (u.slot t).cont = (s.slot t).cont) ∧
    (sc = 5 → s.podRoot c.group ≠ s.plat.self → s.launch c.owner ≠ none → s.plat.linksFailed = 0 →
      ∃ u m, exec (.barrierRoundRelease sc key) s = .next u ∧ (u.chans[key]?).map (·.sent) = some true ∧ u.sent = s.sent ++ [m] ∧ m.ty = 0x09 ∧ m.src = s.plat.self ∧
        m.dst = s.podRoot c.group ∧ u.mem = s.mem))

/-! ### Events of the dispatcher and of the debug blocks -/

/-- 21 R309, R310, R314, R316, R318: stores to a queue record, dependences, and the selection and check of a packet.
Where it rests on a choice of the model and not on the spec's words, the choice is that of log entries 12 and 46. -/
def Obligations.queue_event_results : Prop :=
  (∀ (s : State) (q : BitVec 13) (v : BitVec 32),
    let n := q.toNat
    let x := s.queue n
    let y := { x with w := x.w.set 2 (v.setWidth 64) }
    (x.en = false → exec (.queueWriteStore q v) s = .next (s.setQueue n y)) ∧
    (∀ e : BitVec 8, x.en = true → (x.malformed = true ∧ e = 2 ∨ x.malformed = false ∧ 2 ^ x.rsize < (v - x.read).toNat ∧ e = 1) →
      ∃ u, exec (.queueWriteStore q v) s = .next u ∧ (u.queue n).en = false ∧ (u.queue n).w[4].extractLsb' 8 8 = e ∧ (u.queue n).write = v ∧ (u.queue n).read = x.read ∧
        u.mem = s.mem ∧ u.launches = s.launches) ∧
    (∃ u, exec (.queueWriteStore q v) s = .next u ∧ (u.queue n).write = v ∧ (u.queue n).read = x.read ∧ ∀ m, m ≠ n → u.queue m = s.queue m)) ∧
  (∀ (s : State) (q : BitVec 13) (v : BitVec 3),
    ∃ u, exec (.prioStore q v) s = .next u ∧ (u.queue q.toNat).prio = v ∧ (u.queue q.toNat).eprio = v.toNat ∧ (u.queue q.toNat).age = 0 ∧
      (u.queue q.toNat).rsize = (s.queue q.toNat).rsize ∧ (u.queue q.toNat).en = (s.queue q.toNat).en ∧ (u.queue q.toNat).ctx = (s.queue q.toNat).ctx ∧
      u.mem = s.mem ∧ u.launches = s.launches) ∧
  (∀ (s : State) (n : Nat) (q : Queue) (h d : Nat), s.oneQueue n q h → q.head = .depwait → q.due ≤ s.dispCount.toNat →
    let p := s.wordVec h 16
    p[7] ≠ 0 → s.unitSees (.queue n) q.ctx p[7] 8 .load d →
    let v := Memory.readN s.mem d 8
    let met := if p[9].getLsbD 0 then v ≤ p[8].toNat else v = p[8].toNat
    (met → ∃ u, exec .dependenceReread s = .next u ∧ (u.queue n).head = .eligible ∧ u.todo.contains .packetSelection = true ∧ u.mem = s.mem) ∧
    (¬ met → ∃ u, exec .dependenceReread s = .next u ∧ (u.queue n).head = .depwait ∧ (u.queue n).due = s.dispCount.toNat + 1024 ∧ u.mem = s.mem)) ∧
  (∀ (s : State) (n : Nat) (q : Queue) (h : Nat), s.oneQueue n q h → q.head = .eligible →
    let p := s.wordVec h 16
    ∃ u l, exec .packetSelection s = .next u ∧ u.launches = [l] ∧ l.queue = n ∧ l.index = q.read.toNat ∧ l.ctx = q.ctx ∧ l.prio = q.eprio ∧ l.packet = p ∧
      (u.queue n).eprio = q.prio.toNat ∧ (u.queue n).age = 0 ∧
      ((packetBad p = true ∨ q.depFailed = true) → l.state = .ended ∧ l.code = 1 ∧ (u.queue n).read = q.read + 1) ∧
      (packetBad p = false → q.depFailed = false → p[0].toNat % 256 = 0 → l.state = .ended ∧ l.code = 0 ∧ (u.queue n).read = q.read + 1) ∧
      (∀ d, packetBad p = false → q.depFailed = false → p[0].toNat % 256 = 1 → p[1].toNat % 64 = 0 → s.unitSeesAll (.launch s.seq) q.ctx p[1] 8 8 .load d →
        l.desc = s.wordVec d 8 ∧
        (s.checkCode l true = none → l.state = .placing ∧ (u.queue n).read = q.read ∧ u.todo.contains .gangPlacement = true ∧
          { unit := 8192, at_ := s.dispCount.toNat + 65536, ev := Event.placementWaitExpiry l.id } ∈ u.timers) ∧
        (∀ c, s.checkCode l true = some c → l.state = .ended ∧ l.code = c ∧ (u.queue n).read = q.read + 1)))

/-- 21 R317, R319 to R321; 03 R36 to R44; R315: placement and what a thread starts with, requests for pre-emption, the wait for room, and the end of a launch.
Where it rests on a choice of the model and not on the spec's words, the choice is that of log entries 5, 12, 73, 78 and 81. -/
def Obligations.launch_event_results : Prop :=
  (∀ (s : State) (l : Launch) (p : GangCore) (k : BitVec 3), s.plat.sleeping = false → s.launches = [l] → l.state = .placing → l.noticed = false → l.code ≠ 6 → s.gangs = [] →
    s.plat.power = .run → s.plat.boot = 6 → s.failing l.ctx = false →
    l.gmodeP = false → l.total = l.nextGang + 1 → s.fit l = some [p] → p.slots = [k] →
    (s.queue l.queue).read + 1 = (s.queue l.queue).write →
    ∃ u g, exec .gangPlacement s = .next u ∧ u.gangs = [g] ∧ g.places = [p] ∧ g.launch = l.id ∧ g.linear = l.nextGang ∧ g.runs ∧ (u.launch l.id).map (·.state) = some .running ∧
      (let y := u.slot ⟨p.core, k⟩
       y.st = .ready ∧ y.gang = g.id ∧ y.pc = l.desc[0] &&& ~~~1 ∧ y.mode = false ∧ y.regs.common[0] = BitVec.ofNat 64 (4096 * p.base + l.stack) ∧
       y.regs.common[1] = (if l.packet[3] = 0 then l.desc[4] else l.packet[3]) ∧ (∀ j (h : j < 64), y.regs.ring[j] = 0) ∧ (∀ j (h : j < 32), y.regs.vec[j] = 0) ∧
       y.cr.tid = 0 ∧ y.cr.core = 0 ∧ y.cr.ncore = BitVec.ofNat 64 l.cores ∧ y.cr.tvec = l.desc[1].extractLsb' 6 58 ∧ y.cr.pbudget = l.desc[3].extractLsb' 0 32 ∧
       y.cr.gid.extractLsb' 0 21 = BitVec.ofNat 21 (l.nextGang % l.dim 0) ∧ y.cr.wsp = y.cr.wsb ∧ y.cr.wsb = BitVec.ofNat 11 ((4096 * p.base + l.thr * l.stack) / 128) ∧
       y.cr.wsl = y.cr.wsb + BitVec.ofNat 11 (l.wssize / 128) ∧ y.blanks = [] ∧ y.outs = [] ∧ y.deque = []) ∧
      (∀ a, a < 4096 * p.regions → Memory.byte u.mem (lsHome p.core (4096 * p.base) + a) = 0 ∧ u.tag (lsHome p.core (4096 * p.base) + a) = 0) ∧
      (∀ r, r < p.regions → SMap.find (u.core p.core).alloc (p.base + r) = some g.id) ∧ (u.core p.core).ctx = some l.ctx) ∧
  (∀ (s : State) (q : BitVec 13) (g : Gang) (l : Launch), g ∈ s.gangs → s.gang g.id = some g → g.runs → s.launch g.launch = some l → l ∈ s.launches → l.id = g.launch → l.queue = q.toNat →
    (l.notices = false → ∃ u, exec (.preemptRequest q) s = .next u ∧ u.saving g) ∧
    (l.notices = true → s.handlerless g = false →
      ∃ u, exec (.preemptRequest q) s = .next u ∧
        ∀ t ∈ g.tids, (s.slot t).gang = g.id → (s.slot t).st ≠ .empty → (s.slot t).notice = 0 →
          (u.slot t).notice = 1 ∧ u.todo.contains (.preemptNotice t.core t.slot) = true)) ∧
  (∀ (s : State) (l : Launch), s.launch l.id = some l → l.state = .placing → l.coop = false →
    (s.dispCount.toNat < l.since + 65536 → exec (.placementWaitExpiry l.id) s = .next s) ∧
    (l.since + 65536 ≤ s.dispCount.toNat → (s.fit l).isSome = true → ∃ u, exec (.placementWaitExpiry l.id) s = .next u ∧ u.todo.contains .gangPlacement = true ∧ u.gangs = s.gangs) ∧
    (∀ g x, l.since + 65536 ≤ s.dispCount.toNat → s.fit l = none → s.gangs = [g] → s.launch g.launch = some x → x.notices = false → x.prio + 1 < l.prio → g.runs →
      (∃ p ∈ g.places, dieOf p.core ∈ s.permitted l) → (∀ t ∈ g.tids, (s.slot t).notice = 0) →
      ∃ u, exec (.placementWaitExpiry l.id) s = .next u ∧ u.saving g)) ∧
  (∀ (s : State) (l : Launch), s.launch l.id = some l → s.gangs.all (fun g => g.launch != l.id) = true →
    (l.state = .running → l.advanced = true → l.code = 0 → l.noticed = false →
      ∃ u, exec (.launchCompletion l.id) s = .next u ∧ (u.launch l.id).map (fun x => (x.state, x.code)) = some (.ended, 0) ∧
        u.todo.contains (.launchCompletion l.id) = true ∧ u.mem = s.mem) ∧
    (∀ h, l.state = .ended → l.written = false → l.nbv = none → l.packet[5] = 0 → s.replays = [] → (s.queue l.queue).read = (s.queue l.queue).write →
      s.unitSees (.launch l.id) l.ctx ((s.queue l.queue).packetAt l.index + 80) 8 .store h →
      ∃ u, exec (.launchCompletion l.id) s = .next u ∧ u.launch l.id = none ∧
        u.mem = Memory.writeN s.mem h ((l.code % 256) + 256 * (l.reason % 256) + 2 ^ 32 * (l.gangNo % 2 ^ 32)) 255 8))

/-- 26 R360 to R369, R374, R375; 24 R344: watchpoint registers, slot windows, stops, resumes, single steps and dumps.
Where it rests on a choice of the model and not on the spec's words, the choice is that of log entries 16, 23, 48 and 58. -/
def Obligations.debug_event_results : Prop :=
  (∀ (s : State) (n : Nat) (k : BitVec 2) (v : Word), s.reachable n = true →
    let ok := v.extractLsb' 16 2 ≠ 3 ∧ (v.extractLsb' 13 3).toNat ≤ 5 ∧ (v.extractLsb' 18 6).toNat ≤ 32 ∧ (v.extractLsb' 16 2 = 2 → v.extractLsb' 27 5 = 0)
    (ok → ∃ u, exec (.wpctlWrite n k v) s = .next u ∧ u.mem = s.mem ∧ (u.core n).slots = (s.core n).slots ∧ (u.dbg n).wpaddr = (s.dbg n).wpaddr ∧
      ∀ j (h : j < 4), (u.dbg n).wpctl[j] = if j = k.toNat then v &&& 0xFFFFF000 else (s.dbg n).wpctl[j]) ∧
    (¬ ok → exec (.wpctlWrite n k v) s = .next s)) ∧
  (∀ (s : State) (t : Tid) (off : BitVec 12) (v : Word), s.reachable t.core = true →
    ((s.slot t).st ≠ .stopped ∨ off.toNat % 8 ≠ 0 → exec (.slotWindowWrite t.core t.slot off v) s = .next s) ∧
    ((s.slot t).st = .stopped →
      (off = 0 → ∃ u, exec (.slotWindowWrite t.core t.slot off v) s = .next u ∧ u.slot t = { s.slot t with pc := v &&& ~~~1, src := 0 } ∧ u.mem = s.mem) ∧
      (∀ j (h : j < 64), off.toNat = 8 * (16 + j) →
        ∃ u, exec (.slotWindowWrite t.core t.slot off v) s = .next u ∧ (u.slot t).regs = { (s.slot t).regs with ring := (s.slot t).regs.ring.set j v } ∧
          (u.slot t).pc = (s.slot t).pc ∧ u.mem = s.mem) ∧
      (∀ r e (h : r < 32), e < 8 → off.toNat = 8 * (256 + 8 * r + e) →
        ∃ u, exec (.slotWindowWrite t.core t.slot off v) s = .next u ∧ u.mem = s.mem ∧ (u.slot t).pc = (s.slot t).pc ∧ elemOf 64 (u.slot t).regs.vec[r] e = v.toNat ∧
          ∀ q f (h2 : q < 32), f < 8 → (q, f) ≠ (r, e) → elemOf 64 (u.slot t).regs.vec[q] f = elemOf 64 (s.slot t).regs.vec[q] f))) ∧
  (∀ (s : State) (n : Nat), s.reachable n = true →
    ((∀ g ∈ s.gangs, ∀ p ∈ g.places, p.core ≠ n) → ∃ u, exec (.stopCmd n) s = .next u ∧ (u.dbg n).err = true ∧ u.stops = s.stops ∧ u.mem = s.mem) ∧
    (∀ g p q, g ∈ s.gangs → p ∈ g.places → p.core = n → g.ctx = s.ctxOf n → q ∈ g.places → (s.dbg q.core).stopped = false →
      ∃ u, exec (.stopCmd n) s = .next u ∧ (u.dbg n).err = false ∧ u.mem = s.mem ∧ (u.dbg q.core).stopped = true ∧
        ∃ m ∈ u.stops, m.core = q.core ∧ m.ctx = g.ctx ∧ m.addr = 0 ∧ m.cnt = (s.core n).cyc ∧ m.src.getLsbD 0 = true ∧ m.src.getLsbD 1 = true ∧
          m.src.extractLsb' 36 12 = BitVec.ofNat 12 n ∧ (∃ gs, m.gangs = some gs ∧ g.id ∈ gs) ∧
          { unit := q.core, at_ := m.at_, ev := Event.stopTakesEffect q.core } ∈ u.timers)) ∧
  (∀ (s : State) (n : Nat) (m : StopMsg), s.stops = [m] → m.core = n → m.at_ ≤ (s.core n).cyc.toNat → (s.core n).ctx = some m.ctx →
    ∃ u, exec (.stopTakesEffect n) s = .next u ∧ u.stops = [] ∧ (u.dbg n).stopSrc = m.src ∧ (u.dbg n).stopAddr = m.addr ∧ (u.dbg n).stopCnt = m.cnt ∧
      ∀ k : BitVec 3,
        let x := s.slot ⟨n, k⟩
        let y := u.slot ⟨n, k⟩
        let in_ := (x.st = .ready ∨ x.st = .parked) ∧ (∀ gs, m.gangs = some gs → x.gang ∈ gs)
        y.pc = x.pc ∧ y.regs = x.regs ∧ y.cont = x.cont ∧ y.await = x.await ∧ (in_ → y.st = .stopped ∧ y.heldSt = x.st) ∧ (¬ in_ → y.st = x.st)) ∧
  (∀ (s : State) (n : Nat), s.reachable n = true →
    ((s.dbg n).stopSrc.getLsbD 0 = false → ∃ u, exec (.resumeCmd n) s = .next u ∧ (u.dbg n).err = true ∧ u.resumes = s.resumes ∧ u.mem = s.mem) ∧
    (∀ c, (s.dbg n).stopSrc.getLsbD 0 = true → (n, c) ∈ s.cores → s.core n = c →
      ∃ u, exec (.resumeCmd n) s = .next u ∧ (u.dbg n).err = false ∧ u.mem = s.mem ∧
        ∃ m ∈ u.resumes, m.core = n ∧ m.at_ = (s.core n).cyc.toNat + 8 ∧ { unit := n, at_ := m.at_, ev := Event.resumeTakesEffect n } ∈ u.timers)) ∧
  (∀ (s : State) (n : Nat) (m : StopMsg), s.resumes = [m] → m.core = n → m.at_ ≤ (s.core n).cyc.toNat →
    ∃ u, exec (.resumeTakesEffect n) s = .next u ∧ u.resumes = [] ∧ (u.dbg n).stopped = false ∧ (u.dbg n).stopSrc = (s.dbg n).stopSrc ∧ u.mem = s.mem ∧
      ∀ k : BitVec 3,
        let x := s.slot ⟨n, k⟩
        let y := u.slot ⟨n, k⟩
        y.pc = x.pc ∧ y.regs = x.regs ∧ (x.st = .stopped → y.st = if x.heldSt = .parked then .parked else .ready) ∧ (x.st ≠ .stopped → y = x)) ∧
  (∀ (s : State) (t : Tid), s.reachable t.core = true →
    let ok := (s.slot t).st = .stopped ∧ (s.slot t).heldSt ≠ .parked ∧ (s.dbg t.core).stepping = none
    (ok → ∃ u, exec (.stepCmd t.core t.slot) s = .next u ∧ (u.dbg t.core).stepping = some t.slot ∧ (u.dbg t.core).err = false ∧ u.slot t = s.slot t ∧ u.mem = s.mem) ∧
    (¬ ok → ∃ u, exec (.stepCmd t.core t.slot) s = .next u ∧ (u.dbg t.core).err = true ∧ (u.dbg t.core).stepping = (s.dbg t.core).stepping ∧ u.slot t = s.slot t ∧ u.mem = s.mem)) ∧
  (∀ (s : State) (g : Gang) (l : Launch) (i : TrapInfo) (t : Tid) (epc : Word) (h : Nat), s.dumps = [DumpJob.new g.id] → s.gang g.id = some g → g.fatal = some (i, t, epc) →
    s.launch g.launch = some l → l.state = .running → l.code = 0 →
    (∀ p ∈ g.places, (s.core p.core).grid = none ∧ (s.core p.core).copies = [] ∧ (s.core p.core).demands = [] ∧ ∀ k, (s.slot ⟨p.core, k⟩).blanks = []) → s.dumpAwaits g = false →
    (∀ f, s.fnOf g.ctx = some f → (s.fn f).dbase = 0) →
    let base := (s.dumpArea g.ctx).1
    let bytes := s.dumpBytes g s.dumpCount (fitSections ((s.dumpArea g.ctx).2 - s.dumpBeyond g.ctx) (s.dumpTables g [] ++ s.dumpRest g))
    let w := if base.toNat % 64 = 0 then 64 else 1
    s.unitSeesAll .dump g.ctx base w ((bytes.length + w - 1) / w) .store h →
    ∃ u, exec .dumpGang s = .next u ∧ u.gang g.id = none ∧ u.dumps = [] ∧ (∀ k (hk : k < bytes.length), Memory.byte u.mem (h + k) = bytes[k]) ∧
      (u.launch g.launch).map (fun x => (x.code, x.gangNo, x.reason)) = some (6, g.linear, reasonOf i.cls))

/-! ### Reward join units (22) -/

/-- 22 R327, R335, R337: EPREG, RLVER and RJQRY are sent to their unit and wait for its reply, which goes to sD; RPOST completes when the unit has its message; what the unit does with the instruction.
Where it rests on a choice of the model and not on the spec's words, the choice is that of log entry 43. -/
def Obligations.reward_instruction_results : Prop :=
  (∀ (s : State) (d b c : SReg) (g : BitVec 4), s.me.cont = none → s.me.outs = [] → s.me.lates = [] →
    let unit (v : Nat) (t : State) (i : UnitInstr) : Prop := (t.join v).instrs = (s.join v).instrs ++ [i]
    (s.portsOpen [b] [d] [] [] = true →
      (∃ t, exec (.rjqry d b g) s = .next t ∧ Waits s t .unit ∧ unit (g.toNat % 2) t (.rjqry s.cur s.myCtx g (s.rs b))) ∧
      ((s.rs b).toNat % 64 ≠ 0 → exec (.epreg d b) s = .next (s.precise (trapOf 5 0 (s.rs b)))) ∧
      ((s.rs b).toNat % 64 = 0 → isTranslated (s.rs b) = false → exec (.epreg d b) s = .next (s.precise (trapOf 6 0 (s.rs b)))) ∧
      (∀ h, (s.rs b).toNat % 64 = 0 → isTranslated (s.rs b) = true → s.translate s.cur.core s.myCtx (s.rs b) .load = .home h → s.keyOk s.cur.core s.myCtx = true → homeKind h = 0 →
        homeIsLs h = false → s.mcOk s.myCtx = true → s.badLines = [] → s.poison = [] → s.lineKeys = [] →
        ∃ t, exec (.epreg d b) s = .next t ∧ Waits s t .unit ∧
          ∃ desc : Vector Word 8, (∀ k (hk : k < 8), desc[k].toNat = (Memory.line s.mem h).toNat / 2 ^ (64 * k) % 2 ^ 64) ∧
            unit (desc[6].toNat / 2 ^ 48 % 2) t (.epreg s.cur s.myCtx desc))) ∧
    (s.portsOpen [b, c] [d] [] [] = true →
      ∃ t, exec (.rlver d b c g) s = .next t ∧ Waits s t .unit ∧ unit (g.toNat % 2) t (.rlver s.cur s.myCtx g (s.rs b) (s.rs c)))) ∧
  (∀ (s : State) (d b c : SReg) (g : BitVec 4) (k : Cont) (v : Word), s.me.cont = some k → k.step = 2 → k.acc = [v.setWidth 512] →
    (s.portsOpen [b] [d] [] [] = true → exec (.epreg d b) s = .next (s.setS [b] d v) ∧ exec (.rjqry d b g) s = .next (s.setS [b] d v)) ∧
    (s.portsOpen [b, c] [d] [] [] = true → exec (.rlver d b c g) s = .next (s.setS [b, c] d v))) ∧
  (∀ (s : State) (k h : SReg) (r : VReg), s.portsOpen [k, h] [] [r] [] = true → s.me.cont = none → s.me.outs = [] →
    let m : RewardMsg := { ctx := s.myCtx, key := s.rs k, hdr := s.rs h, data := s.rv r }
    let v := (s.rs h).toNat / 2 ^ 48 % 2
    ((s.join v).inq.length < 256 →
      ∃ t, exec (.rpost k h r) s = .next t ∧ t.me.pc = s.npc ∧ t.me.regs = s.me.regs ∧ t.mem = s.mem ∧ t.tags = s.tags ∧ (t.join v).inq = (s.join v).inq ++ [m]) ∧
    (256 ≤ (s.join v).inq.length → ∃ t, exec (.rpost k h r) s = .next t ∧ Waits s t .unit ∧ (t.join v).inq = (s.join v).inq)) ∧
  (∀ (s : State) (u : BitVec 1) (t : Tid) (c : Cont) (ctx : BitVec 8) (is : List UnitInstr), s.asks t c →
    (∀ g key, s.handles u (.rjqry t ctx g key) is →
      ∃ w, exec (.unitInstructionHandling u) s = .next w ∧ (w.join u.toNat).instrs = is ∧ w.mem = s.mem ∧
        (((s.join u.toNat).lookup ctx g key).isNone = true → w.repliedTo t c 0) ∧
        (∀ k e, (s.join u.toNat).lookup ctx g key = some (k, e) → ∃ v : Word, w.repliedTo t c v ∧ v.extractLsb' 32 32 = e.desc[1].extractLsb' 32 32 ∧ v.extractLsb' 24 8 = e.dup ∧
          v.extractLsb' 16 7 = BitVec.ofNat 7 e.arrived ∧ v.extractLsb' 8 8 = 0 ∧ v.extractLsb' 4 4 = BitVec.ofNat 4 e.out ∧ v.getLsbD 3 = e.tout ∧ v.extractLsb' 0 3 = BitVec.ofNat 3 e.state)) ∧
    (∀ d, s.handles u (.epreg t ctx d) is →
      let g : BitVec 4 := d[6].extractLsb' 48 4
      let st (v : Word) : Prop := ∃ w, exec (.unitInstructionHandling u) s = .next w ∧ w.repliedTo t c v ∧ (v ≠ 0 → (w.join u.toNat).entries = (s.join u.toNat).entries)
      (descOk d = false → st 4) ∧
      (descOk d = true → (s.join u.toNat).binding ctx g = none → st 3) ∧
      (∀ b, descOk d = true → (s.join u.toNat).binding ctx g = some b →
        (∀ k e, (s.join u.toNat).lookup ctx g d[0] = some (k, e) → e.state ≠ 6 → st 1) ∧
        ((s.join u.toNat).lookup ctx g d[0] = none → 32768 ≤ (s.join u.toNat).entries.length → (∀ p ∈ (s.join u.toNat).entries, p.2.state ≠ 6) → st 2) ∧
        (((s.join u.toNat).lookup ctx g d[0] = none ∧ (s.join u.toNat).entries.length < 32768 ∨ ∃ k e, (s.join u.toNat).lookup ctx g d[0] = some (k, e) ∧ e.state = 6) →
          ∃ w k e, exec (.unitInstructionHandling u) s = .next w ∧ w.repliedTo t c 0 ∧ SMap.find (w.join u.toNat).entries k = some e ∧ e.ctx = ctx ∧ e.group = g ∧ e.key = d[0] ∧
            e.desc = d ∧ e.state = 1 ∧ e.parts = 0 ∧ e.dup = 0 ∧ e.tout = false ∧ e.reg = (s.join u.toNat).count ∧ w.todo.contains (.zeroFillDone u k) = true))) ∧
    (∀ g v, s.handles u (.rlver t ctx g v 0) is →
      ((s.join u.toNat).binding ctx g = none → ∃ w, exec (.unitInstructionHandling u) s = .next w ∧ w.repliedTo t c 3) ∧
      (∀ b x, (s.join u.toNat).binding ctx g = some (b, x) →
        ∃ w, exec (.unitInstructionHandling u) s = .next w ∧ w.repliedTo t c 0 ∧ SMap.find (w.join u.toNat).groups b = some { x with version := BitVec.ofNat 32 v.toNat })))

/-- 22 R327, R329 to R333: the handling of a message, the recording of a part (a second copy that is still under way keeps no completion back), zero-fill, deadlines, the scan, and the release of
an episode in a cycle after that of its completion.
Where it rests on a choice of the model and not on the spec's words, the choice is that of log entry 43. -/
def Obligations.reward_unit_results : Prop :=
  (∀ (s : State) (u : BitVec 1) (k : Nat) (e : Entry) (b : Nat) (g : Group) (m : RewardMsg) (ms : List RewardMsg), (s.join u.toNat).inq = m :: ms → (s.join u.toNat).phase ≤ 1 →
    (s.join u.toNat).instrs = [] → (s.join u.toNat).stalled = false → s.hasEntry u k e b g → e.stalled = false → (s.join u.toNat).lookup m.ctx (m.hdr.extractLsb' 48 4) m.key = some (k, e) →
    m.ctx = e.ctx → m.hdr.extractLsb' 48 4 = e.group → m.hdr &&& 0x03F0E000FFE0FFFF = 0 → m.hdr.toNat / 2 ^ 16 % 32 < 16 →
    let part := m.hdr.toNat / 2 ^ 58
    let start := m.hdr.toNat / 2 ^ 32 % 2 ^ 13
    let nm1 := m.hdr.toNat / 2 ^ 16 % 32
    (e.state ≠ 1 → e.state ≠ 6 → e.parts.getLsbD part = true →
      ∃ w, exec (.rewardMessageHandling u) s = .next w ∧ (w.join u.toNat).inq = ms ∧ w.entryIs u k (· = { e with dup := if e.dup = 255 then 255 else e.dup + 1 }) ∧ w.mem = s.mem) ∧
    (e.state = 2 → e.parts.getLsbD part = false → part < e.nparts → start + nm1 < e.steps →
      ∃ w, exec (.rewardMessageHandling u) s = .next w ∧ (w.join u.toNat).inq = ms ∧ w.entryIs u k (· = { e with pending := e.pending ++ [(m.hdr, m.data)] }) ∧
        w.todo.contains (.partRecorded u k) = true ∧ w.mem = s.mem) ∧
    (e.state = 1 → exec (.rewardMessageHandling u) s = .next s)) ∧
  (∀ (s : State) (u : BitVec 1) (k : Nat) (e : Entry) (h : Nat), SMap.find (s.join u.toNat).entries k = some e → e.state = 1 → e.stalled = false →
    s.unitSeesAll (.entry u.toNat k) e.ctx e.desc[2] 4 e.steps .store h →
    ∃ w, exec (.zeroFillDone u k) s = .next w ∧ w.entryIs u k (· = { e with state := 2, opened := (s.join u.toNat).count }) ∧ (∀ a, h ≤ a → a < h + 4 * e.steps → Memory.byte w.mem a = 0) ∧
      ∀ a, a < h ∨ h + 4 * e.steps ≤ a → Memory.byte w.mem a = Memory.byte s.mem a) ∧
  (∀ (s : State) (u : BitVec 1) (k : Nat) (e : Entry) (b : Nat) (g : Group) (hdr : Word) (data : Line) (ps : List (Word × Line)) (h : Nat), s.hasEntry u k e b g → e.state = 2 → e.stalled = false →
    e.pending = (hdr, data) :: ps → (s.join u.toNat).instrFirst = false →
    let n := hdr.toNat / 2 ^ 16 % 32 + 1
    let parts := e.parts ||| BitVec.ofNat 64 (2 ^ (hdr.toNat / 2 ^ 58))
    let all := ∀ j, j < e.nparts → parts.getLsbD j = true
    n ≤ 16 → s.unitSeesAll (.entry u.toNat k) e.ctx (e.desc[2] + BitVec.ofNat 64 (4 * (hdr.toNat / 2 ^ 32 % 2 ^ 13))) 4 n .store h →
    ∃ w, exec (.partRecorded u k) s = .next w ∧
      (¬ all → (∀ j, j < n → w.half (h + 4 * j) = data.toNat / 2 ^ (32 * j) % 2 ^ 32) ∧ w.entryIs u k (· = { e with parts := parts, pending := ps })) ∧
      (all → lagOf g e ≤ (g.sizes.extractLsb' 32 32).toNat →
        (∀ j, j < n → w.half (h + 4 * j) = data.toNat / 2 ^ (32 * j) % 2 ^ 32) ∧
        w.entryIs u k (fun x => x.state = 4 ∧ x.parts = parts ∧ x.tout = false ∧ x.done = (s.join u.toNat).count ∧ x.pending = ps) ∧
        (if ps = [] then w.todo.contains (.fullerScanDone u k) = true else w.todo.contains (.partRecorded u k) = true)) ∧
      (all → (g.sizes.extractLsb' 32 32).toNat < lagOf g e →
        w.entryIs u k (fun x => x.state = 6 ∧ x.out = 3) ∧
        ∀ r q, s.ringSees u.toNat b g .stale r q → w.ringHas r q e.key 1 (g.swrite + 1).toNat)) ∧
  (∀ (s : State) (u : BitVec 1) (k : Nat) (e : Entry) (b : Nat) (g : Group), (s.join u.toNat).entries = [(k, e)] → s.hasEntry u k e b g → (s.join u.toNat).instrs = [] →
    (s.join u.toNat).inq = [] → (s.join u.toNat).phase ≤ 2 → e.stalled = false → e.pending = [] → e.deadline ≠ 0 →
    let now := (s.join u.toNat).count.toNat
    ((e.state ≠ 2 ∨ now < e.reg.toNat + e.deadline ∨ now ≤ e.opened.toNat) → exec (.deadline u) s = .next s) ∧
    (e.state = 2 → e.reg.toNat + e.deadline ≤ now → e.opened.toNat < now → ∃ w, exec (.deadline u) s = .next w ∧
      (e.desc[6].getLsbD 1 = false → lagOf g e ≤ (g.sizes.extractLsb' 32 32).toNat → w.mem = s.mem ∧ w.entryIs u k (fun x => x.state = 4 ∧ x.tout = true ∧ x.parts = e.parts)) ∧
      (e.desc[6].getLsbD 1 = true → w.entryIs u k (fun x => x.state = 6 ∧ x.out = 2) ∧ ∀ r q, s.ringSees u.toNat b g .stale r q → w.ringHas r q e.key 2 (g.swrite + 1).toNat))) ∧
  (∀ (s : State) (u : BitVec 1) (k : Nat) (e : Entry) (hr hv ho : Nat), SMap.find (s.join u.toNat).entries k = some e → e.state = 4 → e.stalled = false → e.pending = [] →
    let n := e.steps
    let term := e.desc[6].getLsbD 0
    s.unitSeesAll (.entry u.toNat k) e.ctx e.desc[2] 4 n .load hr → s.unitSeesAll (.entry u.toNat k) e.ctx e.desc[3] 4 (if term then n else n + 1) .load hv →
    s.unitSeesAll (.entry u.toNat k) e.ctx e.desc[4] 4 (2 * n) .store ho →
    let gamma := e.desc[5].toNat % 2 ^ 32
    let gl := f32Mul gamma (e.desc[5].toNat / 2 ^ 32)
    let v (t : Nat) : Nat := s.half (hv + 4 * t)
    ∃ (w : State) (a : Nat → Nat), exec (.fullerScanDone u k) s = .next w ∧ w.entryIs u k (· = { e with state := 5 }) ∧ a n = 0 ∧
      (∀ t, t < n → a t = f32Fma gl (a (t + 1)) (f32Sub (f32Fma gamma (if t + 1 = n ∧ term = true then 0 else v (t + 1)) (s.half (hr + 4 * t))) (v t))) ∧
      (∀ t, t < n → w.half (ho + 4 * t) = a t % 2 ^ 32 ∧ w.half (ho + 4 * n + 4 * t) = f32Add (a t) (v t) % 2 ^ 32)) ∧
  (∀ (s : State) (u : BitVec 1) (k : Nat) (e : Entry) (b : Nat) (g : Group) (hl : Nat), SMap.find (s.join u.toNat).entries k = some e → e.state = 5 → e.grec = some b →
    SMap.find (s.join u.toNat).groups b = some g → g.full = false → e.written = false → e.stalled = false → e.done.toNat < (s.join u.toNat).count.toNat → (∀ p ∈ (s.join u.toNat).entries, p.1 ≠ k → p.2.before e = false) →
    g.ctx = e.ctx → s.unitSees (.entry u.toNat k) e.ctx (g.addr + 20) 4 .load hl →
    let room := (g.lwrite - BitVec.ofNat 32 (s.half hl)).toNat ≠ 2 ^ (g.sizes.extractLsb' 0 5).toNat
    (∀ r q h, room → s.unitSees (.entry u.toNat k) e.ctx (g.ringAt .learner) 32 .store r → s.unitSees (.entry u.toNat k) e.ctx (g.addr + 16) 4 .store q →
      s.unitSees (.entry u.toNat k) e.ctx g.sig 8 .atomic h →
      (q + 4 ≤ r ∨ r + 32 ≤ q) → (q + 4 ≤ h ∨ h + 8 ≤ q) → (h + 8 ≤ r ∨ r + 32 ≤ h) →
      ∃ w, exec (.episodeRelease u k) s = .next w ∧ w.entryIs u k (fun x => x.state = 6 ∧ x.out = 1 ∧ x.key = e.key) ∧ w.ringHas r q e.key 0 (g.lwrite + 1).toNat ∧
        Memory.word w.mem h = Memory.word s.mem h - g.sdec) ∧
    (¬ room → ∃ w, exec (.episodeRelease u k) s = .next w ∧ (SMap.find (w.join u.toNat).groups b).map (·.full) = some true ∧ w.entryIs u k (· = e) ∧ w.mem = s.mem ∧
      { unit := 8193 + u.toNat, at_ := (s.join u.toNat).count.toNat + 1024, ev := Event.lreadReread u b } ∈ w.timers) ∧
    exec (.lreadReread u b) s = .next s) ∧
  (∀ (s : State) (u : BitVec 1) (k : Nat) (e : Entry) (b : Nat) (g : Group), SMap.find (s.join u.toNat).groups b = some g → g.full = true →
    SMap.find (s.join u.toNat).entries k = some e → e.state = 5 → e.grec = some b → e.stalled = false → e.done.toNat < (s.join u.toNat).count.toNat →
    ∃ w, exec (.lreadReread u b) s = .next w ∧ SMap.find (w.join u.toNat).groups b = some { g with full := false } ∧ w.mem = s.mem ∧
      w.todo.contains (.episodeRelease u k) = true)

/-! ### Translation, host functions, fabric, service core, platform -/

/-- 24 R345 to R350, R352, R354, R358; 28 R382, R386; 30 R401: walks and their faults, a table line that cannot be read (above which a CALLT's window-stack trap stands: R338), the service of
a fault, and the invalidation of translations.
Where it rests on a choice of the model and not on the spec's words, the choice is that of log entries 22, 45 and 46. -/
def Obligations.translation_event_results : Prop :=
  (∀ (m : List Host.Cell) (va : Word) (t0 t1 t2 t3 : Nat),
    let e (t i : Nat) : Word := Memory.word m (physHome 0 (t + 8 * i))
    let i0 := va.toNat / 2 ^ 55 % 4
    let i1 := va.toNat / 2 ^ 42 % 2 ^ 13
    let i2 := va.toNat / 2 ^ 29 % 2 ^ 13
    let i3 := va.toNat / 2 ^ 16 % 2 ^ 13
    let w := walkFrom (fun _ => none) m va 4 0 t0
    ((e t0 i0).getLsbD 0 = false → w = .bad 0 false) ∧
    (pointsTo 0 (e t0 i0) t1 → pointsTo 1 (e t1 i1) t2 →
      ((e t2 i2).getLsbD 0 = true → (e t2 i2).getLsbD 1 = true → pteBad 2 (e t2 i2) = false → w = .leaf true (e t2 i2)) ∧
      (pointsTo 2 (e t2 i2) t3 → (e t3 i3).getLsbD 0 = true →
        ((e t3 i3).getLsbD 1 = true → pteBad 3 (e t3 i3) = false → w = .leaf false (e t3 i3)) ∧
        (pteBad 3 (e t3 i3) = true → w = .bad 3 true)))) ∧
  (∀ (s : State) (ctx : BitVec 8) (c : Context) (va : Word), SMap.find s.ssc.contexts ctx.toNat = some c →
    let h := physHome 0 (c.root.toNat + 8 * (va.toNat / 2 ^ 55 % 4))
    let g := s.granule (homePa h)
    (s.mcOk ctx = false → s.walk ctx va = .fails 16 3) ∧
    (s.mcOk ctx = true → (g.toNat % 256 ≠ (s.world ctx).toNat ∨ g.getLsbD 8 ≠ (s.world ctx != 0)) → s.walk ctx va = .fails 7 4) ∧
    (s.mcOk ctx = true → g.toNat % 256 = (s.world ctx).toNat → g.getLsbD 8 = (s.world ctx != 0) → s.tagFails ctx h = false → s.poison.contains (lineOfHome h) = true →
      s.walk ctx va = .fails 16 0)) ∧
  (∀ (s : State) (x : Walk) (t : Tid) (va : Word), s.walks.find? (fun y => y.seq == x.seq) = some x → x.agents = [.thread t] → (s.slot t).st = .parked → (s.slot t).await = .walk va →
    va.toNat / 2 ^ 16 = x.page → s.ctxOf t.core = x.ctx →
    (∀ big pte, s.walk x.ctx x.va = .leaf big pte →
      ∃ u, exec (.translationWalk x.seq) s = .next u ∧ Woken s u t ∧ (∀ y ∈ u.walks, y.seq ≠ x.seq) ∧ u.faults = s.faults ∧
        ∀ q ∈ x.quads, ∃ l ∈ SMap.getD u.tcaches q [], l.ctx = x.ctx ∧ l.big = big ∧ l.pte = pte ∧ l.page = (if big then x.va.toNat / 2 ^ 29 else x.page)) ∧
    (∀ level mal, s.walk x.ctx x.va = .bad level mal → x.page = x.va.toNat / 2 ^ 16 →
      ∃ u, exec (.translationWalk x.seq) s = .next u ∧ (u.slot t).st = .parked ∧ (u.slot t).await = .service va ∧ u.tcaches = s.tcaches ∧
        ∃ r ∈ u.faults, r.ctx = x.ctx ∧ r.page = x.page ∧ Agent.thread t ∈ r.agents) ∧
    (∀ c k, s.walk x.ctx x.va = .fails c k →
      let i := trapOf c k (if (s.slot t).cont = none then (s.slot t).pc else va)
      exec (.translationWalk x.seq) s = .next (({ s with walks := s.walks.filter (fun y => y.seq != x.seq) } : State).preciseOf t
        (if ((s.slot t).cont.map Cont.isCallt).getD false = true ∧ (s.slot t).spillBlocked = true ∧ 11 ≤ i.cls.toNat then windowTrap (s.slot t) 1 else i)))) ∧
  (∀ (s : State) (fn : BitVec 6) (idx : BitVec 32) (r : FaultRec) (t : Tid) (g : Gang) (va : Word) (h hs : Nat),
    s.faults.find? (fun y => y.fn == fn.toNat && y.index == some idx.toNat) = some r → r.agents = [.thread t] → (s.slot t).st = .parked → (s.slot t).await = .service va →
    va.toNat / 2 ^ 16 = r.page → s.ctxOf t.core = r.ctx → (s.fn fn.toNat).acks = [] →
    let c := s.ringCtx r.ctx
    let f := (s.fn fn.toNat).fctl
    let ag : Agent := .fack fn.toNat
    s.unitSees ag c f 8 .load h → s.unitSees ag c (f + 8) 8 .load (h + 8) → s.unitSees ag c (f + 24) 4 .store (h + 24) → (Memory.word s.mem (h + 8)).toNat < 32 →
    s.unitSees ag c (Memory.word s.mem h + BitVec.ofNat 64 (32 * (idx.toNat % 2 ^ (Memory.word s.mem (h + 8)).toNat)) + 24) 1 .load hs → (hs < h + 24 ∨ h + 28 ≤ hs) →
    let st := Memory.byte s.mem hs
    ∃ u, exec (.fackStore fn idx) s = .next u ∧ (∀ y ∈ u.faults, ¬ (y.ctx = r.ctx ∧ y.page = r.page)) ∧ (u.fn fn.toNat).facked = idx ∧
      (st = 1 → (u.slot t).st = .ready ∧ (u.slot t).cont = (s.slot t).cont) ∧
      (st ≠ 1 → s.gang (s.slot t).gang = some g → g.fatal = none → (u.gang g.id).map (·.fatal) =
        some (some (trapOf 8 r.code (if (s.slot t).cont = none then (s.slot t).pc else va), t, (s.slot t).pc)))) ∧
  (∀ (s : State) (fn : BitVec 6),
    let f := s.fn fn.toNat
    let all (m : SMap (List Leaf)) (p : Leaf → Prop) : Prop := ∀ e ∈ m, ∀ l ∈ e.2, p l
    (f.busy = true → f.cmd = 1 → ∃ u, exec (.invalidateTranslations fn) s = .next u ∧ (u.fn fn.toNat).busy = false ∧ all u.tcaches (fun l => l.ctx ≠ f.ctx) ∧ all u.iocaches (fun l => l.ctx ≠ f.ctx) ∧
      (∀ e ∈ s.tcaches, ∀ l ∈ e.2, l.ctx ≠ f.ctx → ∃ e' ∈ u.tcaches, e'.1 = e.1 ∧ l ∈ e'.2) ∧ u.mem = s.mem) ∧
    (f.busy = true → f.cmd = 2 →
      let hit (l : Leaf) : Prop := f.len ≠ 0 ∧ l.ctx = f.ctx ∧ l.page * (if l.big then 2 ^ 29 else 2 ^ 16) < f.base.toNat + f.len.toNat ∧ f.base.toNat < (l.page + 1) * (if l.big then 2 ^ 29 else 2 ^ 16)
      ∃ u, exec (.invalidateRange fn) s = .next u ∧ (u.fn fn.toNat).busy = false ∧ all u.tcaches (fun l => ¬ hit l) ∧ all u.iocaches (fun l => ¬ hit l) ∧
        (∀ e ∈ s.tcaches, ∀ l ∈ e.2, ¬ hit l → ∃ e' ∈ u.tcaches, e'.1 = e.1 ∧ l ∈ e'.2) ∧ u.mem = s.mem))

/-- 30 R398 to R401, R408; 26 R376, R378; 28 R393: stores to a function's window, which a package takes only when it runs and has booted, recording and replay, and the function-level reset,
which fails every context of the function together; steps of a failure that the service core's clock takes.
Where it rests on a choice of the model and not on the spec's words, the choice is that of log entries 22, 50, 52 and 85. -/
def Obligations.function_event_results : Prop :=
  (∀ (s : State) (a : Nat) (v : Word), s.plat.power ≠ .run ∨ s.plat.boot ≠ 6 → exec (.registerWrite a v) s = .next s) ∧
  (∀ (s : State) (n : Nat) (v : Word), n < 64 → s.plat.power = .run → s.plat.boot = 6 →
    let f := s.fn n
    (∀ a, a % 8 ≠ 0 → exec (.registerWrite a v) s = .next s) ∧
    exec (.registerWrite (0x100000 * n) v) s = .next s ∧
    exec (.registerWrite (0x100000 * n + 0x08) v) s = .next (s.setFn n { f with fctl := v, fwait := false }) ∧
    exec (.registerWrite (0x100000 * n + 0x108) v) s = .next (s.setFn n { f with base := v }) ∧
    (f.busy = true → exec (.registerWrite (0x100000 * n + 0x100) v) s = .next (s.setFn n { f with err := true })) ∧
    (∀ k : BitVec 4, k = 1 ∨ k = 2 → f.busy = false → v.extractLsb' 0 4 = k →
      (s.fnOf (v.extractLsb' 8 8) ≠ some n → exec (.registerWrite (0x100000 * n + 0x100) v) s = .next (s.setFn n { f with err := true })) ∧
      (s.fnOf (v.extractLsb' 8 8) = some n →
        ∃ u, exec (.registerWrite (0x100000 * n + 0x100) v) s = .next u ∧ u.fn n = { f with busy := true, err := false, ctx := v.extractLsb' 8 8, cmd := k } ∧
          u.todo.contains (if k = 1 then .invalidateTranslations (BitVec.ofNat 6 n) else .invalidateRange (BitVec.ofNat 6 n)) = true)) ∧
    (∀ q, q < 8192 → (s.queue q).owner ≠ some n → exec (.registerWrite (0x100000 * n + 0x80000 + 64 * q) v) s = .next s) ∧
    (∀ q, q < 8192 → (s.queue q).owner = some n →
      (∃ u, exec (.registerWrite (0x100000 * n + 0x80000 + 64 * q) v) s = .next u ∧ (u.queue q).w[0] = v) ∧
      (∃ u, exec (.registerWrite (0x100000 * n + 0x80000 + 64 * q + 16) v) s = .next u ∧ Event.queueWriteStore (BitVec.ofNat 13 q) (BitVec.ofNat 32 v.toNat) ∈ u.todo ∧ u.queues = s.queues) ∧
      (∃ u, exec (.registerWrite (0x100000 * n + 0x80000 + 64 * q + 40) v) s = .next u ∧ Event.preemptRequest (BitVec.ofNat 13 q) ∈ u.todo ∧ (u.queue q).w[5] = v))) ∧
  (∀ (s : State) (fn : BitVec 6), s.replayOf fn.toNat = none → ∃ u, exec (.rctlStore fn 0) s = .next u ∧ (u.fn fn.toNat).rctl = 0 ∧ u.replayOf fn.toNat = none ∧ u.mem = s.mem) ∧
  (∀ (s : State) (fn : BitVec 6) (r : Replay) (h : Nat), s.replayOf fn.toNat = some r → r.fn = fn.toNat → r.replaying = false → s.unitSees (.recorder fn.toNat) r.ctx (r.addr + 32) 8 .store h →
    ∃ u, exec (.rctlStore fn 0) s = .next u ∧ (u.fn fn.toNat).rctl = 0 ∧ u.replayOf fn.toNat = none ∧ Memory.word u.mem h = 0) ∧
  (∀ (s : State) (fn : BitVec 6) (v : Word) (c : BitVec 8) (h : Nat), v ≠ 0 → s.replayOf fn.toNat = none → s.firstCtx fn.toNat = some c →
    let ag : Agent := .recorder fn.toNat
    s.unitSeesAll ag c v 8 40 .load h → s.unitSees ag c (v + 24) 8 .store (h + 24) → s.unitSees ag c (v + 32) 8 .store (h + 32) →
    let ok := replayOk v ((List.range 40).map (fun k => (Memory.word s.mem (h + 8 * k)).toNat))
    (ok = true → ∃ u r, exec (.rctlStore fn v) s = .next u ∧ (u.fn fn.toNat).rctl = v ∧ u.replays = s.replays ++ [r] ∧ r.fn = fn.toNat ∧ r.ctx = c ∧ r.addr = v ∧ r.replaying = false ∧
      r.packets = 0 ∧ r.work = [] ∧ Memory.word u.mem (h + 24) = 0 ∧ Memory.word u.mem (h + 32) = 1) ∧
    (ok = false → ∃ u, exec (.rctlStore fn v) s = .next u ∧ u.replayOf fn.toNat = none ∧ (u.fn fn.toNat).rctl = v ∧ Memory.word u.mem (h + 32) = 6)) ∧
  (∀ (s : State) (fn : BitVec 6), (s.fn fn.toNat).busy = true → (s.fn fn.toNat).cmd = 4 →
    let ag : Agent := .recorder fn.toNat
    let v := (s.fn fn.toNat).rctl
    (∀ c h, s.replayOf fn.toNat = none → s.firstCtx fn.toNat = some c → s.unitSeesAll ag c v 8 40 .load h → s.unitSees ag c (v + 32) 8 .store (h + 32) →
      replayOk v ((List.range 40).map (fun k => (Memory.word s.mem (h + 8 * k)).toNat)) = true → Memory.word s.mem (h + 24) = 0 →
      ∃ u r, exec (.replay fn) s = .next u ∧ u.replayOf fn.toNat = some r ∧ r.replaying = true ∧ r.left = [] ∧ r.work = [] ∧ r.wait = none ∧ Memory.word u.mem (h + 32) = 3 ∧
        u.todo.contains (.replay fn) = true) ∧
    (∀ r p ps, s.replayOf fn.toNat = some r → r.replaying = true → r.ending = false → r.work = [] → r.wait = none → r.left = p :: ps →
      ∃ u, exec (.replay fn) s = .next u ∧ ∃ l ∈ u.launches, l.id = s.seq ∧ l.queue = p.queue ∧ l.packet = p.packet ∧ l.ctx = (s.queue p.queue).ctx ∧ l.nbv = some p.nbv) ∧
    (∀ r h, s.replayOf fn.toNat = some r → r.fn = fn.toNat → r.replaying = true → r.ending = false → r.work = [] → r.wait = none → r.left = [] →
      s.unitSees ag r.ctx (r.addr + 32) 8 .store h →
      ∃ u, exec (.replay fn) s = .next u ∧ (u.fn fn.toNat).busy = false ∧ u.replayOf fn.toNat = none ∧ Memory.word u.mem h = 4)) ∧
  (∀ (s : State) (fn : BitVec 6), (s.fn fn.toNat).busy = true → (s.fn fn.toNat).cmd = 3 →
    ((s.fn fn.toNat).state = 2 → exec (.functionLevelReset fn) s = .next s) ∧
    ((s.fn fn.toNat).state ≠ 2 → ∃ u, exec (.functionLevelReset fn) s = .next u ∧ (u.fn fn.toNat).state = 2 ∧ (u.fn fn.toNat).busy = true ∧ u.mem = s.mem ∧
      (∃ t ∈ u.tears, t.step = 1 ∧ t.report = true ∧ t.last = .reset fn.toNat) ∧ ∀ c, s.fnOf c = some fn.toNat → u.failing c = true)) ∧
  (∀ (s : State) (t : Teardown) (ts : List Teardown), s.tears = t :: ts →
    let u := s.sscClock
    (t.step = 1 → (∃ y, u.tears = y :: ts ∧ y.step = 2 ∧ y.ctxs = t.ctxs) ∧ u.mem = s.mem ∧ ∀ p ∈ u.queues, p.2.ctx ∈ t.ctxs → p.2.en = false) ∧
    (t.step = 4 → u.tears = { t with step := 5 } :: ts ∧ ∀ c ∈ t.ctxs, SMap.find u.ssc.contexts c.toNat = none ∧ (∀ e ∈ u.tcaches, ∀ l ∈ e.2, l.ctx ≠ c) ∧
      (∀ e ∈ u.iocaches, ∀ l ∈ e.2, l.ctx ≠ c) ∧
      ∀ p, (s.world c).toNat ≠ 0 → s.lastOf t.ctxs (s.world c) = true → (s.granule p).toNat % 256 = (s.world c).toNat → u.granule p = 0x1FF) ∧
    (t.step = 5 → (∀ p e gs, t.last ≠ .unlock p e gs) → u.tears = { t with step := 6 } :: ts ∧
      ∀ c ∈ t.ctxs, SMap.find u.ssc.mcKeys c.toNat = none ∧ (∀ n, SMap.find (u.core n).keys c.toNat = none) ∧ ∀ p ∈ u.ssc.sessions, p.2.ctx ≠ c) ∧
    (∀ fn, t.step = 7 → t.rings = [] → t.last = .reset fn → u.tears = ts ∧ (u.fn fn).state = 1 ∧ (u.fn fn).busy = false) ∧
    (∀ fn : BitVec 6, t.step = 7 → t.rings = [] → t.last = .destroy fn.toNat → u.tears = ts ∧ u.mailEnds fn 0))

/-- 30 R395 to R398, R404, R405; 22 R328; 26 R365, R367, R368; 28 R379, R385, R387; 30 R400: what the package does with a message that reaches it (one whose
seal does not open changes nothing), the flits that establish a session, and the failure of a link or port.
Where it rests on a choice of the model and not on the spec's words, the choice is that of log entries 13, 14, 43, 54, 57, 58, 77 and 84. -/
def Obligations.fabric_event_results : Prop :=
  (∀ (s : State) (m : Msg) (pa n : Nat), s.asksHbm m pa n →
    let h := physHome 0 pa
    (s.receives m 0x01 → ∃ u, exec (.readMsg m) s = .next u ∧ u.mem = s.mem ∧ Replies s u m 0x02 (fun r => r.data.toNat = Memory.readN s.mem h n)) ∧
    (∀ i, (s.receives m 0x03 ∧ i = Instr.writeMsg m ∨ s.receives m 0x07 ∧ i = Instr.putWithSignal m) →
      ∃ u, exec i s = .next u ∧ u.mem = Memory.writeN s.mem h m.data.toNat m.mask.toNat n ∧ Replies s u m 0x04 (fun _ => True)) ∧
    (∀ op, s.receives m 0x05 → n ≤ 8 → atomOfNum (m.hdr.toNat / 256 % 256) = some op →
      let old := Memory.readN s.mem h n
      let b := m.data.toNat % 2 ^ 64 % 256 ^ n
      let c := m.data.toNat / 2 ^ 64 % 2 ^ 64 % 256 ^ n
      ∃ u, exec (.atomicMsg m) s = .next u ∧ Replies s u m 0x06 (fun r => r.hdr.toNat = old) ∧
        u.mem = if op = .cas ∧ old ≠ c then s.mem else Memory.writeN s.mem h (atomResult op (8 * n) old b) (2 ^ n - 1) n)) ∧
  (∀ (s : State) (m : Msg) (ty : BitVec 8) (i : Instr), (ty, i) ∈ [((0x01 : BitVec 8), Instr.readMsg m), (0x03, .writeMsg m), (0x05, .atomicMsg m), (0x07, .putWithSignal m)] → s.receives m ty →
    (s.openMsg m = none → ∃ u, exec i s = .next u ∧ u.mem = s.mem ∧ u.cores = s.cores ∧ u.queues = s.queues) ∧
    (m.world = 0 ∨ m.session = 0 → s.plat.linksFailed = 0 → m.hdr.toNat % 256 ∉ [1, 2, 4, 8, 16, 32, 64] ∨ (Config.isPackage m.src = false ∧ 0x100000000000 ≤ m.addr.toNat % 2 ^ 48) →
    ∃ u, exec i s = .next u ∧ u.mem = s.mem ∧ Replies s u m 0x0B (fun r => r.hdr = 0x206))) ∧
  (∀ (s : State) (m : Msg) (c off : Nat), c < 4096 → off < 0x10000 → off % 8 ≠ 0 → m.addr.toNat % 2 ^ 48 = 0x100000000 + 0x10000 * c + off → m.hdr.toNat % 256 ∈ [1, 2, 4, 8, 16, 32, 64] →
    s.coreExists c = true → s.hostDebugs m.src c = true → m.world = 0 ∨ m.session = 0 → s.plat.linksFailed = 0 →
    (s.receives m 0x01 → ∃ u, exec (.readMsg m) s = .next u ∧ u.cores = s.cores ∧ u.mem = s.mem ∧ Replies s u m 0x02 (fun r => r.data = 0)) ∧
    (s.receives m 0x03 → ∃ u, exec (.writeMsg m) s = .next u ∧ u.cores = s.cores ∧ u.mem = s.mem ∧ Replies s u m 0x04 (fun _ => True))) ∧
  (∀ (s : State) (m : Msg) (ty : BitVec 8) (i : Instr), (ty, i) ∈ [((0x01 : BitVec 8), Instr.readMsg m), (0x02, .readReply m), (0x03, .writeMsg m), (0x04, .acknowledge m), (0x05, .atomicMsg m),
      (0x06, .atomicReply m), (0x07, .putWithSignal m), (0x08, .rewardMsg m), (0x09, .barrierMsg m), (0x0A, .stopMessage m), (0x0B, .errorMsg m), (0x0C, .sessionMsg m)] →
    ¬ s.receives m ty → exec i s = .next s) ∧
  (∀ (s : State) (m : Msg) (r : Request) (t : Tid), s.requests.find? (fun x => x.tag == m.tag && x.dst == m.src) = some r → SMap.find s.replies r.tag = none → r.agent = .thread t →
    (s.slot t).st = .parked → m.world = 0 ∨ m.session = 0 →
    ∀ ty i ok d, (ty, i, ok, d) ∈ [((0x02 : BitVec 8), Instr.readReply m, true, m.data), (0x04, .acknowledge m, true, 0), (0x06, .atomicReply m, true, m.hdr.setWidth 512), (0x0B, .errorMsg m, false, m.hdr.setWidth 512)] →
      s.receives m ty → ∃ u, exec i s = .next u ∧ Woken s u t ∧ SMap.find u.replies r.tag = some (ok, d)) ∧
  (∀ (s : State) (m : Msg), s.receives m 0x08 →
    (∀ c, m.world = 0 → SMap.find s.ssc.contexts m.session = some c → m.session < 256 → c.world = 0 → Config.isPackage m.src = true →
      let v := m.hdr.toNat / 2 ^ 48 % 2
      (s.join v).inq.length < 256 → (∀ t ∈ s.timers, t.unit ≠ 8193 + v) →
      ∃ u, exec (.rewardMsg m) s = .next u ∧ u.mem = s.mem ∧ u.plat = s.plat ∧
        (u.join v).inq = (s.join v).inq ++ [{ ctx := BitVec.ofNat 8 m.session, key := m.addr, hdr := m.hdr, data := m.data }]) ∧
    (m.world = 0 → SMap.find s.ssc.contexts m.session = none → ∃ u, exec (.rewardMsg m) s = .next u ∧ u.plat.drops = s.plat.drops + 1 ∧ u.joins = s.joins)) ∧
  (∀ (s : State) (m : Msg), s.plat.power = .run →
    ((m.ty.toNat = 0 ∨ 12 < m.ty.toNat ∨ m.dst ≠ s.plat.self) → exec (.fabricDrop m) s = .next { s with plat := { s.plat with drops := s.plat.drops + 1 } })) ∧
  (∀ (s : State) (m : Msg) (c : Chan), s.receives m 0x09 → m.world = 0 →
    let g := m.hdr.toNat % 2 ^ 16
    (m.hdr.getLsbD 16 = true → m.src = s.podRoot g → s.chans = [c] → c.sc = 5 → c.sent = true → c.group = g → s.launch c.owner ≠ none →
      ∃ u, exec (.barrierMsg m) s = .next u ∧ u.mem = s.mem ∧ (u.chans.map (·.round)) = [c.round + 1] ∧
        ∀ t ∈ s.participants c, (s.slot t).st = .parked → (s.slot t).await = .barrier 5 → (u.slot t).st = .ready) ∧
    (m.hdr.getLsbD 16 = true → m.src ≠ s.podRoot g → exec (.barrierMsg m) s = .next s) ∧
    (m.hdr.getLsbD 16 = false → s.podRoot g = s.plat.self → m.src ∈ s.podMembers g → (∃ e ∈ s.podMembers g, e ≠ m.src) → 1 ≤ s.podLaunches g → s.pods = [] →
      ∃ u, exec (.barrierMsg m) s = .next u ∧ u.mem = s.mem ∧ u.sent = s.sent ∧ u.chans = s.chans ∧ ∃ p ∈ u.pods, p.group = g ∧ p.round = 0 ∧
        (if m.hdr.getLsbD 17 then p.gone = [(m.src, 1)] else p.arrived = [(m.src, 1)]))) ∧
  (∀ (s : State) (m : Msg) (n : Nat) (c : Core) (x : BitVec 8), s.receives m 0x0A → m.world = 0 → s.cores = [(n, c)] →
    (m.hdr.getLsbD 2 = false → s.world (BitVec.ofNat 8 m.tag) = 0 → c.ctx ≠ some (BitVec.ofNat 8 m.tag) → exec (.stopMessage m) s = .next s) ∧
    (m.hdr.getLsbD 2 = false → c.ctx = some x → x = BitVec.ofNat 8 m.tag → s.world x = 0 → c.dbg.stopped = false →
      ∃ u k, exec (.stopMessage m) s = .next u ∧ (u.dbg n).stopped = true ∧ u.stops = s.stops ++ [k] ∧ k.core = n ∧ k.src = m.hdr ∧ k.addr = m.addr ∧ k.at_ = c.cyc.toNat ∧ k.ctx = x ∧
        u.todo.contains (.stopTakesEffect n) = true ∧ u.mem = s.mem) ∧
    (m.hdr.getLsbD 2 = true → c.dbg.dom = 5 → c.dbg.stopSrc = m.hdr &&& ~~~4 → c.dbg.stopAddr = m.addr →
      ∃ u k, exec (.stopMessage m) s = .next u ∧ u.resumes = s.resumes ++ [k] ∧ k.core = n ∧ k.at_ = c.cyc.toNat ∧ u.todo.contains (.resumeTakesEffect n) = true ∧ u.mem = s.mem)) ∧
  (∀ (s : State) (m : Msg), s.receives m 0x0C →
    (m.session = 0 → (m.world = 0 ∨ m.world ≠ 255 ∧ s.ssc.life = 2) →
      let mine (o : Offer) : Prop := o.endpoint = m.src ∧ o.world = m.world
      ∀ bs, (∀ o ∈ s.ssc.offers, mine o → o.bytes = bs) → ((∃ o ∈ s.ssc.offers, mine o) ∨ bs = []) →
        (bs.length + 64 < 1184 →
          ∃ u, exec (.sessionMsg m) s = .next u ∧ u.ssc.sessions = s.ssc.sessions ∧ u.sent = s.sent ∧ u.mem = s.mem ∧
            ({ endpoint := m.src, world := m.world, bytes := bs ++ natBytes 64 m.data.toNat } : Offer) ∈ u.ssc.offers ∧ ∀ o ∈ s.ssc.offers, ¬ mine o → o ∈ u.ssc.offers) ∧
        (1184 ≤ bs.length + 64 → (s.ssc.sessions.map (·.1)).Pairwise (· < ·) → s.plat.linksFailed = 0 →
          ∃ u k x rs, exec (.sessionMsg m) s = .next u ∧ u.ssc.sessions = SMap.put s.ssc.sessions k x ∧ SMap.find s.ssc.sessions k = none ∧ k ≠ 0 ∧ x.world = m.world ∧ x.endpoint = m.src ∧
            u.mem = s.mem ∧ (∀ o ∈ u.ssc.offers, ¬ mine o) ∧ u.sent = s.sent ++ rs ∧ rs.length = 69 ∧ (rs.head?.map (fun r => r.data.toNat % 2 ^ 64)) = some (k % 2 ^ 64) ∧
            ∀ r ∈ rs, r.ty = 0x0C ∧ r.src = s.plat.self ∧ r.dst = m.src ∧ r.world = m.world)) ∧
    (m.session = 0 → m.world ≠ 0 → (s.ssc.life ≠ 2 ∨ m.world = 255) → s.plat.linksFailed = 0 →
      ∃ u, exec (.sessionMsg m) s = .next u ∧ u.ssc = s.ssc ∧ Replies s u m 0x0B (fun r => r.hdr = 0x206)) ∧
    (∀ x c y, m.session ≠ 0 → SMap.find s.ssc.sessions m.session = some x → x.endpoint = m.src → x.world = m.world → SMap.find s.ssc.contexts x.ctx.toNat = some c → s.openMsg m = some y →
      ∃ u, exec (.sessionMsg m) s = .next u ∧ u.mem = s.mem ∧
        SMap.find u.ssc.contexts x.ctx.toNat = some { c with meas := BitVec.ofNat 512 (Config.shake256 (natBytes 64 c.meas.toNat ++ natBytes 64 y.data.toNat) 64) })) ∧
  (∀ (s : State) (k : Nat) (r : Request) (t : Tid), k < 24 → s.plat.linksUp.getLsbD k = true →
    ∃ u, exec (.linkFailure k) s = .next u ∧ u.plat.linksFailed.getLsbD k = true ∧ (∀ j, j ≠ k → u.plat.linksFailed.getLsbD j = s.plat.linksFailed.getLsbD j) ∧ u.mem = s.mem ∧
      (s.requests = [r] → r.agent = .thread t → (s.slot t).st = .parked → SMap.find s.replies r.tag = none →
        s.plat.planes[(laneOf r.pa + r.dst.toNat) % s.plat.planes.length]? = some k → SMap.find u.replies r.tag = some (false, 0x206) ∧ (u.slot t).st = .ready)) ∧
  (∀ (s : State) (p : BitVec 2),
    ∃ u, exec (.cxlLinkDown p) s = .next u ∧ (∀ j : BitVec 2, u.plat.cxlDown.getLsbD j.toNat = (j == p || s.plat.cxlDown.getLsbD j.toNat)) ∧ u.plat.cxl = s.plat.cxl ∧ u.mem = s.mem)

/-- 30 R402, R403; 28 R381 to R383, R386, R390, R391, R393, 30 R400: the operations of the SSC mailbox, each with its checks, none while a failure is under way; operands are those of the request, in clear or as its seal opens.
Where it rests on a choice of the model and not on the spec's words, the choice is that of log entries 8, 51, 53, 54, 55 and 85. -/
def Obligations.mailbox_results : Prop :=
  (∀ (s : State) (fn : BitVec 6) (a : Asked) (op : Nat) (i : Instr),
    (op, i) ∈ [(1, Instr.assign fn), (2, .release fn), (3, .create fn), (4, .destroy fn), (5, .queueOp fn), (6, .region fn), (7, .report fn), (8, .extend fn), (9, .sessionOperation fn),
      (10, .rootOp fn), (11, .writeOperation fn)] →
    (s.asking fn op = false ∨ s.tears ≠ [] → exec i s = .next s) ∧
    (s.asking fn op = true → s.tears = [] → s.asked fn.toNat = none → ∃ u, exec i s = .next u ∧ MailRefused s u fn 6) ∧
    (s.asking fn op = true → s.tears = [] → s.asked fn.toNat = some a →
      let done (p : State → Prop) : Prop := ∃ u, exec i s = .next u ∧ u.mailEnds fn 0 ∧ p u
      let fails (st : BitVec 8) : Prop := ∃ u, exec i s = .next u ∧ MailRefused s u fn st
      let x := a.word
      let under (w : BitVec 8) : Prop := w = 0 ∨ ∃ p, a.sess = some p ∧ p.2.world = w
      let free (w : BitVec 8) : Prop := w = 0 ∨ s.ssc.life = 2
      (op = 1 →
        (¬ (x 0 < s.plat.grade.dies ∧ x 1 ≤ 254) → fails 5) ∧
        (x 0 < s.plat.grade.dies → x 1 ≤ 254 →
          let w := BitVec.ofNat 8 (x 1)
          (¬ free w → fails 4) ∧ (free w → ¬ under w → fails 6) ∧ (free w → under w → s.dieBusy (x 0) = true → fails 2) ∧
          (free w → under w → s.dieBusy (x 0) = false →
            done (fun u => u.ssc.latches[x 0]? = some ((1 : BitVec 8) ++ w) ∧ (∀ k, k ≠ x 0 → u.ssc.latches[k]? = s.ssc.latches[k]?) ∧
              (∀ n b, dieOf n = x 0 → n < 4096 → b < 0x40000 → Memory.byte u.mem (lsHome n b) = 0 ∧ u.tag (lsHome n b) = 0) ∧
              (∀ n b, dieOf n ≠ x 0 → n < 4096 → b < 0x40000 → Memory.byte u.mem (lsHome n b) = Memory.byte s.mem (lsHome n b)))))) ∧
      (op = 2 → x 0 < s.plat.grade.dies →
        let l := s.ssc.latches[x 0]?.getD 0
        (¬ under (l.extractLsb' 0 8) → fails 6) ∧
        (under (l.extractLsb' 0 8) → (l.getLsbD 8 = false ∨ s.dieBusy (x 0) = true) → fails 2) ∧
        (under (l.extractLsb' 0 8) → l.getLsbD 8 = true → s.dieBusy (x 0) = false →
          done (fun u => (u.ssc.latches[x 0]?.getD 0).getLsbD 8 = false ∧ (∀ n b, dieOf n = x 0 → n < 4096 → b < 0x40000 → Memory.byte u.mem (lsHome n b) = 0)))) ∧
      (op = 3 → x 0 = 0 →
        (¬ (x 1 % 64 = 0 ∧ x 1 + 32 ≤ s.plat.grade.hbm) → fails 5) ∧
        (∀ k, x 1 % 64 = 0 → x 1 + 32 ≤ s.plat.grade.hbm → k < 256 → SMap.find s.ssc.contexts k = none → (∀ j, j < k → SMap.find s.ssc.contexts j ≠ none) →
          done (fun u => SMap.find u.ssc.contexts k = some { world := 0, root := BitVec.ofNat 64 (x 1), dumpBase := BitVec.ofNat 64 (x 2), dumpLen := BitVec.ofNat 64 (x 3), saveBase := BitVec.ofNat 64 (x 4), saveLen := BitVec.ofNat 64 (x 5), owner := fn.toNat, meas := 0, key := 0 } ∧
            (∀ j, j ≠ k → SMap.find u.ssc.contexts j = SMap.find s.ssc.contexts j) ∧ (a.sess = none → Memory.word (u.fn fn.toNat).mail 0x800 = BitVec.ofNat 64 k)))) ∧
      (op = 4 → x 0 < 256 →
        let c := BitVec.ofNat 8 (x 0)
        (s.fnOf c ≠ some fn.toNat → fails 3) ∧ (s.fnOf c = some fn.toNat → ¬ under (s.world c) → fails 6) ∧
        (s.fnOf c = some fn.toNat → under (s.world c) → ∃ u, exec i s = .next u ∧ s.asking fn op = u.asking fn op ∧ u.mem = s.mem ∧ u.failing c = true ∧
          ∃ t ∈ u.tears, t.step = 1 ∧ t.ctxs = [c] ∧ t.report = true ∧ t.last = .destroy fn.toNat)) ∧
      (op = 5 → x 0 < 8192 → x 1 < 256 → x 2 < 256 →
        let q := s.queue (x 0)
        let c := BitVec.ofNat 8 (x 1)
        (¬ (s.fnOf c = some fn.toNat ∧ (q.owner = none ∨ q.owner = some fn.toNat)) → fails 3) ∧
        (s.fnOf c = some fn.toNat → (q.owner = none ∨ q.owner = some fn.toNat) → under (s.world c) →
          done (fun u => (u.queue (x 0)).owner = some fn.toNat ∧ (u.queue (x 0)).ctx = c ∧ (u.queue (x 0)).w[1].extractLsb' 32 8 = BitVec.ofNat 8 (x 2) ∧
            (u.queue (x 0)).w[1].extractLsb' 16 8 = s.world c ∧ (u.queue (x 0)).en = q.en ∧ (u.queue (x 0)).w[2] = q.w[2]))) ∧
      (op = 6 → (x 0 + x 1) * 2 ^ 21 ≤ s.plat.grade.hbm → x 2 ≤ 254 → x 3 ≤ 1 →
        let w := BitVec.ofNat 8 (x 2)
        (¬ free w → fails 4) ∧ (free w → ¬ under w → fails 6) ∧
        (free w → under w → s.ssc.contexts = [] →
          done (fun u => (∀ k, k < x 1 → u.granule ((x 0 + k) * 2 ^ 21) = BitVec.ofNat 16 (x 2 + 256 * x 3)) ∧
            (∀ b, b < x 1 * 2 ^ 21 → Memory.byte u.mem (physHome 0 (x 0 * 2 ^ 21 + b)) = 0)))) ∧
      (op = 7 → x 4 = 0xFF → x 5 % 64 = 0 → s.inWorld (x 5) 3965 0 = true →
        done (fun u =>
          let h := physHome 0 (x 5)
          Memory.readN u.mem h 4 = 1 ∧ Memory.readN u.mem (h + 4) 4 = s.ssc.life.toNat ∧ Memory.readN u.mem (h + 8) 8 = s.ssc.deviceId.toNat ∧
          (∀ k, k < 32 → a.body.length = 0x7C0 → Memory.byte u.mem (h + 16 + k) = a.body[k]?.getD 0) ∧ u.ssc = s.ssc)) ∧
      (op = 8 →
        (¬ (4 ≤ x 0 ∧ x 0 ≤ 7) → fails 5) ∧
        (4 ≤ x 0 → x 0 ≤ 7 → done (fun u => u.ssc.meas[x 0]? = some (extended (s.ssc.meas[x 0]?.getD 0) ((a.body.drop 8).take 64)) ∧ ∀ k, k ≠ x 0 → u.ssc.meas[k]? = s.ssc.meas[k]?))) ∧
      (op = 9 → x 0 ≤ 254 → x 1 ≤ 191 →
        let w := BitVec.ofNat 8 (x 0)
        (¬ free w → fails 4) ∧
        (free w → (s.ssc.sessions.map (·.1)).Pairwise (· < ·) →
          done (fun u => ∃ k y, SMap.find s.ssc.sessions k = none ∧ k ≠ 0 ∧ u.ssc.sessions = SMap.put s.ssc.sessions k y ∧ y.world = w ∧ y.endpoint = BitVec.ofNat 8 (x 1)))) ∧
      (op = 10 → x 0 < 256 → x 1 % 64 = 0 →
        let c := BitVec.ofNat 8 (x 0)
        (s.fnOf c ≠ some fn.toNat → fails 3) ∧ (s.fnOf c = some fn.toNat → s.world c = 0 → fails 5) ∧ (s.fnOf c = some fn.toNat → s.world c ≠ 0 → ¬ under (s.world c) → fails 6) ∧
        (∀ y, SMap.find s.ssc.contexts c.toNat = some y → y.owner = fn.toNat → y.world ≠ 0 → under y.world → s.inWorld (x 1) 32 y.world = true → tableEntries s.mem (x 1) 4 = [] →
          done (fun u => SMap.find u.ssc.contexts c.toNat = some { y with root := BitVec.ofNat 64 (x 1) } ∧ u.mem = s.mem))) ∧
      (op = 11 →
        (a.sess = none → fails 6) ∧
        (∀ p, a.sess = some p → x 0 < 256 →
          let c := BitVec.ofNat 8 (x 0)
          let bs := a.body.drop 16
          (s.fnOf c ≠ some fn.toNat → fails 3) ∧ (s.fnOf c = some fn.toNat → p.2.world ≠ s.world c → fails 6) ∧
          (s.fnOf c = some fn.toNat → p.2.world = s.world c → bs.length ≤ 768 → bs ≠ [] → s.inWorld (x 1) bs.length (s.world c) = true →
            (s.mergeable c (x 1) bs.length = false → fails 2) ∧ (s.mergeable c (x 1) bs.length = true → done (fun u => (∀ k (hk : k < bs.length), Memory.byte u.mem (physHome 0 (x 1 + k)) = bs[k]) ∧ ∀ k, k < bs.length → u.lineKey (lineOfHome (physHome 0 (x 1 + k))) = s.ctxKeys c))))))) ∧
  (∀ (s : State) (fn : BitVec 6), (s.fn fn.toNat).mcmd.getLsbD 8 = false →
    ∃ a, s.asked fn.toNat = some a ∧ a.sess = none ∧ ∀ k, 8 * k + 8 ≤ 0x7C0 → a.word k = (Memory.word (s.fn fn.toNat).mail (0x40 + 8 * k)).toNat)

/-- 30 R407, R408; 28 R389, R392 to R394: the steps of a boot and of a wake, each with its failure, power, deep sleep and what it retains, thermal limits, fuses and the debug unlock.
Where it rests on a choice of the model and not on the spec's words, the choice is that of log entries 7, 8, 55, 56, 80 and 85. -/
def Obligations.platform_results : Prop :=
  (∀ s : State, ∃ u, exec .coldReset s = .next u ∧ u.plat.power = .run ∧ u.plat.boot = 1 ∧ u.plat.waking = false ∧ u.plat.boots = s.plat.boots + 1 ∧ u.mem = [] ∧ u.cores = [] ∧ u.gangs = [] ∧
    u.launches = [] ∧ u.fns = [] ∧ u.ssc.contexts = [] ∧ u.ssc.life = (if s.ssc.life = 3 then 2 else s.ssc.life) ∧ u.ssc.deviceId = s.ssc.deviceId ∧ u.ssc.secret = s.ssc.secret ∧
    u.ssc.tokenKey = s.ssc.tokenKey ∧ u.plat.grade = s.plat.grade ∧ u.plat.fused = s.plat.fused) ∧
  (∀ s : State,
    let n := s.plat.boots
    let u := s.bootStep
    let m (k : Nat) : Line := s.ssc.meas[k]?.getD 0
    let fails (k : BitVec 8) : Prop := if s.plat.waking = true then u = s.coldForm else u = { s with plat := { s.plat with boot := 0xF, fail := k } }
    (s.plat.boot = 1 →
      (Config.firmwareGood n = false → fails 1) ∧
      (Config.firmwareGood n = true → s.plat.waking = false → u.plat.boot = 2 ∧ u.ssc.digest = Config.firmwareDigest n ∧
        u.ssc.meas[0]? = some (extended (m 0) (natBytes 64 (Config.firmwareDigest n).toNat)) ∧ u.fns = s.fns) ∧
      (Config.firmwareGood n = true → s.plat.waking = true →
        (Config.firmwareDigest n = s.ssc.digest → u = s.bootTo 2) ∧ (Config.firmwareDigest n ≠ s.ssc.digest → u = s.coldForm))) ∧
    (s.plat.boot = 2 →
      (Config.fusesGood n = false → fails 2) ∧
      (Config.fusesGood n = true → u.plat.boot = 3 ∧
        u.ssc.meas[1]? = some (if s.plat.waking then m 1 else extended (m 1) (natBytes 64 (Config.firmwareConfig n).toNat)))) ∧
    (s.plat.boot = 3 → (Config.hbmGood n = false → fails 3) ∧ (Config.hbmGood n = true → u = s.bootTo 4)) ∧
    (s.plat.boot = 4 →
      (Config.portsGood n = false → fails 4) ∧
      (Config.portsGood n = true → u.plat.boot = 5 ∧ u.plat.linksUp = Config.linksTrained n ∧ u.plat.linksFailed = 0 ∧ u.plat.self = Config.endpoint n ∧ u.plat.cxl = Config.cxlPresent n)) ∧
    (s.plat.boot = 5 →
      (Config.tablesGood n = false → fails 5) ∧
      (Config.tablesGood n = true → s.plat.waking = false → u.plat.boot = 6 ∧
        ∀ f : BitVec 6, (u.fn f.toNat).state = (if Config.fnEnabled f then 1 else 0) ∧ (u.fn f.toNat).host = Config.fnHost f) ∧
      (∀ r, Config.tablesGood n = true → s.plat.waking = true → s.ssc.retained = some r →
        u.plat.boot = 6 ∧ u.plat.waking = false ∧ u.ssc.retained = none ∧ u.mem = s.mem ∧ u.gangs = s.gangs ∧ u.todo.contains .gangPlacement = true ∧
        (savedTag r.key r.latches r.regions s.granules = r.tag →
          u.ssc.latches = r.latches ∧ u.ssc.regions = r.regions ∧ u.ssc.contexts = s.ssc.contexts.map (fun p => (p.1, { p.2 with key := (r.unwrap (2 * p.1)).getD 0 })) ∧
          u.ssc.sessions = s.ssc.sessions.map (fun p => (p.1, { p.2 with key := (r.unwrap (2 * p.1 + 1)).getD 0 })) ∧ ∀ c ∈ s.lockedOut r, u.failing c = true) ∧
        (savedTag r.key r.latches r.regions s.granules ≠ r.tag → u.ssc.latches = s.ssc.latches ∧ ∀ c ∈ s.protectedContexts, u.failing c = true)))) ∧
  (∀ s : State, ∃ u, exec .powerLoss s = .next u ∧ u.isOff s) ∧
  (∀ s : State,
    (s.plat.power = .off → exec .criticalTrip s = .next s) ∧
    ((∃ t ∈ s.tears, t.last = .trip) → exec .criticalTrip s = .next s) ∧
    ((∀ t ∈ s.tears, t.last ≠ .trip) → s.plat.power = .run → s.plat.boot = 6 →
      ∃ u, exec .criticalTrip s = .next u ∧ u.mem = s.mem ∧ u.plat = s.plat ∧ (∃ t ∈ u.tears, t.step = 1 ∧ t.report = false ∧ t.last = .trip) ∧
        ∀ p ∈ s.ssc.contexts, u.failing (BitVec.ofNat 8 p.1) = true) ∧
    ((∀ t ∈ s.tears, t.last ≠ .trip) → s.plat.power ≠ .off → ¬ (s.plat.power = .run ∧ s.plat.boot = 6) → ∃ u, exec .criticalTrip s = .next u ∧ u.isOff s) ∧
    (∀ t ts, s.tears = t :: ts → t.step = 3 → t.last = .trip → s.gangs = [] → s.launches = [] → s.dumps = [] → s.faults = [] → (∀ p ∈ s.cores, p.2.copies = []) →
      (∀ v, (s.join v).entries = [] ∧ (s.join v).groups = [] ∧ (s.join v).instrs = []) → s.sscClock.isOff s)) ∧
  (∀ (s : State) (d : BitVec 3),
    (∃ u, exec (.thermalWarning d) s = .next u ∧ d.toNat ∈ u.plat.warm ∧ (∀ l, d.toNat ∉ u.openDies l) ∧ (∀ k, k ≠ d.toNat → (k ∈ u.plat.warm ↔ k ∈ s.plat.warm)) ∧ u.mem = s.mem ∧ u.gangs = s.gangs) ∧
    (∃ u, exec (.thermalWarningClear d) s = .next u ∧ d.toNat ∉ u.plat.warm ∧ (∀ k, k ≠ d.toNat → (k ∈ u.plat.warm ↔ k ∈ s.plat.warm)) ∧ u.todo.contains .gangPlacement = true ∧ u.mem = s.mem)) ∧
  (∀ (s : State) (i : Instr) (fn : BitVec 6), (i = .deepSleepEntry ∨ i = .sleepOperation fn ∧ s.asking fn 12 = true) → s.plat.power = .run → s.plat.boot = 6 → s.tears = [] →
    ((∀ g ∈ s.gangs, g.image.isSome = true) → ∃ u r, exec i s = .next u ∧ u.plat.power = .deepSleep ∧ u.cores = [] ∧ u.tcaches = [] ∧ u.ssc.mcKeys = [] ∧
      (∀ p ∈ u.ssc.sessions, p.2.key = 0) ∧ (∀ p ∈ u.ssc.contexts, p.2.key = 0) ∧ u.ssc.retained = some r ∧ r.key = s.freshKey ∧ r.latches = s.ssc.latches ∧ r.regions = s.ssc.regions ∧
      r.tag = savedTag r.key r.latches r.regions s.granules ∧
      ((s.ssc.secrets.map (·.1)).Nodup → ∀ p ∈ s.ssc.secrets, ∃ nonce, SMap.find r.wrapped p.1 = some (nonce, Config.gcmSeal r.key nonce (natBytes 32 p.2.toNat))) ∧
      u.ssc.sleepCount = s.ssc.sleepCount + s.ssc.secrets.length ∧ (∀ n b, n < 4096 → b < 0x40000 → Memory.byte u.mem (lsHome n b) = 0) ∧
      ∀ a, Memory.byte u.mem (physHome 0 a) = Memory.byte s.mem (physHome 0 a)) ∧
    (∀ g ∈ s.gangs, g.runs → s.gang g.id = some g → ∃ u, exec i s = .next u ∧ u.plat.power = .run ∧ u.plat.sleeping = true ∧ u.saving g ∧
      { unit := 8192, at_ := s.dispCount.toNat + 1, ev := Event.deepSleepEntry } ∈ u.timers)) ∧
  (∀ s : State,
    (s.plat.power ≠ .deepSleep → exec .managementWake s = .next s) ∧
    (s.plat.power = .deepSleep → s.ssc.retained = none → exec .managementWake s = .next s.coldForm) ∧
    (s.plat.power = .deepSleep → s.ssc.retained ≠ none →
      exec .managementWake s = .next { s with plat := { s.plat with power := .run, boots := s.plat.boots + 1, boot := 1, waking := true } })) ∧
  (∀ s : State,
    (s.unlocking = true → exec .provisioning s = .next s ∧ exec .productionFuse s = .next s ∧ exec .retireFuse s = .next s) ∧
    (s.unlocking = false → s.ssc.life = 0 → ∃ u, exec .provisioning s = .next u ∧ u.ssc.life = 1 ∧ u.ssc.deviceId = Config.fusedId ∧ u.ssc.secret = Config.fusedSecret ∧
      u.ssc.tokenKey = Config.fusedTokenKey ∧ u.ssc.meas[2]? = some (extended (s.ssc.meas[2]?.getD 0) [1]) ∧ u.mem = s.mem) ∧
    (s.ssc.life ≠ 0 → exec .provisioning s = .next s) ∧
    (s.unlocking = false → s.ssc.life = 1 → ∃ u, exec .productionFuse s = .next u ∧ u.ssc.life = 2 ∧ u.ssc.meas[2]? = some (extended (s.ssc.meas[2]?.getD 0) [2]) ∧ u.mem = s.mem) ∧
    (s.ssc.life ≠ 1 → exec .productionFuse s = .next s) ∧
    (s.unlocking = false → s.ssc.life = 2 ∨ s.ssc.life = 3 → ∃ u, exec .retireFuse s = .next u ∧ u.ssc.life = 4 ∧ u.ssc.meas[2]? = some (extended (s.ssc.meas[2]?.getD 0) [4]) ∧ u.mem = s.mem) ∧
    (s.ssc.life ≠ 2 → s.ssc.life ≠ 3 → exec .retireFuse s = .next s)) ∧
  (∀ (s : State) (dev : Word) (life : BitVec 3) (nonce : BitVec 256) (perm : BitVec 8) (sig : Nat),
    let ok := dev = s.ssc.deviceId ∧ life = 2 ∧ s.ssc.life = 2 ∧ nonce = Config.entropy s.draws ∧ perm.extractLsb' 2 6 = 0 ∧
      Config.tokenVerifies s.ssc.tokenKey (natBytes 8 dev.toNat ++ [BitVec.ofNat 8 life.toNat] ++ natBytes 32 nonce.toNat ++ [perm]) sig = true
    (s.tears ≠ [] → exec (.debugUnlock dev life nonce perm sig) s = .next s) ∧
    (s.tears = [] → ¬ ok → ∃ u, exec (.debugUnlock dev life nonce perm sig) s = .next u ∧ u.ssc.life = s.ssc.life ∧ u.ssc.sahgon = s.ssc.sahgon ∧ u.ssc.contexts = s.ssc.contexts ∧
      u.mem = s.mem ∧ u.draws = s.draws + 1) ∧
    (s.tears = [] → ok → ∃ u t ev, exec (.debugUnlock dev life nonce perm sig) s = .next u ∧ u.ssc.life = 2 ∧ (∀ p ∈ u.ssc.contexts, p.2.key = 0) ∧
      (∀ p ∈ u.ssc.mcKeys, ∀ w k, p.2 ≠ .keyed w k) ∧ (∀ p ∈ u.ssc.sessions, p.2.world = 0) ∧ u.tears = [t] ∧ t.step = 1 ∧ t.report = false ∧ t.ctxs = s.protectedContexts ∧
      t.last = .unlock perm ev s.protectedGranules)) ∧
  (∀ (s : State) (t : Teardown) (ts : List Teardown) (perm : BitVec 8) (ev : List Byte) (gs : List Nat), s.tears = t :: ts → t.step = 7 → t.rings = [] → t.last = .unlock perm ev gs →
    let u := s.sscClock
    u.tears = ts ∧ u.ssc.life = 3 ∧ u.ssc.sahgon = some perm ∧ u.ssc.meas[2]? = some (extended (s.ssc.meas[2]?.getD 0) ev) ∧
      ∀ g ∈ gs, ∀ b, b < 2 ^ 21 → Memory.byte u.mem (physHome 0 (g * 2 ^ 21 + b)) = 0)

/-! ### The machine as a whole -/

/-- 07 R112 to R120: the decoder gives back every well-formed instruction from the head and tail that encode it; the head's two top bits count the parcels of
the tail, and no head has the major of a pad. Only the rows of the opcode table that are events have no encoding.
Where it rests on a choice of the model and not on the spec's words, the choice is that of log entry 20. -/
def Obligations.decode_of_encode : Prop :=
  ∀ i : Instr,
    (i.wf = true → ∀ h t, encodeHT i = some (h, t) →
      decodeHT h t = .ok i ∧ (h.extractLsb' 14 2).toNat = t.parcels.length ∧ h.extractLsb' 8 6 ≠ 0x3F#6) ∧
    (encodeHT i = none ↔ ∃ e, eventInstr e = i)

/-- 07 R116, R120: what the decoder accepts is well formed, and its head and tail (of the length that the head gives) are the ones that encode it: no two words stand for one instruction, and no
reserved bit is ignored.
Where it rests on a choice of the model and not on the spec's words, the choice is that of log entry 20. -/
def Obligations.encode_of_decode : Prop :=
  ∀ (h : Parcel) (t : Tail) (i : Instr), (h.extractLsb' 14 2).toNat = t.parcels.length → decodeHT h t = .ok i → i.wf = true ∧ encodeHT i = some (h, t)

/-- 07 R113, R114: a line that holds one encoded instruction, its head first and its tail at the end, has that instruction in slot 0 and nothing in the others. -/
def Obligations.line_of_one_instruction : Prop :=
  ∀ (i : Instr) (h : Parcel) (t : Tail), i.wf = true → encodeHT i = some (h, t) →
    decodeSlot (lineOf h t) 0 = .ok i ∧ ∀ j, decodeSlot (lineOf h t) (j + 1) = .error .emptySlot

/-- 07 R115 to R121: words written out from the encodings of their entries, and words that a check of R120 refuses. -/
def Obligations.decode_words : Prop :=
  decodeTableWord 32 0x40182A41 = some (.add 3 5 9 1) ∧ decodeTableWord 32 0x505017F8 = some (.ld 10 2 0x7F8) ∧
  decodeTableWord 16 0x0C01 = some .ret ∧ decodeTableWord 32 0x4E002923 = some (.trap 5 0x123) ∧
  decodeTableWord 32 0x4F400032 = some (.mfc 8 0x32) ∧ decodeTableWord 32 0x542031E0 = some (.aadd 4 6 7 1 0) ∧
  decodeTableWord 16 0x1620 = some (.fence 4) ∧ decodeTableWord 32 0x600810EA = some (.vadd 1 2 3 0xA 2) ∧
  decodeTableWord 32 0x69303A01 = some (.mma 6 7 8 1) ∧ decodeTableWord 32 0x6B182000 = some (.dld 3 4) ∧
  decodeTableWord 32 0x6E4852C1 = some (.cp 9 10 11 1) ∧ decodeTableWord 32 0x6FA04800 = some (.epreg 20 9) ∧
  decodeTableWord 48 0xAF014A880000 = some (.rpost 9 10 4) ∧
  decodeTableWord 32 0x40182A43 = none ∧ decodeTableWord 32 0x47000001 = none ∧ decodeTableWord 16 0x3300 = none

/-- What reset leaves. Values of the spec: every slot EMPTY (03 R31), M0 to M7 zero (28 R390), the counts of corrected errors zero (30 R409), c.gdly 0x0400 (03 R59), the
registers whose Reset column says 0 zero (05 R93, 07 R110), no queue owned. The model's choice: the first step is the cold reset that starts the boot (log entry 1), and every byte reads zero
(log entry 3). -/
def Obligations.reset_state : Prop :=
  State.reset.memOk ∧ step State.reset = exec .coldReset State.reset ∧ (∀ a, Memory.byte State.reset.mem a = 0) ∧
  (∀ t : Tid,
    let x := State.reset.slot t
    x.st = .empty ∧ x.cr.frm = 0 ∧ x.cr.fflags = 0 ∧ x.cr.fen = 0 ∧ x.cr.sbtag = 0 ∧ x.cr.rngk = 0 ∧ x.cr.rngc = 0 ∧ x.cr.rngch = 0 ∧ x.cr.epc = 0 ∧
    x.cr.code = 0 ∧ x.cr.defer = 0 ∧ x.cr.late = 0 ∧ x.cr.cls = 0 ∧ x.cr.tval = 0 ∧ x.cr.tpc2 = 0 ∧ x.cr.intrap = false ∧ x.cr.wloop = 0 ∧ x.cr.pbudget = 0) ∧
  (∀ n : Nat,
    let c := State.reset.core n
    c.ctx = none ∧ c.rmap0 = 0 ∧ c.rmap1 = 0 ∧ c.gdly = 0x0400 ∧ c.grid = none ∧ c.copies = [] ∧ c.gated = false) ∧
  (∀ i : Fin 8, State.reset.ssc.meas[i] = 0) ∧ State.reset.ssc.contexts = [] ∧ State.reset.plat.ecc = [] ∧ State.reset.plat.drops = 0 ∧
  State.reset.plat.boot = 0 ∧ (∀ q, (State.reset.queue q).owner = none) ∧ State.reset.gangs = [] ∧ State.reset.launches = []

/-- The invariant of memory and tags (10 R154; log entry 3): every step of the package, whatever it runs, keeps the bytes and the tags in their one canonical form.
Where it rests on a choice of the model and not on the spec's words, the choice is that of log entry 3. -/
def Obligations.step_keeps_memory_canonical : Prop :=
  ∀ s t : State, s.memOk → step s = .next t → t.memOk

/-- 03 R33, 24 R341; 07 R113, R114: a step runs the decoded instruction. A thread whose turn it is, with nothing pending, runs the instruction that the slot of its PC
in its cached line decodes to, NEXT being the slot after it or slot 0 of the next line, unless the instruction needs the result of an access that is outstanding; a word that a check of R120 refuses runs as the trap of that check; a parked
instruction runs again. Around it stand the count of what a slot issues after a watchpoint (26 R367), the end of a single step and the end of the core's cycle. The core's rotation follows R33. A package that is
Off, asleep or booting runs no thread (30 R407, R408).
Where it rests on a choice of the model and not on the spec's words, the choice is that of log entry 4. -/
def Obligations.step_runs_decoded_instruction : Prop :=
  (∀ (s : State) (t : Tid) (l : Line) (h : Parcel) (tl : Tail),
    let x := s.slot t
    let r : State := State.countSkid { s with cur := t, npc := if slotIndex x.pc + 1 < l.slots.length then x.pc + 2 else lineAddr x.pc + 64, ir := (h, tl) }
    x.cont = none → (x.lates = [] ∨ x.cr.intrap = true) → (x.notice ≠ 1 ∨ x.cr.intrap = true) → isTranslated (lineAddr x.pc) = true →
    (s.core t.core).cached (s.ctxOf t.core) (lineAddr x.pc) = some l → s.keepsLine t.core (s.ctxOf t.core) (lineAddr x.pc) = true → l.slots[slotIndex x.pc]? = some (.instr h tl) →
      (∀ i, decodeHT h tl = .ok i → s.issue t = if x.depends i then .next { s with cur := t } else exec i r) ∧
      (∀ e, decodeHT h tl = .error e → s.issue t = exec (.notAnInstruction (if e = .reservedField then 2 else 1) 0 (tl.report ++ h)) r)) ∧
  (∀ (s : State) (t : Tid) (c : Cont) (i : Instr), (s.slot t).cont = some c → decodeHT c.head c.tail = .ok i →
    s.issue t = exec i { s with cur := t, npc := c.npc, ir := (c.head, c.tail) }) ∧
  (∀ (s : State) (t : Tid) (ts : List Tid), s.up = true → firstWake s.todo = none → s.urgent = t :: ts → ({ s with urgent := ts } : State).proceeds t = true →
    step s = match ({ s with urgent := ts } : State).issue t with
      | .next u => .next ((u.unforced t).endStep t (s.slot t))
      | r => r) ∧
  (∀ (s : State) (n : Nat) (k : BitVec 3) (as : List Turn), s.up = true → s.urgent = [] → firstWake s.todo = none → s.agenda = .core n :: as →
    ({ s with agenda := as } : State).rotate n = some k →
    step s = match ({ s with agenda := as } : State).issue ⟨n, k⟩ with
      | .next u => .next (((u.unforced ⟨n, k⟩).endStep ⟨n, k⟩ (s.slot ⟨n, k⟩)).tick n)
      | r => r) ∧
  (∀ (s : State) (e : Event) (es : List Event), s.up = true → s.urgent = [] → firstWake s.todo = none → s.agenda = [] → s.todo = e :: es →
    step s = exec (eventInstr e) { s with todo := es }) ∧
  (∀ s : State, s.up = false → s.agenda = [] →
    (s.plat.power = .off → step s = .fault .poweredOff) ∧ (s.plat.power = .deepSleep → step s = .next s) ∧
    (s.plat.power = .run → step s = if s.plat.boot = 0 then exec .coldReset s else .next s.bootStep)) ∧
  (∀ (s : State) (n : Nat), (s.core n).dbg.stepping = none →
    let own : BitVec 3 := (s.core n).cyc.extractLsb' 0 3
    ((s.slot ⟨n, own⟩).st = .stopped → s.rotate n = none) ∧
    ((s.slot ⟨n, own⟩).st ≠ .stopped → s.eligible ⟨n, own⟩ = true → s.rotate n = some own) ∧
    (∀ k, s.rotate n = some k → (s.slot ⟨n, k⟩).st = .ready ∧ s.eligible ⟨n, k⟩ = true ∧
      ∀ j : BitVec 3, j.toNat < (k - own).toNat → s.eligible ⟨n, own + j⟩ = false))

/-- 09 R148; 07 R114, R120; 24 R340, R344: TRAP completes and enters its trap of class 20 with the code of its field, the value of sB and NEXT, on every state in which its
source can be read; a slot or head that is no instruction takes the trap of the check that it fails, on every state. Where a handler stands, that is the entry; where none does,
the gang is dead and a dump is asked for. -/
def Obligations.software_traps_complete : Prop :=
  (∀ (s : State) (b : SReg) (code : BitVec 11), s.portsOpen [b] [] [] [] = true →
    let i : TrapInfo := { cls := 20, code := code.setWidth 16, tval := s.rs b }
    exec (.trap b code) s = .next ((s.pops [b] []).takeTrap s.cur i s.npc s.me.pc true false) ∧
    ((s.me.cr.intrap = true ∨ s.me.cr.tvec = 0) → ∀ g, s.gang s.me.gang = some g → g.fatal = none →
      ∃ t, exec (.trap b code) s = .next t ∧ (t.gang g.id).map (·.fatal) = some (some (i, s.cur, s.npc)) ∧ t.todo.contains .dumpGang = true ∧ t.mem = s.mem ∧ t.tags = s.tags)) ∧
  (∀ (s : State) (cls : BitVec 5) (code : BitVec 16) (tval : Word),
    let i : TrapInfo := { cls := cls, code := code, tval := tval }
    exec (.notAnInstruction cls code tval) s = .next (s.precise i) ∧
    ((s.me.cr.intrap = true ∨ s.me.cr.tvec = 0) → ∀ g, s.gang s.me.gang = some g → g.fatal = none →
      ∃ t, exec (.notAnInstruction cls code tval) s = .next t ∧ (t.gang g.id).map (·.fatal) = some (some (i, s.cur, s.me.pc)) ∧ t.todo.contains .dumpGang = true ∧ t.mem = s.mem ∧
        t.tags = s.tags))
end

