-- ==== Sys2Proof/Laws/Map.lean ====
section
/-!
SUPPORT. Laws of sparse maps: reading after writing, and the canonical form that every operation keeps.
-/

namespace Sys2Proof.Machine

variable {α : Type}

@[simp] theorem SMap.find_put_same (m : SMap α) (k : Nat) (v : α) : SMap.find (SMap.put m k v) k = some v := by
  induction m with
  | nil => simp [SMap.put, SMap.find]
  | cons p m ih =>
    obtain ⟨j, w⟩ := p
    simp only [SMap.put]
    split
    · simp [SMap.find]
    · split
      · simp [SMap.find]
      · rename_i h1 h2
        have : j ≠ k := fun h => h2 h.symm
        simp [SMap.find, this, ih]

theorem SMap.find_put_other (m : SMap α) {k k' : Nat} (v : α) (h : k' ≠ k) : SMap.find (SMap.put m k v) k' = SMap.find m k' := by
  induction m with
  | nil => simp [SMap.put, SMap.find, Ne.symm h]
  | cons p m ih =>
    obtain ⟨j, w⟩ := p
    simp only [SMap.put]
    split
    · simp [SMap.find, Ne.symm h]
    · split
      · rename_i h2
        simp [SMap.find, ← h2, Ne.symm h]
      · simp only [SMap.find, ih]

theorem SMap.find_erase_same (m : SMap α) (k : Nat) : SMap.find (SMap.erase m k) k = none := by
  induction m with
  | nil => rfl
  | cons p m ih =>
    obtain ⟨j, w⟩ := p
    simp only [SMap.erase]
    split
    · exact ih
    · rename_i h
      simp [SMap.find, h, ih]

theorem SMap.find_erase_other (m : SMap α) {k k' : Nat} (h : k' ≠ k) : SMap.find (SMap.erase m k) k' = SMap.find m k' := by
  induction m with
  | nil => rfl
  | cons p m ih =>
    obtain ⟨j, w⟩ := p
    simp only [SMap.erase]
    split
    · rename_i h2
      simp [SMap.find, h2, Ne.symm h, ih]
    · simp only [SMap.find, ih]

@[simp] theorem SMap.getD_put_same (m : SMap α) (k : Nat) (v d : α) : SMap.getD (SMap.put m k v) k d = v := by
  simp [SMap.getD]

theorem SMap.getD_put_other (m : SMap α) {k k' : Nat} (v d : α) (h : k' ≠ k) :
    SMap.getD (SMap.put m k v) k' d = SMap.getD m k' d := by
  simp [SMap.getD, SMap.find_put_other m v h]

@[simp] theorem SMap.getD_setD_same [DecidableEq α] (m : SMap α) (k : Nat) (d v : α) : SMap.getD (SMap.setD m k d v) k d = v := by
  unfold SMap.setD
  split
  · rename_i h
    simp [SMap.getD, SMap.find_erase_same, h]
  · simp

theorem SMap.getD_setD_other [DecidableEq α] (m : SMap α) {k k' : Nat} (d v : α) (h : k' ≠ k) :
    SMap.getD (SMap.setD m k d v) k' d = SMap.getD m k' d := by
  unfold SMap.setD
  split
  · simp [SMap.getD, SMap.find_erase_other m h]
  · exact SMap.getD_put_other m v d h

/-! ### The canonical form -/

theorem SMap.mem_erase {m : SMap α} {k : Nat} {p : Nat × α} (h : p ∈ SMap.erase m k) : p ∈ m := by
  induction m with
  | nil => simp [SMap.erase] at h
  | cons q m ih =>
    obtain ⟨j, w⟩ := q
    simp only [SMap.erase] at h
    split at h
    · exact List.mem_cons_of_mem _ (ih h)
    · rcases List.mem_cons.mp h with h | h
      · exact h ▸ List.mem_cons_self
      · exact List.mem_cons_of_mem _ (ih h)

theorem SMap.mem_put {m : SMap α} {k : Nat} {v : α} {p : Nat × α} (h : p ∈ SMap.put m k v) : p = (k, v) ∨ p ∈ m := by
  induction m with
  | nil => simpa [SMap.put] using h
  | cons q m ih =>
    obtain ⟨j, w⟩ := q
    simp only [SMap.put] at h
    split at h
    · rcases List.mem_cons.mp h with h | h
      · exact .inl h
      · exact .inr h
    · split at h
      · rcases List.mem_cons.mp h with h | h
        · exact .inl h
        · exact .inr (List.mem_cons_of_mem _ h)
      · rcases List.mem_cons.mp h with h | h
        · exact .inr (h ▸ List.mem_cons_self)
        · rcases ih h with h | h
          · exact .inl h
          · exact .inr (List.mem_cons_of_mem _ h)

theorem SMap.sorted_cons {j : Nat} {w : α} {m : SMap α} :
    SMap.sorted ((j, w) :: m) = true ↔ (∀ p ∈ m, j < p.1) ∧ SMap.sorted m = true := by
  simp [SMap.sorted]

theorem SMap.sorted_erase {m : SMap α} (k : Nat) (h : SMap.sorted m = true) : SMap.sorted (SMap.erase m k) = true := by
  induction m with
  | nil => rfl
  | cons q m ih =>
    obtain ⟨j, w⟩ := q
    obtain ⟨h1, h2⟩ := SMap.sorted_cons.mp h
    simp only [SMap.erase]
    split
    · exact ih h2
    · exact SMap.sorted_cons.mpr ⟨fun p hp => h1 p (SMap.mem_erase hp), ih h2⟩

theorem SMap.sorted_put {m : SMap α} (k : Nat) (v : α) (h : SMap.sorted m = true) : SMap.sorted (SMap.put m k v) = true := by
  induction m with
  | nil => rfl
  | cons q m ih =>
    obtain ⟨j, w⟩ := q
    obtain ⟨h1, h2⟩ := SMap.sorted_cons.mp h
    simp only [SMap.put]
    split
    · rename_i hk
      refine SMap.sorted_cons.mpr ⟨fun p hp => ?_, h⟩
      rcases List.mem_cons.mp hp with hp | hp
      · simpa [hp] using hk
      · exact Nat.lt_trans hk (h1 p hp)
    · split
      · rename_i hk
        exact SMap.sorted_cons.mpr ⟨fun p hp => hk ▸ h1 p hp, h2⟩
      · refine SMap.sorted_cons.mpr ⟨fun p hp => ?_, ih h2⟩
        rcases SMap.mem_put hp with hp | hp
        · subst hp; dsimp; omega
        · exact h1 p hp

theorem SMap.sorted_filter {m : SMap α} (f : Nat × α → Bool) (h : SMap.sorted m = true) : SMap.sorted (m.filter f) = true := by
  induction m with
  | nil => rfl
  | cons q m ih =>
    obtain ⟨j, w⟩ := q
    obtain ⟨h1, h2⟩ := SMap.sorted_cons.mp h
    simp only [List.filter_cons]
    split
    · exact SMap.sorted_cons.mpr ⟨fun p hp => h1 p (List.mem_filter.mp hp).1, ih h2⟩
    · exact ih h2

theorem SMap.wf_iff [DecidableEq α] (d : α) (m : SMap α) :
    SMap.wf d m = true ↔ SMap.sorted m = true ∧ ∀ p ∈ m, p.2 ≠ d := by
  simp [SMap.wf]

theorem SMap.wf_setD [DecidableEq α] {m : SMap α} (k : Nat) (d v : α) (h : SMap.wf d m = true) :
    SMap.wf d (SMap.setD m k d v) = true := by
  obtain ⟨h1, h2⟩ := (SMap.wf_iff d m).mp h
  refine (SMap.wf_iff _ _).mpr ?_
  unfold SMap.setD
  split
  · exact ⟨SMap.sorted_erase k h1, fun p hp => h2 p (SMap.mem_erase hp)⟩
  · rename_i hv
    refine ⟨SMap.sorted_put k v h1, fun p hp => ?_⟩
    rcases SMap.mem_put hp with hp | hp
    · simpa [hp] using hv
    · exact h2 p hp

theorem SMap.wf_filter [DecidableEq α] {m : SMap α} (f : Nat × α → Bool) (d : α) (h : SMap.wf d m = true) :
    SMap.wf d (m.filter f) = true := by
  obtain ⟨h1, h2⟩ := (SMap.wf_iff d m).mp h
  exact (SMap.wf_iff _ _).mpr ⟨SMap.sorted_filter f h1, fun p hp => h2 p (List.mem_filter.mp hp).1⟩

end Sys2Proof.Machine
end

