-- ==== Sys2Proof/Laws/Memory.lean ====
section
/-!
SUPPORT. Laws of memory: every operation keeps the canonical form, a byte reads as it was last written, and a write leaves every other
byte alone.
-/

namespace Sys2Proof.Machine

theorem Memory.wf_nil : Memory.wf [] = true := rfl

theorem Memory.wf_setByte {m : List Host.Cell} (a : Nat) (b : Byte) (h : Memory.wf m = true) : Memory.wf (Memory.setByte m a b) = true :=
  SMap.wf_setD a unlistedByte b h

theorem Memory.wf_writeN (n : Nat) {m : List Host.Cell} (a v be : Nat) (h : Memory.wf m = true) :
    Memory.wf (Memory.writeN m a v be n) = true := by
  induction n generalizing a v be with
  | zero => exact h
  | succ n ih =>
    simp only [Memory.writeN]
    split
    · exact Memory.wf_setByte _ _ (ih _ _ _)
    · exact ih _ _ _

theorem Memory.wf_setWord {m : List Host.Cell} (a : Nat) (v : Word) (h : Memory.wf m = true) : Memory.wf (Memory.setWord m a v) = true :=
  Memory.wf_writeN 8 a v.toNat 0xFF h

theorem Memory.wf_zero {m : List Host.Cell} (a n : Nat) (h : Memory.wf m = true) : Memory.wf (Memory.zero m a n) = true :=
  SMap.wf_filter _ unlistedByte h

theorem Memory.wf_foldl {β : Type} (f : List Host.Cell → β → List Host.Cell) (hf : ∀ m b, Memory.wf m = true → Memory.wf (f m b) = true)
    (bs : List β) {m : List Host.Cell} (h : Memory.wf m = true) : Memory.wf (bs.foldl f m) = true := by
  induction bs generalizing m with
  | nil => exact h
  | cons b bs ih => exact ih (hf m b h)

@[simp] theorem Memory.byte_setByte_same (m : List Host.Cell) (a : Nat) (b : Byte) : Memory.byte (Memory.setByte m a b) a = b :=
  SMap.getD_setD_same m a unlistedByte b

theorem Memory.byte_setByte_other (m : List Host.Cell) {a a' : Nat} (b : Byte) (h : a' ≠ a) :
    Memory.byte (Memory.setByte m a b) a' = Memory.byte m a' :=
  SMap.getD_setD_other m unlistedByte b h

/-- A write of n bytes leaves every byte outside them alone. -/
theorem Memory.byte_writeN_outside (n : Nat) (m : List Host.Cell) (a v be a' : Nat) (h : a' < a ∨ a + n ≤ a') :
    Memory.byte (Memory.writeN m a v be n) a' = Memory.byte m a' := by
  induction n generalizing a v be with
  | zero => rfl
  | succ n ih =>
    simp only [Memory.writeN]
    split
    · rw [Memory.byte_setByte_other _ _ (by omega)]
      exact ih _ _ _ (by omega)
    · exact ih _ _ _ (by omega)

/-- An enabled byte of a write reads as its byte of the value, a disabled one as before. -/
theorem Memory.byte_writeN_inside (n : Nat) (m : List Host.Cell) (a v be k : Nat) (h : k < n) :
    Memory.byte (Memory.writeN m a v be n) (a + k) =
      if be / 2 ^ k % 2 = 1 then BitVec.ofNat 8 (v / 256 ^ k) else Memory.byte m (a + k) := by
  induction n generalizing a v be k with
  | zero => omega
  | succ n ih =>
    simp only [Memory.writeN]
    cases k with
    | zero =>
      simp only [Nat.add_zero, Nat.pow_zero, Nat.div_one]
      split
      · simp
      · exact Memory.byte_writeN_outside n m (a + 1) _ _ a (by omega)
    | succ k =>
      have e := ih (a + 1) (v / 256) (be / 2) k (by omega)
      rw [show a + 1 + k = a + (k + 1) by omega] at e
      rw [show be / 2 / 2 ^ k = be / 2 ^ (k + 1) by rw [Nat.div_div_eq_div_mul, Nat.pow_succ, Nat.mul_comm],
        show v / 256 / 256 ^ k = v / 256 ^ (k + 1) by rw [Nat.div_div_eq_div_mul, Nat.pow_succ, Nat.mul_comm]] at e
      split
      · rw [Memory.byte_setByte_other _ _ (by omega)]
        exact e
      · exact e

/-- Zeroed bytes read as unlisted ones. -/
theorem Memory.find_zero (m : List Host.Cell) (a n k : Nat) :
    SMap.find (Memory.zero m a n) k = if k < a ∨ a + n ≤ k then SMap.find m k else none := by
  unfold Memory.zero
  induction m with
  | nil => simp [SMap.find]
  | cons p m ih =>
    obtain ⟨j, w⟩ := p
    rw [List.filter_cons]
    by_cases hj : j = k
    · subst hj
      by_cases hk : j < a ∨ a + n ≤ j
      · simp [hk, SMap.find]
      · simp only [hk, if_false] at ih ⊢
        rw [if_neg (by simpa using hk)]
        exact ih
    · split
      · simp [SMap.find, hj, ih]
      · simp [SMap.find, hj, ih]

end Sys2Proof.Machine
end

