-- ==== Sys2Proof/Laws/State.lean ====
section
/-!
SUPPORT. What each update of the state leaves alone, field by field, and what cores, slots and registers read as after one.
-/

namespace Sys2Proof.Machine

/-! ### setCore -/

@[simp] theorem State.setCore_agenda (s : State) (n : Nat) (c : Core) : (s.setCore n c).agenda = s.agenda := rfl
@[simp] theorem State.setCore_todo (s : State) (n : Nat) (c : Core) : (s.setCore n c).todo = s.todo := rfl
@[simp] theorem State.setCore_timers (s : State) (n : Nat) (c : Core) : (s.setCore n c).timers = s.timers := rfl
@[simp] theorem State.setCore_urgent (s : State) (n : Nat) (c : Core) : (s.setCore n c).urgent = s.urgent := rfl
@[simp] theorem State.setCore_cur (s : State) (n : Nat) (c : Core) : (s.setCore n c).cur = s.cur := rfl
@[simp] theorem State.setCore_npc (s : State) (n : Nat) (c : Core) : (s.setCore n c).npc = s.npc := rfl
@[simp] theorem State.setCore_ir (s : State) (n : Nat) (c : Core) : (s.setCore n c).ir = s.ir := rfl
@[simp] theorem State.setCore_seq (s : State) (n : Nat) (c : Core) : (s.setCore n c).seq = s.seq := rfl
@[simp] theorem State.setCore_clock (s : State) (n : Nat) (c : Core) : (s.setCore n c).clock = s.clock := rfl
@[simp] theorem State.setCore_nextCore (s : State) (n : Nat) (c : Core) : (s.setCore n c).nextCore = s.nextCore := rfl
@[simp] theorem State.setCore_draws (s : State) (n : Nat) (c : Core) : (s.setCore n c).draws = s.draws := rfl
@[simp] theorem State.setCore_mem (s : State) (n : Nat) (c : Core) : (s.setCore n c).mem = s.mem := rfl
@[simp] theorem State.setCore_tags (s : State) (n : Nat) (c : Core) : (s.setCore n c).tags = s.tags := rfl
@[simp] theorem State.setCore_poison (s : State) (n : Nat) (c : Core) : (s.setCore n c).poison = s.poison := rfl
@[simp] theorem State.setCore_badTags (s : State) (n : Nat) (c : Core) : (s.setCore n c).badTags = s.badTags := rfl
@[simp] theorem State.setCore_badLines (s : State) (n : Nat) (c : Core) : (s.setCore n c).badLines = s.badLines := rfl
@[simp] theorem State.setCore_lineKeys (s : State) (n : Nat) (c : Core) : (s.setCore n c).lineKeys = s.lineKeys := rfl
@[simp] theorem State.setCore_counts (s : State) (n : Nat) (c : Core) : (s.setCore n c).counts = s.counts := rfl
@[simp] theorem State.setCore_badMsgs (s : State) (n : Nat) (c : Core) : (s.setCore n c).badMsgs = s.badMsgs := rfl
@[simp] theorem State.setCore_tears (s : State) (n : Nat) (c : Core) : (s.setCore n c).tears = s.tears := rfl
@[simp] theorem State.setCore_replaced (s : State) (n : Nat) (c : Core) : (s.setCore n c).replaced = s.replaced := rfl
@[simp] theorem State.setCore_flushes (s : State) (n : Nat) (c : Core) : (s.setCore n c).flushes = s.flushes := rfl
@[simp] theorem State.setCore_owed (s : State) (n : Nat) (c : Core) : (s.setCore n c).owed = s.owed := rfl
@[simp] theorem State.setCore_waiters (s : State) (n : Nat) (c : Core) : (s.setCore n c).waiters = s.waiters := rfl
@[simp] theorem State.setCore_tcaches (s : State) (n : Nat) (c : Core) : (s.setCore n c).tcaches = s.tcaches := rfl
@[simp] theorem State.setCore_iocaches (s : State) (n : Nat) (c : Core) : (s.setCore n c).iocaches = s.iocaches := rfl
@[simp] theorem State.setCore_walks (s : State) (n : Nat) (c : Core) : (s.setCore n c).walks = s.walks := rfl
@[simp] theorem State.setCore_faults (s : State) (n : Nat) (c : Core) : (s.setCore n c).faults = s.faults := rfl
@[simp] theorem State.setCore_refused (s : State) (n : Nat) (c : Core) : (s.setCore n c).refused = s.refused := rfl
@[simp] theorem State.setCore_chans (s : State) (n : Nat) (c : Core) : (s.setCore n c).chans = s.chans := rfl
@[simp] theorem State.setCore_pods (s : State) (n : Nat) (c : Core) : (s.setCore n c).pods = s.pods := rfl
@[simp] theorem State.setCore_podTable (s : State) (n : Nat) (c : Core) : (s.setCore n c).podTable = s.podTable := rfl
@[simp] theorem State.setCore_stops (s : State) (n : Nat) (c : Core) : (s.setCore n c).stops = s.stops := rfl
@[simp] theorem State.setCore_resumes (s : State) (n : Nat) (c : Core) : (s.setCore n c).resumes = s.resumes := rfl
@[simp] theorem State.setCore_dispCount (s : State) (n : Nat) (c : Core) : (s.setCore n c).dispCount = s.dispCount := rfl
@[simp] theorem State.setCore_queues (s : State) (n : Nat) (c : Core) : (s.setCore n c).queues = s.queues := rfl
@[simp] theorem State.setCore_lastSel (s : State) (n : Nat) (c : Core) : (s.setCore n c).lastSel = s.lastSel := rfl
@[simp] theorem State.setCore_launches (s : State) (n : Nat) (c : Core) : (s.setCore n c).launches = s.launches := rfl
@[simp] theorem State.setCore_gangs (s : State) (n : Nat) (c : Core) : (s.setCore n c).gangs = s.gangs := rfl
@[simp] theorem State.setCore_dumps (s : State) (n : Nat) (c : Core) : (s.setCore n c).dumps = s.dumps := rfl
@[simp] theorem State.setCore_dumpCount (s : State) (n : Nat) (c : Core) : (s.setCore n c).dumpCount = s.dumpCount := rfl
@[simp] theorem State.setCore_joins (s : State) (n : Nat) (c : Core) : (s.setCore n c).joins = s.joins := rfl
@[simp] theorem State.setCore_ssc (s : State) (n : Nat) (c : Core) : (s.setCore n c).ssc = s.ssc := rfl
@[simp] theorem State.setCore_fns (s : State) (n : Nat) (c : Core) : (s.setCore n c).fns = s.fns := rfl
@[simp] theorem State.setCore_replays (s : State) (n : Nat) (c : Core) : (s.setCore n c).replays = s.replays := rfl
@[simp] theorem State.setCore_sent (s : State) (n : Nat) (c : Core) : (s.setCore n c).sent = s.sent := rfl
@[simp] theorem State.setCore_requests (s : State) (n : Nat) (c : Core) : (s.setCore n c).requests = s.requests := rfl
@[simp] theorem State.setCore_replies (s : State) (n : Nat) (c : Core) : (s.setCore n c).replies = s.replies := rfl
@[simp] theorem State.setCore_made (s : State) (n : Nat) (c : Core) : (s.setCore n c).made = s.made := rfl
@[simp] theorem State.setCore_plat (s : State) (n : Nat) (c : Core) : (s.setCore n c).plat = s.plat := rfl

/-! ### setSlot -/

@[simp] theorem State.setSlot_agenda (s : State) (t : Tid) (x : Slot) : (s.setSlot t x).agenda = s.agenda := rfl
@[simp] theorem State.setSlot_todo (s : State) (t : Tid) (x : Slot) : (s.setSlot t x).todo = s.todo := rfl
@[simp] theorem State.setSlot_timers (s : State) (t : Tid) (x : Slot) : (s.setSlot t x).timers = s.timers := rfl
@[simp] theorem State.setSlot_urgent (s : State) (t : Tid) (x : Slot) : (s.setSlot t x).urgent = s.urgent := rfl
@[simp] theorem State.setSlot_cur (s : State) (t : Tid) (x : Slot) : (s.setSlot t x).cur = s.cur := rfl
@[simp] theorem State.setSlot_npc (s : State) (t : Tid) (x : Slot) : (s.setSlot t x).npc = s.npc := rfl
@[simp] theorem State.setSlot_ir (s : State) (t : Tid) (x : Slot) : (s.setSlot t x).ir = s.ir := rfl
@[simp] theorem State.setSlot_seq (s : State) (t : Tid) (x : Slot) : (s.setSlot t x).seq = s.seq := rfl
@[simp] theorem State.setSlot_clock (s : State) (t : Tid) (x : Slot) : (s.setSlot t x).clock = s.clock := rfl
@[simp] theorem State.setSlot_nextCore (s : State) (t : Tid) (x : Slot) : (s.setSlot t x).nextCore = s.nextCore := rfl
@[simp] theorem State.setSlot_draws (s : State) (t : Tid) (x : Slot) : (s.setSlot t x).draws = s.draws := rfl
@[simp] theorem State.setSlot_mem (s : State) (t : Tid) (x : Slot) : (s.setSlot t x).mem = s.mem := rfl
@[simp] theorem State.setSlot_tags (s : State) (t : Tid) (x : Slot) : (s.setSlot t x).tags = s.tags := rfl
@[simp] theorem State.setSlot_poison (s : State) (t : Tid) (x : Slot) : (s.setSlot t x).poison = s.poison := rfl
@[simp] theorem State.setSlot_badTags (s : State) (t : Tid) (x : Slot) : (s.setSlot t x).badTags = s.badTags := rfl
@[simp] theorem State.setSlot_badLines (s : State) (t : Tid) (x : Slot) : (s.setSlot t x).badLines = s.badLines := rfl
@[simp] theorem State.setSlot_lineKeys (s : State) (t : Tid) (x : Slot) : (s.setSlot t x).lineKeys = s.lineKeys := rfl
@[simp] theorem State.setSlot_counts (s : State) (t : Tid) (x : Slot) : (s.setSlot t x).counts = s.counts := rfl
@[simp] theorem State.setSlot_badMsgs (s : State) (t : Tid) (x : Slot) : (s.setSlot t x).badMsgs = s.badMsgs := rfl
@[simp] theorem State.setSlot_tears (s : State) (t : Tid) (x : Slot) : (s.setSlot t x).tears = s.tears := rfl
@[simp] theorem State.setSlot_replaced (s : State) (t : Tid) (x : Slot) : (s.setSlot t x).replaced = s.replaced := rfl
@[simp] theorem State.setSlot_flushes (s : State) (t : Tid) (x : Slot) : (s.setSlot t x).flushes = s.flushes := rfl
@[simp] theorem State.setSlot_owed (s : State) (t : Tid) (x : Slot) : (s.setSlot t x).owed = s.owed := rfl
@[simp] theorem State.setSlot_waiters (s : State) (t : Tid) (x : Slot) : (s.setSlot t x).waiters = s.waiters := rfl
@[simp] theorem State.setSlot_tcaches (s : State) (t : Tid) (x : Slot) : (s.setSlot t x).tcaches = s.tcaches := rfl
@[simp] theorem State.setSlot_iocaches (s : State) (t : Tid) (x : Slot) : (s.setSlot t x).iocaches = s.iocaches := rfl
@[simp] theorem State.setSlot_walks (s : State) (t : Tid) (x : Slot) : (s.setSlot t x).walks = s.walks := rfl
@[simp] theorem State.setSlot_faults (s : State) (t : Tid) (x : Slot) : (s.setSlot t x).faults = s.faults := rfl
@[simp] theorem State.setSlot_refused (s : State) (t : Tid) (x : Slot) : (s.setSlot t x).refused = s.refused := rfl
@[simp] theorem State.setSlot_chans (s : State) (t : Tid) (x : Slot) : (s.setSlot t x).chans = s.chans := rfl
@[simp] theorem State.setSlot_pods (s : State) (t : Tid) (x : Slot) : (s.setSlot t x).pods = s.pods := rfl
@[simp] theorem State.setSlot_podTable (s : State) (t : Tid) (x : Slot) : (s.setSlot t x).podTable = s.podTable := rfl
@[simp] theorem State.setSlot_stops (s : State) (t : Tid) (x : Slot) : (s.setSlot t x).stops = s.stops := rfl
@[simp] theorem State.setSlot_resumes (s : State) (t : Tid) (x : Slot) : (s.setSlot t x).resumes = s.resumes := rfl
@[simp] theorem State.setSlot_dispCount (s : State) (t : Tid) (x : Slot) : (s.setSlot t x).dispCount = s.dispCount := rfl
@[simp] theorem State.setSlot_queues (s : State) (t : Tid) (x : Slot) : (s.setSlot t x).queues = s.queues := rfl
@[simp] theorem State.setSlot_lastSel (s : State) (t : Tid) (x : Slot) : (s.setSlot t x).lastSel = s.lastSel := rfl
@[simp] theorem State.setSlot_launches (s : State) (t : Tid) (x : Slot) : (s.setSlot t x).launches = s.launches := rfl
@[simp] theorem State.setSlot_gangs (s : State) (t : Tid) (x : Slot) : (s.setSlot t x).gangs = s.gangs := rfl
@[simp] theorem State.setSlot_dumps (s : State) (t : Tid) (x : Slot) : (s.setSlot t x).dumps = s.dumps := rfl
@[simp] theorem State.setSlot_dumpCount (s : State) (t : Tid) (x : Slot) : (s.setSlot t x).dumpCount = s.dumpCount := rfl
@[simp] theorem State.setSlot_joins (s : State) (t : Tid) (x : Slot) : (s.setSlot t x).joins = s.joins := rfl
@[simp] theorem State.setSlot_ssc (s : State) (t : Tid) (x : Slot) : (s.setSlot t x).ssc = s.ssc := rfl
@[simp] theorem State.setSlot_fns (s : State) (t : Tid) (x : Slot) : (s.setSlot t x).fns = s.fns := rfl
@[simp] theorem State.setSlot_replays (s : State) (t : Tid) (x : Slot) : (s.setSlot t x).replays = s.replays := rfl
@[simp] theorem State.setSlot_sent (s : State) (t : Tid) (x : Slot) : (s.setSlot t x).sent = s.sent := rfl
@[simp] theorem State.setSlot_requests (s : State) (t : Tid) (x : Slot) : (s.setSlot t x).requests = s.requests := rfl
@[simp] theorem State.setSlot_replies (s : State) (t : Tid) (x : Slot) : (s.setSlot t x).replies = s.replies := rfl
@[simp] theorem State.setSlot_made (s : State) (t : Tid) (x : Slot) : (s.setSlot t x).made = s.made := rfl
@[simp] theorem State.setSlot_plat (s : State) (t : Tid) (x : Slot) : (s.setSlot t x).plat = s.plat := rfl

/-! ### setMe -/

@[simp] theorem State.setMe_agenda (s : State) (x : Slot) : (s.setMe x).agenda = s.agenda := rfl
@[simp] theorem State.setMe_todo (s : State) (x : Slot) : (s.setMe x).todo = s.todo := rfl
@[simp] theorem State.setMe_timers (s : State) (x : Slot) : (s.setMe x).timers = s.timers := rfl
@[simp] theorem State.setMe_urgent (s : State) (x : Slot) : (s.setMe x).urgent = s.urgent := rfl
@[simp] theorem State.setMe_cur (s : State) (x : Slot) : (s.setMe x).cur = s.cur := rfl
@[simp] theorem State.setMe_npc (s : State) (x : Slot) : (s.setMe x).npc = s.npc := rfl
@[simp] theorem State.setMe_ir (s : State) (x : Slot) : (s.setMe x).ir = s.ir := rfl
@[simp] theorem State.setMe_seq (s : State) (x : Slot) : (s.setMe x).seq = s.seq := rfl
@[simp] theorem State.setMe_clock (s : State) (x : Slot) : (s.setMe x).clock = s.clock := rfl
@[simp] theorem State.setMe_nextCore (s : State) (x : Slot) : (s.setMe x).nextCore = s.nextCore := rfl
@[simp] theorem State.setMe_draws (s : State) (x : Slot) : (s.setMe x).draws = s.draws := rfl
@[simp] theorem State.setMe_mem (s : State) (x : Slot) : (s.setMe x).mem = s.mem := rfl
@[simp] theorem State.setMe_tags (s : State) (x : Slot) : (s.setMe x).tags = s.tags := rfl
@[simp] theorem State.setMe_poison (s : State) (x : Slot) : (s.setMe x).poison = s.poison := rfl
@[simp] theorem State.setMe_badTags (s : State) (x : Slot) : (s.setMe x).badTags = s.badTags := rfl
@[simp] theorem State.setMe_badLines (s : State) (x : Slot) : (s.setMe x).badLines = s.badLines := rfl
@[simp] theorem State.setMe_lineKeys (s : State) (x : Slot) : (s.setMe x).lineKeys = s.lineKeys := rfl
@[simp] theorem State.setMe_counts (s : State) (x : Slot) : (s.setMe x).counts = s.counts := rfl
@[simp] theorem State.setMe_badMsgs (s : State) (x : Slot) : (s.setMe x).badMsgs = s.badMsgs := rfl
@[simp] theorem State.setMe_tears (s : State) (x : Slot) : (s.setMe x).tears = s.tears := rfl
@[simp] theorem State.setMe_replaced (s : State) (x : Slot) : (s.setMe x).replaced = s.replaced := rfl
@[simp] theorem State.setMe_flushes (s : State) (x : Slot) : (s.setMe x).flushes = s.flushes := rfl
@[simp] theorem State.setMe_owed (s : State) (x : Slot) : (s.setMe x).owed = s.owed := rfl
@[simp] theorem State.setMe_waiters (s : State) (x : Slot) : (s.setMe x).waiters = s.waiters := rfl
@[simp] theorem State.setMe_tcaches (s : State) (x : Slot) : (s.setMe x).tcaches = s.tcaches := rfl
@[simp] theorem State.setMe_iocaches (s : State) (x : Slot) : (s.setMe x).iocaches = s.iocaches := rfl
@[simp] theorem State.setMe_walks (s : State) (x : Slot) : (s.setMe x).walks = s.walks := rfl
@[simp] theorem State.setMe_faults (s : State) (x : Slot) : (s.setMe x).faults = s.faults := rfl
@[simp] theorem State.setMe_refused (s : State) (x : Slot) : (s.setMe x).refused = s.refused := rfl
@[simp] theorem State.setMe_chans (s : State) (x : Slot) : (s.setMe x).chans = s.chans := rfl
@[simp] theorem State.setMe_pods (s : State) (x : Slot) : (s.setMe x).pods = s.pods := rfl
@[simp] theorem State.setMe_podTable (s : State) (x : Slot) : (s.setMe x).podTable = s.podTable := rfl
@[simp] theorem State.setMe_stops (s : State) (x : Slot) : (s.setMe x).stops = s.stops := rfl
@[simp] theorem State.setMe_resumes (s : State) (x : Slot) : (s.setMe x).resumes = s.resumes := rfl
@[simp] theorem State.setMe_dispCount (s : State) (x : Slot) : (s.setMe x).dispCount = s.dispCount := rfl
@[simp] theorem State.setMe_queues (s : State) (x : Slot) : (s.setMe x).queues = s.queues := rfl
@[simp] theorem State.setMe_lastSel (s : State) (x : Slot) : (s.setMe x).lastSel = s.lastSel := rfl
@[simp] theorem State.setMe_launches (s : State) (x : Slot) : (s.setMe x).launches = s.launches := rfl
@[simp] theorem State.setMe_gangs (s : State) (x : Slot) : (s.setMe x).gangs = s.gangs := rfl
@[simp] theorem State.setMe_dumps (s : State) (x : Slot) : (s.setMe x).dumps = s.dumps := rfl
@[simp] theorem State.setMe_dumpCount (s : State) (x : Slot) : (s.setMe x).dumpCount = s.dumpCount := rfl
@[simp] theorem State.setMe_joins (s : State) (x : Slot) : (s.setMe x).joins = s.joins := rfl
@[simp] theorem State.setMe_ssc (s : State) (x : Slot) : (s.setMe x).ssc = s.ssc := rfl
@[simp] theorem State.setMe_fns (s : State) (x : Slot) : (s.setMe x).fns = s.fns := rfl
@[simp] theorem State.setMe_replays (s : State) (x : Slot) : (s.setMe x).replays = s.replays := rfl
@[simp] theorem State.setMe_sent (s : State) (x : Slot) : (s.setMe x).sent = s.sent := rfl
@[simp] theorem State.setMe_requests (s : State) (x : Slot) : (s.setMe x).requests = s.requests := rfl
@[simp] theorem State.setMe_replies (s : State) (x : Slot) : (s.setMe x).replies = s.replies := rfl
@[simp] theorem State.setMe_made (s : State) (x : Slot) : (s.setMe x).made = s.made := rfl
@[simp] theorem State.setMe_plat (s : State) (x : Slot) : (s.setMe x).plat = s.plat := rfl

/-! ### setCont -/

@[simp] theorem State.setCont_agenda (s : State) (c : Cont) : (s.setCont c).agenda = s.agenda := rfl
@[simp] theorem State.setCont_todo (s : State) (c : Cont) : (s.setCont c).todo = s.todo := rfl
@[simp] theorem State.setCont_timers (s : State) (c : Cont) : (s.setCont c).timers = s.timers := rfl
@[simp] theorem State.setCont_urgent (s : State) (c : Cont) : (s.setCont c).urgent = s.urgent := rfl
@[simp] theorem State.setCont_cur (s : State) (c : Cont) : (s.setCont c).cur = s.cur := rfl
@[simp] theorem State.setCont_npc (s : State) (c : Cont) : (s.setCont c).npc = s.npc := rfl
@[simp] theorem State.setCont_ir (s : State) (c : Cont) : (s.setCont c).ir = s.ir := rfl
@[simp] theorem State.setCont_seq (s : State) (c : Cont) : (s.setCont c).seq = s.seq := rfl
@[simp] theorem State.setCont_clock (s : State) (c : Cont) : (s.setCont c).clock = s.clock := rfl
@[simp] theorem State.setCont_nextCore (s : State) (c : Cont) : (s.setCont c).nextCore = s.nextCore := rfl
@[simp] theorem State.setCont_draws (s : State) (c : Cont) : (s.setCont c).draws = s.draws := rfl
@[simp] theorem State.setCont_mem (s : State) (c : Cont) : (s.setCont c).mem = s.mem := rfl
@[simp] theorem State.setCont_tags (s : State) (c : Cont) : (s.setCont c).tags = s.tags := rfl
@[simp] theorem State.setCont_poison (s : State) (c : Cont) : (s.setCont c).poison = s.poison := rfl
@[simp] theorem State.setCont_badTags (s : State) (c : Cont) : (s.setCont c).badTags = s.badTags := rfl
@[simp] theorem State.setCont_badLines (s : State) (c : Cont) : (s.setCont c).badLines = s.badLines := rfl
@[simp] theorem State.setCont_lineKeys (s : State) (c : Cont) : (s.setCont c).lineKeys = s.lineKeys := rfl
@[simp] theorem State.setCont_counts (s : State) (c : Cont) : (s.setCont c).counts = s.counts := rfl
@[simp] theorem State.setCont_badMsgs (s : State) (c : Cont) : (s.setCont c).badMsgs = s.badMsgs := rfl
@[simp] theorem State.setCont_tears (s : State) (c : Cont) : (s.setCont c).tears = s.tears := rfl
@[simp] theorem State.setCont_replaced (s : State) (c : Cont) : (s.setCont c).replaced = s.replaced := rfl
@[simp] theorem State.setCont_flushes (s : State) (c : Cont) : (s.setCont c).flushes = s.flushes := rfl
@[simp] theorem State.setCont_owed (s : State) (c : Cont) : (s.setCont c).owed = s.owed := rfl
@[simp] theorem State.setCont_waiters (s : State) (c : Cont) : (s.setCont c).waiters = s.waiters := rfl
@[simp] theorem State.setCont_tcaches (s : State) (c : Cont) : (s.setCont c).tcaches = s.tcaches := rfl
@[simp] theorem State.setCont_iocaches (s : State) (c : Cont) : (s.setCont c).iocaches = s.iocaches := rfl
@[simp] theorem State.setCont_walks (s : State) (c : Cont) : (s.setCont c).walks = s.walks := rfl
@[simp] theorem State.setCont_faults (s : State) (c : Cont) : (s.setCont c).faults = s.faults := rfl
@[simp] theorem State.setCont_refused (s : State) (c : Cont) : (s.setCont c).refused = s.refused := rfl
@[simp] theorem State.setCont_chans (s : State) (c : Cont) : (s.setCont c).chans = s.chans := rfl
@[simp] theorem State.setCont_pods (s : State) (c : Cont) : (s.setCont c).pods = s.pods := rfl
@[simp] theorem State.setCont_podTable (s : State) (c : Cont) : (s.setCont c).podTable = s.podTable := rfl
@[simp] theorem State.setCont_stops (s : State) (c : Cont) : (s.setCont c).stops = s.stops := rfl
@[simp] theorem State.setCont_resumes (s : State) (c : Cont) : (s.setCont c).resumes = s.resumes := rfl
@[simp] theorem State.setCont_dispCount (s : State) (c : Cont) : (s.setCont c).dispCount = s.dispCount := rfl
@[simp] theorem State.setCont_queues (s : State) (c : Cont) : (s.setCont c).queues = s.queues := rfl
@[simp] theorem State.setCont_lastSel (s : State) (c : Cont) : (s.setCont c).lastSel = s.lastSel := rfl
@[simp] theorem State.setCont_launches (s : State) (c : Cont) : (s.setCont c).launches = s.launches := rfl
@[simp] theorem State.setCont_gangs (s : State) (c : Cont) : (s.setCont c).gangs = s.gangs := rfl
@[simp] theorem State.setCont_dumps (s : State) (c : Cont) : (s.setCont c).dumps = s.dumps := rfl
@[simp] theorem State.setCont_dumpCount (s : State) (c : Cont) : (s.setCont c).dumpCount = s.dumpCount := rfl
@[simp] theorem State.setCont_joins (s : State) (c : Cont) : (s.setCont c).joins = s.joins := rfl
@[simp] theorem State.setCont_ssc (s : State) (c : Cont) : (s.setCont c).ssc = s.ssc := rfl
@[simp] theorem State.setCont_fns (s : State) (c : Cont) : (s.setCont c).fns = s.fns := rfl
@[simp] theorem State.setCont_replays (s : State) (c : Cont) : (s.setCont c).replays = s.replays := rfl
@[simp] theorem State.setCont_sent (s : State) (c : Cont) : (s.setCont c).sent = s.sent := rfl
@[simp] theorem State.setCont_requests (s : State) (c : Cont) : (s.setCont c).requests = s.requests := rfl
@[simp] theorem State.setCont_replies (s : State) (c : Cont) : (s.setCont c).replies = s.replies := rfl
@[simp] theorem State.setCont_made (s : State) (c : Cont) : (s.setCont c).made = s.made := rfl
@[simp] theorem State.setCont_plat (s : State) (c : Cont) : (s.setCont c).plat = s.plat := rfl

/-! ### goto -/

@[simp] theorem State.goto_agenda (s : State) (pc : Word) : (s.goto pc).agenda = s.agenda := rfl
@[simp] theorem State.goto_todo (s : State) (pc : Word) : (s.goto pc).todo = s.todo := rfl
@[simp] theorem State.goto_timers (s : State) (pc : Word) : (s.goto pc).timers = s.timers := rfl
@[simp] theorem State.goto_urgent (s : State) (pc : Word) : (s.goto pc).urgent = s.urgent := rfl
@[simp] theorem State.goto_cur (s : State) (pc : Word) : (s.goto pc).cur = s.cur := rfl
@[simp] theorem State.goto_npc (s : State) (pc : Word) : (s.goto pc).npc = s.npc := rfl
@[simp] theorem State.goto_ir (s : State) (pc : Word) : (s.goto pc).ir = s.ir := rfl
@[simp] theorem State.goto_seq (s : State) (pc : Word) : (s.goto pc).seq = s.seq := rfl
@[simp] theorem State.goto_clock (s : State) (pc : Word) : (s.goto pc).clock = s.clock := rfl
@[simp] theorem State.goto_nextCore (s : State) (pc : Word) : (s.goto pc).nextCore = s.nextCore := rfl
@[simp] theorem State.goto_draws (s : State) (pc : Word) : (s.goto pc).draws = s.draws := rfl
@[simp] theorem State.goto_mem (s : State) (pc : Word) : (s.goto pc).mem = s.mem := rfl
@[simp] theorem State.goto_tags (s : State) (pc : Word) : (s.goto pc).tags = s.tags := rfl
@[simp] theorem State.goto_poison (s : State) (pc : Word) : (s.goto pc).poison = s.poison := rfl
@[simp] theorem State.goto_badTags (s : State) (pc : Word) : (s.goto pc).badTags = s.badTags := rfl
@[simp] theorem State.goto_badLines (s : State) (pc : Word) : (s.goto pc).badLines = s.badLines := rfl
@[simp] theorem State.goto_lineKeys (s : State) (pc : Word) : (s.goto pc).lineKeys = s.lineKeys := rfl
@[simp] theorem State.goto_counts (s : State) (pc : Word) : (s.goto pc).counts = s.counts := rfl
@[simp] theorem State.goto_badMsgs (s : State) (pc : Word) : (s.goto pc).badMsgs = s.badMsgs := rfl
@[simp] theorem State.goto_tears (s : State) (pc : Word) : (s.goto pc).tears = s.tears := rfl
@[simp] theorem State.goto_replaced (s : State) (pc : Word) : (s.goto pc).replaced = s.replaced := rfl
@[simp] theorem State.goto_flushes (s : State) (pc : Word) : (s.goto pc).flushes = s.flushes := rfl
@[simp] theorem State.goto_owed (s : State) (pc : Word) : (s.goto pc).owed = s.owed := rfl
@[simp] theorem State.goto_waiters (s : State) (pc : Word) : (s.goto pc).waiters = s.waiters := rfl
@[simp] theorem State.goto_tcaches (s : State) (pc : Word) : (s.goto pc).tcaches = s.tcaches := rfl
@[simp] theorem State.goto_iocaches (s : State) (pc : Word) : (s.goto pc).iocaches = s.iocaches := rfl
@[simp] theorem State.goto_walks (s : State) (pc : Word) : (s.goto pc).walks = s.walks := rfl
@[simp] theorem State.goto_faults (s : State) (pc : Word) : (s.goto pc).faults = s.faults := rfl
@[simp] theorem State.goto_refused (s : State) (pc : Word) : (s.goto pc).refused = s.refused := rfl
@[simp] theorem State.goto_chans (s : State) (pc : Word) : (s.goto pc).chans = s.chans := rfl
@[simp] theorem State.goto_pods (s : State) (pc : Word) : (s.goto pc).pods = s.pods := rfl
@[simp] theorem State.goto_podTable (s : State) (pc : Word) : (s.goto pc).podTable = s.podTable := rfl
@[simp] theorem State.goto_stops (s : State) (pc : Word) : (s.goto pc).stops = s.stops := rfl
@[simp] theorem State.goto_resumes (s : State) (pc : Word) : (s.goto pc).resumes = s.resumes := rfl
@[simp] theorem State.goto_dispCount (s : State) (pc : Word) : (s.goto pc).dispCount = s.dispCount := rfl
@[simp] theorem State.goto_queues (s : State) (pc : Word) : (s.goto pc).queues = s.queues := rfl
@[simp] theorem State.goto_lastSel (s : State) (pc : Word) : (s.goto pc).lastSel = s.lastSel := rfl
@[simp] theorem State.goto_launches (s : State) (pc : Word) : (s.goto pc).launches = s.launches := rfl
@[simp] theorem State.goto_gangs (s : State) (pc : Word) : (s.goto pc).gangs = s.gangs := rfl
@[simp] theorem State.goto_dumps (s : State) (pc : Word) : (s.goto pc).dumps = s.dumps := rfl
@[simp] theorem State.goto_dumpCount (s : State) (pc : Word) : (s.goto pc).dumpCount = s.dumpCount := rfl
@[simp] theorem State.goto_joins (s : State) (pc : Word) : (s.goto pc).joins = s.joins := rfl
@[simp] theorem State.goto_ssc (s : State) (pc : Word) : (s.goto pc).ssc = s.ssc := rfl
@[simp] theorem State.goto_fns (s : State) (pc : Word) : (s.goto pc).fns = s.fns := rfl
@[simp] theorem State.goto_replays (s : State) (pc : Word) : (s.goto pc).replays = s.replays := rfl
@[simp] theorem State.goto_sent (s : State) (pc : Word) : (s.goto pc).sent = s.sent := rfl
@[simp] theorem State.goto_requests (s : State) (pc : Word) : (s.goto pc).requests = s.requests := rfl
@[simp] theorem State.goto_replies (s : State) (pc : Word) : (s.goto pc).replies = s.replies := rfl
@[simp] theorem State.goto_made (s : State) (pc : Word) : (s.goto pc).made = s.made := rfl
@[simp] theorem State.goto_plat (s : State) (pc : Word) : (s.goto pc).plat = s.plat := rfl

/-! ### retire -/

@[simp] theorem State.retire_agenda (s : State) : (s.retire).agenda = s.agenda := rfl
@[simp] theorem State.retire_todo (s : State) : (s.retire).todo = s.todo := rfl
@[simp] theorem State.retire_timers (s : State) : (s.retire).timers = s.timers := rfl
@[simp] theorem State.retire_urgent (s : State) : (s.retire).urgent = s.urgent := rfl
@[simp] theorem State.retire_cur (s : State) : (s.retire).cur = s.cur := rfl
@[simp] theorem State.retire_npc (s : State) : (s.retire).npc = s.npc := rfl
@[simp] theorem State.retire_ir (s : State) : (s.retire).ir = s.ir := rfl
@[simp] theorem State.retire_seq (s : State) : (s.retire).seq = s.seq := rfl
@[simp] theorem State.retire_clock (s : State) : (s.retire).clock = s.clock := rfl
@[simp] theorem State.retire_nextCore (s : State) : (s.retire).nextCore = s.nextCore := rfl
@[simp] theorem State.retire_draws (s : State) : (s.retire).draws = s.draws := rfl
@[simp] theorem State.retire_mem (s : State) : (s.retire).mem = s.mem := rfl
@[simp] theorem State.retire_tags (s : State) : (s.retire).tags = s.tags := rfl
@[simp] theorem State.retire_poison (s : State) : (s.retire).poison = s.poison := rfl
@[simp] theorem State.retire_badTags (s : State) : (s.retire).badTags = s.badTags := rfl
@[simp] theorem State.retire_badLines (s : State) : (s.retire).badLines = s.badLines := rfl
@[simp] theorem State.retire_lineKeys (s : State) : (s.retire).lineKeys = s.lineKeys := rfl
@[simp] theorem State.retire_counts (s : State) : (s.retire).counts = s.counts := rfl
@[simp] theorem State.retire_badMsgs (s : State) : (s.retire).badMsgs = s.badMsgs := rfl
@[simp] theorem State.retire_tears (s : State) : (s.retire).tears = s.tears := rfl
@[simp] theorem State.retire_replaced (s : State) : (s.retire).replaced = s.replaced := rfl
@[simp] theorem State.retire_flushes (s : State) : (s.retire).flushes = s.flushes := rfl
@[simp] theorem State.retire_owed (s : State) : (s.retire).owed = s.owed := rfl
@[simp] theorem State.retire_waiters (s : State) : (s.retire).waiters = s.waiters := rfl
@[simp] theorem State.retire_tcaches (s : State) : (s.retire).tcaches = s.tcaches := rfl
@[simp] theorem State.retire_iocaches (s : State) : (s.retire).iocaches = s.iocaches := rfl
@[simp] theorem State.retire_walks (s : State) : (s.retire).walks = s.walks := rfl
@[simp] theorem State.retire_faults (s : State) : (s.retire).faults = s.faults := rfl
@[simp] theorem State.retire_refused (s : State) : (s.retire).refused = s.refused := rfl
@[simp] theorem State.retire_chans (s : State) : (s.retire).chans = s.chans := rfl
@[simp] theorem State.retire_pods (s : State) : (s.retire).pods = s.pods := rfl
@[simp] theorem State.retire_podTable (s : State) : (s.retire).podTable = s.podTable := rfl
@[simp] theorem State.retire_stops (s : State) : (s.retire).stops = s.stops := rfl
@[simp] theorem State.retire_resumes (s : State) : (s.retire).resumes = s.resumes := rfl
@[simp] theorem State.retire_dispCount (s : State) : (s.retire).dispCount = s.dispCount := rfl
@[simp] theorem State.retire_queues (s : State) : (s.retire).queues = s.queues := rfl
@[simp] theorem State.retire_lastSel (s : State) : (s.retire).lastSel = s.lastSel := rfl
@[simp] theorem State.retire_launches (s : State) : (s.retire).launches = s.launches := rfl
@[simp] theorem State.retire_gangs (s : State) : (s.retire).gangs = s.gangs := rfl
@[simp] theorem State.retire_dumps (s : State) : (s.retire).dumps = s.dumps := rfl
@[simp] theorem State.retire_dumpCount (s : State) : (s.retire).dumpCount = s.dumpCount := rfl
@[simp] theorem State.retire_joins (s : State) : (s.retire).joins = s.joins := rfl
@[simp] theorem State.retire_ssc (s : State) : (s.retire).ssc = s.ssc := rfl
@[simp] theorem State.retire_fns (s : State) : (s.retire).fns = s.fns := rfl
@[simp] theorem State.retire_replays (s : State) : (s.retire).replays = s.replays := rfl
@[simp] theorem State.retire_sent (s : State) : (s.retire).sent = s.sent := rfl
@[simp] theorem State.retire_requests (s : State) : (s.retire).requests = s.requests := rfl
@[simp] theorem State.retire_replies (s : State) : (s.retire).replies = s.replies := rfl
@[simp] theorem State.retire_made (s : State) : (s.retire).made = s.made := rfl
@[simp] theorem State.retire_plat (s : State) : (s.retire).plat = s.plat := rfl

/-! ### wd -/

@[simp] theorem State.wd_agenda (s : State) (n : DReg) (v : BitVec 256) : (s.wd n v).agenda = s.agenda := rfl
@[simp] theorem State.wd_todo (s : State) (n : DReg) (v : BitVec 256) : (s.wd n v).todo = s.todo := rfl
@[simp] theorem State.wd_timers (s : State) (n : DReg) (v : BitVec 256) : (s.wd n v).timers = s.timers := rfl
@[simp] theorem State.wd_urgent (s : State) (n : DReg) (v : BitVec 256) : (s.wd n v).urgent = s.urgent := rfl
@[simp] theorem State.wd_cur (s : State) (n : DReg) (v : BitVec 256) : (s.wd n v).cur = s.cur := rfl
@[simp] theorem State.wd_npc (s : State) (n : DReg) (v : BitVec 256) : (s.wd n v).npc = s.npc := rfl
@[simp] theorem State.wd_ir (s : State) (n : DReg) (v : BitVec 256) : (s.wd n v).ir = s.ir := rfl
@[simp] theorem State.wd_seq (s : State) (n : DReg) (v : BitVec 256) : (s.wd n v).seq = s.seq := rfl
@[simp] theorem State.wd_clock (s : State) (n : DReg) (v : BitVec 256) : (s.wd n v).clock = s.clock := rfl
@[simp] theorem State.wd_nextCore (s : State) (n : DReg) (v : BitVec 256) : (s.wd n v).nextCore = s.nextCore := rfl
@[simp] theorem State.wd_draws (s : State) (n : DReg) (v : BitVec 256) : (s.wd n v).draws = s.draws := rfl
@[simp] theorem State.wd_mem (s : State) (n : DReg) (v : BitVec 256) : (s.wd n v).mem = s.mem := rfl
@[simp] theorem State.wd_tags (s : State) (n : DReg) (v : BitVec 256) : (s.wd n v).tags = s.tags := rfl
@[simp] theorem State.wd_poison (s : State) (n : DReg) (v : BitVec 256) : (s.wd n v).poison = s.poison := rfl
@[simp] theorem State.wd_badTags (s : State) (n : DReg) (v : BitVec 256) : (s.wd n v).badTags = s.badTags := rfl
@[simp] theorem State.wd_badLines (s : State) (n : DReg) (v : BitVec 256) : (s.wd n v).badLines = s.badLines := rfl
@[simp] theorem State.wd_lineKeys (s : State) (n : DReg) (v : BitVec 256) : (s.wd n v).lineKeys = s.lineKeys := rfl
@[simp] theorem State.wd_counts (s : State) (n : DReg) (v : BitVec 256) : (s.wd n v).counts = s.counts := rfl
@[simp] theorem State.wd_badMsgs (s : State) (n : DReg) (v : BitVec 256) : (s.wd n v).badMsgs = s.badMsgs := rfl
@[simp] theorem State.wd_tears (s : State) (n : DReg) (v : BitVec 256) : (s.wd n v).tears = s.tears := rfl
@[simp] theorem State.wd_replaced (s : State) (n : DReg) (v : BitVec 256) : (s.wd n v).replaced = s.replaced := rfl
@[simp] theorem State.wd_flushes (s : State) (n : DReg) (v : BitVec 256) : (s.wd n v).flushes = s.flushes := rfl
@[simp] theorem State.wd_owed (s : State) (n : DReg) (v : BitVec 256) : (s.wd n v).owed = s.owed := rfl
@[simp] theorem State.wd_waiters (s : State) (n : DReg) (v : BitVec 256) : (s.wd n v).waiters = s.waiters := rfl
@[simp] theorem State.wd_tcaches (s : State) (n : DReg) (v : BitVec 256) : (s.wd n v).tcaches = s.tcaches := rfl
@[simp] theorem State.wd_iocaches (s : State) (n : DReg) (v : BitVec 256) : (s.wd n v).iocaches = s.iocaches := rfl
@[simp] theorem State.wd_walks (s : State) (n : DReg) (v : BitVec 256) : (s.wd n v).walks = s.walks := rfl
@[simp] theorem State.wd_faults (s : State) (n : DReg) (v : BitVec 256) : (s.wd n v).faults = s.faults := rfl
@[simp] theorem State.wd_refused (s : State) (n : DReg) (v : BitVec 256) : (s.wd n v).refused = s.refused := rfl
@[simp] theorem State.wd_chans (s : State) (n : DReg) (v : BitVec 256) : (s.wd n v).chans = s.chans := rfl
@[simp] theorem State.wd_pods (s : State) (n : DReg) (v : BitVec 256) : (s.wd n v).pods = s.pods := rfl
@[simp] theorem State.wd_podTable (s : State) (n : DReg) (v : BitVec 256) : (s.wd n v).podTable = s.podTable := rfl
@[simp] theorem State.wd_stops (s : State) (n : DReg) (v : BitVec 256) : (s.wd n v).stops = s.stops := rfl
@[simp] theorem State.wd_resumes (s : State) (n : DReg) (v : BitVec 256) : (s.wd n v).resumes = s.resumes := rfl
@[simp] theorem State.wd_dispCount (s : State) (n : DReg) (v : BitVec 256) : (s.wd n v).dispCount = s.dispCount := rfl
@[simp] theorem State.wd_queues (s : State) (n : DReg) (v : BitVec 256) : (s.wd n v).queues = s.queues := rfl
@[simp] theorem State.wd_lastSel (s : State) (n : DReg) (v : BitVec 256) : (s.wd n v).lastSel = s.lastSel := rfl
@[simp] theorem State.wd_launches (s : State) (n : DReg) (v : BitVec 256) : (s.wd n v).launches = s.launches := rfl
@[simp] theorem State.wd_gangs (s : State) (n : DReg) (v : BitVec 256) : (s.wd n v).gangs = s.gangs := rfl
@[simp] theorem State.wd_dumps (s : State) (n : DReg) (v : BitVec 256) : (s.wd n v).dumps = s.dumps := rfl
@[simp] theorem State.wd_dumpCount (s : State) (n : DReg) (v : BitVec 256) : (s.wd n v).dumpCount = s.dumpCount := rfl
@[simp] theorem State.wd_joins (s : State) (n : DReg) (v : BitVec 256) : (s.wd n v).joins = s.joins := rfl
@[simp] theorem State.wd_ssc (s : State) (n : DReg) (v : BitVec 256) : (s.wd n v).ssc = s.ssc := rfl
@[simp] theorem State.wd_fns (s : State) (n : DReg) (v : BitVec 256) : (s.wd n v).fns = s.fns := rfl
@[simp] theorem State.wd_replays (s : State) (n : DReg) (v : BitVec 256) : (s.wd n v).replays = s.replays := rfl
@[simp] theorem State.wd_sent (s : State) (n : DReg) (v : BitVec 256) : (s.wd n v).sent = s.sent := rfl
@[simp] theorem State.wd_requests (s : State) (n : DReg) (v : BitVec 256) : (s.wd n v).requests = s.requests := rfl
@[simp] theorem State.wd_replies (s : State) (n : DReg) (v : BitVec 256) : (s.wd n v).replies = s.replies := rfl
@[simp] theorem State.wd_made (s : State) (n : DReg) (v : BitVec 256) : (s.wd n v).made = s.made := rfl
@[simp] theorem State.wd_plat (s : State) (n : DReg) (v : BitVec 256) : (s.wd n v).plat = s.plat := rfl

/-! ### trace -/

@[simp] theorem State.trace_agenda (s : State) (kind code : Nat) (pc ta : Word) : (s.trace kind code pc ta).agenda = s.agenda := rfl
@[simp] theorem State.trace_todo (s : State) (kind code : Nat) (pc ta : Word) : (s.trace kind code pc ta).todo = s.todo := rfl
@[simp] theorem State.trace_timers (s : State) (kind code : Nat) (pc ta : Word) : (s.trace kind code pc ta).timers = s.timers := rfl
@[simp] theorem State.trace_urgent (s : State) (kind code : Nat) (pc ta : Word) : (s.trace kind code pc ta).urgent = s.urgent := rfl
@[simp] theorem State.trace_cur (s : State) (kind code : Nat) (pc ta : Word) : (s.trace kind code pc ta).cur = s.cur := rfl
@[simp] theorem State.trace_npc (s : State) (kind code : Nat) (pc ta : Word) : (s.trace kind code pc ta).npc = s.npc := rfl
@[simp] theorem State.trace_ir (s : State) (kind code : Nat) (pc ta : Word) : (s.trace kind code pc ta).ir = s.ir := rfl
@[simp] theorem State.trace_seq (s : State) (kind code : Nat) (pc ta : Word) : (s.trace kind code pc ta).seq = s.seq := rfl
@[simp] theorem State.trace_clock (s : State) (kind code : Nat) (pc ta : Word) : (s.trace kind code pc ta).clock = s.clock := rfl
@[simp] theorem State.trace_nextCore (s : State) (kind code : Nat) (pc ta : Word) : (s.trace kind code pc ta).nextCore = s.nextCore := rfl
@[simp] theorem State.trace_draws (s : State) (kind code : Nat) (pc ta : Word) : (s.trace kind code pc ta).draws = s.draws := rfl
@[simp] theorem State.trace_mem (s : State) (kind code : Nat) (pc ta : Word) : (s.trace kind code pc ta).mem = s.mem := rfl
@[simp] theorem State.trace_tags (s : State) (kind code : Nat) (pc ta : Word) : (s.trace kind code pc ta).tags = s.tags := rfl
@[simp] theorem State.trace_poison (s : State) (kind code : Nat) (pc ta : Word) : (s.trace kind code pc ta).poison = s.poison := rfl
@[simp] theorem State.trace_badTags (s : State) (kind code : Nat) (pc ta : Word) : (s.trace kind code pc ta).badTags = s.badTags := rfl
@[simp] theorem State.trace_badLines (s : State) (kind code : Nat) (pc ta : Word) : (s.trace kind code pc ta).badLines = s.badLines := rfl
@[simp] theorem State.trace_lineKeys (s : State) (kind code : Nat) (pc ta : Word) : (s.trace kind code pc ta).lineKeys = s.lineKeys := rfl
@[simp] theorem State.trace_counts (s : State) (kind code : Nat) (pc ta : Word) : (s.trace kind code pc ta).counts = s.counts := rfl
@[simp] theorem State.trace_badMsgs (s : State) (kind code : Nat) (pc ta : Word) : (s.trace kind code pc ta).badMsgs = s.badMsgs := rfl
@[simp] theorem State.trace_tears (s : State) (kind code : Nat) (pc ta : Word) : (s.trace kind code pc ta).tears = s.tears := rfl
@[simp] theorem State.trace_replaced (s : State) (kind code : Nat) (pc ta : Word) : (s.trace kind code pc ta).replaced = s.replaced := rfl
@[simp] theorem State.trace_flushes (s : State) (kind code : Nat) (pc ta : Word) : (s.trace kind code pc ta).flushes = s.flushes := rfl
@[simp] theorem State.trace_owed (s : State) (kind code : Nat) (pc ta : Word) : (s.trace kind code pc ta).owed = s.owed := rfl
@[simp] theorem State.trace_waiters (s : State) (kind code : Nat) (pc ta : Word) : (s.trace kind code pc ta).waiters = s.waiters := rfl
@[simp] theorem State.trace_tcaches (s : State) (kind code : Nat) (pc ta : Word) : (s.trace kind code pc ta).tcaches = s.tcaches := rfl
@[simp] theorem State.trace_iocaches (s : State) (kind code : Nat) (pc ta : Word) : (s.trace kind code pc ta).iocaches = s.iocaches := rfl
@[simp] theorem State.trace_walks (s : State) (kind code : Nat) (pc ta : Word) : (s.trace kind code pc ta).walks = s.walks := rfl
@[simp] theorem State.trace_faults (s : State) (kind code : Nat) (pc ta : Word) : (s.trace kind code pc ta).faults = s.faults := rfl
@[simp] theorem State.trace_refused (s : State) (kind code : Nat) (pc ta : Word) : (s.trace kind code pc ta).refused = s.refused := rfl
@[simp] theorem State.trace_chans (s : State) (kind code : Nat) (pc ta : Word) : (s.trace kind code pc ta).chans = s.chans := rfl
@[simp] theorem State.trace_pods (s : State) (kind code : Nat) (pc ta : Word) : (s.trace kind code pc ta).pods = s.pods := rfl
@[simp] theorem State.trace_podTable (s : State) (kind code : Nat) (pc ta : Word) : (s.trace kind code pc ta).podTable = s.podTable := rfl
@[simp] theorem State.trace_stops (s : State) (kind code : Nat) (pc ta : Word) : (s.trace kind code pc ta).stops = s.stops := rfl
@[simp] theorem State.trace_resumes (s : State) (kind code : Nat) (pc ta : Word) : (s.trace kind code pc ta).resumes = s.resumes := rfl
@[simp] theorem State.trace_dispCount (s : State) (kind code : Nat) (pc ta : Word) : (s.trace kind code pc ta).dispCount = s.dispCount := rfl
@[simp] theorem State.trace_queues (s : State) (kind code : Nat) (pc ta : Word) : (s.trace kind code pc ta).queues = s.queues := rfl
@[simp] theorem State.trace_lastSel (s : State) (kind code : Nat) (pc ta : Word) : (s.trace kind code pc ta).lastSel = s.lastSel := rfl
@[simp] theorem State.trace_launches (s : State) (kind code : Nat) (pc ta : Word) : (s.trace kind code pc ta).launches = s.launches := rfl
@[simp] theorem State.trace_gangs (s : State) (kind code : Nat) (pc ta : Word) : (s.trace kind code pc ta).gangs = s.gangs := rfl
@[simp] theorem State.trace_dumps (s : State) (kind code : Nat) (pc ta : Word) : (s.trace kind code pc ta).dumps = s.dumps := rfl
@[simp] theorem State.trace_dumpCount (s : State) (kind code : Nat) (pc ta : Word) : (s.trace kind code pc ta).dumpCount = s.dumpCount := rfl
@[simp] theorem State.trace_joins (s : State) (kind code : Nat) (pc ta : Word) : (s.trace kind code pc ta).joins = s.joins := rfl
@[simp] theorem State.trace_ssc (s : State) (kind code : Nat) (pc ta : Word) : (s.trace kind code pc ta).ssc = s.ssc := rfl
@[simp] theorem State.trace_fns (s : State) (kind code : Nat) (pc ta : Word) : (s.trace kind code pc ta).fns = s.fns := rfl
@[simp] theorem State.trace_replays (s : State) (kind code : Nat) (pc ta : Word) : (s.trace kind code pc ta).replays = s.replays := rfl
@[simp] theorem State.trace_sent (s : State) (kind code : Nat) (pc ta : Word) : (s.trace kind code pc ta).sent = s.sent := rfl
@[simp] theorem State.trace_requests (s : State) (kind code : Nat) (pc ta : Word) : (s.trace kind code pc ta).requests = s.requests := rfl
@[simp] theorem State.trace_replies (s : State) (kind code : Nat) (pc ta : Word) : (s.trace kind code pc ta).replies = s.replies := rfl
@[simp] theorem State.trace_made (s : State) (kind code : Nat) (pc ta : Word) : (s.trace kind code pc ta).made = s.made := rfl
@[simp] theorem State.trace_plat (s : State) (kind code : Nat) (pc ta : Word) : (s.trace kind code pc ta).plat = s.plat := rfl

/-! ### traceAt -/

@[simp] theorem State.traceAt_agenda (s : State) (t : Tid) (kind code : Nat) (pc ta : Word) : (s.traceAt t kind code pc ta).agenda = s.agenda := rfl
@[simp] theorem State.traceAt_todo (s : State) (t : Tid) (kind code : Nat) (pc ta : Word) : (s.traceAt t kind code pc ta).todo = s.todo := rfl
@[simp] theorem State.traceAt_timers (s : State) (t : Tid) (kind code : Nat) (pc ta : Word) : (s.traceAt t kind code pc ta).timers = s.timers := rfl
@[simp] theorem State.traceAt_urgent (s : State) (t : Tid) (kind code : Nat) (pc ta : Word) : (s.traceAt t kind code pc ta).urgent = s.urgent := rfl
@[simp] theorem State.traceAt_cur (s : State) (t : Tid) (kind code : Nat) (pc ta : Word) : (s.traceAt t kind code pc ta).cur = s.cur := rfl
@[simp] theorem State.traceAt_npc (s : State) (t : Tid) (kind code : Nat) (pc ta : Word) : (s.traceAt t kind code pc ta).npc = s.npc := rfl
@[simp] theorem State.traceAt_ir (s : State) (t : Tid) (kind code : Nat) (pc ta : Word) : (s.traceAt t kind code pc ta).ir = s.ir := rfl
@[simp] theorem State.traceAt_seq (s : State) (t : Tid) (kind code : Nat) (pc ta : Word) : (s.traceAt t kind code pc ta).seq = s.seq := rfl
@[simp] theorem State.traceAt_clock (s : State) (t : Tid) (kind code : Nat) (pc ta : Word) : (s.traceAt t kind code pc ta).clock = s.clock := rfl
@[simp] theorem State.traceAt_nextCore (s : State) (t : Tid) (kind code : Nat) (pc ta : Word) : (s.traceAt t kind code pc ta).nextCore = s.nextCore := rfl
@[simp] theorem State.traceAt_draws (s : State) (t : Tid) (kind code : Nat) (pc ta : Word) : (s.traceAt t kind code pc ta).draws = s.draws := rfl
@[simp] theorem State.traceAt_mem (s : State) (t : Tid) (kind code : Nat) (pc ta : Word) : (s.traceAt t kind code pc ta).mem = s.mem := rfl
@[simp] theorem State.traceAt_tags (s : State) (t : Tid) (kind code : Nat) (pc ta : Word) : (s.traceAt t kind code pc ta).tags = s.tags := rfl
@[simp] theorem State.traceAt_poison (s : State) (t : Tid) (kind code : Nat) (pc ta : Word) : (s.traceAt t kind code pc ta).poison = s.poison := rfl
@[simp] theorem State.traceAt_badTags (s : State) (t : Tid) (kind code : Nat) (pc ta : Word) : (s.traceAt t kind code pc ta).badTags = s.badTags := rfl
@[simp] theorem State.traceAt_badLines (s : State) (t : Tid) (kind code : Nat) (pc ta : Word) : (s.traceAt t kind code pc ta).badLines = s.badLines := rfl
@[simp] theorem State.traceAt_lineKeys (s : State) (t : Tid) (kind code : Nat) (pc ta : Word) : (s.traceAt t kind code pc ta).lineKeys = s.lineKeys := rfl
@[simp] theorem State.traceAt_counts (s : State) (t : Tid) (kind code : Nat) (pc ta : Word) : (s.traceAt t kind code pc ta).counts = s.counts := rfl
@[simp] theorem State.traceAt_badMsgs (s : State) (t : Tid) (kind code : Nat) (pc ta : Word) : (s.traceAt t kind code pc ta).badMsgs = s.badMsgs := rfl
@[simp] theorem State.traceAt_tears (s : State) (t : Tid) (kind code : Nat) (pc ta : Word) : (s.traceAt t kind code pc ta).tears = s.tears := rfl
@[simp] theorem State.traceAt_replaced (s : State) (t : Tid) (kind code : Nat) (pc ta : Word) : (s.traceAt t kind code pc ta).replaced = s.replaced := rfl
@[simp] theorem State.traceAt_flushes (s : State) (t : Tid) (kind code : Nat) (pc ta : Word) : (s.traceAt t kind code pc ta).flushes = s.flushes := rfl
@[simp] theorem State.traceAt_owed (s : State) (t : Tid) (kind code : Nat) (pc ta : Word) : (s.traceAt t kind code pc ta).owed = s.owed := rfl
@[simp] theorem State.traceAt_waiters (s : State) (t : Tid) (kind code : Nat) (pc ta : Word) : (s.traceAt t kind code pc ta).waiters = s.waiters := rfl
@[simp] theorem State.traceAt_tcaches (s : State) (t : Tid) (kind code : Nat) (pc ta : Word) : (s.traceAt t kind code pc ta).tcaches = s.tcaches := rfl
@[simp] theorem State.traceAt_iocaches (s : State) (t : Tid) (kind code : Nat) (pc ta : Word) : (s.traceAt t kind code pc ta).iocaches = s.iocaches := rfl
@[simp] theorem State.traceAt_walks (s : State) (t : Tid) (kind code : Nat) (pc ta : Word) : (s.traceAt t kind code pc ta).walks = s.walks := rfl
@[simp] theorem State.traceAt_faults (s : State) (t : Tid) (kind code : Nat) (pc ta : Word) : (s.traceAt t kind code pc ta).faults = s.faults := rfl
@[simp] theorem State.traceAt_refused (s : State) (t : Tid) (kind code : Nat) (pc ta : Word) : (s.traceAt t kind code pc ta).refused = s.refused := rfl
@[simp] theorem State.traceAt_chans (s : State) (t : Tid) (kind code : Nat) (pc ta : Word) : (s.traceAt t kind code pc ta).chans = s.chans := rfl
@[simp] theorem State.traceAt_pods (s : State) (t : Tid) (kind code : Nat) (pc ta : Word) : (s.traceAt t kind code pc ta).pods = s.pods := rfl
@[simp] theorem State.traceAt_podTable (s : State) (t : Tid) (kind code : Nat) (pc ta : Word) : (s.traceAt t kind code pc ta).podTable = s.podTable := rfl
@[simp] theorem State.traceAt_stops (s : State) (t : Tid) (kind code : Nat) (pc ta : Word) : (s.traceAt t kind code pc ta).stops = s.stops := rfl
@[simp] theorem State.traceAt_resumes (s : State) (t : Tid) (kind code : Nat) (pc ta : Word) : (s.traceAt t kind code pc ta).resumes = s.resumes := rfl
@[simp] theorem State.traceAt_dispCount (s : State) (t : Tid) (kind code : Nat) (pc ta : Word) : (s.traceAt t kind code pc ta).dispCount = s.dispCount := rfl
@[simp] theorem State.traceAt_queues (s : State) (t : Tid) (kind code : Nat) (pc ta : Word) : (s.traceAt t kind code pc ta).queues = s.queues := rfl
@[simp] theorem State.traceAt_lastSel (s : State) (t : Tid) (kind code : Nat) (pc ta : Word) : (s.traceAt t kind code pc ta).lastSel = s.lastSel := rfl
@[simp] theorem State.traceAt_launches (s : State) (t : Tid) (kind code : Nat) (pc ta : Word) : (s.traceAt t kind code pc ta).launches = s.launches := rfl
@[simp] theorem State.traceAt_gangs (s : State) (t : Tid) (kind code : Nat) (pc ta : Word) : (s.traceAt t kind code pc ta).gangs = s.gangs := rfl
@[simp] theorem State.traceAt_dumps (s : State) (t : Tid) (kind code : Nat) (pc ta : Word) : (s.traceAt t kind code pc ta).dumps = s.dumps := rfl
@[simp] theorem State.traceAt_dumpCount (s : State) (t : Tid) (kind code : Nat) (pc ta : Word) : (s.traceAt t kind code pc ta).dumpCount = s.dumpCount := rfl
@[simp] theorem State.traceAt_joins (s : State) (t : Tid) (kind code : Nat) (pc ta : Word) : (s.traceAt t kind code pc ta).joins = s.joins := rfl
@[simp] theorem State.traceAt_ssc (s : State) (t : Tid) (kind code : Nat) (pc ta : Word) : (s.traceAt t kind code pc ta).ssc = s.ssc := rfl
@[simp] theorem State.traceAt_fns (s : State) (t : Tid) (kind code : Nat) (pc ta : Word) : (s.traceAt t kind code pc ta).fns = s.fns := rfl
@[simp] theorem State.traceAt_replays (s : State) (t : Tid) (kind code : Nat) (pc ta : Word) : (s.traceAt t kind code pc ta).replays = s.replays := rfl
@[simp] theorem State.traceAt_sent (s : State) (t : Tid) (kind code : Nat) (pc ta : Word) : (s.traceAt t kind code pc ta).sent = s.sent := rfl
@[simp] theorem State.traceAt_requests (s : State) (t : Tid) (kind code : Nat) (pc ta : Word) : (s.traceAt t kind code pc ta).requests = s.requests := rfl
@[simp] theorem State.traceAt_replies (s : State) (t : Tid) (kind code : Nat) (pc ta : Word) : (s.traceAt t kind code pc ta).replies = s.replies := rfl
@[simp] theorem State.traceAt_made (s : State) (t : Tid) (kind code : Nat) (pc ta : Word) : (s.traceAt t kind code pc ta).made = s.made := rfl
@[simp] theorem State.traceAt_plat (s : State) (t : Tid) (kind code : Nat) (pc ta : Word) : (s.traceAt t kind code pc ta).plat = s.plat := rfl

/-! ### jump -/

@[simp] theorem State.jump_agenda (s : State) (pc : Word) : (s.jump pc).agenda = s.agenda := rfl
@[simp] theorem State.jump_todo (s : State) (pc : Word) : (s.jump pc).todo = s.todo := rfl
@[simp] theorem State.jump_timers (s : State) (pc : Word) : (s.jump pc).timers = s.timers := rfl
@[simp] theorem State.jump_urgent (s : State) (pc : Word) : (s.jump pc).urgent = s.urgent := rfl
@[simp] theorem State.jump_cur (s : State) (pc : Word) : (s.jump pc).cur = s.cur := rfl
@[simp] theorem State.jump_npc (s : State) (pc : Word) : (s.jump pc).npc = s.npc := rfl
@[simp] theorem State.jump_ir (s : State) (pc : Word) : (s.jump pc).ir = s.ir := rfl
@[simp] theorem State.jump_seq (s : State) (pc : Word) : (s.jump pc).seq = s.seq := rfl
@[simp] theorem State.jump_clock (s : State) (pc : Word) : (s.jump pc).clock = s.clock := rfl
@[simp] theorem State.jump_nextCore (s : State) (pc : Word) : (s.jump pc).nextCore = s.nextCore := rfl
@[simp] theorem State.jump_draws (s : State) (pc : Word) : (s.jump pc).draws = s.draws := rfl
@[simp] theorem State.jump_mem (s : State) (pc : Word) : (s.jump pc).mem = s.mem := rfl
@[simp] theorem State.jump_tags (s : State) (pc : Word) : (s.jump pc).tags = s.tags := rfl
@[simp] theorem State.jump_poison (s : State) (pc : Word) : (s.jump pc).poison = s.poison := rfl
@[simp] theorem State.jump_badTags (s : State) (pc : Word) : (s.jump pc).badTags = s.badTags := rfl
@[simp] theorem State.jump_badLines (s : State) (pc : Word) : (s.jump pc).badLines = s.badLines := rfl
@[simp] theorem State.jump_lineKeys (s : State) (pc : Word) : (s.jump pc).lineKeys = s.lineKeys := rfl
@[simp] theorem State.jump_counts (s : State) (pc : Word) : (s.jump pc).counts = s.counts := rfl
@[simp] theorem State.jump_badMsgs (s : State) (pc : Word) : (s.jump pc).badMsgs = s.badMsgs := rfl
@[simp] theorem State.jump_tears (s : State) (pc : Word) : (s.jump pc).tears = s.tears := rfl
@[simp] theorem State.jump_replaced (s : State) (pc : Word) : (s.jump pc).replaced = s.replaced := rfl
@[simp] theorem State.jump_flushes (s : State) (pc : Word) : (s.jump pc).flushes = s.flushes := rfl
@[simp] theorem State.jump_owed (s : State) (pc : Word) : (s.jump pc).owed = s.owed := rfl
@[simp] theorem State.jump_waiters (s : State) (pc : Word) : (s.jump pc).waiters = s.waiters := rfl
@[simp] theorem State.jump_tcaches (s : State) (pc : Word) : (s.jump pc).tcaches = s.tcaches := rfl
@[simp] theorem State.jump_iocaches (s : State) (pc : Word) : (s.jump pc).iocaches = s.iocaches := rfl
@[simp] theorem State.jump_walks (s : State) (pc : Word) : (s.jump pc).walks = s.walks := rfl
@[simp] theorem State.jump_faults (s : State) (pc : Word) : (s.jump pc).faults = s.faults := rfl
@[simp] theorem State.jump_refused (s : State) (pc : Word) : (s.jump pc).refused = s.refused := rfl
@[simp] theorem State.jump_chans (s : State) (pc : Word) : (s.jump pc).chans = s.chans := rfl
@[simp] theorem State.jump_pods (s : State) (pc : Word) : (s.jump pc).pods = s.pods := rfl
@[simp] theorem State.jump_podTable (s : State) (pc : Word) : (s.jump pc).podTable = s.podTable := rfl
@[simp] theorem State.jump_stops (s : State) (pc : Word) : (s.jump pc).stops = s.stops := rfl
@[simp] theorem State.jump_resumes (s : State) (pc : Word) : (s.jump pc).resumes = s.resumes := rfl
@[simp] theorem State.jump_dispCount (s : State) (pc : Word) : (s.jump pc).dispCount = s.dispCount := rfl
@[simp] theorem State.jump_queues (s : State) (pc : Word) : (s.jump pc).queues = s.queues := rfl
@[simp] theorem State.jump_lastSel (s : State) (pc : Word) : (s.jump pc).lastSel = s.lastSel := rfl
@[simp] theorem State.jump_launches (s : State) (pc : Word) : (s.jump pc).launches = s.launches := rfl
@[simp] theorem State.jump_gangs (s : State) (pc : Word) : (s.jump pc).gangs = s.gangs := rfl
@[simp] theorem State.jump_dumps (s : State) (pc : Word) : (s.jump pc).dumps = s.dumps := rfl
@[simp] theorem State.jump_dumpCount (s : State) (pc : Word) : (s.jump pc).dumpCount = s.dumpCount := rfl
@[simp] theorem State.jump_joins (s : State) (pc : Word) : (s.jump pc).joins = s.joins := rfl
@[simp] theorem State.jump_ssc (s : State) (pc : Word) : (s.jump pc).ssc = s.ssc := rfl
@[simp] theorem State.jump_fns (s : State) (pc : Word) : (s.jump pc).fns = s.fns := rfl
@[simp] theorem State.jump_replays (s : State) (pc : Word) : (s.jump pc).replays = s.replays := rfl
@[simp] theorem State.jump_sent (s : State) (pc : Word) : (s.jump pc).sent = s.sent := rfl
@[simp] theorem State.jump_requests (s : State) (pc : Word) : (s.jump pc).requests = s.requests := rfl
@[simp] theorem State.jump_replies (s : State) (pc : Word) : (s.jump pc).replies = s.replies := rfl
@[simp] theorem State.jump_made (s : State) (pc : Word) : (s.jump pc).made = s.made := rfl
@[simp] theorem State.jump_plat (s : State) (pc : Word) : (s.jump pc).plat = s.plat := rfl

/-! ### orFlags -/

@[simp] theorem State.orFlags_agenda (s : State) (fl : Flags) : (s.orFlags fl).agenda = s.agenda := rfl
@[simp] theorem State.orFlags_todo (s : State) (fl : Flags) : (s.orFlags fl).todo = s.todo := rfl
@[simp] theorem State.orFlags_timers (s : State) (fl : Flags) : (s.orFlags fl).timers = s.timers := rfl
@[simp] theorem State.orFlags_urgent (s : State) (fl : Flags) : (s.orFlags fl).urgent = s.urgent := rfl
@[simp] theorem State.orFlags_cur (s : State) (fl : Flags) : (s.orFlags fl).cur = s.cur := rfl
@[simp] theorem State.orFlags_npc (s : State) (fl : Flags) : (s.orFlags fl).npc = s.npc := rfl
@[simp] theorem State.orFlags_ir (s : State) (fl : Flags) : (s.orFlags fl).ir = s.ir := rfl
@[simp] theorem State.orFlags_seq (s : State) (fl : Flags) : (s.orFlags fl).seq = s.seq := rfl
@[simp] theorem State.orFlags_clock (s : State) (fl : Flags) : (s.orFlags fl).clock = s.clock := rfl
@[simp] theorem State.orFlags_nextCore (s : State) (fl : Flags) : (s.orFlags fl).nextCore = s.nextCore := rfl
@[simp] theorem State.orFlags_draws (s : State) (fl : Flags) : (s.orFlags fl).draws = s.draws := rfl
@[simp] theorem State.orFlags_mem (s : State) (fl : Flags) : (s.orFlags fl).mem = s.mem := rfl
@[simp] theorem State.orFlags_tags (s : State) (fl : Flags) : (s.orFlags fl).tags = s.tags := rfl
@[simp] theorem State.orFlags_poison (s : State) (fl : Flags) : (s.orFlags fl).poison = s.poison := rfl
@[simp] theorem State.orFlags_badTags (s : State) (fl : Flags) : (s.orFlags fl).badTags = s.badTags := rfl
@[simp] theorem State.orFlags_badLines (s : State) (fl : Flags) : (s.orFlags fl).badLines = s.badLines := rfl
@[simp] theorem State.orFlags_lineKeys (s : State) (fl : Flags) : (s.orFlags fl).lineKeys = s.lineKeys := rfl
@[simp] theorem State.orFlags_counts (s : State) (fl : Flags) : (s.orFlags fl).counts = s.counts := rfl
@[simp] theorem State.orFlags_badMsgs (s : State) (fl : Flags) : (s.orFlags fl).badMsgs = s.badMsgs := rfl
@[simp] theorem State.orFlags_tears (s : State) (fl : Flags) : (s.orFlags fl).tears = s.tears := rfl
@[simp] theorem State.orFlags_replaced (s : State) (fl : Flags) : (s.orFlags fl).replaced = s.replaced := rfl
@[simp] theorem State.orFlags_flushes (s : State) (fl : Flags) : (s.orFlags fl).flushes = s.flushes := rfl
@[simp] theorem State.orFlags_owed (s : State) (fl : Flags) : (s.orFlags fl).owed = s.owed := rfl
@[simp] theorem State.orFlags_waiters (s : State) (fl : Flags) : (s.orFlags fl).waiters = s.waiters := rfl
@[simp] theorem State.orFlags_tcaches (s : State) (fl : Flags) : (s.orFlags fl).tcaches = s.tcaches := rfl
@[simp] theorem State.orFlags_iocaches (s : State) (fl : Flags) : (s.orFlags fl).iocaches = s.iocaches := rfl
@[simp] theorem State.orFlags_walks (s : State) (fl : Flags) : (s.orFlags fl).walks = s.walks := rfl
@[simp] theorem State.orFlags_faults (s : State) (fl : Flags) : (s.orFlags fl).faults = s.faults := rfl
@[simp] theorem State.orFlags_refused (s : State) (fl : Flags) : (s.orFlags fl).refused = s.refused := rfl
@[simp] theorem State.orFlags_chans (s : State) (fl : Flags) : (s.orFlags fl).chans = s.chans := rfl
@[simp] theorem State.orFlags_pods (s : State) (fl : Flags) : (s.orFlags fl).pods = s.pods := rfl
@[simp] theorem State.orFlags_podTable (s : State) (fl : Flags) : (s.orFlags fl).podTable = s.podTable := rfl
@[simp] theorem State.orFlags_stops (s : State) (fl : Flags) : (s.orFlags fl).stops = s.stops := rfl
@[simp] theorem State.orFlags_resumes (s : State) (fl : Flags) : (s.orFlags fl).resumes = s.resumes := rfl
@[simp] theorem State.orFlags_dispCount (s : State) (fl : Flags) : (s.orFlags fl).dispCount = s.dispCount := rfl
@[simp] theorem State.orFlags_queues (s : State) (fl : Flags) : (s.orFlags fl).queues = s.queues := rfl
@[simp] theorem State.orFlags_lastSel (s : State) (fl : Flags) : (s.orFlags fl).lastSel = s.lastSel := rfl
@[simp] theorem State.orFlags_launches (s : State) (fl : Flags) : (s.orFlags fl).launches = s.launches := rfl
@[simp] theorem State.orFlags_gangs (s : State) (fl : Flags) : (s.orFlags fl).gangs = s.gangs := rfl
@[simp] theorem State.orFlags_dumps (s : State) (fl : Flags) : (s.orFlags fl).dumps = s.dumps := rfl
@[simp] theorem State.orFlags_dumpCount (s : State) (fl : Flags) : (s.orFlags fl).dumpCount = s.dumpCount := rfl
@[simp] theorem State.orFlags_joins (s : State) (fl : Flags) : (s.orFlags fl).joins = s.joins := rfl
@[simp] theorem State.orFlags_ssc (s : State) (fl : Flags) : (s.orFlags fl).ssc = s.ssc := rfl
@[simp] theorem State.orFlags_fns (s : State) (fl : Flags) : (s.orFlags fl).fns = s.fns := rfl
@[simp] theorem State.orFlags_replays (s : State) (fl : Flags) : (s.orFlags fl).replays = s.replays := rfl
@[simp] theorem State.orFlags_sent (s : State) (fl : Flags) : (s.orFlags fl).sent = s.sent := rfl
@[simp] theorem State.orFlags_requests (s : State) (fl : Flags) : (s.orFlags fl).requests = s.requests := rfl
@[simp] theorem State.orFlags_replies (s : State) (fl : Flags) : (s.orFlags fl).replies = s.replies := rfl
@[simp] theorem State.orFlags_made (s : State) (fl : Flags) : (s.orFlags fl).made = s.made := rfl
@[simp] theorem State.orFlags_plat (s : State) (fl : Flags) : (s.orFlags fl).plat = s.plat := rfl

/-! ### park -/

@[simp] theorem State.park_agenda (s : State) (w : Await) : (s.park w).agenda = s.agenda := rfl
@[simp] theorem State.park_todo (s : State) (w : Await) : (s.park w).todo = s.todo := rfl
@[simp] theorem State.park_timers (s : State) (w : Await) : (s.park w).timers = s.timers := rfl
@[simp] theorem State.park_urgent (s : State) (w : Await) : (s.park w).urgent = s.urgent := rfl
@[simp] theorem State.park_cur (s : State) (w : Await) : (s.park w).cur = s.cur := rfl
@[simp] theorem State.park_npc (s : State) (w : Await) : (s.park w).npc = s.npc := rfl
@[simp] theorem State.park_ir (s : State) (w : Await) : (s.park w).ir = s.ir := rfl
@[simp] theorem State.park_clock (s : State) (w : Await) : (s.park w).clock = s.clock := rfl
@[simp] theorem State.park_nextCore (s : State) (w : Await) : (s.park w).nextCore = s.nextCore := rfl
@[simp] theorem State.park_draws (s : State) (w : Await) : (s.park w).draws = s.draws := rfl
@[simp] theorem State.park_mem (s : State) (w : Await) : (s.park w).mem = s.mem := rfl
@[simp] theorem State.park_tags (s : State) (w : Await) : (s.park w).tags = s.tags := rfl
@[simp] theorem State.park_poison (s : State) (w : Await) : (s.park w).poison = s.poison := rfl
@[simp] theorem State.park_badTags (s : State) (w : Await) : (s.park w).badTags = s.badTags := rfl
@[simp] theorem State.park_badLines (s : State) (w : Await) : (s.park w).badLines = s.badLines := rfl
@[simp] theorem State.park_lineKeys (s : State) (w : Await) : (s.park w).lineKeys = s.lineKeys := rfl
@[simp] theorem State.park_counts (s : State) (w : Await) : (s.park w).counts = s.counts := rfl
@[simp] theorem State.park_badMsgs (s : State) (w : Await) : (s.park w).badMsgs = s.badMsgs := rfl
@[simp] theorem State.park_tears (s : State) (w : Await) : (s.park w).tears = s.tears := rfl
@[simp] theorem State.park_replaced (s : State) (w : Await) : (s.park w).replaced = s.replaced := rfl
@[simp] theorem State.park_flushes (s : State) (w : Await) : (s.park w).flushes = s.flushes := rfl
@[simp] theorem State.park_owed (s : State) (w : Await) : (s.park w).owed = s.owed := rfl
@[simp] theorem State.park_waiters (s : State) (w : Await) : (s.park w).waiters = s.waiters := rfl
@[simp] theorem State.park_tcaches (s : State) (w : Await) : (s.park w).tcaches = s.tcaches := rfl
@[simp] theorem State.park_iocaches (s : State) (w : Await) : (s.park w).iocaches = s.iocaches := rfl
@[simp] theorem State.park_walks (s : State) (w : Await) : (s.park w).walks = s.walks := rfl
@[simp] theorem State.park_faults (s : State) (w : Await) : (s.park w).faults = s.faults := rfl
@[simp] theorem State.park_refused (s : State) (w : Await) : (s.park w).refused = s.refused := rfl
@[simp] theorem State.park_chans (s : State) (w : Await) : (s.park w).chans = s.chans := rfl
@[simp] theorem State.park_pods (s : State) (w : Await) : (s.park w).pods = s.pods := rfl
@[simp] theorem State.park_podTable (s : State) (w : Await) : (s.park w).podTable = s.podTable := rfl
@[simp] theorem State.park_stops (s : State) (w : Await) : (s.park w).stops = s.stops := rfl
@[simp] theorem State.park_resumes (s : State) (w : Await) : (s.park w).resumes = s.resumes := rfl
@[simp] theorem State.park_dispCount (s : State) (w : Await) : (s.park w).dispCount = s.dispCount := rfl
@[simp] theorem State.park_queues (s : State) (w : Await) : (s.park w).queues = s.queues := rfl
@[simp] theorem State.park_lastSel (s : State) (w : Await) : (s.park w).lastSel = s.lastSel := rfl
@[simp] theorem State.park_launches (s : State) (w : Await) : (s.park w).launches = s.launches := rfl
@[simp] theorem State.park_gangs (s : State) (w : Await) : (s.park w).gangs = s.gangs := rfl
@[simp] theorem State.park_dumps (s : State) (w : Await) : (s.park w).dumps = s.dumps := rfl
@[simp] theorem State.park_dumpCount (s : State) (w : Await) : (s.park w).dumpCount = s.dumpCount := rfl
@[simp] theorem State.park_joins (s : State) (w : Await) : (s.park w).joins = s.joins := rfl
@[simp] theorem State.park_ssc (s : State) (w : Await) : (s.park w).ssc = s.ssc := rfl
@[simp] theorem State.park_fns (s : State) (w : Await) : (s.park w).fns = s.fns := rfl
@[simp] theorem State.park_replays (s : State) (w : Await) : (s.park w).replays = s.replays := rfl
@[simp] theorem State.park_sent (s : State) (w : Await) : (s.park w).sent = s.sent := rfl
@[simp] theorem State.park_requests (s : State) (w : Await) : (s.park w).requests = s.requests := rfl
@[simp] theorem State.park_replies (s : State) (w : Await) : (s.park w).replies = s.replies := rfl
@[simp] theorem State.park_made (s : State) (w : Await) : (s.park w).made = s.made := rfl
@[simp] theorem State.park_plat (s : State) (w : Await) : (s.park w).plat = s.plat := rfl

/-! ### post -/

@[simp] theorem State.post_agenda (s : State) (e : Event) : (s.post e).agenda = s.agenda := by unfold State.post; split <;> rfl
@[simp] theorem State.post_timers (s : State) (e : Event) : (s.post e).timers = s.timers := by unfold State.post; split <;> rfl
@[simp] theorem State.post_urgent (s : State) (e : Event) : (s.post e).urgent = s.urgent := by unfold State.post; split <;> rfl
@[simp] theorem State.post_cur (s : State) (e : Event) : (s.post e).cur = s.cur := by unfold State.post; split <;> rfl
@[simp] theorem State.post_npc (s : State) (e : Event) : (s.post e).npc = s.npc := by unfold State.post; split <;> rfl
@[simp] theorem State.post_ir (s : State) (e : Event) : (s.post e).ir = s.ir := by unfold State.post; split <;> rfl
@[simp] theorem State.post_seq (s : State) (e : Event) : (s.post e).seq = s.seq := by unfold State.post; split <;> rfl
@[simp] theorem State.post_clock (s : State) (e : Event) : (s.post e).clock = s.clock := by unfold State.post; split <;> rfl
@[simp] theorem State.post_nextCore (s : State) (e : Event) : (s.post e).nextCore = s.nextCore := by unfold State.post; split <;> rfl
@[simp] theorem State.post_draws (s : State) (e : Event) : (s.post e).draws = s.draws := by unfold State.post; split <;> rfl
@[simp] theorem State.post_mem (s : State) (e : Event) : (s.post e).mem = s.mem := by unfold State.post; split <;> rfl
@[simp] theorem State.post_tags (s : State) (e : Event) : (s.post e).tags = s.tags := by unfold State.post; split <;> rfl
@[simp] theorem State.post_poison (s : State) (e : Event) : (s.post e).poison = s.poison := by unfold State.post; split <;> rfl
@[simp] theorem State.post_badTags (s : State) (e : Event) : (s.post e).badTags = s.badTags := by unfold State.post; split <;> rfl
@[simp] theorem State.post_badLines (s : State) (e : Event) : (s.post e).badLines = s.badLines := by unfold State.post; split <;> rfl
@[simp] theorem State.post_lineKeys (s : State) (e : Event) : (s.post e).lineKeys = s.lineKeys := by unfold State.post; split <;> rfl
@[simp] theorem State.post_counts (s : State) (e : Event) : (s.post e).counts = s.counts := by unfold State.post; split <;> rfl
@[simp] theorem State.post_badMsgs (s : State) (e : Event) : (s.post e).badMsgs = s.badMsgs := by unfold State.post; split <;> rfl
@[simp] theorem State.post_tears (s : State) (e : Event) : (s.post e).tears = s.tears := by unfold State.post; split <;> rfl
@[simp] theorem State.post_replaced (s : State) (e : Event) : (s.post e).replaced = s.replaced := by unfold State.post; split <;> rfl
@[simp] theorem State.post_flushes (s : State) (e : Event) : (s.post e).flushes = s.flushes := by unfold State.post; split <;> rfl
@[simp] theorem State.post_owed (s : State) (e : Event) : (s.post e).owed = s.owed := by unfold State.post; split <;> rfl
@[simp] theorem State.post_cores (s : State) (e : Event) : (s.post e).cores = s.cores := by unfold State.post; split <;> rfl
@[simp] theorem State.post_waiters (s : State) (e : Event) : (s.post e).waiters = s.waiters := by unfold State.post; split <;> rfl
@[simp] theorem State.post_tcaches (s : State) (e : Event) : (s.post e).tcaches = s.tcaches := by unfold State.post; split <;> rfl
@[simp] theorem State.post_iocaches (s : State) (e : Event) : (s.post e).iocaches = s.iocaches := by unfold State.post; split <;> rfl
@[simp] theorem State.post_walks (s : State) (e : Event) : (s.post e).walks = s.walks := by unfold State.post; split <;> rfl
@[simp] theorem State.post_faults (s : State) (e : Event) : (s.post e).faults = s.faults := by unfold State.post; split <;> rfl
@[simp] theorem State.post_refused (s : State) (e : Event) : (s.post e).refused = s.refused := by unfold State.post; split <;> rfl
@[simp] theorem State.post_chans (s : State) (e : Event) : (s.post e).chans = s.chans := by unfold State.post; split <;> rfl
@[simp] theorem State.post_pods (s : State) (e : Event) : (s.post e).pods = s.pods := by unfold State.post; split <;> rfl
@[simp] theorem State.post_podTable (s : State) (e : Event) : (s.post e).podTable = s.podTable := by unfold State.post; split <;> rfl
@[simp] theorem State.post_stops (s : State) (e : Event) : (s.post e).stops = s.stops := by unfold State.post; split <;> rfl
@[simp] theorem State.post_resumes (s : State) (e : Event) : (s.post e).resumes = s.resumes := by unfold State.post; split <;> rfl
@[simp] theorem State.post_dispCount (s : State) (e : Event) : (s.post e).dispCount = s.dispCount := by unfold State.post; split <;> rfl
@[simp] theorem State.post_queues (s : State) (e : Event) : (s.post e).queues = s.queues := by unfold State.post; split <;> rfl
@[simp] theorem State.post_lastSel (s : State) (e : Event) : (s.post e).lastSel = s.lastSel := by unfold State.post; split <;> rfl
@[simp] theorem State.post_launches (s : State) (e : Event) : (s.post e).launches = s.launches := by unfold State.post; split <;> rfl
@[simp] theorem State.post_gangs (s : State) (e : Event) : (s.post e).gangs = s.gangs := by unfold State.post; split <;> rfl
@[simp] theorem State.post_dumps (s : State) (e : Event) : (s.post e).dumps = s.dumps := by unfold State.post; split <;> rfl
@[simp] theorem State.post_dumpCount (s : State) (e : Event) : (s.post e).dumpCount = s.dumpCount := by unfold State.post; split <;> rfl
@[simp] theorem State.post_joins (s : State) (e : Event) : (s.post e).joins = s.joins := by unfold State.post; split <;> rfl
@[simp] theorem State.post_ssc (s : State) (e : Event) : (s.post e).ssc = s.ssc := by unfold State.post; split <;> rfl
@[simp] theorem State.post_fns (s : State) (e : Event) : (s.post e).fns = s.fns := by unfold State.post; split <;> rfl
@[simp] theorem State.post_replays (s : State) (e : Event) : (s.post e).replays = s.replays := by unfold State.post; split <;> rfl
@[simp] theorem State.post_sent (s : State) (e : Event) : (s.post e).sent = s.sent := by unfold State.post; split <;> rfl
@[simp] theorem State.post_requests (s : State) (e : Event) : (s.post e).requests = s.requests := by unfold State.post; split <;> rfl
@[simp] theorem State.post_replies (s : State) (e : Event) : (s.post e).replies = s.replies := by unfold State.post; split <;> rfl
@[simp] theorem State.post_made (s : State) (e : Event) : (s.post e).made = s.made := by unfold State.post; split <;> rfl
@[simp] theorem State.post_plat (s : State) (e : Event) : (s.post e).plat = s.plat := by unfold State.post; split <;> rfl

/-! ### timer -/

@[simp] theorem State.timer_agenda (s : State) (unit at_ : Nat) (e : Event) : (s.timer unit at_ e).agenda = s.agenda := rfl
@[simp] theorem State.timer_todo (s : State) (unit at_ : Nat) (e : Event) : (s.timer unit at_ e).todo = s.todo := rfl
@[simp] theorem State.timer_urgent (s : State) (unit at_ : Nat) (e : Event) : (s.timer unit at_ e).urgent = s.urgent := rfl
@[simp] theorem State.timer_cur (s : State) (unit at_ : Nat) (e : Event) : (s.timer unit at_ e).cur = s.cur := rfl
@[simp] theorem State.timer_npc (s : State) (unit at_ : Nat) (e : Event) : (s.timer unit at_ e).npc = s.npc := rfl
@[simp] theorem State.timer_ir (s : State) (unit at_ : Nat) (e : Event) : (s.timer unit at_ e).ir = s.ir := rfl
@[simp] theorem State.timer_seq (s : State) (unit at_ : Nat) (e : Event) : (s.timer unit at_ e).seq = s.seq := rfl
@[simp] theorem State.timer_clock (s : State) (unit at_ : Nat) (e : Event) : (s.timer unit at_ e).clock = s.clock := rfl
@[simp] theorem State.timer_nextCore (s : State) (unit at_ : Nat) (e : Event) : (s.timer unit at_ e).nextCore = s.nextCore := rfl
@[simp] theorem State.timer_draws (s : State) (unit at_ : Nat) (e : Event) : (s.timer unit at_ e).draws = s.draws := rfl
@[simp] theorem State.timer_mem (s : State) (unit at_ : Nat) (e : Event) : (s.timer unit at_ e).mem = s.mem := rfl
@[simp] theorem State.timer_tags (s : State) (unit at_ : Nat) (e : Event) : (s.timer unit at_ e).tags = s.tags := rfl
@[simp] theorem State.timer_poison (s : State) (unit at_ : Nat) (e : Event) : (s.timer unit at_ e).poison = s.poison := rfl
@[simp] theorem State.timer_badTags (s : State) (unit at_ : Nat) (e : Event) : (s.timer unit at_ e).badTags = s.badTags := rfl
@[simp] theorem State.timer_badLines (s : State) (unit at_ : Nat) (e : Event) : (s.timer unit at_ e).badLines = s.badLines := rfl
@[simp] theorem State.timer_lineKeys (s : State) (unit at_ : Nat) (e : Event) : (s.timer unit at_ e).lineKeys = s.lineKeys := rfl
@[simp] theorem State.timer_counts (s : State) (unit at_ : Nat) (e : Event) : (s.timer unit at_ e).counts = s.counts := rfl
@[simp] theorem State.timer_badMsgs (s : State) (unit at_ : Nat) (e : Event) : (s.timer unit at_ e).badMsgs = s.badMsgs := rfl
@[simp] theorem State.timer_tears (s : State) (unit at_ : Nat) (e : Event) : (s.timer unit at_ e).tears = s.tears := rfl
@[simp] theorem State.timer_replaced (s : State) (unit at_ : Nat) (e : Event) : (s.timer unit at_ e).replaced = s.replaced := rfl
@[simp] theorem State.timer_flushes (s : State) (unit at_ : Nat) (e : Event) : (s.timer unit at_ e).flushes = s.flushes := rfl
@[simp] theorem State.timer_owed (s : State) (unit at_ : Nat) (e : Event) : (s.timer unit at_ e).owed = s.owed := rfl
@[simp] theorem State.timer_cores (s : State) (unit at_ : Nat) (e : Event) : (s.timer unit at_ e).cores = s.cores := rfl
@[simp] theorem State.timer_waiters (s : State) (unit at_ : Nat) (e : Event) : (s.timer unit at_ e).waiters = s.waiters := rfl
@[simp] theorem State.timer_tcaches (s : State) (unit at_ : Nat) (e : Event) : (s.timer unit at_ e).tcaches = s.tcaches := rfl
@[simp] theorem State.timer_iocaches (s : State) (unit at_ : Nat) (e : Event) : (s.timer unit at_ e).iocaches = s.iocaches := rfl
@[simp] theorem State.timer_walks (s : State) (unit at_ : Nat) (e : Event) : (s.timer unit at_ e).walks = s.walks := rfl
@[simp] theorem State.timer_faults (s : State) (unit at_ : Nat) (e : Event) : (s.timer unit at_ e).faults = s.faults := rfl
@[simp] theorem State.timer_refused (s : State) (unit at_ : Nat) (e : Event) : (s.timer unit at_ e).refused = s.refused := rfl
@[simp] theorem State.timer_chans (s : State) (unit at_ : Nat) (e : Event) : (s.timer unit at_ e).chans = s.chans := rfl
@[simp] theorem State.timer_pods (s : State) (unit at_ : Nat) (e : Event) : (s.timer unit at_ e).pods = s.pods := rfl
@[simp] theorem State.timer_podTable (s : State) (unit at_ : Nat) (e : Event) : (s.timer unit at_ e).podTable = s.podTable := rfl
@[simp] theorem State.timer_stops (s : State) (unit at_ : Nat) (e : Event) : (s.timer unit at_ e).stops = s.stops := rfl
@[simp] theorem State.timer_resumes (s : State) (unit at_ : Nat) (e : Event) : (s.timer unit at_ e).resumes = s.resumes := rfl
@[simp] theorem State.timer_dispCount (s : State) (unit at_ : Nat) (e : Event) : (s.timer unit at_ e).dispCount = s.dispCount := rfl
@[simp] theorem State.timer_queues (s : State) (unit at_ : Nat) (e : Event) : (s.timer unit at_ e).queues = s.queues := rfl
@[simp] theorem State.timer_lastSel (s : State) (unit at_ : Nat) (e : Event) : (s.timer unit at_ e).lastSel = s.lastSel := rfl
@[simp] theorem State.timer_launches (s : State) (unit at_ : Nat) (e : Event) : (s.timer unit at_ e).launches = s.launches := rfl
@[simp] theorem State.timer_gangs (s : State) (unit at_ : Nat) (e : Event) : (s.timer unit at_ e).gangs = s.gangs := rfl
@[simp] theorem State.timer_dumps (s : State) (unit at_ : Nat) (e : Event) : (s.timer unit at_ e).dumps = s.dumps := rfl
@[simp] theorem State.timer_dumpCount (s : State) (unit at_ : Nat) (e : Event) : (s.timer unit at_ e).dumpCount = s.dumpCount := rfl
@[simp] theorem State.timer_joins (s : State) (unit at_ : Nat) (e : Event) : (s.timer unit at_ e).joins = s.joins := rfl
@[simp] theorem State.timer_ssc (s : State) (unit at_ : Nat) (e : Event) : (s.timer unit at_ e).ssc = s.ssc := rfl
@[simp] theorem State.timer_fns (s : State) (unit at_ : Nat) (e : Event) : (s.timer unit at_ e).fns = s.fns := rfl
@[simp] theorem State.timer_replays (s : State) (unit at_ : Nat) (e : Event) : (s.timer unit at_ e).replays = s.replays := rfl
@[simp] theorem State.timer_sent (s : State) (unit at_ : Nat) (e : Event) : (s.timer unit at_ e).sent = s.sent := rfl
@[simp] theorem State.timer_requests (s : State) (unit at_ : Nat) (e : Event) : (s.timer unit at_ e).requests = s.requests := rfl
@[simp] theorem State.timer_replies (s : State) (unit at_ : Nat) (e : Event) : (s.timer unit at_ e).replies = s.replies := rfl
@[simp] theorem State.timer_made (s : State) (unit at_ : Nat) (e : Event) : (s.timer unit at_ e).made = s.made := rfl
@[simp] theorem State.timer_plat (s : State) (unit at_ : Nat) (e : Event) : (s.timer unit at_ e).plat = s.plat := rfl

/-! ### setGang -/

@[simp] theorem State.setGang_agenda (s : State) (g : Gang) : (s.setGang g).agenda = s.agenda := rfl
@[simp] theorem State.setGang_todo (s : State) (g : Gang) : (s.setGang g).todo = s.todo := rfl
@[simp] theorem State.setGang_timers (s : State) (g : Gang) : (s.setGang g).timers = s.timers := rfl
@[simp] theorem State.setGang_urgent (s : State) (g : Gang) : (s.setGang g).urgent = s.urgent := rfl
@[simp] theorem State.setGang_cur (s : State) (g : Gang) : (s.setGang g).cur = s.cur := rfl
@[simp] theorem State.setGang_npc (s : State) (g : Gang) : (s.setGang g).npc = s.npc := rfl
@[simp] theorem State.setGang_ir (s : State) (g : Gang) : (s.setGang g).ir = s.ir := rfl
@[simp] theorem State.setGang_seq (s : State) (g : Gang) : (s.setGang g).seq = s.seq := rfl
@[simp] theorem State.setGang_clock (s : State) (g : Gang) : (s.setGang g).clock = s.clock := rfl
@[simp] theorem State.setGang_nextCore (s : State) (g : Gang) : (s.setGang g).nextCore = s.nextCore := rfl
@[simp] theorem State.setGang_draws (s : State) (g : Gang) : (s.setGang g).draws = s.draws := rfl
@[simp] theorem State.setGang_mem (s : State) (g : Gang) : (s.setGang g).mem = s.mem := rfl
@[simp] theorem State.setGang_tags (s : State) (g : Gang) : (s.setGang g).tags = s.tags := rfl
@[simp] theorem State.setGang_poison (s : State) (g : Gang) : (s.setGang g).poison = s.poison := rfl
@[simp] theorem State.setGang_badTags (s : State) (g : Gang) : (s.setGang g).badTags = s.badTags := rfl
@[simp] theorem State.setGang_badLines (s : State) (g : Gang) : (s.setGang g).badLines = s.badLines := rfl
@[simp] theorem State.setGang_lineKeys (s : State) (g : Gang) : (s.setGang g).lineKeys = s.lineKeys := rfl
@[simp] theorem State.setGang_counts (s : State) (g : Gang) : (s.setGang g).counts = s.counts := rfl
@[simp] theorem State.setGang_badMsgs (s : State) (g : Gang) : (s.setGang g).badMsgs = s.badMsgs := rfl
@[simp] theorem State.setGang_tears (s : State) (g : Gang) : (s.setGang g).tears = s.tears := rfl
@[simp] theorem State.setGang_replaced (s : State) (g : Gang) : (s.setGang g).replaced = s.replaced := rfl
@[simp] theorem State.setGang_flushes (s : State) (g : Gang) : (s.setGang g).flushes = s.flushes := rfl
@[simp] theorem State.setGang_owed (s : State) (g : Gang) : (s.setGang g).owed = s.owed := rfl
@[simp] theorem State.setGang_cores (s : State) (g : Gang) : (s.setGang g).cores = s.cores := rfl
@[simp] theorem State.setGang_waiters (s : State) (g : Gang) : (s.setGang g).waiters = s.waiters := rfl
@[simp] theorem State.setGang_tcaches (s : State) (g : Gang) : (s.setGang g).tcaches = s.tcaches := rfl
@[simp] theorem State.setGang_iocaches (s : State) (g : Gang) : (s.setGang g).iocaches = s.iocaches := rfl
@[simp] theorem State.setGang_walks (s : State) (g : Gang) : (s.setGang g).walks = s.walks := rfl
@[simp] theorem State.setGang_faults (s : State) (g : Gang) : (s.setGang g).faults = s.faults := rfl
@[simp] theorem State.setGang_refused (s : State) (g : Gang) : (s.setGang g).refused = s.refused := rfl
@[simp] theorem State.setGang_chans (s : State) (g : Gang) : (s.setGang g).chans = s.chans := rfl
@[simp] theorem State.setGang_pods (s : State) (g : Gang) : (s.setGang g).pods = s.pods := rfl
@[simp] theorem State.setGang_podTable (s : State) (g : Gang) : (s.setGang g).podTable = s.podTable := rfl
@[simp] theorem State.setGang_stops (s : State) (g : Gang) : (s.setGang g).stops = s.stops := rfl
@[simp] theorem State.setGang_resumes (s : State) (g : Gang) : (s.setGang g).resumes = s.resumes := rfl
@[simp] theorem State.setGang_dispCount (s : State) (g : Gang) : (s.setGang g).dispCount = s.dispCount := rfl
@[simp] theorem State.setGang_queues (s : State) (g : Gang) : (s.setGang g).queues = s.queues := rfl
@[simp] theorem State.setGang_lastSel (s : State) (g : Gang) : (s.setGang g).lastSel = s.lastSel := rfl
@[simp] theorem State.setGang_launches (s : State) (g : Gang) : (s.setGang g).launches = s.launches := rfl
@[simp] theorem State.setGang_dumps (s : State) (g : Gang) : (s.setGang g).dumps = s.dumps := rfl
@[simp] theorem State.setGang_dumpCount (s : State) (g : Gang) : (s.setGang g).dumpCount = s.dumpCount := rfl
@[simp] theorem State.setGang_joins (s : State) (g : Gang) : (s.setGang g).joins = s.joins := rfl
@[simp] theorem State.setGang_ssc (s : State) (g : Gang) : (s.setGang g).ssc = s.ssc := rfl
@[simp] theorem State.setGang_fns (s : State) (g : Gang) : (s.setGang g).fns = s.fns := rfl
@[simp] theorem State.setGang_replays (s : State) (g : Gang) : (s.setGang g).replays = s.replays := rfl
@[simp] theorem State.setGang_sent (s : State) (g : Gang) : (s.setGang g).sent = s.sent := rfl
@[simp] theorem State.setGang_requests (s : State) (g : Gang) : (s.setGang g).requests = s.requests := rfl
@[simp] theorem State.setGang_replies (s : State) (g : Gang) : (s.setGang g).replies = s.replies := rfl
@[simp] theorem State.setGang_made (s : State) (g : Gang) : (s.setGang g).made = s.made := rfl
@[simp] theorem State.setGang_plat (s : State) (g : Gang) : (s.setGang g).plat = s.plat := rfl

/-! ### setLaunch -/

@[simp] theorem State.setLaunch_agenda (s : State) (l : Launch) : (s.setLaunch l).agenda = s.agenda := rfl
@[simp] theorem State.setLaunch_todo (s : State) (l : Launch) : (s.setLaunch l).todo = s.todo := rfl
@[simp] theorem State.setLaunch_timers (s : State) (l : Launch) : (s.setLaunch l).timers = s.timers := rfl
@[simp] theorem State.setLaunch_urgent (s : State) (l : Launch) : (s.setLaunch l).urgent = s.urgent := rfl
@[simp] theorem State.setLaunch_cur (s : State) (l : Launch) : (s.setLaunch l).cur = s.cur := rfl
@[simp] theorem State.setLaunch_npc (s : State) (l : Launch) : (s.setLaunch l).npc = s.npc := rfl
@[simp] theorem State.setLaunch_ir (s : State) (l : Launch) : (s.setLaunch l).ir = s.ir := rfl
@[simp] theorem State.setLaunch_seq (s : State) (l : Launch) : (s.setLaunch l).seq = s.seq := rfl
@[simp] theorem State.setLaunch_clock (s : State) (l : Launch) : (s.setLaunch l).clock = s.clock := rfl
@[simp] theorem State.setLaunch_nextCore (s : State) (l : Launch) : (s.setLaunch l).nextCore = s.nextCore := rfl
@[simp] theorem State.setLaunch_draws (s : State) (l : Launch) : (s.setLaunch l).draws = s.draws := rfl
@[simp] theorem State.setLaunch_mem (s : State) (l : Launch) : (s.setLaunch l).mem = s.mem := rfl
@[simp] theorem State.setLaunch_tags (s : State) (l : Launch) : (s.setLaunch l).tags = s.tags := rfl
@[simp] theorem State.setLaunch_poison (s : State) (l : Launch) : (s.setLaunch l).poison = s.poison := rfl
@[simp] theorem State.setLaunch_badTags (s : State) (l : Launch) : (s.setLaunch l).badTags = s.badTags := rfl
@[simp] theorem State.setLaunch_badLines (s : State) (l : Launch) : (s.setLaunch l).badLines = s.badLines := rfl
@[simp] theorem State.setLaunch_lineKeys (s : State) (l : Launch) : (s.setLaunch l).lineKeys = s.lineKeys := rfl
@[simp] theorem State.setLaunch_counts (s : State) (l : Launch) : (s.setLaunch l).counts = s.counts := rfl
@[simp] theorem State.setLaunch_badMsgs (s : State) (l : Launch) : (s.setLaunch l).badMsgs = s.badMsgs := rfl
@[simp] theorem State.setLaunch_tears (s : State) (l : Launch) : (s.setLaunch l).tears = s.tears := rfl
@[simp] theorem State.setLaunch_replaced (s : State) (l : Launch) : (s.setLaunch l).replaced = s.replaced := rfl
@[simp] theorem State.setLaunch_flushes (s : State) (l : Launch) : (s.setLaunch l).flushes = s.flushes := rfl
@[simp] theorem State.setLaunch_owed (s : State) (l : Launch) : (s.setLaunch l).owed = s.owed := rfl
@[simp] theorem State.setLaunch_cores (s : State) (l : Launch) : (s.setLaunch l).cores = s.cores := rfl
@[simp] theorem State.setLaunch_waiters (s : State) (l : Launch) : (s.setLaunch l).waiters = s.waiters := rfl
@[simp] theorem State.setLaunch_tcaches (s : State) (l : Launch) : (s.setLaunch l).tcaches = s.tcaches := rfl
@[simp] theorem State.setLaunch_iocaches (s : State) (l : Launch) : (s.setLaunch l).iocaches = s.iocaches := rfl
@[simp] theorem State.setLaunch_walks (s : State) (l : Launch) : (s.setLaunch l).walks = s.walks := rfl
@[simp] theorem State.setLaunch_faults (s : State) (l : Launch) : (s.setLaunch l).faults = s.faults := rfl
@[simp] theorem State.setLaunch_refused (s : State) (l : Launch) : (s.setLaunch l).refused = s.refused := rfl
@[simp] theorem State.setLaunch_chans (s : State) (l : Launch) : (s.setLaunch l).chans = s.chans := rfl
@[simp] theorem State.setLaunch_pods (s : State) (l : Launch) : (s.setLaunch l).pods = s.pods := rfl
@[simp] theorem State.setLaunch_podTable (s : State) (l : Launch) : (s.setLaunch l).podTable = s.podTable := rfl
@[simp] theorem State.setLaunch_stops (s : State) (l : Launch) : (s.setLaunch l).stops = s.stops := rfl
@[simp] theorem State.setLaunch_resumes (s : State) (l : Launch) : (s.setLaunch l).resumes = s.resumes := rfl
@[simp] theorem State.setLaunch_dispCount (s : State) (l : Launch) : (s.setLaunch l).dispCount = s.dispCount := rfl
@[simp] theorem State.setLaunch_queues (s : State) (l : Launch) : (s.setLaunch l).queues = s.queues := rfl
@[simp] theorem State.setLaunch_lastSel (s : State) (l : Launch) : (s.setLaunch l).lastSel = s.lastSel := rfl
@[simp] theorem State.setLaunch_gangs (s : State) (l : Launch) : (s.setLaunch l).gangs = s.gangs := rfl
@[simp] theorem State.setLaunch_dumps (s : State) (l : Launch) : (s.setLaunch l).dumps = s.dumps := rfl
@[simp] theorem State.setLaunch_dumpCount (s : State) (l : Launch) : (s.setLaunch l).dumpCount = s.dumpCount := rfl
@[simp] theorem State.setLaunch_joins (s : State) (l : Launch) : (s.setLaunch l).joins = s.joins := rfl
@[simp] theorem State.setLaunch_ssc (s : State) (l : Launch) : (s.setLaunch l).ssc = s.ssc := rfl
@[simp] theorem State.setLaunch_fns (s : State) (l : Launch) : (s.setLaunch l).fns = s.fns := rfl
@[simp] theorem State.setLaunch_replays (s : State) (l : Launch) : (s.setLaunch l).replays = s.replays := rfl
@[simp] theorem State.setLaunch_sent (s : State) (l : Launch) : (s.setLaunch l).sent = s.sent := rfl
@[simp] theorem State.setLaunch_requests (s : State) (l : Launch) : (s.setLaunch l).requests = s.requests := rfl
@[simp] theorem State.setLaunch_replies (s : State) (l : Launch) : (s.setLaunch l).replies = s.replies := rfl
@[simp] theorem State.setLaunch_made (s : State) (l : Launch) : (s.setLaunch l).made = s.made := rfl
@[simp] theorem State.setLaunch_plat (s : State) (l : Launch) : (s.setLaunch l).plat = s.plat := rfl

/-! ### unwait -/

@[simp] theorem State.unwait_agenda (s : State) (t : Tid) : (s.unwait t).agenda = s.agenda := rfl
@[simp] theorem State.unwait_todo (s : State) (t : Tid) : (s.unwait t).todo = s.todo := rfl
@[simp] theorem State.unwait_timers (s : State) (t : Tid) : (s.unwait t).timers = s.timers := rfl
@[simp] theorem State.unwait_urgent (s : State) (t : Tid) : (s.unwait t).urgent = s.urgent := rfl
@[simp] theorem State.unwait_cur (s : State) (t : Tid) : (s.unwait t).cur = s.cur := rfl
@[simp] theorem State.unwait_npc (s : State) (t : Tid) : (s.unwait t).npc = s.npc := rfl
@[simp] theorem State.unwait_ir (s : State) (t : Tid) : (s.unwait t).ir = s.ir := rfl
@[simp] theorem State.unwait_seq (s : State) (t : Tid) : (s.unwait t).seq = s.seq := rfl
@[simp] theorem State.unwait_clock (s : State) (t : Tid) : (s.unwait t).clock = s.clock := rfl
@[simp] theorem State.unwait_nextCore (s : State) (t : Tid) : (s.unwait t).nextCore = s.nextCore := rfl
@[simp] theorem State.unwait_draws (s : State) (t : Tid) : (s.unwait t).draws = s.draws := rfl
@[simp] theorem State.unwait_mem (s : State) (t : Tid) : (s.unwait t).mem = s.mem := rfl
@[simp] theorem State.unwait_tags (s : State) (t : Tid) : (s.unwait t).tags = s.tags := rfl
@[simp] theorem State.unwait_poison (s : State) (t : Tid) : (s.unwait t).poison = s.poison := rfl
@[simp] theorem State.unwait_badTags (s : State) (t : Tid) : (s.unwait t).badTags = s.badTags := rfl
@[simp] theorem State.unwait_badLines (s : State) (t : Tid) : (s.unwait t).badLines = s.badLines := rfl
@[simp] theorem State.unwait_lineKeys (s : State) (t : Tid) : (s.unwait t).lineKeys = s.lineKeys := rfl
@[simp] theorem State.unwait_counts (s : State) (t : Tid) : (s.unwait t).counts = s.counts := rfl
@[simp] theorem State.unwait_badMsgs (s : State) (t : Tid) : (s.unwait t).badMsgs = s.badMsgs := rfl
@[simp] theorem State.unwait_tears (s : State) (t : Tid) : (s.unwait t).tears = s.tears := rfl
@[simp] theorem State.unwait_replaced (s : State) (t : Tid) : (s.unwait t).replaced = s.replaced := rfl
@[simp] theorem State.unwait_flushes (s : State) (t : Tid) : (s.unwait t).flushes = s.flushes := rfl
@[simp] theorem State.unwait_owed (s : State) (t : Tid) : (s.unwait t).owed = s.owed := rfl
@[simp] theorem State.unwait_cores (s : State) (t : Tid) : (s.unwait t).cores = s.cores := rfl
@[simp] theorem State.unwait_tcaches (s : State) (t : Tid) : (s.unwait t).tcaches = s.tcaches := rfl
@[simp] theorem State.unwait_iocaches (s : State) (t : Tid) : (s.unwait t).iocaches = s.iocaches := rfl
@[simp] theorem State.unwait_walks (s : State) (t : Tid) : (s.unwait t).walks = s.walks := rfl
@[simp] theorem State.unwait_faults (s : State) (t : Tid) : (s.unwait t).faults = s.faults := rfl
@[simp] theorem State.unwait_refused (s : State) (t : Tid) : (s.unwait t).refused = s.refused := rfl
@[simp] theorem State.unwait_chans (s : State) (t : Tid) : (s.unwait t).chans = s.chans := rfl
@[simp] theorem State.unwait_pods (s : State) (t : Tid) : (s.unwait t).pods = s.pods := rfl
@[simp] theorem State.unwait_podTable (s : State) (t : Tid) : (s.unwait t).podTable = s.podTable := rfl
@[simp] theorem State.unwait_stops (s : State) (t : Tid) : (s.unwait t).stops = s.stops := rfl
@[simp] theorem State.unwait_resumes (s : State) (t : Tid) : (s.unwait t).resumes = s.resumes := rfl
@[simp] theorem State.unwait_dispCount (s : State) (t : Tid) : (s.unwait t).dispCount = s.dispCount := rfl
@[simp] theorem State.unwait_queues (s : State) (t : Tid) : (s.unwait t).queues = s.queues := rfl
@[simp] theorem State.unwait_lastSel (s : State) (t : Tid) : (s.unwait t).lastSel = s.lastSel := rfl
@[simp] theorem State.unwait_launches (s : State) (t : Tid) : (s.unwait t).launches = s.launches := rfl
@[simp] theorem State.unwait_gangs (s : State) (t : Tid) : (s.unwait t).gangs = s.gangs := rfl
@[simp] theorem State.unwait_dumps (s : State) (t : Tid) : (s.unwait t).dumps = s.dumps := rfl
@[simp] theorem State.unwait_dumpCount (s : State) (t : Tid) : (s.unwait t).dumpCount = s.dumpCount := rfl
@[simp] theorem State.unwait_joins (s : State) (t : Tid) : (s.unwait t).joins = s.joins := rfl
@[simp] theorem State.unwait_ssc (s : State) (t : Tid) : (s.unwait t).ssc = s.ssc := rfl
@[simp] theorem State.unwait_fns (s : State) (t : Tid) : (s.unwait t).fns = s.fns := rfl
@[simp] theorem State.unwait_replays (s : State) (t : Tid) : (s.unwait t).replays = s.replays := rfl
@[simp] theorem State.unwait_sent (s : State) (t : Tid) : (s.unwait t).sent = s.sent := rfl
@[simp] theorem State.unwait_requests (s : State) (t : Tid) : (s.unwait t).requests = s.requests := rfl
@[simp] theorem State.unwait_replies (s : State) (t : Tid) : (s.unwait t).replies = s.replies := rfl
@[simp] theorem State.unwait_made (s : State) (t : Tid) : (s.unwait t).made = s.made := rfl
@[simp] theorem State.unwait_plat (s : State) (t : Tid) : (s.unwait t).plat = s.plat := rfl

/-! ### leave -/

@[simp] theorem State.leave_agenda (s : State) (a : Agent) : (s.leave a).agenda = s.agenda := rfl
@[simp] theorem State.leave_todo (s : State) (a : Agent) : (s.leave a).todo = s.todo := rfl
@[simp] theorem State.leave_timers (s : State) (a : Agent) : (s.leave a).timers = s.timers := rfl
@[simp] theorem State.leave_urgent (s : State) (a : Agent) : (s.leave a).urgent = s.urgent := rfl
@[simp] theorem State.leave_cur (s : State) (a : Agent) : (s.leave a).cur = s.cur := rfl
@[simp] theorem State.leave_npc (s : State) (a : Agent) : (s.leave a).npc = s.npc := rfl
@[simp] theorem State.leave_ir (s : State) (a : Agent) : (s.leave a).ir = s.ir := rfl
@[simp] theorem State.leave_seq (s : State) (a : Agent) : (s.leave a).seq = s.seq := rfl
@[simp] theorem State.leave_clock (s : State) (a : Agent) : (s.leave a).clock = s.clock := rfl
@[simp] theorem State.leave_nextCore (s : State) (a : Agent) : (s.leave a).nextCore = s.nextCore := rfl
@[simp] theorem State.leave_draws (s : State) (a : Agent) : (s.leave a).draws = s.draws := rfl
@[simp] theorem State.leave_mem (s : State) (a : Agent) : (s.leave a).mem = s.mem := rfl
@[simp] theorem State.leave_tags (s : State) (a : Agent) : (s.leave a).tags = s.tags := rfl
@[simp] theorem State.leave_poison (s : State) (a : Agent) : (s.leave a).poison = s.poison := rfl
@[simp] theorem State.leave_badTags (s : State) (a : Agent) : (s.leave a).badTags = s.badTags := rfl
@[simp] theorem State.leave_badLines (s : State) (a : Agent) : (s.leave a).badLines = s.badLines := rfl
@[simp] theorem State.leave_lineKeys (s : State) (a : Agent) : (s.leave a).lineKeys = s.lineKeys := rfl
@[simp] theorem State.leave_counts (s : State) (a : Agent) : (s.leave a).counts = s.counts := rfl
@[simp] theorem State.leave_badMsgs (s : State) (a : Agent) : (s.leave a).badMsgs = s.badMsgs := rfl
@[simp] theorem State.leave_tears (s : State) (a : Agent) : (s.leave a).tears = s.tears := rfl
@[simp] theorem State.leave_replaced (s : State) (a : Agent) : (s.leave a).replaced = s.replaced := rfl
@[simp] theorem State.leave_flushes (s : State) (a : Agent) : (s.leave a).flushes = s.flushes := rfl
@[simp] theorem State.leave_owed (s : State) (a : Agent) : (s.leave a).owed = s.owed := rfl
@[simp] theorem State.leave_cores (s : State) (a : Agent) : (s.leave a).cores = s.cores := rfl
@[simp] theorem State.leave_tcaches (s : State) (a : Agent) : (s.leave a).tcaches = s.tcaches := rfl
@[simp] theorem State.leave_iocaches (s : State) (a : Agent) : (s.leave a).iocaches = s.iocaches := rfl
@[simp] theorem State.leave_walks (s : State) (a : Agent) : (s.leave a).walks = s.walks := rfl
@[simp] theorem State.leave_faults (s : State) (a : Agent) : (s.leave a).faults = s.faults := rfl
@[simp] theorem State.leave_refused (s : State) (a : Agent) : (s.leave a).refused = s.refused := rfl
@[simp] theorem State.leave_chans (s : State) (a : Agent) : (s.leave a).chans = s.chans := rfl
@[simp] theorem State.leave_pods (s : State) (a : Agent) : (s.leave a).pods = s.pods := rfl
@[simp] theorem State.leave_podTable (s : State) (a : Agent) : (s.leave a).podTable = s.podTable := rfl
@[simp] theorem State.leave_stops (s : State) (a : Agent) : (s.leave a).stops = s.stops := rfl
@[simp] theorem State.leave_resumes (s : State) (a : Agent) : (s.leave a).resumes = s.resumes := rfl
@[simp] theorem State.leave_dispCount (s : State) (a : Agent) : (s.leave a).dispCount = s.dispCount := rfl
@[simp] theorem State.leave_queues (s : State) (a : Agent) : (s.leave a).queues = s.queues := rfl
@[simp] theorem State.leave_lastSel (s : State) (a : Agent) : (s.leave a).lastSel = s.lastSel := rfl
@[simp] theorem State.leave_launches (s : State) (a : Agent) : (s.leave a).launches = s.launches := rfl
@[simp] theorem State.leave_gangs (s : State) (a : Agent) : (s.leave a).gangs = s.gangs := rfl
@[simp] theorem State.leave_dumps (s : State) (a : Agent) : (s.leave a).dumps = s.dumps := rfl
@[simp] theorem State.leave_dumpCount (s : State) (a : Agent) : (s.leave a).dumpCount = s.dumpCount := rfl
@[simp] theorem State.leave_joins (s : State) (a : Agent) : (s.leave a).joins = s.joins := rfl
@[simp] theorem State.leave_ssc (s : State) (a : Agent) : (s.leave a).ssc = s.ssc := rfl
@[simp] theorem State.leave_fns (s : State) (a : Agent) : (s.leave a).fns = s.fns := rfl
@[simp] theorem State.leave_replays (s : State) (a : Agent) : (s.leave a).replays = s.replays := rfl
@[simp] theorem State.leave_sent (s : State) (a : Agent) : (s.leave a).sent = s.sent := rfl
@[simp] theorem State.leave_requests (s : State) (a : Agent) : (s.leave a).requests = s.requests := rfl
@[simp] theorem State.leave_replies (s : State) (a : Agent) : (s.leave a).replies = s.replies := rfl
@[simp] theorem State.leave_made (s : State) (a : Agent) : (s.leave a).made = s.made := rfl
@[simp] theorem State.leave_plat (s : State) (a : Agent) : (s.leave a).plat = s.plat := rfl

/-! ### setTag -/

@[simp] theorem State.setTag_agenda (s : State) (h : Nat) (t : BitVec 3) : (s.setTag h t).agenda = s.agenda := by unfold State.setTag; split <;> rfl
@[simp] theorem State.setTag_timers (s : State) (h : Nat) (t : BitVec 3) : (s.setTag h t).timers = s.timers := by unfold State.setTag; split <;> rfl
@[simp] theorem State.setTag_urgent (s : State) (h : Nat) (t : BitVec 3) : (s.setTag h t).urgent = s.urgent := by unfold State.setTag; split <;> rfl
@[simp] theorem State.setTag_cur (s : State) (h : Nat) (t : BitVec 3) : (s.setTag h t).cur = s.cur := by unfold State.setTag; split <;> rfl
@[simp] theorem State.setTag_npc (s : State) (h : Nat) (t : BitVec 3) : (s.setTag h t).npc = s.npc := by unfold State.setTag; split <;> rfl
@[simp] theorem State.setTag_ir (s : State) (h : Nat) (t : BitVec 3) : (s.setTag h t).ir = s.ir := by unfold State.setTag; split <;> rfl
@[simp] theorem State.setTag_seq (s : State) (h : Nat) (t : BitVec 3) : (s.setTag h t).seq = s.seq := by unfold State.setTag; split <;> rfl
@[simp] theorem State.setTag_clock (s : State) (h : Nat) (t : BitVec 3) : (s.setTag h t).clock = s.clock := by unfold State.setTag; split <;> rfl
@[simp] theorem State.setTag_nextCore (s : State) (h : Nat) (t : BitVec 3) : (s.setTag h t).nextCore = s.nextCore := by unfold State.setTag; split <;> rfl
@[simp] theorem State.setTag_draws (s : State) (h : Nat) (t : BitVec 3) : (s.setTag h t).draws = s.draws := by unfold State.setTag; split <;> rfl
@[simp] theorem State.setTag_mem (s : State) (h : Nat) (t : BitVec 3) : (s.setTag h t).mem = s.mem := by unfold State.setTag; split <;> rfl
@[simp] theorem State.setTag_poison (s : State) (h : Nat) (t : BitVec 3) : (s.setTag h t).poison = s.poison := by unfold State.setTag; split <;> rfl
@[simp] theorem State.setTag_badTags (s : State) (h : Nat) (t : BitVec 3) : (s.setTag h t).badTags = s.badTags := by unfold State.setTag; split <;> rfl
@[simp] theorem State.setTag_badLines (s : State) (h : Nat) (t : BitVec 3) : (s.setTag h t).badLines = s.badLines := by unfold State.setTag; split <;> rfl
@[simp] theorem State.setTag_lineKeys (s : State) (h : Nat) (t : BitVec 3) : (s.setTag h t).lineKeys = s.lineKeys := by unfold State.setTag; split <;> rfl
@[simp] theorem State.setTag_counts (s : State) (h : Nat) (t : BitVec 3) : (s.setTag h t).counts = s.counts := by unfold State.setTag; split <;> rfl
@[simp] theorem State.setTag_badMsgs (s : State) (h : Nat) (t : BitVec 3) : (s.setTag h t).badMsgs = s.badMsgs := by unfold State.setTag; split <;> rfl
@[simp] theorem State.setTag_tears (s : State) (h : Nat) (t : BitVec 3) : (s.setTag h t).tears = s.tears := by unfold State.setTag; split <;> rfl
@[simp] theorem State.setTag_replaced (s : State) (h : Nat) (t : BitVec 3) : (s.setTag h t).replaced = s.replaced := by unfold State.setTag; split <;> rfl
@[simp] theorem State.setTag_flushes (s : State) (h : Nat) (t : BitVec 3) : (s.setTag h t).flushes = s.flushes := by unfold State.setTag; split <;> rfl
@[simp] theorem State.setTag_owed (s : State) (h : Nat) (t : BitVec 3) : (s.setTag h t).owed = s.owed := by unfold State.setTag; split <;> rfl
@[simp] theorem State.setTag_cores (s : State) (h : Nat) (t : BitVec 3) : (s.setTag h t).cores = s.cores := by unfold State.setTag; split <;> rfl
@[simp] theorem State.setTag_waiters (s : State) (h : Nat) (t : BitVec 3) : (s.setTag h t).waiters = s.waiters := by unfold State.setTag; split <;> rfl
@[simp] theorem State.setTag_tcaches (s : State) (h : Nat) (t : BitVec 3) : (s.setTag h t).tcaches = s.tcaches := by unfold State.setTag; split <;> rfl
@[simp] theorem State.setTag_iocaches (s : State) (h : Nat) (t : BitVec 3) : (s.setTag h t).iocaches = s.iocaches := by unfold State.setTag; split <;> rfl
@[simp] theorem State.setTag_walks (s : State) (h : Nat) (t : BitVec 3) : (s.setTag h t).walks = s.walks := by unfold State.setTag; split <;> rfl
@[simp] theorem State.setTag_faults (s : State) (h : Nat) (t : BitVec 3) : (s.setTag h t).faults = s.faults := by unfold State.setTag; split <;> rfl
@[simp] theorem State.setTag_refused (s : State) (h : Nat) (t : BitVec 3) : (s.setTag h t).refused = s.refused := by unfold State.setTag; split <;> rfl
@[simp] theorem State.setTag_chans (s : State) (h : Nat) (t : BitVec 3) : (s.setTag h t).chans = s.chans := by unfold State.setTag; split <;> rfl
@[simp] theorem State.setTag_pods (s : State) (h : Nat) (t : BitVec 3) : (s.setTag h t).pods = s.pods := by unfold State.setTag; split <;> rfl
@[simp] theorem State.setTag_podTable (s : State) (h : Nat) (t : BitVec 3) : (s.setTag h t).podTable = s.podTable := by unfold State.setTag; split <;> rfl
@[simp] theorem State.setTag_stops (s : State) (h : Nat) (t : BitVec 3) : (s.setTag h t).stops = s.stops := by unfold State.setTag; split <;> rfl
@[simp] theorem State.setTag_resumes (s : State) (h : Nat) (t : BitVec 3) : (s.setTag h t).resumes = s.resumes := by unfold State.setTag; split <;> rfl
@[simp] theorem State.setTag_dispCount (s : State) (h : Nat) (t : BitVec 3) : (s.setTag h t).dispCount = s.dispCount := by unfold State.setTag; split <;> rfl
@[simp] theorem State.setTag_queues (s : State) (h : Nat) (t : BitVec 3) : (s.setTag h t).queues = s.queues := by unfold State.setTag; split <;> rfl
@[simp] theorem State.setTag_lastSel (s : State) (h : Nat) (t : BitVec 3) : (s.setTag h t).lastSel = s.lastSel := by unfold State.setTag; split <;> rfl
@[simp] theorem State.setTag_launches (s : State) (h : Nat) (t : BitVec 3) : (s.setTag h t).launches = s.launches := by unfold State.setTag; split <;> rfl
@[simp] theorem State.setTag_gangs (s : State) (h : Nat) (t : BitVec 3) : (s.setTag h t).gangs = s.gangs := by unfold State.setTag; split <;> rfl
@[simp] theorem State.setTag_dumps (s : State) (h : Nat) (t : BitVec 3) : (s.setTag h t).dumps = s.dumps := by unfold State.setTag; split <;> rfl
@[simp] theorem State.setTag_dumpCount (s : State) (h : Nat) (t : BitVec 3) : (s.setTag h t).dumpCount = s.dumpCount := by unfold State.setTag; split <;> rfl
@[simp] theorem State.setTag_joins (s : State) (h : Nat) (t : BitVec 3) : (s.setTag h t).joins = s.joins := by unfold State.setTag; split <;> rfl
@[simp] theorem State.setTag_ssc (s : State) (h : Nat) (t : BitVec 3) : (s.setTag h t).ssc = s.ssc := by unfold State.setTag; split <;> rfl
@[simp] theorem State.setTag_fns (s : State) (h : Nat) (t : BitVec 3) : (s.setTag h t).fns = s.fns := by unfold State.setTag; split <;> rfl
@[simp] theorem State.setTag_replays (s : State) (h : Nat) (t : BitVec 3) : (s.setTag h t).replays = s.replays := by unfold State.setTag; split <;> rfl
@[simp] theorem State.setTag_sent (s : State) (h : Nat) (t : BitVec 3) : (s.setTag h t).sent = s.sent := by unfold State.setTag; split <;> rfl
@[simp] theorem State.setTag_requests (s : State) (h : Nat) (t : BitVec 3) : (s.setTag h t).requests = s.requests := by unfold State.setTag; split <;> rfl
@[simp] theorem State.setTag_replies (s : State) (h : Nat) (t : BitVec 3) : (s.setTag h t).replies = s.replies := by unfold State.setTag; split <;> rfl
@[simp] theorem State.setTag_made (s : State) (h : Nat) (t : BitVec 3) : (s.setTag h t).made = s.made := by unfold State.setTag; split <;> rfl
@[simp] theorem State.setTag_plat (s : State) (h : Nat) (t : BitVec 3) : (s.setTag h t).plat = s.plat := by unfold State.setTag; split <;> rfl

/-! ### writeBytes -/

@[simp] theorem State.writeBytes_agenda (s : State) (h v be n : Nat) : (s.writeBytes h v be n).agenda = s.agenda := rfl
@[simp] theorem State.writeBytes_todo (s : State) (h v be n : Nat) : (s.writeBytes h v be n).todo = s.todo := rfl
@[simp] theorem State.writeBytes_timers (s : State) (h v be n : Nat) : (s.writeBytes h v be n).timers = s.timers := rfl
@[simp] theorem State.writeBytes_urgent (s : State) (h v be n : Nat) : (s.writeBytes h v be n).urgent = s.urgent := rfl
@[simp] theorem State.writeBytes_cur (s : State) (h v be n : Nat) : (s.writeBytes h v be n).cur = s.cur := rfl
@[simp] theorem State.writeBytes_npc (s : State) (h v be n : Nat) : (s.writeBytes h v be n).npc = s.npc := rfl
@[simp] theorem State.writeBytes_ir (s : State) (h v be n : Nat) : (s.writeBytes h v be n).ir = s.ir := rfl
@[simp] theorem State.writeBytes_seq (s : State) (h v be n : Nat) : (s.writeBytes h v be n).seq = s.seq := rfl
@[simp] theorem State.writeBytes_clock (s : State) (h v be n : Nat) : (s.writeBytes h v be n).clock = s.clock := rfl
@[simp] theorem State.writeBytes_nextCore (s : State) (h v be n : Nat) : (s.writeBytes h v be n).nextCore = s.nextCore := rfl
@[simp] theorem State.writeBytes_draws (s : State) (h v be n : Nat) : (s.writeBytes h v be n).draws = s.draws := rfl
@[simp] theorem State.writeBytes_tags (s : State) (h v be n : Nat) : (s.writeBytes h v be n).tags = s.tags := rfl
@[simp] theorem State.writeBytes_poison (s : State) (h v be n : Nat) : (s.writeBytes h v be n).poison = s.poison := rfl
@[simp] theorem State.writeBytes_badTags (s : State) (h v be n : Nat) : (s.writeBytes h v be n).badTags = s.badTags := rfl
@[simp] theorem State.writeBytes_badLines (s : State) (h v be n : Nat) : (s.writeBytes h v be n).badLines = s.badLines := rfl
@[simp] theorem State.writeBytes_lineKeys (s : State) (h v be n : Nat) : (s.writeBytes h v be n).lineKeys = s.lineKeys := rfl
@[simp] theorem State.writeBytes_counts (s : State) (h v be n : Nat) : (s.writeBytes h v be n).counts = s.counts := rfl
@[simp] theorem State.writeBytes_badMsgs (s : State) (h v be n : Nat) : (s.writeBytes h v be n).badMsgs = s.badMsgs := rfl
@[simp] theorem State.writeBytes_tears (s : State) (h v be n : Nat) : (s.writeBytes h v be n).tears = s.tears := rfl
@[simp] theorem State.writeBytes_flushes (s : State) (h v be n : Nat) : (s.writeBytes h v be n).flushes = s.flushes := rfl
@[simp] theorem State.writeBytes_owed (s : State) (h v be n : Nat) : (s.writeBytes h v be n).owed = s.owed := rfl
@[simp] theorem State.writeBytes_cores (s : State) (h v be n : Nat) : (s.writeBytes h v be n).cores = s.cores := rfl
@[simp] theorem State.writeBytes_waiters (s : State) (h v be n : Nat) : (s.writeBytes h v be n).waiters = s.waiters := rfl
@[simp] theorem State.writeBytes_tcaches (s : State) (h v be n : Nat) : (s.writeBytes h v be n).tcaches = s.tcaches := rfl
@[simp] theorem State.writeBytes_iocaches (s : State) (h v be n : Nat) : (s.writeBytes h v be n).iocaches = s.iocaches := rfl
@[simp] theorem State.writeBytes_walks (s : State) (h v be n : Nat) : (s.writeBytes h v be n).walks = s.walks := rfl
@[simp] theorem State.writeBytes_faults (s : State) (h v be n : Nat) : (s.writeBytes h v be n).faults = s.faults := rfl
@[simp] theorem State.writeBytes_refused (s : State) (h v be n : Nat) : (s.writeBytes h v be n).refused = s.refused := rfl
@[simp] theorem State.writeBytes_chans (s : State) (h v be n : Nat) : (s.writeBytes h v be n).chans = s.chans := rfl
@[simp] theorem State.writeBytes_pods (s : State) (h v be n : Nat) : (s.writeBytes h v be n).pods = s.pods := rfl
@[simp] theorem State.writeBytes_podTable (s : State) (h v be n : Nat) : (s.writeBytes h v be n).podTable = s.podTable := rfl
@[simp] theorem State.writeBytes_stops (s : State) (h v be n : Nat) : (s.writeBytes h v be n).stops = s.stops := rfl
@[simp] theorem State.writeBytes_resumes (s : State) (h v be n : Nat) : (s.writeBytes h v be n).resumes = s.resumes := rfl
@[simp] theorem State.writeBytes_dispCount (s : State) (h v be n : Nat) : (s.writeBytes h v be n).dispCount = s.dispCount := rfl
@[simp] theorem State.writeBytes_queues (s : State) (h v be n : Nat) : (s.writeBytes h v be n).queues = s.queues := rfl
@[simp] theorem State.writeBytes_lastSel (s : State) (h v be n : Nat) : (s.writeBytes h v be n).lastSel = s.lastSel := rfl
@[simp] theorem State.writeBytes_launches (s : State) (h v be n : Nat) : (s.writeBytes h v be n).launches = s.launches := rfl
@[simp] theorem State.writeBytes_gangs (s : State) (h v be n : Nat) : (s.writeBytes h v be n).gangs = s.gangs := rfl
@[simp] theorem State.writeBytes_dumps (s : State) (h v be n : Nat) : (s.writeBytes h v be n).dumps = s.dumps := rfl
@[simp] theorem State.writeBytes_dumpCount (s : State) (h v be n : Nat) : (s.writeBytes h v be n).dumpCount = s.dumpCount := rfl
@[simp] theorem State.writeBytes_joins (s : State) (h v be n : Nat) : (s.writeBytes h v be n).joins = s.joins := rfl
@[simp] theorem State.writeBytes_ssc (s : State) (h v be n : Nat) : (s.writeBytes h v be n).ssc = s.ssc := rfl
@[simp] theorem State.writeBytes_fns (s : State) (h v be n : Nat) : (s.writeBytes h v be n).fns = s.fns := rfl
@[simp] theorem State.writeBytes_replays (s : State) (h v be n : Nat) : (s.writeBytes h v be n).replays = s.replays := rfl
@[simp] theorem State.writeBytes_sent (s : State) (h v be n : Nat) : (s.writeBytes h v be n).sent = s.sent := rfl
@[simp] theorem State.writeBytes_requests (s : State) (h v be n : Nat) : (s.writeBytes h v be n).requests = s.requests := rfl
@[simp] theorem State.writeBytes_replies (s : State) (h v be n : Nat) : (s.writeBytes h v be n).replies = s.replies := rfl
@[simp] theorem State.writeBytes_made (s : State) (h v be n : Nat) : (s.writeBytes h v be n).made = s.made := rfl
@[simp] theorem State.writeBytes_plat (s : State) (h v be n : Nat) : (s.writeBytes h v be n).plat = s.plat := rfl

/-! ### wakeWord -/

@[simp] theorem State.wakeWord_agenda (s : State) (h : Nat) (x y : Bool) : (s.wakeWord h x y).agenda = s.agenda := rfl
@[simp] theorem State.wakeWord_timers (s : State) (h : Nat) (x y : Bool) : (s.wakeWord h x y).timers = s.timers := rfl
@[simp] theorem State.wakeWord_urgent (s : State) (h : Nat) (x y : Bool) : (s.wakeWord h x y).urgent = s.urgent := rfl
@[simp] theorem State.wakeWord_cur (s : State) (h : Nat) (x y : Bool) : (s.wakeWord h x y).cur = s.cur := rfl
@[simp] theorem State.wakeWord_npc (s : State) (h : Nat) (x y : Bool) : (s.wakeWord h x y).npc = s.npc := rfl
@[simp] theorem State.wakeWord_ir (s : State) (h : Nat) (x y : Bool) : (s.wakeWord h x y).ir = s.ir := rfl
@[simp] theorem State.wakeWord_seq (s : State) (h : Nat) (x y : Bool) : (s.wakeWord h x y).seq = s.seq := rfl
@[simp] theorem State.wakeWord_clock (s : State) (h : Nat) (x y : Bool) : (s.wakeWord h x y).clock = s.clock := rfl
@[simp] theorem State.wakeWord_nextCore (s : State) (h : Nat) (x y : Bool) : (s.wakeWord h x y).nextCore = s.nextCore := rfl
@[simp] theorem State.wakeWord_draws (s : State) (h : Nat) (x y : Bool) : (s.wakeWord h x y).draws = s.draws := rfl
@[simp] theorem State.wakeWord_mem (s : State) (h : Nat) (x y : Bool) : (s.wakeWord h x y).mem = s.mem := rfl
@[simp] theorem State.wakeWord_tags (s : State) (h : Nat) (x y : Bool) : (s.wakeWord h x y).tags = s.tags := rfl
@[simp] theorem State.wakeWord_poison (s : State) (h : Nat) (x y : Bool) : (s.wakeWord h x y).poison = s.poison := rfl
@[simp] theorem State.wakeWord_badTags (s : State) (h : Nat) (x y : Bool) : (s.wakeWord h x y).badTags = s.badTags := rfl
@[simp] theorem State.wakeWord_badLines (s : State) (h : Nat) (x y : Bool) : (s.wakeWord h x y).badLines = s.badLines := rfl
@[simp] theorem State.wakeWord_lineKeys (s : State) (h : Nat) (x y : Bool) : (s.wakeWord h x y).lineKeys = s.lineKeys := rfl
@[simp] theorem State.wakeWord_counts (s : State) (h : Nat) (x y : Bool) : (s.wakeWord h x y).counts = s.counts := rfl
@[simp] theorem State.wakeWord_badMsgs (s : State) (h : Nat) (x y : Bool) : (s.wakeWord h x y).badMsgs = s.badMsgs := rfl
@[simp] theorem State.wakeWord_tears (s : State) (h : Nat) (x y : Bool) : (s.wakeWord h x y).tears = s.tears := rfl
@[simp] theorem State.wakeWord_replaced (s : State) (h : Nat) (x y : Bool) : (s.wakeWord h x y).replaced = s.replaced := rfl
@[simp] theorem State.wakeWord_flushes (s : State) (h : Nat) (x y : Bool) : (s.wakeWord h x y).flushes = s.flushes := rfl
@[simp] theorem State.wakeWord_owed (s : State) (h : Nat) (x y : Bool) : (s.wakeWord h x y).owed = s.owed := rfl
@[simp] theorem State.wakeWord_cores (s : State) (h : Nat) (x y : Bool) : (s.wakeWord h x y).cores = s.cores := rfl
@[simp] theorem State.wakeWord_waiters (s : State) (h : Nat) (x y : Bool) : (s.wakeWord h x y).waiters = s.waiters := rfl
@[simp] theorem State.wakeWord_tcaches (s : State) (h : Nat) (x y : Bool) : (s.wakeWord h x y).tcaches = s.tcaches := rfl
@[simp] theorem State.wakeWord_iocaches (s : State) (h : Nat) (x y : Bool) : (s.wakeWord h x y).iocaches = s.iocaches := rfl
@[simp] theorem State.wakeWord_walks (s : State) (h : Nat) (x y : Bool) : (s.wakeWord h x y).walks = s.walks := rfl
@[simp] theorem State.wakeWord_faults (s : State) (h : Nat) (x y : Bool) : (s.wakeWord h x y).faults = s.faults := rfl
@[simp] theorem State.wakeWord_refused (s : State) (h : Nat) (x y : Bool) : (s.wakeWord h x y).refused = s.refused := rfl
@[simp] theorem State.wakeWord_chans (s : State) (h : Nat) (x y : Bool) : (s.wakeWord h x y).chans = s.chans := rfl
@[simp] theorem State.wakeWord_pods (s : State) (h : Nat) (x y : Bool) : (s.wakeWord h x y).pods = s.pods := rfl
@[simp] theorem State.wakeWord_podTable (s : State) (h : Nat) (x y : Bool) : (s.wakeWord h x y).podTable = s.podTable := rfl
@[simp] theorem State.wakeWord_stops (s : State) (h : Nat) (x y : Bool) : (s.wakeWord h x y).stops = s.stops := rfl
@[simp] theorem State.wakeWord_resumes (s : State) (h : Nat) (x y : Bool) : (s.wakeWord h x y).resumes = s.resumes := rfl
@[simp] theorem State.wakeWord_dispCount (s : State) (h : Nat) (x y : Bool) : (s.wakeWord h x y).dispCount = s.dispCount := rfl
@[simp] theorem State.wakeWord_queues (s : State) (h : Nat) (x y : Bool) : (s.wakeWord h x y).queues = s.queues := rfl
@[simp] theorem State.wakeWord_lastSel (s : State) (h : Nat) (x y : Bool) : (s.wakeWord h x y).lastSel = s.lastSel := rfl
@[simp] theorem State.wakeWord_launches (s : State) (h : Nat) (x y : Bool) : (s.wakeWord h x y).launches = s.launches := rfl
@[simp] theorem State.wakeWord_gangs (s : State) (h : Nat) (x y : Bool) : (s.wakeWord h x y).gangs = s.gangs := rfl
@[simp] theorem State.wakeWord_dumps (s : State) (h : Nat) (x y : Bool) : (s.wakeWord h x y).dumps = s.dumps := rfl
@[simp] theorem State.wakeWord_dumpCount (s : State) (h : Nat) (x y : Bool) : (s.wakeWord h x y).dumpCount = s.dumpCount := rfl
@[simp] theorem State.wakeWord_joins (s : State) (h : Nat) (x y : Bool) : (s.wakeWord h x y).joins = s.joins := rfl
@[simp] theorem State.wakeWord_ssc (s : State) (h : Nat) (x y : Bool) : (s.wakeWord h x y).ssc = s.ssc := rfl
@[simp] theorem State.wakeWord_fns (s : State) (h : Nat) (x y : Bool) : (s.wakeWord h x y).fns = s.fns := rfl
@[simp] theorem State.wakeWord_replays (s : State) (h : Nat) (x y : Bool) : (s.wakeWord h x y).replays = s.replays := rfl
@[simp] theorem State.wakeWord_sent (s : State) (h : Nat) (x y : Bool) : (s.wakeWord h x y).sent = s.sent := rfl
@[simp] theorem State.wakeWord_requests (s : State) (h : Nat) (x y : Bool) : (s.wakeWord h x y).requests = s.requests := rfl
@[simp] theorem State.wakeWord_replies (s : State) (h : Nat) (x y : Bool) : (s.wakeWord h x y).replies = s.replies := rfl
@[simp] theorem State.wakeWord_made (s : State) (h : Nat) (x y : Bool) : (s.wakeWord h x y).made = s.made := rfl
@[simp] theorem State.wakeWord_plat (s : State) (h : Nat) (x y : Bool) : (s.wakeWord h x y).plat = s.plat := rfl

/-! ### Cores and slots -/

@[simp] theorem State.core_setCore_same (s : State) (n : Nat) (c : Core) : (s.setCore n c).core n = c := by
  simp [State.core, State.setCore]

theorem State.core_setCore_other (s : State) {n m : Nat} (c : Core) (h : m ≠ n) : (s.setCore n c).core m = s.core m := by
  unfold State.core State.setCore
  exact SMap.getD_put_other _ _ _ h

@[simp] theorem Core.slot_setSlot_same (c : Core) (k : BitVec 3) (x : Slot) : (c.setSlot k x).slot k = x := by
  simp [Core.slot, Core.setSlot]

theorem Core.slot_setSlot_other (c : Core) {k j : BitVec 3} (x : Slot) (h : j ≠ k) : (c.setSlot k x).slot j = c.slot j := by
  have : k.toNat ≠ j.toNat := fun e => h (BitVec.eq_of_toNat_eq e.symm)
  simp [Core.slot, Core.setSlot, Vector.getElem_set, this]

@[simp] theorem State.slot_setSlot_same (s : State) (t : Tid) (x : Slot) : (s.setSlot t x).slot t = x := by
  simp [State.slot, State.setSlot]

theorem State.slot_setSlot_other (s : State) {t u : Tid} (x : Slot) (h : u ≠ t) : (s.setSlot t x).slot u = s.slot u := by
  obtain ⟨n, k⟩ := t
  obtain ⟨m, j⟩ := u
  by_cases hn : m = n
  · subst hn
    have hk : j ≠ k := fun e => h (by rw [e])
    simp [State.slot, State.setSlot, Core.slot_setSlot_other _ _ hk]
  · simp [State.slot, State.setSlot, State.core_setCore_other _ _ hn]

@[simp] theorem State.me_setMe (s : State) (x : Slot) : (s.setMe x).me = x := by
  simp [State.me, State.setMe]

theorem State.slot_setMe_other (s : State) {u : Tid} (x : Slot) (h : u ≠ s.cur) : (s.setMe x).slot u = s.slot u :=
  State.slot_setSlot_other s x h

/-- Two writes of the same slot are the last one. -/
@[simp] theorem SMap.put_put {α : Type} (m : SMap α) (k : Nat) (v w : α) : SMap.put (SMap.put m k v) k w = SMap.put m k w := by
  induction m with
  | nil => simp [SMap.put]
  | cons p m ih =>
    obtain ⟨j, x⟩ := p
    simp only [SMap.put]
    split
    · simp [SMap.put]
    · split
      · simp [SMap.put]
      · simp [SMap.put, *]

@[simp] theorem State.setCore_setCore (s : State) (n : Nat) (c d : Core) : (s.setCore n c).setCore n d = s.setCore n d := by
  simp [State.setCore]

@[simp] theorem Core.setSlot_setSlot (c : Core) (k : BitVec 3) (x y : Slot) : (c.setSlot k x).setSlot k y = c.setSlot k y := by
  simp [Core.setSlot]

@[simp] theorem State.setSlot_setSlot (s : State) (t : Tid) (x y : Slot) : (s.setSlot t x).setSlot t y = s.setSlot t y := by
  simp [State.setSlot]

@[simp] theorem State.setMe_setMe (s : State) (x y : Slot) : (s.setMe x).setMe y = s.setMe y := by
  simp [State.setMe]

/-- A write of a slot leaves the fields of its core beside the slots alone. -/
theorem State.core_setSlot (s : State) (t : Tid) (x : Slot) : (s.setSlot t x).core t.core = (s.core t.core).setSlot t.slot x := by
  simp [State.setSlot]

theorem State.core_setSlot_other (s : State) (t : Tid) (x : Slot) {m : Nat} (h : m ≠ t.core) : (s.setSlot t x).core m = s.core m :=
  State.core_setCore_other s _ h

/-! ### Results of parts of an instruction -/

@[simp] theorem Res.bind_ok {α β : Type} (a : α) (s : State) (f : α → State → Res β) : (Res.ok a s).bind f = f a s := rfl

@[simp] theorem Res.bind_trap {α β : Type} (i : TrapInfo) (s : State) (f : α → State → Res β) : (Res.trap i s).bind f = .trap i s := rfl

@[simp] theorem Res.bind_park {α β : Type} (w : Await) (s : State) (f : α → State → Res β) : (Res.park w s).bind f = .park w s := rfl

@[simp] theorem Res.bind_done {α β : Type} (s : State) (f : α → State → Res β) : (Res.done s : Res α).bind f = .done s := rfl

@[simp] theorem Res.finish_ok (s : State) : (Res.ok () s).finish = .next s := rfl

@[simp] theorem Res.finish_trap (i : TrapInfo) (s : State) : (Res.trap i s).finish = .next (s.precise i) := rfl

@[simp] theorem Res.finish_park (w : Await) (s : State) : (Res.park w s).finish = .next (s.park w) := rfl

@[simp] theorem Res.finish_done (s : State) : (Res.done s).finish = .next s := rfl

/-- An instruction always answers a next state once its parts have. -/
theorem Res.finish_next (r : Res Unit) : ∃ t, r.finish = .next t := by
  cases r <;> exact ⟨_, rfl⟩

end Sys2Proof.Machine
end

