-- ==== Sys2Proof/Laws/Access.lean ====
section
/-!
SUPPORT. What one access of the issuing thread does when nothing stands in its way (State.clear, State.plain): each part of it in turn.
-/

namespace Sys2Proof.Machine

/-- The conditions of State.clear, by name. -/
structure Clear (s : State) (va : Word) (n : Nat) : Prop where
  aligned : va.toNat % n = 0
  inside : va.toNat + n ≤ 0x40000
  core : s.coreExists s.cur.core = true
  ctx : s.myCore.ctx.isSome = true
  alloc : (SMap.find s.myCore.alloc (va.toNat / 0x1000)).isSome = true
  awake : s.myCore.gated = false
  copies : s.myCore.copies = []
  demands : s.myCore.demands = []
  blanks : ∀ k ∈ slotNums, (s.myCore.slot k).blanks = []
  wp : ∀ w ∈ s.myCore.dbg.wpctl.toList, w = 0
  words : ∀ w ∈ wordsAt va.toNat n, s.badTags.contains (lsHome s.cur.core w) = false ∧ s.poison.contains (lsHome s.cur.core w) = false
  waiters : ∀ w ∈ s.waiters, w.agent ≠ .thread s.cur ∧ ∀ o ∈ wordsAt va.toNat n, w.home ≠ lsHome s.cur.core o
  fresh : s.me.cont = none
  apart : s.me.overlaps (lsHome s.cur.core va.toNat) n = false
  unbuffered : s.buffered s.cur.core (some s.cur) (lsHome s.cur.core va.toNat) (lsHome s.cur.core va.toNat + n) = []

theorem State.clear_iff (s : State) (va : Word) (n : Nat) : s.clear va n = true ↔ Clear s va n := by
  simp only [State.clear, Bool.and_eq_true, decide_eq_true_eq, beq_iff_eq, Bool.not_eq_true', List.isEmpty_iff, List.all_eq_true, bne_iff_ne, ne_eq,
    Option.isNone_iff_eq_none, Array.toList_eq_nil_iff]
  constructor
  · rintro ⟨⟨⟨⟨⟨⟨⟨⟨⟨⟨⟨⟨⟨⟨h1, h2⟩, h0⟩, h3⟩, h4⟩, h6⟩, h7⟩, h8⟩, h9⟩, h10⟩, h11⟩, h12⟩, h13⟩, h14⟩, h15⟩
    exact ⟨h1, h2, h0, h3, h4, h6, h7, h8, h9, h10, h11,
      fun w hw => ⟨(h12 w hw).1, fun o ho e => by
        have := (h12 w hw).2
        simp only [e, List.contains_eq_mem, List.mem_map, decide_eq_false_iff_not] at this
        exact this ⟨o, ho, rfl⟩⟩, h13, h14, h15⟩
  · intro h
    refine ⟨⟨⟨⟨⟨⟨⟨⟨⟨⟨⟨⟨⟨⟨h.aligned, h.inside⟩, h.core⟩, h.ctx⟩, h.alloc⟩, h.awake⟩, h.copies⟩, h.demands⟩, h.blanks⟩, h.wp⟩, h.words⟩, ?_⟩, h.fresh⟩, h.apart⟩, h.unbuffered⟩
    intro w hw
    refine ⟨(h.waiters w hw).1, ?_⟩
    simp only [List.contains_eq_mem, List.mem_map, decide_eq_false_iff_not]
    rintro ⟨o, ho, e⟩
    exact (h.waiters w hw).2 o ho e.symm

theorem State.plain_iff (s : State) (va : Word) (n : Nat) :
    s.plain va n = true ↔ Clear s va n ∧ s.myCore.tableOf (va.toNat / 0x1000) = 0 := by
  rw [State.plain, Bool.and_eq_true, State.clear_iff, beq_iff_eq]

/-- A home of local store is below every physical one, and gives its core and offset back. -/
theorem homeCore_lsHome (n off : Nat) (h : off < 0x40000) : homeCore (lsHome n off) = n := by
  unfold homeCore lsHome; omega

theorem homeOff_lsHome (n off : Nat) (h : off < 0x40000) : homeOff (lsHome n off) = off := by
  unfold homeOff lsHome; omega

/-- The home of an access that passes its checks. -/
theorem State.precheck_plain {s : State} {a : Acc} {n : Nat} (h : Clear s a.va n) (hn : a.size = n) (hs : 0 < n) (k : BitVec 3) :
    s.precheck s.myAgent s.cur.core s.myCtx s.myAper a k = .ok (lsHome s.cur.core a.va.toNat) s := by
  have hin := h.inside
  have hlt : a.va.toNat ≤ 0x3FFFF := by omega
  obtain ⟨c, hc⟩ := Option.isSome_iff_exists.mp h.ctx
  have hctx : (s.core s.cur.core).ctx = some s.myCtx := by
    show s.myCore.ctx = some ((s.core s.cur.core).ctx.getD 0)
    rw [hc, show (s.core s.cur.core).ctx = some c from hc]; rfl
  have hal : s.allocated s.cur.core a.va.toNat s.myCtx = true := by
    simp only [State.allocated, hctx, beq_self_eq_true, Bool.true_and]
    exact h.alloc
  have hp : s.place s.cur.core a.va = .ls s.cur.core a.va.toNat false := by
    simp only [State.place, hlt, if_true]
  have hck : s.lsCheck (some s.cur.core) s.myCtx s.myAper a.va s.cur.core a.va.toNat false = none := by
    simp only [State.lsCheck, State.portRefuses, hal, Bool.not_true, Bool.false_eq_true, if_false, Bool.false_and, bne_self_eq_false]
  simp only [State.precheck, hn, h.aligned, ne_eq, not_true_eq_false, if_false, hp, hck]

/-- No comparator holds an access up where no blank is pending. -/
theorem Core.forcedBy_none (c : Core) (h : ∀ k ∈ slotNums, (c.slot k).blanks = []) (p : Nat → Bool) (wr : List Nat) (e : Option (BitVec 3)) :
    c.forcedBy p wr e = [] := by
  rw [Core.forcedBy, List.flatMap_eq_nil_iff]
  intro k hk
  split
  · rfl
  · rw [h k hk]; rfl

theorem State.demand_none (s : State) (ag : Agent) (n : Nat) (h : (s.core n).demands = []) : s.demand ag n [] = .ok () s := by
  simp [State.demand, h]

/-- No watchpoint is set. -/
theorem State.watch_none (s : State) (h space kind : Nat) (rs : List (Nat × Nat)) (ag : Agent) (addr : Word)
    (hw : ∀ w ∈ (s.core h).dbg.wpctl.toList, w = 0) (hs : space ≠ 0) : s.watch h space kind rs ag addr = (s, none) := by
  have hz : ∀ k : Nat, (s.core h).dbg.wpctl[k]?.getD 0 = 0 := by
    intro k
    cases e : (s.core h).dbg.wpctl[k]? with
    | none => rfl
    | some w => exact hw w (by simpa using Vector.mem_toList_iff.mpr (Vector.mem_of_getElem? e))
  have : (s.core h).wpMatch space kind rs = [] := by
    rw [Core.wpMatch, List.filter_eq_nil_iff]
    intro k _
    rw [hz k]
    simp [Ne.symm hs]
  simp only [State.watch, this, List.foldl_nil, List.find?_nil, Option.map_none, ite_self]

/-- An instruction that has not parked has not waited too long. -/
theorem State.barked_none (s : State) (ag : Agent) (n : Nat) (ws : List Nat) (h : s.me.cont = none) : s.barked ag n ws = none := by
  have hd : s.cont.dog = false := by simp only [State.cont, h]
  simp only [State.barked, hd, Bool.not_false, Bool.or_true, if_true]

theorem State.leave_none (s : State) (ag : Agent) (h : ∀ w ∈ s.waiters, w.agent ≠ ag) : s.leave ag = s := by
  have : s.waiters.filter (·.agent != ag) = s.waiters := by
    rw [List.filter_eq_self]
    intro w hw
    simpa using h w hw
  simp only [State.leave, this]

theorem State.wakeWord_none (s : State) (home : Nat) (t w : Bool) (h : ∀ x ∈ s.waiters, x.home ≠ wordOf home) : s.wakeWord home t w = s := by
  have : s.waiters.filter (fun x => x.home == wordOf home && ((t && x.onTag) || (w && x.onWrite))) = [] := by
    rw [List.filter_eq_nil_iff]
    intro x hx
    simp [h x hx]
  simp [State.wakeWord, this]

/-- The entry of a word under table 0. -/
theorem State.entry_zero (s : State) (n off kind : Nat) (h : (s.core n).tableOf (off / 0x1000) = 0) : s.entry n off kind = 0 := by
  simp only [State.entry, h]

theorem State.tokenHeld_none (s : State) (ag : Agent) (n : Nat) (ws : List Nat) (h : (s.core n).copies = []) : s.tokenHeld ag n ws = none := by
  simp only [State.tokenHeld, h, ite_self, List.find?_nil, Option.map_none]

theorem State.unhold_none (s : State) (ag : Agent) (h : ∀ w ∈ s.waiters, w.agent ≠ ag) : s.unhold ag = s := by
  refine if_neg ?_
  simp only [List.any_eq_true, not_exists, not_and, Bool.and_eq_true, beq_iff_eq]
  exact fun w hw _ => h w hw

/-- The words of an access of at most eight bytes. -/
theorem wordsAt_small (off n : Nat) (h0 : 0 < n) (h8 : n ≤ 8) : wordsAt off n = [wordOf off] := by
  have : (n + 7) / 8 = 1 := by omega
  simp only [wordsAt, this, wordOf]
  rfl

/-- The entry of a word is that of every byte of it. -/
theorem State.entry_word (s : State) (n off kind : Nat) : s.entry n (wordOf off) kind = s.entry n off kind := by
  have h1 : wordOf off / 0x1000 = off / 0x1000 := by unfold wordOf; omega
  have h2 : wordOf (lsHome n (wordOf off)) = wordOf (lsHome n off) := by unfold wordOf lsHome; omega
  simp only [State.entry, State.tag, h1, h2]

/-- Words whose entries say neither WAIT nor REDIRECT nor TRAP let an access go on. -/
theorem State.decide_go (s : State) (n kind : Nat) (wide by_ : Bool) (ws : List Nat)
    (hb : ∀ o ∈ ws, s.badTags.contains (lsHome n o) = false)
    (he : by_ = true ∨ ∀ o ∈ ws, entAct (s.entry n o kind) = 0 ∨ entAct (s.entry n o kind) = 4) : s.decide_ n kind wide by_ ws = .go := by
  have h1 : ws.find? (fun o => s.badTags.contains (lsHome n o)) = none := by
    rw [List.find?_eq_none]; intro o ho; simp only [hb o ho, Bool.false_eq_true, not_false_eq_true]
  have h2 : ws.filter (fun o => !s.badTags.contains (lsHome n o)) = ws := by
    rw [List.filter_eq_self]; intro o ho; simp only [hb o ho, Bool.not_false]
  rcases he with rfl | he
  · simp only [State.decide_, h1, if_true, List.find?_nil, List.filter_nil]
  · have ht : (ws.map (fun o => (o, s.entry n o kind))).find? (fun p => entAct p.2 == 3 || (decide (6 ≤ kind) && entAct p.2 == 2)) = none := by
      rw [List.find?_eq_none]
      intro p hp
      obtain ⟨o, ho, rfl⟩ := List.mem_map.mp hp
      rcases he o ho with h | h <;> simp [h]
    have hes : ∀ q : Nat, q ≠ 0 → q ≠ 4 → (ws.map (fun o => (o, s.entry n o kind))).find? (fun p => entAct p.2 == q) = none := by
      intro q q0 q4
      rw [List.find?_eq_none]
      intro p hp
      obtain ⟨o, ho, rfl⟩ := List.mem_map.mp hp
      rcases he o ho with h | h <;> simp [h, q0.symm, q4.symm]
    have hfs : (ws.map (fun o => (o, s.entry n o kind))).filter (fun p => entAct p.2 == 1) = [] := by
      rw [List.filter_eq_nil_iff]
      intro p hp
      obtain ⟨o, ho, rfl⟩ := List.mem_map.mp hp
      rcases he o ho with h | h <;> simp [h]
    cases by_
    · simp only [State.decide_, h1, h2, Bool.false_eq_true, if_false, ht, hes 2 (by decide) (by decide), hfs]
    · simp only [State.decide_, h1, if_true, List.find?_nil, List.filter_nil]

/-- One bank operation of at most eight bytes: the access goes on. -/
theorem State.bank_small {s : State} {a : Acc} (h : Clear s a.va a.size) (h0 : 0 < a.size) (h8 : a.size ≤ 8) (kind : Nat) (second : Bool)
    (hg : a.op.bypass = true ∨ entAct (s.entry s.cur.core a.va.toNat kind) = 0 ∨ entAct (s.entry s.cur.core a.va.toNat kind) = 4) :
    s.bank s.myAgent s.cur.core s.cur.core a.va.toNat kind a second =
      .ok (BitVec.ofNat 512 (s.wordStep a.op (lsHome s.cur.core (wordOf a.va.toNat)) (a.va.toNat % 8) a.size (2 ^ a.size - 1) a.op.data
          (s.entry s.cur.core a.va.toNat kind) a.op.bypass).1)
        (s.wordStep a.op (lsHome s.cur.core (wordOf a.va.toNat)) (a.va.toNat % 8) a.size (2 ^ a.size - 1) a.op.data
          (s.entry s.cur.core a.va.toNat kind) a.op.bypass).2 := by
  have hw : a.words a.va.toNat = wordsAt a.va.toNat a.size := by
    rw [wordsAt_small _ _ h0 h8]; simp only [Acc.words, h8, if_true]
  have hd : s.decide_ s.cur.core kind (decide (8 < a.size)) a.op.bypass (a.words a.va.toNat) = .go := by
    rw [hw]
    refine State.decide_go s _ _ _ _ _ (fun o ho => (h.words o ho).1) (hg.imp_right fun hg o ho => ?_)
    rw [wordsAt_small _ _ h0 h8, List.mem_singleton] at ho
    rw [ho, State.entry_word]; exact hg
  have hpz : (a.words a.va.toNat).filter (fun o => s.poison.contains (lsHome s.cur.core o) &&
      !(entAct (s.entry s.cur.core o kind) == 4 && !a.op.bypass) && a.needsData (o - a.va.toNat)) = [] := by
    rw [List.filter_eq_nil_iff]; intro o ho; rw [hw] at ho; simp [(h.words o ho).2, -List.contains_eq_mem]
  have hl : s.leave s.myAgent = s := State.leave_none s _ (fun w hw => (h.waiters w hw).1)
  have hwp := State.watch_none s s.cur.core 1 kind (a.runs a.va.toNat) s.myAgent a.va h.wp (by decide)
  have hj : s.judge s.myAgent s.cur.core s.cur.core a.va.toNat kind a second = .ok () s := by rw [State.judge, hd]
  have ha : s.letIn s.myAgent s.cur.core a.va.toNat kind a = .ok () s := by rw [State.letIn, hpz, hwp]; rfl
  have hn : s.enact s.myAgent s.cur.core a.va.toNat kind a = s.wordStep a.op (lsHome s.cur.core (wordOf a.va.toNat)) (a.va.toNat % 8) a.size
      (2 ^ a.size - 1) a.op.data (s.entry s.cur.core a.va.toNat kind) a.op.bypass := by
    rw [State.enact, hl]; exact if_neg (by simpa using h8)
  rw [State.bank, hj, Res.bind_ok, ha, Res.bind_ok, hn]

/-- A local-store home is no physical one. -/
theorem homeIsLs_lsHome (n off : Nat) (h : n < 0x1000000) (ho : off < 0x40000) : homeIsLs (lsHome n off) = true := by
  unfold homeIsLs lsHome
  exact decide_eq_true (by omega)

theorem State.coreExists_lt {s : State} {n : Nat} (h : s.coreExists n = true) : n < 4096 := by
  simp only [State.coreExists, Bool.and_eq_true, decide_eq_true_eq] at h
  have : s.plat.grade.dies ≤ 8 := by cases s.plat.grade <;> decide
  omega

/-- A part of an access that no buffered store meets. -/
theorem State.lsForward_none {s : State} {core home : Nat} {a : Acc} (v : Line)
    (h : s.buffered core (some s.cur) home (home + a.size) = []) : s.lsForward s.myAgent core home a v = v := by
  simp only [State.lsForward, State.myAgent, Agent.tid?]
  split
  · simp_all
  · rfl

/-- A write in local store replaces bytes and nothing else. -/
theorem State.writeBytes_ls (s : State) (home v be n : Nat) (h : homeIsLs home = true) :
    s.writeBytes home v be n = { s with mem := Memory.writeN s.mem home v be n } := by
  rw [State.writeBytes, State.writeBytesAt, h, Bool.true_or, if_pos rfl]

/-- What State.wordStep does to bytes under table 0: the new value, poison left behind by nothing. -/
theorem State.wordStep_write {s : State} {home b k : Nat} (d : Line) (v : Nat) (hl : homeIsLs (home + b) = true)
    (hp : s.poison.contains home = false) (hw : ∀ x ∈ s.waiters, x.home ≠ wordOf home) :
    (s.wordStep (.write d) home b k (2 ^ k - 1) v 0 false).2 =
      { s with mem := Memory.writeN s.mem (home + b) ((BitVec.ofNat 512 v).toNat % 256 ^ k) (2 ^ k - 1) k } := by
  have hf : s.poison.filter (· != home) = s.poison := by
    rw [List.filter_eq_self]; intro x hx
    simp only [bne_iff_ne, ne_eq]; rintro rfl
    simp [hx] at hp
  have e : (s.wordStep (.write d) home b k (2 ^ k - 1) v 0 false).2 = s.putNew home b k (2 ^ k - 1) (some ((BitVec.ofNat 512 v).toNat % 256 ^ k)) := rfl
  rw [e, State.putNew, State.writeBytes_ls _ _ _ _ _ hl]
  dsimp only
  rw [hf, ite_self]
  exact State.wakeWord_none _ _ _ _ hw

/-- The same through the holds that come before a bank operation. -/
theorem State.lsPerform_small {s : State} {a : Acc} (h : Clear s a.va a.size) (h0 : 0 < a.size) (h8 : a.size ≤ 8) (second : Bool)
    (hg : a.op.bypass = true ∨ entAct (s.entry s.cur.core a.va.toNat (kindOf a.op false false)) = 0 ∨
      entAct (s.entry s.cur.core a.va.toNat (kindOf a.op false false)) = 4) :
    s.lsPerform s.myAgent s.cur.core (lsHome s.cur.core a.va.toNat) a false second =
      .ok (BitVec.ofNat 512 (s.wordStep a.op (lsHome s.cur.core (wordOf a.va.toNat)) (a.va.toNat % 8) a.size (2 ^ a.size - 1) a.op.data
          (s.entry s.cur.core a.va.toNat (kindOf a.op false false)) a.op.bypass).1)
        (s.wordStep a.op (lsHome s.cur.core (wordOf a.va.toNat)) (a.va.toNat % 8) a.size (2 ^ a.size - 1) a.op.data
          (s.entry s.cur.core a.va.toNat (kindOf a.op false false)) a.op.bypass).2 := by
  have hlt : a.va.toNat < 0x40000 := by have := h.inside; omega
  have hf := Core.forcedBy_none (s.core s.cur.core) h.blanks
  have ht := State.tokenHeld_none s s.myAgent s.cur.core (a.words a.va.toNat) h.copies
  have hu : s.unhold s.myAgent = s := State.unhold_none s _ (fun w hw => (h.waiters w hw).1)
  have hb := State.barked_none s s.myAgent s.cur.core (a.words a.va.toNat) h.fresh
  have hh : s.lsHold s.myAgent s.cur.core (lsHome s.cur.core a.va.toNat) a false = .ok () s := by
    rw [State.lsHold, homeCore_lsHome _ _ hlt, homeOff_lsHome _ _ hlt]
    dsimp only
    rw [hb]
    dsimp only
    rw [if_neg (by rw [show (s.core s.cur.core).gated = false from h.awake]; exact Bool.false_ne_true), if_pos (beq_self_eq_true _), ht]
    dsimp only
    rw [hu, hf, State.demand_none s _ _ h.demands]
  rw [State.lsPerform, hh, Res.bind_ok, homeCore_lsHome _ _ hlt, homeOff_lsHome _ _ hlt, bne_self_eq_false]
  exact State.bank_small h h0 h8 _ _ hg

/-- No store of another thread is on its route to bytes that no point holds. -/
theorem State.routeBusy_none {s : State} {core home : Nat} {a : Acc} (h : s.buffered core (some s.cur) home (home + a.size) = []) :
    s.routeBusy s.myAgent core home a = false := by
  simp only [State.routeBusy, State.myAgent, h, List.isEmpty_nil, Bool.not_true, Bool.and_false]

/-- An ordinary access of at most eight bytes of the own local store that nothing holds up. -/
theorem State.ordinary_small {s : State} {a : Acc} (h : Clear s a.va a.size) (h0 : 0 < a.size) (h8 : a.size ≤ 8)
    (hg : a.op.bypass = true ∨ entAct (s.entry s.cur.core a.va.toNat (kindOf a.op false false)) = 0 ∨
      entAct (s.entry s.cur.core a.va.toNat (kindOf a.op false false)) = 4) :
    s.ordinary a =
      .ok (BitVec.ofNat 512 (s.wordStep a.op (lsHome s.cur.core (wordOf a.va.toNat)) (a.va.toNat % 8) a.size (2 ^ a.size - 1) a.op.data
          (s.entry s.cur.core a.va.toNat (kindOf a.op false false)) a.op.bypass).1)
        (s.wordStep a.op (lsHome s.cur.core (wordOf a.va.toNat)) (a.va.toNat % 8) a.size (2 ^ a.size - 1) a.op.data
          (s.entry s.cur.core a.va.toNat (kindOf a.op false false)) a.op.bypass).2 := by
  have hlt : a.va.toNat < 0x40000 := by have := h.inside; omega
  have hc : s.cont.redirect = none := by simp only [State.cont, h.fresh]
  have hls : homeIsLs (lsHome s.cur.core a.va.toNat) = true :=
    homeIsLs_lsHome _ _ (by have := State.coreExists_lt h.core; omega) hlt
  have ha : s.cont.redirected a = a := by rw [Cont.redirected, hc]
  rw [State.ordinary, ha]
  rw [State.precheck_plain h rfl h0]
  refine (if_neg (by rw [h.apart]; exact Bool.false_ne_true)).trans ?_
  refine (if_neg (by rw [State.routeBusy_none h.unbuffered]; exact Bool.false_ne_true)).trans ?_
  rw [State.perform, hls, if_pos rfl, State.lsPerform_small h h0 h8 _ hg]
  dsimp only
  rw [State.lsForward_none _ h.unbuffered]

theorem lsHome_word (n off : Nat) : lsHome n (wordOf off) + off % 8 = lsHome n off := by unfold lsHome wordOf; omega

/-- A read of the own local store under table 0 that nothing holds up. -/
theorem State.ordinary_read {s : State} {va : Word} {n : Nat} (h : Clear s va n) (ht : s.myCore.tableOf (va.toNat / 0x1000) = 0) (h0 : 0 < n)
    (h8 : n ≤ 8) : s.ordinary (accRead va n) = .ok (BitVec.ofNat 512 (Memory.readN s.mem (lsHome s.cur.core va.toNat) n)) s := by
  have he : ∀ k, s.entry s.cur.core va.toNat k = 0 := fun k => State.entry_zero s _ _ _ ht
  refine (State.ordinary_small (a := accRead va n) h h0 h8 (.inr (.inl (by rw [show (accRead va n).va = va from rfl, he]; rfl)))).trans ?_
  rw [show ∀ e, s.wordStep (accRead va n).op (lsHome s.cur.core (wordOf (accRead va n).va.toNat)) ((accRead va n).va.toNat % 8) (accRead va n).size
    (2 ^ (accRead va n).size - 1) (accRead va n).op.data (s.entry s.cur.core (accRead va n).va.toNat e) (accRead va n).op.bypass =
      (Memory.readN s.mem (lsHome s.cur.core (wordOf va.toNat) + va.toNat % 8) n, s) from
        fun e => by rw [show (accRead va n).va = va from rfl, he]; rfl, lsHome_word]

/-- A write of up to eight bytes to the own local store under table 0 that nothing holds up. -/
theorem State.ordinary_write {s : State} {va : Word} {n : Nat} (d : Word) (h : Clear s va n) (ht : s.myCore.tableOf (va.toNat / 0x1000) = 0)
    (h0 : 0 < n) (h8 : n ≤ 8) :
    ∃ v, s.ordinary (accWrite va n d) =
      .ok v { s with mem := Memory.writeN s.mem (lsHome s.cur.core va.toNat) (d.toNat % 256 ^ n) (2 ^ n - 1) n } := by
  have he : ∀ k, s.entry s.cur.core va.toNat k = 0 := fun k => State.entry_zero s _ _ _ ht
  have hwd : wordsAt va.toNat n = [wordOf va.toNat] := wordsAt_small _ _ h0 h8
  have hpo : s.poison.contains (lsHome s.cur.core (wordOf va.toNat)) = false := (h.words _ (by rw [hwd]; simp)).2
  have hww : ∀ x ∈ s.waiters, x.home ≠ wordOf (lsHome s.cur.core (wordOf va.toNat)) := by
    intro x hx
    have e : wordOf (lsHome s.cur.core (wordOf va.toNat)) = lsHome s.cur.core (wordOf va.toNat) := by
      unfold lsHome wordOf; omega
    rw [e]; exact (h.waiters x hx).2 _ (by rw [hwd]; simp)
  have hz : ((0 : BitVec 448) ++ d).toNat = d.toNat := by
    refine (BitVec.toNat_append (0 : BitVec 448) d).trans ?_
    rw [show (0 : BitVec 448).toNat = 0 from rfl, Nat.zero_shiftLeft, Nat.zero_or]
  have hd : (BitVec.ofNat 512 (((0 : BitVec 448) ++ d).toNat)).toNat = d.toNat := by
    rw [BitVec.toNat_ofNat, hz]
    exact Nat.mod_eq_of_lt (Nat.lt_of_lt_of_le d.isLt (Nat.pow_le_pow_right (by decide) (by decide)))
  have hst : (s.wordStep (.write ((0 : BitVec 448) ++ d)) (lsHome s.cur.core (wordOf va.toNat)) (va.toNat % 8) n (2 ^ n - 1)
      ((0 : BitVec 448) ++ d).toNat 0 false).2 =
      { s with mem := Memory.writeN s.mem (lsHome s.cur.core va.toNat) (d.toNat % 256 ^ n) (2 ^ n - 1) n } := by
    have hl : homeIsLs (lsHome s.cur.core (wordOf va.toNat) + va.toNat % 8) = true := by
      rw [lsHome_word]
      exact homeIsLs_lsHome _ _ (by have := State.coreExists_lt h.core; omega) (by have := h.inside; omega)
    rw [State.wordStep_write _ _ hl hpo hww, lsHome_word, hd]
  refine ⟨_, (State.ordinary_small (a := accWrite va n d) h h0 h8 (.inr (.inl (by rw [show (accWrite va n d).va = va from rfl, he]; rfl)))).trans
    (congrArg _ ?_)⟩
  rw [show (accWrite va n d).va = va from rfl, he]
  exact hst

end Sys2Proof.Machine
end

