-- ==== Sys2Proof/Laws/Canonical.lean ====
section
/-!
SUPPORT. The canonical form of memory and tags under the shared operations: what writes them keeps it, and traps, waits and wakes leave them alone.
-/

namespace Sys2Proof.Machine

/-- What holds of the state in which a part of an instruction ends. -/
def Res.All {α : Type} (p : State → Prop) : Res α → Prop
  | .ok _ s => p s
  | .trap _ s => p s
  | .park _ s => p s
  | .done s => p s

@[simp] theorem Res.all_ok {α : Type} (p : State → Prop) (a : α) (s : State) : (Res.ok a s).All p ↔ p s := Iff.rfl
@[simp] theorem Res.all_trap {α : Type} (p : State → Prop) (i : TrapInfo) (s : State) : (Res.trap i s : Res α).All p ↔ p s := Iff.rfl
@[simp] theorem Res.all_park {α : Type} (p : State → Prop) (w : Await) (s : State) : (Res.park w s : Res α).All p ↔ p s := Iff.rfl
@[simp] theorem Res.all_done {α : Type} (p : State → Prop) (s : State) : (Res.done s : Res α).All p ↔ p s := Iff.rfl

theorem Res.all_ite {α : Type} {p : State → Prop} {r r' : Res α} (c : Prop) [Decidable c] (h : r.All p) (k : r'.All p) :
    (if c then r else r').All p := by
  split <;> assumption

/-- Sequencing keeps what each part keeps. -/
theorem Res.all_bind {α β : Type} {p : State → Prop} {r : Res α} {f : α → State → Res β} (h : r.All p) (hf : ∀ a s, p s → (f a s).All p) :
    (r.bind f).All p := by
  cases r <;> simp_all [Res.bind]

/-- A fold keeps what each step keeps. -/
theorem State.foldl_keeps {β : Type} {p : State → Prop} (f : State → β → State) (hf : ∀ s b, p s → p (f s b)) (bs : List β) {s : State} (h : p s) :
    p (bs.foldl f s) := by
  induction bs generalizing s with
  | nil => exact h
  | cons b bs ih => exact ih (hf s b h)

/-- A state with the same bytes and tags is as canonical. -/
theorem State.memOk_of_eq {s t : State} (m : t.mem = s.mem) (g : t.tags = s.tags) (h : s.memOk) : t.memOk := by
  unfold State.memOk at *
  rw [m, g]
  exact h

theorem State.memOk_writeBytesAt {s : State} (num home v be n : Nat) (h : s.memOk) : (s.writeBytesAt num home v be n).memOk :=
  ⟨Memory.wf_writeN n home v be h.1, h.2⟩

theorem State.memOk_writeBytes {s : State} (home v be n : Nat) (h : s.memOk) : (s.writeBytes home v be n).memOk :=
  State.memOk_writeBytesAt _ _ _ _ _ h

theorem State.memOk_wakeWord {s : State} (home : Nat) (t w : Bool) (h : s.memOk) : (s.wakeWord home t w).memOk :=
  State.memOk_of_eq (by simp) (by simp) h

theorem State.memOk_setTag {s : State} (home : Nat) (t : BitVec 3) (h : s.memOk) : (s.setTag home t).memOk := by
  unfold State.setTag
  split
  · exact h
  · exact State.memOk_wakeWord _ _ _ ⟨h.1, SMap.wf_setD _ _ _ h.2⟩

/-! ### Wakes and the ends of forcings -/

/-- Two states hold the same bytes and tags. -/
def State.SameBytes (s t : State) : Prop := t.mem = s.mem ∧ t.tags = s.tags

theorem State.SameBytes.refl (s : State) : s.SameBytes s := ⟨rfl, rfl⟩

theorem State.SameBytes.trans {s t u : State} (h : s.SameBytes t) (k : t.SameBytes u) : s.SameBytes u := ⟨k.1.trans h.1, k.2.trans h.2⟩

theorem State.memOk_of_same {s t : State} (e : s.SameBytes t) (h : s.memOk) : t.memOk := State.memOk_of_eq e.1 e.2 h

/-- A fold whose steps leave bytes and tags alone leaves them alone. -/
theorem State.sameBytes_foldl {β : Type} (f : State → β → State) (hf : ∀ (u : State) (b : β), u.SameBytes (f u b)) (bs : List β) (s : State) :
    s.SameBytes (bs.foldl f s) :=
  State.foldl_keeps (p := s.SameBytes) f (fun _ b h => h.trans (hf _ b)) bs (.refl s)

theorem State.sameBytes_ite {s t u : State} (c : Prop) [Decidable c] (h : s.SameBytes t) (k : s.SameBytes u) : s.SameBytes (if c then t else u) := by
  split <;> assumption

theorem State.sameBytes_setCore (s : State) (n : Nat) (c : Core) : s.SameBytes (s.setCore n c) := ⟨rfl, rfl⟩

theorem State.sameBytes_setSlot (s : State) (t : Tid) (x : Slot) : s.SameBytes (s.setSlot t x) := ⟨rfl, rfl⟩

theorem State.sameBytes_post (s : State) (e : Event) : s.SameBytes (s.post e) := ⟨State.post_mem s e, State.post_tags s e⟩

theorem State.sameBytes_rouse (s : State) (n : Nat) : s.SameBytes (s.rouse n) := by
  unfold State.rouse
  exact State.sameBytes_ite _ (State.sameBytes_post ..) (State.sameBytes_ite _ (.refl s) (State.sameBytes_setCore ..))

theorem State.sameBytes_urge (s : State) (t : Tid) (g : Bool) : s.SameBytes (s.urge t g) := by
  unfold State.urge
  exact State.sameBytes_ite _ (.refl s) ⟨rfl, rfl⟩

/-- A wake changes no byte and no tag. -/
theorem State.sameBytes_wake (s : State) (t : Tid) : s.SameBytes (s.wake t) := by
  unfold State.wake
  dsimp only
  split
  · exact ((State.sameBytes_setSlot ..).trans (State.sameBytes_rouse ..)).trans (State.sameBytes_urge ..)
  · exact ((State.sameBytes_setSlot ..).trans (State.sameBytes_rouse ..)).trans (State.sameBytes_urge ..)
  · exact .refl s

theorem State.sameBytes_wakeCore (s : State) (n : Nat) (p : Await → Bool) : s.SameBytes (s.wakeCore n p) := by
  unfold State.wakeCore
  exact State.sameBytes_foldl _ (fun u _ => State.sameBytes_ite _ (State.sameBytes_wake ..) (.refl u)) _ s

theorem State.sameBytes_settle (s : State) (ag : Agent) : s.SameBytes (s.settle ag) := by
  unfold State.settle
  split
  · exact State.sameBytes_foldl _ (fun _ _ => State.sameBytes_setSlot ..) _ s
  · exact .refl s

/-! ### Traps -/

theorem State.sameBytes_dropRequests (s : State) (p : Agent → Bool) : s.SameBytes (s.dropRequests p) := ⟨rfl, rfl⟩

/-- A fatal trap changes no byte and no tag. -/
theorem State.sameBytes_fatal (s : State) (t : Tid) (i : TrapInfo) (e : Word) : s.SameBytes (s.fatal t i e) := by
  unfold State.fatal
  split
  · exact ⟨rfl, rfl⟩
  · split
    · exact .refl s
    · rename_i g _ _
      refine .trans ?_ (State.sameBytes_post ..)
      refine .trans (t := g.tids.foldl (fun (v : State) u => v.settle (.thread u)) _) ?_ ⟨rfl, rfl⟩
      refine .trans ?_ (State.sameBytes_foldl _ (fun _ _ => State.sameBytes_settle ..) _ _)
      refine .trans ?_ (State.sameBytes_foldl _ ?_ _ _)
      · refine .trans (t := s.setGang { g with fatal := some (i, t, e) }) ⟨rfl, rfl⟩ (State.sameBytes_foldl _ ?_ _ _)
        intro u b
        exact State.sameBytes_ite _ (State.sameBytes_setSlot ..) (.refl u)
      · intro u b
        dsimp only
        generalize hw : (u.setCore b.core _).wakeCore b.core _ = w
        have k : u.SameBytes w := by
          rw [← hw]
          exact (State.sameBytes_setCore ..).trans (State.sameBytes_wakeCore ..)
        have k2 (p : Prop) [Decidable p] (x y : Event) : u.SameBytes (if p then w else (w.post x).post y) :=
          State.sameBytes_ite p k (k.trans ((State.sameBytes_post w x).trans (State.sameBytes_post ..)))
        exact State.sameBytes_ite _ ((k2 ..).trans (State.sameBytes_post ..)) (k2 ..)

theorem State.fatal_mem_tags (s : State) (t : Tid) (i : TrapInfo) (e : Word) : (s.fatal t i e).mem = s.mem ∧ (s.fatal t i e).tags = s.tags :=
  State.sameBytes_fatal s t i e

theorem State.takeTrap_mem_tags (s : State) (t : Tid) (i : TrapInfo) (e p : Word) (l d : Bool) :
    (s.takeTrap t i e p l d).mem = s.mem ∧ (s.takeTrap t i e p l d).tags = s.tags := by
  unfold State.takeTrap
  dsimp only
  split
  · exact State.fatal_mem_tags ..
  · exact ⟨rfl, rfl⟩

theorem State.precise_mem_tags (s : State) (i : TrapInfo) : (s.precise i).mem = s.mem ∧ (s.precise i).tags = s.tags := by
  have h := State.takeTrap_mem_tags (s.unwait s.cur) s.cur i s.me.pc 0 false false
  simpa [State.precise] using h

theorem State.memOk_precise {s : State} (i : TrapInfo) (h : s.memOk) : (s.precise i).memOk :=
  State.memOk_of_eq (State.precise_mem_tags s i).1 (State.precise_mem_tags s i).2 h

/-- An instruction whose part keeps the canonical form keeps it. -/
theorem Res.memOk_finish {r : Res Unit} {t : State} (h : r.All State.memOk) (e : r.finish = .next t) : t.memOk := by
  cases r with
  | ok a s => cases e; exact h
  | trap i s => cases e; exact State.memOk_precise i h
  | park w s => cases e; exact State.memOk_of_eq (by simp) (by simp) h
  | done s => cases e; exact h

/-! ### Bank operations -/

theorem iteKeeps {s t : State} (c : Prop) [Decidable c] (h : s.memOk) (h' : t.memOk) : (if c then s else t).memOk := by
  split <;> assumption

theorem State.memOk_putNew {s : State} (home b k be : Nat) (x : Option Nat) (h : s.memOk) : (s.putNew home b k be x).memOk := by
  cases x with
  | none => exact h
  | some v =>
    refine State.memOk_wakeWord _ _ _ ?_
    split <;> exact State.memOk_writeBytes _ _ _ _ h

theorem State.memOk_wordStep {s : State} (o : WordOp) (home b k be data : Nat) (e : BitVec 16) (by_ : Bool) (h : s.memOk) :
    (s.wordStep o home b k be data e by_).2.memOk := by
  unfold State.wordStep
  cases o
  case tget => exact h
  case tagRead => exact h
  case tset t => exact State.memOk_setTag _ _ h
  case tcas x t =>
    dsimp only
    split
    · exact State.memOk_setTag _ _ h
    · exact h
  case sbinit x t =>
    exact State.memOk_putNew _ _ _ _ _ (State.memOk_setTag _ _ h)
  all_goals
    dsimp only
    refine iteKeeps _ ?_ (iteKeeps _ h (State.memOk_putNew _ _ _ _ _ h))
    exact State.memOk_setTag _ _ (iteKeeps _ h (State.memOk_putNew _ _ _ _ _ h))

theorem State.memOk_wideSteps (o : WordOp) (n off kind be data : Nat) (ks : List Nat) {s : State} (h : s.memOk) :
    (s.wideSteps o n off kind be data ks).2.memOk := by
  induction ks generalizing s with
  | nil => exact h
  | cons k ks ih =>
    unfold State.wideSteps
    dsimp only
    split
    · exact ih h
    · exact ih (State.memOk_wordStep _ _ _ _ _ _ _ _ h)

theorem State.beginWait_mem_tags (s : State) (ag : Agent) (c : Nat) : (s.beginWait ag c).2.mem = s.mem ∧ (s.beginWait ag c).2.tags = s.tags := by
  unfold State.beginWait
  cases ag <;> dsimp only <;> try simp
  split <;> simp [State.setItem]

theorem State.setDog_mem_tags (s : State) (ag : Agent) (c k : Nat) : (s.setDog ag c k).mem = s.mem ∧ (s.setDog ag c k).tags = s.tags := by
  cases ag <;> simp [State.setDog]

/-- Entering the list of waiters changes no byte and no tag. -/
theorem State.enter_mem_tags (s : State) (ag : Agent) (core n home : Nat) (x y z : Bool) (w : Await) :
    (s.enter ag core n home x y z w).2.mem = s.mem ∧ (s.enter ag core n home x y z w).2.tags = s.tags := by
  have b := s.beginWait_mem_tags ag (s.core core).cyc.toNat
  have d := (s.beginWait ag (s.core core).cyc.toNat).2.setDog_mem_tags ag core (s.beginWait ag (s.core core).cyc.toNat).1
  unfold State.enter
  dsimp only
  split
  · simp
  · cases z
    · split
      · split <;> simp
      · simp
    · simp only [if_true]
      split
      · split <;> simp [b, d]
      · simp [b, d]

theorem State.sameBytes_enter (s : State) (ag : Agent) (core n home : Nat) (x y z : Bool) (w : Await) :
    s.SameBytes (s.enter ag core n home x y z w).2 := s.enter_mem_tags ag core n home x y z w

theorem State.sameBytes_listOn (s : State) (x : Waiter) (n : Nat) (os : List Nat) : s.SameBytes (s.listOn x n os) := ⟨rfl, rfl⟩

theorem State.enterAll_mem_tags (s : State) (ag : Agent) (core n : Nat) (os : List Nat) :
    (s.enterAll ag core n os).2.mem = s.mem ∧ (s.enterAll ag core n os).2.tags = s.tags := by
  cases os with
  | nil => exact State.SameBytes.refl s
  | cons o os =>
    have e := s.sameBytes_enter ag core n (lsHome n o) true false true (.table (lsHome n o))
    have b := s.beginWait_mem_tags ag (s.core core).cyc.toNat
    have d := (s.beginWait ag (s.core core).cyc.toNat).2.setDog_mem_tags ag core (s.beginWait ag (s.core core).cyc.toNat).1
    unfold State.enterAll
    dsimp only
    split
    · exact (State.sameBytes_ite _ (.trans (t := (s.beginWait ag (s.core core).cyc.toNat).2) b d) (.refl s)).trans (State.sameBytes_listOn ..)
    · split
      · exact e
      · split
        · exact State.sameBytes_ite _ e (e.trans (State.sameBytes_listOn ..))
        · exact e

/-! ### Messages and stops -/

theorem State.sameBytes_failLater (s : State) (cs : List (BitVec 8)) (r : Bool) (l : TearEnd) : s.SameBytes (s.failLater cs r l) := ⟨rfl, rfl⟩

theorem State.sameBytes_exhausted (s : State) (c : BitVec 8) : s.SameBytes (s.exhausted c) := by
  unfold State.exhausted
  exact State.sameBytes_ite _ (.refl s) (State.sameBytes_failLater ..)

theorem State.sameBytes_countLink (s : State) (l : Option Nat) : s.SameBytes (s.countLink l) := by
  cases l <;> exact ⟨rfl, rfl⟩

/-- Sending a message changes no byte and no tag. -/
theorem State.sameBytes_transmit (s : State) (n : Nat) (m : Msg) : s.SameBytes (s.transmit n m) := by
  have c := s.sameBytes_countLink (s.plat.link m.dst m.lane.toNat)
  unfold State.transmit
  dsimp only
  refine State.sameBytes_ite _ (.refl s) (State.sameBytes_ite _ (c.trans ⟨rfl, rfl⟩) ?_)
  split
  · exact .refl s
  · exact State.sameBytes_ite _ (State.sameBytes_exhausted ..) (c.trans ⟨rfl, rfl⟩)

theorem State.sameBytes_transmitAll (s : State) (n : Nat) (ms : List Msg) : s.SameBytes (s.transmitAll n ms) :=
  State.sameBytes_foldl _ (fun _ _ => State.sameBytes_transmit ..) _ s

/-- A stop changes no byte and no tag. -/
theorem State.sameBytes_raiseStop (s : State) (h : Nat) (dom : BitVec 3) (ctx : BitVec 8) (a b : Word) : s.SameBytes (s.raiseStop h dom ctx a b) := by
  have f : ∀ (u : State) (n : Nat) (c : Core) (m : StopMsg) (k : Nat),
      u.SameBytes (({ (u.setCore n c).rouse n with stops := ((u.setCore n c).rouse n).stops ++ [m] } : State).timer n k (.stopTakesEffect n)) :=
    fun u n c _ _ => .trans ((State.sameBytes_setCore u n c).trans (State.sameBytes_rouse ..)) ⟨rfl, rfl⟩
  unfold State.raiseStop
  dsimp only
  split
  · exact .trans (State.sameBytes_foldl _ (fun u n => f u n ..) _ s) (State.sameBytes_transmitAll ..)
  · exact State.sameBytes_foldl _ (fun u n => f u n ..) _ s

theorem State.watch_mem_tags (s : State) (h sp k : Nat) (rs : List (Nat × Nat)) (ag : Agent) (a : Word) :
    (s.watch h sp k rs ag a).1.mem = s.mem ∧ (s.watch h sp k rs ag a).1.tags = s.tags := by
  unfold State.watch
  exact State.sameBytes_ite _ (.refl s) (State.sameBytes_foldl _ (fun _ _ => State.sameBytes_raiseStop ..) _ s)

theorem State.sameBytes_leave (s : State) (ag : Agent) : s.SameBytes (s.leave ag) := ⟨rfl, rfl⟩

theorem Res.all_mono {α : Type} {p q : State → Prop} {r : Res α} (h : r.All p) (f : ∀ s, p s → q s) : r.All q := by
  cases r <;> exact f _ h

/-- The evaluation of an access keeps the canonical form: at most it sets the tag of a word that redirects. -/
theorem State.memOk_judge {s : State} (ag : Agent) (core n off kind : Nat) (a : Acc) (second : Bool) (h : s.memOk) :
    (s.judge ag core n off kind a second).All State.memOk := by
  unfold State.judge
  dsimp only
  split
  · exact h
  · exact h
  · split
    · exact State.memOk_of_same (State.sameBytes_leave ..) h
    · exact State.memOk_of_eq (State.enterAll_mem_tags ..).1 (State.enterAll_mem_tags ..).2 h
  · rename_i o _
    split
    · exact h
    · split
      · exact h
      · have t : (if entUpd (s.entry n o kind) = true then s.setTag (lsHome n o) (entTag (s.entry n o kind)) else s).memOk :=
          iteKeeps _ (State.memOk_setTag _ _ h) h
        split
        · exact State.memOk_of_eq (by simp) (by simp) t
        · exact State.memOk_of_eq (by simp) (by simp) t
        · exact h
  · exact h

theorem State.letIn_mem_tags (s : State) (ag : Agent) (n off kind : Nat) (a : Acc) : (s.letIn ag n off kind a).All s.SameBytes := by
  have w : s.SameBytes (s.watch n 1 kind (a.runs off) ag a.va).1 := s.watch_mem_tags n 1 kind (a.runs off) ag a.va
  unfold State.letIn
  dsimp only
  split
  · exact .refl s
  · split <;> exact w

/-- The access at its bank keeps the canonical form. -/
theorem State.memOk_enact {s : State} (ag : Agent) (n off kind : Nat) (a : Acc) (h : s.memOk) : (s.enact ag n off kind a).2.memOk := by
  have l : (s.leave ag).memOk := State.memOk_of_same (State.sameBytes_leave ..) h
  unfold State.enact
  dsimp only
  split
  · exact State.memOk_wideSteps _ _ _ _ _ _ _ l
  · exact State.memOk_wordStep _ _ _ _ _ _ _ _ l

/-- A bank operation keeps the canonical form (R161). -/
theorem State.memOk_bank {s : State} (ag : Agent) (core n off kind : Nat) (a : Acc) (second : Bool) (h : s.memOk) :
    (s.bank ag core n off kind a second).All State.memOk := by
  unfold State.bank
  refine Res.all_bind (State.memOk_judge _ _ _ _ _ _ _ h) ?_
  intro _ u hu
  refine Res.all_bind (Res.all_mono (State.letIn_mem_tags ..) (fun v hv => State.memOk_of_same hv hu)) ?_
  intro _ v hv
  exact State.memOk_enact _ _ _ _ _ hv

theorem State.demand_mem_tags (s : State) (ag : Agent) (n : Nat) (bs : List (BitVec 3 × Nat × Nat)) :
    (s.demand ag n bs).All (fun t => t.mem = s.mem ∧ t.tags = s.tags) := by
  unfold State.demand
  dsimp only
  split
  · split <;> simp
  · split
    · split <;> simp
    · simp

theorem State.sameBytes_holdOn (s : State) (ag : Agent) (home : Nat) : s.SameBytes (s.holdOn ag home) := by
  unfold State.holdOn
  exact State.sameBytes_ite _ ⟨rfl, rfl⟩ ⟨rfl, rfl⟩

theorem State.sameBytes_unhold (s : State) (ag : Agent) : s.SameBytes (s.unhold ag) := by
  unfold State.unhold
  exact State.sameBytes_ite _ ⟨rfl, rfl⟩ (.refl s)

/-- What holds an access before its bank operation changes no byte and no tag. -/
theorem State.lsHold_mem_tags (s : State) (ag : Agent) (core home : Nat) (a : Acc) (e : Bool) : (s.lsHold ag core home a e).All s.SameBytes := by
  unfold State.lsHold
  dsimp only
  split
  · exact State.sameBytes_leave ..
  · split
    · exact (State.sameBytes_rouse ..).trans (State.sameBytes_holdOn ..)
    · have r : s.SameBytes (if (homeCore home == core) = true then s else s.rouse (homeCore home)) :=
        State.sameBytes_ite _ (.refl s) (State.sameBytes_rouse ..)
      generalize (if (homeCore home == core) = true then s else s.rouse (homeCore home)) = u at r ⊢
      split
      · exact r.trans (State.sameBytes_holdOn ..)
      · exact Res.all_mono (State.demand_mem_tags ..) (fun v hv => (r.trans (State.sameBytes_unhold u ag)).trans hv)

theorem State.sameBytes_untamper (s : State) (core : Nat) : s.SameBytes (s.untamper core) := ⟨rfl, rfl⟩

theorem State.memOk_lsPerform {s : State} (ag : Agent) (core home : Nat) (a : Acc) (e second : Bool) (h : s.memOk) :
    (s.lsPerform ag core home a e second).All State.memOk := by
  unfold State.lsPerform
  refine Res.all_bind (Res.all_mono (State.lsHold_mem_tags ..) (fun v hv => State.memOk_of_same hv h)) ?_
  intro _ v hv
  split
  · exact State.memOk_of_same ((State.sameBytes_untamper ..).trans (State.sameBytes_leave ..)) hv
  · exact State.memOk_bank _ _ _ _ _ _ _ hv

theorem State.memOk_seenAs {s : State} (r : Option WorkKeys) (home : Nat) (h : s.memOk) : (s.seenAs r home).memOk := by
  unfold State.seenAs
  exact iteKeeps _ h ⟨Memory.wf_writeN _ _ _ _ h.1, h.2⟩

theorem State.memOk_asSeen {s : State} (ctx : BitVec 8) (home : Nat) (h : s.memOk) : (s.asSeen ctx home).memOk := State.memOk_seenAs _ _ h

theorem State.sameBytes_watchHome (s : State) (ag : Agent) (core : Nat) (a : Acc) : s.SameBytes (s.watchHome ag core a).1 := by
  unfold State.watchHome
  split
  · exact State.watch_mem_tags ..
  · exact .refl s

theorem State.memOk_farPerform {s : State} (ag : Agent) (core : Nat) (ctx : BitVec 8) (home : Nat) (a : Acc) (f : Bool) (h : s.memOk) :
    (s.farPerform ag core ctx home a f).All State.memOk := by
  have w : ∀ q r v b n, ((({ s with requests := q, replies := r } : State)).writeBytes home v b n).memOk := fun _ _ _ _ _ =>
    State.memOk_writeBytes _ _ _ _ h
  unfold State.farPerform
  split
  · split
    · exact h
    · dsimp only
      split
      · exact h
      · generalize a.op = o
        cases o
        case write v => exact w _ _ _ _ _
        case read => exact w _ _ _ _ _
        all_goals
          rw [Res.all_ok]
          split
          · exact w _ _ _ _ _
          · exact h
  · have m : (if f = true then (s, none) else s.watchHome ag core a).1.memOk := by
      cases f
      · exact State.memOk_of_same (State.sameBytes_watchHome ..) h
      · exact h
    dsimp only
    generalize (if f = true then (s, none) else s.watchHome ag core a) = r at m ⊢
    split
    · exact m
    · refine Res.all_ite _ m (Res.all_ite _ h (Res.all_ite _ (State.memOk_of_same (State.sameBytes_exhausted ..) h) ?_))
      exact State.memOk_of_same (State.sameBytes_transmit ..) m

theorem State.memOk_homePerform {s : State} (ag : Agent) (core : Nat) (ctx : BitVec 8) (home : Nat) (a : Acc) (h : s.memOk) :
    (s.homePerform ag core ctx home a).All State.memOk := by
  unfold State.homePerform
  have m : (s.watchHome ag core a).1.memOk := State.memOk_of_same (State.sameBytes_watchHome ..) h
  dsimp only
  generalize s.watchHome ag core a = r at m ⊢
  refine Res.all_ite _ (State.memOk_farPerform _ _ _ _ _ _ h) (Res.all_ite _ h (Res.all_ite _ h
    (Res.all_ite _ (State.memOk_of_same (State.sameBytes_untamper ..) h) (Res.all_ite _ h ?_))))
  split
  · exact m
  · have n : ∀ o : WordOp, (match o.new a.size (Memory.readN (r.1.asSeen ctx home).mem home a.size) with
        | some v => ((r.1.asSeen ctx home).writeBytesAt (r.1.writeNum ag) home v a.mask a.size).setLineKey (lineOfHome home) (r.1.ctxKeys ctx)
        | none => r.1).memOk := by
      intro o
      split
      · exact ⟨(State.memOk_writeBytesAt (r.1.writeNum ag) _ _ _ _ (State.memOk_asSeen _ _ m)).1, (State.memOk_asSeen _ _ m).2⟩
      · exact m
    split
    · exact m
    · exact iteKeeps _ (n _) (n _)

/-- An access at its home keeps the canonical form. -/
theorem State.memOk_perform {s : State} (ag : Agent) (core : Nat) (ctx : BitVec 8) (home : Nat) (a : Acc) (e second : Bool) (h : s.memOk) :
    (s.perform ag core ctx home a e second).All State.memOk := by
  unfold State.perform
  split
  · have l := State.memOk_lsPerform ag core home a e second h
    split <;> simp_all
  · exact State.memOk_homePerform _ _ _ _ _ h

theorem State.joinWalk_mem_tags (s : State) (d q : Nat) (a : Agent) (ctx : BitVec 8) (va : Word) (k : BitVec 3) :
    (s.joinWalk d q a ctx va k).mem = s.mem ∧ (s.joinWalk d q a ctx va k).tags = s.tags := by
  unfold State.joinWalk
  dsimp only
  split <;> simp

theorem State.precheck_mem_tags (s : State) (ag : Agent) (core : Nat) (ctx : BitVec 8) (ap : Bool) (a : Acc) (k : BitVec 3) :
    (s.precheck ag core ctx ap a k).All (fun t => t.mem = s.mem ∧ t.tags = s.tags) := by
  unfold State.precheck
  split
  · simp
  · split
    · simp
    · split <;> simp
    · split
      · simp
      · split
        · simp
        · exact State.joinWalk_mem_tags ..
        · split <;> simp

/-- An ordinary access of the issuing thread keeps the canonical form. -/
theorem State.memOk_ordinary {s : State} (a : Acc) (h : s.memOk) : (s.ordinary a).All State.memOk := by
  unfold State.ordinary
  refine Res.all_bind (Res.all_mono (State.precheck_mem_tags ..) (fun u hu => State.memOk_of_eq hu.1 hu.2 h)) ?_
  intro home u hu
  split
  · exact hu
  · split
    · exact hu
    · exact State.memOk_perform _ _ _ _ _ _ _ hu

theorem State.memOk_sequence (as : List Acc) {s : State} (h : s.memOk) : (s.sequence as).All State.memOk := by
  induction as generalizing s with
  | nil => exact h
  | cons a as ih =>
    have l := State.memOk_ordinary a h
    unfold State.sequence
    split <;> rename_i e <;> rw [e] at l
    · rename_i v u
      have d : (u.elemDone v).memOk := State.memOk_of_eq (by simp [State.elemDone]) (by simp [State.elemDone]) l
      exact Res.all_ite _ (State.memOk_of_same (State.sameBytes_post ..) d) (ih d)
    · exact l
    · exact l
    · exact l

end Sys2Proof.Machine
end

