-- ==== Sys2Proof/Laws/Exec.lean ====
section
/-!
SUPPORT. The meaning that exec gives each constructor: one lemma for each arm, so that no proof unfolds the whole match.
-/

namespace Sys2Proof.Machine

@[simp] theorem exec_add (d : SReg) (b : SReg) (c : SReg) (sat : BitVec 2) (s : State) : exec (.add d b c sat) s = execAdd d b c sat s := rfl
@[simp] theorem exec_sub (d : SReg) (b : SReg) (c : SReg) (sat : BitVec 2) (s : State) : exec (.sub d b c sat) s = execSub d b c sat s := rfl
@[simp] theorem exec_andR (d : SReg) (b : SReg) (c : SReg) (s : State) : exec (.andR d b c) s = execAndR d b c s := rfl
@[simp] theorem exec_orR (d : SReg) (b : SReg) (c : SReg) (s : State) : exec (.orR d b c) s = execOrR d b c s := rfl
@[simp] theorem exec_xorR (d : SReg) (b : SReg) (c : SReg) (s : State) : exec (.xorR d b c) s = execXorR d b c s := rfl
@[simp] theorem exec_sll (d : SReg) (b : SReg) (c : SReg) (s : State) : exec (.sll d b c) s = execSll d b c s := rfl
@[simp] theorem exec_srl (d : SReg) (b : SReg) (c : SReg) (s : State) : exec (.srl d b c) s = execSrl d b c s := rfl
@[simp] theorem exec_sra (d : SReg) (b : SReg) (c : SReg) (s : State) : exec (.sra d b c) s = execSra d b c s := rfl
@[simp] theorem exec_addI (d : SReg) (b : SReg) (imm : BitVec 11) (s : State) : exec (.addI d b imm) s = execAddI d b imm s := rfl
@[simp] theorem exec_rsubI (d : SReg) (b : SReg) (imm : BitVec 11) (s : State) : exec (.rsubI d b imm) s = execRsubI d b imm s := rfl
@[simp] theorem exec_andI (d : SReg) (b : SReg) (imm : BitVec 11) (s : State) : exec (.andI d b imm) s = execAndI d b imm s := rfl
@[simp] theorem exec_orI (d : SReg) (b : SReg) (imm : BitVec 11) (s : State) : exec (.orI d b imm) s = execOrI d b imm s := rfl
@[simp] theorem exec_xorI (d : SReg) (b : SReg) (imm : BitVec 11) (s : State) : exec (.xorI d b imm) s = execXorI d b imm s := rfl
@[simp] theorem exec_sllI (d : SReg) (b : SReg) (imm : BitVec 11) (s : State) : exec (.sllI d b imm) s = execSllI d b imm s := rfl
@[simp] theorem exec_srlI (d : SReg) (b : SReg) (imm : BitVec 11) (s : State) : exec (.srlI d b imm) s = execSrlI d b imm s := rfl
@[simp] theorem exec_sraI (d : SReg) (b : SReg) (imm : BitVec 11) (s : State) : exec (.sraI d b imm) s = execSraI d b imm s := rfl
@[simp] theorem exec_addW (d : SReg) (b : SReg) (imm : BitVec 16) (s : State) : exec (.addW d b imm) s = execAddW d b imm s := rfl
@[simp] theorem exec_rsubW (d : SReg) (b : SReg) (imm : BitVec 16) (s : State) : exec (.rsubW d b imm) s = execRsubW d b imm s := rfl
@[simp] theorem exec_andW (d : SReg) (b : SReg) (imm : BitVec 16) (s : State) : exec (.andW d b imm) s = execAndW d b imm s := rfl
@[simp] theorem exec_orW (d : SReg) (b : SReg) (imm : BitVec 16) (s : State) : exec (.orW d b imm) s = execOrW d b imm s := rfl
@[simp] theorem exec_xorW (d : SReg) (b : SReg) (imm : BitVec 16) (s : State) : exec (.xorW d b imm) s = execXorW d b imm s := rfl
@[simp] theorem exec_sllW (d : SReg) (b : SReg) (imm : BitVec 16) (s : State) : exec (.sllW d b imm) s = execSllW d b imm s := rfl
@[simp] theorem exec_srlW (d : SReg) (b : SReg) (imm : BitVec 16) (s : State) : exec (.srlW d b imm) s = execSrlW d b imm s := rfl
@[simp] theorem exec_sraW (d : SReg) (b : SReg) (imm : BitVec 16) (s : State) : exec (.sraW d b imm) s = execSraW d b imm s := rfl
@[simp] theorem exec_seq (d : SReg) (b : SReg) (c : SReg) (s : State) : exec (.seq d b c) s = execSeq d b c s := rfl
@[simp] theorem exec_sne (d : SReg) (b : SReg) (c : SReg) (s : State) : exec (.sne d b c) s = execSne d b c s := rfl
@[simp] theorem exec_slt (d : SReg) (b : SReg) (c : SReg) (s : State) : exec (.slt d b c) s = execSlt d b c s := rfl
@[simp] theorem exec_sltu (d : SReg) (b : SReg) (c : SReg) (s : State) : exec (.sltu d b c) s = execSltu d b c s := rfl
@[simp] theorem exec_sle (d : SReg) (b : SReg) (c : SReg) (s : State) : exec (.sle d b c) s = execSle d b c s := rfl
@[simp] theorem exec_sleu (d : SReg) (b : SReg) (c : SReg) (s : State) : exec (.sleu d b c) s = execSleu d b c s := rfl
@[simp] theorem exec_minS (d : SReg) (b : SReg) (c : SReg) (s : State) : exec (.minS d b c) s = execMinS d b c s := rfl
@[simp] theorem exec_minU (d : SReg) (b : SReg) (c : SReg) (s : State) : exec (.minU d b c) s = execMinU d b c s := rfl
@[simp] theorem exec_maxS (d : SReg) (b : SReg) (c : SReg) (s : State) : exec (.maxS d b c) s = execMaxS d b c s := rfl
@[simp] theorem exec_maxU (d : SReg) (b : SReg) (c : SReg) (s : State) : exec (.maxU d b c) s = execMaxU d b c s := rfl
@[simp] theorem exec_seqW (d : SReg) (b : SReg) (imm : BitVec 16) (s : State) : exec (.seqW d b imm) s = execSeqW d b imm s := rfl
@[simp] theorem exec_sneW (d : SReg) (b : SReg) (imm : BitVec 16) (s : State) : exec (.sneW d b imm) s = execSneW d b imm s := rfl
@[simp] theorem exec_sltW (d : SReg) (b : SReg) (imm : BitVec 16) (s : State) : exec (.sltW d b imm) s = execSltW d b imm s := rfl
@[simp] theorem exec_sltuW (d : SReg) (b : SReg) (imm : BitVec 16) (s : State) : exec (.sltuW d b imm) s = execSltuW d b imm s := rfl
@[simp] theorem exec_sleW (d : SReg) (b : SReg) (imm : BitVec 16) (s : State) : exec (.sleW d b imm) s = execSleW d b imm s := rfl
@[simp] theorem exec_sleuW (d : SReg) (b : SReg) (imm : BitVec 16) (s : State) : exec (.sleuW d b imm) s = execSleuW d b imm s := rfl
@[simp] theorem exec_minW (d : SReg) (b : SReg) (imm : BitVec 16) (s : State) : exec (.minW d b imm) s = execMinW d b imm s := rfl
@[simp] theorem exec_minuW (d : SReg) (b : SReg) (imm : BitVec 16) (s : State) : exec (.minuW d b imm) s = execMinuW d b imm s := rfl
@[simp] theorem exec_maxW (d : SReg) (b : SReg) (imm : BitVec 16) (s : State) : exec (.maxW d b imm) s = execMaxW d b imm s := rfl
@[simp] theorem exec_maxuW (d : SReg) (b : SReg) (imm : BitVec 16) (s : State) : exec (.maxuW d b imm) s = execMaxuW d b imm s := rfl
@[simp] theorem exec_mul (d : SReg) (b : SReg) (c : SReg) (s : State) : exec (.mul d b c) s = execMul d b c s := rfl
@[simp] theorem exec_mulh (d : SReg) (b : SReg) (c : SReg) (s : State) : exec (.mulh d b c) s = execMulh d b c s := rfl
@[simp] theorem exec_mulhu (d : SReg) (b : SReg) (c : SReg) (s : State) : exec (.mulhu d b c) s = execMulhu d b c s := rfl
@[simp] theorem exec_mulhsu (d : SReg) (b : SReg) (c : SReg) (s : State) : exec (.mulhsu d b c) s = execMulhsu d b c s := rfl
@[simp] theorem exec_div (d : SReg) (b : SReg) (c : SReg) (s : State) : exec (.div d b c) s = execDiv d b c s := rfl
@[simp] theorem exec_divu (d : SReg) (b : SReg) (c : SReg) (s : State) : exec (.divu d b c) s = execDivu d b c s := rfl
@[simp] theorem exec_rem (d : SReg) (b : SReg) (c : SReg) (s : State) : exec (.rem d b c) s = execRem d b c s := rfl
@[simp] theorem exec_remu (d : SReg) (b : SReg) (c : SReg) (s : State) : exec (.remu d b c) s = execRemu d b c s := rfl
@[simp] theorem exec_clz (d : SReg) (b : SReg) (s : State) : exec (.clz d b) s = execClz d b s := rfl
@[simp] theorem exec_ctz (d : SReg) (b : SReg) (s : State) : exec (.ctz d b) s = execCtz d b s := rfl
@[simp] theorem exec_popc (d : SReg) (b : SReg) (s : State) : exec (.popc d b) s = execPopc d b s := rfl
@[simp] theorem exec_brev (d : SReg) (b : SReg) (s : State) : exec (.brev d b) s = execBrev d b s := rfl
@[simp] theorem exec_bswap (d : SReg) (b : SReg) (s : State) : exec (.bswap d b) s = execBswap d b s := rfl
@[simp] theorem exec_rol (d : SReg) (b : SReg) (c : SReg) (s : State) : exec (.rol d b c) s = execRol d b c s := rfl
@[simp] theorem exec_ror (d : SReg) (b : SReg) (c : SReg) (s : State) : exec (.ror d b c) s = execRor d b c s := rfl
@[simp] theorem exec_ext (d : SReg) (b : SReg) (pos : BitVec 6) (lenM1 : BitVec 6) (s : State) : exec (.ext d b pos lenM1) s = execExt d b pos lenM1 s := rfl
@[simp] theorem exec_extu (d : SReg) (b : SReg) (pos : BitVec 6) (lenM1 : BitVec 6) (s : State) : exec (.extu d b pos lenM1) s = execExtu d b pos lenM1 s := rfl
@[simp] theorem exec_ins (d : SReg) (b : SReg) (pos : BitVec 6) (lenM1 : BitVec 6) (s : State) : exec (.ins d b pos lenM1) s = execIns d b pos lenM1 s := rfl
@[simp] theorem exec_li (d : SReg) (imm : BitVec 11) (s : State) : exec (.li d imm) s = execLi d imm s := rfl
@[simp] theorem exec_liZ (d : SReg) (imm : BitVec 11) (s : State) : exec (.liZ d imm) s = execLiZ d imm s := rfl
@[simp] theorem exec_liW (d : SReg) (imm : BitVec 16) (s : State) : exec (.liW d imm) s = execLiW d imm s := rfl
@[simp] theorem exec_liZW (d : SReg) (imm : BitVec 16) (s : State) : exec (.liZW d imm) s = execLiZW d imm s := rfl
@[simp] theorem exec_lih (d : SReg) (imm : BitVec 16) (s : State) : exec (.lih d imm) s = execLih d imm s := rfl
@[simp] theorem exec_liX0 (d : SReg) (imm : BitVec 48) (s : State) : exec (.liX0 d imm) s = execLiX0 d imm s := rfl
@[simp] theorem exec_liZX0 (d : SReg) (imm : BitVec 48) (s : State) : exec (.liZX0 d imm) s = execLiZX0 d imm s := rfl
@[simp] theorem exec_lea (d : SReg) (b : SReg) (imm : BitVec 11) (s : State) : exec (.lea d b imm) s = execLea d b imm s := rfl
@[simp] theorem exec_leaW (d : SReg) (b : SReg) (imm : BitVec 16) (s : State) : exec (.leaW d b imm) s = execLeaW d b imm s := rfl
@[simp] theorem exec_leaX1 (n : BitVec 2) (d : SReg) (b : SReg) (c : SReg) (imm : BitVec 33) (s : State) : exec (.leaX1 n d b c imm) s = execLeaX1 n d b c imm s := rfl
@[simp] theorem exec_mov (d : SReg) (b : SReg) (s : State) : exec (.mov d b) s = execMov d b s := rfl
@[simp] theorem exec_sel (d : SReg) (b : SReg) (c : SReg) (k : SReg) (s : State) : exec (.sel d b c k) s = execSel d b c k s := rfl
@[simp] theorem exec_beqz (b : SReg) (off : BitVec 27) (s : State) : exec (.beqz b off) s = execBeqz b off s := rfl
@[simp] theorem exec_bnez (b : SReg) (off : BitVec 27) (s : State) : exec (.bnez b off) s = execBnez b off s := rfl
@[simp] theorem exec_bltz (b : SReg) (off : BitVec 27) (s : State) : exec (.bltz b off) s = execBltz b off s := rfl
@[simp] theorem exec_bgez (b : SReg) (off : BitVec 27) (s : State) : exec (.bgez b off) s = execBgez b off s := rfl
@[simp] theorem exec_bgtz (b : SReg) (off : BitVec 27) (s : State) : exec (.bgtz b off) s = execBgtz b off s := rfl
@[simp] theorem exec_blez (b : SReg) (off : BitVec 27) (s : State) : exec (.blez b off) s = execBlez b off s := rfl
@[simp] theorem exec_beq (b : SReg) (c : SReg) (off : BitVec 27) (s : State) : exec (.beq b c off) s = execBeq b c off s := rfl
@[simp] theorem exec_bne (b : SReg) (c : SReg) (off : BitVec 27) (s : State) : exec (.bne b c off) s = execBne b c off s := rfl
@[simp] theorem exec_blt (b : SReg) (c : SReg) (off : BitVec 27) (s : State) : exec (.blt b c off) s = execBlt b c off s := rfl
@[simp] theorem exec_bge (b : SReg) (c : SReg) (off : BitVec 27) (s : State) : exec (.bge b c off) s = execBge b c off s := rfl
@[simp] theorem exec_bltu (b : SReg) (c : SReg) (off : BitVec 27) (s : State) : exec (.bltu b c off) s = execBltu b c off s := rfl
@[simp] theorem exec_bgeu (b : SReg) (c : SReg) (off : BitVec 27) (s : State) : exec (.bgeu b c off) s = execBgeu b c off s := rfl
@[simp] theorem exec_br (off : BitVec 27) (s : State) : exec (.br off) s = execBr off s := rfl
@[simp] theorem exec_call (off : BitVec 27) (s : State) : exec (.call off) s = execCall off s := rfl
@[simp] theorem exec_dbnz (b : SReg) (off : BitVec 27) (s : State) : exec (.dbnz b off) s = execDbnz b off s := rfl
@[simp] theorem exec_jt (l : BitVec 5) (b : SReg) (c : SReg) (nM1 : BitVec 6) (s : State) : exec (.jt l b c nM1) s = execJt l b c nM1 s := rfl
@[simp] theorem exec_callt (l : BitVec 5) (b : SReg) (c : SReg) (nM1 : BitVec 6) (s : State) : exec (.callt l b c nM1) s = execCallt l b c nM1 s := rfl
@[simp] theorem exec_jtW (b : SReg) (c : SReg) (n : SReg) (l : BitVec 11) (s : State) : exec (.jtW b c n l) s = execJtW b c n l s := rfl
@[simp] theorem exec_calltW (b : SReg) (c : SReg) (n : SReg) (l : BitVec 11) (s : State) : exec (.calltW b c n l) s = execCalltW b c n l s := rfl
@[simp] theorem exec_lpad (l : BitVec 11) (s : State) : exec (.lpad l) s = execLpad l s := rfl
@[simp] theorem exec_nop (s : State) : exec .nop s = execNop s := rfl
@[simp] theorem exec_exit (s : State) : exec .exit s = execExit s := rfl
@[simp] theorem exec_rets (f : SReg) (s : State) : exec (.rets f) s = execRets f s := rfl
@[simp] theorem exec_ret (s : State) : exec .ret s = execRet s := rfl
@[simp] theorem exec_trap (b : SReg) (code : BitVec 11) (s : State) : exec (.trap b code) s = execTrap b code s := rfl
@[simp] theorem exec_eret (s : State) : exec .eret s = execEret s := rfl
@[simp] theorem exec_mfc (d : SReg) (n : BitVec 11) (s : State) : exec (.mfc d n) s = execMfc d n s := rfl
@[simp] theorem exec_mtc (r : SReg) (n : BitVec 11) (s : State) : exec (.mtc r n) s = execMtc r n s := rfl
@[simp] theorem exec_ld (d : SReg) (b : SReg) (imm : BitVec 11) (s : State) : exec (.ld d b imm) s = execLd d b imm s := rfl
@[simp] theorem exec_lw (d : SReg) (b : SReg) (imm : BitVec 11) (s : State) : exec (.lw d b imm) s = execLw d b imm s := rfl
@[simp] theorem exec_lwu (d : SReg) (b : SReg) (imm : BitVec 11) (s : State) : exec (.lwu d b imm) s = execLwu d b imm s := rfl
@[simp] theorem exec_lh (d : SReg) (b : SReg) (imm : BitVec 11) (s : State) : exec (.lh d b imm) s = execLh d b imm s := rfl
@[simp] theorem exec_lhu (d : SReg) (b : SReg) (imm : BitVec 11) (s : State) : exec (.lhu d b imm) s = execLhu d b imm s := rfl
@[simp] theorem exec_lb (d : SReg) (b : SReg) (imm : BitVec 11) (s : State) : exec (.lb d b imm) s = execLb d b imm s := rfl
@[simp] theorem exec_lbu (d : SReg) (b : SReg) (imm : BitVec 11) (s : State) : exec (.lbu d b imm) s = execLbu d b imm s := rfl
@[simp] theorem exec_ldW (d : SReg) (b : SReg) (rx : BitVec 1) (imm : BitVec 16) (s : State) : exec (.ldW d b rx imm) s = execLdW d b rx imm s := rfl
@[simp] theorem exec_lwW (d : SReg) (b : SReg) (rx : BitVec 1) (imm : BitVec 16) (s : State) : exec (.lwW d b rx imm) s = execLwW d b rx imm s := rfl
@[simp] theorem exec_lwuW (d : SReg) (b : SReg) (rx : BitVec 1) (imm : BitVec 16) (s : State) : exec (.lwuW d b rx imm) s = execLwuW d b rx imm s := rfl
@[simp] theorem exec_lhW (d : SReg) (b : SReg) (rx : BitVec 1) (imm : BitVec 16) (s : State) : exec (.lhW d b rx imm) s = execLhW d b rx imm s := rfl
@[simp] theorem exec_lhuW (d : SReg) (b : SReg) (rx : BitVec 1) (imm : BitVec 16) (s : State) : exec (.lhuW d b rx imm) s = execLhuW d b rx imm s := rfl
@[simp] theorem exec_lbW (d : SReg) (b : SReg) (rx : BitVec 1) (imm : BitVec 16) (s : State) : exec (.lbW d b rx imm) s = execLbW d b rx imm s := rfl
@[simp] theorem exec_lbuW (d : SReg) (b : SReg) (rx : BitVec 1) (imm : BitVec 16) (s : State) : exec (.lbuW d b rx imm) s = execLbuW d b rx imm s := rfl
@[simp] theorem exec_ldX1 (d : SReg) (b : SReg) (c : SReg) (rx : BitVec 1) (imm : BitVec 32) (s : State) : exec (.ldX1 d b c rx imm) s = execLdX1 d b c rx imm s := rfl
@[simp] theorem exec_lwX1 (d : SReg) (b : SReg) (c : SReg) (rx : BitVec 1) (imm : BitVec 32) (s : State) : exec (.lwX1 d b c rx imm) s = execLwX1 d b c rx imm s := rfl
@[simp] theorem exec_lwuX1 (d : SReg) (b : SReg) (c : SReg) (rx : BitVec 1) (imm : BitVec 32) (s : State) : exec (.lwuX1 d b c rx imm) s = execLwuX1 d b c rx imm s := rfl
@[simp] theorem exec_lhX1 (d : SReg) (b : SReg) (c : SReg) (rx : BitVec 1) (imm : BitVec 32) (s : State) : exec (.lhX1 d b c rx imm) s = execLhX1 d b c rx imm s := rfl
@[simp] theorem exec_lhuX1 (d : SReg) (b : SReg) (c : SReg) (rx : BitVec 1) (imm : BitVec 32) (s : State) : exec (.lhuX1 d b c rx imm) s = execLhuX1 d b c rx imm s := rfl
@[simp] theorem exec_lbX1 (d : SReg) (b : SReg) (c : SReg) (rx : BitVec 1) (imm : BitVec 32) (s : State) : exec (.lbX1 d b c rx imm) s = execLbX1 d b c rx imm s := rfl
@[simp] theorem exec_lbuX1 (d : SReg) (b : SReg) (c : SReg) (rx : BitVec 1) (imm : BitVec 32) (s : State) : exec (.lbuX1 d b c rx imm) s = execLbuX1 d b c rx imm s := rfl
@[simp] theorem exec_st (a : SReg) (b : SReg) (imm : BitVec 11) (s : State) : exec (.st a b imm) s = execSt a b imm s := rfl
@[simp] theorem exec_sw (a : SReg) (b : SReg) (imm : BitVec 11) (s : State) : exec (.sw a b imm) s = execSw a b imm s := rfl
@[simp] theorem exec_sh (a : SReg) (b : SReg) (imm : BitVec 11) (s : State) : exec (.sh a b imm) s = execSh a b imm s := rfl
@[simp] theorem exec_sb (a : SReg) (b : SReg) (imm : BitVec 11) (s : State) : exec (.sb a b imm) s = execSb a b imm s := rfl
@[simp] theorem exec_stW (a : SReg) (b : SReg) (rx : BitVec 1) (imm : BitVec 16) (s : State) : exec (.stW a b rx imm) s = execStW a b rx imm s := rfl
@[simp] theorem exec_swW (a : SReg) (b : SReg) (rx : BitVec 1) (imm : BitVec 16) (s : State) : exec (.swW a b rx imm) s = execSwW a b rx imm s := rfl
@[simp] theorem exec_shW (a : SReg) (b : SReg) (rx : BitVec 1) (imm : BitVec 16) (s : State) : exec (.shW a b rx imm) s = execShW a b rx imm s := rfl
@[simp] theorem exec_sbW (a : SReg) (b : SReg) (rx : BitVec 1) (imm : BitVec 16) (s : State) : exec (.sbW a b rx imm) s = execSbW a b rx imm s := rfl
@[simp] theorem exec_stX1 (a : SReg) (b : SReg) (c : SReg) (rx : BitVec 1) (imm : BitVec 32) (s : State) : exec (.stX1 a b c rx imm) s = execStX1 a b c rx imm s := rfl
@[simp] theorem exec_swX1 (a : SReg) (b : SReg) (c : SReg) (rx : BitVec 1) (imm : BitVec 32) (s : State) : exec (.swX1 a b c rx imm) s = execSwX1 a b c rx imm s := rfl
@[simp] theorem exec_shX1 (a : SReg) (b : SReg) (c : SReg) (rx : BitVec 1) (imm : BitVec 32) (s : State) : exec (.shX1 a b c rx imm) s = execShX1 a b c rx imm s := rfl
@[simp] theorem exec_sbX1 (a : SReg) (b : SReg) (c : SReg) (rx : BitVec 1) (imm : BitVec 32) (s : State) : exec (.sbX1 a b c rx imm) s = execSbX1 a b c rx imm s := rfl
@[simp] theorem exec_vld (vd : VReg) (b : SReg) (mk : BitVec 4) (ew : BitVec 2) (s : State) : exec (.vld vd b mk ew) s = execVld vd b mk ew s := rfl
@[simp] theorem exec_vst (vd : VReg) (b : SReg) (mk : BitVec 4) (ew : BitVec 2) (s : State) : exec (.vst vd b mk ew) s = execVst vd b mk ew s := rfl
@[simp] theorem exec_vlds (vd : VReg) (b : SReg) (c : SReg) (mk : BitVec 4) (ew : BitVec 2) (s : State) : exec (.vlds vd b c mk ew) s = execVlds vd b c mk ew s := rfl
@[simp] theorem exec_vsts (vd : VReg) (b : SReg) (c : SReg) (mk : BitVec 4) (ew : BitVec 2) (s : State) : exec (.vsts vd b c mk ew) s = execVsts vd b c mk ew s := rfl
@[simp] theorem exec_vldW (vd : VReg) (b : SReg) (mk : BitVec 4) (rx : BitVec 1) (ew : BitVec 2) (imm : BitVec 14) (s : State) : exec (.vldW vd b mk rx ew imm) s = execVldW vd b mk rx ew imm s := rfl
@[simp] theorem exec_vstW (vd : VReg) (b : SReg) (mk : BitVec 4) (rx : BitVec 1) (ew : BitVec 2) (imm : BitVec 14) (s : State) : exec (.vstW vd b mk rx ew imm) s = execVstW vd b mk rx ew imm s := rfl
@[simp] theorem exec_vldsW (vd : VReg) (b : SReg) (c : SReg) (mk : BitVec 4) (rx : BitVec 1) (ew : BitVec 2) (imm : BitVec 14) (s : State) : exec (.vldsW vd b c mk rx ew imm) s = execVldsW vd b c mk rx ew imm s := rfl
@[simp] theorem exec_vstsW (vd : VReg) (b : SReg) (c : SReg) (mk : BitVec 4) (rx : BitVec 1) (ew : BitVec 2) (imm : BitVec 14) (s : State) : exec (.vstsW vd b c mk rx ew imm) s = execVstsW vd b c mk rx ew imm s := rfl
@[simp] theorem exec_vldX1 (vd : VReg) (b : SReg) (mk : BitVec 4) (rx : BitVec 1) (ew : BitVec 2) (imm : BitVec 30) (s : State) : exec (.vldX1 vd b mk rx ew imm) s = execVldX1 vd b mk rx ew imm s := rfl
@[simp] theorem exec_vstX1 (vd : VReg) (b : SReg) (mk : BitVec 4) (rx : BitVec 1) (ew : BitVec 2) (imm : BitVec 30) (s : State) : exec (.vstX1 vd b mk rx ew imm) s = execVstX1 vd b mk rx ew imm s := rfl
@[simp] theorem exec_vldsX1 (vd : VReg) (b : SReg) (c : SReg) (mk : BitVec 4) (rx : BitVec 1) (ew : BitVec 2) (imm : BitVec 30) (s : State) : exec (.vldsX1 vd b c mk rx ew imm) s = execVldsX1 vd b c mk rx ew imm s := rfl
@[simp] theorem exec_vstsX1 (vd : VReg) (b : SReg) (c : SReg) (mk : BitVec 4) (rx : BitVec 1) (ew : BitVec 2) (imm : BitVec 30) (s : State) : exec (.vstsX1 vd b c mk rx ew imm) s = execVstsX1 vd b c mk rx ew imm s := rfl
@[simp] theorem exec_vgath (vd : VReg) (b : SReg) (c : VReg) (mk : BitVec 4) (x64 : BitVec 1) (s : State) : exec (.vgath vd b c mk x64) s = execVgath vd b c mk x64 s := rfl
@[simp] theorem exec_vscat (vd : VReg) (b : SReg) (c : VReg) (mk : BitVec 4) (x64 : BitVec 1) (s : State) : exec (.vscat vd b c mk x64) s = execVscat vd b c mk x64 s := rfl
@[simp] theorem exec_vgathW (vd : VReg) (b : SReg) (c : VReg) (mk : BitVec 4) (rx : BitVec 1) (x64 : BitVec 1) (sc : BitVec 2) (s : State) : exec (.vgathW vd b c mk rx x64 sc) s = execVgathW vd b c mk rx x64 sc s := rfl
@[simp] theorem exec_vscatW (vd : VReg) (b : SReg) (c : VReg) (mk : BitVec 4) (rx : BitVec 1) (x64 : BitVec 1) (sc : BitVec 2) (s : State) : exec (.vscatW vd b c mk rx x64 sc) s = execVscatW vd b c mk rx x64 sc s := rfl
@[simp] theorem exec_aadd (d : SReg) (b : SReg) (c : SReg) (w32 : BitVec 1) (rx : BitVec 1) (s : State) : exec (.aadd d b c w32 rx) s = execAadd d b c w32 rx s := rfl
@[simp] theorem exec_aand (d : SReg) (b : SReg) (c : SReg) (w32 : BitVec 1) (rx : BitVec 1) (s : State) : exec (.aand d b c w32 rx) s = execAand d b c w32 rx s := rfl
@[simp] theorem exec_aor (d : SReg) (b : SReg) (c : SReg) (w32 : BitVec 1) (rx : BitVec 1) (s : State) : exec (.aor d b c w32 rx) s = execAor d b c w32 rx s := rfl
@[simp] theorem exec_axor (d : SReg) (b : SReg) (c : SReg) (w32 : BitVec 1) (rx : BitVec 1) (s : State) : exec (.axor d b c w32 rx) s = execAxor d b c w32 rx s := rfl
@[simp] theorem exec_aswp (d : SReg) (b : SReg) (c : SReg) (w32 : BitVec 1) (rx : BitVec 1) (s : State) : exec (.aswp d b c w32 rx) s = execAswp d b c w32 rx s := rfl
@[simp] theorem exec_acas (d : SReg) (b : SReg) (c : SReg) (w32 : BitVec 1) (rx : BitVec 1) (s : State) : exec (.acas d b c w32 rx) s = execAcas d b c w32 rx s := rfl
@[simp] theorem exec_amin (d : SReg) (b : SReg) (c : SReg) (w32 : BitVec 1) (rx : BitVec 1) (s : State) : exec (.amin d b c w32 rx) s = execAmin d b c w32 rx s := rfl
@[simp] theorem exec_amax (d : SReg) (b : SReg) (c : SReg) (w32 : BitVec 1) (rx : BitVec 1) (s : State) : exec (.amax d b c w32 rx) s = execAmax d b c w32 rx s := rfl
@[simp] theorem exec_aminu (d : SReg) (b : SReg) (c : SReg) (w32 : BitVec 1) (rx : BitVec 1) (s : State) : exec (.aminu d b c w32 rx) s = execAminu d b c w32 rx s := rfl
@[simp] theorem exec_amaxu (d : SReg) (b : SReg) (c : SReg) (w32 : BitVec 1) (rx : BitVec 1) (s : State) : exec (.amaxu d b c w32 rx) s = execAmaxu d b c w32 rx s := rfl
@[simp] theorem exec_afadd (d : SReg) (b : SReg) (c : SReg) (w32 : BitVec 1) (rx : BitVec 1) (s : State) : exec (.afadd d b c w32 rx) s = execAfadd d b c w32 rx s := rfl
@[simp] theorem exec_aaddW (d : SReg) (b : SReg) (c : SReg) (w32 : BitVec 1) (rx : BitVec 1) (imm : BitVec 16) (s : State) : exec (.aaddW d b c w32 rx imm) s = execAaddW d b c w32 rx imm s := rfl
@[simp] theorem exec_aandW (d : SReg) (b : SReg) (c : SReg) (w32 : BitVec 1) (rx : BitVec 1) (imm : BitVec 16) (s : State) : exec (.aandW d b c w32 rx imm) s = execAandW d b c w32 rx imm s := rfl
@[simp] theorem exec_aorW (d : SReg) (b : SReg) (c : SReg) (w32 : BitVec 1) (rx : BitVec 1) (imm : BitVec 16) (s : State) : exec (.aorW d b c w32 rx imm) s = execAorW d b c w32 rx imm s := rfl
@[simp] theorem exec_axorW (d : SReg) (b : SReg) (c : SReg) (w32 : BitVec 1) (rx : BitVec 1) (imm : BitVec 16) (s : State) : exec (.axorW d b c w32 rx imm) s = execAxorW d b c w32 rx imm s := rfl
@[simp] theorem exec_aswpW (d : SReg) (b : SReg) (c : SReg) (w32 : BitVec 1) (rx : BitVec 1) (imm : BitVec 16) (s : State) : exec (.aswpW d b c w32 rx imm) s = execAswpW d b c w32 rx imm s := rfl
@[simp] theorem exec_acasW (d : SReg) (b : SReg) (c : SReg) (w32 : BitVec 1) (rx : BitVec 1) (imm : BitVec 16) (s : State) : exec (.acasW d b c w32 rx imm) s = execAcasW d b c w32 rx imm s := rfl
@[simp] theorem exec_aminW (d : SReg) (b : SReg) (c : SReg) (w32 : BitVec 1) (rx : BitVec 1) (imm : BitVec 16) (s : State) : exec (.aminW d b c w32 rx imm) s = execAminW d b c w32 rx imm s := rfl
@[simp] theorem exec_amaxW (d : SReg) (b : SReg) (c : SReg) (w32 : BitVec 1) (rx : BitVec 1) (imm : BitVec 16) (s : State) : exec (.amaxW d b c w32 rx imm) s = execAmaxW d b c w32 rx imm s := rfl
@[simp] theorem exec_aminuW (d : SReg) (b : SReg) (c : SReg) (w32 : BitVec 1) (rx : BitVec 1) (imm : BitVec 16) (s : State) : exec (.aminuW d b c w32 rx imm) s = execAminuW d b c w32 rx imm s := rfl
@[simp] theorem exec_amaxuW (d : SReg) (b : SReg) (c : SReg) (w32 : BitVec 1) (rx : BitVec 1) (imm : BitVec 16) (s : State) : exec (.amaxuW d b c w32 rx imm) s = execAmaxuW d b c w32 rx imm s := rfl
@[simp] theorem exec_afaddW (d : SReg) (b : SReg) (c : SReg) (w32 : BitVec 1) (rx : BitVec 1) (imm : BitVec 16) (s : State) : exec (.afaddW d b c w32 rx imm) s = execAfaddW d b c w32 rx imm s := rfl
@[simp] theorem exec_tatsw (t : BitVec 2) (s : State) : exec (.tatsw t) s = execTatsw t s := rfl
@[simp] theorem exec_tget (d : SReg) (b : SReg) (s : State) : exec (.tget d b) s = execTget d b s := rfl
@[simp] theorem exec_tset (b : SReg) (c : SReg) (s : State) : exec (.tset b c) s = execTset b c s := rfl
@[simp] theorem exec_tsetImm (b : SReg) (t : BitVec 3) (s : State) : exec (.tsetImm b t) s = execTsetImm b t s := rfl
@[simp] theorem exec_tcas (d : SReg) (b : SReg) (c : SReg) (s : State) : exec (.tcas d b c) s = execTcas d b c s := rfl
@[simp] theorem exec_tatld (t : BitVec 2) (b : SReg) (s : State) : exec (.tatld t b) s = execTatld t b s := rfl
@[simp] theorem exec_rmset (t : BitVec 2) (k : BitVec 6) (s : State) : exec (.rmset t k) s = execRmset t k s := rfl
@[simp] theorem exec_fence (sc : BitVec 3) (s : State) : exec (.fence sc) s = execFence sc s := rfl
@[simp] theorem exec_bar (sc : BitVec 3) (s : State) : exec (.bar sc) s = execBar sc s := rfl
@[simp] theorem exec_bara (sc : BitVec 3) (s : State) : exec (.bara sc) s = execBara sc s := rfl
@[simp] theorem exec_barw (sc : BitVec 3) (s : State) : exec (.barw sc) s = execBarw sc s := rfl
@[simp] theorem exec_xfence (p : BitVec 3) (q : BitVec 3) (s : State) : exec (.xfence p q) s = execXfence p q s := rfl
@[simp] theorem exec_sbinit (b : SReg) (c : SReg) (s : State) : exec (.sbinit b c) s = execSbinit b c s := rfl
@[simp] theorem exec_sbarv (d : SReg) (b : SReg) (sc : BitVec 3) (s : State) : exec (.sbarv d b sc) s = execSbarv d b sc s := rfl
@[simp] theorem exec_sbwait (d : SReg) (b : SReg) (c : SReg) (s : State) : exec (.sbwait d b c) s = execSbwait d b c s := rfl
@[simp] theorem exec_sbtest (d : SReg) (b : SReg) (c : SReg) (s : State) : exec (.sbtest d b c) s = execSbtest d b c s := rfl
@[simp] theorem exec_waitTag (b : SReg) (t : BitVec 3) (s : State) : exec (.waitTag b t) s = execWaitTag b t s := rfl
@[simp] theorem exec_dqlen (d : SReg) (s : State) : exec (.dqlen d) s = execDqlen d s := rfl
@[simp] theorem exec_joinWord (b : SReg) (s : State) : exec (.joinWord b) s = execJoinWord b s := rfl
@[simp] theorem exec_steal (d : SReg) (b : SReg) (t : BitVec 3) (s : State) : exec (.steal d b t) s = execSteal d b t s := rfl
@[simp] theorem exec_pcon (b : SReg) (fl : BitVec 4) (s : State) : exec (.pcon b fl) s = execPcon b fl s := rfl
@[simp] theorem exec_flushi (b : SReg) (c : SReg) (sc : BitVec 3) (s : State) : exec (.flushi b c sc) s = execFlushi b c sc s := rfl
@[simp] theorem exec_spawn (b : SReg) (off : BitVec 27) (s : State) : exec (.spawn b off) s = execSpawn b off s := rfl
@[simp] theorem exec_vadd (d : VReg) (b : VReg) (c : VReg) (mk : BitVec 4) (t : BitVec 2) (s : State) : exec (.vadd d b c mk t) s = execVadd d b c mk t s := rfl
@[simp] theorem exec_vsub (d : VReg) (b : VReg) (c : VReg) (mk : BitVec 4) (t : BitVec 2) (s : State) : exec (.vsub d b c mk t) s = execVsub d b c mk t s := rfl
@[simp] theorem exec_vmul (d : VReg) (b : VReg) (c : VReg) (mk : BitVec 4) (t : BitVec 2) (s : State) : exec (.vmul d b c mk t) s = execVmul d b c mk t s := rfl
@[simp] theorem exec_vmulh (d : VReg) (b : VReg) (c : VReg) (mk : BitVec 4) (t : BitVec 2) (s : State) : exec (.vmulh d b c mk t) s = execVmulh d b c mk t s := rfl
@[simp] theorem exec_vmin (d : VReg) (b : VReg) (c : VReg) (mk : BitVec 4) (t : BitVec 2) (s : State) : exec (.vmin d b c mk t) s = execVmin d b c mk t s := rfl
@[simp] theorem exec_vmax (d : VReg) (b : VReg) (c : VReg) (mk : BitVec 4) (t : BitVec 2) (s : State) : exec (.vmax d b c mk t) s = execVmax d b c mk t s := rfl
@[simp] theorem exec_vminu (d : VReg) (b : VReg) (c : VReg) (mk : BitVec 4) (t : BitVec 2) (s : State) : exec (.vminu d b c mk t) s = execVminu d b c mk t s := rfl
@[simp] theorem exec_vmaxu (d : VReg) (b : VReg) (c : VReg) (mk : BitVec 4) (t : BitVec 2) (s : State) : exec (.vmaxu d b c mk t) s = execVmaxu d b c mk t s := rfl
@[simp] theorem exec_vaddW (d : VReg) (b : VReg) (c : VReg) (z : BitVec 1) (mk : BitVec 4) (t : BitVec 2) (sat : BitVec 2) (s : State) : exec (.vaddW d b c z mk t sat) s = execVaddW d b c z mk t sat s := rfl
@[simp] theorem exec_vsubW (d : VReg) (b : VReg) (c : VReg) (z : BitVec 1) (mk : BitVec 4) (t : BitVec 2) (sat : BitVec 2) (s : State) : exec (.vsubW d b c z mk t sat) s = execVsubW d b c z mk t sat s := rfl
@[simp] theorem exec_vmulW (d : VReg) (b : VReg) (c : VReg) (z : BitVec 1) (mk : BitVec 4) (t : BitVec 2) (sat : BitVec 2) (s : State) : exec (.vmulW d b c z mk t sat) s = execVmulW d b c z mk t sat s := rfl
@[simp] theorem exec_vmulhW (d : VReg) (b : VReg) (c : VReg) (z : BitVec 1) (mk : BitVec 4) (t : BitVec 2) (s : State) : exec (.vmulhW d b c z mk t) s = execVmulhW d b c z mk t s := rfl
@[simp] theorem exec_vminW (d : VReg) (b : VReg) (c : VReg) (z : BitVec 1) (mk : BitVec 4) (t : BitVec 2) (s : State) : exec (.vminW d b c z mk t) s = execVminW d b c z mk t s := rfl
@[simp] theorem exec_vmaxW (d : VReg) (b : VReg) (c : VReg) (z : BitVec 1) (mk : BitVec 4) (t : BitVec 2) (s : State) : exec (.vmaxW d b c z mk t) s = execVmaxW d b c z mk t s := rfl
@[simp] theorem exec_vminuW (d : VReg) (b : VReg) (c : VReg) (z : BitVec 1) (mk : BitVec 4) (t : BitVec 2) (s : State) : exec (.vminuW d b c z mk t) s = execVminuW d b c z mk t s := rfl
@[simp] theorem exec_vmaxuW (d : VReg) (b : VReg) (c : VReg) (z : BitVec 1) (mk : BitVec 4) (t : BitVec 2) (s : State) : exec (.vmaxuW d b c z mk t) s = execVmaxuW d b c z mk t s := rfl
@[simp] theorem exec_vand (d : VReg) (b : VReg) (c : VReg) (z : BitVec 1) (mk : BitVec 4) (t : BitVec 2) (s : State) : exec (.vand d b c z mk t) s = execVand d b c z mk t s := rfl
@[simp] theorem exec_vor (d : VReg) (b : VReg) (c : VReg) (z : BitVec 1) (mk : BitVec 4) (t : BitVec 2) (s : State) : exec (.vor d b c z mk t) s = execVor d b c z mk t s := rfl
@[simp] theorem exec_vxor (d : VReg) (b : VReg) (c : VReg) (z : BitVec 1) (mk : BitVec 4) (t : BitVec 2) (s : State) : exec (.vxor d b c z mk t) s = execVxor d b c z mk t s := rfl
@[simp] theorem exec_vsll (d : VReg) (b : VReg) (c : VReg) (z : BitVec 1) (mk : BitVec 4) (t : BitVec 2) (s : State) : exec (.vsll d b c z mk t) s = execVsll d b c z mk t s := rfl
@[simp] theorem exec_vsrl (d : VReg) (b : VReg) (c : VReg) (z : BitVec 1) (mk : BitVec 4) (t : BitVec 2) (s : State) : exec (.vsrl d b c z mk t) s = execVsrl d b c z mk t s := rfl
@[simp] theorem exec_vsra (d : VReg) (b : VReg) (c : VReg) (z : BitVec 1) (mk : BitVec 4) (t : BitVec 2) (s : State) : exec (.vsra d b c z mk t) s = execVsra d b c z mk t s := rfl
@[simp] theorem exec_vmulhu (d : VReg) (b : VReg) (c : VReg) (z : BitVec 1) (mk : BitVec 4) (t : BitVec 2) (s : State) : exec (.vmulhu d b c z mk t) s = execVmulhu d b c z mk t s := rfl
@[simp] theorem exec_vabs (d : VReg) (b : VReg) (mk : BitVec 4) (t : BitVec 2) (sat : BitVec 2) (s : State) : exec (.vabs d b mk t sat) s = execVabs d b mk t sat s := rfl
@[simp] theorem exec_vfadd (d : VReg) (b : VReg) (c : VReg) (mk : BitVec 4) (t : BitVec 2) (s : State) : exec (.vfadd d b c mk t) s = execVfadd d b c mk t s := rfl
@[simp] theorem exec_vfsub (d : VReg) (b : VReg) (c : VReg) (mk : BitVec 4) (t : BitVec 2) (s : State) : exec (.vfsub d b c mk t) s = execVfsub d b c mk t s := rfl
@[simp] theorem exec_vfmul (d : VReg) (b : VReg) (c : VReg) (mk : BitVec 4) (t : BitVec 2) (s : State) : exec (.vfmul d b c mk t) s = execVfmul d b c mk t s := rfl
@[simp] theorem exec_vfdiv (d : VReg) (b : VReg) (c : VReg) (mk : BitVec 4) (t : BitVec 2) (s : State) : exec (.vfdiv d b c mk t) s = execVfdiv d b c mk t s := rfl
@[simp] theorem exec_vfmin (d : VReg) (b : VReg) (c : VReg) (mk : BitVec 4) (t : BitVec 2) (s : State) : exec (.vfmin d b c mk t) s = execVfmin d b c mk t s := rfl
@[simp] theorem exec_vfmax (d : VReg) (b : VReg) (c : VReg) (mk : BitVec 4) (t : BitVec 2) (s : State) : exec (.vfmax d b c mk t) s = execVfmax d b c mk t s := rfl
@[simp] theorem exec_vfsqrt (d : VReg) (b : VReg) (mk : BitVec 4) (t : BitVec 2) (s : State) : exec (.vfsqrt d b mk t) s = execVfsqrt d b mk t s := rfl
@[simp] theorem exec_vfaddW (d : VReg) (b : VReg) (c : VReg) (z : BitVec 1) (mk : BitVec 4) (t : BitVec 2) (rm : BitVec 3) (s : State) : exec (.vfaddW d b c z mk t rm) s = execVfaddW d b c z mk t rm s := rfl
@[simp] theorem exec_vfsubW (d : VReg) (b : VReg) (c : VReg) (z : BitVec 1) (mk : BitVec 4) (t : BitVec 2) (rm : BitVec 3) (s : State) : exec (.vfsubW d b c z mk t rm) s = execVfsubW d b c z mk t rm s := rfl
@[simp] theorem exec_vfmulW (d : VReg) (b : VReg) (c : VReg) (z : BitVec 1) (mk : BitVec 4) (t : BitVec 2) (rm : BitVec 3) (s : State) : exec (.vfmulW d b c z mk t rm) s = execVfmulW d b c z mk t rm s := rfl
@[simp] theorem exec_vfdivW (d : VReg) (b : VReg) (c : VReg) (z : BitVec 1) (mk : BitVec 4) (t : BitVec 2) (rm : BitVec 3) (s : State) : exec (.vfdivW d b c z mk t rm) s = execVfdivW d b c z mk t rm s := rfl
@[simp] theorem exec_vfminW (d : VReg) (b : VReg) (c : VReg) (z : BitVec 1) (mk : BitVec 4) (t : BitVec 2) (rm : BitVec 3) (s : State) : exec (.vfminW d b c z mk t rm) s = execVfminW d b c z mk t rm s := rfl
@[simp] theorem exec_vfmaxW (d : VReg) (b : VReg) (c : VReg) (z : BitVec 1) (mk : BitVec 4) (t : BitVec 2) (rm : BitVec 3) (s : State) : exec (.vfmaxW d b c z mk t rm) s = execVfmaxW d b c z mk t rm s := rfl
@[simp] theorem exec_vfsqrtW (d : VReg) (b : VReg) (mk : BitVec 4) (t : BitVec 2) (rm : BitVec 3) (s : State) : exec (.vfsqrtW d b mk t rm) s = execVfsqrtW d b mk t rm s := rfl
@[simp] theorem exec_vfneg (d : VReg) (b : VReg) (mk : BitVec 4) (t : BitVec 2) (rm : BitVec 3) (s : State) : exec (.vfneg d b mk t rm) s = execVfneg d b mk t rm s := rfl
@[simp] theorem exec_vfabs (d : VReg) (b : VReg) (mk : BitVec 4) (t : BitVec 2) (rm : BitVec 3) (s : State) : exec (.vfabs d b mk t rm) s = execVfabs d b mk t rm s := rfl
@[simp] theorem exec_vfma (d : VReg) (b : VReg) (c : VReg) (mk : BitVec 4) (t : BitVec 2) (s : State) : exec (.vfma d b c mk t) s = execVfma d b c mk t s := rfl
@[simp] theorem exec_vfms (d : VReg) (b : VReg) (c : VReg) (mk : BitVec 4) (t : BitVec 2) (s : State) : exec (.vfms d b c mk t) s = execVfms d b c mk t s := rfl
@[simp] theorem exec_vfnma (d : VReg) (b : VReg) (c : VReg) (mk : BitVec 4) (t : BitVec 2) (s : State) : exec (.vfnma d b c mk t) s = execVfnma d b c mk t s := rfl
@[simp] theorem exec_vfnms (d : VReg) (b : VReg) (c : VReg) (mk : BitVec 4) (t : BitVec 2) (s : State) : exec (.vfnms d b c mk t) s = execVfnms d b c mk t s := rfl
@[simp] theorem exec_vmac (d : VReg) (b : VReg) (c : VReg) (mk : BitVec 4) (t : BitVec 2) (s : State) : exec (.vmac d b c mk t) s = execVmac d b c mk t s := rfl
@[simp] theorem exec_vdot (d : VReg) (b : VReg) (c : VReg) (mk : BitVec 4) (t : BitVec 2) (s : State) : exec (.vdot d b c mk t) s = execVdot d b c mk t s := rfl
@[simp] theorem exec_vdotu (d : VReg) (b : VReg) (c : VReg) (mk : BitVec 4) (t : BitVec 2) (s : State) : exec (.vdotu d b c mk t) s = execVdotu d b c mk t s := rfl
@[simp] theorem exec_vfmaW (d : VReg) (b : VReg) (c : VReg) (e : VReg) (z : BitVec 1) (mk : BitVec 4) (t : BitVec 2) (rm : BitVec 3) (s : State) : exec (.vfmaW d b c e z mk t rm) s = execVfmaW d b c e z mk t rm s := rfl
@[simp] theorem exec_vfmsW (d : VReg) (b : VReg) (c : VReg) (e : VReg) (z : BitVec 1) (mk : BitVec 4) (t : BitVec 2) (rm : BitVec 3) (s : State) : exec (.vfmsW d b c e z mk t rm) s = execVfmsW d b c e z mk t rm s := rfl
@[simp] theorem exec_vfnmaW (d : VReg) (b : VReg) (c : VReg) (e : VReg) (z : BitVec 1) (mk : BitVec 4) (t : BitVec 2) (rm : BitVec 3) (s : State) : exec (.vfnmaW d b c e z mk t rm) s = execVfnmaW d b c e z mk t rm s := rfl
@[simp] theorem exec_vfnmsW (d : VReg) (b : VReg) (c : VReg) (e : VReg) (z : BitVec 1) (mk : BitVec 4) (t : BitVec 2) (rm : BitVec 3) (s : State) : exec (.vfnmsW d b c e z mk t rm) s = execVfnmsW d b c e z mk t rm s := rfl
@[simp] theorem exec_vmacW (d : VReg) (b : VReg) (c : VReg) (e : VReg) (z : BitVec 1) (mk : BitVec 4) (t : BitVec 2) (sat : BitVec 2) (s : State) : exec (.vmacW d b c e z mk t sat) s = execVmacW d b c e z mk t sat s := rfl
@[simp] theorem exec_vdotW (d : VReg) (b : VReg) (c : VReg) (e : VReg) (z : BitVec 1) (mk : BitVec 4) (t : BitVec 2) (sat : BitVec 2) (s : State) : exec (.vdotW d b c e z mk t sat) s = execVdotW d b c e z mk t sat s := rfl
@[simp] theorem exec_vdotuW (d : VReg) (b : VReg) (c : VReg) (e : VReg) (z : BitVec 1) (mk : BitVec 4) (t : BitVec 2) (sat : BitVec 2) (s : State) : exec (.vdotuW d b c e z mk t sat) s = execVdotuW d b c e z mk t sat s := rfl
@[simp] theorem exec_vseq (d : VReg) (b : VReg) (c : VReg) (mk : BitVec 4) (t : BitVec 2) (s : State) : exec (.vseq d b c mk t) s = execVseq d b c mk t s := rfl
@[simp] theorem exec_vsne (d : VReg) (b : VReg) (c : VReg) (mk : BitVec 4) (t : BitVec 2) (s : State) : exec (.vsne d b c mk t) s = execVsne d b c mk t s := rfl
@[simp] theorem exec_vslt (d : VReg) (b : VReg) (c : VReg) (mk : BitVec 4) (t : BitVec 2) (s : State) : exec (.vslt d b c mk t) s = execVslt d b c mk t s := rfl
@[simp] theorem exec_vsle (d : VReg) (b : VReg) (c : VReg) (mk : BitVec 4) (t : BitVec 2) (s : State) : exec (.vsle d b c mk t) s = execVsle d b c mk t s := rfl
@[simp] theorem exec_vsltu (d : VReg) (b : VReg) (c : VReg) (mk : BitVec 4) (t : BitVec 2) (s : State) : exec (.vsltu d b c mk t) s = execVsltu d b c mk t s := rfl
@[simp] theorem exec_vsleu (d : VReg) (b : VReg) (c : VReg) (mk : BitVec 4) (t : BitVec 2) (s : State) : exec (.vsleu d b c mk t) s = execVsleu d b c mk t s := rfl
@[simp] theorem exec_vseqW (d : VReg) (b : VReg) (c : VReg) (z : BitVec 1) (mk : BitVec 4) (t : BitVec 2) (s : State) : exec (.vseqW d b c z mk t) s = execVseqW d b c z mk t s := rfl
@[simp] theorem exec_vsneW (d : VReg) (b : VReg) (c : VReg) (z : BitVec 1) (mk : BitVec 4) (t : BitVec 2) (s : State) : exec (.vsneW d b c z mk t) s = execVsneW d b c z mk t s := rfl
@[simp] theorem exec_vsltW (d : VReg) (b : VReg) (c : VReg) (z : BitVec 1) (mk : BitVec 4) (t : BitVec 2) (s : State) : exec (.vsltW d b c z mk t) s = execVsltW d b c z mk t s := rfl
@[simp] theorem exec_vsleW (d : VReg) (b : VReg) (c : VReg) (z : BitVec 1) (mk : BitVec 4) (t : BitVec 2) (s : State) : exec (.vsleW d b c z mk t) s = execVsleW d b c z mk t s := rfl
@[simp] theorem exec_vsltuW (d : VReg) (b : VReg) (c : VReg) (z : BitVec 1) (mk : BitVec 4) (t : BitVec 2) (s : State) : exec (.vsltuW d b c z mk t) s = execVsltuW d b c z mk t s := rfl
@[simp] theorem exec_vsleuW (d : VReg) (b : VReg) (c : VReg) (z : BitVec 1) (mk : BitVec 4) (t : BitVec 2) (s : State) : exec (.vsleuW d b c z mk t) s = execVsleuW d b c z mk t s := rfl
@[simp] theorem exec_vfeq (d : VReg) (b : VReg) (c : VReg) (z : BitVec 1) (mk : BitVec 4) (t : BitVec 2) (s : State) : exec (.vfeq d b c z mk t) s = execVfeq d b c z mk t s := rfl
@[simp] theorem exec_vfne (d : VReg) (b : VReg) (c : VReg) (z : BitVec 1) (mk : BitVec 4) (t : BitVec 2) (s : State) : exec (.vfne d b c z mk t) s = execVfne d b c z mk t s := rfl
@[simp] theorem exec_vflt (d : VReg) (b : VReg) (c : VReg) (z : BitVec 1) (mk : BitVec 4) (t : BitVec 2) (s : State) : exec (.vflt d b c z mk t) s = execVflt d b c z mk t s := rfl
@[simp] theorem exec_vfle (d : VReg) (b : VReg) (c : VReg) (z : BitVec 1) (mk : BitVec 4) (t : BitVec 2) (s : State) : exec (.vfle d b c z mk t) s = execVfle d b c z mk t s := rfl
@[simp] theorem exec_vfun (d : VReg) (b : VReg) (c : VReg) (z : BitVec 1) (mk : BitVec 4) (t : BitVec 2) (s : State) : exec (.vfun d b c z mk t) s = execVfun d b c z mk t s := rfl
@[simp] theorem exec_vmov (d : VReg) (b : VReg) (mk : BitVec 4) (t : BitVec 2) (s : State) : exec (.vmov d b mk t) s = execVmov d b mk t s := rfl
@[simp] theorem exec_vbcast (d : VReg) (c : SReg) (mk : BitVec 4) (t : BitVec 2) (s : State) : exec (.vbcast d c mk t) s = execVbcast d c mk t s := rfl
@[simp] theorem exec_vsldn (d : VReg) (b : VReg) (c : SReg) (mk : BitVec 4) (t : BitVec 2) (s : State) : exec (.vsldn d b c mk t) s = execVsldn d b c mk t s := rfl
@[simp] theorem exec_vslup (d : VReg) (b : VReg) (c : SReg) (mk : BitVec 4) (t : BitVec 2) (s : State) : exec (.vslup d b c mk t) s = execVslup d b c mk t s := rfl
@[simp] theorem exec_vperm (d : VReg) (b : VReg) (c : VReg) (mk : BitVec 4) (t : BitVec 2) (s : State) : exec (.vperm d b c mk t) s = execVperm d b c mk t s := rfl
@[simp] theorem exec_vins (d : VReg) (b : SReg) (c : SReg) (mk : BitVec 4) (t : BitVec 2) (s : State) : exec (.vins d b c mk t) s = execVins d b c mk t s := rfl
@[simp] theorem exec_vext (d : SReg) (b : VReg) (c : SReg) (t : BitVec 2) (s : State) : exec (.vext d b c t) s = execVext d b c t s := rfl
@[simp] theorem exec_vmovW (d : VReg) (b : VReg) (mk : BitVec 4) (t : BitVec 2) (s : State) : exec (.vmovW d b mk t) s = execVmovW d b mk t s := rfl
@[simp] theorem exec_vbcastW (d : VReg) (c : SReg) (mk : BitVec 4) (t : BitVec 2) (s : State) : exec (.vbcastW d c mk t) s = execVbcastW d c mk t s := rfl
@[simp] theorem exec_vsldnW (d : VReg) (b : VReg) (c : SReg) (mk : BitVec 4) (t : BitVec 2) (s : State) : exec (.vsldnW d b c mk t) s = execVsldnW d b c mk t s := rfl
@[simp] theorem exec_vslupW (d : VReg) (b : VReg) (c : SReg) (mk : BitVec 4) (t : BitVec 2) (s : State) : exec (.vslupW d b c mk t) s = execVslupW d b c mk t s := rfl
@[simp] theorem exec_vpermW (d : VReg) (b : VReg) (c : VReg) (mk : BitVec 4) (t : BitVec 2) (s : State) : exec (.vpermW d b c mk t) s = execVpermW d b c mk t s := rfl
@[simp] theorem exec_vinsW (d : VReg) (b : SReg) (c : SReg) (mk : BitVec 4) (t : BitVec 2) (s : State) : exec (.vinsW d b c mk t) s = execVinsW d b c mk t s := rfl
@[simp] theorem exec_vextW (d : SReg) (b : VReg) (c : SReg) (t : BitVec 2) (s : State) : exec (.vextW d b c t) s = execVextW d b c t s := rfl
@[simp] theorem exec_vrsum (d : SReg) (b : VReg) (mk : BitVec 4) (t : BitVec 2) (s : State) : exec (.vrsum d b mk t) s = execVrsum d b mk t s := rfl
@[simp] theorem exec_vrmin (d : SReg) (b : VReg) (mk : BitVec 4) (t : BitVec 2) (s : State) : exec (.vrmin d b mk t) s = execVrmin d b mk t s := rfl
@[simp] theorem exec_vrmax (d : SReg) (b : VReg) (mk : BitVec 4) (t : BitVec 2) (s : State) : exec (.vrmax d b mk t) s = execVrmax d b mk t s := rfl
@[simp] theorem exec_vrminu (d : SReg) (b : VReg) (mk : BitVec 4) (t : BitVec 2) (s : State) : exec (.vrminu d b mk t) s = execVrminu d b mk t s := rfl
@[simp] theorem exec_vrmaxu (d : SReg) (b : VReg) (mk : BitVec 4) (t : BitVec 2) (s : State) : exec (.vrmaxu d b mk t) s = execVrmaxu d b mk t s := rfl
@[simp] theorem exec_vrpopc (d : SReg) (b : VReg) (mk : BitVec 4) (t : BitVec 2) (s : State) : exec (.vrpopc d b mk t) s = execVrpopc d b mk t s := rfl
@[simp] theorem exec_vrsumW (d : SReg) (b : VReg) (mk : BitVec 4) (t : BitVec 2) (s : State) : exec (.vrsumW d b mk t) s = execVrsumW d b mk t s := rfl
@[simp] theorem exec_vrminW (d : SReg) (b : VReg) (mk : BitVec 4) (t : BitVec 2) (s : State) : exec (.vrminW d b mk t) s = execVrminW d b mk t s := rfl
@[simp] theorem exec_vrmaxW (d : SReg) (b : VReg) (mk : BitVec 4) (t : BitVec 2) (s : State) : exec (.vrmaxW d b mk t) s = execVrmaxW d b mk t s := rfl
@[simp] theorem exec_vrminuW (d : SReg) (b : VReg) (mk : BitVec 4) (t : BitVec 2) (s : State) : exec (.vrminuW d b mk t) s = execVrminuW d b mk t s := rfl
@[simp] theorem exec_vrmaxuW (d : SReg) (b : VReg) (mk : BitVec 4) (t : BitVec 2) (s : State) : exec (.vrmaxuW d b mk t) s = execVrmaxuW d b mk t s := rfl
@[simp] theorem exec_vrpopcW (d : SReg) (b : VReg) (mk : BitVec 4) (t : BitVec 2) (s : State) : exec (.vrpopcW d b mk t) s = execVrpopcW d b mk t s := rfl
@[simp] theorem exec_vrfsum (d : SReg) (b : VReg) (mk : BitVec 4) (t : BitVec 2) (rm : BitVec 3) (s : State) : exec (.vrfsum d b mk t rm) s = execVrfsum d b mk t rm s := rfl
@[simp] theorem exec_vrfmin (d : SReg) (b : VReg) (mk : BitVec 4) (t : BitVec 2) (rm : BitVec 3) (s : State) : exec (.vrfmin d b mk t rm) s = execVrfmin d b mk t rm s := rfl
@[simp] theorem exec_vrfmax (d : SReg) (b : VReg) (mk : BitVec 4) (t : BitVec 2) (rm : BitVec 3) (s : State) : exec (.vrfmax d b mk t rm) s = execVrfmax d b mk t rm s := rfl
@[simp] theorem exec_vrfsumo (d : SReg) (b : VReg) (c : SReg) (mk : BitVec 4) (t : BitVec 2) (rm : BitVec 3) (s : State) : exec (.vrfsumo d b c mk t rm) s = execVrfsumo d b c mk t rm s := rfl
@[simp] theorem exec_vftoi (d : VReg) (b : VReg) (mk : BitVec 4) (sat : BitVec 1) (s : State) : exec (.vftoi d b mk sat) s = execVftoi d b mk sat s := rfl
@[simp] theorem exec_vftoiu (d : VReg) (b : VReg) (mk : BitVec 4) (sat : BitVec 1) (s : State) : exec (.vftoiu d b mk sat) s = execVftoiu d b mk sat s := rfl
@[simp] theorem exec_vitof (d : VReg) (b : VReg) (mk : BitVec 4) (s : State) : exec (.vitof d b mk) s = execVitof d b mk s := rfl
@[simp] theorem exec_vutof (d : VReg) (b : VReg) (mk : BitVec 4) (s : State) : exec (.vutof d b mk) s = execVutof d b mk s := rfl
@[simp] theorem exec_vcvt (d : VReg) (b : VReg) (p : BitVec 4) (r : VReg) (mk : BitVec 4) (fs : BitVec 4) (fd : BitVec 4) (rm : BitVec 3) (sat : BitVec 1) (s : State) : exec (.vcvt d b p r mk fs fd rm sat) s = execVcvt d b p r mk fs fd rm sat s := rfl
@[simp] theorem exec_vexp2 (d : VReg) (b : VReg) (mk : BitVec 4) (t : BitVec 2) (s : State) : exec (.vexp2 d b mk t) s = execVexp2 d b mk t s := rfl
@[simp] theorem exec_vlog2 (d : VReg) (b : VReg) (mk : BitVec 4) (t : BitVec 2) (s : State) : exec (.vlog2 d b mk t) s = execVlog2 d b mk t s := rfl
@[simp] theorem exec_vrcp (d : VReg) (b : VReg) (mk : BitVec 4) (t : BitVec 2) (s : State) : exec (.vrcp d b mk t) s = execVrcp d b mk t s := rfl
@[simp] theorem exec_vrsqrt (d : VReg) (b : VReg) (mk : BitVec 4) (t : BitVec 2) (s : State) : exec (.vrsqrt d b mk t) s = execVrsqrt d b mk t s := rfl
@[simp] theorem exec_vtanh (d : VReg) (b : VReg) (mk : BitVec 4) (t : BitVec 2) (s : State) : exec (.vtanh d b mk t) s = execVtanh d b mk t s := rfl
@[simp] theorem exec_vsig (d : VReg) (b : VReg) (mk : BitVec 4) (t : BitVec 2) (s : State) : exec (.vsig d b mk t) s = execVsig d b mk t s := rfl
@[simp] theorem exec_vexp (d : VReg) (b : VReg) (mk : BitVec 4) (t : BitVec 2) (s : State) : exec (.vexp d b mk t) s = execVexp d b mk t s := rfl
@[simp] theorem exec_vexp2W (d : VReg) (b : VReg) (mk : BitVec 4) (t : BitVec 2) (rm : BitVec 3) (s : State) : exec (.vexp2W d b mk t rm) s = execVexp2W d b mk t rm s := rfl
@[simp] theorem exec_vlog2W (d : VReg) (b : VReg) (mk : BitVec 4) (t : BitVec 2) (rm : BitVec 3) (s : State) : exec (.vlog2W d b mk t rm) s = execVlog2W d b mk t rm s := rfl
@[simp] theorem exec_vrcpW (d : VReg) (b : VReg) (mk : BitVec 4) (t : BitVec 2) (rm : BitVec 3) (s : State) : exec (.vrcpW d b mk t rm) s = execVrcpW d b mk t rm s := rfl
@[simp] theorem exec_vrsqrtW (d : VReg) (b : VReg) (mk : BitVec 4) (t : BitVec 2) (rm : BitVec 3) (s : State) : exec (.vrsqrtW d b mk t rm) s = execVrsqrtW d b mk t rm s := rfl
@[simp] theorem exec_vtanhW (d : VReg) (b : VReg) (mk : BitVec 4) (t : BitVec 2) (rm : BitVec 3) (s : State) : exec (.vtanhW d b mk t rm) s = execVtanhW d b mk t rm s := rfl
@[simp] theorem exec_vsigW (d : VReg) (b : VReg) (mk : BitVec 4) (t : BitVec 2) (rm : BitVec 3) (s : State) : exec (.vsigW d b mk t rm) s = execVsigW d b mk t rm s := rfl
@[simp] theorem exec_vexpW (d : VReg) (b : VReg) (mk : BitVec 4) (t : BitVec 2) (rm : BitVec 3) (s : State) : exec (.vexpW d b mk t rm) s = execVexpW d b mk t rm s := rfl
@[simp] theorem exec_modeM (s : State) : exec .modeM s = execModeM s := rfl
@[simp] theorem exec_modeV (s : State) : exec .modeV s = execModeV s := rfl
@[simp] theorem exec_mzero (s : State) : exec .mzero s = execMzero s := rfl
@[simp] theorem exec_mrnsoutRes30 (n : BitVec 5) (s : State) : exec (.mrnsoutRes30 n) s = execMrnsoutRes30 n s := rfl
@[simp] theorem exec_mrnsoutRes15 (n : BitVec 5) (s : State) : exec (.mrnsoutRes15 n) s = execMrnsoutRes15 n s := rfl
@[simp] theorem exec_mma (k : SReg) (b : SReg) (c : SReg) (za : BitVec 1) (s : State) : exec (.mma k b c za) s = execMma k b c za s := rfl
@[simp] theorem exec_mmas (k : SReg) (b : SReg) (c : SReg) (za : BitVec 1) (s : State) : exec (.mmas k b c za) s = execMmas k b c za s := rfl
@[simp] theorem exec_mmaW (k : SReg) (b : SReg) (c : SReg) (za : BitVec 1) (fa : BitVec 4) (fb : BitVec 4) (s : State) : exec (.mmaW k b c za fa fb) s = execMmaW k b c za fa fb s := rfl
@[simp] theorem exec_mmasW (k : SReg) (b : SReg) (c : SReg) (za : BitVec 1) (fa : BitVec 4) (fb : BitVec 4) (s : State) : exec (.mmasW k b c za fa fb) s = execMmasW k b c za fa fb s := rfl
@[simp] theorem exec_sclfeed (b : SReg) (c : SReg) (s : State) : exec (.sclfeed b c) s = execSclfeed b c s := rfl
@[simp] theorem exec_mplane (a : SReg) (b : SReg) (c : SReg) (sh : BitVec 1) (s : State) : exec (.mplane a b c sh) s = execMplane a b c sh s := rfl
@[simp] theorem exec_munpl (a : SReg) (b : SReg) (c : SReg) (sh : BitVec 1) (s : State) : exec (.munpl a b c sh) s = execMunpl a b c sh s := rfl
@[simp] theorem exec_mrnsin (a : SReg) (b : SReg) (dst : BitVec 1) (fs : BitVec 4) (s : State) : exec (.mrnsin a b dst fs) s = execMrnsin a b dst fs s := rfl
@[simp] theorem exec_mplaneW (a : SReg) (b : SReg) (c : SReg) (n : SReg) (fmt : BitVec 4) (s : State) : exec (.mplaneW a b c n fmt) s = execMplaneW a b c n fmt s := rfl
@[simp] theorem exec_munplW (a : SReg) (b : SReg) (c : SReg) (n : SReg) (fmt : BitVec 4) (s : State) : exec (.munplW a b c n fmt) s = execMunplW a b c n fmt s := rfl
@[simp] theorem exec_mrnsinW (a : SReg) (b : SReg) (n : SReg) (dst : BitVec 1) (fs : BitVec 4) (s : State) : exec (.mrnsinW a b n dst fs) s = execMrnsinW a b n dst fs s := rfl
@[simp] theorem exec_dld (d : DReg) (b : SReg) (s : State) : exec (.dld d b) s = execDld d b s := rfl
@[simp] theorem exec_dsv (d : DReg) (b : SReg) (s : State) : exec (.dsv d b) s = execDsv d b s := rfl
@[simp] theorem exec_dput (d : DReg) (c : SReg) (w : BitVec 2) (s : State) : exec (.dput d c w) s = execDput d c w s := rfl
@[simp] theorem exec_dget (d : SReg) (b : DReg) (w : BitVec 2) (s : State) : exec (.dget d b w) s = execDget d b w s := rfl
@[simp] theorem exec_dins (d : DReg) (c : SReg) (w : BitVec 2) (pos : BitVec 6) (lenM1 : BitVec 6) (s : State) : exec (.dins d c w pos lenM1) s = execDins d c w pos lenM1 s := rfl
@[simp] theorem exec_dinit (d : DReg) (b : SReg) (c : SReg) (tr : BitVec 1) (ro : BitVec 16) (co : BitVec 16) (s : State) : exec (.dinit d b c tr ro co) s = execDinit d b c tr ro co s := rfl
@[simp] theorem exec_tmul (d : DReg) (b : DReg) (c : DReg) (acc : BitVec 1) (kM1 : BitVec 11) (s : State) : exec (.tmul d b c acc kM1) s = execTmul d b c acc kM1 s := rfl
@[simp] theorem exec_tadd (d : DReg) (b : DReg) (c : DReg) (s : State) : exec (.tadd d b c) s = execTadd d b c s := rfl
@[simp] theorem exec_tsub (d : DReg) (b : DReg) (c : DReg) (s : State) : exec (.tsub d b c) s = execTsub d b c s := rfl
@[simp] theorem exec_tmax (d : DReg) (b : DReg) (c : DReg) (s : State) : exec (.tmax d b c) s = execTmax d b c s := rfl
@[simp] theorem exec_tcvt (d : DReg) (b : DReg) (sat : BitVec 1) (rm : BitVec 3) (s : State) : exec (.tcvt d b sat rm) s = execTcvt d b sat rm s := rfl
@[simp] theorem exec_tred (d : DReg) (b : DReg) (op : BitVec 1) (s : State) : exec (.tred d b op) s = execTred d b op s := rfl
@[simp] theorem exec_taddW (d : DReg) (b : DReg) (c : DReg) (rm : BitVec 3) (s : State) : exec (.taddW d b c rm) s = execTaddW d b c rm s := rfl
@[simp] theorem exec_tsubW (d : DReg) (b : DReg) (c : DReg) (rm : BitVec 3) (s : State) : exec (.tsubW d b c rm) s = execTsubW d b c rm s := rfl
@[simp] theorem exec_tmaxW (d : DReg) (b : DReg) (c : DReg) (rm : BitVec 3) (s : State) : exec (.tmaxW d b c rm) s = execTmaxW d b c rm s := rfl
@[simp] theorem exec_tmap (d : DReg) (b : DReg) (c : SReg) (e : SReg) (fn : BitVec 2) (rm : BitVec 3) (s : State) : exec (.tmap d b c e fn rm) s = execTmap d b c e fn rm s := rfl
@[simp] theorem exec_force (s : State) : exec .force s = execForce s := rfl
@[simp] theorem exec_forceM (b : DReg) (s : State) : exec (.forceM b) s = execForceM b s := rfl
@[simp] theorem exec_forceW (b : DReg) (rb : BitVec 8) (nbM1 : BitVec 8) (s : State) : exec (.forceW b rb nbM1) s = execForceW b rb nbM1 s := rfl
@[simp] theorem exec_tdrop (s : State) : exec .tdrop s = execTdrop s := rfl
@[simp] theorem exec_tdropM (n : BitVec 3) (s : State) : exec (.tdropM n) s = execTdropM n s := rfl
@[simp] theorem exec_tqry (d : SReg) (n : BitVec 3) (s : State) : exec (.tqry d n) s = execTqry d n s := rfl
@[simp] theorem exec_tst (d : DReg) (b : DReg) (s : State) : exec (.tst d b) s = execTst d b s := rfl
@[simp] theorem exec_cp (t : SReg) (b : SReg) (c : SReg) (rs : BitVec 1) (s : State) : exec (.cp t b c rs) s = execCp t b c rs s := rfl
@[simp] theorem exec_cps (t : SReg) (b : SReg) (c : SReg) (g : SReg) (rs : BitVec 1) (dec : BitVec 16) (s : State) : exec (.cps t b c g rs dec) s = execCps t b c g rs dec s := rfl
@[simp] theorem exec_draw (d : SReg) (s : State) : exec (.draw d) s = execDraw d s := rfl
@[simp] theorem exec_drawV (d : VReg) (s : State) : exec (.drawV d) s = execDrawV d s := rfl
@[simp] theorem exec_rngkey (k : SReg) (b : SReg) (c : SReg) (s : State) : exec (.rngkey k b c) s = execRngkey k b c s := rfl
@[simp] theorem exec_rngadv (b : SReg) (c : SReg) (s : State) : exec (.rngadv b c) s = execRngadv b c s := rfl
@[simp] theorem exec_stamp (k : BitVec 2) (s : State) : exec (.stamp k) s = execStamp k s := rfl
@[simp] theorem exec_stampClose (s : State) : exec .stampClose s = execStampClose s := rfl
@[simp] theorem exec_stampOpen (b : SReg) (s : State) : exec (.stampOpen b) s = execStampOpen b s := rfl
@[simp] theorem exec_trmark (b : SReg) (code : BitVec 6) (s : State) : exec (.trmark b code) s = execTrmark b code s := rfl
@[simp] theorem exec_epreg (d : SReg) (b : SReg) (s : State) : exec (.epreg d b) s = execEpreg d b s := rfl
@[simp] theorem exec_rpost (k : SReg) (hd : SReg) (r : VReg) (s : State) : exec (.rpost k hd r) s = execRpost k hd r s := rfl
@[simp] theorem exec_rlver (d : SReg) (b : SReg) (c : SReg) (g : BitVec 4) (s : State) : exec (.rlver d b c g) s = execRlver d b c g s := rfl
@[simp] theorem exec_rjqry (d : SReg) (b : SReg) (g : BitVec 4) (s : State) : exec (.rjqry d b g) s = execRjqry d b g s := rfl
@[simp] theorem exec_tcinv (sc : BitVec 3) (s : State) : exec (.tcinv sc) s = execTcinv sc s := rfl
@[simp] theorem exec_tcinvM (b : SReg) (c : SReg) (sc : BitVec 3) (s : State) : exec (.tcinvM b c sc) s = execTcinvM b c sc s := rfl
@[simp] theorem exec_sleep (b : SReg) (s : State) : exec (.sleep b) s = execSleep b s := rfl
@[simp] theorem exec_gridOperationComplete (core : Nat) (s : State) : exec (.gridOperationComplete core) s = execGridOperationComplete core s := rfl
@[simp] theorem exec_blockEvaluation (core : Nat) (s : State) : exec (.blockEvaluation core) s = execBlockEvaluation core s := rfl
@[simp] theorem exec_copyCommandStart (core : Nat) (s : State) : exec (.copyCommandStart core) s = execCopyCommandStart core s := rfl
@[simp] theorem exec_copyCommandEnd (core : Nat) (s : State) : exec (.copyCommandEnd core) s = execCopyCommandEnd core s := rfl
@[simp] theorem exec_sleepExpiry (core : Nat) (slot : BitVec 3) (s : State) : exec (.sleepExpiry core slot) s = execSleepExpiry core slot s := rfl
@[simp] theorem exec_bankOperation (core : Nat) (slot : BitVec 3) (acc : Nat) (s : State) : exec (.bankOperation core slot acc) s = execBankOperation core slot acc s := rfl
@[simp] theorem exec_waiterReevaluation (w : Nat) (s : State) : exec (.waiterReevaluation w) s = execWaiterReevaluation w s := rfl
@[simp] theorem exec_rdrReissue (core : Nat) (slot : BitVec 3) (s : State) : exec (.rdrReissue core slot) s = execRdrReissue core slot s := rfl
@[simp] theorem exec_remoteWaitRetry (core : Nat) (slot : BitVec 3) (s : State) : exec (.remoteWaitRetry core slot) s = execRemoteWaitRetry core slot s := rfl
@[simp] theorem exec_tagWaitWatchdog (core : Nat) (agent : BitVec 2) (slot : BitVec 3) (s : State) : exec (.tagWaitWatchdog core agent slot) s = execTagWaitWatchdog core agent slot s := rfl
@[simp] theorem exec_accessCompletion (core : Nat) (slot : BitVec 3) (acc : Nat) (point : BitVec 3) (s : State) : exec (.accessCompletion core slot acc point) s = execAccessCompletion core slot acc point s := rfl
@[simp] theorem exec_backgroundSpill (core : Nat) (slot : BitVec 3) (s : State) : exec (.backgroundSpill core slot) s = execBackgroundSpill core slot s := rfl
@[simp] theorem exec_barrierRoundRelease (sc : BitVec 3) (key : Nat) (s : State) : exec (.barrierRoundRelease sc key) s = execBarrierRoundRelease sc key s := rfl
@[simp] theorem exec_gateCommit (core : Nat) (s : State) : exec (.gateCommit core) s = execGateCommit core s := rfl
@[simp] theorem exec_ungateStart (core : Nat) (s : State) : exec (.ungateStart core) s = execUngateStart core s := rfl
@[simp] theorem exec_ungateComplete (core : Nat) (s : State) : exec (.ungateComplete core) s = execUngateComplete core s := rfl
@[simp] theorem exec_lateTrapEntry (core : Nat) (slot : BitVec 3) (s : State) : exec (.lateTrapEntry core slot) s = execLateTrapEntry core slot s := rfl
@[simp] theorem exec_preemptNotice (core : Nat) (slot : BitVec 3) (s : State) : exec (.preemptNotice core slot) s = execPreemptNotice core slot s := rfl
@[simp] theorem exec_pbudgetExpiry (core : Nat) (slot : BitVec 3) (s : State) : exec (.pbudgetExpiry core slot) s = execPbudgetExpiry core slot s := rfl
@[simp] theorem exec_preemptSave (g : Nat) (s : State) : exec (.preemptSave g) s = execPreemptSave g s := rfl
@[simp] theorem exec_gangResume (g : Nat) (s : State) : exec (.gangResume g) s = execGangResume g s := rfl
@[simp] theorem exec_translationWalk (w : Nat) (s : State) : exec (.translationWalk w) s = execTranslationWalk w s := rfl
@[simp] theorem exec_fackStore (fn : BitVec 6) (idx : BitVec 32) (s : State) : exec (.fackStore fn idx) s = execFackStore fn idx s := rfl
@[simp] theorem exec_queueWriteStore (q : BitVec 13) (v : BitVec 32) (s : State) : exec (.queueWriteStore q v) s = execQueueWriteStore q v s := rfl
@[simp] theorem exec_prioStore (q : BitVec 13) (v : BitVec 3) (s : State) : exec (.prioStore q v) s = execPrioStore q v s := rfl
@[simp] theorem exec_preemptRequest (q : BitVec 13) (s : State) : exec (.preemptRequest q) s = execPreemptRequest q s := rfl
@[simp] theorem exec_dependenceReread (s : State) : exec .dependenceReread s = execDependenceReread s := rfl
@[simp] theorem exec_packetSelection (s : State) : exec .packetSelection s = execPacketSelection s := rfl
@[simp] theorem exec_gangPlacement (s : State) : exec .gangPlacement s = execGangPlacement s := rfl
@[simp] theorem exec_placementWaitExpiry (l : Nat) (s : State) : exec (.placementWaitExpiry l) s = execPlacementWaitExpiry l s := rfl
@[simp] theorem exec_launchCompletion (l : Nat) (s : State) : exec (.launchCompletion l) s = execLaunchCompletion l s := rfl
@[simp] theorem exec_rewardMessageHandling (u : BitVec 1) (s : State) : exec (.rewardMessageHandling u) s = execRewardMessageHandling u s := rfl
@[simp] theorem exec_partRecorded (u : BitVec 1) (ent : Nat) (s : State) : exec (.partRecorded u ent) s = execPartRecorded u ent s := rfl
@[simp] theorem exec_zeroFillDone (u : BitVec 1) (ent : Nat) (s : State) : exec (.zeroFillDone u ent) s = execZeroFillDone u ent s := rfl
@[simp] theorem exec_deadline (u : BitVec 1) (s : State) : exec (.deadline u) s = execDeadline u s := rfl
@[simp] theorem exec_fullerScanDone (u : BitVec 1) (ent : Nat) (s : State) : exec (.fullerScanDone u ent) s = execFullerScanDone u ent s := rfl
@[simp] theorem exec_episodeRelease (u : BitVec 1) (ent : Nat) (s : State) : exec (.episodeRelease u ent) s = execEpisodeRelease u ent s := rfl
@[simp] theorem exec_lreadReread (u : BitVec 1) (grp : Nat) (s : State) : exec (.lreadReread u grp) s = execLreadReread u grp s := rfl
@[simp] theorem exec_readMsg (m : Msg) (s : State) : exec (.readMsg m) s = execReadMsg m s := rfl
@[simp] theorem exec_readReply (m : Msg) (s : State) : exec (.readReply m) s = execReadReply m s := rfl
@[simp] theorem exec_writeMsg (m : Msg) (s : State) : exec (.writeMsg m) s = execWriteMsg m s := rfl
@[simp] theorem exec_acknowledge (m : Msg) (s : State) : exec (.acknowledge m) s = execAcknowledge m s := rfl
@[simp] theorem exec_atomicMsg (m : Msg) (s : State) : exec (.atomicMsg m) s = execAtomicMsg m s := rfl
@[simp] theorem exec_atomicReply (m : Msg) (s : State) : exec (.atomicReply m) s = execAtomicReply m s := rfl
@[simp] theorem exec_putWithSignal (m : Msg) (s : State) : exec (.putWithSignal m) s = execPutWithSignal m s := rfl
@[simp] theorem exec_rewardMsg (m : Msg) (s : State) : exec (.rewardMsg m) s = execRewardMsg m s := rfl
@[simp] theorem exec_barrierMsg (m : Msg) (s : State) : exec (.barrierMsg m) s = execBarrierMsg m s := rfl
@[simp] theorem exec_stopMessage (m : Msg) (s : State) : exec (.stopMessage m) s = execStopMessage m s := rfl
@[simp] theorem exec_errorMsg (m : Msg) (s : State) : exec (.errorMsg m) s = execErrorMsg m s := rfl
@[simp] theorem exec_sessionMsg (m : Msg) (s : State) : exec (.sessionMsg m) s = execSessionMsg m s := rfl
@[simp] theorem exec_linkFailure (k : Nat) (s : State) : exec (.linkFailure k) s = execLinkFailure k s := rfl
@[simp] theorem exec_stopTakesEffect (core : Nat) (s : State) : exec (.stopTakesEffect core) s = execStopTakesEffect core s := rfl
@[simp] theorem exec_stopCmd (core : Nat) (s : State) : exec (.stopCmd core) s = execStopCmd core s := rfl
@[simp] theorem exec_resumeCmd (core : Nat) (s : State) : exec (.resumeCmd core) s = execResumeCmd core s := rfl
@[simp] theorem exec_resumeTakesEffect (core : Nat) (s : State) : exec (.resumeTakesEffect core) s = execResumeTakesEffect core s := rfl
@[simp] theorem exec_stepCmd (core : Nat) (slot : BitVec 3) (s : State) : exec (.stepCmd core slot) s = execStepCmd core slot s := rfl
@[simp] theorem exec_wpctlWrite (core : Nat) (n : BitVec 2) (v : BitVec 64) (s : State) : exec (.wpctlWrite core n v) s = execWpctlWrite core n v s := rfl
@[simp] theorem exec_slotWindowWrite (core : Nat) (slot : BitVec 3) (off : BitVec 12) (v : BitVec 64) (s : State) : exec (.slotWindowWrite core slot off v) s = execSlotWindowWrite core slot off v s := rfl
@[simp] theorem exec_registerWrite (a : Nat) (v : BitVec 64) (s : State) : exec (.registerWrite a v) s = execRegisterWrite a v s := rfl
@[simp] theorem exec_dumpGang (s : State) : exec .dumpGang s = execDumpGang s := rfl
@[simp] theorem exec_rctlStore (fn : BitVec 6) (v : BitVec 64) (s : State) : exec (.rctlStore fn v) s = execRctlStore fn v s := rfl
@[simp] theorem exec_invalidateTranslations (fn : BitVec 6) (s : State) : exec (.invalidateTranslations fn) s = execInvalidateTranslations fn s := rfl
@[simp] theorem exec_invalidateRange (fn : BitVec 6) (s : State) : exec (.invalidateRange fn) s = execInvalidateRange fn s := rfl
@[simp] theorem exec_functionLevelReset (fn : BitVec 6) (s : State) : exec (.functionLevelReset fn) s = execFunctionLevelReset fn s := rfl
@[simp] theorem exec_replay (fn : BitVec 6) (s : State) : exec (.replay fn) s = execReplay fn s := rfl
@[simp] theorem exec_assign (fn : BitVec 6) (s : State) : exec (.assign fn) s = execAssign fn s := rfl
@[simp] theorem exec_release (fn : BitVec 6) (s : State) : exec (.release fn) s = execRelease fn s := rfl
@[simp] theorem exec_create (fn : BitVec 6) (s : State) : exec (.create fn) s = execCreate fn s := rfl
@[simp] theorem exec_destroy (fn : BitVec 6) (s : State) : exec (.destroy fn) s = execDestroy fn s := rfl
@[simp] theorem exec_queueOp (fn : BitVec 6) (s : State) : exec (.queueOp fn) s = execQueueOp fn s := rfl
@[simp] theorem exec_region (fn : BitVec 6) (s : State) : exec (.region fn) s = execRegion fn s := rfl
@[simp] theorem exec_report (fn : BitVec 6) (s : State) : exec (.report fn) s = execReport fn s := rfl
@[simp] theorem exec_extend (fn : BitVec 6) (s : State) : exec (.extend fn) s = execExtend fn s := rfl
@[simp] theorem exec_sessionOperation (fn : BitVec 6) (s : State) : exec (.sessionOperation fn) s = execSessionOperation fn s := rfl
@[simp] theorem exec_rootOp (fn : BitVec 6) (s : State) : exec (.rootOp fn) s = execRootOp fn s := rfl
@[simp] theorem exec_writeOperation (fn : BitVec 6) (s : State) : exec (.writeOperation fn) s = execWriteOperation fn s := rfl
@[simp] theorem exec_sleepOperation (fn : BitVec 6) (s : State) : exec (.sleepOperation fn) s = execSleepOperation fn s := rfl
@[simp] theorem exec_deepSleepEntry (s : State) : exec .deepSleepEntry s = execDeepSleepEntry s := rfl
@[simp] theorem exec_managementWake (s : State) : exec .managementWake s = execManagementWake s := rfl
@[simp] theorem exec_coldReset (s : State) : exec .coldReset s = execColdReset s := rfl
@[simp] theorem exec_powerLoss (s : State) : exec .powerLoss s = execPowerLoss s := rfl
@[simp] theorem exec_thermalWarning (die : BitVec 3) (s : State) : exec (.thermalWarning die) s = execThermalWarning die s := rfl
@[simp] theorem exec_thermalWarningClear (die : BitVec 3) (s : State) : exec (.thermalWarningClear die) s = execThermalWarningClear die s := rfl
@[simp] theorem exec_criticalTrip (s : State) : exec .criticalTrip s = execCriticalTrip s := rfl
@[simp] theorem exec_debugUnlock (dev : BitVec 64) (life : BitVec 3) (nonce : BitVec 256) (perm : BitVec 8) (sig : Nat) (s : State) : exec (.debugUnlock dev life nonce perm sig) s = execDebugUnlock dev life nonce perm sig s := rfl
@[simp] theorem exec_provisioning (s : State) : exec .provisioning s = execProvisioning s := rfl
@[simp] theorem exec_productionFuse (s : State) : exec .productionFuse s = execProductionFuse s := rfl
@[simp] theorem exec_retireFuse (s : State) : exec .retireFuse s = execRetireFuse s := rfl
@[simp] theorem exec_notAnInstruction (cls : BitVec 5) (code : BitVec 16) (tval : BitVec 64) (s : State) : exec (.notAnInstruction cls code tval) s = execNotAnInstruction cls code tval s := rfl
@[simp] theorem exec_flushiAcknowledgement (core : Nat) (slot : BitVec 3) (s : State) : exec (.flushiAcknowledgement core slot) s = execFlushiAcknowledgement core slot s := rfl
@[simp] theorem exec_tcinvAcknowledgement (core : Nat) (slot : BitVec 3) (s : State) : exec (.tcinvAcknowledgement core slot) s = execTcinvAcknowledgement core slot s := rfl
@[simp] theorem exec_unitInstructionHandling (u : BitVec 1) (s : State) : exec (.unitInstructionHandling u) s = execUnitInstructionHandling u s := rfl
@[simp] theorem exec_fabricDrop (m : Msg) (s : State) : exec (.fabricDrop m) s = execFabricDrop m s := rfl
@[simp] theorem exec_cxlLinkDown (p : BitVec 2) (s : State) : exec (.cxlLinkDown p) s = execCxlLinkDown p s := rfl

end Sys2Proof.Machine
end

