-- ==== Sys2Proof/Laws/Registers.lean ====
section
/-!
SUPPORT. Laws of scalar, vector and descriptor registers: what a register reads as after a write of it, and after a write of another
(07 R97 to R109).
-/

namespace Sys2Proof.Machine

@[simp] theorem Regs.frame_writeLoc (r : Regs) (l : RegLoc) (v : Word) : (r.writeLoc l v).frame = r.frame := by
  cases l <;> rfl

@[simp] theorem Regs.cur_writeLoc (r : Regs) (l : RegLoc) (v : Word) : (r.writeLoc l v).cur = r.cur := by
  cases l <;> rfl

@[simp] theorem Regs.vec_writeLoc (r : Regs) (l : RegLoc) (v : Word) : (r.writeLoc l v).vec = r.vec := by
  cases l <;> rfl

@[simp] theorem Regs.desc_writeLoc (r : Regs) (l : RegLoc) (v : Word) : (r.writeLoc l v).desc = r.desc := by
  cases l <;> rfl

@[simp] theorem Regs.older_writeLoc (r : Regs) (l : RegLoc) (v : Word) : (r.writeLoc l v).older = r.older := by
  cases l <;> rfl

@[simp] theorem Regs.left_writeLoc (r : Regs) (l : RegLoc) (v : Word) : (r.writeLoc l v).left = r.left := by
  cases l <;> rfl

@[simp] theorem Regs.loc_writeLoc (r : Regs) (l : RegLoc) (v : Word) (n : SReg) : (r.writeLoc l v).loc n = r.loc n := by
  simp [Regs.loc]

theorem SReg.cases (n : SReg) (h0 : n ≠ 0) (h6 : n ≠ 6) (h7 : n ≠ 7) :
    (1 ≤ n.toNat ∧ n.toNat ≤ 5) ∨ (8 ≤ n.toNat ∧ n.toNat ≤ 31) := by
  have h := n.isLt
  have a : n.toNat ≠ 0 := fun e => h0 (BitVec.eq_of_toNat_eq e)
  have b : n.toNat ≠ 6 := fun e => h6 (BitVec.eq_of_toNat_eq e)
  have c : n.toNat ≠ 7 := fun e => h7 (BitVec.eq_of_toNat_eq e)
  omega

/-- The place of a register that is neither s0 nor a port. -/
theorem Regs.loc_eq (r : Regs) (n : SReg) (h0 : n ≠ 0) (h6 : n ≠ 6) (h7 : n ≠ 7) :
    r.loc n = if n.toNat ≤ 5 then .common (n.toNat - 1)
      else if r.frame = .trap then .trap (n.toNat - 8)
      else if n.toNat < 24 then .ring (16 * r.cur.toNat + (n.toNat - 8)) else .ring (16 * (r.cur + 1).toNat + (n.toNat - 24)) := by
  have h := SReg.cases n h0 h6 h7
  unfold Regs.loc
  rcases h with h | h
  · simp [show n.toNat ≠ 0 by omega, show n.toNat ≤ 5 by omega]
  · simp only [show n.toNat ≠ 0 by omega, show ¬ n.toNat ≤ 5 by omega, show n.toNat ≠ 6 by omega, show n.toNat ≠ 7 by omega, if_false]
    cases r.frame <;> simp

/-- A register reads as it was last written (R97, R126). -/
theorem Regs.read_write_same (r : Regs) (n : SReg) (v : Word) (h0 : n ≠ 0) (h6 : n ≠ 6) (h7 : n ≠ 7) :
    (r.writeLoc (r.loc n) v).readLoc (r.loc n) = v := by
  have h := SReg.cases n h0 h6 h7
  have hc := r.cur.isLt
  have hc1 := (r.cur + 1).isLt
  rw [Regs.loc_eq r n h0 h6 h7]
  split
  · simp only [Regs.writeLoc, Regs.readLoc]
    rw [Vector.getElem?_setIfInBounds_self]
    simp [show n.toNat - 1 < 5 by omega]
  · split
    · simp only [Regs.writeLoc, Regs.readLoc]
      rw [Vector.getElem?_setIfInBounds_self]
      simp [show n.toNat - 8 < 24 by omega]
    · split
      · simp only [Regs.writeLoc, Regs.readLoc]
        rw [Vector.getElem?_setIfInBounds_self]
        simp [show 16 * r.cur.toNat + (n.toNat - 8) < 64 by omega]
      · simp only [Regs.writeLoc, Regs.readLoc]
        rw [Vector.getElem?_setIfInBounds_self]
        simp [show 16 * ((r.cur.toNat + 1) % 4) + (n.toNat - 24) < 64 by omega]

theorem Regs.readLoc_writeLoc_ne (r : Regs) (l m : RegLoc) (v : Word) (h : l ≠ m) : (r.writeLoc l v).readLoc m = r.readLoc m := by
  cases l <;> cases m <;> simp only [Regs.writeLoc, Regs.readLoc] <;>
    (rename_i i j; rw [Vector.getElem?_setIfInBounds_ne (by intro e; exact h (by rw [e]))])

/-- Distinct registers have distinct places; s0 and the ports have places of their own. -/
theorem Regs.loc_ne (r : Regs) {n m : SReg} (h : n ≠ m) : r.loc n ≠ r.loc m := by
  have hn := n.isLt
  have hm := m.isLt
  have hc := r.cur.isLt
  have hne : n.toNat ≠ m.toNat := fun e => h (BitVec.eq_of_toNat_eq e)
  have hs : (r.cur + 1).toNat = (r.cur.toNat + 1) % 4 := by simp [BitVec.toNat_add]
  unfold Regs.loc
  cases r.frame <;> dsimp only <;> (repeat' split) <;> simp <;> omega

/-- A write of one register leaves every other one alone. -/
theorem Regs.read_write_other (r : Regs) {n m : SReg} (v : Word) (h : m ≠ n) :
    (r.writeLoc (r.loc n) v).readLoc (r.loc m) = r.readLoc (r.loc m) :=
  Regs.readLoc_writeLoc_ne r _ _ v (Regs.loc_ne r (Ne.symm h))

/-- A slot after a write of one of its registers. -/
def Slot.wrote (x : Slot) (n : SReg) (v : Word) : Slot := { x with regs := x.regs.writeLoc (x.regs.loc n) v }

theorem Slot.readS_wrote_same (x : Slot) (n : SReg) (v : Word) (h0 : n ≠ 0) (h6 : n ≠ 6) (h7 : n ≠ 7) : (x.wrote n v).readS n = v := by
  have h := Regs.read_write_same x.regs n v h0 h6 h7
  have e := Regs.loc_eq x.regs n h0 h6 h7
  simp only [Slot.readS, Slot.wrote, Regs.loc_writeLoc]
  split
  · rename_i hp
    rw [hp] at e
    split at e
    · cases e
    · split at e
      · cases e
      · split at e <;> cases e
  · exact h

theorem Slot.readS_wrote_other (x : Slot) {n m : SReg} (v : Word) (h : m ≠ n) : (x.wrote n v).readS m = x.readS m := by
  have e := Regs.read_write_other x.regs v h
  simp only [Slot.readS, Slot.wrote, Regs.loc_writeLoc]
  split
  · rfl
  · exact e

/-- A write of a register other than s7 changes the slot alone. -/
theorem State.ws_eq (s : State) (n : SReg) (v : Word) (h7 : n ≠ 7) : s.ws n v = s.setMe (s.me.wrote n v) := by
  have h : s.me.regs.loc n ≠ .portOut := by
    have hn : n.toNat ≠ 7 := fun e => h7 (BitVec.eq_of_toNat_eq e)
    have hl := n.isLt
    unfold Regs.loc
    cases s.me.regs.frame <;> dsimp only <;> (repeat' split) <;> simp
  unfold State.ws State.writeS
  simp only
  split
  · rename_i hp
    exact absurd hp h
  · rfl

end Sys2Proof.Machine
end

