-- ==== Sys2Proof/Laws/Operands.lean ====
section
/-!
SUPPORT. One lemma for each shared operation over operands: what it does when the ports that it names are usable.
-/

namespace Sys2Proof.Machine

theorem State.ports_open (s : State) (srcs dsts : List SReg) (vsrcs vdsts : List VReg) (h : s.portsOpen srcs dsts vsrcs vdsts = true) :
    s.ports srcs dsts vsrcs vdsts = .ok () s := by
  simp only [State.portsOpen, Bool.and_eq_true, Bool.not_eq_true'] at h
  obtain ⟨⟨⟨⟨⟨⟨⟨h1, h2⟩, h3⟩, h4⟩, h5⟩, h6⟩, h7⟩, h8⟩ := h
  have hk : (s.pushesOut dsts vdsts && s.me.port.dn && !s.keyOk s.cur.core (s.ctxOf s.cur.core)) = false := by
    revert h8; cases s.pushesOut dsts vdsts <;> cases s.keyOk s.cur.core (s.ctxOf s.cur.core) <;> simp
  have ht : (s.pushesOut dsts vdsts && s.tampered s.cur.core) = false := by
    revert h8; cases s.pushesOut dsts vdsts <;> cases s.tampered s.cur.core <;> simp
  simp only [State.ports, h1, h2, h3, h4, h5, h6, h7, hk, ht, Bool.or_self, Bool.false_eq_true, if_false]

theorem State.ports_bad (s : State) (srcs dsts : List SReg) (vsrcs vdsts : List VReg) (hk : s.pushShut dsts vdsts = false)
    (h : s.me.portBad srcs dsts = true) : s.ports srcs dsts vsrcs vdsts = .trap portFault s := by
  simp only [State.pushShut] at hk
  simp only [State.ports, hk, h, Bool.true_or, Bool.false_eq_true, if_true, if_false]

theorem State.ports_shut (s : State) (srcs dsts : List SReg) (vsrcs vdsts : List VReg) (hk : s.pushShut dsts vdsts = true) :
    s.ports srcs dsts vsrcs vdsts = .trap (trapOf 7 8 0) s := by
  simp only [State.pushShut] at hk
  simp only [State.ports, hk, if_true]

theorem State.scalar_open (s : State) (srcs : List SReg) (d : SReg) (f : State → Word) (h : s.portsOpen srcs [d] [] [] = true) :
    s.scalar srcs d f = .next (s.setS srcs d (f s)) := by
  simp [State.scalar, State.ports_open s srcs [d] [] [] h]

theorem State.scalar_bad (s : State) (srcs : List SReg) (d : SReg) (f : State → Word) (hk : s.pushShut [d] [] = false)
    (h : s.me.portBad srcs [d] = true) : s.scalar srcs d f = .next (s.precise portFault) := by
  simp [State.scalar, State.ports_bad s srcs [d] [] [] hk h]

theorem State.scalar_shut (s : State) (srcs : List SReg) (d : SReg) (f : State → Word) (hk : s.pushShut [d] [] = true) :
    s.scalar srcs d f = .next (s.precise (trapOf 7 8 0)) := by
  simp [State.scalar, State.ports_shut s srcs [d] [] [] hk]

theorem State.pops_noPorts (s : State) (srcs : List SReg) (h : srcs.contains 6 = false) : s.pops srcs [] = s := by
  simp only [State.pops, h, Bool.false_eq_true, if_false, List.contains_nil, Bool.and_false]

theorem noPorts_iff (srcs dsts : List SReg) :
    noPorts srcs dsts = true ↔ srcs.contains 6 = false ∧ srcs.contains 7 = false ∧ dsts.contains 6 = false ∧ dsts.contains 7 = false := by
  simp only [noPorts, Bool.and_eq_true, Bool.not_eq_true', and_assoc]

/-- Fields that name no port are usable at once. -/
theorem State.portsOpen_noPorts (s : State) (srcs dsts : List SReg) (h : noPorts srcs dsts = true) :
    s.portsOpen srcs dsts [] [] = true := by
  obtain ⟨h1, h2, h3, h4⟩ := (noPorts_iff srcs dsts).mp h
  simp only [State.portsOpen, State.pushesOut, Slot.portBad, Slot.vportBad, h1, h2, h3, h4, List.contains_nil, Bool.false_and, Bool.and_false, Bool.or_self, Bool.not_false, Bool.and_self]

/-- A result written to a register that is no port, by an instruction that pops none: the slot alone changes. -/
theorem State.setS_eq (s : State) (srcs : List SReg) (d : SReg) (v : Word) (h : srcs.contains 6 = false) (h7 : d ≠ 7) :
    s.setS srcs d v =
      s.setMe { s.me.wrote d v with st := .ready, pc := s.npc, src := s.me.pc, cont := none, await := .none } := by
  have e : (s.setMe (s.me.wrote d v)).npc = s.npc := rfl
  simp [State.setS, State.pops_noPorts s srcs h, State.ws_eq s d v h7, State.retire, State.goto]
  rfl

theorem State.doneS_eq (s : State) (srcs : List SReg) (h : srcs.contains 6 = false) :
    s.doneS srcs = s.setMe { s.me with st := .ready, pc := s.npc, src := s.me.pc, cont := none, await := .none } := by
  simp [State.doneS, State.pops_noPorts s srcs h, State.retire, State.goto]

end Sys2Proof.Machine
end

