-- ==== Sys2Proof/Tests/Slice0.lean ====
section
/-!
SUPPORT. The model's own tests: ill-formed instructions are refused, words written out from the encodings of the spec decode to the instructions they stand
for, and a state and operands that meet the conditions of each statement (a witness for each clause).
-/

set_option maxRecDepth 20000

namespace Sys2Proof.Tests

open Sys2Proof Sys2Proof.Machine

/-! ### States for the tests -/

/-- Core 0 with one READY thread of gang 0, context 1, which is about to run slot 0 of its line; regions 0 to 3 of the local store are its gang's. -/
def base : State :=
  let s : State := { State.reset.withLine (lineOf 0x4C00 (.one 5)) with npc := placedPc + 2, cur := ⟨0, 0⟩ }
  let c := s.core 0
  let l : CodeLine := { ctx := 1, addr := placedPc, line := lineOf 0x4C00 (.one 5) }
  let t : State := { s with gangs := s.gangs.map (fun g : Gang => { g with places := [{ core := 0, base := 0, regions := 4, slots := [0] }] }) }
  t.setCore 0 { c with alloc := [(0, 0), (1, 0), (2, 0), (3, 0)], icache := [l] }

/-- base with its thread's slot changed. -/
def withMe (f : Slot → Slot) : State := base.setMe (f base.me)

/-- base with its thread's control registers changed. -/
def withCr (f : CRegs → CRegs) : State := withMe (fun x => { x with cr := f x.cr })

/-- base with its core changed. -/
def withCore (f : Core → Core) : State := base.setCore 0 (f (base.core 0))

/-- base with values in s1 and s2. -/
def with12 (v w : Word) : State := (base.ws 1 v).ws 2 w

/-- base with the scalar port enabled and two values in its queue; pushes reach slot 1 of the quad's core 0. -/
def ported : State := withMe (fun x => { x with port := { Port.zero with su := true, dn := true, sq := [7, 8], target := 1 } })

/-- base with a handler. -/
def handled : State := withCr (fun c => { c with tvec := 0x4000000 })

/-- base with the address 0x100 in s1 and a word there. -/
def stocked : State :=
  let s := with12 0x100 3
  { s with mem := Memory.setWord s.mem (lsHome 0 0x100) 0xFFFFFFFFFFFFFF80 }

/-! ### Encodings (07 R116 to R120, and the encoding of each entry) -/

theorem test_decode_add : decodeTableWord 32 0x40000000 = some (.add 0 0 0 0) := by decide

/-- A word of each major of the scalar and control instructions: head fields TL, MAJ, A, F; tail fields B, C, G or B, imm11. -/
theorem test_decode_scalar_and_control :
    decodeTableWord 32 0x40182A41 = some (.add 3 5 9 1) ∧ decodeTableWord 32 0x41182806 = some (.addI 3 5 6) ∧
    decodeTableWord 32 0x42182A40 = some (.seq 3 5 9) ∧ decodeTableWord 32 0x43182A40 = some (.mul 3 5 9) ∧
    decodeTableWord 32 0x44182800 = some (.clz 3 5) ∧ decodeTableWord 32 0x45180006 = some (.li 3 6) ∧
    decodeTableWord 32 0x46182806 = some (.lea 3 5 6) ∧ decodeTableWord 32 0x47182800 = some (.mov 3 5) ∧
    decodeTableWord 32 0x4B283087 = some (.jt 5 6 2 7) ∧ decodeTableWord 16 0x0C01 = some .ret ∧
    decodeTableWord 32 0x4C000005 = some (.lpad 5) ∧ decodeTableWord 16 0x0E00 = some .eret ∧
    decodeTableWord 32 0x4E002809 = some (.trap 5 9) ∧ decodeTableWord 32 0x4F180007 = some (.mfc 3 7) := by decide

/-- The same for memory, tags, synchronisation and tasks. -/
theorem test_decode_memory_and_synchronisation :
    decodeTableWord 32 0x50182806 = some (.ld 3 5 6) ∧ decodeTableWord 32 0x51202806 = some (.st 4 5 6) ∧
    decodeTableWord 32 0x52182829 = some (.vld 3 5 10 1) ∧ decodeTableWord 32 0x53182A6A = some (.vgath 3 5 9 10 1) ∧
    decodeTableWord 32 0x54182A60 = some (.aadd 3 5 9 1 0) ∧ decodeTableWord 16 0x1510 = some (.tatsw 2) ∧
    decodeTableWord 32 0x55182800 = some (.tget 3 5) ∧ decodeTableWord 16 0x1620 = some (.fence 4) ∧
    decodeTableWord 32 0x56000009 = some (.xfence 1 1) ∧ decodeTableWord 32 0x57002A40 = some (.sbinit 5 9) ∧
    decodeTableWord 16 0x1818 = some (.dqlen 3) ∧ decodeTableWord 32 0x58002800 = some (.joinWord 5) := by decide

/-- The same for vectors: MK in [5:2], the element type in [1:0]. -/
theorem test_decode_vector :
    decodeTableWord 32 0x60182A6A = some (.vadd 3 5 9 10 2) ∧ decodeTableWord 32 0x61182A6A = some (.vfadd 3 5 9 10 2) ∧
    decodeTableWord 32 0x62182A6A = some (.vfma 3 5 9 10 2) ∧ decodeTableWord 32 0x63182A6A = some (.vseq 3 5 9 10 2) ∧
    decodeTableWord 32 0x6418282A = some (.vmov 3 5 10 2) ∧ decodeTableWord 32 0x6518282A = some (.vrsum 3 5 10 2) ∧
    decodeTableWord 32 0x66182829 = some (.vftoi 3 5 10 1) ∧ decodeTableWord 32 0x67182828 = some (.vexp2 3 5 10 0) := by decide

/-- The same for matrices, tiles, copies, units, random numbers and stamps. -/
theorem test_decode_matrix_tile_copy_and_units :
    decodeTableWord 16 0x2800 = some .modeM ∧ decodeTableWord 32 0x69302A41 = some (.mma 6 5 9 1) ∧
    decodeTableWord 32 0x6A002A40 = some (.sclfeed 5 9) ∧ decodeTableWord 32 0x6B182800 = some (.dld 3 5) ∧
    decodeTableWord 32 0x6C192840 = some (.tadd 3 5 1) ∧ decodeTableWord 16 0x2D00 = some .force ∧
    decodeTableWord 32 0x6D000800 = some (.forceM 1) ∧ decodeTableWord 32 0x6E1008C0 = some (.cp 2 1 3 0) ∧
    decodeTableWord 32 0x6F182800 = some (.epreg 3 5) ∧ decodeTableWord 16 0x3018 = some (.draw 3) ∧
    decodeTableWord 32 0x70302A40 = some (.rngkey 6 5 9) ∧ decodeTableWord 16 0x3110 = some (.stamp 2) ∧
    decodeTableWord 32 0x71002800 = some (.stampOpen 5) ∧ decodeTableWord 16 0x3218 = some (.tcinv 3) ∧
    decodeTableWord 32 0x72002A43 = some (.tcinvM 5 9 3) := by decide

/-- Tails of two and three parcels (formats J, X1 and W), T1 the most significant parcel. -/
theorem test_decode_long_tails :
    decodeTableWord 48 0x880128000021 = some (.bnez 5 0x21) ∧ decodeTableWord 64 0xC9002A4004000021 = some (.beq 5 9 0x4000021) ∧
    decodeTableWord 48 0x90182801FFF8 = some (.ldW 3 5 1 0xFFF8) ∧ decodeTableWord 48 0xAF014A880000 = some (.rpost 9 10 4) := by decide

/-- The checks of R120: a reserved major, a tail that the major does not have, a reserved minor, a reserved value, a reserved field; a pad is no instruction. -/
theorem test_decode_refuses :
    decodeSlot (tableLine 16 0x3300) 0 = .error .reservedMajor ∧ decodeSlot (tableLine 16 0x0000) 0 = .error .undefinedTail ∧
    decodeSlot (tableLine 32 0x50070000) 0 = .error .reservedMinor ∧ decodeSlot (tableLine 32 0x40182A43) 0 = .error .reservedValue ∧
    decodeSlot (tableLine 32 0x47000001) 0 = .error .reservedField ∧ decodeSlot (BitVec.allOnes 512) 0 = .error .emptySlot := by decide

/-! ### Well-formed and ill-formed instructions (07 R120, checks 5 and 6) -/

/-- One ill-formed term for each check of WellFormed. -/
theorem test_ill_formed : ∀ i ∈ ([
    .add 0 0 0 3, .sllI 0 0 64, .ext 0 0 1 63, .mfc 0 0x008, .vld 0 0 1 0, .afadd 0 0 0 0 0, .fence 0, .bar 6,
    .xfence 6 0, .xfence 0 6, .flushi 0 0 5, .vaddW 0 0 0 0 0 0 3, .vaddW 0 0 0 0 1 0 0, .vabs 0 0 0 0 2, .vfadd 0 0 0 0 3, .vfaddW 0 0 0 0 0 0 4,
    .vdot 0 0 0 0 0, .vfmaW 0 0 0 1 0 0 0 0, .vmacW 0 0 0 0 1 0 0 3, .vdotW 0 0 0 0 1 0 3 0, .vrsum 0 0 0xC 0, .vrfsum 0 0 0 0 5, .vcvt 0 0 0 0 0 14 0 0 0, .vcvt 0 0 0 1 0 0 0 0 0,
    .vexp2 0 0 0 1, .vexp2W 0 0 0 0 6, .vtanhW 0 0 0 0 0, .mrnsin 0 0 0 7, .tmul 0 0 0 0 2047, .tcvt 0 0 0 4, .tmaxW 0 0 0 1, .tmap 0 0 0 0 3 0,
    .cps 0 0 0 0 0 0, .tcinv 1] : List Instr), i.wf = false := by decide

/-- Their neighbours that are well formed. -/
theorem test_well_formed : ∀ i ∈ ([
    .add 0 0 0 2, .sllI 0 0 63, .ext 0 0 0 63, .mfc 0 0x052, .vld 0 0 0xF 0, .afadd 0 0 0 1 0, .fence 6, .bar 5, .xfence 5 5,
    .vabs 0 0 0 0 1, .vdot 0 0 0 0 1, .vfmaW 0 0 0 1 1 0 0 7, .vtanhW 0 0 0 0 7, .mrnsin 0 0 0 13, .tmul 0 0 0 0 2046, .cps 0 0 0 0 0 1, .tcinv 4] : List Instr), i.wf = true := by decide

/-! ### One step of an instruction (expected values by hand from the rule cited) -/

/-- What f sees of the state after an instruction. -/
def after {α : Type} (i : Instr) (s : State) (f : State → α) : Option α :=
  match exec i s with
  | .next t => some (f t)
  | _ => none

/-- R131, R93: a clamped sum raises SX. -/
theorem test_add_saturates :
    after (.add 3 1 2 1) (with12 0x7FFFFFFFFFFFFFFF 1) (fun t => (t.rs 3, t.me.cr.fflags)) = some (0x7FFFFFFFFFFFFFFF, 0x20) := by decide

/-- R131: wrapping, a source that is also the destination, operands in order. -/
theorem test_sub_wraps : after (.sub 1 2 1 0) (with12 7 5) (fun t => (t.rs 1, t.rs 2, t.me.pc)) = some (0xFFFFFFFFFFFFFFFE, 5, placedPc + 2) := by decide

/-- R133, R91: the most negative value by -1. -/
theorem test_div_overflow : after (.div 3 1 2) (with12 0x8000000000000000 0xFFFFFFFFFFFFFFFF) (fun t => t.rs 3) = some 0x8000000000000000 := by decide

theorem test_rem_by_zero : after (.rem 3 1 2) (with12 9 0) (fun t => t.rs 3) = some 9 := by decide

/-- R135: the top field of full length minus one. -/
theorem test_ext_sign : after (.ext 3 1 4 7) (with12 0xF80 0) (fun t => t.rs 3) = some 0xFFFFFFFFFFFFFFF8 := by decide

/-- R97: s0 discards a write. -/
theorem test_s0_discards : after (.li 0 5) base (fun t => (t.rs 0, t.me.pc)) = some (0, placedPc + 2) := by decide

/-- R180, R112: bytes 80 FF at the address. -/
theorem test_lh_extends : after (.lh 3 1 0) stocked (fun t => t.rs 3) = some 0xFFFFFFFFFFFFFF80 := by decide

/-- R181: one byte, its neighbour as before. -/
theorem test_sb_one_byte :
    after (.sb 2 1 0) stocked (fun t => (Memory.byte t.mem (lsHome 0 0x100), Memory.byte t.mem (lsHome 0 0x101))) = some (3, 0xFF) := by decide

/-- R178, R339: a misaligned word at the end of the store is an alignment trap with its address. -/
theorem test_misaligned_traps :
    after (.ld 3 1 1) (stocked.setMe { stocked.me with cr := { stocked.me.cr with tvec := 0x4000000 } }) (fun t => (t.me.cr.cls, t.me.cr.tval, t.me.cr.epc.toNat * 2, t.me.pc)) =
      some (5, 0x101, placedPc.toNat, 0x100000000) := by decide

/-- R187, R188: the old value in the register, the sum in memory. -/
theorem test_aadd : after (.aadd 3 1 2 0 0) stocked (fun t => (t.rs 3, Memory.word t.mem (lsHome 0 0x100))) = some (0xFFFFFFFFFFFFFF80, 0xFFFFFFFFFFFFFF83) := by decide

/-- R148: TRAP completes, its operand and its code saved. -/
theorem test_trap : after (.trap 1 0x12) (handled.ws 1 77) (fun t => (t.me.cr.cls, t.me.cr.code, t.me.cr.tval, t.me.cr.intrap, t.me.cr.epc.toNat * 2)) =
    some (20, 0x12, 77, true, placedPc.toNat + 2) := by decide

/-- R140, R97: the link is the callee's s15, and the caller's s24 its s8. -/
theorem test_call : after (.call 0x21) (base.ws 24 6) (fun t => (t.rs 15, t.rs 8, t.me.pc)) = some (placedPc + 2, 6, placedPc + 66) := by decide

/-- R110: the reserved bits of c.tcause read 0. -/
theorem test_mtc_mask : after (.mtc 1 0x042) (with12 0xFFFFFFFFFFFFFFFF 0) (fun t => t.creg 0x042) = some 0xFFFF00DF := by decide

/-- R191: only the tag changes. -/
theorem test_tset : after (.tset 1 2) stocked (fun t => (t.tag (lsHome 0 0x100), t.tag (lsHome 0 0x108), Memory.word t.mem (lsHome 0 0x100))) =
    some (3, 0, 0xFFFFFFFFFFFFFF80) := by decide

/-- R222: BAR of a lone thread's own scope completes. -/
theorem test_bar_self : after (.bar 0) base (fun t => t.me.pc) = some (placedPc + 2) := by decide

/-! ### Witnesses: scalar instructions -/

theorem witness_scalar_ports_open :
    base.portsOpen [1, 2] [3] [] [] = true ∧ base.portsOpen [1] [0] [] [] = true ∧ base.portsOpen [] [3] [] [] = true ∧ base.portsOpen [1, 2, 4] [3] [] [] = true ∧
    ported.portsOpen [6, 6] [3] [] [] = true := by decide

theorem witness_scalar_fields :
    (0 : BitVec 6).toNat + (63 : BitVec 6).toNat < 64 ∧ base.portsOpen [1, 3] [3] [] [] = true := by decide

/-- Clamped and not clamped, with SX enabled and not. -/
theorem witness_scalar_arithmetic :
    let s := with12 0x7FFFFFFFFFFFFFFF 1
    let e := (withCr (fun c => { c with fen := 0x20 })).ws 1 3
    (s.portsOpen [1, 2] [3] [] [] = true ∧ (s.rs 1).toInt + (s.rs 2).toInt > 2 ^ 63 - 1 ∧ s.me.cr.fen.getLsbD 5 = false) ∧
    (e.portsOpen [2, 1] [3] [] [] = true ∧ ((e.rs 2).toNat : Int) - (e.rs 1).toNat < 0 ∧ e.me.cr.fen.getLsbD 5 = true) ∧
    (base.rs 1).toInt + (base.rs 2).toInt ≤ 2 ^ 63 - 1 := by decide

/-- base whose scalar port leads to another core, and whose network interface has no key. -/
def keyless : State :=
  let s := withMe (fun x => { x with port := { Port.zero with dn := true, target := 8 } })
  s.setCore 0 { s.core 0 with keys := [] }

theorem witness_scalar_frame_and_ports :
    (keyless.pushShut [7] [] = true ∧ keyless.pushShut [3] [] = false) ∧
    (∃ t, scalarShape (.mov 3 1) = some ([1], 3) ∧ noPorts [1] [3] = true ∧ exec (.mov 3 1) base = .next t) ∧
    (scalarShape (.mov 3 7) = some ([7], 3) ∧ base.me.portBad [7] [3] = true) ∧
    ([6, 6].contains (6 : SReg) = true ∧ ported.me.port.sq = [7, 8] ∧ ported.me.st = .ready) :=
  ⟨by decide, ⟨_, by decide, by decide, rfl⟩, by decide, by decide⟩


/-- A U bit beside F 0 (R132), in both forms, and a field that reaches above bit 63 (R135). -/
theorem test_compare_u_bit_and_wide_field_refused :
    decodeHT (0x42#8 ++ 3#5 ++ 0#3) (.one 1) = .error .reservedField ∧ decodeHT (0x82#8 ++ 3#5 ++ 5#3) (.two 0x10000) = .error .reservedField ∧
    decodeHT (0x84#8 ++ 3#5 ++ 2#3) (.two 0x7F) = .error .reservedValue := by decide

/-- MOV s0, s6 with one value queued, and the port faults of a compare and of TRAP. -/
theorem witness_move_pops_and_port_faults :
    (ported.me.st = .ready ∧ ported.me.port.su = true ∧ ported.me.port.sq = 7 :: [8]) ∧ base.me.portBad [7, 1] [3] = true ∧ base.me.portBad [7] [] = true := by
  decide
/-! ### Witnesses: control -/

theorem witness_branches :
    base.portsOpen [1, 2] [] [] [] = true ∧ base.portsOpen [1] [] [] [] = true ∧ base.portsOpen [1] [1] [] [] = true ∧
    base.myCore.frozen = false ∧ (withCore (fun c => { c with frozen := true })).myCore.frozen = true := by decide

theorem witness_calls_and_windows :
    let r := withMe (fun x => { x with regs := { x.regs with older := 1 } })
    let f := withMe (fun x => { x with regs := { x.regs with older := 2 }, cr := { x.cr with wsb := 4, wsl := 5, wsp := 5 } })
    base.callFits = true ∧ (r.me.regs.frame = .normal ∧ 0 < r.me.regs.older) ∧
    (f.me.regs.frame = .normal ∧ 2 ≤ f.me.regs.older ∧ f.me.cr.wsl.toNat < f.me.cr.wsp.toNat + 1) ∧
    (base.me.regs.frame = .normal ∧ base.me.regs.older = 0 ∧ base.me.cr.wsp = base.me.cr.wsb) := by decide

/-- base with the address of its code line at offset 0x108 of the local store, and a table there in s2. -/
def tabled : State :=
  let s := with12 1 0x100
  { s with mem := Memory.setWord s.mem (lsHome 0 0x108) placedPc }

theorem witness_jump_tables :
    ((tabled.rs 2).toNat % 8 = 0 ∧ (tabled.rs 1).toNat < (2 : Word).toNat ∧ tabled.plain (tabled.rs 2 + 8 * tabled.rs 1) 8 = true ∧
      tabled.landsOn (BitVec.ofNat 64 (tabled.bytesAt 0x108 8) &&& ~~~(1 : Word)) 5 = true ∧ (5 : BitVec 11) = (5 : BitVec 5).setWidth 11 ∧
      (2 : Word).toNat = (1 : BitVec 6).toNat + 1 ∧ tabled.portsOpen [1, 2] [] [] [] = true ∧ tabled.callFits = true ∧
      (2 : Word) = (tabled.ws 3 2).rs 3 ∧ (tabled.ws 3 2).portsOpen [1, 2, 3] [] [] [] = true) ∧
    ((with12 0 4).rs 2).toNat % 8 ≠ 0 ∧
    ((tabled.rs 2).toNat % 8 = 0 ∧ (0 : BitVec 6).toNat < (tabled.rs 1).toNat ∧ (tabled.rs 0).toNat ≤ (tabled.rs 1).toNat) := by decide

/-- The same inside the handler. -/
def inHandler : State := withMe (fun x => { x with cr := { x.cr with tvec := 0x4000000, intrap := true }, regs := { x.regs with frame := .trap, left := 2 } })

theorem witness_traps_taken :
    (handled.me.cr.intrap = false ∧ handled.me.cr.tvec ≠ 0 ∧ handled.portsOpen [1] [] [] [] = true ∧ (trapOf 7 0 0).cls ≠ 8 ∧ (trapOf 8 0 0).cls = 8) ∧
    (∃ g, (trapOf 7 0 0).cls ≠ 19 ∧ inHandler.me.cr.intrap = true ∧ inHandler.gang inHandler.me.gang = some g ∧ g.fatal = none) ∧
    (∃ g, base.me.cr.tvec = 0 ∧ (base.gang base.me.gang) = some g ∧ (base.setGang { g with fatal := some (trapOf 1 0 0, ⟨0, 0⟩, 0) }).gang 0 =
      some { g with fatal := some (trapOf 1 0 0, ⟨0, 0⟩, 0) }) :=
  ⟨by decide, ⟨_, by decide, by decide, rfl, by decide⟩, ⟨_, by decide, rfl, by decide⟩⟩

theorem witness_software_traps_complete :
    base.portsOpen [1] [] [] [] = true ∧ base.me.cr.tvec = 0 ∧ inHandler.me.cr.intrap = true ∧ ∃ g, base.gang base.me.gang = some g ∧ g.fatal = none :=
  ⟨by decide, by decide, by decide, _, rfl, by decide⟩

theorem witness_trap_return :
    (inHandler.me.cr.intrap = true ∧ inHandler.me.regs.frame = .trap ∧ 2 ≤ inHandler.me.regs.left) ∧
    (let s := inHandler.setMe { inHandler.me with regs := { inHandler.me.regs with left := 0 }, cr := { inHandler.me.cr with wsb := 4, wsl := 8, wsp := 8 } }
     s.me.cr.intrap = true ∧ s.me.regs.frame = .trap ∧ s.me.regs.left < 2 ∧ 2 = 2 - s.me.regs.left ∧ s.calm = true ∧
      (∀ k, k < 2 → s.me.cr.wsp - BitVec.ofNat 11 k ≠ s.me.cr.wsb ∧ s.allocated s.cur.core (128 * (s.me.cr.wsp - BitVec.ofNat 11 (k + 1)).toNat) s.myCtx = true)) ∧
    (base.me.cr.intrap = false ∧ base.me.regs.frame ≠ .trap) ∧ (trapOf 7 0 0).cls ≠ 8 ∧
    (handled.me.cr.intrap = false ∧ handled.me.cr.tvec ≠ 0 ∧ handled.me.regs.frame = .normal ∧ handled.me.regs.left = 0) := by decide

theorem witness_control_registers :
    (base.portsOpen [] [3] [] [] = true ∧ CReg.known 0x052 = true ∧ CReg.known 0x016 = true ∧ base.raising base.cur = false ∧ base.cont.seen = none ∧
      base.follows (cregOrder 0x028) = false ∧ (base.setMe { base.me with cont := some { base.cont with seen := some 7 } }).cont.seen = some 7) ∧
    ((0x016, 0x3F) ∈ writableRegisters ∧ base.portsOpen [1] [] [] [] = true ∧ (0x020, 0x3FF80) ∈ writableRegisters ∧ base.windowBusy base.cur = false) ∧ (7 : BitVec 11).toNat ≤ 7 ∧ CReg.known 0x008 = false := by decide

/-! ### Witnesses: memory instructions -/

theorem witness_load_and_store_results :
    stocked.portsOpen [1] [3] [] [] = true ∧ stocked.portsOpen [1, 2] [] [] [] = true ∧ stocked.portsOpen [1, 0] [3] [] [] = true ∧
    stocked.plain (stocked.rs 1 + (0 : BitVec 11).signExtend 64) 8 = true ∧ stocked.plain (stocked.rs 1 + (0x7FF : BitVec 11).signExtend 64) 1 = true ∧
    stocked.plain (stocked.rs 1 + (4 : BitVec 16).signExtend 64) 4 = true ∧ stocked.plain (stocked.rs 1 + stocked.rs 0 + (0xFFFFFFFE : BitVec 32).signExtend 64) 2 = true := by
  decide

theorem witness_relaxed_issue :
    stocked.portsOpen [1] [3] [] [] = true ∧ stocked.portsOpen [1, 0] [3] [] [] = true ∧ stocked.portsOpen [2, 1] [] [] [] = true ∧
    stocked.portsOpen [2, 1, 0] [] [] [] = true ∧ stocked.portsOpen [1, 2, 3] [3] [] [] = true ∧
    stocked.plain (stocked.rs 1 + (8 : BitVec 16).signExtend 64) 8 = true ∧ stocked.plain (stocked.rs 1 + stocked.rs 0 + (8 : BitVec 32).signExtend 64) 8 = true ∧
    stocked.plain (stocked.rs 1) 8 = true ∧ stocked.me.outs.length < 4 := by decide

theorem witness_memory_traps :
    (2 ∈ [2, 4, 8] ∧ (0x101 : Word).toNat % 2 ≠ 0) ∧
    (1 ∈ [1, 2, 4, 8] ∧ (0x40000 : Word).toNat % 1 = 0 ∧ 0x40000 ≤ (0x40000 : Word).toNat ∧ (0x40000 : Word).toNat < 0x100000) ∧
    (8 ∈ [1, 2, 4, 8] ∧ (0x4000 : Word).toNat % 8 = 0 ∧ (0x4000 : Word).toNat < 0x40000 ∧ base.allocated 0 0x4000 base.myCtx = false) ∧
    base.me.cont = none ∧ (with12 0x101 0).rs 1 + (0 : BitVec 11).signExtend 64 = 0x101 ∧ (with12 0x40000 0).rs 1 + (0 : BitVec 11).signExtend 64 = 0x40000 ∧
    (with12 0x4000 0).rs 1 + (0 : BitVec 11).signExtend 64 = 0x4000 ∧ base.portsOpen [2, 1] [] [] [] = true ∧ base.portsOpen [1] [3] [] [] = true := by decide

/-- base whose region 0 has table 1, with entries e. -/
def tagged (e : BitVec 16) : State :=
  withCore (fun c => { c with rmap0 := 1, tables := c.tables.setIfInBounds 0 (Vector.replicate 64 e) })

theorem witness_tag_action_load :
    let of (e : BitVec 16) (k : Nat) : Nat := (TagEntry.of ((tagged e).entry 0 0x100 k)).act
    (tagged 0x2000).clear 0x100 8 = true ∧ (∀ k, k < 3 → of 0x1200 k = 0 ∧ of 0x8000 k = 4 ∧ of 0x2000 k = 1 ∧ of 0x4000 k = 2 ∧ of 0x6040 k = 3) ∧ AtomOp.cas ≠ .fadd ∧
    (TagEntry.of 0x1200).upd = true := by decide

theorem witness_atomic_results :
    (atomics.head? = some (.aadd, .aaddW, .add)) ∧ (stocked.portsOpen [1, 2] [3] [] [] = true ∧ stocked.portsOpen [1, 2, 3] [3] [] [] = true) ∧
    stocked.plain (stocked.rs 1) 8 = true ∧ stocked.plain (stocked.rs 1 + (4 : BitVec 16).signExtend 64) 4 = true ∧ stocked.me.cr.fen = 0 :=
  ⟨rfl, by decide, by decide, by decide, by decide⟩

/-- base with 0x100 in s1, 4 in s2, and a mask in v0 that enables element 15 alone. -/
def masked : State :=
  let s := with12 0x100 4
  s.setMe { s.me with regs := { s.me.regs with vec := s.me.regs.vec.set 0 0x8000 } }

theorem masked_only : ∀ e, e < 16 → masked.isOn 8 e = true → e = 15 := by decide

theorem witness_vector_memory_results :
    (masked.portsOpen [1] [] [] [3] = true ∧ masked.portsOpen [1] [] [3] [] = true ∧ masked.plain (masked.rs 1 + 0) 64 = true ∧
      masked.plain (masked.rs 1 + (0x3FFFFFC0 : BitVec 30).signExtend 64) 64 = true) ∧
    (masked.portsOpen [1, 2] [] [] [3] = true ∧ masked.portsOpen [1, 2] [] [3] [] = true ∧
      masked.plainElems (widthOf 0) 8 (fun e => masked.rs 1 + 0 + BitVec.ofNat 64 e * masked.rs 2)) ∧
    (masked.portsOpen [1] [] [4] [3] = true ∧ masked.portsOpen [1] [] [3, 4] [] = true ∧ masked.me.cont = none ∧ masked.me.st = .ready ∧ masked.wakesDue = false ∧
      masked.plainElems 32 8 (fun e => masked.rs 1 + (BitVec.ofNat 32 (elemOf 32 (masked.rv 4) e)).signExtend 64 * BitVec.ofNat 64 (2 ^ 3))) := by
  refine ⟨by decide, ⟨by decide, by decide, ?_⟩, by decide, by decide, by decide, by decide, by decide, ?_⟩ <;>
    (intro e he h; obtain rfl := masked_only e he h; decide)

theorem allocated_from_0x200 : ∀ k, k < 16 → base.allocated 0 (0x200 + 8 * k) base.myCtx = true := by decide

theorem witness_tag_and_table_results :
    (stocked.clear (stocked.rs 1) 8 = true ∧ stocked.portsOpen [1] [3] [] [] = true ∧ stocked.portsOpen [1, 2] [] [] [] = true ∧
      stocked.portsOpen [1, 2, 3] [3] [] [] = true) ∧
    (let s := with12 0x200 0
     s.portsOpen [1] [] [] [] = true ∧ (3 : BitVec 2) ≠ 0 ∧ s.rs 1 = 0x200 ∧ (0x200 : Word).toNat % 8 = 0 ∧ (0x200 : Word).toNat + 128 ≤ 0x40000 ∧
      s.myCore.alloc = base.myCore.alloc ∧ s.myCore.ctx = base.myCore.ctx ∧ s.myCore.demands = [] ∧ (∀ k ∈ slotNums, (s.myCore.slot k).blanks = []) ∧
      s.myCore.dbg.wpctl = Vector.replicate 4 0 ∧ s.coreExists 0 = true ∧ entryBad 0 = false ∧ entryBad 0xFFFF = true ∧ s.follows [.shadows] = false ∧ s.waiters = [] ∧
      s.myCore.copies = [] ∧ s.me.overlaps (lsHome s.cur.core (s.rs 1).toNat) 128 = false ∧ s.badTags = [] ∧ s.poison = []) ∧
    (base.waiters = [] ∧ base.holdsRegion 3 = true ∧ base.follows [.shadows, .maps] = false ∧ base.follows [.maps] = false ∧
      (∀ k ∈ slotNums, k ≠ base.cur.slot → (base.myCore.slot k).waitsFor (· == .force) = false)) := by decide

theorem witness_memory_laws : Memory.wf base.mem = true ∧ Memory.wf stocked.mem = true := by decide

/-! ### Witnesses: vector instructions -/

/-- base with the vector port enabled and a vector in its queue. -/
def vported : State := withMe (fun x => { x with port := { Port.zero with vp := true, dn := true, vu := true, vq := [5], target := 1 } })

theorem witness_vector_results :
    (base.portsOpen [] [] [1, 2] [3] = true ∧ base.portsOpen [] [] [1] [3] = true ∧ base.portsOpen [4] [] [1] [3] = true ∧ base.portsOpen [4] [] [] [3] = true ∧
      base.portsOpen [] [] [1, 2, 3] [3] = true ∧ base.portsOpen [1, 2] [] [] [3] = true ∧ base.portsOpen [4] [3] [1] [] = true ∧ base.portsOpen [] [3] [1] [] = true ∧
      base.me.cr.fen = 0) ∧
    (vported.portsOpen [] [] [15, 15] [3] = true ∧ vported.me.cr.fen = 0) ∧ (2 : BitVec 2) ≠ 3 ∧ ((1 : BitVec 2) = 1 ∨ (1 : BitVec 2) = 2) := by decide

theorem witness_vector_convert_results :
    (4 : BitVec 4).toNat ≤ 13 ∧ (7 : BitVec 4).toNat ≤ 13 ∧
    (7 : BitVec 4).toNat * (512 / max (fmtContainer 4) (fmtContainer 7)) + 512 / max (fmtContainer 4) (fmtContainer 7) ≤ 512 / min (fmtContainer 4) (fmtContainer 7) := by
  decide

/-- base with infinities of both signs in v1 and v2, element 0 enabled by v0, and NV enabled to trap. -/
def invalid : State :=
  let s := withCr (fun c => { c with fen := 0x10 })
  s.setMe { s.me with regs := { s.me.regs with vec := ((s.me.regs.vec.set 0 1).set 1 0x7F800000).set 2 0xFF800000 } }

theorem invalid_only : (List.range (512 / 32)).filter (invalid.isOn 8) = [0] := by decide

theorem witness_vector_traps_and_destination :
    (∃ p, vecFloat.head? = some p ∧ (0 : BitVec 2) ≠ 3 ∧ invalid.portsOpen [] [] [1, 2] [3] = true ∧
      invalid.unionFlags 8 (512 / 32) (fun e => p.2.2 (floatType 0) (invalid.roundMode 7) (elemOf 32 (invalid.rv 1) e) (elemOf 32 (invalid.rv 2) e)) &&&
        invalid.me.cr.fen ≠ 0) ∧
    base.me.isPort 3 = false ∧ vported.me.isPort 15 = true := by
  refine ⟨⟨_, rfl, by decide, by decide, ?_⟩, by decide, by decide⟩
  rw [State.unionFlags, show 512 / 32 = 16 from rfl, show (List.range 16).filter (invalid.isOn 8) = [0] from invalid_only]
  decide

theorem witness_exact_arithmetic :
    (7 : BitVec 4).toNat ≤ 7 ∧ 0x3F800000 < 2 ^ ((FFmt.of 7).e + (FFmt.of 7).m + 1) ∧ (∃ n k e, (FFmt.of 7).decode 0x3F800000 = .fin n k e) ∧
    -(1023 * 512 * 1025) ≤ (-(1023 * 512 * 1025) : Int) ∧ (-1 : Int) < 31 * 16 * 33 ∧ (FFmt.of 7).maxBits < 0x7F800000 ∧
    (5 : BitVec 4).toNat ∈ [5, 6, 7] ∧ (FFmt.decode fp32 0x7FC00000).isNan = true ∧ (FFmt.decode fp32 0x3F800000).isNan = false ∧
    FV.Below (.fin false 1 0) (.inf false) ∧ FV.Below (.inf true) (.fin false 1 0) :=
  ⟨by decide, by decide, ⟨_, _, _, rfl⟩, by decide, by decide, by decide, by decide, by decide, by decide, ⟨rfl, by decide⟩, rfl, by decide⟩

/-! ### Witnesses: matrix, descriptors, tiles -/

/-- base in matrix mode with the grant, and a scale record in the FIFO. -/
def matrixed : State :=
  let s := withMe (fun x => { x with mode := true })
  let t := (((s.ws 1 32).ws 2 0x400).ws 3 0x800)
  t.setCore 0 { t.core 0 with grant := some 0, fifo := [[0x7F]] }

theorem witness_matrix_mode_results :
    matrixed.me.mode = true ∧ matrixed.myCore.grantq = [] ∧
    (base.me.mode = false ∧ base.myCore.grant = none ∧ base.myCore.grantq = []) ∧
    (let s := withCore (fun c => { c with grant := some 3 })
     s.me.mode = false ∧ s.myCore.grantq.contains s.cur.slot = false ∧ s.myCore.grant = some 3 ∧ (3 : BitVec 3) ≠ s.cur.slot) := by decide

theorem witness_matrix_multiply_results :
    matrixed.calm = true ∧ matrixed.me.mode = true ∧ (matrixed.myCore.grid = none ∧ matrixed.myCore.tst = none ∧ matrixed.myCore.staging = [] ∧ matrixed.owed = []) ∧
    matrixed.me.cr.fen = 0 ∧ matrixed.portsOpen [1, 2, 3] [] [] [] = true ∧
    matrixed.multiplies true (matrixed.rs 1) (matrixed.rs 2) (matrixed.rs 3) 0 0 ∧ matrixed.multiplies false (matrixed.rs 1) (matrixed.rs 2) (matrixed.rs 3) 8 8 ∧
    matrixed.myCore.fifo = [[0x7F]] ++ [] ∧ matrixed.myCore.fifo = [] ++ [[0x7F]] ∧ (∀ r ∈ ([[0x7F]] : List (List (BitVec 256))), r ≠ []) ∧
    ([[0x7F]] : List (List (BitVec 256))).flatten.length = (matrixed.rs 1).toNat / 32 := by
  refine ⟨by decide, by decide, by decide, by decide, by decide, ⟨by decide, by decide, by decide, ⟨_, rfl, by decide⟩, by decide, by decide, by decide, by decide⟩,
    ⟨by decide, by decide, by decide, ⟨_, rfl, by decide⟩, by decide, by decide, by decide, by decide⟩, by decide, by decide, by decide, by decide⟩

/-- base with s1 = 0x400, s2 = 0x800, s3 = 0x40, s4 = 1, in matrix mode. -/
def laid : State := (((matrixed.ws 1 0x400).ws 2 0x800).ws 3 0x40).ws 4 1

theorem witness_matrix_layout_results :
    (laid.calm = true ∧ laid.myCore.staging = [] ∧ laid.me.mode = true ∧ laid.portsOpen [1, 4] [] [] [] = true ∧ (laid.rs 1).toNat % 32 = 0 ∧ laid.owns (laid.rs 1) (32 * (laid.rs 4).toNat) = true ∧
      1 ≤ (laid.rs 4).toNat ∧ laid.myCore.fifo.flatten.length + 1 ≤ 64 ∧ laid.myCore.fifo.length < 16 ∧
      laid.owns (laid.rs 1) (32 * (laid.rs 0).toNat) = true ∧ (laid.rs 0).toNat = 0 ∧ 64 < laid.myCore.fifo.flatten.length + 64) ∧
    (laid.portsOpen [1, 2, 3] [] [] [] = true ∧ laid.portsOpen [1, 2, 3, 4] [] [] [] = true ∧ laid.converts (laid.rs 1) (laid.rs 2) (laid.rs 3) 4 4 1 ∧
      rowsApart (laid.rs 2) (laid.rs 3) 4 1) ∧
    (laid.portsOpen [1, 2] [] [] [] = true ∧ (laid.rs 1).toNat % 64 = 0 ∧ laid.owns (laid.rs 1) (1 * (32 * 64)) = true ∧
      laid.owns (laid.rs 2) (1 * (fmtPlanes 8 * 64)) = true) := by
  refine ⟨by decide, ⟨by decide, by decide, ⟨by decide, by decide, by decide, by decide, ?_, by decide⟩, ?_⟩, by decide⟩
  · show ∀ r, r < 16 → laid.owns (0x800 + BitVec.ofNat 64 r * 0x40) 16 = true
    decide
  · show ∀ r q, r < 16 → q < 16 → r ≠ q → (0x800 + BitVec.ofNat 64 r * 0x40 : Word).toNat + 16 ≤ (0x800 + BitVec.ofNat 64 q * 0x40 : Word).toNat ∨
      (0x800 + BitVec.ofNat 64 q * 0x40 : Word).toNat + 16 ≤ (0x800 + BitVec.ofNat 64 r * 0x40 : Word).toNat
    intro r q hr hq hne
    simp only [BitVec.ofNat_eq_ofNat, BitVec.toNat_add, BitVec.toNat_mul, BitVec.toNat_ofNat]
    omega

/-- Descriptors of single FP32 elements at 0x200, 0x100 and 0x180. -/
def elemAt (k : Nat) : BitVec 256 := [6277101735386680764176071790128604880746321954092515066368, 6277101735386680764176071790128604880746321954092515066112, 6277101735386680764176071790128604880746321954092515066240][k]?.getD 0

/-- stocked with these in d1, d2 and d3. -/
def tiled : State := ((stocked.wd 1 (elemAt 0)).wd 2 (elemAt 1)).wd 3 (elemAt 2)

theorem witness_descriptor_results :
    stocked.portsOpen [1] [] [] [] = true ∧ stocked.plain (stocked.rs 1) 32 = true ∧ stocked.portsOpen [2] [] [] [] = true ∧ stocked.portsOpen [] [3] [] [] = true ∧
    stocked.portsOpen [1, 2] [] [] [] = true ∧ (0 : BitVec 6).toNat + (63 : BitVec 6).toNat < 64 := by decide

def addBlank : Blank :=
  { seq := 0, pc := 0, byHandler := false, op := .add, dst := elemAt 0, src1 := elemAt 1, src2 := elemAt 2, rm := 0, nbv := 1, scla := 0x7F, sclb := 0x7F
    pend := [0], total := 1, flt := [] }

/-- tiled with a pending addition. -/
def pending : State := tiled.setMe { tiled.me with blanks := [addBlank] }

theorem witness_tiles :
    (tiled.tileChecks (.op .add) ⟨1, 0, tiled.rd 1⟩ [⟨2, 1, tiled.rd 2⟩, ⟨3, 2, tiled.rd 3⟩] = none ∧ tiled.me.blanks.length < 8 ∧
      (∃ j, tiled.tileChecks (.op .add) ⟨4, 0, tiled.rd 4⟩ [⟨2, 1, tiled.rd 2⟩, ⟨3, 2, tiled.rd 3⟩] = some j) ∧ noPorts [1, 2] [] = true) ∧
    ((∀ k ∈ slotNums, (tiled.myCore.slot k).blanks = []) ∧ tiled.myCore.demands = [] ∧ dReservedBad (tiled.rd 1) = false) ∧
    (pending.me.blanks = addBlank :: [] ∧ addBlank.pend ≠ [] ∧ pending.myCore.demands = []) ∧
    (pending.portsOpen [] [3] [] [] = true ∧ pending.me.blanks[1]? = none ∧ pending.me.blanks[0]? = some addBlank) ∧
    (tiled.calm = true ∧ tiled.myCore.grid = none ∧ tiled.myCore.tst = none ∧ tiled.myCore.staging = [] ∧ tiled.tileChecks .tst ⟨1, 0, tiled.rd 1⟩ [⟨2, 1, tiled.rd 2⟩] = none ∧
      (∃ j, tiled.tileChecks .tst ⟨4, 0, tiled.rd 4⟩ [⟨2, 1, tiled.rd 2⟩] = some j)) := by
  refine ⟨⟨by decide, by decide, ⟨_, rfl⟩, by decide⟩, by decide, by decide, by decide, by decide, by decide, by decide, by decide, by decide, ⟨_, rfl⟩⟩

theorem witness_block_evaluation :
    let k : DBlock := { slot := 0, seq := 0, n := 0, opened := false, got := [], made := 0, depth := 0, passed := 0, undo := [] }
    let d : Demand := { seq := 0, by_ := .thread ⟨0, 0⟩, blocks := [k], failed := false, stall := none, since := none }
    let s := pending.setCore 0 { pending.core 0 with demands := [d] }
    (s.core 0).demands = [d] ∧ (s.core 0).grid = none ∧ (s.core 0).tst = none ∧ (s.core 0).copies = [] ∧ ((s.core 0).slot 0).blanks = [addBlank] ∧
    (∀ j ∈ slotNums, j ≠ 0 → ((s.core 0).slot j).blanks = []) ∧ addBlank.seq = k.seq ∧ k.n ∈ addBlank.pend ∧ addBlank.flt = [] ∧
    (s.core 0).dbg.wpctl = Vector.replicate 4 0 ∧ (s.core 0).rmap0 = 0 ∧ (s.core 0).rmap1 = 0 ∧ s.waiters = [] ∧ s.badTags = [] ∧ s.poison = [] ∧
    (s.slot ⟨0, 0⟩).cr.fen = 0 ∧
    State.tileChecks { s with cur := ⟨0, 0⟩ } (.op .add) ⟨1, 0, addBlank.dst⟩ (addBlank.sources.zipIdx.map (fun (p : BitVec 256 × Nat) => (⟨1, p.2 + 1, p.1⟩ : TileArg))) = none := by
  decide

/-! ### Witnesses: threads, synchronisation, copies -/

/-- base with the frame address of the word at offset 0x140 in s1. -/
def framed : State := base.ws 1 0x100140

theorem frame_0x140 (s : State) (h1 : s.cur.core % 4 = 0) (h2 : (SMap.find s.myCore.alloc 0).isSome = true) : s.frameAt 0x100140 0x140 :=
  ⟨by rw [h1]; rfl, by decide, by decide, h2⟩

/-- framed with the link value l in s15, one older frame and the deque ds. -/
def returning (l : Word) (older : Nat) (ds : List (Word × Word)) : State :=
  let s := framed.ws 15 l
  s.setMe { s.me with deque := ds, regs := { s.me.regs with older := older }, cr := { s.me.cr with wloop := 5 } }

/-- base with a second thread of its gang in slot 2, whose deque holds one record. -/
def robbed : State := base.setSlot ⟨0, 2⟩ { base.me with deque := [(placedPc, 9)] }

theorem witness_task_results :
    (framed.calm = true ∧ framed.portsOpen [1] [] [] [] = true ∧ framed.frameAt (framed.rs 1) 0x140 ∧ framed.callFits = true ∧ framed.bytesAt 0x140 8 = 0) ∧
    ((returning 0x10 1 []).me.regs.frame = .normal ∧ ((returning 0x10 1 []).rs 15).getLsbD 0 = false ∧ 0 < (returning 0x10 1 []).me.regs.older ∧
      (returning 0x10 1 []).calm = true ∧ (returning 0x10 1 []).portsOpen [1] [] [] [] = true ∧ (returning 0x10 1 []).frameAt ((returning 0x10 1 []).rs 1) 0x140) ∧
    (((returning 0x11 1 [(4, 5)]).rs 15).getLsbD 0 = true ∧ (returning 0x11 1 [(4, 5)]).me.deque = [] ++ [(4, 5)] ∧ (returning 0x11 1 [(4, 5)]).calm = true) ∧
    ((returning 0x11 0 []).me.deque = [] ∧ (returning 0x11 0 []).me.cr.wloop ≠ 0 ∧ ((returning 0x11 0 []).rs 15).getLsbD 0 = true) ∧
    (State.bytesAt { framed with mem := Memory.setWord framed.mem (lsHome 0 0x140) 2 } 0x140 8 ≠ 0) ∧
    (robbed.portsOpen [0] [3] [] [] = true ∧ robbed.me.regs.frame = .normal ∧
      (stealOrder robbed.cur).find? (fun u => (robbed.slot u).gang == robbed.me.gang && !(robbed.slot u).deque.isEmpty) = some ⟨0, 2⟩ ∧
      (robbed.slot ⟨0, 2⟩).deque = (placedPc, 9) :: [] ∧
      (stealOrder base.cur).find? (fun u => (base.slot u).gang == base.me.gang && !(base.slot u).deque.isEmpty) = none) ∧
    (stocked.calm = true ∧ (1 : SReg) ≠ 0 ∧ stocked.portsOpen [1] [3] [] [] = true ∧ (∀ u ∈ stealOrder stocked.cur, (stocked.slot u).deque = []) ∧
      (stocked.rs 1).toNat % 8 = 0 ∧ stocked.owns (stocked.rs 1) 8 = true ∧ stocked.tag (lsHome 0 (stocked.rs 1).toNat) = 0 ∧ (0 : BitVec 3) ≠ 1) ∧
    (base.portsOpen [] [3] [] [] = true ∧ base.me.blanks = [] ∧ base.myCore.demands = [] ∧ base.copying base.cur = false ∧ base.me.outs = [] ∧ base.me.cont = none ∧
      base.me.stamp = none ∧ base.me.stamps = []) := by
  refine ⟨⟨by decide, by decide, frame_0x140 _ (by decide) (by decide), by decide, by decide⟩,
    ⟨by decide, by decide, by decide, by decide, by decide, frame_0x140 _ (by decide) (by decide)⟩, by decide, by decide, by decide, by decide, by decide, by decide⟩

/-- A launch of gang 0 with the flags word w. -/
def launchOf (w : Word) : Launch :=
  { id := 0, queue := 0, index := 0, ctx := 1, aff := 0, packet := (Vector.replicate 16 0).set 0 w, desc := Vector.replicate 8 0, prio := 0, state := .running
    since := 0, nextGang := 1, total := 1, noticed := false, code := 0, gangNo := 0, reason := 0, written := false, recorded := none, nbv := none, advanced := false }

def stamping : State := { base with launches := [launchOf 0x800] }

theorem witness_thread_register_results :
    (base.portsOpen [1] [] [] [] = true ∧ ((6 : BitVec 4).getLsbD 2 = true ∧ (4 : BitVec 4).getLsbD 3 = false) ∧ (base.rs 1).toNat < 32 ∧
      (⟨0, 0⟩ : Tid) ∈ ((base.gang base.me.gang).map Gang.tids).getD [] ∧ (base.slot ⟨0, 0⟩).port.sclaim = none ∧
      ¬ ((base.ws 1 32).rs 1).toNat < 32 ∧
      ((base.setSlot ⟨0, 0⟩ { base.me with port := { Port.zero with sclaim := some ⟨0, 3⟩ } }).slot ⟨0, 0⟩).port.sclaim = some ⟨0, 3⟩) ∧
    base.portsOpen [] [] [] [3] = true ∧ base.portsOpen [1, 2, 3] [] [] [] = true ∧ base.portsOpen [1, 2] [] [] [] = true ∧
    base.stampsOn base.cur = false ∧ (stamping.stampsOn stamping.cur = true ∧ stamping.me.stamp = none ∧ stamping.portsOpen [1] [] [] [] = true) ∧
    (stamping.setMe { stamping.me with stamp := some (Vector.replicate 8 0) }).me.stamp = some (Vector.replicate 8 0) ∧
    base.myCore.frozen = false := by decide

/-- base with one relaxed load outstanding. -/
def loading : State := withMe (fun x => { x with outs := [
  { seq := 0, pc := 0, byHandler := false, store := false, multi := false, fail := none, dest := .none
    items := [{ elem := 0, acc := accRead 0x100 8, home := lsHome 0 0x100, point := 0, came := 0, second := false, stall := .none, since := none, done := false, failed := false, ret := 0 }] }] })

/-- base in round 2 of its barrier of scope 1, the thread having arrived in round r. -/
def arrivedIn (r : Option Nat) : State := withMe (fun x => { x with ab := x.ab.set 1 r })

theorem witness_synchronisation_results :
    (base.me.outs = [] ∧ base.me.cont = none ∧ base.copying base.cur = false ∧ 2 ≤ (2 : BitVec 3).toNat) ∧
    (loading.me.cont = none ∧ loading.me.lates = [] ∧ loading.me.performedAt loading.cur.core 1 = false ∧ loading.me.performedAt loading.cur.core 6 = false) ∧
    (4 ≤ (4 : BitVec 3).toNat ∧ ((base.gangLaunch base.me.gang).map Launch.coop).getD false = false) ∧
    ((1 ≤ (5 : BitVec 3).toNat ∧ (5 : BitVec 3).toNat ≤ 5) ∧
      (let s : State := { base with launches := [launchOf 0x100] }
       ((s.gangLaunch s.me.gang).map Launch.coop).getD false = true)) ∧
    (base.me.ab[1] = none ∧ (arrivedIn (some 0)).me.ab[1] = some 0 ∧ (arrivedIn (some 0)).openRound base.cur 1 ≤ 0 ∧
      0 < State.openRound { arrivedIn (some 0) with chans := [{ sc := 1, owner := 0, place := 0, group := 0, round := 1, sent := false, final := false }] } base.cur 1) ∧
    (stocked.calm = true ∧ (stocked.rs 1).toNat % 8 = 0 ∧ stocked.owns (stocked.rs 1) 8 = true ∧ stocked.portsOpen [1, 2] [] [] [] = true ∧
      stocked.portsOpen [1] [3] [] [] = true ∧ stocked.portsOpen [1, 2] [3] [] [] = true ∧ stocked.portsOpen [1] [] [] [] = true ∧
      stocked.bytesAt (stocked.rs 1).toNat 8 / 2 ^ 40 ≠ (stocked.rs 2).toNat % 2 ^ 24 ∧ (framed.bytesAt 0x140 8 / 2 ^ 40 = (framed.rs 2).toNat % 2 ^ 24)) := by decide

theorem witness_maintenance_results :
    (stocked.portsOpen [1, 2] [] [] [] = true ∧ stocked.me.st = .ready ∧ stocked.rs 2 ≠ 0 ∧ stocked.me.cont = none ∧ stocked.myCore.gated = false ∧ base.rs 2 = 0) ∧
    (base.portsOpen [1] [] [] [] = true ∧ (base.rs 1).toNat % 2 ^ 32 = 0 ∧ base.me.await = .none ∧ (stocked.rs 1).toNat % 2 ^ 32 ≠ 0) ∧
    (let s := withMe (fun x => { x with st := .parked, await := .sleep 0, cont := some base.cont })
     (s.slot ⟨0, 0⟩).st = .parked ∧ (s.slot ⟨0, 0⟩).cont ≠ none ∧ (s.slot ⟨0, 0⟩).await = .sleep 0 ∧ 0 ≤ (s.core 0).cyc.toNat ∧ (s.core 0).gated = false) := by decide

/-- A pattern of n elements of 8 bytes from a. -/
def runOf (a : Word) (n : Nat) : Pattern := { base := a, esize := 3, ext := [n], str := [8] }

/-- base with a started copy of two elements from 0x100 to 0x200, at element pos. -/
def copying (pos : Nat) (v : Option Line) : CopyCmd :=
  { seq := 0, tid := ⟨0, 1⟩, gang := 0, token := lsHome 0 0x300, src := runOf 0x100 2, dst := runOf 0x200 2, pos := pos, n := 2, signal := none, started := true
    data := v, signaled := false, fail := none, stall := .none, since := none }

def withCopy (pos : Nat) (v : Option Line) : State := withCore (fun c => { c with copies := [copying pos v] })

/-- base with the records of an 8-byte element from 0x100 to 0x200 (words 0, 1, 2 and 6 of a record) at 0x400 and 0x480, and s1, s2, s3 naming token and records. -/
def recorded : State :=
  let s := ((base.ws 1 0x300).ws 2 0x400).ws 3 0x480
  let at_ (m : List Host.Cell) (o : Nat) (v : Word) : List Host.Cell := Memory.setWord m (lsHome 0 o) v
  { s with mem := at_ (at_ (at_ (at_ (at_ (at_ s.mem 0x400 0x100) 0x408 0x103) 0x410 1) 0x480 0x200) 0x488 0x103) 0x490 1 }

theorem witness_copy_results :
    (recorded.calm = true ∧ recorded.portsOpen [1, 2, 3] [] [] [] = true ∧ recorded.portsOpen [1, 2, 3, 1] [] [] [] = true ∧ (recorded.rs 1).toNat % 8 = 0 ∧
      recorded.place 0 (recorded.rs 1) ≠ .nowhere ∧ (recorded.rs 2).toNat % 128 = 0 ∧ (recorded.rs 3).toNat % 128 = 0 ∧ recorded.owns (recorded.rs 1) 8 = true ∧
      recorded.owns (recorded.rs 2) 128 = true ∧ recorded.owns (recorded.rs 3) 128 = true ∧
      patternChecks (recorded.bytesAt 0x400 128) (recorded.bytesAt 0x480 128) = none ∧ (∃ j, patternChecks 0 0 = some j) ∧ handled.me.cr.intrap = false ∧ handled.me.cr.tvec ≠ 0) ∧
    ((withCopy 0 none).calmButCopies = true ∧ (withCopy 0 none).coreOwns 0 ((copying 0 none).src.addr 0) (copying 0 none).src.size ∧ (copying 0 none).src.size ≤ 64 ∧
      (withCopy 1 (some 5)).coreOwns 0 ((copying 1 (some 5)).dst.addr 1) (copying 1 (some 5)).dst.size ∧ (withCopy 2 none).calmButCopies = true ∧
      (copying 2 none).token = lsHome 0 0x300 ∧ (withCopy 2 none).copyStops (copying 2 none) = false) := by
  refine ⟨⟨by decide, by decide, by decide, by decide, by decide, by decide, by decide, by decide, by decide, by decide, by decide, ⟨_, rfl⟩, by decide, by decide⟩,
    by decide, ?_, by decide, ?_, by decide, by decide, by decide⟩ <;> (unfold State.coreOwns; decide)

/-! ### Witnesses: events of threads and cores -/

def loadItem : OutItem :=
  { elem := 0, acc := accRead 0x100 8, home := lsHome 0 0x100, point := 0, came := 0, second := false, stall := .none, since := none, done := false, failed := false, ret := 0 }

def storeItem : OutItem := { loadItem with acc := { accRead 0x100 8 with op := .write 5, be := BitVec.allOnes 64 } }

def outOf (store : Bool) (dest : OutDest) (i : OutItem) : Out :=
  { seq := 0, pc := 0, byHandler := false, store := store, multi := false, fail := none, items := [i], dest := dest }

/-- base with one outstanding relaxed instruction. -/
def issued (o : Out) : State := withMe (fun x => { x with outs := [o] })

theorem lone_load : (issued (outOf false (.scalar (.common 2) 8 false) loadItem)).lone ⟨0, 0⟩ (outOf false (.scalar (.common 2) 8 false) loadItem) loadItem := by
  unfold State.lone State.coreOwns; decide

theorem lone_store : (issued (outOf true .none storeItem)).lone ⟨0, 0⟩ (outOf true .none storeItem) storeItem := by
  unfold State.lone State.coreOwns; decide

/-- A store of core 0 to a core of another die, not yet out of its quad. -/
def farItem : OutItem := { storeItem with home := lsHome 1024 0x100 }

/-- The parked instruction of a thread. -/
def parkedCont : Cont := { base.cont with since := some 0 }

def parkedOn (w : Await) : State := withMe (fun x => { x with st := .parked, await := w, cont := some parkedCont })

theorem witness_access_event_results :
    (loadItem.acc.op = .read ∧ RegLoc.common 2 ≠ .portOut ∧ storeItem.acc.op = .write 5 ∧ storeItem.acc.be = BitVec.allOnes 64) ∧
    ((issued (outOf true .none farItem)).me.item 0 = some (outOf true .none farItem, farItem) ∧ farItem.done = false ∧ farItem.point + 1 = 1 ∧ 1 ≤ lastPoint 0 farItem.home ∧
      (issued (outOf true .none farItem)).me.blocked 0 farItem = false ∧ (issued (outOf true .none farItem)).itemBusy ⟨0, 0⟩ true farItem = false ∧
      ({ farItem with point := 1 } : OutItem).point + 1 = 2 ∧ 2 ≤ lastPoint 0 farItem.home ∧ 3 ≤ lastPoint 0 (physHome 1 0) ∧ homeKind (physHome 1 0) < 2) ∧
    (let i := { storeItem with home := physHome 2 0x40, point := 2 }
     let s := issued (outOf true .none i)
     s.me.item 0 = some (outOf true .none i, i) ∧ i.stall = .none ∧ homeIsLs i.home = false ∧ 2 ≤ homeKind i.home ∧ s.me.blocked 0 i = false ∧ s.itemBusy ⟨0, 0⟩ true i = false ∧
      s.requests = []) ∧
    (let w : Waiter := { seq := 4, home := 0, agent := .thread ⟨0, 0⟩, remote := false, onWrite := true, onTag := true, table := true, gate := false }
     let s : State := { parkedOn (.table 0) with waiters := [w] }
     s.waiters.find? (fun y => y.seq == 4) = some w ∧ w.agent = .thread ⟨0, 0⟩ ∧ (s.slot ⟨0, 0⟩).st = .parked ∧ (s.slot ⟨0, 0⟩).cont ≠ none) ∧
    ((parkedOn .rdr).me.st = .parked ∧ (parkedOn .rdr).me.await = .rdr) ∧
    ((parkedOn (.refused 5 0)).me.await = .refused 5 0 ∧ 0 ≤ ((parkedOn .rdr).core 0).cyc.toNat ∧ (parkedOn .rdr).me.outs = []) ∧
    (let s := (parkedOn (.table 7)).setCore 0 { (parkedOn (.table 7)).core 0 with cyc := 0x4000000 }
     (s.slot ⟨0, 0⟩).await = .table 7 ∧ (s.slot ⟨0, 0⟩).cont = some parkedCont ∧ parkedCont.since = some 0 ∧ 0 + 2 ^ 26 ≤ (s.core 0).cyc.toNat ∧
      ((parkedOn (.table 7)).core 0).cyc.toNat < 0 + 2 ^ 26) ∧
    (let c : Cont := { parkedCont with dog := true }
     let s := (tagged 0x2000).setMe { (tagged 0x2000).me with cont := some c }
     (s.slot s.cur).cont = some c ∧ c.dog = true ∧ c.redirect = none ∧ (0x100 : Word).toNat % 8 = 0 ∧ s.place 0 0x100 = .ls 0 0x100 false ∧
      s.lsCheck (some 0) s.myCtx s.myAper 0x100 0 0x100 false = none ∧ s.badTags = [] ∧ (s.core 0).copies = [] ∧ (∀ k, ((s.core 0).slot k).blanks = []) ∧
      (s.core 0).demands = [] ∧ (s.core 0).gated = false ∧ s.me.outs = [] ∧ (s.entry 0 0x100 0).toNat / 2 ^ 13 = 1) := by decide

def lateTrap : LateTrap := { age := 0, info := trapOf 7 0 0, pc2 := 0, late := true, defer := false, epcZero := false, byHandler := false }

/-- handled with a pre-emption notice pending, and without a handler. -/
def noticed : State := handled.setMe { handled.me with notice := 1 }

def theGang : Gang := ((base.gang 0).getD { id := 9, launch := 0, linear := 0, ctx := 0, aper := false, places := [], image := none, fatal := none, preempt := false })

/-- The image of a core with one thread. -/
def imageOf5 : CoreImage :=
  { core := 5, base := 0, regions := 1, slots := [(2, base.me)], bytes := [], tags := [], poison := [], badTags := [], tables := Core.zero.tables, shadows := Core.zero.shadows
    rmap0 := 0, rmap1 := 0, gdly := 0, fifo := [], grant := none, copies := [], waiters := [], dbg := Debug.zero, key := none }

def savedGang : Gang := { theGang with places := [], image := some [imageOf5], aper := true }

def savedLaunch : Launch := { launchOf 0 with aff := 0xFF }

def savedState : State := { base with gangs := [savedGang], launches := [savedLaunch] }

theorem witness_boundary_event_results :
    (handled.mayTrap ⟨0, 0⟩ ∧ (handled.setMe { handled.me with lates := [lateTrap] }).me.lates = lateTrap :: [] ∧ lateTrap.info.cls ≠ 8) ∧
    (noticed.gang noticed.me.gang = some theGang ∧ noticed.me.notice = 1 ∧ noticed.me.lates = [] ∧ noticed.mayTrap ⟨0, 0⟩) ∧
    (theGang.runs ∧ base.me.cr.tvec = 0 ∧ base.me.cr.intrap = false ∧ base.me.st = .ready ∧ base.me.cont = none) ∧
    ((withMe (fun x => { x with notice := 2 })).me.notice = 2 ∧ base.me.cr.pbudget = 0 ∧ base.me.st ≠ .empty) ∧
    (let g := { theGang with preempt := true }
     let s := base.setGang g
     s.gang g.id = some g ∧ g.preempt = true ∧ g.image = none ∧ g.fatal = none ∧ s.canSave g = true ∧
      (∀ p ∈ g.places, ∀ d ∈ (s.core p.core).demands, d.on p = false) ∧ s.owed = []) ∧
    (savedState.gang savedGang.id = some savedGang ∧ savedState.launch savedGang.launch = some savedLaunch ∧ savedLaunch.coop = false ∧ savedGang.image = some [imageOf5] ∧
      savedState.plat.sleeping = false ∧ savedState.plat.power = .run ∧ savedState.plat.boot = 6 ∧ savedState.failing savedGang.ctx = false ∧
      savedState.opens savedGang = true ∧ savedState.yields savedLaunch = false ∧ savedState.seatGang savedLaunch savedGang [imageOf5] = some [(imageOf5, 5)] ∧ imageOf5.slots = [((2 : BitVec 3).toNat, base.me)]) := by
  unfold State.mayTrap Gang.runs; decide

theorem witness_core_event_results :
    (let s := withMe (fun x => { x with regs := { x.regs with older := 2 }, cr := { x.cr with wsb := 4, wsl := 8, wsp := 4 } })
     s.calm = true ∧ s.me.regs.frame = .normal ∧ 2 ≤ s.me.regs.older ∧ s.me.cr.wsp.toNat + 1 ≤ s.me.cr.wsl.toNat ∧ s.me.st ≠ .empty ∧ s.me.await ≠ .window ∧
      s.allocated 0 (128 * s.me.cr.wsp.toNat) (s.ctxOf 0) = true) ∧
    (let c := { Core.zero with idle := 0x400 }
     c.gated = false ∧ c.gdly ≠ 0 ∧ c.gdly.toNat ≤ c.idle ∧ ({ c with gdly := 0 } : Core).gdly = 0 ∧ ({ c with gated := true } : Core).ungating = false ∧
      ({ c with gated := true, ungating := true } : Core).ungating = true) ∧
    (let c : Chan := { sc := 1, owner := 0, place := 0, group := 0, round := 0, sent := false, final := false }
     let p : Chan := { sc := 5, owner := 7, place := 0, group := 1, round := 0, sent := false, final := false }
     let s : State := { arrivedIn (some 0) with chans := [c, p], launches := [{ launchOf 0 with id := 7 }], plat := { base.plat with self := 3 } }
     s.chans[0]? = some c ∧ (∀ t ∈ s.participants c, (s.slot t).ab[1]?.getD none = some c.round) ∧ s.savedParts c = [] ∧ s.savedParts p = [] ∧ s.participants c ≠ [] ∧
      s.chans[1]? = some p ∧ s.participants p = [] ∧ s.podRoot p.group ≠ s.plat.self ∧ s.launch p.owner ≠ none ∧ s.plat.linksFailed = 0) := by
  refine ⟨⟨by decide, by decide, by decide, by decide, by decide, by decide, by decide⟩, ⟨by decide, by decide, by decide, by decide, by decide, by decide⟩, ⟨by decide, by decide, by decide, by decide, by decide, by decide, by decide, by decide⟩⟩

/-! ### Witnesses: the dispatcher and the debug blocks -/

/-- The leaf of the first 64 KiB of the code page for context 1, in the cache of either I/O die. -/
def ioLeaf : Leaf := { ctx := 1, page := 0x1000000, big := false, pte := 0x1F }

/-- base with words of HBM. -/
def io (ws : List (Nat × Word)) : State :=
  { base with iocaches := [(0, [ioLeaf]), (1, [ioLeaf])], mem := ws.foldl (fun m w => Memory.setWord m (physHome 0 w.1) w.2) base.mem }

/-- A queue of context 1 with 16 packets from page offset 0x1000, on every die; w1 holds more bits of its word 1. -/
def queueOf (w1 write read : Word) (h : HeadState) : Queue :=
  { w := ((((Vector.replicate 8 0).set 0 (placedPc + 0x1000)).set 1 (0xFF01000004 ||| w1)).set 2 write).set 3 read, owner := none, head := h, depFailed := false, due := 0 }

/-- The package with one queue, and no gang. -/
def queued (q : Queue) (ws : List (Nat × Word)) : State := { io ws with queues := [(3, q)], gangs := [], cores := [] }

theorem witness_queue_stores :
    (let s := queued (queueOf 0 0 0 .queued) []
     (s.queue 3).en = false) ∧
    (let s := queued (queueOf 0x800 0 0 .queued) []
     (s.queue 3).en = true ∧ (s.queue 3).malformed = false ∧ 2 ^ (s.queue 3).rsize < ((17 : BitVec 32) - (s.queue 3).read).toNat) ∧
    (queueOf 0x80020 0 0 .queued).malformed = true := by decide

theorem witness_dependences :
    let q := queueOf 0x800 1 0 .depwait
    let s := queued q [(0x1038, placedPc + 0x3000), (0x1040, 5), (0x1048, 1), (0x3000, 4)]
    s.oneQueue 3 q (physHome 0 0x1000) ∧ q.head = .depwait ∧ q.due ≤ s.dispCount.toNat ∧ (s.wordVec (physHome 0 0x1000) 16)[7] = placedPc + 0x3000 ∧
    s.unitSees (.queue 3) q.ctx (placedPc + 0x3000) 8 .load (physHome 0 0x3000) ∧ (s.wordVec (physHome 0 0x1000) 16)[9].getLsbD 0 = true ∧
    Memory.readN s.mem (physHome 0 0x3000) 8 = 4 ∧ (s.wordVec (physHome 0 0x1000) 16)[8].toNat = 5 := by
  unfold State.oneQueue State.unitSeesAll State.unitSees
  refine ⟨?_, ?_, ?_, ?_, ?_, ?_, ?_, ?_⟩ <;> decide

/-- A packet of one gang of one core and one thread, with its descriptor at page offset 0x2000. -/
def packetWords : List (Nat × Word) := [(0x1000, 1), (0x1008, placedPc + 0x2000), (0x1010, 0x40000200001), (0x2000, placedPc), (0x2010, 0x101000100)]

/-- The launch of that packet, being placed. -/
def placing : Launch :=
  { launchOf 1 with
    queue := 3, aff := 0xFF, packet := ((Vector.replicate 16 0).set 0 1).set 2 0x40000200001, desc := ((Vector.replicate 8 0).set 0 placedPc).set 2 0x101000100, state := .placing
    nextGang := 0 }

theorem witness_packet_selection :
    let q := queueOf 0x800 1 0 .eligible
    let s := queued q packetWords
    s.oneQueue 3 q (physHome 0 0x1000) ∧ q.head = .eligible ∧ packetBad (s.wordVec (physHome 0 0x1000) 16) = false ∧ q.depFailed = false ∧
    (s.wordVec (physHome 0 0x1000) 16)[0].toNat % 256 = 1 ∧ (s.wordVec (physHome 0 0x1000) 16)[1] = placedPc + 0x2000 ∧
    s.unitSeesAll (.launch s.seq) q.ctx (placedPc + 0x2000) 8 8 .load (physHome 0 0x2000) ∧ s.checkCode placing true = none ∧
    s.checkCode { placing with aff := 0 } true = some 4 ∧ packetBad ((Vector.replicate 16 0).set 0 2) = true ∧ packetBad (Vector.replicate 16 0) = false := by
  unfold State.oneQueue State.unitSeesAll State.unitSees; refine ⟨?_, ?_, ?_, ?_, ?_, ?_, ?_, ?_, ?_, ?_, ?_⟩ <;> decide

theorem witness_launch_event_results :
    (let s : State := { queued (queueOf 0x800 1 0 .eligible) [] with launches := [placing] }
     s.plat.sleeping = false ∧ s.launches = [placing] ∧ placing.state = .placing ∧ placing.noticed = false ∧ placing.code ≠ 6 ∧ s.gangs = [] ∧ s.plat.power = .run ∧ s.plat.boot = 6 ∧ s.failing placing.ctx = false ∧ placing.gmodeP = false ∧
      placing.total = placing.nextGang + 1 ∧ s.fit placing = some [{ core := 0, base := 0, regions := 1, slots := [0] }] ∧
      (s.queue placing.queue).read + 1 = (s.queue placing.queue).write) ∧
    (let l := launchOf 0x200
     let s : State := { handled with launches := [l] }
     s.handlerless theGang = false ∧ theGang ∈ s.gangs ∧ s.gang theGang.id = some theGang ∧ s.launch theGang.launch = some l ∧ l ∈ s.launches ∧ l.id = theGang.launch ∧ l.queue = (0 : BitVec 13).toNat ∧
      l.notices = true ∧ (launchOf 0).notices = false ∧
      (∀ t ∈ theGang.tids, (s.slot t).gang = theGang.id ∧ (s.slot t).st ≠ .empty ∧ (s.slot t).notice = 0)) ∧
    (let l := { placing with prio := 2, id := 8, aff := 1 }
     let s : State := { base with launches := [launchOf 0, l], dispCount := 65536 }
     s.launch l.id = some l ∧ l.coop = false ∧ l.since + 65536 ≤ s.dispCount.toNat ∧ ({ s with dispCount := 0 } : State).dispCount.toNat < l.since + 65536 ∧ (s.fit l).isSome = true ∧
      s.gangs = [theGang] ∧ s.launch theGang.launch = some (launchOf 0) ∧ (launchOf 0).prio + 1 < l.prio ∧ (∃ p ∈ theGang.places, dieOf p.core ∈ s.permitted l) ∧ (∀ t ∈ theGang.tids, (s.slot t).notice = 0) ∧
      State.fit { s with plat := { s.plat with warm := [0] } } l = none) ∧
    (let l := { placing with id := 8, state := .ended, advanced := true }
     let s : State := { queued (queueOf 0x800 1 1 .queued) [] with launches := [l] }
     s.launch l.id = some l ∧ s.gangs.all (fun g => g.launch != l.id) = true ∧ l.written = false ∧ (let r : Launch := { l with state := .running }
       r.state = .running ∧ r.advanced = true ∧ r.code = 0 ∧ r.noticed = false) ∧ l.nbv = none ∧ l.packet[5] = 0 ∧ s.replays = [] ∧
      (s.queue l.queue).read = (s.queue l.queue).write ∧ s.unitSees (.launch l.id) l.ctx ((s.queue l.queue).packetAt l.index + 80) 8 .store (physHome 0 0x1050)) := by
  unfold State.unitSees; refine ⟨by decide, by decide, by decide, by decide⟩

/-- base under a host function that may debug it. -/
def debugged : State := { base with fns := [(0, { HostFn.zero with dbg := true })] }

def stopMsg : StopMsg := { core := 0, at_ := 0, ctx := 1, gangs := some [0], src := 3, addr := 0, cnt := 0, dom := 1, hit := 0, issued := Vector.replicate 8 0 }

theorem witness_debug_event_results :
    (debugged.reachable 0 = true ∧ (0x5013 : Word).extractLsb' 16 2 ≠ 3 ∧ ((0x5013 : Word).extractLsb' 13 3).toNat ≤ 5 ∧ ((0x5013 : Word).extractLsb' 18 6).toNat ≤ 32 ∧
      (0x30000 : Word).extractLsb' 16 2 = 3) ∧
    (let s := debugged.setMe { debugged.me with st := .stopped, heldSt := .ready }
     s.reachable 0 = true ∧ (s.slot ⟨0, 0⟩).st = .stopped ∧ (s.slot ⟨0, 0⟩).heldSt ≠ .parked ∧ (s.dbg 0).stepping = none ∧ (0x278 : BitVec 12).toNat = 8 * (16 + 63) ∧
      (0xFF8 : BitVec 12).toNat = 8 * (256 + 8 * 31 + 7) ∧ (debugged.slot ⟨0, 0⟩).st ≠ .stopped) ∧
    ((∀ g ∈ ({ debugged with gangs := [] } : State).gangs, ∀ p ∈ g.places, p.core ≠ 0) ∧ State.reachable { debugged with gangs := [] } 0 = true ∧
      theGang ∈ debugged.gangs ∧ ({ core := 0, base := 0, regions := 4, slots := [0] } : GangCore) ∈ theGang.places ∧ theGang.ctx = debugged.ctxOf 0 ∧ (debugged.dbg 0).stopped = false) ∧
    (let s : State := { debugged with stops := [stopMsg], resumes := [stopMsg] }
     s.stops = [stopMsg] ∧ stopMsg.core = 0 ∧ stopMsg.at_ ≤ (s.core 0).cyc.toNat ∧ (s.core 0).ctx = some stopMsg.ctx ∧ s.resumes = [stopMsg]) ∧
    ((debugged.dbg 0).stopSrc.getLsbD 0 = false ∧
      (let s := debugged.setDbg 0 { debugged.dbg 0 with stopSrc := 1 }
       s.reachable 0 = true ∧ (s.dbg 0).stopSrc.getLsbD 0 = true ∧ s.cores = [(0, s.core 0)])) := by
  refine ⟨by decide, by decide, by decide, by decide, by decide, by decide, by decide, rfl⟩

def fatalGang : Gang := { theGang with fatal := some (trapOf 7 0 0, ⟨0, 0⟩, 0) }

/-- io with a gang that has met a fatal trap, and a dump area that holds the header alone. -/
def dying : State :=
  let s := io []
  { s with
    gangs := [fatalGang], dumps := [DumpJob.new 0], launches := [launchOf 0]
    ssc := { s.ssc with contexts := [(1, { world := 0, root := 0, dumpBase := placedPc + 0x4000, dumpLen := 64, saveBase := 0, saveLen := 0, owner := 0, meas := 0, key := 0 })] } }

theorem fitSections_none (ss : List (List Byte)) : (fitSections 0 ss).1 = [] := by
  induction ss with
  | nil => rfl
  | cons b bs ih =>
    rw [fitSections]
    split
    · rename_i h
      simp [List.length_eq_zero_iff.mp (Nat.le_zero.mp h), ih]
    · exact ih

/-- What the dump engine writes of it. -/
def dyingBytes : List Byte :=
  dying.dumpBytes fatalGang dying.dumpCount (fitSections ((dying.dumpArea fatalGang.ctx).2 - dying.dumpBeyond fatalGang.ctx) (dying.dumpTables fatalGang [] ++ dying.dumpRest fatalGang))

theorem dying_bytes : dyingBytes.length = 64 := by
  have h : dying.world theGang.ctx = 0#8 := by decide
  have a : (dying.dumpArea fatalGang.ctx).2 - dying.dumpBeyond fatalGang.ctx = 0 := by decide
  rw [dyingBytes, a]
  simp [State.dumpBytes, fatalGang, h, fitSections_none, wordsBytes, natBytes]

theorem witness_dump :
    dying.dumps = [DumpJob.new fatalGang.id] ∧ dying.gang fatalGang.id = some fatalGang ∧ fatalGang.fatal = some (trapOf 7 0 0, ⟨0, 0⟩, 0) ∧ dying.launch fatalGang.launch = some (launchOf 0) ∧
    (launchOf 0).state = .running ∧ (launchOf 0).code = 0 ∧
    (∀ p ∈ fatalGang.places, (dying.core p.core).grid = none ∧ (dying.core p.core).copies = [] ∧ (dying.core p.core).demands = [] ∧
      ∀ k, (dying.slot ⟨p.core, k⟩).blanks = []) ∧ dying.dumpAwaits fatalGang = false ∧
    dying.fnOf fatalGang.ctx = some 0 ∧ (dying.fn 0).dbase = 0 ∧ dying.dumpArea fatalGang.ctx = (placedPc + 0x4000, 64) ∧
    dying.unitSeesAll .dump fatalGang.ctx (placedPc + 0x4000) 64 ((dyingBytes.length + 64 - 1) / 64) .store (physHome 0 0x4000) := by
  refine ⟨by decide, by decide, by decide, by decide, by decide, by decide, by decide, by decide, by decide, by decide, by decide, ?_⟩
  rw [dying_bytes]
  unfold State.unitSeesAll State.unitSees
  decide

/-! ### Witnesses: reward join units -/

/-- A unit of group 2 of context 1 bound at record 0, with entries es, instructions is and messages ms. -/
def groupOf (full : Bool) : Group :=
  { ctx := 1, g := 2, addr := placedPc + 0x1000, lbase := placedPc + 0x2000, sizes := 4, sbase := placedPc + 0x3000, obase := placedPc + 0x4000, sig := placedPc + 0x5000, sdec := 0
    lwrite := 0, lread := 0, swrite := 0, owrite := 0, err := 0, version := 0, bound := true, full := full, work := [] }

/-- An episode descriptor of group 2 (on unit 0) of one step in one part, with deadline 16. -/
def episodeDesc (flags : Word) : Vector Word 8 :=
  (((((((Vector.replicate 8 0).set 0 77).set 1 0x10001).set 2 (placedPc + 0x6000)).set 3 (placedPc + 0x7000)).set 4 (placedPc + 0x8000)).set 6 (0x2000000000000 ||| flags)).set 7 16

def entryOf (st : Nat) (flags : Word) : Entry :=
  { ctx := 1, group := 2, key := 77, desc := episodeDesc flags, state := st, parts := 0, pending := [], dup := 0, tout := false, out := 0, reg := 0, opened := 0, done := 0, order := 0
    grec := some 0, written := false, stalled := false }

def unitOf (full : Bool) (es : List Entry) (is : List UnitInstr) (ms : List RewardMsg) : JoinUnit :=
  { count := 0, groups := [(0, groupOf full)], entries := es.zipIdx.map (fun p => (p.2, p.1)), inq := ms, instrs := is, closes := 0, phase := 0, stalled := false }

/-- io with unit 0. -/
def joined (u : JoinUnit) : State := { io [] with joins := (Vector.replicate 2 JoinUnit.zero).set 0 u }

theorem witness_reward_instruction_results :
    (base.me.cont = none ∧ base.me.outs = [] ∧ base.me.lates = [] ∧ base.portsOpen [1] [3] [] [] = true ∧ base.portsOpen [1, 2] [3] [] [] = true ∧
      base.portsOpen [1, 2] [] [3] [] = true ∧ (base.join 1).inq.length < 256 ∧ ((with12 0x20 0).rs 1).toNat % 64 ≠ 0 ∧ ((with12 0x40 0).rs 1).toNat % 64 = 0 ∧
      isTranslated ((with12 0x40 0).rs 1) = false) ∧
    (let s := (io []).ws 1 (placedPc + 0x1000)
     (s.rs 1).toNat % 64 = 0 ∧ isTranslated (s.rs 1) = true ∧ s.translate 0 s.myCtx (s.rs 1) .load = .home (physHome 0 0x1000) ∧ s.keyOk 0 s.myCtx = true ∧
      homeKind (physHome 0 0x1000) = 0 ∧ homeIsLs (physHome 0 0x1000) = false ∧ s.mcOk s.myCtx = true ∧ s.badLines = [] ∧ s.poison = [] ∧ s.lineKeys = []) ∧
    (let c : Cont := { parkedCont with step := 2, acc := [(5 : Word).setWidth 512] }
     (base.setMe { base.me with cont := some c }).me.cont = some c ∧ c.step = 2 ∧ c.acc = [(5 : Word).setWidth 512]) ∧
    ((joined (unitOf false [] [] (List.replicate 256 { ctx := 1, key := 0, hdr := 0, data := 0 }))).join 0).inq.length = 256 := by decide

/-- A unit with one accepted instruction of a waiting thread. -/
def asking (es : List Entry) (i : UnitInstr) : State :=
  let s := joined (unitOf false es [i] [])
  s.setMe { s.me with st := .parked, await := .unit, cont := some { parkedCont with step := 1 } }

theorem asking_asks (es : List Entry) (i : UnitInstr) : (asking es i).asks ⟨0, 0⟩ { parkedCont with step := 1 } := ⟨rfl, rfl, rfl, rfl⟩

theorem asking_handles (es : List Entry) (i : UnitInstr) : (asking es i).handles 0 i [] := ⟨rfl, rfl, rfl⟩

theorem witness_unit_instructions :
    (((asking [] (.rjqry ⟨0, 0⟩ 1 2 77)).join 0).lookup 1 2 77).isNone = true ∧
    ((asking [entryOf 2 0] (.rjqry ⟨0, 0⟩ 1 2 77)).join 0).lookup 1 2 77 = some (0, entryOf 2 0) ∧
    descOk ((Vector.replicate 8 0).set 6 2 : Vector Word 8) = false ∧ descOk (episodeDesc 0) = true ∧
    ((asking [] (.epreg ⟨0, 0⟩ 2 (episodeDesc 0))).join 0).binding 2 2 = none ∧ ((asking [] (.epreg ⟨0, 0⟩ 1 (episodeDesc 0))).join 0).binding 1 2 = some (0, groupOf false) ∧
    ((asking [entryOf 2 0] (.epreg ⟨0, 0⟩ 1 (episodeDesc 0))).join 0).lookup 1 2 (episodeDesc 0)[0] = some (0, entryOf 2 0) ∧ (entryOf 2 0).state ≠ 6 ∧
    ((asking [] (.epreg ⟨0, 0⟩ 1 (episodeDesc 0))).join 0).lookup 1 2 (episodeDesc 0)[0] = none ∧
    ((asking [] (.epreg ⟨0, 0⟩ 1 (episodeDesc 0))).join 0).entries.length < 32768 ∧
    ((asking [entryOf 6 0] (.epreg ⟨0, 0⟩ 1 (episodeDesc 0))).join 0).lookup 1 2 (episodeDesc 0)[0] = some (0, entryOf 6 0) := by decide

/-- The table of a unit full of open episodes of another group. -/
theorem witness_full_unit :
    let es := List.replicate 32768 { entryOf 2 0 with group := 4 }
    32768 ≤ es.length ∧ (∀ e ∈ es, e.state ≠ 6) := by
  refine ⟨by rw [List.length_replicate], fun e h => ?_⟩
  rw [List.eq_of_mem_replicate h]; decide

theorem witness_reward_unit_results :
    (let m : RewardMsg := { ctx := 1, key := 77, hdr := 0x2000000000000, data := 0 }
     let s := joined (unitOf false [entryOf 2 0] [] [m])
     (s.join 0).inq = m :: [] ∧ (s.join 0).phase ≤ 1 ∧ (s.join 0).instrs = [] ∧ (s.join 0).stalled = false ∧ s.hasEntry 0 0 (entryOf 2 0) 0 (groupOf false) ∧
      (entryOf 2 0).stalled = false ∧ (s.join 0).lookup m.ctx (m.hdr.extractLsb' 48 4) m.key = some (0, entryOf 2 0) ∧ m.hdr &&& 0x03F0E000FFE0FFFF = 0 ∧
      m.hdr.toNat / 2 ^ 16 % 32 < 16 ∧ (entryOf 2 0).parts.getLsbD 0 = false ∧ 0 < (entryOf 2 0).nparts ∧ 0 + 0 < (entryOf 2 0).steps ∧
      ({ entryOf 4 0 with parts := 1 } : Entry).parts.getLsbD 0 = true) ∧
    (let s := joined (unitOf false [entryOf 1 0] [] [])
     SMap.find (s.join 0).entries 0 = some (entryOf 1 0) ∧ s.unitSeesAll (.entry 0 0) 1 (entryOf 1 0).desc[2] 4 (entryOf 1 0).steps .store (physHome 0 0x6000)) ∧
    (let ps : List (Word × Line) := []
     let e := { entryOf 2 0 with pending := (0x2000000000000, 5) :: ps }
     let s := joined (unitOf false [e] [] [])
     s.hasEntry 0 0 e 0 (groupOf false) ∧ s.unitSeesAll (.entry 0 0) 1 (e.desc[2] + BitVec.ofNat 64 (4 * 0)) 4 1 .store (physHome 0 0x6000) ∧
      (∀ j, j < e.nparts → (e.parts ||| BitVec.ofNat 64 (2 ^ 0)).getLsbD j = true) ∧ lagOf (groupOf false) e ≤ ((groupOf false).sizes.extractLsb' 32 32).toNat ∧
      ((groupOf false).sizes.extractLsb' 32 32).toNat < lagOf { groupOf false with version := 1 } e ∧
      ps = [] ∧ (s.join 0).instrFirst = false ∧ 0x2000000000000 / 2 ^ 16 % 32 + 1 ≤ 16 ∧
      (let d : Entry := { e with desc := e.desc.set 1 0x20001 }
       1 < d.nparts ∧ (d.parts ||| BitVec.ofNat 64 (2 ^ 0)).getLsbD 1 = false) ∧ s.ringSees 0 0 (groupOf false) .stale (physHome 0 0x3000) (physHome 0 0x1020)) ∧
    (let e := entryOf 2 0
     let s := joined { unitOf false [e] [] [] with count := 16 }
     (s.join 0).entries = [(0, e)] ∧ s.hasEntry 0 0 e 0 (groupOf false) ∧ e.deadline ≠ 0 ∧ e.reg.toNat + e.deadline ≤ (s.join 0).count.toNat ∧ e.opened.toNat < (s.join 0).count.toNat ∧ e.pending = [] ∧ (s.join 0).instrs = [] ∧ (s.join 0).inq = [] ∧ (s.join 0).phase ≤ 2 ∧ e.desc[6].getLsbD 1 = false ∧
      (entryOf 2 2).desc[6].getLsbD 1 = true) ∧
    (let e := entryOf 4 1
     let s := joined (unitOf false [e] [] [])
     s.unitSeesAll (.entry 0 0) 1 e.desc[2] 4 e.steps .load (physHome 0 0x6000) ∧ s.unitSeesAll (.entry 0 0) 1 e.desc[3] 4 e.steps .load (physHome 0 0x7000) ∧
      s.unitSeesAll (.entry 0 0) 1 e.desc[4] 4 (2 * e.steps) .store (physHome 0 0x8000) ∧ e.desc[6].getLsbD 0 = true) ∧
    (let e := entryOf 5 0
     let s := joined { unitOf false [e] [] [] with count := 1 }
     e.done.toNat < (s.join 0).count.toNat ∧ (∀ p ∈ (s.join 0).entries, p.1 ≠ 0 → p.2.before e = false) ∧ s.unitSees (.entry 0 0) 1 ((groupOf false).addr + 20) 4 .load (physHome 0 0x1014) ∧
      (groupOf false).ctx = e.ctx ∧ ((groupOf false).lwrite - BitVec.ofNat 32 (s.half (physHome 0 0x1014))).toNat ≠ 2 ^ ((groupOf false).sizes.extractLsb' 0 5).toNat ∧
      s.unitSees (.entry 0 0) 1 ((groupOf false).ringAt .learner) 32 .store (physHome 0 0x2000) ∧ s.unitSees (.entry 0 0) 1 (groupOf false).sig 8 .atomic (physHome 0 0x5000) ∧
      s.unitSees (.entry 0 0) 1 ((groupOf false).addr + 16) 4 .store (physHome 0 0x1010) ∧
      (({ groupOf false with lwrite := 16 } : Group).lwrite - BitVec.ofNat 32 (s.half (physHome 0 0x1014))).toNat = 2 ^ ((groupOf false).sizes.extractLsb' 0 5).toNat) ∧
    (let s := joined { unitOf true [entryOf 5 0] [] [] with count := 1 }
     (entryOf 5 0).done.toNat < (s.join 0).count.toNat ∧ SMap.find (s.join 0).groups 0 = some (groupOf true) ∧ (groupOf true).full = true ∧ SMap.find (s.join 0).entries 0 = some (entryOf 5 0)) := by
  unfold State.ringSees State.hasEntry State.unitSeesAll State.unitSees
  refine ⟨⟨?_, ?_, ?_, ?_, ?_, ?_, ?_, ?_, ?_, ?_, ?_, ?_, ?_⟩, ⟨?_, ?_⟩, ⟨?_, ?_, ?_, ?_, ?_, ?_, ?_, ?_, ?_, ?_⟩, ⟨?_, ?_, ?_, ?_, ?_, ?_, ?_, ?_, ?_, ?_, ?_⟩, ⟨?_, ?_, ?_, ?_⟩, ⟨?_, ?_, ?_, ?_, ?_, ?_, ?_, ?_, ?_⟩, ?_, ?_, ?_, ?_⟩ <;>
    decide

/-! ### Witnesses: translation, host functions, the fabric -/

/-- io with page tables for context 1 from 0x10000 on: the 64 KiB page of the code, or with big the 512 MiB page that holds it. -/
def walked (big : Bool) (ws : List (Nat × Word)) : State :=
  let s := io ([(0x10000, 0x20001), (0x20000, 0x30001), (0x34000, if big then 0x1F else 0x40001), (0x40000, 0x1F)] ++ ws)
  { s with ssc := { s.ssc with contexts := [(1, { world := 0, root := 0x10000, dumpBase := 0, dumpLen := 0, saveBase := 0, saveLen := 0, owner := 0, meas := 0, key := 0 })] } }

theorem witness_walks :
    let m := (walked false []).mem
    let b := (walked true []).mem
    (Memory.word m (physHome 0 (0x10000 + 8 * 1))).getLsbD 0 = false ∧ pointsTo 0 (Memory.word m (physHome 0 (0x10000 + 8 * 0))) 0x20000 ∧
    pointsTo 1 (Memory.word m (physHome 0 (0x20000 + 8 * 0))) 0x30000 ∧ placedPc.toNat / 2 ^ 29 % 2 ^ 13 = 2048 ∧ placedPc.toNat / 2 ^ 16 % 2 ^ 13 = 0 ∧
    pointsTo 2 (Memory.word m (physHome 0 (0x30000 + 8 * 2048))) 0x40000 ∧ (Memory.word m (physHome 0 (0x40000 + 8 * 0))).getLsbD 0 = true ∧
    (Memory.word m (physHome 0 (0x40000 + 8 * 0))).getLsbD 1 = true ∧ pteBad 3 (Memory.word m (physHome 0 (0x40000 + 8 * 0))) = false ∧ pteBad 3 1 = true ∧
    (Memory.word b (physHome 0 (0x30000 + 8 * 2048))).getLsbD 0 = true ∧ (Memory.word b (physHome 0 (0x30000 + 8 * 2048))).getLsbD 1 = true ∧
    pteBad 2 (Memory.word b (physHome 0 (0x30000 + 8 * 2048))) = false := by
  unfold pointsTo
  refine ⟨?_, ?_, ?_, ?_, ?_, ?_, ?_, ?_, ?_, ?_, ?_, ?_, ?_⟩ <;> decide

def aWalk : Walk := { seq := 1, die := 0, ctx := 1, page := 0x1000000, va := placedPc, kind := 0, quads := [0], agents := [.thread ⟨0, 0⟩] }

def aFault : FaultRec := { ctx := 1, page := 0x1000000, fn := 0, index := some 3, words := Vector.replicate 4 0, agents := [.thread ⟨0, 0⟩] }

def inWalk (s : State) (w : Await) : State :=
  { s.setMe { s.me with st := .parked, await := w } with walks := [aWalk], faults := [aFault], fns := [(0, { HostFn.zero with fctl := placedPc + 0x100 })] }

theorem witness_translation_event_results :
    ((inWalk (walked false []) (.walk placedPc)).walks.find? (fun y => y.seq == aWalk.seq) = some aWalk ∧ aWalk.agents = [.thread ⟨0, 0⟩] ∧
      (inWalk (walked false []) (.walk placedPc)).me.st = .parked ∧ (inWalk (walked false []) (.walk placedPc)).me.await = .walk placedPc ∧ placedPc.toNat / 2 ^ 16 = aWalk.page ∧ (walked false []).ctxOf 0 = aWalk.ctx ∧
      (inWalk (walked false []) (.walk placedPc)).walk aWalk.ctx aWalk.va = .leaf false 0x1F ∧ (inWalk (io []) (.walk placedPc)).walk aWalk.ctx aWalk.va = .bad 0 false ∧
      aWalk.page = aWalk.va.toNat / 2 ^ 16 ∧
      (let s := inWalk { walked false [] with poison := [physHome 0 0x10000] } (.walk placedPc)
       s.walk aWalk.ctx aWalk.va = .fails 16 0) ∧
      (let s : State := { walked false [] with ssc := { (walked false []).ssc with regions := [(0, 0x109)] } }
       s.mcOk 1 = true ∧ (s.granule (homePa (physHome 0 0x10000))).toNat % 256 ≠ (s.world 1).toNat) ∧
      (walked false []).tagFails 1 (physHome 0 0x10000) = false ∧ (((walked false []).granule 0x10000).toNat % 256 = ((walked false []).world 1).toNat) ∧
      State.mcOk { walked false [] with ssc := { (walked false []).ssc with mcKeys := [] } } 1 = false ∧ ((base.me.cont.map Cont.isCallt).getD false = false)) ∧
    (let s := inWalk (walked false [(0x100, placedPc + 0x200), (0x108, 1), (0x238, 1)]) (.service placedPc)
     s.faults.find? (fun y => y.fn == (0 : BitVec 6).toNat && y.index == some (3 : BitVec 32).toNat) = some aFault ∧ aFault.agents = [.thread ⟨0, 0⟩] ∧
      s.me.st = .parked ∧ s.me.await = .service placedPc ∧ placedPc.toNat / 2 ^ 16 = aFault.page ∧ s.ctxOf 0 = aFault.ctx ∧ (s.fn 0).acks = [] ∧ s.ringCtx aFault.ctx = 1 ∧
      s.unitSees (.fack 0) 1 (s.fn 0).fctl 8 .load (physHome 0 0x100) ∧ s.unitSees (.fack 0) 1 ((s.fn 0).fctl + 8) 8 .load (physHome 0 0x100 + 8) ∧
      s.unitSees (.fack 0) 1 ((s.fn 0).fctl + 24) 4 .store (physHome 0 0x100 + 24) ∧ (Memory.word s.mem (physHome 0 0x100 + 8)).toNat = 1 ∧
      s.unitSees (.fack 0) 1 (Memory.word s.mem (physHome 0 0x100) + BitVec.ofNat 64 (32 * (3 % 2 ^ 1)) + 24) 1 .load (physHome 0 0x238) ∧
      Memory.byte s.mem (physHome 0 0x238) = 1) ∧
    (∃ g, (inWalk (walked false []) (.service placedPc)).gang 0 = some g ∧ g.fatal = none) ∧
    (let f := { HostFn.zero with busy := true, cmd := 1, ctx := 1, len := 0x10000 }
     f.busy = true ∧ f.cmd = 1 ∧ ({ f with cmd := 2 } : HostFn).cmd = 2) := by
  unfold State.unitSees
  refine ⟨⟨by decide, by decide, by decide, by decide, by decide, by decide, by decide, by decide, by decide, by decide, by decide, by decide, by decide, by decide, by decide⟩, ⟨by decide, by decide, by decide, by decide, by decide, by decide, by decide, by decide, by decide, by decide, by decide, by decide, by decide, by decide⟩,
    ⟨_, rfl, by decide⟩, by decide⟩

def aReplay (replaying : Bool) (left : List Logged) : Replay :=
  { fn := 0, ctx := 1, addr := placedPc + 0x400, snapped := false, packets := 0, replaying := replaying, work := [], ending := false, left := left, wait := none }

def aLogged : Logged := { idx := 0, queue := 3, packet := Vector.replicate 16 0, nbv := false, digest := 0 }

/-- walked under function 0 with a command. -/
def commanded (cmd : BitVec 4) (rs : List Replay) : State :=
  { walked false [] with fns := [(0, { HostFn.zero with busy := true, cmd := cmd, rctl := placedPc + 0x400 })], replays := rs }

/-- The words of a control record as the recorder reads them. -/
def recordAt (s : State) : List Nat := (List.range 40).map (fun k => (Memory.word s.mem (physHome 0 0x400 + 8 * k)).toNat)

theorem recorder_sees : (commanded 4 []).unitSeesAll (.recorder 0) 1 (placedPc + 0x400) 8 40 .load (physHome 0 0x400) := by
  unfold State.unitSeesAll State.unitSees; decide

theorem witness_replay_records :
    (commanded 4 []).replayOf 0 = none ∧ (commanded 4 []).firstCtx 0 = some 1 ∧ replayOk (placedPc + 0x400) (recordAt (commanded 4 [])) = true ∧
    replayOk (placedPc + 0x400) (recordAt { commanded 4 [] with mem := Memory.setWord [] (physHome 0 0x410) 17 }) = false ∧ Memory.word (commanded 4 []).mem (physHome 0 0x418) = 0 ∧
    (commanded 4 []).unitSees (.recorder 0) 1 (placedPc + 0x418) 8 .store (physHome 0 0x418) ∧
    (commanded 4 [aReplay false []]).unitSees (.recorder 0) (aReplay false []).ctx ((aReplay false []).addr + 32) 8 .store (physHome 0 0x420) ∧
    (aReplay false []).fn = (0 : BitVec 6).toNat := by
  unfold State.unitSees; refine ⟨?_, ?_, ?_, ?_, ?_, ?_, ?_, ?_⟩ <;> decide

theorem witness_function_event_results :
    (base.plat.power = .run ∧ base.plat.boot = 6 ∧ (walked false []).plat.power = .run ∧ (walked false []).plat.boot = 6 ∧ ({ base.plat with boot := 3 } : Platform).boot ≠ 6) ∧
    ((0 : Nat) < 64 ∧ 12 % 8 ≠ 0 ∧ ((commanded 1 []).fn 0).busy = true ∧ ((walked false []).fn 0).busy = false ∧ (walked false []).fnOf 1 = some 0 ∧ (walked false []).fnOf 2 ≠ some 0 ∧
      ((walked false []).queue 8191).owner ≠ some 0 ∧
      (State.queue { walked false [] with queues := [(8191, { queueOf 0 0 0 .queued with owner := some 0 })] } 8191).owner = some 0) ∧
    ((commanded 4 []).replayOf 0 = none ∧ ((commanded 4 []).fn 0).busy = true ∧ ((commanded 4 []).fn 0).cmd = 4 ∧ (commanded 4 []).firstCtx 0 = some 1 ∧
      (commanded 4 [aReplay true [aLogged]]).replayOf 0 = some (aReplay true [aLogged]) ∧ (aReplay true [aLogged]).replaying = true ∧ (aReplay true [aLogged]).wait = none ∧ (aReplay true [aLogged]).work = [] ∧ (aReplay true [aLogged]).ending = false ∧
      (aReplay true [aLogged]).left = aLogged :: [] ∧ (aReplay true []).left = [] ∧ (aReplay false []).replaying = false) ∧
    ((commanded 3 []).fnOf 1 = some 0 ∧ ((commanded 3 []).fn 0).cmd = 3 ∧ ((commanded 3 []).fn 0).busy = true ∧ ((commanded 3 []).fn 0).state ≠ 2 ∧
      ({ HostFn.zero with state := 2 } : HostFn).state = 2) := by
  refine ⟨⟨?_, ?_, ?_, ?_, ?_⟩, ⟨?_, ?_, ?_, ?_, ?_, ?_, ?_, ?_⟩, ⟨?_, ?_, ?_, ?_, ?_, ?_, ?_, ?_, ?_, ?_, ?_, ?_⟩, ?_, ?_, ?_, ?_, ?_⟩ <;> decide

/-- base with context 2 of world 9 of function 0, and a session of that world. -/
def protected9 : State :=
  { base with
    ssc := { base.ssc with
      contexts := [(2, { world := 9, root := 0, dumpBase := 0, dumpLen := 0, saveBase := 0, saveLen := 0, owner := 0, meas := 0, key := 0 })]
      regions := [(3, 0x109)], sessions := [(4, { world := 9, ctx := 2, endpoint := 1, key := 0 })] } }

/-- A relaxed store of a core of context 2 that leaves the package under the context's session (R385). -/
theorem witness_sealed_store :
    let i := { storeItem with home := physHome 2 (2 ^ 48 + 0x40), point := 2 }
    let s : State := (protected9.setCore 0 { protected9.core 0 with ctx := some 2 }).setMe { base.me with outs := [outOf true .none i] }
    let pa : Word := BitVec.ofNat 64 (homePa i.home)
    s.me.item 0 = some (outOf true .none i, i) ∧ 2 ≤ homeKind i.home ∧ s.ctxOf 0 = 2 ∧ s.world 2 = 9 ∧ (s.sessionWith 2 (pa.extractLsb' 48 8)).map (·.1) = some 4 ∧
    (SMap.find s.ssc.sessions 4).isSome = true ∧ s.spent (sessionKeyNo 4) 0 = false ∧ s.plat.linksFailed = 0 ∧ s.requests = [] := by
  refine ⟨?_, ?_, ?_, ?_, ?_, ?_, ?_, ?_, ?_⟩ <;> decide

/-- protected9 while the failure of its context stands at a step. -/
def tearing (step : Nat) (last : TearEnd) : State :=
  { protected9 with tears := [{ ctxs := [2], step := step, num := 0, report := true, rings := [], places := [], dies := [], last := last }] }

/-- The steps of a teardown that the clock of the service core takes. -/
theorem witness_teardown :
    (∀ k, k < 8 → ((tearing k (.reset 0)).tears.map (fun t => (t.step, t.rings.length, t.last))) = [(k, 0, .reset 0)]) ∧
    (tearing 7 (.destroy 0)).tears.map (·.last) = [.destroy (0 : BitVec 6).toNat] ∧ ((tearing 4 .nothing).world 2).toNat ≠ 0 ∧ (tearing 4 .nothing).lastOf [2] 9 = true ∧
    ((tearing 4 .nothing).granule (3 * 2 ^ 21)).toNat % 256 = ((tearing 4 .nothing).world 2).toNat ∧
    (∀ p e gs, TearEnd.reset 0 ≠ .unlock p e gs) ∧ (tearing 7 (.unlock 1 [] [])).tears.map (·.last) = [.unlock 1 [] []] :=
  ⟨by decide, by decide, by decide, by decide, by decide, fun _ _ _ => TearEnd.noConfusion, by decide⟩

/-- A message of endpoint 2 to the package, and the package that receives it. -/
def aMsg (ty : BitVec 8) (hdr addr : Word) (session : Nat) : Msg :=
  { ty := ty, src := 2, dst := 0, world := 0, session := session, nonce := 0, mac := 0, lane := 0, addr := addr, hdr := hdr, tag := 9, data := 0, mask := 0xFF }

theorem aMsg_received (ty : BitVec 8) (hdr addr : Word) (session : Nat) : base.receives (aMsg ty hdr addr session) ty := ⟨rfl, rfl, rfl, rfl⟩

/-- That endpoint 2 is a package is the installation's (log entry 7). -/
theorem asksHbm_of (h : Config.isPackage 2 = true) : base.asksHbm (aMsg 0x05 8 0x100000000040 0) 0x40 8 :=
  ⟨by decide, by decide, by decide, by decide, h, by decide, by decide, by decide, by decide, by decide, by decide⟩

/-- A message of a session whose seal does not open, which rests on its key and its bytes. -/
theorem shut_of (m : Msg) (h : Config.gcmOpen 0 m.nonce (natBytes 8 m.hdr.toNat ++ natBytes 64 m.data.toNat ++ natBytes 16 m.mac.toNat) = none) (hw : m.world = 9) (hs : m.session = 4) :
    protected9.openMsg m = none := by
  have f : SMap.find protected9.ssc.sessions m.session = some { world := 9, ctx := 2, endpoint := 1, key := 0 } := by rw [hs]; decide
  rw [State.openMsg, f, if_neg (by rw [hw, hs]; decide)]
  show Option.map _ (Config.gcmOpen 0 m.nonce _) = none
  rw [h]; rfl

def aRequest : Request := { tag := 9, agent := .thread ⟨0, 0⟩, dst := 2, va := placedPc, pa := 0, fetch := false, found := [] }

/-- base whose thread waits for the reply to a request, over one link. -/
def requesting : State :=
  let s := parkedOn (.reply 9)
  { s with requests := [aRequest], plat := { s.plat with linksUp := 1 } }

theorem witness_fabric_event_results :
    ((aMsg 0x05 8 0x100000000040 0).hdr.toNat % 256 = 8 ∧ atomOfNum ((aMsg 0x05 8 0 0).hdr.toNat / 256 % 256) = some .add ∧ (aMsg 0x01 3 0 0).hdr.toNat % 256 ∉ [1, 2, 4, 8, 16, 32, 64]) ∧
    (requesting.requests.find? (fun x => x.tag == 9 && x.dst == 2) = some aRequest ∧ SMap.find requesting.replies aRequest.tag = none ∧ (requesting.slot ⟨0, 0⟩).st = .parked ∧
      requesting.plat.linksUp.getLsbD 0 = true ∧ requesting.plat.planes[(laneOf aRequest.pa + aRequest.dst.toNat) % requesting.plat.planes.length]? = some 0) ∧
    (((aMsg 0x08 0 0 1).world = 0 ∧ (SMap.find base.ssc.contexts 1).isSome = true ∧ SMap.find base.ssc.contexts 200 = none ∧ (base.join 0).inq.length < 256 ∧ base.timers = [])) ∧
    ((aMsg 13 0 0 0).ty.toNat = 13 ∧ base.plat.power = .run) ∧
    (let c : Chan := { sc := 5, owner := 0, place := 0, group := 0, round := 0, sent := true, final := false }
     let e : Vector Word 4 := ((Vector.replicate 4 0).set 0 5).set 3 0x102
     let s : State := { base with launches := [launchOf 0], chans := [c], podTable := [(0, e)] }
     (aMsg 0x09 0x10000 0 0).hdr.getLsbD 16 = true ∧ (2 : BitVec 8) = s.podRoot 0 ∧ c.group = 0 ∧ s.plat.linksFailed = 0 ∧ s.launch c.owner ≠ none ∧
      (2 : BitVec 8) ≠ base.podRoot 0 ∧
      (let r : State := { base with podTable := [(0, ((Vector.replicate 4 0).set 0 5).set 3 0x100)] }
       r.podRoot 0 = r.plat.self ∧ (2 : BitVec 8) ∈ r.podMembers 0 ∧ (0 : BitVec 8) ∈ r.podMembers 0 ∧ 1 ≤ r.podLaunches 0 ∧ r.pods = [])) ∧
    (base.cores = [(0, base.core 0)] ∧ (base.core 0).ctx = some 1 ∧ base.world 1 = 0 ∧ (base.core 0).dbg.stopped = false ∧
      (1 : BitVec 8) = BitVec.ofNat 8 257 ∧ base.world (BitVec.ofNat 8 (aMsg 0x0A 0 0 0).tag) = 0 ∧ (base.core 0).ctx ≠ some (BitVec.ofNat 8 (aMsg 0x0A 0 0 0).tag) ∧
      (let s : State := { debugged with fns := [(0, { HostFn.zero with dbg := true, host := 2 })] }
       s.coreExists 0 = true ∧ s.hostDebugs 2 0 = true ∧ (aMsg 0x01 4 0x100000004 0).addr.toNat % 2 ^ 48 = 0x100000000 + 0x10000 * 0 + 4 ∧ 4 % 8 ≠ 0) ∧
      (let d := { (base.core 0).dbg with dom := 5, stopSrc := 3, stopAddr := 8 }
       d.dom = 5 ∧ d.stopSrc = (7 : Word) &&& ~~~4 ∧ d.stopAddr = 8)) ∧
    (base.ssc.sessions = [] ∧ base.ssc.life = 2 ∧ (3 : BitVec 3) ≠ 2 ∧
      (let x : Session := { world := 0, ctx := 1, endpoint := 2, key := 0 }
       SMap.find [(7, x)] (aMsg 0x0C 0 0 7).session = some x ∧ x.endpoint = (aMsg 0x0C 0 0 7).src ∧ x.world = (aMsg 0x0C 0 0 7).world ∧ (SMap.find base.ssc.contexts x.ctx.toNat).isSome = true) ∧
      base.openMsg (aMsg 0x0C 0 0 7) = some (aMsg 0x0C 0 0 7) ∧
      (let o : Offer := { endpoint := 2, world := 0, bytes := List.replicate 1120 0 }
       o.endpoint = (aMsg 0x0C 0 0 0).src ∧ o.world = (aMsg 0x0C 0 0 0).world ∧ ([] : List Byte).length + 64 < 1184 ∧ 1184 ≤ o.bytes.length + 64 ∧ (base.ssc.sessions.map (·.1)).Pairwise (· < ·)) ∧
      base.plat.linksFailed = 0 ∧ ({ aMsg 0x0C 0 0 0 with world := 255 } : Msg).world = 255) := by
  refine ⟨by decide, by decide, by decide, by decide, by decide, ⟨rfl, by decide⟩, by decide⟩

/-! ### Witnesses: the mailbox, the platform, the machine as a whole -/

/-- base whose function 0 has asked for an operation with the words ws in clear. -/
def asker (op : Nat) (ws : List Word) : State :=
  { base with
    fns := [(0, { HostFn.zero with mcmd := BitVec.ofNat 64 (2 ^ 63 + op), mail := (ws.zipIdx.foldl (fun m p => Memory.setWord m (0x40 + 8 * p.2) p.1) []) })] }

theorem window_of_range {α : Type} (f : Nat → α) (n m k : Nat) (h : m + k ≤ n) :
    (((List.range n).map f).drop m).take k = (List.range k).map (fun i => f (m + i)) := by
  apply List.ext_getElem
  · simp; omega
  · intro i h1 h2
    simp

/-- The words of a request in clear. -/
def askedWord (s : State) (k : Nat) : Nat := bytesNat ((List.range 8).map (fun i => Memory.byte (s.fn 0).mail (0x40 + (8 * k + i))))

theorem asked_in_clear (s : State) (h : (s.fn 0).mcmd.getLsbD 8 = false) :
    ∃ a, s.asked 0 = some a ∧ a.sess = none ∧ a.body.length = 0x7C0 ∧ ∀ k, 8 * k + 8 ≤ 0x7C0 → a.word k = askedWord s k := by
  refine ⟨⟨(s.fn 0).mailBytes 0x40 (0x800 - 0x40), none⟩, by rw [State.asked]; exact if_neg (by rw [h]; decide), rfl, by simp [HostFn.mailBytes], fun k hk => ?_⟩
  rw [Asked.word, HostFn.mailBytes, window_of_range _ _ _ _ hk]; rfl

theorem asking_each : ∀ op ∈ [1, 2, 3, 4, 5, 6, 7, 8, 9, 10, 11], (asker op []).asking 0 op = true ∧ ((asker op []).fn 0).mcmd.getLsbD 8 = false := by decide

theorem witness_mailbox_results :
    ((asker 1 []).asking 0 2 = false ∧ (asker 1 []).tears = [] ∧ (tearing 1 .nothing).tears ≠ []) ∧
    (askedWord (asker 1 [1, 0]) 0 = 1 ∧ askedWord (asker 1 [1, 0]) 1 = 0 ∧ askedWord (asker 1 [8]) 0 = 8 ∧ (asker 1 []).plat.grade.dies = 8 ∧ (asker 1 []).dieBusy 1 = false ∧
      (asker 1 []).dieBusy 0 = true) ∧
    ((asker 2 []).ssc.latches[0]?.getD 0 = 0x100 ∧ ((asker 2 []).ssc.latches[1]?.getD 0).getLsbD 8 = false ∧
      (State.dieBusy { asker 2 [] with gangs := [] } 0 = false)) ∧
    (askedWord (asker 3 [0, 0x40]) 1 = 0x40 ∧ 0x40 + 32 ≤ (asker 3 []).plat.grade.hbm ∧ SMap.find (asker 3 []).ssc.contexts 0 = none ∧ askedWord (asker 3 [0, 1]) 1 % 64 ≠ 0) ∧
    (askedWord (asker 4 [1]) 0 = 1 ∧ (asker 4 []).fnOf 1 = some 0 ∧ (asker 4 []).world 1 = 0 ∧ (asker 4 []).fnOf 2 ≠ some 0) ∧
    (askedWord (asker 5 [8191, 1, 255]) 0 < 8192 ∧ askedWord (asker 5 [8191, 1, 255]) 1 = 1 ∧ askedWord (asker 5 [8191, 1, 255]) 2 < 256 ∧ ((asker 5 []).queue 8191).owner = none) ∧
    ((askedWord (asker 6 [0, 1, 0, 1]) 0 + askedWord (asker 6 [0, 1, 0, 1]) 1) * 2 ^ 21 ≤ (asker 6 []).plat.grade.hbm ∧ askedWord (asker 6 [0, 1, 0, 1]) 2 ≤ 254 ∧
      askedWord (asker 6 [0, 1, 0, 1]) 3 ≤ 1 ∧ askedWord (asker 6 [0, 1, 7, 1]) 2 ≠ 0 ∧
      State.asking { asker 6 [0, 1, 0, 1] with ssc := { base.ssc with contexts := [] } } 0 6 = true) ∧
    (askedWord (asker 7 [0, 0, 0, 0, 0xFF, 0x1000]) 4 = 0xFF ∧ askedWord (asker 7 [0, 0, 0, 0, 0xFF, 0x1000]) 5 % 64 = 0 ∧ (asker 7 []).inWorld 0x1000 3965 0 = true) ∧
    (4 ≤ askedWord (asker 8 [7]) 0 ∧ askedWord (asker 8 [7]) 0 ≤ 7 ∧ ¬ 4 ≤ askedWord (asker 8 [3]) 0) ∧
    (askedWord (asker 9 [254, 191]) 0 ≤ 254 ∧ askedWord (asker 9 [254, 191]) 1 ≤ 191 ∧ (asker 9 []).ssc.life = 2 ∧ (asker 9 []).ssc.sessions = []) ∧
    (askedWord (asker 10 [1, 0x40]) 0 < 256 ∧ askedWord (asker 10 [1, 0x40]) 1 % 64 = 0) := by
  refine ⟨⟨?_, ?_, ?_⟩, ⟨?_, ?_, ?_, ?_, ?_, ?_⟩, ⟨?_, ?_, ?_⟩, ⟨?_, ?_, ?_, ?_⟩, ⟨?_, ?_, ?_, ?_⟩, ⟨?_, ?_, ?_, ?_⟩, ⟨?_, ?_, ?_, ?_, ?_⟩, ⟨?_, ?_, ?_⟩, ⟨?_, ?_, ?_⟩, ⟨?_, ?_, ?_, ?_⟩, ?_, ?_⟩ <;>
    decide

theorem witness_protected_operations :
    protected9.fnOf 2 = some 0 ∧ protected9.world 2 = 9 ∧ protected9.inWorld (3 * 2 ^ 21) 32 9 = true ∧ tableEntries protected9.mem (3 * 2 ^ 21) 4 = [] ∧
    (SMap.find protected9.ssc.sessions 4).map (·.world) = some (protected9.world 2) ∧ protected9.mergeable 2 (3 * 2 ^ 21) 8 = true ∧
    State.mergeable { protected9 with badLines := [physHome 0 (3 * 2 ^ 21)] } 2 (3 * 2 ^ 21) 8 = false := by
  refine ⟨?_, ?_, ?_, ?_, ?_, ?_, ?_⟩ <;> decide

/-- base at a step of a boot, with what deep sleep retained. -/
def booting (n : Nat) (waking : Bool) : State :=
  { base with
    plat := { base.plat with boot := BitVec.ofNat 8 n, waking := waking }
    ssc := { base.ssc with retained := some { key := 5, wrapped := [], latches := base.ssc.latches, regions := [], tag := 0 } } }

theorem joinless (v : Nat) : State.join { tearing 3 .trip with gangs := [] } v = JoinUnit.zero := by
  match v with
  | 0 => decide
  | 1 => decide
  | n + 2 => simp [State.join, tearing, protected9]

/-- The conditions of a debug token, whose signature is the part's (log entry 8). -/
theorem token_of (sig : Nat) (h : Config.tokenVerifies base.ssc.tokenKey
      (natBytes 8 base.ssc.deviceId.toNat ++ [BitVec.ofNat 8 (2 : BitVec 3).toNat] ++ natBytes 32 (Config.entropy base.draws).toNat ++ [(3 : BitVec 8)]) sig = true) :
    base.tears = [] ∧ base.ssc.life = 2 ∧ (3 : BitVec 8).extractLsb' 2 6 = 0 ∧ Config.tokenVerifies base.ssc.tokenKey
      (natBytes 8 base.ssc.deviceId.toNat ++ [BitVec.ofNat 8 (2 : BitVec 3).toNat] ++ natBytes 32 (Config.entropy base.draws).toNat ++ [(3 : BitVec 8)]) sig = true :=
  ⟨by decide, by decide, by decide, h⟩

theorem witness_platform_results :
    (base.plat.power ≠ .off ∧ ({ base.plat with power := .off } : Platform).power = .off ∧ base.plat.power = .run) ∧
    ((∀ g ∈ savedState.gangs, g.image.isSome = true) ∧ theGang ∈ base.gangs ∧ base.gang theGang.id = some theGang ∧ theGang.image = none ∧ theGang.fatal = none ∧ theGang.preempt = false ∧
      (asker 12 []).asking 0 12 = true) ∧
    (let k : Retained := { key := 5, wrapped := [], latches := base.ssc.latches, regions := [], tag := 0 }
     let s : State := { base with plat := { base.plat with power := .deepSleep }, ssc := { base.ssc with retained := some k } }
     s.plat.power = .deepSleep ∧ s.ssc.retained = some k ∧ base.ssc.retained = none ∧
      (∀ n, n < 6 → (booting n true).plat.boot = BitVec.ofNat 8 n ∧ (booting n true).plat.waking = true ∧ (booting n false).plat.waking = false) ∧
      (booting 5 true).ssc.retained = some k) ∧
    (base.tears = [] ∧ (∀ t ∈ base.tears, t.last ≠ .trip) ∧ base.plat.boot = 6 ∧ (∃ t ∈ (tearing 3 .trip).tears, t.last = .trip ∧ t.step = 3) ∧
      (let s : State := { tearing 3 .trip with gangs := [] }
       s.gangs = [] ∧ s.launches = [] ∧ s.dumps = [] ∧ s.faults = [] ∧ (∀ p ∈ s.cores, p.2.copies = []) ∧
        ∀ v, s.join v = JoinUnit.zero) ∧
      (base.ssc.secrets.map (·.1)).Nodup ∧ (tearing 1 (.unlock 1 [] [])).unlocking = true ∧ base.unlocking = false) ∧
    (({ Ssc.zero with life := 0 } : Ssc).life = 0 ∧ ({ Ssc.zero with life := 1 } : Ssc).life = 1 ∧ base.ssc.life = 2) ∧ base.ssc.life ≠ 0 ∧ base.ssc.life ≠ 1 ∧
    (1 : BitVec 3) ≠ 2 ∧ (3 : BitVec 8).extractLsb' 2 6 = 0 := by
  refine ⟨by decide, by decide, by decide, ⟨by decide, by decide, by decide, by decide, ⟨by decide, by decide, by decide, by decide, by decide, joinless⟩, by decide, by decide, by decide⟩, by decide, by decide, by decide, by decide, by decide⟩

/-- The thread of base next in the order, and by the turn of its core; its line is cached and its slot 0 is LPAD. -/
theorem witness_step_runs_decoded_instruction :
    base.me.cont = none ∧ base.me.lates = [] ∧ base.me.notice ≠ 1 ∧ isTranslated (lineAddr base.me.pc) = true ∧ (base.core 0).dbg.stopped = false ∧
    base.keepsLine 0 (base.ctxOf 0) (lineAddr base.me.pc) = true ∧ base.proceeds ⟨0, 0⟩ = false ∧ (withMe (fun x => { x with cont := some base.cont })).proceeds ⟨0, 0⟩ = true ∧
    base.me.depends (.lpad 5) = false ∧ loading.me.depends (.lpad 5) = false ∧
    (base.core 0).cached (base.ctxOf 0) (lineAddr base.me.pc) = some (lineOf 0x4C00 (.one 5)) ∧
    (lineOf 0x4C00 (.one 5)).slots[slotIndex base.me.pc]? = some (.instr 0x4C00 (.one 5)) ∧ decodeHT 0x4C00 (.one 5) = .ok (.lpad 5) ∧
    decodeHT 0x4700 (.one 1) = .error .reservedField ∧ (base.core 0).dbg.stepping = none ∧ base.eligible ⟨0, 0⟩ = true ∧ base.urgent = [] ∧ firstWake base.todo = none ∧
    base.agenda = [] ∧ base.up = true ∧ State.up { base with plat := { base.plat with boot := 3 } } = false ∧ base.rotate 0 = some 0 ∧
    ((withMe (fun x => { x with st := .stopped })).slot ⟨0, (base.core 0).cyc.extractLsb' 0 3⟩).st = .stopped := by
  refine ⟨?_, ?_, ?_, ?_, ?_, ?_, ?_, ?_, ?_, ?_, ?_, ?_, ?_, ?_, ?_, ?_, ?_, ?_, ?_, ?_, ?_, ?_, ?_⟩ <;> decide

theorem witness_parked_again : (parkedOn .none).me.cont = some parkedCont ∧ decodeHT 0x0C01 .none = .ok .ret := by decide

theorem witness_memory_invariant : Memory.wf base.mem = true ∧ SMap.wf 0 base.tags = true ∧ ∃ t, step base = .next t := ⟨by decide, by decide, _, rfl⟩

theorem witness_encodings : (Instr.add 3 5 9 1).wf = true ∧ encodeHT (.add 3 5 9 1) = some (0x4018, .one 0x2A41) ∧ encodeHT .coldReset = none := by decide

end Sys2Proof.Tests
end

section
/-!
PROOFS. The state after reset, and what a step runs (03 R31, R33; 07 R113, R114, R120; 24 R341; 30 R407, R408).
-/

namespace Sys2Proof.Machine

/-! ### The state after reset -/

/-- Reset leaves every core as one that nothing has touched. -/
theorem State.core_reset (n : Nat) : State.reset.core n = Core.untouched 0 := by
  simp [State.core, State.reset, SMap.getD, SMap.find]

/-- Reset leaves every slot as an EMPTY one (03 R31). -/
theorem State.slot_reset (t : Tid) : State.reset.slot t = Slot.zero := by
  simp [State.slot, State.core_reset, Core.untouched, Core.zero, Core.slot]

/-- The first step after reset is the cold reset that starts the boot (log entry 1). -/
theorem step_reset : step State.reset = exec .coldReset State.reset := rfl

theorem State.ssc_meas_reset (i : Fin 8) : State.reset.ssc.meas[i] = 0 := by
  simp [State.reset, Ssc.zero]

/-- Settles O57: every slot is Slot.zero and every core one that nothing has touched; the rest is read off the record that reset is. -/
theorem resetState : Obligations.reset_state := by
  refine ⟨⟨rfl, rfl⟩, step_reset, fun _ => rfl, fun t => ?_, fun n => ?_, State.ssc_meas_reset, rfl, rfl, rfl, rfl, fun _ => rfl, rfl, rfl⟩
  · rw [State.slot_reset]; decide
  · rw [State.core_reset]; decide

/-! ### The instruction that a thread's issue runs -/

/-- A fetch gives the line that the core has cached and keeps (R212). -/
theorem State.fetchLine_cached {s : State} {pc : Word} {l : Line} (ht : isTranslated (lineAddr pc) = true)
    (hc : s.myCore.cached s.myCtx (lineAddr pc) = some l) (hk : s.keepsLine s.cur.core s.myCtx (lineAddr pc) = true) : s.fetchLine pc = .ok l s := by
  simp [State.fetchLine, ht, hc, hk]

/-- With nothing pending, a thread without a parked instruction issues from the line that it has cached (R341). -/
theorem State.issue_cached {s : State} {t : Tid} {l : Line} (hc : (s.slot t).cont = none)
    (hl : (s.slot t).lates = [] ∨ (s.slot t).cr.intrap = true) (hn : (s.slot t).notice ≠ 1 ∨ (s.slot t).cr.intrap = true)
    (ht : isTranslated (lineAddr (s.slot t).pc) = true) (hi : (s.core t.core).cached (s.ctxOf t.core) (lineAddr (s.slot t).pc) = some l)
    (hk : s.keepsLine t.core (s.ctxOf t.core) (lineAddr (s.slot t).pc) = true) :
    s.issue t = ({ s with cur := t } : State).issueLine (s.slot t) l := by
  have hf : ({ s with cur := t } : State).fetchLine (s.slot t).pc = .ok l { s with cur := t } := State.fetchLine_cached ht hi hk
  have hme : ({ s with cur := t } : State).me = s.slot t := rfl
  have hlate : (!(s.slot t).lates.isEmpty && !(s.slot t).cr.intrap) = false := by
    rcases hl with h | h <;> simp [h]
  have hnote : ((s.slot t).notice == 1 && !(s.slot t).cr.intrap) = false := by
    rcases hn with h | h <;> simp [h]
  simp only [State.issue, hme, hc, hlate, hnote, hf, Bool.false_eq_true, if_false]

/-- A word that decodes runs, unless it needs an outstanding access; it runs with NEXT after it (R114, R174). -/
theorem State.issueLine_ok {s : State} {x : Slot} {l : Line} {h : Parcel} {tl : Tail} {i : Instr} (hs : l.slots[slotIndex x.pc]? = some (.instr h tl))
    (hd : decodeHT h tl = .ok i) :
    s.issueLine x l = if x.depends i then .next s else exec i ({ s with npc := nextPc l x.pc, ir := (h, tl) } : State).countSkid := by
  simp only [State.issueLine, hs, hd, State.run]

/-- A word that a check refuses runs as the trap of the check (R120). -/
theorem State.issueLine_error {s : State} {x : Slot} {l : Line} {h : Parcel} {tl : Tail} {e : Reject} (hs : l.slots[slotIndex x.pc]? = some (.instr h tl))
    (hd : decodeHT h tl = .error e) :
    s.issueLine x l = exec (.notAnInstruction (if e = .reservedField then 2 else 1) 0 (tl.report ++ h))
      ({ s with npc := nextPc l x.pc, ir := (h, tl) } : State).countSkid := by
  simp only [State.issueLine, hs, hd, State.run, Bool.false_eq_true, if_false]
  cases e <;> rfl

/-- A parked instruction runs again. -/
theorem State.issue_parked {s : State} {t : Tid} {c : Cont} {i : Instr} (hc : (s.slot t).cont = some c) (hd : decodeHT c.head c.tail = .ok i) :
    s.issue t = exec i { s with cur := t, npc := c.npc, ir := (c.head, c.tail) } := by
  have hme : ({ s with cur := t } : State).me = s.slot t := rfl
  simp only [State.issue, hme, hc, hd, State.run]

/-! ### Whose turn it is -/

/-- A package that is up, with no waiter to evaluate, goes on with the first thread whose parked instruction has met its event. -/
theorem step_urgent {s : State} {t : Tid} {ts : List Tid} (hu : s.up = true) (hw : firstWake s.todo = none) (ht : s.urgent = t :: ts) :
    step s = ({ s with urgent := ts } : State).goOn t := by
  simp only [step, hu, hw, ht, Bool.not_true, Bool.false_eq_true, if_false]

/-- The agenda's next turn of a core is a cycle of the core. -/
theorem step_core {s : State} {n : Nat} {as : List Turn} (hu : s.up = true) (ht : s.urgent = []) (hw : firstWake s.todo = none)
    (ha : s.agenda = .core n :: as) : step s = ({ s with agenda := as } : State).coreTurn n := by
  simp only [step, hu, hw, ht, ha, Bool.not_true, Bool.false_eq_true, if_false]

/-- With an empty agenda the first thing to do is done. -/
theorem step_todo {s : State} {e : Event} {es : List Event} (hu : s.up = true) (ht : s.urgent = []) (hw : firstWake s.todo = none)
    (ha : s.agenda = []) (he : s.todo = e :: es) : step s = exec (eventInstr e) { s with todo := es } := by
  rw [he] at hw
  simp only [step, hu, hw, ht, ha, he, Bool.not_true, Bool.false_eq_true, if_false]

/-- A package that is Off, asleep or booting takes its own kind of step (30 R407, R408). -/
theorem step_down {s : State} (hu : s.up = false) : step s = s.downStep := by
  simp only [step, hu, Bool.not_false, if_true]

/-! ### The rotation of a core (03 R33) -/

/-- Where no slot is being stepped, an eligible slot is READY. -/
theorem State.eligible_ready {s : State} {t : Tid} (hs : (s.core t.core).dbg.stepping = none) (he : s.eligible t = true) : (s.slot t).st = .ready := by
  simp only [State.eligible, hs, Bool.and_eq_true, Bool.or_eq_true, beq_iff_eq, reduceCtorEq, and_false, or_false] at he
  exact he.1.1.1

/-- The first number from 1 to 7 of which q holds. -/
theorem find?_one_to_seven {q : BitVec 3 → Bool} {i : BitVec 3} (h : [1, 2, 3, 4, 5, 6, 7].find? q = some i) :
    q i = true ∧ ∀ j : BitVec 3, j ≠ 0 → j < i → q j = false := by
  obtain ⟨hi, as, bs, hl, hn⟩ := List.find?_eq_some_iff_append.mp h
  refine ⟨hi, fun j h0 hj => ?_⟩
  have hall : ∀ j : BitVec 3, j ≠ 0 → j ∈ ([1, 2, 3, 4, 5, 6, 7] : List (BitVec 3)) := by decide
  have hup : ([1, 2, 3, 4, 5, 6, 7] : List (BitVec 3)).Pairwise (· < ·) := by decide
  have hm := hall j h0
  rw [hl] at hm hup
  obtain ⟨-, hib, -⟩ := List.pairwise_append.mp hup
  rcases List.mem_append.mp hm with ha | hb
  · simpa using hn j ha
  · rcases List.mem_cons.mp hb with rfl | hb
    · exact absurd hj (BitVec.lt_irrefl j)
    · exact absurd (BitVec.lt_trans hj ((List.pairwise_cons.mp hib).1 j hb)) (BitVec.lt_irrefl j)

/-- The slot whose cycle it is issues when it is eligible. -/
theorem State.rotate_own {s : State} {n : Nat} (hs : (s.core n).dbg.stepping = none) (he : s.eligible ⟨n, (s.core n).cyc.extractLsb' 0 3⟩ = true) :
    s.rotate n = some ((s.core n).cyc.extractLsb' 0 3) := by
  have hr := State.eligible_ready (t := ⟨n, (s.core n).cyc.extractLsb' 0 3⟩) hs he
  simp [State.rotate, hr, he]

/-- A core issues nothing in the cycle of a STOPPED slot. -/
theorem State.rotate_stopped {s : State} {n : Nat} (hs : (s.core n).dbg.stepping = none)
    (ho : (s.slot ⟨n, (s.core n).cyc.extractLsb' 0 3⟩).st = .stopped) : s.rotate n = none := by
  simp [State.rotate, hs, ho]

/-- The slot that a core issues from is eligible, and no slot from the core's own on to before it is. -/
theorem State.rotate_first {s : State} {n : Nat} {k : BitVec 3} (hs : (s.core n).dbg.stepping = none) (hk : s.rotate n = some k) :
    s.eligible ⟨n, k⟩ = true ∧ ∀ j : BitVec 3, j.toNat < (k - (s.core n).cyc.extractLsb' 0 3).toNat →
      s.eligible ⟨n, (s.core n).cyc.extractLsb' 0 3 + j⟩ = false := by
  generalize hown : (s.core n).cyc.extractLsb' 0 3 = own at hk ⊢
  simp only [State.rotate, hown, hs] at hk
  split at hk
  · cases hk
  · split at hk
    · rename_i he
      cases hk
      exact ⟨he, fun j hj => by simp at hj⟩
    · rename_i he
      rw [List.find?_map, Option.map_eq_some_iff] at hk
      obtain ⟨i, hi, rfl⟩ := hk
      obtain ⟨hp, hbefore⟩ := find?_one_to_seven hi
      refine ⟨by simpa using (Bool.and_eq_true_iff.mp hp).2, fun j hj => ?_⟩
      rw [show own + i - own = i by bv_omega] at hj
      by_cases h0 : j = 0
      · subst h0; simpa using he
      · have hq := hbefore j h0 hj
        by_contra hc
        have hel : s.eligible ⟨n, own + j⟩ = true := by simpa using hc
        have hr := State.eligible_ready (t := ⟨n, own + j⟩) hs hel
        simp [Function.comp, hr, hel] at hq

/-- Settles O59: a thread's issue runs the decoded instruction (State.issue_cached, State.issueLine_ok, State.issueLine_error, State.issue_parked), a step of
the package is the issue of the thread whose turn it is, and the rotation of a core is the first eligible slot from its own on. -/
theorem stepRunsDecodedInstruction : Obligations.step_runs_decoded_instruction := by
  refine ⟨?_, fun s t c i hc hd => State.issue_parked hc hd, ?_, ?_, fun s e es hu ht hw ha he => step_todo hu ht hw ha he, ?_, ?_⟩
  · intro s t l h tl x r hc hl hn ht hi hk hs
    rw [State.issue_cached hc hl hn ht hi hk]
    exact ⟨fun i hd => State.issueLine_ok hs hd, fun e hd => State.issueLine_error hs hd⟩
  · intro s t ts hu hw hq hp
    rw [step_urgent hu hw hq, State.goOn, if_pos hp, State.issueStep]
    cases ({ s with urgent := ts } : State).issue t <;> rfl
  · intro s n k as hu ht hw ha hr
    rw [step_core hu ht hw ha, State.coreTurn, hr]
    dsimp only
    rw [State.issueStep]
    cases ({ s with agenda := as } : State).issue ⟨n, k⟩ <;> rfl
  · intro s hu ha
    rw [step_down hu]
    refine ⟨fun hp => ?_, fun hp => ?_, fun hp => ?_⟩ <;> simp only [State.downStep, ha, hp, beq_iff_eq]
  · intro s n hs own
    refine ⟨fun ho => State.rotate_stopped hs ho, fun _ he => State.rotate_own hs he, fun k hk => ?_⟩
    obtain ⟨he, hbefore⟩ := State.rotate_first hs hk
    exact ⟨State.eligible_ready (t := ⟨n, k⟩) hs he, he, hbefore⟩

end Sys2Proof.Machine
end

section
/-!
PROOFS. A word of the own local store in a machine at rest (State.calm): what an access to it does, by whichever of its addresses, and what waiting on it does
(10 R151 to R161; 03 R47, R51).
-/

namespace Sys2Proof.Machine

/-! ### A machine at rest -/

theorem Core.calm_iff (c : Core) : c.calm = true ↔ c.gated = false ∧ c.copies = [] ∧ c.demands = [] ∧
    (∀ k ∈ slotNums, (c.slot k).blanks = [] ∧ (c.slot k).outs = []) ∧ (∀ w ∈ c.dbg.wpctl.toList, w = 0) ∧ c.rmap0 = 0 ∧ c.rmap1 = 0 := by
  simp only [Core.calm, Bool.and_eq_true, Bool.not_eq_true', List.isEmpty_iff, List.all_eq_true, beq_iff_eq, and_assoc]

/-- What State.calm says of everything but the instruction that the thread itself has parked. -/
structure State.Rests (s : State) : Prop where
  core : s.coreExists s.cur.core = true
  ctx : s.myCore.ctx.isSome = true
  calm : ∀ p ∈ s.cores, p.2.calm = true
  waiters : s.waiters = []
  badTags : s.badTags = []
  poison : s.poison = []

theorem State.rests_of_calm {s : State} (h : s.calm = true) : s.Rests ∧ s.me.cont = none ∧ s.me.st = .ready := by
  simp only [State.calm, Bool.and_eq_true, List.isEmpty_iff, List.all_eq_true, beq_iff_eq, Option.isNone_iff_eq_none] at h
  obtain ⟨⟨⟨⟨⟨⟨⟨⟨hcore, hctx⟩, hcalm⟩, hwait⟩, hbad⟩, hpoison⟩, hcont⟩, hst⟩, -⟩ := h
  exact ⟨⟨hcore, hctx, hcalm, hwait, hbad, hpoison⟩, hcont, hst⟩

theorem SMap.mem_of_find {α : Type} {m : SMap α} {k : Nat} {v : α} (h : SMap.find m k = some v) : (k, v) ∈ m := by
  induction m with
  | nil => cases h
  | cons p m ih =>
    obtain ⟨j, w⟩ := p
    simp only [SMap.find] at h
    split at h
    · rename_i hj
      cases h; subst hj
      exact List.mem_cons_self
    · exact List.mem_cons_of_mem _ (ih h)

/-- A core that holds a context is listed. -/
theorem State.mem_cores {s : State} {n : Nat} (h : (s.core n).ctx.isSome = true) : (n, s.core n) ∈ s.cores := by
  cases hf : SMap.find s.cores n with
  | none => simp [State.core, SMap.getD, hf, Core.untouched, Core.zero] at h
  | some c =>
    have hc : s.core n = c := by simp [State.core, SMap.getD, hf]
    rw [hc]
    exact SMap.mem_of_find hf

theorem State.Rests.myCore_calm {s : State} (h : s.Rests) : s.myCore.calm = true := h.calm _ (State.mem_cores h.ctx)

theorem mem_slotNums (k : BitVec 3) : k ∈ slotNums := by revert k; decide

theorem State.Rests.outs {s : State} (h : s.Rests) : s.me.outs = [] := by
  obtain ⟨-, -, -, hslots, -⟩ := (Core.calm_iff _).mp h.myCore_calm
  exact (hslots s.cur.slot (mem_slotNums _)).2

/-- No store of a thread is on its way. -/
theorem State.Rests.buffered {s : State} (h : s.Rests) (c : Nat) (me : Option Tid) (lo hi : Nat) : s.buffered c me lo hi = [] := by
  simp only [State.buffered, List.flatMap_eq_nil_iff]
  intro p hp k hk
  obtain ⟨-, -, -, hslots, -⟩ := (Core.calm_iff _).mp (h.calm p hp)
  rw [(hslots k hk).2]
  simp

/-- Every region has table 0. -/
theorem State.Rests.entry {s : State} (h : s.Rests) (off kind : Nat) : s.entry s.cur.core off kind = 0 := by
  obtain ⟨-, -, -, -, -, h0, h1⟩ := (Core.calm_iff _).mp h.myCore_calm
  refine State.entry_zero s _ _ _ ?_
  have hz : ∀ i, ((0 : BitVec 64).extractLsb' i 2).toNat = 0 := fun i => by simp
  rw [show s.core s.cur.core = s.myCore from rfl, Core.tableOf, h0, h1, ite_self]
  exact hz _

theorem Core.calm_setSlot {c : Core} (k : BitVec 3) {x : Slot} (h : c.calm = true) (hb : x.blanks = []) (ho : x.outs = []) : (c.setSlot k x).calm = true := by
  obtain ⟨hg, hc, hd, hs, hw, h0, h1⟩ := (Core.calm_iff c).mp h
  refine (Core.calm_iff _).mpr ⟨hg, hc, hd, fun j hj => ?_, hw, h0, h1⟩
  by_cases hjk : j = k
  · subst hjk; simp [hb, ho]
  · rw [Core.slot_setSlot_other _ _ hjk]; exact hs j hj

theorem State.Rests.setMe {s : State} (h : s.Rests) {x : Slot} (hb : x.blanks = []) (ho : x.outs = []) : (s.setMe x).Rests := by
  refine ⟨h.core, ?_, fun p hp => ?_, h.waiters, h.badTags, h.poison⟩
  · simp only [State.myCore, State.setMe, State.setSlot, State.setCore_cur, State.core_setCore_same]
    exact h.ctx
  · rcases SMap.mem_put hp with rfl | hp
    · exact Core.calm_setSlot _ h.myCore_calm hb ho
    · exact h.calm p hp

theorem State.Rests.setCont {s : State} (h : s.Rests) (c : Cont) : (s.setCont c).Rests := by
  obtain ⟨-, -, -, hslots, -⟩ := (Core.calm_iff _).mp h.myCore_calm
  exact h.setMe (hslots s.cur.slot (mem_slotNums _)).1 h.outs

/-! ### A word of the own local store -/

/-- An address of the word at an offset of the issuing core's own local store, in a region of its context: the own-LS address or the quad window's (R151). -/
structure State.OwnWord (s : State) (va : Word) (off : Nat) : Prop where
  place : s.place s.cur.core va = .ls s.cur.core off false
  va_aligned : va.toNat % 8 = 0
  aligned : off % 8 = 0
  inside : off < 0x40000
  alloc : (SMap.find s.myCore.alloc (off / 0x1000)).isSome = true

/-- A frame address is one by the quad window (R47). -/
theorem State.ownWord_frame {s : State} {f : Word} {o : Nat} (hc : s.coreExists s.cur.core = true) (h : s.frameAt f o) : s.OwnWord f o := by
  obtain ⟨hf, ho, hin, hal⟩ := h
  have hq : 4 * quadOf s.cur.core + f.toNat / 0x40000 % 4 = s.cur.core := by rw [hf, quadOf]; omega
  refine ⟨?_, by omega, ho, hin, hal⟩
  rw [State.place]
  simp only [hq, hc, if_true]
  rw [if_neg (by omega), if_pos (by omega), show f.toNat % 0x40000 = o by omega]

/-- An own-LS address is one. -/
theorem State.ownWord_own {s : State} {va : Word} (ha : va.toNat % 8 = 0) (h : s.owns va 8 = true) : s.OwnWord va va.toNat := by
  simp only [State.owns, Bool.or_eq_true, Bool.and_eq_true, decide_eq_true_eq, List.all_eq_true, List.mem_range, beq_iff_eq] at h
  obtain ⟨hin, hal⟩ := h.resolve_left (by decide)
  refine ⟨by rw [State.place]; exact if_pos (by omega), ha, ha, by omega, ?_⟩
  rcases hal (va.toNat / 0x1000) (by omega) with (h | h) | h
  · omega
  · omega
  · exact h

theorem State.OwnWord.setCont {s : State} {va : Word} {off : Nat} (h : s.OwnWord va off) (c : Cont) : (s.setCont c).OwnWord va off := by
  refine ⟨h.place, h.va_aligned, h.aligned, h.inside, ?_⟩
  simp only [State.myCore, State.setCont, State.setMe, State.setSlot, State.setCore_cur, State.core_setCore_same]
  exact h.alloc

theorem State.OwnWord.wordOf {s : State} {va : Word} {off : Nat} (h : s.OwnWord va off) : wordOf off = off := by
  have := h.aligned
  unfold Machine.wordOf; omega

theorem State.OwnWord.wordOf_home {s : State} {va : Word} {off : Nat} (h : s.OwnWord va off) : Machine.wordOf (lsHome s.cur.core off) = lsHome s.cur.core off := by
  have := h.aligned
  unfold Machine.wordOf lsHome; omega

theorem State.OwnWord.isLs {s : State} {va : Word} {off : Nat} (h : s.OwnWord va off) (hr : s.Rests) : homeIsLs (lsHome s.cur.core off) = true :=
  homeIsLs_lsHome _ _ (by have := State.coreExists_lt hr.core; omega) h.inside

/-- Its checks find its home (R151, R152). -/
theorem State.precheck_word {s : State} {a : Acc} {off : Nat} (h : s.Rests) (hw : s.OwnWord a.va off) (hs : a.size = 8) (ag : Agent) (k : BitVec 3) :
    s.precheck ag s.cur.core s.myCtx s.myAper a k = .ok (lsHome s.cur.core off) s := by
  obtain ⟨c, hc⟩ := Option.isSome_iff_exists.mp h.ctx
  have hctx : (s.core s.cur.core).ctx = some s.myCtx := by
    rw [State.myCtx, State.ctxOf, show (s.core s.cur.core).ctx = some c from hc]; rfl
  have hal : s.allocated s.cur.core off s.myCtx = true := by
    simp only [State.allocated, hctx, beq_self_eq_true, Bool.true_and]
    exact hw.alloc
  have hck : s.lsCheck (some s.cur.core) s.myCtx s.myAper a.va s.cur.core off false = none := by
    simp only [State.lsCheck, State.portRefuses, hal, Bool.not_true, Bool.false_eq_true, if_false, Bool.false_and, bne_self_eq_false]
  simp only [State.precheck, hs, hw.va_aligned, ne_eq, not_true_eq_false, if_false, hw.place, hck]

/-- Nothing holds the access at its home (R61, R167, R291, R302). -/
theorem State.lsHold_word {s : State} {a : Acc} {off : Nat} (h : s.Rests) (hw : s.OwnWord a.va off) (hd : s.cont.dog = false) :
    s.lsHold s.myAgent s.cur.core (lsHome s.cur.core off) a false = .ok () s := by
  obtain ⟨hg, hcopies, hdemands, hslots, -⟩ := (Core.calm_iff _).mp h.myCore_calm
  have hb : ∀ ws, s.barked s.myAgent s.cur.core ws = none := fun ws => by simp [State.barked, hd]
  have ht := State.tokenHeld_none s s.myAgent s.cur.core (a.words off) hcopies
  have hu : s.unhold s.myAgent = s := State.unhold_none s _ (by simp [h.waiters])
  have hf := Core.forcedBy_none (s.core s.cur.core) (fun k hk => (hslots k hk).1)
  simp only [State.lsHold, homeCore_lsHome _ _ hw.inside, homeOff_lsHome _ _ hw.inside, hb, show (s.core s.cur.core).gated = false from hg,
    Bool.false_eq_true, if_false, beq_self_eq_true, if_true, ht, hu, hf, State.demand_none s _ _ hdemands]

/-- Its bank operation goes on (R158, R161, R354, R363). -/
theorem State.bank_word {s : State} {a : Acc} {off : Nat} (h : s.Rests) (hw : s.OwnWord a.va off) (hs : a.size = 8) (kind : Nat) (second : Bool) :
    s.bank s.myAgent s.cur.core s.cur.core off kind a second =
      .ok (BitVec.ofNat 512 (s.wordStep a.op (lsHome s.cur.core off) 0 8 255 a.op.data 0 a.op.bypass).1)
        (s.wordStep a.op (lsHome s.cur.core off) 0 8 255 a.op.data 0 a.op.bypass).2 := by
  obtain ⟨-, -, -, -, hwp, -⟩ := (Core.calm_iff _).mp h.myCore_calm
  have hd : s.decide_ s.cur.core kind (decide (8 < a.size)) a.op.bypass (a.words off) = .go :=
    State.decide_go s _ _ _ _ _ (by simp [h.badTags]) (.inr fun o _ => .inl (by rw [h.entry]; rfl))
  have hj : s.judge s.myAgent s.cur.core s.cur.core off kind a second = .ok () s := by rw [State.judge, hd]
  have hl : s.letIn s.myAgent s.cur.core off kind a = .ok () s := by
    simp [State.letIn, h.poison, State.watch_none s s.cur.core 1 kind (a.runs off) s.myAgent a.va hwp (by decide)]
  have hn : s.enact s.myAgent s.cur.core off kind a = s.wordStep a.op (lsHome s.cur.core off) 0 8 255 a.op.data 0 a.op.bypass := by
    have h8 : off % 8 = 0 := hw.aligned
    simp [State.enact, State.leave_none s s.myAgent (by simp [h.waiters]), hs, h8, hw.wordOf, h.entry]
  rw [State.bank, hj, Res.bind_ok, hl, Res.bind_ok, hn]

/-- An ordinary access to a word of the own local store, of an instruction that neither waited too long nor was redirected. -/
theorem State.ordinary_word {s : State} {a : Acc} {off : Nat} (h : s.Rests) (hw : s.OwnWord a.va off) (hs : a.size = 8) (hr : s.cont.redirect = none)
    (hd : s.cont.dog = false) :
    s.ordinary a = .ok (BitVec.ofNat 512 (s.wordStep a.op (lsHome s.cur.core off) 0 8 255 a.op.data 0 a.op.bypass).1)
      (s.wordStep a.op (lsHome s.cur.core off) 0 8 255 a.op.data 0 a.op.bypass).2 := by
  have ha : s.cont.redirected a = a := by rw [Cont.redirected, hr]
  have ho : s.me.overlaps (lsHome s.cur.core off) a.size = false := by simp [Slot.overlaps, h.outs]
  have hb := h.buffered s.cur.core (some s.cur) (lsHome s.cur.core off) (lsHome s.cur.core off + a.size)
  rw [State.ordinary, ha, State.precheck_word h hw hs, Res.bind_ok, if_neg (by simp [ho]), if_neg (by simp [State.routeBusy_none hb]),
    State.perform, if_pos (hw.isLs h), State.lsPerform, State.lsHold_word h hw hd, Res.bind_ok, homeCore_lsHome _ _ hw.inside, homeOff_lsHome _ _ hw.inside,
    bne_self_eq_false, Bool.false_and, if_neg Bool.false_ne_true, State.bank_word h hw hs]
  dsimp only
  rw [State.lsForward_none _ hb]

/-- A read of the word returns it. -/
theorem State.ordinary_readWord {s : State} {va : Word} {off : Nat} (h : s.Rests) (hw : s.OwnWord va off) (hr : s.cont.redirect = none)
    (hd : s.cont.dog = false) : s.ordinary (accRead va 8) = .ok (BitVec.ofNat 512 (Memory.readN s.mem (lsHome s.cur.core off) 8)) s :=
  State.ordinary_word (a := accRead va 8) h hw rfl hr hd

/-- A read of the word's tag returns it. -/
theorem State.ordinary_tagWord {s : State} {va : Word} {off : Nat} (h : s.Rests) (hw : s.OwnWord va off) (hr : s.cont.redirect = none)
    (hd : s.cont.dog = false) : s.ordinary (accOp va 8 .tagRead) = .ok (BitVec.ofNat 512 (s.tag (lsHome s.cur.core off)).toNat) s :=
  State.ordinary_word (a := accOp va 8 .tagRead) h hw rfl hr hd

/-- Bytes as State.bytesAt counts them are those that Memory.readN reads. -/
theorem Memory.readN_eq_sum (m : List Host.Cell) (a n : Nat) :
    Memory.readN m a n = ((List.range n).map (fun i => (Memory.byte m (a + i)).toNat * 256 ^ i)).sum := by
  induction n generalizing a with
  | zero => rfl
  | succ n ih =>
    have hshift : ∀ i, (Memory.byte m (a + (i + 1))).toNat * 256 ^ (i + 1) = 256 * ((Memory.byte m (a + 1 + i)).toNat * 256 ^ i) := fun i => by
      rw [show a + (i + 1) = a + 1 + i by omega, Nat.pow_succ]; ring
    rw [Memory.readN, ih, List.range_succ_eq_map, List.map_cons, List.sum_cons, List.map_map, Nat.pow_zero, Nat.mul_one, Nat.add_zero,
      ← List.sum_map_mul_left]
    congr 2
    exact List.map_congr_left (fun i _ => (hshift i).symm)

theorem State.readN_own (s : State) (off n : Nat) : Memory.readN s.mem (lsHome s.cur.core off) n = s.bytesAt off n := by
  simp only [Memory.readN_eq_sum, State.bytesAt, lsHome, Nat.add_assoc]

theorem Memory.readN_lt (m : List Host.Cell) (a n : Nat) : Memory.readN m a n < 256 ^ n := by
  induction n generalizing a with
  | zero => exact Nat.one_pos
  | succ n ih =>
    have hb := (Memory.byte m a).isLt
    have hn := ih (a + 1)
    rw [Memory.readN, Nat.pow_succ]
    omega

theorem State.bytesAt_lt (s : State) (off : Nat) : s.bytesAt off 8 < 2 ^ 64 := by
  rw [← State.readN_own]
  exact Memory.readN_lt ..

/-- The machine with other bytes of memory. -/
def State.withMem (s : State) (m : List Host.Cell) : State := { s with mem := m }

theorem State.cur_withMem (s : State) (m : List Host.Cell) : (s.withMem m).cur = s.cur := rfl
theorem State.npc_withMem (s : State) (m : List Host.Cell) : (s.withMem m).npc = s.npc := rfl
theorem State.mem_withMem (s : State) (m : List Host.Cell) : (s.withMem m).mem = m := rfl
theorem State.tags_withMem (s : State) (m : List Host.Cell) : (s.withMem m).tags = s.tags := rfl
theorem State.me_withMem (s : State) (m : List Host.Cell) : (s.withMem m).me = s.me := rfl

/-- The bytes once k has been added to the word at an offset of the own local store (R48, R49). -/
def State.memAdded (s : State) (off : Nat) (k : Word) : List Host.Cell :=
  Memory.writeN s.mem (lsHome s.cur.core off) ((s.bytesAt off 8 + k.toNat) % 2 ^ 64) 255 8

/-- The machine once k has been added to the word at an offset of the own local store. -/
def State.added (s : State) (off : Nat) (k : Word) : State := s.withMem (s.memAdded off k)

@[simp] theorem State.cur_added (s : State) (off : Nat) (k : Word) : (s.added off k).cur = s.cur := State.cur_withMem ..
@[simp] theorem State.npc_added (s : State) (off : Nat) (k : Word) : (s.added off k).npc = s.npc := State.npc_withMem ..
@[simp] theorem State.mem_added (s : State) (off : Nat) (k : Word) : (s.added off k).mem = s.memAdded off k := State.mem_withMem ..
@[simp] theorem State.tags_added (s : State) (off : Nat) (k : Word) : (s.added off k).tags = s.tags := State.tags_withMem ..
@[simp] theorem State.me_added (s : State) (off : Nat) (k : Word) : (s.added off k).me = s.me := State.me_withMem ..

theorem State.memAdded_eq (s : State) (off : Nat) {k : Word} {n : Nat} (hk : k.toNat = n) :
    s.memAdded off k = Memory.writeN s.mem (lsHome s.cur.core off) ((s.bytesAt off 8 + n) % 2 ^ 64) 255 8 := by
  rw [State.memAdded, hk]

/-- An addition to the word changes it and nothing else. -/
theorem State.ordinary_addWord {s : State} {va : Word} {off : Nat} (k : Word) (h : s.Rests) (hw : s.OwnWord va off) (hr : s.cont.redirect = none)
    (hd : s.cont.dog = false) : ∃ v, s.ordinary (accOp va 8 (.addWord k)) = .ok v (s.added off k) := by
  refine ⟨_, (State.ordinary_word (a := accOp va 8 (.addWord k)) h hw rfl hr hd).trans (congrArg _ ?_)⟩
  have hput : (s.wordStep (.addWord k) (lsHome s.cur.core off) 0 8 255 0 0 false).2 =
      s.putNew (lsHome s.cur.core off) 0 8 255 (some ((Memory.readN s.mem (lsHome s.cur.core off) 8 + k.toNat) % 2 ^ 64)) := rfl
  refine hput.trans ?_
  have hpoison : ∀ m : List Host.Cell, ({ s with mem := m, poison := s.poison.filter (· != lsHome s.cur.core off) } : State) = { s with mem := m } := fun m => by
    rw [h.poison]; rfl
  rw [State.putNew, Nat.add_zero, State.writeBytes_ls _ _ _ _ _ (hw.isLs h), State.readN_own]
  simp only [beq_self_eq_true, Bool.and_self, if_true, hpoison]
  exact State.wakeWord_none _ _ _ _ (by simp [h.waiters])

end Sys2Proof.Machine
end

section
/-!
PROOFS. What wakes and pops leave of the slots, how the window ring reads after a move, and what parking and waiting on a word leave (03 R31, R47 to R51, R55; 07 R97 to R99;
14 R228, R229).
-/

namespace Sys2Proof.Machine

/-! ### What a wake and a pop leave of a slot -/

/-- A slot without its port queues and without what a wake changes. -/
def Slot.still (x : Slot) : Slot := { x with st := .ready, heldSt := .ready, await := .none, port := Port.zero }

/-- Two states that differ in wakes and port queues alone, as far as bytes, tags and slots go. -/
structure State.Still (s t : State) : Prop where
  cur : t.cur = s.cur
  npc : t.npc = s.npc
  bytes : s.SameBytes t
  slot : ∀ u, (t.slot u).still = (s.slot u).still

theorem State.Still.refl (s : State) : s.Still s := ⟨rfl, rfl, .refl s, fun _ => rfl⟩

theorem State.Still.trans {s t u : State} (h : s.Still t) (k : t.Still u) : s.Still u :=
  ⟨k.cur.trans h.cur, k.npc.trans h.npc, h.bytes.trans k.bytes, fun v => (k.slot v).trans (h.slot v)⟩

theorem State.still_ite {s t u : State} (c : Prop) [Decidable c] (h : s.Still t) (k : s.Still u) : s.Still (if c then t else u) := by
  split <;> assumption

theorem State.still_foldl {β : Type} (f : State → β → State) (hf : ∀ (u : State) (b : β), u.Still (f u b)) (bs : List β) (s : State) :
    s.Still (bs.foldl f s) :=
  State.foldl_keeps (p := s.Still) f (fun _ b h => h.trans (hf _ b)) bs (.refl s)

/-- A core with the same slots in its place leaves every slot as it was. -/
theorem State.slot_setCore (s : State) (n : Nat) (c : Core) (h : c.slots = (s.core n).slots) (u : Tid) : (s.setCore n c).slot u = s.slot u := by
  by_cases hn : u.core = n
  · subst hn
    simp only [State.slot, State.core_setCore_same, Core.slot, h]
  · simp only [State.slot, State.core_setCore_other _ _ hn]

theorem State.slot_of_cores {s t : State} (hc : t.cores = s.cores) (hn : t.nextCore = s.nextCore) (hk : t.clock = s.clock) (u : Tid) : t.slot u = s.slot u := by
  simp only [State.slot, State.core, hc, hn, hk]

theorem State.still_of_slots {s t : State} (hcur : t.cur = s.cur) (hnpc : t.npc = s.npc) (hb : s.SameBytes t) (hs : ∀ u, t.slot u = s.slot u) : s.Still t :=
  ⟨hcur, hnpc, hb, fun u => by rw [hs u]⟩

theorem State.still_setSlot (s : State) (t : Tid) (x : Slot) (h : x.still = (s.slot t).still) : s.Still (s.setSlot t x) := by
  refine ⟨rfl, rfl, ⟨rfl, rfl⟩, fun u => ?_⟩
  by_cases hu : u = t
  · subst hu; rw [State.slot_setSlot_same, h]
  · rw [State.slot_setSlot_other _ _ hu]

theorem State.still_post (s : State) (e : Event) : s.Still (s.post e) :=
  State.still_of_slots (by simp) (by simp) (State.sameBytes_post s e) (State.slot_of_cores (by simp) (by simp) (by simp))

theorem State.still_rouse (s : State) (n : Nat) : s.Still (s.rouse n) := by
  unfold State.rouse
  exact State.still_ite _ (State.still_post ..) (State.still_ite _ (.refl s) (State.still_of_slots rfl rfl ⟨rfl, rfl⟩ (State.slot_setCore _ _ _ rfl)))

theorem State.still_urge (s : State) (t : Tid) (g : Bool) : s.Still (s.urge t g) := by
  unfold State.urge
  exact State.still_ite _ (.refl s) (State.still_of_slots rfl rfl ⟨rfl, rfl⟩ (fun _ => rfl))

theorem State.still_wake (s : State) (t : Tid) : s.Still (s.wake t) := by
  have hw : ∀ x : Slot, ({ x with st := .ready, await := .none } : Slot).still = x.still := fun _ => rfl
  have hh : ∀ x : Slot, ({ x with heldSt := .ready, await := .none } : Slot).still = x.still := fun _ => rfl
  unfold State.wake
  dsimp only
  split
  · exact ((State.still_setSlot _ _ _ (hw _)).trans (State.still_rouse ..)).trans (State.still_urge ..)
  · exact ((State.still_setSlot _ _ _ (hh _)).trans (State.still_rouse ..)).trans (State.still_urge ..)
  · exact .refl s

theorem State.still_wakeThieves (s : State) (core g : Nat) : s.Still (s.wakeThieves core g) := by
  unfold State.wakeThieves
  refine State.still_foldl _ (fun u m => ?_) _ s
  refine (State.still_ite _ (State.still_rouse u _) (.refl u)).trans (State.still_foldl _ (fun v k => ?_) _ _)
  exact State.still_ite _ (State.still_wake ..) (.refl v)

theorem State.still_wakeProducer (s : State) (p : Option Tid) (w : Await) : s.Still (s.wakeProducer p w) := by
  cases p with
  | none => exact .refl s
  | some g => exact State.still_ite _ (State.still_wake ..) (.refl s)

theorem State.still_popScalar (s : State) (t : Tid) : s.Still (s.popScalar t) := by
  have hp : ∀ (x : Slot) (p : Port), ({ x with port := p } : Slot).still = x.still := fun _ _ => rfl
  unfold State.popScalar
  exact (State.still_setSlot s t _ (hp _ _)).trans (State.still_wakeProducer ..)

/-- The pops of an instruction without vector sources take from a port queue and wake its producer. -/
theorem State.still_pops (s : State) (srcs : List SReg) : s.Still (s.pops srcs []) := by
  simp only [State.pops, List.contains_nil, Bool.and_false, Bool.false_eq_true, if_false]
  exact State.still_ite _ (State.still_popScalar ..) (.refl s)

theorem State.Still.me {s t : State} (h : s.Still t) : t.me.still = s.me.still := by
  rw [State.me, h.cur]; exact h.slot _

theorem State.Still.regs {s t : State} (h : s.Still t) : t.me.regs = s.me.regs := by
  have e := congrArg Slot.regs h.me
  exact e
theorem State.Still.cr {s t : State} (h : s.Still t) : t.me.cr = s.me.cr := by
  have e := congrArg Slot.cr h.me
  exact e
theorem State.Still.deque {s t : State} (h : s.Still t) : t.me.deque = s.me.deque := by
  have e := congrArg Slot.deque h.me
  exact e
theorem State.Still.pc {s t : State} (h : s.Still t) : t.me.pc = s.me.pc := by
  have e := congrArg Slot.pc h.me
  exact e

/-! ### The thread after a taken transfer and after a park -/

theorem Core.slots_traceRec (c : Core) (kind : Nat) (k : BitVec 3) (code : Nat) (pc ta cnt : Word) : (c.traceRec kind k code pc ta cnt).slots = c.slots := by
  unfold Core.traceRec
  split <;> rfl

@[simp] theorem State.slot_trace (s : State) (kind code : Nat) (pc ta : Word) (u : Tid) : (s.trace kind code pc ta).slot u = s.slot u :=
  State.slot_setCore _ _ _ (Core.slots_traceRec ..) u

@[simp] theorem State.me_goto (s : State) (pc : Word) :
    (s.goto pc).me = { s.me with st := .ready, pc := pc, src := s.me.pc, cont := none, await := .none } := State.me_setMe ..

@[simp] theorem State.me_trace (s : State) (kind code : Nat) (pc ta : Word) : (s.trace kind code pc ta).me = s.me := State.slot_trace ..

@[simp] theorem State.me_jump (s : State) (pc : Word) :
    (s.jump pc).me = { s.me with st := .ready, pc := pc &&& ~~~(1 : Word), src := s.me.pc, cont := none, await := .none } := by
  simp [State.jump]

@[simp] theorem State.me_setRegs (s : State) (f : Regs → Regs) : (s.setRegs f).me = { s.me with regs := f s.me.regs } := State.me_setMe ..

@[simp] theorem State.cur_setRegs (s : State) (f : Regs → Regs) : (s.setRegs f).cur = s.cur := rfl
@[simp] theorem State.mem_setRegs (s : State) (f : Regs → Regs) : (s.setRegs f).mem = s.mem := rfl
@[simp] theorem State.tags_setRegs (s : State) (f : Regs → Regs) : (s.setRegs f).tags = s.tags := rfl

@[simp] theorem State.me_setCont (s : State) (c : Cont) : (s.setCont c).me = { s.me with cont := some c } := State.me_setMe ..

theorem State.cont_none {s : State} (h : s.me.cont = none) : s.cont.redirect = none ∧ s.cont.dog = false ∧ s.cont.second = false ∧ s.cont.step = 0 := by
  simp [State.cont, h]

@[simp] theorem State.cont_setCont (s : State) (c : Cont) : (s.setCont c).cont = c := by simp [State.cont]

@[simp] theorem State.me_park (s : State) (w : Await) : (s.park w).me = { s.me with st := .parked, await := w, cont := some s.cont } :=
  (State.me_setMe ..).trans (by cases h : s.me.cont <;> simp [State.cont, h])

/-- A parked thread keeps its PC and its registers, and the machine its bytes and tags. -/
theorem State.waits_park {s t : State} (w : Await) (hb : s.SameBytes t) (hpc : t.me.pc = s.me.pc) (hr : t.me.regs = s.me.regs) : Waits s (t.park w) w := by
  refine ⟨by simp, by simp, by simpa using hpc, by simpa using hr, ?_, ?_⟩
  · exact (State.park_mem ..).trans hb.1
  · exact (State.park_tags ..).trans hb.2

/-! ### The window ring after a move (R97 to R99) -/

/-- A register other than the upstream port reads as its place. -/
theorem Slot.readS_place (x : Slot) {k : SReg} (h : k ≠ 6) : x.readS k = x.regs.readLoc (x.regs.loc k) := by
  have hk : k.toNat ≠ 6 := fun e => h (BitVec.eq_of_toNat_eq e)
  have hl : x.regs.loc k ≠ .portIn := by
    unfold Regs.loc
    cases x.regs.frame <;> dsimp only <;> (repeat' split) <;> simp
  unfold Slot.readS
  split
  · contradiction
  · rfl

/-- The places of a frame of the program: the receive bank and s16 to s23 in its group, the pass bank in the next. -/
theorem Regs.loc_group {r : Regs} (hf : r.frame ≠ .trap) {k : SReg} (h8 : 8 ≤ k.toNat) (h24 : k.toNat < 24) :
    r.loc k = .ring (16 * r.cur.toNat + (k.toNat - 8)) := by
  rw [Regs.loc_eq r k (by rintro rfl; simp at h8) (by rintro rfl; simp at h8) (by rintro rfl; simp at h8), if_neg (by omega), if_neg hf, if_pos h24]

theorem Regs.loc_pass {r : Regs} (hf : r.frame ≠ .trap) {k : SReg} (h8 : 8 ≤ k.toNat) (h16 : k.toNat < 16) :
    r.loc (k + 16) = .ring (16 * (r.cur + 1).toNat + (k.toNat - 8)) := by
  have hk : (k + 16).toNat = k.toNat + 16 := by simp [BitVec.toNat_add]; omega
  have hne : ∀ j : SReg, j.toNat < 8 → k + 16 ≠ j := fun j hj e => by rw [← e] at hj; omega
  rw [Regs.loc_eq r (k + 16) (hne 0 (by decide)) (hne 6 (by decide)) (hne 7 (by decide)), if_neg (by omega), if_neg hf, if_neg (by omega), hk]
  congr 2

/-- s0 to s5 are common to all frames. -/
theorem Regs.readLoc_low {r q : Regs} (hc : q.common = r.common) {k : SReg} (h : k.toNat < 6) : q.readLoc (q.loc k) = r.readLoc (r.loc k) := by
  have hloc : ∀ x : Regs, x.loc k = if k.toNat = 0 then .zero else .common (k.toNat - 1) := fun x => by
    unfold Regs.loc
    dsimp only
    split
    · rfl
    · rw [if_pos (by omega)]
  rw [hloc, hloc]
  split
  · rfl
  · simp only [Regs.readLoc, hc]

/-- A call's callee finds the caller's pass bank in its receive bank, with the link in s15 (R97, R99). -/
theorem Regs.readLoc_callMove {r : Regs} (link : Word) (hf : r.frame = .normal) {k : SReg} (h8 : 8 ≤ k.toNat) (h16 : k.toNat < 16) :
    (r.callMove link).readLoc ((r.callMove link).loc k) = if k = 15 then link else r.readLoc (r.loc (k + 16)) := by
  have hplace : (r.callMove link).loc k = r.loc (k + 16) := by
    rw [Regs.loc_pass (by simp [hf]) h8 h16, Regs.loc_group (by simp [Regs.callMove, hf]) h8 (by omega)]
    simp [Regs.callMove, hf]
  have hread : (r.callMove link).readLoc (r.loc (k + 16)) = (r.writeLoc (r.loc 31) link).readLoc (r.loc (k + 16)) := by
    simp only [Regs.callMove, hf]
    cases r.loc (k + 16) <;> rfl
  rw [hplace, hread]
  split
  · rename_i h
    subst h
    exact Regs.read_write_same r 31 link (by decide) (by decide) (by decide)
  · rename_i h
    refine Regs.read_write_other r link (fun e => h ?_)
    have : k = (31 : SReg) - 16 := by rw [← e]; bv_omega
    exact this

theorem Regs.common_callMove {r : Regs} (link : Word) (hf : r.frame = .normal) : (r.callMove link).common = r.common := by
  have hw : (r.writeLoc (r.loc 31) link).common = r.common := by
    rw [show r.loc 31 = r.loc (15 + 16) from rfl, Regs.loc_pass (by simp [hf]) (by decide) (by decide)]
    rfl
  simpa only [Regs.callMove, hf] using hw

/-- A return's caller finds the callee's receive bank in its pass bank (R97, R99). -/
theorem Regs.readLoc_retMove {r : Regs} (hf : r.frame = .normal) {k : SReg} (h8 : 8 ≤ k.toNat) (h16 : k.toNat < 16) :
    r.retMove.readLoc (r.retMove.loc (k + 16)) = r.readLoc (r.loc k) := by
  rw [Regs.loc_pass (by simp [Regs.retMove, hf]) h8 h16, Regs.loc_group (by simp [hf]) h8 (by omega)]
  simp only [Regs.retMove, hf, Regs.readLoc]
  rw [show r.cur - 1 + 1 = r.cur by bv_omega]

/-- A place of the ring after a run of registers has been replaced (R100). -/
theorem Regs.ring_setRing (r : Regs) (at_ : Nat) (vs : List Word) (i : Nat) (hi : i < 64) :
    (r.setRing at_ vs).ring[i]? = if at_ ≤ i ∧ i < at_ + vs.length then vs[i - at_]? else r.ring[i]? := by
  have hfold : ∀ (vs : List Word) (p : Vector Word 64 × Nat),
      (vs.foldl (fun (p : Vector Word 64 × Nat) v => (p.1.setIfInBounds p.2 v, p.2 + 1)) p).1[i]? =
        if p.2 ≤ i ∧ i < p.2 + vs.length then vs[i - p.2]? else p.1[i]? := by
    intro vs
    induction vs with
    | nil => intro p; simp
    | cons v vs ih =>
      intro p
      rw [List.foldl_cons, ih]
      by_cases hlt : p.2 + 1 ≤ i
      · have hd : i - p.2 = i - (p.2 + 1) + 1 := by omega
        simp only [List.length_cons, hd, List.getElem?_cons_succ, Vector.getElem?_setIfInBounds_ne (show p.2 ≠ i by omega)]
        split <;> rename_i h
        · rw [if_pos (by omega)]
        · rw [if_neg (by omega)]
      · rw [if_neg (by omega)]
        by_cases he : p.2 = i
        · subst he
          simp [hi]
        · rw [if_neg (by omega), Vector.getElem?_setIfInBounds_ne he]
  exact hfold vs (r.ring, at_)

@[simp] theorem Regs.frame_setRing (r : Regs) (at_ : Nat) (vs : List Word) : (r.setRing at_ vs).frame = r.frame := rfl
@[simp] theorem Regs.cur_setRing (r : Regs) (at_ : Nat) (vs : List Word) : (r.setRing at_ vs).cur = r.cur := rfl
@[simp] theorem Regs.older_setRing (r : Regs) (at_ : Nat) (vs : List Word) : (r.setRing at_ vs).older = r.older := rfl
@[simp] theorem Regs.left_setRing (r : Regs) (at_ : Nat) (vs : List Word) : (r.setRing at_ vs).left = r.left := rfl

/-- A register of the current group that a run from its first one replaces. -/
theorem Regs.readLoc_setRing {r : Regs} (hf : r.frame ≠ .trap) (vs : List Word) {k : SReg} (h8 : 8 ≤ k.toNat) (h24 : k.toNat < 24)
    (hk : k.toNat - 8 < vs.length) :
    (r.setRing (16 * r.cur.toNat) vs).readLoc ((r.setRing (16 * r.cur.toNat) vs).loc k) = (vs[k.toNat - 8]?).getD 0 := by
  have hcur := r.cur.isLt
  have hl : (r.setRing (16 * r.cur.toNat) vs).loc k = .ring (16 * r.cur.toNat + (k.toNat - 8)) := Regs.loc_group hf h8 h24
  rw [hl, Regs.readLoc, Regs.ring_setRing _ _ _ _ (by omega), if_pos (by omega), Nat.add_sub_cancel_left]

theorem Slot.regs_freshRing (x : Slot) (s8 : Word) :
    (x.freshRing s8).regs = ({ x.regs with older := 0, left := 0 } : Regs).setRing (16 * x.regs.cur.toNat) (s8 :: List.replicate 7 0) := rfl

theorem Slot.cr_freshRing (x : Slot) (s8 : Word) : (x.freshRing s8).cr = { x.cr with wsp := x.cr.wsb } := rfl

/-- A thread at its one fresh frame: an empty ring whose receive bank is s8 and seven zeros (R49, R50). -/
theorem freshFrame_of_freshRing {x : Slot} {t : State} {s8 : Word} (hf : x.regs.frame = .normal) (hr : t.me.regs = (x.freshRing s8).regs)
    (hc : t.me.cr = (x.freshRing s8).cr) : FreshFrame t s8 := by
  rw [Slot.regs_freshRing] at hr
  rw [Slot.cr_freshRing] at hc
  have hread : ∀ k : SReg, 8 ≤ k.toNat → k.toNat < 16 → t.rs k = ((s8 :: List.replicate 7 0)[k.toNat - 8]?).getD 0 := fun k h8 h16 => by
    rw [State.rs, Slot.readS_place _ (by rintro rfl; simp at h8), hr]
    exact Regs.readLoc_setRing (r := { x.regs with older := 0, left := 0 }) (by simp [hf]) _ h8 (by omega) (by simp; omega)
  refine ⟨by rw [hr]; simp, by rw [hr]; simp, hread 8 (by decide) (by decide), fun k h9 h16 => ?_, by rw [hc]⟩
  rw [hread k (by omega) h16, show k.toNat - 8 = (k.toNat - 9) + 1 by omega, List.getElem?_cons_succ, List.getElem?_replicate_of_lt (by omega)]
  rfl

/-! ### Parts of an instruction that nothing holds up -/

theorem State.portsAfter_open {s : State} {srcs dsts : List SReg} {vsrcs vdsts : List VReg} (h : s.portsOpen srcs dsts vsrcs vdsts = true)
    (first : State → Res Unit) : s.portsAfter srcs dsts vsrcs vdsts first = .ok () s := by
  rw [State.portsAfter, State.ports_open s srcs dsts vsrcs vdsts h]

/-- A fence of a thread with nothing outstanding, whose instruction has not parked, is over at once (R202). -/
theorem State.fenceWait_none {s : State} (ho : s.me.outs = []) (hc : s.me.cont = none) (sc : Nat) : s.fenceWait sc = .ok () s := by
  have hs : s.cont.second = false := (State.cont_none hc).2.2.1
  simp only [State.fenceWait, hs, Bool.false_and, Bool.false_eq_true, if_false, Slot.performedAt, ho, List.all_nil, if_true, hc]

/-- A frame address in the own local store passes its checks (R47). -/
theorem State.frameCheck_own {s : State} {f : Word} {o : Nat} (h : s.Rests) (hf : s.frameAt f o) : s.frameCheck f = .ok () s := by
  have hp := State.precheck_word (a := accOp f 8 (.addWord 0)) h (State.ownWord_frame h.core hf) rfl s.myAgent 2
  obtain ⟨hva, ho, hin, -⟩ := hf
  rw [State.frameCheck, if_neg (by omega), if_neg (by omega), hp]
  rfl

/-- A join word of the own local store is added to (R47, R48). -/
theorem State.joinAdd_own {s : State} {f : Word} {o : Nat} (k : Word) (h : s.Rests) (hw : s.OwnWord f o) (hr : s.cont.redirect = none)
    (hd : s.cont.dog = false) : s.joinAdd f k = .ok () (s.added o k) := by
  obtain ⟨v, hv⟩ := State.ordinary_addWord k h hw hr hd
  rw [State.joinAdd, hv]
  rfl

/-- The same after a check of the window stack that changes nothing (R49). -/
theorem State.joinAfter_own {s : State} {f : Word} {o : Nat} (k : Word) {check : State → Res Unit} (h : s.Rests) (hw : s.OwnWord f o)
    (hr : s.cont.redirect = none) (hd : s.cont.dog = false) (hk : check s = .ok () s) : s.joinAfter f k check = .ok () (s.added o k) := by
  rw [State.joinAfter, State.joinAdd_own k h hw hr hd]
  dsimp only
  rw [hk, Res.bind_ok, State.joinAdd_own k h hw hr hd]

/-! ### Waiting on a word (R51, R165, R228) -/

/-- The issuing thread as the one waiter of the word at an offset of its own local store. -/
def State.alone (s : State) (off : Nat) (onTag onWrite : Bool) : State :=
  { s.setCont { s.cont with redirect := none, second := false, since := none } with
    waiters := [{ seq := s.seq, home := lsHome s.cur.core off, agent := s.myAgent, remote := false, onTag := onTag, onWrite := onWrite, table := false, gate := false }]
    seq := s.seq + 1 }

theorem State.waitWord_own {s : State} {va : Word} {off : Nat} (h : s.Rests) (hw : s.OwnWord va off) (hr : s.cont.redirect = none) (onTag onWrite : Bool)
    (w : Nat → Await) (hn : ∀ x a, w (lsHome s.cur.core off) ≠ .refused x a) :
    s.waitWord s va onTag onWrite w = (w (lsHome s.cur.core off), s.alone off onTag onWrite) := by
  have hhome : s.wordHome va = lsHome s.cur.core off := by simp [State.wordHome, hw.place, hw.wordOf]
  have henter : ∀ c, (s.setCont c).enter s.myAgent s.cur.core s.cur.core (lsHome s.cur.core off) onTag onWrite false (w (lsHome s.cur.core off)) =
      (w (lsHome s.cur.core off), { s.setCont c with
        waiters := [{ seq := s.seq, home := lsHome s.cur.core off, agent := s.myAgent, remote := false, onTag := onTag, onWrite := onWrite, table := false, gate := false }]
        seq := s.seq + 1 }) := fun c => by
    simp [State.enter, hw.wordOf_home, h.waiters]
  simp only [State.waitWord, hr, hhome, h.waiters, List.find?_nil, homeCore_lsHome _ _ hw.inside]
  rw [show ∀ c, (s.setCont c).myAgent = s.myAgent from fun _ => rfl, State.setCont_cur, henter]
  dsimp only
  split
  · rename_i x a hx
    exact absurd hx (hn x a)
  · rfl

theorem State.me_alone (s : State) (off : Nat) (onTag onWrite : Bool) :
    (s.alone off onTag onWrite).me = { s.me with cont := some { s.cont with redirect := none, second := false, since := none } } :=
  State.me_setCont ..

/-- A thread that waits alone has parked with its PC and its registers. -/
theorem State.waits_alone (s : State) (off : Nat) (onTag onWrite : Bool) (w : Await) : Waits s ((s.alone off onTag onWrite).park w) w :=
  State.waits_park w ⟨rfl, rfl⟩ (by rw [State.me_alone]) (by rw [State.me_alone])

end Sys2Proof.Machine
end

section
/-!
PROOFS. SPAWN, RETS, JOIN, STEAL and DQLEN on frames and words of the own local store (03 R46 to R51; 09 R145, R146; 14 R227 to R230).
-/

namespace Sys2Proof.Machine

/-! ### SPAWN (R48, R227) -/

/-- The machine once a SPAWN has offered its continuation to the thieves of its gang, if its deque has room (R48). -/
def State.offered (s : State) (f : Word) : State :=
  if 16 ≤ s.me.deque.length then s else (s.setMe { s.me with deque := s.me.deque ++ [(s.npc, f)] }).wakeThieves s.cur.core s.me.gang

/-- The link of a SPAWN: bit 0 marks a continuation that stands in the deque. -/
def State.spawnLink (s : State) : Word := if 16 ≤ s.me.deque.length then s.npc else s.npc ||| 1

/-- Offering the continuation changes the thread's deque and wakes thieves; nothing else. -/
theorem State.still_offered (s : State) (f : Word) :
    (s.setMe { s.me with deque := if 16 ≤ s.me.deque.length then s.me.deque else s.me.deque ++ [(s.npc, f)] }).Still (s.offered f) := by
  unfold State.offered
  split
  · refine ⟨rfl, rfl, ⟨rfl, rfl⟩, fun u => ?_⟩
    by_cases hu : u = s.cur
    · subst hu; rw [show (s.setMe { s.me with deque := s.me.deque }).slot s.cur = s.me from State.me_setMe ..]; rfl
    · rw [State.slot_setMe_other _ _ hu]
  · exact State.still_wakeThieves ..

theorem State.regs_offered (s : State) (f : Word) : (s.offered f).me.regs = s.me.regs := by
  rw [(State.still_offered s f).regs, State.me_setMe]

theorem State.pc_offered (s : State) (f : Word) : (s.offered f).me.pc = s.me.pc := by
  rw [(State.still_offered s f).pc, State.me_setMe]

theorem State.deque_offered (s : State) (f : Word) :
    (s.offered f).me.deque = if s.me.deque.length < 16 then s.me.deque ++ [(s.npc, f)] else s.me.deque := by
  rw [(State.still_offered s f).deque, State.me_setMe]
  simp only [← Nat.not_lt, ite_not]

theorem State.sameBytes_offered (s : State) (f : Word) : s.SameBytes (s.offered f) :=
  .trans (State.sameBytes_setSlot ..) (State.still_offered s f).bytes

/-- A SPAWN that needs no spill: the join word, the deque, the pops, the move of the ring and the transfer. -/
theorem exec_spawn_own {s : State} {b : SReg} {off : BitVec 27} {o : Nat} (hcalm : s.calm = true) (hp : s.portsOpen [b] [] [] [] = true)
    (hf : s.frameAt (s.rs b) o) (hfit : s.callFits = true) :
    exec (.spawn b off) s = .next (((((s.added o 1).offered (s.rs b)).pops [b] []).setRegs (fun r => r.callMove (s.added o 1).spawnLink)).jump
      (branchTarget s.me.pc off)) := by
  obtain ⟨hrest, hcont, -⟩ := State.rests_of_calm hcalm
  obtain ⟨hredirect, hdog, -, -⟩ := State.cont_none hcont
  simp only [State.callFits, Bool.and_eq_true, beq_iff_eq, decide_eq_true_eq] at hfit
  obtain ⟨hframe, holder⟩ := hfit
  have hblocked : s.me.spillBlocked = false := by simp [Slot.spillBlocked, hframe, Nat.not_le.mpr holder]
  have hspill : s.frameCheckSpill = .ok () s := if_neg (by omega)
  have hjoin := State.joinAfter_own 1 hrest (State.ownWord_frame hrest.core hf) hredirect hdog hspill
  have hregs := State.regs_offered (s.added o 1) (s.rs b)
  have hpc := State.pc_offered (s.added o 1) (s.rs b)
  rw [State.me_added] at hregs hpc
  have hfs : ((s.added o 1).offered (s.rs b)).frameSpill = (s.added o 1).offered (s.rs b) := if_neg (by rw [hregs]; omega)
  simp only [exec_spawn, execSpawn, State.inTrapFrame, hframe, State.portsAfter_open hp, Res.bind_ok, State.frameCheck_own hrest hf, hblocked, hjoin,
    Bool.false_eq_true, if_false, show (Frame.normal == Frame.trap) = false from rfl]
  simp only [State.offered, State.spawnLink, decide_eq_true_eq] at hfs hpc ⊢
  rw [hfs, hpc, Res.finish_ok]

/-- A transfer to an address with bit 0 zero goes to it as it is. -/
theorem and_not_one_of_even {a : Word} (h : a.getLsbD 0 = false) : a &&& ~~~(1 : Word) = a := by
  refine BitVec.eq_of_getLsbD_eq fun i hi => ?_
  rw [BitVec.getLsbD_and, BitVec.getLsbD_not, show (1 : Word) = 1#64 from rfl, BitVec.getLsbD_one]
  rcases Nat.eq_zero_or_pos i with rfl | h0
  · rw [h, Bool.false_and]
  · simp [Nat.ne_of_gt h0, hi]

theorem even_of_append (v : BitVec 63) : (v ++ (0 : BitVec 1)) &&& ~~~(1 : Word) = v ++ (0 : BitVec 1) :=
  and_not_one_of_even (by rw [BitVec.getLsbD_append]; rfl)

theorem branchTarget_even (pc : Word) (off : BitVec 27) : branchTarget pc off &&& ~~~(1 : Word) = branchTarget pc off := even_of_append _

/-- What a call's move of the ring leaves of the registers, for a thread that then takes a transfer. -/
theorem State.rs_callMove {u : State} {link a : Word} (hf : u.me.regs.frame = .normal) {k : SReg} (h8 : 8 ≤ k.toNat) (h16 : k.toNat < 16) :
    ((u.setRegs (fun r => r.callMove link)).jump a).rs k = if k = 15 then link else u.rs (k + 16) := by
  have hne : ∀ j : SReg, 8 ≤ j.toNat → j ≠ 6 := fun j hj e => by subst e; simp at hj
  have hk : 8 ≤ (k + 16).toNat := by simp [BitVec.toNat_add]; omega
  rw [State.rs, State.rs, Slot.readS_place _ (hne k h8), Slot.readS_place _ (hne _ hk), State.me_jump, State.me_setRegs]
  exact Regs.readLoc_callMove link hf h8 h16

theorem State.rs_callMove_low {u : State} {link a : Word} (hf : u.me.regs.frame = .normal) {k : SReg} (h : k.toNat < 6) :
    ((u.setRegs (fun r => r.callMove link)).jump a).rs k = u.rs k := by
  have hne : k ≠ 6 := fun e => by subst e; simp at h
  rw [State.rs, State.rs, Slot.readS_place _ hne, Slot.readS_place _ hne, State.me_jump, State.me_setRegs]
  exact Regs.readLoc_low (Regs.common_callMove link hf) h

/-- Registers other than the upstream port read alike in slots with the same registers. -/
theorem State.rs_congr {s t : State} (h : t.me.regs = s.me.regs) {k : SReg} (hk : k ≠ 6) : t.rs k = s.rs k := by
  rw [State.rs, State.rs, Slot.readS_place _ hk, Slot.readS_place _ hk, h]

theorem spawn_own {s : State} {b : SReg} {off : BitVec 27} {o : Nat} (hcalm : s.calm = true) (hp : s.portsOpen [b] [] [] [] = true)
    (hf : s.frameAt (s.rs b) o) (hfit : s.callFits = true) :
    ∃ t, exec (.spawn b off) s = .next t ∧ t.me.pc = branchTarget s.me.pc off ∧
      t.mem = Memory.writeN s.mem (lsHome s.cur.core o) ((s.bytesAt o 8 + 1) % 2 ^ 64) 255 8 ∧
      t.me.deque = (if s.me.deque.length < 16 then s.me.deque ++ [(s.npc, s.rs b)] else s.me.deque) ∧
      t.rs 15 = (if s.me.deque.length < 16 then s.npc ||| 1 else s.npc) ∧ (∀ k : SReg, 8 ≤ k.toNat → k.toNat < 15 → t.rs k = s.rs (k + 16)) ∧
      (∀ k : SReg, k.toNat < 6 → t.rs k = s.rs k) ∧ t.me.regs.older = s.me.regs.older + 1 ∧ t.tags = s.tags := by
  have hframe : s.me.regs.frame = .normal := by
    simp only [State.callFits, Bool.and_eq_true, beq_iff_eq] at hfit
    exact hfit.1
  refine ⟨_, exec_spawn_own hcalm hp hf hfit, ?_⟩
  have hstill := State.still_pops ((s.added o 1).offered (s.rs b)) [b]
  generalize ((s.added o 1).offered (s.rs b)).pops [b] [] = u at hstill ⊢
  have hregs : u.me.regs = s.me.regs := by rw [hstill.regs, State.regs_offered, State.me_added]
  have hdeque : u.me.deque = if s.me.deque.length < 16 then s.me.deque ++ [(s.npc, s.rs b)] else s.me.deque := by
    rw [hstill.deque, State.deque_offered, State.me_added, State.npc_added]
  have huf : u.me.regs.frame = .normal := by rw [hregs, hframe]
  obtain ⟨hmem, htags⟩ := (State.sameBytes_offered (s.added o 1) (s.rs b)).trans hstill.bytes
  refine ⟨?_, ?_, ?_, ?_, fun k h8 h15 => ?_, fun k h => ?_, ?_, ?_⟩
  · rw [State.me_jump]; exact branchTarget_even ..
  · rw [State.jump_mem, State.mem_setRegs, hmem, State.mem_added, State.memAdded_eq (n := 1) s o rfl]
  · rw [State.me_jump, State.me_setRegs]; exact hdeque
  · rw [State.rs_callMove huf (by decide) (by decide), if_pos rfl, State.spawnLink, State.me_added, State.npc_added]
    simp only [← Nat.not_lt, ite_not]
  · rw [State.rs_callMove huf h8 (by omega), if_neg (by rintro rfl; simp at h15)]
    exact State.rs_congr hregs (fun e => by have := congrArg BitVec.toNat e; simp [BitVec.toNat_add] at this; omega)
  · rw [State.rs_callMove_low huf h]
    exact State.rs_congr hregs (fun e => by subst e; simp at h)
  · rw [State.me_jump, State.me_setRegs]
    simp only [Regs.callMove, hregs, hframe]
  · rw [State.jump_tags, State.tags_setRegs, htags, State.tags_added]

/-! ### RETS (R49, R146) -/

/-- The machine once the fence of a RETS is over (R146). -/
def State.fenced (s : State) : State := s.setCont { s.cont with step := 1 }

/-- The machine once a RETS has taken one from the join word at an offset of the own local store. -/
def State.joined (s : State) (o : Nat) : State := s.fenced.added o (-1)

theorem State.me_fenced (s : State) : s.fenced.me = { s.me with cont := some { s.cont with step := 1 } } := State.me_setCont ..

theorem State.me_joined (s : State) (o : Nat) : (s.joined o).me = { s.me with cont := some { s.cont with step := 1 } } := by
  rw [State.joined, State.me_added, State.me_fenced]

theorem State.mem_joined (s : State) (o : Nat) :
    (s.joined o).mem = Memory.writeN s.mem (lsHome s.cur.core o) ((s.bytesAt o 8 + (2 ^ 64 - 1)) % 2 ^ 64) 255 8 := by
  rw [State.joined, State.mem_added, State.memAdded_eq (n := 2 ^ 64 - 1) _ o (by decide)]
  rfl

/-- The last part of a RETS: back to the parent by the link or by the youngest continuation, or, when that was stolen, to the worker loop. -/
def State.leaveChild (s : State) (f : SReg) (link : Word) : Res Unit :=
  let ret (s : State) (t : Word) : Res Unit := .ok () (((s.retWords.pops [f] []).setRegs Regs.retMove).jump t)
  if !link.getLsbD 0 then ret s link
  else
    match s.me.deque.getLast? with
    | some r => ret (s.setMe { s.me with deque := s.me.deque.dropLast }) r.1
    | none =>
      let s5 := s.pops [f] []
      let s6 := s5.setMe (s5.me.freshRing 0)
      if s5.me.cr.wloop == 0 then .done ((s6.setMe { s6.me with cont := none }).takeTrap s6.cur (trapOf 10 0 0) 0 s5.me.pc true false)
      else .ok () (s6.jump (s5.me.cr.wloop ++ (0 : BitVec 1)))

/-- A RETS whose frame is in the own local store and that needs no fill. -/
theorem exec_rets_own {s : State} {f : SReg} {o : Nat} (hcalm : s.calm = true) (hp : s.portsOpen [f] [] [] [] = true) (hf : s.frameAt (s.rs f) o)
    (hframe : s.me.regs.frame = .normal) (h : ((s.rs 15).getLsbD 0 && s.me.deque.isEmpty) = true ∨ 0 < s.me.regs.older) :
    exec (.rets f) s = ((s.joined o).leaveChild f (s.rs 15)).finish := by
  obtain ⟨hrest, hcont, -⟩ := State.rests_of_calm hcalm
  obtain ⟨hredirect, hdog, -, hstep⟩ := State.cont_none hcont
  have hblocked : (!((s.rs 15).getLsbD 0 && s.me.deque.isEmpty) && s.me.fillBlocked) = false := by
    rcases h with h | h
    · rw [h]; rfl
    · simp [Slot.fillBlocked, Nat.ne_of_gt h]
  have hcheck : (if ((s.rs 15).getLsbD 0 && s.fenced.me.deque.isEmpty) = true then .ok () s.fenced else s.fenced.retCheck : Res Unit) = .ok () s.fenced := by
    rw [State.me_fenced]
    split
    · rfl
    · rename_i hn
      refine if_neg ?_
      rw [State.me_fenced]
      simp [Slot.retFills, Nat.ne_of_gt (h.resolve_left hn)]
  have hfenced : s.fenced.cont = { s.cont with step := 1 } := State.cont_setCont ..
  have hjoin : s.fenced.joinAfter (s.rs f) (-1) (fun v => if ((s.rs 15).getLsbD 0 && v.me.deque.isEmpty) = true then .ok () v else v.retCheck) =
      .ok () (s.joined o) :=
    State.joinAfter_own (-1) (hrest.setCont _) ((State.ownWord_frame hrest.core hf).setCont _) (by rw [hfenced]; exact hredirect)
      (by rw [hfenced]; exact hdog) hcheck
  simp only [exec_rets, execRets, State.inTrapFrame, hframe, State.portsAfter_open hp, Res.bind_ok, State.frameCheck_own hrest hf, hblocked, hstep,
    State.fenceWait_none hrest.outs hcont, Bool.false_eq_true, if_false, show (Frame.normal == Frame.trap) = false from rfl,
    show ((0 : Nat) == 1) = false from rfl]
  rw [← State.fenced, hjoin]
  rfl

/-- A return to a resident frame: it goes to its target, its caller finds the callee's receive bank in its pass bank, and nothing but the ports, the ring
and the place of the thread changes. -/
theorem State.returns {u : State} (f : SReg) (a : Word) (hf : u.me.regs.frame = .normal) (ho : 0 < u.me.regs.older) :
    let t := ((u.retWords.pops [f] []).setRegs Regs.retMove).jump a
    t.me.pc = a &&& ~~~(1 : Word) ∧ Returned u t ∧ t.mem = u.mem ∧ t.me.deque = u.me.deque := by
  intro t
  have hwords : u.retWords = u := if_neg (by simp [Slot.retFills, Nat.ne_of_gt ho])
  have hstill := State.still_pops u [f]
  rw [← hwords] at hstill
  have hme : t.me.regs = u.me.regs.retMove := by
    rw [State.me_jump, State.me_setRegs, hstill.regs, hwords]
  have hread : ∀ k : SReg, k ≠ 6 → t.rs k = u.me.regs.retMove.readLoc (u.me.regs.retMove.loc k) := fun k hk => by
    rw [State.rs, Slot.readS_place _ hk, hme]
  refine ⟨by rw [State.me_jump], ⟨fun k h8 h16 => ?_, fun k h => ?_, ?_, ?_⟩, ?_, ?_⟩
  · have hk : (k + 16).toNat = k.toNat + 16 := by simp [BitVec.toNat_add]; omega
    rw [hread _ (by rintro e; rw [e] at hk; simp at hk), Regs.readLoc_retMove hf h8 h16, State.rs, Slot.readS_place _ (by rintro rfl; simp at h8)]
  · have hne : k ≠ 6 := by rintro rfl; simp at h
    rw [hread k hne, State.rs, Slot.readS_place _ hne]
    exact Regs.readLoc_low (by simp only [Regs.retMove, hf]) h
  · rw [hme]
    simp only [Regs.retMove, hf]
    omega
  · rw [hme]
    simp only [Regs.retMove, hf]
  · rw [State.jump_mem, State.mem_setRegs, hstill.bytes.1, hwords]
  · rw [State.me_jump, State.me_setRegs]
    exact hstill.deque.trans (by rw [hwords])

/-- A return is seen alike from two states with the same registers. -/
theorem Returned.congr {s u t : State} (h : u.me.regs = s.me.regs) (hr : Returned u t) : Returned s t := by
  obtain ⟨hbank, hlow, holder, hvec⟩ := hr
  refine ⟨fun k h8 h16 => ?_, fun k hk => ?_, by rw [holder, h], by rw [hvec, h]⟩
  · rw [hbank k h8 h16]; exact State.rs_congr h (by rintro rfl; simp at h8)
  · rw [hlow k hk]; exact State.rs_congr h (by rintro rfl; simp at hk)

/-- A RETS whose link names no continuation returns by it. -/
theorem rets_link {s : State} {f : SReg} {o : Nat} (hcalm : s.calm = true) (hp : s.portsOpen [f] [] [] [] = true) (hf : s.frameAt (s.rs f) o)
    (hframe : s.me.regs.frame = .normal) (hlink : (s.rs 15).getLsbD 0 = false) (ho : 0 < s.me.regs.older) :
    ∃ t, exec (.rets f) s = .next t ∧ t.me.pc = s.rs 15 ∧ Returned s t ∧ t.mem = (s.joined o).mem ∧ t.me.deque = s.me.deque := by
  have hme := State.me_joined s o
  have hregs : (s.joined o).me.regs = s.me.regs := by rw [hme]
  obtain ⟨hpc, hret, hmem, hdeque⟩ := State.returns (u := s.joined o) f (s.rs 15) (by rw [hregs, hframe]) (by rw [hregs]; exact ho)
  refine ⟨_, ?_, hpc.trans (and_not_one_of_even hlink), hret.congr hregs, hmem, hdeque.trans (by rw [hme])⟩
  rw [exec_rets_own hcalm hp hf hframe (.inr ho)]
  simp only [State.leaveChild, hlink, Bool.not_false, if_true, Res.finish_ok]

/-- A RETS whose continuation is still in the deque takes the youngest one back and goes on with it. -/
theorem rets_continuation {s : State} {f : SReg} {o : Nat} (hcalm : s.calm = true) (hp : s.portsOpen [f] [] [] [] = true) (hf : s.frameAt (s.rs f) o)
    (hframe : s.me.regs.frame = .normal) {ds : List (Word × Word)} {r : Word × Word} (hlink : (s.rs 15).getLsbD 0 = true) (ho : 0 < s.me.regs.older)
    (hd : s.me.deque = ds ++ [r]) :
    ∃ t, exec (.rets f) s = .next t ∧ t.me.pc = r.1 &&& ~~~(1 : Word) ∧ Returned s t ∧ t.mem = (s.joined o).mem ∧ t.me.deque = ds := by
  have hme := State.me_joined s o
  have hdeque : (s.joined o).me.deque = ds ++ [r] := by rw [hme]; exact hd
  have hregs : ((s.joined o).setMe { (s.joined o).me with deque := ds }).me.regs = s.me.regs := by rw [State.me_setMe, hme]
  obtain ⟨hpc, hret, hmem, hdq⟩ := State.returns (u := (s.joined o).setMe { (s.joined o).me with deque := ds }) f r.1 (by rw [hregs, hframe])
    (by rw [hregs]; exact ho)
  refine ⟨_, ?_, hpc, hret.congr hregs, hmem.trans (State.setMe_mem ..), hdq.trans (by rw [State.me_setMe])⟩
  rw [exec_rets_own hcalm hp hf hframe (.inr ho)]
  simp only [State.leaveChild, hlink, hdeque, Bool.not_true, Bool.false_eq_true, if_false, List.getLast?_concat, List.dropLast_concat, Res.finish_ok]

/-- A RETS whose continuation was stolen goes to the worker loop, with one fresh frame. -/
theorem rets_stolen {s : State} {f : SReg} {o : Nat} (hcalm : s.calm = true) (hp : s.portsOpen [f] [] [] [] = true) (hf : s.frameAt (s.rs f) o)
    (hframe : s.me.regs.frame = .normal) (hlink : (s.rs 15).getLsbD 0 = true) (hd : s.me.deque = []) (hw : s.me.cr.wloop ≠ 0) :
    ∃ t, exec (.rets f) s = .next t ∧ t.me.pc = BitVec.ofNat 64 (2 * s.me.cr.wloop.toNat) ∧ FreshFrame t 0 ∧ t.mem = (s.joined o).mem := by
  have hme := State.me_joined s o
  have hdeque : (s.joined o).me.deque = [] := by rw [hme]; exact hd
  have hstill := State.still_pops (s.joined o) [f]
  have hex := exec_rets_own hcalm hp hf hframe (.inl (by rw [hlink, hd]; rfl))
  simp only [State.leaveChild, hlink, hdeque, Bool.not_true, Bool.false_eq_true, if_false, List.getLast?_nil] at hex
  generalize (s.joined o).pops [f] [] = u at hex hstill
  have hloop : u.me.cr.wloop = s.me.cr.wloop := by rw [hstill.cr, hme]
  have huf : u.me.regs.frame = .normal := by rw [hstill.regs, hme]; exact hframe
  rw [if_neg (by rw [hloop]; simpa using hw), Res.finish_ok, hloop] at hex
  refine ⟨_, hex, ?_, freshFrame_of_freshRing huf ?_ ?_, ?_⟩
  · rw [State.me_jump, even_of_append]
    have hlt := s.me.cr.wloop.isLt
    refine BitVec.eq_of_toNat_eq ((BitVec.toNat_append s.me.cr.wloop (0 : BitVec 1)).trans ?_)
    simp [Nat.shiftLeft_eq]
    omega
  · rw [State.me_jump, State.me_setMe]
  · rw [State.me_jump, State.me_setMe]
  · rw [State.jump_mem, State.setMe_mem]
    exact hstill.bytes.1

/-! ### JOIN (R51, R228) -/

/-- A number that fits is zero as a bit vector when it is zero. -/
theorem ofNat_beq_zero {k w n : Nat} (hn : n < 2 ^ k) (hk : k ≤ w) : (BitVec.ofNat w n == 0) = decide (n = 0) := by
  have hlt : n < 2 ^ w := Nat.lt_of_lt_of_le hn (Nat.pow_le_pow_right (by decide) hk)
  rw [Bool.eq_iff_iff, beq_iff_eq, decide_eq_true_eq, ← BitVec.toNat_inj, BitVec.toNat_ofNat, Nat.mod_eq_of_lt hlt]
  simp

/-- What a JOIN does with the word that it reads: it completes on zero and waits for a write of any other. -/
theorem exec_joinWord_own {s : State} {b : SReg} {o : Nat} (hcalm : s.calm = true) (hp : s.portsOpen [b] [] [] [] = true) (hf : s.frameAt (s.rs b) o) :
    exec (.joinWord b) s = .next (if s.bytesAt o 8 = 0 then s.doneS [b] else (s.alone o false true).park (.join (lsHome s.cur.core o))) := by
  obtain ⟨hrest, hcont, -⟩ := State.rests_of_calm hcalm
  obtain ⟨hredirect, hdog, -, -⟩ := State.cont_none hcont
  have hw := State.ownWord_frame hrest.core hf
  simp only [exec_joinWord, execJoinWord, State.ports_open _ _ _ _ _ hp, Res.bind_ok, State.frameCheck_own hrest hf]
  rw [State.ordinary_readWord hrest hw hredirect hdog, State.readN_own, Res.bind_ok, ofNat_beq_zero (State.bytesAt_lt s o) (by decide),
    State.waitWord_own hrest hw hredirect false true .join (by simp)]
  by_cases hz : s.bytesAt o 8 = 0
  · simp only [hz, decide_true, if_true, Res.finish_ok]
  · simp only [hz, decide_false, Bool.false_eq_true, if_false, Res.finish_park]

/-! ### STEAL (R50, R229) -/

theorem State.memPorts_open {s : State} {srcs dsts : List SReg} {vsrcs vdsts : List VReg} (h : s.portsOpen srcs dsts vsrcs vdsts = true) (addr : List SReg)
    (vaddr : List VReg) (rx multi : Bool) (accs : State → List (Nat × Acc)) : s.memPorts srcs dsts vsrcs vdsts addr vaddr rx multi accs = .ok () s :=
  State.portsAfter_open h _

/-- A thief does not search its own slot. -/
theorem not_mem_stealOrder (t : Tid) : t ∉ stealOrder t := by
  intro h
  simp only [stealOrder, List.mem_append, List.mem_map, List.mem_flatMap] at h
  rcases h with ⟨i, hi, he⟩ | ⟨k, hk, j, -, he⟩
  · have hs := congrArg Tid.slot he
    have : ∀ i ∈ ([1, 2, 3, 4, 5, 6, 7] : List (BitVec 3)), ∀ k : BitVec 3, k + i ≠ k := by decide
    exact this i hi _ hs
  · have hc := congrArg Tid.core he
    simp only [quadOf] at hc
    simp only [List.mem_cons, List.not_mem_nil, or_false] at hk
    omega

/-- The thread that a thief takes from: of its gang, with a continuation in its deque. -/
def State.robbable (s : State) (u : Tid) : Bool := (s.slot u).gang == s.me.gang && !(s.slot u).deque.isEmpty

/-- The state in which a thief has taken the oldest continuation of thread u, whose deque is left as rs. -/
def State.robbed (s : State) (u : Tid) (rs : List (Word × Word)) : State := (s.unwait s.cur).setSlot u { s.slot u with deque := rs }

theorem State.cur_robbed (s : State) (u : Tid) (rs : List (Word × Word)) : (s.robbed u rs).cur = s.cur := rfl

theorem State.me_robbed {s : State} {u : Tid} (hne : u ≠ s.cur) (rs : List (Word × Word)) : (s.robbed u rs).me = s.me :=
  State.slot_setSlot_other _ _ (Ne.symm hne)

theorem State.slot_robbed (s : State) (u : Tid) (rs : List (Word × Word)) : (s.robbed u rs).slot u = { s.slot u with deque := rs } :=
  State.slot_setSlot_same ..

theorem State.mem_robbed (s : State) (u : Tid) (rs : List (Word × Word)) : (s.robbed u rs).mem = s.mem := by
  rw [State.robbed, State.setSlot_mem, State.unwait_mem]

/-- A thread that starts a continuation with one fresh frame, whose frame address is f. -/
def State.started (s : State) (pc f : Word) : State := ((s.setMe (s.me.dropReceive.freshRing f)).trace 2 0 s.me.pc pc).goto pc

theorem exec_steal_taken {s : State} {d : SReg} {k : BitVec 3} {u : Tid} {r : Word × Word} {rs : List (Word × Word)}
    (hp : s.portsOpen [0] [d] [] [] = true) (hf : s.me.regs.frame = .normal) (hu : (stealOrder s.cur).find? s.robbable = some u)
    (hd : (s.slot u).deque = r :: rs) : exec (.steal d 0 k) s = .next ((s.robbed u rs).started r.1 r.2) := by
  unfold State.robbable at hu
  simp only [exec_steal, execSteal, State.inTrapFrame, hf, show (Frame.normal == Frame.trap) = false from rfl, Bool.false_eq_true, if_false,
    State.memPorts_open hp, Res.bind_ok, beq_self_eq_true, if_true, hu, hd, List.headD_cons, List.tail_cons,
    State.pops_noPorts _ [(0 : SReg)] (by decide), Res.finish_ok, State.started, State.robbed]

/-- A thief takes the oldest continuation of the first deque of its gang that has one, and starts it with one fresh frame. -/
theorem steal_taken {s : State} {d : SReg} {k : BitVec 3} {u : Tid} {r : Word × Word} {rs : List (Word × Word)} (hp : s.portsOpen [0] [d] [] [] = true)
    (hf : s.me.regs.frame = .normal) (hu : (stealOrder s.cur).find? s.robbable = some u) (hd : (s.slot u).deque = r :: rs) :
    ∃ t, exec (.steal d 0 k) s = .next t ∧ t.me.pc = r.1 ∧ FreshFrame t r.2 ∧ (t.slot u).deque = rs ∧ t.mem = s.mem := by
  have hmem := List.mem_of_find?_eq_some hu
  have hne : u ≠ s.cur := fun e => not_mem_stealOrder s.cur (by rwa [e] at hmem)
  refine ⟨_, exec_steal_taken hp hf hu hd, ?_, freshFrame_of_freshRing (x := (s.robbed u rs).me.dropReceive) ?_ ?_ ?_, ?_, ?_⟩
  · rw [State.started, State.me_goto]
  · rw [State.me_robbed hne]; exact hf
  · rw [State.started, State.me_goto, State.me_trace, State.me_setMe]
  · rw [State.started, State.me_goto, State.me_trace, State.me_setMe]
  · have hslot : ((s.robbed u rs).started r.1 r.2).slot u = (s.robbed u rs).slot u :=
      (State.slot_setSlot_other _ _ hne).trans ((State.slot_trace ..).trans (State.slot_setSlot_other _ _ hne))
    rw [hslot, State.slot_robbed]
  · rw [State.started, State.goto_mem, State.trace_mem, State.setMe_mem, State.mem_robbed]

/-- A thief that finds nothing and names no quit word waits. -/
theorem steal_waits {s : State} {d : SReg} {k : BitVec 3} (hp : s.portsOpen [0] [d] [] [] = true) (hf : s.me.regs.frame = .normal)
    (hu : (stealOrder s.cur).find? s.robbable = none) : ∃ t, exec (.steal d 0 k) s = .next t ∧ Waits s t (.steal none none) := by
  refine ⟨_, ?_, State.waits_park _ (.refl s) rfl rfl⟩
  unfold State.robbable at hu
  simp only [exec_steal, execSteal, State.inTrapFrame, hf, show (Frame.normal == Frame.trap) = false from rfl, Bool.false_eq_true, if_false,
    State.memPorts_open hp, Res.bind_ok, beq_self_eq_true, if_true, hu, Res.finish_park]

/-- Two numbers of a width differ in a wider one as they differ in their own. -/
theorem ofNat_toNat_bne_setWidth {v w : Nat} (h : v ≤ w) (a b : BitVec v) : (BitVec.ofNat w a.toNat != b.setWidth w) = decide (a ≠ b) := by
  have hlt : ∀ x : BitVec v, x.toNat < 2 ^ w := fun x => Nat.lt_of_lt_of_le x.isLt (Nat.pow_le_pow_right (by decide) h)
  have hinj : BitVec.ofNat w a.toNat = b.setWidth w ↔ a = b := by
    rw [← BitVec.toNat_inj, BitVec.toNat_ofNat, BitVec.toNat_setWidth, Nat.mod_eq_of_lt (hlt a), Nat.mod_eq_of_lt (hlt b), BitVec.toNat_inj]
  rw [Bool.eq_iff_iff, bne_iff_ne, decide_eq_true_eq, ne_eq, ne_eq, hinj]

/-- What a thief that finds nothing does with the tag of its quit word in the own local store: it completes with 0 on another tag than the one it names,
and waits for a change of that one. -/
theorem exec_steal_quit {s : State} {d b : SReg} {k : BitVec 3} (hcalm : s.calm = true) (hb : b ≠ 0) (hp : s.portsOpen [b] [d] [] [] = true)
    (hf : s.me.regs.frame = .normal) (hu : (stealOrder s.cur).find? s.robbable = none) (ha : (s.rs b).toNat % 8 = 0) (ho : s.owns (s.rs b) 8 = true) :
    exec (.steal d b k) s = .next (if s.tag (lsHome s.cur.core (s.rs b).toNat) ≠ k then s.setS [b] d 0
      else (s.alone (s.rs b).toNat true false).park (.steal (some (lsHome s.cur.core (s.rs b).toNat)) none)) := by
  obtain ⟨hrest, hcont, -⟩ := State.rests_of_calm hcalm
  obtain ⟨hredirect, hdog, -, -⟩ := State.cont_none hcont
  have hw := State.ownWord_own ha ho
  have hls : s.lsWord (s.rs b) = .ok () s := by
    rw [State.lsWord, State.precheck_word (a := accOp (s.rs b) 8 .tagRead) hrest hw rfl]
    rfl
  have hb0 : (b == 0) = false := by simpa using hb
  unfold State.robbable at hu
  simp only [exec_steal, execSteal, State.inTrapFrame, hf, show (Frame.normal == Frame.trap) = false from rfl, Bool.false_eq_true, if_false,
    State.memPorts_open hp, Res.bind_ok, hb0, hls, hu]
  rw [State.ordinary_tagWord hrest hw hredirect hdog, Res.bind_ok, ofNat_toNat_bne_setWidth (by decide),
    State.waitWord_own hrest hw hredirect true false (fun h => .steal (some h) none) (by simp)]
  by_cases hk : s.tag (lsHome s.cur.core (s.rs b).toNat) ≠ k
  · rw [decide_eq_true hk, if_pos rfl, if_pos hk, Res.finish_ok]
  · rw [decide_eq_false hk, if_neg Bool.false_ne_true, if_neg hk, Res.finish_park]

end Sys2Proof.Machine
end

section
/-!
PROOFS. EXIT (09 R145; 03 R45) with nothing under way: the slot of the thread is EMPTY after it. What follows the emptying of the slot, up to the end of the gang, changes no
byte and no tag and fills no slot.
-/

namespace Sys2Proof.Machine

/-- A slot whose thread has left, with no blank. -/
def Slot.Gone (x : Slot) : Prop := x.st = .empty ∧ x.blanks = []

/-- A part of the machine's work that changes no byte and no tag, and leaves slot u gone when it was. -/
structure State.Quits (u : Tid) (s t : State) : Prop where
  cur : t.cur = s.cur
  bytes : s.SameBytes t
  gone : (s.slot u).Gone → (t.slot u).Gone

variable {u : Tid}

theorem State.Quits.refl (s : State) : s.Quits u s := ⟨rfl, .refl s, id⟩

theorem State.Quits.trans {s t v : State} (h : s.Quits u t) (k : t.Quits u v) : s.Quits u v :=
  ⟨k.cur.trans h.cur, h.bytes.trans k.bytes, k.gone ∘ h.gone⟩

theorem State.quits_ite {s t v : State} (c : Prop) [Decidable c] (h : s.Quits u t) (k : s.Quits u v) : s.Quits u (if c then t else v) := by
  split <;> assumption

theorem State.quits_foldl {β : Type} (f : State → β → State) (hf : ∀ (v : State) (b : β), v.Quits u (f v b)) (bs : List β) (s : State) :
    s.Quits u (bs.foldl f s) :=
  State.foldl_keeps (p := s.Quits u) f (fun _ b h => h.trans (hf _ b)) bs (.refl s)

theorem State.quits_of_slots {s t : State} (hcur : t.cur = s.cur) (hb : s.SameBytes t) (hs : ∀ v, t.slot v = s.slot v) : s.Quits u t :=
  ⟨hcur, hb, fun h => by rwa [hs]⟩

theorem State.quits_setCore (s : State) (n : Nat) (c : Core) (h : c.slots = (s.core n).slots) : s.Quits u (s.setCore n c) :=
  State.quits_of_slots rfl ⟨rfl, rfl⟩ (State.slot_setCore s n c h)

theorem State.quits_setSlot (s : State) (v : Tid) (x : Slot) (h : (s.slot v).Gone → x.Gone) : s.Quits u (s.setSlot v x) := by
  refine ⟨rfl, ⟨rfl, rfl⟩, fun hu => ?_⟩
  by_cases hv : u = v
  · subst hv; rw [State.slot_setSlot_same]; exact h hu
  · rwa [State.slot_setSlot_other _ _ hv]

theorem State.quits_post (s : State) (e : Event) : s.Quits u (s.post e) :=
  State.quits_of_slots (by simp) (State.sameBytes_post s e) (State.slot_of_cores (by simp) (by simp) (by simp))

theorem State.quits_rouse (s : State) (n : Nat) : s.Quits u (s.rouse n) := by
  unfold State.rouse
  exact State.quits_ite _ (State.quits_post ..) (State.quits_ite _ (.refl s) (State.quits_setCore _ _ _ rfl))

theorem State.quits_urge (s : State) (t : Tid) (g : Bool) : s.Quits u (s.urge t g) := by
  unfold State.urge
  exact State.quits_ite _ (.refl s) (State.quits_of_slots rfl ⟨rfl, rfl⟩ (fun _ => rfl))

/-- A wake finds no thread in a slot that is gone. -/
theorem State.quits_wake (s : State) (t : Tid) : s.Quits u (s.wake t) := by
  unfold State.wake
  dsimp only
  split
  next hst => exact ((State.quits_setSlot _ _ _ (fun h => by simp [h.1] at hst)).trans (State.quits_rouse ..)).trans (State.quits_urge ..)
  next hst => exact ((State.quits_setSlot _ _ _ (fun h => by simp [h.1] at hst)).trans (State.quits_rouse ..)).trans (State.quits_urge ..)
  next => exact .refl s

theorem State.quits_wakeCore (s : State) (n : Nat) (p : Await → Bool) : s.Quits u (s.wakeCore n p) := by
  unfold State.wakeCore
  exact State.quits_foldl _ (fun v _ => State.quits_ite _ (State.quits_wake ..) (.refl v)) _ s

theorem State.quits_settle (s : State) (ag : Agent) : s.Quits u (s.settle ag) := by
  unfold State.settle
  split
  · refine .trans (State.quits_foldl _ (fun v p => ?_) _ s) (State.quits_of_slots rfl ⟨rfl, rfl⟩ (fun _ => rfl))
    exact State.quits_setSlot _ _ _ id
  · exact .refl s

theorem State.quits_traceIssue (s : State) (t : Tid) (kind code : Nat) (pc ta : Word) : s.Quits u (s.traceIssue t kind code pc ta) :=
  State.quits_setCore _ _ _ (Core.slots_traceRec ..)

theorem State.quits_releaseGrant (s : State) (n : Nat) : s.Quits u (s.releaseGrant n) := by
  unfold State.releaseGrant
  dsimp only
  split
  · exact State.quits_setCore _ _ _ rfl
  · refine .trans ?_ (State.quits_wake ..)
    exact State.quits_setCore _ _ _ rfl

theorem State.quits_releaseClaims (s : State) (t : Tid) : s.Quits u (s.releaseClaims t) := by
  unfold State.releaseClaims
  refine State.quits_foldl _ (fun v m => State.quits_foldl _ (fun w k => ?_) _ v) _ s
  exact State.quits_ite _ (State.quits_setSlot _ _ _ id) (.refl w)

theorem State.quits_wakeProducers (s : State) (t : Tid) : s.Quits u (s.wakeProducers t) := by
  unfold State.wakeProducers
  refine State.quits_foldl _ (fun v m => State.quits_foldl _ (fun w k => ?_) _ v) _ s
  exact State.quits_ite _ (State.quits_wake ..) (.refl w)

theorem State.quits_postFull (s : State) : s.Quits u s.postFull := by
  unfold State.postFull
  refine State.quits_foldl _ (fun v k => ?_) _ s
  split
  · exact State.quits_ite _ (State.quits_post ..) (.refl v)
  · exact .refl v

theorem State.quits_exitRounds (s : State) (l : Option Launch) : s.Quits u (s.exitRounds l) := by
  cases l with
  | none => exact State.quits_postFull s
  | some l =>
    refine State.quits_ite _ (.trans ?_ (State.quits_postFull _)) (State.quits_postFull s)
    exact State.quits_of_slots rfl ⟨rfl, rfl⟩ (fun _ => rfl)

/-- The slots that a gang frees are gone. -/
theorem State.quits_freePlace (s : State) (g : Nat) (p : GangCore) : s.Quits u (s.freePlace g p) := by
  unfold State.freePlace
  dsimp only
  refine .trans ?_ (State.quits_wakeCore ..)
  refine .trans ?_ (State.quits_setCore _ _ _ rfl)
  refine .trans ?_ (State.quits_foldl _ (fun v k => ?_) _ _)
  · have hq := State.quits_setCore (u := u) s p.core { s.core p.core with grantq := (s.core p.core).grantq.filter (fun k => !p.slots.contains k) } rfl
    exact State.quits_ite _ (hq.trans (State.quits_releaseGrant ..)) hq
  · exact (State.quits_releaseClaims ..).trans (State.quits_setSlot _ _ _ (fun _ => ⟨rfl, rfl⟩))

theorem State.quits_endGang (s : State) (id : Nat) : s.Quits u (s.endGang id) := by
  unfold State.endGang
  split
  next => exact .refl s
  next g _ =>
    dsimp only
    generalize hw : List.foldl _ _ g.places = w
    have hq : s.Quits u w := by
      rw [← hw]
      refine .trans ?_ (State.quits_foldl _ (fun v p => State.quits_freePlace v id p) _ _)
      exact State.quits_of_slots rfl ⟨rfl, rfl⟩ (fun _ => rfl)
    refine hq.trans (.trans ?_ (State.quits_post ..))
    refine .trans ?_ (State.quits_post ..)
    refine .trans ?_ (State.quits_exitRounds ..)
    exact State.quits_of_slots rfl ⟨rfl, rfl⟩ (fun _ => rfl)

/-! ### A thread leaves its slot in three parts: before the slot is emptied, the emptying, and what follows from it -/

/-- The forcing of a thread that leaves is settled, its exit traced, and its matrix grant passed on. -/
def State.ungranted (s : State) (t : Tid) : State :=
  let s1 := s.settle (.thread t)
  let x := s1.slot t
  let s2 := s1.traceIssue t 8 1 x.pc (BitVec.ofNat 64 (((s1.gang x.gang).map (·.linear)).getD 0))
  if (s2.core t.core).grant == some t.slot then s2.releaseGrant t.core else s2

def State.emptied (s : State) (t : Tid) : State :=
  let y := s.slot t
  s.setSlot t { y with st := .empty, await := .none, cont := none, blanks := [], lates := [], notice := 0, mode := false }

/-- The claims of thread t are released, its producers and the rounds of its launch go on, and its gang g ends when it was the last. -/
def State.released (s : State) (t : Tid) (g : Nat) (l : Option Launch) : State :=
  let s1 := ((s.releaseClaims t).wakeProducers t).exitRounds l
  if s1.gangOver g then s1.endGang g else s1

theorem State.leaveSlot_eq (s : State) (t : Tid) : s.leaveSlot t =
    ((s.ungranted t).emptied t).released t ((s.settle (.thread t)).slot t).gang (s.gangLaunch ((s.settle (.thread t)).slot t).gang) := rfl

theorem State.quits_ungranted (s : State) (t : Tid) : s.Quits u (s.ungranted t) := by
  have hq := fun pc ta => (State.quits_settle (u := u) s (.thread t)).trans (State.quits_traceIssue _ t 8 1 pc ta)
  exact State.quits_ite _ ((hq _ _).trans (State.quits_releaseGrant ..)) (hq _ _)

theorem State.quits_released (s : State) (t : Tid) (g : Nat) (l : Option Launch) : s.Quits u (s.released t g l) := by
  have hq := ((State.quits_releaseClaims (u := u) s t).trans (State.quits_wakeProducers _ t)).trans (State.quits_exitRounds _ l)
  exact State.quits_ite _ (hq.trans (State.quits_endGang ..)) hq

theorem State.gone_emptied (s : State) (t : Tid) : ((s.emptied t).slot t).Gone := by
  rw [State.emptied, State.slot_setSlot_same]
  exact ⟨rfl, rfl⟩

/-- A slot that is emptied stays gone, whatever the core, the gang and the launch do then. -/
theorem State.leaveSlot_gone (s : State) (t : Tid) : (s.leaveSlot t).cur = s.cur ∧ s.SameBytes (s.leaveSlot t) ∧ ((s.leaveSlot t).slot t).Gone := by
  rw [State.leaveSlot_eq]
  have hbefore := State.quits_ungranted (u := t) s t
  have hafter := State.quits_released (u := t) ((s.ungranted t).emptied t) t
  exact ⟨(hafter _ _).cur.trans hbefore.cur, (hbefore.bytes.trans (State.sameBytes_setSlot ..)).trans (hafter _ _).bytes,
    (hafter _ _).gone (State.gone_emptied ..)⟩

/-- An EXIT with nothing under way empties the slot at once. -/
theorem exec_exit_idle {s : State} (hblanks : s.me.blanks = []) (hdemands : s.myCore.demands = []) (hcopies : s.copying s.cur = false)
    (houts : s.me.outs = []) (hcont : s.me.cont = none) (hstamp : s.me.stamp = none) (hstamps : s.me.stamps = []) :
    exec .exit s = .next (s.leaveSlot s.cur) := by
  have hblocks : s.me.allBlocks s.cur.slot = [] := by rw [Slot.allBlocks, hblanks]; rfl
  have hclose : s.stampClose s.cur = s := by
    unfold State.stampClose
    dsimp only
    rw [show (s.slot s.cur).stamp = none from hstamp]
  rw [exec_exit, execExit, hblocks, State.demand_none _ _ _ hdemands, Res.bind_ok, hcopies, if_neg Bool.false_ne_true,
    State.fenceWait_none houts hcont, Res.bind_ok, hclose]
  exact congrArg Res.finish (if_pos (by rw [hstamps]; rfl))

theorem exit_idle {s : State} (hblanks : s.me.blanks = []) (hdemands : s.myCore.demands = []) (hcopies : s.copying s.cur = false)
    (houts : s.me.outs = []) (hcont : s.me.cont = none) (hstamp : s.me.stamp = none) (hstamps : s.me.stamps = []) :
    ∃ t, exec .exit s = .next t ∧ t.me.st = .empty ∧ t.me.blanks = [] ∧ t.mem = s.mem ∧ t.tags = s.tags := by
  obtain ⟨hcur, ⟨hmem, htags⟩, hgone⟩ := State.leaveSlot_gone s s.cur
  refine ⟨_, exec_exit_idle hblanks hdemands hcopies houts hcont hstamp hstamps, ?_, ?_, hmem, htags⟩
  · rw [State.me, hcur]; exact hgone.1
  · rw [State.me, hcur]; exact hgone.2

end Sys2Proof.Machine
end

section
/-!
PROOFS. The obligation on SPAWN, RETS, JOIN, STEAL, DQLEN and EXIT, from the results of each.
-/

namespace Sys2Proof.Machine

/-- A JOIN on a word that is not zero waits for a write of it. -/
theorem joinWord_waits {s : State} {b : SReg} {o : Nat} (hcalm : s.calm = true) (hp : s.portsOpen [b] [] [] [] = true) (hf : s.frameAt (s.rs b) o)
    (hz : s.bytesAt o 8 ≠ 0) : ∃ t, exec (.joinWord b) s = .next t ∧ Waits s t (.join (lsHome s.cur.core o)) ∧
      ∃ w ∈ t.waiters, w.agent = .thread s.cur ∧ w.home = lsHome s.cur.core o ∧ w.onWrite = true :=
  ⟨_, (exec_joinWord_own hcalm hp hf).trans (congrArg _ (if_neg hz)), State.waits_alone .., _, List.mem_singleton_self _, rfl, rfl, rfl⟩

/-- A thief whose gang has no continuation to take finds none. -/
theorem State.find_robbable_none {s : State} (h : ∀ u ∈ stealOrder s.cur, (s.slot u).gang = s.me.gang → (s.slot u).deque = []) :
    (stealOrder s.cur).find? s.robbable = none := by
  rw [List.find?_eq_none]
  intro u hu hr
  rw [State.robbable, Bool.and_eq_true, beq_iff_eq] at hr
  obtain ⟨hgang, hdeque⟩ := hr
  rw [h u hu hgang] at hdeque
  exact Bool.false_ne_true hdeque

/-- Settles O35: the join word and the window ring after SPAWN and RETS, the wait of JOIN, the search of STEAL, and the slot that EXIT leaves. -/
theorem taskResults : Obligations.task_results := by
  unfold Obligations.task_results
  refine ⟨fun s b off o hcalm hp hf hfit => spawn_own hcalm hp hf hfit, fun s f o hcalm hp hf hframe => ?rets, fun s b o hcalm hp hf => ?join,
    fun s d k hp hframe => ?steal, fun s d b k hcalm hb hp hframe hnone ha ho => ?quit, fun s d hp => State.scalar_open s [] d _ hp,
    fun s hblanks hdemands hcopies houts hcont hstamp hstamps => exit_idle hblanks hdemands hcopies houts hcont hstamp hstamps⟩
  case rets =>
    rw [← State.mem_joined]
    exact ⟨rets_link hcalm hp hf hframe, fun ds r => rets_continuation hcalm hp hf hframe, rets_stolen hcalm hp hf hframe⟩
  case join =>
    exact ⟨fun hz => (exec_joinWord_own hcalm hp hf).trans (congrArg _ (if_pos hz)), joinWord_waits hcalm hp hf⟩
  case steal =>
    exact ⟨fun u r rs hu hd => steal_taken hp hframe hu hd, steal_waits hp hframe⟩
  case quit =>
    have hex := exec_steal_quit hcalm hb hp hframe (State.find_robbable_none hnone) ha ho (k := k)
    exact ⟨fun hk => hex.trans (congrArg _ (if_pos hk)), fun hk => ⟨_, hex.trans (congrArg _ (if_neg (not_not_intro hk))), State.waits_alone ..⟩⟩

end Sys2Proof.Machine
end

section
/-!
PROOFS. Floating codes and rounding (05 R64 to R66, R73 to R78): what number a code is, and which of its two neighbours among the codes a magnitude is rounded to.
-/

namespace Sys2Proof.Machine

/-! ### Whole numbers of a power of two -/

/-- A whole number of 2^i is one of 2^j, for j up to i. -/
theorem natCast_mul_zpow (a : ℕ) {i j : ℤ} (h : j ≤ i) : (a : ℝ) * 2 ^ i = (a * 2 ^ (i - j).toNat : ℕ) * (2 : ℝ) ^ j := by
  rw [Nat.cast_mul, Nat.cast_pow, Nat.cast_ofNat, mul_assoc, ← zpow_natCast, ← zpow_add₀ two_ne_zero]
  congr 2
  omega

/-- 2^a of 2^i is a power of two. -/
theorem natCast_pow_mul_zpow (a : ℕ) (i : ℤ) : ((2 ^ a : ℕ) : ℝ) * 2 ^ i = 2 ^ (a + i) := by
  rw [Nat.cast_pow, Nat.cast_ofNat, ← zpow_natCast, ← zpow_add₀ two_ne_zero]

/-! ### The magnitudes of the codes (R65) -/

/-- What the rounding of R73 to R78 needs of a format: at least one and at most 23 mantissa bits, an exponent bit, a largest code not below the least normal, and infinity and NaN just above the largest code. -/
structure FFmt.Sound (F : FFmt) : Prop where
  mpos : 1 ≤ F.m
  mle : F.m ≤ 23
  epos : 1 ≤ F.e
  normal : 2 ^ F.m ≤ F.maxBits
  kinds : F.special ≤ 2
  nan : F.special = 1 → F.nan = 0x7F
  inf : F.special = 2 → ∀ neg, F.inf neg = F.signBit neg + F.maxBits + 1

theorem FFmt.sound_of (f : BitVec 4) : (FFmt.of f).Sound := by
  have hall : ∀ f : BitVec 4, 1 ≤ (FFmt.of f).m ∧ (FFmt.of f).m ≤ 23 ∧ 1 ≤ (FFmt.of f).e ∧ 2 ^ (FFmt.of f).m ≤ (FFmt.of f).maxBits ∧ (FFmt.of f).special ≤ 2 ∧
      ((FFmt.of f).special = 1 → (FFmt.of f).nan = 0x7F) ∧
      ((FFmt.of f).special = 2 → ∀ neg, (FFmt.of f).inf neg = (FFmt.of f).signBit neg + (FFmt.of f).maxBits + 1) := by decide
  obtain ⟨hm, hm', he, hn, hs, hnan, hinf⟩ := hall f
  exact ⟨hm, hm', he, hn, hs, hnan, hinf⟩

/-- A code d binades above the subnormals with significand w is w quanta; w may be the end of the binade, which is the start of the next. -/
theorem FFmt.magnitude_binade (F : FFmt) {d w : ℕ} (hw : w ≤ 2 ^ (F.m + 1)) (hd : 2 ^ F.m ≤ w ∨ d = 0) :
    F.magnitude (d * 2 ^ F.m + w) = w * (2 : ℝ) ^ (F.qmin + d) := by
  have hpos : 0 < 2 ^ F.m := by positivity
  rw [pow_succ] at hw
  unfold FFmt.magnitude
  rw [Nat.add_comm (d * _), Nat.add_mul_div_right _ _ hpos, Nat.add_mul_mod_self_right]
  rcases lt_or_ge w (2 ^ F.m) with hlt | hge
  · obtain rfl : d = 0 := hd.resolve_left (by omega)
    simp [Nat.div_eq_of_lt hlt]
  rcases eq_or_lt_of_le hw with rfl | hlt
  · rw [Nat.mul_div_cancel_left _ hpos, Nat.mul_mod_right, if_neg (by omega)]
    have hexp : F.qmin + ((2 + d - 1 : ℕ) : ℤ) = F.qmin + d + 1 := by omega
    rw [hexp, zpow_add_one₀ two_ne_zero]
    push_cast
    ring
  · have hone : w / 2 ^ F.m = 1 := Nat.div_eq_of_lt_le (by omega) (by omega)
    have hsplit : 2 ^ F.m + w % 2 ^ F.m = w := by
      have := Nat.div_add_mod w (2 ^ F.m)
      rw [hone] at this
      omega
    rw [hone, if_neg (by omega), hsplit, Nat.add_sub_cancel_left]

/-- Every code has a binade and a significand in it. -/
theorem FFmt.exists_binade (F : FFmt) (b : ℕ) : ∃ d w : ℕ, b = d * 2 ^ F.m + w ∧ w < 2 ^ (F.m + 1) ∧ (2 ^ F.m ≤ w ∨ d = 0) := by
  have hpos : 0 < 2 ^ F.m := by positivity
  have hdm := Nat.div_add_mod b (2 ^ F.m)
  have hlt := Nat.mod_lt b hpos
  rw [pow_succ]
  rcases Nat.eq_zero_or_pos (b / 2 ^ F.m) with hz | hnz
  · exact ⟨0, b, by omega, by rw [hz] at hdm; omega, .inr rfl⟩
  · refine ⟨b / 2 ^ F.m - 1, 2 ^ F.m + b % 2 ^ F.m, ?_, by omega, .inl (by omega)⟩
    rw [Nat.sub_mul, Nat.mul_comm (b / _)]
    have : 2 ^ F.m ≤ 2 ^ F.m * (b / 2 ^ F.m) := Nat.le_mul_of_pos_right _ hnz
    omega

/-- Neighbouring codes are neighbouring multiples of one power of two. -/
theorem FFmt.magnitude_neighbours (F : FFmt) (b : ℕ) :
    ∃ (w : ℕ) (q : ℤ), w < 2 ^ (F.m + 1) ∧ F.magnitude b = w * (2 : ℝ) ^ q ∧ F.magnitude (b + 1) = (w + 1 : ℕ) * (2 : ℝ) ^ q := by
  obtain ⟨d, w, rfl, hw, hd⟩ := F.exists_binade b
  exact ⟨w, _, hw, F.magnitude_binade hw.le hd, F.magnitude_binade hw (hd.imp_left (Nat.le_succ_of_le ·))⟩

/-- Codes stand in the order of their magnitudes. -/
theorem FFmt.magnitude_strictMono (F : FFmt) : StrictMono F.magnitude := by
  refine strictMono_nat_of_lt_succ fun b => ?_
  obtain ⟨w, q, -, hlo, hhi⟩ := F.magnitude_neighbours b
  rw [hlo, hhi]
  have : (0 : ℝ) < 2 ^ q := by positivity
  push_cast
  nlinarith

theorem FFmt.magnitude_zero (F : FFmt) : F.magnitude 0 = 0 := by simp [FFmt.magnitude]

/-- The least normal (R64). -/
theorem FFmt.magnitude_normal (F : FFmt) : F.magnitude (2 ^ F.m) = (2 : ℝ) ^ (F.qmin + F.m) := by
  have h := F.magnitude_binade (d := 0) (w := 2 ^ F.m) (by rw [pow_succ]; omega) (.inr rfl)
  rw [Nat.zero_mul, Nat.zero_add] at h
  rw [h, natCast_pow_mul_zpow, Nat.cast_zero, add_zero, add_comm]

/-! ### Rounding to a whole number of quanta (R73, R74) -/

theorem FV.real_pos (k : ℕ) (e : ℤ) : (FV.fin false k e).real = k * (2 : ℝ) ^ e := by simp [FV.real]

/-- The choice between two neighbours does not depend on the unit. -/
theorem RoundsUp.scale (mode : RM) (neg even : Bool) (x lo hi : ℝ) {t : ℝ} (ht : 0 < t) :
    RoundsUp mode neg (x * t) (lo * t) (hi * t) even ↔ RoundsUp mode neg x lo hi even := by
  cases mode with
  | rne =>
    have hlt : lo * t + hi * t < 2 * (x * t) ↔ lo + hi < 2 * x := by rw [← add_mul, ← mul_assoc, mul_lt_mul_iff_left₀ ht]
    have heq : 2 * (x * t) = lo * t + hi * t ↔ 2 * x = lo + hi := by rw [← add_mul, ← mul_assoc, mul_left_inj' ht.ne']
    simp only [RoundsUp, hlt, heq]
  | rtz => rfl
  | rup => simp only [RoundsUp, mul_lt_mul_iff_left₀ ht]
  | rdn => simp only [RoundsUp, mul_lt_mul_iff_left₀ ht]
  | sr rnd =>
    have hfrac : 2 ^ 16 * (x * t - lo * t) / (hi * t - lo * t) = 2 ^ 16 * (x - lo) / (hi - lo) := by
      rw [← sub_mul, ← sub_mul, ← mul_assoc, mul_div_mul_right _ _ ht.ne']
    simp only [RoundsUp, hfrac]

/-- An exact magnitude is not rounded up. -/
theorem RoundsUp.not_exact (mode : RM) (neg even : Bool) {lo hi : ℝ} (h : lo < hi) : ¬RoundsUp mode neg lo lo hi even := by
  cases mode with
  | rne => rintro (h' | ⟨h', -⟩) <;> linarith
  | rtz => exact id
  | rup => exact fun h' => lt_irrefl _ h'.2
  | rdn => exact fun h' => lt_irrefl _ h'.2
  | sr rnd => simp [RoundsUp]

/-- Whether roundAt goes up from w, when r is left over of one unit of 2^sh. -/
def roundsUpAt (mode : RM) (neg : Bool) (w r sh : ℕ) : Bool :=
  match mode with
  | .rne => decide (2 ^ sh < 2 * r) || (decide (2 * r = 2 ^ sh) && w % 2 == 1)
  | .rtz => false
  | .rup => !neg && r != 0
  | .rdn => neg && r != 0
  | .sr rnd => decide (rnd < 2 ^ 16 * r / 2 ^ sh)

theorem roundsUpAt_iff (mode : RM) (neg : Bool) (w r sh : ℕ) :
    roundsUpAt mode neg w r sh = true ↔ RoundsUp mode neg ((w * 2 ^ sh + r : ℕ) : ℝ) ((w * 2 ^ sh : ℕ) : ℝ) (((w + 1) * 2 ^ sh : ℕ) : ℝ) (w % 2 == 0) := by
  have hr : (0 : ℝ) < r ↔ r ≠ 0 := by rw [Nat.cast_pos]; omega
  cases mode with
  | rne =>
    have hlt : ((w * 2 ^ sh : ℕ) : ℝ) + ((w + 1) * 2 ^ sh : ℕ) < 2 * (w * 2 ^ sh + r : ℕ) ↔ 2 ^ sh < 2 * r := by
      norm_cast
      rw [Nat.add_mul]
      omega
    have heq : 2 * ((w * 2 ^ sh + r : ℕ) : ℝ) = ((w * 2 ^ sh : ℕ) : ℝ) + ((w + 1) * 2 ^ sh : ℕ) ↔ 2 * r = 2 ^ sh := by
      norm_cast
      rw [Nat.add_mul]
      omega
    rw [RoundsUp, hlt, heq, roundsUpAt]
    simp
  | rtz => simp [roundsUpAt, RoundsUp]
  | rup => simp [roundsUpAt, RoundsUp, hr]
  | rdn => simp [roundsUpAt, RoundsUp, hr]
  | sr rnd =>
    have hfrac : (2 : ℝ) ^ 16 * (((w * 2 ^ sh + r : ℕ) : ℝ) - (w * 2 ^ sh : ℕ)) / (((w + 1) * 2 ^ sh : ℕ) - (w * 2 ^ sh : ℕ)) = ((2 ^ 16 * r : ℕ) : ℝ) / (2 ^ sh : ℕ) := by
      push_cast
      ring_nf
    rw [RoundsUp, hfrac, ← Int.natCast_floor_eq_floor (by positivity), Nat.floor_div_eq_div, Int.ofNat_lt]
    simp [roundsUpAt]

/-- x rounded to a whole number of quanta 2^q: n.1 is w or the next, as the mode says, and n.2 tells whether something was left over. -/
structure RoundsAt (mode : RM) (neg : Bool) (x : ℝ) (q : ℤ) (w : ℕ) (n : ℕ × Bool) : Prop where
  le : w * (2 : ℝ) ^ q ≤ x
  lt : x < (w + 1 : ℕ) * (2 : ℝ) ^ q
  up : RoundsUp mode neg x (w * (2 : ℝ) ^ q) ((w + 1 : ℕ) * (2 : ℝ) ^ q) (w % 2 == 0) → n.1 = w + 1
  down : ¬RoundsUp mode neg x (w * (2 : ℝ) ^ q) ((w + 1 : ℕ) * (2 : ℝ) ^ q) (w % 2 == 0) → n.1 = w
  inexact : n.2 = true ↔ x ≠ w * (2 : ℝ) ^ q

theorem RoundsAt.between {mode : RM} {neg : Bool} {x : ℝ} {q : ℤ} {w : ℕ} {n : ℕ × Bool} (h : RoundsAt mode neg x q w n) : w ≤ n.1 ∧ n.1 ≤ w + 1 := by
  by_cases hup : RoundsUp mode neg x (w * (2 : ℝ) ^ q) ((w + 1 : ℕ) * (2 : ℝ) ^ q) (w % 2 == 0)
  · rw [h.up hup]; omega
  · rw [h.down hup]; omega

/-- Bounds of x in quanta are bounds of the number of quanta. -/
theorem RoundsAt.lt_of_lt {mode : RM} {neg : Bool} {x : ℝ} {q : ℤ} {w a : ℕ} {n : ℕ × Bool} (h : RoundsAt mode neg x q w n) (hx : x < a * (2 : ℝ) ^ q) : w < a := by
  have := h.le.trans_lt hx
  rwa [mul_lt_mul_iff_left₀ (by positivity), Nat.cast_lt] at this

theorem RoundsAt.le_of_le {mode : RM} {neg : Bool} {x : ℝ} {q : ℤ} {w a : ℕ} {n : ℕ × Bool} (h : RoundsAt mode neg x q w n) (hx : a * (2 : ℝ) ^ q ≤ x) : a ≤ w := by
  have := hx.trans_lt h.lt
  rwa [mul_lt_mul_iff_left₀ (by positivity), Nat.cast_lt, Nat.lt_succ_iff] at this

theorem roundAt_coarse {mode : RM} {neg : Bool} {k : ℕ} {e q : ℤ} (h : e < q) :
    roundAt mode neg k e q = (if roundsUpAt mode neg (k / 2 ^ (q - e).toNat) (k % 2 ^ (q - e).toNat) (q - e).toNat then k / 2 ^ (q - e).toNat + 1 else k / 2 ^ (q - e).toNat,
      k % 2 ^ (q - e).toNat != 0) := by
  rw [roundAt, if_neg (by omega)]
  rfl

theorem roundAt_roundsAt (mode : RM) (neg : Bool) (k : ℕ) (e q : ℤ) : ∃ w, RoundsAt mode neg (k * (2 : ℝ) ^ e) q w (roundAt mode neg k e q) := by
  rcases le_or_gt q e with hfine | hcoarse
  · have hlt : ((k * 2 ^ (e - q).toNat : ℕ) : ℝ) * (2 : ℝ) ^ q < (k * 2 ^ (e - q).toNat + 1 : ℕ) * (2 : ℝ) ^ q := by
      rw [mul_lt_mul_iff_left₀ (by positivity), Nat.cast_lt]
      omega
    rw [roundAt, if_pos hfine, natCast_mul_zpow k hfine]
    exact ⟨_, le_rfl, hlt, fun h => absurd h (RoundsUp.not_exact _ _ _ hlt), fun _ => rfl, by simp⟩
  · have hunit (a : ℕ) := natCast_mul_zpow a hcoarse.le
    rw [roundAt_coarse hcoarse]
    generalize (q - e).toNat = sh at hunit
    have hk : k / 2 ^ sh * 2 ^ sh + k % 2 ^ sh = k := Nat.div_add_mod' k _
    have hup := roundsUpAt_iff mode neg (k / 2 ^ sh) (k % 2 ^ sh) sh
    rw [hk, ← RoundsUp.scale _ _ _ _ _ _ (show (0 : ℝ) < 2 ^ e by positivity), ← hunit, ← hunit] at hup
    refine ⟨k / 2 ^ sh, ?_, ?_, fun h => if_pos (hup.2 h), fun h => if_neg (mt hup.1 h), ?_⟩
    · rw [hunit, mul_le_mul_iff_left₀ (by positivity), Nat.cast_le]
      omega
    · have := Nat.mod_lt k (show 0 < 2 ^ sh by positivity)
      rw [hunit, mul_lt_mul_iff_left₀ (by positivity), Nat.cast_lt, Nat.add_mul]
      omega
    · rw [hunit, ne_eq, mul_left_inj' (by positivity), Nat.cast_inj, bne_iff_ne]
      omega

/-! ### Rounding to a format (R73 to R78) -/

/-- The code that stands for n quanta 2^q. -/
def FFmt.enc (F : FFmt) (q : ℤ) (n : ℕ) : ℤ := (q - F.qmin) * 2 ^ F.m + n

/-- The quantum of k × 2^e at the format's precision, if there were no least exponent. -/
def FFmt.quantum (F : FFmt) (k : ℕ) (e : ℤ) : ℤ := e + Nat.log2 k - F.m

/-- Whether k × 2^e, rounded to the format's precision, is beyond the largest finite code; under SR, whether it is so itself. -/
def FFmt.overflows (F : FFmt) (mode : RM) (neg : Bool) (k : ℕ) (e : ℤ) : Bool :=
  let t := roundAt .rtz neg k e (F.quantum k e)
  match mode with
  | .sr _ => decide ((F.maxBits : ℤ) < F.enc (F.quantum k e) t.1) || (F.enc (F.quantum k e) t.1 == (F.maxBits : ℤ) && t.2)
  | _ => decide ((F.maxBits : ℤ) < F.enc (F.quantum k e) (roundAt mode neg k e (F.quantum k e)).1)

theorem FFmt.round_zero (F : FFmt) (mode : RM) (sat neg : Bool) (e : ℤ) : F.round mode sat neg 0 e = ⟨F.signBit neg, 0⟩ := rfl

theorem FFmt.round_eq (F : FFmt) (mode : RM) (sat neg : Bool) {k : ℕ} (hk : k ≠ 0) (e : ℤ) :
    F.round mode sat neg k e =
      if F.overflows mode neg k e then F.overflow mode sat neg
      else
        ⟨F.signBit neg + (F.enc (max (F.quantum k e) F.qmin) (roundAt mode neg k e (max (F.quantum k e) F.qmin)).1).toNat,
          (if (roundAt mode neg k e (max (F.quantum k e) F.qmin)).2 then flNX else 0) |||
            (if (roundAt mode neg k e (max (F.quantum k e) F.qmin)).2 && decide (F.enc (F.quantum k e) (roundAt mode neg k e (F.quantum k e)).1 < 2 ^ F.m) then flUF else 0)⟩ := by
  rw [FFmt.round, if_neg hk]
  rfl

/-- A number of the binade whose quantum at the format's precision is 2^q. -/
def FFmt.InBinade (F : FFmt) (x : ℝ) (q : ℤ) : Prop := ((2 ^ F.m : ℕ) : ℝ) * 2 ^ q ≤ x ∧ x < ((2 ^ (F.m + 1) : ℕ) : ℝ) * 2 ^ q

theorem FFmt.inBinade_quantum (F : FFmt) {k : ℕ} (hk : k ≠ 0) (e : ℤ) : F.InBinade (k * (2 : ℝ) ^ e) (F.quantum k e) := by
  have hpow (j : ℕ) : ((2 ^ (F.m + j) : ℕ) : ℝ) * (2 : ℝ) ^ (F.quantum k e) = (2 ^ (Nat.log2 k + j) : ℕ) * (2 : ℝ) ^ e := by
    rw [natCast_pow_mul_zpow, natCast_pow_mul_zpow, FFmt.quantum]
    congr 1
    push_cast
    ring
  constructor
  · rw [← add_zero F.m, hpow 0, mul_le_mul_iff_left₀ (by positivity), Nat.cast_le]
    exact Nat.log2_self_le hk
  · rw [hpow 1, mul_lt_mul_iff_left₀ (by positivity), Nat.cast_lt]
    exact Nat.lt_log2_self

/-- A number lies below the least normal where its quantum is finer than the least one. -/
theorem FFmt.InBinade.lt_normal {F : FFmt} {x : ℝ} {q : ℤ} (h : F.InBinade x q) : x < (2 : ℝ) ^ (F.qmin + F.m) ↔ q < F.qmin := by
  obtain ⟨hlo, hhi⟩ := h
  rw [natCast_pow_mul_zpow] at hlo hhi
  constructor
  · intro hx
    have := (zpow_lt_zpow_iff_right₀ one_lt_two).1 (hlo.trans_lt hx)
    omega
  · intro hq
    exact hhi.trans_le (zpow_le_zpow_right₀ one_le_two (by push_cast; omega))

/-- The number of quanta of a number of a binade, at the format's precision. -/
theorem RoundsAt.significand {F : FFmt} {mode : RM} {neg : Bool} {x : ℝ} {q : ℤ} {w : ℕ} {n : ℕ × Bool} (h : RoundsAt mode neg x q w n) (hx : F.InBinade x q) :
    2 ^ F.m ≤ w ∧ w < 2 ^ (F.m + 1) := ⟨h.le_of_le hx.1, h.lt_of_lt hx.2⟩

/-- Just below the least normal, rounding reaches it only from the last number of quanta before it. -/
theorem RoundsAt.lt_end_iff {mode : RM} {neg : Bool} {x : ℝ} {q : ℤ} {w a : ℕ} {u : ℕ × Bool} (hu : RoundsAt mode neg x q w u) (hw : w ≤ a) (ha : a % 2 = 1) :
    u.1 < a + 1 ↔ ¬(a * (2 : ℝ) ^ q < x ∧ RoundsUp mode neg x (a * (2 : ℝ) ^ q) ((a + 1 : ℕ) * (2 : ℝ) ^ q) false) := by
  obtain ⟨-, hle⟩ := hu.between
  rcases eq_or_lt_of_le hw with rfl | hlt
  · have heven : (w % 2 == 0) = false := by rw [ha]; rfl
    have hup := hu.up
    have hdown := hu.down
    rw [heven] at hup hdown
    have hstrict : RoundsUp mode neg x (w * (2 : ℝ) ^ q) ((w + 1 : ℕ) * (2 : ℝ) ^ q) false → w * (2 : ℝ) ^ q < x := by
      refine fun h => lt_of_le_of_ne hu.le fun hx => ?_
      rw [← hx] at h
      exact RoundsUp.not_exact _ _ _ (hu.le.trans_lt hu.lt) h
    constructor
    · rintro h ⟨-, hr⟩
      rw [hup hr] at h
      omega
    · intro h
      rw [hdown fun hr => h ⟨hstrict hr, hr⟩]
      omega
  · have hx : x ≤ a * (2 : ℝ) ^ q := hu.lt.le.trans ((mul_le_mul_iff_left₀ (by positivity)).2 (by exact_mod_cast hlt))
    exact iff_of_true (by omega) fun h => h.1.not_ge hx

/-- Tininess in quanta: the least normal is a + 1 of them, of half the least quantum, for an odd a (R78). -/
theorem FFmt.tiny_quanta (F : FFmt) : ∃ a : ℕ, 2 ^ (F.m + 1) = a + 1 ∧ ∀ (mode : RM) (neg : Bool) (x : ℝ),
    Tiny F mode neg x ↔ x < (2 : ℝ) ^ (F.qmin + F.m) ∧
      ¬(a * (2 : ℝ) ^ (F.qmin - 1) < x ∧ RoundsUp mode neg x (a * (2 : ℝ) ^ (F.qmin - 1)) ((a + 1 : ℕ) * (2 : ℝ) ^ (F.qmin - 1)) false) := by
  obtain ⟨a, ha⟩ : ∃ a, 2 ^ (F.m + 1) = a + 1 := ⟨_, (Nat.succ_pred_eq_of_pos (by positivity)).symm⟩
  refine ⟨a, ha, fun mode neg x => ?_⟩
  have hleast : (a + 1 : ℕ) * (2 : ℝ) ^ (F.qmin - 1) = (2 : ℝ) ^ (F.qmin + (F.m : ℤ)) := by
    rw [← ha, natCast_pow_mul_zpow]
    congr 1
    push_cast
    ring
  have hbelow : a * (2 : ℝ) ^ (F.qmin - 1) = (2 : ℝ) ^ (F.qmin + (F.m : ℤ)) - (2 : ℝ) ^ (F.qmin - 1) := by
    rw [← hleast]
    push_cast
    ring
  rw [hleast, hbelow]
  rfl

/-- R78: the rounded number, with the exponent range unbounded, is below the least normal exactly where the number is tiny. -/
theorem FFmt.InBinade.tiny_iff {F : FFmt} {mode : RM} {neg : Bool} {x : ℝ} {q : ℤ} {w : ℕ} {u : ℕ × Bool} (hx : F.InBinade x q) (hu : RoundsAt mode neg x q w u) :
    F.enc q u.1 < 2 ^ F.m ↔ Tiny F mode neg x := by
  obtain ⟨hw, hw'⟩ := hu.significand hx
  obtain ⟨hge, hle⟩ := hu.between
  obtain ⟨a, ha, htiny⟩ := F.tiny_quanta
  have ha2 : 2 * 2 ^ F.m = a + 1 := by rw [← ha, pow_succ, Nat.mul_comm]
  have hcast : 2 * (2 : ℤ) ^ F.m = a + 1 := by exact_mod_cast ha2
  rw [htiny, hx.lt_normal, FFmt.enc]
  rcases lt_trichotomy q (F.qmin - 1) with hq | rfl | hq
  case inl =>
    have hcode : (q - F.qmin) * 2 ^ F.m ≤ -2 * 2 ^ F.m := mul_le_mul_of_nonneg_right (by omega) (by positivity)
    have hxa : x ≤ a * (2 : ℝ) ^ (F.qmin - 1) := by
      have hpos := Nat.one_le_two_pow (n := F.m)
      calc x ≤ ((2 ^ (F.m + 1) : ℕ) : ℝ) * 2 ^ q := hx.2.le
        _ = ((2 ^ F.m : ℕ) : ℝ) * 2 ^ (q + 1) := by
          rw [natCast_pow_mul_zpow, natCast_pow_mul_zpow]
          congr 1
          push_cast
          ring
        _ ≤ a * (2 : ℝ) ^ (F.qmin - 1) :=
          mul_le_mul (Nat.cast_le.2 (by omega)) (zpow_le_zpow_right₀ one_le_two (by omega)) (by positivity) (by positivity)
    exact iff_of_true (by omega) ⟨by omega, fun h => h.1.not_ge hxa⟩
  case inr.inl =>
    rw [and_iff_right (by omega), ← hu.lt_end_iff (by omega) (by omega)]
    have hcode : (F.qmin - 1 - F.qmin) * 2 ^ F.m = -(2 : ℤ) ^ F.m := by ring
    omega
  case inr.inr =>
    have hcode : (0 : ℤ) ≤ (q - F.qmin) * 2 ^ F.m := mul_nonneg (by omega) (by positivity)
    have hw2 : (2 : ℤ) ^ F.m ≤ u.1 := by exact_mod_cast hw.trans hge
    exact iff_of_false (by omega) fun h => by omega

/-- A number below the least normal has fewer least quanta than that. -/
theorem FFmt.InBinade.subnormal {F : FFmt} {mode : RM} {neg : Bool} {x : ℝ} {q : ℤ} {w : ℕ} {n : ℕ × Bool} (hx : F.InBinade x q) (hq : q < F.qmin)
    (hn : RoundsAt mode neg x F.qmin w n) : w < 2 ^ F.m := by
  refine hn.lt_of_lt ((hx.lt_normal.2 hq).trans_eq ?_)
  rw [natCast_pow_mul_zpow, add_comm]

/-- Where a rounded number stands among the codes: d binades above the subnormals. -/
theorem FFmt.InBinade.position {F : FFmt} {mode : RM} {neg : Bool} {x : ℝ} {q : ℤ} {w : ℕ} {n : ℕ × Bool} (hx : F.InBinade x q)
    (hn : RoundsAt mode neg x (max q F.qmin) w n) : ∃ d : ℕ, max q F.qmin = F.qmin + d ∧ w < 2 ^ (F.m + 1) ∧ (2 ^ F.m ≤ w ∨ d = 0) := by
  rcases le_or_gt F.qmin q with hq | hq
  · rw [max_eq_left hq] at hn ⊢
    obtain ⟨hlo, hhi⟩ := hn.significand hx
    exact ⟨(q - F.qmin).toNat, by omega, hhi, .inl hlo⟩
  · rw [max_eq_right hq.le] at hn ⊢
    have hw := hx.subnormal hq hn
    exact ⟨0, by omega, by rw [pow_succ]; omega, .inr rfl⟩

theorem FFmt.enc_binade (F : FFmt) (d n : ℕ) : F.enc (F.qmin + d) n = (d * 2 ^ F.m + n : ℕ) := by
  rw [FFmt.enc]
  push_cast
  ring

/-- Without a least exponent, no number below the least normal has a code beyond its own. -/
theorem FFmt.enc_le_normal {F : FFmt} {q : ℤ} {n : ℕ} (hq : q < F.qmin) (hn : n ≤ 2 ^ (F.m + 1)) : F.enc q n ≤ 2 ^ F.m := by
  have hcode : (q - F.qmin) * 2 ^ F.m ≤ -1 * 2 ^ F.m := mul_le_mul_of_nonneg_right (by omega) (by positivity)
  have hcast : (n : ℤ) ≤ 2 ^ F.m * 2 := by exact_mod_cast (pow_succ 2 F.m ▸ hn)
  rw [FFmt.enc]
  omega

/-- R76: under a mode other than SR a number overflows where its code is beyond the largest finite one. -/
theorem FFmt.overflows_iff {F : FFmt} (hF : F.Sound) {mode : RM} (hmode : ∀ rnd, mode ≠ .sr rnd) (neg : Bool) {k : ℕ} (hk : k ≠ 0) (e : ℤ) :
    F.overflows mode neg k e = true ↔ (F.maxBits : ℤ) < F.enc (max (F.quantum k e) F.qmin) (roundAt mode neg k e (max (F.quantum k e) F.qmin)).1 := by
  have hx := F.inBinade_quantum hk e
  have hdef : F.overflows mode neg k e = decide ((F.maxBits : ℤ) < F.enc (F.quantum k e) (roundAt mode neg k e (F.quantum k e)).1) := by
    cases mode with
    | sr rnd => exact absurd rfl (hmode rnd)
    | _ => rfl
  rw [hdef, decide_eq_true_iff]
  rcases le_or_gt F.qmin (F.quantum k e) with hq | hq
  · rw [max_eq_left hq]
  have hnormal : (2 : ℤ) ^ F.m ≤ F.maxBits := by exact_mod_cast hF.normal
  obtain ⟨w, hu⟩ := roundAt_roundsAt mode neg k e (F.quantum k e)
  obtain ⟨v, hn⟩ := roundAt_roundsAt mode neg k e F.qmin
  rw [max_eq_right hq.le]
  refine iff_of_false ?_ ?_
  · have := FFmt.enc_le_normal hq (hu.between.2.trans (hu.significand hx).2)
    omega
  · have hle : (roundAt mode neg k e F.qmin).1 ≤ 2 ^ F.m := hn.between.2.trans (hx.subnormal hq hn)
    have hcast : ((roundAt mode neg k e F.qmin).1 : ℤ) ≤ 2 ^ F.m := by exact_mod_cast hle
    rw [FFmt.enc, sub_self, zero_mul]
    omega

/-- R74: under SR a number overflows where it is itself beyond the largest finite magnitude. -/
theorem FFmt.overflows_sr_iff {F : FFmt} (hF : F.Sound) (rnd : ℕ) (neg : Bool) {k : ℕ} (hk : k ≠ 0) (e : ℤ) :
    F.overflows (.sr rnd) neg k e = true ↔ F.magnitude F.maxBits < k * (2 : ℝ) ^ e := by
  have hx := F.inBinade_quantum hk e
  obtain ⟨w, ht⟩ := roundAt_roundsAt .rtz neg k e (F.quantum k e)
  obtain ⟨hlo, hhi⟩ := ht.significand hx
  have hw : (roundAt .rtz neg k e (F.quantum k e)).1 = w := ht.down id
  have hdef : F.overflows (.sr rnd) neg k e = true ↔
      (F.maxBits : ℤ) < F.enc (F.quantum k e) w ∨ (F.enc (F.quantum k e) w = F.maxBits ∧ k * (2 : ℝ) ^ e ≠ w * (2 : ℝ) ^ F.quantum k e) := by
    rw [← ht.inexact, ← hw]
    simp [FFmt.overflows]
  rw [hdef]
  rcases le_or_gt F.qmin (F.quantum k e) with hq | hq
  · obtain ⟨d, hd⟩ : ∃ d : ℕ, F.quantum k e = F.qmin + d := ⟨(F.quantum k e - F.qmin).toNat, by omega⟩
    have hb := F.magnitude_binade hhi.le (.inl hlo) (d := d)
    have hb1 := F.magnitude_binade (w := w + 1) hhi (.inl (by omega)) (d := d)
    obtain ⟨hge, hlt, -, -, -⟩ := ht
    rw [hd, F.enc_binade, Nat.cast_lt, Nat.cast_inj, ← hb]
    rw [hd, ← hb] at hge
    rw [hd, ← hb1, ← Nat.add_assoc] at hlt
    rcases lt_trichotomy F.maxBits (d * 2 ^ F.m + w) with h | h | h
    · exact iff_of_true (.inl h) ((F.magnitude_strictMono h).trans_le hge)
    · rw [← h] at hge ⊢
      simp [hge.lt_iff_ne, eq_comm]
    · exact iff_of_false (by omega) (hlt.trans_le (F.magnitude_strictMono.monotone h)).not_gt
  · have hnormal : (2 : ℤ) ^ F.m ≤ F.maxBits := by exact_mod_cast hF.normal
    have hle := (hx.lt_normal.2 hq).trans_le (F.magnitude_normal.symm.trans_le (F.magnitude_strictMono.monotone hF.normal))
    have henc := FFmt.enc_le_normal hq (Nat.succ_le_of_lt hhi)
    rw [FFmt.enc, Nat.cast_succ] at henc
    rw [FFmt.enc]
    exact iff_of_false (by omega) hle.not_gt

/-- R76: what an overflow gives. -/
theorem FFmt.overflow_eq {F : FFmt} (hF : F.Sound) (mode : RM) (sat neg : Bool) : F.overflow mode sat neg = overflowed F mode sat neg := by
  have hkinds : F.special = 0 ∨ F.special = 1 ∨ F.special = 2 := by
    have := hF.kinds
    omega
  cases sat with
  | true => rfl
  | false =>
    have hout : F.special ≠ 0 → (if F.special = 2 then F.inf neg else F.nan) = (if F.special = 1 then 0x7F else F.signBit neg + F.maxBits + 1) := by
      rcases hkinds with h | h | h
      · exact fun h' => absurd h h'
      · simp [h, hF.nan h]
      · simp [h, hF.inf h neg]
    by_cases hs : F.special = 0
    · cases mode <;> simp [FFmt.overflow, overflowed, hs] <;> rfl
    · cases mode <;> cases neg <;> simp [FFmt.overflow, overflowed, hs, hout hs] <;> rfl

/-- The flags of a rounding that does not overflow (R78). -/
theorem rounding_flags (inexact tiny : Bool) :
    let fl : Flags := (if inexact then flNX else 0) ||| (if inexact && tiny then flUF else 0)
    (fl.getLsbD 0 = true ↔ inexact = true) ∧ (fl.getLsbD 1 = true ↔ inexact = true ∧ tiny = true) ∧ fl &&& 0x3C = 0 := by
  cases inexact <;> cases tiny <;> decide

/-- A rounding that does not overflow: the code, d binades above the subnormals, and the flags. -/
theorem FFmt.round_fits {F : FFmt} {mode : RM} (sat : Bool) {neg : Bool} {k : ℕ} (hk : k ≠ 0) {e : ℤ} (h : ¬F.overflows mode neg k e = true) {d : ℕ}
    (hd : max (F.quantum k e) F.qmin = F.qmin + d) :
    let n := roundAt mode neg k e (F.qmin + d)
    let r := F.round mode sat neg k e
    r.bits = F.signBit neg + (d * 2 ^ F.m + n.1) ∧ (r.fl.getLsbD 0 = true ↔ n.2 = true) ∧
      (r.fl.getLsbD 1 = true ↔ n.2 = true ∧ Tiny F mode neg (k * (2 : ℝ) ^ e)) ∧ r.fl &&& 0x3C = 0 := by
  obtain ⟨v, hu⟩ := roundAt_roundsAt mode neg k e (F.quantum k e)
  have htiny := decide_eq_true_iff.trans ((F.inBinade_quantum hk e).tiny_iff hu)
  dsimp only
  rw [F.round_eq mode sat neg hk e, if_neg h, hd, F.enc_binade, Int.toNat_natCast, ← htiny]
  exact ⟨rfl, rounding_flags _ _⟩

/-- R73 to R78: a positive magnitude is rounded to one of its neighbours among the codes, or overflows. -/
theorem FFmt.round_rounded {F : FFmt} (hF : F.Sound) (mode : RM) (sat neg : Bool) {k : ℕ} (hk : k ≠ 0) (e : ℤ) :
    Rounded F mode sat neg (k * (2 : ℝ) ^ e) (F.round mode sat neg k e) := by
  obtain ⟨w, hn⟩ := roundAt_roundsAt mode neg k e (max (F.quantum k e) F.qmin)
  obtain ⟨d, hd, hw, hnormal⟩ := (F.inBinade_quantum hk e).position hn
  have hlo := F.magnitude_binade hw.le hnormal
  have hhi := F.magnitude_binade hw (hnormal.imp_left (Nat.le_succ_of_le ·))
  have heven : ((d * 2 ^ F.m + w) % 2 == 0) = (w % 2 == 0) := by
    obtain ⟨j, hj⟩ := Nat.exists_eq_add_of_le' hF.mpos
    rw [hj, pow_succ, ← Nat.mul_assoc, Nat.mul_comm, Nat.mul_add_mod]
  have hover := FFmt.overflows_iff hF (mode := mode) (neg := neg) (hk := hk) (e := e)
  have hfits := FFmt.round_fits (mode := mode) (neg := neg) sat hk (hd := hd)
  rw [hd] at hn hover
  rw [F.enc_binade, Nat.cast_lt] at hover
  obtain ⟨hle, hlt, hup, hdown, hinexact⟩ := hn
  rw [← hlo, ← heven] at hup hdown
  rw [← hhi] at hlt hup hdown
  rw [← hlo] at hle hinexact
  dsimp only at hfits
  rw [hinexact] at hfits
  refine ⟨d * 2 ^ F.m + w, d * 2 ^ F.m + _, hle, hlt, fun h => congrArg _ (hup h), fun h => congrArg _ (hdown h), ?_⟩
  have hresult {beyond : Prop} (h : F.overflows mode neg k e = true ↔ beyond) : (beyond → F.round mode sat neg k e = overflowed F mode sat neg) ∧ (¬beyond → _) :=
    ⟨fun hb => by rw [F.round_eq mode sat neg hk, if_pos (h.2 hb), F.overflow_eq hF], fun hb => hfits (mt h.1 hb)⟩
  cases mode with
  | sr rnd => exact hresult (FFmt.overflows_sr_iff hF rnd neg hk e)
  | rne | rtz | rup | rdn => exact hresult (hover (by simp))

/-! ### The value of a code (R64 to R66) -/

/-- A code is its sign bit and a code without sign. -/
theorem FFmt.eq_signBit_add (F : FFmt) {b : ℕ} (hb : b < 2 ^ (F.e + F.m + 1)) :
    b = F.signBit (decide (2 ^ (F.e + F.m) ≤ b)) + b % 2 ^ (F.e + F.m) := by
  rw [pow_succ] at hb
  by_cases h : 2 ^ (F.e + F.m) ≤ b
  · rw [FFmt.signBit, decide_eq_true h, if_pos rfl, Nat.mod_eq_sub_mod h, Nat.mod_eq_of_lt (by omega)]
    omega
  · rw [FFmt.signBit, decide_eq_false h, if_neg (by decide), Nat.mod_eq_of_lt (by omega), Nat.zero_add]

/-- The largest finite code (R64): below the last exponent, or the last code but one, or the last. -/
theorem FFmt.maxBits_kinds {F : FFmt} (hF : F.Sound) :
    F.special = 2 ∧ F.maxBits + 1 = (2 ^ F.e - 1) * 2 ^ F.m ∨ F.special = 1 ∧ F.maxBits + 2 = 2 ^ (F.e + F.m) ∨ F.special = 0 ∧ F.maxBits + 1 = 2 ^ (F.e + F.m) := by
  have hkinds : F.special = 2 ∨ F.special = 1 ∨ F.special = 0 := by
    have := hF.kinds
    omega
  have hcodes : 2 ^ 1 ≤ 2 ^ (F.e + F.m) := Nat.pow_le_pow_right two_pos (by have := hF.epos; omega)
  have hlast : 0 < (2 ^ F.e - 1) * 2 ^ F.m := Nat.mul_pos (Nat.sub_pos_of_lt (Nat.one_lt_two_pow (by have := hF.epos; omega))) (by positivity)
  refine hkinds.imp (fun h => ⟨h, ?_⟩) (Or.imp (fun h => ⟨h, ?_⟩) fun h => ⟨h, ?_⟩)
  · rw [FFmt.maxBits, h]
    exact Nat.sub_add_cancel hlast
  · rw [FFmt.maxBits, h]
    exact Nat.sub_add_cancel hcodes
  · rw [FFmt.maxBits, h]
    exact Nat.sub_add_cancel Nat.one_le_two_pow

/-- The codes above the largest finite one: those of the last exponent, in a format with infinities; all ones, in one with a single NaN; else none. -/
theorem FFmt.maxBits_lt_iff {F : FFmt} (hF : F.Sound) {E M : ℕ} (hE : E < 2 ^ F.e) (hM : M < 2 ^ F.m) :
    F.maxBits < E * 2 ^ F.m + M ↔ (F.special = 2 ∧ E = 2 ^ F.e - 1) ∨ (F.special = 1 ∧ E = 2 ^ F.e - 1 ∧ M = 2 ^ F.m - 1) := by
  have hkinds := F.maxBits_kinds hF
  have hlast : (2 ^ F.e - 1) * 2 ^ F.m + 2 ^ F.m = 2 ^ (F.e + F.m) := by
    rw [pow_add, ← Nat.succ_mul, Nat.succ_eq_add_one, Nat.sub_add_cancel Nat.one_le_two_pow]
  have hm : 2 ^ 1 ≤ 2 ^ F.m := Nat.pow_le_pow_right two_pos hF.mpos
  by_cases hend : E = 2 ^ F.e - 1
  · rw [hend]
    generalize (2 ^ F.e - 1) * 2 ^ F.m = top at *
    omega
  · have hbefore : E * 2 ^ F.m + 2 ^ F.m ≤ (2 ^ F.e - 1) * 2 ^ F.m := by
      rw [← Nat.succ_mul]
      exact Nat.mul_le_mul_right _ (by omega)
    generalize (2 ^ F.e - 1) * 2 ^ F.m = top at *
    omega

/-- The number of a code without sign, from its exponent and mantissa fields (R65). -/
theorem FFmt.magnitude_fields (F : FFmt) {E M : ℕ} (hM : M < 2 ^ F.m) :
    F.magnitude (E * 2 ^ F.m + M) = if E = 0 then M * (2 : ℝ) ^ F.qmin else (2 ^ F.m + M : ℕ) * (2 : ℝ) ^ (F.qmin + (E - 1 : ℕ)) := by
  cases E with
  | zero => simpa using F.magnitude_binade (d := 0) (w := M) (by rw [pow_succ]; omega) (.inr rfl)
  | succ d => simpa [Nat.succ_mul, Nat.add_assoc] using F.magnitude_binade (d := d) (w := 2 ^ F.m + M) (by rw [pow_succ]; omega) (.inl (by omega))

/-- R64 to R66: what a code means. -/
theorem FFmt.decode_code {F : FFmt} (hF : F.Sound) {b : ℕ} (hb : b < 2 ^ (F.e + F.m + 1)) :
    let neg : Bool := decide (2 ^ (F.e + F.m) ≤ b)
    let c := b % 2 ^ (F.e + F.m)
    (c ≤ F.maxBits → ∃ k e, F.decode b = .fin neg k e ∧ (FV.fin false k e).real = F.magnitude c) ∧
    (F.maxBits < c → F.decode b = if F.special = 2 ∧ c = F.maxBits + 1 then .inf neg else .nan (F.special == 2 && decide (c % 2 ^ F.m < 2 ^ (F.m - 1)))) := by
  intro neg c
  have hneg : (b / 2 ^ (F.e + F.m) % 2 == 1) = neg := by
    have hpos : 0 < 2 ^ (F.e + F.m) := by positivity
    rw [pow_succ] at hb
    rcases lt_or_ge b (2 ^ (F.e + F.m)) with h | h
    · simp [neg, h.not_ge, Nat.div_eq_of_lt h]
    · simp [neg, h, show b / 2 ^ (F.e + F.m) = 1 from Nat.div_eq_of_lt_le (by omega) (by omega)]
  obtain ⟨E, hE⟩ : ∃ E, b / 2 ^ F.m % 2 ^ F.e = E := ⟨_, rfl⟩
  obtain ⟨M, hM⟩ : ∃ M, b % 2 ^ F.m = M := ⟨_, rfl⟩
  have hE' : E < 2 ^ F.e := hE ▸ Nat.mod_lt _ (by positivity)
  have hM' : M < 2 ^ F.m := hM ▸ Nat.mod_lt _ (by positivity)
  have hc : c = E * 2 ^ F.m + M := by
    rw [← hE, ← hM, Nat.add_comm, Nat.mul_comm]
    simp only [c, Nat.add_comm F.e, pow_add, Nat.mod_mul]
  have hmod : c % 2 ^ F.m = M := by rw [hc, Nat.add_comm, Nat.add_mul_mod_self_right, Nat.mod_eq_of_lt hM']
  have hdecode : F.decode b =
      if F.special = 2 ∧ E = 2 ^ F.e - 1 then if M = 0 then .inf neg else .nan (M < 2 ^ (F.m - 1))
      else if F.special = 1 ∧ E = 2 ^ F.e - 1 ∧ M = 2 ^ F.m - 1 then .nan false
      else if E = 0 then .fin neg M F.qmin else .fin neg (2 ^ F.m + M) (F.qmin + (E - 1 : ℕ)) := by
    rw [FFmt.decode, hneg, hE, hM]
    simp [and_assoc]
  have hmax := F.maxBits_lt_iff hF hE' hM'
  rw [hmod, hc, hdecode, hmax, ← not_lt, hmax, not_or]
  constructor
  · rintro ⟨h2, h1⟩
    rw [if_neg h2, if_neg h1, F.magnitude_fields hM']
    split <;> exact ⟨_, _, rfl, FV.real_pos _ _⟩
  · rintro (⟨h2, hlast⟩ | ⟨h1, hlast⟩)
    · have hinf : E * 2 ^ F.m + M = F.maxBits + 1 ↔ M = 0 := by
        rcases F.maxBits_kinds hF with ⟨-, h⟩ | ⟨h, -⟩ | ⟨h, -⟩
        · rw [h, hlast, Nat.add_eq_left]
        · omega
        · omega
      rw [if_pos ⟨h2, hlast⟩]
      simp [h2, hinf]
    · simp [h1, hlast]

/-- The flags of a result, where neither NX nor UF nor another one of them is raised. -/
theorem flags_eq_zero : ∀ fl : Flags, ¬fl.getLsbD 0 = true → ¬fl.getLsbD 1 = true → fl &&& 0x3C = 0 → fl = 0 := by decide

/-- A number that is a code's own lies at that code. -/
theorem Rounded.at_code {F : FFmt} {mode : RM} {sat neg : Bool} {c : ℕ} {r : FR} (h : Rounded F mode sat neg (F.magnitude c) r) (hc : c ≤ F.maxBits) :
    r = ⟨F.signBit neg + c, 0⟩ := by
  obtain ⟨b, c', hlo, hhi, -, hdown, -, hfits⟩ := h
  have hb : b = c := le_antisymm (F.magnitude_strictMono.le_iff_le.1 hlo) (Nat.lt_succ_iff.1 (F.magnitude_strictMono.lt_iff_lt.1 hhi))
  subst hb
  obtain rfl : c' = b := hdown (RoundsUp.not_exact _ _ _ hhi)
  obtain ⟨hbits, hnx, huf, hrest⟩ := hfits (by
    cases mode with
    | sr rnd => exact (F.magnitude_strictMono.monotone hc).not_gt
    | _ => exact hc.not_gt)
  have hfl : r.fl = 0 := flags_eq_zero _ (fun h => hnx.1 h rfl) (fun h => (huf.1 h).1 rfl) hrest
  cases r
  exact congrArg₂ FR.mk hbits hfl

/-- A value that a format holds is rounded to its own code (R73, R74). -/
theorem FFmt.round_decode {F : FFmt} (hF : F.Sound) (m : RM) (sat : Bool) {n : Bool} {k : ℕ} {e : ℤ} {b : ℕ} (hb : b < 2 ^ (F.e + F.m + 1))
    (hdec : F.decode b = .fin n k e) : F.round m sat n k e = ⟨b, 0⟩ := by
  obtain ⟨hfin, hspecial⟩ := F.decode_code hF hb
  rcases le_or_gt (b % 2 ^ (F.e + F.m)) F.maxBits with hc | hc
  case inr =>
    have := hspecial hc
    rw [hdec] at this
    split at this <;> cases this
  obtain ⟨k', e', hdec', hreal⟩ := hfin hc
  rw [hdec] at hdec'
  cases hdec'
  rw [FV.real_pos] at hreal
  have hbits := F.eq_signBit_add hb
  rcases eq_or_ne k 0 with rfl | hk
  · have hzero : b % 2 ^ (F.e + F.m) = 0 := F.magnitude_strictMono.injective (by rw [← hreal, F.magnitude_zero, Nat.cast_zero, zero_mul])
    rw [hzero, Nat.add_zero] at hbits
    rw [F.round_zero, ← hbits]
  · have hround := FFmt.round_rounded hF m sat (decide (2 ^ (F.e + F.m) ≤ b)) hk e
    rw [hreal] at hround
    rw [hround.at_code hc, ← hbits]

end Sys2Proof.Machine
end

section
/-!
PROOFS. Correctly rounded operations of FP32, FP16 and BF16 (05 R66, R87, R88): which numbers round alike, the exact results, NaN operands and infinities, minimum and maximum.
-/

namespace Sys2Proof.Machine

/-! ### Which numbers round alike -/

/-- x and y lie on the same side of every number of m + 3 significant bits: of every code, of every middle between two, and of what tininess asks about. -/
def SameSide (m : ℕ) (x y : ℝ) : Prop := ∀ (a : ℕ) (i : ℤ), a ≤ 2 ^ (m + 2) → (a * (2 : ℝ) ^ i < x ↔ a * (2 : ℝ) ^ i < y) ∧ (x < a * (2 : ℝ) ^ i ↔ y < a * (2 : ℝ) ^ i)

theorem SameSide.refl (m : ℕ) (x : ℝ) : SameSide m x x := fun _ _ _ => ⟨Iff.rfl, Iff.rfl⟩

/-- Two numbers strictly inside one step of 2^j, from enough such steps on, lie on the same side. -/
theorem SameSide.of_step {m g : ℕ} {j : ℤ} {x y : ℝ} (hg : 2 ^ (m + 2) ≤ g) (hx : g * (2 : ℝ) ^ j < x) (hx' : x < (g + 1 : ℕ) * (2 : ℝ) ^ j)
    (hy : g * (2 : ℝ) ^ j < y) (hy' : y < (g + 1 : ℕ) * (2 : ℝ) ^ j) : SameSide m x y := by
  intro a i ha
  have hpos : (0 : ℝ) < 2 ^ j := by positivity
  have hside : a * (2 : ℝ) ^ i ≤ g * (2 : ℝ) ^ j ∨ (g + 1 : ℕ) * (2 : ℝ) ^ j ≤ a * (2 : ℝ) ^ i := by
    rcases le_or_gt j i with hij | hij
    · rw [natCast_mul_zpow a hij, mul_le_mul_iff_left₀ hpos, mul_le_mul_iff_left₀ hpos, Nat.cast_le, Nat.cast_le]
      omega
    · exact .inl (mul_le_mul (by exact_mod_cast ha.trans hg) (zpow_le_zpow_right₀ one_le_two hij.le) (by positivity) (by positivity))
  rcases hside with h | h
  · exact ⟨iff_of_true (h.trans_lt hx) (h.trans_lt hy), iff_of_false (h.trans_lt hx).not_gt (h.trans_lt hy).not_gt⟩
  · exact ⟨iff_of_false (hx'.trans_le h).not_gt (hy'.trans_le h).not_gt, iff_of_true (hx'.trans_le h) (hy'.trans_le h)⟩

/-- Numbers on the same side go the same way between two neighbouring multiples of a power of two, under every mode but SR. -/
theorem SameSide.roundsUp_iff {m : ℕ} {x y : ℝ} (h : SameSide m x y) {mode : RM} (hmode : ∀ rnd, mode ≠ .sr rnd) (neg even : Bool) {w : ℕ} (q : ℤ)
    (hw : w < 2 ^ (m + 1)) :
    RoundsUp mode neg x (w * (2 : ℝ) ^ q) ((w + 1 : ℕ) * (2 : ℝ) ^ q) even ↔ RoundsUp mode neg y (w * (2 : ℝ) ^ q) ((w + 1 : ℕ) * (2 : ℝ) ^ q) even := by
  rw [pow_succ] at hw
  have hlo := (h w q (by rw [pow_add]; omega)).1
  obtain ⟨hmid, hmid'⟩ := h (2 * w + 1) (q - 1) (by rw [pow_add]; omega)
  have hsum : (w : ℝ) * 2 ^ q + (w + 1 : ℕ) * 2 ^ q = 2 * ((2 * w + 1 : ℕ) * (2 : ℝ) ^ (q - 1)) := by
    rw [zpow_sub_one₀ two_ne_zero]
    push_cast
    ring
  cases mode with
  | sr rnd => exact absurd rfl (hmode rnd)
  | rtz => rfl
  | rup => simp only [RoundsUp, hlo]
  | rdn => simp only [RoundsUp, hlo]
  | rne =>
    have hlt : ∀ z : ℝ, 2 * ((2 * w + 1 : ℕ) * (2 : ℝ) ^ (q - 1)) < 2 * z ↔ (2 * w + 1 : ℕ) * (2 : ℝ) ^ (q - 1) < z := fun z => mul_lt_mul_iff_right₀ two_pos
    have heq : ∀ z : ℝ, 2 * z = 2 * ((2 * w + 1 : ℕ) * (2 : ℝ) ^ (q - 1)) ↔
        ¬(2 * w + 1 : ℕ) * (2 : ℝ) ^ (q - 1) < z ∧ ¬z < (2 * w + 1 : ℕ) * (2 : ℝ) ^ (q - 1) := fun z => by
      rw [mul_right_inj' two_ne_zero, not_lt, not_lt, le_antisymm_iff]
    simp only [RoundsUp, hsum, hlt, heq, hmid, hmid']

theorem SameSide.tiny_iff {F : FFmt} {x y : ℝ} (h : SameSide F.m x y) {mode : RM} (hmode : ∀ rnd, mode ≠ .sr rnd) (neg : Bool) :
    Tiny F mode neg x ↔ Tiny F mode neg y := by
  obtain ⟨a, ha, htiny⟩ := F.tiny_quanta
  have hle : a ≤ 2 ^ (F.m + 2) := by rw [pow_succ]; omega
  have hleast := (h 1 (F.qmin + F.m) Nat.one_le_two_pow).2
  rw [Nat.cast_one, one_mul] at hleast
  rw [htiny, htiny, hleast, (h a _ hle).1, h.roundsUp_iff hmode _ _ _ (by omega)]

/-- Numbers on the same side have the same correctly rounded result. -/
theorem Rounded.congr {F : FFmt} {mode : RM} {sat neg : Bool} {x y : ℝ} {r : FR} (h : SameSide F.m x y) (hmode : ∀ rnd, mode ≠ .sr rnd)
    (hy : Rounded F mode sat neg y r) : Rounded F mode sat neg x r := by
  obtain ⟨b, c, hlo, hhi, hup, hdown, hbeyond, hfits⟩ := hy
  obtain ⟨w, q, hw, hb, hb1⟩ := F.magnitude_neighbours b
  have hw2 : w + 1 ≤ 2 ^ (F.m + 2) := by rw [pow_succ] at hw ⊢; omega
  have hroundsUp := h.roundsUp_iff hmode neg (b % 2 == 0) q hw
  obtain ⟨hlt, hgt⟩ := h w q (by omega)
  have heq : x ≠ F.magnitude b ↔ y ≠ F.magnitude b := by rw [hb, ne_iff_lt_or_gt, ne_iff_lt_or_gt, hgt, hlt]
  rw [hb, ← not_lt, ← hgt, not_lt, ← hb] at hlo
  rw [hb1, ← (h (w + 1) q hw2).2, ← hb1] at hhi
  rw [← hb, ← hb1] at hroundsUp
  rw [← hroundsUp] at hup hdown
  refine ⟨b, c, hlo, hhi, hup, hdown, ?_⟩
  cases mode with
  | sr rnd => exact absurd rfl (hmode rnd)
  | _ => exact ⟨hbeyond, fun hb => by rw [heq, h.tiny_iff hmode]; exact hfits hb⟩

/-- The last bit that stands for what is left over puts a number on the side where what it stands for lies. -/
theorem SameSide.sticky {m g : ℕ} {j : ℤ} {v : ℝ} (hg : 2 ^ (m + 2) ≤ g) (hlo : g * (2 : ℝ) ^ j ≤ v) (hhi : v < (g + 1 : ℕ) * (2 : ℝ) ^ j)
    {p : Prop} [Decidable p] (hp : p ↔ g * (2 : ℝ) ^ j = v) : SameSide m v ((2 * g + if p then 0 else 1 : ℕ) * (2 : ℝ) ^ (j - 1)) := by
  have hhalf : (2 : ℝ) ^ j = 2 * 2 ^ (j - 1) := by
    rw [zpow_sub_one₀ two_ne_zero]
    ring
  have hpos : (0 : ℝ) < 2 ^ (j - 1) := by positivity
  by_cases h : p
  · rw [if_pos h, ← hp.1 h, hhalf]
    push_cast
    rw [add_zero, mul_left_comm, ← mul_assoc]
    exact SameSide.refl _ _
  · rw [if_neg h]
    refine SameSide.of_step hg (lt_of_le_of_ne hlo (mt hp.2 h)) hhi ?_ ?_ <;>
    · rw [hhalf, ← mul_assoc, mul_lt_mul_iff_left₀ hpos]
      push_cast
      linarith

/-! ### Correctly rounded results (R87) -/

/-- A result is correct where what is rounded lies on the side of the exact one; of zero, where it has the sign that the operation gives. -/
theorem FFmt.correct_round {F : FFmt} (hF : F.Sound) {mode : RM} (hmode : ∀ rnd, mode ≠ .sr rnd) {v : ℝ} {n zero : Bool} {k : ℕ} {e : ℤ}
    (hv : SameSide F.m v (k * (2 : ℝ) ^ e)) (hzero : k = 0 → n = zero) : Correct F mode ((if n then -1 else 1) * v) zero (F.round mode false n k e) := by
  obtain ⟨hpos, hneg⟩ := hv 0 0 (Nat.zero_le _)
  rw [Nat.cast_zero, zero_mul] at hpos hneg
  have hvnonneg : 0 ≤ v := not_lt.1 fun h => (hneg.1 h).not_ge (by positivity)
  rcases eq_or_ne k 0 with rfl | hk
  · have hv0 : v = 0 := le_antisymm (not_lt.1 fun h => (hpos.1 h).ne' (by simp)) hvnonneg
    rw [hv0, mul_zero, F.round_zero, hzero rfl]
    exact ⟨fun _ => rfl, fun h => absurd h (lt_irrefl _), fun h => absurd h (lt_irrefl _)⟩
  · have hvpos : 0 < v := hpos.2 (by positivity)
    have hround := (FFmt.round_rounded hF mode false n hk e).congr hv hmode
    cases n with
    | true =>
      rw [if_pos rfl, neg_one_mul]
      exact ⟨fun h => by linarith, fun _ => by rwa [neg_neg], fun h => by linarith⟩
    | false =>
      rw [if_neg (by decide), one_mul]
      exact ⟨fun h => by linarith, fun h => by linarith, fun _ => hround⟩

/-- The exact number, rounded. -/
theorem FFmt.correct_round_exact {F : FFmt} (hF : F.Sound) {mode : RM} (hmode : ∀ rnd, mode ≠ .sr rnd) {n zero : Bool} {k : ℕ} {e : ℤ}
    (hzero : k = 0 → n = zero) : Correct F mode (FV.fin n k e).real zero (F.round mode false n k e) := by
  rw [FV.real, mul_assoc]
  exact FFmt.correct_round hF hmode (SameSide.refl _ _) hzero

/-- A value over a smaller exponent, as a whole number of its unit. -/
theorem FV.real_aligned (n : Bool) (k : ℕ) {e q : ℤ} (h : q ≤ e) :
    (FV.fin n k e).real = (((if n then -1 else 1) * (k * 2 ^ (e - q).toNat : ℕ) : ℤ) : ℝ) * (2 : ℝ) ^ q := by
  rw [FV.real, mul_assoc, natCast_mul_zpow k h]
  push_cast
  ring

/-- The sum that is rounded is the exact one; a zero has the sign of R87. -/
theorem exactAdd_spec (mode : RM) (n1 : Bool) (k1 : ℕ) (e1 : ℤ) (n2 : Bool) (k2 : ℕ) (e2 : ℤ) :
    let s := exactAdd mode n1 k1 e1 n2 k2 e2
    (FV.fin s.1 s.2.1 s.2.2).real = (FV.fin n1 k1 e1).real + (FV.fin n2 k2 e2).real ∧ (s.2.1 = 0 → s.1 = if n1 = n2 then n1 else mode == .rdn) := by
  have hzero : zeroSign mode n1 n2 = if n1 = n2 then n1 else mode == .rdn := by
    simp only [← beq_iff_eq (a := n1)]
    cases mode <;> rfl
  rw [FV.real_aligned n1 k1 (min_le_left e1 e2), FV.real_aligned n2 k2 (min_le_right e1 e2), ← add_mul, ← Int.cast_add, ← hzero]
  unfold exactAdd
  dsimp only
  generalize (if n1 then -1 else 1) * ((k1 * 2 ^ (e1 - min e1 e2).toNat : ℕ) : ℤ) + (if n2 then -1 else 1) * ((k2 * 2 ^ (e2 - min e1 e2).toNat : ℕ) : ℤ) = s
  by_cases hs : s = 0
  · simp [hs, FV.real]
  · rw [if_neg hs]
    refine ⟨?_, fun h => absurd (Int.natAbs_eq_zero.1 h) hs⟩
    rw [FV.real, Nat.cast_natAbs, Int.cast_abs]
    rcases lt_or_gt_of_ne hs with h | h
    · simp [h, abs_of_neg (Int.cast_lt_zero.2 h)]
    · simp [h.not_gt, abs_of_pos (Int.cast_pos.2 h)]

theorem FFmt.addV_correct {F : FFmt} (hF : F.Sound) {mode : RM} (hmode : ∀ rnd, mode ≠ .sr rnd) (n1 n2 : Bool) (k1 k2 : ℕ) (e1 e2 : ℤ) :
    Correct F mode ((FV.fin n1 k1 e1).real + (FV.fin n2 k2 e2).real) (if n1 = n2 then n1 else mode == .rdn) (F.addV mode (.fin n1 k1 e1) (.fin n2 k2 e2)) := by
  obtain ⟨hreal, hsign⟩ := exactAdd_spec mode n1 k1 e1 n2 k2 e2
  rw [← hreal]
  exact FFmt.correct_round_exact hF hmode hsign

/-- The sign of a product or a quotient. -/
theorem sign_bne (n1 n2 : Bool) : (if n1 != n2 then (-1 : ℝ) else 1) = (if n1 then -1 else 1) * (if n2 then -1 else 1) := by
  cases n1 <;> cases n2 <;> norm_num

theorem FV.real_mul (n1 n2 : Bool) (k1 k2 : ℕ) (e1 e2 : ℤ) : (FV.fin (n1 != n2) (k1 * k2) (e1 + e2)).real = (FV.fin n1 k1 e1).real * (FV.fin n2 k2 e2).real := by
  rw [FV.real, FV.real, FV.real, sign_bne, zpow_add₀ two_ne_zero, Nat.cast_mul]
  ring

theorem FFmt.mulV_correct {F : FFmt} (hF : F.Sound) {mode : RM} (hmode : ∀ rnd, mode ≠ .sr rnd) (n1 n2 : Bool) (k1 k2 : ℕ) (e1 e2 : ℤ) :
    Correct F mode ((FV.fin n1 k1 e1).real * (FV.fin n2 k2 e2).real) (n1 != n2) (F.mulV mode (.fin n1 k1 e1) (.fin n2 k2 e2)) := by
  rw [← FV.real_mul]
  exact FFmt.correct_round_exact hF hmode fun _ => rfl

/-- The product that the fused form adds, where it is neither NaN nor invalid. -/
def FV.product (x y : FV) : FV :=
  match x, y with
  | .fin n1 m1 e1, .fin n2 m2 e2 => .fin (n1 != n2) (m1 * m2) (e1 + e2)
  | .inf n, .inf k | .inf n, .fin k _ _ | .fin k _ _, .inf n => .inf (n != k)
  | _, _ => .nan false

theorem FFmt.fmaV_eq (F : FFmt) (mode : RM) (x y z : FV) :
    F.fmaV mode x y z =
      if x.isNan || y.isNan || z.isNan then F.qnan (x.snan ||| y.snan ||| z.snan ||| (if zeroTimesInf x y then flNV else 0))
      else if zeroTimesInf x y then F.qnan flNV
      else F.addV mode (x.product y) z := by
  rcases x with _ | _ | ⟨_, _ | _, _⟩ <;> rcases y with _ | _ | ⟨_, _ | _, _⟩ <;> rfl

/-- The fused form of a valid product. -/
theorem FFmt.fmaV_valid (F : FFmt) (mode : RM) {x y z : FV} (hx : x.isNan = false) (hy : y.isNan = false) (hz : z.isNan = false) (hzi : zeroTimesInf x y = false) :
    F.fmaV mode x y z = F.addV mode (x.product y) z := by
  rw [F.fmaV_eq, hx, hy, hz, hzi]
  rfl

/-- The fused form of finite factors adds their exact product. -/
theorem FFmt.fmaV_fin (F : FFmt) (mode : RM) (n1 n2 : Bool) (k1 k2 : ℕ) (e1 e2 : ℤ) {z : FV} (hz : z.isNan = false) :
    F.fmaV mode (.fin n1 k1 e1) (.fin n2 k2 e2) z = F.addV mode (.fin (n1 != n2) (k1 * k2) (e1 + e2)) z :=
  F.fmaV_valid mode rfl rfl hz rfl

theorem FFmt.fmaV_correct {F : FFmt} (hF : F.Sound) {mode : RM} (hmode : ∀ rnd, mode ≠ .sr rnd) (n1 n2 n3 : Bool) (k1 k2 k3 : ℕ) (e1 e2 e3 : ℤ) :
    Correct F mode ((FV.fin n1 k1 e1).real * (FV.fin n2 k2 e2).real + (FV.fin n3 k3 e3).real) (if (n1 != n2) = n3 then n1 != n2 else mode == .rdn)
      (F.fmaV mode (.fin n1 k1 e1) (.fin n2 k2 e2) (.fin n3 k3 e3)) := by
  rw [← FV.real_mul, F.fmaV_fin _ _ _ _ _ _ _ rfl]
  exact FFmt.addV_correct hF hmode _ _ _ _ _ _

/-- The number that is rounded for a quotient of magnitudes has a unit far below the last place of a format, and a last bit for what is left over. -/
theorem quotBits_sameSide {m a b : ℕ} (hm : m ≤ 23) (ha : a ≠ 0) (hb : b ≠ 0) (e : ℤ) :
    SameSide m (a / b * (2 : ℝ) ^ e) ((quotBits a b).1 * (2 : ℝ) ^ ((quotBits a b).2 + e)) := by
  have hb' : (0 : ℝ) < b := by positivity
  have hpow : (0 : ℝ) < 2 ^ (-((160 + Nat.log2 b : ℕ) : ℤ) + e) := by positivity
  have hexact : a / b * (2 : ℝ) ^ e = (a * 2 ^ (160 + Nat.log2 b) : ℕ) / b * (2 : ℝ) ^ (-((160 + Nat.log2 b : ℕ) : ℤ) + e) := by
    rw [zpow_add₀ two_ne_zero, zpow_neg, zpow_natCast]
    push_cast
    field_simp
  have hlarge : 2 ^ (m + 2) ≤ a * 2 ^ (160 + Nat.log2 b) / b := by
    rw [Nat.le_div_iff_mul_le (Nat.pos_of_ne_zero hb)]
    calc 2 ^ (m + 2) * b ≤ 2 ^ 25 * 2 ^ (Nat.log2 b + 1) := Nat.mul_le_mul (Nat.pow_le_pow_right two_pos (by omega)) Nat.lt_log2_self.le
      _ = 2 ^ (26 + Nat.log2 b) := by rw [← pow_add]; congr 1; omega
      _ ≤ 2 ^ (160 + Nat.log2 b) := Nat.pow_le_pow_right two_pos (by omega)
      _ ≤ a * 2 ^ (160 + Nat.log2 b) := Nat.le_mul_of_pos_left _ (Nat.pos_of_ne_zero ha)
  have hbits : (quotBits a b).1 = 2 * (a * 2 ^ (160 + Nat.log2 b) / b) + if a * 2 ^ (160 + Nat.log2 b) % b = 0 then 0 else 1 := rfl
  have hunit : (quotBits a b).2 + e = -((160 + Nat.log2 b : ℕ) : ℤ) + e - 1 := by
    rw [quotBits]
    dsimp only
    ring
  rw [hunit, hexact, hbits]
  generalize a * 2 ^ (160 + Nat.log2 b) = d at *
  have hsplit : (d : ℝ) = (d / b : ℕ) * b + (d % b : ℕ) := by exact_mod_cast (Nat.div_add_mod' d b).symm
  have hrest : ((d % b : ℕ) : ℝ) < b := Nat.cast_lt.2 (Nat.mod_lt d (Nat.pos_of_ne_zero hb))
  refine SameSide.sticky hlarge ?_ ?_ ?_
  · rw [mul_le_mul_iff_left₀ hpow, le_div_iff₀ hb', hsplit]
    exact le_add_of_nonneg_right (Nat.cast_nonneg _)
  · rw [mul_lt_mul_iff_left₀ hpow, div_lt_iff₀ hb', hsplit]
    push_cast
    linarith
  · rw [mul_left_inj' hpow.ne', eq_div_iff hb'.ne', hsplit, left_eq_add, Nat.cast_eq_zero]

/-- A quotient of finite values has the quotient of their magnitudes and the sign of both. -/
theorem FV.real_div (n1 n2 : Bool) (k1 k2 : ℕ) (e1 e2 : ℤ) :
    (FV.fin n1 k1 e1).real / (FV.fin n2 k2 e2).real = (if n1 != n2 then -1 else 1) * (k1 / k2 * (2 : ℝ) ^ (e1 - e2)) := by
  have hself : (if n2 then (-1 : ℝ) else 1)⁻¹ = if n2 then -1 else 1 := by cases n2 <;> norm_num
  rw [FV.real, FV.real, sign_bne, zpow_sub₀ two_ne_zero, div_eq_mul_inv, mul_inv, mul_inv, hself]
  ring

theorem FFmt.divV_correct {F : FFmt} (hF : F.Sound) {mode : RM} (hmode : ∀ rnd, mode ≠ .sr rnd) (n1 n2 : Bool) (k1 : ℕ) {k2 : ℕ} (e1 e2 : ℤ) (hk2 : k2 ≠ 0) :
    Correct F mode ((FV.fin n1 k1 e1).real / (FV.fin n2 k2 e2).real) (n1 != n2) (F.divV mode (.fin n1 k1 e1) (.fin n2 k2 e2)) := by
  have hdiv : F.divV mode (.fin n1 k1 e1) (.fin n2 k2 e2) =
      F.round mode false (n1 != n2) (quotBits k1 k2).1 ((quotBits k1 k2).2 + (e1 - e2)) := by
    rw [FFmt.divV, if_neg hk2, ← add_sub_assoc]
  rw [hdiv, FV.real_div]
  refine FFmt.correct_round hF hmode ?_ fun _ => rfl
  rcases eq_or_ne k1 0 with rfl | hk1
  · simpa [quotBits] using SameSide.refl _ _
  · exact quotBits_sameSide hF.mle hk1 hk2 _

/-- The integer square root, bit by bit, keeps a root that is not above and, with the bits that are left, would be beyond. -/
theorem isqrtFrom_spec (n : ℕ) : ∀ fuel r : ℕ, r * r ≤ n → n < (r + 2 ^ fuel) * (r + 2 ^ fuel) →
    isqrtFrom n fuel r * isqrtFrom n fuel r ≤ n ∧ n < (isqrtFrom n fuel r + 1) * (isqrtFrom n fuel r + 1)
  | 0, _, hlo, hhi => ⟨hlo, hhi⟩
  | fuel + 1, r, hlo, hhi => by
    rw [isqrtFrom]
    split
    next h => exact isqrtFrom_spec n fuel _ h (by rwa [Nat.add_assoc, ← Nat.mul_two, ← pow_succ])
    next h => exact isqrtFrom_spec n fuel r hlo (by omega)

theorem isqrt_spec (n : ℕ) : isqrt n * isqrt n ≤ n ∧ n < (isqrt n + 1) * (isqrt n + 1) := by
  refine isqrtFrom_spec n _ 0 (by omega) ?_
  rw [Nat.zero_add, ← pow_add]
  exact Nat.lt_log2_self.trans_le (Nat.pow_le_pow_right two_pos (by omega))

/-- The exponent is made even before the root is taken. -/
theorem sqrtBits_even (k : ℕ) (e : ℤ) : ∃ (k' : ℕ) (j : ℤ), k ≤ k' ∧ (k : ℝ) * (2 : ℝ) ^ e = (k' * 2 ^ 160 : ℕ) * ((2 : ℝ) ^ j) ^ 2 ∧
    sqrtBits k e = (2 * isqrt (k' * 2 ^ 160) + (if isqrt (k' * 2 ^ 160) * isqrt (k' * 2 ^ 160) = k' * 2 ^ 160 then 0 else 1), j - 1) := by
  have hsquare (k' : ℕ) (i : ℤ) : (k' * 2 ^ 160 : ℕ) * ((2 : ℝ) ^ (i / 2 - 80)) ^ 2 = k' * (2 : ℝ) ^ (i / 2 * 2) := by
    rw [← zpow_natCast, ← zpow_mul, sub_mul, zpow_sub₀ two_ne_zero]
    push_cast
    ring
  by_cases h : e % 2 = 0
  · refine ⟨k, e / 2 - 80, le_rfl, ?_, by simp [sqrtBits, h]⟩
    rw [hsquare, Int.ediv_mul_cancel (Int.dvd_of_emod_eq_zero h)]
  · refine ⟨2 * k, (e - 1) / 2 - 80, by omega, ?_, by simp [sqrtBits, h]⟩
    rw [hsquare, Int.ediv_mul_cancel (by omega), zpow_sub_one₀ two_ne_zero]
    push_cast
    ring

/-- The number that is rounded for a square root has a unit far below the last place of a format, and a last bit for what is left over. -/
theorem sqrtBits_sameSide {m k : ℕ} (hm : m ≤ 23) (hk : k ≠ 0) (e : ℤ) :
    SameSide m (Real.sqrt (k * (2 : ℝ) ^ e)) ((sqrtBits k e).1 * (2 : ℝ) ^ (sqrtBits k e).2) := by
  obtain ⟨k', j, hk', hreal, hbits⟩ := sqrtBits_even k e
  have hpow : (0 : ℝ) < 2 ^ j := by positivity
  rw [hbits, hreal, Real.sqrt_mul (Nat.cast_nonneg _), Real.sqrt_sq hpow.le]
  obtain ⟨hlo, hhi⟩ := isqrt_spec (k' * 2 ^ 160)
  have hlarge : 2 ^ (m + 2) ≤ isqrt (k' * 2 ^ 160) := by
    refine (Nat.pow_le_pow_right two_pos (show m + 2 ≤ 25 by omega)).trans (Nat.lt_succ_iff.1 (Nat.mul_self_lt_mul_self_iff.1 (lt_of_le_of_lt ?_ hhi)))
    omega
  generalize isqrt (k' * 2 ^ 160) = r at *
  generalize k' * 2 ^ 160 = n at *
  refine SameSide.sticky hlarge ?_ ?_ ?_
  · rw [mul_le_mul_iff_left₀ hpow]
    exact Real.le_sqrt_of_sq_le (by exact_mod_cast (pow_two r).trans_le hlo)
  · rw [mul_lt_mul_iff_left₀ hpow, Real.sqrt_lt' (by positivity)]
    exact_mod_cast hhi.trans_eq (pow_two _).symm
  · rw [mul_left_inj' hpow.ne', eq_comm (a := (r : ℝ)), Real.sqrt_eq_iff_mul_self_eq (Nat.cast_nonneg _) (Nat.cast_nonneg _)]
    exact_mod_cast eq_comm

theorem FFmt.sqrtV_correct {F : FFmt} (hF : F.Sound) {mode : RM} (hmode : ∀ rnd, mode ≠ .sr rnd) {n : Bool} {k : ℕ} (e : ℤ) (h : n = false ∨ k = 0) :
    Correct F mode (Real.sqrt (FV.fin n k e).real) n (F.sqrtV mode (.fin n k e)) := by
  rcases eq_or_ne k 0 with rfl | hk
  · simp [FV.real, FFmt.sqrtV, Correct]
  · obtain rfl := h.resolve_right hk
    have hroot := FFmt.correct_round hF hmode (n := false) (zero := false) (sqrtBits_sameSide hF.mle hk e) fun _ => rfl
    rw [if_neg (by decide), one_mul] at hroot
    rw [FV.real_pos, FFmt.sqrtV, if_neg hk, if_neg (by decide)]
    exact hroot

/-! ### NaN operands and infinities (R66, R87) -/

theorem FV.exists_nan {x : FV} (h : x.isNan = true) : ∃ s, x = .nan s := by
  cases x with
  | nan s => exact ⟨s, rfl⟩
  | inf | fin => exact absurd h Bool.false_ne_true

theorem FV.snan_eq (x : FV) : x.snan = if x == .nan true then flNV else 0 := by
  rcases x with (_ | _) | n | ⟨n, k, e⟩ <;> rfl

theorem flNV_or (p q : Bool) : (if p then flNV else 0) ||| (if q then flNV else 0) = if p || q then flNV else 0 := by
  cases p <;> cases q <;> rfl

theorem FFmt.qnan_eq (F : FFmt) (p : Bool) : F.qnan (if p then flNV else 0) = nanResult F p := rfl

/-- R66: an operation on a NaN gives the canonical NaN, with NV where an operand is signalling. -/
theorem FFmt.nan_operand (F : FFmt) (mode : RM) {x y : FV} (h : x.isNan = true ∨ y.isNan = true) :
    F.addV mode x y = nanResult F (x == .nan true || y == .nan true) ∧ F.mulV mode x y = nanResult F (x == .nan true || y == .nan true) ∧
      F.divV mode x y = nanResult F (x == .nan true || y == .nan true) := by
  rw [← F.qnan_eq, ← flNV_or, ← x.snan_eq, ← y.snan_eq]
  rcases h with h | h
  · obtain ⟨s, rfl⟩ := FV.exists_nan h
    exact ⟨rfl, rfl, rfl⟩
  · obtain ⟨s, rfl⟩ := FV.exists_nan h
    cases x <;> exact ⟨rfl, rfl, rfl⟩

theorem FFmt.sqrtV_nan (F : FFmt) (mode : RM) {x : FV} (h : x.isNan = true) : F.sqrtV mode x = nanResult F (x == .nan true) := by
  obtain ⟨_ | _, rfl⟩ := FV.exists_nan h <;> rfl

/-- R66, R87: the fused form on a NaN, and of infinity times zero whatever the addend. -/
theorem FFmt.fmaV_nan (F : FFmt) (mode : RM) {x y z : FV} (h : x.isNan = true ∨ y.isNan = true ∨ z.isNan = true ∨ zeroTimesInf x y = true) :
    F.fmaV mode x y z = nanResult F (x == .nan true || y == .nan true || z == .nan true || zeroTimesInf x y) := by
  rw [F.fmaV_eq]
  split
  next => rw [x.snan_eq, y.snan_eq, z.snan_eq, flNV_or, flNV_or, flNV_or, F.qnan_eq]
  next hnan =>
    simp only [Bool.or_eq_true, not_or] at hnan
    obtain ⟨⟨hx, hy⟩, hz⟩ := hnan
    have hzi : zeroTimesInf x y = true := ((h.resolve_left hx).resolve_left hy).resolve_left hz
    rw [if_pos hzi, hzi, Bool.or_true]
    rfl

/-- IEEE 754's results of operations on infinities (R87). -/
theorem FFmt.infinities (F : FFmt) (mode : RM) (n k : Bool) :
    F.addV mode (.inf n) (.inf k) = (if n = k then ⟨F.inf n, 0⟩ else nanResult F true) ∧ F.mulV mode (.inf n) (.inf k) = ⟨F.inf (n != k), 0⟩ ∧
    F.divV mode (.inf n) (.inf k) = nanResult F true ∧ F.sqrtV mode (.inf n) = (if n then nanResult F true else ⟨F.inf false, 0⟩) := by
  cases n <;> cases k <;> exact ⟨rfl, rfl, rfl, rfl⟩

theorem FFmt.infinity_finite (F : FFmt) (mode : RM) (n k : Bool) (l : ℕ) (e : ℤ) :
    F.addV mode (.inf n) (.fin k l e) = ⟨F.inf n, 0⟩ ∧ F.addV mode (.fin k l e) (.inf n) = ⟨F.inf n, 0⟩ ∧
    F.mulV mode (.inf n) (.fin k l e) = (if l = 0 then nanResult F true else ⟨F.inf (n != k), 0⟩) ∧
    F.mulV mode (.fin k l e) (.inf n) = (if l = 0 then nanResult F true else ⟨F.inf (n != k), 0⟩) ∧
    F.divV mode (.inf n) (.fin k l e) = ⟨F.inf (n != k), 0⟩ ∧ F.divV mode (.fin k l e) (.inf n) = ⟨F.signBit (n != k), 0⟩ :=
  ⟨rfl, rfl, rfl, rfl, rfl, by rw [bne_comm]; rfl⟩

theorem FFmt.fmaV_infinite (F : FFmt) (mode : RM) (n k : Bool) (l : ℕ) (e : ℤ) {z : FV} (hz : z.isNan = false) :
    F.fmaV mode (.inf n) (.inf k) z = F.addV mode (.inf (n != k)) z ∧
    (l ≠ 0 → F.fmaV mode (.inf n) (.fin k l e) z = F.addV mode (.inf (n != k)) z ∧ F.fmaV mode (.fin k l e) (.inf n) z = F.addV mode (.inf (n != k)) z) :=
  ⟨F.fmaV_valid mode rfl rfl hz rfl, fun hl =>
    ⟨F.fmaV_valid mode rfl rfl hz (beq_false_of_ne hl), F.fmaV_valid mode rfl rfl hz (beq_false_of_ne hl)⟩⟩

/-! ### Minimum and maximum (R88) -/

/-- The comparison of finite values has the sign of their difference. -/
theorem FV.cmp_fin (n1 n2 : Bool) (k1 k2 : ℕ) (e1 e2 : ℤ) :
    ((FV.cmp (.fin n1 k1 e1) (.fin n2 k2 e2) : ℤ) : ℝ) * (2 : ℝ) ^ min e1 e2 = (FV.fin n1 k1 e1).real - (FV.fin n2 k2 e2).real := by
  rw [FV.real_aligned n1 k1 (min_le_left e1 e2), FV.real_aligned n2 k2 (min_le_right e1 e2), ← sub_mul, ← Int.cast_sub]
  rfl

/-- Whether MIN takes the first of two values that are not NaN. -/
def FV.less (x y : FV) : Bool := decide (x.cmp y < 0) || (x.cmp y == 0 && x.isNeg && !y.isNeg)

theorem FV.below_iff_less {x y : FV} (hx : x.isNan = false) (hy : y.isNan = false) : x.Below y ↔ x.less y = true := by
  match x, y with
  | .inf n, .inf k => cases n <;> cases k <;> simp [FV.Below, FV.less, FV.cmp, FV.isNeg]
  | .inf n, .fin k l e => cases n <;> simp [FV.Below, FV.less, FV.cmp]
  | .fin k l e, .inf n => cases n <;> simp [FV.Below, FV.less, FV.cmp]
  | .fin n1 k1 e1, .fin n2 k2 e2 =>
    have hcmp := FV.cmp_fin n1 n2 k1 k2 e1 e2
    have hpow : (0 : ℝ) < 2 ^ min e1 e2 := by positivity
    have hlt : FV.cmp (.fin n1 k1 e1) (.fin n2 k2 e2) < 0 ↔ (FV.fin n1 k1 e1).real < (FV.fin n2 k2 e2).real := by
      rw [← sub_neg (a := FV.real _), ← hcmp]
      simp [mul_neg_iff, hpow, hpow.not_gt]
    have heq : FV.cmp (.fin n1 k1 e1) (.fin n2 k2 e2) = 0 ↔ (FV.fin n1 k1 e1).real = (FV.fin n2 k2 e2).real := by
      rw [← sub_eq_zero (a := FV.real _), ← hcmp]
      simp [hpow.ne']
    simp [FV.Below, FV.less, FV.isNeg, hlt, heq, and_assoc]

theorem FV.Below.asymm {x y : FV} (hx : x.isNan = false) (hy : y.isNan = false) (h : x.Below y) : ¬y.Below x := by
  match x, y with
  | .inf n, .inf k => cases n <;> cases k <;> simp [FV.Below] at h ⊢
  | .inf n, .fin k l e => cases n <;> simp [FV.Below] at h ⊢
  | .fin k l e, .inf n => cases n <;> simp [FV.Below] at h ⊢
  | .fin n1 k1 e1, .fin n2 k2 e2 =>
    rintro (hlt | ⟨heq, hn, -⟩)
    · rcases h with h | ⟨h, -⟩ <;> linarith
    · rcases h with h | ⟨-, -, h⟩
      · linarith
      · rw [hn] at h; cases h

theorem FFmt.minmax_eq (F : FFmt) (mx : Bool) (a b : ℕ) :
    F.minmax mx a b =
      ⟨if (F.decode a).isNan then if (F.decode b).isNan then F.nan else b
        else if (F.decode b).isNan then a else if (F.decode a).less (F.decode b) != mx then a else b, (F.decode a).snan ||| (F.decode b).snan⟩ := by
  rw [FFmt.minmax]
  cases (F.decode a).isNan <;> cases (F.decode b).isNan <;> rfl

/-- R88: minimum and maximum. -/
theorem FFmt.minmax_spec (F : FFmt) (mx : Bool) (a b : ℕ) :
    let x := F.decode a
    let y := F.decode b
    let nv : Flags := if x == .nan true || y == .nan true then 0x10 else 0
    let r := F.minmax mx a b
    r.fl = nv ∧ (x.isNan = true → y.isNan = true → r.bits = F.nan) ∧ (x.isNan = true → y.isNan = false → r.bits = b) ∧
    (x.isNan = false → y.isNan = true → r.bits = a) ∧ (x.isNan = false → y.isNan = false →
      (r.bits = a ∨ r.bits = b) ∧ (x.Below y → r.bits = if mx then b else a) ∧ (y.Below x → r.bits = if mx then a else b)) := by
  intro x y nv r
  have hr : r = ⟨if x.isNan then if y.isNan then F.nan else b else if y.isNan then a else if x.less y != mx then a else b, nv⟩ := by
    rw [show nv = x.snan ||| y.snan by rw [x.snan_eq, y.snan_eq, flNV_or]; rfl]
    exact F.minmax_eq mx a b
  rw [hr]
  refine ⟨rfl, fun hx hy => ?both, fun hx hy => ?first, fun hx hy => ?second, fun hx hy => ?numbers⟩
  case both => rw [hx, hy]; rfl
  case first => rw [hx, hy]; rfl
  case second => rw [hx, hy]; rfl
  case numbers =>
    have hbelow := FV.below_iff_less hx hy
    rw [hx, hy]
    refine ⟨ite_eq_or_eq _ a b, fun h => ?_, fun h => ?_⟩
    · rw [hbelow.1 h]
      cases mx <;> rfl
    · rw [Bool.eq_false_iff.2 (mt hbelow.2 (h.asymm hy hx))]
      cases mx <;> rfl

end Sys2Proof.Machine
end

section
/-!
PROOFS. Integer and residue accumulation (05 R70 to R72, R85): cells of integers, words of residues and the Chinese remainder theorem.
-/

namespace Sys2Proof.Machine

theorem foldl_add_eq_sum {α : Type} (f : α → ℤ) (ps : List α) (a : ℤ) : ps.foldl (fun t p => t + f p) a = a + (ps.map f).sum := by
  induction ps generalizing a with
  | nil => simp
  | cons p ps ih => rw [List.foldl_cons, ih, List.map_cons, List.sum_cons, add_assoc]

/-- R85: an integer cell after a chunk. -/
theorem macChunk_int32 (fa fb : BitVec 4) (nbv : BitVec 1) (sa sb : BitVec 8) (acc : FR) (ps : List (ℕ × ℕ)) :
    macChunk .int32 fa fb nbv sa sb acc ps =
      ⟨wrap 32 (acc.bits + (ps.map (fun p => intOf (intBits fa) (fmtSigned fa) p.1 * intOf (intBits fb) (fmtSigned fb) p.2)).sum), acc.fl⟩ := by
  rw [macChunk, foldl_add_eq_sum]
  rfl

/-- The fields of a word packed from three residues, modulo P - 1, P and P + 1 (R69, R70). -/
theorem packed_fields {P lo mid hi : ℕ} (hlo : lo < P - 1) (hmid : mid < P) (hhi : hi < P + 1) :
    (lo + P * mid + P * P * hi) % P % (P - 1) = lo ∧ (lo + P * mid + P * P * hi) / P % P = mid ∧ (lo + P * mid + P * P * hi) / (P * P) % (2 * P) % (P + 1) = hi := by
  have hP : 0 < P := by omega
  have hbelow : lo + P * mid < P * P := by
    have := Nat.mul_le_mul_left P (Nat.succ_le_of_lt hmid)
    rw [Nat.mul_succ] at this
    omega
  have hquot : (lo + P * mid + P * P * hi) / P = mid + P * hi := by
    rw [Nat.mul_assoc, Nat.add_mul_div_left _ _ hP, Nat.add_mul_div_left _ _ hP, Nat.div_eq_of_lt (by omega), Nat.zero_add]
  refine ⟨?_, ?_, ?_⟩
  · rw [Nat.mul_assoc, Nat.add_mul_mod_self_left, Nat.add_mul_mod_self_left, Nat.mod_eq_of_lt (show lo < P by omega), Nat.mod_eq_of_lt hlo]
  · rw [hquot, Nat.add_mul_mod_self_left, Nat.mod_eq_of_lt hmid]
  · rw [Nat.add_mul_div_left _ _ (Nat.mul_pos hP hP), Nat.div_eq_of_lt hbelow, Nat.zero_add, Nat.mod_eq_of_lt (show hi < 2 * P by omega), Nat.mod_eq_of_lt hhi]

/-- The fields of an integer's residue word are its residues (R71). -/
theorem resFields_res30 (v : ℤ) : resFields false (resOf false v) = ((v % 1023).toNat, (v % 1024).toNat, (v % 1025).toNat) := by
  obtain ⟨hlo, hmid, hhi⟩ := packed_fields (P := 1024) (lo := (v % 1023).toNat) (mid := (v % 1024).toNat) (hi := (v % 1025).toNat) (by omega) (by omega) (by omega)
  exact Prod.ext hlo (Prod.ext hmid hhi)

theorem resFields_res15 (v : ℤ) : resFields true (resOf true v) = ((v % 31).toNat, (v % 32).toNat, (v % 33).toNat) := by
  obtain ⟨hlo, hmid, hhi⟩ := packed_fields (P := 32) (lo := (v % 31).toNat) (mid := (v % 32).toNat) (hi := (v % 33).toNat) (by omega) (by omega) (by omega)
  exact Prod.ext hlo (Prod.ext hmid hhi)

/-- A field after a multiplication and an addition (R72). -/
theorem residue_mac {n : ℤ} (hn : 0 < n) (x y z : ℤ) : ((x % n).toNat + (y % n).toNat * (z % n).toNat) % n.toNat = ((x + y * z) % n).toNat := by
  have hres (w : ℤ) : ((w % n).toNat : ℤ) = w % n := Int.toNat_of_nonneg (Int.emod_nonneg _ hn.ne')
  rw [← Int.natCast_inj, Int.natCast_emod, Int.natCast_add, Int.natCast_mul, hres, hres, hres, hres, Int.toNat_of_nonneg hn.le]
  simp [Int.add_emod, Int.mul_emod]

/-- R72: residue words multiply and add as their integers do. -/
theorem resMac_resOf (r15 : Bool) (x y z : ℤ) : resMac r15 (resOf r15 x) (resOf r15 y) (resOf r15 z) = resOf r15 (x + y * z) := by
  have hmac {n : ℤ} (hn : 0 < n) := residue_mac hn x y z
  cases r15 with
  | false =>
    rw [resMac, resFields_res30, resFields_res30, resFields_res30, resOf, ← hmac (n := 1023) (by decide), ← hmac (n := 1024) (by decide), ← hmac (n := 1025) (by decide)]
    rfl
  | true =>
    rw [resMac, resFields_res15, resFields_res15, resFields_res15, resOf, ← hmac (n := 31) (by decide), ← hmac (n := 32) (by decide), ← hmac (n := 33) (by decide)]
    rfl

/-- R85: a residue cell after a chunk. -/
theorem macChunk_res (fa fb : BitVec 4) (nbv : BitVec 1) (sa sb : BitVec 8) (r15 : Bool) (x : ℤ) (fl : Flags) (ps : List (ℤ × ℤ)) :
    macChunk (.res r15) fa fb nbv sa sb ⟨resOf r15 x, fl⟩ (ps.map (fun p => (resOf r15 p.1, resOf r15 p.2))) =
      ⟨resOf r15 (x + (ps.map (fun p => p.1 * p.2)).sum), fl⟩ := by
  have hfold : (ps.map (fun p => (resOf r15 p.1, resOf r15 p.2))).foldl (fun t p => resMac r15 t p.1 p.2) (resOf r15 x) =
      resOf r15 (x + (ps.map (fun p => p.1 * p.2)).sum) := by
    induction ps generalizing x with
    | nil => simp
    | cons p ps ih => rw [List.map_cons, List.foldl_cons, resMac_resOf, ih, List.map_cons, List.sum_cons, add_assoc]
  rw [macChunk, hfold]

/-- The multiplicative inverse that the reconstruction searches for. -/
def crtInverse (a m : ℕ) : ℕ := ((List.range m).find? (fun t => a % m * t % m == 1)).getD 0

theorem crtInverse_spec {a m t : ℕ} (ht : t < m) (h : a * t % m = 1) : a * crtInverse a m ≡ 1 [ZMOD m] := by
  obtain ⟨u, hu⟩ : ∃ u, (List.range m).find? (fun t => a % m * t % m == 1) = some u := by
    rw [← Option.isSome_iff_exists, List.find?_isSome]
    exact ⟨t, List.mem_range.2 ht, by simp [h]⟩
  have hinv : a * u % m = 1 := by simpa using List.find?_some hu
  have hm : 1 % m = 1 := hinv ▸ Nat.mod_mod _ _
  rw [crtInverse, hu, Option.getD_some]
  exact_mod_cast (hinv.trans hm.symm : a * u ≡ 1 [MOD m])

/-- The term of one field has that field's residue, whatever the multiples of the modulus beside it. -/
theorem crt_field {m a i r : ℤ} (hi : a * i ≡ 1 [ZMOD m]) (hr : m ∣ r) (v : ℤ) : v % m * a * i + r ≡ v [ZMOD m] := by
  have h := ((Int.mod_modEq v m).mul hi).add hr.modEq_zero_int
  rwa [mul_one, add_zero, ← mul_assoc] at h

/-- The Chinese remainder theorem, for three moduli and inverses of the products of the others. -/
theorem crt_congruent {m1 m2 m3 i1 i2 i3 : ℕ} (h12 : m1.Coprime m2) (h3 : (m1 * m2).Coprime m3)
    (hi1 : (m2 * m3 : ℕ) * i1 ≡ 1 [ZMOD m1]) (hi2 : (m1 * m3 : ℕ) * i2 ≡ 1 [ZMOD m2]) (hi3 : (m1 * m2 : ℕ) * i3 ≡ 1 [ZMOD m3]) (v : ℤ) :
    v % m1 * (m2 * m3 : ℕ) * i1 + v % m2 * (m1 * m3 : ℕ) * i2 + v % m3 * (m1 * m2 : ℕ) * i3 ≡ v [ZMOD (m1 * m2 * m3 : ℕ)] := by
  have hfields {a b : ℤ} (h1 : a ≡ b [ZMOD m1]) (h2 : a ≡ b [ZMOD m2]) (h : a ≡ b [ZMOD m3]) : a ≡ b [ZMOD (m1 * m2 * m3 : ℕ)] := by
    rw [Nat.cast_mul, ← Int.modEq_and_modEq_iff_modEq_mul (by exact h3), Nat.cast_mul, ← Int.modEq_and_modEq_iff_modEq_mul (by exact h12)]
    exact ⟨⟨h1, h2⟩, h⟩
  refine hfields ?_ ?_ ?_
  · rw [add_assoc]
    exact crt_field hi1 ⟨v % m2 * m3 * i2 + v % m3 * m2 * i3, by push_cast; ring⟩ v
  · rw [add_comm (_ * (i1 : ℤ)), add_assoc]
    exact crt_field hi2 ⟨v % m1 * m3 * i1 + v % m3 * m1 * i3, by push_cast; ring⟩ v
  · rw [add_comm]
    exact crt_field hi3 ⟨v % m1 * m2 * i1 + v % m2 * m1 * i2, by push_cast; ring⟩ v

/-- The integer of the signed range that three residues stand for, with moduli m1, m2 and m3 (R71). -/
def crtInt (m1 m2 m3 f1 f2 f3 : ℕ) : ℤ :=
  let x := (f1 * (m2 * m3) * crtInverse (m2 * m3) m1 + f2 * (m1 * m3) * crtInverse (m1 * m3) m2 + f3 * (m1 * m2) * crtInverse (m1 * m2) m3) % (m1 * m2 * m3)
  if m1 * m2 * m3 / 2 ≤ x then (x : ℤ) - (m1 * m2 * m3 : ℕ) else x

theorem resInt_eq (r15 : Bool) (b : ℕ) :
    resInt r15 b = crtInt (if r15 then 31 else 1023) (if r15 then 32 else 1024) (if r15 then 33 else 1025)
      (resFields r15 b).1 (resFields r15 b).2.1 (resFields r15 b).2.2 := rfl

/-- The signed number of a residue modulo an even number. -/
theorem signed_of_modEq {M half x : ℕ} {v : ℤ} (hM : M = 2 * half) (hx : x < M) (h : x ≡ v [ZMOD M]) (hlo : -half ≤ v) (hhi : v < half) :
    (if M / 2 ≤ x then (x : ℤ) - M else x) = v := by
  obtain ⟨c, hc⟩ := h.symm.dvd
  refine Int.sub_eq_zero.1 (Int.eq_zero_of_abs_lt_dvd (m := M) ?_ ?_)
  · split
    · exact ⟨c - 1, by rw [mul_sub, ← hc]; ring⟩
    · exact ⟨c, hc⟩
  · rw [abs_lt]
    split <;> omega

/-- An integer of the signed range is the one that its residues stand for. -/
theorem crtInt_residues {m1 m2 m3 i1 i2 i3 half : ℕ} (h12 : m1.Coprime m2) (h3 : (m1 * m2).Coprime m3) (hi1 : i1 < m1) (hi2 : i2 < m2) (hi3 : i3 < m3)
    (h1 : m2 * m3 * i1 % m1 = 1) (h2 : m1 * m3 * i2 % m2 = 1) (h3' : m1 * m2 * i3 % m3 = 1) (hhalf : m1 * m2 * m3 = 2 * half) {v : ℤ} (hlo : -half ≤ v) (hhi : v < half) :
    crtInt m1 m2 m3 (v % m1).toNat (v % m2).toNat (v % m3).toNat = v := by
  have hres {m i : ℕ} (hi : i < m) : ((v % m).toNat : ℤ) = v % m := Int.toNat_of_nonneg (Int.emod_nonneg _ (by omega))
  have hcrt := crt_congruent h12 h3 (crtInverse_spec hi1 h1) (crtInverse_spec hi2 h2) (crtInverse_spec hi3 h3') v
  rw [← hres hi1, ← hres hi2, ← hres hi3] at hcrt
  have hpos : 0 < m1 * m2 * m3 := Nat.mul_pos (Nat.mul_pos (by omega) (by omega)) (by omega)
  refine signed_of_modEq hhalf (Nat.mod_lt _ hpos) ?_ hlo hhi
  rw [Int.natCast_emod]
  exact (Int.mod_modEq _ _).trans (by exact_mod_cast hcrt)

/-- R71: the residue word of an integer of the signed range gives it back. -/
theorem resInt_res30 {v : ℤ} (hlo : -(1023 * 512 * 1025) ≤ v) (hhi : v < 1023 * 512 * 1025) : resInt false (resOf false v) = v := by
  rw [resInt_eq, resFields_res30]
  exact crtInt_residues (m1 := 1023) (m2 := 1024) (m3 := 1025) (i1 := 512) (i2 := 1023) (i3 := 513) (half := 1023 * 512 * 1025)
    (by decide) (by decide) (by decide) (by decide) (by decide) (by decide) (by decide) (by decide) (by decide) hlo hhi

theorem resInt_res15 {v : ℤ} (hlo : -(31 * 16 * 33) ≤ v) (hhi : v < 31 * 16 * 33) : resInt true (resOf true v) = v := by
  rw [resInt_eq, resFields_res15]
  exact crtInt_residues (m1 := 31) (m2 := 32) (m3 := 33) (i1 := 16) (i2 := 31) (i3 := 17) (half := 31 * 16 * 33)
    (by decide) (by decide) (by decide) (by decide) (by decide) (by decide) (by decide) (by decide) (by decide) hlo hhi

end Sys2Proof.Machine
end

section
/-!
PROOFS. The obligation on codes, rounding, floating arithmetic, and integer and residue accumulation, from the results of each.
-/

namespace Sys2Proof.Machine

/-- The modes of c.frm are not SR (R73, R92). -/
theorem RM.of_ne_sr (c rnd : ℕ) : RM.of c ≠ .sr rnd := by
  unfold RM.of
  split <;> simp

theorem magnitude_maxBits_of :
    (FFmt.of 0).magnitude (FFmt.of 0).maxBits = 448 ∧ (FFmt.of 1).magnitude (FFmt.of 1).maxBits = 57344 ∧ (FFmt.of 2).magnitude (FFmt.of 2).maxBits = 28 ∧
    (FFmt.of 3).magnitude (FFmt.of 3).maxBits = 15 / 2 ∧ (FFmt.of 4).magnitude (FFmt.of 4).maxBits = 6 := by
  show FFmt.magnitude ⟨3, 4, 7, 1⟩ 126 = 448 ∧ FFmt.magnitude ⟨2, 5, 15, 2⟩ 123 = 57344 ∧ FFmt.magnitude ⟨2, 3, 3, 0⟩ 31 = 28 ∧
    FFmt.magnitude ⟨3, 2, 1, 0⟩ 31 = 15 / 2 ∧ FFmt.magnitude ⟨1, 2, 1, 0⟩ 7 = 6
  refine ⟨?_, ?_, ?_, ?_, ?_⟩ <;> norm_num [FFmt.magnitude, FFmt.qmin]

/-- Settles O28: the value of a code, rounding, the operations of FP32, FP16 and BF16, minimum and maximum, and the accumulation of integers and residues. -/
theorem exactArithmetic : Obligations.exact_arithmetic := by
  unfold Obligations.exact_arithmetic
  refine ⟨fun f m sat n k e b _ hb hdec => FFmt.round_decode (FFmt.sound_of f) m sat hb hdec, fun f b _ hb => FFmt.decode_code (FFmt.sound_of f) hb, magnitude_maxBits_of,
    fun f m sat neg k e _ => ?rounding, fun f c _ _ => ?arithmetic, macChunk_int32, fun v => ⟨resInt_res30, resInt_res15⟩, resMac_resOf, macChunk_res⟩
  case rounding =>
    refine ⟨?_, fun hk => ?_⟩
    · rintro rfl
      exact FFmt.round_zero ..
    · rw [FV.real_pos]
      exact FFmt.round_rounded (FFmt.sound_of f) m sat neg hk.ne' e
  case arithmetic =>
    have hF := FFmt.sound_of f
    have hmode := RM.of_ne_sr c
    generalize FFmt.of f = F at hF
    generalize RM.of c = m at hmode
    refine ⟨fun x y z => ⟨F.nan_operand m, F.sqrtV_nan m, F.fmaV_nan m⟩, fun n k => ?infinite, ?addend, ?finite, F.minmax_spec⟩
    case infinite =>
      obtain ⟨hadd, hmul, hdiv, hsqrt⟩ := F.infinities m n k
      refine ⟨hadd, hmul, hdiv, hsqrt, fun l e => ?_⟩
      obtain ⟨h1, h2, h3, h4, h5, h6⟩ := F.infinity_finite m n k l e
      exact ⟨h1, h2, h3, h4, h5, h6, fun z => F.fmaV_infinite m n k l e⟩
    case addend =>
      intro n n1 n2 k1 k2 e1 e2
      rw [F.fmaV_fin _ _ _ _ _ _ _ rfl]
      rfl
    case finite =>
      intro n1 n2 n3 k1 k2 k3 e1 e2 e3
      refine ⟨FFmt.addV_correct hF hmode .., FFmt.mulV_correct hF hmode .., FFmt.fmaV_correct hF hmode .., fun hk2 => ?_, FFmt.divV_correct hF hmode _ _ _ _ _,
        fun hn hk => ?_, FFmt.sqrtV_correct hF hmode e1⟩
      · rw [FFmt.divV, if_pos hk2]
        rfl
      · rw [FFmt.sqrtV, if_neg hk, if_pos hn]
        rfl

end Sys2Proof.Machine
end

section
/-!
PROOFS. The encoding and the decoder (07 R112 to R120). Both directions rest on one fact, that the field of a word which is put together from fields is the
field that was put there: it reads the fields of an encoding, and it puts a decoded word together again from the fields that the decoder has read or checked.
-/

namespace Sys2Proof

/-! ### Fields of a word -/

/-- Reading a field of a word put together from fields: what lies above the last field and what lies in it. -/
theorem extractLsb'_append {v w start len : Nat} {x : BitVec v} {y : BitVec w} :
    (w ≤ start → @BitVec.extractLsb' (no_index (v + w)) start len (x ++ y) = x.extractLsb' (start - w) len) ∧
    (start + len ≤ w → @BitVec.extractLsb' (no_index (v + w)) start len (x ++ y) = y.extractLsb' start len) :=
  ⟨BitVec.extractLsb'_append_eq_of_le, BitVec.extractLsb'_append_eq_of_add_le⟩

/-- A word put together from two is a field of z exactly when each of the two is its part of that field. -/
theorem append_eq_extractLsb'_iff {n v w start : Nat} {x : BitVec v} {y : BitVec w} {z : BitVec n} :
    @Eq (BitVec (no_index (v + w))) (x ++ y) (z.extractLsb' start (no_index (v + w))) ↔
      x = z.extractLsb' (start + w) v ∧ y = z.extractLsb' start w := by
  rw [← BitVec.extractLsb'_append_extractLsb'_eq_extractLsb' rfl]
  refine ⟨fun h => ⟨?_, ?_⟩, fun ⟨hx, hy⟩ => by rw [hx, hy]⟩
  · simpa [BitVec.extractLsb'_append_eq_of_le] using congrArg (BitVec.extractLsb' w v) h
  · simpa [BitVec.extractLsb'_append_eq_of_add_le] using congrArg (BitVec.extractLsb' 0 w) h

/-- The minor of a head, by value. -/
theorem minor_cases (f : BitVec 3) : f = 0#3 ∨ f = 1#3 ∨ f = 2#3 ∨ f = 3#3 ∨ f = 4#3 ∨ f = 5#3 ∨ f = 6#3 ∨ f = 7#3 := by
  revert f
  decide

/-- The top bit of the minor, which LEA X1 keeps zero beside its scale. -/
theorem minor_top {h : Parcel} {f : BitVec 3} (hf : h.extractLsb' 0 3 = f) : h.extractLsb' 2 1 = f.extractLsb' 2 1 := by
  subst hf
  ext k hk
  simp only [BitVec.getElem_extractLsb']
  simp [show 2 + k < 3 by omega]

/-- A tail has the length that its head gives (R116). -/
theorem tail_cases {h : Parcel} {t : Tail} (hl : (h.extractLsb' 14 2).toNat = t.parcels.length) :
    (t = .none ∧ h.extractLsb' 14 2 = 0#2) ∨ (∃ v, t = .one v ∧ h.extractLsb' 14 2 = 1#2) ∨
    (∃ v, t = .two v ∧ h.extractLsb' 14 2 = 2#2) ∨ ∃ v, t = .three v ∧ h.extractLsb' 14 2 = 3#2 := by
  cases t <;> simp [← BitVec.toNat_inj, hl, Tail.parcels]

theorem Tail.one_eq_iff {v w : BitVec 16} : Tail.one v = .one w ↔ v = w.extractLsb' 0 16 := by simp
theorem Tail.two_eq_iff {v w : BitVec 32} : Tail.two v = .two w ↔ v = w.extractLsb' 0 32 := by simp
theorem Tail.three_eq_iff {v w : BitVec 48} : Tail.three v = .three w ↔ v = w.extractLsb' 0 48 := by simp

/-! ### The checks of a row (R120, checks 5 and 6) -/

theorem checked_eq_ok_iff {illegal clear : Bool} {i j : Instr} : checked illegal clear i = .ok j ↔ illegal = false ∧ clear = true ∧ i = j := by
  cases illegal <;> cases clear <;> simp [checked]

theorem checked_eq_ok {illegal clear : Bool} {i j : Instr} (hi : i = j) (hc : (!illegal && clear) = true) : checked illegal clear i = .ok j := by
  simp_all [checked_eq_ok_iff]

/-- The rounding code zero, which stands where a form has none. -/
theorem rmPlain_zero : rmPlain 0#3 = true := rfl

/-! ### Majors -/

/-- What the decoder does with a head of major m. -/
noncomputable def decMajor (m : BitVec 6) (h : Parcel) (t : Tail) : Except Reject Instr :=
  match m.toNat with
  | 0x00 => decMajor00 h t
  | 0x01 => decMajor01 h t
  | 0x02 => decMajor02 h t
  | 0x03 => decMajor03 h t
  | 0x04 => decMajor04 h t
  | 0x05 => decMajor05 h t
  | 0x06 => decMajor06 h t
  | 0x07 => decMajor07 h t
  | 0x08 => decMajor08 h t
  | 0x09 => decMajor09 h t
  | 0x0A => decMajor0A h t
  | 0x0B => decMajor0B h t
  | 0x0C => decMajor0C h t
  | 0x0D => decMajor0D h t
  | 0x0E => decMajor0E h t
  | 0x0F => decMajor0F h t
  | 0x10 => decMajor10 h t
  | 0x11 => decMajor11 h t
  | 0x12 => decMajor12 h t
  | 0x13 => decMajor13 h t
  | 0x14 => decMajor14 h t
  | 0x15 => decMajor15 h t
  | 0x16 => decMajor16 h t
  | 0x17 => decMajor17 h t
  | 0x18 => decMajor18 h t
  | 0x20 => decMajor20 h t
  | 0x21 => decMajor21 h t
  | 0x22 => decMajor22 h t
  | 0x23 => decMajor23 h t
  | 0x24 => decMajor24 h t
  | 0x25 => decMajor25 h t
  | 0x26 => decMajor26 h t
  | 0x27 => decMajor27 h t
  | 0x28 => decMajor28 h t
  | 0x29 => decMajor29 h t
  | 0x2A => decMajor2A h t
  | 0x2B => decMajor2B h t
  | 0x2C => decMajor2C h t
  | 0x2D => decMajor2D h t
  | 0x2E => decMajor2E h t
  | 0x2F => decMajor2F h t
  | 0x30 => decMajor30 h t
  | 0x31 => decMajor31 h t
  | 0x32 => decMajor32 h t
  | _ => .error .reservedMajor

theorem decodeHT_eq_decMajor (h : Parcel) (t : Tail) : decodeHT h t = decMajor (h.extractLsb' 8 6) h t := rfl

/-- The minor map of each major. -/
theorem decMajor_eq :
    decMajor 0x00#6 = decMajor00 ∧ decMajor 0x01#6 = decMajor01 ∧ decMajor 0x02#6 = decMajor02 ∧ decMajor 0x03#6 = decMajor03 ∧
    decMajor 0x04#6 = decMajor04 ∧ decMajor 0x05#6 = decMajor05 ∧ decMajor 0x06#6 = decMajor06 ∧ decMajor 0x07#6 = decMajor07 ∧
    decMajor 0x08#6 = decMajor08 ∧ decMajor 0x09#6 = decMajor09 ∧ decMajor 0x0A#6 = decMajor0A ∧ decMajor 0x0B#6 = decMajor0B ∧
    decMajor 0x0C#6 = decMajor0C ∧ decMajor 0x0D#6 = decMajor0D ∧ decMajor 0x0E#6 = decMajor0E ∧ decMajor 0x0F#6 = decMajor0F ∧
    decMajor 0x10#6 = decMajor10 ∧ decMajor 0x11#6 = decMajor11 ∧ decMajor 0x12#6 = decMajor12 ∧ decMajor 0x13#6 = decMajor13 ∧
    decMajor 0x14#6 = decMajor14 ∧ decMajor 0x15#6 = decMajor15 ∧ decMajor 0x16#6 = decMajor16 ∧ decMajor 0x17#6 = decMajor17 ∧
    decMajor 0x18#6 = decMajor18 ∧ decMajor 0x20#6 = decMajor20 ∧ decMajor 0x21#6 = decMajor21 ∧ decMajor 0x22#6 = decMajor22 ∧
    decMajor 0x23#6 = decMajor23 ∧ decMajor 0x24#6 = decMajor24 ∧ decMajor 0x25#6 = decMajor25 ∧ decMajor 0x26#6 = decMajor26 ∧
    decMajor 0x27#6 = decMajor27 ∧ decMajor 0x28#6 = decMajor28 ∧ decMajor 0x29#6 = decMajor29 ∧ decMajor 0x2A#6 = decMajor2A ∧
    decMajor 0x2B#6 = decMajor2B ∧ decMajor 0x2C#6 = decMajor2C ∧ decMajor 0x2D#6 = decMajor2D ∧ decMajor 0x2E#6 = decMajor2E ∧
    decMajor 0x2F#6 = decMajor2F ∧ decMajor 0x30#6 = decMajor30 ∧ decMajor 0x31#6 = decMajor31 ∧ decMajor 0x32#6 = decMajor32 := by
  and_intros <;> rfl

/-- Majors of scalar computation and control. -/
def scalarMajors : List (BitVec 6) := [0x00#6, 0x01#6, 0x02#6, 0x03#6, 0x04#6, 0x05#6, 0x06#6, 0x07#6, 0x08#6, 0x09#6, 0x0A#6, 0x0B#6, 0x0C#6, 0x0D#6, 0x0E#6, 0x0F#6]

/-- Majors of memory, synchronisation and tasks. -/
def memoryMajors : List (BitVec 6) := [0x10#6, 0x11#6, 0x12#6, 0x13#6, 0x14#6, 0x15#6, 0x16#6, 0x17#6, 0x18#6]

/-- Majors of vector arithmetic and compares. -/
def vectorArithmeticMajors : List (BitVec 6) := [0x20#6, 0x21#6, 0x22#6, 0x23#6]

/-- Majors of vector moves, reductions, conversions and special functions. -/
def vectorMovementMajors : List (BitVec 6) := [0x24#6, 0x25#6, 0x26#6, 0x27#6]

/-- Majors of matrices, descriptors, tiles, copies, rewards, draws, stamps and translation. -/
def unitMajors : List (BitVec 6) := [0x28#6, 0x29#6, 0x2A#6, 0x2B#6, 0x2C#6, 0x2D#6, 0x2E#6, 0x2F#6, 0x30#6, 0x31#6, 0x32#6]

/-- The majors that the opcode table uses. -/
def usedMajors : List (BitVec 6) :=
  scalarMajors ++ memoryMajors ++ vectorArithmeticMajors ++ vectorMovementMajors ++ unitMajors

/-- A major that the table does not use is reserved (R120, check 2). -/
theorem mem_usedMajors {m : BitVec 6} {h : Parcel} {t : Tail} {i : Instr} (hd : decMajor m h t = .ok i) : m ∈ usedMajors := by
  unfold decMajor at hd
  split at hd
  case h_45 => cases hd
  all_goals
    next hm =>
      rw [show m = BitVec.ofNat 6 m.toNat by simp, hm]
      decide

/-!
### Reading an encoding back

The opcode table is gone through by groups of majors. A row's proof says in turn that its head names the length of its tail, that the minor map of its major comes
to the row's own check, that the operands which the check reads are those that were encoded, and that the check is passed by what is well formed.
-/

/-- A well-formed instruction's head gives the length of its tail, and its head and tail decode to it. -/
structure Instr.DecodesBack (i : Instr) : Prop where
  decode : i.wf = true → ∀ h t, encodeHT i = some (h, t) → decodeHT h t = .ok i
  length : ∀ h t, encodeHT i = some (h, t) → h.extractLsb' 14 2 = BitVec.ofNat 2 t.parcels.length

theorem Instr.DecodesBack.of_row {i : Instr} {h : Parcel} {t : Tail} (he : encodeHT i = some (h, t))
    (hl : h.extractLsb' 14 2 = BitVec.ofNat 2 t.parcels.length) (hd : i.wf = true → decodeHT h t = .ok i) : i.DecodesBack := by
  constructor
  all_goals simpa [he]

/-- What is no instruction of a thread has nothing to decode. -/
theorem Instr.DecodesBack.of_none {i : Instr} (he : encodeHT i = none) : i.DecodesBack := by
  constructor <;> simp [he]

/-- The minors of LEA X1: a zero bit and the scale. -/
theorem minor_leaX1 : 0#1 ++ 0#2 = 0#3 ∧ 0#1 ++ 1#2 = 1#3 ∧ 0#1 ++ 2#2 = 2#3 ∧ 0#1 ++ 3#2 = 3#3 := by decide

/-- LEA X1, whose minor holds its scale. -/
theorem decodesBack_leaX1 (n : BitVec 2) (d b c : SReg) (imm : BitVec 33) : (Instr.leaX1 n d b c imm).DecodesBack := by
  have hn : n = 0#2 ∨ n = 1#2 ∨ n = 2#2 ∨ n = 3#2 := by revert n; decide
  have hf : BitVec.extractLsb' 0 3 (3#2 ++ 0x06#6 ++ d ++ 0#1 ++ n) = 0#1 ++ n := by
    symm
    apply append_eq_extractLsb'_iff.mpr
    constructor
    all_goals simp (disch := decide) only [Nat.zero_add, extractLsb'_append, BitVec.extractLsb'_eq_self, Nat.reduceSub]
  refine .of_row rfl ?_ fun hw => ?_
  · simp (disch := decide) only [extractLsb'_append, BitVec.extractLsb'_eq_self, Nat.reduceSub]
    rfl
  obtain rfl | rfl | rfl | rfl := hn
  all_goals
    simp (disch := decide) only [decodeHT_eq_decMajor, decMajor_eq, decMajor06, extractLsb'_append, BitVec.extractLsb'_eq_self, Nat.reduceSub,
      hf, minor_leaX1, BitVec.reduceToNat]
    refine checked_eq_ok ?_ (.trans ?_ hw)
    · simp (disch := decide) only [extractLsb'_append, BitVec.extractLsb'_eq_self, Nat.reduceSub]
    · simp (disch := decide) only [extractLsb'_append, BitVec.extractLsb'_eq_self, Nat.reduceSub, beq_self_eq_true, Bool.and_true, Bool.not_false]
      rfl

/-- Rows of scalar computation and control. -/
theorem decodesBack_scalar :
    (∀ I ∈ [Instr.add, .sub], ∀ d b c sat, (I d b c sat).DecodesBack) ∧
    (∀ I ∈ [Instr.andR, .orR, .xorR, .sll, .srl, .sra, .seq, .sne, .slt, .sltu, .sle, .sleu, .minS, .minU, .maxS, .maxU, .mul, .mulh, .mulhu, .mulhsu,
      .div, .divu, .rem, .remu, .rol, .ror], ∀ d b c, (I d b c).DecodesBack) ∧
    (∀ I ∈ [Instr.addI, .rsubI, .andI, .orI, .xorI, .sllI, .srlI, .sraI, .lea], ∀ d b imm, (I d b imm).DecodesBack) ∧
    (∀ I ∈ [Instr.addW, .rsubW, .andW, .orW, .xorW, .sllW, .srlW, .sraW, .seqW, .sneW, .sltW, .sltuW, .sleW, .sleuW, .minW, .minuW, .maxW, .maxuW,
      .leaW], ∀ d b imm, (I d b imm).DecodesBack) ∧
    (∀ I ∈ [Instr.clz, .ctz, .popc, .brev, .bswap, .mov], ∀ d b, (I d b).DecodesBack) ∧
    (∀ I ∈ [Instr.ext, .extu, .ins], ∀ d b pos lenM1, (I d b pos lenM1).DecodesBack) ∧
    (∀ I ∈ [Instr.li, .liZ, .trap, .mfc, .mtc], ∀ d imm, (I d imm).DecodesBack) ∧
    (∀ I ∈ [Instr.liW, .liZW, .lih], ∀ d imm, (I d imm).DecodesBack) ∧
    (∀ I ∈ [Instr.liX0, .liZX0], ∀ d imm, (I d imm).DecodesBack) ∧
    (∀ d b c k, (Instr.sel d b c k).DecodesBack) ∧
    (∀ I ∈ [Instr.beqz, .bnez, .bltz, .bgez, .bgtz, .blez, .dbnz], ∀ b off, (I b off).DecodesBack) ∧
    (∀ I ∈ [Instr.beq, .bne, .blt, .bge, .bltu, .bgeu], ∀ b c off, (I b c off).DecodesBack) ∧
    (∀ I ∈ [Instr.br, .call], ∀ off, (I off).DecodesBack) ∧
    (∀ I ∈ [Instr.jt, .callt], ∀ l b c nM1, (I l b c nM1).DecodesBack) ∧
    (∀ I ∈ [Instr.jtW, .calltW], ∀ b c n l, (I b c n l).DecodesBack) ∧
    (∀ l, (Instr.lpad l).DecodesBack) ∧
    (∀ I ∈ [Instr.nop, .exit, .ret, .eret], I.DecodesBack) ∧
    (∀ f, (Instr.rets f).DecodesBack) := by
  simp only [List.mem_cons, List.not_mem_nil, or_false, forall_eq_or_imp, forall_eq]
  and_intros
  all_goals
    intros
    refine .of_row rfl ?_ fun hw => ?_
    · simp (disch := decide) only [extractLsb'_append, BitVec.extractLsb'_eq_self, Nat.reduceSub]
      rfl
    simp (disch := decide) only [decodeHT_eq_decMajor, decMajor_eq, decMajor00, decMajor01, decMajor02, decMajor03, decMajor04, decMajor05,
      decMajor06, decMajor07, decMajor08, decMajor09, decMajor0A, decMajor0B, decMajor0C, decMajor0D,
      decMajor0E, decMajor0F, extractLsb'_append, BitVec.extractLsb'_eq_self, Nat.reduceSub, BitVec.reduceToNat,
      BitVec.reduceBEq, reduceIte, Bool.false_eq_true]
    refine checked_eq_ok ?_ (.trans ?_ hw)
    · simp (disch := decide) only [extractLsb'_append, BitVec.extractLsb'_eq_self, Nat.reduceSub]
    · simp (disch := decide) only [extractLsb'_append, BitVec.extractLsb'_eq_self, Nat.reduceSub, BitVec.reduceBEq, Bool.and_true,
        Bool.not_false]
      rfl

/-- Rows of memory, synchronisation and tasks. -/
theorem decodesBack_memory :
    (∀ I ∈ [Instr.ld, .lw, .lwu, .lh, .lhu, .lb, .lbu, .st, .sw, .sh, .sb], ∀ d b imm, (I d b imm).DecodesBack) ∧
    (∀ I ∈ [Instr.ldW, .lwW, .lwuW, .lhW, .lhuW, .lbW, .lbuW, .stW, .swW, .shW, .sbW], ∀ d b rx imm, (I d b rx imm).DecodesBack) ∧
    (∀ I ∈ [Instr.ldX1, .lwX1, .lwuX1, .lhX1, .lhuX1, .lbX1, .lbuX1, .stX1, .swX1, .shX1, .sbX1], ∀ d b c rx imm, (I d b c rx imm).DecodesBack) ∧
    (∀ I ∈ [Instr.vld, .vst], ∀ vd b mk ew, (I vd b mk ew).DecodesBack) ∧
    (∀ I ∈ [Instr.vlds, .vsts], ∀ vd b c mk ew, (I vd b c mk ew).DecodesBack) ∧
    (∀ I ∈ [Instr.vldW, .vstW], ∀ vd b mk rx ew imm, (I vd b mk rx ew imm).DecodesBack) ∧
    (∀ I ∈ [Instr.vldsW, .vstsW], ∀ vd b c mk rx ew imm, (I vd b c mk rx ew imm).DecodesBack) ∧
    (∀ I ∈ [Instr.vldX1, .vstX1], ∀ vd b mk rx ew imm, (I vd b mk rx ew imm).DecodesBack) ∧
    (∀ I ∈ [Instr.vldsX1, .vstsX1], ∀ vd b c mk rx ew imm, (I vd b c mk rx ew imm).DecodesBack) ∧
    (∀ I ∈ [Instr.vgath, .vscat], ∀ vd b c mk x64, (I vd b c mk x64).DecodesBack) ∧
    (∀ I ∈ [Instr.vgathW, .vscatW], ∀ vd b c mk rx x64 sc, (I vd b c mk rx x64 sc).DecodesBack) ∧
    (∀ I ∈ [Instr.aadd, .aand, .aor, .axor, .aswp, .acas, .amin, .amax, .aminu, .amaxu, .afadd], ∀ d b c w32 rx, (I d b c w32 rx).DecodesBack) ∧
    (∀ I ∈ [Instr.aaddW, .aandW, .aorW, .axorW, .aswpW, .acasW, .aminW, .amaxW, .aminuW, .amaxuW, .afaddW], ∀ d b c w32 rx imm, (I d b c w32 rx
      imm).DecodesBack) ∧
    (∀ t, (Instr.tatsw t).DecodesBack) ∧
    (∀ I ∈ [Instr.tget, .tset, .sbinit], ∀ d b, (I d b).DecodesBack) ∧
    (∀ I ∈ [Instr.tsetImm, .waitTag], ∀ b t, (I b t).DecodesBack) ∧
    (∀ I ∈ [Instr.tcas, .sbwait, .sbtest], ∀ d b c, (I d b c).DecodesBack) ∧
    (∀ t b, (Instr.tatld t b).DecodesBack) ∧
    (∀ t k, (Instr.rmset t k).DecodesBack) ∧
    (∀ I ∈ [Instr.fence, .bar, .bara, .barw], ∀ sc, (I sc).DecodesBack) ∧
    (∀ p q, (Instr.xfence p q).DecodesBack) ∧
    (∀ I ∈ [Instr.sbarv, .steal, .flushi], ∀ d b sc, (I d b sc).DecodesBack) ∧
    (∀ I ∈ [Instr.dqlen, .joinWord], ∀ d, (I d).DecodesBack) ∧
    (∀ b fl, (Instr.pcon b fl).DecodesBack) ∧
    (∀ b off, (Instr.spawn b off).DecodesBack) := by
  simp only [List.mem_cons, List.not_mem_nil, or_false, forall_eq_or_imp, forall_eq]
  and_intros
  all_goals
    intros
    refine .of_row rfl ?_ fun hw => ?_
    · simp (disch := decide) only [extractLsb'_append, BitVec.extractLsb'_eq_self, Nat.reduceSub]
      rfl
    simp (disch := decide) only [decodeHT_eq_decMajor, decMajor_eq, decMajor10, decMajor11, decMajor12, decMajor13, decMajor14, decMajor15,
      decMajor16, decMajor17, decMajor18, extractLsb'_append, BitVec.extractLsb'_eq_self, Nat.reduceSub,
      BitVec.reduceToNat, BitVec.reduceBEq, reduceIte, Bool.false_eq_true]
    refine checked_eq_ok ?_ (.trans ?_ hw)
    · simp (disch := decide) only [extractLsb'_append, BitVec.extractLsb'_eq_self, Nat.reduceSub]
    · simp (disch := decide) only [extractLsb'_append, BitVec.extractLsb'_eq_self, Nat.reduceSub, BitVec.reduceBEq, Bool.true_and, Bool.and_true,
        Bool.not_false]
      rfl

/-- Rows of vector arithmetic and compares. -/
theorem decodesBack_vectorArithmetic :
    (∀ I ∈ [Instr.vadd, .vsub, .vmul, .vmulh, .vmin, .vmax, .vminu, .vmaxu, .vfadd, .vfsub, .vfmul, .vfdiv, .vfmin, .vfmax, .vfma, .vfms, .vfnma,
      .vfnms, .vmac, .vdot, .vdotu, .vseq, .vsne, .vslt, .vsle, .vsltu, .vsleu], ∀ d b c mk t, (I d b c mk t).DecodesBack) ∧
    (∀ I ∈ [Instr.vaddW, .vsubW, .vmulW], ∀ d b c z mk t sat, (I d b c z mk t sat).DecodesBack) ∧
    (∀ I ∈ [Instr.vmulhW, .vminW, .vmaxW, .vminuW, .vmaxuW, .vand, .vor, .vxor, .vsll, .vsrl, .vsra, .vmulhu, .vseqW, .vsneW, .vsltW, .vsleW, .vsltuW,
      .vsleuW, .vfeq, .vfne, .vflt, .vfle, .vfun], ∀ d b c z mk t, (I d b c z mk t).DecodesBack) ∧
    (∀ d b mk t sat, (Instr.vabs d b mk t sat).DecodesBack) ∧
    (∀ d b mk t, (Instr.vfsqrt d b mk t).DecodesBack) ∧
    (∀ I ∈ [Instr.vfaddW, .vfsubW, .vfmulW, .vfdivW, .vfminW, .vfmaxW], ∀ d b c z mk t rm, (I d b c z mk t rm).DecodesBack) ∧
    (∀ I ∈ [Instr.vfsqrtW, .vfneg, .vfabs], ∀ d b mk t rm, (I d b mk t rm).DecodesBack) ∧
    (∀ I ∈ [Instr.vfmaW, .vfmsW, .vfnmaW, .vfnmsW], ∀ d b c e z mk t rm, (I d b c e z mk t rm).DecodesBack) ∧
    (∀ I ∈ [Instr.vmacW, .vdotW, .vdotuW], ∀ d b c e z mk t sat, (I d b c e z mk t sat).DecodesBack) := by
  simp only [List.mem_cons, List.not_mem_nil, or_false, forall_eq_or_imp, forall_eq]
  and_intros
  all_goals
    intros
    refine .of_row rfl ?_ fun hw => ?_
    · simp (disch := decide) only [extractLsb'_append, BitVec.extractLsb'_eq_self, Nat.reduceSub]
      rfl
    simp (disch := decide) only [decodeHT_eq_decMajor, decMajor_eq, decMajor20, decMajor21, decMajor22, decMajor23, extractLsb'_append,
      BitVec.extractLsb'_eq_self, Nat.reduceSub, BitVec.reduceToNat, BitVec.reduceBEq, reduceIte,
      Bool.false_eq_true]
    refine checked_eq_ok ?_ (.trans ?_ hw)
    · simp (disch := decide) only [extractLsb'_append, BitVec.extractLsb'_eq_self, Nat.reduceSub]
    · simp (disch := decide) only [extractLsb'_append, BitVec.extractLsb'_eq_self, Nat.reduceSub, BitVec.reduceBEq, rmPlain_zero, Bool.true_and, Bool.and_true,
        Bool.not_true, Bool.not_false, Bool.or_false, ← Bool.and_assoc]
      rfl

/-- Rows of vector moves, reductions, conversions and special functions. -/
theorem decodesBack_vectorMovement :
    (∀ I ∈ [Instr.vmov, .vmovW, .vexp2, .vlog2, .vrcp, .vrsqrt, .vtanh, .vsig, .vexp], ∀ d b mk t, (I d b mk t).DecodesBack) ∧
    (∀ I ∈ [Instr.vbcast, .vbcastW], ∀ d c mk t, (I d c mk t).DecodesBack) ∧
    (∀ I ∈ [Instr.vsldn, .vslup, .vsldnW, .vslupW], ∀ d b c mk t, (I d b c mk t).DecodesBack) ∧
    (∀ I ∈ [Instr.vperm, .vpermW], ∀ d b c mk t, (I d b c mk t).DecodesBack) ∧
    (∀ I ∈ [Instr.vins, .vinsW], ∀ d b c mk t, (I d b c mk t).DecodesBack) ∧
    (∀ I ∈ [Instr.vext, .vextW], ∀ d b c t, (I d b c t).DecodesBack) ∧
    (∀ I ∈ [Instr.vrsum, .vrmin, .vrmax, .vrminu, .vrmaxu, .vrpopc, .vrsumW, .vrminW, .vrmaxW, .vrminuW, .vrmaxuW, .vrpopcW], ∀ d b mk t, (I d b mk
      t).DecodesBack) ∧
    (∀ I ∈ [Instr.vrfsum, .vrfmin, .vrfmax], ∀ d b mk t rm, (I d b mk t rm).DecodesBack) ∧
    (∀ d b c mk t rm, (Instr.vrfsumo d b c mk t rm).DecodesBack) ∧
    (∀ I ∈ [Instr.vftoi, .vftoiu], ∀ d b mk sat, (I d b mk sat).DecodesBack) ∧
    (∀ I ∈ [Instr.vitof, .vutof], ∀ d b mk, (I d b mk).DecodesBack) ∧
    (∀ d b p r mk fs fd rm sat, (Instr.vcvt d b p r mk fs fd rm sat).DecodesBack) ∧
    (∀ I ∈ [Instr.vexp2W, .vlog2W, .vrcpW, .vrsqrtW, .vtanhW, .vsigW, .vexpW], ∀ d b mk t rm, (I d b mk t rm).DecodesBack) := by
  simp only [List.mem_cons, List.not_mem_nil, or_false, forall_eq_or_imp, forall_eq]
  and_intros
  all_goals
    intros
    refine .of_row rfl ?_ fun hw => ?_
    · simp (disch := decide) only [extractLsb'_append, BitVec.extractLsb'_eq_self, Nat.reduceSub]
      rfl
    simp (disch := decide) only [decodeHT_eq_decMajor, decMajor_eq, decMajor24, decMajor25, decMajor26, decMajor27, extractLsb'_append,
      BitVec.extractLsb'_eq_self, Nat.reduceSub, BitVec.reduceToNat, BitVec.reduceBEq, reduceIte,
      Bool.false_eq_true]
    refine checked_eq_ok ?_ (.trans ?_ hw)
    · simp (disch := decide) only [extractLsb'_append, BitVec.extractLsb'_eq_self, Nat.reduceSub]
    · simp (disch := decide) only [extractLsb'_append, BitVec.extractLsb'_eq_self, Nat.reduceSub, BitVec.reduceBEq, rmPlain_zero, Bool.true_and, Bool.and_true,
        Bool.not_true, Bool.not_false, Bool.or_false, ← Bool.and_assoc]
      rfl

/-- Rows of matrices, descriptors, tiles, copies, rewards, draws, stamps and translation. -/
theorem decodesBack_unit :
    (∀ I ∈ [Instr.modeM, .modeV, .mzero, .force, .tdrop, .stampClose], I.DecodesBack) ∧
    (∀ I ∈ [Instr.mrnsoutRes30, .mrnsoutRes15], ∀ n, (I n).DecodesBack) ∧
    (∀ I ∈ [Instr.mma, .mmas, .mplane, .munpl, .cp], ∀ k b c za, (I k b c za).DecodesBack) ∧
    (∀ I ∈ [Instr.mmaW, .mmasW], ∀ k b c za fa fb, (I k b c za fa fb).DecodesBack) ∧
    (∀ I ∈ [Instr.sclfeed, .rngadv, .epreg], ∀ b c, (I b c).DecodesBack) ∧
    (∀ a b dst fs, (Instr.mrnsin a b dst fs).DecodesBack) ∧
    (∀ I ∈ [Instr.mplaneW, .munplW], ∀ a b c n fmt, (I a b c n fmt).DecodesBack) ∧
    (∀ a b n dst fs, (Instr.mrnsinW a b n dst fs).DecodesBack) ∧
    (∀ I ∈ [Instr.dld, .dsv], ∀ d b, (I d b).DecodesBack) ∧
    (∀ d c w, (Instr.dput d c w).DecodesBack) ∧
    (∀ d b w, (Instr.dget d b w).DecodesBack) ∧
    (∀ d c w pos lenM1, (Instr.dins d c w pos lenM1).DecodesBack) ∧
    (∀ d b c tr ro co, (Instr.dinit d b c tr ro co).DecodesBack) ∧
    (∀ d b c acc kM1, (Instr.tmul d b c acc kM1).DecodesBack) ∧
    (∀ I ∈ [Instr.tadd, .tsub, .tmax], ∀ d b c, (I d b c).DecodesBack) ∧
    (∀ d b sat rm, (Instr.tcvt d b sat rm).DecodesBack) ∧
    (∀ d b op, (Instr.tred d b op).DecodesBack) ∧
    (∀ I ∈ [Instr.taddW, .tsubW, .tmaxW], ∀ d b c rm, (I d b c rm).DecodesBack) ∧
    (∀ d b c e fn rm, (Instr.tmap d b c e fn rm).DecodesBack) ∧
    (∀ b, (Instr.forceM b).DecodesBack) ∧
    (∀ b rb nbM1, (Instr.forceW b rb nbM1).DecodesBack) ∧
    (∀ I ∈ [Instr.tdropM, .tcinv], ∀ n, (I n).DecodesBack) ∧
    (∀ d n, (Instr.tqry d n).DecodesBack) ∧
    (∀ d b, (Instr.tst d b).DecodesBack) ∧
    (∀ t b c g rs dec, (Instr.cps t b c g rs dec).DecodesBack) ∧
    (∀ I ∈ [Instr.draw, .stampOpen, .sleep], ∀ d, (I d).DecodesBack) ∧
    (∀ d, (Instr.drawV d).DecodesBack) ∧
    (∀ k b c, (Instr.rngkey k b c).DecodesBack) ∧
    (∀ k, (Instr.stamp k).DecodesBack) ∧
    (∀ b code, (Instr.trmark b code).DecodesBack) ∧
    (∀ k hd r, (Instr.rpost k hd r).DecodesBack) ∧
    (∀ d b c g, (Instr.rlver d b c g).DecodesBack) ∧
    (∀ d b g, (Instr.rjqry d b g).DecodesBack) ∧
    (∀ b c sc, (Instr.tcinvM b c sc).DecodesBack) := by
  simp only [List.mem_cons, List.not_mem_nil, or_false, forall_eq_or_imp, forall_eq]
  and_intros
  all_goals
    intros
    refine .of_row rfl ?_ fun hw => ?_
    · simp (disch := decide) only [extractLsb'_append, BitVec.extractLsb'_eq_self, Nat.reduceSub]
      rfl
    simp (disch := decide) only [decodeHT_eq_decMajor, decMajor_eq, decMajor28, decMajor29, decMajor2A, decMajor2B, decMajor2C, decMajor2D,
      decMajor2E, decMajor2F, decMajor30, decMajor31, decMajor32, extractLsb'_append,
      BitVec.extractLsb'_eq_self, Nat.reduceSub, BitVec.reduceToNat]
    refine checked_eq_ok ?_ (.trans ?_ hw)
    · simp (disch := decide) only [extractLsb'_append, BitVec.extractLsb'_eq_self, Nat.reduceSub]
    · simp (disch := decide) only [extractLsb'_append, BitVec.extractLsb'_eq_self, Nat.reduceSub, BitVec.reduceBEq, Bool.true_and, Bool.and_true,
        Bool.not_false]
      rfl

/-- Every well-formed instruction decodes back from its encoding. -/
theorem decodesBack (i : Instr) : i.DecodesBack := by
  have rows := And.intro decodesBack_leaX1 <| And.intro decodesBack_scalar <| And.intro decodesBack_memory <|
    And.intro decodesBack_vectorArithmetic <| And.intro decodesBack_vectorMovement decodesBack_unit
  simp only [List.mem_cons, List.not_mem_nil, or_false, forall_eq_or_imp, forall_eq] at rows
  casesm* _ ∧ _
  apply @Instr.casesOn (fun i => i.DecodesBack) i
  all_goals try assumption
  all_goals intros; exact .of_none rfl

/-!
### Encoding what was decoded

The same groups, from the minor map's side: each of its branches fixes the fields that select the row, its check fixes the reserved ones, and the others are operands.
-/

/-- What is decoded under major m is well formed, and its encoding is the head and tail that were decoded. -/
def EncodesBack (m : BitVec 6) : Prop :=
  ∀ h t i, h.extractLsb' 8 6 = m → (h.extractLsb' 14 2).toNat = t.parcels.length → decMajor m h t = .ok i → i.wf = true ∧ encodeHT i = some (h, t)

/-- A row that was decoded: the checks that it passed make its instruction well formed and give the fields of its encoding that are no operands. -/
theorem encodesBack_row {i j : Instr} {h h' : Parcel} {t t' : Tail} {illegal clear : Bool} (hd : checked illegal clear i = .ok j)
    (he : encodeHT i = some (h', t')) (hw : illegal = false → clear = true → i.wf = true) (hh : clear = true → h' = h.extractLsb' 0 16)
    (ht : clear = true → t' = t) : j.wf = true ∧ encodeHT j = some (h, t) := by
  obtain ⟨hi, hc, rfl⟩ := checked_eq_ok_iff.mp hd
  rw [he, hh hc, ht hc, BitVec.extractLsb'_eq_self]
  exact ⟨hw hi hc, rfl⟩

/-- Minor maps of scalar computation and control: by the length of the tail, the minor, and the F field where the map has one. -/
theorem encodesBack_scalar : ∀ m ∈ scalarMajors, EncodesBack m := by
  simp only [scalarMajors, List.mem_cons, List.not_mem_nil, or_false, forall_eq_or_imp, forall_eq]
  and_intros
  all_goals
    intro h t i hm hl hd
    obtain ⟨rfl, hl⟩ | ⟨v, rfl, hl⟩ | ⟨v, rfl, hl⟩ | ⟨v, rfl, hl⟩ := tail_cases hl
    all_goals obtain hf | hf | hf | hf | hf | hf | hf | hf := minor_cases (h.extractLsb' 0 3)
    all_goals
      simp only [decMajor_eq, hf, BitVec.reduceToNat, beq_iff_eq, reduceCtorEq,
        decMajor00, decMajor01, decMajor02, decMajor03, decMajor04, decMajor05, decMajor06, decMajor07, decMajor08, decMajor09, decMajor0A,
        decMajor0B, decMajor0C, decMajor0D, decMajor0E, decMajor0F] at hd
    all_goals repeat' split at hd
    all_goals try contradiction
    all_goals refine encodesBack_row hd rfl ?_ ?_ ?_
    all_goals simp only [append_eq_extractLsb'_iff, Tail.one_eq_iff, Tail.two_eq_iff, Tail.three_eq_iff, Instr.wf.eq_def]
    all_goals
      simp +contextual only [*, minor_top hf, BitVec.reduceExtractLsb', Nat.reduceAdd, beq_iff_eq, Bool.and_eq_true, Bool.not_false,
        and_self, implies_true]

/-- Minor maps of memory, synchronisation and tasks: by the length of the tail, the minor, and the F field where the map has one. -/
theorem encodesBack_memory : ∀ m ∈ memoryMajors, EncodesBack m := by
  simp only [memoryMajors, List.mem_cons, List.not_mem_nil, or_false, forall_eq_or_imp, forall_eq]
  and_intros
  all_goals
    intro h t i hm hl hd
    obtain ⟨rfl, hl⟩ | ⟨v, rfl, hl⟩ | ⟨v, rfl, hl⟩ | ⟨v, rfl, hl⟩ := tail_cases hl
    all_goals obtain hf | hf | hf | hf | hf | hf | hf | hf := minor_cases (h.extractLsb' 0 3)
    all_goals
      simp only [decMajor_eq, hf, BitVec.reduceToNat, beq_iff_eq, reduceCtorEq,
        decMajor10, decMajor11, decMajor12, decMajor13, decMajor14, decMajor15, decMajor16, decMajor17, decMajor18] at hd
    all_goals repeat' split at hd
    all_goals try contradiction
    all_goals refine encodesBack_row hd rfl ?_ ?_ ?_
    all_goals simp only [append_eq_extractLsb'_iff, Tail.one_eq_iff, Tail.two_eq_iff, Tail.three_eq_iff, Instr.wf.eq_def]
    all_goals
      simp +contextual only [*, Nat.reduceAdd, beq_iff_eq, Bool.and_eq_true, Bool.or_eq_false_iff, Bool.not_false, Bool.or_false,
        and_self, implies_true]

/-- Minor maps of vector arithmetic and compares: by the length of the tail, the minor, and the F field where the map has one. -/
theorem encodesBack_vectorArithmetic : ∀ m ∈ vectorArithmeticMajors, EncodesBack m := by
  simp only [vectorArithmeticMajors, List.mem_cons, List.not_mem_nil, or_false, forall_eq_or_imp, forall_eq]
  and_intros
  all_goals
    intro h t i hm hl hd
    obtain ⟨rfl, hl⟩ | ⟨v, rfl, hl⟩ | ⟨v, rfl, hl⟩ | ⟨v, rfl, hl⟩ := tail_cases hl
    all_goals obtain hf | hf | hf | hf | hf | hf | hf | hf := minor_cases (h.extractLsb' 0 3)
    all_goals
      simp only [decMajor_eq, hf, BitVec.reduceToNat, beq_iff_eq, reduceCtorEq,
        decMajor20, decMajor21, decMajor22, decMajor23] at hd
    all_goals repeat' split at hd
    all_goals try contradiction
    all_goals refine encodesBack_row hd rfl ?_ ?_ ?_
    all_goals simp only [append_eq_extractLsb'_iff, Tail.one_eq_iff, Tail.two_eq_iff, Instr.wf.eq_def]
    all_goals
      simp +contextual only [*, Nat.reduceAdd, beq_iff_eq, Bool.and_eq_true, Bool.or_eq_false_iff, Bool.not_false, Bool.or_false,
        and_self, implies_true]

/-- Minor maps of vector moves, reductions, conversions and special functions: by the length of the tail, the minor, and the F field where the map
has one. -/
theorem encodesBack_vectorMovement : ∀ m ∈ vectorMovementMajors, EncodesBack m := by
  simp only [vectorMovementMajors, List.mem_cons, List.not_mem_nil, or_false, forall_eq_or_imp, forall_eq]
  and_intros
  all_goals
    intro h t i hm hl hd
    obtain ⟨rfl, hl⟩ | ⟨v, rfl, hl⟩ | ⟨v, rfl, hl⟩ | ⟨v, rfl, hl⟩ := tail_cases hl
    all_goals obtain hf | hf | hf | hf | hf | hf | hf | hf := minor_cases (h.extractLsb' 0 3)
    all_goals
      simp only [decMajor_eq, hf, BitVec.reduceToNat, beq_iff_eq, reduceCtorEq,
        decMajor24, decMajor25, decMajor26, decMajor27] at hd
    all_goals repeat' split at hd
    all_goals try contradiction
    all_goals refine encodesBack_row hd rfl ?_ ?_ ?_
    all_goals simp only [append_eq_extractLsb'_iff, Tail.one_eq_iff, Tail.two_eq_iff, Instr.wf.eq_def]
    all_goals
      simp +contextual only [*, Nat.reduceAdd, beq_iff_eq, Bool.and_eq_true, Bool.or_eq_false_iff, Bool.not_false, Bool.or_false,
        and_self, implies_true]

/-- Minor maps of matrices, descriptors, tiles, copies, rewards, draws, stamps and translation: by the length of the tail, the minor, and the F
field where the map has one. -/
theorem encodesBack_unit : ∀ m ∈ unitMajors, EncodesBack m := by
  simp only [unitMajors, List.mem_cons, List.not_mem_nil, or_false, forall_eq_or_imp, forall_eq]
  and_intros
  all_goals
    intro h t i hm hl hd
    obtain ⟨rfl, hl⟩ | ⟨v, rfl, hl⟩ | ⟨v, rfl, hl⟩ | ⟨v, rfl, hl⟩ := tail_cases hl
    all_goals obtain hf | hf | hf | hf | hf | hf | hf | hf := minor_cases (h.extractLsb' 0 3)
    all_goals
      simp only [decMajor_eq, hf, BitVec.reduceToNat, reduceCtorEq,
        decMajor28, decMajor29, decMajor2A, decMajor2B, decMajor2C, decMajor2D, decMajor2E, decMajor2F, decMajor30, decMajor31, decMajor32] at hd
    all_goals refine encodesBack_row hd rfl ?_ ?_ ?_
    all_goals simp only [append_eq_extractLsb'_iff, Tail.one_eq_iff, Tail.two_eq_iff, Tail.three_eq_iff, Instr.wf.eq_def]
    all_goals
      simp +contextual only [*, Nat.reduceAdd, beq_iff_eq, Bool.and_eq_true, Bool.or_eq_false_iff, Bool.not_false, Bool.or_false,
        and_self, implies_true]

/-- What the decoder accepts is the encoding of what it gives. -/
theorem encodeHT_of_decodeHT {h : Parcel} {t : Tail} {i : Instr} (hl : (h.extractLsb' 14 2).toNat = t.parcels.length) (hd : decodeHT h t = .ok i) :
    i.wf = true ∧ encodeHT i = some (h, t) := by
  rw [decodeHT_eq_decMajor] at hd
  have hm := mem_usedMajors hd
  simp only [usedMajors, List.mem_append, or_assoc] at hm
  obtain hm | hm | hm | hm | hm := hm
  · exact encodesBack_scalar _ hm _ _ _ rfl hl hd
  · exact encodesBack_memory _ hm _ _ _ rfl hl hd
  · exact encodesBack_vectorArithmetic _ hm _ _ _ rfl hl hd
  · exact encodesBack_vectorMovement _ hm _ _ _ rfl hl hd
  · exact encodesBack_unit _ hm _ _ _ rfl hl hd

/-! ### Events -/

/-- The rows of the table that are events have no encoding. -/
theorem encodeHT_eventInstr (e : Machine.Event) : encodeHT (Machine.eventInstr e) = none := by
  cases e <;> rfl

/-- The event that an instruction is, where it is one. -/
def Instr.event? : Instr → Option Machine.Event
  | .gridOperationComplete core => some (.gridOperationComplete core) | .blockEvaluation core => some (.blockEvaluation core)
  | .copyCommandStart core => some (.copyCommandStart core) | .copyCommandEnd core => some (.copyCommandEnd core)
  | .sleepExpiry core slot => some (.sleepExpiry core slot) | .bankOperation core slot acc => some (.bankOperation core slot acc)
  | .waiterReevaluation w => some (.waiterReevaluation w) | .rdrReissue core slot => some (.rdrReissue core slot)
  | .remoteWaitRetry core slot => some (.remoteWaitRetry core slot) | .tagWaitWatchdog core agent slot => some (.tagWaitWatchdog core agent slot)
  | .accessCompletion core slot acc point => some (.accessCompletion core slot acc point)
  | .backgroundSpill core slot => some (.backgroundSpill core slot) | .barrierRoundRelease sc key => some (.barrierRoundRelease sc key)
  | .gateCommit core => some (.gateCommit core) | .ungateStart core => some (.ungateStart core) | .ungateComplete core => some (.ungateComplete core)
  | .lateTrapEntry core slot => some (.lateTrapEntry core slot) | .preemptNotice core slot => some (.preemptNotice core slot)
  | .pbudgetExpiry core slot => some (.pbudgetExpiry core slot) | .preemptSave g => some (.preemptSave g) | .gangResume g => some (.gangResume g)
  | .translationWalk w => some (.translationWalk w) | .fackStore fn idx => some (.fackStore fn idx)
  | .queueWriteStore q v => some (.queueWriteStore q v) | .prioStore q v => some (.prioStore q v) | .preemptRequest q => some (.preemptRequest q)
  | .dependenceReread => some (.dependenceReread) | .packetSelection => some (.packetSelection) | .gangPlacement => some (.gangPlacement)
  | .placementWaitExpiry l => some (.placementWaitExpiry l) | .launchCompletion l => some (.launchCompletion l)
  | .rewardMessageHandling u => some (.rewardMessageHandling u) | .partRecorded u ent => some (.partRecorded u ent)
  | .zeroFillDone u ent => some (.zeroFillDone u ent) | .deadline u => some (.deadline u) | .fullerScanDone u ent => some (.fullerScanDone u ent)
  | .episodeRelease u ent => some (.episodeRelease u ent) | .lreadReread u grp => some (.lreadReread u grp) | .readMsg m => some (.readMsg m)
  | .readReply m => some (.readReply m) | .writeMsg m => some (.writeMsg m) | .acknowledge m => some (.acknowledge m)
  | .atomicMsg m => some (.atomicMsg m) | .atomicReply m => some (.atomicReply m) | .putWithSignal m => some (.putWithSignal m)
  | .rewardMsg m => some (.rewardMsg m) | .barrierMsg m => some (.barrierMsg m) | .stopMessage m => some (.stopMessage m)
  | .errorMsg m => some (.errorMsg m) | .sessionMsg m => some (.sessionMsg m) | .linkFailure k => some (.linkFailure k)
  | .stopTakesEffect core => some (.stopTakesEffect core) | .stopCmd core => some (.stopCmd core) | .resumeCmd core => some (.resumeCmd core)
  | .resumeTakesEffect core => some (.resumeTakesEffect core) | .stepCmd core slot => some (.stepCmd core slot)
  | .wpctlWrite core n v => some (.wpctlWrite core n v) | .slotWindowWrite core slot off v => some (.slotWindowWrite core slot off v)
  | .registerWrite a v => some (.registerWrite a v) | .dumpGang => some (.dumpGang) | .rctlStore fn v => some (.rctlStore fn v)
  | .invalidateTranslations fn => some (.invalidateTranslations fn) | .invalidateRange fn => some (.invalidateRange fn)
  | .functionLevelReset fn => some (.functionLevelReset fn) | .replay fn => some (.replay fn) | .assign fn => some (.assign fn)
  | .release fn => some (.release fn) | .create fn => some (.create fn) | .destroy fn => some (.destroy fn) | .queueOp fn => some (.queueOp fn)
  | .region fn => some (.region fn) | .report fn => some (.report fn) | .extend fn => some (.extend fn)
  | .sessionOperation fn => some (.sessionOperation fn) | .rootOp fn => some (.rootOp fn) | .writeOperation fn => some (.writeOperation fn)
  | .sleepOperation fn => some (.sleepOperation fn) | .deepSleepEntry => some (.deepSleepEntry) | .managementWake => some (.managementWake)
  | .coldReset => some (.coldReset) | .powerLoss => some (.powerLoss) | .thermalWarning die => some (.thermalWarning die)
  | .thermalWarningClear die => some (.thermalWarningClear die) | .criticalTrip => some (.criticalTrip)
  | .debugUnlock dev life nonce perm sig => some (.debugUnlock dev life nonce perm sig) | .provisioning => some (.provisioning)
  | .productionFuse => some (.productionFuse) | .retireFuse => some (.retireFuse)
  | .notAnInstruction cls code tval => some (.notAnInstruction cls code tval)
  | .flushiAcknowledgement core slot => some (.flushiAcknowledgement core slot)
  | .tcinvAcknowledgement core slot => some (.tcinvAcknowledgement core slot) | .unitInstructionHandling u => some (.unitInstructionHandling u)
  | .fabricDrop m => some (.fabricDrop m) | .cxlLinkDown p => some (.cxlLinkDown p) | _ => none

theorem eventInstr_of_event? {i : Instr} {e : Machine.Event} (h : i.event? = some e) : Machine.eventInstr e = i := by
  cases i
  all_goals cases h
  all_goals rfl

/-- Only the rows of the table that are events have no encoding. -/
theorem encodeHT_eq_none_iff (i : Instr) : encodeHT i = none ↔ ∃ e, Machine.eventInstr e = i := by
  refine ⟨fun h => ?_, fun ⟨e, he⟩ => he ▸ encodeHT_eventInstr e⟩
  cases i
  all_goals cases h
  all_goals exact ⟨_, eventInstr_of_event? rfl⟩

/-! ### The obligations on decoding and encoding -/

theorem Tail.length_parcels_lt (t : Tail) : t.parcels.length < 4 := by
  cases t <;> simp [Tail.parcels]

/-- The two top bits of a head count the parcels of its tail (R116). -/
theorem toNat_length_of_encodeHT {i : Instr} {h : Parcel} {t : Tail} (he : encodeHT i = some (h, t)) :
    (h.extractLsb' 14 2).toNat = t.parcels.length := by
  rw [(decodesBack i).length h t he, BitVec.toNat_ofNat, Nat.mod_eq_of_lt t.length_parcels_lt]

/-- No instruction has the major of a pad (R113). -/
theorem major_ne_pad_of_decodeHT {i : Instr} {h : Parcel} {t : Tail} (hd : decodeHT h t = .ok i) : h.extractLsb' 8 6 ≠ 0x3F#6 := by
  intro hm
  rw [decodeHT_eq_decMajor, hm] at hd
  exact absurd (mem_usedMajors hd) (by decide)

/-- Settles O53: every row of the opcode table decodes back (decodesBack), and only the events have none. -/
theorem decodeOfEncode : Obligations.decode_of_encode := by
  refine fun i => ⟨fun hw h t he => ?_, encodeHT_eq_none_iff i⟩
  have hd := (decodesBack i).decode hw h t he
  exact ⟨hd, toNat_length_of_encodeHT he, major_ne_pad_of_decodeHT hd⟩

/-- Settles O54: the checks of a row fix every bit that is no operand (encodesBack_row), in every minor map (encodeHT_of_decodeHT). -/
theorem encodeOfDecode : Obligations.encode_of_decode :=
  fun _ _ _ hl hd => encodeHT_of_decodeHT hl hd

/-! ### Lines (R112 to R114) -/

/-- The head of the line that holds one instruction. -/
theorem parcel_zero_lineOf (h : Parcel) (t : Tail) : (lineOf h t).parcel 0 = h := by
  cases t
  all_goals simp (disch := decide) only [Line.parcel, lineOf, Nat.mul_zero, extractLsb'_append, BitVec.extractLsb'_eq_self]

/-- The pad after it. -/
theorem parcel_one_lineOf (h : Parcel) (t : Tail) : (lineOf h t).parcel 1 = 0xFFFF#16 := by
  cases t
  all_goals simp (disch := decide) only [Line.parcel, lineOf, Nat.mul_one, extractLsb'_append, BitVec.extractLsb'_eq_self, Nat.reduceSub]
  all_goals rfl

/-- The parcels at its end are the tail (R113). -/
theorem tailAt_lineOf (h : Parcel) (t : Tail) : (lineOf h t).tailAt 32 t.parcels.length = t := by
  cases t with
  | none => rfl
  | one v =>
    show Tail.one ((lineOf h (.one v)).parcel 31) = .one v
    simp (disch := decide) only [Line.parcel, lineOf, Nat.reduceMul, extractLsb'_append, BitVec.extractLsb'_eq_self, Nat.reduceSub]
  | two v =>
    show Tail.two ((lineOf h (.two v)).parcel 30 ++ (lineOf h (.two v)).parcel 31) = .two v
    simp (disch := decide) only [Line.parcel, lineOf, Nat.reduceMul, extractLsb'_append, BitVec.extractLsb'_eq_self, Nat.reduceSub]
    rw [Tail.two_eq_iff, append_eq_extractLsb'_iff]
    exact ⟨rfl, rfl⟩
  | three v =>
    show Tail.three ((lineOf h (.three v)).parcel 29 ++ (lineOf h (.three v)).parcel 30 ++ (lineOf h (.three v)).parcel 31) = .three v
    simp (disch := decide) only [Line.parcel, lineOf, Nat.reduceMul, extractLsb'_append, BitVec.extractLsb'_eq_self, Nat.reduceSub]
    rw [Tail.three_eq_iff, append_eq_extractLsb'_iff, append_eq_extractLsb'_iff]
    exact ⟨⟨rfl, rfl⟩, rfl⟩

/-- The line of one instruction has its slot and no other: the pad ends it. -/
theorem slots_lineOf {h : Parcel} {t : Tail} (hl : (h.extractLsb' 14 2).toNat = t.parcels.length) (hm : h.extractLsb' 8 6 ≠ 0x3F#6) :
    (lineOf h t).slots = [.instr h t] := by
  have hp : h ≠ 0xFFFF#16 := by
    rintro rfl
    exact hm (by decide)
  have hlen : ¬ 32 < t.parcels.length + 1 := by have := t.length_parcels_lt; omega
  have hend : ¬ 32 - t.parcels.length ≤ 1 := by have := t.length_parcels_lt; omega
  simp [Line.slots, Line.slotsFrom, parcel_zero_lineOf, parcel_one_lineOf, tailAt_lineOf, hl, hp, hlen, hend]

/-- Settles O55: the line's one slot holds the head and tail (slots_lineOf), which decode back (decodesBack). -/
theorem lineOfOneInstruction : Obligations.line_of_one_instruction := by
  intro i h t hw he
  have hd := (decodesBack i).decode hw h t he
  have hs := slots_lineOf (toNat_length_of_encodeHT he) (major_ne_pad_of_decodeHT hd)
  exact ⟨by simpa [decodeSlot, hs] using hd, fun j => by simp [decodeSlot, hs]⟩

/-- Settles O56, each word by running the decoder on it. -/
theorem decodeWords : Obligations.decode_words := by
  unfold Obligations.decode_words
  and_intros <;> rfl

end Sys2Proof
end

section
/-!
PROOFS. The frame, the result and the port forms of the scalar instructions (03 R55; 07 R97; 09 R126, R128; 14 R231; 28 R388).
-/

namespace Sys2Proof.Machine

/-! ### Port queues across wakes -/

theorem State.port_setSlot (s : State) (t u : Tid) (x : Slot) (h : x.port = (s.slot t).port) : ((s.setSlot t x).slot u).port = (s.slot u).port := by
  by_cases hu : u = t
  · subst hu; rw [State.slot_setSlot_same, h]
  · rw [State.slot_setSlot_other _ _ hu]

@[simp] theorem State.slot_post (s : State) (e : Event) (u : Tid) : (s.post e).slot u = s.slot u :=
  State.slot_of_cores (by simp) (by simp) (by simp) u

@[simp] theorem State.slot_rouse (s : State) (n : Nat) (u : Tid) : (s.rouse n).slot u = s.slot u := by
  unfold State.rouse
  dsimp only
  split
  · exact State.slot_post ..
  · split
    · rfl
    · exact State.slot_setCore s n { s.core n with idle := 0 } rfl u

@[simp] theorem State.slot_urge (s : State) (t : Tid) (g : Bool) (u : Tid) : (s.urge t g).slot u = s.slot u := by
  unfold State.urge
  split <;> rfl

/-- A wake leaves the port queues of every slot. -/
@[simp] theorem State.port_wake (s : State) (t u : Tid) : ((s.wake t).slot u).port = (s.slot u).port := by
  unfold State.wake
  dsimp only
  split
  · rw [State.slot_urge, State.slot_rouse, State.port_setSlot]
    rfl
  · rw [State.slot_urge, State.slot_rouse, State.port_setSlot]
    rfl
  · rfl

@[simp] theorem State.port_wakeProducer (s : State) (p : Option Tid) (w : Await) (u : Tid) : ((s.wakeProducer p w).slot u).port = (s.slot u).port := by
  cases p with
  | none => rfl
  | some g =>
    unfold State.wakeProducer
    dsimp only
    split
    · exact State.port_wake ..
    · rfl

@[simp] theorem State.port_goto (s : State) (pc : Word) (u : Tid) : ((s.goto pc).slot u).port = (s.slot u).port :=
  State.port_setSlot _ _ _ _ rfl

/-- A pop takes the oldest entry of the thread's scalar queue. -/
theorem State.sq_popScalar (s : State) (t : Tid) : ((s.popScalar t).slot t).port.sq = (s.slot t).port.sq.tail := by
  simp [State.popScalar]

/-- A push puts its value at the end of the target's scalar queue. -/
theorem State.sq_pushScalar (s : State) (t : Tid) (v : Word) :
    ((s.pushScalar t v).slot (s.portTarget t)).port.sq = (s.slot (s.portTarget t)).port.sq ++ [v] := by
  unfold State.pushScalar
  dsimp only
  split <;> simp

theorem State.still_pushScalar (s : State) (t : Tid) (v : Word) : s.Still (s.pushScalar t v) := by
  have hp : ∀ (x : Slot) (p : Port), ({ x with port := p } : Slot).still = x.still := fun _ _ => rfl
  have h := fun p => (State.still_setSlot s (s.portTarget t) _ (hp (s.slot (s.portTarget t)) p)).trans (State.still_rouse _ (s.portTarget t).core)
  unfold State.pushScalar
  exact State.still_ite _ ((h _).trans (State.still_wake ..)) (h _)

/-! ### Completing with a scalar result -/

/-- A scalar destination other than s7 is written in the slot that the pops leave, which goes on at NEXT. -/
theorem State.me_setS (s : State) (srcs : List SReg) {d : SReg} (v : Word) (h7 : d ≠ 7) :
    (s.setS srcs d v).me =
      { (s.pops srcs []).me.wrote d v with st := .ready, pc := s.npc, src := (s.pops srcs []).me.pc, cont := none, await := .none } := by
  have hn : ((s.pops srcs []).setMe ((s.pops srcs []).me.wrote d v)).npc = s.npc := (State.still_pops s srcs).npc
  rw [State.setS, State.ws_eq _ _ _ h7, State.retire, State.me_goto, hn, State.me_setMe]
  rfl

theorem Slot.readS_zero (x : Slot) : x.readS 0 = 0 := by
  rw [Slot.readS_place x (by decide)]
  rfl

/-- What a register other than the ports reads after a result was written to it (R97, R126). -/
theorem Slot.readS_wrote (x : Slot) (d : SReg) (v : Word) (h6 : d ≠ 6) (h7 : d ≠ 7) : (x.wrote d v).readS d = if d = 0 then 0 else v := by
  split
  next h => rw [h, Slot.readS_zero]
  next h => exact Slot.readS_wrote_same x d v h h6 h7

theorem State.rs_setS (s : State) (srcs : List SReg) (d : SReg) (v : Word) (h6 : d ≠ 6) (h7 : d ≠ 7) :
    (s.setS srcs d v).rs d = if d = 0 then 0 else v := by
  rw [State.rs, State.me_setS s srcs v h7]
  exact Slot.readS_wrote _ d v h6 h7

/-- A write of s7 pushes. -/
theorem State.setS_push (s : State) (srcs : List SReg) (v : Word) (h : srcs.contains 6 = false) : s.setS srcs 7 v = (s.pushScalar s.cur v).retire := by
  have hw : s.ws 7 v = s.pushScalar s.cur v := rfl
  rw [State.setS, State.pops_noPorts s srcs h, hw]

/-! ### The instructions named by scalarShape -/

/-- Each of them is a scalar instruction with the operands of its shape. -/
theorem exec_of_scalarShape {i : Instr} {srcs : List SReg} {d : SReg} (h : scalarShape i = some (srcs, d)) (s : State) :
    ∃ f, exec i s = s.scalar srcs d f := by
  unfold scalarShape at h
  split at h <;> cases h <;> exact ⟨_, rfl⟩

theorem noPorts_dst {srcs : List SReg} {d : SReg} (h : noPorts srcs [d] = true) : srcs.contains 6 = false ∧ d ≠ 6 ∧ d ≠ 7 := by
  obtain ⟨h6, -, hd6, hd7⟩ := (noPorts_iff srcs [d]).mp h
  exact ⟨h6, by rintro rfl; simp at hd6, by rintro rfl; simp at hd7⟩

/-- The slot that a scalar instruction without ports leaves. -/
def State.scalarDone (s : State) (d : SReg) (v : Word) : Slot :=
  { s.me.wrote d v with st := .ready, pc := s.npc, src := s.me.pc, cont := none, await := .none }

/-- A scalar instruction that names no port changes its own slot alone. -/
theorem exec_scalar_noPorts {i : Instr} {srcs : List SReg} {d : SReg} (h : scalarShape i = some (srcs, d)) (hp : noPorts srcs [d] = true) (s : State) :
    ∃ v, exec i s = .next (s.setMe (s.scalarDone d v)) := by
  obtain ⟨h6, -, h7⟩ := noPorts_dst hp
  obtain ⟨f, hf⟩ := exec_of_scalarShape h s
  exact ⟨f s, by rw [hf, State.scalar_open s srcs d f (State.portsOpen_noPorts s srcs [d] hp), State.setS_eq s srcs d _ h6 h7]; rfl⟩

theorem State.readS_scalarDone (s : State) {d k : SReg} (v : Word) (h : k ≠ d) : (s.scalarDone d v).readS k = s.rs k :=
  Slot.readS_wrote_other s.me v h

/-- Settles O6: a scalar instruction without ports writes one register of its slot, and the ports add one pop or one push. -/
theorem scalarFrameAndPorts : Obligations.scalar_frame_and_ports := by
  unfold Obligations.scalar_frame_and_ports
  refine ⟨?frame, ?result, ?faults, ?pop, ?push⟩
  case frame =>
    intro i srcs d s t hi hp ht
    obtain ⟨v, hv⟩ := exec_scalar_noPorts hi hp s
    obtain rfl : s.setMe (s.scalarDone d v) = t := by rw [hv] at ht; cases ht; rfl
    exact ⟨s.scalarDone d v, rfl, State.me_setMe .., rfl, rfl, Slot.readS_zero _, fun k hk => s.readS_scalarDone v hk, Regs.vec_writeLoc .., Regs.desc_writeLoc ..,
      rfl, rfl, rfl, rfl, rfl, rfl, fun u hu => State.slot_setSlot_other s _ hu, fun _ => rfl, rfl⟩
  case result =>
    intro s srcs d v hp
    obtain ⟨-, h6, h7⟩ := noPorts_dst hp
    exact s.rs_setS srcs d v h6 h7
  case faults =>
    intro i srcs d s hi
    obtain ⟨f, hf⟩ := exec_of_scalarShape hi s
    rw [hf]
    exact ⟨State.scalar_bad s srcs d f, State.scalar_shut s srcs d f⟩
  case pop =>
    intro s srcs d x v vs h6 h7 hq _
    have hpop : s.pops srcs [] = s.popScalar s.cur := by
      simp only [State.pops, h6, if_true, List.contains_nil, Bool.and_false, Bool.false_eq_true, if_false]
    refine ⟨?_, ?_, ?_, fun hd6 => s.rs_setS srcs d x hd6 h7⟩
    · show s.me.port.sq.headD 0 = v
      rw [hq]; rfl
    · rw [State.me_setS s srcs x h7, hpop]
      show (s.popScalar s.cur).me.port.sq = vs
      rw [State.me, (State.still_popScalar s s.cur).cur, State.sq_popScalar, ← State.me, hq]; rfl
    · rw [State.me_setS s srcs x h7]
  case push =>
    intro s srcs x h6 _
    rw [State.setS_push s srcs x h6]
    dsimp only
    refine ⟨?_, ?_⟩
    · rw [State.retire, State.port_goto, State.sq_pushScalar]
    · rw [State.retire, State.me_goto]
      exact (State.still_pushScalar s s.cur x).npc

end Sys2Proof.Machine
end

section
/-!
PROOFS. The events of a core: background spills, power gating, the release of a barrier round (03 R58 to R61; 07 R100; 14 R222; 30 R404).
-/

namespace Sys2Proof.Machine

/-! ### Words of memory written one after the other -/

/-- A read of bytes that two memories share. -/
theorem Memory.readN_congr {m w : List Host.Cell} {a n : Nat} (h : ∀ i, i < n → Memory.byte w (a + i) = Memory.byte m (a + i)) :
    Memory.readN w a n = Memory.readN m a n := by
  simp only [Memory.readN_eq_sum]
  refine congrArg List.sum (List.map_congr_left fun i hi => ?_)
  rw [h i (List.mem_range.mp hi)]

/-- n bytes read as the number whose n low bytes were written there. -/
theorem Memory.readN_writeN (m : List Host.Cell) (n a v : Nat) : Memory.readN (Memory.writeN m a v (2 ^ n - 1) n) a n = v % 256 ^ n := by
  induction n generalizing a v with
  | zero => simp [Memory.readN, Nat.mod_one]
  | succ n ih =>
    have hodd : (2 ^ (n + 1) - 1) % 2 = 1 := by have := Nat.one_le_two_pow (n := n); omega
    have hhalf : (2 ^ (n + 1) - 1) / 2 = 2 ^ n - 1 := by omega
    have hb : (Memory.byte (Memory.writeN m a v (2 ^ (n + 1) - 1) (n + 1)) a).toNat = v % 256 := by simp [Memory.writeN, hodd]
    have hrest : Memory.readN (Memory.writeN m a v (2 ^ (n + 1) - 1) (n + 1)) (a + 1) n = v / 256 % 256 ^ n := by
      rw [← ih (a + 1) (v / 256), Memory.writeN, if_pos hodd, hhalf]
      exact Memory.readN_congr fun i _ => Memory.byte_setByte_other _ _ (by omega)
    rw [Memory.readN, hb, hrest, Nat.pow_succ', Nat.mod_mul]

theorem Memory.readN_setWord (m : List Host.Cell) (a : Nat) (v : Word) : Memory.readN (Memory.setWord m a v) a 8 = v.toNat :=
  (Memory.readN_writeN m 8 a v.toNat).trans (Nat.mod_eq_of_lt v.isLt)

/-- Words written one after the other from an address on. -/
def Memory.setWords (m : List Host.Cell) (a : Nat) : List Word → List Host.Cell
  | [] => m
  | w :: ws => Memory.setWords (Memory.setWord m a w) (a + 8) ws

/-- They are what a spill writes. -/
theorem Memory.foldl_setWord (ws : List Word) (m : List Host.Cell) (a : Nat) :
    (ws.foldl (fun (p : List Host.Cell × Nat) w => (Memory.setWord p.1 p.2 w, p.2 + 8)) (m, a)).1 = Memory.setWords m a ws := by
  induction ws generalizing m a with
  | nil => rfl
  | cons w ws ih => exact ih _ _

theorem Memory.byte_setWords_outside (ws : List Word) (m : List Host.Cell) (a b : Nat) (h : b < a ∨ a + 8 * ws.length ≤ b) :
    Memory.byte (Memory.setWords m a ws) b = Memory.byte m b := by
  induction ws generalizing m a with
  | nil => rfl
  | cons w ws ih =>
    rw [List.length_cons] at h
    rw [Memory.setWords, ih _ _ (by omega)]
    exact Memory.byte_writeN_outside 8 m a _ _ b (by omega)

theorem Memory.readN_setWords (ws : List Word) (m : List Host.Cell) (a k : Nat) (h : k < ws.length) :
    Memory.readN (Memory.setWords m a ws) (a + 8 * k) 8 = ws[k].toNat := by
  induction ws generalizing m a k with
  | nil => exact absurd h (Nat.not_lt_zero _)
  | cons w ws ih =>
    cases k with
    | zero =>
      refine .trans ?_ (Memory.readN_setWord m a w)
      exact Memory.readN_congr fun i hi => Memory.byte_setWords_outside ws _ _ _ (by omega)
    | succ k =>
      rw [List.length_cons] at h
      rw [show a + 8 * (k + 1) = a + 8 + 8 * k by omega]
      exact ih (Memory.setWord m a w) (a + 8) k (by omega)

/-! ### A spill of the window unit (R100) -/

/-- What a spill leaves: its words, the thread's slot and the tags. -/
theorem State.spillWords_leaves (s : State) (t : Tid) (g : BitVec 2) :
    (s.spillWords t g).mem = Memory.setWords s.mem (lsHome t.core (128 * (s.slot t).cr.wsp.toNat)) ((s.slot t).regs.group g) ∧
    (s.spillWords t g).slot t = { s.slot t with cr := { (s.slot t).cr with wsp := (s.slot t).cr.wsp + 1 } } ∧ (s.spillWords t g).tags = s.tags := by
  refine ⟨?_, State.slot_setSlot_same .., rfl⟩
  rw [← Memory.foldl_setWord, Nat.mul_comm]
  rfl

/-- In a machine at rest nothing stands in the way of a spill of a thread into a region of its context. -/
theorem State.windowCheck_rest {s : State} (h : s.Rests) (t : Tid) (off : Nat) (ha : s.allocated t.core off (s.ctxOf t.core) = true) :
    s.windowCheck (.window t) t off true = .ok () s ∧ (s.core t.core).gated = false := by
  have hctx : (s.core t.core).ctx.isSome = true := by
    simp only [State.allocated, Bool.and_eq_true, beq_iff_eq] at ha
    rw [ha.1]; rfl
  obtain ⟨hg, hcopies, hdemands, hslots, hwp, -⟩ := (Core.calm_iff _).mp (h.calm _ (State.mem_cores hctx))
  have hck : s.lsCheck (some t.core) (s.ctxOf t.core) false (BitVec.ofNat 64 off) t.core off false = none := by
    simp only [State.lsCheck, State.portRefuses, ha, Bool.not_true, Bool.false_eq_true, if_false, Bool.false_and, bne_self_eq_false]
  have ho : (s.slot t).overlaps (lsHome t.core off) 128 = false := by
    have houts : (s.slot t).outs = [] := (hslots t.slot (mem_slotNums _)).2
    simp [Slot.overlaps, houts]
  have hu : s.unhold (.window t) = s := State.unhold_none s _ (by simp [h.waiters])
  have hf := Core.forcedBy_none (s.core t.core) (fun k hk => (hslots k hk).1)
  have hw := fun rs => State.watch_none s t.core 1 1 rs (.window t) (BitVec.ofNat 64 off) hwp (by decide)
  refine ⟨?_, hg⟩
  simp [State.windowCheck, State.rawCheck, hck, ho, State.tokenHeld_none s _ _ _ hcopies, hu, State.comparators, Core.forced, hf,
    State.demand_none s _ _ hdemands, h.badTags, hw]

/-- The window unit has nothing to end at a slot that does not wait for it. -/
theorem State.windowDone_idle {s : State} {t : Tid} (h : (s.slot t).await ≠ .window) : s.windowDone t = s := by
  have hw : (s.slot t).waitsFor (· == .window) = false := by simp [Slot.waitsFor, h]
  simp [State.windowDone, hw]

/-- A background spill of a frame that fits: one bank operation, and one older frame less. -/
theorem exec_backgroundSpill_rest {s : State} {t : Tid} (h : s.Rests) (hframe : (s.slot t).regs.frame = .normal) (hold : 2 ≤ (s.slot t).regs.older)
    (hfit : (s.slot t).cr.wsp.toNat + 1 ≤ (s.slot t).cr.wsl.toNat) (hst : (s.slot t).st ≠ .empty) (haw : (s.slot t).await ≠ .window)
    (ha : s.allocated t.core (128 * (s.slot t).cr.wsp.toNat) (s.ctxOf t.core) = true) :
    exec (.backgroundSpill t.core t.slot) s =
      .next ((s.spillWords t ((s.slot t).regs.cur - BitVec.ofNat 2 (s.slot t).regs.older)).setSlot t
        { s.slot t with cr := { (s.slot t).cr with wsp := (s.slot t).cr.wsp + 1 }, regs := { (s.slot t).regs with older := (s.slot t).regs.older - 1 } }) := by
  obtain ⟨hck, hgated⟩ := State.windowCheck_rest h t _ ha
  obtain ⟨-, hslot, -⟩ := s.spillWords_leaves t ((s.slot t).regs.cur - BitVec.ofNat 2 (s.slot t).regs.older)
  have hsp : (s.slot t).spillable = true := by simp [Slot.spillable, hframe, hold, hfit, hst]
  have hnw : (s.slot t).waitsFor (· == .window) = false := by simp [Slot.waitsFor, haw]
  have hoff : wsOff (s.slot t).cr.wsp = 128 * (s.slot t).cr.wsp.toNat := Nat.mul_comm ..
  rw [exec_backgroundSpill, execBackgroundSpill]
  dsimp only
  rw [hsp, hgated, hnw, hoff, hck]
  simp only [Bool.not_true, Bool.false_and, Bool.or_self, Bool.false_eq_true, if_false, hframe, hslot]
  rw [State.windowDone_idle]
  simpa using haw

/-- Word k of a group of the ring. -/
theorem Regs.length_group (r : Regs) (g : BitVec 2) : (r.group g).length = 16 := by simp [Regs.group]

theorem Regs.getElem_group (r : Regs) (g : BitVec 2) (k : Nat) (h : k < (r.group g).length) : (r.group g)[k] = r.ring[16 * g.toNat + k]?.getD 0 := by
  simp [Regs.group]

/-- The oldest frame's group, as a number. -/
theorem toNat_oldest (c : BitVec 2) (n : Nat) : (c - BitVec.ofNat 2 n).toNat = (c.toNat + 4 - n % 4) % 4 := by
  rw [BitVec.toNat_sub, BitVec.toNat_ofNat]
  congr 1
  omega

/-- The words of a spill and what lies outside them. -/
theorem State.bytes_spill (s : State) (t : Tid) :
    let x := s.slot t
    let u := s.spillWords t (x.regs.cur - BitVec.ofNat 2 x.regs.older)
    (∀ k, k < 16 → Memory.readN u.mem (lsHome t.core (128 * x.cr.wsp.toNat + 8 * k)) 8 =
      ((x.regs.ring[16 * ((x.regs.cur.toNat + 4 - x.regs.older % 4) % 4) + k]?).getD 0).toNat) ∧
    (∀ a, a < lsHome t.core (128 * x.cr.wsp.toNat) ∨ lsHome t.core (128 * x.cr.wsp.toNat) + 128 ≤ a → Memory.byte u.mem a = Memory.byte s.mem a) := by
  intro x u
  obtain ⟨hmem, -⟩ := s.spillWords_leaves t (x.regs.cur - BitVec.ofNat 2 x.regs.older)
  have hlen := x.regs.length_group (x.regs.cur - BitVec.ofNat 2 x.regs.older)
  refine ⟨fun k hk => ?_, fun a ha => ?_⟩
  · have e : lsHome t.core (128 * x.cr.wsp.toNat + 8 * k) = lsHome t.core (128 * x.cr.wsp.toNat) + 8 * k := by simp only [lsHome, Nat.add_assoc]
    rw [hmem, e, Memory.readN_setWords _ _ _ k (by rw [hlen]; exact hk), Regs.getElem_group, toNat_oldest]
  · rw [hmem]
    exact Memory.byte_setWords_outside _ _ _ a (by rw [hlen]; exact ha)

/-! ### Power gating (R58 to R61) -/

/-- An event that has been posted is due. -/
theorem State.todo_post (s : State) (e : Event) : (s.post e).todo.contains e = true := by
  unfold State.post
  split
  next h => exact h
  next => simp

theorem State.core_post (s : State) (e : Event) (n : Nat) : (s.post e).core n = s.core n := by
  simp [State.core]

theorem exec_gateCommit_idle {s : State} {n : Nat} (hg : (s.core n).gated = false) (hd : (s.core n).gdly ≠ 0) (hi : (s.core n).gdly.toNat ≤ (s.core n).idle) :
    exec (.gateCommit n) s = .next (s.setCore n { s.core n with gated := true, ungating := false, icache := [], staging := [] }) := by
  have hz : ((s.core n).gdly == 0) = false := beq_eq_false_iff_ne.mpr hd
  simp only [exec_gateCommit, execGateCommit, hg, hz, Nat.not_lt.mpr hi, decide_false, Bool.or_self, Bool.false_eq_true, if_false]

theorem exec_gateCommit_never {s : State} {n : Nat} (hd : (s.core n).gdly = 0) : exec (.gateCommit n) s = .next s := by
  rw [exec_gateCommit, execGateCommit]
  simp [hd]

theorem exec_ungateStart_gated {s : State} {n : Nat} (hg : (s.core n).gated = true) (hu : (s.core n).ungating = false) :
    exec (.ungateStart n) s = .next ((s.setCore n { s.core n with ungating := true }).post (.ungateComplete n)) := by
  rw [exec_ungateStart, execUngateStart]
  simp [hg, hu]

/-- The end of the ungating: the core is on, and every READY thread with a parked instruction is the next to be evaluated. -/
theorem exec_ungateComplete_ungating {s : State} {n : Nat} (hu : (s.core n).ungating = true) :
    ∃ u, exec (.ungateComplete n) s = .next u ∧ u.core n = { s.core n with gated := false, ungating := false, idle := 0 } ∧ u.mem = s.mem ∧
      ∀ k : BitVec 3, ((s.core n).slot k).st = .ready → ((s.core n).slot k).cont ≠ none → u.urgent.contains ⟨n, k⟩ = true := by
  rw [exec_ungateComplete, execUngateComplete]
  simp only [hu, Bool.not_true, Bool.false_eq_true, if_false]
  refine ⟨_, rfl, State.core_setCore_same .., rfl, fun k hst hcont => ?_⟩
  have hwoken : ⟨n, k⟩ ∈ (slotNums.filter (fun k => ((s.core n).slot k).runnable && ((s.core n).slot k).cont.isSome)).map (fun k => (⟨n, k⟩ : Tid)) := by
    refine List.mem_map_of_mem (List.mem_filter.mpr ⟨mem_slotNums k, ?_⟩)
    simp [Slot.runnable, hst, Option.isSome_iff_ne_none, hcont]
  rw [List.contains_iff_mem, List.mem_append, List.mem_filter]
  by_cases hin : (⟨n, k⟩ : Tid) ∈ (s.setCore n { s.core n with gated := false, ungating := false, idle := 0 }).urgent
  · exact .inl hin
  · exact .inr ⟨hwoken, by simpa using hin⟩

/-! ### The release of a barrier round (R222) -/

theorem State.slot_wake_other (s : State) {t u : Tid} (h : u ≠ t) : (s.wake t).slot u = s.slot u := by
  unfold State.wake
  dsimp only
  split
  · rw [State.slot_urge, State.slot_rouse, State.slot_setSlot_other _ _ h]
  · rw [State.slot_urge, State.slot_rouse, State.slot_setSlot_other _ _ h]
  · rfl

theorem State.slot_wake_parked {s : State} {t : Tid} (h : (s.slot t).st = .parked) : (s.wake t).slot t = { s.slot t with st := .ready, await := .none } := by
  unfold State.wake
  dsimp only
  rw [h]
  dsimp only
  rw [State.slot_urge, State.slot_rouse, State.slot_setSlot_same]

theorem State.chans_rouse (s : State) (n : Nat) : (s.rouse n).chans = s.chans := by
  unfold State.rouse
  dsimp only
  split
  · exact State.post_chans ..
  · split <;> rfl

theorem State.chans_urge (s : State) (t : Tid) (g : Bool) : (s.urge t g).chans = s.chans := by
  unfold State.urge
  split <;> rfl

theorem State.chans_wake (s : State) (t : Tid) : (s.wake t).chans = s.chans := by
  unfold State.wake
  dsimp only
  split
  · exact (State.chans_urge ..).trans (State.chans_rouse ..)
  · exact (State.chans_urge ..).trans (State.chans_rouse ..)
  · rfl

/-- A thread is woken when it waits in a given way. -/
def State.wakeIf (p : Await → Bool) (s : State) (t : Tid) : State := if (s.slot t).waitsFor p then s.wake t else s

/-- The machine with another entry in place of a channel's. -/
def State.withChan (s : State) (k : Nat) (c : Chan) : State := { s with chans := s.chans.set k c }

theorem State.getElem?_chans_withChan {s : State} {k : Nat} {c : Chan} (b : Chan) (h : s.chans[k]? = some c) : (s.withChan k b).chans[k]? = some b := by
  obtain ⟨hk, -⟩ := List.getElem?_eq_some_iff.mp h
  exact List.getElem?_set_self hk

/-- A new round is open and its participants are woken, one after the other. -/
theorem State.openNext_eq {s : State} {k : Nat} {c : Chan} (h : s.chans[k]? = some c) :
    s.openNext k = (s.participants c).foldl (State.wakeIf (· == .barrier c.sc)) (s.withChan k { c with round := c.round + 1, sent := c.final }) := by
  unfold State.openNext
  rw [h]
  rfl

theorem State.chans_wakeIf (p : Await → Bool) (s : State) (t : Tid) : (s.wakeIf p t).chans = s.chans := by
  unfold State.wakeIf
  split
  · exact State.chans_wake ..
  · rfl

theorem State.sameBytes_wakeIf (p : Await → Bool) (s : State) (t : Tid) : s.SameBytes (s.wakeIf p t) :=
  State.sameBytes_ite _ (State.sameBytes_wake ..) (.refl s)

theorem State.slot_wakeIf_other (p : Await → Bool) (s : State) {t u : Tid} (h : u ≠ t) : (s.wakeIf p t).slot u = s.slot u := by
  unfold State.wakeIf
  split
  · exact State.slot_wake_other s h
  · rfl

/-- A READY thread waits for nothing: wakes leave its slot. -/
theorem State.slot_wakeIf_ready (p : Await → Bool) {s : State} {t : Tid} (u : Tid) (h : (s.slot t).st = .ready) : (s.wakeIf p u).slot t = s.slot t := by
  by_cases hu : t = u
  · subst hu
    have hw : (s.slot t).waitsFor p = false := by simp [Slot.waitsFor, h]
    simp [State.wakeIf, hw]
  · exact State.slot_wakeIf_other p s hu

theorem State.slot_wakeIf_parked {p : Await → Bool} {s : State} {t : Tid} (h : (s.slot t).st = .parked) (hp : p (s.slot t).await = true) :
    (s.wakeIf p t).slot t = { s.slot t with st := .ready, await := .none } := by
  have hw : (s.slot t).waitsFor p = true := by simp [Slot.waitsFor, h, hp]
  rw [State.wakeIf, if_pos hw, State.slot_wake_parked h]

theorem State.slot_wakeEach_ready (p : Await → Bool) (ts : List Tid) {s : State} {t : Tid} (h : (s.slot t).st = .ready) :
    (ts.foldl (State.wakeIf p) s).slot t = s.slot t := by
  induction ts generalizing s with
  | nil => rfl
  | cons u ts ih =>
    have hu := State.slot_wakeIf_ready p u h
    rw [List.foldl_cons, ih (by rw [hu]; exact h), hu]

/-- A parked thread among those that are woken is READY afterwards, with the instruction that it had parked. -/
theorem State.slot_wakeEach_parked {p : Await → Bool} {ts : List Tid} {s : State} {t : Tid} (ht : t ∈ ts) (h : (s.slot t).st = .parked)
    (hp : p (s.slot t).await = true) : (ts.foldl (State.wakeIf p) s).slot t = { s.slot t with st := .ready, await := .none } := by
  induction ts generalizing s with
  | nil => exact absurd ht List.not_mem_nil
  | cons u ts ih =>
    rw [List.foldl_cons]
    by_cases hu : t = u
    · subst hu
      have hw := State.slot_wakeIf_parked h hp
      rw [State.slot_wakeEach_ready p ts (by rw [hw]), hw]
    · have hsame := State.slot_wakeIf_other p s hu
      rw [ih ((List.mem_cons.mp ht).resolve_left hu) (by rw [hsame]; exact h) (by rw [hsame]; exact hp), hsame]

theorem State.roundFull_of_arrived {s : State} {c : Chan} (h : ∀ t ∈ s.participants c, (s.slot t).ab[c.sc.toNat]?.getD none = some c.round)
    (hs : ∀ x ∈ s.savedParts c, x.ab[c.sc.toNat]?.getD none = some c.round) : s.roundFull c = true := by
  simp only [State.roundFull, Bool.and_eq_true, List.all_eq_true, beq_iff_eq]
  exact ⟨h, hs⟩

/-- A full round of a channel of the package opens the next one. -/
theorem exec_barrierRoundRelease_open {s : State} {key : Nat} {c : Chan} (hc : s.chans[key]? = some c) (hsent : c.sent = false)
    (hfull : s.roundFull c = true) (h5 : c.sc ≠ 5) (hp : s.participants c ≠ []) : exec (.barrierRoundRelease c.sc key) s = .next (s.openNext key) := by
  have hg : s.allGone c = false := by simp [State.allGone, hp]
  have h5' : (c.sc == 5) = false := beq_eq_false_iff_ne.mpr h5
  rw [exec_barrierRoundRelease, execBarrierRoundRelease, hc]
  simp only [hsent, hfull, h5', hg, bne_self_eq_false, Bool.not_true, Bool.or_self, Bool.false_eq_true, if_false]

/-- A full round of a pod channel, whose launch there still is, sends its arrival. -/
theorem exec_barrierRoundRelease_pod {s : State} {key : Nat} {c : Chan} (hc : s.chans[key]? = some c) (hsent : c.sent = false)
    (hfull : s.roundFull c = true) (h5 : c.sc = 5) (hl : s.launch c.owner ≠ none) :
    exec (.barrierRoundRelease c.sc key) s =
      .next ((s.withChan key { c with sent := true, final := s.allGone c }).podSend c.group (s.allGone c)) := by
  have hn : (s.launch c.owner).isNone = false := Option.isNone_eq_false_iff.mpr (Option.isSome_iff_ne_none.mpr hl)
  have h5' : (c.sc == 5) = true := beq_iff_eq.mpr h5
  rw [exec_barrierRoundRelease, execBarrierRoundRelease, hc]
  simp only [hsent, hfull, h5', hn, bne_self_eq_false, Bool.not_true, Bool.or_self, Bool.and_false, Bool.false_eq_true, if_false, if_true]
  rfl

/-- A message of world 0 leaves as it is when no link has failed (R395). -/
theorem State.sent_transmit {s : State} (n : Nat) {m : Msg} (h0 : s.plat.linksFailed = 0) (hw : m.world = 0) :
    (s.transmit n m).sent = s.sent ++ [m] ∧ (s.transmit n m).chans = s.chans := by
  have hlost : s.lost m = false := by
    unfold State.lost
    rw [h0]
    cases s.plat.link m.dst m.lane.toNat <;> simp
  have hcount : ∀ l, (s.countLink l).sent = s.sent ∧ (s.countLink l).chans = s.chans := fun l => by cases l <;> exact ⟨rfl, rfl⟩
  simp only [State.transmit, hlost, hw, Bool.false_eq_true, if_false, beq_self_eq_true, Bool.true_or, if_true, hcount]
  exact ⟨trivial, trivial⟩

/-- The arrival of a pod channel goes to its root as a barrier message (R404). -/
theorem State.podSend_away {s : State} {g : Nat} (final : Bool) (hroot : s.podRoot g ≠ s.plat.self) (hlinks : s.plat.linksFailed = 0) :
    (s.podSend g final).sent = s.sent ++ [barrierMsg s.plat.self (s.podRoot g) g false final] ∧ (s.podSend g final).chans = s.chans ∧
      (s.podSend g final).mem = s.mem := by
  obtain ⟨hsent, hchans⟩ := State.sent_transmit 4096 (m := barrierMsg s.plat.self (s.podRoot g) g false final) hlinks rfl
  rw [State.podSend, if_neg (by simpa using hroot)]
  exact ⟨hsent, hchans, (State.sameBytes_transmit ..).1⟩

/-- Settles O42: a spill is sixteen words of the window ring, gating and ungating touch their core, and a full round wakes its participants or sends its arrival. -/
theorem coreEventResults : Obligations.core_event_results := by
  unfold Obligations.core_event_results
  refine ⟨?spill, ?power, ?barrier⟩
  case spill =>
    intro s t hcalm hframe hold hfit hst haw ha x g
    obtain ⟨hrest, -, -⟩ := State.rests_of_calm hcalm
    obtain ⟨-, -, htags⟩ := s.spillWords_leaves t ((s.slot t).regs.cur - BitVec.ofNat 2 (s.slot t).regs.older)
    obtain ⟨hin, hout⟩ := s.bytes_spill t
    refine ⟨_, exec_backgroundSpill_rest hrest hframe hold hfit hst haw ha, ?_, ?_, hin, hout, ?_, htags⟩ <;> rw [State.slot_setSlot_same]
  case power =>
    intro s n c
    refine ⟨fun hg hd hi => ?_, fun _ hd => exec_gateCommit_never hd, fun hg hu => ?_, fun hu => ?_⟩
    · exact ⟨_, exec_gateCommit_idle hg hd hi, by simp, by simp, by simp [c], rfl, rfl⟩
    · exact ⟨_, exec_ungateStart_gated hg hu, by simp [State.core_post], State.todo_post .., State.post_mem ..⟩
    · obtain ⟨u, hex, hcore, hmem, hurgent⟩ := exec_ungateComplete_ungating hu
      exact ⟨u, hex, by rw [hcore], by rw [hcore], hmem, hurgent⟩
  case barrier =>
    rintro s sc key c hc rfl hsent harr hsaved
    have hfull := State.roundFull_of_arrived harr hsaved
    refine ⟨fun h5 hp => ?_, fun h5 hroot hl hlinks => ?_⟩
    · refine ⟨_, exec_barrierRoundRelease_open hc hsent hfull h5 hp, ?_⟩
      rw [State.openNext_eq hc]
      refine ⟨?_, ?_, fun t ht hst haw => ?_⟩
      · rw [State.foldl_keeps (p := fun u => u.chans = _) _ (fun u t hu => (State.chans_wakeIf _ u t).trans hu) _ rfl, State.getElem?_chans_withChan _ hc]
        rfl
      · exact (State.sameBytes_foldl _ (State.sameBytes_wakeIf _) _ _).1
      · rw [State.slot_wakeEach_parked (s := s.withChan key { c with round := c.round + 1, sent := c.final }) (p := (· == .barrier c.sc)) ht hst
          (beq_iff_eq.mpr haw)]
        exact ⟨rfl, rfl⟩
    · obtain ⟨hout, hchans, hmem⟩ := State.podSend_away (s := s.withChan key { c with sent := true, final := s.allGone c }) (s.allGone c) hroot hlinks
      refine ⟨_, _, exec_barrierRoundRelease_pod hc hsent hfull h5 hl, ?_, hout, rfl, rfl, rfl, hmem⟩
      rw [hchans, State.getElem?_chans_withChan _ hc]
      rfl

end Sys2Proof.Machine
end

section
/-!
PROOFS. Words of majors 0x02 and 0x04 that a check of R120 refuses (09 R132, R135).
-/

namespace Sys2Proof

/-- A head put together from its parts: two bits of length and the major, register D, the minor (R115, R116). -/
theorem head_fields (m : BitVec 8) (d : SReg) (f : BitVec 3) :
    (m ++ d ++ f).extractLsb' 8 6 = m.extractLsb' 0 6 ∧ (m ++ d ++ f).extractLsb' 0 3 = f := by
  refine ⟨?_, ?_⟩
  · rw [Laws.field_high (m ++ d) f 8 6 (by decide), Laws.field_high m d 5 6 (by decide)]
  · rw [Laws.field_low (m ++ d) f 0 3 (by decide), Laws.field_all]

theorem minor_lt_six : ∀ f : BitVec 3, f.toNat < 6 → f = 0#3 ∨ f = 1#3 ∨ f = 2#3 ∨ f = 3#3 ∨ f = 4#3 ∨ f = 5#3 := by decide

theorem minor_lt_three : ∀ f : BitVec 3, f.toNat < 3 → f = 0#3 ∨ f = 1#3 ∨ f = 2#3 := by decide

theorem checked_reservedField (i : Instr) {clear : Bool} (h : clear = false) : checked false clear i = .error .reservedField := by
  subst h; rfl

theorem checked_reservedValue (i : Instr) {illegal : Bool} (clear : Bool) (h : illegal = true) : checked illegal clear i = .error .reservedValue := by
  subst h; rfl

/-- A field that is to be zero and has a bit set. -/
theorem field_ne_zero {w start len k : Nat} {v : BitVec w} (hk : k < len) (h : v.getLsbD (start + k) = true) : (v.extractLsb' start len == 0#len) = false := by
  refine beq_false_of_ne fun e => ?_
  have hbit := congrArg (BitVec.getLsbD · k) e
  simp only [BitVec.getLsbD_extractLsb', BitVec.getLsbD_zero, hk, decide_true, Bool.true_and, h] at hbit
  cases hbit

/-- Minors 0 to 5 of major 0x02 have no U bit (R132; R120, check 6). -/
theorem decodeHT_compare_one (d : SReg) {f : BitVec 3} {v : BitVec 16} (hf : f.toNat < 6) (hv : v.getLsbD 0 = true) :
    decodeHT (0x42#8 ++ d ++ f) (.one v) = .error .reservedField := by
  obtain ⟨hmajor, hminor⟩ := head_fields 0x42#8 d f
  have hu : (v.extractLsb' 0 6 == 0#6) = false := field_ne_zero (k := 0) (by decide) hv
  rw [Laws.decodeHT_02 _ _ hmajor, decMajor02, hminor]
  rcases minor_lt_six f hf with rfl | rfl | rfl | rfl | rfl | rfl <;> exact checked_reservedField _ hu

theorem decodeHT_compare_two (d : SReg) {f : BitVec 3} {v : BitVec 32} (hf : f.toNat < 6) (hv : v.getLsbD 16 = true) :
    decodeHT (0x82#8 ++ d ++ f) (.two v) = .error .reservedField := by
  obtain ⟨hmajor, hminor⟩ := head_fields 0x82#8 d f
  have hu : (v.extractLsb' 16 1 == 0#1) = false := field_ne_zero (k := 0) (by decide) hv
  have hclear : (v.extractLsb' 22 5 == 0#5 && v.extractLsb' 17 5 == 0#5 && v.extractLsb' 16 1 == 0#1) = false := by rw [hu, Bool.and_false]
  rw [Laws.decodeHT_02 _ _ hmajor, decMajor02, hminor]
  rcases minor_lt_six f hf with rfl | rfl | rfl | rfl | rfl | rfl <;> exact checked_reservedField _ hclear

/-- A bit field that reaches above bit 63 (R135; R120, check 5). -/
theorem decodeHT_wide_field (d : SReg) {f : BitVec 3} {v : BitVec 32} (hf : f.toNat < 3) (hv : 64 ≤ (v.extractLsb' 6 6).toNat + (v.extractLsb' 0 6).toNat) :
    decodeHT (0x84#8 ++ d ++ f) (.two v) = .error .reservedValue := by
  obtain ⟨hmajor, hminor⟩ := head_fields 0x84#8 d f
  have hwide : decide (64 < (v.extractLsb' 6 6).toNat + (v.extractLsb' 0 6).toNat + 1) = true := decide_eq_true (by omega)
  rw [Laws.decodeHT_04 _ _ hmajor, decMajor04, hminor]
  rcases minor_lt_three f hf with rfl | rfl | rfl <;> exact checked_reservedValue _ _ hwide

end Sys2Proof
end

section
/-!
PROOFS. The results of the scalar instructions: logic, shifts, immediates, compares, bit counts and fields, constants and moves (09 R130 to R138).
-/

namespace Sys2Proof.Machine

/-! ### The shapes of scalar instructions -/

/-- An instruction that is a scalar one in every state faults as its ports say (R128, R388). -/
theorem portFaults_of_scalar {i : Instr} {srcs : List SReg} {d : SReg} (h : ∀ s, ∃ f, exec i s = s.scalar srcs d f) : PortFaults i srcs [d] := by
  intro s
  obtain ⟨f, hf⟩ := h s
  rw [hf]
  exact ⟨State.scalar_bad s srcs d f, State.scalar_shut s srcs d f⟩

theorem scalarTwo_of_exec {mk : SReg → SReg → SReg → Instr} {f : Word → Word → Word} (h : ∀ s d b c, exec (mk d b c) s = s.scalar2 d b c f) :
    ScalarTwo mk f :=
  ⟨fun s d b c hp => (h s d b c).trans (State.scalar_open s [b, c] d _ hp), fun d b c => portFaults_of_scalar fun s => ⟨_, h s d b c⟩⟩

theorem scalarOne_of_exec {mk : SReg → SReg → Instr} {f : Word → Word} (h : ∀ s d b, exec (mk d b) s = s.scalar1 d b f) : ScalarOne mk f :=
  ⟨fun s d b hp => (h s d b).trans (State.scalar_open s [b] d _ hp), fun d b => portFaults_of_scalar fun s => ⟨_, h s d b⟩⟩

theorem scalarImm11_of_exec {mk : SReg → SReg → BitVec 11 → Instr} {f : Word → Word → Word}
    (h : ∀ s d b i, exec (mk d b i) s = s.scalar1 d b (fun x => f x (i.signExtend 64))) : ScalarImm11 mk f :=
  ⟨fun s d b i hp => (h s d b i).trans (State.scalar_open s [b] d _ hp), fun d b i => portFaults_of_scalar fun s => ⟨_, h s d b i⟩⟩

theorem scalarImm16_of_exec {mk : SReg → SReg → BitVec 16 → Instr} {f : Word → Word → Word}
    (h : ∀ s d b i, exec (mk d b i) s = s.scalar1 d b (fun x => f x (i.signExtend 64))) : ScalarImm16 mk f :=
  ⟨fun s d b i hp => (h s d b i).trans (State.scalar_open s [b] d _ hp), fun d b i => portFaults_of_scalar fun s => ⟨_, h s d b i⟩⟩

theorem scalarConst_of_exec {w : Nat} {mk : SReg → BitVec w → Instr} {f : BitVec w → Word} (h : ∀ s d i, exec (mk d i) s = s.scalar [] d (fun _ => f i)) :
    ScalarConst w mk f :=
  ⟨fun s d i hp => (h s d i).trans (State.scalar_open s [] d _ hp), fun d i => portFaults_of_scalar fun s => ⟨_, h s d i⟩⟩

/-- Settles O1: each of them is a scalar instruction with the function that R131 names. -/
theorem scalarLogicAndImmediateResults : Obligations.scalar_logic_and_immediate_results := by
  unfold Obligations.scalar_logic_and_immediate_results
  have two {mk f} (h) : ScalarTwo mk f := scalarTwo_of_exec h
  have short {mk f} (h) : ScalarImm11 mk f := scalarImm11_of_exec h
  have long {mk f} (h) : ScalarImm16 mk f := scalarImm16_of_exec h
  refine ⟨⟨two ?_, two ?_, two ?_, two ?_, two ?_, two ?_⟩, short ?_, long ?_, short ?_, long ?_, short ?_, long ?_, short ?_, long ?_, short ?_, long ?_,
    short ?_, long ?_, short ?_, long ?_, short ?_, long ?_⟩ <;> intros <;> rfl

/-! ### Compares (R132) -/

theorem ScalarTwo.congr {mk : SReg → SReg → SReg → Instr} {f g : Word → Word → Word} (h : ScalarTwo mk f) (hfg : ∀ x y, f x y = g x y) : ScalarTwo mk g := by
  obtain rfl : f = g := funext₂ hfg
  exact h

theorem ScalarImm16.congr {mk : SReg → SReg → BitVec 16 → Instr} {f g : Word → Word → Word} (h : ScalarImm16 mk f) (hfg : ∀ x y, f x y = g x y) :
    ScalarImm16 mk g := by
  obtain rfl : f = g := funext₂ hfg
  exact h

/-- A choice by a strict order is the choice by the order that admits equality where equal operands make no difference. -/
theorem ite_slt_eq_ite_le {x y p q : Word} (h : x = y → p = q) : (if x.slt y then p else q) = if x.toInt ≤ y.toInt then p else q := by
  simp only [BitVec.slt_iff_toInt_lt]
  rcases lt_trichotomy x.toInt y.toInt with hlt | heq | hgt
  · rw [if_pos hlt, if_pos hlt.le]
  · rw [if_neg heq.not_lt, if_pos heq.le, h (BitVec.eq_of_toInt_eq heq)]
  · rw [if_neg hgt.not_gt, if_neg hgt.not_ge]

theorem ite_ult_eq_ite_le {x y p q : Word} (h : x = y → p = q) : (if x.ult y then p else q) = if x.toNat ≤ y.toNat then p else q := by
  simp only [BitVec.ult_iff_toNat_lt]
  rcases lt_trichotomy x.toNat y.toNat with hlt | heq | hgt
  · rw [if_pos hlt, if_pos hlt.le]
  · rw [if_neg heq.not_lt, if_pos heq.le, h (BitVec.eq_of_toNat_eq heq)]
  · rw [if_neg hgt.not_gt, if_neg hgt.not_ge]

/-- Settles O2: each relation, minimum and maximum is a scalar instruction with its function, and the U bit has no place in the other minors. -/
theorem scalarCompareResults : Obligations.scalar_compare_results := by
  unfold Obligations.scalar_compare_results
  have two {mk f} (h) : ScalarTwo mk f := scalarTwo_of_exec h
  have long {mk f} (h) : ScalarImm16 mk f := scalarImm16_of_exec h
  have least (x y : Word) : (if x.slt y then x else y) = if x.toInt ≤ y.toInt then x else y := ite_slt_eq_ite_le id
  have leastU (x y : Word) : (if x.ult y then x else y) = if x.toNat ≤ y.toNat then x else y := ite_ult_eq_ite_le id
  have greatest (x y : Word) : (if x.slt y then y else x) = if x.toInt ≤ y.toInt then y else x := ite_slt_eq_ite_le Eq.symm
  have greatestU (x y : Word) : (if x.ult y then y else x) = if x.toNat ≤ y.toNat then y else x := ite_ult_eq_ite_le Eq.symm
  have differ (x y : Word) : b2w (x != y) = if decide (x ≠ y) then 1 else 0 := by by_cases h : x = y <;> simp [b2w, h]
  refine ⟨two ?_, long ?_, (two ?_).congr differ, (long ?_).congr differ,
    two ?_, long ?_, two ?_, long ?_, two ?_, long ?_, two ?_, long ?_,
    (two ?_).congr least, (long ?_).congr least, (two ?_).congr leastU, (long ?_).congr leastU,
    (two ?_).congr greatest, (long ?_).congr greatest, (two ?_).congr greatestU, (long ?_).congr greatestU,
    fun d _ _ hf hv => decodeHT_compare_one d hf hv, fun d _ _ hf hv => decodeHT_compare_two d hf hv⟩
  all_goals intros; rfl

/-! ### Bit counts, reversals, rotations and fields (R134, R135) -/

/-- The first elements of a range that pass a test, up to one that does not. -/
theorem length_takeWhile_range {p : Nat → Bool} {n m : Nat} (hm : m ≤ n) (hpass : ∀ k, k < m → p k = true) (hstop : m < n → p m = false) :
    ((List.range n).takeWhile p).length = m := by
  obtain ⟨k, rfl⟩ := Nat.exists_eq_add_of_le hm
  rw [List.range_add, List.takeWhile_append_of_pos (fun i hi => hpass i (List.mem_range.mp hi))]
  have hrest : ((List.range k).map (m + ·)).takeWhile p = [] := by
    cases k with
    | zero => rfl
    | succ k => simp [List.range_succ_eq_map, hstop (by omega)]
  rw [hrest, List.append_nil, List.length_range]

/-- The bits above the highest set bit are clear (R134). -/
theorem clz64_spec (x : Word) : clz64 x ≤ 64 ∧ (∀ k, k < clz64 x → x.getLsbD (63 - k) = false) ∧ (clz64 x < 64 → x.getLsbD (63 - clz64 x) = true) := by
  unfold clz64
  split
  · rename_i h; subst h; simp
  · rename_i h
    have hx : x.toNat ≠ 0 := fun e => h (BitVec.eq_of_toNat_eq e)
    have hlog : x.toNat.log2 < 64 := (Nat.log2_lt hx).mpr x.isLt
    refine ⟨by omega, fun k hk => ?_, fun _ => ?_⟩
    · exact Nat.testBit_lt_two_pow ((Nat.log2_lt hx).mp (by omega))
    · rw [show 63 - (63 - x.toNat.log2) = x.toNat.log2 by omega]
      exact Nat.testBit_log2 hx

theorem clz64_eq (x : Word) : clz64 x = ((List.range 64).takeWhile (fun k => !x.getLsbD (63 - k))).length := by
  obtain ⟨hle, hclear, hset⟩ := clz64_spec x
  exact (length_takeWhile_range hle (fun k hk => by rw [hclear k hk]; rfl) (fun h => by rw [hset h]; rfl)).symm

theorem clz64_reverse (x : Word) : clz64 x.reverse = ((List.range 64).takeWhile (fun k => !x.getLsbD k)).length := by
  obtain ⟨hle, hclear, hset⟩ := clz64_spec x.reverse
  have hbit : ∀ k, k < 64 → x.reverse.getLsbD (63 - k) = x.getLsbD k := fun k hk => by
    rw [BitVec.getLsbD_reverse, BitVec.getMsbD_eq_getLsbD]
    simp [show 63 - k < 64 by omega, show 63 - (63 - k) = k by omega]
  refine (length_takeWhile_range hle (fun k hk => ?_) (fun h => ?_)).symm
  · rw [← hbit k (by omega), hclear k hk]; rfl
  · rw [← hbit _ h, hset h]; rfl

theorem popc64_eq (x : Word) : popc64 x = (List.range 64).countP (fun k => x.getLsbD k) := List.countP_eq_length_filter.symm

theorem getLsbD_brev (x : Word) {i : Nat} (hi : i < 64) : x.reverse.getLsbD i = x.getLsbD (63 - i) := by
  rw [BitVec.getLsbD_reverse, BitVec.getMsbD_eq_getLsbD]
  simp [hi]

/-- A number put together from bytes, the first one highest. -/
theorem testBit_foldl_bytes (f : Nat → Nat) (hf : ∀ i, f i < 2 ^ 8) (n i j : Nat) (hi : i < n) (hj : j < 8) :
    ((List.range n).foldl (fun a i => a * 256 + f i) 0).testBit (8 * i + j) = (f (n - 1 - i)).testBit j := by
  induction n generalizing i with
  | zero => omega
  | succ n ih =>
    rw [List.range_succ, List.foldl_append, List.foldl_cons, List.foldl_nil, Nat.mul_comm _ 256,
      Nat.testBit_two_pow_mul_add (i := 8) _ (hf n)]
    cases i with
    | zero => simp [hj]
    | succ i =>
      rw [if_neg (by omega), show 8 * (i + 1) + j - 8 = 8 * i + j by omega, ih i (by omega), show n + 1 - 1 - (i + 1) = n - 1 - i by omega]

theorem getLsbD_bswap64 (x : Word) {i j : Nat} (hi : i < 8) (hj : j < 8) : (bswap64 x).getLsbD (8 * i + j) = x.getLsbD (8 * (7 - i) + j) := by
  have hbyte := testBit_foldl_bytes (fun i => (x.extractLsb' (8 * i) 8).toNat) (fun i => (x.extractLsb' (8 * i) 8).isLt) 8 i j hi hj
  rw [bswap64, BitVec.getLsbD_ofNat, hbyte, decide_eq_true (by omega), Bool.true_and]
  exact (BitVec.getLsbD_extractLsb' ..).trans (by rw [decide_eq_true hj, Bool.true_and])

theorem getLsbD_rotateLeft_place (x : Word) (n : Nat) {i : Nat} (hi : i < 64) : (x.rotateLeft (n % 64)).getLsbD ((i + n) % 64) = x.getLsbD i := by
  rw [BitVec.getLsbD_rotateLeft]
  by_cases h : (i + n) % 64 < n % 64
  · rw [decide_eq_true (by omega), cond_true]; congr 1; omega
  · rw [decide_eq_false (by omega), cond_false, decide_eq_true (by omega), Bool.true_and]; congr 1; omega

theorem getLsbD_rotateRight_place (x : Word) (n : Nat) {i : Nat} (hi : i < 64) : (x.rotateRight (n % 64)).getLsbD i = x.getLsbD ((i + n) % 64) := by
  rw [BitVec.getLsbD_rotateRight]
  by_cases h : i < 64 - n % 64 % 64
  · rw [decide_eq_true h, cond_true]; congr 1; omega
  · rw [decide_eq_false h, cond_false, decide_eq_true hi, Bool.true_and]; congr 1; omega

/-- A signed field is read as a number of its own width. -/
theorem intOf_eq_toInt (w b : Nat) : intOf (w + 1) true b = (BitVec.ofNat (w + 1) b).toInt := by
  have hpow : (2 : Nat) ^ (w + 1) = 2 * 2 ^ w := Nat.pow_succ'
  have hiff : 2 * (b % 2 ^ (w + 1)) < 2 ^ (w + 1) ↔ ¬2 ^ w ≤ b % 2 ^ (w + 1) := by rw [hpow]; omega
  rw [intOf, BitVec.toInt_eq_toNat_cond, BitVec.toNat_ofNat]
  simp only [Bool.true_and, decide_eq_true_eq, Nat.add_sub_cancel, hiff, ite_not, Nat.cast_pow, Nat.cast_ofNat]

theorem getLsbD_field_signed (x : Word) {pos len i : Nat} (hi : i < 64) :
    (BitVec.ofInt 64 (intOf (len + 1) true (x.toNat / 2 ^ pos))).getLsbD i = x.getLsbD (pos + min i len) := by
  have hbit : ∀ k, k < len + 1 → (BitVec.ofNat (len + 1) (x.toNat / 2 ^ pos)).getLsbD k = x.getLsbD (pos + k) := fun k hk => by
    rw [BitVec.getLsbD_ofNat, decide_eq_true hk, Bool.true_and, Nat.testBit_div_two_pow, Nat.add_comm]; rfl
  rw [intOf_eq_toInt, ← BitVec.signExtend, BitVec.getLsbD_signExtend, decide_eq_true hi, Bool.true_and]
  split
  · rw [hbit i ‹_›, Nat.min_eq_left (by omega)]
  · rw [BitVec.msb_eq_getLsbD_last, Nat.add_sub_cancel, hbit len (by omega), Nat.min_eq_right (by omega)]

theorem getLsbD_field_unsigned (x : Word) {pos len i : Nat} (hi : i < 64) :
    (BitVec.ofNat 64 (x.toNat / 2 ^ pos % 2 ^ (len + 1))).getLsbD i = (decide (i ≤ len) && x.getLsbD (pos + i)) := by
  rw [BitVec.getLsbD_ofNat, decide_eq_true hi, Bool.true_and, Nat.testBit_mod_two_pow, Nat.testBit_div_two_pow, Nat.add_comm i pos]
  rw [decide_eq_decide.mpr Nat.lt_succ_iff]; rfl

theorem getLsbD_insBits (old v : Word) {pos len i : Nat} (hl : pos + len < 64) (hi : i < 64) :
    (insBits old v pos (len + 1)).getLsbD i = if pos ≤ i ∧ i ≤ pos + len then v.getLsbD (i - pos) else old.getLsbD i := by
  have hmask : (BitVec.ofNat 64 (2 ^ (len + 1) - 1) <<< pos).getLsbD i = decide (pos ≤ i ∧ i ≤ pos + len) := by
    rw [BitVec.getLsbD_shiftLeft, BitVec.getLsbD_ofNat, Nat.testBit_two_pow_sub_one, decide_eq_true hi, Bool.true_and,
      decide_eq_true (show i - pos < 64 by omega), Bool.true_and]
    by_cases h : i < pos
    · simp [h, Nat.not_le.mpr h]
    · rw [decide_eq_false h, Bool.not_false, Bool.true_and]
      exact decide_eq_decide.mpr (by omega)
  rw [insBits, BitVec.getLsbD_or, BitVec.getLsbD_and, BitVec.getLsbD_and, BitVec.getLsbD_not, hmask, BitVec.getLsbD_shiftLeft]
  split
  · rename_i h; simp [h, hi]
  · rename_i h; simp [h, hi]

theorem ScalarOne.congr {mk : SReg → SReg → Instr} {f g : Word → Word} (h : ScalarOne mk f) (hfg : ∀ x, f x = g x) : ScalarOne mk g := by
  obtain rfl : f = g := funext hfg
  exact h

/-- Settles O3: the results of R134 and R135, bit by bit. -/
theorem scalarBitAndFieldResults : Obligations.scalar_bit_and_field_results := by
  unfold Obligations.scalar_bit_and_field_results
  have one {mk f} (h) : ScalarOne mk f := scalarOne_of_exec h
  refine ⟨⟨?clz, ?ctz, ?popc, ?brev, ?bswap, ?rol, ?ror, ?bitFaults⟩, ?field, ?fieldFaults, fun d _ _ hf hv => decodeHT_wide_field d hf hv⟩
  case clz => exact (one fun _ _ _ => rfl).congr fun x => congrArg (BitVec.ofNat 64) (clz64_eq x)
  case ctz => exact (one fun _ _ _ => rfl).congr fun x => congrArg (BitVec.ofNat 64) (clz64_reverse x)
  case popc => exact (one fun _ _ _ => rfl).congr fun x => congrArg (BitVec.ofNat 64) (popc64_eq x)
  case brev => exact fun s d b hp => ⟨_, State.scalar_open s [b] d _ hp, fun i hi => getLsbD_brev _ hi⟩
  case bswap => exact fun s d b hp => ⟨_, State.scalar_open s [b] d _ hp, fun i j hi hj => getLsbD_bswap64 _ hi hj⟩
  case rol => exact fun s d b c hp => ⟨_, State.scalar_open s [b, c] d _ hp, fun i hi => getLsbD_rotateLeft_place _ _ hi⟩
  case ror => exact fun s d b c hp => ⟨_, State.scalar_open s [b, c] d _ hp, fun i hi => getLsbD_rotateRight_place _ _ hi⟩
  case bitFaults =>
    exact fun d b c => ⟨portFaults_of_scalar fun _ => ⟨_, rfl⟩, portFaults_of_scalar fun _ => ⟨_, rfl⟩, portFaults_of_scalar fun _ => ⟨_, rfl⟩,
      portFaults_of_scalar fun _ => ⟨_, rfl⟩⟩
  case field =>
    intro s d b pos lenM1 hfits
    exact ⟨fun hp => ⟨_, State.scalar_open s [b] d _ hp, fun i hi => getLsbD_field_signed _ hi⟩,
      fun hp => ⟨_, State.scalar_open s [b] d _ hp, fun i hi => getLsbD_field_unsigned _ hi⟩,
      fun hp => ⟨_, State.scalar_open s [b, d] d _ hp, fun i hi => getLsbD_insBits _ _ hfits hi⟩⟩
  case fieldFaults =>
    exact fun d b pos lenM1 => ⟨portFaults_of_scalar fun _ => ⟨_, rfl⟩, portFaults_of_scalar fun _ => ⟨_, rfl⟩, portFaults_of_scalar fun _ => ⟨_, rfl⟩⟩

/-! ### Constants, addresses and moves (R136 to R138) -/

/-- LIH puts its constant above the low 48 bits (R136). -/
theorem lih_eq (i : BitVec 16) (x : Word) : i ++ x.extractLsb' 0 48 = BitVec.ofNat 64 (i.toNat * 2 ^ 48 + x.toNat % 2 ^ 48) := by
  refine BitVec.eq_of_toNat_eq ?_
  have hi := i.isLt
  rw [BitVec.toNat_append, BitVec.extractLsb'_toNat, Nat.shiftRight_zero, BitVec.toNat_ofNat, Nat.shiftLeft_eq, Nat.mul_comm,
    ← Nat.two_pow_add_eq_or_of_lt (Nat.mod_lt _ (Nat.two_pow_pos 48)), Nat.mul_comm]
  omega

/-- A shift by the scale of LEA X1 is a multiplication (R137). -/
theorem shiftLeft_scale (y : Word) (n : BitVec 2) : y <<< n.toNat = y * BitVec.ofNat 64 (2 ^ n.toNat) := by
  rw [BitVec.shiftLeft_eq_mul_twoPow, BitVec.eq_of_toNat_eq ((BitVec.toNat_twoPow 64 n.toNat).trans (BitVec.toNat_ofNat ..).symm)]

/-- A pop by an instruction that discards its result takes the oldest entry of the thread's queue. -/
theorem exec_mov_discard {s : State} {v : Word} {vs : List Word} (hsu : s.me.port.su = true) (hq : s.me.port.sq = v :: vs) :
    ∃ t, exec (.mov 0 6) s = .next t ∧ t.me.port.sq = vs ∧ t.rs 0 = 0 := by
  have hp : s.portsOpen [6] [0] [] [] = true := by simp [State.portsOpen, State.pushesOut, Slot.portBad, Slot.vportBad, hsu, hq]
  have hpops : (s.pops [6] []).me.port.sq = vs := by
    have hpop : s.pops [6] [] = s.popScalar s.cur := by simp [State.pops]
    rw [hpop, State.me, (State.still_popScalar s s.cur).cur, State.sq_popScalar, ← State.me, hq, List.tail_cons]
  refine ⟨_, State.scalar_open s [6] 0 _ hp, ?_, ?_⟩
  · rw [State.me_setS _ _ _ (by decide)]; exact hpops
  · exact State.rs_setS s [6] 0 _ (by decide) (by decide)

/-- Settles O4: constants, addresses and moves are scalar instructions with the results of R136 to R138. -/
theorem scalarMoveResults : Obligations.scalar_move_results := by
  unfold Obligations.scalar_move_results
  have faults {i srcs d} (h) : PortFaults i srcs [d] := portFaults_of_scalar h
  refine ⟨scalarConst_of_exec fun _ _ _ => rfl, scalarConst_of_exec fun _ _ _ => rfl, scalarConst_of_exec fun _ _ _ => rfl,
    scalarConst_of_exec fun _ _ _ => rfl, scalarConst_of_exec fun _ _ _ => rfl, scalarConst_of_exec fun _ _ _ => rfl, ?lih,
    scalarImm11_of_exec fun _ _ _ _ => rfl, scalarImm16_of_exec fun _ _ _ _ => rfl, ?lea, scalarOne_of_exec fun _ _ _ => rfl, ?sel, ?faults,
    fun s v vs _ => exec_mov_discard⟩
  case lih =>
    intro s d i hp
    rw [← lih_eq]
    exact State.scalar_open s [d] d _ hp
  case lea =>
    intro n s d b c i hp
    rw [← shiftLeft_scale]
    exact State.scalar_open s [b, c] d _ hp
  case sel =>
    intro s d b c k hp
    refine (State.scalar_open s [b, c, k] d _ hp).trans ?_
    by_cases h : s.rs k = 0 <;> simp [h]
  case faults => exact fun n d b c k i j => ⟨faults fun _ => ⟨_, rfl⟩, faults fun _ => ⟨_, rfl⟩, faults fun _ => ⟨_, rfl⟩⟩

end Sys2Proof.Machine
end

section
/-!
PROOFS. ADD and SUB with their SAT codes, multiplication and division (05 R90, R91, R93, R94; 09 R131, R133).
-/

namespace Sys2Proof.Machine

/-! ### Listing a core -/

/-- Entries of two keys are put in either order, whatever the list. -/
theorem SMap.put_comm {α : Type} (m : SMap α) {j k : Nat} (v w : α) (h : j < k) :
    SMap.put (SMap.put m j v) k w = SMap.put (SMap.put m k w) j v := by
  induction m with
  | nil => simp [SMap.put, h.not_gt, h.ne', h]
  | cons p m ih =>
    obtain ⟨i, u⟩ := p
    rcases lt_trichotomy j i with hj | rfl | hj
    · rcases lt_trichotomy k i with hk | rfl | hk
      · simp [SMap.put, hj, hk, h, h.not_gt, h.ne']
      · simp [SMap.put, hj, h.not_gt, h.ne']
      · simp [SMap.put, hj, hk.not_gt, hk.ne', h.not_gt, h.ne']
    · simp [SMap.put, h.not_gt, h.ne']
    · simp [SMap.put, hj.not_gt, hj.ne', (hj.trans h).not_gt, (hj.trans h).ne', ih]

/-- The machine with core n listed as it reads. -/
def State.relisted (s : State) (n : Nat) : State := s.setCore n (s.core n)

@[simp] theorem State.core_relisted (s : State) (n m : Nat) : (s.relisted n).core m = s.core m := by
  by_cases h : m = n
  · subst h; exact State.core_setCore_same ..
  · exact State.core_setCore_other _ _ h

@[simp] theorem State.slot_relisted (s : State) (n : Nat) (t : Tid) : (s.relisted n).slot t = s.slot t := by
  simp only [State.slot, State.core_relisted]

@[simp] theorem State.me_relisted (s : State) (n : Nat) : (s.relisted n).me = s.me := State.slot_relisted ..

theorem State.setCore_relisted (s : State) (n m : Nat) (c : Core) : (s.relisted n).setCore m c = (s.setCore m c).relisted n := by
  rcases lt_trichotomy m n with h | rfl | h
  · simp only [State.relisted, State.core_setCore_other s c h.ne']
    simp only [State.setCore, SMap.put_comm _ _ _ h]
  · simp only [State.relisted, State.setCore_setCore, State.core_setCore_same]
  · simp only [State.relisted, State.core_setCore_other s c h.ne]
    simp only [State.setCore, SMap.put_comm _ _ _ h]

theorem State.setSlot_relisted (s : State) (n : Nat) (t : Tid) (x : Slot) : (s.relisted n).setSlot t x = (s.setSlot t x).relisted n := by
  rw [State.setSlot, State.setSlot, State.core_relisted, State.setCore_relisted]

theorem State.post_relisted (s : State) (n : Nat) (e : Event) : (s.relisted n).post e = (s.post e).relisted n := by
  have htodo : (s.relisted n).todo = s.todo := rfl
  rw [State.post, State.post, htodo]
  split <;> rfl

theorem State.rouse_relisted (s : State) (n m : Nat) : (s.relisted n).rouse m = (s.rouse m).relisted n := by
  unfold State.rouse
  simp only [State.core_relisted, State.post_relisted, State.setCore_relisted]
  split
  · rfl
  · split <;> rfl

theorem State.urge_relisted (s : State) (n : Nat) (t : Tid) (g : Bool) : (s.relisted n).urge t g = (s.urge t g).relisted n := by
  unfold State.urge
  rw [State.slot_relisted]
  split <;> rfl

theorem State.wake_relisted (s : State) (n : Nat) (t : Tid) : (s.relisted n).wake t = (s.wake t).relisted n := by
  unfold State.wake
  simp only [State.core_relisted, State.slot_relisted, State.setSlot_relisted, State.rouse_relisted, State.urge_relisted]
  split <;> rfl

theorem State.wakeProducer_relisted (s : State) (n : Nat) (p : Option Tid) (w : Await) : (s.relisted n).wakeProducer p w = (s.wakeProducer p w).relisted n := by
  cases p with
  | none => rfl
  | some g =>
    simp only [State.wakeProducer, State.slot_relisted, State.wake_relisted]
    split <;> rfl

theorem State.pops_relisted (s : State) (n : Nat) (srcs : List SReg) : (s.relisted n).pops srcs [] = (s.pops srcs []).relisted n := by
  have hpop : (s.relisted n).popScalar (s.relisted n).cur = (s.popScalar s.cur).relisted n := by
    simp only [State.popScalar, State.slot_relisted, State.setSlot_relisted, State.wakeProducer_relisted]
    rfl
  simp only [State.pops, hpop, List.contains_nil, Bool.and_false, Bool.false_eq_true, if_false]
  split <;> rfl

theorem State.pushScalar_relisted (s : State) (n : Nat) (t : Tid) (v : Word) : (s.relisted n).pushScalar t v = (s.pushScalar t v).relisted n := by
  have htarget : (s.relisted n).portTarget t = s.portTarget t := by simp only [State.portTarget, State.slot_relisted]
  simp only [State.pushScalar, htarget, State.slot_relisted, State.setSlot_relisted, State.rouse_relisted, State.wake_relisted]
  split <;> rfl

theorem State.ws_relisted (s : State) (n : Nat) (d : SReg) (v : Word) : (s.relisted n).ws d v = (s.ws d v).relisted n := by
  have hcur : (s.relisted n).cur = s.cur := rfl
  simp only [State.ws, State.writeS, hcur, State.slot_relisted, State.setSlot_relisted, State.pushScalar_relisted]
  split <;> rfl

/-- The completion of an instruction lists its core in any case. -/
theorem State.retire_relisted (s : State) : (s.relisted s.cur.core).retire = s.retire := by
  simp only [State.retire, State.goto, State.me_relisted, State.setMe]
  rw [State.setSlot_relisted]
  simp only [State.relisted, State.setSlot, State.setCore_cur, State.core_setCore_same, State.setCore_setCore]
  rfl

theorem State.cur_ws (s : State) (d : SReg) (v : Word) : (s.ws d v).cur = s.cur := by
  by_cases h7 : d = 7
  · subst h7; exact (State.still_pushScalar s s.cur v).cur
  · rw [State.ws_eq s d v h7]; rfl

theorem State.setS_relisted (s : State) (srcs : List SReg) (d : SReg) (v : Word) : (s.relisted s.cur.core).setS srcs d v = s.setS srcs d v := by
  have hcur : ((s.pops srcs []).ws d v).cur = s.cur := (State.cur_ws ..).trans (State.still_pops s srcs).cur
  rw [State.setS, State.setS, State.pops_relisted, State.ws_relisted, ← hcur, State.retire_relisted]

theorem Core.setSlot_slot (c : Core) (k : BitVec 3) : c.setSlot k (c.slot k) = c := by
  simp [Core.setSlot, Core.slot]

/-- No flag at all changes nothing but that the core is listed. -/
theorem State.orFlags_zero (s : State) : s.orFlags 0 = s.relisted s.cur.core := by
  have hflags : s.me.cr.fflags ||| 0 = s.me.cr.fflags := BitVec.or_zero
  rw [State.orFlags, hflags, State.setMe, State.setSlot, State.me, State.slot, Core.setSlot_slot, State.relisted]

/-! ### Instructions that may raise flags (R93, R94) -/

/-- A result that raises nothing. -/
theorem State.scalarF_exact {s : State} {b c d : SReg} {f : Word → Word → FR} {n : Nat} (hp : s.portsOpen [b, c] [d] [] [] = true)
    (h : f (s.rs b) (s.rs c) = ⟨n, 0⟩) : s.scalarF b c d f = .next (s.setS [b, c] d (BitVec.ofNat 64 n)) := by
  have hraise : s.raise 0 = .ok () (s.orFlags 0) := by simp [State.raise]
  rw [State.scalarF, State.ports_open _ _ _ _ _ hp, Res.bind_ok]
  simp only [h, hraise, Res.bind_ok, Res.finish_ok, State.orFlags_zero, State.setS_relisted]

/-- A flag that is enabled is a precise numeric trap. -/
theorem State.scalarF_trap {s : State} {b c d : SReg} {f : Word → Word → FR} {n : Nat} {fl : Flags} (hp : s.portsOpen [b, c] [d] [] [] = true)
    (h : f (s.rs b) (s.rs c) = ⟨n, fl⟩) (hfen : fl &&& s.me.cr.fen ≠ 0) :
    s.scalarF b c d f = .next (s.precise (trapOf 15 0 ((0 : BitVec 58) ++ fl))) := by
  have hraise : s.raise fl = .trap (trapOf 15 0 ((0 : BitVec 58) ++ fl)) s := if_pos (bne_iff_ne.mpr hfen)
  rw [State.scalarF, State.ports_open _ _ _ _ _ hp, Res.bind_ok]
  simp only [h, hraise, Res.bind_trap, Res.finish_trap]

/-- Flags of which none is enabled are ORed into c.fflags. -/
theorem State.scalarF_flags {s : State} {b c d : SReg} {f : Word → Word → FR} {n : Nat} {fl : Flags} (hp : s.portsOpen [b, c] [d] [] [] = true)
    (h : f (s.rs b) (s.rs c) = ⟨n, fl⟩) (hfen : fl &&& s.me.cr.fen = 0) :
    s.scalarF b c d f = .next ((s.orFlags fl).setS [b, c] d (BitVec.ofNat 64 n)) := by
  have hraise : s.raise fl = .ok () (s.orFlags fl) := if_neg (by simp [hfen])
  rw [State.scalarF, State.ports_open _ _ _ _ _ hp, Res.bind_ok]
  simp only [h, hraise, Res.bind_ok, Res.finish_ok]

theorem State.scalarF_wrapped {s : State} {b c d : SReg} {f : Word → Word → FR} {x : Word} (hp : s.portsOpen [b, c] [d] [] [] = true)
    (h : f (s.rs b) (s.rs c) = ⟨x.toNat, 0⟩) : s.scalarF b c d f = .next (s.setS [b, c] d x) := by
  rw [State.scalarF_exact hp h, BitVec.ofNat_toNat, BitVec.setWidth_eq]

theorem satArith_wraps (v u : Int) (x : Word) : satArith 0 v u x = ⟨x.toNat, 0⟩ := rfl

/-! ### Saturation (R90) -/

theorem ofNat_ofInt (v : Int) : BitVec.ofNat 64 (ofInt 64 v) = BitVec.ofInt 64 v := by
  refine BitVec.eq_of_toNat_eq ?_
  rw [BitVec.toNat_ofNat, BitVec.toNat_ofInt, ofInt]
  omega

/-- Clamping to the range of 64 bits; SX where that changes the value. -/
theorem clampInt_eq (signed : Bool) (v : Int) :
    clampInt 64 signed v = ⟨ofInt 64 (max (intMin 64 signed) (min (intMax 64 signed) v)), if intMin 64 signed ≤ v ∧ v ≤ intMax 64 signed then 0 else 0x20⟩ := by
  have hrange : intMin 64 signed ≤ intMax 64 signed := by cases signed <;> decide
  simp only [clampInt, intToInt, Bool.true_and, decide_eq_true_eq]
  rcases lt_or_ge v (intMin 64 signed) with hlo | hlo
  · rw [if_pos hlo, if_neg (by omega), max_eq_left (by omega)]; rfl
  · rw [if_neg hlo.not_gt]
    rcases lt_or_ge (intMax 64 signed) v with hhi | hhi
    · rw [if_pos hhi, if_neg (by omega), min_eq_left hhi.le, max_eq_right hrange]; rfl
    · rw [if_neg hhi.not_gt, if_pos ⟨hlo, hhi⟩, min_eq_right hhi, max_eq_right hlo]

theorem sx_enabled_iff (fen : BitVec 6) : fen.getLsbD 5 = true ↔ (0x20 : Flags) &&& fen ≠ 0 := by
  revert fen; decide

/-- An instruction with a clamped result: the result, or a numeric trap where SX is enabled (R93, R94). -/
theorem State.scalarF_clamped {s : State} {b c d : SReg} {f : Word → Word → FR} {signed : Bool} {v lo hi : Int} (hp : s.portsOpen [b, c] [d] [] [] = true)
    (hlo : intMin 64 signed = lo) (hhi : intMax 64 signed = hi) (h : f (s.rs b) (s.rs c) = clampInt 64 signed v) :
    let x : Word := BitVec.ofInt 64 (max lo (min hi v))
    if lo ≤ v ∧ v ≤ hi then s.scalarF b c d f = .next (s.setS [b, c] d x)
    else if s.me.cr.fen.getLsbD 5 then s.scalarF b c d f = .next (s.precise (trapOf 15 0 0x20))
    else s.scalarF b c d f = .next ((s.orFlags 0x20).setS [b, c] d x) := by
  intro x
  have hx : BitVec.ofNat 64 (ofInt 64 (max lo (min hi v))) = x := ofNat_ofInt _
  rw [clampInt_eq, hlo, hhi] at h
  by_cases hin : lo ≤ v ∧ v ≤ hi
  · rw [if_pos hin] at h
    have hexact := State.scalarF_exact hp h
    rw [hx] at hexact
    rw [if_pos hin]
    exact hexact
  · rw [if_neg hin] at h
    rw [if_neg hin]
    by_cases hsx : s.me.cr.fen.getLsbD 5 = true
    · have htrap := State.scalarF_trap hp h ((sx_enabled_iff _).mp hsx)
      rw [if_pos hsx]
      exact htrap
    · have hflags := State.scalarF_flags hp h (by_contra fun e => hsx ((sx_enabled_iff _).mpr e))
      rw [hx] at hflags
      rw [if_neg hsx]
      exact hflags

/-! ### Multiplication and division (R91, R133) -/

theorem divS_eq (x y : Word) : divS x y = if y = 0 then BitVec.allOnes 64 else BitVec.ofInt 64 (x.toInt.tdiv y.toInt) := by
  unfold divS
  split
  · rfl
  · exact BitVec.eq_of_toInt_eq (by rw [BitVec.toInt_sdiv, BitVec.toInt_ofInt])

theorem divU_eq (x y : Word) : divU x y = if y = 0 then BitVec.allOnes 64 else BitVec.ofNat 64 (x.toNat / y.toNat) := by
  unfold divU
  split
  · rfl
  · rw [← BitVec.toNat_udiv, BitVec.ofNat_toNat, BitVec.setWidth_eq]

theorem remS_eq (x y : Word) : remS x y = if y = 0 then x else BitVec.ofInt 64 (x.toInt.tmod y.toInt) := by
  unfold remS
  rw [← BitVec.toInt_srem, BitVec.ofInt_toInt]

theorem remU_eq (x y : Word) : remU x y = if y = 0 then x else BitVec.ofNat 64 (x.toNat % y.toNat) := by
  unfold remU
  rw [← BitVec.toNat_umod, BitVec.ofNat_toNat, BitVec.setWidth_eq]

theorem mul_eq (x y : Word) : x * y = BitVec.ofNat 64 (x.toNat * y.toNat) :=
  BitVec.eq_of_toNat_eq (by rw [BitVec.toNat_mul, BitVec.toNat_ofNat])

/-- Settles O5: ADD and SUB clamp and raise SX as R90, R93 and R94 say, and the products and quotients are those of R91. -/
theorem scalarArithmeticResults : Obligations.scalar_arithmetic_results := by
  unfold Obligations.scalar_arithmetic_results
  have two {mk f} (h) : ScalarTwo mk f := scalarTwo_of_exec h
  refine ⟨?sums, (two fun _ _ _ _ => rfl).congr mul_eq, two fun _ _ _ _ => rfl, two fun _ _ _ _ => rfl, two fun _ _ _ _ => rfl,
    (two fun _ _ _ _ => rfl).congr divS_eq, (two fun _ _ _ _ => rfl).congr divU_eq, (two fun _ _ _ _ => rfl).congr remS_eq,
    (two fun _ _ _ _ => rfl).congr remU_eq⟩
  intro s d b c hp
  refine ⟨by rw [exec_add, execAdd]; exact State.scalarF_wrapped hp (satArith_wraps ..),
    by rw [exec_sub, execSub]; exact State.scalarF_wrapped hp (satArith_wraps ..), ?_⟩
  rintro op sat v lo hi (⟨⟨rfl, rfl, rfl⟩ | ⟨rfl, rfl, rfl⟩, rfl, rfl⟩ | ⟨⟨rfl, rfl, rfl⟩ | ⟨rfl, rfl, rfl⟩, rfl, rfl⟩)
  · rw [exec_add, execAdd]; exact State.scalarF_clamped (signed := true) hp rfl rfl rfl
  · rw [exec_sub, execSub]; exact State.scalarF_clamped (signed := true) hp rfl rfl rfl
  · rw [exec_add, execAdd]; exact State.scalarF_clamped (signed := false) hp rfl rfl rfl
  · rw [exec_sub, execSub]; exact State.scalarF_clamped (signed := false) hp rfl rfl rfl

end Sys2Proof.Machine
end

section
/-!
PROOFS. What moves of the thread leave outside its slot, branches and their targets, and the trace record of a taken transfer (07 R114, R118; 09 R139, R141, R143, R144;
26 R370, R371).
-/

namespace Sys2Proof.Machine

/-! ### What lies outside the slot of a thread -/

theorem SameButSlot.trans {s t v : State} {u : Tid} (h : SameButSlot s t u) (k : SameButSlot t v u) : SameButSlot s v u := by
  obtain ⟨hcur, hmem, htags, hwait, hgangs, hslot, hcore⟩ := h
  obtain ⟨kcur, kmem, ktags, kwait, kgangs, kslot, kcore⟩ := k
  exact ⟨kcur.trans hcur, kmem.trans hmem, ktags.trans htags, kwait.trans hwait, kgangs.trans hgangs, fun v hv => (kslot v hv).trans (hslot v hv),
    fun n hn => (kcore n hn).trans (hcore n hn)⟩

theorem sameButSlot_setSlot (s : State) (u : Tid) (x : Slot) : SameButSlot s (s.setSlot u x) u :=
  ⟨rfl, rfl, rfl, rfl, rfl, fun _ hv => State.slot_setSlot_other s x hv, fun _ hn => State.core_setSlot_other s u x hn⟩

/-- A change of the thread's core beside its slots. -/
theorem sameButSlot_setCore (s : State) (u : Tid) {c : Core} (h : c.slots = (s.core u.core).slots) : SameButSlot s (s.setCore u.core c) u :=
  ⟨rfl, rfl, rfl, rfl, rfl, fun v _ => State.slot_setCore s u.core c h v, fun _ hn => State.core_setCore_other s c hn⟩

theorem sameButSlot_setMe (s : State) (x : Slot) : SameButSlot s (s.setMe x) s.cur := sameButSlot_setSlot ..

theorem sameButSlot_setRegs (s : State) (f : Regs → Regs) : SameButSlot s (s.setRegs f) s.cur := sameButSlot_setMe ..

theorem sameButSlot_goto (s : State) (pc : Word) : SameButSlot s (s.goto pc) s.cur := sameButSlot_setMe ..

theorem sameButSlot_trace (s : State) (kind code : Nat) (pc ta : Word) : SameButSlot s (s.trace kind code pc ta) s.cur :=
  sameButSlot_setCore s s.cur (Core.slots_traceRec ..)

theorem sameButSlot_jump (s : State) (a : Word) : SameButSlot s (s.jump a) s.cur :=
  (sameButSlot_trace ..).trans (sameButSlot_goto ..)

/-! ### Trace records (R370, R371) -/

/-- A record of the trace ring: kind, slot, code, PC, the low bits of a count, target or value. -/
def traceRecord (kind : Nat) (slot : BitVec 3) (code : Nat) (pc ta cnt : Word) : BitVec 128 :=
  (cnt.extractLsb' 0 16 ++ ta.extractLsb' 0 48 : Word) ++
    (BitVec.ofNat 4 kind ++ slot ++ BitVec.ofNat 6 code ++ (0 : BitVec 2) ++ pc.extractLsb' 1 48 ++ (0 : BitVec 1) : Word)

theorem traceRecord_fields (kind : Nat) (slot : BitVec 3) (code : Nat) (pc ta cnt : Word) :
    let r := traceRecord kind slot code pc ta cnt
    r.extractLsb' 60 4 = BitVec.ofNat 4 kind ∧ r.extractLsb' 57 3 = slot ∧ r.extractLsb' 1 48 = pc.extractLsb' 1 48 ∧
      r.extractLsb' 112 16 = cnt.extractLsb' 0 16 ∧ r.extractLsb' 64 48 = ta.extractLsb' 0 48 := by
  refine ⟨?_, ?_, ?_, ?_, ?_⟩
  · rw [traceRecord, Laws.field_low _ _ _ _ (by decide), Laws.field_high _ _ _ _ (by decide), Laws.field_high _ _ _ _ (by decide),
      Laws.field_high _ _ _ _ (by decide), Laws.field_high _ _ _ _ (by decide), Laws.field_high _ _ _ _ (by decide), Laws.field_all]
  · rw [traceRecord, Laws.field_low _ _ _ _ (by decide), Laws.field_high _ _ _ _ (by decide), Laws.field_high _ _ _ _ (by decide),
      Laws.field_high _ _ _ _ (by decide), Laws.field_high _ _ _ _ (by decide), Laws.field_low _ _ _ _ (by decide), Laws.field_all]
  · rw [traceRecord, Laws.field_low _ _ _ _ (by decide), Laws.field_high _ _ _ _ (by decide), Laws.field_low _ _ _ _ (by decide), Laws.field_all]
  · rw [traceRecord, Laws.field_high _ _ _ _ (by decide), Laws.field_high _ _ _ _ (by decide), Laws.field_all]
  · rw [traceRecord, Laws.field_high _ _ _ _ (by decide), Laws.field_low _ _ _ _ (by decide), Laws.field_all]

theorem Core.traceRec_frozen {c : Core} (h : c.frozen = true) (kind : Nat) (k : BitVec 3) (code : Nat) (pc ta cnt : Word) :
    c.traceRec kind k code pc ta cnt = c := if_pos h

theorem Core.traceRec_open {c : Core} (h : c.frozen = false) (kind : Nat) (k : BitVec 3) (code : Nat) (pc ta cnt : Word) :
    c.traceRec kind k code pc ta cnt =
      { c with trace := SMap.put c.trace (c.trnext.toNat % 256) (traceRecord kind k code pc ta cnt), trnext := c.trnext + 1 } :=
  if_neg (by rw [h]; exact Bool.false_ne_true)

/-- The core of a thread that takes a transfer: a record more, and the slot moved on. -/
theorem State.myCore_jump (s : State) (a : Word) :
    (s.jump a).myCore = (s.myCore.traceRec 1 s.cur.slot 0 s.me.pc (a &&& ~~~(1 : Word)) s.cont.count).setSlot s.cur.slot (s.jump a).me := by
  rw [State.me_jump, State.jump, State.goto, State.me_trace, State.myCore, State.setMe]
  refine (State.core_setSlot ..).trans ?_
  rw [State.trace]
  exact congrArg (Core.setSlot · _ _) (State.core_setCore_same ..)

/-! ### Targets (R118) -/

/-- A PC without the bits of the slot within its line. -/
theorem line_of_pc (pc : Word) : pc &&& ~~~(63 : Word) = BitVec.ofNat 64 (pc.toNat / 64 * 64) := by
  refine BitVec.eq_of_getLsbD_eq fun i hi => ?_
  have hmask : (63 : Word).getLsbD i = decide (i < 6) := by
    rw [show (63 : Word) = BitVec.ofNat 64 (2 ^ 6 - 1) from rfl, BitVec.getLsbD_ofNat, decide_eq_true hi, Bool.true_and, Nat.testBit_two_pow_sub_one]
  have hline : (pc.toNat / 2 ^ 6 * 2 ^ 6).testBit i = (decide (6 ≤ i) && pc.getLsbD i) := by
    rw [Nat.testBit_mul_two_pow, Nat.testBit_div_two_pow]
    by_cases h : 6 ≤ i
    · rw [decide_eq_true h, Nat.sub_add_cancel h]; rfl
    · rw [decide_eq_false h, Bool.false_and, Bool.false_and]
  rw [BitVec.getLsbD_and, BitVec.getLsbD_not, hmask, decide_eq_true hi, Bool.true_and, BitVec.getLsbD_ofNat, decide_eq_true hi, Bool.true_and]
  refine Eq.trans ?_ hline.symm
  rw [← decide_not, Bool.and_comm]
  simp only [Nat.not_lt]

/-- The target of a branch: slot off[4:0] of the line that lies off[26:5] lines away. -/
theorem branchTarget_eq (pc : Word) (off : BitVec 27) :
    branchTarget pc off = (pc &&& ~~~(63 : Word)) + BitVec.ofInt 64 (64 * (off.extractLsb' 5 22).toInt) + BitVec.ofNat 64 (2 * (off.toNat % 32)) := by
  refine BitVec.eq_of_toNat_eq ?_
  have hpc := pc.isLt
  have hline : (pc.extractLsb' 6 58).toNat = pc.toNat / 64 := by
    rw [BitVec.extractLsb'_toNat, Nat.shiftRight_eq_div_pow]; omega
  have hslot : (off.extractLsb' 0 5).toNat = off.toNat % 32 := by rw [BitVec.extractLsb'_toNat, Nat.shiftRight_zero]
  have hfar : ((off.extractLsb' 5 22).signExtend 58).toNat = ((off.extractLsb' 5 22).toInt % 2 ^ 58).toNat := by
    rw [BitVec.signExtend, BitVec.toNat_ofInt]; rfl
  rw [line_of_pc, branchTarget, BitVec.toNat_append, BitVec.toNat_append, BitVec.toNat_add, hline, hslot, hfar, BitVec.toNat_add, BitVec.toNat_add,
    BitVec.toNat_ofInt, BitVec.toNat_ofNat, BitVec.toNat_ofNat]
  generalize (off.extractLsb' 5 22).toInt = i
  rw [← Nat.shiftLeft_add_eq_or_of_lt (by decide), ← Nat.shiftLeft_add_eq_or_of_lt (Nat.mod_lt _ (by decide)), Nat.shiftLeft_eq, Nat.shiftLeft_eq]
  simp only [show (0 : BitVec 1).toNat = 0 from rfl]
  omega

/-! ### Branches (R139, R141) -/

/-- An instruction that looks at its ports first faults as they say (R128, R388). -/
theorem portFaults_of_ports {i : Instr} {srcs dsts : List SReg} (h : ∀ s, ∃ k, exec i s = ((s.ports srcs dsts [] []).bind k).finish) :
    PortFaults i srcs dsts := by
  intro s
  obtain ⟨k, hk⟩ := h s
  rw [hk]
  exact ⟨fun hshut hbad => by rw [State.ports_bad s srcs dsts [] [] hshut hbad]; rfl, fun hshut => by rw [State.ports_shut s srcs dsts [] [] hshut]; rfl⟩

theorem State.branch_open {s : State} {srcs : List SReg} (off : BitVec 27) (p : State → Bool) (h : s.portsOpen srcs [] [] [] = true) :
    s.branch srcs off p = .next (if p s then (s.pops srcs []).jump (branchTarget s.me.pc off) else s.doneS srcs) := by
  rw [State.branch, State.ports_open s srcs [] [] [] h]
  rfl

theorem branchOne_of_exec {mk : SReg → BitVec 27 → Instr} {p q : Word → Bool} (h : ∀ s b off, exec (mk b off) s = s.branch1 b off p) (hpq : ∀ x, p x = q x) :
    BranchOne mk q := by
  obtain rfl : p = q := funext hpq
  exact ⟨fun s b off hp => (h s b off).trans (State.branch_open off _ hp), fun b off => portFaults_of_ports fun s => ⟨_, h s b off⟩⟩

theorem branchTwo_of_exec {mk : SReg → SReg → BitVec 27 → Instr} {p q : Word → Word → Bool} (h : ∀ s b c off, exec (mk b c off) s = s.branch2 b c off p)
    (hpq : ∀ x y, p x y = q x y) : BranchTwo mk q := by
  obtain rfl : p = q := funext₂ hpq
  exact ⟨fun s b c off hp => (h s b c off).trans (State.branch_open off _ hp), fun b c off => portFaults_of_ports fun s => ⟨_, h s b c off⟩⟩

/-- DBNZ counts its register down and goes back until it is zero. -/
theorem exec_dbnz_open {s : State} {b : SReg} (off : BitVec 27) (h : s.portsOpen [b] [b] [] [] = true) :
    exec (.dbnz b off) s = .next (if s.rs b = 1 then (s.ws b 0).retire else (s.ws b (s.rs b - 1)).jump (branchTarget s.me.pc off)) := by
  rw [exec_dbnz, execDbnz, State.ports_open s [b] [b] [] [] h]
  dsimp only [Res.bind_ok, Res.finish_ok]
  by_cases h1 : s.rs b = 1
  · rw [if_pos h1, h1]; rfl
  · have hne : s.rs b - 1 ≠ 0 := fun e => h1 (by rw [← BitVec.sub_add_cancel (s.rs b) 1, e]; rfl)
    rw [if_neg h1]
    exact congrArg Host.Outcome.next (if_pos (bne_iff_ne.mpr hne))

/-- A taken transfer: the place of the thread changes, and the ring takes a record of kind 1. -/
theorem State.jump_record {s : State} (a : Word) (h : s.myCore.frozen = false) :
    (s.jump a).myCore.trnext = s.myCore.trnext + 1 ∧ SMap.find (s.jump a).myCore.trace (s.myCore.trnext.toNat % 256) =
      some (traceRecord 1 s.cur.slot 0 s.me.pc (a &&& ~~~(1 : Word)) s.cont.count) := by
  rw [State.myCore_jump, Core.traceRec_open h]
  exact ⟨rfl, SMap.find_put_same ..⟩

/-- The conditions of the branches as the statements about them write them. -/
theorem word_bne (x y : Word) : (x != y) = decide (x ≠ y) := by
  by_cases h : x = y <;> simp [h]

theorem word_not_slt (x y : Word) : (!x.slt y) = decide (y.toInt ≤ x.toInt) := by
  rw [BitVec.slt, ← decide_not]; simp only [Int.not_lt]

theorem word_not_ult (x y : Word) : (!x.ult y) = decide (y.toNat ≤ x.toNat) := by
  rw [BitVec.ult, ← decide_not]; simp only [Nat.not_lt]

/-- Settles O7: branches go to their targets or on at NEXT. -/
theorem branchAndNopResults : Obligations.branch_and_nop_results := by
  unfold Obligations.branch_and_nop_results
  refine ⟨⟨branchOne_of_exec (fun _ _ _ => rfl) fun _ => rfl, branchOne_of_exec (fun _ _ _ => rfl) fun x => word_bne x 0,
    branchOne_of_exec (fun _ _ _ => rfl) fun _ => rfl, branchOne_of_exec (fun _ _ _ => rfl) fun x => word_not_slt x 0,
    branchOne_of_exec (fun _ _ _ => rfl) fun _ => rfl, branchOne_of_exec (fun _ _ _ => rfl) fun x => word_not_slt 0 x,
    branchTwo_of_exec (fun _ _ _ _ => rfl) fun _ _ => rfl, branchTwo_of_exec (fun _ _ _ _ => rfl) word_bne,
    branchTwo_of_exec (fun _ _ _ _ => rfl) fun _ _ => rfl, branchTwo_of_exec (fun _ _ _ _ => rfl) word_not_slt,
    branchTwo_of_exec (fun _ _ _ _ => rfl) fun _ _ => rfl, branchTwo_of_exec (fun _ _ _ _ => rfl) word_not_ult, fun s off => ?br,
    fun s b off => exec_dbnz_open off⟩, ⟨branchTarget_eq, ?jump⟩, ?nop⟩
  case br =>
    rw [exec_br, execBr, State.branch_open off _ (State.portsOpen_noPorts s [] [] rfl), if_pos rfl, State.pops_noPorts s [] rfl]
  case jump =>
    intro s a
    refine ⟨by rw [State.me_jump], by rw [State.me_jump], by rw [State.me_jump], by rw [State.me_jump], by rw [State.me_jump], by rw [State.me_jump],
      by rw [State.me_jump], sameButSlot_jump s a, fun h => ?_, fun h => ?_⟩
    · rw [State.myCore_jump, Core.traceRec_frozen h]; rfl
    · obtain ⟨hnext, hfind⟩ := State.jump_record a h
      obtain ⟨hkind, hslot, hpc, hcount, htarget⟩ := traceRecord_fields 1 s.cur.slot 0 s.me.pc (a &&& ~~~(1 : Word)) s.cont.count
      refine ⟨hnext, _, hfind, hkind, hslot, hpc, hcount.trans ?_, htarget⟩
      cases hc : s.me.cont <;> simp [State.cont, hc]
  case nop => exact fun s => ⟨rfl, fun _ => rfl, State.me_goto .., sameButSlot_goto ..⟩

end Sys2Proof.Machine
end

section
/-!
PROOFS. Calls, returns and the window ring (07 R97, R99 to R101; 09 R140; 24 R339).
-/

namespace Sys2Proof.Machine

/-! ### Calls that need no spill (R99) -/

theorem State.callFits_iff (s : State) : s.callFits = true ↔ s.me.regs.frame = .normal ∧ s.me.regs.older < 2 := by
  rw [State.callFits, Bool.and_eq_true, beq_iff_eq, decide_eq_true_eq]

theorem State.callSpill_fits {s : State} (h : s.callFits = true) : s.callSpill = .ok () s := by
  obtain ⟨hf, ho⟩ := (State.callFits_iff s).mp h
  simp only [State.callSpill, hf]
  exact if_neg (Nat.not_le.mpr ho)

/-- A call as a transfer that moves the ring. -/
theorem exec_call_fits {s : State} (off : BitVec 27) (h : s.callFits = true) :
    exec (.call off) s = .next ((s.setRegs (fun r => r.callMove s.npc)).jump (branchTarget s.me.pc off)) := by
  rw [exec_call, execCall, State.call, State.callSpill_fits h]
  rfl

/-- A call's move of the ring and its transfer are a call, from a state with the registers and bytes of the caller's. -/
theorem called_of_callMove {s u : State} (a : Word) (hframe : s.me.regs.frame = .normal) (hregs : u.me.regs = s.me.regs)
    (hcr : u.me.cr = s.me.cr) (hmem : u.mem = s.mem) :
    Called s ((u.setRegs (fun r => r.callMove s.npc)).jump a) := by
  have huf : u.me.regs.frame = .normal := by rw [hregs, hframe]
  have hpass (k : SReg) (h8 : 8 ≤ k.toNat) (h15 : k.toNat < 15) : k + 16 ≠ 6 := fun e => by
    have := congrArg BitVec.toNat e
    simp [BitVec.toNat_add] at this
    omega
  refine ⟨?_, fun k h8 h15 => ?_, fun k h => ?_, ?_, ?_, ?_, ?_, ?_⟩
  · rw [State.rs_callMove huf (by decide) (by decide), if_pos rfl]
  · rw [State.rs_callMove huf h8 (by omega), if_neg (by rintro rfl; simp at h15), State.rs_congr hregs (hpass k h8 h15)]
  · rw [State.rs_callMove_low huf h, State.rs_congr hregs (by rintro rfl; simp at h)]
  · rw [State.me_jump, State.me_setRegs, hregs]
    simp only [Regs.callMove, hframe]
  · rw [State.me_jump, State.me_setRegs, hregs]
    simp only [Regs.callMove, hframe, Regs.vec_writeLoc]
  · rw [State.me_jump, State.me_setRegs, hregs]
    simp only [Regs.callMove, hframe, Regs.desc_writeLoc]
  · rw [State.me_jump, State.me_setRegs]; exact hcr
  · rw [State.jump_mem, State.mem_setRegs]; exact hmem

theorem sameButSlot_callMove (s : State) (f : Regs → Regs) (a : Word) : SameButSlot s ((s.setRegs f).jump a) s.cur :=
  (sameButSlot_setRegs s f).trans (sameButSlot_jump ..)

/-! ### Returns that need no fill (R99) -/

theorem Slot.retFills_resident {x : Slot} (h : 0 < x.regs.older) : x.retFills = false := by simp [Slot.retFills, Nat.ne_of_gt h]

theorem State.retWords_resident {s : State} (h : 0 < s.me.regs.older) : s.retWords = s :=
  if_neg (by rw [Slot.retFills_resident h]; exact Bool.false_ne_true)

theorem State.retFill_resident {s : State} (h : 0 < s.me.regs.older) : s.retFill = .ok () s := by
  rw [State.retFill, State.retCheck, Slot.retFills_resident h]
  exact congrArg (Res.ok ()) (State.retWords_resident h)

/-- A return as a transfer that moves the ring back. -/
theorem exec_ret_resident {s : State} (hf : s.me.regs.frame = .normal) (ho : 0 < s.me.regs.older) :
    exec .ret s = .next ((s.setRegs Regs.retMove).jump (s.rs 15)) := by
  have htrap : s.inTrapFrame = false := by rw [State.inTrapFrame, hf]; rfl
  rw [exec_ret, execRet, htrap, State.retFill_resident ho]
  rfl

/-- A return's move of the ring and its transfer are a return. -/
theorem returned_of_retMove {s : State} (a : Word) (hf : s.me.regs.frame = .normal) (ho : 0 < s.me.regs.older) :
    Returned s ((s.setRegs Regs.retMove).jump a) := by
  obtain ⟨-, hret, -, -⟩ := State.returns (u := s) 0 a hf ho
  rwa [State.retWords_resident ho, State.pops_noPorts s [0] rfl] at hret

/-! ### A call and an immediate return -/

/-- The ring after a call and a return: the caller's, with the link in its s31. -/
theorem Regs.retMove_callMove {r : Regs} (link : Word) (hf : r.frame = .normal) : (r.callMove link).retMove = r.writeLoc (r.loc 31) link := by
  have hcur : r.cur + 1 - 1 = r.cur := by bv_omega
  have hloc := Regs.loc_pass (r := r) (k := 15) (by simp [hf]) (by decide) (by decide)
  rw [show r.loc 31 = _ from hloc]
  simp only [Regs.callMove, Regs.retMove, Regs.writeLoc, hf, show r.loc 31 = _ from hloc, hcur, Nat.add_sub_cancel]

/-- A register reads alike in slots with the same registers and port. -/
theorem Slot.readS_congr {x y : Slot} (hr : x.regs = y.regs) (hp : x.port = y.port) (k : SReg) : x.readS k = y.readS k := by
  rw [Slot.readS, Slot.readS, hr, hp]

/-- Settles O8: calls and returns move the window ring, or take the window-stack trap. -/
theorem callsAndWindows : Obligations.calls_and_windows := by
  unfold Obligations.calls_and_windows
  refine ⟨fun s off h => ?call, fun s hf ho => ?ret, fun s off h => ?both, fun s off hf ho hfull => ?overflow, fun s hf ho hempty => ?underflow⟩
  case call =>
    obtain ⟨hf, -⟩ := (State.callFits_iff s).mp h
    refine ⟨_, exec_call_fits off h, ?_, called_of_callMove _ hf rfl rfl rfl, sameButSlot_callMove ..⟩
    rw [State.me_jump]; exact branchTarget_even ..
  case ret =>
    obtain ⟨hbank, hlow, holder, hvec⟩ := returned_of_retMove (s.rs 15) hf ho
    refine ⟨_, exec_ret_resident hf ho, by rw [State.me_jump], hbank, hlow, holder, hvec, ?_, ?_, sameButSlot_callMove ..⟩
    · rw [State.me_jump, State.me_setRegs]
      simp only [Regs.retMove, hf]
    · rw [State.me_jump, State.me_setRegs]
  case both =>
    obtain ⟨hf, -⟩ := (State.callFits_iff s).mp h
    obtain ⟨hlink, -, -, holder, -⟩ := called_of_callMove (branchTarget s.me.pc off) hf rfl rfl rfl
    have hme := State.me_jump (s.setRegs (fun r => r.callMove s.npc)) (branchTarget s.me.pc off)
    rw [State.me_setRegs] at hme
    generalize ht : (s.setRegs (fun r => r.callMove s.npc)).jump (branchTarget s.me.pc off) = t at hlink holder hme
    have hregs : t.me.regs = s.me.regs.callMove s.npc := by rw [hme]
    have htf : t.me.regs.frame = .normal := by rw [hregs]; simp only [Regs.callMove, hf, Regs.frame_writeLoc]
    have hback : ((t.setRegs Regs.retMove).jump (t.rs 15)).me.regs = (s.me.wrote 31 s.npc).regs := by
      rw [State.me_jump, State.me_setRegs, hregs]
      exact Regs.retMove_callMove s.npc hf
    have hport : ((t.setRegs Regs.retMove).jump (t.rs 15)).me.port = (s.me.wrote 31 s.npc).port := by
      rw [State.me_jump, State.me_setRegs, hme]
      rfl
    refine ⟨t, _, (exec_call_fits off h).trans (congrArg _ ht), exec_ret_resident htf (by omega), ?_, ?_, fun k hk => ?_, ?_, ?_⟩
    · rw [State.me_jump, hlink]
    · exact (Slot.readS_congr hback hport 31).trans (Slot.readS_wrote_same s.me 31 s.npc (by decide) (by decide) (by decide))
    · exact (Slot.readS_congr hback hport k).trans (Slot.readS_wrote_other s.me s.npc hk)
    · rw [hback]; exact Regs.older_writeLoc ..
    · rw [hback]; exact Regs.cur_writeLoc ..
  case overflow =>
    rw [exec_call, execCall, State.call, State.callSpill, hf]
    simp only [if_pos ho, State.spill, if_pos hfull, windowTrap, wsOff, Nat.mul_comm _ 128]
    rfl
  case underflow =>
    have htrap : s.inTrapFrame = false := by rw [State.inTrapFrame, hf]; rfl
    have hfills : s.me.retFills = true := by rw [Slot.retFills, hf, ho]; rfl
    rw [exec_ret, execRet, htrap, State.retFill, State.retCheck, hfills]
    simp only [if_true, State.fillCheck, hempty, beq_self_eq_true, windowTrap, wsOff, Nat.mul_comm _ 128]
    rfl

end Sys2Proof.Machine
end

section
/-!
PROOFS. Jump tables (09 R142, R143; 24 R339).
-/

namespace Sys2Proof.Machine

/-! ### The entry and the landing pad -/

theorem State.landsOn_iff (s : State) (t : Word) (l : BitVec 11) :
    s.landsOn t l = true ↔ isTranslated (lineAddr t) = true ∧ s.keepsLine s.cur.core s.myCtx (lineAddr t) = true ∧
      ∃ ln, s.myCore.cached s.myCtx (lineAddr t) = some ln ∧ ln.slots[slotIndex t]? = some (.instr 0x4C00 (.one ((0 : BitVec 5) ++ l))) := by
  rw [State.landsOn, Bool.and_eq_true, Bool.and_eq_true, and_assoc]
  cases s.myCore.cached s.myCtx (lineAddr t) <;> simp

/-- What the end of an access leaves of its thread: all but its progress. -/
theorem State.me_elemDone (s : State) (v : Line) : (s.elemDone v).me = { s.me with cont := (s.elemDone v).me.cont } := by
  rw [State.elemDone, State.me_setCont]

/-- A line that the core holds is fetched from there also once an access of the thread is done. -/
theorem State.fetchLine_elemDone {s : State} {t : Word} {ln : Line} (v : Line) (ht : isTranslated (lineAddr t) = true)
    (hk : s.keepsLine s.cur.core s.myCtx (lineAddr t) = true) (hc : s.myCore.cached s.myCtx (lineAddr t) = some ln) :
    (s.elemDone v).fetchLine t = .ok ln (s.elemDone v) := by
  have hcore : (s.elemDone v).myCore = s.myCore.setSlot s.cur.slot (s.elemDone v).me := by
    rw [State.elemDone, State.me_setCont]
    exact State.core_setSlot ..
  have hctx : (s.elemDone v).myCtx = s.myCtx := by
    rw [State.myCtx, State.ctxOf, show (s.elemDone v).core (s.elemDone v).cur.core = _ from hcore]
    rfl
  refine State.fetchLine_cached ht ?_ ?_
  · rw [hctx, hcore]; exact hc
  · rw [hctx]; exact hk

/-- A jump table in the own local store whose entry names a landing pad of the label gives the address of that pad. -/
theorem State.tableTarget_lands {s : State} {i n base e : Word} {l : BitVec 11} (ha : base.toNat % 8 = 0) (hi : i.toNat < n.toNat)
    (hp : s.plain (base + 8 * i) 8 = true) (he : e = BitVec.ofNat 64 (s.bytesAt (base + 8 * i).toNat 8)) (hl : s.landsOn (e &&& ~~~(1 : Word)) l = true) :
    ∃ v, s.tableTarget i n base l = .ok (e &&& ~~~(1 : Word)) (s.elemDone v) := by
  obtain ⟨hclear, htable⟩ := (State.plain_iff s _ 8).mp hp
  obtain ⟨htr, hkeep, ln, hcached, hslot⟩ := (State.landsOn_iff s _ l).mp hl
  have hread := State.ordinary_read hclear htable (by decide) (Nat.le_refl 8)
  rw [State.readN_own] at hread
  have hacc : s.cont.acc.head? = none := by
    rw [State.cont, hclear.fresh]; rfl
  have hword : (BitVec.ofNat 512 (s.bytesAt (base + 8 * i).toNat 8)).setWidth 64 = e := by
    rw [he, BitVec.setWidth_ofNat_of_le (by decide)]
  refine ⟨BitVec.ofNat 512 (s.bytesAt (base + 8 * i).toNat 8), ?_⟩
  rw [State.tableTarget, if_neg (by simpa using ha), if_neg (Nat.not_le.mpr hi)]
  simp only [hacc, hread, Res.bind_ok, hword, State.fetchLine_elemDone _ htr hkeep hcached, hslot, beq_self_eq_true, Bool.and_self, if_true]

/-! ### JT and CALLT with their sources at hand -/

theorem State.jumpTable_lands {s u : State} {b c : SReg} {n : List SReg} {lim : State → Word} {l : BitVec 11} {t : Word}
    (hp : s.portsOpen (b :: c :: n) [] [] [] = true) (ht : s.tableTarget (s.rs b) (lim s) (s.rs c) l = .ok t u) :
    s.jumpTable b c n lim l = .next ((u.pops (b :: c :: n) []).jump t) := by
  rw [State.jumpTable, State.portsAfter_open hp, Res.bind_ok, ht]
  rfl

theorem State.callTable_lands {s u : State} {b c : SReg} {n : List SReg} {lim : State → Word} {l : BitVec 11} {t : Word}
    (hp : s.portsOpen (b :: c :: n) [] [] [] = true) (ht : s.tableTarget (s.rs b) (lim s) (s.rs c) l = .ok t u) (hregs : u.me.regs = s.me.regs)
    (hu : u.npc = s.npc) (hfits : s.callFits = true) :
    s.callTable b c n lim l = .next (((u.pops (b :: c :: n) []).setRegs (fun r => r.callMove s.npc)).jump t) := by
  have hufits : u.callFits = true := by rw [State.callFits, hregs]; exact hfits
  rw [State.callTable, State.portsAfter_open hp, Res.bind_ok, ht]
  dsimp only [Res.bind_ok]
  rw [State.callSpill_fits hufits]
  dsimp only [Res.bind_ok, Res.finish_ok]
  rw [hu]

/-- A trap of the table's checks that the bound or the alignment finds is that of both forms: none of them gives way to a window-stack overflow (R338). -/
theorem State.tables_trap {s : State} {b c : SReg} {n : List SReg} {lim : State → Word} {l : BitVec 11} {i : TrapInfo}
    (hp : s.portsOpen (b :: c :: n) [] [] [] = true) (ht : s.tableTarget (s.rs b) (lim s) (s.rs c) l = .trap i s) (hi : i.cls.toNat < 11) :
    s.jumpTable b c n lim l = .next (s.precise i) ∧ s.callTable b c n lim l = .next (s.precise i) := by
  constructor
  · rw [State.jumpTable, State.portsAfter_open hp, Res.bind_ok, ht]
    rfl
  · rw [State.callTable, State.portsAfter_open hp, Res.bind_ok, ht]
    simp only [decide_eq_false (Nat.not_le.mpr hi), Bool.false_and, Bool.false_eq_true, if_false]
    rfl

theorem State.tableTarget_misaligned {s : State} {base : Word} (i n : Word) (l : BitVec 11) (h : base.toNat % 8 ≠ 0) :
    s.tableTarget i n base l = .trap (trapOf 5 0 (base + 8 * i)) s := if_pos h

theorem State.tableTarget_beyond {s : State} {base i n : Word} (l : BitVec 11) (h : base.toNat % 8 = 0) (hi : n.toNat ≤ i.toNat) :
    s.tableTarget i n base l = .trap (trapOf 10 0 i) s := (if_neg (not_not.mpr h)).trans (if_pos hi)

/-- The bound of the short forms: the immediate plus one. -/
theorem toNat_short_bound (nM1 : BitVec 6) : ((zx nM1 : Word) + 1).toNat = nM1.toNat + 1 := by
  have := nM1.isLt
  simp only [zx, BitVec.toNat_add, BitVec.toNat_setWidth]
  show (_ + 1) % _ = _
  omega

theorem short_label (l5 : BitVec 5) : (0 : BitVec 6) ++ l5 = l5.setWidth 11 := by
  refine BitVec.eq_of_toNat_eq ?_
  have := l5.isLt
  rw [BitVec.toNat_append, BitVec.toNat_setWidth]
  simp
  omega

theorem and_not_one_idem (a : Word) : a &&& ~~~(1 : Word) &&& ~~~(1 : Word) = a &&& ~~~(1 : Word) := by
  rw [BitVec.and_assoc, BitVec.and_self]

/-- Settles O9: jump tables go to their entry's landing pad, or trap on a misaligned base or an index that is not below the bound. -/
theorem jumpTables : Obligations.jump_tables := by
  unfold Obligations.jump_tables
  refine ⟨?lands, ?traps⟩
  case lands =>
    intro s b c base i n e l hbase hi ha hlt hp he hl
    subst hbase hi
    obtain ⟨v, ht⟩ := State.tableTarget_lands ha hlt hp he hl
    have hme := State.me_elemDone s v
    have hregs (srcs : List SReg) : ((s.elemDone v).pops srcs []).me.regs = s.me.regs := (State.still_pops ..).regs.trans (by rw [hme])
    have hcr (srcs : List SReg) : ((s.elemDone v).pops srcs []).me.cr = s.me.cr := (State.still_pops ..).cr.trans (by rw [hme])
    have hmem (srcs : List SReg) : ((s.elemDone v).pops srcs []).mem = s.mem := (State.still_pops ..).bytes.1
    have jumps (srcs : List SReg) :
        let t := ((s.elemDone v).pops srcs []).jump (e &&& ~~~(1 : Word))
        t.me.pc = e &&& ~~~(1 : Word) ∧ t.me.regs = s.me.regs ∧ t.me.cr = s.me.cr ∧ t.mem = s.mem := by
      refine ⟨?_, ?_, ?_, ?_⟩
      · rw [State.me_jump]; exact and_not_one_idem e
      · rw [State.me_jump]; exact hregs srcs
      · rw [State.me_jump]; exact hcr srcs
      · rw [State.jump_mem]; exact hmem srcs
    have calls (srcs : List SReg) (hfits : s.callFits = true) :
        let t := (((s.elemDone v).pops srcs []).setRegs (fun r => r.callMove s.npc)).jump (e &&& ~~~(1 : Word))
        t.me.pc = e &&& ~~~(1 : Word) ∧ Called s t := by
      obtain ⟨hf, -⟩ := (State.callFits_iff s).mp hfits
      refine ⟨?_, called_of_callMove _ hf (hregs srcs) (hcr srcs) (hmem srcs)⟩
      rw [State.me_jump]; exact and_not_one_idem e
    constructor
    · intro l5 nM1 hl5 hn hopen
      have hlim : n = zx nM1 + 1 := BitVec.eq_of_toNat_eq (hn.trans (toNat_short_bound nM1).symm)
      rw [hlim, hl5, ← short_label] at ht
      rw [exec_jt, exec_callt, execJt, execCallt]
      exact ⟨⟨_, State.jumpTable_lands hopen ht, jumps _⟩, fun hfits => ⟨_, State.callTable_lands hopen ht (by rw [hme]) rfl hfits, calls _ hfits⟩⟩
    · intro nr hn hopen
      rw [hn] at ht
      rw [exec_jtW, exec_calltW, execJtW, execCalltW]
      exact ⟨⟨_, State.jumpTable_lands hopen ht, jumps _⟩, fun hfits => ⟨_, State.callTable_lands hopen ht (by rw [hme]) rfl hfits, calls _ hfits⟩⟩
  case traps =>
    intro s b c n l5 l nM1
    rw [exec_jt, exec_callt, execJt, execCallt, exec_jtW, exec_calltW, execJtW, execCalltW]
    refine ⟨fun hp => ⟨fun ha => ?_, fun ha hi => ?_⟩, fun hp => ⟨fun ha => ?_, fun ha hi => ?_⟩⟩
    · exact State.tables_trap hp (State.tableTarget_misaligned _ _ _ ha) (show (5 : Nat) < 11 by decide)
    · exact State.tables_trap hp (State.tableTarget_beyond _ ha ((toNat_short_bound nM1).trans_le hi)) (show (10 : Nat) < 11 by decide)
    · exact State.tables_trap hp (State.tableTarget_misaligned _ _ _ ha) (show (5 : Nat) < 11 by decide)
    · exact State.tables_trap hp (State.tableTarget_beyond _ ha hi) (show (10 : Nat) < 11 by decide)

end Sys2Proof.Machine
end

section
/-!
PROOFS. What a wake and a fatal trap leave of gangs, slots and dumps (24 R343, R344, R352, R372; 28 R393).
-/

namespace Sys2Proof.Machine

/-! ### What wakes and the ends of forcings leave -/

/-- What they leave of a slot: its gang, its issued accesses, whether it is EMPTY; and where it has nothing parked, it stays so. -/
structure Slot.Released (x y : Slot) : Prop where
  gang : y.gang = x.gang
  outs : y.outs = x.outs
  empty : y.st = .empty ↔ x.st = .empty
  await : x.await = .none → y.await = .none
  cont : x.cont = none → y.cont = none

/-- The control registers of a core (R110): the region maps and GDLY. -/
def Core.registers (c : Core) : Word × Word × BitVec 16 := (c.rmap0, c.rmap1, c.gdly)

/-- What they leave of the machine: gangs, dumps, the failures under way, the cores' registers, frozen trace rings and what Slot.Released says of every
slot. -/
structure State.Released (s t : State) : Prop where
  gangs : t.gangs = s.gangs
  dumps : t.dumps = s.dumps
  tears : t.tears = s.tears
  slot : ∀ u, (s.slot u).Released (t.slot u)
  frozen : ∀ n, (s.core n).frozen = true → (t.core n).frozen = true
  registers : ∀ n, (t.core n).registers = (s.core n).registers

theorem Slot.Released.refl (x : Slot) : x.Released x := ⟨rfl, rfl, .rfl, id, id⟩

theorem Slot.Released.trans {x y z : Slot} (h : x.Released y) (k : y.Released z) : x.Released z :=
  ⟨k.gang.trans h.gang, k.outs.trans h.outs, k.empty.trans h.empty, fun e => k.await (h.await e), fun e => k.cont (h.cont e)⟩

theorem State.Released.refl (s : State) : s.Released s := ⟨rfl, rfl, rfl, fun _ => .refl _, fun _ => id, fun _ => rfl⟩

theorem State.Released.trans {s t v : State} (h : s.Released t) (k : t.Released v) : s.Released v :=
  ⟨k.gangs.trans h.gangs, k.dumps.trans h.dumps, k.tears.trans h.tears, fun u => (h.slot u).trans (k.slot u), fun n e => k.frozen n (h.frozen n e),
    fun n => (k.registers n).trans (h.registers n)⟩

theorem State.released_ite {s t u : State} (c : Prop) [Decidable c] (h : s.Released t) (k : s.Released u) : s.Released (if c then t else u) := by
  split <;> assumption

theorem State.released_foldl {β : Type} (f : State → β → State) (hf : ∀ (u : State) (b : β), u.Released (f u b)) (bs : List β) (s : State) :
    s.Released (bs.foldl f s) :=
  State.foldl_keeps (p := s.Released) f (fun _ b h => h.trans (hf _ b)) bs (.refl s)

/-- A fold whose steps release brings about of each element what its step brings about, when a release keeps that. -/
theorem State.foldl_releases {β : Type} {f : State → β → State} (hf : ∀ (u : State) (b : β), u.Released (f u b)) {q : β → State → Prop}
    (hq : ∀ u b, q b (f u b)) (hkeep : ∀ b s t, s.Released t → q b s → q b t) (bs : List β) (s : State) : ∀ b ∈ bs, q b (bs.foldl f s) := by
  induction bs generalizing s with
  | nil => exact fun b hb => absurd hb (List.not_mem_nil)
  | cons c bs ih =>
    intro b hb
    rcases List.mem_cons.mp hb with rfl | hb
    · exact hkeep b _ _ (State.released_foldl f hf bs _) (hq s b)
    · exact ih _ b hb

theorem State.released_of_cores {s t : State} (hg : t.gangs = s.gangs) (hd : t.dumps = s.dumps) (ht : t.tears = s.tears) (hc : t.cores = s.cores)
    (hn : t.nextCore = s.nextCore) (hk : t.clock = s.clock) : s.Released t := by
  have hcore : ∀ n, t.core n = s.core n := fun n => by simp only [State.core, hc, hn, hk]
  exact ⟨hg, hd, ht, fun u => by rw [State.slot_of_cores hc hn hk u]; exact .refl _, fun n e => by rw [hcore n]; exact e,
    fun n => by rw [hcore n]⟩

theorem State.released_setCore (s : State) (n : Nat) {c : Core} (hs : c.slots = (s.core n).slots) (hf : (s.core n).frozen = true → c.frozen = true)
    (hr : c.registers = (s.core n).registers) : s.Released (s.setCore n c) := by
  refine ⟨rfl, rfl, rfl, fun u => by rw [State.slot_setCore s n c hs u]; exact .refl _, fun m e => ?_, fun m => ?_⟩
  · by_cases hm : m = n
    · subst hm; rw [State.core_setCore_same]; exact hf e
    · rw [State.core_setCore_other s c hm]; exact e
  · by_cases hm : m = n
    · subst hm; rw [State.core_setCore_same]; exact hr
    · rw [State.core_setCore_other s c hm]

theorem State.released_setSlot (s : State) (t : Tid) {x : Slot} (h : (s.slot t).Released x) : s.Released (s.setSlot t x) := by
  refine ⟨rfl, rfl, rfl, fun u => ?_, fun m e => ?_, fun m => ?_⟩
  · by_cases hu : u = t
    · subst hu; rw [State.slot_setSlot_same]; exact h
    · rw [State.slot_setSlot_other s x hu]; exact .refl _
  · by_cases hm : m = t.core
    · subst hm; rw [State.core_setSlot]; exact e
    · rw [State.core_setSlot_other s t x hm]; exact e
  · by_cases hm : m = t.core
    · subst hm; rw [State.core_setSlot]; rfl
    · rw [State.core_setSlot_other s t x hm]

theorem State.released_post (s : State) (e : Event) : s.Released (s.post e) :=
  State.released_of_cores (by simp) (by simp) (by simp) (by simp) (by simp) (by simp)

theorem State.released_rouse (s : State) (n : Nat) : s.Released (s.rouse n) := by
  unfold State.rouse
  exact State.released_ite _ (State.released_post ..) (State.released_ite _ (.refl s) (State.released_setCore s n rfl id rfl))

theorem State.released_urge (s : State) (t : Tid) (g : Bool) : s.Released (s.urge t g) := by
  unfold State.urge
  exact State.released_ite _ (.refl s) (State.released_of_cores rfl rfl rfl rfl rfl rfl)

theorem Slot.released_ready {x : Slot} (h : x.st = .parked) : x.Released { x with st := .ready, await := .none } :=
  ⟨rfl, rfl, by rw [h]; simp, fun _ => rfl, id⟩

theorem Slot.released_held (x : Slot) : x.Released { x with heldSt := .ready, await := .none } := ⟨rfl, rfl, .rfl, fun _ => rfl, id⟩

theorem Slot.released_port (x : Slot) (p : Port) : x.Released { x with port := p } := ⟨rfl, rfl, .rfl, id, id⟩

theorem Slot.released_cr (x : Slot) (c : CRegs) : x.Released { x with cr := c } := ⟨rfl, rfl, .rfl, id, id⟩

theorem State.released_wake (s : State) (t : Tid) : s.Released (s.wake t) := by
  unfold State.wake
  dsimp only
  split
  next h => exact ((State.released_setSlot _ _ (Slot.released_ready h)).trans (State.released_rouse ..)).trans (State.released_urge ..)
  next => exact ((State.released_setSlot _ _ (Slot.released_held _)).trans (State.released_rouse ..)).trans (State.released_urge ..)
  next => exact .refl s

theorem State.released_wakeCore (s : State) (n : Nat) (p : Await → Bool) : s.Released (s.wakeCore n p) := by
  unfold State.wakeCore
  exact State.released_foldl _ (fun u _ => State.released_ite _ (State.released_wake ..) (.refl u)) _ s

theorem State.released_wakeProducer (s : State) (p : Option Tid) (w : Await) : s.Released (s.wakeProducer p w) := by
  cases p with
  | none => exact .refl s
  | some g => exact State.released_ite _ (State.released_wake ..) (.refl s)

theorem State.released_pops (s : State) (srcs : List SReg) : s.Released (s.pops srcs []) := by
  simp only [State.pops, List.contains_nil, Bool.and_false, Bool.false_eq_true, if_false]
  refine State.released_ite _ ?_ (.refl s)
  unfold State.popScalar
  exact (State.released_setSlot _ _ (Slot.released_port _ _)).trans (State.released_wakeProducer ..)

theorem State.released_settle (s : State) (ag : Agent) : s.Released (s.settle ag) := by
  unfold State.settle
  split
  · refine (State.released_foldl _ (fun v p => ?_) _ s).trans (State.released_of_cores rfl rfl rfl rfl rfl rfl)
    exact State.released_setSlot _ _ (Slot.released_cr _ _)
  · exact .refl s

/-! ### A fatal trap (R344) -/

/-- A thread of a gang stopFors its parked instruction. -/
def State.stopFor (g : Nat) (s : State) (u : Tid) : State :=
  let x := s.slot u
  if x.gang == g && x.st != .empty then
    s.setSlot u { x with st := if x.st == .stopped then .stopped else .ready, heldSt := .ready, await := .none, cont := none, lates := [] }
  else s

/-- A core of a gang whose trace ring freezes, and whose copies and forcings for the gang end. -/
def State.haltedCore (s : State) (g n : Nat) : Core :=
  let c := s.core n
  { c with
    frozen := true
    demands := c.demands.filter (fun d => !d.by_.parked.any (fun u => (s.slot u).gang == g))
    copies := c.copies.map (fun k => if k.gang == g && k.fail.isNone then { k with fail := some abortStatus, stall := .none } else k) }

/-- The machine with such a core, whose waits for forcings, turns and earlier instructions are over. -/
def State.haltCore (s : State) (g n : Nat) : State :=
  (s.setCore n (s.haltedCore g n)).wakeCore n (fun w => w == .force || w == .turn || w == .order)

/-- The same, with the events that then are due. -/
def State.haltPlace (g : Nat) (s : State) (p : GangCore) : State :=
  let c := s.haltedCore g p.core
  let s0 := s.haltCore g p.core
  let s' := if c.demands.isEmpty && c.grid.isNone then s0 else (s0.post (.blockEvaluation p.core)).post (.gridOperationComplete p.core)
  if (s.core p.core).copies.any (·.gang == g) then s'.post (.copyCommandEnd p.core) else s'

/-- The machine once the threads of a gang have stopped for a fatal trap and its rings are frozen. -/
def State.halted (s : State) (g : Gang) : State := g.places.foldl (State.haltPlace g.id) (g.tids.foldl (State.stopFor g.id) s)

theorem State.released_stopFor (g : Nat) (s : State) (u : Tid) : s.Released (State.stopFor g s u) := by
  unfold State.stopFor
  dsimp only
  split
  next h =>
    obtain ⟨-, hst⟩ := (Bool.and_eq_true _ _).mp h
    refine State.released_setSlot s u ⟨rfl, rfl, ?_, fun _ => rfl, fun _ => rfl⟩
    rw [bne_iff_ne] at hst
    dsimp only
    split <;> simp [hst]
  next => exact .refl s

theorem State.released_haltCore (s : State) (g n : Nat) : s.Released (s.haltCore g n) :=
  (State.released_setCore s n (c := s.haltedCore g n) rfl (fun _ => rfl) rfl).trans (State.released_wakeCore ..)

theorem State.frozen_haltCore (s : State) (g n : Nat) : ((s.haltCore g n).core n).frozen = true :=
  (State.released_wakeCore ..).frozen n (by rw [State.core_setCore_same]; rfl)

theorem State.released_haltPlace_haltCore (g : Nat) (s : State) (p : GangCore) : (s.haltCore g p.core).Released (State.haltPlace g s p) := by
  unfold State.haltPlace
  dsimp only
  generalize s.haltCore g p.core = w
  have hs (c : Prop) [Decidable c] (x y : Event) : w.Released (if c then w else (w.post x).post y) :=
    State.released_ite c (.refl w) ((State.released_post w x).trans (State.released_post ..))
  exact State.released_ite _ ((hs ..).trans (State.released_post ..)) (hs ..)

theorem State.released_haltPlace (g : Nat) (s : State) (p : GangCore) : s.Released (State.haltPlace g s p) :=
  (State.released_haltCore s g p.core).trans (State.released_haltPlace_haltCore g s p)

theorem State.frozen_haltPlace (g : Nat) (s : State) (p : GangCore) : ((State.haltPlace g s p).core p.core).frozen = true :=
  (State.released_haltPlace_haltCore g s p).frozen _ (State.frozen_haltCore s g p.core)

theorem State.released_halted (s : State) (g : Gang) : s.Released (s.halted g) :=
  (State.released_foldl _ (State.released_stopFor g.id) g.tids s).trans (State.released_foldl _ (State.released_haltPlace g.id) g.places _)

theorem State.frozen_halted (s : State) (g : Gang) : ∀ p ∈ g.places, ((s.halted g).core p.core).frozen = true :=
  State.foldl_releases (q := fun (p : GangCore) t => (t.core p.core).frozen = true) (State.released_haltPlace g.id) (State.frozen_haltPlace g.id)
    (fun p _ _ h e => h.frozen p.core e) g.places _

/-- Whether a thread has nothing parked. -/
def Slot.atRest (x : Slot) : Prop := x.await = .none ∧ x.cont = none

theorem State.atRest_stopFor (g : Nat) (s : State) (u : Tid) (hg : (s.slot u).gang = g) (hst : (s.slot u).st ≠ .empty) :
    ((State.stopFor g s u).slot u).atRest := by
  have h : ((s.slot u).gang == g && (s.slot u).st != .empty) = true := by rw [Bool.and_eq_true, beq_iff_eq, bne_iff_ne]; exact ⟨hg, hst⟩
  rw [State.stopFor, if_pos h, State.slot_setSlot_same]
  exact ⟨rfl, rfl⟩

theorem State.atRest_halted (s : State) (g : Gang) : ∀ u ∈ g.tids, (s.slot u).gang = g.id → (s.slot u).st ≠ .empty → ((s.halted g).slot u).atRest := by
  have hset := State.foldl_releases (q := fun (u : Tid) t => (t.slot u).gang = g.id → (t.slot u).st ≠ .empty → (t.slot u).atRest)
    (State.released_stopFor g.id)
    (fun v u hg hst => State.atRest_stopFor g.id v u ((State.released_stopFor g.id v u).slot u |>.gang.symm.trans hg)
      (fun e => hst (((State.released_stopFor g.id v u).slot u).empty.mpr e)))
    (fun u v w h hv hg hst => by
      obtain ⟨hawait, hcont⟩ := hv ((h.slot u).gang.symm.trans hg) (fun e => hst ((h.slot u).empty.mpr e))
      exact ⟨(h.slot u).await hawait, (h.slot u).cont hcont⟩) g.tids s
  intro u hu hg hst
  have hr := (State.released_foldl _ (State.released_stopFor g.id) g.tids s).slot u
  have hf := (State.released_foldl _ (State.released_haltPlace g.id) g.places (g.tids.foldl (State.stopFor g.id) s)).slot u
  obtain ⟨hawait, hcont⟩ := hset u hu (hr.gang.trans hg) (fun e => hst (hr.empty.mp e))
  exact ⟨hf.await hawait, hf.cont hcont⟩

/-- Whether an agent acts for a thread of a gang. -/
def State.ofGang (s : State) (g : Nat) (a : Agent) : Bool := a.parked.any (fun u => (s.slot u).gang == g)

/-- A fatal trap of a gang that has had none: the gang is marked and halted, and a dump is asked for unless its context fails (R343, R344, R393). -/
theorem State.fatal_marks {s : State} {u : Tid} {g : Gang} (i : TrapInfo) (epc : Word) (hg : s.gang (s.slot u).gang = some g) (hf : g.fatal = none) :
    ∃ v, (((s.setGang { g with fatal := some (i, u, epc) }).halted g)).Released v ∧
      s.fatal u i epc = ({ v with dumps := if s.failing g.ctx then s.dumps else s.dumps ++ [DumpJob.new g.id] } : State).post .dumpGang := by
  generalize hs : (s.setGang { g with fatal := some (i, u, epc) }).halted g = h
  have hr : (s.setGang { g with fatal := some (i, u, epc) }).Released h := hs ▸ State.released_halted ..
  have hdumps : h.dumps = s.dumps := hr.dumps
  have hfail : h.failing g.ctx = s.failing g.ctx := by rw [State.failing, State.failing, hr.tears]; rfl
  refine ⟨{ (g.tids.foldl (fun (v : State) w => v.settle (.thread w)) h).dropRequests (h.ofGang g.id) with
    waiters := h.waiters.filter (fun w => !h.ofGang g.id w.agent), urgent := h.urgent.filter (fun w => (h.slot w).gang != g.id) }, ?_, ?_⟩
  · exact (State.released_foldl _ (fun v w => State.released_settle v (.thread w)) g.tids h).trans (State.released_of_cores rfl rfl rfl rfl rfl rfl)
  · rw [← hdumps, ← hfail, ← hs, State.fatal, hg]
    have hnot : ¬ g.fatal.isSome = true := by rw [hf]; exact Bool.false_ne_true
    exact if_neg hnot

end Sys2Proof.Machine
end

section
/-!
PROOFS. Trap entry, TRAP, words that are no instruction, and fatal traps (07 R120; 09 R147, R148; 24 R340, R343, R344, R352; 28 R393).
-/

namespace Sys2Proof.Machine

/-! ### Trap entry (R147) -/

/-- Zeros below a value multiply it. -/
theorem toNat_append_zeros {w k : Nat} (v : BitVec w) : (v ++ (0 : BitVec k)).toNat = 2 ^ k * v.toNat := by
  rw [BitVec.toNat_append, Nat.shiftLeft_eq, Nat.mul_comm, show (0 : BitVec k).toNat = 0 from Nat.zero_mod _, Nat.or_zero]

theorem append_zeros {w k : Nat} (v : BitVec w) : v ++ (0 : BitVec k) = BitVec.ofNat (w + k) (2 ^ k * v.toNat) := by
  rw [← toNat_append_zeros, BitVec.ofNat_toNat, BitVec.setWidth_eq]

/-- An address without its bit 0. -/
theorem halved (a : Word) : a.extractLsb' 1 63 = BitVec.ofNat 63 (a.toNat / 2) := by
  rw [BitVec.extractLsb', Nat.shiftRight_eq_div_pow]

theorem ofBool_eq (b : Bool) : BitVec.ofBool b = if b then 1 else 0 := by cases b <;> rfl

theorem trapEntered_enterTrap (s : State) (u : Tid) (i : TrapInfo) (epc pc2 : Word) (late defer : Bool) :
    TrapEntered s (s.enterTrap u i epc pc2 late defer) u i epc pc2 late defer := by
  have hslots : SameButSlot s (s.traceIssue u 3 i.cls.toNat (s.slot u).pc i.tval) u := sameButSlot_setCore s u (Core.slots_traceRec ..)
  have hsame : SameButSlot s (s.enterTrap u i epc pc2 late defer) u := hslots.trans (sameButSlot_setSlot ..)
  unfold TrapEntered
  rw [State.enterTrap, State.slot_setSlot_same]
  refine ⟨append_zeros (s.slot u).cr.tvec, ?_, rfl, rfl, rfl, rfl, rfl, rfl, rfl, rfl, rfl, hsame⟩
  dsimp only
  rw [halved, halved, ofBool_eq, ofBool_eq]

theorem State.takeTrap_enters {s : State} {u : Tid} {i : TrapInfo} (epc pc2 : Word) (late defer : Bool) (hin : (s.slot u).cr.intrap = false)
    (hvec : (s.slot u).cr.tvec ≠ 0) (hcls : i.cls ≠ 8) : s.takeTrap u i epc pc2 late defer = s.enterTrap u i epc pc2 late defer :=
  if_neg (by rw [hin, beq_eq_false_iff_ne.mpr hvec, beq_eq_false_iff_ne.mpr hcls]; exact Bool.false_ne_true)

theorem trapEntered_takeTrap {s : State} {u : Tid} {i : TrapInfo} (epc pc2 : Word) (late defer : Bool) (hin : (s.slot u).cr.intrap = false)
    (hvec : (s.slot u).cr.tvec ≠ 0) (hcls : i.cls ≠ 8) : TrapEntered s (s.takeTrap u i epc pc2 late defer) u i epc pc2 late defer := by
  rw [State.takeTrap_enters epc pc2 late defer hin hvec hcls]
  exact trapEntered_enterTrap ..

/-! ### Fatal traps (R343, R344) -/

theorem State.takeTrap_fatal {s : State} {u : Tid} {i : TrapInfo} (epc pc2 : Word) (late defer : Bool)
    (h : (s.slot u).cr.intrap = true ∨ (s.slot u).cr.tvec = 0 ∨ i.cls = 8) : s.takeTrap u i epc pc2 late defer = s.fatal u i epc :=
  if_pos (by rw [Bool.or_eq_true, Bool.or_eq_true, beq_iff_eq, beq_iff_eq, or_assoc]; exact h)

theorem State.id_of_gang {s : State} {n : Nat} {g : Gang} (h : s.gang n = some g) : g.id = n :=
  beq_iff_eq.mp (List.find?_some (p := fun x : Gang => x.id == n) h)

/-- A gang in the place of the one with its number is found there. -/
theorem State.gang_setGang {s : State} {n : Nat} {g k : Gang} (h : s.gang n = some g) (hk : k.id = n) : (s.setGang k).gang n = some k := by
  have hsame : (fun x : Gang => x.id == n) ∘ (fun x => if x.id == k.id then k else x) = fun x : Gang => x.id == n := by
    funext x
    dsimp only [Function.comp]
    split
    next e => rw [hk, beq_self_eq_true, ← hk, e]
    next => rfl
  rw [State.gang, State.setGang]
  dsimp only
  rw [List.find?_map, hsame, show List.find? _ s.gangs = some g from h, Option.map_some, if_pos]
  rw [State.id_of_gang h, hk, beq_self_eq_true]

/-- What a gang's first fatal trap leaves: the gang is marked, its threads wait for nothing, the rings of its cores are frozen, and a dump is asked for
unless its context fails. -/
theorem State.fatal_leaves {s : State} {u : Tid} {g : Gang} (i : TrapInfo) (epc : Word) (hg : s.gang (s.slot u).gang = some g) (hf : g.fatal = none) :
    let t := s.fatal u i epc
    (t.gang g.id).map (·.fatal) = some (some (i, u, epc)) ∧ (s.failing g.ctx = false → t.dumps = s.dumps ++ [DumpJob.new g.id]) ∧
      t.todo.contains .dumpGang = true ∧ (∀ p ∈ g.places, (t.core p.core).frozen = true) ∧
      (∀ v ∈ g.tids, (s.slot v).gang = g.id → (s.slot v).st ≠ .empty → (t.slot v).await = .none ∧ (t.slot v).cont = none ∧ (t.slot v).outs = (s.slot v).outs) ∧
      t.mem = s.mem ∧ t.tags = s.tags := by
  intro t
  have hbytes : s.SameBytes t := State.fatal_mem_tags s u i epc
  obtain ⟨v, hv, ht⟩ := State.fatal_marks i epc hg hf
  generalize hm : s.setGang { g with fatal := some (i, u, epc) } = m at hv
  have hmarked : m.gang g.id = some { g with fatal := some (i, u, epc) } := by
    have hid : g.id = (s.slot u).gang := State.id_of_gang hg
    rw [← hm]
    exact State.gang_setGang (by rw [hid]; exact hg) rfl
  have hslot (w : Tid) : m.slot w = s.slot w := by rw [← hm]; rfl
  have hpost := State.released_post { v with dumps := if s.failing g.ctx then s.dumps else s.dumps ++ [DumpJob.new g.id] } .dumpGang
  rw [← ht] at hpost
  have hall := State.released_halted m g
  refine ⟨?_, fun hfail => ?_, ?_, fun p hp => ?_, fun w hw hgang hst => ?_, hbytes⟩
  · have hgangs : t.gangs = m.gangs := hpost.gangs.trans (hv.gangs.trans hall.gangs)
    rw [State.gang, hgangs, ← State.gang, hmarked]
    rfl
  · rw [show t.dumps = _ from hpost.dumps, hfail]
    rfl
  · rw [show t = _ from ht]
    exact State.todo_post ..
  · exact hpost.frozen _ (hv.frozen _ (State.frozen_halted m g p hp))
  · obtain ⟨hawait, hcont⟩ := State.atRest_halted m g w hw (by rw [hslot]; exact hgang) (by rw [hslot]; exact hst)
    exact ⟨(hpost.slot w).await ((hv.slot w).await hawait), (hpost.slot w).cont ((hv.slot w).cont hcont),
      (hpost.slot w).outs.trans ((hv.slot w).outs.trans ((hall.slot w).outs.trans (by rw [hslot])))⟩

/-- A further fatal trap of a gang does nothing. -/
theorem State.fatal_again {s : State} {u : Tid} {g : Gang} (i : TrapInfo) (epc : Word) (hg : s.gang (s.slot u).gang = some g) (hf : g.fatal.isSome = true) :
    s.fatal u i epc = s := by
  rw [State.fatal, hg]
  exact if_pos hf

/-! ### TRAP (R148) -/

theorem exec_trap_open {s : State} {b : SReg} (code : BitVec 11) (h : s.portsOpen [b] [] [] [] = true) :
    exec (.trap b code) s = .next ((s.pops [b] []).takeTrap s.cur { cls := 20, code := code.setWidth 16, tval := s.rs b } s.npc s.me.pc true false) := by
  have hstill := State.still_pops s [b]
  have hcode : (0 : BitVec 5) ++ code = code.setWidth 16 := by
    rw [BitVec.setWidth_eq_append (by decide)]
    rfl
  rw [exec_trap, execTrap, State.ports_open s [b] [] [] [] h]
  dsimp only [Res.bind_ok, Res.finish]
  rw [hstill.cur, hstill.npc, hstill.pc, hcode]

theorem State.slot_pops (s : State) (srcs : List SReg) : ((s.pops srcs []).slot s.cur) = (s.pops srcs []).me := by
  rw [State.me, (State.still_pops s srcs).cur]

theorem exec_notAnInstruction_eq (s : State) (cls : BitVec 5) (code : BitVec 16) (tval : Word) :
    exec (.notAnInstruction cls code tval) s = .next (s.precise { cls := cls, code := code, tval := tval }) := rfl

/-- Settles O10: trap entry, TRAP and fatal traps. -/
theorem trapsTaken : Obligations.traps_taken := by
  unfold Obligations.traps_taken
  refine ⟨⟨fun s u i epc pc2 late defer hin hvec hcls => trapEntered_takeTrap epc pc2 late defer hin hvec hcls, fun s b code hin hvec hp => ?trap,
    fun b code => portFaults_of_ports fun s => ⟨_, rfl⟩, fun s cls code tval hin hvec hcls => ?slot⟩, fun s u i epc pc2 late defer g h _ hg => ?fatal⟩
  case trap =>
    have hstill := State.still_pops s [b]
    refine ⟨_, exec_trap_open code hp, trapEntered_takeTrap _ _ _ _ ?_ ?_ (show (20 : BitVec 5) ≠ 8 by decide)⟩
    · rw [State.slot_pops, hstill.cr]; exact hin
    · rw [State.slot_pops, hstill.cr]; exact hvec
  case slot => exact ⟨_, exec_notAnInstruction_eq .., trapEntered_takeTrap _ _ _ _ hin hvec hcls⟩
  case fatal =>
    rw [State.takeTrap_fatal epc pc2 late defer h]
    exact ⟨State.fatal_again i epc hg, State.fatal_leaves i epc hg⟩

/-- Settles O60: TRAP and a word that is no instruction complete by taking their trap. -/
theorem softwareTrapsComplete : Obligations.software_traps_complete := by
  unfold Obligations.software_traps_complete
  refine ⟨fun s b code hp => ⟨exec_trap_open code hp, fun h g hg hf => ⟨_, exec_trap_open code hp, ?_⟩⟩,
    fun s cls code tval => ⟨exec_notAnInstruction_eq .., fun h g hg hf => ⟨_, exec_notAnInstruction_eq .., ?_⟩⟩⟩
  · have hstill := State.still_pops s [b]
    have hreleased := State.released_pops s [b]
    have hin : ((s.pops [b] []).slot s.cur).cr.intrap = true ∨ ((s.pops [b] []).slot s.cur).cr.tvec = 0 ∨ (20 : BitVec 5) = 8 := by
      rw [State.slot_pops, hstill.cr]
      exact h.imp_right .inl
    have hgang : (s.pops [b] []).gang ((s.pops [b] []).slot s.cur).gang = some g := by
      rw [State.gang, hreleased.gangs, (hreleased.slot s.cur).gang]
      exact hg
    rw [State.takeTrap_fatal _ _ _ _ hin]
    obtain ⟨hmark, -, htodo, -, -, hmem, htags⟩ := State.fatal_leaves { cls := 20, code := code.setWidth 16, tval := s.rs b } s.npc hgang hf
    exact ⟨hmark, htodo, hmem.trans hstill.bytes.1, htags.trans hstill.bytes.2⟩
  · have hin : ((s.unwait s.cur).slot s.cur).cr.intrap = true ∨ ((s.unwait s.cur).slot s.cur).cr.tvec = 0 ∨ cls = 8 := h.imp_right .inl
    rw [State.precise, State.takeTrap_fatal _ _ _ _ hin]
    obtain ⟨hmark, -, htodo, -, -, hmem, htags⟩ :=
      State.fatal_leaves (s := s.unwait s.cur) { cls := cls, code := code, tval := tval } s.me.pc (show (s.unwait s.cur).gang _ = some g from hg) hf
    exact ⟨hmark, htodo, hmem, htags⟩

end Sys2Proof.Machine
end

section
/-!
PROOFS. Control registers (07 R110; 09 R150).
-/

namespace Sys2Proof.Machine

/-! ### The values that control registers read as -/

theorem zx_eq {w : Nat} (v : BitVec w) : (zx v : Word) = BitVec.ofNat 64 v.toNat := (BitVec.ofNat_toNat 64 v).symm

theorem zx_append_zeros {w k : Nat} (v : BitVec w) : (zx (v ++ (0 : BitVec k)) : Word) = BitVec.ofNat 64 (2 ^ k * v.toNat) := by
  rw [zx_eq, toNat_append_zeros]

theorem CRegs.cause_eq (c : CRegs) :
    c.cause = BitVec.ofNat 64 (c.cls.toNat + 2 ^ 6 * c.late.toNat + 2 ^ 7 * c.defer.toNat + 2 ^ 16 * c.code.toNat) := by
  have hcode := c.code.isLt
  have hlate := c.late.isLt
  have hdefer := c.defer.isLt
  have hcls := c.cls.isLt
  have happ {m n : Nat} (x : BitVec m) (y : BitVec n) : (x ++ y).toNat = x.toNat * 2 ^ n + y.toNat := by
    rw [BitVec.toNat_append, ← Nat.shiftLeft_add_eq_or_of_lt y.isLt, Nat.shiftLeft_eq]
  refine BitVec.eq_of_toNat_eq ?_
  rw [CRegs.cause, happ, happ, happ, happ, happ, happ, BitVec.toNat_ofNat]
  simp only [show (0 : BitVec 32).toNat = 0 from rfl, show (0 : BitVec 8).toNat = 0 from rfl, show (0 : BitVec 1).toNat = 0 from rfl]
  omega

/-- A control register is read off the slot's registers, the place of the thread and the core's registers. -/
theorem State.creg_congr {s t : State} (hcr : t.me.cr = s.me.cr) (hcur : t.cur = s.cur) (hcore : t.myCore.registers = s.myCore.registers) (m : BitVec 11) :
    t.creg m = s.creg m := by
  obtain ⟨h0, h1, h2⟩ : t.myCore.rmap0 = s.myCore.rmap0 ∧ t.myCore.rmap1 = s.myCore.rmap1 ∧ t.myCore.gdly = s.myCore.gdly := by
    simpa only [Core.registers, Prod.mk.injEq] using hcore
  unfold State.creg
  rw [hcr, hcur, h0, h1, h2]

/-- The values of the control registers as fields in their places. -/
theorem State.creg_values (s : State) :
    let c := s.me.cr
    s.creg 0x000 = c.gid ∧ s.creg 0x001 = c.gdim ∧ s.creg 0x002 = c.core ∧ s.creg 0x003 = c.ncore ∧ s.creg 0x004 = BitVec.ofNat 64 s.cur.slot.toNat ∧
      s.creg 0x005 = c.tid ∧ s.creg 0x006 = BitVec.ofNat 64 s.cur.core ∧ s.creg 0x007 = c.nactive ∧
      s.creg 0x010 = BitVec.ofNat 64 c.fmta.toNat ∧ s.creg 0x011 = BitVec.ofNat 64 c.fmtb.toNat ∧ s.creg 0x012 = BitVec.ofNat 64 c.scla.toNat ∧
      s.creg 0x013 = BitVec.ofNat 64 c.sclb.toNat ∧ s.creg 0x014 = BitVec.ofNat 64 c.nbv.toNat ∧ s.creg 0x015 = BitVec.ofNat 64 c.frm.toNat ∧
      s.creg 0x016 = BitVec.ofNat 64 c.fflags.toNat ∧ s.creg 0x017 = BitVec.ofNat 64 c.fen.toNat ∧
      s.creg 0x020 = BitVec.ofNat 64 (128 * c.wsb.toNat) ∧ s.creg 0x021 = BitVec.ofNat 64 (128 * c.wsl.toNat) ∧
      s.creg 0x022 = BitVec.ofNat 64 (128 * c.wsp.toNat) ∧ s.creg 0x028 = s.myCore.rmap0 ∧ s.creg 0x029 = s.myCore.rmap1 ∧
      s.creg 0x02A = BitVec.ofNat 64 c.sbtag.toNat ∧ s.creg 0x030 = c.rngk ∧ s.creg 0x031 = c.rngc ∧ s.creg 0x032 = c.rngch ∧
      s.creg 0x040 = BitVec.ofNat 64 (64 * c.tvec.toNat) ∧ s.creg 0x041 = BitVec.ofNat 64 (2 * c.epc.toNat) ∧
      s.creg 0x042 = BitVec.ofNat 64 (c.cls.toNat + 2 ^ 6 * c.late.toNat + 2 ^ 7 * c.defer.toNat + 2 ^ 16 * c.code.toNat) ∧
      s.creg 0x043 = c.tval ∧ s.creg 0x044 = BitVec.ofNat 64 (2 * c.tpc2.toNat) ∧ s.creg 0x045 = (if c.intrap then 1 else 0) ∧
      s.creg 0x050 = BitVec.ofNat 64 (2 * c.wloop.toNat) ∧ s.creg 0x051 = BitVec.ofNat 64 s.myCore.gdly.toNat ∧
      s.creg 0x052 = BitVec.ofNat 64 c.pbudget.toNat :=
  ⟨rfl, rfl, rfl, rfl, zx_eq _, rfl, rfl, rfl, zx_eq _, zx_eq _, zx_eq _, zx_eq _, zx_eq _, zx_eq _, zx_eq _, zx_eq _, zx_append_zeros _,
    zx_append_zeros _, zx_append_zeros _, rfl, rfl, zx_eq _, rfl, rfl, rfl, append_zeros (k := 6) _, append_zeros (k := 1) _, CRegs.cause_eq _, rfl,
    append_zeros (k := 1) _, rfl, append_zeros (k := 1) _, zx_eq _, zx_eq _⟩

/-! ### What an MTC writes -/

/-- A field of a word in its place is the word under the mask of the field. -/
theorem zx_field_zeros (v : Word) (lo len : Nat) :
    (zx (v.extractLsb' lo len ++ (0 : BitVec lo)) : Word) = v &&& BitVec.ofNat 64 ((2 ^ len - 1) * 2 ^ lo) := by
  refine BitVec.eq_of_getLsbD_eq fun i hi => ?_
  rw [zx, BitVec.getLsbD_setWidth, decide_eq_true hi, Bool.true_and, BitVec.getLsbD_append, BitVec.getLsbD_and, BitVec.getLsbD_ofNat, decide_eq_true hi,
    Bool.true_and, Nat.testBit_mul_two_pow, Nat.testBit_two_pow_sub_one]
  by_cases h : i < lo
  · rw [if_pos h, decide_eq_false (Nat.not_le.mpr h), Bool.false_and, Bool.and_false]
    exact BitVec.getLsbD_zero
  · rw [if_neg h, decide_eq_true (Nat.not_lt.mp h), Bool.true_and, BitVec.getLsbD_extractLsb', Nat.add_sub_cancel' (Nat.not_lt.mp h), Bool.and_comm]

theorem zx_field (v : Word) (len : Nat) : (zx (v.extractLsb' 0 len) : Word) = v &&& BitVec.ofNat 64 (2 ^ len - 1) := by
  have h := zx_field_zeros v 0 len
  rwa [Nat.pow_zero, Nat.mul_one, zx_eq, toNat_append_zeros, Nat.pow_zero, Nat.one_mul, ← zx_eq] at h

/-- The fields of c.tcause in their places. -/
theorem cause_fields (v : Word) :
    (0 : BitVec 32) ++ v.extractLsb' 16 16 ++ (0 : BitVec 8) ++ v.extractLsb' 7 1 ++ v.extractLsb' 6 1 ++ (0 : BitVec 1) ++ v.extractLsb' 0 5 =
      v &&& (0xFFFF00DF : Word) := by
  refine BitVec.eq_of_getLsbD_eq fun i hi => ?_
  rw [BitVec.getLsbD_and, BitVec.getLsbD_append, BitVec.getLsbD_append, BitVec.getLsbD_append, BitVec.getLsbD_append, BitVec.getLsbD_append,
    BitVec.getLsbD_append]
  interval_cases i <;> simp


/-- Two MTC-writable registers of a slot do not share a field: a register other than the one that an MTC writes reads as before. -/
theorem State.creg_write_other {s t : State} {n m : BitVec 11} (v : Word) (h : m ≠ n) (hcr : t.me.cr = s.me.cr.write n v) (hcur : t.cur = s.cur)
    (hcore : t.myCore.registers = s.myCore.registers) : t.creg m = s.creg m := by
  have hne : m.toNat ≠ n.toNat := fun e => h (BitVec.eq_of_toNat_eq e)
  obtain ⟨h0, h1, h2⟩ : t.myCore.rmap0 = s.myCore.rmap0 ∧ t.myCore.rmap1 = s.myCore.rmap1 ∧ t.myCore.gdly = s.myCore.gdly := by
    simpa only [Core.registers, Prod.mk.injEq] using hcore
  unfold CRegs.write at hcr
  unfold State.creg
  generalize m.toNat = k at hne
  split at hcr <;> rw [hcr, hcur, h0, h1, h2]
  all_goals split <;> try rfl
  all_goals omega


/-- The same for a write of one of the core's registers. -/
theorem State.creg_registers_other {s t : State} {n m : BitVec 11} (h : m ≠ n) (hcr : t.me.cr = s.me.cr) (hcur : t.cur = s.cur)
    (h0 : n ≠ 0x028 → t.myCore.rmap0 = s.myCore.rmap0) (h1 : n ≠ 0x029 → t.myCore.rmap1 = s.myCore.rmap1)
    (h2 : n ≠ 0x051 → t.myCore.gdly = s.myCore.gdly) : t.creg m = s.creg m := by
  have hne {k : BitVec 11} (hk : m.toNat = k.toNat) : n ≠ k := fun e => h ((BitVec.eq_of_toNat_eq hk).trans e.symm)
  unfold State.creg
  rw [hcr, hcur]
  split
  case h_20 hk => exact h0 (hne hk)
  case h_21 hk => exact h1 (hne hk)
  case h_33 hk => exact congrArg zx (h2 (hne hk))
  all_goals rfl

/-- What an MTC leaves: the register reads as the value, every other one, the general registers, bytes and tags as before. -/
structure State.WritesCreg (s t : State) (n : BitVec 11) (v : Word) : Prop where
  cur : t.cur = s.cur
  npc : t.npc = s.npc
  regs : t.me.regs = s.me.regs
  bytes : s.SameBytes t
  written : t.creg n = v
  others : ∀ m, m ≠ n → t.creg m = s.creg m

theorem State.registers_setMe (s : State) (x : Slot) : (s.setMe x).myCore.registers = s.myCore.registers := by
  rw [State.myCore, show (s.setMe x).core (s.setMe x).cur.core = _ from State.core_setSlot s s.cur x]
  rfl

/-- A write of a register of the slot. -/
theorem State.writesCreg_slot {s : State} {n : BitVec 11} {v w : Word} (hset : s.setCreg n v = s.setMe { s.me with cr := s.me.cr.write n v })
    (hw : ∀ t : State, t.me.cr = s.me.cr.write n v → t.creg n = w) : s.WritesCreg (s.setCreg n v) n w := by
  rw [hset]
  have hcr : (s.setMe { s.me with cr := s.me.cr.write n v }).me.cr = s.me.cr.write n v := by rw [State.me_setMe]
  have hcore : (s.setMe { s.me with cr := s.me.cr.write n v }).myCore.registers = s.myCore.registers :=
    State.registers_setMe ..
  exact ⟨rfl, rfl, by rw [State.me_setMe], ⟨rfl, rfl⟩, hw _ hcr, fun m h => State.creg_write_other v h hcr rfl hcore⟩

/-- A write of a register of the core, as a switch or not. -/
theorem State.writesCreg_core {s t : State} {n : BitVec 11} {w : Word} {c : Core} (hcores : t.cores = (s.setCore s.cur.core c).cores)
    (hnext : t.nextCore = s.nextCore) (hclock : t.clock = s.clock) (hcur : t.cur = s.cur) (hnpc : t.npc = s.npc) (hbytes : s.SameBytes t)
    (hslots : c.slots = s.myCore.slots) (hw : t.myCore = c → t.creg n = w) (h0 : n ≠ 0x028 → c.rmap0 = s.myCore.rmap0)
    (h1 : n ≠ 0x029 → c.rmap1 = s.myCore.rmap1) (h2 : n ≠ 0x051 → c.gdly = s.myCore.gdly) : s.WritesCreg t n w := by
  have hslot (u : Tid) : t.slot u = s.slot u := (State.slot_of_cores (s := s.setCore s.cur.core c) hcores hnext hclock u).trans (State.slot_setCore s _ c hslots u)
  have hme : t.me = s.me := by rw [State.me, hcur]; exact hslot s.cur
  have hcore : t.myCore = c := by
    rw [State.myCore, hcur, State.core, hcores, hnext, hclock]
    exact State.core_setCore_same s s.cur.core c
  exact ⟨hcur, hnpc, by rw [hme], hbytes, hw hcore, fun m h => State.creg_registers_other h (by rw [hme]) hcur (by rw [hcore]; exact h0) (by rw [hcore]; exact h1)
    (by rw [hcore]; exact h2)⟩

/-- An MTC's write puts the writable fields of its register into place (R110). -/
theorem State.writesCreg_setCreg (s : State) (v : Word) : ∀ p ∈ writableRegisters, s.WritesCreg (s.setCreg p.1 v) p.1 (v &&& p.2) := by
  simp only [writableRegisters, List.forall_mem_cons, List.not_mem_nil, false_implies, implies_true, and_true]
  exact ⟨State.writesCreg_slot rfl fun _ e => (congrArg (fun c : CRegs => zx c.fmta) e).trans (zx_field v 4),
    State.writesCreg_slot rfl fun _ e => (congrArg (fun c : CRegs => zx c.fmtb) e).trans (zx_field v 4),
    State.writesCreg_slot rfl fun _ e => (congrArg (fun c : CRegs => zx c.scla) e).trans (zx_field v 8),
    State.writesCreg_slot rfl fun _ e => (congrArg (fun c : CRegs => zx c.sclb) e).trans (zx_field v 8),
    State.writesCreg_slot rfl fun _ e => (congrArg (fun c : CRegs => zx c.nbv) e).trans (zx_field v 1),
    State.writesCreg_slot rfl fun _ e => (congrArg (fun c : CRegs => zx c.frm) e).trans (zx_field v 2),
    State.writesCreg_slot rfl fun _ e => (congrArg (fun c : CRegs => zx c.fflags) e).trans (zx_field v 6),
    State.writesCreg_slot rfl fun _ e => (congrArg (fun c : CRegs => zx c.fen) e).trans (zx_field v 6),
    State.writesCreg_slot rfl fun _ e => (congrArg (fun c : CRegs => zx (c.wsb ++ (0 : BitVec 7))) e).trans (zx_field_zeros v 7 11),
    State.writesCreg_slot rfl fun _ e => (congrArg (fun c : CRegs => zx (c.wsl ++ (0 : BitVec 7))) e).trans (zx_field_zeros v 7 11),
    State.writesCreg_slot rfl fun _ e => (congrArg (fun c : CRegs => zx (c.wsp ++ (0 : BitVec 7))) e).trans (zx_field_zeros v 7 11),
    State.writesCreg_core (c := { s.myCore with rmap0 := v }) rfl rfl rfl rfl rfl ⟨rfl, rfl⟩ rfl (fun e => (congrArg Core.rmap0 e).trans BitVec.and_allOnes.symm)
      (fun h => absurd rfl h) (fun _ => rfl) (fun _ => rfl),
    State.writesCreg_core (c := { s.myCore with rmap1 := v }) rfl rfl rfl rfl rfl ⟨rfl, rfl⟩ rfl (fun e => (congrArg Core.rmap1 e).trans BitVec.and_allOnes.symm)
      (fun _ => rfl) (fun h => absurd rfl h) (fun _ => rfl),
    State.writesCreg_slot rfl fun _ e => (congrArg (fun c : CRegs => zx c.sbtag) e).trans (zx_field v 3),
    State.writesCreg_slot rfl fun _ e => (congrArg CRegs.rngk e).trans BitVec.and_allOnes.symm,
    State.writesCreg_slot rfl fun _ e => (congrArg CRegs.rngc e).trans BitVec.and_allOnes.symm,
    State.writesCreg_slot rfl fun _ e => (congrArg CRegs.rngch e).trans BitVec.and_allOnes.symm,
    State.writesCreg_slot rfl fun _ e => (congrArg (fun c : CRegs => c.tvec ++ (0 : BitVec 6)) e).trans ((BitVec.setWidth_eq _).symm.trans (zx_field_zeros v 6 58)),
    State.writesCreg_slot rfl fun _ e => (congrArg (fun c : CRegs => c.epc ++ (0 : BitVec 1)) e).trans ((BitVec.setWidth_eq _).symm.trans (zx_field_zeros v 1 63)),
    State.writesCreg_slot rfl fun _ e => (congrArg CRegs.cause e).trans (cause_fields v),
    State.writesCreg_slot rfl fun _ e => (congrArg CRegs.tval e).trans BitVec.and_allOnes.symm,
    State.writesCreg_slot rfl fun _ e => (congrArg (fun c : CRegs => c.tpc2 ++ (0 : BitVec 1)) e).trans ((BitVec.setWidth_eq _).symm.trans (zx_field_zeros v 1 63)),
    State.writesCreg_slot rfl fun _ e => (congrArg (fun c : CRegs => c.wloop ++ (0 : BitVec 1)) e).trans ((BitVec.setWidth_eq _).symm.trans (zx_field_zeros v 1 63)),
    State.writesCreg_core (c := { s.myCore with gdly := v.extractLsb' 0 16 }) rfl rfl rfl rfl rfl ⟨rfl, rfl⟩ rfl
      (fun e => (congrArg (fun c : Core => zx c.gdly) e).trans (zx_field v 16)) (fun _ => rfl) (fun _ => rfl) (fun h => absurd rfl h)⟩


/-! ### MFC and MTC -/

/-- The same once the sources are popped and the thread goes on at NEXT. -/
theorem State.writesCreg_mtc (s : State) (r : SReg) (v : Word) {n : BitVec 11} {mask : Word} (hn : (n, mask) ∈ writableRegisters) :
    let t := ((s.pops [r] []).setCreg n v).retire
    t.me.pc = s.npc ∧ t.creg n = v &&& mask ∧ (∀ m, m ≠ n → t.creg m = s.creg m) ∧ t.me.regs = s.me.regs ∧ t.mem = s.mem ∧ t.tags = s.tags := by
  have hstill := State.still_pops s [r]
  have hreleased := State.released_pops s [r]
  have hcreg (m : BitVec 11) : (s.pops [r] []).creg m = s.creg m := by
    refine State.creg_congr hstill.cr hstill.cur ?_ m
    rw [State.myCore, hstill.cur]
    exact hreleased.registers s.cur.core
  obtain ⟨hcur, hnpc, hregs, hbytes, hwritten, hothers⟩ := State.writesCreg_setCreg (s.pops [r] []) v _ hn
  generalize (s.pops [r] []).setCreg n v = w at hcur hnpc hregs hbytes hwritten hothers
  have hretire (m : BitVec 11) : w.retire.creg m = w.creg m := by
    refine State.creg_congr (s := w) (t := w.retire) ?_ rfl (State.registers_setMe w _) m
    rw [State.retire, State.me_goto]
  refine ⟨?_, (hretire _).trans hwritten, fun m h => (hretire m).trans ((hothers m h).trans (hcreg m)), ?_, hbytes.1.trans hstill.bytes.1,
    hbytes.2.trans hstill.bytes.2⟩
  · rw [State.retire, State.me_goto, hnpc, hstill.npc]
  · rw [State.retire, State.me_goto, hregs, hstill.regs]

/-- Every register with writable fields exists, and is not read-only. -/
theorem known_of_writable : ∀ p ∈ writableRegisters, CReg.known p.1 = true ∧ cregReadOnly p.1 = false := by
  simp only [writableRegisters, List.forall_mem_cons, List.not_mem_nil, false_implies, implies_true, and_true]
  decide

theorem State.cregWait_false {s : State} (mtc : Bool) (n : BitVec 11) (h : s.raising s.cur = false) : s.cregWait mtc n = false := by
  rw [State.cregWait, h, Bool.and_false]

theorem exec_mtc_writable {s : State} (r : SReg) {n : BitVec 11} {mask : Word} (hn : (n, mask) ∈ writableRegisters) (hp : s.portsOpen [r] [] [] [] = true)
    (hr : s.raising s.cur = false) (hf : s.follows (cregOrder n) = false) (hw : 0x020 ≤ n.toNat → n.toNat ≤ 0x022 → s.windowBusy s.cur = false) :
    exec (.mtc r n) s = .next (((s.pops [r] []).setCreg n (s.rs r)).retire) := by
  obtain ⟨hknown, hro⟩ := known_of_writable _ hn
  have hbusy : (decide (0x020 ≤ n.toNat) && decide (n.toNat ≤ 0x022) && s.windowBusy s.cur) = false := by
    by_cases hlo : 0x020 ≤ n.toNat
    · by_cases hhi : n.toNat ≤ 0x022
      · rw [hw hlo hhi, Bool.and_false]
      · rw [decide_eq_false hhi, Bool.and_false, Bool.false_and]
    · rw [decide_eq_false hlo, Bool.false_and, Bool.false_and]
  simp only [exec_mtc, execMtc, hknown, State.cregWait_false true n hr, hro, State.ports_open s [r] [] [] [] hp, Res.bind_ok, hf, hbusy, Bool.not_true,
    Bool.false_eq_true, if_false, Res.finish_ok]

/-- Read-only registers are those that the statement lists. -/
theorem cregReadOnly_of {n : BitVec 11} (h : n.toNat ≤ 7 ∨ n = 0x045 ∨ n = 0x052) : CReg.known n = true ∧ cregReadOnly n = true ∧ n ≠ 0x016 ∧
    n ≠ 0x014 ∧ n ≠ 0x015 ∧ n ≠ 0x017 := by
  rcases h with h | rfl | rfl
  · have hne (k : BitVec 11) (hk : 7 < k.toNat) : n ≠ k := fun e => by subst e; omega
    refine ⟨?_, ?_, hne _ (by decide), hne _ (by decide), hne _ (by decide), hne _ (by decide)⟩
    · simp [CReg.known, h]
    · simp [cregReadOnly, h]
  · decide
  · decide

/-- Settles O12: MFC reads, and MTC writes, the control registers. -/
theorem controlRegisters : Obligations.control_registers := by
  unfold Obligations.control_registers
  refine ⟨⟨fun s d n hp hknown hraise => ?mfc, State.creg_values⟩, fun s r n mask hn hp hr hf hw => ?mtc, fun s r n h => ?readOnly, fun s r n h => ?unknown⟩
  case mfc =>
    have hwait : s.cregWait false n = false := by
      by_cases h16 : n = 0x016
      · exact State.cregWait_false false n (hraise h16)
      · rw [State.cregWait, beq_eq_false_iff_ne.mpr h16]; rfl
    constructor
    · intro hseen hfollows
      simp only [exec_mfc, execMfc, hknown, hwait, hseen, hfollows, State.ports_open s [] [d] [] [] hp, Res.keeping, Res.bind_ok, Res.finish_ok, Bool.not_true,
        Bool.and_false, Bool.false_eq_true, if_false, Option.getD_none]
    · intro v hseen
      simp only [exec_mfc, execMfc, hknown, hwait, hseen, State.ports_open s [] [d] [] [] hp, Res.keeping, Res.bind_ok, Res.finish_ok, Bool.not_true,
        Option.isNone_some, Bool.false_and, Bool.false_eq_true, if_false, Option.getD_some]
  case mtc => exact ⟨_, exec_mtc_writable r hn hp hr hf hw, State.writesCreg_mtc s r (s.rs r) hn⟩
  case readOnly =>
    obtain ⟨hknown, hro, h16, h14, h15, h17⟩ := cregReadOnly_of h
    have hwait : s.cregWait true n = false := by
      rw [State.cregWait, beq_eq_false_iff_ne.mpr h16, beq_eq_false_iff_ne.mpr h14, beq_eq_false_iff_ne.mpr h15, beq_eq_false_iff_ne.mpr h17]
      rfl
    simp only [exec_mtc, execMtc, hknown, hwait, hro, Bool.not_true, Bool.false_eq_true, if_false, if_true, Res.bind_trap, Res.finish_trap]
    rfl
  case unknown =>
    constructor
    · rw [exec_mtc, execMtc, h]; rfl
    · rw [exec_mfc, execMfc, h]; rfl

end Sys2Proof.Machine
end

section
/-!
PROOFS. ERET, with and without fills (07 R100, R102; 09 R147, R149).
-/

namespace Sys2Proof.Machine

/-! ### Leaving a trap (R149) -/

theorem State.me_leaveTrap (s : State) :
    s.leaveTrap.me = { s.me with
      st := .ready, await := .none, cont := none, pc := s.me.cr.epc ++ (0 : BitVec 1), src := s.me.pc, cr := { s.me.cr with intrap := false }
      regs := { s.me.regs with frame := .normal, older := s.me.regs.left - 2, left := 0 } } := by
  rw [State.leaveTrap, State.me_goto, State.me_trace, State.me_setMe]

theorem sameButSlot_leaveTrap (s : State) : SameButSlot s s.leaveTrap s.cur :=
  ((sameButSlot_setMe s _).trans (sameButSlot_trace ..)).trans (sameButSlot_goto ..)

/-- ERET from the trap frame of a handler leaves the trap once the fills are made. -/
theorem exec_eret_filled {s u : State} (hin : s.me.cr.intrap = true) (hframe : s.me.regs.frame = .trap) (hfill : s.eretFill = .ok () u) :
    exec .eret s = .next u.leaveTrap := by
  have htrap : s.inTrapFrame = true := by rw [State.inTrapFrame, hframe]; rfl
  rw [exec_eret, execEret, hin, htrap, hfill]
  rfl

theorem State.eretFill_resident {s : State} (h : 2 ≤ s.me.regs.left) : s.eretFill = .ok () s := by
  unfold State.eretFill
  dsimp only
  split
  next h0 => omega
  next h1 => omega
  next => rfl

/-! ### Fills (R100) -/

/-- In a machine at rest nothing stands in the way of a thread's access to the window stack in a region of its context. -/
theorem State.windowCheck_own {s : State} (h : s.Rests) {off : Nat} (ha : s.allocated s.cur.core off s.myCtx = true) (write : Bool) :
    s.windowCheck s.myAgent s.cur off write = .ok () s := by
  obtain ⟨-, hcopies, hdemands, hslots, hwp, -⟩ := (Core.calm_iff _).mp h.myCore_calm
  have hck : s.lsCheck (some s.cur.core) (s.ctxOf s.cur.core) false (BitVec.ofNat 64 off) s.cur.core off false = none := by
    rw [State.myCtx] at ha
    simp only [State.lsCheck, State.portRefuses, ha, Bool.not_true, Bool.false_eq_true, if_false, Bool.false_and, bne_self_eq_false]
  have ho : (s.slot s.cur).overlaps (lsHome s.cur.core off) 128 = false := by
    rw [Slot.overlaps, show (s.slot s.cur).outs = [] from h.outs]
    rfl
  have hu : s.unhold s.myAgent = s := State.unhold_none s _ (by simp [h.waiters])
  have hf := Core.forcedBy_none (s.core s.cur.core) (fun k hk => (hslots k hk).1)
  have hw := fun k rs hk => State.watch_none s s.cur.core 1 k rs s.myAgent (BitVec.ofNat 64 off) hwp hk
  cases write <;>
    simp [State.windowCheck, State.rawCheck, hck, ho, State.tokenHeld_none s _ _ _ hcopies, hu, State.comparators, Core.forced, hf,
      State.demand_none s _ _ hdemands, h.badTags, h.poison, hw]

/-- The words of the window stack that a fill of the k-th frame below c.wsp reads. -/
def State.stacked (s : State) (k i : Nat) : Word :=
  Memory.word s.mem (lsHome s.cur.core (128 * (s.me.cr.wsp - BitVec.ofNat 11 (k + 1)).toNat + 8 * i))

/-- The machine once an ERET has filled one group of the interrupted program. -/
def State.filled (s : State) (g : BitVec 2) : State := (s.fillWords g).setRegs (fun r => { r with left := r.left + 1 })

theorem State.me_filled (s : State) (g : BitVec 2) :
    (s.filled g).me = { s.me with
      regs := { s.me.regs.setRing (16 * g.toNat) ((List.range 16).map (s.stacked 0)) with left := s.me.regs.left + 1 }
      cr := { s.me.cr with wsp := s.me.cr.wsp - 1 } } := by
  have hwords : (List.range 16).map (fun k => Memory.word s.mem (lsHome s.cur.core s.me.fillOff + 8 * k)) = (List.range 16).map (s.stacked 0) := by
    refine List.map_congr_left fun k _ => ?_
    rw [State.stacked, Slot.fillOff, wsOff, Nat.mul_comm _ 128]
    simp only [lsHome, Nat.add_assoc]
    rfl
  rw [State.filled, State.me_setRegs, State.fillWords, State.me_setMe, hwords]
  generalize (List.range 16).map (s.stacked 0) = ws
  rfl

theorem sameButSlot_filled (s : State) (g : BitVec 2) : SameButSlot s (s.filled g) s.cur :=
  (sameButSlot_setMe s _).trans (sameButSlot_setRegs ..)

theorem State.fill_own {s : State} (h : s.Rests) (g : BitVec 2) (hne : s.me.cr.wsp ≠ s.me.cr.wsb)
    (ha : s.allocated s.cur.core (128 * (s.me.cr.wsp - 1).toNat) s.myCtx = true) : s.fill g = .ok () (s.fillWords g) := by
  have hoff : s.me.fillOff = 128 * (s.me.cr.wsp - 1).toNat := Nat.mul_comm ..
  rw [State.fill, State.fillCheck, if_neg (by rw [beq_iff_eq]; exact hne), hoff, State.windowCheck_own h ha]
  rfl

theorem State.cur_filled (s : State) (g : BitVec 2) : (s.filled g).cur = s.cur := rfl

theorem State.allocated_setMe (s : State) (x : Slot) (off : Nat) :
    (s.setMe x).allocated (s.setMe x).cur.core off (s.setMe x).myCtx = s.allocated s.cur.core off s.myCtx := by
  have hcore : (s.setMe x).core (s.setMe x).cur.core = (s.core s.cur.core).setSlot s.cur.slot x := State.core_setSlot s s.cur x
  rw [State.allocated, State.allocated, State.myCtx, State.ctxOf, hcore]
  rfl

theorem State.allocated_filled (s : State) (g : BitVec 2) (off : Nat) :
    (s.filled g).allocated (s.filled g).cur.core off (s.filled g).myCtx = s.allocated s.cur.core off s.myCtx :=
  (State.allocated_setMe (s.fillWords g) _ off).trans (State.allocated_setMe s _ off)

theorem State.Rests.blanks {s : State} (h : s.Rests) : s.me.blanks = [] := by
  obtain ⟨-, -, -, hslots, -⟩ := (Core.calm_iff _).mp h.myCore_calm
  exact (hslots s.cur.slot (mem_slotNums _)).1

theorem State.Rests.setRegs {s : State} (h : s.Rests) (f : Regs → Regs) : (s.setRegs f).Rests := h.setMe h.blanks h.outs

theorem State.Rests.fillWords {s : State} (h : s.Rests) (g : BitVec 2) : (s.fillWords g).Rests := by
  unfold State.fillWords
  exact h.setMe h.blanks h.outs

theorem State.rests_filled {s : State} (h : s.Rests) (g : BitVec 2) : (s.filled g).Rests := (h.fillWords g).setRegs _

/-- A frame that the window stack holds, in a region of the context (R100). -/
def State.holdsFrame (s : State) : Prop := s.me.cr.wsp ≠ s.me.cr.wsb ∧ s.allocated s.cur.core (128 * (s.me.cr.wsp - 1).toNat) s.myCtx = true

/-- ERET fills the interrupted frame when the pass group alone is resident. -/
theorem State.eretFill_one {s : State} (h : s.Rests) (hleft : s.me.regs.left = 1) (hf : s.holdsFrame) : s.eretFill = .ok () (s.filled s.me.regs.cur) := by
  obtain ⟨hne, ha⟩ := hf
  simp only [State.eretFill, hleft, State.fill_own h _ hne ha]
  rfl

/-- ERET fills the pass group and then the interrupted frame when neither is resident. -/
theorem State.eretFill_two {s : State} (h : s.Rests) (hleft : s.me.regs.left = 0) (hf : s.holdsFrame) (hf' : (s.filled (s.me.regs.cur + 1)).holdsFrame) :
    s.eretFill = .ok () ((s.filled (s.me.regs.cur + 1)).filled s.me.regs.cur) := by
  obtain ⟨hne, ha⟩ := hf
  obtain ⟨hne', ha'⟩ := hf'
  have hsecond := State.fill_own (State.rests_filled h (s.me.regs.cur + 1)) s.me.regs.cur hne' ha'
  simp only [State.eretFill, hleft, State.fill_own h _ hne ha, Res.bind_ok]
  rw [State.filled] at hsecond
  rw [hsecond]
  rfl


/-! ### The ring after fills -/

/-- A group of the ring after one group has been replaced. -/
theorem Regs.group_setRing (r : Regs) (g k : BitVec 2) {vs : List Word} (hvs : vs.length = 16) {i : Nat} (hi : i < 16) :
    (r.setRing (16 * g.toNat) vs).ring[16 * k.toNat + i]? = if k = g then vs[i]? else r.ring[16 * k.toNat + i]? := by
  have hg := g.isLt
  have hk := k.isLt
  rw [Regs.ring_setRing r _ vs _ (by omega), hvs]
  by_cases h : k = g
  · rw [if_pos h, h, if_pos (by omega), Nat.add_sub_cancel_left]
  · have hne : k.toNat ≠ g.toNat := fun e => h (BitVec.eq_of_toNat_eq e)
    rw [if_neg h, if_neg (by omega)]

theorem State.ring_filled (s : State) (g k : BitVec 2) {i : Nat} (hi : i < 16) :
    (s.filled g).me.regs.ring[16 * k.toNat + i]? = if k = g then some (s.stacked 0 i) else s.me.regs.ring[16 * k.toNat + i]? := by
  have hword : ((List.range 16).map (s.stacked 0))[i]? = some (s.stacked 0 i) := by
    rw [List.getElem?_map, List.getElem?_range hi, Option.map_some]
  have hgroup := Regs.group_setRing s.me.regs g k (vs := (List.range 16).map (s.stacked 0)) (by rw [List.length_map, List.length_range]) hi
  rw [hword] at hgroup
  rw [State.me_filled]
  exact hgroup

/-- Nothing but the ring and c.wsp changes in a fill of an ERET. -/
theorem State.regs_filled (s : State) (g : BitVec 2) :
    let r := (s.filled g).me.regs
    r.left = s.me.regs.left + 1 ∧ r.cur = s.me.regs.cur ∧ r.common = s.me.regs.common ∧ r.vec = s.me.regs.vec ∧ r.desc = s.me.regs.desc := by
  rw [State.me_filled]
  generalize (List.range 16).map (s.stacked 0) = ws
  exact ⟨rfl, rfl, rfl, rfl, rfl⟩

theorem State.cr_filled (s : State) (g : BitVec 2) : (s.filled g).me.cr = { s.me.cr with wsp := s.me.cr.wsp - 1 } := by rw [State.me_filled]

/-- After one fill, the frame on top of the window stack is the second of before. -/
theorem State.stacked_filled (s : State) (g : BitVec 2) (i : Nat) : (s.filled g).stacked 0 i = s.stacked 1 i := by
  have hwsp : s.me.cr.wsp - 1 - BitVec.ofNat 11 (0 + 1) = s.me.cr.wsp - BitVec.ofNat 11 (1 + 1) := by bv_omega
  rw [State.stacked, State.stacked, State.cr_filled, State.cur_filled]
  dsimp only
  rw [hwsp]
  rfl

theorem group_ne_next (g : BitVec 2) : g + 1 ≠ g := by revert g; decide

/-- What an ERET that needs fills leaves, by what the fills leave. -/
theorem eret_leaves {s u : State} {n : Nat} (hfill : s.eretFill = .ok () u) (hin : s.me.cr.intrap = true) (hframe : s.me.regs.frame = .trap)
    (hcr : u.me.cr = { s.me.cr with wsp := s.me.cr.wsp - BitVec.ofNat 11 n }) (hleft : u.me.regs.left = 2) (hsame : SameButSlot s u s.cur) :
    ∃ t, exec .eret s = .next t ∧ t.me.pc = BitVec.ofNat 64 (2 * s.me.cr.epc.toNat) ∧
      t.me.cr = { s.me.cr with intrap := false, wsp := s.me.cr.wsp - BitVec.ofNat 11 n } ∧
      t.me.regs = { u.me.regs with frame := .normal, older := 0, left := 0 } ∧ SameButSlot s t s.cur := by
  have hcur : u.cur = s.cur := hsame.1
  refine ⟨_, exec_eret_filled hin hframe hfill, ?_, ?_, ?_, hsame.trans (hcur ▸ sameButSlot_leaveTrap u)⟩
  · rw [State.me_leaveTrap, hcr]; exact append_zeros (k := 1) _
  · rw [State.me_leaveTrap, hcr]
  · rw [State.me_leaveTrap, hleft]

/-! ### Trap entry and an immediate ERET -/

theorem State.slot_enterTrap (s : State) (u : Tid) (i : TrapInfo) (epc pc2 : Word) (late defer : Bool) :
    let x := (s.enterTrap u i epc pc2 late defer).slot u
    x.cr.intrap = true ∧ x.cr.epc = epc.extractLsb' 1 63 ∧ x.regs = { (s.slot u).regs with frame := .trap, left := 2 + (s.slot u).regs.older } := by
  rw [State.enterTrap, State.slot_setSlot_same]
  exact ⟨rfl, rfl, rfl⟩

/-- The half of an address, doubled, is the address without bit 0. -/
theorem half_doubled (a : Word) : a.extractLsb' 1 63 ++ (0 : BitVec 1) = a &&& ~~~(1 : Word) :=
  (BitVec.setWidth_eq _).symm.trans (zx_field_zeros a 1 63)

/-- Settles O11: ERET returns from a trap, with the fills that it needs. -/
theorem trapReturn : Obligations.trap_return := by
  unfold Obligations.trap_return
  refine ⟨⟨fun s hin hframe hleft => ?resident, fun s n hin hframe hleft hn hcalm hstack => ?fills, fun s h => ?illegal, fun s hframe => ?ret⟩,
    fun s i epc pc2 late defer hin hvec hcls hframe hleft => ?entry⟩
  case resident =>
    refine ⟨_, exec_eret_filled hin hframe (State.eretFill_resident hleft), ?_, ?_, ?_, sameButSlot_leaveTrap s⟩
    · rw [State.me_leaveTrap]; exact append_zeros (k := 1) _
    · rw [State.me_leaveTrap]
    · rw [State.me_leaveTrap]
  case fills =>
    intro stacked
    obtain ⟨hrest, -, -⟩ := State.rests_of_calm hcalm
    have hfirst : s.holdsFrame := by
      obtain ⟨hne, ha⟩ := hstack 0 (by omega)
      exact ⟨fun e => hne (by rw [← e]; exact BitVec.sub_zero _), ha⟩
    have hnext := group_ne_next s.me.regs.cur
    rcases (by omega : s.me.regs.left = 1 ∨ s.me.regs.left = 0) with hl | hl
    · obtain rfl : n = 1 := by omega
      obtain ⟨hleft', hcur, hcommon, hvec, hdesc⟩ := State.regs_filled s s.me.regs.cur
      obtain ⟨t, ht, hpc, hcr, hregs, hsame⟩ := eret_leaves (n := 1) (State.eretFill_one hrest hl hfirst) hin hframe (State.cr_filled ..) (by omega)
        (sameButSlot_filled ..)
      refine ⟨t, ht, hpc, hcr, by rw [hregs], by rw [hregs], by rw [hregs], by rw [hregs]; exact hcur, by rw [hregs]; exact hcommon,
        by rw [hregs]; exact hvec, by rw [hregs]; exact hdesc, fun i hi => ⟨?_, ?_⟩, fun i hi g hg _ => ?_, hsame⟩
      · rw [hregs]; exact (State.ring_filled s _ _ hi).trans (if_pos rfl)
      · rw [hregs]; exact ((State.ring_filled s _ _ hi).trans (if_neg hnext)).trans (if_neg (by decide)).symm
      · rw [hregs]; exact (State.ring_filled s _ _ hi).trans (if_neg hg)
    · obtain rfl : n = 2 := by omega
      obtain ⟨hleft1, hcur1, hcommon1, hvec1, hdesc1⟩ := State.regs_filled s (s.me.regs.cur + 1)
      have hcr1 := State.cr_filled s (s.me.regs.cur + 1)
      have hsame1 := sameButSlot_filled s (s.me.regs.cur + 1)
      have hstacked1 := State.stacked_filled s (s.me.regs.cur + 1)
      have hring1 := fun k i hi => State.ring_filled s (s.me.regs.cur + 1) k (i := i) hi
      have hwsp : s.me.cr.wsp - 1 - 1 = s.me.cr.wsp - BitVec.ofNat 11 2 := by bv_omega
      have hsecond : (s.filled (s.me.regs.cur + 1)).holdsFrame := by
        obtain ⟨hne, ha⟩ := hstack 1 (by omega)
        rw [State.holdsFrame, State.allocated_filled, hcr1]
        exact ⟨hne, by rw [hwsp]; exact ha⟩
      have hfill := State.eretFill_two hrest hl hfirst hsecond
      generalize s.filled (s.me.regs.cur + 1) = w at *
      obtain ⟨hleft2, hcur2, hcommon2, hvec2, hdesc2⟩ := State.regs_filled w s.me.regs.cur
      have hsame2 := sameButSlot_filled w s.me.regs.cur
      obtain ⟨t, ht, hpc, hcr, hregs, hsame⟩ := eret_leaves (n := 2) hfill hin hframe (by rw [State.cr_filled, hcr1, ← hwsp]) (by omega)
        (hsame1.trans (hsame1.1 ▸ hsame2))
      refine ⟨t, ht, hpc, hcr, by rw [hregs], by rw [hregs], by rw [hregs], by rw [hregs]; exact hcur2.trans hcur1, by rw [hregs]; exact hcommon2.trans hcommon1,
        by rw [hregs]; exact hvec2.trans hvec1, by rw [hregs]; exact hdesc2.trans hdesc1, fun i hi => ⟨?_, ?_⟩, fun i hi g hg hg' => ?_, hsame⟩
      · rw [hregs]; exact ((State.ring_filled w _ _ hi).trans (if_pos rfl)).trans (congrArg some (hstacked1 i))
      · rw [hregs]; exact (((State.ring_filled w _ _ hi).trans (if_neg hnext)).trans ((hring1 _ i hi).trans (if_pos rfl))).trans (if_pos rfl).symm
      · rw [hregs]; exact ((State.ring_filled w _ _ hi).trans (if_neg hg)).trans ((hring1 _ i hi).trans (if_neg hg'))
  case illegal =>
    have hcheck : (!s.me.cr.intrap || !s.inTrapFrame) = true := by
      rw [Bool.or_eq_true, Bool.not_eq_true', Bool.not_eq_true', State.inTrapFrame, beq_eq_false_iff_ne]
      exact h
    rw [exec_eret, execEret, hcheck]
    rfl
  case ret =>
    have htrap : s.inTrapFrame = true := by rw [State.inTrapFrame, hframe]; rfl
    rw [exec_ret, execRet, htrap]
    rfl
  case entry =>
    rw [State.takeTrap_enters epc pc2 late defer hin hvec hcls]
    have hme : (s.enterTrap s.cur i epc pc2 late defer).slot s.cur = (s.enterTrap s.cur i epc pc2 late defer).me := rfl
    obtain ⟨hintrap, hepc, hregs⟩ := State.slot_enterTrap s s.cur i epc pc2 late defer
    rw [hme] at hintrap hepc hregs
    refine ⟨_, exec_eret_filled hintrap (by rw [hregs]) (State.eretFill_resident (by rw [hregs]; exact Nat.le_add_right 2 _)), ?_, ?_, ?_, ?_⟩
    · rw [State.me_leaveTrap, hepc]; exact half_doubled epc
    · rw [State.me_leaveTrap, hregs, ← hframe, ← hleft, Nat.add_sub_cancel_left]
      rfl
    · rw [State.me_leaveTrap]
    · obtain ⟨-, hmem, -⟩ := sameButSlot_leaveTrap (s.enterTrap s.cur i epc pc2 late defer)
      exact hmem

end Sys2Proof.Machine
end

section
/-!
PROOFS. The laws of memory: the canonical form, and what a byte reads as after a write (07 R112, 10 R154).
-/

namespace Sys2Proof.Machine

/-! ### One data for one contents -/

theorem SMap.find_eq_none_of_lt {α : Type} {m : SMap α} {k : Nat} (h : ∀ p ∈ m, k < p.1) : SMap.find m k = none := by
  induction m with
  | nil => rfl
  | cons p m ih =>
    obtain ⟨hp, hm⟩ := List.forall_mem_cons.mp h
    rw [SMap.find, if_neg (Nat.ne_of_gt hp)]
    exact ih hm

/-- A map with rising keys is what its lookups say it is. -/
theorem SMap.ext_find {α : Type} {m n : SMap α} (hm : SMap.sorted m = true) (hn : SMap.sorted n = true)
    (h : ∀ k, SMap.find m k = SMap.find n k) : m = n := by
  induction m generalizing n with
  | nil =>
    cases n with
    | nil => rfl
    | cons q n => exact absurd (h q.1) (by simp [SMap.find])
  | cons p m ih =>
    cases n with
    | nil => exact absurd (h p.1) (by simp [SMap.find])
    | cons q n =>
      obtain ⟨j, v⟩ := p
      obtain ⟨k, w⟩ := q
      obtain ⟨hj, hm'⟩ := SMap.sorted_cons.mp hm
      obtain ⟨hk, hn'⟩ := SMap.sorted_cons.mp hn
      have hjk : j = k := by
        rcases Nat.lt_trichotomy j k with hlt | heq | hgt
        · have hnone : SMap.find n j = none := SMap.find_eq_none_of_lt fun p hp => Nat.lt_trans hlt (hk p hp)
          exact absurd (h j) (by simp [SMap.find, hnone, Nat.ne_of_gt hlt])
        · exact heq
        · have hnone : SMap.find m k = none := SMap.find_eq_none_of_lt fun p hp => Nat.lt_trans hgt (hj p hp)
          exact absurd (h k) (by simp [SMap.find, hnone, Nat.ne_of_gt hgt])
      subst hjk
      have hvw : v = w := by simpa [SMap.find] using h j
      subst hvw
      refine congrArg _ (ih hm' hn' fun i => ?_)
      by_cases hi : j = i
      · subst hi
        rw [SMap.find_eq_none_of_lt hj, SMap.find_eq_none_of_lt hk]
      · simpa [SMap.find, hi] using h i

/-- In the canonical form no key is listed with the value that an unlisted key reads as, so a key is unlisted exactly where it reads as that value. -/
theorem SMap.find_eq_of_wf {α : Type} [DecidableEq α] {m : SMap α} {d : α} (h : SMap.wf d m = true) (k : Nat) :
    SMap.find m k = if SMap.getD m k d = d then none else some (SMap.getD m k d) := by
  cases hf : SMap.find m k with
  | none => simp [SMap.getD, hf]
  | some v =>
    have hv : v ≠ d := ((SMap.wf_iff d m).mp h).2 _ (SMap.mem_of_find hf)
    simp [SMap.getD, hf, hv]

theorem Memory.ext_byte {m n : List Host.Cell} (hm : Memory.wf m = true) (hn : Memory.wf n = true)
    (h : ∀ a, Memory.byte m a = Memory.byte n a) : m = n := by
  refine SMap.ext_find ((SMap.wf_iff _ _).mp hm).1 ((SMap.wf_iff _ _).mp hn).1 fun k => ?_
  have hk : SMap.getD m k unlistedByte = SMap.getD n k unlistedByte := h k
  rw [SMap.find_eq_of_wf hm, SMap.find_eq_of_wf hn, hk]

/-! ### A byte after a write -/

theorem Memory.byte_writeN (m : List Host.Cell) (a v be n b : Nat) :
    Memory.byte (Memory.writeN m a v be n) b =
      if a ≤ b ∧ b < a + n ∧ be / 2 ^ (b - a) % 2 = 1 then BitVec.ofNat 8 (v / 256 ^ (b - a)) else Memory.byte m b := by
  by_cases hb : a ≤ b ∧ b < a + n
  · obtain ⟨k, rfl⟩ := Nat.exists_eq_add_of_le hb.1
    rw [Memory.byte_writeN_inside n m a v be k (by omega), Nat.add_sub_cancel_left]
    simp [hb]
  · rw [Memory.byte_writeN_outside n m a v be b (by omega), if_neg fun h => hb ⟨h.1, h.2.1⟩]

/-- Settles O20: writes keep the canonical form (Memory.wf_writeN), a byte reads as last written (Memory.byte_writeN), and the canonical form of a contents
is one (Memory.ext_byte). -/
theorem memoryLaws : Obligations.memory_laws :=
  ⟨fun _ a v be n h => Memory.wf_writeN n a v be h, Memory.byte_writeN, fun _ _ => Memory.ext_byte⟩

end Sys2Proof.Machine
end

section
/-!
PROOFS. The one canonical form of bytes and tags under every operation of the model (10 R154; log entry 3). One lemma stands for each operation, in the order
of the model's files, under the operation's name: in State.memOk where it gives a state, in Res.All where it is a part of an instruction, in Out3.MemOk where
it is a whole one. Each follows the shape of its operation.
-/

namespace Sys2Proof.Machine

/-! ### What ends in a canonical state -/

/-- The outcome of an instruction, where it is a next state, is canonical. -/
def Out3.MemOk (r : Out3) : Prop := ∀ t, r = .next t → t.memOk

theorem Out3.MemOk.next {s : State} (h : s.memOk) : Out3.MemOk (.next s) := fun t e => by cases e; exact h

theorem Out3.MemOk.fault {f : Fault} : Out3.MemOk (.fault f) := fun t e => by cases e

theorem Out3.MemOk.finish {r : Res Unit} (h : r.All State.memOk) : Out3.MemOk r.finish := fun _ e => Res.memOk_finish h e

theorem Out3.MemOk.ite {c : Prop} [Decidable c] {r q : Out3} (h : Out3.MemOk r) (k : Out3.MemOk q) : Out3.MemOk (if c then r else q) := by
  split <;> assumption

theorem Res.All.ite {α : Type} {c : Prop} [Decidable c] {r q : Res α} (h : r.All State.memOk) (k : q.All State.memOk) :
    (if c then r else q).All State.memOk :=
  Res.all_ite c h k

theorem Res.All.bind {α β : Type} {r : Res α} {f : α → State → Res β} (h : r.All State.memOk) (hf : ∀ a s, s.memOk → (f a s).All State.memOk) :
    (r.bind f).All State.memOk :=
  Res.all_bind h hf

/-- Where only other parts of the state differ, the canonical form does not. -/
theorem State.memOk.same {s t : State} (h : s.memOk) (e : s.SameBytes t) : t.memOk := State.memOk_of_same e h

theorem State.memOk.ite {c : Prop} [Decidable c] {s t : State} (h : s.memOk) (k : t.memOk) : (if c then s else t).memOk := iteKeeps c h k

theorem State.memOk.foldl {β : Type} {f : State → β → State} {bs : List β} {s : State} (hf : ∀ s b, s.memOk → (f s b).memOk) (h : s.memOk) :
    (bs.foldl f s).memOk :=
  State.foldl_keeps f hf bs h

/-! ### The state that a part of an instruction was seen to end in -/

section
variable {α : Type} {r : Res α} {u : State}

theorem State.memOk.of_ok {a : α} (e : r = .ok a u) (h : r.All State.memOk) : u.memOk := by subst e; exact h

theorem State.memOk.of_trap {i : TrapInfo} (e : r = .trap i u) (h : r.All State.memOk) : u.memOk := by subst e; exact h

theorem State.memOk.of_park {w : Await} (e : r = .park w u) (h : r.All State.memOk) : u.memOk := by subst e; exact h

theorem State.memOk.of_done (e : r = .done u) (h : r.All State.memOk) : u.memOk := by subst e; exact h

end

theorem State.memOk.of_next {r : Out3} {u : State} (e : r = .next u) (h : Out3.MemOk r) : u.memOk := h u e

theorem State.memOk.ite_fst {α : Type} {c : Prop} [Decidable c] {p q : State × α} (h : p.1.memOk) (k : q.1.memOk) : (if c then p else q).1.memOk := by
  split <;> assumption

theorem State.memOk.ite_snd {α : Type} {c : Prop} [Decidable c] {p q : α × State} (h : p.2.memOk) (k : q.2.memOk) : (if c then p else q).2.memOk := by
  split <;> assumption

/-! ### The accesses of the laws of the canonical form, as the lemmas below name them -/

section
variable {s : State} {ag : Agent} {core home : Nat} {ctx : BitVec 8} {a : Acc}

theorem State.memOk.precise {i : TrapInfo} (h : s.memOk) : (s.precise i).memOk := State.memOk_precise i h

theorem State.memOk.writeBytes {v be n : Nat} (h : s.memOk) : (s.writeBytes home v be n).memOk := State.memOk_writeBytes home v be n h

theorem Res.All.ordinary (h : s.memOk) : (s.ordinary a).All State.memOk := State.memOk_ordinary a h

theorem Res.All.lsPerform {e second : Bool} (h : s.memOk) : (s.lsPerform ag core home a e second).All State.memOk :=
  State.memOk_lsPerform ag core home a e second h

theorem Res.All.farPerform {f : Bool} (h : s.memOk) : (s.farPerform ag core ctx home a f).All State.memOk :=
  State.memOk_farPerform ag core ctx home a f h

theorem Res.All.perform {e second : Bool} (h : s.memOk) : (s.perform ag core ctx home a e second).All State.memOk :=
  State.memOk_perform ag core ctx home a e second h

end

section
variable {n u kind code k core acc home off fn fuel id len ent : Nat} {v pc va addr : Word} {slot sc rm : BitVec 3} {multi rx signed : Bool}
variable {c d b : SReg} {srcs dsts : List SReg} {a : Acc} {ag : Agent} {w : Await} {z : BitVec 1} {mk : BitVec 4} {ctx : BitVec 8} {j : DumpJob}
variable {e : Entry} {g : Gang} {p : GangCore} {l : Launch} {cs : List (BitVec 8)} {x : List (Nat × Acc)} {vsrcs : List VReg} {m : Msg} {r : Replay}
variable {s : State} {t : Tid} {i : TrapInfo}

/-! ### The reset state -/

theorem State.memOk.reset : State.reset.memOk := ⟨rfl, rfl⟩

/-! ### The state's operations -/

theorem State.memOk.setCore {c : Core} (h : s.memOk) : (s.setCore n c).memOk := h

theorem State.memOk.setSlot {x : Slot} (h : s.memOk) : (s.setSlot t x).memOk := h

theorem State.memOk.setMe {x : Slot} (h : s.memOk) : (s.setMe x).memOk := h

theorem State.memOk.setGang (h : s.memOk) : (s.setGang g).memOk := h

theorem State.memOk.setLaunch (h : s.memOk) : (s.setLaunch l).memOk := h

theorem State.memOk.setJoin {j : JoinUnit} (h : s.memOk) : (s.setJoin u j).memOk := h

theorem State.memOk.post {e : Event} (h : s.memOk) : (s.post e).memOk :=
  State.memOk_of_same (State.sameBytes_post ..) h

theorem State.memOk.timer {unit at_ : Nat} {e : Event} (h : s.memOk) : (s.timer unit at_ e).memOk := h

theorem State.memOk.rouse (h : s.memOk) : (s.rouse n).memOk :=
  State.memOk_of_same (State.sameBytes_rouse ..) h

theorem State.memOk.urge {gated : Bool} (h : s.memOk) : (s.urge t gated).memOk :=
  State.memOk_of_same (State.sameBytes_urge ..) h

theorem State.memOk.wake (h : s.memOk) : (s.wake t).memOk := State.memOk_of_same (State.sameBytes_wake ..) h

theorem State.memOk.wakeAtBank (h : s.memOk) : (s.wakeAtBank t).memOk := .ite (.wake h) (.urge (.wake h))

theorem State.memOk.wakeCore {p : Await → Bool} (h : s.memOk) : (s.wakeCore n p).memOk :=
  State.memOk_of_same (State.sameBytes_wakeCore ..) h

theorem State.memOk.wakeOrder (h : s.memOk) : (s.wakeOrder n).memOk := .wakeCore h

theorem State.memOk.wakeRoutes (h : s.memOk) : s.wakeRoutes.memOk := .foldl (fun _ _ h1 => .wakeCore h1) h

theorem State.memOk.park (h : s.memOk) : (s.park w).memOk := h

theorem State.memOk.setCont {c : Cont} (h : s.memOk) : (s.setCont c).memOk := h

theorem State.memOk.pushScalar (h : s.memOk) : (s.pushScalar t v).memOk := .ite (.wake (.rouse h)) (.rouse h)

theorem State.memOk.pushVector {v : Line} (h : s.memOk) : (s.pushVector t v).memOk :=
  .ite (.wake (.rouse h)) (.rouse h)

theorem State.memOk.wakeProducer {p : Option Tid} (h : s.memOk) : (s.wakeProducer p w).memOk := by
  unfold State.wakeProducer
  split
  · exact .ite (.wake h) h
  · exact h

theorem State.memOk.popScalar (h : s.memOk) : (s.popScalar t).memOk := .wakeProducer h

theorem State.memOk.popVector (h : s.memOk) : (s.popVector t).memOk := .wakeProducer h

theorem State.memOk.writeS {n : SReg} (h : s.memOk) : (s.writeS t n v).memOk := by
  unfold State.writeS
  dsimp only
  split
  · exact .pushScalar h
  · exact h

theorem State.memOk.ws {n : SReg} (h : s.memOk) : (s.ws n v).memOk := .writeS h

theorem State.memOk.wv {n : VReg} {v : Line} (h : s.memOk) : (s.wv n v).memOk := .ite (.pushVector h) h

theorem State.memOk.wd {n : DReg} {v : BitVec 256} (h : s.memOk) : (s.wd n v).memOk := h

theorem State.memOk.trace {ta : Word} (h : s.memOk) : (s.trace kind code pc ta).memOk := h

theorem State.memOk.traceAt {ta : Word} (h : s.memOk) : (s.traceAt t kind code pc ta).memOk := h

theorem State.memOk.traceIssue {ta : Word} (h : s.memOk) : (s.traceIssue t kind code pc ta).memOk := h

theorem State.memOk.goto (h : s.memOk) : (s.goto pc).memOk := h

theorem State.memOk.retire (h : s.memOk) : s.retire.memOk := h

theorem State.memOk.jump (h : s.memOk) : (s.jump pc).memOk := h

theorem State.memOk.dropRequests {p : Agent → Bool} (h : s.memOk) : (s.dropRequests p).memOk := h

theorem State.memOk.settle (h : s.memOk) : (s.settle ag).memOk :=
  State.memOk_of_same (State.sameBytes_settle ..) h

theorem State.memOk.fatal {epc : Word} (h : s.memOk) : (s.fatal t i epc).memOk :=
  State.memOk_of_same (State.fatal_mem_tags ..) h

theorem State.memOk.takeTrap {epc pc2 : Word} {late defer : Bool} (h : s.memOk) : (s.takeTrap t i epc pc2 late defer).memOk :=
  State.memOk_of_same (State.takeTrap_mem_tags ..) h

theorem Res.All.keeping {α : Type} {r : Res α} {f : State → State} (h : r.All State.memOk) (hf : ∀ u, u.memOk → (f u).memOk) :
    (r.keeping f).All State.memOk := by
  cases r with
  | park w s => exact hf s h
  | ok a s => exact h
  | trap i s => exact h
  | done s => exact h

theorem Res.All.ports {vdsts : List VReg} (h : s.memOk) : (s.ports srcs dsts vsrcs vdsts).All State.memOk :=
  .ite h (.ite h (.ite h (.ite h (.ite h (.ite h (.ite h (.ite h h)))))))

theorem State.memOk.pops (h : s.memOk) : (s.pops srcs vsrcs).memOk :=
  .ite (.popVector (.ite (.popScalar h) h)) (.ite (.popScalar h) h)

/-! ### Keys and counts of the links -/

theorem State.memOk.setLineKey {line : Nat} {k : Option WorkKeys} (h : s.memOk) : (s.setLineKey line k).memOk :=
  h

theorem State.memOk.failLater {report : Bool} {last : TearEnd} (h : s.memOk) : (s.failLater cs report last).memOk :=
  h

theorem State.memOk.exhausted (h : s.memOk) : (s.exhausted ctx).memOk :=
  State.memOk_of_same (State.sameBytes_exhausted ..) h

theorem State.memOk.transmit {sender : Nat} (h : s.memOk) : (s.transmit sender m).memOk :=
  State.memOk_of_same (State.sameBytes_transmit ..) h

theorem State.memOk.transmitAll {sender : Nat} {ms : List Msg} (h : s.memOk) : (s.transmitAll sender ms).memOk :=
  State.memOk_of_same (State.sameBytes_transmitAll ..) h

/-! ### Translation -/

theorem State.memOk.joinWalk {die quad : Nat} {a : Agent} {k : BitVec 3} (h : s.memOk) : (s.joinWalk die quad a ctx va k).memOk :=
  State.memOk_of_same (State.joinWalk_mem_tags ..) h

/-! ### Accesses -/

theorem Res.All.precheck {aper : Bool} {kind : BitVec 3} (h : s.memOk) : (s.precheck ag core ctx aper a kind).All State.memOk :=
  Res.all_mono (State.precheck_mem_tags ..) fun _ e => State.memOk_of_same e h

theorem State.memOk.wakeRange {lo hi : Nat} (h : s.memOk) : (s.wakeRange lo hi).memOk := h

theorem Res.All.pause (h : s.memOk) : s.pause.All State.memOk := .post h

theorem State.memOk.raiseStop {dom : BitVec 3} {src : Word} (h : s.memOk) : (s.raiseStop k dom ctx src addr).memOk :=
  State.memOk_of_same (State.sameBytes_raiseStop ..) h

theorem State.memOk.watch {space : Nat} {rs : List (Nat × Nat)} (h : s.memOk) : (s.watch k space kind rs ag addr).1.memOk :=
  State.memOk_of_same (State.watch_mem_tags ..) h

theorem State.memOk.setItem {i : OutItem} (h : s.memOk) : (s.setItem t acc i).memOk := h

theorem State.memOk.enter {onTag onWrite watchdog : Bool} (h : s.memOk) : (s.enter ag core n home onTag onWrite watchdog w).2.memOk :=
  State.memOk_of_same (State.enter_mem_tags ..) h

theorem State.memOk.leave (h : s.memOk) : (s.leave ag).memOk := h

theorem Res.All.letIn (h : s.memOk) : (s.letIn ag n off kind a).All State.memOk :=
  Res.all_mono (State.letIn_mem_tags ..) fun _ e => State.memOk_of_same e h

theorem State.memOk.holdOn (h : s.memOk) : (s.holdOn ag home).memOk :=
  State.memOk_of_same (State.sameBytes_holdOn ..) h

theorem State.memOk.unhold (h : s.memOk) : (s.unhold ag).memOk :=
  State.memOk_of_same (State.sameBytes_unhold ..) h

theorem Res.All.demand {bs : List (BitVec 3 × Nat × Nat)} (h : s.memOk) : (s.demand ag n bs).All State.memOk :=
  Res.all_mono (State.demand_mem_tags ..) fun _ e => State.memOk_of_same e h

theorem Res.All.comparators {lo hi : Nat} {write : Bool} {except_ : Option (BitVec 3)} (h : s.memOk) :
    (s.comparators ag n lo hi write except_).All State.memOk := .demand h

theorem Res.All.lsHold {engine : Bool} (h : s.memOk) : (s.lsHold ag core home a engine).All State.memOk :=
  Res.all_mono (State.lsHold_mem_tags ..) fun _ e => State.memOk_of_same e h

/-! ### The fetch of a line -/

theorem Res.All.fetchHome (h : s.memOk) : (s.fetchHome pc).All State.memOk := by
  unfold State.fetchHome
  dsimp only
  split
  · exact h
  · exact .joinWalk h
  · refine .ite h (.ite h (.ite h (.ite h ?_)))
    split
    next e =>
      have h1 := State.memOk.of_ok e (.ite (.farPerform h) h)
      exact h1
    next e =>
      have h1 := State.memOk.of_trap e (.ite (.farPerform h) h)
      exact h1
    · exact .ite (.farPerform h) h

theorem Res.All.fetchLine (h : s.memOk) : (s.fetchLine pc).All State.memOk := by
  unfold State.fetchLine
  refine .ite h ?_
  split
  · exact .ite h (.fetchHome h)
  · exact .fetchHome h

/-! ### Operands, and the scalar forms -/

theorem State.memOk.setS (h : s.memOk) : (s.setS srcs d v).memOk := .retire (.ws (.pops h))

theorem State.memOk.doneS (h : s.memOk) : (s.doneS srcs).memOk := .retire (.pops h)

theorem Out3.MemOk.scalar {f : State → Word} (h : s.memOk) : Out3.MemOk (s.scalar srcs d f) :=
  .finish (.bind (.ports h) fun _ _ h1 => .setS h1)

theorem Out3.MemOk.scalar1 {f : Word → Word} (h : s.memOk) : Out3.MemOk (s.scalar1 d b f) := .scalar h

theorem Out3.MemOk.scalar2 {f : Word → Word → Word} (h : s.memOk) : Out3.MemOk (s.scalar2 d b c f) :=
  .scalar h

theorem Res.All.portsAfter {vdsts : List VReg} {first : State → Res Unit} (h : s.memOk) (hfirst : ∀ a0, a0.memOk → (first a0).All State.memOk) :
    (s.portsAfter srcs dsts vsrcs vdsts first).All State.memOk := by
  unfold State.portsAfter
  split
  next e => exact .bind (hfirst _ (.of_trap e (.ports h))) fun _ _ h2 => h2
  · exact .ports h

theorem Res.All.raise {fl : Flags} (h : s.memOk) : (s.raise fl).All State.memOk := .ite h h

theorem Out3.MemOk.scalarF {f : Word → Word → FR} (h : s.memOk) : Out3.MemOk (s.scalarF b c d f) :=
  .finish (.bind (.ports h) fun _ _ h1 => .bind (.raise h1) fun _ _ h2 => .setS h2)

/-! ### Relaxed accesses -/

theorem State.memOk.addLate {l : LateTrap} (h : s.memOk) : (s.addLate t l).memOk := .ite (.fatal h) h

theorem State.memOk.kick (h : s.memOk) : (s.kick t).memOk := by
  unfold State.kick
  refine .foldl (fun _ _ h1 => .foldl (fun _ _ h2 => ?_) h1) h
  split
  · exact .ite h2 (.post h2)
  · exact h2

theorem State.memOk.kickAll (h : s.memOk) : s.kickAll.memOk :=
  .foldl (fun _ _ h1 => .foldl (fun _ _ h2 => .ite h2 (.kick h2)) h1) h

theorem State.memOk.routeFreed (h : s.memOk) : s.routeFreed.memOk := .wakeRoutes (.kickAll h)

theorem State.memOk.writeLocOf {l : RegLoc} (h : s.memOk) : (s.writeLocOf t l v).memOk := by
  unfold State.writeLocOf
  split
  · exact .pushScalar h
  · exact h

theorem State.memOk.faddDone {age : Nat} {byHandler : Bool} {fl : Flags} (h : s.memOk) : (s.faddDone t age pc byHandler fl).memOk :=
  .ite (.addLate h) h

theorem State.memOk.outWrite {o : Out} (h : s.memOk) : (s.outWrite t o).memOk := by
  unfold State.outWrite
  split
  · exact .ite (.addLate h) (.writeLocOf h)
  · exact .faddDone (.ite (.addLate h) (.writeLocOf h))
  · exact .ite (.ite h (.ite (.addLate h) (.pushVector h))) h
  · exact h

theorem State.memOk.outDone {o : Out} (h : s.memOk) : (s.outDone t o).memOk := by
  unfold State.outDone
  refine .ite h ?_
  split
  · exact .addLate (.outWrite (.foldl (fun _ _ h1 => .settle h1) h))
  · exact .outWrite (.foldl (fun _ _ h1 => .settle h1) h)

theorem State.memOk.wakeOuts (h : s.memOk) : (s.wakeOuts t).memOk := .ite (.wake h) h

theorem State.memOk.itemDone {i : OutItem} {fail : Option TrapInfo} (h : s.memOk) : (s.itemDone t acc i fail).memOk := by
  unfold State.itemDone
  refine .routeFreed (.wakeOuts ?_)
  split
  · refine .ite ?_ ?_
    · refine .outDone ?_
      split <;> exact h
    · split <;> exact h
  · split <;> exact h

theorem Res.All.relaxedChecks (h : s.memOk) : (s.relaxedChecks multi x).All State.memOk := by
  induction x generalizing s with
  | nil => exact h
  | cons a as ih =>
    rw [State.relaxedChecks]
    split
    next e => exact .of_trap e (.precheck h)
    next e => exact .of_park e (.precheck h)
    next e => exact .of_done e (.precheck h)
    next e => exact .bind (ih (.of_ok e (.precheck h))) fun _ _ h2 => h2

theorem Res.All.relaxedWatch {x : List ((Nat × Acc) × Nat)} (h : s.memOk) : (s.relaxedWatch multi x).All State.memOk := by
  induction x generalizing s with
  | nil => exact h
  | cons a as ih =>
    rw [State.relaxedWatch]
    split
    · exact .ite_fst h (.watch h)
    · exact ih (.ite_fst h (.watch h))

theorem Res.All.issueRelaxed {accs : List (Nat × Acc)} {store : Bool} {dest : OutDest} (h : s.memOk) :
    (s.issueRelaxed accs store multi dest srcs vsrcs).All State.memOk :=
  .ite h (.bind (.relaxedChecks h) fun _ _ h1 => .bind (.relaxedWatch h1) fun _ _ h2 => .kick (.setMe (.same (.retire (.pops h2)) ⟨rfl, rfl⟩)))

theorem State.memOk.itemReissue {i : OutItem} (h : s.memOk) : (s.itemReissue t acc i).memOk := by
  unfold State.itemReissue
  dsimp only
  split
  next e => exact .itemDone (State.memOk.of_trap e (.precheck h))
  next e =>
    have h1 := State.memOk.of_done e (.precheck h)
    exact h1
  next e =>
    have h1 := State.memOk.of_park e (.precheck h)
    exact h1
  next e =>
    have h1 := State.memOk.of_ok e (.precheck h)
    split
    · exact .itemDone (.ite_fst h1 (.watch h1))
    · exact .wakeOuts (.kick (.setItem (.same (.ite_fst h1 (.watch h1)) ⟨rfl, rfl⟩)))

theorem State.memOk.itemStep (h : s.memOk) : (s.itemStep t acc).memOk := by
  unfold State.itemStep
  dsimp only
  split
  · exact h
  · refine State.memOk.ite (State.memOk.ite (.wakeOuts (.outDone h)) h) (State.memOk.ite (.itemReissue h) (State.memOk.ite h ?_))
    split
    next e =>
      have h1 := State.memOk.of_trap e (Res.All.ite (.precheck h) h)
      exact .itemDone h1
    next e =>
      have h1 := State.memOk.of_done e (Res.All.ite (.precheck h) h)
      exact h1
    next e =>
      have h1 := State.memOk.of_park e (Res.All.ite (.precheck h) h)
      split <;> exact h1
    next e =>
      have h1 := State.memOk.of_ok e (Res.All.ite (.precheck h) h)
      split
      next e1 =>
        have h2 := State.memOk.of_ok e1 (.perform h1)
        exact .itemDone h2
      next e1 =>
        have h2 := State.memOk.of_trap e1 (.perform h1)
        exact .itemDone h2
      next e1 =>
        have h2 := State.memOk.of_done e1 (.perform h1)
        exact h2
      next e1 =>
        have h2 := State.memOk.of_park e1 (.perform h1)
        exact .post (.routeFreed h2)
      next e1 =>
        have h2 := State.memOk.of_park e1 (.perform h1)
        split <;> exact h2

theorem Out3.MemOk.execAccessCompletion {point : BitVec 3} (h : s.memOk) : Out3.MemOk (execAccessCompletion core slot acc point s) := by
  unfold Machine.execAccessCompletion
  refine .ite (.next (.itemStep h)) ?_
  split
  · exact .next h
  · exact .ite (.next h) (.next (.routeFreed (.wakeOuts (.ite (.itemStep h) h))))

theorem State.memOk.resume (h : s.memOk) : (s.resume ag).memOk := by
  unfold State.resume
  split
  · exact .wake h
  · split
    · exact .ite h h
    · exact h
  · exact .post h
  · exact .post h
  · exact .post h
  · exact .post h
  · exact .post h
  · exact h
  · exact h
  · exact .post h
  all_goals exact h

theorem Out3.MemOk.execRemoteWaitRetry (h : s.memOk) : Out3.MemOk (execRemoteWaitRetry core slot s) := by
  unfold Machine.execRemoteWaitRetry
  refine .next (.foldl (fun _ _ h1 => .foldl (fun _ _ h2 => ?_) h1) (.ite (.wake h) h))
  split
  · exact .ite (.resume h2) h2
  · exact h2

theorem Out3.MemOk.execTagWaitWatchdog {agent : BitVec 2} (h : s.memOk) : Out3.MemOk (execTagWaitWatchdog core agent slot s) := by
  unfold Machine.execTagWaitWatchdog
  split
  · refine .ite (.next h) (.next (.foldl ?_ ?_))
    · intro u b h1
      refine .foldl (fun _ _ h2 => ?_) h1
      split
      · exact .ite (.itemDone h2) h2
      · exact h2
    · split
      · exact .ite (.wake h) h
      · exact h
  all_goals exact .next (.ite (.post h) h)

/-! ### Accesses of the units -/

theorem State.memOk.unitEnd (h : s.memOk) : (s.unitEnd ag).memOk := h

theorem Res.All.once {r : Res Nat} (h : s.memOk) (hr : r.All State.memOk) : (s.once ag a r).All State.memOk := by
  unfold State.once
  split
  · split <;> exact h
  · cases r <;> exact hr

theorem State.memOk.setFn {f : HostFn} (h : s.memOk) : (s.setFn n f).memOk := h

theorem State.memOk.disarm (h : s.memOk) : (s.disarm fn).memOk := h

theorem State.memOk.logJobs {js : List LogJob} (h : s.memOk) : (s.logJobs fn js).memOk := by
  unfold State.logJobs
  split
  · exact .ite h h
  · exact h

theorem State.memOk.logFor {ws : List Word} (h : s.memOk) : (s.logFor fn kind ws).memOk := by
  unfold State.logFor
  split
  · exact .ite h (.logJobs h)
  · exact h

theorem State.memOk.logEvent {ws : List Word} (h : s.memOk) : (s.logEvent ctx kind ws).memOk := by
  unfold State.logEvent
  split
  · exact .logFor h
  · exact h

theorem State.memOk.raiseFault {kind : BitVec 3} {level : Nat} {mal : Bool} {ags : List Agent} (h : s.memOk) :
    (s.raiseFault ctx va kind level mal ags).memOk := .ite h h

theorem State.memOk.keepFor {l : Leaf} (h : s.memOk) : (s.keepFor ag l).memOk := by
  unfold State.keepFor
  split <;> exact h

theorem Res.All.uTr {need : Need} (h : s.memOk) : (s.uTr ag ctx va need).All State.memOk := by
  unfold State.uTr
  dsimp only
  split
  · exact h
  · split
    · exact h
    · exact h
    · split
      · split <;> exact .keepFor h
      · exact h
      · split
        · exact h
        · exact h
        · exact .raiseFault h

theorem Res.All.uHome {need : Need} (h : s.memOk) : (s.uHome ag ctx va n need).All State.memOk :=
  .ite h (.ite (.uTr h) h)

theorem Res.All.uAccess (h : s.memOk) : (s.uAccess ag ctx a).All State.memOk :=
  .once h (.bind (.uHome h) fun _ _ h1 => .bind (State.memOk_homePerform _ _ _ _ _ h1) fun _ _ h2 => h2)

theorem Res.All.uLoad (h : s.memOk) : (s.uLoad ag ctx va n).All State.memOk := .uAccess h

theorem Res.All.uStore {v : Nat} (h : s.memOk) : (s.uStore ag ctx va n v).All State.memOk :=
  .bind (.uAccess h) fun _ _ h1 => h1

theorem Res.All.uLoads {x : Nat} (h : s.memOk) : (s.uLoads ag ctx va n x).All State.memOk := by
  induction x generalizing s ag ctx va n with
  | zero => exact h
  | succ k ih =>
    rw [State.uLoads]
    exact .bind (.uLoad h) fun _ _ h1 => .bind (ih h1) fun _ _ h2 => h2

theorem Res.All.uStores {x : List Nat} (h : s.memOk) : (s.uStores ag ctx va n x).All State.memOk := by
  induction x generalizing s ag ctx va n with
  | nil => exact h
  | cons a as ih =>
    rw [State.uStores]
    exact .bind (.uStore h) fun _ _ h1 => ih h1

theorem Res.All.uLocal (h : s.memOk) : (s.uLocal ag ctx a).All State.memOk := by
  unfold State.uLocal
  refine .once h ?_
  split
  · exact .bind (.lsPerform h) fun _ _ h1 => h1
  · exact h
  · exact h

theorem Res.All.uWord (h : s.memOk) : (s.uWord ag ctx a).All State.memOk := .ite (.uAccess h) (.uLocal h)

theorem Res.All.uSignal {k : Word} (h : s.memOk) : (s.uSignal ag ctx va k).All State.memOk :=
  .bind (.uWord h) fun _ _ h1 => h1

theorem Res.All.faultPut {r : FaultRec} (h : s.memOk) : (s.faultPut ag ctx r).All State.memOk :=
  .bind (.uLoad h) fun _ _ h1 => .bind (.uLoad h1) fun _ _ h2 => .bind (.uLoad h2) fun _ _ h3 =>
    .ite h3 (.bind (.uStore h3) fun _ _ h4 => .bind (.uStore h4) fun _ _ h5 => h5)

theorem State.memOk.recordFn (h : s.memOk) : (s.recordFn fn fuel).memOk := by
  induction fuel generalizing s with
  | zero => exact h
  | succ k ih =>
    rw [State.recordFn]
    split
    · exact h
    · refine State.memOk.ite h ?_
      split
      next e =>
        have h1 := State.memOk.of_ok e (.faultPut h)
        exact ih (.logEvent h1)
      next e =>
        have h1 := State.memOk.of_park e (.faultPut h)
        exact h1
      next e =>
        have h1 := State.memOk.of_trap e (.faultPut h)
        exact h1
      next e =>
        have h1 := State.memOk.of_done e (.faultPut h)
        exact h1

theorem State.memOk.recordFaults (h : s.memOk) : s.recordFaults.memOk := .foldl (fun _ _ h1 => .recordFn h1) h

/-! ### Barriers -/

theorem State.memOk.setAb {r : Option Nat} (h : s.memOk) : (s.setAb t sc r).memOk := h

theorem State.memOk.postFull (h : s.memOk) : s.postFull.memOk := by
  unfold State.postFull
  refine .foldl (fun _ _ h1 => ?_) h
  split
  · exact .ite (.post h1) h1
  · exact h1

theorem State.memOk.arrive (h : s.memOk) : (s.arrive sc).memOk := by
  unfold State.arrive
  refine .postFull (.setAb ?_)
  split <;> exact h

theorem State.memOk.openNext (h : s.memOk) : (s.openNext k).memOk := by
  unfold State.openNext
  split
  · exact h
  · exact .foldl (fun _ _ h1 => .ite (.wake h1) h1) h

theorem State.memOk.podRelease {g : Nat} (h : s.memOk) : (s.podRelease g).memOk := by
  unfold State.podRelease
  refine .foldl (fun _ _ h1 => ?_) h
  split
  · exact .ite (.openNext h1) h1
  · exact h1

theorem State.memOk.podArrive {g : Nat} {e : BitVec 8} {final : Bool} (h : s.memOk) : (s.podArrive g e final).memOk :=
  .ite (.postFull (.podRelease (.transmitAll h))) h

theorem State.memOk.podSend {g : Nat} {final : Bool} (h : s.memOk) : (s.podSend g final).memOk :=
  .ite (.podArrive h) (.transmit h)

theorem State.memOk.closeChans (h : s.memOk) : (s.closeChans id).memOk := .postFull h

theorem State.memOk.exitRounds {l : Option Launch} (h : s.memOk) : (s.exitRounds l).memOk := by
  unfold State.exitRounds
  split
  · exact .ite (.postFull h) (.postFull h)
  · exact .postFull h

theorem Out3.MemOk.execBarrierRoundRelease {key : Nat} (h : s.memOk) : Out3.MemOk (execBarrierRoundRelease sc key s) := by
  unfold Machine.execBarrierRoundRelease
  split
  · exact .next h
  · exact .ite (.next h) (.ite (.next (.podSend (.ite (.closeChans h) h))) (.ite (.next h) (.next (.openNext h))))

/-! ### The tables of a context -/

theorem State.memOk.switch {f : Core → Core} (h : s.memOk) : (s.switch n f).memOk := h

theorem State.memOk.setCreg {n : BitVec 11} (h : s.memOk) : (s.setCreg n v).memOk := by
  unfold State.setCreg
  split <;> exact h

/-! ### The register window -/

theorem Res.All.rawCheck {write : Bool} (h : s.memOk) : (s.rawCheck ag t va off len write).All State.memOk := by
  unfold State.rawCheck
  dsimp only
  split
  · exact h
  · refine .ite h ?_
    split
    · exact .holdOn h
    · refine .bind (.comparators (.unhold h)) fun _ _ h1 => .ite h1 (.ite h1 ?_)
      split <;> exact .watch h1

theorem Res.All.windowCheck {write : Bool} (h : s.memOk) : (s.windowCheck ag t off write).All State.memOk :=
  .rawCheck h

/-- A spill puts one word of a group after the other. -/
theorem Memory.wf_putWords (ws : List Word) {p : List Host.Cell × Nat} (h : Memory.wf p.1 = true) :
    Memory.wf (ws.foldl (fun (p : List Host.Cell × Nat) w => (Memory.setWord p.1 p.2 w, p.2 + 8)) p).1 = true := by
  induction ws generalizing p with
  | nil => exact h
  | cons w ws ih => exact ih (Memory.wf_setWord p.2 w h)

theorem State.memOk.spillWords {g : BitVec 2} (h : s.memOk) : (s.spillWords t g).memOk :=
  ⟨Memory.wf_putWords _ h.1, h.2⟩

theorem Res.All.spill {g : BitVec 2} (h : s.memOk) : (s.spill g).All State.memOk :=
  .ite h (.bind (.windowCheck h) fun _ _ h1 => .spillWords h1)

theorem Res.All.fillCheck (h : s.memOk) : s.fillCheck.All State.memOk := .ite h (.windowCheck h)

theorem Res.All.fill {g : BitVec 2} (h : s.memOk) : (s.fill g).All State.memOk :=
  .bind (.fillCheck h) fun _ _ h1 => h1

theorem State.memOk.setRegs {f : Regs → Regs} (h : s.memOk) : (s.setRegs f).memOk := h

theorem Res.All.spillTo {keep : Nat} (h : s.memOk) : (s.spillTo keep fuel).All State.memOk := by
  induction fuel generalizing s with
  | zero => exact h
  | succ k ih =>
    rw [State.spillTo]
    exact .ite h (.bind (.spill h) fun _ _ h1 => ih h1)

theorem Res.All.frameCheckSpill (h : s.memOk) : s.frameCheckSpill.All State.memOk := .ite (.windowCheck h) h

theorem State.memOk.frameSpill (h : s.memOk) : s.frameSpill.memOk := .ite (.setRegs (.spillWords h)) h

theorem Res.All.callSpill (h : s.memOk) : s.callSpill.All State.memOk := by
  unfold State.callSpill
  dsimp only
  split
  · exact .spillTo h
  · exact .ite (.bind (.spill h) fun _ _ h1 => h1) h

theorem Res.All.retCheck (h : s.memOk) : s.retCheck.All State.memOk := .ite (.fillCheck h) h

theorem State.memOk.retWords (h : s.memOk) : s.retWords.memOk := .ite h h

theorem Res.All.retFill (h : s.memOk) : s.retFill.All State.memOk :=
  .bind (.retCheck h) fun _ _ h1 => .retWords h1

theorem Res.All.call {target : Word} (h : s.memOk) : (s.call target).All State.memOk :=
  .bind (.callSpill h) fun _ _ h1 => h1

theorem State.memOk.windowDone (h : s.memOk) : (s.windowDone t).memOk := .ite (.wake h) h

theorem Out3.MemOk.execBackgroundSpill (h : s.memOk) : Out3.MemOk (execBackgroundSpill core slot s) := by
  unfold Machine.execBackgroundSpill
  refine .ite (.next (.windowDone (.unhold h))) ?_
  split
  next e => exact .next (.windowDone (.setSlot (.spillWords (.of_ok e (.windowCheck h)))))
  next e => exact .next (.windowDone (.unhold (.of_trap e (.windowCheck h))))
  next e => exact .next (.of_park e (.windowCheck h))
  next e => exact .next (.of_done e (.windowCheck h))

theorem Res.All.eretFill (h : s.memOk) : s.eretFill.All State.memOk := by
  unfold State.eretFill
  dsimp only
  split
  · exact .bind (.bind (.fill h) fun _ _ h1 => h1) fun _ _ h1 => .bind (.fill h1) fun _ _ h2 => h2
  · exact .bind (.fill h) fun _ _ h1 => h1
  · exact h

/-! ### Jumps, calls, traps and control registers -/

theorem Out3.MemOk.branch {off : BitVec 27} {p : State → Bool} (h : s.memOk) : Out3.MemOk (s.branch srcs off p) :=
  .finish (.bind (.ports h) fun _ _ h1 => State.memOk.ite (.jump (.pops h1)) (.retire (.pops h1)))

theorem Out3.MemOk.branch1 {off : BitVec 27} {p : Word → Bool} (h : s.memOk) : Out3.MemOk (s.branch1 b off p) :=
  .branch h

theorem Out3.MemOk.branch2 {off : BitVec 27} {p : Word → Word → Bool} (h : s.memOk) : Out3.MemOk (s.branch2 b c off p) :=
  .branch h

theorem Out3.MemOk.execRet (h : s.memOk) : Out3.MemOk (execRet s) :=
  .finish (.ite h (.bind (.retFill h) fun _ _ h1 => h1))

theorem Out3.MemOk.execDbnz {off : BitVec 27} (h : s.memOk) : Out3.MemOk (execDbnz b off s) :=
  .finish (.bind (.ports h) fun _ _ h1 => State.memOk.ite (.jump (.ws h1)) (.retire (.ws h1)))

theorem Res.All.tableTarget {i n base : Word} {l : BitVec 11} (h : s.memOk) : (s.tableTarget i n base l).All State.memOk := by
  unfold State.tableTarget
  refine .ite h (.ite h (.bind ?_ ?_))
  · split
    · exact h
    · exact .bind (.ordinary h) fun _ _ h1 => h1
  · intro a u h1
    refine .bind (.fetchLine h1) fun _ _ h2 => ?_
    split
    · exact .ite h2 h2
    · exact h2

theorem Res.All.tableFirst {b c n : List SReg} {i lim base : Word} {call : Bool} (h : s.memOk) :
    (s.tableFirst b c n i lim base call).All State.memOk := .ite h (.ite h (.ite h h))

theorem Out3.MemOk.jumpTable {n : List SReg} {lim : State → Word} {l : BitVec 11} (h : s.memOk) : Out3.MemOk (s.jumpTable b c n lim l) :=
  .finish (.bind (.portsAfter h fun _ h1 => .tableFirst h1) fun _ _ h1 => .bind (.tableTarget h1) fun _ _ h2 => .jump (.pops h2))

theorem Out3.MemOk.callTable {n : List SReg} {lim : State → Word} {l : BitVec 11} (h : s.memOk) : Out3.MemOk (s.callTable b c n lim l) := by
  unfold State.callTable
  refine .finish (.bind (.portsAfter h fun _ h1 => .tableFirst h1) ?_)
  intro _ _ h1
  refine .bind ?_ (fun _ _ h2 => .bind (.callSpill h2) fun _ _ h3 => .jump (.setRegs (.pops h3)))
  split
  next e => exact .of_trap e (.tableTarget h1)
  · exact .tableTarget h1

theorem Out3.MemOk.execTrap {code : BitVec 11} (h : s.memOk) : Out3.MemOk (execTrap b code s) :=
  .finish (.bind (.ports h) fun _ _ h1 => .takeTrap (.pops h1))

theorem Out3.MemOk.execEret (h : s.memOk) : Out3.MemOk (execEret s) :=
  .finish (.ite h (.bind (.eretFill h) fun _ _ h1 => h1))

theorem Out3.MemOk.execMfc {n : BitVec 11} (h : s.memOk) : Out3.MemOk (execMfc d n s) :=
  .ite (.next (.precise h)) (.ite (.next h) (.ite (.next h) (.finish (.bind (.keeping (.ports h) fun _ h1 => h1) fun _ _ h1 => .setS h1))))

theorem Out3.MemOk.execMtc {r : SReg} {n : BitVec 11} (h : s.memOk) : Out3.MemOk (execMtc r n s) :=
  .ite (.next (.precise h)) (.ite (.next h) (.finish (.bind (.ite h (.ports h)) fun _ _ h1 => .ite h1 (.ite h1 (.retire (.setCreg (.pops h1)))))))

/-! ### Loads, stores and atomics -/

theorem Res.All.memPorts {vdsts : List VReg} {addr : List SReg} {vaddr : List VReg} {accs : State → List (Nat × Acc)} (h : s.memOk) :
    (s.memPorts srcs dsts vsrcs vdsts addr vaddr rx multi accs).All State.memOk :=
  .portsAfter h fun _ h1 => .ite (.bind (.relaxedChecks h1) fun _ _ h2 => h2) h1

theorem Out3.MemOk.load {va : State → Word} (h : s.memOk) : Out3.MemOk (s.load d srcs rx n signed va) :=
  .finish (.bind (.memPorts h) fun _ _ h1 => .ite (.issueRelaxed h1) (.bind (.ordinary h1) fun _ _ h2 => .setS h2))

theorem Out3.MemOk.store {r : SReg} {va : State → Word} (h : s.memOk) : Out3.MemOk (s.store r srcs rx n va) :=
  .finish (.bind (.memPorts h) fun _ _ h1 => .ite (.issueRelaxed h1) (.bind (.ordinary h1) fun _ _ h2 => .doneS h2))

theorem Out3.MemOk.atomic {o : AtomOp} {w32 rx : BitVec 1} {off : Word} (h : s.memOk) : Out3.MemOk (s.atomic o d b c w32 rx off) :=
  .finish (.bind (.memPorts h) fun _ _ h1 =>
    .ite (.issueRelaxed h1) (.bind (.ordinary h1) fun _ _ h2 => State.memOk.ite (.faddDone (.setS h2)) (.setS h2)))

theorem State.memOk.setV {d : VReg} {v : Line} (h : s.memOk) : (s.setV srcs vsrcs d v).memOk :=
  .retire (.wv (.pops h))

theorem Res.All.emptyChecks {need : Need} (h : s.memOk) : (s.emptyChecks va need).All State.memOk := by
  unfold State.emptyChecks
  refine .ite h ?_
  split
  · exact h
  · split <;> exact h
  · split
    · exact h
    · exact .joinWalk h
    · exact .ite h h

theorem Out3.MemOk.vload {d : VReg} {ew : BitVec 2} {off : Word} (h : s.memOk) : Out3.MemOk (s.vload d b mk ew rx off) :=
  .finish (.bind (.memPorts h) fun _ _ h1 =>
    .ite (.bind (.emptyChecks h1) fun _ _ h2 => .setV h2) (.ite (.issueRelaxed h1) (.bind (.ordinary h1) fun _ _ h2 => .setV h2)))

theorem Out3.MemOk.vstore {d : VReg} {ew : BitVec 2} {off : Word} (h : s.memOk) : Out3.MemOk (s.vstore d b mk ew rx off) :=
  .finish (.bind (.memPorts h) fun _ _ h1 =>
    .ite (.bind (.emptyChecks h1) fun _ _ h2 => .retire (.pops h2)) (.ite (.issueRelaxed h1) (.bind (.ordinary h1) fun _ _ h2 => .retire (.pops h2))))

theorem Res.All.elements (h : s.memOk) : (s.elements x).All State.memOk := by
  induction x generalizing s with
  | nil => exact h
  | cons a as ih =>
    rw [State.elements]
    split
    next e =>
      have h1 := State.memOk.of_ok e (.ordinary h)
      exact .ite (.pause h1) (ih h1)
    next e => exact .of_trap e (.ordinary h)
    next e => exact .of_park e (.ordinary h)
    next e => exact .of_done e (.ordinary h)

theorem Out3.MemOk.vloads {d : VReg} {ew : Nat} {addrs : State → List (Nat × Word)} (h : s.memOk) : Out3.MemOk (s.vloads d srcs vsrcs ew rx addrs) := by
  unfold State.vloads
  refine .finish (.bind (.memPorts h) ?_)
  intro _ _ h1
  refine .ite (.setV h1) (.ite (.issueRelaxed h1) ?_)
  split
  next e => exact .setV (State.memOk.of_ok e (.elements h1))
  next e =>
    have h2 := State.memOk.of_trap e (.elements h1)
    exact State.memOk.ite h2 (.wv h2)
  next e => exact State.memOk.of_park e (.elements h1)
  next e => exact State.memOk.of_done e (.elements h1)

theorem Out3.MemOk.vstores {d : VReg} {vaddr : List VReg} {ew : Nat} {addrs : State → List (Nat × Word)} (h : s.memOk) :
    Out3.MemOk (s.vstores d srcs vaddr ew rx addrs) :=
  .finish (.bind (.memPorts h) fun _ _ h1 =>
    .ite (.retire (.pops h1)) (.ite (.issueRelaxed h1) (.bind (.elements h1) fun _ _ h2 => .retire (.pops h2))))

theorem Out3.MemOk.tagOp {o : State → WordOp} {f : State → Line → State} (h : s.memOk) (hf : ∀ a0 a1, a0.memOk → (f a0 a1).memOk) :
    Out3.MemOk (s.tagOp srcs dsts b o f) :=
  .finish (.bind (.memPorts h) fun _ _ h1 => .bind (.ordinary h1) fun _ _ h2 => hf _ _ h2)

theorem State.memOk.watchWords {os : List Nat} (h : s.memOk) : (s.watchWords n va os).1.memOk := by
  induction os generalizing s with
  | nil => exact h
  | cons o os ih =>
    have hw {x y z w ag a} : (s.watch x y z w ag a).1.memOk := .watch h
    rw [State.watchWords]
    split
    · dsimp only
      exact hw
    · exact ih hw

theorem Res.All.imageCheck {t : BitVec 2} {a : Word} (h : s.memOk) : (s.imageCheck t a).All State.memOk := by
  unfold State.imageCheck
  refine .ite h ?_
  split
  · refine .ite h ?_
    split
    · exact h
    · exact .ite h h
  · exact h

theorem Res.All.imageRead {a : Word} (h : s.memOk) : (s.imageRead a off).All State.memOk := by
  unfold State.imageRead
  refine .ite h ?_
  split
  · exact .holdOn h
  · refine .bind (.comparators (.unhold h)) fun _ _ h1 => ?_
    split <;> exact h1

theorem Out3.MemOk.execTatld {t : BitVec 2} (h : s.memOk) : Out3.MemOk (execTatld t b s) := by
  unfold Machine.execTatld
  dsimp only
  refine .finish (.bind (.portsAfter h fun _ h1 => .ite h1 h1) ?_)
  intro _ _ h1
  refine .bind (.ite h1 h1) fun _ _ h2 => .bind (.imageCheck h2) fun _ _ h3 => .bind (.imageRead h3) fun _ _ h4 => ?_
  split
  · exact h4
  · split
    · exact .watchWords h4
    · exact .doneS (.setCore (.watchWords h4))

theorem Out3.MemOk.execTatsw {t : BitVec 2} (h : s.memOk) : Out3.MemOk (execTatsw t s) :=
  .finish (.ite h (.ite h (.bind (.demand h) fun _ _ h1 => h1)))

theorem Out3.MemOk.execRmset {t : BitVec 2} {k : BitVec 6} (h : s.memOk) : Out3.MemOk (execRmset t k s) :=
  .finish (.ite h (.ite h (.bind (.demand h) fun _ _ h1 => h1)))

/-! ### Tags, fences and waits -/

theorem Res.All.fenceWait {sc : Nat} (h : s.memOk) : (s.fenceWait sc).All State.memOk := by
  unfold State.fenceWait
  refine .ite h (.ite ?_ h)
  split <;> exact h

theorem State.memOk.fencePath {q : BitVec 3} (h : s.memOk) : (s.fencePath q).memOk := .ite h h

theorem Out3.MemOk.execXfence {p q : BitVec 3} (h : s.memOk) : Out3.MemOk (execXfence p q s) := by
  unfold Machine.execXfence
  refine .finish ?_
  split
  · exact .bind (.fenceWait h) fun _ _ h1 => .retire (.fencePath h1)
  · exact .ite h (.retire (.fencePath h))
  · exact .retire (.fencePath h)

theorem Out3.MemOk.barrier {f : State → Res Unit} (h : s.memOk) (hf : ∀ a0, a0.memOk → (f a0).All State.memOk) : Out3.MemOk (s.barrier sc f) :=
  .finish (.ite h (.ite h (hf _ h)))

theorem Res.All.barWait (h : s.memOk) : (s.barWait sc).All State.memOk := by
  unfold State.barWait
  split
  · exact h
  · exact .ite h h

theorem Out3.MemOk.execBar (h : s.memOk) : Out3.MemOk (execBar sc s) := by
  unfold Machine.execBar
  refine .barrier h fun _ h1 => .ite (.bind (.fenceWait h1) fun _ _ h2 => h2) ?_
  split
  · exact .bind (.fenceWait h1) fun _ _ h2 => .arrive h2
  · exact .bind (.barWait h1) fun _ _ h2 => .bind (.fenceWait h2) fun _ _ h3 => h3

theorem Out3.MemOk.execBara (h : s.memOk) : Out3.MemOk (execBara sc s) :=
  .barrier h fun _ h1 => .bind (.barWait h1) fun _ _ h2 => .bind (.fenceWait h2) fun _ _ h3 => .retire (.arrive h3)

theorem Out3.MemOk.execBarw (h : s.memOk) : Out3.MemOk (execBarw sc s) :=
  .barrier h fun _ h1 => .bind (.barWait h1) fun _ _ h2 => .bind (.fenceWait h2) fun _ _ h3 => h3

theorem State.memOk.waitWord {before : State} {onTag onWrite : Bool} {w : Nat → Await} (h : s.memOk) (hb : before.memOk) :
    (s.waitWord before va onTag onWrite w).2.memOk := by
  unfold State.waitWord
  dsimp only
  split
  · exact .same h ⟨rfl, rfl⟩
  · split
    · exact .same hb ⟨rfl, rfl⟩
    · exact .enter (.same h ⟨rfl, rfl⟩)

theorem Out3.MemOk.execSbarv (h : s.memOk) : Out3.MemOk (execSbarv d b sc s) :=
  .finish (.bind (.memPorts h) fun _ _ h1 => .bind (.precheck h1) fun _ _ h2 => .bind (.ite h2 (.bind (.fenceWait h2) fun _ _ h3 => h3)) fun _ _ h3 =>
    .bind (.ordinary h3) fun _ _ h4 => .setS h4)

theorem Res.All.lsWord (h : s.memOk) : (s.lsWord va).All State.memOk := .bind (.precheck h) fun _ _ h1 => h1

theorem Out3.MemOk.execSbwait (h : s.memOk) : Out3.MemOk (execSbwait d b c s) :=
  .finish (.bind (.memPorts h) fun _ _ h1 => .bind (.lsWord h1) fun _ _ h2 => .bind (.ordinary h2) fun _ _ h3 => .ite (.setS h3) (.waitWord h3 h2))

theorem Out3.MemOk.execSbtest (h : s.memOk) : Out3.MemOk (execSbtest d b c s) :=
  .finish (.bind (.memPorts h) fun _ _ h1 => .bind (.lsWord h1) fun _ _ h2 => .bind (.ordinary h2) fun _ _ h3 => .setS h3)

theorem Out3.MemOk.execWaitTag {t : BitVec 3} (h : s.memOk) : Out3.MemOk (execWaitTag b t s) :=
  .finish (.bind (.memPorts h) fun _ _ h1 => .ite (.doneS h1) (.bind (.ordinary h1) fun _ _ h2 => .ite (.doneS h2) (.setCont (.waitWord h2 h1))))

theorem Out3.MemOk.execFlushi (h : s.memOk) : Out3.MemOk (execFlushi b c sc s) :=
  .finish (.bind (.ports h) fun _ _ h1 => .ite (.doneS h1) (.post h1))

theorem State.memOk.voidFetches {base : Nat} (h : s.memOk) : (s.voidFetches sc core ctx base len).memOk := by
  unfold State.voidFetches
  refine .foldl (fun _ _ h1 => ?_) h
  split
  · exact .ite (.wake h1) h1
  · exact h1

theorem Out3.MemOk.execFlushiAcknowledgement (h : s.memOk) : Out3.MemOk (execFlushiAcknowledgement core slot s) := by
  unfold Machine.execFlushiAcknowledgement
  dsimp only
  split
  · exact .ite (.next (.wake (.setSlot (.voidFetches (.same (State.foldl_keeps _ (fun _ _ h1 => .same h1 ⟨rfl, rfl⟩) _ h) ⟨rfl, rfl⟩))))) (.next h)
  · exact .next h

/-! ### Spawned threads -/

theorem Res.All.stampPut {r : Vector Word 8} (h : s.memOk) : (s.stampPut t r).All State.memOk :=
  .bind (.uLoad h) fun _ _ h1 => .bind (.uLoad h1) fun _ _ h2 => .ite h2 (.bind (.uAccess h2) fun _ _ h3 => .uStore h3)

theorem State.memOk.stampWork (h : s.memOk) : (s.stampWork t fuel).memOk := by
  induction fuel generalizing s with
  | zero => exact h
  | succ k ih =>
    rw [State.stampWork]
    split
    · exact h
    · split
      next e =>
        have h1 := State.memOk.of_park e (.stampPut h)
        exact h1
      next e =>
        have h1 := State.memOk.of_ok e (.stampPut h)
        exact ih (.wakeOuts h1)
      next e =>
        have h1 := State.memOk.of_trap e (.stampPut h)
        exact ih (.wakeOuts h1)
      next e =>
        have h1 := State.memOk.of_done e (.stampPut h)
        exact ih (.wakeOuts h1)

theorem State.memOk.stampClose (h : s.memOk) : (s.stampClose t).memOk := by
  unfold State.stampClose
  dsimp only
  split
  · exact h
  · exact .stampWork h

theorem State.memOk.releaseGrant (h : s.memOk) : (s.releaseGrant n).memOk := by
  unfold State.releaseGrant
  dsimp only
  split
  · exact h
  · exact .wake h

theorem State.memOk.releaseClaims (h : s.memOk) : (s.releaseClaims t).memOk :=
  .foldl (fun _ _ h1 => .foldl (fun _ _ h2 => .ite (.same h2 ⟨rfl, rfl⟩) h2) h1) h

theorem State.memOk.wakeProducers (h : s.memOk) : (s.wakeProducers t).memOk :=
  .foldl (fun _ _ h1 => .foldl (fun _ _ h2 => .ite (.wake h2) h2) h1) h

theorem State.memOk.freePlace {g : Nat} (h : s.memOk) : (s.freePlace g p).memOk :=
  .wakeOrder (.setCore (.foldl (fun _ _ h1 => .setSlot (.releaseClaims h1)) (.ite (.releaseGrant h) h)))

theorem State.memOk.endGang (h : s.memOk) : (s.endGang id).memOk := by
  unfold State.endGang
  split
  · exact h
  · refine .post (.post (.exitRounds (.same (s := List.foldl _ _ _) ?_ ⟨rfl, rfl⟩)))
    exact .foldl (fun _ _ h => .freePlace h) (.same h ⟨rfl, rfl⟩)

theorem State.memOk.leaveSlot (h : s.memOk) : (s.leaveSlot t).memOk :=
  .ite (.endGang (.exitRounds (.wakeProducers (.releaseClaims (.setSlot (.ite (.releaseGrant (.traceIssue (.settle h))) (.traceIssue (.settle h))))))))
    (.exitRounds (.wakeProducers (.releaseClaims (.setSlot (.ite (.releaseGrant (.traceIssue (.settle h))) (.traceIssue (.settle h)))))))

theorem Out3.MemOk.execExit (h : s.memOk) : Out3.MemOk (execExit s) :=
  .finish (.bind (.demand h) fun _ _ h1 => .ite h1 (.bind (.fenceWait h1) fun _ _ h2 => .ite (.leaveSlot (.stampClose h2)) (.stampClose h2)))

theorem Res.All.frameCheck {f : Word} (h : s.memOk) : (s.frameCheck f).All State.memOk :=
  .ite h (.ite h (.bind (.precheck h) fun _ _ h1 => h1))

theorem State.memOk.wakeThieves {g : Nat} (h : s.memOk) : (s.wakeThieves core g).memOk :=
  .foldl (fun _ _ h1 => .foldl (fun _ _ h2 => .ite (.wake h2) h2) (.ite (.rouse h1) h1)) h

theorem Res.All.joinAdd {f k : Word} (h : s.memOk) : (s.joinAdd f k).All State.memOk :=
  .bind (.ordinary h) fun _ _ h1 => h1

theorem Res.All.joinAfter {f k : Word} {check : State → Res Unit} (h : s.memOk) (hcheck : ∀ a0, a0.memOk → (check a0).All State.memOk) :
    (s.joinAfter f k check).All State.memOk := by
  unfold State.joinAfter
  split
  · exact .bind (hcheck _ h) fun _ _ h2 => .joinAdd h2
  · exact .joinAdd h

theorem Out3.MemOk.execSpawn {off : BitVec 27} (h : s.memOk) : Out3.MemOk (execSpawn b off s) :=
  .finish (.ite h
    (.bind (.portsAfter h fun _ h1 => .ite h1 h1) fun _ _ h1 => .bind (.frameCheck h1) fun _ _ h2 =>
    .ite h2 (.bind (.joinAfter h2 fun _ h3 => .frameCheckSpill h3) fun _ _ h3 => .jump (.setRegs (.pops (.frameSpill (.ite h3 (.wakeThieves h3))))))))

theorem Out3.MemOk.execRets {f : SReg} (h : s.memOk) : Out3.MemOk (execRets f s) := by
  unfold Machine.execRets
  refine .finish (.ite h (.bind (.portsAfter h fun _ h1 => .ite h1 h1) ?_))
  intro _ _ h1
  refine .bind (.frameCheck h1) fun _ _ h2 => .ite h2 (.bind (.ite h2 (.bind (.fenceWait h2) fun _ _ h3 => h3)) ?_)
  intro _ _ h3
  refine .bind (.joinAfter h3 fun _ h4 => .ite h4 (.retCheck h4)) fun _ _ h4 => .ite (.jump (.setRegs (.pops (.retWords h4)))) ?_
  split
  · exact .jump (.setRegs (.pops (.retWords h4)))
  · exact .ite (.takeTrap (.setMe (.setMe (.pops h4)))) (.jump (.setMe (.pops h4)))

theorem Out3.MemOk.execJoinWord (h : s.memOk) : Out3.MemOk (execJoinWord b s) :=
  .finish (.bind (.ports h) fun _ _ h1 => .bind (.frameCheck h1) fun _ _ h2 => .bind (.ordinary h2) fun _ _ h3 => .ite (.doneS h3) (.waitWord h3 h2))

theorem Out3.MemOk.execSteal {t : BitVec 3} (h : s.memOk) : Out3.MemOk (execSteal d b t s) := by
  unfold Machine.execSteal
  dsimp only
  refine .finish (.ite h (.bind (.memPorts h) ?_))
  intro _ _ h1
  refine .bind (.ite h1 (.lsWord h1)) fun _ _ h2 => ?_
  split
  · exact .goto (.trace (.setMe (.pops h2)))
  · exact .ite h2 (.bind (.ordinary h2) fun _ _ h3 => .ite (.setS h3) (.waitWord h3 h2))

theorem Out3.MemOk.execPcon {fl : BitVec 4} (h : s.memOk) : Out3.MemOk (execPcon b fl s) :=
  .finish (.bind (.ports h) fun _ _ h1 =>
    .ite h1 (.ite h1 (.ite h1 (.retire (.setMe (.ite (.setSlot (.releaseClaims (.pops h1))) (.releaseClaims (.pops h1))))))))

theorem Out3.MemOk.execStamp {k : BitVec 2} (h : s.memOk) : Out3.MemOk (execStamp k s) := by
  unfold Machine.execStamp
  dsimp only
  split
  · exact .ite (.next h) (.next h)
  · exact .next h

theorem Out3.MemOk.execStampOpen (h : s.memOk) : Out3.MemOk (execStampOpen b s) :=
  .finish (.bind (.ports h) fun _ _ h1 => .doneS (.ite (.setMe (.stampClose h1)) h1))

/-! ### The matrix unit -/

theorem Res.All.checkedPorts {checks : State → List Check} (h : s.memOk) : (s.checkedPorts srcs dsts checks).All State.memOk := by
  unfold State.checkedPorts
  split
  next e => exact .of_trap e (.ports h)
  next e =>
    have h1 := State.memOk.of_ok e (.ports h)
    split <;> exact h1
  · exact .ports h

theorem State.memOk.unstage {be : BitVec 64} (h : s.memOk) : (s.unstage n off be).memOk := .ite h h

theorem State.memOk.putBack {p : LineSnap} (h : s.memOk) : (s.putBack n p).memOk :=
  .wakeRange (.same (.foldl (fun _ _ h1 => State.memOk_setTag _ _ h1) (.writeBytes h)) ⟨rfl, rfl⟩)

theorem Res.All.pathM (h : s.memOk) : (s.pathM off a).All State.memOk :=
  .bind (.lsPerform h) fun _ _ h1 => .ite (.unstage h1) h1

theorem Res.All.pathSeq (h : s.memOk) : (s.pathSeq x).All State.memOk := by
  induction x generalizing s with
  | nil => exact h
  | cons a as ih =>
    rw [State.pathSeq]
    split
    next e =>
      have h1 := State.memOk.of_ok e (.pathM h)
      exact .ite (.pause h1) (ih h1)
    next e => exact .of_trap e (.pathM h)
    next e => exact .of_park e (.pathM h)
    next e => exact .of_done e (.pathM h)

theorem Res.All.chunkJudge (h : s.memOk) : (s.chunkJudge x).All State.memOk := by
  induction x generalizing s with
  | nil => exact h
  | cons a as ih =>
    rw [State.chunkJudge]
    exact .bind (.lsHold h) fun _ _ h1 => .bind (State.memOk_judge _ _ _ _ _ _ _ h1) fun _ _ h2 => ih h2

theorem Res.All.chunkAdmit (h : s.memOk) : (s.chunkAdmit x).All State.memOk := by
  induction x generalizing s with
  | nil => exact h
  | cons a as ih =>
    rw [State.chunkAdmit]
    exact .bind (.letIn h) fun _ _ h1 => ih h1

theorem Res.All.chunkWrites {ps : List (Nat × Acc)} (h : s.memOk) : (s.chunkWrites ps).All State.memOk :=
  .bind (.chunkJudge h) fun _ _ h1 => .bind (.chunkAdmit h1) fun _ _ h2 => .foldl (fun _ _ h3 => .unstage (State.memOk_enact _ _ _ _ _ h3)) h2

theorem Out3.MemOk.execModeM (h : s.memOk) : Out3.MemOk (execModeM s) :=
  .ite (.next h) (.ite (.next h) (.ite (.next h) (.next (.park (.ite h h)))))

theorem Out3.MemOk.mrnsout {r15 : Bool} (h : s.memOk) : Out3.MemOk (s.mrnsout r15 n) :=
  .ite (.next (.precise h)) (.next h)

theorem Out3.MemOk.mma {scaled : Bool} {k : SReg} {za : Bool} {fa fb : BitVec 4} (h : s.memOk) : Out3.MemOk (s.mma scaled k b c za fa fb) :=
  .ite (.next (.precise h)) (.ite (.next h) (.finish (.bind (.checkedPorts h) fun _ _ h1 => .ite h1 (.post h1))))

theorem Res.All.gridReads (h : s.memOk) : (s.gridReads core fuel).All State.memOk := by
  induction fuel generalizing s with
  | zero => exact h
  | succ k ih =>
    rw [State.gridReads]
    dsimp only
    split
    · exact h
    · split
      next e =>
        have h1 := State.memOk.of_ok e (.lsPerform h)
        exact .ite (.post h1) (ih h1)
      next e => exact .of_trap e (.lsPerform h)
      next e => exact .of_park e (.lsPerform h)
      next e => exact .of_done e (.lsPerform h)

theorem State.memOk.complete {npc : Word} (h : s.memOk) : (s.complete t npc).memOk := h

theorem State.memOk.preciseOf (h : s.memOk) : (s.preciseOf t i).memOk := .takeTrap h

theorem State.memOk.gridFree (h : s.memOk) : (s.gridFree core).memOk := by
  unfold State.gridFree
  exact State.memOk.ite (.post (State.memOk.ite (.post (.wakeCore h)) (.wakeCore h))) (State.memOk.ite (.post (.wakeCore h)) (.wakeCore h))

theorem State.memOk.gridDone {op : GridOp} (h : s.memOk) : (s.gridDone core op).memOk :=
  .ite h (.ite (.addLate (.settle (.complete (.ite (.popScalar h) h))))
    (.ite (.addLate (.settle (.complete (.ite (.popScalar h) h)))) (.settle (.complete (.ite (.popScalar h) h)))))

theorem State.memOk.gridFail (h : s.memOk) : (s.gridFail core t i).memOk := by
  unfold State.gridFail
  exact .gridFree (State.memOk.ite (.preciseOf (.settle h)) (.settle h))

theorem Out3.MemOk.execGridOperationComplete (h : s.memOk) : Out3.MemOk (execGridOperationComplete core s) := by
  unfold Machine.execGridOperationComplete
  dsimp only
  split
  · exact .next (State.memOk.ite h h)
  · refine .ite (.next (.gridFree h)) (.ite (.next h) (.ite (.next (.post h)) (.ite (.next (.gridFail h)) ?_)))
    split
    next e =>
      have h1 := State.memOk.of_ok e (.gridReads h)
      split
      · exact .next (.gridFree (.gridDone h1))
      · exact .next h1
    next e =>
      have h1 := State.memOk.of_trap e (.gridReads h)
      exact .next (.gridFail h1)
    next e =>
      have h1 := State.memOk.of_park e (.gridReads h)
      exact .next h1
    next e =>
      have h1 := State.memOk.of_park e (.gridReads h)
      exact .next h1
    next e =>
      have h1 := State.memOk.of_done e (.gridReads h)
      exact .next h1

theorem Out3.MemOk.execSclfeed (h : s.memOk) : Out3.MemOk (execSclfeed b c s) :=
  .ite (.next (.precise h)) (.finish (.bind (.checkedPorts h) fun _ _ h1 => .ite h1 (.ite h1 (.bind (.pathSeq h1) fun _ _ h2 => .doneS h2))))

theorem Res.All.layoutChunks {src dst : Layout} {bits : Nat} {sva dva : Word} {f : Nat → Nat} (h : s.memOk) :
    (s.layoutChunks src dst bits sva dva f fuel).All State.memOk := by
  induction fuel generalizing s with
  | zero => exact h
  | succ k ih =>
    rw [State.layoutChunks]
    exact .bind (.pathSeq h) fun _ _ h1 => .bind (.chunkWrites h1) fun _ _ h2 => .ite (.pause h2) (ih h2)

theorem Out3.MemOk.layout {a : SReg} {dp sp cnt : List SReg} {count : State → Nat} {src dst : State → Layout} {bits : Nat} {f : Nat → Nat}
    (h : s.memOk) : Out3.MemOk (s.layout a b dp sp cnt count src dst bits f) := by
  unfold State.layout
  refine .finish (.bind (.checkedPorts h) ?_)
  intro _ _ h1
  split
  next e => exact .of_trap e (.layoutChunks h1)
  next e => exact .doneS (.of_ok e (.layoutChunks h1))
  · exact .layoutChunks h1

theorem Out3.MemOk.planing {toPlanes : Bool} {a : SReg} {cnt : List SReg} {count : State → Nat} {f : BitVec 4} (h : s.memOk) :
    Out3.MemOk (s.planing toPlanes a b c cnt count f) := .ite (.layout h) (.layout h)

theorem Out3.MemOk.residues {a : SReg} {cnt : List SReg} {count : State → Nat} {r15 : Bool} {fs : BitVec 4} (h : s.memOk) :
    Out3.MemOk (s.residues a b cnt count r15 fs) := .layout h

theorem Out3.MemOk.execDld {d : DReg} (h : s.memOk) : Out3.MemOk (execDld d b s) :=
  .finish (.bind (.memPorts h) fun _ _ h1 => .bind (.ordinary h1) fun _ _ h2 => .retire (.wd (.pops h2)))

theorem Out3.MemOk.execDsv {d : DReg} (h : s.memOk) : Out3.MemOk (execDsv d b s) :=
  .finish (.bind (.memPorts h) fun _ _ h1 => .bind (.ordinary h1) fun _ _ h2 => .doneS h2)

theorem Out3.MemOk.execDput {d : DReg} {w : BitVec 2} (h : s.memOk) : Out3.MemOk (execDput d c w s) :=
  .finish (.bind (.ports h) fun _ _ h1 => .retire (.wd (.pops h1)))

theorem Out3.MemOk.execDins {d : DReg} {w : BitVec 2} {pos len : BitVec 6} (h : s.memOk) : Out3.MemOk (execDins d c w pos len s) :=
  .finish (.bind (.ports h) fun _ _ h1 => .retire (.wd (.pops h1)))

theorem Out3.MemOk.execDinit {d : DReg} {tr : BitVec 1} {ro co : BitVec 16} (h : s.memOk) : Out3.MemOk (execDinit d b c tr ro co s) :=
  .finish (.bind (.ports h) fun _ _ h1 => .retire (.wd (.pops h1)))

/-! ### Blocks and tiles -/

theorem Res.All.createBlank {op : TileOp} {d b : DReg} {c : Option DReg} (h : s.memOk) : (s.createBlank op d b c rm).All State.memOk := by
  unfold State.createBlank
  dsimp only
  split
  · exact h
  · exact .bind (.bind (.ite h (.demand h)) fun _ _ h1 => .ite h1 (.demand h1)) fun _ _ h1 => h1

theorem Out3.MemOk.tile {op : TileOp} {d b : DReg} {c : Option DReg} (h : s.memOk) : Out3.MemOk (s.tile op d b c rm) :=
  .finish (.bind (.createBlank h) fun _ _ h1 => h1)

theorem Out3.MemOk.execTmap {d b : DReg} {e : SReg} {fn : BitVec 2} (h : s.memOk) : Out3.MemOk (execTmap d b c e fn rm s) :=
  .finish (.bind (.ports h) fun _ _ h1 => .bind (.createBlank h1) fun _ _ h2 => .doneS h2)

theorem State.memOk.setDemand {f : Demand → Demand} (h : s.memOk) : (s.setDemand core f).memOk := h

theorem Res.All.blockerAcc {line : Nat} (h : s.memOk) : (s.blockerAcc core line kind a).All State.memOk := by
  unfold State.blockerAcc
  split
  · exact .holdOn h
  · exact .bind (State.memOk_bank _ _ _ _ _ _ _ (.unhold h)) fun _ _ h1 => h1

theorem Res.All.blockReads {x : List (Nat × BitVec 64)} (h : s.memOk) : (s.blockReads core x).All State.memOk := by
  induction x generalizing s with
  | nil => exact h
  | cons a as ih =>
    rw [State.blockReads]
    split
    next e =>
      have h1 := State.memOk.of_ok e (.blockerAcc h)
      exact .ite (.post h1) (ih h1)
    next e => exact .of_trap e (.blockerAcc h)
    next e => exact .of_park e (.blockerAcc h)
    next e => exact .of_done e (.blockerAcc h)

theorem Res.All.blockWrites {x : List (Nat × Line × Line)} (h : s.memOk) : (s.blockWrites core slot x).All State.memOk := by
  induction x generalizing s with
  | nil => exact h
  | cons a as ih =>
    rw [State.blockWrites]
    dsimp only
    split
    · exact .post h
    · split
      next e =>
        have h1 := State.memOk.of_ok e (.blockerAcc h)
        exact .ite (.post (.unstage h1)) (ih (.unstage h1))
      next e => exact .of_trap e (.blockerAcc h)
      next e => exact .of_park e (.blockerAcc h)
      next e => exact .of_done e (.blockerAcc h)

theorem State.memOk.endDemand {failed : Bool} (h : s.memOk) : (s.endDemand core failed).memOk := by
  unfold State.endDemand
  dsimp only
  split
  · exact .resume (.ite (.settle (.ite h h)) (.ite h h))
  · exact h

theorem State.memOk.endForced {depth : Nat} (h : s.memOk) : (s.endForced core depth).memOk := h

theorem State.memOk.deferred {b : Blank} (h : s.memOk) : (s.deferred t b i).memOk :=
  .ite (.fatal h) (.wakeOrder (.takeTrap h))

theorem State.memOk.reportBlock {d : Demand} {k : DBlock} {b : Blank} (h : s.memOk) : (s.reportBlock core d k t b i).memOk := by
  unfold State.reportBlock
  refine .ite ?_ ?_
  · have hb : (if 0 < k.depth then s.endForced core k.depth else s.endDemand core true).memOk := by
      refine .ite ?_ ?_
      · exact .same h ⟨rfl, rfl⟩
      · exact .endDemand h
    exact .same hb ⟨rfl, rfl⟩
  · refine .ite ?_ ?_
    · split <;> exact .deferred (.settle (.same h ⟨rfl, rfl⟩))
    · refine .addLate (.ite ?_ ?_)
      · exact .same h ⟨rfl, rfl⟩
      · exact .endDemand h

theorem State.memOk.blockFail {d : Demand} {k : DBlock} {b : Blank} {lines : List (Nat × BitVec 64)} (h : s.memOk) :
    (s.blockFail core d k b lines i).memOk := .reportBlock h

theorem State.memOk.blockDone {d : Demand} {k : DBlock} {b : Blank} {fl : Flags} (h : s.memOk) : (s.blockDone core d k b fl).memOk :=
  .ite (.reportBlock (.setDemand (.ite h h))) (.setDemand (.ite h h))

theorem State.memOk.stalled (h : s.memOk) : (s.stalled core w).memOk := by
  unfold State.stalled
  split <;> exact h

theorem State.memOk.blockRun {d : Demand} {k : DBlock} {b : Blank} (h : s.memOk) : (s.blockRun core d k b).memOk := by
  unfold State.blockRun
  dsimp only
  split
  next e =>
    have h1 := State.memOk.of_trap e (.blockReads h)
    exact .blockFail h1
  next e =>
    have h1 := State.memOk.of_park e (.blockReads h)
    exact .stalled h1
  next e =>
    have h1 := State.memOk.of_done e (.blockReads h)
    exact h1
  next e =>
    have h1 := State.memOk.of_ok e (.blockReads h)
    split
    next e1 =>
      have h2 := State.memOk.of_trap e1 (.blockWrites h1)
      exact .blockFail h2
    next e1 =>
      have h2 := State.memOk.of_park e1 (.blockWrites h1)
      exact .stalled h2
    next e1 =>
      have h2 := State.memOk.of_done e1 (.blockWrites h1)
      exact h2
    next e1 =>
      have h2 := State.memOk.of_ok e1 (.blockWrites h1)
      exact .blockDone h2

theorem Out3.MemOk.execBlockEvaluation (h : s.memOk) : Out3.MemOk (execBlockEvaluation core s) := by
  unfold Machine.execBlockEvaluation
  dsimp only
  split
  · exact .next (State.memOk.ite h (.gridFree h))
  · split
    · exact .next (.gridFree (.endDemand h))
    · split
      · exact .next h
      · exact .ite (.next (.gridFree (.blockFail h)))
          (.ite (.next (.post h)) (.ite (.next (.post h)) (.ite (.next (.blockRun h)) (.next (.gridFree (.blockRun h))))))

theorem Out3.MemOk.forceRows {b : DReg} {r0 r1 : Nat} (h : s.memOk) : Out3.MemOk (s.forceRows b r0 r1) :=
  .ite (.next (.precise h)) (.finish (.bind (.demand h) fun _ _ h1 => h1))

theorem State.memOk.dropBlanks {keep : Nat → Bool} (h : s.memOk) : (s.dropBlanks keep).memOk :=
  .ite h (.post (.ite h h))

theorem Res.All.tstAcc (h : s.memOk) : (s.tstAcc core off a).All State.memOk :=
  .bind (.lsPerform h) fun _ _ h1 => .ite (State.memOk.ite (.unstage h1) h1) h1

theorem Res.All.takeGrid (h : s.memOk) : s.takeGrid.All State.memOk :=
  .ite h (.ite (State.memOk.ite (.post h) h) h)

theorem State.memOk.giveGrid (h : s.memOk) : s.giveGrid.memOk := .ite h h

theorem Res.All.tstReads {x : List (Nat × Nat × BitVec 64)} (h : s.memOk) : (s.tstReads x).All State.memOk := by
  induction x generalizing s with
  | nil => exact h
  | cons a as ih =>
    rw [State.tstReads]
    split
    next e =>
      have h1 := State.memOk.of_ok e (.tstAcc h)
      exact .ite (.pause h1) (ih h1)
    next e =>
      have h1 := State.memOk.of_trap e (.tstAcc h)
      exact h1
    next e =>
      have h1 := State.memOk.of_park e (.tstAcc h)
      exact h1
    next e =>
      have h1 := State.memOk.of_done e (.tstAcc h)
      exact h1

theorem Res.All.tstWrites {va : Nat → Word} {x : List (Nat × Nat × Line × Line)} (h : s.memOk) : (s.tstWrites core va x).All State.memOk := by
  induction x generalizing s with
  | nil => exact h
  | cons a as ih =>
    rw [State.tstWrites]
    split
    next e =>
      have h1 := State.memOk.of_ok e (.takeGrid h)
      split
      next e1 =>
        have h2 := State.memOk.of_ok e1 (.tstAcc h1)
        exact .ite (.pause (.ite h2 (.giveGrid h2))) (ih (.ite h2 (.giveGrid h2)))
      next e1 => exact .of_trap e1 (.tstAcc h1)
      next e1 => exact .of_park e1 (.tstAcc h1)
      next e1 => exact .of_done e1 (.tstAcc h1)
    · exact .takeGrid h

theorem Res.All.tstEnd {r : Res Unit} (h : r.All State.memOk) : r.tstEnd.All State.memOk := by
  cases r with
  | ok a s => exact .gridFree (.giveGrid h)
  | trap i s => exact .gridFree (.giveGrid h)
  | park w s => exact h
  | done s => exact h

theorem Out3.MemOk.execTst {d b : DReg} (h : s.memOk) : Out3.MemOk (execTst d b s) := by
  unfold Machine.execTst
  dsimp only
  split
  · exact .next (.precise h)
  · refine .finish (.tstEnd ?_)
    refine .bind
      (.bind (.ite (.demand (State.memOk.ite (.giveGrid h) h)) (State.memOk.ite (.giveGrid h) h)) fun _ _ h1 =>
      .ite h1 (.bind (.takeGrid h1) fun _ _ h2 => .tstReads h2)) fun _ _ h1 => ?_
    refine .bind (.tstWrites h1) fun _ _ h2 => ?_
    split <;> exact h2

/-! ### The copy and pattern engines -/

theorem Res.All.startIndex (h : s.memOk) : (s.startIndex off).All State.memOk := by
  unfold State.startIndex
  split
  · exact h
  · exact .bind (.rawCheck h) fun _ _ h1 => h1

theorem Out3.MemOk.copy {t : SReg} {g : Option SReg} {rs : Bool} {dec : BitVec 16} (h : s.memOk) : Out3.MemOk (s.copy t b c g rs dec) := by
  unfold State.copy
  dsimp only
  refine .finish (.bind (.checkedPorts h) ?_)
  intro _ _ h1
  refine .bind (State.memOk_sequence _ h1) fun _ _ h2 => ?_
  split
  · exact h2
  · exact .bind (.ite (.startIndex h2) h2) fun _ _ h3 => .ite h3 (.doneS (.post h3))

theorem Res.All.copyAcc {k : CopyCmd} (h : s.memOk) : (s.copyAcc core k a).All State.memOk :=
  .bind (.precheck h) fun _ _ h1 => .perform h1

theorem State.memOk.copyFail {side : Nat} (h : s.memOk) : (s.copyFail core side i).memOk := .post h

theorem State.memOk.copyTake (h : s.memOk) : (s.copyTake core).memOk := .wakeCore h

theorem State.memOk.copyStep {k : CopyCmd} (h : s.memOk) : (s.copyStep core k).memOk := by
  unfold State.copyStep
  split
  · split
    next e =>
      have h1 := State.memOk.of_ok e (.copyAcc h)
      exact .post h1
    next e =>
      have h1 := State.memOk.of_trap e (.copyAcc h)
      exact .copyFail h1
    next e =>
      have h1 := State.memOk.of_park e (.copyAcc h)
      exact h1
    next e =>
      have h1 := State.memOk.of_done e (.copyAcc h)
      exact h1
  · split
    next e =>
      have h1 := State.memOk.of_ok e (.copyAcc h)
      exact State.memOk.ite (.post h1) (.post h1)
    next e =>
      have h1 := State.memOk.of_trap e (.copyAcc h)
      exact .copyFail h1
    next e =>
      have h1 := State.memOk.of_park e (.copyAcc h)
      exact h1
    next e =>
      have h1 := State.memOk.of_done e (.copyAcc h)
      exact h1

theorem Out3.MemOk.execCopyCommandStart (h : s.memOk) : Out3.MemOk (execCopyCommandStart core s) := by
  unfold Machine.execCopyCommandStart
  split
  · exact .next h
  · exact .ite (.next (.post (.ite h (.copyTake h))))
      (.ite (.next (.ite (.post (.ite h (.copyTake h))) (.ite h (.copyTake h))))
      (.ite (.next (.copyFail (.ite h (.copyTake h)))) (.next (.copyStep (.ite h (.copyTake h))))))

theorem State.memOk.releaseToken {token : Nat} (h : s.memOk) : (s.releaseToken token).memOk := h

theorem State.memOk.writeToken {token : Nat} {w : Word} (h : s.memOk) : (s.writeToken core token w).memOk :=
  .ite h (State.memOk_putNew _ _ _ _ _ (.watch h))

theorem State.memOk.copyEnd {k : CopyCmd} {status : BitVec 18} (h : s.memOk) : (s.copyEnd core k status).memOk := by
  unfold State.copyEnd
  dsimp only
  split
  next e =>
    have h1 := State.memOk.of_ok e (.demand h)
    exact State.memOk.ite (.wakeCore (.releaseToken (.leave (.setCore (.same (.writeToken h1) ⟨rfl, rfl⟩)))))
      (.post (.wakeCore (.releaseToken (.leave (.setCore (.same (.writeToken h1) ⟨rfl, rfl⟩))))))
  next e =>
    have h1 := State.memOk.of_park e (.demand h)
    exact h1
  next e =>
    have h1 := State.memOk.of_trap e (.demand h)
    exact h1
  next e =>
    have h1 := State.memOk.of_done e (.demand h)
    exact h1

theorem State.memOk.copyLanded {k : CopyCmd} {st : BitVec 18} (h : s.memOk) : (s.copyLanded core k st).memOk := by
  unfold State.copyLanded
  split
  · exact .copyEnd h
  · split
    next e => exact .copyEnd (State.memOk.of_ok e (.copyAcc h))
    next e => exact .copyEnd (State.memOk.of_trap e (.copyAcc h))
    next e => exact .copyEnd (State.memOk.of_done e (.copyAcc h))
    next e =>
      have h1 := State.memOk.of_park e (.copyAcc h)
      exact h1

theorem Out3.MemOk.execCopyCommandEnd (h : s.memOk) : Out3.MemOk (execCopyCommandEnd core s) := by
  unfold Machine.execCopyCommandEnd
  split
  · exact .next h
  · split
    · exact .ite (.next (.copyEnd h)) (.ite (.next (.copyStep h)) (.next (.copyLanded h)))
    · refine .ite (.next h) ?_
      split
      · exact .next (.copyEnd h)
      · refine .ite (.next (.copyEnd h)) (.ite (.next (.copyFail h)) ?_)
        split
        next e =>
          have h1 := State.memOk.of_ok e (.copyAcc h)
          exact .next (.post h1)
        next e =>
          have h1 := State.memOk.of_trap e (.copyAcc h)
          exact .next (.copyFail h1)
        next e =>
          have h1 := State.memOk.of_park e (.copyAcc h)
          exact .next h1
        next e =>
          have h1 := State.memOk.of_done e (.copyAcc h)
          exact .next h1

theorem Out3.MemOk.execCopyNext (h : s.memOk) : Out3.MemOk (execCopyNext core s) :=
  .ite (.execCopyCommandEnd h) (.execCopyCommandStart h)

theorem Out3.MemOk.execDrawV {d : VReg} (h : s.memOk) : Out3.MemOk (execDrawV d s) :=
  .finish (.bind (.ports h) fun _ _ h1 => .retire (.wv h1))

/-! ### Faults of translation -/

theorem State.memOk.awaitService {page : Nat} (h : s.memOk) : (s.awaitService ctx page ag).memOk := by
  unfold State.awaitService
  split
  · exact h
  · exact .ite (.post h) h
  · split <;> exact h
  · exact h
  · exact h

theorem State.memOk.retryPage {page : Nat} (h : s.memOk) : (s.retryPage page ag).memOk := by
  unfold State.retryPage
  split
  · exact .ite (.wake h) h
  · exact .resume h

theorem State.memOk.pageTrap {page : Nat} (h : s.memOk) : (s.pageTrap ctx page i ag).memOk := by
  unfold State.pageTrap
  split
  · exact .preciseOf h
  · split
    · exact .itemDone h
    · exact h
  · split
    · exact .copyFail h
    · exact h
  · exact h

theorem Out3.MemOk.execTranslationWalk {w : Nat} (h : s.memOk) : Out3.MemOk (execTranslationWalk w s) := by
  unfold Machine.execTranslationWalk
  dsimp only
  split
  · exact .next h
  · split
    · exact .next (.foldl (fun _ _ h1 => .retryPage h1) (.foldl (fun _ _ h1 => .same h1 ⟨rfl, rfl⟩) (.same h ⟨rfl, rfl⟩)))
    · exact .next (.foldl (fun _ _ h1 => .pageTrap h1) (.same h ⟨rfl, rfl⟩))
    · exact .next (.recordFaults (.foldl (fun _ _ h1 => .awaitService h1) (.raiseFault (.same h ⟨rfl, rfl⟩))))

theorem State.memOk.refuse {r : FaultRec} (h : s.memOk) : (s.refuse r ag).memOk := by
  unfold State.refuse
  split
  · exact .pageTrap h
  · exact .pageTrap h
  · exact .pageTrap h
  · exact h
  · exact h
  · exact h
  · exact h
  · exact h
  · exact h
  · exact .resume h

theorem State.memOk.service {r : FaultRec} {retry : Bool} (h : s.memOk) : (s.service r retry).memOk :=
  .ite (.foldl (fun _ _ h1 => .retryPage h1) h) (.foldl (fun _ _ h1 => .refuse h1) h)

theorem Res.All.ackRead {idx : BitVec 32} {known : Bool} (h : s.memOk) : (s.ackRead fn ctx idx known).All State.memOk := by
  unfold State.ackRead
  refine .bind ?_ (fun _ _ h1 => .ite h1 (.bind (.uLoad h1) fun _ _ h2 => .bind (.uLoad h2) fun _ _ h3 => .uLoad h3))
  split
  next e => exact .of_trap e (.uStore h)
  · exact .uStore h

theorem State.memOk.ackDrop (h : s.memOk) : (s.ackDrop fn).memOk := h

theorem State.memOk.ackWork (h : s.memOk) : (s.ackWork fn fuel).memOk := by
  induction fuel generalizing s with
  | zero => exact h
  | succ k ih =>
    have taken : ∀ {u : State} {f : HostFn}, u.memOk → ((u.ackDrop fn).setFn fn f).memOk := fun hu => .setFn (.ackDrop hu)
    rw [State.ackWork]
    dsimp only
    split
    · exact h
    · split
      · exact ih (.ackDrop h)
      · split
        next e => exact .of_park e (.ackRead h)
        next e =>
          have h1 := State.memOk.of_ok e (.ackRead h)
          refine ih (.recordFaults ?_)
          split
          · exact .service (taken h1)
          · exact taken h1
        next e =>
          have h1 := State.memOk.of_trap e (.ackRead h)
          refine ih (.recordFaults ?_)
          split
          · exact .service (taken h1)
          · exact taken h1
        next e => exact ih (.ackDrop (.of_done e (.ackRead h)))

theorem Res.All.tcinv {range : Option (Word × Word)} {done : State → State} (h : s.memOk) (hdone : ∀ a0, a0.memOk → (done a0).memOk) :
    (s.tcinv sc range done).All State.memOk := .ite (hdone _ h) (.post h)

theorem Out3.MemOk.execTcinvM (h : s.memOk) : Out3.MemOk (execTcinvM b c sc s) :=
  .finish (.bind (.ports h) fun _ _ h1 => .tcinv h1 fun _ h2 => .doneS h2)

theorem Out3.MemOk.execTcinvAcknowledgement (h : s.memOk) : Out3.MemOk (execTcinvAcknowledgement core slot s) := by
  unfold Machine.execTcinvAcknowledgement
  dsimp only
  split
  · exact .ite (.next (.wake h)) (.next h)
  · exact .next h

theorem Out3.MemOk.execSleep (h : s.memOk) : Out3.MemOk (execSleep b s) :=
  .finish (.bind (.ports h) fun _ _ h1 => .ite (.doneS h1) (.ite (.ite (.doneS h1) h1) h1))

/-! ### Replay -/

theorem Res.All.replayStatus {st : Nat} (h : s.memOk) : (s.replayStatus ag r st).All State.memOk := .uStore h

theorem Res.All.replayRecord (h : s.memOk) : (s.replayRecord ag r).All State.memOk := .uLoads h

theorem Res.All.snapshots {x : List (Word × Word)} (h : s.memOk) : (s.snapshots ag r k x).All State.memOk := by
  induction x generalizing s ag r k with
  | nil => exact h
  | cons a as ih =>
    rw [State.snapshots]
    exact .ite (ih h) (.bind (.uLoads h) fun _ _ h1 => .bind (ih h1) fun _ _ h2 => h2)

theorem Res.All.digested {x : List (Word × Word)} (h : s.memOk) : (s.digested ag ctx x).All State.memOk := by
  induction x generalizing s with
  | nil => exact h
  | cons a as ih =>
    rw [State.digested]
    exact .ite (ih h) (.bind (.uLoads h) fun _ _ h1 => .bind (ih h1) fun _ _ h2 => h2)

theorem Res.All.replayDigest (h : s.memOk) : (s.replayDigest ag r).All State.memOk :=
  .bind (.replayRecord h) fun _ _ h1 => .bind (.digested h1) fun _ _ h2 => h2

theorem Res.All.logPut {ty idx payload : Nat} (h : s.memOk) : (s.logPut ag r ty idx len payload).All State.memOk :=
  .bind (.uLoad h) fun _ _ h1 => .bind (.uLoad h1) fun _ _ h2 => .bind (.uLoad h2) fun _ _ h3 =>
    .ite h3 (.bind (.uStores h3) fun _ _ h4 => .bind (.uStore h4) fun _ _ h5 => h5)

theorem Res.All.readLog {base : Word} {size at_ : Nat} (h : s.memOk) : (s.readLog ag ctx base size fuel at_).All State.memOk := by
  induction fuel generalizing s ag ctx base size at_ with
  | zero => exact h
  | succ k ih =>
    rw [State.readLog]
    exact .ite h
      (.bind (.uLoad h) fun _ _ h1 => .bind (.uLoad h1) fun _ _ h2 => .ite h2 (.bind (.uLoads h2) fun _ _ h3 => .bind (ih h3) fun _ _ h4 => h4))

theorem Res.All.restoreSnapshots {x : List LogEntry} (h : s.memOk) : (s.restoreSnapshots ag ctx x).All State.memOk := by
  induction x generalizing s with
  | nil => exact h
  | cons a as ih =>
    rw [State.restoreSnapshots]
    exact .ite (ih h) (.bind (.uStores h) fun _ _ h1 => ih h1)

theorem Res.All.logJob {x : LogJob} (h : s.memOk) : (s.logJob ag r x).All State.memOk := by
  unfold State.logJob
  split
  · exact .bind (.replayRecord h) fun _ _ h1 => .ite h1 (.bind (.uStore h1) fun _ _ h2 => .bind (.replayStatus h2) fun _ _ h3 => h3)
  · exact .bind (.replayRecord h) fun _ _ h1 => .bind (.snapshots h1) fun _ _ h2 => h2
  · exact .logPut h
  · exact .bind (.replayDigest h) fun _ _ h1 => h1
  · exact .bind (.replayStatus h) fun _ _ h1 => h1
  · exact .bind (.replayRecord h) fun _ _ h1 =>
      .ite h1 (.bind (.replayStatus h1) fun _ _ h2 => .bind (.readLog h2) fun _ _ h3 => .bind (.restoreSnapshots h3) fun _ _ h4 => h4)
  · exact .bind (.replayDigest h) fun _ _ h1 => .ite h1 h1

theorem State.memOk.logOver (h : s.memOk) : (s.logOver r).memOk := .ite h h

theorem State.memOk.logWork (h : s.memOk) : (s.logWork fn fuel).memOk := by
  induction fuel generalizing s with
  | zero => exact h
  | succ k ih =>
    rw [State.logWork]
    dsimp only
    split
    · exact h
    · split
      · exact .ite (.post h) h
      · split
        next e => exact .of_park e (.logJob h)
        next e =>
          have h1 := State.memOk.of_ok e (.logJob h)
          split
          · exact h1
          · split
            · exact ih h1
            · exact .logOver h1
        next e =>
          have h1 := State.memOk.of_trap e (.logJob h)
          exact .ite (.logOver h1) (ih h1)
        next e =>
          have h1 := State.memOk.of_done e (.logJob h)
          exact .ite (.logOver h1) (ih h1)

theorem State.memOk.logWorks (h : s.memOk) : s.logWorks.memOk :=
  .foldl (fun _ _ h1 => .ite h1 (.logWork h1)) h

/-! ### The reward units -/

theorem State.memOk.setGroup {g : Group} (h : s.memOk) : (s.setGroup u k g).memOk := h

theorem State.memOk.joinKick (h : s.memOk) : (s.joinKick u).memOk := .foldl (fun _ _ h1 => .post h1) h

theorem Res.All.writeBack {g : Group} {v : Nat} (h : s.memOk) : (s.writeBack ag g off n v).All State.memOk := by
  unfold State.writeBack
  split
  next e => exact .of_trap e (.uStore h)
  · exact .uStore h

theorem Res.All.ringJob {g : Group} {x : RingJob} (h : s.memOk) : (s.ringJob ag g x).All State.memOk := by
  unfold State.ringJob
  split
  · exact .bind (.uStore h) fun _ _ h1 => .writeBack h1
  · exact .writeBack h

theorem State.memOk.ringWork {b : Nat} (h : s.memOk) : (s.ringWork u b fuel).memOk := by
  induction fuel generalizing s with
  | zero => exact h
  | succ k ih =>
    have after : ∀ {v : State} {g : Group} {j : JoinUnit}, v.memOk → (((v.unitEnd (.group u b)).setGroup u b g).setJoin u j).memOk :=
      fun hv => .same hv ⟨rfl, rfl⟩
    rw [State.ringWork]
    split
    · exact h
    · dsimp only
      split
      · exact h
      · split
        next e => exact .of_park e (.ringJob h)
        next e => exact ih (after (.of_ok e (.ringJob h)))
        next e => exact ih (after (.of_trap e (.ringJob h)))
        next e => exact ih (after (.of_done e (.ringJob h)))

theorem State.memOk.ringAdd {b : Nat} {w : RingJob} (h : s.memOk) : (s.ringAdd u b w).memOk := by
  unfold State.ringAdd
  split
  · exact .ringWork h
  · exact h

theorem State.memOk.joinClock (h : s.memOk) : (s.joinClock u).memOk :=
  .joinKick (.foldl (fun _ _ h1 => .ite h1 (.ringWork h1)) h)

theorem State.memOk.closeEntry {out : Nat} (h : s.memOk) : (s.closeEntry u k e out).memOk := h

theorem State.memOk.closeStale {b out reason : Nat} {count : Word} (h : s.memOk) : (s.closeStale u k e b out reason count).memOk :=
  .joinKick (.closeEntry (.ringAdd h))

theorem State.memOk.closeFailed (h : s.memOk) : (s.closeFailed u k e).memOk := by
  unfold State.closeFailed
  split
  · exact .closeStale h
  · exact h

theorem State.memOk.completeEntry {tout : Bool} (h : s.memOk) : (s.completeEntry u k e tout).memOk := by
  unfold State.completeEntry
  dsimp only
  split
  · exact h
  · exact .ite (.closeStale h) (.joinKick h)

theorem State.memOk.entryEnd (h : s.memOk) : (s.entryEnd u k e).memOk := .joinKick h

theorem Out3.MemOk.execZeroFillDone {u : BitVec 1} (h : s.memOk) : Out3.MemOk (execZeroFillDone u ent s) := by
  unfold Machine.execZeroFillDone
  dsimp only
  split
  · exact .next h
  · refine .ite (.next h) ?_
    split
    next e =>
      have h1 := State.memOk.of_ok e (.uStores h)
      exact .next (.entryEnd h1)
    next e =>
      have h1 := State.memOk.of_park e (.uStores h)
      exact .next h1
    next e =>
      have h1 := State.memOk.of_trap e (.uStores h)
      exact .next (.closeFailed h1)
    next e =>
      have h1 := State.memOk.of_done e (.uStores h)
      exact .next (.closeFailed h1)

theorem Out3.MemOk.execPartRecorded {u : BitVec 1} (h : s.memOk) : Out3.MemOk (execPartRecorded u ent s) := by
  unfold Machine.execPartRecorded
  dsimp only
  split
  · exact .next h
  · split
    · exact .next h
    · refine .ite (.next h) ?_
      split
      next e =>
        have h1 := State.memOk.of_ok e (.uStores h)
        exact .ite (.next (.completeEntry h1)) (.next (.joinKick h1))
      next e =>
        have h1 := State.memOk.of_park e (.uStores h)
        exact .next h1
      next e =>
        have h1 := State.memOk.of_trap e (.uStores h)
        exact .next (State.memOk.ite (.closeStale h1) (.closeFailed h1))
      next e =>
        have h1 := State.memOk.of_done e (.uStores h)
        exact .next (State.memOk.ite (.closeStale h1) (.closeFailed h1))

theorem Out3.MemOk.execDeadline {u : BitVec 1} (h : s.memOk) : Out3.MemOk (execDeadline u s) := by
  unfold Machine.execDeadline
  refine .ite (.next h) (.next (.foldl (fun _ _ h1 => .ite ?_ (.completeEntry h1)) h))
  split
  · exact .closeStale h1
  · exact h1

theorem State.memOk.dropMessage (h : s.memOk) : (s.dropMessage u).memOk :=
  .joinKick (.foldl (fun _ _ h1 => .wake h1) h)

theorem Out3.MemOk.execRewardMessageHandling {u : BitVec 1} (h : s.memOk) : Out3.MemOk (execRewardMessageHandling u s) := by
  unfold Machine.execRewardMessageHandling
  dsimp only
  split
  · exact .next h
  · refine .ite (.next h) ?_
    split
    · exact .next (.dropMessage h)
    · refine .ite (.next (.dropMessage (.ringAdd h))) ?_
      split
      · exact .next (.dropMessage (.ringAdd h))
      · exact .ite (.next (.dropMessage (.ringAdd h)))
          (.ite (.next (.dropMessage h))
          (.ite (.next (.dropMessage (.ringAdd h))) (.ite (.next (.dropMessage (.ringAdd h))) (.next (.dropMessage h)))))

theorem State.memOk.acceptMessage {m : RewardMsg} (h : s.memOk) (u : State) (e : s.acceptMessage m = some u) : u.memOk := by
  unfold State.acceptMessage at e
  dsimp only at e
  split at e
  · cases e
  · cases e
    exact .joinKick (.setJoin h)

theorem Out3.MemOk.execFullerScanDone {u : BitVec 1} (h : s.memOk) : Out3.MemOk (execFullerScanDone u ent s) := by
  unfold Machine.execFullerScanDone
  dsimp only
  split
  · exact .next h
  · refine .ite (.next h) ?_
    split
    next e =>
      have h1 := State.memOk.of_ok e (Res.All.bind (.uLoads h) fun _ _ h1 => Res.All.bind (.uLoads h1) fun _ _ h2 => .uStores h2)
      exact .next (.entryEnd h1)
    next e =>
      have h1 := State.memOk.of_park e (Res.All.bind (.uLoads h) fun _ _ h1 => Res.All.bind (.uLoads h1) fun _ _ h2 => .uStores h2)
      exact .next h1
    next e =>
      have h1 := State.memOk.of_trap e (Res.All.bind (.uLoads h) fun _ _ h1 => Res.All.bind (.uLoads h1) fun _ _ h2 => .uStores h2)
      exact .next (.closeStale h1)
    next e =>
      have h1 := State.memOk.of_done e (Res.All.bind (.uLoads h) fun _ _ h1 => Res.All.bind (.uLoads h1) fun _ _ h2 => .uStores h2)
      exact .next (.closeStale h1)

theorem State.memOk.signalRelease {b : Nat} {g : Group} (h : s.memOk) : (s.signalRelease u k e b g).memOk := by
  unfold State.signalRelease
  dsimp only
  split
  next e1 =>
    have h1 := State.memOk.of_ok e1 (Res.All.bind (.writeBack h) fun _ _ h1 => .uSignal h1)
    exact .joinKick h1
  next e1 =>
    have h1 := State.memOk.of_trap e1 (Res.All.bind (.writeBack h) fun _ _ h1 => .uSignal h1)
    exact .joinKick (.closeEntry (.ringAdd h1))
  next e1 =>
    have h1 := State.memOk.of_done e1 (Res.All.bind (.writeBack h) fun _ _ h1 => .uSignal h1)
    exact .joinKick (.closeEntry (.ringAdd h1))
  next e1 =>
    have h1 := State.memOk.of_park e1 (Res.All.bind (.writeBack h) fun _ _ h1 => .uSignal h1)
    split <;> exact h1

theorem State.memOk.release (h : s.memOk) : (s.release u k e).memOk := by
  unfold State.release
  dsimp only
  split
  · exact h
  · refine State.memOk.ite (.signalRelease h) ?_
    split
    next e1 =>
      have h1 := State.memOk.of_park e1 (.uLoad h)
      exact h1
    next e1 =>
      have h1 := State.memOk.of_done e1 (.uLoad h)
      exact h1
    · refine State.memOk.ite ?_ ?_
      · refine .timer (.setGroup (.unitEnd ?_))
        split
        next e1 =>
          have h1 := State.memOk.of_ok e1 (.uLoad h)
          exact h1
        next e1 =>
          have h1 := State.memOk.of_trap e1 (.uLoad h)
          exact h1
        · exact h
      · split
        next e1 =>
          have h1 := State.memOk.of_ok e1 <| by
            refine .uStore ?_
            split
            next e2 =>
              have h1 := State.memOk.of_ok e2 (.uLoad h)
              exact h1
            next e2 =>
              have h1 := State.memOk.of_trap e2 (.uLoad h)
              exact h1
            · exact h
          exact .signalRelease h1
        next e1 =>
          have h1 := State.memOk.of_park e1 <| by
            refine .uStore ?_
            split
            next e2 =>
              have h1 := State.memOk.of_ok e2 (.uLoad h)
              exact h1
            next e2 =>
              have h1 := State.memOk.of_trap e2 (.uLoad h)
              exact h1
            · exact h
          exact h1
        next e1 =>
          have h1 := State.memOk.of_trap e1 <| by
            refine .uStore ?_
            split
            next e2 =>
              have h1 := State.memOk.of_ok e2 (.uLoad h)
              exact h1
            next e2 =>
              have h1 := State.memOk.of_trap e2 (.uLoad h)
              exact h1
            · exact h
          exact .closeStale (.ringAdd h1)
        next e1 =>
          have h1 := State.memOk.of_done e1 <| by
            refine .uStore ?_
            split
            next e2 =>
              have h1 := State.memOk.of_ok e2 (.uLoad h)
              exact h1
            next e2 =>
              have h1 := State.memOk.of_trap e2 (.uLoad h)
              exact h1
            · exact h
          exact .closeStale (.ringAdd h1)

theorem Out3.MemOk.execEpisodeRelease {u : BitVec 1} (h : s.memOk) : Out3.MemOk (execEpisodeRelease u ent s) := by
  unfold Machine.execEpisodeRelease
  dsimp only
  split
  · exact .next h
  · exact .ite (.next h) (.next (.release h))

theorem Out3.MemOk.execLreadReread {u : BitVec 1} {grp : Nat} (h : s.memOk) : Out3.MemOk (execLreadReread u grp s) := by
  unfold Machine.execLreadReread
  split
  · exact .ite (.next (.joinKick h)) (.next h)
  · exact .next h

theorem State.memOk.register {d : Vector Word 8} (h : s.memOk) : (s.register u ctx d).2.memOk := by
  unfold State.register
  refine .ite_snd h (.ite_snd h ?_)
  split
  · exact .ite_snd h h
  · refine .ite_snd h ?_
    split <;> exact h

theorem Res.All.bind_ {g : BitVec 4} {r : Word} (h : s.memOk) : (s.bind_ u ctx g v r).All State.memOk := by
  unfold State.bind_
  refine .ite ?_ ?_
  · split <;> exact h
  · refine .ite h ?_
    split
    next e => exact .of_park e (.uLoads h)
    next e => exact .of_done e (.uLoads h)
    next e => exact .of_trap e (.uLoads h)
    next e =>
      have h1 := State.memOk.of_ok e (.uLoads h)
      exact .ite h1 h1

theorem State.memOk.reply (h : s.memOk) : (s.reply t v).memOk := by
  unfold State.reply
  dsimp only
  split
  · exact .ite (.wake h) h
  · exact h

theorem Out3.MemOk.execUnitInstructionHandling {u : BitVec 1} (h : s.memOk) : Out3.MemOk (execUnitInstructionHandling u s) := by
  unfold Machine.execUnitInstructionHandling
  dsimp only
  split
  · exact .next h
  · refine .ite (.next h) ?_
    split
    · exact .next (.joinKick (.reply (.register h)))
    · split
      next e =>
        have h1 := State.memOk.of_ok e (.bind_ h)
        exact .next (.joinKick (.reply h1))
      next e =>
        have h1 := State.memOk.of_park e (.bind_ h)
        exact .next (.joinKick h1)
      next e =>
        have h1 := State.memOk.of_trap e (.bind_ h)
        exact .next h1
      next e =>
        have h1 := State.memOk.of_done e (.bind_ h)
        exact .next h1
    · exact .next (.joinKick (.reply h))

theorem Res.All.askUnit {i : UnitInstr} (h : s.memOk) : (s.askUnit u i).All State.memOk :=
  .setCont (.joinKick h)

theorem Res.All.unitReply {ask : State → Res Unit} (h : s.memOk) (hask : ∀ a0, a0.memOk → (ask a0).All State.memOk) :
    (s.unitReply srcs d ask).All State.memOk := .ite (.setS h) (.ite h (hask _ h))

theorem Res.All.readPathW (h : s.memOk) : (s.readPathW va).All State.memOk :=
  .ite h (.ite h (.bind (.precheck h) fun _ _ h1 => .ite (.farPerform h1) (.ite h1 h1)))

theorem Out3.MemOk.execEpreg (h : s.memOk) : Out3.MemOk (execEpreg d b s) :=
  .finish (.bind (.portsAfter h fun _ h1 => .ite h1 (.ite h1 (.ite h1 (.bind (.precheck h1) fun _ _ h2 => h2)))) fun _ _ h1 =>
    .unitReply h1 fun _ h2 => .ite h2 (.ite h2 (.bind (.fenceWait h2) fun _ _ h3 => .bind (.readPathW h3) fun _ _ h4 => .askUnit h4)))

theorem Out3.MemOk.execRlver {g : BitVec 4} (h : s.memOk) : Out3.MemOk (execRlver d b c g s) :=
  .finish (.bind (.ports h) fun _ _ h1 => .unitReply h1 fun _ h2 => .bind (.fenceWait h2) fun _ _ h3 => .askUnit h3)

theorem Out3.MemOk.execRjqry {g : BitVec 4} (h : s.memOk) : Out3.MemOk (execRjqry d b g s) :=
  .finish (.bind (.ports h) fun _ _ h1 => .unitReply h1 fun _ h2 => .askUnit h2)

theorem Out3.MemOk.execRpost {k hd : SReg} {r : VReg} (h : s.memOk) : Out3.MemOk (execRpost k hd r s) := by
  refine .finish (.bind (.ports h) fun _ _ h1 => .bind (.fenceWait h1) fun _ _ h2 => ?_)
  dsimp only
  split
  next e => exact State.memOk.retire (.pops (.acceptMessage h2 _ e))
  · exact h2

/-! ### Queues, packets and launches -/

theorem State.memOk.setQueue {q : Queue} (h : s.memOk) : (s.setQueue n q).memOk := h

theorem Res.All.depRead (h : s.memOk) : (s.depRead n ctx va).All State.memOk :=
  .bind (.uWord h) fun _ _ h1 => h1

theorem State.memOk.queueError {e : BitVec 8} (h : s.memOk) : (s.queueError n e).memOk := h

theorem State.memOk.evalHead (h : s.memOk) : (s.evalHead n).memOk := by
  have eligible : ∀ {u : State} {q : Queue}, u.memOk →
        ((((u.leave (.queue n)).unitEnd (.queue n)).setQueue n q).post .packetSelection).memOk := fun hu => .post (.setQueue (.unitEnd (.leave hu)))
  unfold State.evalHead
  dsimp only
  refine .ite h (.ite (.queueError h) ?_)
  split
  next e => exact .setQueue (.of_park e (.uLoads h))
  next e => exact .queueError (.of_trap e (.uLoads h))
  next e => exact .queueError (.of_done e (.uLoads h))
  · rename_i ws u e
    have h1 := State.memOk.of_ok e (.uLoads h)
    generalize (vecOf 16 ws)[7] = va
    refine .ite (.setQueue h1) (.ite (eligible h1) ?_)
    split
    next e =>
      have h2 := State.memOk.of_ok e (.depRead h1)
      exact .ite (eligible h2) (.setQueue (.unitEnd h2))
    next e => exact .setQueue (.of_park e (.depRead h1))
    next e => exact eligible (.of_trap e (.depRead h1))
    next e => exact eligible (.of_done e (.depRead h1))

theorem State.memOk.rereadAll (h : s.memOk) : s.rereadAll.memOk := .post h

theorem Out3.MemOk.execQueueWriteStore {q : BitVec 13} {v : BitVec 32} (h : s.memOk) : Out3.MemOk (execQueueWriteStore q v s) := by
  unfold Machine.execQueueWriteStore
  refine .ite (.next h) ?_
  split
  · exact .next h
  · exact .next (.evalHead h)

theorem State.memOk.advance (h : s.memOk) : (s.advance l).memOk := .ite h (.evalHead h)

theorem State.memOk.endLaunch (h : s.memOk) : (s.endLaunch l code).memOk := .post (.advance h)

theorem State.memOk.recordPacket (h : s.memOk) : (s.recordPacket l).memOk := by
  unfold State.recordPacket
  split
  · exact h
  · exact .ite h (.logWork h)

theorem State.memOk.toPlacing (h : s.memOk) : (s.toPlacing l).memOk := .post h

theorem State.memOk.checked {code : Option Nat} (h : s.memOk) : (s.checked l code).memOk := by
  unfold State.checked
  dsimp only
  split
  · exact .recordPacket h
  · refine .ite (.recordPacket h) ?_
    split
    · exact .endLaunch (.unitEnd (.recordPacket h))
    · exact .toPlacing (.unitEnd (.recordPacket h))

theorem State.memOk.check (h : s.memOk) : (s.check l).memOk := by
  unfold State.check
  refine .ite (.checked h) (.ite (.checked h) (.ite (.checked h) ?_))
  split
  next e => exact .of_park e (.uLoads h)
  next e => exact .checked (.of_trap e (.uLoads h))
  next e => exact .checked (.of_done e (.uLoads h))
  next e => exact .checked (.of_ok e (.uLoads h))

theorem State.memOk.select (h : s.memOk) : (s.select n).memOk := by
  unfold State.select
  dsimp only
  refine .ite (.queueError h) ?_
  split
  next e => exact .of_park e (.uLoads h)
  next e => exact .queueError (.of_trap e (.uLoads h))
  next e => exact .queueError (.of_done e (.uLoads h))
  next e => exact .check (.same (s := List.foldl _ _ _) (.foldl (fun _ _ h => .setQueue h) (.unitEnd (.of_ok e (.uLoads h)))) ⟨rfl, rfl⟩)

theorem Out3.MemOk.execPacketSelection (h : s.memOk) : Out3.MemOk (execPacketSelection s) := by
  unfold Machine.execPacketSelection
  refine .ite (.next h) ?_
  split
  · exact .next (.check h)
  · refine .ite (.next h) ?_
    split
    · exact .next (.ite (.select h) (.post (.select h)))
    · exact .next h

theorem State.memOk.zeroRegions {b : Nat} (h : s.memOk) : (s.zeroRegions n b k).memOk :=
  ⟨Memory.wf_zero _ _ h.1, SMap.wf_filter _ _ h.2⟩

theorem State.memOk.prepare {g : Nat} {rmap0 rmap1 : Word} (h : s.memOk) : (s.prepare g ctx p rmap0 rmap1).memOk :=
  .ite (.post (.zeroRegions h)) (.zeroRegions h)

theorem State.memOk.placeGang {lin gx nactive : Nat} {ps : List GangCore} (h : s.memOk) : (s.placeGang l lin gx nactive ps).memOk := by
  unfold State.placeGang
  refine .foldl (fun _ _ h1 => ?_) h
  split
  · exact h1
  · refine .foldl (fun _ _ h2 => ?_) (.prepare h1)
    split <;> exact h2

theorem State.memOk.placeRun {gx nactive lin : Nat} (h : s.memOk) : (s.placeRun l gx nactive fuel lin).2.memOk := by
  induction fuel generalizing s lin with
  | zero => exact h
  | succ k ih =>
    rw [State.placeRun]
    split
    · exact ih (.placeGang h)
    · exact h

theorem State.memOk.toRunning (h : s.memOk) : (s.toRunning l).memOk := .advance h

theorem State.memOk.placeLaunch (h : s.memOk) : (s.placeLaunch id).memOk := by
  unfold State.placeLaunch
  split
  · exact h
  · exact .ite h (.ite (.ite h (.toRunning (.placeRun h))) (.ite (.toRunning (.placeRun h)) (.ite h (.setLaunch (.placeRun h)))))

theorem Out3.MemOk.execGangPlacement (h : s.memOk) : Out3.MemOk (execGangPlacement s) :=
  .ite (.next h) (.next (.foldl (fun _ _ h1 => .post h1) (.foldl (fun _ _ h1 => .placeLaunch h1) h)))

theorem Res.All.writeStatus (h : s.memOk) : (s.writeStatus l).All State.memOk :=
  .ite h (.bind (.uAccess h) fun _ _ h1 => h1)

theorem State.memOk.digestLaunch (h : s.memOk) : (s.digestLaunch l).memOk := by
  unfold State.digestLaunch
  split
  · exact .ite h (.logWork h)
  · exact h

theorem State.memOk.dropLaunch (h : s.memOk) : (s.dropLaunch l).memOk :=
  .evalHead (.digestLaunch (.closeChans h))

theorem State.memOk.completeLaunch (h : s.memOk) : (s.completeLaunch l).memOk := by
  unfold State.completeLaunch
  dsimp only
  refine .ite ?_ ?_
  · refine .ite (.dropLaunch h) ?_
    split
    next e => exact .dropLaunch (.rereadAll (.of_ok e (.ite (.uSignal h) h)))
    next e => exact .of_park e (.ite (.uSignal h) h)
    next e =>
      have h1 := State.memOk.of_trap e (.ite (.uSignal h) h)
      split
      next e1 => exact .of_park e1 (.writeStatus h1)
      next e1 => exact .dropLaunch (.of_ok e1 (.writeStatus h1))
      next e1 => exact .dropLaunch (.of_trap e1 (.writeStatus h1))
      next e1 => exact .dropLaunch (.of_done e1 (.writeStatus h1))
    next e =>
      have h1 := State.memOk.of_done e (.ite (.uSignal h) h)
      split
      next e1 => exact .of_park e1 (.writeStatus h1)
      next e1 => exact .dropLaunch (.of_ok e1 (.writeStatus h1))
      next e1 => exact .dropLaunch (.of_trap e1 (.writeStatus h1))
      next e1 => exact .dropLaunch (.of_done e1 (.writeStatus h1))
  · split
    next e => exact .of_park e (.writeStatus h)
    next e =>
      have h1 := State.memOk.of_ok e (.writeStatus h)
      refine .ite (.dropLaunch h1) ?_
      split
      next e1 => exact .dropLaunch (.rereadAll (.of_ok e1 (.ite (.uSignal h1) h1)))
      next e1 => exact .of_park e1 (.ite (.uSignal h1) h1)
      next e1 =>
        have h2 := State.memOk.of_trap e1 (.ite (.uSignal h1) h1)
        split
        next e2 => exact .of_park e2 (.writeStatus h2)
        next e2 => exact .dropLaunch (.of_ok e2 (.writeStatus h2))
        next e2 => exact .dropLaunch (.of_trap e2 (.writeStatus h2))
        next e2 => exact .dropLaunch (.of_done e2 (.writeStatus h2))
      next e1 =>
        have h2 := State.memOk.of_done e1 (.ite (.uSignal h1) h1)
        split
        next e2 => exact .of_park e2 (.writeStatus h2)
        next e2 => exact .dropLaunch (.of_ok e2 (.writeStatus h2))
        next e2 => exact .dropLaunch (.of_trap e2 (.writeStatus h2))
        next e2 => exact .dropLaunch (.of_done e2 (.writeStatus h2))
    next e =>
      have h1 := State.memOk.of_trap e (.writeStatus h)
      refine .ite (.dropLaunch h1) ?_
      split
      next e1 => exact .dropLaunch (.rereadAll (.of_ok e1 (.ite (.uSignal h1) h1)))
      next e1 => exact .of_park e1 (.ite (.uSignal h1) h1)
      next e1 =>
        have h2 := State.memOk.of_trap e1 (.ite (.uSignal h1) h1)
        split
        next e2 => exact .of_park e2 (.writeStatus h2)
        next e2 => exact .dropLaunch (.of_ok e2 (.writeStatus h2))
        next e2 => exact .dropLaunch (.of_trap e2 (.writeStatus h2))
        next e2 => exact .dropLaunch (.of_done e2 (.writeStatus h2))
      next e1 =>
        have h2 := State.memOk.of_done e1 (.ite (.uSignal h1) h1)
        split
        next e2 => exact .of_park e2 (.writeStatus h2)
        next e2 => exact .dropLaunch (.of_ok e2 (.writeStatus h2))
        next e2 => exact .dropLaunch (.of_trap e2 (.writeStatus h2))
        next e2 => exact .dropLaunch (.of_done e2 (.writeStatus h2))
    next e =>
      have h1 := State.memOk.of_done e (.writeStatus h)
      refine .ite (.dropLaunch h1) ?_
      split
      next e1 => exact .dropLaunch (.rereadAll (.of_ok e1 (.ite (.uSignal h1) h1)))
      next e1 => exact .of_park e1 (.ite (.uSignal h1) h1)
      next e1 =>
        have h2 := State.memOk.of_trap e1 (.ite (.uSignal h1) h1)
        split
        next e2 => exact .of_park e2 (.writeStatus h2)
        next e2 => exact .dropLaunch (.of_ok e2 (.writeStatus h2))
        next e2 => exact .dropLaunch (.of_trap e2 (.writeStatus h2))
        next e2 => exact .dropLaunch (.of_done e2 (.writeStatus h2))
      next e1 =>
        have h2 := State.memOk.of_done e1 (.ite (.uSignal h1) h1)
        split
        next e2 => exact .of_park e2 (.writeStatus h2)
        next e2 => exact .dropLaunch (.of_ok e2 (.writeStatus h2))
        next e2 => exact .dropLaunch (.of_trap e2 (.writeStatus h2))
        next e2 => exact .dropLaunch (.of_done e2 (.writeStatus h2))

theorem Out3.MemOk.execLaunchCompletion {l : Nat} (h : s.memOk) : Out3.MemOk (execLaunchCompletion l s) := by
  unfold Machine.execLaunchCompletion
  split
  · exact .next h
  · split
    · exact .next (.completeLaunch h)
    · exact .next h
    · exact .ite (.next h) (.ite (.next (.endLaunch h)) (.next h))

theorem Out3.MemOk.execWaiterReevaluation {w : Nat} (h : s.memOk) : Out3.MemOk (execWaiterReevaluation w s) := by
  unfold Machine.execWaiterReevaluation
  split
  · exact .next h
  · split
    · exact .next (.wakeAtBank h)
    · exact .execBackgroundSpill h
    · exact .execCopyNext h
    · exact .execGridOperationComplete h
    · exact .execBlockEvaluation h
    · split
      · exact .next (.itemStep h)
      · exact .next h
    · exact .next (.evalHead h)
    · exact .execLaunchCompletion h
    · exact .execEpisodeRelease (.resume h)
    · exact .next (.resume h)

theorem State.memOk.serviceClock (h : s.memOk) : s.serviceClock.memOk :=
  .logWorks (.foldl (fun _ _ h1 => .ite h1 (.ackWork h1)) (.recordFaults h))

theorem State.memOk.dispClock (h : s.memOk) : s.dispClock.memOk :=
  .ite (.post (.ite
    (.post (.foldl (fun _ _ h1 => .ite (.post h1) h1)
    (.ite (.post (.foldl (fun _ _ h1 => .ite (.evalHead h1) h1) (.serviceClock h)))
    (.foldl (fun _ _ h1 => .ite (.evalHead h1) h1) (.serviceClock h)))))
    (.foldl (fun _ _ h1 => .ite (.post h1) h1)
    (.ite (.post (.foldl (fun _ _ h1 => .ite (.evalHead h1) h1) (.serviceClock h)))
    (.foldl (fun _ _ h1 => .ite (.evalHead h1) h1) (.serviceClock h))))))
    (.ite (.post
    (.foldl (fun _ _ h1 => .ite (.post h1) h1)
    (.ite (.post (.foldl (fun _ _ h1 => .ite (.evalHead h1) h1) (.serviceClock h)))
    (.foldl (fun _ _ h1 => .ite (.evalHead h1) h1) (.serviceClock h)))))
    (.foldl (fun _ _ h1 => .ite (.post h1) h1)
    (.ite (.post (.foldl (fun _ _ h1 => .ite (.evalHead h1) h1) (.serviceClock h))) (.foldl (fun _ _ h1 => .ite (.evalHead h1) h1) (.serviceClock h)))))

/-! ### Preemption -/

theorem State.memOk.takeLate (h : s.memOk) : (s.takeLate t).memOk := by
  unfold State.takeLate
  dsimp only
  split
  · exact h
  · exact .takeTrap h

theorem State.memOk.abandon (h : s.memOk) : (s.abandon t).memOk := by
  unfold State.abandon
  dsimp only
  split
  · exact .ite (.setSlot (.settle h)) (.settle h)
  · exact .wakeOrder (.setSlot (.settle h))

theorem State.memOk.stopToSave (h : s.memOk) : (s.stopToSave g).memOk := by
  unfold State.stopToSave
  refine .foldl (fun _ _ h1 => ?_) h
  split
  · exact .ite h1 (.post (.foldl (fun _ _ h2 => .rouse h2) h1))
  · exact h1

theorem State.memOk.notedLaunch (h : s.memOk) : (s.notedLaunch id).memOk := by
  unfold State.notedLaunch
  split
  · exact .ite (.toRunning h) h
  · exact h

theorem Out3.MemOk.execPreemptNotice (h : s.memOk) : Out3.MemOk (execPreemptNotice core slot s) := by
  unfold Machine.execPreemptNotice
  refine .ite (.next h) ?_
  split
  · exact .next h
  · exact .ite (.next (.stopToSave (.notedLaunch h)))
      (.ite (.next (.takeLate (.abandon h)))
      (.next (.ite (.post (.notedLaunch (.takeTrap (.setSlot (.abandon h))))) (.notedLaunch (.takeTrap (.setSlot (.abandon h)))))))

theorem Out3.MemOk.execPbudgetExpiry (h : s.memOk) : Out3.MemOk (execPbudgetExpiry core slot s) := by
  unfold Machine.execPbudgetExpiry
  refine .ite ?_ (.next h)
  split
  · exact .next (.stopToSave h)
  · exact .next h

theorem State.memOk.noticeGang (h : s.memOk) : (s.noticeGang g).memOk := by
  unfold State.noticeGang
  refine .ite ?_ ?_
  · exact .stopToSave (.notedLaunch h)
  · exact .foldl (fun _ _ h1 => .ite (.post (.rouse (.same h1 ⟨rfl, rfl⟩))) h1) h

theorem State.memOk.askPreempt (h : s.memOk) : (s.askPreempt g).memOk := by
  unfold State.askPreempt
  split
  · exact h
  · exact .ite (.stopToSave h) (.foldl (fun _ _ h1 => .noticeGang h1) h)

theorem Out3.MemOk.execPreemptRequest {q : BitVec 13} (h : s.memOk) : Out3.MemOk (execPreemptRequest q s) :=
  .next (.foldl (fun _ _ h1 => .askPreempt h1) h)

theorem Out3.MemOk.execPlacementWaitExpiry {l : Nat} (h : s.memOk) : Out3.MemOk (execPlacementWaitExpiry l s) := by
  unfold Machine.execPlacementWaitExpiry
  split
  · exact .next h
  · refine .ite (.next h) (.ite (.next (.post h)) (.ite (.next h) ?_))
    split
    · exact .next (.askPreempt h)
    · exact .next h

theorem State.memOk.abandonBlocks (h : s.memOk) : (s.abandonBlocks p).memOk :=
  .ite h (.leave (.setCore (.foldl (fun _ _ h1 => .foldl (fun _ _ h2 => .foldl (fun _ _ h3 => .putBack h3) h2) h1) h)))

theorem State.memOk.settleGang (h : s.memOk) : (s.settleGang g).memOk := .foldl (fun _ _ h1 => .settle h1) h

theorem State.memOk.vacate (h : s.memOk) : (s.vacate g p).memOk := by
  unfold State.vacate
  exact State.memOk.ite (.gridFree (.freePlace h)) (.post (.gridFree (.freePlace h)))

theorem State.memOk.saveGang (h : s.memOk) : (s.saveGang g).memOk :=
  .post (.logEvent
    (State.foldl_keeps _ (fun _ _ h1 => .resume h1) _
    (.setGang (State.foldl_keeps _ (fun _ _ h1 => .vacate h1) _
    (.dropRequests
    (.same (State.foldl_keeps _ (fun _ _ h1 => State.foldl_keeps _ (fun _ _ h2 => .same h2 ⟨rfl, rfl⟩) _ h1) _
    (State.foldl_keeps _ (fun _ _ h1 => .abandonBlocks h1) _ (.settleGang h))) ⟨rfl, rfl⟩))))))

theorem Out3.MemOk.execPreemptSave {g : Nat} (h : s.memOk) : Out3.MemOk (execPreemptSave g s) := by
  unfold Machine.execPreemptSave
  split
  · exact .next h
  · exact .ite (.next h) (.ite (.next (.saveGang h)) (.next h))

theorem SMap.wf_foldl_setD {α β : Type} [DecidableEq α] {d : α} (k : β → Nat) (v : β → α) (bs : List β) {m : SMap α} (h : SMap.wf d m = true) :
    SMap.wf d (bs.foldl (fun a b => SMap.setD a (k b) d (v b)) m) = true := by
  induction bs generalizing m with
  | nil => exact h
  | cons b bs ih => exact ih (SMap.wf_setD _ _ _ h)

theorem State.memOk.restoreCore {budget : BitVec 32} {map : List (Nat × Nat)} {m : CoreImage} (h : s.memOk) :
    (s.restoreCore g budget map m n).memOk := by
  have h2 : ∀ {p : GangCore} {c : Core} {f : Core → Core}, (((s.prepare g.id g.ctx p 0 0).setCore n c).switch n f).memOk := .switch
    (.setCore (.prepare h))
  have hx : ∀ {u : State} {f : State → Nat × Slot → State}, u.memOk → (∀ v q, v.memOk → (f v q).memOk) →
      (if m.copies.isEmpty then m.slots.foldl f u else (m.slots.foldl f u).post (.copyCommandStart n)).memOk :=
    fun hu hf => .ite (.foldl hf hu) (.post (.foldl hf hu))
  unfold State.restoreCore
  dsimp only
  refine hx ⟨Memory.wf_foldl _ (fun _ _ hm => Memory.wf_setByte _ _ hm) _ h2.1, ?_⟩ fun _ _ hv => .kick ?_
  · exact SMap.wf_foldl_setD _ _ m.tags h2.2
  · split <;> exact .same hv ⟨rfl, rfl⟩

theorem State.memOk.restoreWaiters {ws : List Waiter} (h : s.memOk) : (s.restoreWaiters ws).memOk := h

theorem State.memOk.resumeOn {seats : List (CoreImage × Nat)} (h : s.memOk) : (s.resumeOn l g seats).memOk :=
  .postFull (.restoreWaiters (.foldl (fun _ _ h1 => .restoreCore h1) h))

theorem State.memOk.resumeAll {gs : List Gang} (h : s.memOk) (u : State) (e : s.resumeAll l gs = some u) : u.memOk := by
  induction gs generalizing s with
  | nil => cases e; exact h
  | cons g gs ih =>
    rw [State.resumeAll] at e
    split at e
    · exact ih (.resumeOn h) e
    · cases e

theorem Out3.MemOk.execGangResume {g : Nat} (h : s.memOk) : Out3.MemOk (execGangResume g s) := by
  unfold Machine.execGangResume
  dsimp only
  split
  · exact .next h
  · split
    · exact .next h
    · refine .ite (.next h) (.ite (.next h) ?_)
      split
      next e =>
        have h1 := State.memOk.resumeAll h _ e
        exact .next (.ite (.post h1) h1)
      · exact .next h

theorem State.memOk.postSpills (h : s.memOk) : (s.postSpills n).memOk :=
  .ite h (.foldl (fun _ _ h1 => .ite (.post h1) h1) h)

/-! ### Debug -/

theorem State.memOk.setDbg {d : Debug} (h : s.memOk) : (s.setDbg core d).memOk := h

theorem State.memOk.takeStop {m : StopMsg} (h : s.memOk) : (s.takeStop m).memOk :=
  .ite (.foldl (fun _ _ h1 => .same h1 ⟨rfl, rfl⟩) (.same h ⟨rfl, rfl⟩)) (.logEvent (.foldl (fun _ _ h1 => .same h1 ⟨rfl, rfl⟩) (.same h ⟨rfl, rfl⟩)))

theorem Out3.MemOk.execResumeCmd (h : s.memOk) : Out3.MemOk (execResumeCmd core s) :=
  .ite (.next h)
    (.ite (.next h) (.next (.ite (.transmitAll (.foldl (fun _ _ h1 => .timer (.rouse h1)) h)) (.foldl (fun _ _ h1 => .timer (.rouse h1)) h))))

theorem State.memOk.resumeSlot (h : s.memOk) : (s.resumeSlot t).memOk :=
  .ite (.urge (.foldl (fun _ _ h1 => .same h1 ⟨rfl, rfl⟩) (.same h ⟨rfl, rfl⟩))) (.foldl (fun _ _ h1 => .same h1 ⟨rfl, rfl⟩) (.same h ⟨rfl, rfl⟩))

theorem Out3.MemOk.execResumeTakesEffect (h : s.memOk) : Out3.MemOk (execResumeTakesEffect core s) :=
  .ite (.next h) (.next (.setDbg (.foldl (fun _ _ h1 => .ite (.resumeSlot h1) h1) h)))

theorem State.memOk.writeSlotWord (h : s.memOk) : (s.writeSlotWord t k v).memOk := by
  unfold State.writeSlotWord
  refine .ite h (.ite h (.ite h (.ite h (.ite ?_ (.ite h (.ite h h))))))
  split
  · have hc : ({ s with cur := t } : State).memOk := h
    exact .same (.setCreg hc) ⟨rfl, rfl⟩
  · exact h

theorem State.memOk.notified (h : s.memOk) : (s.notified n).memOk := h

theorem Res.All.notifyDump {reason : Nat} {count : Word} (h : s.memOk) : (s.notifyDump ctx len reason addr count).All State.memOk := by
  unfold State.notifyDump
  split
  · exact h
  · split
    next e =>
      have h1 := State.memOk.of_ok e (.uAccess h)
      exact h1
    next e =>
      have h1 := State.memOk.of_trap e (.uAccess h)
      exact h1
    next e =>
      have h1 := State.memOk.of_park e (.uAccess h)
      exact h1
    next e =>
      have h1 := State.memOk.of_done e (.uAccess h)
      exact h1

theorem State.memOk.failLaunch {cls : BitVec 5} (h : s.memOk) : (s.failLaunch g cls).memOk := by
  unfold State.failLaunch
  split
  · exact h
  · exact .ite h (.ite h (.ite (.advance h) h))

theorem Res.All.dumpDemand {x : List GangCore} (h : s.memOk) : (s.dumpDemand x).All State.memOk := by
  induction x generalizing s with
  | nil => exact h
  | cons a as ih =>
    rw [State.dumpDemand]
    exact .bind (.demand h) fun _ _ h1 => ih h1

theorem State.memOk.finishDump (h : s.memOk) : (s.finishDump g).memOk := by
  unfold State.finishDump
  refine .endGang (.foldl ?_ ?_)
  · intro u b h1
    refine .ite ?_ ?_
    · exact .same h1 ⟨rfl, rfl⟩
    · exact .same h1 ⟨rfl, rfl⟩
  · exact .failLaunch (.same h ⟨rfl, rfl⟩)

theorem State.memOk.thaw (h : s.memOk) : (s.thaw g).memOk :=
  .foldl (fun _ _ h1 => .ite h1 (.same h1 ⟨rfl, rfl⟩)) h

theorem State.memOk.readDump (h : s.memOk) : (s.readDump g j).2.memOk := .thaw h

theorem State.memOk.dumpNotify {count : Word} (h : s.memOk) : (s.dumpNotify g j count).memOk := by
  unfold State.dumpNotify
  split
  next e =>
    have h1 := State.memOk.of_ok e (.notifyDump h)
    exact .ite (.finishDump h1) (.post (.finishDump h1))
  next e =>
    have h1 := State.memOk.of_trap e (.notifyDump h)
    exact .ite (.finishDump h1) (.post (.finishDump h1))
  next e =>
    have h1 := State.memOk.of_done e (.notifyDump h)
    exact .ite (.finishDump h1) (.post (.finishDump h1))
  next e => exact .of_park e (.notifyDump h)

theorem State.memOk.dumpEnd (h : s.memOk) : (s.dumpEnd g j).memOk := by
  unfold State.dumpEnd
  split
  · exact .ite (.dumpNotify h) (.post h)
  · exact .dumpNotify h

theorem State.memOk.dumpWrite (h : s.memOk) : (s.dumpWrite g j fuel).memOk := by
  induction fuel generalizing s g j with
  | zero => exact h
  | succ k ih =>
    rw [State.dumpWrite]
    split
    · exact .dumpEnd h
    · refine .ite (ih (.same h ⟨rfl, rfl⟩)) ?_
      split
      next e => exact .of_park e (.uAccess h)
      next e => exact ih (.same (.of_ok e (.uAccess h)) ⟨rfl, rfl⟩)
      next e => exact ih (.same (.of_trap e (.uAccess h)) ⟨rfl, rfl⟩)
      next e => exact ih (.same (.of_done e (.uAccess h)) ⟨rfl, rfl⟩)

theorem Out3.MemOk.execDumpGang (h : s.memOk) : Out3.MemOk (execDumpGang s) := by
  unfold Machine.execDumpGang
  dsimp only
  split
  · exact .next h
  · split
    · exact .next h
    · refine .ite (.next (.dumpWrite h)) (.ite (.next h) ?_)
      split
      next e => exact .next (.of_park e (.dumpDemand h))
      next e => exact .next (.of_trap e (.dumpDemand h))
      next e => exact .next (.of_done e (.dumpDemand h))
      next e => exact .next (.dumpWrite (.readDump (.of_ok e (.dumpDemand h))))

/-! ### The host's registers -/

theorem State.memOk.newReplay (h : s.memOk) : (s.newReplay r).memOk := .logWork h

theorem State.memOk.stopRecording (h : s.memOk) : (s.stopRecording n).memOk := by
  unfold State.stopRecording
  split <;> exact h

theorem Out3.MemOk.execRctlStore {fn : BitVec 6} {v : BitVec 64} (h : s.memOk) : Out3.MemOk (execRctlStore fn v s) := by
  unfold Machine.execRctlStore
  refine .ite (.next h) (.ite (.next (.logWork (.stopRecording h))) ?_)
  split
  · exact .next (.logWork (.stopRecording h))
  · exact .next (.newReplay (.disarm (.logWork (.stopRecording h))))

theorem State.memOk.commandStore (h : s.memOk) : (s.commandStore n v).memOk := .ite h (.post h)

theorem State.memOk.commandDone (h : s.memOk) : (s.commandDone n).memOk := h

theorem State.memOk.replayNext (h : s.memOk) : (s.replayNext r).memOk := by
  unfold State.replayNext
  split
  · exact .logWork h
  · exact .check h

theorem Out3.MemOk.execReplay {fn : BitVec 6} (h : s.memOk) : Out3.MemOk (execReplay fn s) := by
  unfold Machine.execReplay
  refine .ite (.next h) ?_
  split
  · exact .next (.ite h (.replayNext h))
  · split
    · exact .next h
    · exact .next (.newReplay h)

theorem State.memOk.mailStore (h : s.memOk) : (s.mailStore n v).memOk := .ite h h

theorem State.memOk.queueStore {q : Nat} (h : s.memOk) : (s.queueStore q k v).memOk := by
  unfold State.queueStore
  split
  · exact h
  · exact .setQueue (.ite h h)
  all_goals exact h

theorem State.memOk.windowWrite (h : s.memOk) : (s.windowWrite n off v).memOk :=
  .ite h (.ite h
    (.ite h (.ite h (.ite (.commandStore h) (.ite h (.ite h (.ite (.mailStore h) (.ite h (.ite (.ite h h) (.ite (.ite (.queueStore h) h) h))))))))))

theorem State.memOk.dcmd (h : s.memOk) : (s.dcmd core v).memOk := by
  unfold State.dcmd
  dsimp only
  split <;> exact h

theorem State.memOk.debugWrite (h : s.memOk) : (s.debugWrite core off v).memOk :=
  .ite h (.ite (.ite h h) (.ite (.dcmd h) (.ite h h)))

theorem State.memOk.registerStore {a : Nat} (h : s.memOk) : (s.registerStore a v).memOk := by
  unfold State.registerStore
  refine .ite h ?_
  split
  · exact .windowWrite h
  · exact .ite (.debugWrite h) h
  · exact h

/-! ### Sessions and keys -/

theorem State.memOk.setSsc {x : Ssc} (h : s.memOk) : (s.setSsc x).memOk := h

theorem State.memOk.extend {i : Nat} {e : List Byte} (h : s.memOk) : (s.extend i e).memOk := h

theorem State.memOk.zeroCores {p : Nat → Bool} (h : s.memOk) : (s.zeroCores p).memOk :=
  ⟨SMap.wf_filter _ _ h.1, SMap.wf_filter _ _ h.2⟩

theorem State.memOk.wipeDie {d : Nat} (h : s.memOk) : (s.wipeDie d).memOk :=
  .same (s := s.zeroCores fun n => dieOf n == d) (.zeroCores h) ⟨rfl, rfl⟩

theorem State.memOk.setLatch {d : Nat} {v : BitVec 16} (h : s.memOk) : (s.setLatch d v).memOk := h

theorem State.memOk.assignDie {d : Nat} {w : BitVec 8} (h : s.memOk) : (s.assignDie d w).memOk :=
  .extend (.setLatch (.wipeDie h))

theorem State.memOk.tearDown {d : Nat} (h : s.memOk) : (s.tearDown d).memOk :=
  .extend (.setLatch (.wipeDie h))

theorem State.memOk.scrub {a : Nat} (h : s.memOk) : (s.scrub a n).memOk := ⟨Memory.wf_zero _ _ h.1, h.2⟩

theorem State.memOk.setGranules {a : Nat} {v : BitVec 16} (h : s.memOk) : (s.setGranules a n v).memOk := h

theorem State.memOk.dropUnits {p : BitVec 8 → Bool} (h : s.memOk) : (s.dropUnits p).memOk := h

theorem State.memOk.revoke (h : s.memOk) : (s.revoke cs).memOk :=
  .setSsc (.foldl (fun _ _ h1 => .same h1 ⟨rfl, rfl⟩) h)

/-! ### The mailbox -/

theorem State.memOk.answer {a : Option Asked} {status : BitVec 8} {resp : List Byte} (h : s.memOk) : (s.answer n a status resp).memOk := by
  unfold State.answer
  split
  · exact .ite h (.ite (.setFn (.exhausted h)) h)
  · exact h

theorem Out3.MemOk.handle {fn : BitVec 6} {op : Nat} {f : Asked → Except (BitVec 8) State} (h : s.memOk) (hf : ∀ a u, f a = .ok u → u.memOk) :
    Out3.MemOk (s.handle fn op f) := by
  unfold State.handle
  refine .ite (.next h) ?_
  split
  · exact .next (.answer h)
  · split
    · exact .next (.answer h)
    next e => exact .next (hf _ _ e)

theorem Out3.MemOk.operate {fn : BitVec 6} {op : Nat} {f : Asked → Except (BitVec 8) (List Byte × State)} (h : s.memOk)
    (hf : ∀ a r, f a = .ok r → r.2.memOk) : Out3.MemOk (s.operate fn op f) := by
  refine .handle h fun a _ e => ?_
  cases hr : f a with
  | error st => rw [hr] at e; cases e
  | ok r => rw [hr] at e; cases e; exact .answer (hf a r hr)

theorem eq_of_checked {cs : List (Bool × BitVec 8)} {q r : List Byte × State} (e : Machine.checked cs q = .ok r) : r = q := by
  unfold Machine.checked at e
  split at e
  · cases e
  · cases e; rfl

theorem State.memOk.of_checked {cs : List (Bool × BitVec 8)} {q r : List Byte × State} (e : Machine.checked cs q = .ok r) (h : q.2.memOk) :
    r.2.memOk := by
  rw [eq_of_checked e]
  exact h

theorem Out3.MemOk.execRegion {fn : BitVec 6} (h : s.memOk) : Out3.MemOk (execRegion fn s) :=
  .operate h fun _ _ e => .of_checked e (.setGranules (.scrub h))

theorem State.memOk.newContext {w : BitVec 8} {owner : Nat} {root db dl sb sl : Word} {sess : Option (Nat × Session)} (h : s.memOk) :
    (s.newContext k w owner root db dl sb sl sess).memOk := h

theorem Out3.MemOk.execDestroy {fn : BitVec 6} (h : s.memOk) : Out3.MemOk (execDestroy fn s) := by
  refine .handle h fun _ _ e => ?_
  dsimp only at e
  generalize Machine.checked _ _ = r at e
  cases r with
  | error st => cases e
  | ok r => cases e; exact .failLater h

theorem Out3.MemOk.execRootOp {fn : BitVec 6} (h : s.memOk) : Out3.MemOk (execRootOp fn s) := by
  refine .operate h fun _ _ e => .of_checked e ?_
  dsimp only
  split <;> exact h

theorem State.memOk.putPhysical {c : BitVec 8} {pa : Nat} {x : List Byte} (h : s.memOk) : (s.putPhysical c pa x).memOk := by
  induction x generalizing s c pa with
  | nil => exact h
  | cons a as ih =>
    rw [State.putPhysical]
    exact ih (.setLineKey (.writeBytes (State.memOk_asSeen _ _ h)))

theorem State.memOk.putClear {bs : List Byte} (h : s.memOk) : (s.putClear home bs).memOk :=
  .same (.writeBytes h) ⟨rfl, rfl⟩

theorem State.memOk.establish {w e : BitVec 8} {ek : List Byte} {p : Context → Bool} (h : s.memOk) : (s.establish w e ek p).2.2.memOk :=
  .same h ⟨rfl, rfl⟩

theorem Out3.MemOk.execSessionOperation {fn : BitVec 6} (h : s.memOk) : Out3.MemOk (execSessionOperation fn s) := by
  refine .operate h fun _ _ e => .of_checked e ?_
  dsimp only
  exact .establish h

/-! ### Power and boot -/

theorem State.memOk.dark (h : s.memOk) : s.dark.memOk := .same .reset ⟨rfl, rfl⟩

theorem State.memOk.coldForm (h : s.memOk) : s.coldForm.memOk := .same (.dark h) ⟨rfl, rfl⟩

theorem State.memOk.bootTo {k : BitVec 8} (h : s.memOk) : (s.bootTo k).memOk := h

theorem State.memOk.bootFails {k : BitVec 8} (h : s.memOk) : (s.bootFails k).memOk := .ite (.coldForm h) h

theorem State.memOk.bringUp (h : s.memOk) : s.bringUp.memOk := h

theorem State.memOk.saveAll (h : s.memOk) : s.saveAll.memOk := .foldl (fun _ _ h1 => .stopToSave h1) h

theorem State.memOk.asleep (h : s.memOk) : s.asleep.memOk :=
  .same (s := s.zeroCores fun _ => true) (.zeroCores h) ⟨rfl, rfl⟩

theorem State.memOk.enterSleep (h : s.memOk) : s.enterSleep.memOk :=
  .ite (.asleep h) (.timer (.ite (.saveAll h) h))

theorem State.memOk.answerSleeper (h : s.memOk) : s.answerSleeper.memOk := .ite (.answer h) h

theorem State.memOk.unwrapped {r : Retained} (h : s.memOk) : (s.unwrapped r).memOk := h

theorem State.memOk.installKeys {p : BitVec 8 → Bool} (h : s.memOk) : (s.installKeys p).memOk := h

theorem State.memOk.restoreKept {r : Retained} (h : s.memOk) : (s.restoreKept r).memOk := by
  unfold State.restoreKept
  dsimp only
  refine .ite (.ite ?_ (.failLater ?_)) (.failLater ?_)
  · exact .installKeys (s := State.unwrapped _ _) (.unwrapped (.setSsc (.setSsc h)))
  · exact .installKeys (s := State.unwrapped _ _) (.unwrapped (.setSsc (.setSsc h)))
  · exact .installKeys (s := State.setSsc _ _) (.setSsc h)

theorem State.memOk.bootStep (h : s.memOk) : s.bootStep.memOk := by
  unfold State.bootStep
  dsimp only
  split
  · exact .ite (.bootFails h) (.ite (.bootTo h) (.bootTo (.setSsc (.extend h))))
  · exact .ite (.bootFails h) (.bootTo (.ite h (.extend h)))
  · exact .ite (.bootTo h) (.bootFails h)
  · exact .ite (.bringUp h) (.bootFails h)
  · refine .ite (.bootFails h) ?_
    split
    · exact .post (.answerSleeper (.bootTo (.restoreKept (.same h ⟨rfl, rfl⟩))))
    · exact .same h ⟨rfl, rfl⟩
  · exact h

theorem Out3.MemOk.execPowerLoss (h : s.memOk) : Out3.MemOk (execPowerLoss s) :=
  .next (.same (.dark h) ⟨rfl, rfl⟩)

theorem State.memOk.failLink (h : s.memOk) : (s.failLink k).memOk := .foldl (fun _ _ h1 => .resume h1) h

/-! ### Messages of the fabric -/

theorem State.memOk.countDrop (h : s.memOk) : s.countDrop.memOk := h

theorem State.memOk.back {ty : BitVec 8} {hdr : Word} {data : Line} (h : s.memOk) : (s.back m ty hdr data).memOk :=
  .transmit h

theorem State.memOk.refuseMsg {cls : Nat} (h : s.memOk) : (s.refuseMsg m cls code).memOk := .back h

theorem Out3.MemOk.receive {ty : BitVec 8} {bad : State} {f : Msg → State} (h : s.memOk) (hbad : bad.memOk) (hf : ∀ a0, (f a0).memOk) :
    Out3.MemOk (s.receive m ty bad f) := by
  unfold State.receive
  refine .ite (.next h) ?_
  split
  · exact .next (hf _)
  · exact .next hbad

theorem State.memOk.badTag (h : s.memOk) : (s.badTag m).memOk := .refuseMsg h

theorem State.memOk.performRead (h : s.memOk) : (s.performRead m).memOk := by
  unfold State.performRead
  split
  · exact .ite (.refuseMsg h) (.ite (.refuseMsg h) (.ite (.refuseMsg h) (.back h)))
  · exact .back h
  · exact .back h
  · exact .refuseMsg h

theorem State.memOk.performWrite (h : s.memOk) : (s.performWrite m).memOk := by
  unfold State.performWrite
  dsimp only
  split
  · rename_i hm _
    have hw : (((s.seenAs (s.msgKeys m) hm).writeBytes hm m.data.toNat m.mask.toNat (msgSize m)).setLineKey (lineOfHome hm) (s.msgKeys m)).memOk :=
      .setLineKey (State.memOk_writeBytes hm _ _ _ (State.memOk_seenAs _ _ h))
    exact .ite (.refuseMsg h) (.back (.ite (.same hw ⟨rfl, rfl⟩) hw))
  · exact .back (.foldl (fun _ _ h => .ite h (.windowWrite h)) h)
  · exact .back (.debugWrite h)
  · exact .refuseMsg h

theorem State.memOk.performAtomic (h : s.memOk) : (s.performAtomic m).memOk := by
  unfold State.performAtomic
  split
  · refine .ite (.refuseMsg h) (.ite (.refuseMsg h) (.ite (.refuseMsg h) (.ite (.refuseMsg h) (.back ?_))))
    split
    · exact .setLineKey (.writeBytes (State.memOk_seenAs _ _ h))
    · exact h
  · exact .refuseMsg h
  · exact .refuseMsg h

theorem State.memOk.answered {ok : Bool} {d : Line} (h : s.memOk) : (s.answered m ok d).memOk := by
  unfold State.answered
  split
  · exact h
  · exact .ite h (.resume h)

theorem State.memOk.badAnswer (h : s.memOk) : (s.badAnswer m).memOk := .answered h

theorem State.memOk.takeReward {whole : Msg} (h : s.memOk) : (s.takeReward whole m).memOk := by
  unfold State.takeReward
  dsimp only
  split
  · exact .countDrop h
  · split
    next e =>
      split at e
      · cases e
      · exact .acceptMessage h _ e
    · exact .timer h

theorem State.memOk.takeBarrier (h : s.memOk) : (s.takeBarrier m).memOk :=
  .ite (.ite (.postFull (.podRelease h)) h) (.ite (.podArrive h) h)

theorem State.memOk.stopPackage {src : Word} (h : s.memOk) : (s.stopPackage ctx src addr).memOk := by
  unfold State.stopPackage
  refine .foldl (fun u b h1 => .post ?_) h
  have hb : ((u.setCore b
      { slots := (u.core b).slots, cyc := (u.core b).cyc, ctx := (u.core b).ctx, prev := (u.core b).prev,
        alloc := (u.core b).alloc, tables := (u.core b).tables, shadows := (u.core b).shadows,
        rmap0 := (u.core b).rmap0, rmap1 := (u.core b).rmap1, gdly := (u.core b).gdly, grant := (u.core b).grant,
        grantq := (u.core b).grantq, fifo := (u.core b).fifo, grid := (u.core b).grid, tst := (u.core b).tst,
        lastBlock := (u.core b).lastBlock, staging := (u.core b).staging, copies := (u.core b).copies,
        demands := (u.core b).demands, trace := (u.core b).trace, trnext := (u.core b).trnext,
        frozen := (u.core b).frozen, icache := (u.core b).icache,
        dbg :=
          have __src := (u.core b).dbg;
          { wpaddr := __src.wpaddr, wpctl := __src.wpctl, stopSrc := __src.stopSrc, stopAddr := __src.stopAddr,
            stopCnt := __src.stopCnt, skid := __src.skid, err := __src.err, stepping := __src.stepping,
            dom := __src.dom, stopped := true },
        idle := (u.core b).idle, gated := (u.core b).gated, ungating := (u.core b).ungating,
        keys := (u.core b).keys }).rouse
  b).memOk := by
    exact .rouse (.same h1 ⟨rfl, rfl⟩)
  exact .same hb ⟨rfl, rfl⟩

theorem State.memOk.resumePackage {src : Word} (h : s.memOk) : (s.resumePackage src addr).memOk :=
  .foldl (fun _ _ h1 => .ite (.post (.same h1 ⟨rfl, rfl⟩)) h1) h

theorem State.memOk.takeStopMsg (h : s.memOk) : (s.takeStopMsg m).memOk :=
  .ite h (.ite (.resumePackage h) (.ite (.stopPackage h) h))

theorem State.memOk.offerFlit (h : s.memOk) : (s.offerFlit m).memOk :=
  .ite h (.foldl (fun _ _ h => .back h) (.establish (.same h ⟨rfl, rfl⟩)))

theorem State.memOk.takeSession (h : s.memOk) : (s.takeSession m).memOk := by
  unfold State.takeSession
  refine .ite (.ite (.refuseMsg h) (.offerFlit h)) ?_
  split
  · exact h
  · refine .ite h ?_
    split <;> exact h

/-! ### Scalar instructions -/

/-! ### Vector instructions -/

theorem Out3.MemOk.vector {d : VReg} {w : Nat} {f : ElemFn} (h : s.memOk) : Out3.MemOk (s.vector d srcs vsrcs mk w f) :=
  .finish (.bind (.ports h) fun _ _ h1 => .bind (.raise h1) fun _ _ h2 => .retire (.wv (.pops h2)))

theorem Out3.MemOk.vectorAt {d : VReg} {w : Nat} {mbit dest : State → Nat → Nat} {f : ElemFn} (h : s.memOk) :
    Out3.MemOk (s.vectorAt d srcs vsrcs mk w n mbit dest f) :=
  .finish (.bind (.ports h) fun _ _ h1 => .bind (.raise h1) fun _ _ h2 => .retire (.wv (.pops h2)))

theorem Out3.MemOk.vectorBits {d : VReg} {f : ElemFn} (h : s.memOk) : Out3.MemOk (s.vectorBits d srcs vsrcs mk n f) :=
  .finish (.bind (.ports h) fun _ _ h1 => .bind (.raise h1) fun _ _ h2 => .retire (.wv (.pops h2)))

theorem Out3.MemOk.vectorS {f : State → FR} (h : s.memOk) : Out3.MemOk (s.vectorS d srcs vsrcs f) :=
  .finish (.bind (.ports h) fun _ _ h1 => .bind (.raise h1) fun _ _ h2 => .retire (.ws (.pops h2)))

theorem Out3.MemOk.vbin {d b c : BitVec 5} {t : BitVec 2} {f : Nat → Nat → Nat → FR} (h : s.memOk) : Out3.MemOk (s.vbin d b c z mk t f) :=
  .vector h

theorem Out3.MemOk.vbinF {d b c : BitVec 5} {t : BitVec 2} {f : FFmt → RM → Nat → Nat → FR} (h : s.memOk) : Out3.MemOk (s.vbinF d b c z mk t rm f) :=
  .vector h

theorem Out3.MemOk.vunF {d b : VReg} {t : BitVec 2} {f : FFmt → RM → Nat → FR} (h : s.memOk) : Out3.MemOk (s.vunF d b mk t rm f) :=
  .vector h

theorem Out3.MemOk.vfused {d b c e_ : VReg} {t : BitVec 2} {np na : Bool} (h : s.memOk) : Out3.MemOk (s.vfused d b c e_ z mk t rm np na) :=
  .vector h

theorem Out3.MemOk.vmacc {d b c e_ : VReg} {t sat : BitVec 2} (h : s.memOk) : Out3.MemOk (s.vmacc d b c e_ z mk t sat) :=
  .vector h

theorem Out3.MemOk.vdots {d b c e_ : VReg} {t sat : BitVec 2} (h : s.memOk) : Out3.MemOk (s.vdots d b c e_ z mk t sat signed) :=
  .vector h

theorem Out3.MemOk.vcmp {d b c : BitVec 5} {t : BitVec 2} {f : ℤ → ℤ → Bool} (h : s.memOk) : Out3.MemOk (s.vcmp d b c z mk t signed f) :=
  .vectorBits h

theorem Out3.MemOk.vcmpF {d b c : BitVec 5} {t : BitVec 2} {f : ℤ → Bool} {unord quietNv : Bool} (h : s.memOk) :
    Out3.MemOk (s.vcmpF d b c z mk t f unord quietNv) := .vectorBits h

theorem Out3.MemOk.vmoves {d b : VReg} {vs : List VReg} {t : BitVec 2} {f : State → Nat → (Nat → Nat) → Nat → Nat} (h : s.memOk) :
    Out3.MemOk (s.vmoves d b srcs vs mk t f) := .vector h

theorem Out3.MemOk.vbroadcast {d : VReg} {t : BitVec 2} (h : s.memOk) : Out3.MemOk (s.vbroadcast d c mk t) :=
  .vector h

theorem Out3.MemOk.vinsert {d : VReg} {t : BitVec 2} (h : s.memOk) : Out3.MemOk (s.vinsert d b c mk t) :=
  .vectorAt h

theorem Out3.MemOk.vextract {b : VReg} {t : BitVec 2} (h : s.memOk) : Out3.MemOk (s.vextract d b c t) :=
  .vectorS h

theorem Out3.MemOk.vreduce {b : VReg} {t : BitVec 2} {start : Nat → ℤ} {f : ℤ → ℤ → ℤ} (h : s.memOk) :
    Out3.MemOk (s.vreduce d b mk t signed start f) := .vectorS h

theorem Out3.MemOk.vpopc {b : VReg} {t : BitVec 2} (h : s.memOk) : Out3.MemOk (s.vpopc d b mk t) := .vectorS h

theorem Out3.MemOk.vreduceF {b : VReg} {t : BitVec 2} {none_ : Nat} {f : RM → Nat → Nat → FR} (h : s.memOk) :
    Out3.MemOk (s.vreduceF d b mk t rm none_ f) := .vectorS h

theorem Out3.MemOk.vsumOrdered {b : VReg} {t : BitVec 2} (h : s.memOk) : Out3.MemOk (s.vsumOrdered d b c mk t rm) :=
  .vectorS h

theorem Out3.MemOk.vconvert {d b : VReg} {p : Nat} {r : VReg} {fs fd : BitVec 4} {sat : BitVec 1} (h : s.memOk) :
    Out3.MemOk (s.vconvert d b p r mk fs fd rm sat) := .vectorAt h

theorem Out3.MemOk.vfromFp {d b : VReg} {sat : BitVec 1} (h : s.memOk) : Out3.MemOk (s.vfromFp d b mk sat signed) :=
  .vunF h

theorem Out3.MemOk.vtoFp {d b : VReg} (h : s.memOk) : Out3.MemOk (s.vtoFp d b mk signed) := .vunF h

/-! ### One instruction, whatever it is -/

theorem Out3.MemOk.exec {i : Instr} (h : s.memOk) : Out3.MemOk (exec i s) := by
  cases i <;> dsimp only [Machine.exec]
  case add | sub => exact .scalarF h
  case andR | orR | xorR | sll | srl | sra | seq | sne | slt | sltu | sle | sleu | minS | minU | maxS | maxU | mul | mulh | mulhu |
      mulhsu | div | divu | rem | remu | rol | ror | leaX1 =>
    exact .scalar2 h
  case addI | rsubI | andI | orI | xorI | sllI | srlI | sraI | addW | rsubW | andW | orW | xorW | sllW | srlW | sraW | seqW | sneW |
      sltW | sltuW | sleW | sleuW | minW | minuW | maxW | maxuW | clz | ctz | popc | brev | bswap | ext | extu | lea | leaW | mov =>
    exact .scalar1 h
  case ins | li | liZ | liW | liZW | lih | liX0 | liZX0 | sel | dqlen | dget | tqry => exact .scalar h
  case beqz | bnez | bltz | bgez | bgtz | blez => exact .branch1 h
  case beq | bne | blt | bge | bltu | bgeu => exact .branch2 h
  case br => exact .branch h
  case call => exact .finish (.call h)
  case dbnz => exact .execDbnz h
  case jt | jtW => exact .jumpTable h
  case callt | calltW => exact .callTable h
  case lpad | nop | mzero | prioStore | thermalWarning | cxlLinkDown => exact .next h
  case exit => exact .execExit h
  case rets => exact .execRets h
  case ret => exact .execRet h
  case trap => exact .execTrap h
  case eret => exact .execEret h
  case mfc => exact .execMfc h
  case mtc => exact .execMtc h
  case ld | lw | lwu | lh | lhu | lb | lbu | ldW | lwW | lwuW | lhW | lhuW | lbW | lbuW | ldX1 | lwX1 | lwuX1 | lhX1 | lhuX1 | lbX1
      | lbuX1 =>
    exact .load h
  case st | sw | sh | sb | stW | swW | shW | sbW | stX1 | swX1 | shX1 | sbX1 => exact .store h
  case vld | vldW | vldX1 => exact .vload h
  case vst | vstW | vstX1 => exact .vstore h
  case vlds | vldsW | vldsX1 | vgath | vgathW => exact .vloads h
  case vsts | vstsW | vstsX1 | vscat | vscatW => exact .vstores h
  case aadd | aand | aor | axor | aswp | acas | amin | amax | aminu | amaxu | afadd | aaddW | aandW | aorW | axorW | aswpW | acasW |
      aminW | amaxW | aminuW | amaxuW | afaddW =>
    exact .atomic h
  case tatsw => exact .execTatsw h
  case tget | tcas => exact .tagOp h fun _ _ h1 => .setS h1
  case tset | tsetImm | sbinit => exact .tagOp h fun _ _ h1 => .doneS h1
  case tatld => exact .execTatld h
  case rmset => exact .execRmset h
  case fence => exact .finish (.bind (.fenceWait h) fun _ _ h1 => h1)
  case bar => exact .execBar h
  case bara => exact .execBara h
  case barw => exact .execBarw h
  case xfence => exact .execXfence h
  case sbarv => exact .execSbarv h
  case sbwait => exact .execSbwait h
  case sbtest => exact .execSbtest h
  case waitTag => exact .execWaitTag h
  case joinWord => exact .execJoinWord h
  case steal => exact .execSteal h
  case pcon => exact .execPcon h
  case flushi => exact .execFlushi h
  case spawn => exact .execSpawn h
  case vadd | vsub | vmul | vmulh | vmin | vmax | vminu | vmaxu | vaddW | vsubW | vmulW | vmulhW | vminW | vmaxW | vminuW | vmaxuW |
      vand | vor | vxor | vsll | vsrl | vsra | vmulhu =>
    exact .vbin h
  case vabs => exact .vector h
  case vfadd | vfsub | vfmul | vfdiv | vfmin | vfmax | vfaddW | vfsubW | vfmulW | vfdivW | vfminW | vfmaxW => exact .vbinF h
  case vfsqrt | vfsqrtW | vfneg | vfabs | vexp2 | vlog2 | vrcp | vrsqrt | vtanh | vsig | vexp | vexp2W | vlog2W | vrcpW | vrsqrtW |
      vtanhW | vsigW | vexpW =>
    exact .vunF h
  case vfma | vfms | vfnma | vfnms | vfmaW | vfmsW | vfnmaW | vfnmsW => exact .vfused h
  case vmac | vmacW => exact .vmacc h
  case vdot | vdotu | vdotW | vdotuW => exact .vdots h
  case vseq | vsne | vslt | vsle | vsltu | vsleu | vseqW | vsneW | vsltW | vsleW | vsltuW | vsleuW => exact .vcmp h
  case vfeq | vfne | vflt | vfle | vfun => exact .vcmpF h
  case vmov | vsldn | vslup | vperm | vmovW | vsldnW | vslupW | vpermW => exact .vmoves h
  case vbcast | vbcastW => exact .vbroadcast h
  case vins | vinsW => exact .vinsert h
  case vext | vextW => exact .vextract h
  case vrsum | vrmin | vrmax | vrminu | vrmaxu | vrsumW | vrminW | vrmaxW | vrminuW | vrmaxuW => exact .vreduce h
  case vrpopc | vrpopcW => exact .vpopc h
  case vrfsum | vrfmin | vrfmax => exact .vreduceF h
  case vrfsumo => exact .vsumOrdered h
  case vftoi | vftoiu => exact .vfromFp h
  case vitof | vutof => exact .vtoFp h
  case vcvt => exact .vconvert h
  case modeM => exact .execModeM h
  case modeV => exact .ite (.next (.retire (.releaseGrant h))) (.next h)
  case mrnsoutRes30 | mrnsoutRes15 => exact .mrnsout h
  case mma | mmas | mmaW | mmasW => exact .mma h
  case sclfeed => exact .execSclfeed h
  case mplane | munpl | mplaneW | munplW => exact .planing h
  case mrnsin | mrnsinW => exact .residues h
  case dld => exact .execDld h
  case dsv => exact .execDsv h
  case dput => exact .execDput h
  case dins => exact .execDins h
  case dinit => exact .execDinit h
  case tmul | tadd | tsub | tmax | tcvt | tred | taddW | tsubW | tmaxW => exact .tile h
  case tmap => exact .execTmap h
  case force => exact .finish (.bind (.demand h) fun _ _ h1 => h1)
  case forceM | forceW => exact .forceRows h
  case tdrop | tdropM => exact .next (.retire (.dropBlanks h))
  case tst => exact .execTst h
  case cp | cps => exact .copy h
  case draw => exact .finish (.bind (.ports h) fun _ _ h1 => .setS h1)
  case drawV => exact .execDrawV h
  case rngkey | rngadv | trmark => exact .finish (.bind (.ports h) fun _ _ h1 => .doneS h1)
  case stamp => exact .execStamp h
  case stampClose => exact .next (.retire (.ite (.stampClose h) h))
  case stampOpen => exact .execStampOpen h
  case epreg => exact .execEpreg h
  case rpost => exact .execRpost h
  case rlver => exact .execRlver h
  case rjqry => exact .execRjqry h
  case tcinv => exact .finish (.tcinv h fun _ h1 => h1)
  case tcinvM => exact .execTcinvM h
  case sleep => exact .execSleep h
  case gridOperationComplete => exact .execGridOperationComplete h
  case blockEvaluation => exact .execBlockEvaluation h
  case copyCommandStart => exact .execCopyCommandStart h
  case copyCommandEnd => exact .execCopyCommandEnd h
  case sleepExpiry => exact .next (.ite (.wake h) h)
  case bankOperation => exact .next (.itemStep h)
  case waiterReevaluation => exact .execWaiterReevaluation h
  case rdrReissue => exact .ite (.next (.wake h)) (.next h)
  case remoteWaitRetry => exact .execRemoteWaitRetry h
  case tagWaitWatchdog => exact .execTagWaitWatchdog h
  case accessCompletion => exact .execAccessCompletion h
  case backgroundSpill => exact .execBackgroundSpill h
  case barrierRoundRelease => exact .execBarrierRoundRelease h
  case gateCommit | ungateComplete | wpctlWrite | invalidateTranslations | functionLevelReset | provisioning | productionFuse |
      retireFuse | fabricDrop =>
    exact .ite (.next h) (.next h)
  case ungateStart => exact .ite (.next (.post h)) (.next h)
  case lateTrapEntry => exact .ite (.next (.takeLate h)) (.next h)
  case preemptNotice => exact .execPreemptNotice h
  case pbudgetExpiry => exact .execPbudgetExpiry h
  case preemptSave => exact .execPreemptSave h
  case gangResume => exact .execGangResume h
  case translationWalk => exact .execTranslationWalk h
  case fackStore => exact .next (.ackWork h)
  case queueWriteStore => exact .execQueueWriteStore h
  case preemptRequest => exact .execPreemptRequest h
  case dependenceReread => exact .next (.foldl (fun _ _ h1 => .evalHead h1) h)
  case packetSelection => exact .execPacketSelection h
  case gangPlacement => exact .execGangPlacement h
  case placementWaitExpiry => exact .execPlacementWaitExpiry h
  case launchCompletion => exact .execLaunchCompletion h
  case rewardMessageHandling => exact .execRewardMessageHandling h
  case partRecorded => exact .execPartRecorded h
  case zeroFillDone => exact .execZeroFillDone h
  case deadline => exact .execDeadline h
  case fullerScanDone => exact .execFullerScanDone h
  case episodeRelease => exact .execEpisodeRelease h
  case lreadReread => exact .execLreadReread h
  case readMsg => exact .receive h (.badTag h) fun _ => .performRead h
  case readReply | acknowledge | atomicReply | errorMsg => exact .receive h (.badAnswer h) fun _ => .answered h
  case writeMsg | putWithSignal => exact .receive h (.badTag h) fun _ => .performWrite h
  case atomicMsg => exact .receive h (.badTag h) fun _ => .performAtomic h
  case rewardMsg => exact .receive h (.badTag h) fun _ => .takeReward h
  case barrierMsg => exact .receive h (.badTag h) fun _ => .takeBarrier h
  case stopMessage => exact .receive h (.badTag h) fun _ => .takeStopMsg h
  case sessionMsg => exact .receive h (.badTag h) fun _ => .takeSession h
  case linkFailure => exact .ite (.next (.failLink h)) (.next h)
  case stopTakesEffect => exact .next (.foldl (fun _ _ h1 => .takeStop h1) h)
  case stopCmd => exact .ite (.next h) (.ite (.next h) (.next (.raiseStop h)))
  case resumeCmd => exact .execResumeCmd h
  case resumeTakesEffect => exact .execResumeTakesEffect h
  case stepCmd | debugUnlock => exact .ite (.next h) (.ite (.next h) (.next h))
  case slotWindowWrite => exact .ite (.next h) (.next (.writeSlotWord h))
  case registerWrite => exact .ite (.next (.registerStore h)) (.next h)
  case dumpGang => exact .execDumpGang h
  case rctlStore => exact .execRctlStore h
  case invalidateRange => exact .ite (.next h) (.next (.commandDone (.ite h h)))
  case replay => exact .execReplay h
  case assign => exact .operate h fun _ _ e => .of_checked e (.assignDie h)
  case release => exact .operate h fun _ _ e => .of_checked e (.tearDown h)
  case create => exact .operate h fun _ _ e => .of_checked e (.newContext h)
  case destroy => exact .execDestroy h
  case queueOp => exact .operate h fun _ _ e => .of_checked e (.setQueue h)
  case region => exact .execRegion h
  case report => exact .operate h fun _ _ e => .of_checked e (.putClear h)
  case extend => exact .operate h fun _ _ e => .of_checked e (.extend h)
  case sessionOperation => exact .execSessionOperation h
  case rootOp => exact .execRootOp h
  case writeOperation => exact .operate h fun _ _ e => .of_checked e (.putPhysical h)
  case sleepOperation | deepSleepEntry => exact .ite (.next h) (.next (.enterSleep h))
  case managementWake => exact .ite (.next h) (.ite (.next (.coldForm h)) (.next h))
  case coldReset => exact .next (.coldForm h)
  case powerLoss => exact .execPowerLoss h
  case thermalWarningClear => exact .next (.post h)
  case criticalTrip => exact .ite (.next h) (.ite (.next h) (.execPowerLoss h))
  case notAnInstruction => exact .next (.precise h)
  case flushiAcknowledgement => exact .execFlushiAcknowledgement h
  case tcinvAcknowledgement => exact .execTcinvAcknowledgement h
  case unitInstructionHandling => exact .execUnitInstructionHandling h

/-! ### Teardown -/

theorem State.memOk.setTear {t : Teardown} (h : s.memOk) : (s.setTear t).memOk := h

theorem State.memOk.refuseFaults (h : s.memOk) : (s.refuseFaults cs).memOk :=
  .foldl (fun _ _ h1 => .service (.ite h1 h1)) h

theorem State.memOk.abortCopies (h : s.memOk) : (s.abortCopies cs).memOk :=
  .foldl (fun _ _ h1 => .ite (.post (.same h1 ⟨rfl, rfl⟩)) h1) h

theorem State.memOk.closeEntries (h : s.memOk) : (s.closeEntries cs u).memOk := by
  unfold State.closeEntries
  refine .foldl ?_ ?_
  · intro u1 b h1
    refine .ite ?_ ?_
    · exact .closeFailed h1
    · exact .same h1 ⟨rfl, rfl⟩
  · exact .same h ⟨rfl, rfl⟩

theorem State.memOk.stopEngines (h : s.memOk) : (s.stopEngines cs).memOk :=
  .closeEntries (.closeEntries (.abortCopies (.refuseFaults h)))

theorem State.memOk.endReplays (h : s.memOk) : (s.endReplays cs).memOk := .foldl (fun _ _ h1 => .logOver h1) h

theorem State.memOk.dropStops (h : s.memOk) : (s.dropStops cs).memOk := h

theorem State.memOk.tearEnd {t : Teardown} (h : s.memOk) : (s.tearEnd t).memOk := by
  unfold State.tearEnd
  split
  · exact .same h ⟨rfl, rfl⟩
  · exact .same h ⟨rfl, rfl⟩
  · exact .answer (.same h ⟨rfl, rfl⟩)
  · exact .same (.dark (.same h ⟨rfl, rfl⟩)) ⟨rfl, rfl⟩
  · exact .setSsc (.extend (.foldl (fun _ _ h1 => .scrub h1) (.same h ⟨rfl, rfl⟩)))
  · exact .setSsc (.foldl (fun _ _ h1 => .same h1 ⟨rfl, rfl⟩) (.foldl (fun _ _ h1 => .scrub h1) (.same h ⟨rfl, rfl⟩)))

theorem State.memOk.tearThreads {t : Teardown} (h : s.memOk) : (s.tearThreads t).memOk := by
  unfold State.tearThreads
  extract_lets mine ours s0 s1 s2 s3 ls s4 s5
  have h0 : s0.memOk := .stopEngines h
  have h2 : s2.memOk := .foldl (fun _ _ h => .ite h (.setGang h)) (.same h0 ⟨rfl, rfl⟩)
  have h3 : s3.memOk := .foldl (fun _ _ h => .endLaunch h) h2
  have h4 : s4.memOk := .foldl (fun _ _ h => .endGang h) h3
  have h5 : s5.memOk := .dropStops (.endReplays h4)
  exact .ite h2 (.ite h3 (.ite h4 (.ite (.tearEnd h5) (.setTear h5))))

theorem State.memOk.cutOff (h : s.memOk) : (s.cutOff cs).memOk := by
  unfold State.cutOff
  have hb : ((s.dropUnits cs.contains).revoke cs).memOk := by
    exact .revoke (.same h ⟨rfl, rfl⟩)
  exact .same hb ⟨rfl, rfl⟩

theorem State.memOk.tearDies {t : Teardown} (h : s.memOk) : (s.tearDies t).memOk := by
  unfold State.tearDies
  split
  · exact h
  · exact .ite (.setTear (.foldl (fun _ _ h1 => .ite (.rouse h1) h1) h)) (.setTear (.ite h (.tearDown h)))

theorem State.memOk.tearReport {t : Teardown} (h : s.memOk) : (s.tearReport t).memOk := by
  unfold State.tearReport
  dsimp only
  split
  · exact .tearEnd h
  · split
    · exact h
    · refine State.memOk.ite h (State.memOk.ite (.setTear (.notified (.setLineKey (.writeBytes h)))) ?_)
      split
      next e =>
        have h1 := State.memOk.of_ok e (.farPerform h)
        exact h1
      next e =>
        have h1 := State.memOk.of_park e (.farPerform h)
        exact h1
      next e =>
        have h1 := State.memOk.of_trap e (.farPerform h)
        exact h1
      next e =>
        have h1 := State.memOk.of_done e (.farPerform h)
        exact h1

theorem State.memOk.tearStep (h : s.memOk) : s.tearStep.memOk := by
  unfold State.tearStep
  split
  · exact h
  · split
    · exact .same h ⟨rfl, rfl⟩
    · exact .ite (.stopEngines h) (.setTear (.stopEngines h))
    · exact .tearThreads h
    · exact .setTear (.cutOff h)
    · refine .setTear ?_
      split
      · exact h
      · exact .foldl (fun _ _ h1 => .same h1 ⟨rfl, rfl⟩) h
    · exact .tearDies (.foldl (fun _ _ h1 => .zeroRegions h1) h)
    · exact .tearReport h

theorem State.memOk.mailTurn (h : s.memOk) : s.mailTurn.memOk := by
  unfold State.mailTurn
  dsimp only
  refine .ite h ?_
  split
  · exact h
  · split
    · exact .post h
    · exact .answer h

theorem State.memOk.sscClock (h : s.memOk) : s.sscClock.memOk := .ite (.mailTurn h) (.tearStep h)

/-! ### The turns of a step -/

theorem State.memOk.stopAgain (h : s.memOk) : (s.stopAgain t).memOk := .ite h h

theorem State.memOk.endStep {x : Slot} (h : s.memOk) : (s.endStep t x).memOk :=
  .ite (.ite (.stopAgain h) (.traceAt (.setCore (.stopAgain h)))) h

theorem Out3.MemOk.run {d : Except Reject Instr} {report : Word} (h : s.memOk) : Out3.MemOk (s.run d report) := by
  unfold State.run
  split <;> exact .exec h

theorem Out3.MemOk.issueLine {x : Slot} {l : Line} (h : s.memOk) : Out3.MemOk (s.issueLine x l) := by
  unfold State.issueLine
  split
  · exact .exec h
  · exact .run h
  · exact .ite (.next h) (.run h)

theorem Out3.MemOk.issue (h : s.memOk) : Out3.MemOk (s.issue t) := by
  unfold State.issue
  dsimp only
  split
  · exact .run h
  · refine .ite (.exec h) (.ite (.exec h) ?_)
    split
    next e =>
      have h1 := State.memOk.of_trap e (.fetchLine h)
      exact .next (.precise h1)
    next e =>
      have h1 := State.memOk.of_park e (.fetchLine h)
      exact .next h1
    next e =>
      have h1 := State.memOk.of_done e (.fetchLine h)
      exact .next h1
    next e =>
      have h1 := State.memOk.of_ok e (.fetchLine h)
      exact .issueLine h1

theorem State.memOk.unforced (h : s.memOk) : (s.unforced t).memOk := .ite (.wakeOrder (.settle h)) h

theorem Out3.MemOk.issueStep (h : s.memOk) : Out3.MemOk (s.issueStep t) := by
  unfold State.issueStep
  split
  next e => exact .next (.endStep (.unforced (.of_next e (.issue h))))
  · exact .issue h

theorem Out3.MemOk.finishStopped (h : s.memOk) : Out3.MemOk (s.finishStopped t) := by
  unfold State.finishStopped
  split
  next e => exact .next (.stopAgain (.unforced (.of_next e (.issue h))))
  · exact .issue h

theorem State.memOk.fire {unit now : Nat} (h : s.memOk) : (s.fire unit now).memOk :=
  .foldl (fun _ _ h1 => .post h1) h

theorem State.memOk.countBudgets (h : s.memOk) : (s.countBudgets n).memOk := by
  unfold State.countBudgets
  refine .foldl (fun _ _ h1 => .ite (.ite ?_ ?_) h1) h
  · exact .post (.same h1 ⟨rfl, rfl⟩)
  · exact .same h1 ⟨rfl, rfl⟩

theorem State.memOk.sendStamps (h : s.memOk) : (s.sendStamps n).memOk :=
  .foldl (fun _ _ h1 => .ite h1 (.stampWork h1)) h

theorem State.memOk.tick (h : s.memOk) : (s.tick n).memOk :=
  .ite h (.ite (.post (.fire (.countBudgets (.sendStamps h)))) (.fire (.countBudgets (.sendStamps h))))

theorem Out3.MemOk.coreTurn (h : s.memOk) : Out3.MemOk (s.coreTurn n) := by
  unfold State.coreTurn
  split
  · exact .next (.tick (.postSpills h))
  · split
    next e => exact .next (.tick (.of_next e (.issueStep h)))
    · exact .issueStep h

theorem State.memOk.clockTurn (h : s.memOk) : (s.clockTurn u).memOk := by
  unfold State.clockTurn
  split
  · exact .sscClock (.fire (.dispClock h))
  · exact .fire (.joinClock h)

theorem State.memOk.upset {x : Upset} (h : s.memOk) : (s.upset x).memOk := by
  unfold State.upset
  split
  · exact .ite (.foldl (fun _ _ h1 => .logFor h1) h) h
  · exact .ite h (.ite h h)
  · exact .ite h h
  · exact .ite h h
  · exact .ite h (.fatal h)
  all_goals exact h

theorem State.memOk.sample (h : s.memOk) : (s.sample k v).memOk := h

theorem State.memOk.passTo {hi : Nat} (h : s.memOk) : (s.passTo hi).memOk :=
  .same (.foldl (fun _ _ h1 => .tick (.postSpills h1)) h) ⟨rfl, rfl⟩

theorem State.memOk.endCycle (h : s.memOk) : s.endCycle.memOk :=
  .ite (.clockTurn (.clockTurn (.clockTurn (.same (.passTo h) ⟨rfl, rfl⟩)))) (.same (.passTo h) ⟨rfl, rfl⟩)

theorem Out3.MemOk.freeTurn (h : s.memOk) : Out3.MemOk s.freeTurn := by
  unfold State.freeTurn
  split
  · exact .next (.endCycle h)
  · split
    next e =>
      have h1 := State.memOk.of_next e (.coreTurn (.passTo h))
      exact .next (.ite h1 (.endCycle h1))
    · exact .coreTurn (.passTo h)

theorem Out3.MemOk.goOn (h : s.memOk) : Out3.MemOk (s.goOn t) :=
  .ite (.issueStep h) (.ite (.finishStopped h) (.next h))

theorem Out3.MemOk.wakeStep {w : Event} (h : s.memOk) : Out3.MemOk (s.wakeStep w) := by
  unfold State.wakeStep
  dsimp only
  split
  next e =>
    have h1 := State.memOk.of_next e (.exec h)
    split
    · exact .goOn h1
    · exact .next h1
  · exact .exec h

/-! ### One step -/

theorem Out3.MemOk.downStep (h : s.memOk) : Out3.MemOk s.downStep := by
  unfold State.downStep
  split
  · dsimp only
    split
    · exact .ite (.exec h) (.next h)
    · exact .next (.ite h (.upset h))
    · exact .next (.ite h (.sample h))
    · exact .next h
  · split
    · exact .fault
    · exact .next h
    · exact .ite (.exec h) (.next (.bootStep h))

theorem Out3.MemOk.step (h : s.memOk) : Out3.MemOk (step s) := by
  unfold Machine.step
  refine .ite (.downStep h) ?_
  split
  · exact .wakeStep h
  · split
    · exact .goOn h
    · split
      · dsimp only
        split
        · exact .exec h
        · exact .coreTurn h
        · exact .next (.clockTurn h)
        · exact .next (.upset h)
        · exact .next (.sample h)
        · split
          · exact .exec h
          · exact .next h
      · split
        · exact .exec h
        · exact .freeTurn h

end

/-- Settles O58: each step is a turn that `Out3.MemOk.step` goes through. -/
theorem stepKeepsMemoryCanonical : Obligations.step_keeps_memory_canonical :=
  fun _ t h e => Out3.MemOk.step h t e

end Sys2Proof.Machine
end

section
/-!
PROOFS. An ordinary access of a word of the own local store under the entry of its tag action table (10 R155 to R162).
-/

namespace Sys2Proof.Machine

/-! ### The fields of an entry (R156) -/

theorem TagEntry.act_of (e : BitVec 16) : (TagEntry.of e).act = entAct e := by
  have he := e.isLt
  simp only [TagEntry.of, entAct, BitVec.extractLsb'_toNat, Nat.shiftRight_eq_div_pow]
  omega

theorem TagEntry.upd_of (e : BitVec 16) : (TagEntry.of e).upd = entUpd e := rfl

theorem TagEntry.tag_of (e : BitVec 16) : (TagEntry.of e).tag = entTag e := by
  simp only [TagEntry.of, entTag, BitVec.extractLsb', Nat.shiftRight_eq_div_pow]

theorem TagEntry.tcode_of (e : BitVec 16) : (TagEntry.of e).tcode = entTcode e := by
  simp only [TagEntry.of, entTcode, BitVec.extractLsb'_toNat, Nat.shiftRight_eq_div_pow]

/-! ### What a bank operation leaves of a word (R158, R161) -/

/-- A tag reads as it was set; the others read as before (R154). -/
theorem State.tag_setTag (s : State) (home : Nat) (t : BitVec 3) (h : Nat) :
    (s.setTag home t).tag h = if wordOf h = wordOf home then t else s.tag h := by
  have htag : ∀ u : State, u.tags = SMap.setD s.tags (wordOf home) 0 t → u.tag h = if wordOf h = wordOf home then t else s.tag h := fun u e => by
    simp only [State.tag, e]
    split
    · rename_i hw; rw [hw, SMap.getD_setD_same]
    · rename_i hw; exact SMap.getD_setD_other _ _ _ hw
  unfold State.setTag
  split
  · rename_i e
    split
    · rename_i hw
      rw [← beq_iff_eq.mp e, State.tag, State.tag, hw]
    · rfl
  · exact htag _ rfl

/-- The machine once a word has been written with v, if its entry lets it be and there is something to write. -/
def State.written (s : State) (home : Nat) (e : BitVec 16) (v : Option Nat) : State := if entAct e = 4 then s else s.putNew home 0 8 255 v

/-- The machine once that is done and the word's tag has been updated, as its entry says. -/
def State.banked (s : State) (home : Nat) (e : BitVec 16) (v : Option Nat) : State :=
  if entUpd e then (s.written home e v).setTag home (entTag e) else s.written home e v

theorem State.cores_putNew (s : State) (home b k be : Nat) (v : Option Nat) : (s.putNew home b k be v).cores = s.cores := by
  cases v with
  | none => rfl
  | some v => rw [State.putNew]; split <;> simp

theorem State.tags_putNew (s : State) (home b k be : Nat) (v : Option Nat) : (s.putNew home b k be v).tags = s.tags := by
  cases v with
  | none => rfl
  | some v => rw [State.putNew]; split <;> simp

theorem State.mem_putNew_none (s : State) (home b k be : Nat) : (s.putNew home b k be none).mem = s.mem := rfl

theorem State.mem_putNew_some (s : State) (home b k be v : Nat) : (s.putNew home b k be (some v)).mem = Memory.writeN s.mem (home + b) v be k := by
  rw [State.putNew]; split <;> rfl

theorem State.cores_banked (s : State) (home : Nat) (e : BitVec 16) (v : Option Nat) : (s.banked home e v).cores = s.cores := by
  have h : (s.written home e v).cores = s.cores := by
    unfold State.written
    split
    · rfl
    · exact State.cores_putNew ..
  unfold State.banked
  split
  · rw [State.setTag_cores, h]
  · exact h

theorem State.tag_banked (s : State) (home : Nat) (e : BitVec 16) (v : Option Nat) (h : Nat) :
    (s.banked home e v).tag h = if entUpd e = true ∧ wordOf h = wordOf home then entTag e else s.tag h := by
  have ht : (s.written home e v).tag h = s.tag h := by
    unfold State.written
    split
    · rfl
    · rw [State.tag, State.tags_putNew, State.tag]
  unfold State.banked
  split
  · rename_i hu
    rw [State.tag_setTag, ht]
    simp only [hu, true_and]
  · rename_i hu
    rw [ht, if_neg (fun h => hu h.1)]

theorem State.mem_banked (s : State) (home : Nat) (e : BitVec 16) (v : Option Nat) :
    (s.banked home e v).mem = if entAct e = 4 then s.mem else (v.map (fun v => Memory.writeN s.mem home v 255 8)).getD s.mem := by
  have h : (s.written home e v).mem = if entAct e = 4 then s.mem else (v.map (fun v => Memory.writeN s.mem home v 255 8)).getD s.mem := by
    unfold State.written
    split
    · rfl
    · cases v with
      | none => rfl
      | some v => exact State.mem_putNew_some ..
  unfold State.banked
  split
  · rw [State.setTag_mem, h]
  · exact h

/-- What an access of a whole word leaves in it, if it writes (R188). -/
def WordOp.newWord (o : WordOp) (old : Nat) : Option Nat :=
  match o with
  | .write d => (WordOp.write (BitVec.ofNat 512 d.toNat)).new 8 old
  | o => o.new 8 old

/-- The part that a word of eight bytes takes in a read, a write or an atomic of it. -/
theorem State.wordStep_word {s : State} {o : WordOp} (home : Nat) (e : BitVec 16) (ho : o = .read ∨ (∃ d, o = .write d) ∨ ∃ p b c, o = .atom p b c) :
    s.wordStep o home 0 8 (2 ^ 8 - 1) o.data e false =
      (if entAct e = 4 then 0 else Memory.readN s.mem home 8, s.banked home e (o.newWord (Memory.readN s.mem home 8))) := by
  rcases ho with rfl | ⟨d, rfl⟩ | ⟨p, b, c, rfl⟩ <;>
    simp only [State.wordStep, State.banked, State.written, WordOp.newWord, WordOp.data, beq_iff_eq, Nat.add_zero, Bool.not_false, Bool.and_true] <;> rfl

/-! ### The evaluation of the word (R158, R161 to R166) -/

/-- What one word decides for an access of a thread, by its entry. -/
theorem State.decide_word {s : State} {n off kind : Nat} (hk : kind < 6) (hb : s.badTags.contains (lsHome n off) = false) :
    s.decide_ n kind false false [off] =
      if entAct (s.entry n off kind) = 3 then .trap off (entTcode (s.entry n off kind)) else if entAct (s.entry n off kind) = 2 then .redirect off
      else if entAct (s.entry n off kind) = 1 then .wait [off] else .go := by
  have h6 : decide (6 ≤ kind) = false := decide_eq_false (by omega)
  have h3 : ∀ m, (m == 3 || decide (6 ≤ kind) && m == 2) = decide (m = 3) := fun m => by rw [h6, Bool.false_and, Bool.or_false]; rfl
  simp only [State.decide_, Bool.false_eq_true, if_false, List.filter_cons, List.filter_nil, hb, Bool.not_false, if_true, List.map_cons, List.map_nil,
    List.find?_cons, List.find?_nil, h3]
  generalize s.entry n off kind = e
  by_cases e3 : entAct e = 3
  · simp [e3]
  · by_cases e2 : entAct e = 2
    · simp [e2]
    · have b2 : (entAct e == 2) = false := beq_false_of_ne e2
      by_cases e1 : entAct e = 1 <;> simp [e3, e2, b2, e1]

/-- An ordinary access of the own local store that nothing holds up comes to its bank operation. -/
theorem State.ordinary_eq_bank {s : State} {a : Acc} (h : Clear s a.va a.size) (h0 : 0 < a.size) :
    s.ordinary a = s.bank s.myAgent s.cur.core s.cur.core a.va.toNat (kindOf a.op false false) a false := by
  have hlt : a.va.toNat < 0x40000 := by have := h.inside; omega
  obtain ⟨hr, -, h2, -⟩ := State.cont_none h.fresh
  have ha : s.cont.redirected a = a := by rw [Cont.redirected, hr]
  have hls : homeIsLs (lsHome s.cur.core a.va.toNat) = true := homeIsLs_lsHome _ _ (by have := State.coreExists_lt h.core; omega) hlt
  have hb := State.barked_none s s.myAgent s.cur.core (a.words a.va.toNat) h.fresh
  have ht := State.tokenHeld_none s s.myAgent s.cur.core (a.words a.va.toNat) h.copies
  have hu : s.unhold s.myAgent = s := State.unhold_none s _ (fun w hw => (h.waiters w hw).1)
  have hf := Core.forcedBy_none (s.core s.cur.core) h.blanks
  have hh : s.lsHold s.myAgent s.cur.core (lsHome s.cur.core a.va.toNat) a false = .ok () s := by
    simp only [State.lsHold, homeCore_lsHome _ _ hlt, homeOff_lsHome _ _ hlt, hb, show (s.core s.cur.core).gated = false from h.awake, Bool.false_eq_true, if_false,
      beq_self_eq_true, if_true, ht, hu, hf, State.demand_none s _ _ h.demands]
  rw [State.ordinary, ha, State.precheck_plain h rfl h0, Res.bind_ok, if_neg (by rw [h.apart]; exact Bool.false_ne_true),
    if_neg (by rw [State.routeBusy_none h.unbuffered]; exact Bool.false_ne_true), State.perform, if_pos hls, State.lsPerform, hh, Res.bind_ok,
    homeCore_lsHome _ _ hlt, homeOff_lsHome _ _ hlt, bne_self_eq_false, Bool.false_and, if_neg Bool.false_ne_true, h2]
  cases s.bank s.myAgent s.cur.core s.cur.core a.va.toNat (kindOf a.op false false) a false with
  | ok v t => exact congrArg (Res.ok · t) (State.lsForward_none v h.unbuffered)
  | trap i t => rfl
  | park w t => rfl
  | done t => rfl

/-- The machine once the count of a table wait of the issuing thread has begun, and its watchdog been set (R167). -/
def State.counting (s : State) : State :=
  let r := s.beginWait s.myAgent (s.core s.cur.core).cyc.toNat
  r.2.setDog s.myAgent s.cur.core r.1

/-- The issuing thread as a waiter of a word of its own local store whose entry makes it wait (R165). -/
def State.tableWaiter (s : State) (off : Nat) : Waiter :=
  { seq := s.seq, home := wordOf (lsHome s.cur.core off), agent := s.myAgent, remote := false, onTag := true, onWrite := false, table := true, gate := false }

/-- The machine once the issuing thread waits for that word. -/
def State.listed (s : State) (off : Nat) : State := { s.counting with waiters := s.waiters ++ [s.tableWaiter off], seq := s.seq + 1 }

theorem State.sameBytes_listed (s : State) (off : Nat) : s.SameBytes (s.listed off) := ⟨rfl, rfl⟩

theorem State.tableWaiter_mem_listed (s : State) (off : Nat) : s.tableWaiter off ∈ (s.listed off).waiters :=
  List.mem_append_right _ (List.mem_singleton.mpr rfl)

theorem State.enter_own {s : State} {off : Nat} {w : Await} (hw : ∀ x ∈ s.waiters, x.agent ≠ s.myAgent) :
    s.enter s.myAgent s.cur.core s.cur.core (lsHome s.cur.core off) true false true w = (w, s.listed off) := by
  have ha : s.waiters.any (fun x => x.agent == s.myAgent && x.home == wordOf (lsHome s.cur.core off)) = false := by
    rw [List.any_eq_false]; intro x hx; simp [hw x hx]
  have hr : (s.myAgent.tid?.isSome && s.cur.core != s.cur.core) = false := by rw [bne_self_eq_false, Bool.and_false]
  simp only [State.enter, ha, hr, Bool.false_eq_true, if_false, if_true, Bool.false_and]
  rfl

/-- An agent that waits for no word yet enters the list of the one that makes it wait (R165). -/
theorem State.enterAll_own {s : State} {off : Nat} (hw : ∀ x ∈ s.waiters, x.agent ≠ s.myAgent) :
    s.enterAll s.myAgent s.cur.core s.cur.core [off] = (.table (lsHome s.cur.core off), s.listed off) := by
  have hn : s.waiters.find? (fun x => x.agent == s.myAgent && x.table) = none := by
    rw [List.find?_eq_none]; intro x hx; simp [hw x hx]
  have hf : (s.listed off).waiters.find? (fun x => x.agent == s.myAgent && x.table) = some (s.tableWaiter off) := by
    rw [State.listed, List.find?_append, hn]
    simp [State.tableWaiter]
  rw [State.enterAll, hn]
  dsimp only
  rw [State.enter_own hw]
  dsimp only
  rw [hf]
  rfl

/-- The machine once the issuing thread's access has been redirected by the word at an offset of its own local store, under its entry (R162). -/
def State.redirecting (s : State) (off : Nat) (e : BitVec 16) : State :=
  let s1 := if entUpd e then s.setTag (lsHome s.cur.core off) (entTag e) else s
  (s1.setCont { s1.cont with redirect := some (Memory.word s.mem (lsHome s.cur.core off)), second := true, since := none, dog := false }).post
    (.rdrReissue s.cur.core s.cur.slot)

section
variable {s : State} {a : Acc}

theorem Clear.words_eq (h : Clear s a.va 8) (hs : a.size = 8) : a.words a.va.toNat = [a.va.toNat] := by
  have hal := h.aligned
  rw [Acc.words, hs, if_pos (Nat.le_refl 8), wordOf, show a.va.toNat / 8 * 8 = a.va.toNat by omega]

theorem Clear.word_sound (h : Clear s a.va 8) :
    s.badTags.contains (lsHome s.cur.core a.va.toNat) = false ∧ s.poison.contains (lsHome s.cur.core a.va.toNat) = false := by
  have hal := h.aligned
  refine h.words _ ?_
  rw [wordsAt_small _ _ (by decide) (by decide), wordOf, show a.va.toNat / 8 * 8 = a.va.toNat by omega]
  exact List.mem_singleton.mpr rfl

theorem Clear.wordOf_home {va : Word} (h : Clear s va 8) : wordOf (lsHome s.cur.core va.toNat) = lsHome s.cur.core va.toNat := by
  have hal := h.aligned
  unfold wordOf lsHome; omega

/-- A thread's own access is of a kind below those of the engines (R155), and reports its own address (R159). -/
theorem kindOf_thread_lt (o : WordOp) : kindOf o false false < 6 := by
  simp only [kindOf, Bool.false_eq_true, if_false]
  split <;> decide

theorem Acc.seen_thread (a : Acc) (off o : Nat) : a.seen off (decide (6 ≤ kindOf a.op false false)) o = a.va := by
  have hk := kindOf_thread_lt a.op
  rw [decide_eq_false (by omega)]
  rfl

theorem Clear.overdue {va : Word} {n : Nat} (h : Clear s va n) : s.overdue s.myAgent s.cur.core = false := by
  have hs : s.cont.since = none := by simp only [State.cont, h.fresh]
  simp only [State.overdue, State.myAgent, (State.cont_none h.fresh).2.1, hs, Option.map_none, Option.getD_none, Bool.or_false, Bool.and_false]

/-- The entry that an access of the issuing thread meets at a word of its own local store (R155, R156). -/
def State.met (s : State) (a : Acc) : BitVec 16 := s.entry s.cur.core a.va.toNat (kindOf a.op false false)

/-- Where the evaluation of a word ends the access, the access ends so. -/
theorem State.ordinary_of_judge_trap (h : Clear s a.va a.size) (h0 : 0 < a.size) {i : TrapInfo} {t : State}
    (hj : s.judge s.myAgent s.cur.core s.cur.core a.va.toNat (kindOf a.op false false) a false = .trap i t) : s.ordinary a = .trap i t := by
  rw [State.ordinary_eq_bank h h0, State.bank, hj]
  rfl

theorem State.ordinary_of_judge_park (h : Clear s a.va a.size) (h0 : 0 < a.size) {w : Await} {t : State}
    (hj : s.judge s.myAgent s.cur.core s.cur.core a.va.toNat (kindOf a.op false false) a false = .park w t) : s.ordinary a = .park w t := by
  rw [State.ordinary_eq_bank h h0, State.bank, hj]
  rfl

section
variable (h : Clear s a.va a.size) (hs : a.size = 8) (hb : a.op.bypass = false)
include h hs hb

theorem State.decide_clear : s.decide_ s.cur.core (kindOf a.op false false) (decide (8 < a.size)) a.op.bypass (a.words a.va.toNat) =
    if entAct (s.met a) = 3 then .trap a.va.toNat (entTcode (s.met a)) else if entAct (s.met a) = 2 then .redirect a.va.toNat
    else if entAct (s.met a) = 1 then .wait [a.va.toNat] else .go := by
  rw [hs] at h
  rw [h.words_eq hs, hs, hb]
  exact State.decide_word (kindOf_thread_lt a.op) h.word_sound.1

theorem State.ordinary_tagTrap (he : entAct (s.met a) = 3) : s.ordinary a = .trap (trapOf 13 (entTcode (s.met a)) a.va) s := by
  refine State.ordinary_of_judge_trap h (by omega) ?_
  rw [State.judge, State.decide_clear h hs hb, if_pos he]
  dsimp only
  rw [Acc.seen_thread]

theorem State.ordinary_tagWait (he : entAct (s.met a) = 1) :
    s.ordinary a = .park (.table (lsHome s.cur.core a.va.toNat)) (s.listed a.va.toNat) := by
  refine State.ordinary_of_judge_park h (by omega) ?_
  rw [State.judge, State.decide_clear h hs hb, he]
  simp only [OfNat.one_ne_ofNat, if_false, if_true, h.overdue, Bool.false_eq_true]
  rw [State.enterAll_own fun w hw => (h.waiters w hw).1]

theorem State.ordinary_tagRedirect (he : entAct (s.met a) = 2) : s.ordinary a = .park .rdr (s.redirecting a.va.toNat (s.met a)) := by
  have hw : ∀ w ∈ s.waiters, w.agent ≠ s.myAgent := fun w hw => (h.waiters w hw).1
  have hl : ∀ t : State, t.waiters = s.waiters → t.leave s.myAgent = t := fun t e => State.leave_none t _ (by rw [e]; exact hw)
  refine State.ordinary_of_judge_park h (by omega) ?_
  rw [State.judge, State.decide_clear h hs hb, if_neg (by omega), if_pos he]
  rw [hs] at h
  dsimp only
  rw [if_neg (show ¬(s.myAgent.tid?.isNone || false) = true from Bool.false_ne_true), if_neg (by rw [h.word_sound.2]; exact Bool.false_ne_true),
    hl _ (by split <;> simp)]
  rfl

theorem State.ordinary_tagGo (he : entAct (s.met a) = 0 ∨ entAct (s.met a) = 4)
    (ho : a.op = .read ∨ (∃ d, a.op = .write d) ∨ ∃ p b c, a.op = .atom p b c) :
    s.ordinary a = .ok (BitVec.ofNat 512 (if entAct (s.met a) = 4 then 0 else s.bytesAt a.va.toNat 8))
      (s.banked (lsHome s.cur.core a.va.toNat) (s.met a)
        (a.op.newWord (s.bytesAt a.va.toNat 8))) := by
  rw [State.ordinary_small h (by omega) (by omega) (.inr he), hb]
  have hal := h.aligned
  rw [hs] at hal ⊢
  rw [hal, wordOf, show a.va.toNat / 8 * 8 = a.va.toNat by omega, State.wordStep_word _ _ ho, State.readN_own]
  rfl

end

end

/-! ### What an access leaves in its word (R188) -/

theorem Memory.writeN_mod (n : Nat) (m : List Host.Cell) (a v be : Nat) : Memory.writeN m a (v % 256 ^ n) be n = Memory.writeN m a v be n := by
  induction n generalizing a v be with
  | zero => rfl
  | succ n ih =>
    have hdiv : v % 256 ^ (n + 1) / 256 = v / 256 % 256 ^ n := by rw [Nat.pow_succ', Nat.mod_mul_right_div_self]
    have hlow : BitVec.ofNat 8 (v % 256 ^ (n + 1)) = BitVec.ofNat 8 v := by
      refine BitVec.eq_of_toNat_eq ?_
      rw [BitVec.toNat_ofNat, BitVec.toNat_ofNat, Nat.pow_succ', show (2 : Nat) ^ 8 = 256 by decide, Nat.mod_mul_right_mod]
    rw [Memory.writeN, Memory.writeN, hdiv, hlow, ih]

theorem State.mem_stored (s : State) (va : Word) (v : Nat) :
    (s.stored va 8 v).mem = Memory.writeN s.mem (lsHome s.cur.core va.toNat) v 255 8 := Memory.writeN_mod ..

theorem toNat_mod_word (v : Word) : v.toNat % 256 ^ 8 = v.toNat :=
  Nat.mod_eq_of_lt (Nat.lt_of_lt_of_eq v.isLt (by norm_num))

theorem WordOp.newWord_write (d : Word) (old : Nat) : (WordOp.write ((0 : BitVec 448) ++ d)).newWord old = some d.toNat := by
  have hd : ((0 : BitVec 448) ++ d).toNat = d.toNat := by
    refine (BitVec.toNat_append (0 : BitVec 448) d).trans ?_
    rw [show (0 : BitVec 448).toNat = 0 from rfl, Nat.zero_shiftLeft, Nat.zero_or]
  have h512 : d.toNat < 2 ^ 512 := Nat.lt_of_lt_of_le d.isLt (Nat.pow_le_pow_right (by decide) (by decide))
  have hnew : (WordOp.write ((0 : BitVec 448) ++ d)).newWord old = some ((BitVec.ofNat 512 ((0 : BitVec 448) ++ d).toNat).toNat % 256 ^ 8) := rfl
  rw [hnew, hd, BitVec.toNat_ofNat, Nat.mod_eq_of_lt h512, toNat_mod_word]

theorem WordOp.newWord_atom {o : AtomOp} (ho : o ≠ .fadd) (b c : Word) (old : Nat) :
    (WordOp.atom o b c).newWord old = if o = .cas ∧ old ≠ c.toNat then none else some (atomResult o 64 old b.toNat) := by
  have hnew : (WordOp.atom o b c).newWord old = o.new 64 old (b.toNat % 256 ^ 8) (c.toNat % 256 ^ 8) := rfl
  have hi : ∀ v, intOf 64 true v = (BitVec.ofNat 64 v).toInt := intOf_eq_toInt 63
  rw [hnew, toNat_mod_word, toNat_mod_word]
  cases o with
  | fadd => exact absurd rfl ho
  | cas => by_cases hold : old = c.toNat <;> simp [AtomOp.new, atomResult, hold]
  | min | max => simp [AtomOp.new, atomResult, hi]
  | add | and | or | xor | swp => simp [AtomOp.new, atomResult]
  | minu => exact congrArg some (Nat.min_def ..)
  | maxu => exact congrArg some (Nat.max_def ..)

/-! ### The four answers of an entry -/

theorem State.cont_post (s : State) (e : Event) : (s.post e).cont = s.cont := by
  unfold State.post
  split <;> rfl

theorem State.cont_redirecting (s : State) (off : Nat) (e : BitVec 16) :
    (s.redirecting off e).cont.redirect = some (Memory.word s.mem (lsHome s.cur.core off)) ∧ (s.redirecting off e).cont.second = true := by
  unfold State.redirecting
  dsimp only
  rw [State.cont_post, State.cont_setCont]
  exact ⟨rfl, rfl⟩

theorem State.mem_redirecting (s : State) (off : Nat) (e : BitVec 16) : (s.redirecting off e).mem = s.mem := by
  unfold State.redirecting
  dsimp only
  rw [State.post_mem, State.setCont_mem]
  split
  · exact State.setTag_mem ..
  · rfl

theorem State.tag_redirecting (s : State) (off : Nat) (e : BitVec 16) (h : Nat) :
    (s.redirecting off e).tag h = if entUpd e = true ∧ wordOf h = wordOf (lsHome s.cur.core off) then entTag e else s.tag h := by
  unfold State.redirecting
  dsimp only
  rw [State.tag, State.post_tags, State.setCont_tags]
  split
  · rename_i hu
    exact (State.tag_setTag ..).trans (by simp only [hu, true_and])
  · rename_i hu
    rw [if_neg fun h => hu h.1, State.tag]

section
variable {s : State} {a : Acc} {e : TagEntry} (h : Clear s a.va a.size) (hs : a.size = 8) (hb : a.op.bypass = false) (he : e = TagEntry.of (s.met a))
include h hs hb he

/-- PROCEED and ZERO (R158). -/
theorem tagged_go (hact : e.act = 0 ∨ e.act = 4) (ho : a.op = .read ∨ (∃ d, a.op = .write d) ∨ ∃ p b c, a.op = .atom p b c) :
    ∃ t, s.ordinary a = .ok (if e.act = 4 then 0 else BitVec.ofNat 512 (s.bytesAt a.va.toNat 8)) t ∧ t.cores = s.cores ∧
      (∀ h, t.tag h = if e.upd = true ∧ wordOf h = lsHome s.cur.core a.va.toNat then e.tag else s.tag h) ∧
      t.mem = if e.act = 4 then s.mem else
        ((a.op.newWord (s.bytesAt a.va.toNat 8)).map (fun v => Memory.writeN s.mem (lsHome s.cur.core a.va.toNat) v 255 8)).getD s.mem := by
  subst he
  rw [TagEntry.act_of] at *
  refine ⟨_, (State.ordinary_tagGo h hs hb hact ho).trans (congrArg (Res.ok · _) ?_), State.cores_banked .., fun x => ?_, State.mem_banked ..⟩
  · split <;> rfl
  · rw [hs] at h
    rw [State.tag_banked, h.wordOf_home, TagEntry.tag_of]
    rfl

/-- WAIT (R161, R165). -/
theorem tagged_wait (hact : e.act = 1) :
    ∃ t, s.ordinary a = .park (.table (lsHome s.cur.core a.va.toNat)) t ∧ t.mem = s.mem ∧ t.tags = s.tags ∧
      ∃ w ∈ t.waiters, w.agent = .thread s.cur ∧ w.home = lsHome s.cur.core a.va.toNat ∧ w.onTag = true := by
  subst he
  rw [TagEntry.act_of] at hact
  obtain ⟨hmem, htags⟩ := State.sameBytes_listed s a.va.toNat
  refine ⟨_, State.ordinary_tagWait h hs hb hact, hmem, htags, _, State.tableWaiter_mem_listed s a.va.toNat, rfl, ?_, rfl⟩
  rw [hs] at h
  exact h.wordOf_home

/-- REDIRECT (R162). -/
theorem tagged_redirect (hact : e.act = 2) :
    ∃ t, s.ordinary a = .park .rdr t ∧ t.mem = s.mem ∧
      (∀ h, t.tag h = if e.upd = true ∧ wordOf h = lsHome s.cur.core a.va.toNat then e.tag else s.tag h) ∧
      t.cont.redirect = some (BitVec.ofNat 64 (s.bytesAt a.va.toNat 8)) ∧ t.cont.second = true ∧
      t.todo.contains (.rdrReissue s.cur.core s.cur.slot) = true := by
  subst he
  rw [TagEntry.act_of] at hact
  obtain ⟨hredirect, hsecond⟩ := State.cont_redirecting s a.va.toNat (s.met a)
  refine ⟨_, State.ordinary_tagRedirect h hs hb hact, State.mem_redirecting .., fun x => ?_, ?_, hsecond, State.todo_post ..⟩
  · rw [hs] at h
    rw [State.tag_redirecting, h.wordOf_home, TagEntry.tag_of]
    rfl
  · rw [hredirect, Memory.word, State.readN_own]

/-- TRAP (R159). -/
theorem tagged_trap (hact : e.act = 3) : s.ordinary a = .trap (trapOf 13 e.tcode a.va) s := by
  subst he
  rw [TagEntry.act_of] at hact
  rw [State.ordinary_tagTrap h hs hb hact, TagEntry.tcode_of]

end

/-- Settles O16: the access comes to its bank operation, whose word decides by its entry alone. -/
theorem tagActionLoad : Obligations.tag_action_load := by
  unfold Obligations.tag_action_load
  refine ⟨fun s va e hc he => ?_, fun s va v b c o a k e ha hc he => ?_⟩
  · have h : Clear s (accRead va 8).va (accRead va 8).size := (State.clear_iff s va 8).mp hc
    refine ⟨fun hact => ?_, tagged_wait h rfl rfl he, fun hact => ?_, tagged_trap h rfl rfl he⟩
    · obtain ⟨t, hok, hcores, htags, hmem⟩ := tagged_go h rfl rfl he hact (.inl rfl)
      exact ⟨t, hok, hmem.trans (ite_self _), hcores, htags⟩
    · obtain ⟨t, hpark, hmem, -, hredirect, hsecond, htodo⟩ := tagged_redirect h rfl rfl he hact
      exact ⟨t, hpark, hmem, hredirect, hsecond, htodo⟩
  · obtain ⟨hva, hsize, hbypass, hop, hkind⟩ : a.va = va ∧ a.size = 8 ∧ a.op.bypass = false ∧
        (a.op = .read ∨ (∃ d, a.op = .write d) ∨ ∃ p b c, a.op = .atom p b c) ∧ kindOf a.op false false = k := by
      rcases ha with ⟨rfl, rfl⟩ | ⟨-, rfl, rfl⟩
      · exact ⟨rfl, rfl, rfl, .inr (.inl ⟨_, rfl⟩), rfl⟩
      · exact ⟨rfl, rfl, rfl, .inr (.inr ⟨_, _, _, rfl⟩), rfl⟩
    subst hva
    have h : Clear s a.va a.size := by rw [hsize]; exact (State.clear_iff s a.va 8).mp hc
    rw [← hkind] at he
    refine ⟨fun hact => ?_, tagged_wait h hsize hbypass he, fun hact => ?_, tagged_trap h hsize hbypass he⟩
    · obtain ⟨t, hok, hcores, htags, hmem⟩ := tagged_go h hsize hbypass he hact hop
      refine ⟨_, t, hok, hcores, htags, fun _ => rfl, hmem.trans ?_⟩
      rcases ha with ⟨ha, rfl⟩ | ⟨ho, ha, rfl⟩
      · rw [show a.op = .write ((0 : BitVec 448) ++ v) from congrArg Acc.op ha, WordOp.newWord_write, State.mem_stored]
        simp
      · rw [show a.op = .atom o b c from congrArg Acc.op ha, WordOp.newWord_atom ho]
        by_cases h4 : e.act = 4 <;> by_cases hcas : o = .cas ∧ s.bytesAt a.va.toNat 8 ≠ c.toNat <;> simp [h4, hcas, State.mem_stored]
    · obtain ⟨t, hpark, hmem, htags, hredirect, hsecond, htodo⟩ := tagged_redirect h hsize hbypass he hact
      exact ⟨t, hpark, hmem, htags, hredirect, hsecond, htodo, by rw [Cont.redirected, hredirect]⟩

end Sys2Proof.Machine
end

section
/-!
PROOFS. The events of accesses: the end of a table wait by its watchdog (10 R167), at a core number that no package has (03 R15).
-/

namespace Sys2Proof.Machine

/-- A core number so high that the homes of its local store would lie above every local-store home. -/
def strayCore : Nat := 2 ^ 42

/-- A thread of that core, region 0 of whose local store is its context's under entries that say WAIT; its instruction has waited until its watchdog ran out. -/
def stray : State :=
  let c : Core := { Core.zero with ctx := some 1, alloc := [(0, 0)], rmap0 := 1, tables := Core.zero.tables.setIfInBounds 0 (Vector.replicate 64 0x2000) }
  let s : State := { State.reset with cur := ⟨strayCore, 0⟩, cores := [(strayCore, c)] }
  s.setCont { s.cont with dog := true }

/-- Whether a part of an instruction ends in a watchdog trap. -/
def Res.barks {α : Type} : Res α → Bool
  | .trap i _ => i.cls == 17
  | _ => false

/-- The home of its word is taken for one of HBM, where no entry and no watchdog is looked at: the read ends in a memory trap (class 16). -/
theorem stray_read_not_barks : (stray.ordinary (accRead 0x100 8)).barks = false := by decide

theorem stray_waits :
    (stray.slot stray.cur).cont = some stray.cont ∧ stray.cont.dog = true ∧ stray.cont.redirect = none ∧
      stray.place stray.cur.core 0x100 = .ls stray.cur.core (0x100 : Word).toNat false ∧
      stray.lsCheck (some stray.cur.core) stray.myCtx stray.myAper 0x100 stray.cur.core (0x100 : Word).toNat false = none ∧
      stray.badTags = [] ∧ (stray.core stray.cur.core).copies = [] ∧ (∀ k, ((stray.core stray.cur.core).slot k).blanks = []) ∧
      (stray.core stray.cur.core).demands = [] ∧ (stray.core stray.cur.core).gated = false ∧ stray.me.outs = [] ∧
      (stray.entry stray.cur.core (0x100 : Word).toNat 0).toNat / 2 ^ 13 = 1 := by decide

/-- Refutes O40: its last clause does not ask that the core exists. A thread of core 2^42 has its local store at homes that are read as physical ones, so
that its read of a word that makes it wait ends without the watchdog's trap. -/
theorem not_accessEventResults : ¬ Obligations.access_event_results := by
  unfold Obligations.access_event_results
  rintro ⟨-, -, -, -, -, -, -, hdog⟩
  obtain ⟨hcont, hd, hr, hplace, hcheck, hbad, hcopies, hblanks, hdemands, hawake, houts, hentry⟩ := stray_waits
  obtain ⟨u, htrap, -⟩ :=
    hdog stray stray.cur stray.cont 0x100 rfl hcont hd hr (by decide) (by decide) hplace hcheck hbad hcopies hblanks hdemands hawake houts hentry
  have hbarks := stray_read_not_barks
  rw [htrap] at hbarks
  exact Bool.noConfusion (hbarks : true = false)

end Sys2Proof.Machine
end

section
/-!
PROOFS. Scalar loads and stores of the own local store: what an ordinary one does under table 0, and where it traps (10 R151, R152; 11 R178, R180, R181).
-/

namespace Sys2Proof.Machine

/-! ### Numbers and registers (R112, R180) -/

theorem State.bytesAt_lt_pow (s : State) (off n : Nat) : s.bytesAt off n < 256 ^ n := by
  rw [← State.readN_own]
  exact Memory.readN_lt ..

/-- The sizes of scalar accesses. -/
def scalarSizes : List Nat := [1, 2, 4, 8]

theorem scalarSizes_bounds : ∀ n ∈ scalarSizes, 0 < n ∧ n ≤ 8 := by decide

theorem ofNat_extract_low {w : Nat} (hw : w ≤ 512) (v : Nat) : (BitVec.ofNat 512 v).extractLsb' 0 w = BitVec.ofNat w v := by
  refine BitVec.eq_of_toNat_eq ?_
  rw [BitVec.extractLsb'_toNat, BitVec.toNat_ofNat, BitVec.toNat_ofNat, Nat.shiftRight_zero, Nat.mod_mod_of_dvd _ (Nat.pow_dvd_pow 2 hw)]

theorem setWidth_ofNat {w v : Nat} (hv : v < 2 ^ w) : (BitVec.ofNat w v).setWidth 64 = BitVec.ofNat 64 v := by
  rw [← BitVec.ofNat_toNat, BitVec.toNat_ofNat, Nat.mod_eq_of_lt hv]

theorem signExtend_ofNat {w v : Nat} (hv : v < 2 ^ (w + 1)) :
    (BitVec.ofNat (w + 1) v).signExtend 64 = BitVec.ofInt 64 (if 2 ^ w ≤ v then (v : Int) - 2 ^ (w + 1) else v) := by
  have hhalf : 2 ^ (w + 1) = 2 * 2 ^ w := Nat.pow_succ'
  rw [BitVec.signExtend, BitVec.toInt_eq_toNat_cond, BitVec.toNat_ofNat, Nat.mod_eq_of_lt hv]
  split
  · rw [if_neg (by omega)]
  · rw [if_pos (by omega)]
    norm_cast

/-- The low bytes that a load has read, extended, are what its register takes. -/
theorem extend_bytes {n : Nat} (hn : n ∈ scalarSizes) {signed : Bool} (hs : signed = true → n < 8) {v : Nat} (hv : v < 256 ^ n) :
    extend n signed (BitVec.ofNat 512 v) = BitVec.ofInt 64 (if signed && decide (2 ^ (8 * n - 1) ≤ v) then (v : Int) - 2 ^ (8 * n) else v) := by
  have hpow : 256 ^ n = 2 ^ (8 * n) := by rw [Nat.pow_mul]
  rw [hpow] at hv
  simp only [scalarSizes, List.mem_cons, List.not_mem_nil, or_false] at hn
  cases signed with
  | false => rcases hn with rfl | rfl | rfl | rfl <;> simp [extend, ofNat_extract_low, setWidth_ofNat hv]
  | true =>
    have h8 := hs rfl
    rcases hn with rfl | rfl | rfl | rfl <;> simp [extend, ofNat_extract_low, signExtend_ofNat hv] at h8 ⊢

theorem State.extend_loaded (s : State) (va : Word) {n : Nat} (hn : n ∈ scalarSizes) {signed : Bool} (hs : signed = true → n < 8) :
    Machine.extend n signed (BitVec.ofNat 512 (s.bytesAt va.toNat n)) = s.loaded va n signed := extend_bytes hn hs (s.bytesAt_lt_pow va.toNat n)

/-! ### What a load and a store do (R180, R181) -/

/-- An ordinary load whose ports are usable ends as its one access does. -/
theorem State.load_open {s : State} {d : SReg} {srcs : List SReg} (hp : s.portsOpen srcs [d] [] [] = true) (n : Nat) (signed : Bool) (va : State → Word) :
    s.load d srcs false n signed va = ((s.ordinary (accRead (va s) n)).bind fun v t => .ok () (t.setS srcs d (Machine.extend n signed v))).finish := by
  simp only [State.load, State.memPorts_open hp, Res.bind_ok, Bool.false_eq_true, if_false]

theorem State.store_open {s : State} {r : SReg} {srcs : List SReg} (hp : s.portsOpen (r :: srcs) [] [] [] = true) (n : Nat) (va : State → Word) :
    s.store r srcs false n va = ((s.ordinary (accWrite (va s) n (s.rs r))).bind fun _ t => .ok () (t.doneS (r :: srcs))).finish := by
  simp only [State.store, State.memPorts_open hp, Res.bind_ok, Bool.false_eq_true, if_false]

theorem State.load_plain {s : State} {d : SReg} {srcs : List SReg} {n : Nat} {signed : Bool} {va : State → Word} (hn : n ∈ scalarSizes)
    (hs : signed = true → n < 8) (hp : s.portsOpen srcs [d] [] [] = true) (h : s.plain (va s) n = true) :
    s.load d srcs false n signed va = .next (s.setS srcs d (s.loaded (va s) n signed)) := by
  obtain ⟨hclear, htable⟩ := (State.plain_iff ..).mp h
  obtain ⟨h0, h8⟩ := scalarSizes_bounds n hn
  rw [State.load_open hp, State.ordinary_read hclear htable h0 h8, State.readN_own, Res.bind_ok, State.extend_loaded s _ hn hs, Res.finish_ok]

theorem State.store_plain {s : State} {r : SReg} {srcs : List SReg} {n : Nat} {va : State → Word} (hn : n ∈ scalarSizes)
    (hp : s.portsOpen (r :: srcs) [] [] [] = true) (h : s.plain (va s) n = true) :
    s.store r srcs false n va = .next ((s.stored (va s) n (s.rs r).toNat).doneS (r :: srcs)) := by
  obtain ⟨hclear, htable⟩ := (State.plain_iff ..).mp h
  obtain ⟨h0, h8⟩ := scalarSizes_bounds n hn
  obtain ⟨v, hv⟩ := State.ordinary_write (s.rs r) hclear htable h0 h8
  rw [State.store_open hp, hv]
  rfl

/-- What a store leaves: its bytes, and every other byte as before (R112). -/
theorem State.byte_stored (s : State) (va : Word) (n v k : Nat) (hk : k < n) :
    Memory.byte (s.stored va n v).mem (lsHome s.cur.core va.toNat + k) = BitVec.ofNat 8 (v / 256 ^ k) := by
  have hones : (2 ^ n - 1) / 2 ^ k % 2 = 1 := by
    have := Nat.testBit_two_pow_sub_one n k
    rw [Nat.testBit_eq_decide_div_mod_eq, decide_eq_decide] at this
    exact this.mpr hk
  rw [State.stored, Memory.writeN_mod, Memory.byte_writeN_inside _ _ _ _ _ _ hk, if_pos hones]

theorem State.byte_stored_outside (s : State) (va : Word) (n v a : Nat) (h : a < lsHome s.cur.core va.toNat ∨ lsHome s.cur.core va.toNat + n ≤ a) :
    Memory.byte (s.stored va n v).mem a = Memory.byte s.mem a := Memory.byte_writeN_outside _ _ _ _ _ _ h

/-- A load of as many bytes reads the value back. -/
theorem State.bytesAt_stored (s : State) (va : Word) (n v : Nat) : (s.stored va n v).bytesAt va.toNat n = v % 256 ^ n := by
  rw [← State.readN_own, State.stored, Memory.writeN_mod]
  exact Memory.readN_writeN ..

/-! ### The instructions -/

/-- The parameters of a load, from its table. -/
theorem exec_loadsI {p : (SReg → SReg → BitVec 11 → Instr) × Nat × Bool} (hp : p ∈ loadsI) : p.2.1 ∈ scalarSizes ∧ (p.2.2 = true → p.2.1 < 8) ∧
    ∀ s d b i, exec (p.1 d b i) s = s.load d [b] false p.2.1 p.2.2 (fun t => t.rs b + i.signExtend 64) := by
  simp only [loadsI, List.mem_cons, List.not_mem_nil, or_false] at hp
  rcases hp with rfl | rfl | rfl | rfl | rfl | rfl | rfl <;> exact ⟨by decide, by decide, fun _ _ _ _ => rfl⟩

theorem exec_loadsW {p : (SReg → SReg → BitVec 1 → BitVec 16 → Instr) × Nat × Bool} (hp : p ∈ loadsW) : p.2.1 ∈ scalarSizes ∧ (p.2.2 = true → p.2.1 < 8) ∧
    ∀ s d b rx i, exec (p.1 d b rx i) s = s.load d [b] (rx == 1) p.2.1 p.2.2 (fun t => t.rs b + i.signExtend 64) := by
  simp only [loadsW, List.mem_cons, List.not_mem_nil, or_false] at hp
  rcases hp with rfl | rfl | rfl | rfl | rfl | rfl | rfl <;> exact ⟨by decide, by decide, fun _ _ _ _ _ => rfl⟩

theorem exec_loadsX {p : (SReg → SReg → SReg → BitVec 1 → BitVec 32 → Instr) × Nat × Bool} (hp : p ∈ loadsX) :
    p.2.1 ∈ scalarSizes ∧ (p.2.2 = true → p.2.1 < 8) ∧
    ∀ s d b c rx i, exec (p.1 d b c rx i) s = s.load d [b, c] (rx == 1) p.2.1 p.2.2 (fun t => t.rs b + t.rs c + i.signExtend 64) := by
  simp only [loadsX, List.mem_cons, List.not_mem_nil, or_false] at hp
  rcases hp with rfl | rfl | rfl | rfl | rfl | rfl | rfl <;> exact ⟨by decide, by decide, fun _ _ _ _ _ _ => rfl⟩

theorem exec_storesI {p : (SReg → SReg → BitVec 11 → Instr) × Nat} (hp : p ∈ storesI) : p.2 ∈ scalarSizes ∧
    ∀ s a b i, exec (p.1 a b i) s = s.store a [b] false p.2 (fun t => t.rs b + i.signExtend 64) := by
  simp only [storesI, List.mem_cons, List.not_mem_nil, or_false] at hp
  rcases hp with rfl | rfl | rfl | rfl <;> exact ⟨by decide, fun _ _ _ _ => rfl⟩

theorem exec_storesW {p : (SReg → SReg → BitVec 1 → BitVec 16 → Instr) × Nat} (hp : p ∈ storesW) : p.2 ∈ scalarSizes ∧
    ∀ s a b rx i, exec (p.1 a b rx i) s = s.store a [b] (rx == 1) p.2 (fun t => t.rs b + i.signExtend 64) := by
  simp only [storesW, List.mem_cons, List.not_mem_nil, or_false] at hp
  rcases hp with rfl | rfl | rfl | rfl <;> exact ⟨by decide, fun _ _ _ _ _ => rfl⟩

theorem exec_storesX {p : (SReg → SReg → SReg → BitVec 1 → BitVec 32 → Instr) × Nat} (hp : p ∈ storesX) : p.2 ∈ scalarSizes ∧
    ∀ s a b c rx i, exec (p.1 a b c rx i) s = s.store a [b, c] (rx == 1) p.2 (fun t => t.rs b + t.rs c + i.signExtend 64) := by
  simp only [storesX, List.mem_cons, List.not_mem_nil, or_false] at hp
  rcases hp with rfl | rfl | rfl | rfl <;> exact ⟨by decide, fun _ _ _ _ _ _ => rfl⟩

/-- Settles O13: every load is State.load and every store State.store (exec_loadsI and its kin), whose one access nothing holds up. -/
theorem loadAndStoreResults : Obligations.load_and_store_results := by
  unfold Obligations.load_and_store_results
  refine ⟨⟨fun p hm s d b i hp h => ?_, fun p hm s d b i hp h => ?_, fun p hm s d b c i hp h => ?_⟩,
    ⟨fun p hm s a b i hp h => ?_, fun p hm s a b i hp h => ?_, fun p hm s a b c i hp h => ?_⟩, fun s va n v _ _ => ?_⟩
  · obtain ⟨hn, hs, hexec⟩ := exec_loadsI hm
    exact (hexec ..).trans (State.load_plain hn hs hp h)
  · obtain ⟨hn, hs, hexec⟩ := exec_loadsW hm
    exact (hexec ..).trans (State.load_plain hn hs hp h)
  · obtain ⟨hn, hs, hexec⟩ := exec_loadsX hm
    exact (hexec ..).trans (State.load_plain hn hs hp h)
  · obtain ⟨hn, hexec⟩ := exec_storesI hm
    exact (hexec ..).trans (State.store_plain hn hp h)
  · obtain ⟨hn, hexec⟩ := exec_storesW hm
    exact (hexec ..).trans (State.store_plain hn hp h)
  · obtain ⟨hn, hexec⟩ := exec_storesX hm
    exact (hexec ..).trans (State.store_plain hn hp h)
  · exact ⟨fun k hk => s.byte_stored va n v k hk, fun a ha => s.byte_stored_outside va n v a ha, s.bytesAt_stored va n v, rfl, rfl, rfl⟩

/-! ### Where an access traps (R151, R152, R178) -/

/-- A check of the access that fails is the trap of the access, of an instruction that has not been redirected. -/
theorem State.ordinary_of_precheck_trap {s t : State} {a : Acc} {i : TrapInfo} (hc : s.me.cont = none)
    (h : s.precheck s.myAgent s.cur.core s.myCtx s.myAper a a.op.need.kind = .trap i t) : s.ordinary a = .trap i t := by
  have ha : s.cont.redirected a = a := by rw [Cont.redirected, (State.cont_none hc).1]
  rw [State.ordinary, ha, h]
  rfl

/-- An address that is not a multiple of the size, one below the windows that is not the own local store's, and one in a region that the context does not have. -/
theorem State.precheck_trap {s : State} {va : Word} {n : Nat} {i : TrapInfo}
    (h : (n ∈ [2, 4, 8] ∧ va.toNat % n ≠ 0 ∧ i = trapOf 5 0 va) ∨
      (n ∈ [1, 2, 4, 8] ∧ va.toNat % n = 0 ∧ 0x40000 ≤ va.toNat ∧ va.toNat < 0x100000 ∧ i = trapOf 6 0 va) ∨
      (n ∈ [1, 2, 4, 8] ∧ va.toNat % n = 0 ∧ va.toNat < 0x40000 ∧ s.allocated s.cur.core va.toNat s.myCtx = false ∧ i = trapOf 7 0 va))
    {a : Acc} (hva : a.va = va) (hn : a.size = n) (ag : Agent) (k : BitVec 3) : s.precheck ag s.cur.core s.myCtx s.myAper a k = .trap i s := by
  subst hva hn
  rcases h with ⟨-, hmis, rfl⟩ | ⟨-, hal, hlo, hhi, rfl⟩ | ⟨-, hal, hin, hno, rfl⟩
  · rw [State.precheck, if_pos hmis]
  · have hplace : s.place s.cur.core a.va = .nowhere := by
      have ht : isTranslated a.va = false := by simp only [isTranslated, Bool.and_eq_false_iff, decide_eq_false_iff_not]; omega
      rw [State.place]
      dsimp only
      rw [if_neg (by omega), if_neg (by omega), if_neg (by omega), ht, if_neg Bool.false_ne_true]
    rw [State.precheck, if_neg (not_not_intro hal), hplace]
  · have hplace : s.place s.cur.core a.va = .ls s.cur.core a.va.toNat false := if_pos (by omega)
    have hcheck : s.lsCheck (some s.cur.core) s.myCtx s.myAper a.va s.cur.core a.va.toNat false = some (trapOf 7 0 a.va) := by
      simp only [State.lsCheck, State.portRefuses, hno, bne_self_eq_false, Bool.false_and, Bool.false_eq_true, if_false, Bool.not_false, if_true]
    rw [State.precheck, if_neg (not_not_intro hal), hplace]
    dsimp only
    rw [hcheck]

/-- Settles O15: the checks of the one access find the trap, before anything else is done. -/
theorem memoryTraps : Obligations.memory_traps := by
  unfold Obligations.memory_traps
  intro s va n i h hc
  refine ⟨fun p hm hn d b j hp hva => ?_, fun p hm hn a b j hp hva => ?_⟩
  · obtain ⟨-, -, hexec⟩ := exec_loadsI hm
    rw [hexec, State.load_open hp, hn, hva, State.ordinary_of_precheck_trap hc (State.precheck_trap h rfl rfl _ _), Res.bind_trap, Res.finish_trap]
  · obtain ⟨-, hexec⟩ := exec_storesI hm
    rw [hexec, State.store_open hp, hn, hva, State.ordinary_of_precheck_trap hc (State.precheck_trap h rfl rfl _ _), Res.bind_trap, Res.finish_trap]

end Sys2Proof.Machine
end

section
/-!
PROOFS. The issue of a relaxed access of the own local store (11 R174, R178, R180, R181, R189).
-/

namespace Sys2Proof.Machine

theorem State.Still.outs {s t : State} (h : s.Still t) : t.me.outs = s.me.outs := by
  have e := congrArg Slot.outs h.me
  exact e

/-- Letting the elements of a thread go on lists events and does nothing else. -/
theorem State.still_kick (s : State) (t : Tid) : s.Still (s.kick t) := by
  refine State.still_foldl _ (fun u o => State.still_foldl _ (fun v k => ?_) _ _) _ _
  split
  · exact State.still_ite _ (.refl v) (State.still_post ..)
  · exact .refl v

/-- Fewer sources ask less of the ports. -/
theorem State.portsOpen_of_subset {s : State} {srcs srcs' dsts : List SReg} (hs : srcs' ⊆ srcs) (h : s.portsOpen srcs dsts [] [] = true) :
    s.portsOpen srcs' dsts [] [] = true := by
  have hc : ∀ r : SReg, srcs.contains r = false → srcs'.contains r = false := fun r hr => by
    simp only [List.contains_eq_mem, decide_eq_false_iff_not] at hr ⊢
    exact fun hm => hr (hs hm)
  simp only [State.portsOpen, Slot.portBad, Bool.and_eq_true, Bool.not_eq_true', Bool.or_eq_false_iff, Bool.and_eq_false_iff] at h ⊢
  obtain ⟨⟨⟨⟨⟨⟨⟨⟨⟨⟨h7, hd⟩, hsu⟩, hdn⟩, hv⟩, he⟩, hq⟩, hvq⟩, hfull⟩, hvfull⟩, hkey⟩ := h
  exact ⟨⟨⟨⟨⟨⟨⟨⟨⟨⟨hc 7 h7, hd⟩, hsu.imp_left (hc 6)⟩, hdn⟩, hv⟩, he⟩, hq.imp_left (hc 6)⟩, hvq⟩, hfull⟩, hvfull⟩, hkey⟩

/-- The outstanding instruction of a relaxed form of one access. -/
def State.outOne (s : State) (a : Acc) (store : Bool) (dest : OutDest) : Out :=
  { seq := s.seq, pc := s.me.pc, byHandler := s.me.cr.intrap, store := store, multi := false, fail := none
    items := [{ elem := 0, acc := a, home := lsHome s.cur.core a.va.toNat, point := 0, came := s.seq, second := false, stall := .none, since := none, done := false,
                failed := false, ret := 0 }]
    dest := dest }

/-- The machine with one more outstanding instruction of the issuing thread. -/
def State.withOut (s : State) (o : Out) : State := ({ s with seq := s.seq + 1 } : State).setMe { s.me with outs := s.me.outs ++ [o] }

theorem State.me_withOut (s : State) (o : Out) : (s.withOut o).me = { s.me with outs := s.me.outs ++ [o] } := State.me_setMe ..

theorem State.sameBytes_withOut (s : State) (o : Out) : s.SameBytes (s.withOut o) := ⟨rfl, rfl⟩

/-- The machine once a relaxed instruction has issued one access of the own local store. -/
def State.issuedOne (s : State) (a : Acc) (store : Bool) (dest : OutDest) (srcs : List SReg) : State :=
  ((s.pops srcs []).retire.withOut (s.outOne a store dest)).kick (s.pops srcs []).retire.cur

/-- It goes on at NEXT, and has neither read nor written anything yet. -/
theorem State.issued_issuedOne (s : State) (a : Acc) (store : Bool) (dest : OutDest) (srcs : List SReg) :
    Issued s (s.issuedOne a store dest srcs) a.va a.size store dest := by
  have hpops := State.still_pops s srcs
  have hkick : ((s.pops srcs []).retire.withOut (s.outOne a store dest)).Still (s.issuedOne a store dest srcs) := State.still_kick ..
  have hbytes : s.SameBytes (s.issuedOne a store dest srcs) := (hpops.bytes.trans ⟨rfl, rfl⟩ : s.SameBytes (s.pops srcs []).retire).trans
    ((State.sameBytes_withOut ..).trans hkick.bytes)
  have hme := State.me_withOut (s.pops srcs []).retire (s.outOne a store dest)
  rw [State.retire, State.me_goto] at hme
  refine ⟨?_, ?_, hbytes.1, hbytes.2, s.outOne a store dest, _, ?_, rfl, rfl, rfl, rfl, rfl, rfl, rfl, rfl⟩
  · rw [hkick.pc, State.retire, hme, hpops.npc]
  · rw [hkick.regs, State.retire, hme, hpops.regs]
  · rw [hkick.outs, State.retire, hme, hpops.outs]

section
variable {s : State} {a : Acc} (h : Clear s a.va a.size) (h0 : 0 < a.size)
include h h0

/-- The checks of one access that nothing holds up find its home. -/
theorem State.relaxedChecks_one (multi : Bool) (e : Nat) : s.relaxedChecks multi [(e, a)] = .ok [lsHome s.cur.core a.va.toNat] s := by
  rw [State.relaxedChecks, State.precheck_plain h rfl h0]
  rfl

/-- No watchpoint in translated space is about a home in local store. -/
theorem State.relaxedWatch_one (multi : Bool) (e : Nat) : s.relaxedWatch multi [((e, a), lsHome s.cur.core a.va.toNat)] = .ok () s := by
  have hls : homeIsLs (lsHome s.cur.core a.va.toNat) = true :=
    homeIsLs_lsHome _ _ (by have := State.coreExists_lt h.core; omega) (by have := h.inside; omega)
  rw [State.relaxedWatch, hls, if_pos rfl]
  rfl

/-- A relaxed instruction of one access, with fewer than four outstanding, is issued (R174). -/
theorem State.issueRelaxed_one (ho : s.me.outs.length < 4) (store : Bool) (dest : OutDest) (srcs : List SReg) :
    s.issueRelaxed [(0, a)] store false dest srcs [] = .ok () (s.issuedOne a store dest srcs) := by
  rw [State.issueRelaxed, if_neg (by simpa using ho), State.relaxedChecks_one h h0, Res.bind_ok, List.zip_cons_cons, List.zip_nil_left,
    State.relaxedWatch_one h h0, Res.bind_ok]
  rfl

end

/-! ### The relaxed forms -/

theorem State.load_relaxed {s : State} {d : SReg} {srcs : List SReg} {n : Nat} {signed : Bool} {va : State → Word} (hn : n ∈ scalarSizes)
    (hp : s.portsOpen srcs [d] [] [] = true) (h : s.plain (va s) n = true) (ho : s.me.outs.length < 4) :
    ∃ t, s.load d srcs true n signed va = .next t ∧ Issued s t (va s) n false (.scalar (s.me.regs.loc d) n signed) := by
  obtain ⟨hclear, -⟩ := (State.plain_iff ..).mp h
  refine ⟨_, ?_, State.issued_issuedOne s (accRead (va s) n) false (.scalar (s.me.regs.loc d) n signed) srcs⟩
  simp only [State.load, State.memPorts_open hp, Res.bind_ok, if_true]
  rw [State.issueRelaxed_one (a := accRead (va s) n) hclear (scalarSizes_bounds n hn).1 ho, Res.finish_ok]

theorem State.store_relaxed {s : State} {r : SReg} {srcs : List SReg} {n : Nat} {va : State → Word} (hn : n ∈ scalarSizes)
    (hp : s.portsOpen (r :: srcs) [] [] [] = true) (h : s.plain (va s) n = true) (ho : s.me.outs.length < 4) :
    ∃ t, s.store r srcs true n va = .next t ∧ Issued s t (va s) n true .none := by
  obtain ⟨hclear, -⟩ := (State.plain_iff ..).mp h
  refine ⟨_, ?_, State.issued_issuedOne s (accWrite (va s) n (s.rs r)) true .none (r :: srcs)⟩
  simp only [State.store, State.memPorts_open hp, Res.bind_ok, if_true]
  rw [State.issueRelaxed_one (a := accWrite (va s) n (s.rs r)) hclear (scalarSizes_bounds n hn).1 ho, Res.finish_ok]

theorem State.atomic_relaxed {s : State} {o : AtomOp} (hf : o ≠ .fadd) {d b c : SReg} (hp : s.portsOpen [b, c, d] [d] [] [] = true)
    (h : s.plain (s.rs b) 8 = true) (ho : s.me.outs.length < 4) :
    ∃ t, s.atomic o d b c 0 1 0 = .next t ∧ Issued s t (s.rs b) 8 false (.scalar (s.me.regs.loc d) 8 false) := by
  obtain ⟨hclear, -⟩ := (State.plain_iff ..).mp h
  have hport : s.portsOpen (if o == .cas then [b, c, d] else [b, c]) [d] [] [] = true := by
    split
    · exact hp
    · exact State.portsOpen_of_subset (by simp) hp
  refine ⟨_, ?_, State.issued_issuedOne s (accOp (s.rs b) 8 (.atom o (s.rs c) (if o == .cas then s.rs d else 0))) false _
    (if o == .cas then [b, c, d] else [b, c])⟩
  have hfadd : (o == .fadd) = false := beq_false_of_ne hf
  simp only [State.atomic, show ((0 : BitVec 1) == 1) = false from rfl, Bool.false_eq_true, if_false, State.memPorts_open hport, Res.bind_ok,
    beq_self_eq_true, if_true, hfadd]
  rw [show s.rs b + 0 = s.rs b from BitVec.add_zero _, State.issueRelaxed_one (a := accOp (s.rs b) 8 (.atom o (s.rs c) (if o == .cas then s.rs d else 0))) hclear (show 0 < 8 by decide) ho, Res.finish_ok]

theorem exec_atomics {p : (SReg → SReg → SReg → BitVec 1 → BitVec 1 → Instr) × (SReg → SReg → SReg → BitVec 1 → BitVec 1 → BitVec 16 → Instr) × AtomOp}
    (hp : p ∈ atomics) : p.2.2 ≠ .fadd ∧ (∀ s d b c w32 rx, exec (p.1 d b c w32 rx) s = s.atomic p.2.2 d b c w32 rx 0) ∧
      ∀ s d b c w32 rx i, exec (p.2.1 d b c w32 rx i) s = s.atomic p.2.2 d b c w32 rx (i.signExtend 64) := by
  simp only [atomics, List.mem_cons, List.not_mem_nil, or_false] at hp
  rcases hp with rfl | rfl | rfl | rfl | rfl | rfl | rfl | rfl | rfl | rfl <;> exact ⟨by decide, fun _ _ _ _ _ _ => rfl, fun _ _ _ _ _ _ _ => rfl⟩

/-- Settles O14: the instruction's one access passes its checks and is added to the outstanding ones. -/
theorem relaxedIssue : Obligations.relaxed_issue := by
  unfold Obligations.relaxed_issue
  refine ⟨fun p hm s d b i hp h ho => ?_, fun p hm s d b c i hp h ho => ?_, fun p hm s a b i hp h ho => ?_, fun p hm s a b c i hp h ho => ?_,
    fun p hm s d b c hp h ho => ?_⟩
  · obtain ⟨hn, -, hexec⟩ := exec_loadsW hm
    rw [hexec]
    exact State.load_relaxed hn hp h ho
  · obtain ⟨hn, -, hexec⟩ := exec_loadsX hm
    rw [hexec]
    exact State.load_relaxed hn hp h ho
  · obtain ⟨hn, hexec⟩ := exec_storesW hm
    rw [hexec]
    exact State.store_relaxed hn hp h ho
  · obtain ⟨hn, hexec⟩ := exec_storesX hm
    rw [hexec]
    exact State.store_relaxed hn hp h ho
  · obtain ⟨hf, hexec, -⟩ := exec_atomics hm
    rw [hexec]
    exact State.atomic_relaxed hf hp h ho

end Sys2Proof.Machine
end

section
/-!
PROOFS. Ordinary atomics of the own local store under table 0 (11 R187, R188, R189).
-/

namespace Sys2Proof.Machine

/-! ### What an atomic leaves in memory (R188) -/

/-- A word without poison has none to clear. -/
theorem State.filter_poison {s : State} {home : Nat} (h : s.poison.contains home = false) : s.poison.filter (· != home) = s.poison := by
  rw [List.filter_eq_self]
  rintro x hx
  simp only [bne_iff_ne, ne_eq]
  rintro rfl
  simp [hx] at h

/-- The home of a word is that of a word. -/
theorem wordOf_lsHome_wordOf (n off : Nat) : wordOf (lsHome n (wordOf off)) = lsHome n (wordOf off) := by unfold lsHome wordOf; omega

/-- A write of up to eight bytes of a word that nothing holds up changes those bytes and nothing else. -/
theorem State.putNew_stored {s : State} {va : Word} {n : Nat} (h : Clear s va n) (h0 : 0 < n) (h8 : n ≤ 8) (v : Nat) :
    s.putNew (lsHome s.cur.core (wordOf va.toNat)) (va.toNat % 8) n (2 ^ n - 1) (some v) = s.stored va n v := by
  have hin := h.inside
  have hcore := State.coreExists_lt h.core
  have hword : wordOf va.toNat ∈ wordsAt va.toNat n := by rw [wordsAt_small _ _ h0 h8]; exact List.mem_singleton.mpr rfl
  have hls : homeIsLs (lsHome s.cur.core va.toNat) = true := homeIsLs_lsHome _ _ (by omega) (by omega)
  have hwaiters : ∀ x ∈ s.waiters, x.home ≠ wordOf (lsHome s.cur.core (wordOf va.toNat)) := fun x hx => by
    rw [wordOf_lsHome_wordOf]
    exact (h.waiters x hx).2 _ hword
  rw [State.putNew, lsHome_word, State.writeBytes_ls _ _ _ _ _ hls]
  dsimp only
  rw [State.filter_poison (h.words _ hword).2, ite_self, State.stored, Memory.writeN_mod]
  exact State.wakeWord_none _ _ _ _ hwaiters

theorem State.me_stored (s : State) (va : Word) (n v : Nat) : (s.stored va n v).me = s.me := s.me_withMem _

/-- The machine once an operation has given bytes of the own local store their new value, if it gives one. -/
def State.renewed (s : State) (va : Word) (n : Nat) : Option Nat → State
  | some v => s.stored va n v
  | none => s

/-- An atomic that nothing holds up returns the old value, and its new one is there. -/
theorem State.ordinary_atom {s : State} {va : Word} {n : Nat} (o : AtomOp) (x y : Word) (h : Clear s va n) (ht : s.myCore.tableOf (va.toNat / 0x1000) = 0)
    (h0 : 0 < n) (h8 : n ≤ 8) : s.ordinary (accOp va n (.atom o x y)) = .ok (BitVec.ofNat 512 (s.bytesAt va.toNat n))
      (s.renewed va n (o.new (8 * n) (s.bytesAt va.toNat n) (x.toNat % 256 ^ n) (y.toNat % 256 ^ n))) := by
  have he : ∀ k, s.entry s.cur.core va.toNat k = 0 := fun k => State.entry_zero s _ _ _ ht
  have hstep : ∀ home b k be, s.wordStep (.atom o x y) home b k be 0 0 false =
      (Memory.readN s.mem (home + b) k, s.putNew home b k be (o.new (8 * k) (Memory.readN s.mem (home + b) k) (x.toNat % 256 ^ k) (y.toNat % 256 ^ k))) :=
    fun _ _ _ _ => rfl
  have hput : ∀ v, s.putNew (lsHome s.cur.core (wordOf va.toNat)) (va.toNat % 8) n (2 ^ n - 1) v = s.renewed va n v := fun v => by
    cases v with
    | none => rfl
    | some v => exact State.putNew_stored h h0 h8 v
  have hsmall := State.ordinary_small (a := accOp va n (.atom o x y)) h h0 h8 (.inr (.inl (by rw [show (accOp va n (.atom o x y)).va = va from rfl, he]; rfl)))
  rw [show (accOp va n (.atom o x y)).va = va from rfl, he] at hsmall
  rw [hsmall]
  show Res.ok (BitVec.ofNat 512 (s.wordStep (.atom o x y) _ _ n (2 ^ n - 1) 0 0 false).1) (s.wordStep (.atom o x y) _ _ n (2 ^ n - 1) 0 0 false).2 = _
  rw [hstep, lsHome_word, State.readN_own, hput]

/-- The new value is what the statement of the atomics says, where ACAS finds what it expects. -/
theorem AtomOp.new_eq {o : AtomOp} (ho : o ≠ .fadd) {w : Nat} (hw : 0 < w) (old b c : Nat) :
    o.new w old b c = if o = .cas ∧ old ≠ c then none else some (atomResult o w old b) := by
  obtain ⟨w, rfl⟩ := Nat.exists_eq_add_of_lt hw
  rw [Nat.zero_add]
  have hi : ∀ v, intOf (w + 1) true v = (BitVec.ofNat (w + 1) v).toInt := intOf_eq_toInt w
  cases o with
  | fadd => exact absurd rfl ho
  | cas => by_cases hold : old = c <;> simp [AtomOp.new, atomResult, hold]
  | min | max => simp [AtomOp.new, atomResult, hi]
  | add | and | or | xor | swp => simp [AtomOp.new, atomResult]
  | minu => exact congrArg some (Nat.min_def ..)
  | maxu => exact congrArg some (Nat.max_def ..)

/-! ### The instruction -/

/-- The scalar sources of an atomic: the destination is one of ACAS. -/
def atomSrcs (o : AtomOp) (d b c : SReg) : List SReg := if o = .cas then [b, c, d] else [b, c]

/-- The size of an atomic, from its width bit. -/
def atomSize (w32 : BitVec 1) : Nat := if w32 = 1 then 4 else 8

theorem atomSize_cases (w32 : BitVec 1) : atomSize w32 = 4 ∨ atomSize w32 = 8 := by
  unfold atomSize
  split
  · exact .inl rfl
  · exact .inr rfl

theorem atomSize_pos (w32 : BitVec 1) : 0 < atomSize w32 := by rcases atomSize_cases w32 with e | e <;> rw [e] <;> decide

/-- An ordinary atomic whose ports are usable and whose access nothing holds up, up to its result. -/
theorem State.atomic_plain {s : State} {o : AtomOp} {d b c : SReg} {w32 : BitVec 1} {off : Word} (hp : s.portsOpen (atomSrcs o d b c) [d] [] [] = true)
    (h : s.plain (s.rs b + off) (atomSize w32) = true) :
    let va := s.rs b + off
    let n := atomSize w32
    let old := s.bytesAt va.toNat n
    let cmp : Word := if o == .cas then s.rs d else 0
    let t := s.renewed va n (o.new (8 * n) old ((s.rs c).toNat % 256 ^ n) (cmp.toNat % 256 ^ n))
    let u := t.setS (atomSrcs o d b c) d (BitVec.ofNat 64 old)
    s.atomic o d b c w32 0 off = .next (if o == .fadd then
      u.faddDone u.cur t.cont.seq t.me.pc t.me.cr.intrap (faddFlags (.atom o (s.rs c) cmp) (BitVec.ofNat 512 old)) else u) := by
  intro va n old cmp t u
  obtain ⟨hclear, htable⟩ := (State.plain_iff ..).mp h
  have hsrcs : (if o == .cas then [b, c, d] else [b, c]) = atomSrcs o d b c := by simp only [atomSrcs, beq_iff_eq]
  have hsize : (if w32 == 1 then 4 else 8) = n := by simp only [n, atomSize, beq_iff_eq]
  have hn : n ∈ scalarSizes ∧ 0 < n ∧ n ≤ 8 := by rcases atomSize_cases w32 with e | e <;> simp only [n, e] <;> decide
  have hext : Machine.extend n false (BitVec.ofNat 512 old) = BitVec.ofNat 64 old := by
    rw [extend_bytes hn.1 (by simp) (s.bytesAt_lt_pow va.toNat n)]
    simp [old]
  have hacc := State.ordinary_atom o (s.rs c) cmp hclear htable hn.2.1 hn.2.2
  simp only [State.atomic, hsrcs, hsize, show ((0 : BitVec 1) == 1) = false from rfl, State.memPorts_open hp, Res.bind_ok, Bool.false_eq_true, if_false]
  rw [hacc, Res.bind_ok, Res.finish_ok, hext]
  rfl

/-- What is left once an atomic other than AFADD is over (R188). -/
theorem State.atomic_result {s : State} {o : AtomOp} (ho : o ≠ .fadd) {d b c : SReg} {w32 : BitVec 1} {off : Word}
    (hp : s.portsOpen (atomSrcs o d b c) [d] [] [] = true) (h : s.plain (s.rs b + off) (atomSize w32) = true) :
    let va := s.rs b + off
    let n := atomSize w32
    let old := s.bytesAt va.toNat n
    s.atomic o d b c w32 0 off = .next ((if o = .cas ∧ old ≠ (s.rs d).toNat % 256 ^ n then s
      else s.stored va n (atomResult o (8 * n) old ((s.rs c).toNat % 256 ^ n))).setS (atomSrcs o d b c) d (BitVec.ofNat 64 old)) := by
  intro va n old
  have hn : 0 < 8 * n := Nat.mul_pos (by decide) (atomSize_pos w32)
  have hcmp : o = .cas → (if o == .cas then s.rs d else 0) = s.rs d := fun e => if_pos (beq_iff_eq.mpr e)
  rw [State.atomic_plain hp h, if_neg (by simpa using ho), AtomOp.new_eq ho hn]
  by_cases hcas : o = .cas
  · rw [hcmp hcas]
    split <;> rfl
  · rw [if_neg fun e => hcas e.1, if_neg fun e => hcas e.1]
    rfl

/-! ### AFADD (R188, R189) -/

theorem State.cr_ws (s : State) (d : SReg) (v : Word) : (s.ws d v).me.cr = s.me.cr := by
  by_cases h7 : d = 7
  · rw [h7]
    exact (State.still_pushScalar s s.cur v).cr
  · rw [State.ws_eq _ _ _ h7, State.me_setMe]
    rfl

theorem State.cr_setS (s : State) (srcs : List SReg) (d : SReg) (v : Word) : (s.setS srcs d v).me.cr = s.me.cr := by
  rw [State.setS, State.retire, State.me_goto]
  exact (State.cr_ws ..).trans (State.still_pops s srcs).cr

/-- With no flag enabled, AFADD ORs those of its sum. -/
theorem State.faddDone_masked {s : State} (hfen : s.me.cr.fen = 0) (age : Nat) (pc : Word) (byHandler : Bool) (fl : Flags) :
    s.faddDone s.cur age pc byHandler fl = s.orFlags fl := by
  have hfl : (fl &&& (s.slot s.cur).cr.fen != 0) = false := by rw [show (s.slot s.cur).cr.fen = 0 from hfen]; simp
  simp only [State.faddDone, hfl, Bool.false_eq_true, if_false]
  rfl

/-- The flags of an AFADD whose old value its access has returned. -/
theorem faddFlags_old (b c : Word) {old : Nat} (hold : old < 2 ^ 32) :
    faddFlags (.atom .fadd b c) (BitVec.ofNat 512 old) = (fp32.addV .rne (fp32.decode old) (fp32.decode (b.toNat % 2 ^ 32))).fl := by
  have hmod : (BitVec.ofNat 512 old).toNat % 2 ^ 32 = old := by
    rw [BitVec.toNat_ofNat, Nat.mod_mod_of_dvd _ (Nat.pow_dvd_pow 2 (by decide)), Nat.mod_eq_of_lt hold]
  rw [faddFlags, hmod]

theorem AtomOp.new_fadd (w old b c : Nat) : AtomOp.fadd.new w old b c = some (fp32.addV .rne (fp32.decode old) (fp32.decode b)).bits := rfl

/-- The sum of an AFADD: the binary32 value at an address and the one of its register. -/
def State.fp32Sum (s : State) (va c : Word) : FR := fp32.addV .rne (fp32.decode (s.bytesAt va.toNat 4)) (fp32.decode (c.toNat % 2 ^ 32))

theorem State.atomic_fadd {s : State} {d b c : SReg} {off : Word} (hp : s.portsOpen [b, c] [d] [] [] = true) (h : s.plain (s.rs b + off) 4 = true)
    (hfen : s.me.cr.fen = 0) :
    s.atomic .fadd d b c 1 0 off = .next (((s.stored (s.rs b + off) 4 (s.fp32Sum (s.rs b + off) (s.rs c)).bits).setS [b, c] d
      (BitVec.ofNat 64 (s.bytesAt (s.rs b + off).toNat 4))).orFlags (s.fp32Sum (s.rs b + off) (s.rs c)).fl) := by
  have hpow : 256 ^ 4 = 2 ^ 32 := by norm_num
  have hold : s.bytesAt (s.rs b + off).toNat 4 < 2 ^ 32 := hpow ▸ s.bytesAt_lt_pow _ 4
  have hcr : ∀ v w, ((s.stored (s.rs b + off) 4 v).setS [b, c] d w).me.cr.fen = 0 := fun v w => by
    rw [State.cr_setS, State.me_stored]
    exact hfen
  rw [State.atomic_plain (o := .fadd) (w32 := 1) hp h, if_pos (beq_self_eq_true AtomOp.fadd), AtomOp.new_fadd, show atomSize 1 = 4 from rfl,
    show atomSrcs .fadd d b c = [b, c] from rfl, faddFlags_old _ _ hold, State.renewed, hpow, State.faddDone_masked (hcr _ _), State.fp32Sum]

/-- Settles O17: an atomic is one access whose operation is AtomOp.new, which says what R188 says (AtomOp.new_eq), and a result. -/
theorem atomicResults : Obligations.atomic_results := by
  unfold Obligations.atomic_results
  refine ⟨fun p hm s d b c w32 i n srcs hn hsrcs hp => ?_, fun s d b c i va hp h hfen => ⟨?_, ?_⟩⟩
  · obtain ⟨hf, hexec, hexecW⟩ := exec_atomics hm
    subst hn hsrcs
    refine ⟨fun h => ?_, fun h => ?_⟩
    · rw [← show s.rs b + 0 = s.rs b from BitVec.add_zero _] at h ⊢
      exact (hexec ..).trans (State.atomic_result hf hp h)
    · exact (hexecW ..).trans (State.atomic_result hf hp h)
  · rintro rfl
    rw [← show s.rs b + 0 = s.rs b from BitVec.add_zero _] at h ⊢
    exact State.atomic_fadd hp h hfen
  · rintro rfl
    exact State.atomic_fadd hp h hfen

end Sys2Proof.Machine
end

section
/-!
PROOFS. Tag accesses, table loading and switching, RMSET (10 R154, R155, R157, R169; 11 R191 to R193).
-/

namespace Sys2Proof.Machine

/-! ### Tags (R154, R191) -/

theorem extractLsb'_low3 (v : Word) : v.extractLsb' 0 3 = BitVec.ofNat 3 v.toNat := by
  refine BitVec.eq_of_toNat_eq ?_
  rw [BitVec.extractLsb'_toNat, BitVec.toNat_ofNat, Nat.shiftRight_zero]

theorem setWidth_tag (g : BitVec 3) : (BitVec.ofNat 512 g.toNat).setWidth 64 = BitVec.ofNat 64 g.toNat := by
  refine BitVec.eq_of_toNat_eq ?_
  rw [BitVec.toNat_setWidth, BitVec.toNat_ofNat, BitVec.toNat_ofNat, Nat.mod_mod_of_dvd _ (Nat.pow_dvd_pow 2 (by decide))]

/-- A tag operation that nothing holds up ends as its step at the word does. -/
theorem State.tagOp_step {s : State} {srcs dsts : List SReg} {b : SReg} {o : State → WordOp} (f : State → Line → State) {g : Nat} {t : State}
    (hp : s.portsOpen srcs dsts [] [] = true) (h : Clear s (s.rs b) 8) (hby : (o s).bypass = true)
    (hstep : ∀ i k be data e by_, s.wordStep (o s) (lsHome s.cur.core (s.rs b).toNat) i k be data e by_ = (g, t)) :
    s.tagOp srcs dsts b o f = .next (f t (BitVec.ofNat 512 g)) := by
  have hal := h.aligned
  have hword : wordOf (s.rs b).toNat = (s.rs b).toNat := by unfold wordOf; omega
  have hacc := State.ordinary_small (a := accOp (s.rs b) 8 (o s)) h (show 0 < 8 by decide) (show 8 ≤ 8 by decide) (.inl hby)
  rw [State.tagOp, State.memPorts_open hp, Res.bind_ok, hacc, Res.bind_ok, Res.finish_ok]
  show Host.Outcome.next (f (s.wordStep (o s) (lsHome s.cur.core (wordOf (s.rs b).toNat)) _ _ _ _ _ _).2
    (BitVec.ofNat 512 (s.wordStep (o s) (lsHome s.cur.core (wordOf (s.rs b).toNat)) _ _ _ _ _ _).1)) = _
  rw [hword, hstep]

/-- What setting the tag of a word does: the other tags, and the rest of the machine, as before. -/
theorem Clear.setTag {s : State} {va : Word} (h : Clear s va 8) (g : BitVec 3) : s.setTag (lsHome s.cur.core va.toNat) g =
      { s with tags := (s.setTag (lsHome s.cur.core va.toNat) g).tags } ∧
    ∀ a, (s.setTag (lsHome s.cur.core va.toNat) g).tag a = if wordOf a = lsHome s.cur.core va.toNat then g else s.tag a := by
  have hhome := h.wordOf_home
  have hwords : va.toNat ∈ wordsAt va.toNat 8 := by
    have hal := h.aligned
    rw [wordsAt_small _ _ (by decide) (by decide), List.mem_singleton, wordOf]
    omega
  refine ⟨?_, fun a => by rw [State.tag_setTag, hhome]⟩
  rw [State.setTag]
  split
  · rfl
  · have hwake := fun tags => State.wakeWord_none { s with tags := tags } (lsHome s.cur.core va.toNat) true false
      (fun x hx => by rw [hhome]; exact (h.waiters x hx).2 _ hwords)
    rw [hwake]

/-- The tag that a TCAS leaves is set, whatever it is. -/
theorem State.setTag_tag (s : State) (home : Nat) : s.setTag home (s.tag home) = s := if_pos (beq_self_eq_true _)

/-- A TCAS leaves the tag it is given where it finds the one it expects, and the tag as it was where not. -/
theorem State.wordStep_tcas (s : State) (x t : Word) (home i k be data : Nat) (e : BitVec 16) (by_ : Bool) :
    s.wordStep (.tcas (x.extractLsb' 0 3) (t.extractLsb' 0 3)) home i k be data e by_ =
      ((s.tag home).toNat, s.setTag home (if s.tag home = BitVec.ofNat 3 x.toNat then BitVec.ofNat 3 t.toNat else s.tag home)) := by
  simp only [State.wordStep, extractLsb'_low3, beq_iff_eq]
  split
  · rfl
  · rw [State.setTag_tag]

/-! ### Tables and region maps (R157, R169, R192, R193) -/

theorem Core.regionBlocks_none {c : Core} (h : ∀ k ∈ slotNums, (c.slot k).blanks = []) (regions : List Nat) : c.regionBlocks regions = [] := by
  rw [Core.regionBlocks, List.flatMap_eq_nil_iff]
  intro k hk
  rw [h k hk]
  rfl

theorem State.demand_regions {s : State} (hd : s.myCore.demands = []) (hb : ∀ k ∈ slotNums, (s.myCore.slot k).blanks = []) (ag : Agent) (regions : List Nat) :
    s.demand ag s.cur.core ((s.core s.cur.core).regionBlocks regions) = .ok () s := by
  have hnone : (s.core s.cur.core).regionBlocks regions = [] := Core.regionBlocks_none hb regions
  rw [hnone, State.demand_none s _ _ hd]

/-- A switch that no waiter waits for changes its core and nothing else. -/
theorem State.switch_none {s : State} (h : s.waiters = []) (n : Nat) (f : Core → Core) : s.switch n f = s.setCore n (f (s.core n)) := by
  have hkeep : s.todo.filter (fun e => !([] : List Event).contains e) = s.todo := List.filter_eq_self.mpr fun e _ => by simp
  simp only [State.switch, h, List.filter_nil, List.map_nil, List.nil_append]
  exact congrArg (fun l => { s.setCore n (f (s.core n)) with todo := l }) hkeep

/-- A TATSW that nothing holds up (R193). -/
theorem State.tatsw_free {s : State} {t : BitVec 2} (ht : t ≠ 0) (hd : s.myCore.demands = []) (hb : ∀ k ∈ slotNums, (s.myCore.slot k).blanks = [])
    (hw : s.waiters = []) (ho : s.follows [.shadows, .maps] = false) : execTatsw t s = .next (s.setCore s.cur.core { s.myCore with
      tables := s.myCore.tables.setIfInBounds (t.toNat - 1) (s.myCore.shadows[t.toNat - 1]?.getD (Vector.replicate 64 0)) }).retire := by
  simp only [execTatsw, beq_false_of_ne ht, ho, Bool.false_eq_true, if_false, State.demand_regions hd hb, Res.bind_ok, Res.finish_ok, State.switch_none hw]
  rfl

theorem execTatsw_zero (s : State) : execTatsw 0 s = .next (s.precise (trapOf 7 6 0)) := rfl

theorem State.rmset_free {s : State} {t : BitVec 2} {k : BitVec 6} (hk : s.holdsRegion k.toNat = true) (ho : s.follows [.maps] = false)
    (hd : s.myCore.demands = []) (hb : ∀ j ∈ slotNums, (s.myCore.slot j).blanks = []) (hw : s.waiters = []) :
    execRmset t k s = .next (s.setCore s.cur.core (s.myCore.setRegion k.toNat t.toNat)).retire := by
  simp only [execRmset, hk, ho, Bool.not_true, Bool.false_eq_true, if_false, State.demand_regions hd hb, Res.bind_ok, Res.finish_ok, State.switch_none hw]
  rfl

theorem testBit_three (m : Nat) : Nat.testBit 3 m = decide (m < 2) := Nat.testBit_two_pow_sub_one 2 m

/-- Going on at an instruction leaves the region maps. -/
theorem State.tableOf_goto (s : State) (pc : Word) (g : Nat) : (s.goto pc).myCore.tableOf g = s.myCore.tableOf g := by
  have hcore := fun x : Slot => State.core_setSlot s s.cur x
  exact (congrArg (Core.tableOf · g) (hcore _)).trans rfl

/-- A region map word with the field at 2 i replaced, bit by bit. -/
theorem getLsbD_replaced (w : Word) (i t : Nat) {n : Nat} (hn : n < 64) :
    ((w &&& ~~~((3 : Word) <<< (2 * i))) ||| (BitVec.ofNat 64 (t % 4) <<< (2 * i))).getLsbD n =
      if 2 * i ≤ n ∧ n < 2 * i + 2 then t.testBit (n - 2 * i) else w.getLsbD n := by
  have h3 : (3 : Word).getLsbD (n - 2 * i) = decide (n - 2 * i < 2) :=
    (BitVec.getLsbD_ofNat 64 3 _).trans (by rw [testBit_three, decide_eq_true (show n - 2 * i < 64 by omega), Bool.true_and])
  have ht : (t % 4).testBit (n - 2 * i) = (decide (n - 2 * i < 2) && t.testBit (n - 2 * i)) := Nat.testBit_mod_two_pow t 2 _
  simp only [BitVec.getLsbD_or, BitVec.getLsbD_and, BitVec.getLsbD_not, BitVec.getLsbD_shiftLeft, BitVec.getLsbD_ofNat, h3, ht, hn, decide_true,
    Bool.true_and, show n - 2 * i < 64 by omega]
  by_cases hlo : n < 2 * i
  · simp [hlo, show ¬ 2 * i ≤ n by omega]
  · by_cases hhi : n - 2 * i < 2
    · simp [hlo, hhi, show 2 * i ≤ n ∧ n < 2 * i + 2 by omega]
    · simp [hlo, hhi, show ¬ n < 2 * i + 2 by omega]

/-- Its fields. -/
theorem field_replaced (w : Word) {i j t : Nat} (hj : j < 32) (ht : t < 4) :
    (((w &&& ~~~((3 : Word) <<< (2 * i))) ||| (BitVec.ofNat 64 (t % 4) <<< (2 * i))).extractLsb' (2 * j) 2).toNat =
      if j = i then t else (w.extractLsb' (2 * j) 2).toNat := by
  split
  next e =>
    subst e
    refine (congrArg BitVec.toNat (BitVec.eq_of_getLsbD_eq (y := BitVec.ofNat 2 t) fun b hb => ?_)).trans (Nat.mod_eq_of_lt ht)
    rw [BitVec.getLsbD_extractLsb', getLsbD_replaced w j t (by omega), if_pos (by omega), BitVec.getLsbD_ofNat, Nat.add_sub_cancel_left]
  next hne =>
    refine congrArg BitVec.toNat (BitVec.eq_of_getLsbD_eq fun b hb => ?_)
    rw [BitVec.getLsbD_extractLsb', BitVec.getLsbD_extractLsb', getLsbD_replaced w i t (by omega), if_neg (by omega)]

theorem Core.tableOf_setRegion (c : Core) {k t g : Nat} (hk : k < 64) (ht : t < 4) (hg : g < 64) :
    (c.setRegion k t).tableOf g = if g = k then t else c.tableOf g := by
  have hfield : ∀ w : Word, _ := fun w => field_replaced w (i := k % 32) (j := g % 32) (t := t) (by omega) ht
  simp only [Core.setRegion, Core.tableOf]
  split <;> split <;> simp only [hfield]
  · simp only [show g % 32 = k % 32 ↔ g = k by omega]
  · rw [if_neg (by omega)]
  · rw [if_neg (by omega)]
  · simp only [show g % 32 = k % 32 ↔ g = k by omega]

/-! ### Loading a table (R157, R192) -/

/-- A table image of the own local store that nothing holds up. -/
structure ImageClear (s : State) (a : Word) : Prop where
  aligned : a.toNat % 8 = 0
  inside : a.toNat + 128 ≤ 0x40000
  alloc : ∀ k, k < 16 → s.allocated s.cur.core (a.toNat + 8 * k) s.myCtx = true
  demands : s.myCore.demands = []
  blanks : ∀ k ∈ slotNums, (s.myCore.slot k).blanks = []
  wp : ∀ w ∈ s.myCore.dbg.wpctl.toList, w = 0
  waiters : s.waiters = []
  copies : s.myCore.copies = []
  apart : s.me.overlaps (lsHome s.cur.core a.toNat) 128 = false
  words : ∀ k, k < 16 → lsHome s.cur.core (a.toNat + 8 * k) ∉ s.badTags ∧ lsHome s.cur.core (a.toNat + 8 * k) ∉ s.poison

/-- Entry k of the image at an address. -/
def State.imageEntry (s : State) (a : Word) (k : Nat) : BitVec 16 := BitVec.ofNat 16 (s.bytesAt (a.toNat + 2 * k) 2)

theorem mem_imageWords {off o : Nat} : o ∈ (List.range 16).map (fun k => off + 8 * k) ↔ ∃ k, k < 16 ∧ off + 8 * k = o := by
  simp only [List.mem_map, List.mem_range]

section
variable {s : State} {a : Word} (h : ImageClear s a)
include h

theorem State.imageCheck_clear {t : BitVec 2} (ht : t ≠ 0) : s.imageCheck t a = .ok a.toNat s := by
  have hin := h.inside
  have hplace : s.place s.cur.core a = .ls s.cur.core a.toNat false := if_pos (by omega)
  have hcheck : ((List.range 16).map (fun k => a.toNat + 8 * k)).findSome?
      (fun o => s.lsCheck (some s.cur.core) s.myCtx s.myAper (a + BitVec.ofNat 64 (o - a.toNat)) s.cur.core o false) = none := by
    rw [List.findSome?_eq_none_iff]
    intro o ho
    obtain ⟨k, hk, rfl⟩ := mem_imageWords.mp ho
    simp only [State.lsCheck, State.portRefuses, h.alloc k hk, bne_self_eq_false, Bool.false_and, Bool.not_true, Bool.false_eq_true, if_false]
  have hfits : ¬ (s.cur.core ≠ s.cur.core ∨ 0x40000 < a.toNat + 128) := by omega
  simp only [State.imageCheck, if_neg (not_not_intro h.aligned), hplace, if_neg hfits, hcheck, beq_false_of_ne ht, Bool.false_eq_true, if_false]

theorem State.imageRead_clear : s.imageRead a a.toNat = .ok ((List.range 64).map (s.imageEntry a)) s := by
  have hforced : (s.core s.cur.core).forced a.toNat (a.toNat + 128) false none = [] := Core.forcedBy_none _ h.blanks _ _ _
  have hunhold : s.unhold s.myAgent = s := State.unhold_none s _ (by simp [h.waiters])
  have hbad : ((List.range 16).map (fun k => a.toNat + 8 * k)).find? (fun o => s.badTags.contains (lsHome s.cur.core o)) = none := by
    rw [List.find?_eq_none]
    intro o ho
    obtain ⟨k, hk, rfl⟩ := mem_imageWords.mp ho
    simpa using (h.words k hk).1
  have hpoison : ((List.range 16).map (fun k => a.toNat + 8 * k)).find? (fun o => s.poison.contains (lsHome s.cur.core o)) = none := by
    rw [List.find?_eq_none]
    intro o ho
    obtain ⟨k, hk, rfl⟩ := mem_imageWords.mp ho
    simpa using (h.words k hk).2
  have hentry : ∀ k, BitVec.ofNat 16 (Memory.readN s.mem (lsHome s.cur.core a.toNat + 2 * k) 2) = s.imageEntry a k := fun k => by
    rw [State.imageEntry, ← State.readN_own, show lsHome s.cur.core (a.toNat + 2 * k) = lsHome s.cur.core a.toNat + 2 * k by unfold lsHome; omega]
  simp only [State.imageRead, h.apart, Bool.false_eq_true, if_false, State.tokenHeld_none s _ _ _ h.copies, hunhold, State.comparators, hforced,
    State.demand_none s _ _ h.demands, Res.bind_ok, hbad, hpoison, hentry]

theorem State.watchWords_none (os : List Nat) : s.watchWords s.cur.core a os = (s, none) := by
  induction os with
  | nil => rfl
  | cons o os ih =>
    have hwatch := State.watch_none s s.cur.core 1 0 [(o, o + 8)] s.myAgent (a + BitVec.ofNat 64 (o - a.toNat % 0x40000)) h.wp (by decide)
    simp only [State.watchWords, hwatch, ih]

end

theorem State.imageEntry_at (s : State) (a : Word) {k : Nat} (hk : k < 64) :
    ((List.range 64).map (s.imageEntry a))[k]? = some (s.imageEntry a k) := by
  rw [List.getElem?_map, List.getElem?_range hk]
  rfl

/-- The image of a table, when no entry of it is bad, becomes the shadow. -/
theorem State.tatld_good {s : State} {b : SReg} {t : BitVec 2} (h : ImageClear s (s.rs b)) (hp : s.portsOpen [b] [] [] [] = true) (ht : t ≠ 0)
    (ho : s.follows [.shadows] = false) (hgood : ∀ k, k < 64 → entryBad (s.imageEntry (s.rs b) k) = false) :
    execTatld t b s = .next ((s.setCore s.cur.core { s.myCore with
      shadows := s.myCore.shadows.setIfInBounds (t.toNat - 1) (Vector.ofFn (fun (k : Fin 64) => s.imageEntry (s.rs b) k.val)) }).doneS [b]) := by
  have hfind : (List.range 64).find? (fun k => (((List.range 64).map (s.imageEntry (s.rs b)))[k]?.map entryBad).getD false) = none := by
    rw [List.find?_eq_none]
    intro k hk
    have hk := List.mem_range.mp hk
    simp [State.imageEntry_at s _ hk, hgood k hk]
  have hentries : (Vector.ofFn fun (k : Fin 64) => ((List.range 64).map (s.imageEntry (s.rs b)))[k.val]?.getD 0) =
      Vector.ofFn fun (k : Fin 64) => s.imageEntry (s.rs b) k.val := congrArg Vector.ofFn (funext fun k => by rw [State.imageEntry_at s _ k.isLt]; rfl)
  simp only [execTatld, State.portsAfter_open hp, Res.bind_ok, ho, Bool.false_eq_true, if_false, State.imageCheck_clear h ht, State.imageRead_clear h, hfind,
    State.watchWords_none h, hentries, Res.finish_ok]
  rfl

/-- The first bad entry is what the trap names. -/
theorem State.tatld_bad {s : State} {b : SReg} {t : BitVec 2} (h : ImageClear s (s.rs b)) (hp : s.portsOpen [b] [] [] [] = true) (ht : t ≠ 0)
    (ho : s.follows [.shadows] = false) {k : Nat} (hk : k < 64) (hbad : entryBad (s.imageEntry (s.rs b) k) = true)
    (hfirst : ∀ j, j < k → entryBad (s.imageEntry (s.rs b) j) = false) : execTatld t b s = .next (s.precise (trapOf 2 1 (BitVec.ofNat 64 k))) := by
  have hfind : (List.range 64).find? (fun k => (((List.range 64).map (s.imageEntry (s.rs b)))[k]?.map entryBad).getD false) = some k := by
    rw [List.find?_range_eq_some]
    refine ⟨by simp [State.imageEntry_at s _ hk, hbad], List.mem_range.mpr hk, fun j hj => ?_⟩
    simp [State.imageEntry_at s _ (hj.trans hk), hfirst j hj]
  simp only [execTatld, State.portsAfter_open hp, Res.bind_ok, ho, Bool.false_eq_true, if_false, State.imageCheck_clear h ht, State.imageRead_clear h, hfind,
    Res.finish_trap]

/-- Settles O19: a tag operation is one step at its word (State.tagOp_step), and the table instructions meet nothing that holds them up. -/
theorem tagAndTableResults : Obligations.tag_and_table_results := by
  unfold Obligations.tag_and_table_results
  refine ⟨fun s d b c k h => ?_, ⟨fun s t b hp ht hal hin halloc hd hb hwp _ ho hw hcp hov hwords => ?_, fun s t ht hd hb hw ho => State.tatsw_free ht hd hb hw ho,
    fun s t k hk ho hd hb hw => ?_, execTatsw_zero⟩⟩
  · rw [State.clear_iff] at h
    intro home set
    have hsets : ∀ g, set g (s.setTag home g) := fun g => h.setTag g
    refine ⟨fun hp => ?_, fun hp => ⟨_, hsets _, ?_⟩, fun hp => ⟨_, hsets _, ?_⟩, fun hp => ⟨_, hsets _, ?_⟩⟩
    · refine (State.tagOp_step (g := (s.tag home).toNat) (t := s) _ hp h rfl fun _ _ _ _ _ _ => rfl).trans ?_
      rw [setWidth_tag]
    · refine State.tagOp_step (o := fun s1 => .tset ((s1.rs c).extractLsb' 0 3)) (g := 0) _ hp h rfl fun _ _ _ _ _ _ => ?_
      rw [extractLsb'_low3]
      rfl
    · exact State.tagOp_step (o := fun _ => .tset k) (g := 0) _ hp h rfl fun _ _ _ _ _ _ => rfl
    · refine (State.tagOp_step _ hp h rfl (State.wordStep_tcas s (s.rs d) (s.rs c) home)).trans ?_
      rw [setWidth_tag]
  · have himage : ImageClear s (s.rs b) := ⟨hal, hin, halloc, hd, hb, hwp, hw, hcp, hov, hwords⟩
    exact ⟨fun hgood => State.tatld_good himage hp ht ho hgood, fun k hk hbad hfirst => State.tatld_bad himage hp ht ho hk hbad hfirst⟩
  · refine ⟨_, State.rmset_free hk ho hd hb hw, ?_, rfl, rfl, fun g hg => ?_⟩
    · rw [State.retire, State.me_goto]
      rfl
    · have hcore : (s.setCore s.cur.core (s.myCore.setRegion k.toNat t.toNat)).retire.myCore.tableOf g =
          ((s.setCore s.cur.core (s.myCore.setRegion k.toNat t.toNat)).core s.cur.core).tableOf g := State.tableOf_goto ..
      rw [hcore, State.core_setCore_same, Core.tableOf_setRegion _ k.isLt t.isLt hg]

end Sys2Proof.Machine
end

section
/-!
PROOFS. One access of an instruction of several, of the own local store, that nothing holds up (10 R161; 11 R178, R186).
-/

namespace Sys2Proof.Machine

/-- The conditions of Clear, of an instruction that may have made other accesses before: neither redirected nor past the end of a wait. -/
structure Free (s : State) (va : Word) (n : Nat) : Prop where
  aligned : va.toNat % n = 0
  inside : va.toNat + n ≤ 0x40000
  core : s.coreExists s.cur.core = true
  ctx : s.myCore.ctx.isSome = true
  alloc : (SMap.find s.myCore.alloc (va.toNat / 0x1000)).isSome = true
  awake : s.myCore.gated = false
  copies : s.myCore.copies = []
  demands : s.myCore.demands = []
  blanks : ∀ k ∈ slotNums, (s.myCore.slot k).blanks = []
  wp : ∀ w ∈ s.myCore.dbg.wpctl.toList, w = 0
  words : ∀ w ∈ wordsAt va.toNat n, s.badTags.contains (lsHome s.cur.core w) = false ∧ s.poison.contains (lsHome s.cur.core w) = false
  waiters : ∀ w ∈ s.waiters, w.agent ≠ .thread s.cur ∧ ∀ o ∈ wordsAt va.toNat n, w.home ≠ lsHome s.cur.core o
  direct : s.cont.redirect = none
  calm : s.cont.dog = false
  first : s.cont.second = false
  apart : s.me.overlaps (lsHome s.cur.core va.toNat) n = false
  unbuffered : s.buffered s.cur.core (some s.cur) (lsHome s.cur.core va.toNat) (lsHome s.cur.core va.toNat + n) = []
  identity : s.myCore.tableOf (va.toNat / 0x1000) = 0

theorem State.free_of_plain {s : State} {va : Word} {n : Nat} (h : s.plain va n = true) : Free s va n := by
  obtain ⟨h, ht⟩ := (State.plain_iff ..).mp h
  obtain ⟨hr, hd, h2, -⟩ := State.cont_none h.fresh
  exact ⟨h.aligned, h.inside, h.core, h.ctx, h.alloc, h.awake, h.copies, h.demands, h.blanks, h.wp, h.words, h.waiters, hr, hd, h2, h.apart, h.unbuffered, ht⟩

/-- What memory holds does not matter. -/
theorem Free.withMem {s : State} {va : Word} {n : Nat} (h : Free s va n) (m : List Host.Cell) : Free (s.withMem m) va n :=
  ⟨h.aligned, h.inside, h.core, h.ctx, h.alloc, h.awake, h.copies, h.demands, h.blanks, h.wp, h.words, h.waiters, h.direct, h.calm, h.first, h.apart,
    h.unbuffered, h.identity⟩

/-- The place of its address. -/
theorem Free.place {s : State} {va : Word} {n : Nat} (h : Free s va n) (h0 : 0 < n) : s.place s.cur.core va = .ls s.cur.core va.toNat false := by
  have hin := h.inside
  exact if_pos (by omega)

/-- Its region is one of the context. -/
theorem Free.lsCheck {s : State} {va : Word} {n : Nat} (h : Free s va n) :
    s.lsCheck (some s.cur.core) s.myCtx s.myAper va s.cur.core va.toNat false = none := by
  obtain ⟨c, hc⟩ := Option.isSome_iff_exists.mp h.ctx
  have hc : (s.core s.cur.core).ctx = some c := hc
  have hctx : (s.core s.cur.core).ctx = some s.myCtx := by rw [State.myCtx, State.ctxOf, hc, Option.getD_some]
  have hal : s.allocated s.cur.core va.toNat s.myCtx = true := by
    simp only [State.allocated, hctx, beq_self_eq_true, Bool.true_and]
    exact h.alloc
  simp only [State.lsCheck, State.portRefuses, hal, Bool.not_true, Bool.false_eq_true, if_false, Bool.false_and, bne_self_eq_false]

/-! ### Progress of the instruction -/

/-- Progress of an instruction that is neither redirected nor past the end of a wait. -/
def Cont.idle (c : Cont) : Prop := c.redirect = none ∧ c.dog = false ∧ c.second = false

theorem State.myCore_setCont (s : State) (c : Cont) : (s.setCont c).myCore = s.myCore.setSlot s.cur.slot { s.me with cont := some c } := State.core_setSlot ..

theorem State.slot_setCont_blanks (s : State) (c : Cont) (k : BitVec 3) : ((s.setCont c).myCore.slot k).blanks = (s.myCore.slot k).blanks := by
  rw [State.myCore_setCont]
  by_cases hk : k = s.cur.slot
  · rw [hk, Core.slot_setSlot_same]
    rfl
  · rw [Core.slot_setSlot_other _ _ hk]

/-- The stores that are on their way are those of other threads. -/
theorem State.buffered_setCont {s : State} (hctx : s.myCore.ctx.isSome = true) (c : Cont) {n lo hi : Nat} (h : s.buffered n (some s.cur) lo hi = []) :
    (s.setCont c).buffered n (some s.cur) lo hi = [] := by
  simp only [State.buffered, List.flatMap_eq_nil_iff] at h ⊢
  intro p hp k hk
  rcases SMap.mem_put hp with rfl | hp
  · have hold := h _ (State.mem_cores hctx) k hk
    by_cases hme : (some s.cur == some (⟨s.cur.core, k⟩ : Tid)) = true
    · rw [if_pos hme]
    · have hslot : k ≠ s.cur.slot := by
        rintro rfl
        exact hme (beq_self_eq_true _)
      rw [if_neg hme] at hold ⊢
      rw [Core.slot_setSlot_other _ _ hslot]
      exact hold
  · exact h p hp k hk

theorem Free.setCont {s : State} {va : Word} {n : Nat} (h : Free s va n) {c : Cont} (hc : c.idle) : Free (s.setCont c) va n := by
  have hcore := State.myCore_setCont s c
  obtain ⟨hr, hd, h2⟩ := hc
  refine ⟨h.aligned, h.inside, h.core, by rw [hcore]; exact h.ctx, by rw [hcore]; exact h.alloc, by rw [hcore]; exact h.awake, by rw [hcore]; exact h.copies,
    by rw [hcore]; exact h.demands, fun k hk => by rw [State.slot_setCont_blanks]; exact h.blanks k hk, by rw [hcore]; exact h.wp, h.words, h.waiters,
    by rw [State.cont_setCont]; exact hr, by rw [State.cont_setCont]; exact hd, by rw [State.cont_setCont]; exact h2, ?_,
    State.buffered_setCont h.ctx c h.unbuffered, by rw [hcore]; exact h.identity⟩
  rw [State.setCont, State.me_setMe]
  exact h.apart

/-! ### The access -/

/-- The sizes of accesses: up to a word, or a whole vector. -/
def Acc.fits (a : Acc) : Prop := (0 < a.size ∧ a.size ≤ 8) ∨ a.size = 64

section
variable {s : State} {a : Acc} (h : Free s a.va a.size) (hs : a.fits)
include h hs

theorem Free.precheck (k : BitVec 3) : s.precheck s.myAgent s.cur.core s.myCtx s.myAper a k = .ok (lsHome s.cur.core a.va.toNat) s := by
  have h0 : 0 < a.size := by rcases hs with hs | hs <;> omega
  simp only [State.precheck, h.aligned, ne_eq, not_true_eq_false, if_false, h.place h0, h.lsCheck]

/-- The words that it touches are those of its bytes. -/
theorem Free.mem_words {o : Nat} (ho : o ∈ a.words a.va.toNat) : o ∈ wordsAt a.va.toNat a.size := by
  rcases hs with ⟨h0, h8⟩ | h64
  · rwa [Acc.words, if_pos h8, ← wordsAt_small _ _ h0 h8] at ho
  · have hal := h.aligned
    rw [Acc.words, if_neg (by omega)] at ho
    obtain ⟨k, hk, ho⟩ := List.mem_filterMap.mp ho
    split at ho
    · obtain rfl := Option.some.inj ho
      rw [h64] at hk hal ⊢
      exact List.mem_map.mpr ⟨k, hk, by omega⟩
    · cases ho

/-- They lie in the region of its address, whose table is the identity. -/
theorem Free.entry {o : Nat} (ho : o ∈ wordsAt a.va.toNat a.size) (k : Nat) : s.entry s.cur.core o k = 0 := by
  have hal := h.aligned
  obtain ⟨i, hi, rfl⟩ := List.mem_map.mp ho
  have hi := List.mem_range.mp hi
  refine State.entry_zero s _ _ _ ?_
  rw [show (a.va.toNat / 8 * 8 + 8 * i) / 0x1000 = a.va.toNat / 0x1000 by
    rcases hs with hs | hs
    · omega
    · rw [hs] at hal hi
      omega]
  exact h.identity

/-- Nothing stops it before its bank operation. -/
theorem Free.lsHold : s.lsHold s.myAgent s.cur.core (lsHome s.cur.core a.va.toNat) a false = .ok () s := by
  have hlt : a.va.toNat < 0x40000 := by have := h.inside; rcases hs with hs | hs <;> omega
  have hbark : s.barked s.myAgent s.cur.core (a.words a.va.toNat) = none := by
    simp only [State.barked, h.calm, Bool.not_false, Bool.or_true, if_true]
  have htoken := State.tokenHeld_none s s.myAgent s.cur.core (a.words a.va.toNat) h.copies
  have hunhold : s.unhold s.myAgent = s := State.unhold_none s _ (fun w hw => (h.waiters w hw).1)
  have hforced := Core.forcedBy_none (s.core s.cur.core) h.blanks
  simp only [State.lsHold, homeCore_lsHome _ _ hlt, homeOff_lsHome _ _ hlt, hbark, show (s.core s.cur.core).gated = false from h.awake, Bool.false_eq_true,
    if_false, beq_self_eq_true, if_true, htoken, hunhold, hforced, State.demand_none s _ _ h.demands]

theorem Free.bank (k : Nat) : s.bank s.myAgent s.cur.core s.cur.core a.va.toNat k a false =
    .ok (BitVec.ofNat 512 (s.enact s.myAgent s.cur.core a.va.toNat k a).1) (s.enact s.myAgent s.cur.core a.va.toNat k a).2 := by
  have hgo : s.decide_ s.cur.core k (decide (8 < a.size)) a.op.bypass (a.words a.va.toNat) = .go :=
    State.decide_go s _ _ _ _ _ (fun o ho => (h.words o (h.mem_words hs ho)).1) (.inr fun o ho => .inl (by rw [h.entry hs (h.mem_words hs ho)]; rfl))
  have hsound : (a.words a.va.toNat).filter (fun o => s.poison.contains (lsHome s.cur.core o) &&
      !(entAct (s.entry s.cur.core o k) == 4 && !a.op.bypass) && a.needsData (o - a.va.toNat)) = [] := by
    rw [List.filter_eq_nil_iff]
    intro o ho
    simp [(h.words o (h.mem_words hs ho)).2, -List.contains_eq_mem]
  have hwatch := State.watch_none s s.cur.core 1 k (a.runs a.va.toNat) s.myAgent a.va h.wp (by decide)
  have hjudge : s.judge s.myAgent s.cur.core s.cur.core a.va.toNat k a false = .ok () s := by rw [State.judge, hgo]
  have hlet : s.letIn s.myAgent s.cur.core a.va.toNat k a = .ok () s := by rw [State.letIn, hsound, hwatch]; rfl
  rw [State.bank, hjudge, Res.bind_ok, hlet, Res.bind_ok]

/-- It comes to its bank operation, which does it. -/
theorem Free.ordinary : s.ordinary a = .ok (BitVec.ofNat 512 (s.enact s.myAgent s.cur.core a.va.toNat (kindOf a.op false false) a).1)
    (s.enact s.myAgent s.cur.core a.va.toNat (kindOf a.op false false) a).2 := by
  have hlt : a.va.toNat < 0x40000 := by have := h.inside; rcases hs with hs | hs <;> omega
  have hdirect : s.cont.redirected a = a := by rw [Cont.redirected, h.direct]
  have hls : homeIsLs (lsHome s.cur.core a.va.toNat) = true := homeIsLs_lsHome _ _ (by have := State.coreExists_lt h.core; omega) hlt
  rw [State.ordinary, hdirect, h.precheck hs, Res.bind_ok, if_neg (by rw [h.apart]; exact Bool.false_ne_true),
    if_neg (by rw [State.routeBusy_none h.unbuffered]; exact Bool.false_ne_true), State.perform, if_pos hls, State.lsPerform, h.lsHold hs, Res.bind_ok,
    homeCore_lsHome _ _ hlt, homeOff_lsHome _ _ hlt, bne_self_eq_false, Bool.false_and, if_neg Bool.false_ne_true, h.first, h.bank hs]
  exact congrArg (Res.ok · _) (State.lsForward_none _ h.unbuffered)

end

/-! ### Reads and writes of up to eight bytes -/

theorem Free.leave {s : State} {va : Word} {n : Nat} (h : Free s va n) : s.leave s.myAgent = s := State.leave_none s _ fun w hw => (h.waiters w hw).1

/-- A scalar in the data of a write. -/
theorem toNat_scalar_data (d : Word) : (BitVec.ofNat 512 ((0 : BitVec 448) ++ d).toNat).toNat = d.toNat := by
  rw [BitVec.ofNat_toNat, BitVec.toNat_setWidth, BitVec.toNat_append, show (0 : BitVec 448).toNat = 0 from rfl, Nat.zero_shiftLeft, Nat.zero_or]
  exact Nat.mod_eq_of_lt (Nat.lt_of_lt_of_le d.isLt (Nat.pow_le_pow_right (by decide) (by decide)))

section
variable {s : State} {va : Word} {n : Nat} (h : Free s va n) (h0 : 0 < n) (h8 : n ≤ 8)
include h h0 h8

theorem Free.read : s.ordinary (accRead va n) = .ok (BitVec.ofNat 512 (s.bytesAt va.toNat n)) s := by
  have hentry : s.entry s.cur.core va.toNat 0 = 0 := State.entry_zero s _ _ _ h.identity
  have henact : s.enact s.myAgent s.cur.core va.toNat 0 (accRead va n) = (s.bytesAt va.toNat n, s) := by
    rw [State.enact, Free.leave h, if_neg (show ¬ 8 < (accRead va n).size by rw [show (accRead va n).size = n from rfl]; omega), hentry]
    show (Memory.readN s.mem (lsHome s.cur.core (wordOf va.toNat) + va.toNat % 8) n, s) = _
    rw [lsHome_word, State.readN_own]
  refine (Free.ordinary (a := accRead va n) h (.inl ⟨h0, h8⟩)).trans ?_
  rw [show kindOf (accRead va n).op false false = 0 from rfl, show (accRead va n).va = va from rfl, henact]

theorem Free.write (d : Word) : ∃ v, s.ordinary (accWrite va n d) = .ok v (s.stored va n d.toNat) := by
  have hin := h.inside
  have hcore := State.coreExists_lt h.core
  have hentry : s.entry s.cur.core va.toNat 1 = 0 := State.entry_zero s _ _ _ h.identity
  have hword : wordOf va.toNat ∈ wordsAt va.toNat n := by rw [wordsAt_small _ _ h0 h8]; exact List.mem_singleton.mpr rfl
  have hls : homeIsLs (lsHome s.cur.core (wordOf va.toNat) + va.toNat % 8) = true := by
    rw [lsHome_word]
    exact homeIsLs_lsHome _ _ (by omega) (by omega)
  have hwaiters : ∀ x ∈ s.waiters, x.home ≠ wordOf (lsHome s.cur.core (wordOf va.toNat)) := fun x hx => by
    rw [wordOf_lsHome_wordOf]
    exact (h.waiters x hx).2 _ hword
  have henact : (s.enact s.myAgent s.cur.core va.toNat 1 (accWrite va n d)).2 = s.stored va n d.toNat := by
    rw [State.enact, Free.leave h, if_neg (show ¬ 8 < (accWrite va n d).size by rw [show (accWrite va n d).size = n from rfl]; omega), hentry]
    refine (State.wordStep_write ((0 : BitVec 448) ++ d) ((0 : BitVec 448) ++ d).toNat hls (h.words _ hword).2 hwaiters).trans ?_
    rw [lsHome_word, toNat_scalar_data, show (accWrite va n d).size = n from rfl, State.stored]
  exact ⟨_, (Free.ordinary (a := accWrite va n d) h (.inl ⟨h0, h8⟩)).trans (congrArg (Res.ok _) henact)⟩

end

end Sys2Proof.Machine
end

section
/-!
PROOFS. The elements of a vector register and the masks that choose among them (07 R106; 11 R182, R183).
-/

namespace Sys2Proof.Machine

/-! ### Elements -/

theorem elem_eq_elemOf (w : Nat) (v : Line) (e : Nat) : elem w v e = elemOf w v e := by
  rw [elem, elemOf, BitVec.extractLsb'_toNat, Nat.shiftRight_eq_div_pow]

/-- The two readings of an element width field agree. -/
theorem widthOf_eq : ∀ ew : BitVec 2, widthOf ew = ewBits ew := by decide

/-- The widths of elements. -/
def elemWidths : List Nat := [8, 16, 32, 64]

theorem ewBits_mem : ∀ ew : BitVec 2, ewBits ew ∈ elemWidths := by decide

theorem gatherBits_mem : ∀ x64 : BitVec 1, gatherBits x64 ∈ elemWidths := by decide

/-- A width of elements is 8 bits for each byte of its size, and the elements fill a line. -/
theorem elemWidths_size : ∀ w ∈ elemWidths, 0 < w / 8 ∧ w / 8 ≤ 8 ∧ 8 * (w / 8) = w ∧ w * (512 / w) = 512 := by decide

theorem elemOf_lt (w : Nat) (v : Line) (e : Nat) : elemOf w v e < 2 ^ w := Nat.mod_lt _ (Nat.two_pow_pos w)

/-- A number put below one that is shifted up. -/
theorem toNat_shiftLeft_or {n w r : Nat} (v : BitVec n) (hr : r < 2 ^ w) (h : v.toNat * 2 ^ w + r < 2 ^ n) :
    ((v <<< w) ||| BitVec.ofNat n r).toNat = v.toNat * 2 ^ w + r := by
  rw [BitVec.toNat_or, BitVec.toNat_shiftLeft, BitVec.toNat_ofNat, Nat.mod_eq_of_lt (Nat.lt_of_le_of_lt (Nat.le_add_left ..) h), Nat.shiftLeft_eq,
    Nat.mod_eq_of_lt (Nat.lt_of_le_of_lt (Nat.le_add_right ..) h), ← Nat.shiftLeft_eq, ← Nat.shiftLeft_add_eq_or_of_lt hr, Nat.shiftLeft_eq]

/-- Digits below and above. -/
theorem mul_pow_add_lt {w k p r : Nat} (hp : p < 2 ^ (w * k)) (hr : r < 2 ^ w) : p * 2 ^ w + r < 2 ^ (w * (k + 1)) := by
  rw [Nat.mul_succ, Nat.pow_add]
  calc p * 2 ^ w + r < (p + 1) * 2 ^ w := by rw [Nat.succ_mul]; omega
    _ ≤ 2 ^ (w * k) * 2 ^ w := Nat.mul_le_mul_right _ hp

theorem toNat_packElems_cons {w : Nat} (x : Nat) {xs : List Nat} (h : w * (xs.length + 1) ≤ 512)
    (hlt : (packElems w xs).toNat < 2 ^ (w * xs.length)) : (packElems w (x :: xs)).toNat = (packElems w xs).toNat * 2 ^ w + x % 2 ^ w := by
  have hx : x % 2 ^ w < 2 ^ w := Nat.mod_lt _ (Nat.two_pow_pos w)
  exact toNat_shiftLeft_or (packElems w xs) hx (Nat.lt_of_lt_of_le (mul_pow_add_lt hlt hx) (Nat.pow_le_pow_right (by decide) h))

theorem packElems_lt {w : Nat} {es : List Nat} (h : w * es.length ≤ 512) : (packElems w es).toNat < 2 ^ (w * es.length) := by
  induction es with
  | nil => simp [packElems]
  | cons x xs ih =>
    have hxs := ih (Nat.le_trans (Nat.mul_le_mul_left w (Nat.le_succ _)) h)
    rw [toNat_packElems_cons x h hxs]
    exact mul_pow_add_lt hxs (Nat.mod_lt _ (Nat.two_pow_pos w))

/-- Each element of a register put together is the one that was put there. -/
theorem elemOf_packElems {w : Nat} {es : List Nat} (h : w * es.length ≤ 512) {e : Nat} (he : e < es.length) :
    elemOf w (packElems w es) e = es[e] % 2 ^ w := by
  induction es generalizing e with
  | nil => exact absurd he (Nat.not_lt_zero _)
  | cons x xs ih =>
    have hlen : w * xs.length ≤ 512 := Nat.le_trans (Nat.mul_le_mul_left w (Nat.le_succ _)) h
    rw [elemOf, toNat_packElems_cons x h (packElems_lt hlen)]
    have hx : x % 2 ^ w < 2 ^ w := Nat.mod_lt _ (Nat.two_pow_pos w)
    cases e with
    | zero => rw [Nat.mul_zero, Nat.pow_zero, Nat.div_one, Nat.mul_comm, Nat.mul_add_mod, Nat.mod_mod]; rfl
    | succ e =>
      rw [Nat.mul_succ, Nat.add_comm (w * e), Nat.pow_add, ← Nat.div_div_eq_div_mul, Nat.mul_comm _ (2 ^ w), Nat.mul_add_div (Nat.two_pow_pos w), Nat.div_eq_of_lt hx, Nat.add_zero]
      exact ih hlen (Nat.lt_of_succ_lt_succ he)

/-- The same, of a register whose elements are given by their number. -/
theorem elemOf_packed {w : Nat} (hw : w ∈ elemWidths) (f : Nat → Nat) {e : Nat} (he : e < 512 / w) :
    elemOf w (packElems w ((List.range (512 / w)).map f)) e = f e % 2 ^ w := by
  obtain ⟨-, -, -, hfill⟩ := elemWidths_size w hw
  have hlen : ((List.range (512 / w)).map f).length = 512 / w := by rw [List.length_map, List.length_range]
  rw [elemOf_packElems (by rw [hlen, hfill]) (by rwa [hlen])]
  simp

/-! ### Masks (R106) -/

theorem State.isOn_eq_enabled (s : State) (mk : BitVec 4) (e : Nat) : s.isOn mk e = s.enabled mk e := by
  have hmask : mkMasked mk = mk.getLsbD 3 := by revert mk; decide
  have hreg : (mkReg mk).toNat = mk.toNat % 4 := by revert mk; decide
  simp only [State.isOn, State.enabled, hmask, hreg]

/-! ### Loads of separate elements (R184 to R186) -/

/-- The value kept with an element that is among those loaded. -/
theorem find?_zip_map (es : List Nat) (g : Nat → Line) (e : Nat) :
    (es.zip (es.map g)).find? (fun p => p.1 == e) = if e ∈ es then some (e, g e) else none := by
  induction es with
  | nil => rfl
  | cons x xs ih =>
    rw [List.map_cons, List.zip_cons_cons, List.find?_cons]
    by_cases hx : x = e
    · simp [hx]
    · simp [beq_false_of_ne hx, Ne.symm hx, ih]

/-- The register that the elements of a load are put together in. -/
theorem elemOf_gathered {w : Nat} (hw : w ∈ elemWidths) (old : Line) (on : Nat → Bool) (g : Nat → Line) {e : Nat} (he : e < 512 / w) :
    elemOf w (gathered w old ((List.range (512 / w)).filter on) (((List.range (512 / w)).filter on).map g) (512 / w)) e =
      if on e then (g e).toNat % 2 ^ w else 0 := by
  rw [gathered, elemOf_packed hw _ he, if_neg (Nat.not_le.mpr he), find?_zip_map]
  by_cases hon : on e = true <;> simp [he, hon]

end Sys2Proof.Machine
end

section
/-!
PROOFS. The progress of an instruction of several accesses does not matter to what completes it (11 R186).
-/

namespace Sys2Proof.Machine

/-- A slot whose instruction has other progress. -/
def Slot.withCont (x : Slot) (c : Option Cont) : Slot := { x with cont := c }

/-- The machine in which a thread's instruction has other progress. -/
def State.carry (s : State) (t : Tid) (c : Option Cont) : State := s.setSlot t ((s.slot t).withCont c)

theorem State.setCont_eq_carry (s : State) (c : Cont) : s.setCont c = s.carry s.cur (some c) := rfl

theorem State.core_carry (s : State) (t : Tid) (c : Option Cont) (n : Nat) :
    (s.carry t c).core n = if n = t.core then (s.core n).setSlot t.slot ((s.slot t).withCont c) else s.core n := by
  split
  next h => subst h; exact State.core_setSlot ..
  next h => exact State.core_setSlot_other _ _ _ h

theorem State.gated_carry (s : State) (t : Tid) (c : Option Cont) (n : Nat) : ((s.carry t c).core n).gated = (s.core n).gated := by
  rw [State.core_carry]
  split <;> rfl

theorem State.idle_carry (s : State) (t : Tid) (c : Option Cont) (n : Nat) : ((s.carry t c).core n).idle = (s.core n).idle := by
  rw [State.core_carry]
  split <;> rfl

theorem State.slot_carry_same (s : State) (t : Tid) (c : Option Cont) : (s.carry t c).slot t = (s.slot t).withCont c := State.slot_setSlot_same ..

theorem State.slot_carry_other (s : State) {t u : Tid} (c : Option Cont) (h : u ≠ t) : (s.carry t c).slot u = s.slot u := State.slot_setSlot_other s _ h

theorem State.slot_carry (s : State) (t u : Tid) (c : Option Cont) : (s.carry t c).slot u = if u = t then (s.slot t).withCont c else s.slot u := by
  split
  next h => rw [h, State.slot_carry_same]
  next h => exact State.slot_carry_other s c h

theorem State.setCore_comm (s : State) {n m : Nat} (c d : Core) (h : n ≠ m) : (s.setCore n c).setCore m d = (s.setCore m d).setCore n c := by
  simp only [State.setCore]
  rcases Nat.lt_or_gt_of_ne h with h | h
  · rw [SMap.put_comm _ _ _ h]
  · rw [SMap.put_comm _ _ _ h]

theorem Core.setSlot_comm (c : Core) {j k : BitVec 3} (x y : Slot) (h : j ≠ k) : (c.setSlot j x).setSlot k y = (c.setSlot k y).setSlot j x := by
  have hn : j.toNat ≠ k.toNat := fun e => h (BitVec.eq_of_toNat_eq e)
  simp only [Core.setSlot, Vector.set_comm _ _ hn]

theorem State.setSlot_comm (s : State) {t u : Tid} (x y : Slot) (h : t ≠ u) : (s.setSlot t x).setSlot u y = (s.setSlot u y).setSlot t x := by
  obtain ⟨n, j⟩ := t
  obtain ⟨m, k⟩ := u
  by_cases hnm : n = m
  · subst hnm
    have hjk : j ≠ k := fun e => h (by rw [e])
    simp only [State.setSlot, State.core_setCore_same, State.setCore_setCore, Core.setSlot_comm _ _ _ hjk]
  · simp only [State.setSlot, State.core_setCore_other _ _ hnm, State.core_setCore_other _ _ (Ne.symm hnm), State.setCore_comm _ _ _ hnm]

theorem State.setSlot_carry_other (s : State) {t u : Tid} (c : Option Cont) (x : Slot) (h : u ≠ t) :
    (s.carry t c).setSlot u x = (s.setSlot u x).carry t c := by
  rw [State.carry, State.carry, State.slot_setSlot_other _ _ (Ne.symm h), State.setSlot_comm _ _ _ (Ne.symm h)]

/-- A change of a slot that keeps the progress goes along. -/
theorem State.setSlot_carry (s : State) (t u : Tid) (c : Option Cont) {f : Slot → Slot} (hf : ∀ x, f (x.withCont c) = (f x).withCont c) :
    (s.carry t c).setSlot u (f ((s.carry t c).slot u)) = (s.setSlot u (f (s.slot u))).carry t c := by
  by_cases h : u = t
  · subst h
    rw [State.slot_carry_same, hf, State.carry, State.carry, State.setSlot_setSlot, State.setSlot_setSlot, State.slot_setSlot_same]
  · rw [State.slot_carry_other _ _ h, State.setSlot_carry_other _ _ _ h]

theorem State.post_carry (s : State) (t : Tid) (c : Option Cont) (e : Event) : (s.carry t c).post e = (s.post e).carry t c := by
  have htodo : (s.carry t c).todo = s.todo := rfl
  rw [State.post, State.post, htodo]
  split <;> rfl

/-- A core whose idle count is over. -/
def Core.roused (d : Core) : Core := { d with idle := 0 }

theorem State.rouse_eq (s : State) (n : Nat) :
    s.rouse n = if (s.core n).gated then s.post (.ungateStart n) else if (s.core n).idle == 0 then s else s.setCore n (s.core n).roused := rfl

theorem Core.roused_setSlot (d : Core) (k : BitVec 3) (x : Slot) : (d.setSlot k x).roused = d.roused.setSlot k x := rfl

theorem State.slot_roused (s : State) (n : Nat) (t : Tid) : (s.setCore n (s.core n).roused).slot t = s.slot t := State.slot_setCore s n (s.core n).roused rfl t

theorem State.roused_carry (s : State) (t : Tid) (c : Option Cont) (n : Nat) :
    (s.carry t c).setCore n ((s.carry t c).core n).roused = (s.setCore n (s.core n).roused).carry t c := by
  rw [State.core_carry, State.carry, State.carry, State.slot_roused, State.setSlot, State.setSlot]
  split
  next h => rw [h, Core.roused_setSlot, State.setCore_setCore, State.setCore_setCore, State.core_setCore_same]
  next h => rw [State.core_setCore_other _ _ (Ne.symm h), State.setCore_comm _ _ _ (Ne.symm h)]

theorem State.rouse_carry (s : State) (t : Tid) (c : Option Cont) (n : Nat) : (s.carry t c).rouse n = (s.rouse n).carry t c := by
  rw [State.rouse_eq, State.rouse_eq, State.gated_carry, State.idle_carry, State.post_carry, State.roused_carry]
  split
  · rfl
  · split <;> rfl

theorem State.urge_carry (s : State) {t u : Tid} (c : Option Cont) (g : Bool) (h : u ≠ t) : (s.carry t c).urge u g = (s.urge u g).carry t c := by
  rw [State.urge, State.urge, State.slot_carry_other _ _ h]
  split <;> rfl

/-! ### Wakes -/

/-- A thread that is ready is not woken, and the others are woken alike. -/
theorem State.wake_carry {s : State} {t : Tid} (hready : (s.slot t).st = .ready) (c : Option Cont) (u : Tid) :
    (s.carry t c).wake u = (s.wake u).carry t c := by
  by_cases h : u = t
  · subst h
    have hcarry : ((s.carry u c).slot u).st = .ready := by rw [State.slot_carry_same]; exact hready
    simp only [State.wake, hcarry, hready]
  · simp only [State.wake, State.slot_carry_other _ _ h, State.gated_carry, State.setSlot_carry_other _ _ _ h, State.rouse_carry, State.urge_carry _ _ _ h]
    split <;> rfl

theorem State.waits_carry (s : State) (t u : Tid) (c : Option Cont) (p : Await → Bool) : ((s.carry t c).slot u).waitsFor p = (s.slot u).waitsFor p := by
  rw [State.slot_carry]
  split
  next h => rw [h]; rfl
  next h => rfl

theorem State.port_carry (s : State) (t u : Tid) (c : Option Cont) : ((s.carry t c).slot u).port = (s.slot u).port := by
  rw [State.slot_carry]
  split
  next h => rw [h]; rfl
  next h => rfl

theorem State.wakeIf_carry {s : State} {t : Tid} (hready : (s.slot t).st = .ready) (c : Option Cont) (p : Await → Bool) (u : Tid) :
    (s.carry t c).wakeIf p u = (s.wakeIf p u).carry t c := by
  rw [State.wakeIf, State.wakeIf, State.waits_carry, State.wake_carry hready]
  split <;> rfl

/-- The issuing thread is a given one, and ready. -/
def State.Issues (s : State) (t : Tid) : Prop := s.cur = t ∧ (s.slot t).st = .ready

theorem State.issues_setSlot {s : State} {t : Tid} (h : s.Issues t) (u : Tid) {x : Slot} (hx : x.st = (s.slot u).st) : (s.setSlot u x).Issues t := by
  refine ⟨h.1, ?_⟩
  by_cases hu : t = u
  · rw [hu, State.slot_setSlot_same, hx, ← hu, h.2]
  · rw [State.slot_setSlot_other _ _ hu, h.2]

theorem State.issues_wakeIf {s : State} {t : Tid} (h : s.Issues t) (p : Await → Bool) (u : Tid) : (s.wakeIf p u).Issues t := by
  refine ⟨?_, by rw [State.slot_wakeIf_ready p u h.2, h.2]⟩
  rw [State.wakeIf]
  split
  · exact (State.still_wake ..).cur.trans h.1
  · exact h.1

/-! ### Pops and pushes -/

/-- An operation of a machine that goes along with the progress of the ready thread that issues, and leaves it so. -/
structure Carries (t : Tid) (c : Option Cont) (f : State → State) : Prop where
  eq : ∀ s, s.Issues t → f (s.carry t c) = (f s).carry t c
  issues : ∀ s, s.Issues t → (f s).Issues t

section
variable {t : Tid} {c : Option Cont}

theorem Carries.id : Carries t c fun s => s := ⟨fun _ _ => rfl, fun _ h => h⟩

theorem Carries.comp {f g : State → State} (hf : Carries t c f) (hg : Carries t c g) : Carries t c fun s => g (f s) :=
  ⟨fun s h => by rw [hf.eq s h, hg.eq _ (hf.issues s h)], fun s h => hg.issues _ (hf.issues s h)⟩

/-- An operation that reads something of the machine beside the progress. -/
theorem Carries.reading {α : Type} (g : State → α) {f : α → State → State} (hg : ∀ s, s.Issues t → g (s.carry t c) = g s) (hf : ∀ a, Carries t c (f a)) :
    Carries t c fun s => f (g s) s :=
  ⟨fun s h => by rw [hg s h, (hf _).eq s h], fun s h => (hf _).issues s h⟩

theorem Carries.ite {f g : State → State} (b : Bool) (hf : Carries t c f) (hg : Carries t c g) : Carries t c fun s => if b then f s else g s := by
  cases b with
  | true => exact hf
  | false => exact hg

theorem Carries.wakeIf (p : Await → Bool) (u : Tid) : Carries t c (State.wakeIf p · u) :=
  ⟨fun _ h => State.wakeIf_carry h.2 c p u, fun _ h => State.issues_wakeIf h p u⟩

theorem Carries.rouse (n : Nat) : Carries t c (State.rouse · n) :=
  ⟨fun s _ => State.rouse_carry s t c n, fun s h => ⟨(State.still_rouse s n).cur.trans h.1, by rw [State.slot_rouse, h.2]⟩⟩

/-- A change of a slot that touches neither its progress nor whether it is ready. -/
theorem Carries.setSlot (u : Tid) {f : Slot → Slot} (hf : ∀ x, f (x.withCont c) = (f x).withCont c) (hst : ∀ x, (f x).st = x.st) :
    Carries t c fun s => s.setSlot u (f (s.slot u)) :=
  ⟨fun s _ => State.setSlot_carry s t u c hf, fun _ h => State.issues_setSlot h u (hst _)⟩

theorem Carries.wakeProducer (p : Option Tid) (w : Await) : Carries t c (State.wakeProducer · p w) := by
  cases p with
  | none => exact .id
  | some g => exact .wakeIf (· == w) g

/-- A slot whose port has changed. -/
def Slot.withPort (x : Slot) (f : Port → Port) : Slot := { x with port := f x.port }

theorem Carries.setPort (u : Tid) (f : Port → Port) : Carries t c fun s => s.setSlot u ((s.slot u).withPort f) :=
  .setSlot u (f := (Slot.withPort · f)) (fun _ => rfl) (fun _ => rfl)

/-- Takes the oldest entry of a thread's scalar queue, whose producer is given. -/
def State.takeScalar (u : Tid) (p : Option Tid) (s : State) : State :=
  (s.setSlot u ((s.slot u).withPort fun q => { q with sq := q.sq.tail })).wakeProducer p .portDown

def State.takeVector (u : Tid) (p : Option Tid) (s : State) : State :=
  (s.setSlot u ((s.slot u).withPort fun q => { q with vq := q.vq.tail })).wakeProducer p .vportDown

/-- Adds an entry to the vector queue of a thread. -/
def State.giveVector (v : Line) (g : Tid) (s : State) : State :=
  ((s.setSlot g ((s.slot g).withPort fun q => { q with vq := q.vq ++ [v] })).rouse g.core).wakeIf (· == .vportUp) g

theorem Carries.takeScalar (u : Tid) (p : Option Tid) : Carries t c (State.takeScalar u p) := (Carries.setPort u _).comp (.wakeProducer p .portDown)

theorem Carries.takeVector (u : Tid) (p : Option Tid) : Carries t c (State.takeVector u p) := (Carries.setPort u _).comp (.wakeProducer p .vportDown)

theorem Carries.giveVector (v : Line) (g : Tid) : Carries t c (State.giveVector v g) := ((Carries.setPort g _).comp (.rouse g.core)).comp (.wakeIf _ g)

theorem Carries.popScalar : Carries t c fun s => s.popScalar s.cur :=
  .reading (fun s => (s.cur, (s.slot s.cur).port.sclaim)) (f := fun a => State.takeScalar a.1 a.2) (fun s _ => by rw [State.port_carry]; rfl)
    fun a => .takeScalar a.1 a.2

theorem Carries.popVector : Carries t c fun s => s.popVector s.cur :=
  .reading (fun s => (s.cur, (s.slot s.cur).port.vclaim)) (f := fun a => State.takeVector a.1 a.2) (fun s _ => by rw [State.port_carry]; rfl)
    fun a => .takeVector a.1 a.2

theorem Carries.pushVector (v : Line) : Carries t c fun s => s.pushVector s.cur v :=
  .reading (fun s => s.portTarget s.cur) (f := State.giveVector v)
    (fun s _ => by rw [State.portTarget, State.portTarget, State.port_carry]; rfl) (.giveVector v)

/-- What an instruction pops. -/
theorem Carries.pops (srcs : List SReg) (vsrcs : List VReg) : Carries t c (State.pops · srcs vsrcs) := by
  have hvector : Carries t c fun s => if s.me.port.vp && vsrcs.contains 15 then s.popVector s.cur else s :=
    .reading (fun s => s.me.port.vp && vsrcs.contains 15) (f := fun b s => if b then s.popVector s.cur else s)
      (fun s _ => by rw [State.me, State.me, State.port_carry]; rfl) fun b => .ite b .popVector .id
  exact (Carries.ite (srcs.contains 6) .popScalar .id).comp hvector

/-- A write of a vector register, or a push. -/
theorem Carries.wv (d : VReg) (v : Line) : Carries t c (State.wv · d v) := by
  refine .reading (fun s => (s.me.isPort d, s.cur)) (f := fun a s => if a.1 then s.pushVector s.cur v else
    s.setSlot a.2 { s.slot a.2 with regs := { (s.slot a.2).regs with vec := (s.slot a.2).regs.vec.set d.toNat v d.isLt } })
    (fun s _ => by rw [Slot.isPort, Slot.isPort, State.me, State.me, State.port_carry]; rfl) fun a => .ite a.1 (.pushVector v) ?_
  exact .setSlot a.2 (f := fun x => { x with regs := { x.regs with vec := x.regs.vec.set d.toNat v d.isLt } }) (fun _ => rfl) (fun _ => rfl)

end

/-- An instruction that completes leaves no progress behind. -/
theorem State.retire_carry {s : State} {t : Tid} (h : s.cur = t) (c : Option Cont) : (s.carry t c).retire = s.retire := by
  subst h
  have hme : (s.carry s.cur c).me = s.me.withCont c := State.slot_carry_same ..
  rw [State.retire, State.goto, hme, State.carry]
  exact State.setSlot_setSlot ..

/-- So what was done by an operation of these does not show it. -/
theorem Carries.retire {f : State → State} (hf : ∀ t c, Carries t c f) {s : State} (hready : s.me.st = .ready) (c : Cont) :
    (f (s.setCont c)).retire = (f s).retire := by
  have hissues : s.Issues s.cur := ⟨rfl, hready⟩
  rw [State.setCont_eq_carry, (hf s.cur (some c)).eq s hissues, State.retire_carry ((hf s.cur (some c)).issues s hissues).1]

theorem State.setV_setCont {s : State} (hready : s.me.st = .ready) (c : Cont) (srcs : List SReg) (vsrcs : List VReg) (d : VReg) (v : Line) :
    (s.setCont c).setV srcs vsrcs d v = s.setV srcs vsrcs d v :=
  Carries.retire (f := fun s => (s.pops srcs vsrcs).wv d v) (fun _ _ => (Carries.pops srcs vsrcs).comp (.wv d v)) hready c

theorem State.pops_setCont {s : State} (hready : s.me.st = .ready) (c : Cont) (srcs : List SReg) (vsrcs : List VReg) :
    ((s.setCont c).pops srcs vsrcs).retire = (s.pops srcs vsrcs).retire :=
  Carries.retire (f := (State.pops · srcs vsrcs)) (fun _ _ => .pops srcs vsrcs) hready c

end Sys2Proof.Machine
end

section
/-!
PROOFS. The strided, gather and scatter forms, element by element (11 R184 to R186).
-/

namespace Sys2Proof.Machine

/-! ### One element after the other -/

/-- An element that is done, where no waiter has become due. -/
theorem State.elements_cons {s t : State} {e : Nat} {a : Acc} {v : Line} (as : List (Nat × Acc)) (ha : s.ordinary a = .ok v t) (hw : t.wakesDue = false) :
    s.elements ((e, a) :: as) = (t.elemDone v).elements as := by
  simp only [State.elements, ha, hw, Bool.false_and, Bool.false_eq_true, if_false]

/-- The progress of an instruction after one more element. -/
def Cont.after (c : Cont) (v : Line) : Cont :=
  { c with idx := c.idx + 1, acc := c.acc ++ [v], redirect := none, second := false, since := none, dog := false }

theorem Cont.idle_after (c : Cont) (v : Line) : (c.after v).idle := ⟨rfl, rfl, rfl⟩

theorem State.elemDone_eq (s : State) (v : Line) : s.elemDone v = s.setCont (s.cont.after v) := rfl

theorem State.setCont_setCont (s : State) (c d : Cont) : (s.setCont c).setCont d = s.setCont d := by
  rw [State.setCont, State.setCont, State.setMe_setMe, State.me_setMe]
  rfl

section
variable {n : Nat} (h0 : 0 < n) (h8 : n ≤ 8)
include h0 h8

/-- The elements of a load: what their bytes hold, kept in turn. -/
theorem State.elements_reads (ps : List (Nat × Word)) (p : Nat × Word) {s : State} (hfree : ∀ q ∈ p :: ps, Free s q.2 n) (hw : s.wakesDue = false) :
    ∃ c : Cont, s.elements ((p :: ps).map fun q => (q.1, accRead q.2 n)) = .ok () (s.setCont c) ∧
      c.acc = s.cont.acc ++ (p :: ps).map fun q => BitVec.ofNat 512 (s.bytesAt q.2.toNat n) := by
  induction ps generalizing p s with
  | nil => exact ⟨_, State.elements_cons [] ((hfree p (List.mem_singleton.mpr rfl)).read h0 h8) hw, rfl⟩
  | cons q ps ih =>
    have hnext : ∀ r ∈ q :: ps, Free (s.setCont (s.cont.after (BitVec.ofNat 512 (s.bytesAt p.2.toNat n)))) r.2 n := fun r hr =>
      (hfree r (List.mem_cons_of_mem _ hr)).setCont (Cont.idle_after ..)
    obtain ⟨c, hc, hacc⟩ := ih q hnext hw
    refine ⟨c, (State.elements_cons _ ((hfree p List.mem_cons_self).read h0 h8) hw).trans ?_, ?_⟩
    · rw [State.elemDone_eq]
      exact hc.trans (by rw [State.setCont_setCont])
    · rw [hacc, State.cont_setCont, List.map_cons, Cont.after, List.append_assoc]
      rfl

end

/-- Memory after some elements of a store, in turn. -/
def State.storedAll (s : State) (n : Nat) (d : Nat → Nat) (ps : List (Nat × Word)) : State := ps.foldl (fun t q => t.stored q.2 n (d q.1)) s

theorem State.withMem_setCont (s : State) (m : List Host.Cell) (c : Cont) : (s.setCont c).withMem m = (s.withMem m).setCont c := rfl

theorem State.stored_eq (s : State) (va : Word) (n v : Nat) :
    s.stored va n v = s.withMem (Memory.writeN s.mem (lsHome s.cur.core va.toNat) (v % 256 ^ n) (2 ^ n - 1) n) := rfl

theorem State.stored_setCont (s : State) (c : Cont) (va : Word) (n v : Nat) : (s.setCont c).stored va n v = (s.stored va n v).setCont c := by
  rw [State.stored_eq, State.stored_eq, State.withMem_setCont, State.setCont_mem, State.setCont_cur]

theorem State.storedAll_setCont (n : Nat) (d : Nat → Nat) (ps : List (Nat × Word)) (s : State) (c : Cont) :
    (s.setCont c).storedAll n d ps = (s.storedAll n d ps).setCont c := by
  induction ps generalizing s with
  | nil => rfl
  | cons p ps ih => exact (congrArg (State.storedAll · n d ps) (State.stored_setCont ..)).trans (ih _)

theorem State.me_storedAll (s : State) (n : Nat) (d : Nat → Nat) (ps : List (Nat × Word)) : (s.storedAll n d ps).me = s.me := by
  induction ps generalizing s with
  | nil => rfl
  | cons p ps ih => exact (ih _).trans (State.me_stored ..)

section
variable {n : Nat} (h0 : 0 < n) (h8 : n ≤ 8)
include h0 h8

/-- The elements of a store: their bytes, in turn. -/
theorem State.elements_writes (d : Nat → Word) (ps : List (Nat × Word)) (p : Nat × Word) {s : State} (hfree : ∀ q ∈ p :: ps, Free s q.2 n)
    (hw : s.wakesDue = false) : ∃ c : Cont, s.elements ((p :: ps).map fun q => (q.1, accWrite q.2 n (d q.1))) =
      .ok () ((s.storedAll n (fun e => (d e).toNat) (p :: ps)).setCont c) := by
  induction ps generalizing p s with
  | nil =>
    obtain ⟨v, hv⟩ := (hfree p (List.mem_singleton.mpr rfl)).write h0 h8 (d p.1)
    exact ⟨_, State.elements_cons [] hv hw⟩
  | cons q ps ih =>
    obtain ⟨v, hv⟩ := (hfree p List.mem_cons_self).write h0 h8 (d p.1)
    have hnext : ∀ r ∈ q :: ps, Free ((s.stored p.2 n (d p.1).toNat).setCont ((s.stored p.2 n (d p.1).toNat).cont.after v)) r.2 n := fun r hr =>
      Free.setCont (by rw [State.stored_eq]; exact (hfree r (List.mem_cons_of_mem _ hr)).withMem _) (Cont.idle_after ..)
    obtain ⟨c, hc⟩ := ih q hnext hw
    refine ⟨c, (State.elements_cons _ hv hw).trans ?_⟩
    rw [State.elemDone_eq]
    refine hc.trans (congrArg (Res.ok ()) ?_)
    rw [State.storedAll_setCont, State.setCont_setCont]
    rfl

end

/-! ### The instructions -/

/-- The enabled elements, with their addresses. -/
def State.elemAddrs (s : State) (w : Nat) (mk : BitVec 4) (va : Nat → Word) : List (Nat × Word) :=
  ((List.range (512 / w)).filter (s.isOn mk)).map fun e => (e, va e)

theorem State.elemAddrs_eq (s : State) (w : Nat) (mk : BitVec 4) (va : Nat → Word) :
    s.elemAddrs w mk va = (s.enabledElems mk (512 / w)).map fun e => (e, va e) := by
  rw [State.elemAddrs, State.enabledElems, show s.isOn mk = s.enabled mk from funext (s.isOn_eq_enabled mk)]

theorem State.storedElems_eq (s : State) (w : Nat) (mk : BitVec 4) (va : Nat → Word) (v : Line) :
    s.storedElems w mk va v = s.storedAll (w / 8) (elemOf w v) (s.elemAddrs w mk va) := by
  rw [State.storedElems, State.storedAll, State.elemAddrs, List.foldl_map]

/-- Every enabled element is an access that nothing holds up. -/
theorem State.free_elemAddrs {s : State} {w : Nat} {mk : BitVec 4} {va : Nat → Word} (h : s.plainElems w mk va) :
    ∀ q ∈ s.elemAddrs w mk va, Free s q.2 (w / 8) := by
  intro q hq
  obtain ⟨e, he, rfl⟩ := List.mem_map.mp hq
  obtain ⟨hlt, hon⟩ := List.mem_filter.mp he
  exact State.free_of_plain (h e (List.mem_range.mp hlt) hon)

theorem State.map_elemAddrs {α : Type} (s : State) (w : Nat) (mk : BitVec 4) (va : Nat → Word) (f : Nat × Word → α) :
    (s.elemAddrs w mk va).map f = ((List.range (512 / w)).filter (s.isOn mk)).map fun e => f (e, va e) := List.map_map ..

theorem elemWidths_le : ∀ w ∈ elemWidths, w ≤ 64 := by decide

/-- With every element masked off, the register is zero. -/
theorem State.loads_zero {s : State} {w : Nat} {mk : BitVec 4} {va : Nat → Word} (h : s.elemAddrs w mk va = []) : Loads s 0 w mk va := by
  intro e he
  have hoff : ¬ s.isOn mk e = true := fun hon =>
    List.ne_nil_of_mem (List.mem_map_of_mem (List.mem_filter.mpr ⟨List.mem_range.mpr he, hon⟩)) h
  rw [if_neg hoff]
  simp [elemOf]

theorem State.loads_gathered (s : State) {w : Nat} (hw : w ∈ elemWidths) (mk : BitVec 4) (va : Nat → Word) (old : Line) :
    Loads s (gathered w old ((s.elemAddrs w mk va).map (·.1)) ((s.elemAddrs w mk va).map fun q => BitVec.ofNat 512 (s.bytesAt q.2.toNat (w / 8))) (512 / w))
      w mk va := by
  intro e he
  obtain ⟨-, -, hbits, -⟩ := elemWidths_size w hw
  have hbytes : s.bytesAt (va e).toNat (w / 8) < 2 ^ w := by
    have hlt := s.bytesAt_lt_pow (va e).toNat (w / 8)
    rwa [show 256 = 2 ^ 8 from rfl, ← Nat.pow_mul, hbits] at hlt
  have hfst : (s.elemAddrs w mk va).map (·.1) = (List.range (512 / w)).filter (s.isOn mk) := by rw [State.map_elemAddrs, List.map_id']
  have hle : w ≤ 512 := Nat.le_trans (elemWidths_le w hw) (by decide)
  rw [hfst, State.map_elemAddrs, elemOf_gathered hw old _ (fun e => BitVec.ofNat 512 (s.bytesAt (va e).toNat (w / 8))) he, BitVec.toNat_ofNat,
    Nat.mod_mod_of_dvd _ (Nat.pow_dvd_pow 2 hle), Nat.mod_eq_of_lt hbytes]

section
variable {s : State} {w : Nat} (hw : w ∈ elemWidths) {mk : BitVec 4} {va : Nat → Word} (hplain : s.plainElems w mk va) (hcont : s.me.cont = none)
  (hready : s.me.st = .ready) (hdue : s.wakesDue = false) {addrs : State → List (Nat × Word)}
  (haddrs : addrs s = (s.enabledElems mk (512 / w)).map fun e => (e, va e))
include hw hplain hcont hready hdue haddrs

theorem State.vloads_free {d : VReg} {srcs : List SReg} {vsrcs : List VReg} (hp : s.portsOpen srcs [] vsrcs [d] = true) :
    ∃ v, Loads s v w mk va ∧ s.vloads d srcs vsrcs w false addrs = .next (s.setV srcs vsrcs d v) := by
  obtain ⟨h0, h8, -⟩ := elemWidths_size w hw
  have hidx : s.cont.idx = 0 ∧ s.cont.acc = [] := by simp [State.cont, hcont]
  rw [← State.elemAddrs_eq] at haddrs
  have hfree := State.free_elemAddrs hplain
  have hloads := State.loads_gathered s hw mk va 0
  simp only [State.vloads, State.memPorts_open hp, Res.bind_ok, haddrs, Bool.false_eq_true, if_false, hidx.1, List.drop_zero]
  cases hl : s.elemAddrs w mk va with
  | nil => exact ⟨0, State.loads_zero hl, rfl⟩
  | cons p ps =>
    rw [hl] at hfree hloads
    obtain ⟨c, hc, hacc⟩ := State.elements_reads h0 h8 ps p hfree hdue
    rw [hidx.2, List.nil_append] at hacc
    refine ⟨_, hloads, ?_⟩
    rw [hc]
    simp only [List.map_cons, List.isEmpty_cons, Bool.false_eq_true, if_false, Res.finish_ok, State.setV_setCont hready, State.cont_setCont, hacc,
      List.map_map]
    rfl

theorem State.vstores_free {d : VReg} {srcs : List SReg} {vaddr : List VReg} (hp : s.portsOpen srcs [] (d :: vaddr) [] = true) :
    s.vstores d srcs vaddr w false addrs = .next ((s.storedElems w mk va (s.rv d)).pops srcs (d :: vaddr)).retire := by
  obtain ⟨h0, h8, -⟩ := elemWidths_size w hw
  have hidx : s.cont.idx = 0 := by simp [State.cont, hcont]
  have hdata : (fun e => (BitVec.ofNat 64 (elem w (s.rv d) e)).toNat) = elemOf w (s.rv d) := funext fun e => by
    rw [elem_eq_elemOf, BitVec.toNat_ofNat]
    exact Nat.mod_eq_of_lt (Nat.lt_of_lt_of_le (elemOf_lt ..) (Nat.pow_le_pow_right (by decide) (elemWidths_le w hw)))
  rw [← State.elemAddrs_eq] at haddrs
  have hfree := State.free_elemAddrs hplain
  rw [State.storedElems_eq]
  simp only [State.vstores, State.memPorts_open hp, Res.bind_ok, haddrs, Bool.false_eq_true, if_false, hidx, List.drop_zero]
  cases hl : s.elemAddrs w mk va with
  | nil => rfl
  | cons p ps =>
    rw [hl] at hfree
    obtain ⟨c, hc⟩ := State.elements_writes h0 h8 (fun e => BitVec.ofNat 64 (elem w (s.rv d) e)) ps p hfree hdue
    rw [hdata] at hc
    have hstored : (s.storedAll (w / 8) (elemOf w (s.rv d)) (p :: ps)).me.st = .ready := by rw [State.me_storedAll, hready]
    rw [hc, List.map_cons, List.isEmpty_cons, if_neg Bool.false_ne_true, Res.bind_ok, Res.finish_ok, State.pops_setCont hstored]

end

/-! ### Their addresses -/

theorem State.strided_eq (s : State) (b c : SReg) (mk : BitVec 4) (ew : BitVec 2) (off : Word) :
    s.strided b c mk ew off = (s.enabledElems mk (512 / widthOf ew)).map fun e => (e, s.rs b + off + BitVec.ofNat 64 e * s.rs c) := by
  rw [State.strided, widthOf_eq]

/-- The address of an element of a gather or scatter, as a product. -/
def State.indexedAt (s : State) (b : SReg) (cv : VReg) (x64 : BitVec 1) (sh e : Nat) : Word :=
  s.rs b + (if x64 = 1 then BitVec.ofNat 64 (elemOf 64 (s.rv cv) e) else (BitVec.ofNat 32 (elemOf 32 (s.rv cv) e)).signExtend 64) * BitVec.ofNat 64 (2 ^ sh)

theorem gatherBits_eq (x64 : BitVec 1) : gatherBits x64 = if x64 = 1 then 64 else 32 := by simp only [gatherBits, beq_iff_eq]

theorem State.indexed_eq (s : State) (b : SReg) (cv : VReg) (mk : BitVec 4) (x64 : BitVec 1) (sc : BitVec 2) :
    s.indexed b cv mk x64 sc = (s.enabledElems mk (512 / gatherBits x64)).map fun e => (e, s.indexedAt b cv x64 sc.toNat e) := by
  simp only [State.indexed, State.indexedAt, elem_eq_elemOf, shiftLeft_scale, beq_iff_eq]

end Sys2Proof.Machine
end

section
/-!
PROOFS. The whole-vector accesses: numbers put together from words, and masks of bytes (07 R106, R112; 11 R182, R183).
-/

namespace Sys2Proof.Machine

/-! ### Numbers put together from words -/

theorem sum_digits_succ (B n : Nat) (d : Nat → Nat) :
    ((List.range (n + 1)).map fun i => d i * B ^ i).sum = d 0 + B * ((List.range n).map fun i => d (i + 1) * B ^ i).sum := by
  rw [List.range_succ_eq_map, List.map_cons, List.map_map, List.sum_cons, Nat.pow_zero, Nat.mul_one, ← List.sum_map_mul_left]
  refine congrArg (d 0 + List.sum ·) (List.map_congr_left fun i _ => ?_)
  rw [Function.comp_apply, Nat.succ_eq_add_one, Nat.pow_succ]
  ac_rfl

/-- Digit k of a number given by its digits. -/
theorem sum_digits_div_mod {B n k : Nat} (hk : k < n) (d : Nat → Nat) (hd : ∀ i, d i < B) :
    ((List.range n).map fun i => d i * B ^ i).sum / B ^ k % B = d k := by
  obtain ⟨n, rfl⟩ : ∃ j, n = j + 1 := ⟨n - 1, by omega⟩
  have hB : 0 < B := Nat.zero_lt_of_lt (hd 0)
  rw [sum_digits_succ]
  induction k generalizing n d with
  | zero => rw [Nat.pow_zero, Nat.div_one, Nat.add_mul_mod_self_left, Nat.mod_eq_of_lt (hd 0)]
  | succ k ih =>
    obtain ⟨n, rfl⟩ : ∃ j, n = j + 1 := ⟨n - 1, by omega⟩
    rw [Nat.pow_succ', ← Nat.div_div_eq_div_mul, Nat.add_mul_div_left _ _ hB, Nat.div_eq_of_lt (hd 0), Nat.zero_add, sum_digits_succ]
    exact ih (fun i => d (i + 1)) (fun i => hd (i + 1)) n (by omega)

theorem sum_digits_lt {B n : Nat} (d : Nat → Nat) (hd : ∀ i, d i < B) : ((List.range n).map fun i => d i * B ^ i).sum < B ^ n := by
  induction n generalizing d with
  | zero => exact Nat.one_pos
  | succ n ih =>
    have hlow := ih (fun i => d (i + 1)) fun i => hd (i + 1)
    rw [sum_digits_succ, Nat.pow_succ']
    calc d 0 + B * ((List.range n).map fun i => d (i + 1) * B ^ i).sum < B + B * ((List.range n).map fun i => d (i + 1) * B ^ i).sum :=
          Nat.add_lt_add_right (hd 0) _
      _ = B * (((List.range n).map fun i => d (i + 1) * B ^ i).sum + 1) := by rw [Nat.mul_succ, Nat.add_comm]
      _ ≤ B * B ^ n := Nat.mul_le_mul_left _ hlow

theorem Memory.readN_mod (m : List Host.Cell) (a : Nat) {n k : Nat} (h : k ≤ n) : Memory.readN m a n % 256 ^ k = Memory.readN m a k := by
  induction k generalizing a n with
  | zero => rw [Nat.pow_zero, Nat.mod_one]; rfl
  | succ k ih =>
    obtain ⟨n, rfl⟩ : ∃ j, n = j + 1 := ⟨n - 1, by omega⟩
    have hb := (Memory.byte m a).isLt
    rw [Memory.readN, Memory.readN, ← ih (a + 1) (show k ≤ n by omega), Nat.pow_succ', Nat.mod_mul, Nat.add_mul_mod_self_left, Nat.mod_eq_of_lt hb,
      Nat.add_mul_div_left _ _ (by decide), Nat.div_eq_of_lt hb, Nat.zero_add]

/-- Some of the bytes that a number is put together from. -/
theorem Memory.readN_div_mod (m : List Host.Cell) (a : Nat) {n j k : Nat} (h : j + k ≤ n) :
    Memory.readN m a n / 256 ^ j % 256 ^ k = Memory.readN m (a + j) k := by
  induction j generalizing a n with
  | zero => rw [Nat.pow_zero, Nat.div_one]; exact Memory.readN_mod m a (by omega)
  | succ j ih =>
    obtain ⟨n, rfl⟩ : ∃ i, n = i + 1 := ⟨n - 1, by omega⟩
    have hb := (Memory.byte m a).isLt
    rw [Memory.readN, Nat.pow_succ', ← Nat.div_div_eq_div_mul, Nat.add_mul_div_left _ _ (by decide), Nat.div_eq_of_lt hb, Nat.zero_add, ih (a + 1) (by omega),
      Nat.add_right_comm, Nat.add_assoc a]

/-! ### Masks of bytes -/

/-- The number whose bits below n are given. -/
def bitsBelow (p : Nat → Bool) (n : Nat) : Nat := (List.range n).foldl (fun m k => if p k then m + 2 ^ k else m) 0

theorem bitsBelow_succ (p : Nat → Bool) (n : Nat) : bitsBelow p (n + 1) = if p n then bitsBelow p n + 2 ^ n else bitsBelow p n := by
  rw [bitsBelow, List.range_succ, List.foldl_append]
  rfl

theorem bitsBelow_lt (p : Nat → Bool) (n : Nat) : bitsBelow p n < 2 ^ n := by
  induction n with
  | zero => exact Nat.one_pos
  | succ n ih =>
    rw [bitsBelow_succ, Nat.pow_succ]
    split <;> omega

theorem testBit_bitsBelow (p : Nat → Bool) {n j : Nat} (h : j < n) : (bitsBelow p n).testBit j = p j := by
  induction n with
  | zero => exact absurd h (Nat.not_lt_zero _)
  | succ n ih =>
    rw [bitsBelow_succ]
    rcases Nat.lt_succ_iff_lt_or_eq.mp h with hj | rfl
    · rw [← ih hj]
      split
      · rw [Nat.add_comm, Nat.testBit_two_pow_add_gt hj]
      · rfl
    · have hlow := Nat.testBit_lt_two_pow (bitsBelow_lt p j)
      split
      next hp => rw [Nat.add_comm, Nat.testBit_two_pow_add_eq, hlow, hp]; rfl
      next hp => rw [hlow, Bool.eq_false_iff.mpr hp]

/-- The bytes that a mask enables are those of the elements that it enables. -/
theorem State.testBit_byteMask (s : State) (mk : BitVec 4) (w : Nat) {j : Nat} (h : j < 64) : (s.byteMask mk w).toNat.testBit j = s.isOn mk (j / (w / 8)) := by
  have hmask : (s.byteMask mk w).toNat = bitsBelow (fun k => s.enabled mk (k / (w / 8))) 64 :=
    Nat.mod_eq_of_lt (bitsBelow_lt (fun k => s.enabled mk (k / (w / 8))) 64)
  rw [hmask, testBit_bitsBelow _ h, State.isOn_eq_enabled]

/-- A word of which the mask enables a byte is one that is accessed. -/
theorem byte_ne_zero_of_testBit {be j : Nat} (h : be.testBit j = true) : be / 2 ^ (8 * (j / 8)) % 256 ≠ 0 := by
  intro hz
  have hbit : (be / 2 ^ (8 * (j / 8)) % 2 ^ 8).testBit (j % 8) = be.testBit j := by
    rw [Nat.testBit_mod_two_pow, Nat.testBit_div_two_pow, decide_eq_true (by omega), Bool.true_and, show j % 8 + 8 * (j / 8) = j by omega]
  rw [show (256 : Nat) = 2 ^ 8 from rfl] at hz
  rw [hz, Nat.zero_testBit, h] at hbit
  cases hbit

end Sys2Proof.Machine
end

section
/-!
PROOFS. VLD and VST of the own local store under table 0, and the whole family of vector accesses (11 R182 to R186).
-/

namespace Sys2Proof.Machine

/-! ### The words of a vector access -/

/-- What a vector read returns of its word k. -/
def State.wideWord (s : State) (home be k : Nat) : Nat := if be / 2 ^ (8 * k) % 256 = 0 then 0 else Memory.readN s.mem (home + 8 * k) 8

theorem State.wideWord_lt (s : State) (home be k : Nat) : s.wideWord home be k < 2 ^ 64 := by
  rw [State.wideWord]
  split
  · exact Nat.two_pow_pos 64
  · exact Memory.readN_lt ..

/-- Digits from j on, below n, of a number in base B. -/
theorem mod_pow_div_mod {B : Nat} (x : Nat) {j k n : Nat} (h : j + k ≤ n) : x % B ^ n / B ^ j % B ^ k = x / B ^ j % B ^ k := by
  obtain ⟨i, rfl⟩ := Nat.exists_eq_add_of_le h
  rw [Nat.add_assoc, Nat.pow_add, Nat.mod_mul_right_div_self, Nat.mod_mod_of_dvd _ (Nat.pow_dvd_pow B (Nat.le_add_right k i))]

/-- Memory once a vector write has written its words. -/
def wideMem (m : List Host.Cell) (home be data : Nat) (ks : List Nat) : List Host.Cell :=
  ks.foldl (fun m k => Memory.writeN m (home + 8 * k) (data / 2 ^ (64 * k) % 2 ^ 64) (be / 2 ^ (8 * k) % 256) 8) m

theorem Memory.writeN_none (n : Nat) (m : List Host.Cell) (a v : Nat) : Memory.writeN m a v 0 n = m := by
  induction n generalizing a v with
  | zero => rfl
  | succ n ih => exact ih (a + 1) (v / 256)

theorem lsHome_add (n off k : Nat) : lsHome n (off + k) = lsHome n off + k := by unfold lsHome; omega

section
variable {s : State} {va : Word} (h : Free s va 64)
include h

theorem Free.wide_mem {k : Nat} (hk : k < 8) : va.toNat + 8 * k ∈ wordsAt va.toNat 64 := by
  have hal := h.aligned
  exact List.mem_map.mpr ⟨k, List.mem_range.mpr hk, by omega⟩

/-- The words of the access, under table 0. -/
theorem Free.wide_entry {k : Nat} (hk : k < 8) (kind : Nat) : s.entry s.cur.core (va.toNat + 8 * k) kind = 0 := by
  have hal := h.aligned
  refine State.entry_zero s _ _ _ ?_
  rw [show (va.toNat + 8 * k) / 0x1000 = va.toNat / 0x1000 by omega]
  exact h.identity

theorem Free.wide_read (be : Nat) {ks : List Nat} (hks : ∀ k ∈ ks, k < 8) (data : Nat) : s.wideSteps .read s.cur.core va.toNat 0 be data ks =
    ((ks.map fun k => s.wideWord (lsHome s.cur.core va.toNat) be k * (2 ^ 64) ^ k).sum, s) := by
  induction ks with
  | nil => rfl
  | cons k ks ih =>
    have hrest := ih fun j hj => hks j (List.mem_cons_of_mem _ hj)
    have hstep : ∀ home b8 v, s.wordStep .read home 0 8 b8 v 0 false = (Memory.readN s.mem home 8, s) := fun _ _ _ => rfl
    rw [List.map_cons, List.sum_cons, State.wideWord]
    simp only [State.wideSteps, h.wide_entry (hks k List.mem_cons_self), hstep, hrest]
    split
    · rw [Nat.zero_mul, Nat.zero_add]
    · rw [lsHome_add, Nat.pow_mul]

/-- A word of a vector write changes its enabled bytes and nothing else. -/
theorem Free.wide_word {k : Nat} (hk : k < 8) (v : Line) (be data : Nat) :
    (s.wordStep (.write v) (lsHome s.cur.core (va.toNat + 8 * k)) 0 8 be (data / 2 ^ (64 * k) % 2 ^ 64) 0 false).2 =
      s.withMem (Memory.writeN s.mem (lsHome s.cur.core va.toNat + 8 * k) (data / 2 ^ (64 * k) % 2 ^ 64) be 8) := by
  have hin := h.inside
  have hal := h.aligned
  have hcore := State.coreExists_lt h.core
  have hls : homeIsLs (lsHome s.cur.core (va.toNat + 8 * k) + 0) = true := homeIsLs_lsHome _ _ (by omega) (by omega)
  have hwaiters : ∀ x ∈ s.waiters, x.home ≠ wordOf (lsHome s.cur.core (va.toNat + 8 * k)) := fun x hx => by
    rw [show wordOf (lsHome s.cur.core (va.toNat + 8 * k)) = lsHome s.cur.core (va.toNat + 8 * k) by unfold lsHome wordOf; omega]
    exact (h.waiters x hx).2 _ (h.wide_mem hk)
  have hstep : ∀ home d, (s.wordStep (.write v) home 0 8 be d 0 false).2 = s.putNew home 0 8 be (some ((BitVec.ofNat 512 d).toNat % 256 ^ 8)) :=
    fun _ _ => rfl
  have hdata : (BitVec.ofNat 512 (data / 2 ^ (64 * k) % 2 ^ 64)).toNat = data / 2 ^ (64 * k) % 2 ^ 64 := by
    rw [BitVec.toNat_ofNat]
    exact Nat.mod_eq_of_lt (Nat.lt_of_lt_of_le (Nat.mod_lt _ (Nat.two_pow_pos 64)) (Nat.pow_le_pow_right (by decide) (by decide)))
  rw [hstep, hdata, State.putNew, State.writeBytes_ls _ _ _ _ _ hls]
  dsimp only
  rw [State.filter_poison (h.words _ (h.wide_mem hk)).2, ite_self, Memory.writeN_mod, Nat.add_zero, lsHome_add]
  exact State.wakeWord_none _ _ _ _ (by rw [← lsHome_add]; exact hwaiters)

theorem Free.wide_write (v : Line) (be data : Nat) {ks : List Nat} (hks : ∀ k ∈ ks, k < 8) : (s.wideSteps (.write v) s.cur.core va.toNat 1 be data ks).2 =
    s.withMem (wideMem s.mem (lsHome s.cur.core va.toNat) be data ks) := by
  induction ks generalizing s with
  | nil => rfl
  | cons k ks ih =>
    have hk := hks k List.mem_cons_self
    have hrest := fun m => ih (h.withMem m) fun j hj => hks j (List.mem_cons_of_mem _ hj)
    simp only [State.wideSteps, h.wide_entry hk]
    split
    next hz =>
      rw [show wideMem s.mem (lsHome s.cur.core va.toNat) be data (k :: ks) = wideMem s.mem (lsHome s.cur.core va.toNat) be data ks by
        rw [wideMem, List.foldl_cons, hz, Memory.writeN_none]; rfl]
      exact hrest s.mem
    next hz =>
      rw [h.wide_word hk]
      exact hrest _

end

/-- Bit j of byte n of a mask. -/
theorem bit_of_byte (be n : Nat) {j : Nat} (hj : j < 8) : be / 2 ^ (8 * n) % 256 / 2 ^ j % 2 = 1 ↔ be.testBit (8 * n + j) = true := by
  have hbit := Nat.testBit_eq_decide_div_mod_eq (x := be / 2 ^ (8 * n) % 2 ^ 8) (i := j)
  rw [Nat.testBit_mod_two_pow, Nat.testBit_div_two_pow, decide_eq_true hj, Bool.true_and, Nat.add_comm] at hbit
  rw [hbit, decide_eq_true_eq, show 2 ^ 8 = 256 from rfl]

/-- A vector write leaves the enabled bytes of its data, and every other byte as before. -/
theorem byte_wideMem (m : List Host.Cell) (home be data n a : Nat) : Memory.byte (wideMem m home be data (List.range n)) a =
    if home ≤ a ∧ a < home + 8 * n ∧ be.testBit (a - home) = true then BitVec.ofNat 8 (data / 256 ^ (a - home)) else Memory.byte m a := by
  induction n with
  | zero => rw [if_neg (by omega)]; rfl
  | succ n ih =>
    have hsucc : wideMem m home be data (List.range (n + 1)) =
        Memory.writeN (wideMem m home be data (List.range n)) (home + 8 * n) (data / 2 ^ (64 * n) % 2 ^ 64) (be / 2 ^ (8 * n) % 256) 8 := by
      rw [wideMem, List.range_succ, List.foldl_append]
      rfl
    rw [hsucc]
    by_cases hlow : a < home + 8 * n
    · rw [Memory.byte_writeN_outside _ _ _ _ _ _ (.inl hlow), ih]
      simp only [show a < home + 8 * (n + 1) ↔ a < home + 8 * n by omega]
    by_cases hhigh : home + 8 * (n + 1) ≤ a
    · rw [Memory.byte_writeN_outside _ _ _ _ _ _ (.inr (by omega)), ih, if_neg (by omega), if_neg (by omega)]
    · obtain ⟨j, hj, rfl⟩ : ∃ j, j < 8 ∧ a = home + 8 * n + j := ⟨a - (home + 8 * n), by omega, by omega⟩
      have hoff : home + 8 * n + j - home = 8 * n + j := by omega
      have hbit : be / 2 ^ (8 * n) % 256 / 2 ^ j % 2 = 1 ↔ be.testBit (8 * n + j) = true := bit_of_byte be n hj
      have hvalue : BitVec.ofNat 8 (data / 2 ^ (64 * n) % 2 ^ 64 / 256 ^ j) = BitVec.ofNat 8 (data / 256 ^ (8 * n + j)) := by
        refine BitVec.eq_of_toNat_eq ?_
        have hpow : 2 ^ (64 * n) = 256 ^ (8 * n) := by rw [show 256 = 2 ^ 8 from rfl, ← Nat.pow_mul, ← Nat.mul_assoc]
        rw [BitVec.toNat_ofNat, BitVec.toNat_ofNat, Nat.pow_add, ← Nat.div_div_eq_div_mul, ← hpow]
        exact mod_pow_div_mod (B := 256) _ (show j + 1 ≤ 8 from hj)
      rw [if_neg (by omega)] at ih
      rw [Memory.byte_writeN_inside _ _ _ _ _ _ hj, ih, hoff, hvalue]
      simp only [hbit, show home ≤ home + 8 * n + j ∧ home + 8 * n + j < home + 8 * (n + 1) by omega, true_and]

/-! ### VLD and VST (R183) -/

/-- The one access of a VLD or VST. -/
def vecAcc (va : Word) (be : BitVec 64) (op : WordOp) : Acc := { va := va, size := 64, be := be, op := op }

/-- The checks made where every element is masked off find nothing. -/
theorem Free.emptyChecks {s : State} {va : Word} (h : Free s va 64) (need : Need) : s.emptyChecks va need = .ok () s := by
  rw [State.emptyChecks, if_neg (not_not_intro h.aligned), h.place (by decide)]
  dsimp only
  rw [h.lsCheck]

/-- A vector access that nothing holds up is its words' steps. -/
theorem Free.ordinary_vec {s : State} {va : Word} (h : Free s va 64) (be : BitVec 64) (op : WordOp) : s.ordinary (vecAcc va be op) =
    .ok (BitVec.ofNat 512 (s.wideSteps op s.cur.core va.toNat (kindOf op false false) be.toNat op.data (List.range 8)).1)
      (s.wideSteps op s.cur.core va.toNat (kindOf op false false) be.toNat op.data (List.range 8)).2 := by
  have henact : ∀ k, s.enact s.myAgent s.cur.core va.toNat k (vecAcc va be op) = s.wideSteps op s.cur.core va.toNat k be.toNat op.data (List.range 8) := fun k => by
    rw [State.enact, Free.leave h, show (vecAcc va be op).size = 64 from rfl, if_pos (by decide)]
    rfl
  refine (Free.ordinary (a := vecAcc va be op) h (.inr rfl)).trans ?_
  rw [show (vecAcc va be op).va = va from rfl, show (vecAcc va be op).op = op from rfl, henact]

/-- The number that a vector read returns. -/
def State.wideValue (s : State) (home be : Nat) : Nat := ((List.range 8).map fun k => s.wideWord home be k * (2 ^ 64) ^ k).sum

theorem State.wideValue_lt (s : State) (home be : Nat) : s.wideValue home be < 2 ^ 512 := by
  have hlt := sum_digits_lt (n := 8) (s.wideWord home be) (s.wideWord_lt home be)
  rwa [← Nat.pow_mul] at hlt

/-- The elements of a vector: 64 bytes, none of them across two words. -/
theorem elemWidths_bytes : ∀ w ∈ elemWidths, 512 / w * (w / 8) = 64 := by decide

theorem elem_in_word {w : Nat} (hw : w ∈ elemWidths) (e : Nat) : e * (w / 8) % 8 + w / 8 ≤ 8 := by
  simp only [elemWidths, List.mem_cons, List.not_mem_nil, or_false] at hw
  rcases hw with rfl | rfl | rfl | rfl <;> omega

theorem elem_first_byte {w : Nat} (hw : w ∈ elemWidths) {e : Nat} (he : e < 512 / w) : e * (w / 8) < 64 := by
  have hlt := Nat.mul_lt_mul_of_pos_right he (elemWidths_size w hw).1
  rwa [elemWidths_bytes w hw] at hlt

/-- An element whose first byte is enabled is what its bytes hold. -/
theorem State.elemOf_wideValue (s : State) {w : Nat} (hw : w ∈ elemWidths) (off be : Nat) {e : Nat} (he : e < 512 / w)
    (hon : be.testBit (e * (w / 8)) = true) :
    elemOf w (BitVec.ofNat 512 (s.wideValue (lsHome s.cur.core off) be)) e = s.bytesAt (off + e * (w / 8)) (w / 8) := by
  have hlt := elem_first_byte hw he
  have hin := elem_in_word hw e
  have hword : s.wideValue (lsHome s.cur.core off) be / (2 ^ 64) ^ (e * (w / 8) / 8) % 2 ^ 64 =
      Memory.readN s.mem (lsHome s.cur.core off + 8 * (e * (w / 8) / 8)) 8 :=
    (sum_digits_div_mod (by omega) _ (s.wideWord_lt _ be)).trans (if_neg (byte_ne_zero_of_testBit hon))
  obtain ⟨-, -, hsize, -⟩ := elemWidths_size w hw
  have hbits : 2 ^ w = 256 ^ (w / 8) := by rw [show 256 = 2 ^ 8 from rfl, ← Nat.pow_mul, hsize]
  have hplace : 2 ^ (w * e) = (2 ^ 64) ^ (e * (w / 8) / 8) * 256 ^ (e * (w / 8) % 8) := by
    rw [Nat.pow_mul, hbits, ← Nat.pow_mul, show 2 ^ 64 = 256 ^ 8 from rfl, ← Nat.pow_mul, ← Nat.pow_add, Nat.div_add_mod, Nat.mul_comm]
  calc elemOf w (BitVec.ofNat 512 (s.wideValue (lsHome s.cur.core off) be)) e
      = s.wideValue (lsHome s.cur.core off) be / (2 ^ 64) ^ (e * (w / 8) / 8) / 256 ^ (e * (w / 8) % 8) % 256 ^ (w / 8) := by
        rw [elemOf, BitVec.toNat_ofNat, Nat.mod_eq_of_lt (s.wideValue_lt _ be), hplace, Nat.div_div_eq_div_mul, hbits]
    _ = Memory.readN s.mem (lsHome s.cur.core off + 8 * (e * (w / 8) / 8)) 8 / 256 ^ (e * (w / 8) % 8) % 256 ^ (w / 8) := by
        rw [← hword, ← mod_pow_div_mod (B := 256) (n := 8) _ hin, show 256 ^ 8 = 2 ^ 64 from rfl]
    _ = s.bytesAt (off + e * (w / 8)) (w / 8) := by
        rw [Memory.readN_div_mod _ _ hin, Nat.add_assoc, Nat.div_add_mod, ← lsHome_add, State.readN_own]

/-- The addresses of the elements of a vector. -/
theorem Free.elem_address {s : State} {va : Word} (h : Free s va 64) {i : Nat} (hi : i < 64) : (va + BitVec.ofNat 64 i).toNat = va.toNat + i := by
  have hin := h.inside
  rw [BitVec.toNat_add, BitVec.toNat_ofNat]
  omega

/-- The bytes that a mask enables none of belong to elements that are masked off. -/
theorem State.isOn_of_byteMask_zero {s : State} {mk : BitVec 4} {w : Nat} (h : s.byteMask mk w = 0) {j : Nat} (hj : j < 64) : s.isOn mk (j / (w / 8)) = false := by
  rw [← State.testBit_byteMask s mk w hj, h]
  exact Nat.zero_testBit j

/-- A vector in which the elements that are masked off are zero. -/
def State.maskedVec (s : State) (w : Nat) (mk : BitVec 4) (v : Line) : Line :=
  packElems w ((List.range (512 / w)).map fun e => if s.enabled mk e then elem w v e else 0)

theorem State.elemOf_maskedVec (s : State) {w : Nat} (hw : w ∈ elemWidths) (mk : BitVec 4) (v : Line) {e : Nat} (he : e < 512 / w) :
    elemOf w (s.maskedVec w mk v) e = if s.isOn mk e then elemOf w v e else 0 := by
  rw [State.maskedVec, elemOf_packed hw _ he, ← State.isOn_eq_enabled, elem_eq_elemOf]
  split
  · exact Nat.mod_eq_of_lt (elemOf_lt ..)
  · exact Nat.zero_mod _

section
variable {s : State} {vd : VReg} {b : SReg} {mk : BitVec 4} {ew : BitVec 2} {off : Word} (h : Free s (s.rs b + off) 64)
include h

theorem State.vload_free (hp : s.portsOpen [b] [] [] [vd] = true) :
    ∃ v, Loads s v (widthOf ew) mk (fun e => s.rs b + off + BitVec.ofNat 64 (e * (widthOf ew / 8))) ∧ s.vload vd b mk ew false off = .next (s.setV [b] [] vd v) := by
  have hw := ewBits_mem ew
  obtain ⟨h0, -⟩ := elemWidths_size _ hw
  have hacc := h.ordinary_vec (s.byteMask mk (ewBits ew)) .read
  rw [show kindOf .read false false = 0 from rfl, h.wide_read _ (fun k hk => List.mem_range.mp hk)] at hacc
  rw [widthOf_eq]
  by_cases hzero : s.byteMask mk (ewBits ew) = 0
  · refine ⟨0, fun e he => ?_, ?_⟩
    · have hoff := State.isOn_of_byteMask_zero hzero (elem_first_byte hw he)
      rw [Nat.mul_div_cancel _ h0] at hoff
      rw [hoff]
      simp [elemOf]
    · simp only [State.vload, State.memPorts_open hp, Res.bind_ok, hzero, beq_self_eq_true, if_true, h.emptyChecks, Res.finish_ok]
  · refine ⟨s.maskedVec (ewBits ew) mk (BitVec.ofNat 512 (s.wideValue (lsHome s.cur.core (s.rs b + off).toNat) (s.byteMask mk (ewBits ew)).toNat)),
      fun e he => ?_, ?_⟩
    · have hfirst := elem_first_byte hw he
      have hbit := State.testBit_byteMask s mk (ewBits ew) hfirst
      rw [Nat.mul_div_cancel _ h0] at hbit
      rw [State.elemOf_maskedVec s hw mk _ he, h.elem_address hfirst]
      split
      next hon => exact s.elemOf_wideValue hw _ _ he (hbit.trans hon)
      next => rfl
    · simp only [State.vload, State.memPorts_open hp, Res.bind_ok, beq_false_of_ne hzero, Bool.false_eq_true, if_false]
      refine (congrArg (fun r => Res.finish (Res.bind r _)) hacc).trans ?_
      rw [Res.bind_ok, Res.finish_ok]
      rfl

theorem State.vstore_free (hp : s.portsOpen [b] [] [vd] [] = true) : ∃ m : List Host.Cell,
    s.vstore vd b mk ew false off = .next ((s.withMem m).pops [b] [vd]).retire ∧
      (∀ k, k < 64 → Memory.byte m (lsHome s.cur.core (s.rs b + off).toNat + k) = if s.isOn mk (k / (widthOf ew / 8)) then BitVec.ofNat 8 ((s.rv vd).toNat / 256 ^ k)
        else Memory.byte s.mem (lsHome s.cur.core (s.rs b + off).toNat + k)) ∧
      ∀ a, a < lsHome s.cur.core (s.rs b + off).toNat ∨ lsHome s.cur.core (s.rs b + off).toNat + 64 ≤ a → Memory.byte m a = Memory.byte s.mem a := by
  have hmask := fun k (hk : k < 64) => State.testBit_byteMask s mk (ewBits ew) hk
  have hacc := h.ordinary_vec (s.byteMask mk (ewBits ew)) (.write (s.rv vd))
  have hwrite := h.wide_write (s.rv vd) (s.byteMask mk (ewBits ew)).toNat (s.rv vd).toNat (ks := List.range 8) fun k hk => List.mem_range.mp hk
  rw [widthOf_eq]
  by_cases hzero : s.byteMask mk (ewBits ew) = 0
  · refine ⟨s.mem, ?_, fun k hk => by rw [State.isOn_of_byteMask_zero hzero hk]; rfl, fun _ _ => rfl⟩
    simp only [State.vstore, State.memPorts_open hp, Res.bind_ok, hzero, beq_self_eq_true, if_true, h.emptyChecks, Res.finish_ok]
    rfl
  · refine ⟨wideMem s.mem (lsHome s.cur.core (s.rs b + off).toNat) (s.byteMask mk (ewBits ew)).toNat (s.rv vd).toNat (List.range 8), ?_, fun k hk => ?_,
      fun a ha => by rw [byte_wideMem, if_neg (by omega)]⟩
    · simp only [State.vstore, State.memPorts_open hp, Res.bind_ok, beq_false_of_ne hzero, Bool.false_eq_true, if_false]
      refine (congrArg (fun r => Res.finish (Res.bind r _)) hacc).trans ?_
      rw [Res.bind_ok, Res.finish_ok]
      exact congrArg (fun t => Host.Outcome.next (State.retire (State.pops t [b] [vd]))) hwrite
    · rw [byte_wideMem, Nat.add_sub_cancel_left, hmask k hk]
      simp only [show lsHome s.cur.core (s.rs b + off).toNat ≤ lsHome s.cur.core (s.rs b + off).toNat + k ∧
        lsHome s.cur.core (s.rs b + off).toNat + k < lsHome s.cur.core (s.rs b + off).toNat + 8 * 8 by omega, true_and]

end

/-- Settles O18: a contiguous access is its words' steps (Free.ordinary_vec), the others are their elements' accesses in turn (State.elements_reads and
State.elements_writes), and the progress of an instruction does not show in what it leaves (Carries.retire). -/
theorem vectorMemoryResults : Obligations.vector_memory_results := by
  unfold Obligations.vector_memory_results
  refine ⟨fun s vd b mk ew => ⟨fun i off hi hp h => ?_, fun i off hi hp h => ?_⟩, fun s vd b c cv mk ew sc x64 => ?_⟩
  · have hexec : exec i s = s.vload vd b mk ew false off := by
      rcases hi with ⟨rfl, rfl⟩ | ⟨j, rfl, rfl⟩ | ⟨j, rfl, rfl⟩ <;> rfl
    rw [hexec]
    exact State.vload_free (State.free_of_plain h) hp
  · have hexec : exec i s = s.vstore vd b mk ew false off := by
      rcases hi with ⟨rfl, rfl⟩ | ⟨j, rfl, rfl⟩ | ⟨j, rfl, rfl⟩ <;> rfl
    obtain ⟨m, hm, hin, hout⟩ := State.vstore_free (mk := mk) (ew := ew) (State.free_of_plain h) hp
    exact ⟨s.withMem m, hexec.trans hm, rfl, hin, hout⟩
  · intro w gw at_ ix
    have hw : w ∈ elemWidths := by simp only [w, widthOf_eq]; exact ewBits_mem ew
    have hgw : gw = gatherBits x64 := (gatherBits_eq x64).symm
    have hix : ∀ sh : Nat, ix sh = s.indexedAt b cv x64 sh := fun _ => rfl
    refine ⟨fun i off hi hp h hc hr hd => ?_, fun i off hi hp h hc hr hd => ?_, fun i sh hi hp h hc hr hd => ?_, fun i sh hi hp h hc hr hd => ?_⟩
    · have hexec : exec i s = s.vloads vd [b, c] [] (ewBits ew) false (fun t => t.strided b c mk ew off) := by
        rcases hi with ⟨rfl, rfl⟩ | ⟨j, rfl, rfl⟩ | ⟨j, rfl, rfl⟩ <;> rfl
      rw [hexec, ← widthOf_eq]
      exact State.vloads_free hw h hc hr hd (State.strided_eq s b c mk ew off) hp
    · have hexec : exec i s = s.vstores vd [b, c] [] (ewBits ew) false (fun t => t.strided b c mk ew off) := by
        rcases hi with ⟨rfl, rfl⟩ | ⟨j, rfl, rfl⟩ | ⟨j, rfl, rfl⟩ <;> rfl
      rw [hexec, ← widthOf_eq]
      exact State.vstores_free hw h hc hr hd (State.strided_eq s b c mk ew off) hp
    · obtain ⟨k, hk, hexec⟩ : ∃ k : BitVec 2, sh = k.toNat ∧ exec i s = s.vloads vd [b] [cv] (gatherBits x64) false (fun t => t.indexed b cv mk x64 k) := by
        rcases hi with ⟨rfl, rfl⟩ | ⟨rfl, rfl⟩
        · exact ⟨0, rfl, rfl⟩
        · exact ⟨sc, rfl, rfl⟩
      rw [hexec]
      rw [hk, hgw] at h ⊢
      exact State.vloads_free (gatherBits_mem x64) h hc hr hd (State.indexed_eq s b cv mk x64 k) hp
    · obtain ⟨k, hk, hexec⟩ : ∃ k : BitVec 2, sh = k.toNat ∧ exec i s = s.vstores vd [b] [cv] (gatherBits x64) false (fun t => t.indexed b cv mk x64 k) := by
        rcases hi with ⟨rfl, rfl⟩ | ⟨rfl, rfl⟩
        · exact ⟨0, rfl, rfl⟩
        · exact ⟨sc, rfl, rfl⟩
      rw [hexec]
      rw [hk, hgw] at h ⊢
      exact State.vstores_free (gatherBits_mem x64) h hc hr hd (State.indexed_eq s b cv mk x64 k) hp

end Sys2Proof.Machine
end
